-- ==== Sys2Proof/Word.lean ====
section
/-! DEFINITION. The word types of the Z96 and the plainest arithmetic on them: bytes, 32-bit registers,
saturating counters (R10, R107, the RC count fields) and little-endian composition (R4). -/

namespace Sys2Proof

/-- A byte of memory, of a capsule or of a frame (R4). -/
abbrev Byte := BitVec 8

/-- A Control-space register value (Scope: "a 24-bit byte-addressed space of 32-bit registers"). -/
abbrev Word := BitVec 32

/-- A Control-space address (Control space index, Model). -/
abbrev CsAddr := BitVec 24

/-- A requester identity, Table GLB-4 (R17). -/
abbrev Identity := BitVec 8

/-- One 4,096-byte logical block, as its bytes. -/
abbrev Block := List Byte

/-- `n + k`, saturating at `top`: the meaning of every field the spec calls "saturating at". -/
def satAdd (top n k : Nat) : Nat := min top (n + k)

/-- The word whose bits [lo + w - 1 : lo] hold `v`, and whose other bits are 0. -/
def bitsAt (lo w v : Nat) : Word := BitVec.ofNat 32 ((v % 2 ^ w) * 2 ^ lo)

/-- Bit `lo` set when `b` holds. -/
def flagAt (lo : Nat) (b : Bool) : Word := if b then BitVec.ofNat 32 (2 ^ lo) else 0

/-- Bits [lo + w - 1 : lo] of a register value, as a number. -/
def field (v : Word) (lo w : Nat) : Nat := v.toNat / 2 ^ lo % 2 ^ w

/-- The lower and upper 32-bit halves of a 64-bit quantity, for the LO and HI register pairs. -/
def loHalf (n : Nat) : Word := BitVec.ofNat 32 n
def hiHalf (n : Nat) : Word := BitVec.ofNat 32 (n / 2 ^ 32)

end Sys2Proof
end

