-- ==== Sys2Proof/Syntax.lean ====
section
/-! DEFINITION. The commands of the Z96: one constructor of `Instr` per row of spec/opcode_table.json, and the
types of their operands. An operand is a fact the command brings from outside the block (a host, the board, the
NAND, a clock, a stack neighbour); everything else a command needs stands in the state. -/

namespace Sys2Proof

/-- The two USB host ports (R305). -/
inductive Port where
  | a | b
deriving DecidableEq, Repr

/-- Who a command or request belongs to: a host on a port, or a host on another stack member reaching this
device's arbiter through input 2 (R613). -/
inductive Origin where
  | port (p : Port)
  | ring (pos : Nat)
deriving DecidableEq, Repr

/-- A SCSI command or credential capsule in flight, named by its origin, its Plot and its tag. -/
structure TaskKey where
  origin : Origin
  plot : Nat
  tag : Nat
deriving DecidableEq, Repr

/-- The direction of a block through a cipher engine (R57). -/
inductive CipherDir where
  | encrypt | decrypt
deriving DecidableEq, Repr

/-- The envelope stored with each logical block (Glossary, Table GLB-5 step 5). -/
structure Envelope where
  plot : Nat
  lba : Nat
  order : Nat
  stamp : Nat
  crc : Nat
deriving DecidableEq, Repr

/-- The finding of the checks of R70 after a first envelope failure. -/
inductive EnvVerdict where
  | secondPasses      -- the second engine's result passes
  | rebuiltPasses     -- the second fails, the block rebuilt from parity passes
  | rebuiltFails      -- the rebuilt block fails as well
deriving DecidableEq, Repr

/-- What a request presented to the arbiter asks for (Table ARB-2). -/
inductive ArbKind where
  | numbered (cls : Nat)     -- write, discard, flush, SANITIZE, PUT, DELETE: a number and a ticket
  | horizon (cls : Nat)      -- read, GET, LIST: a horizon and a ticket
  | ticket (cls : Nat)       -- internal work: a ticket only
  | control                  -- a Control-space access: a position only
deriving DecidableEq, Repr

/-- One raised arbiter input of Table ARB-1 in a tick. A command's own row presents it and draws its ticket; a request here
stands for one whose row is not in the queue, so its ticket comes back by ARBITER_GRANT's third operand. -/
structure ArbReq where
  input : Nat
  kind : ArbKind
  bot : Bool            -- class 0 or 1: the command runs under BOT, so R53 holds it instead of ending it
  credential : Bool     -- class 0 or 1: a credential capsule, so R53 ends it with BUSY
deriving DecidableEq, Repr

/-- What the two arbiter trees agree on in a tick (R36, R662). -/
structure TreeAgreement where
  winnerAndPointer : Bool
  orderAndTicket : Bool
deriving DecidableEq, Repr

/-- What a tick of the arbiter finds: what its trees agree on, and the tickets of earlier grants that have returned (R52). -/
structure ArbTick where
  trees : TreeAgreement
  returned : List Nat
deriving DecidableEq, Repr

/-- A channel's slot: the sweep's test strip, or a ZQ calibration (R80, R502). -/
inductive SlotKind
  | strip
  | zq
deriving DecidableEq, Repr

/-- PORT_SUSPEND set or cleared for an embedded port (R259). -/
structure SuspendChange where
  k : Nat
  on : Bool
deriving DecidableEq, Repr

/-- What the decoder makes of the units one READ brought in (R483, R484): the bits a hard decode corrected, or none when it
failed; the unsatisfied checks a failed hard decode left; and whether a soft decode over this read and the soft reads before
it succeeds. -/
structure PageDecode where
  hard : Option Nat
  checks : Nat
  soft : Bool
  most : Nat                  -- the most bits a hard decode corrected in one of its codewords, of those that decoded (R483)
deriving DecidableEq, Repr

/-- Source of a LOOP count, Table CHN-4. -/
inductive LoopSrc where
  | imm (n : Nat) | npl | nbit | nce | v (k : Nat)
deriving DecidableEq, Repr

/-- KIND of an ADDR word, Table CHN-4. -/
inductive AddrKind where
  | col | row | colRow | lun | imm (byte : Byte)
deriving DecidableEq, Repr

/-- SRC of a DOUT word, Table CHN-4. -/
inductive DoutSrc where
  | page | v (k : Nat) | retryLo | retryHi | zero
deriving DecidableEq, Repr

/-- DST of a DIN word, Table CHN-4, with the data the die returns. -/
inductive DinDst where
  | page (decode : PageDecode)
  | status (value : Byte)
  | v (k : Nat) (value : Word)
deriving DecidableEq, Repr

/-- IFACE of a MODE word, Table CHN-4. -/
inductive IfaceKind where
  | sdr | nvDdr3 | toggle
deriving DecidableEq, Repr

/-- The lanes of the sweep, Table SAF-4 and R108. -/
inductive Lane where
  | channel | cipher | structural
deriving DecidableEq, Repr

/-- The result of one test strip: pass, or the strip and step that mismatched (Table SAF-8). -/
inductive StripResult where
  | pass
  | fail (strip step : Nat)
deriving DecidableEq, Repr

/-- The five supply rails of Table ELE-14, in the bit order of `SAF_RAIL`. -/
inductive Rail where
  | vddCore | vddSram | vccq | vdd1v8 | vdd3v3
deriving DecidableEq, Repr

/-- The two layout slots. -/
inductive Slot where
  | a | b
deriving DecidableEq, Repr

/-- The Granary slot-read facts of a verification that the array, not the image, decides (R160). -/
structure SlotRead where
  readsAgree : Bool       -- the two reads give one digest and one signature block
  correctable : Bool      -- no code word of the image is uncorrectable
deriving DecidableEq, Repr

/-- What one Seed word gave at the three margins (Table GRN-7). -/
inductive SeedMargin where
  | primary | copyUsed | neither
deriving DecidableEq, Repr

/-- What one Field's recovery found on the medium (Table FIX-6): the release sequence numbers whose page does not decode,
directly or by rebuild (R463), and the contact sheet's readability. -/
structure ReplayFacts where
  contactReadable : Bool
  badEntries : List Nat       -- SEQs of contact-sheet entries whose CRC is valid in neither copy (R461)
  missing : List Nat          -- RSEQs whose page was not found (R463)
  pagesRead : Nat
  timeMs : Nat
deriving DecidableEq, Repr

/-- What the start finds outside the state: the reference form, the rows of the Granary, NAND discovery and the
horizon scan (Table PWR-3). -/
structure StartFacts where
  calRowA : Bool              -- copy 0 of the calibration row is valid (R534)
  calRowB : Bool
  seed : List SeedMargin      -- Seed words 0 to 31 in order (R531)
  slotA : SlotRead
  slotB : SlotRead
  initFailed : List Nat       -- channels whose RESET or INIT fails in step 7 (R197)
  factoryBad : List (Nat × Nat × Nat)  -- (channel, die, block) marked at first use (R433)
  structsLost : List (Nat × Nat)  -- (structure, sector) of structures of which no copy reads valid (GRN_BOTH, Table SAF-8)
  entropyOk : Bool            -- the start-up test of the entropy source (R358)
  clock : Bool                -- a clock was seen on XTAL_IN with the amplifier off (R640)
  attachUs : Nat              -- time from release of reset to step 10
deriving DecidableEq, Repr

/-- The five reset buttons of Table PWR-2 as a cause code of `PWR_RST_CAUSE`. -/
inductive ResetCause where
  | powerOn | resetN | regA | regB | regStack | jtag | offWake
deriving DecidableEq, Repr

/-- The kinds of upstream reset (R229). -/
inductive UpReset where
  | bus | warm | hot
deriving DecidableEq, Repr

/-- The USB speed classes as `PRT_STAT`.SPEED codes them. -/
inductive UsbSpeed where
  | none | full | high | gen1x1 | gen2x1 | gen2x2
deriving DecidableEq, Repr

/-- A standard feature of SET_FEATURE or CLEAR_FEATURE: of the device or hub (R243), or the halt of an endpoint. -/
inductive DeviceFeature where
  | remoteWake | u1Enable | u2Enable
  | endpointHalt (k ep : Nat)
deriving DecidableEq, Repr

/-- Which function on a port a capsule endpoint belongs to. -/
inductive CapsuleFn where
  | management
  | credential (plot : Nat)
deriving DecidableEq, Repr

/-- One register entry of a REG capsule or a REG frame (Table FNC-5). -/
structure RegEntry where
  addr : CsAddr
  op : Nat
  value : Word
deriving DecidableEq, Repr

/-- A capsule header field as it arrived, for the checks of Table FNC-2 (R262). -/
structure CapsuleRaw where
  bytes : Nat           -- bytes received in the transfer
  magicOk : Bool
  version : Byte
  opcode : Byte
  flags : BitVec 16
  length : Nat
  tag : Nat
  order : Nat
  status : Nat
  detail : Nat
  crcOk : Bool
  payload : List Byte
deriving DecidableEq, Repr

/-- The task-attribute and FUA side of a SCSI command. -/
structure CdbFlags where
  fua : Bool
  protect : Nat         -- RDPROTECT or WRPROTECT
  group : Nat
  reserved : Bool       -- some reserved or unsupported CDB field is set
deriving DecidableEq, Repr

/-- The task attribute of a UAS command IU (R294). -/
inductive TaskAttribute where
  | simple | ordered | headOfQueue | aca
deriving DecidableEq, Repr

/-- How a SCSI command reached a Volume Plot (R294, R295): under BOT, or in a UAS command IU with its task attribute and its
ADDITIONAL CDB LENGTH. -/
inductive Transport where
  | bot
  | uas (attr : TaskAttribute) (additional : Nat)
deriving DecidableEq, Repr

/-- The transport that carries a command, and whether some reserved or unsupported field of its CDB is set beyond those that are
operands. -/
structure Carried where
  tr : Transport
  reserved : Bool
deriving DecidableEq, Repr

/-- A command as it arrives: its key, the transport that carries it, and whether some reserved or unsupported field of its CDB
is set beyond those that are operands. -/
structure Arrival where
  key : TaskKey
  tr : Transport
  reserved : Bool
deriving DecidableEq, Repr

/-- A command IU with nothing of R294 against it, as the ring carries a member's command. -/
def Transport.plain : Transport := .uas .simple 0

/-- One UNMAP block descriptor. -/
structure UnmapDesc where
  lba : Nat
  count : Nat
deriving DecidableEq, Repr

/-- The four stack frame directions: link UP or DN (R580). -/
inductive Link where
  | up | dn
deriving DecidableEq, Repr

/-- The link- and routing-level header of a stack frame, Table STK-2. -/
structure FrameHdr where
  link : Link
  bcast : Bool
  resp : Bool
  rerouted : Bool
  upstream : Bool
  dest : Nat
  src : Nat
  lseq : Nat
  lack : Nat
  ackv : Bool
  hops : Nat
  credit : Nat
  tag : Nat
deriving DecidableEq, Repr

/-- An enumeration entry, Table STK-4. -/
structure EnumEntry where
  serial : Nat
  member : Nat
  stepping : Nat
  plots : Nat
  role : Nat
  stackId : Nat
  fdig : Nat
  stackMax : Nat
deriving DecidableEq, Repr

/-- The contents of a BLK_HEAD payload, Table STK-3. -/
structure BlkHead where
  order : Nat
  lba : Nat
  medium : Bool
  check : Bool
  plot : Nat
  bank : Nat
  slot : Nat
  env : Envelope
deriving DecidableEq, Repr

/-- What an IO_REQ carries (Table STK-3): a CDB, reduced to what the master decides on, or a vault capsule. -/
inductive IoRequest where
  | write (lba count : Nat) (fua : Bool)
  | read (lba count : Nat)
  | flush (lba count : Nat)  -- SYNCHRONIZE CACHE
  | stop                     -- START STOP UNIT with START = 0
  | unmap (descs : List UnmapDesc)
  | sanitize (immed : Bool)
  | unlock (mode : Nat) (secret : List Byte)
  | lock (mode : Nat)
  | setSecret (new : List Byte)
  | rewrap (old new : List Byte)
  | plain (cdb : List Byte)  -- any other CDB: a command with no data-path work
deriving DecidableEq, Repr

/-- A page tag as BREC, SCAN_RSP and PAGE_REL carry it (Table FIX-1). -/
structure PageTag where
  rseq : Nat
  stamp : Nat
  fixcount : Nat
  fieldNo : Nat
  kind : Nat
deriving DecidableEq, Repr

/-- A block record as BREC carries it (Table MED-1). -/
structure BlockRec where
  pe : Nat              -- erase count, 24 bits, saturating
  state : Nat           -- 0 erased, 1 open, 2 closed, 3 fallow, 4 retired, 5 factory bad
  slc : Bool
  gen : Bool
  doseSat : Bool
  due : Bool
  weak : Bool
  closeFix : Nat
  dose : Nat            -- 40 bits
  reads : Nat           -- 24 bits, saturating
  cls : Nat             -- heat class of the block's set
  lastOk : Option Nat   -- LASTOK with VALID
  why : Nat             -- cause of DUE
deriving DecidableEq, Repr

/-- The commands of the Z96, one constructor per row of the table, in the table's order. -/
inductive Instr where
  -- Control space
  | registerWrite (id : Identity) (addr : CsAddr) (value : Word)
  | rsvdAccess (id : Identity) (addr : CsAddr) (write : Bool)
  | rcRead (id : Identity) (addr : CsAddr) (sameTick : Word)
  | snapshotRead (id : Identity) (addr : CsAddr)
  -- arbiter, handshakes, cipher engines
  | arbiterGrant (reqs : List ArbReq) (tick : ArbTick)
  | watchdogExpiry (requester responder : Nat)
  | blockReceived (key : TaskKey) (idx : Nat) (dir : CipherDir) (data : Block) (env : Envelope)
  | echoCheckDone (engine : Nat) (pass : Bool)
  | decryptDone (engine : Nat) (tagOk : Bool) (verdict : EnvVerdict) (portCrcOk : Bool)
  -- recipe words and the sequencer
  | enter (ch die : Nat) (tmo err : Nat)
  | cmd (ch die : Nat) (byte : Byte) (wait : Bool) (busy : Nat) (last : Bool)
  | cmdl (ch die : Nat) (notLast lastB : Byte) (level : Nat) (none wait waitLast : Bool) (busy : Nat) (last : Bool)
  | addr (ch die : Nat) (kind : AddrKind) (last : Bool)
  | dout (ch die : Nat) (src : DoutSrc) (last : Bool)
  | din (ch die : Nat) (dst : DinDst) (colSel : Bool) (last : Bool)
  | wait (ch die : Nat) (t : Nat) (last : Bool)
  | waitElapsed (ch die : Nat) (status : Byte)
  | poll (ch die : Nat) (byte : Byte) (busy : Nat) (lunAddr : Bool) (last : Bool)
  | statusPoll (ch die : Nat) (status : Byte)
  | test (ch die : Nat) (mask : Byte) (sense : Bool) (target : Nat) (last : Bool)
  | loop (ch die : Nat) (src : LoopSrc)
  | next (ch die : Nat)
  | jump (ch die : Nat) (target : Nat)
  | mode (ch die : Nat) (iface : IfaceKind) (tmode : Nat) (last : Bool)
  | setv (ch die : Nat) (k : Nat) (high : Bool) (value : BitVec 16) (last : Bool)
  | fail (ch die : Nat)
  | end_ (ch die : Nat)
  | recipeTimeout (ch die : Nat)
  -- Field and media
  | fixPointRecorded (field : Nat)
  | doseTick
  -- safety monitor
  | freqMonitorWindow (island count : Nat) (clockChanged : Bool)
  | referenceLoss
  | sofWindow (countA countB : Option Nat)
  | railFault (rail : Rail) (millivolt : Nat)
  | tempSample (readings : List Int)
  | sweepSlot (lane : Lane)
  | cipherQueueDrained (engine : Nat)
  | testStripDone (lane : Lane) (result : StripResult) (comparatorFlagged : Bool)
  | sweepSlotEnd (ch : Nat) (slot : SlotKind)
  | safDeep (id : Identity) (start : Bool) (lanes : Nat)
  | recover (id : Identity) (scope inst : Nat)
  | recoverAll (id : Identity)
  | recoverDone (strips : List (Nat × StripResult)) (startupTestOk : Bool) (diesOk : Bool)
  | tamper
  | testEn
  | entropy (failedTest : Option Nat)
  -- layout
  | layVerify (id : Identity) (slot : Slot)
  | warmActivation (id : Identity) (slot : Slot)
  | coldActivation (id : Identity) (slot : Slot)
  | slotVerified (read : SlotRead)
  | commitGrant
  | developmentComplete (facts : StartFacts)
  -- reset, start, power
  | powerOn
  | railDip (rail : Rail)
  | resetN (lowNs : Nat)
  | pwrReset (id : Identity) (key : BitVec 16)
  | offWake
  | referenceDetected (facts : StartFacts)
  | fieldReplayDone (field : Nat) (facts : ReplayFacts)
  | pwrLit (id : Identity)
  | pwrDim (id : Identity)
  | pwrDark (id : Identity)
  | pwrOff (id : Identity)
  | setTarget (id : Identity) (target : Nat)
  -- USB
  | usbSuspend (p : Port)
  | usbResume (p : Port)
  | remoteWakeRepeat (p : Port)
  | gpioSample (levels : BitVec 8)
  | vbusDetect (p : Port) (flip : Bool)
  | vbusLoss (p : Port)
  | ssTrainingDone (p : Port) (partner : UsbSpeed) (lanes : Nat)
  | ssTrainingTimeout (p : Port)
  | usb2BusReset (p : Port) (hostChirps : Bool)
  | upstreamReset (p : Port) (kind : UpReset)
  | bulkOutPacket (p : Port) (k ep : Nat)
  | ping (p : Port) (k ep : Nat)
  | sofReceived (p : Port) (number : Nat)
  | sofTimeout (p : Port)
  | u1U2Entry (p : Port) (u2 : Bool)
  | lpmToken (p : Port)
  | unsupportedRequest (p : Port) (k : Nat)
  | setConfiguration (p : Port) (k : Nat) (value : Nat)
  | setInterface (p : Port) (k : Nat) (alt : Nat)
  | clearEndpointHalt (p : Port) (k ep : Nat)
  | hubStatusPoll (p : Port)
  | clearPortPower (p : Port) (k : Nat)
  | setPortPower (p : Port) (k : Nat)
  | portReset (p : Port) (k : Nat)
  | bhPortReset (p : Port) (k : Nat)
  | embPortResetDone (p : Port) (k : Nat)
  | clearPortEnable (p : Port) (k : Nat)
  | portSuspend (p : Port) (u : SuspendChange)
  | clearCPortConnection (p : Port) (k : Nat)
  | clearTtBuffer (p : Port)
  | resetTt (p : Port)
  -- management capsules and vault
  | info (p : Port) (tag : Nat)
  | reg (p : Port) (tag : Nat) (entries : List RegEntry)
  | regEntry (p : Port)
  | echo (p : Port) (tag : Nat) (payload : List Byte)
  | unlock (p : Port) (tag plot mode : Nat) (secret : List Byte)
  | retryCounted (plot : Nat)
  | keyRecordWritten (plot : Nat)
  | lock (p : Port) (tag plot : Nat)
  | lockDemote (p : Port) (tag plot : Nat)
  | setSecret (p : Port) (tag plot : Nat) (new : List Byte)
  | rewrap (p : Port) (tag plot : Nat) (old new : List Byte)
  -- SCSI
  | testUnitReady (a : Arrival)
  | requestSense (a : Arrival) (desc : Bool) (alloc : Nat)
  | inquiry (a : Arrival) (evpd : Bool) (page : Nat) (alloc : Nat)
  | reportLuns (a : Arrival) (select alloc : Nat)
  | readCapacity10 (a : Arrival)
  | readCapacity16 (a : Arrival) (alloc : Nat)
  | read10 (key : TaskKey) (tr : Transport) (lba : BitVec 32) (length : BitVec 16) (fl : CdbFlags)
  | read16 (key : TaskKey) (tr : Transport) (lba : BitVec 64) (length : BitVec 32) (fl : CdbFlags)
  | write10 (key : TaskKey) (tr : Transport) (lba : BitVec 32) (length : BitVec 16) (fl : CdbFlags)
  | write16 (key : TaskKey) (tr : Transport) (lba : BitVec 64) (length : BitVec 32) (fl : CdbFlags)
  | synchronizeCache10 (key : TaskKey) (tr : Transport) (lba : BitVec 32) (count : BitVec 16) (immed : Bool) (fl : CdbFlags)
  | synchronizeCache16 (key : TaskKey) (tr : Transport) (lba : BitVec 64) (count : BitVec 32) (immed : Bool) (fl : CdbFlags)
  | unmap (key : TaskKey) (tr : Transport) (anchor : Bool) (paramLength : Nat) (fl : CdbFlags)
  | unmapParameterList (key : TaskKey) (wellFormed : Bool) (descs : List UnmapDesc)
  | sanitize (key : TaskKey) (c : Carried) (serviceAction : Nat) (immed : Bool) (paramLength : Nat)
  | sanitizeComplete (plot : Nat)
  | startStopUnitStop (key : TaskKey) (c : Carried) (powerCondition : Nat)
  | startStopUnitStart (a : Arrival) (powerCondition : Nat)
  | modeSense10 (a : Arrival) (pageControl page alloc : Nat)
  | securityProtocolIn (a : Arrival) (protocol specific alloc : Nat)
  | unsupportedCdb (a : Arrival) (opcode : Nat)
  | abortTask (key : TaskKey)
  | abortTaskSet (key : TaskKey)
  | clearTaskSet (key : TaskKey)
  | logicalUnitReset (key : TaskKey)
  | iTNexusReset (key : TaskKey)
  | queryTask (key : TaskKey)
  | massStorageReset (p : Port) (plot : Nat)
  | getMaxLun (p : Port) (plot : Nat)
  -- credential capsules
  | put (key : TaskKey) (mode : Nat) (name value : List Byte) (fua : Bool)
  | get (key : TaskKey) (name : List Byte)
  | list (key : TaskKey) (after : List Byte) (max : Nat)
  | delete (key : TaskKey) (name : List Byte) (fua : Bool)
  -- semaphores
  | semTake (id : Identity) (n : Nat)
  | semRelease (id : Identity) (n : Nat)
  | semForce (id : Identity) (n : Nat)
  -- Plot control, security, wall time, hold-up
  | bulkRekey (id : Identity) (plot : Nat)
  | plotErase (id : Identity) (plot : Nat) (key : BitVec 16)
  | rdpLevel1 (id : Identity) (key : BitVec 16)
  | rdpLevel2 (id : Identity) (key : BitVec 16)
  | rdpLower (id : Identity) (key : BitVec 16)
  | loweringComplete
  | rootGen (id : Identity)
  | wallTime (id : Identity) (hi : Word)
  | pwrFail
  | holdupRelease
  | holdupLost
  -- Granary
  | grnKey (id : Identity) (key : Word)
  | grnRead (id : Identity) (area margin count : Nat)
  | grnProgram (id : Identity) (area margin count : Nat)
  | grnErase (id : Identity) (area margin count : Nat)
  | grnSuspend (id : Identity)
  | grnResume (id : Identity)
  | grnInc (id : Identity)
  | grnCommandDone (corrected : Nat) (uncorrectable : List Nat) (failAt : Option Nat) (eraseFails : List Nat)
  | eraseSuspendDue
  | eraseAutoResume
  | windowAdvance (destEraseFails : Bool)
  -- banks and MPU
  | apertureAccess (id : Identity) (offset : Nat) (write : Bool) (value : Word) (parityOk : Bool)
  | eccWriteback (bank word : Nat)
  | bnkHandover (id : Identity) (bank : Nat) (new : Identity) (scrub : Bool)
  | bnkSeize (id : Identity) (bank : Nat)
  | scrubDone (bank : Nat)
  | add32 (id : Identity)
  | add64 (id : Identity)
  | swap32 (id : Identity)
  | swap64 (id : Identity)
  | mpuRegionWrite (id : Identity) (region reg : Nat) (value : Word)
  | mpuLock (id : Identity)
  | mpuVioAck (id : Identity) (seq : Nat)
  -- stack links, frames and timers
  | linkUp (l : Link)
  | laneLoss (l : Link) (lane : Nat)
  | replayTimeout (l : Link)
  | linkRetrain (l : Link)
  | ack (h : FrameHdr)
  | nak (h : FrameHdr)
  | hello (h : FrameHdr) (stackId pos role st serial : Nat)
  | linkdown (h : FrameHdr) (pos : Nat) (which : Link)
  | leave (h : FrameHdr) (pos : Nat)
  | enum (h : FrameHdr) (entries : List EnumEntry)
  | confirm (h : FrameHdr) (expect count : Nat) (results : List Nat)
  | keyx (h : FrameHdr) (publicKey : List Byte)
  | time (h : FrameHdr) (stackTime retire : Nat)
  | safe (h : FrameHdr) (scope cause : Nat)
  | regFrame (h : FrameHdr) (entries : List RegEntry)
  | regRsp (h : FrameHdr) (status : Nat) (value : Word)
  | ioReq (h : FrameHdr) (p : Port) (plot : Nat) (req : IoRequest)
  | ioRsp (h : FrameHdr) (status senseKey asc ascq order info : Nat)
  | blkHead (h : FrameHdr) (b : BlkHead)
  | blkData (h : FrameHdr) (data : Block)
  | blkAck (h : FrameHdr) (result : Nat)
  | blkResend (tag : Nat)
  | pageRel (h : FrameHdr) (addr : Nat) (tagp : PageTag) (slots : List (Nat × Nat))
  | pageDone (h : FrameHdr) (addr : Nat) (fail : Bool)
  | readReq (h : FrameHdr) (addr nunit : Nat)
  | key (h : FrameHdr) (plot gen : Nat) (old : Bool) (wrap : List Byte)
  | keyclr (h : FrameHdr) (plot : Nat)
  | brec (h : FrameHdr) (recs : List (Nat × BlockRec))
  | scan (h : FrameHdr) (fixcount : Nat)
  | scanRsp (h : FrameHdr) (tags : List (Nat × PageTag))
  | eventFrame (h : FrameHdr) (event : List Byte)
  | unknownFrame (h : FrameHdr) (ty len : Nat)
  | enumResend
  | enumWindowClose
  | loneTimeout
  | requestTimeout (tag : Nat)
  | absentTimeout (pos : Nat)
  | timePeriod
  | masterLost
  | stkRemoteRead (id : Identity)
  | stkRemoteWrite (id : Identity)
  | reEnumerate (id : Identity)
  -- JTAG
  | jtagExtest (cells : List Bool)
  | jtagIdcode
  | jtagSamplePreload (sampled preload : List Bool)
  | jtagCspace (addr : CsAddr) (write : Bool) (data : Word)
  | jtagReset
  | jtagBypass (code : Byte)
  -- the last rows of the table
  | holdupOkAsserted
  | linkFrameError (l : Link) (crcOk : Bool) (lseq : Nat)
  | capsuleRefused (p : Port) (fn : CapsuleFn) (raw : CapsuleRaw)
  | ssBulkTransaction (p : Port) (k ep : Nat) (isIn : Bool)
  | setFeatureDevice (p : Port) (f : DeviceFeature) (on : Bool)
  | bulkInTransfer (p : Port) (fn : CapsuleFn) (isEvent : Bool)
deriving DecidableEq, Repr

end Sys2Proof
end

