-- ==== Sys2Proof/Decode.lean ====
section
/-! DEFINITION. The command a word of the opcode table spells. No row of spec/opcode_table.json gives bits (its
"fields" are empty and no row has "fixed"): the block's commands are not encoded in words, so no word spells one. -/

namespace Sys2Proof

/-- No row of the table has bits, so no word of any length spells a command. -/
def decodeTableWord (_nbits _w : Nat) : Option Instr := none

end Sys2Proof
end

