-- ==== Sys2Proof/Config.lean ====
section
/-! DEFINITION. What an implementation fixes: the family parameters of Table GLB-9, the numeric tables of the
chapters, and the FREE VALUES (opaque constants without a body: nothing can evaluate them or prove a value of them). -/

namespace Sys2Proof

/-- The members of the Zakigor family (R29). -/
inductive Member where
  | z1 | z8 | z24 | z96
deriving DecidableEq, Repr

/-- The two steppings (R650, R651). -/
inductive Stepping where
  | a0 | b0
deriving DecidableEq, Repr

namespace Member

/-- `GLB_ID`.MEMBER, and the number of channel engines (Table GLB-9). -/
def channels : Member → Nat
  | z1 => 1 | z8 => 8 | z24 => 24 | z96 => 96

def ports : Member → Nat
  | z1 => 1 | z8 => 2 | z24 => 2 | z96 => 2

def banks : Member → Nat
  | z1 => 4 | z8 => 16 | z24 => 48 | z96 => 192

def ciphers : Member → Nat
  | z1 => 1 | z8 => 3 | z24 => 8 | z96 => 32

/-- The ticket pool. -/
def pool : Member → Nat
  | z1 => 1024 | z8 => 4096 | z24 => 12288 | z96 => 32768

def granaryMiB : Member → Nat
  | z1 => 2 | z8 => 4 | z24 => 8 | z96 => 16

/-- Physical Granary sectors of 4 KiB (R509: 4,096 on the Z96, 256 to the MiB). -/
def granarySectors (m : Member) : Nat := m.granaryMiB * 256

/-- The ring: every physical sector but the eight of the ledger (R509). -/
def ringSectors (m : Member) : Nat := m.granarySectors - 8

/-- The logical window, three quarters of the physical array (Table GLB-9). -/
def windowSectors : Member → Nat
  | z1 => 384 | z8 => 768 | z24 => 1536 | z96 => 3072

/-- The slot size in sectors (Table GRN-11). -/
def slotSectors : Member → Nat
  | z1 => 32 | z8 => 64 | z24 => 128 | z96 => 128

/-- First sector after the structure pool, which is the first of the OEM area (Table GRN-11). -/
def oemFirst : Member → Nat
  | z1 => 320 | z8 => 512 | z24 => 768 | z96 => 1280

def fields : Member → Nat
  | z1 => 2 | z8 => 4 | z24 => 8 | z96 => 16

def plots : Member → Nat
  | z1 => 8 | z8 => 16 | z24 => 32 | z96 => 64

def mpuRegions : Member → Nat
  | z1 => 128 | z8 => 256 | z24 => 512 | z96 => 1024

def bankIslands : Member → Nat
  | z1 => 1 | z8 => 1 | z24 => 3 | z96 => 12

def fmIslands : Member → Nat
  | z1 => 1 | z8 => 1 | z24 => 2 | z96 => 4

/-- Largest stack the member can join; 0 is no stack island. -/
def stackMax : Member → Nat
  | z1 => 0 | z8 => 16 | z24 => 128 | z96 => 128

def usbMax : Member → Nat
  | z1 => 0 | z8 => 1 | z24 => 2 | z96 => 3

def hasStack (m : Member) : Bool := m.stackMax != 0

/-- The ports the member has (Table GLB-9). -/
def portList (m : Member) : List Port := if m.ports = 1 then [.a] else [.a, .b]

/-- The island count (The Zakigor family, below Table GLB-9). -/
def islands (m : Member) : Nat :=
  m.channels + m.ciphers + m.bankIslands + m.fmIslands + m.ports + (if m.hasStack then 1 else 0) + 3

/-- `GLB_PARAM0` to `GLB_PARAM3` as their fields compose them. -/
def param0 (m : Member) : Word :=
  bitsAt 0 8 m.channels ||| bitsAt 8 8 m.banks ||| bitsAt 16 6 m.ciphers ||| bitsAt 22 2 m.ports ||| bitsAt 24 8 m.stackMax
def param1 (m : Member) : Word :=
  bitsAt 0 8 m.fields ||| bitsAt 8 8 m.plots ||| bitsAt 16 8 m.granaryMiB ||| bitsAt 24 8 m.islands
def param2 (m : Member) : Word := bitsAt 0 16 m.pool ||| bitsAt 16 16 m.mpuRegions
def param3 (m : Member) : Word := bitsAt 0 4 m.usbMax

/-- The default ticket reservations, Table ARB-3 scaled to the member's pool (R49, Table ARB-5). -/
def defaultReservations (m : Member) : List Nat :=
  [0, 0, 0, 2048, 1024, 512, 256, 256].map fun n => n * m.pool / 32768

/-! Island numbers, Table GLB-3, compressed with no gaps on the smaller members. -/

def cipherIsland (m : Member) (e : Nat) : Nat := m.channels + e
def bankIsland (m : Member) (i : Nat) : Nat := m.channels + m.ciphers + i
def fmIsland (m : Member) (i : Nat) : Nat := m.channels + m.ciphers + m.bankIslands + i
def portIsland (m : Member) (p : Nat) : Nat := m.channels + m.ciphers + m.bankIslands + m.fmIslands + p
def stackIsland (m : Member) : Nat := m.portIsland m.ports
def centralIsland (m : Member) : Nat := m.portIsland m.ports + (if m.hasStack then 1 else 0)
def granaryIsland (m : Member) : Nat := m.centralIsland + 1
def alwaysOnIsland (m : Member) : Nat := m.centralIsland + 2

end Member

/-- `GLB_ID`: STEPPING, MEMBER, FAMILY. -/
def glbId (m : Member) (st : Stepping) : Word :=
  bitsAt 0 8 (match st with | .a0 => 0x00 | .b0 => 0x10) ||| bitsAt 8 8 m.channels ||| bitsAt 16 16 0x5A4B

/-- IDCODE, Table ELE-21. -/
def idCode : Stepping → Word
  | .b0 => 0x15A60667
  | .a0 => 0x05A60667

/-- What kind of island an island number names (Table GLB-3). -/
inductive IslandKind where
  | channel (c : Nat) | cipher (e : Nat) | bank (i : Nat) | fm (i : Nat) | port (p : Port)
  | stack | central | granary | alwaysOn | none
deriving DecidableEq, Repr

def islandKind (m : Member) (n : Nat) : IslandKind :=
  if n < m.channels then .channel n
  else if n < m.bankIsland 0 then .cipher (n - m.channels)
  else if n < m.fmIsland 0 then .bank (n - m.bankIsland 0)
  else if n < m.portIsland 0 then .fm (n - m.fmIsland 0)
  else if n < m.portIsland m.ports then .port (if n = m.portIsland 0 then .a else .b)
  else if m.hasStack && n = m.stackIsland then .stack
  else if n = m.centralIsland then .central
  else if n = m.granaryIsland then .granary
  else if n = m.alwaysOnIsland then .alwaysOn
  else .none

/-! Requester identities, Table GLB-4. -/

def idPortA : Identity := 0x80
def idPortB : Identity := 0x81
def idStack : Identity := 0x82
def idFm (i : Nat) : Identity := BitVec.ofNat 8 (0x83 + i)
def idSweep : Identity := 0x87
def idGranary : Identity := 0x88
def idRecovery : Identity := 0x89
def idJtag : Identity := 0x8A
def idNone : Identity := 0xFF

def Port.identity : Port → Identity
  | .a => idPortA
  | .b => idPortB

def Port.index : Port → Nat
  | .a => 0
  | .b => 1

def Port.other : Port → Port
  | .a => .b
  | .b => .a

def Origin.identity : Origin → Identity
  | .port p => p.identity
  | .ring _ => idStack

/-- The command comes from another stack member. -/
def Origin.isRing : Origin → Bool
  | .port _ => false
  | .ring _ => true

/-- The ticket class a command of this origin draws on (Table ARB-3). -/
def Origin.cls : Origin → Nat
  | .port .a => 0
  | .port .b => 1
  | .ring _ => 2

/-- The identities of the hosts and the stack ring (R310). -/
def isHostId (id : Identity) : Bool := id == idPortA || id == idPortB || id == idStack

/-- An identity some requester of the member carries: the instances beyond its counts and the reserved numbers are carried by no
access (Table GLB-4, R17, R30). -/
def Member.carriesId (m : Member) (id : Identity) : Bool :=
  let n := id.toNat
  decide (n < m.channels) || (decide (0x60 ≤ n) && decide (n < 0x60 + m.ciphers)) || id == idPortA ||
    (id == idPortB && decide (1 < m.ports)) || (id == idStack && m.hasStack) ||
    (decide (0x83 ≤ n) && decide (n < 0x83 + m.fmIslands)) || (decide (0x87 ≤ n) && decide (n ≤ 0x8A))

/-- The requester class bit of Table LAY-19; `none` for identities of no class. -/
def mpuClass (id : Identity) : Option Nat :=
  let n := id.toNat
  if n ≤ 0x5F then some 0
  else if n ≤ 0x7F then some 1
  else if n = 0x80 then some 2
  else if n = 0x81 then some 3
  else if n = 0x82 then some 4
  else if n ≤ 0x86 then some 5
  else if n = 0x87 then some 6
  else if n = 0x88 then some 7
  else if n = 0x89 then some 8
  else none

/-! The parameters of the LDPC codes, Table CHN-2. -/

def ldpcParity : Nat → Nat
  | 0 => 256 | 1 => 384 | 2 => 512 | _ => 640

def ldpcHard : Nat → Nat
  | 0 => 120 | 1 => 180 | 2 => 240 | _ => 300

/-- Highest counter value and re-key count (R129, R347, R535). -/
def counterMax : Nat := 1048575

/-- The last order number the arbiter issues (R47). -/
def orderLast : Nat := 0xFFFF_FFFF_0000_0000

/-- The dose charge per second at a whole temperature in °C (R420): max(1, round(16 × 2^((T − 40) / 10))).
Rounding is exact: n is the number of k ≥ 1 with (2 k − 1)^10 ≤ 2^(T + 10). -/
def doseCharge (t : Int) : Nat :=
  let t := max (-40) (min 125 t)
  if t + 10 < 0 then 1
  else max 1 (((List.range 6000).filter fun k => decide ((2 * k + 1) ^ 10 ≤ 2 ^ (t + 10).toNat)).length)

/-- Saturation of a 40-bit dose with 8 guard bits (R422). -/
def doseAdd (a b : Nat) : Nat := if a + b < 2 ^ 40 then a + b else 2 ^ 40 - 1

/-! CRC-32C (R155): Castagnoli polynomial 0x1EDC6F41, reflected (0x82F63B78), initial and final 0xFFFFFFFF. -/

def crcBit (c : BitVec 32) : BitVec 32 :=
  if c.getLsbD 0 then (c >>> 1) ^^^ 0x82F63B78 else c >>> 1

def crcByte (c : BitVec 32) (b : Byte) : BitVec 32 :=
  let x := c ^^^ b.setWidth 32
  crcBit (crcBit (crcBit (crcBit (crcBit (crcBit (crcBit (crcBit x)))))))

def crc32c (bytes : List Byte) : Nat := ((bytes.foldl crcByte 0xFFFFFFFF) ^^^ 0xFFFFFFFF).toNat

/-! P-384 (FIPS 186-5 names the curve the spec names; R183, log 5). -/

def p384Prime : Nat := 2 ^ 384 - 2 ^ 128 - 2 ^ 96 + 2 ^ 32 - 1
def p384Order : Nat := 0xFFFFFFFFFFFFFFFFFFFFFFFFFFFFFFFFFFFFFFFFFFFFFFFFC7634D81F4372DDF581A0DB248B0A77AECEC196ACCC52973
def p384B : Nat := 0xB3312FA7E23EE7E4988E056BE3F82D19181D9C6EFE8141120314088F5013875AC656398D8A2ED19D2A85C8EDD3EC2AEF

/-- The number big-endian bytes spell (Table LAY-22). -/
def beNumber (l : List Byte) : Nat := l.foldl (fun n b => 256 * n + b.toNat) 0

/-- Qx ‖ Qy is a point of P-384: y² = x³ − 3x + b over the field of the prime. -/
def onP384 (key : List Byte) : Bool :=
  let x := beNumber (key.take 48)
  let y := beNumber (key.drop 48)
  decide (x < p384Prime) && decide (y < p384Prime) && (y * y + 3 * x) % p384Prime == (x * x * x + p384B) % p384Prime

/-- r and s lie from 1 to n − 1. -/
def inP384 (signature : List Byte) : Bool :=
  let r := beNumber (signature.take 48)
  let t := beNumber (signature.drop 48)
  decide (0 < r) && decide (r < p384Order) && decide (0 < t) && decide (t < p384Order)

/-! FREE VALUES. Each stands where the spec leaves a value open; the log entry is named beside it. -/

/-- An open yes or no, fresh at each use through the counter `State.free` (log 3). -/
opaque Config.freeBool : Nat → Bool
/-- An open number, fresh at each use (log 3). -/
opaque Config.freeNat : Nat → Nat
/-- The bytes the DRBG generates: the spec fixes their source and leaves their value open (R359; log 4). -/
opaque Config.drbg : Nat → List Byte
/-- Which ONFI 5.1 NV-DDR3 timing mode numbers 0 to 15 the standard defines with a rate up to 1,600 MT/s: the spec refers
to the standard and does not list them (R667; log 5). -/
opaque Config.nvDdr3Mode : Nat → Bool
/-- The data rate in MT/s of an ONFI mode, by IFACE and TMODE: the spec refers to the standard (R477, R667; log 5). -/
opaque Config.onfiRate : (iface tmode : Nat) → Nat
/-- The bytes of the calibration row: the factory writes them and the spec gives no value (R534; log 11). -/
opaque Config.calRow : Nat → Byte
/-- Whether a code word programmed with 32 bytes of 0xFF reads as erased: its BCH bits are not stated (R509; log 12). -/
opaque Config.allOnesErased : Bool
/-- SHA-384 (FIPS 180-4), named by the spec and not stated in it (R182; log 5). -/
opaque Config.sha384 : List Byte → List Byte
/-- The verification equation of ECDSA P-384 with SHA-384 for a key on the curve and r, s in range (FIPS 186-5; R182; log 5). -/
opaque Config.ecdsaEquation : (key message signature : List Byte) → Bool
/-- The ciphertext and envelope of a block: what AES-XTS or AES-GCM and the envelope cipher make of it under the key set of its
generation. A function of what the block is, or its result is not this spec's to give (log 3). -/
opaque Config.sealedUnit : (plot lba order stamp : Nat) → (gen : Bool) → (plain : List Byte) → List Byte
/-- An envelope as a member of the stack stages it beside a block already encrypted. -/
opaque Config.envelopeBytes : (plot lba order stamp crc : Nat) → List Byte
/-- The parity of one codeword of an LDPC code of Table CHN-2, whose matrices the spec does not give. -/
opaque Config.ldpcParityOf : (code : Nat) → (info : List Byte) → List Byte
/-- HMAC-SHA-384 of a message under a key (FIPS 198-1; R327; log 5). -/
opaque Config.hmacSha384 : (key message : List Byte) → List Byte
/-- The AES-256-GCM tag of a Credential record image under the key set, its IV and its AAD (SP 800-38D; R332; log 5). -/
opaque Config.gcmTag : (keys iv aad plain : List Byte) → List Byte

/-- What R329 asks of AES-256 KW: a key set of 128 bytes wraps to 136, and unwraps under the same KEK to what was wrapped. -/
structure KeyWrap where
  wrap : (kek keys : List Byte) → List Byte
  unwrap : (kek wrapped : List Byte) → Option (List Byte)
  size : ∀ kek keys, keys.length = 128 → (wrap kek keys).length = 136
  back : ∀ kek keys, keys.length = 128 → unwrap kek (wrap kek keys) = some keys

/-- AES-256 KW and KW-AD of SP 800-38F (R329; log 5). Nothing but the two laws is known of it: the term given only shows that
they can hold together, and no proof can see it. -/
opaque Config.keyWrap : KeyWrap :=
  { wrap := fun _ keys => keys ++ List.replicate 8 0
    unwrap := fun _ w => if w.drop 128 = List.replicate 8 0 then some (w.take 128) else none
    size := by intro _ keys h; simp [h]
    back := by intro _ keys h; simp [← h] }
/-- P-384 public key of a private scalar, and the ECC CDH shared value (R615; log 5). -/
opaque Config.p384Public : List Byte → List Byte
opaque Config.p384Shared : (scalar otherPublic : List Byte) → List Byte
/-- The microseconds the stack latency measurement of a forwarder adds (R607; log 6). -/
opaque Config.ringLatency : Nat → Nat
/-- FREE VALUE: what a page of a wide Field on another position is programmed with where the spec names no frame that brings
it there: by unit address (log 91). -/
opaque Config.remoteUnit : Nat → List Byte

/-! What the chapters compose from them. -/

/-- An image's signature is accepted (R182, R183). -/
def Config.ecdsaValid (key message signature : List Byte) : Bool :=
  onP384 key && inP384 signature && Config.ecdsaEquation key message signature

def beCount : (count n : Nat) → List Byte
  | 0, _ => []
  | c + 1, n => beCount c (n / 256) ++ [BitVec.ofNat 8 n]

/-- KDF(K, Label, Context, L): the first L bits of one HMAC over [1]₃₂ ‖ Label ‖ 0x00 ‖ Context ‖ [L]₃₂ (R327). -/
def Config.kdf (root label context : List Byte) (bits : Nat) : List Byte :=
  (Config.hmacSha384 root (beCount 4 1 ++ label ++ [0] ++ context ++ beCount 4 bits)).take (bits / 8)

def Config.kwWrap : (kek keys : List Byte) → List Byte := Config.keyWrap.wrap
/-- KW-AD; `none` when the integrity check fails (R329). -/
def Config.kwUnwrap : (kek wrapped : List Byte) → Option (List Byte) := Config.keyWrap.unwrap

end Sys2Proof
end

