-- ==== Sys2Proof/Machine/State.lean ====
section
/-! DEFINITION. The state of the Z96: every register, FIFO, buffer, counter, mode and pin the spec gives it, as plain
data, with the queue of waiting commands; the reasons a step can stop; and the state right after reset. A register that
is a view of other state is composed where it is read (Machine/Regs.lean). -/

namespace Sys2Proof.Machine

/-! ### Arbiter, tickets, cipher dispatch (chapter "Order, tickets and shared instances") -/

/-- A ticket in use: its number, the class that drew it (Table ARB-3) and whether it came from the shared pool (R51). -/
structure Ticket where
  id : Nat
  cls : Nat
  shared : Bool
deriving DecidableEq, Repr

/-- How a request that won a tick ends at the arbiter (R53, R54): with what Table ARB-2 gives, or without a ticket. -/
inductive GrantEnd where
  | granted | taskSetFull | held | capsuleBusy | ringBusy
deriving DecidableEq, Repr

/-- What the arbiter's last grant gave (Table ARB-2). -/
structure Grant where
  input : Nat
  order : Option Nat
  horizon : Option Nat
  ticket : Option Nat
  ending : GrantEnd
deriving DecidableEq, Repr

structure ArbState where
  ordNext : Nat            -- `ARB_ORD_NEXT`
  ordResume : Nat          -- `ARB_ORD_RESUME`
  lockstep : Bool          -- `ARB_STAT`.LOCKSTEP
  ordEnd : Bool            -- `ARB_STAT`.ORD_END
  noCipher : Bool          -- `ARB_STAT`.NO_CIPHER
  pointer : Nat            -- the rotating pointer over the 22 inputs (R33)
  jtagTurn : Bool          -- input 20: true when JTAG goes first of the two that share it (Table ARB-1)
  reserved : List Nat      -- reservation of each class
  tickets : List Ticket    -- tickets in use
  sharedMin : Nat          -- `ARB_TKT_LOW`.SHARED_MIN
  tsfA : Nat               -- `ARB_TSF_CNT`
  tsfB : Nat
  wdogTime : Nat           -- `ARB_WDOG`.TIME
  wdogReq : Nat            -- `ARB_WDOG_LAST`
  wdogResp : Nat
  wdogCount : Nat
  readBurst : Nat          -- `ARB_DIEQ`.READ_BURST
  dispPtr : Nat            -- the dispatcher's rotating pointer (R57)
  lastGrant : Option Grant
  loose : List Nat         -- tickets drawn by requests that ARBITER_GRANT itself presents, not returned yet
deriving DecidableEq, Repr

/-- What a block in a cipher engine is for: a command, or the bulk re-key of a Field's Plot (R349 to R351). -/
inductive JobKind where
  | hostWrite | hostRead | rekey (field : Nat)
deriving DecidableEq, Repr

/-- One 4,096-byte block queued to or in a cipher engine (R57). -/
structure BlockJob where
  key : TaskKey
  idx : Nat              -- index of the block in its command
  dir : CipherDir
  kind : JobKind
  lba : Nat
  data : Block
  env : Envelope
deriving DecidableEq, Repr

/-- A cipher engine: the dispatcher's view, the safety view and the `CPH_` registers. -/
structure CipherState where
  queue : List BlockJob      -- at most 8 (R58)
  pending : Bool             -- marked by the sweep, queue draining (R81)
  withdrawn : Bool           -- in its test-strip slot
  fenced : Bool
  fenceLatched : Bool        -- STRIKE_LATCH (R113)
  strikes : Nat
  keyPlots : List Nat        -- Plots whose keys the engine's cache holds, newest first (R353)
  echoFail : Nat             -- `CPH_CNT`
  clears : Nat
deriving DecidableEq, Repr

/-! ### Safety monitor (chapter "Safety concept and Safelight") -/

/-- One Safelight scope in force (Table SAF-5), with the cause that entered it. `code` is the scope code of Table
SAF-7; `inst` the engine, channel, Plot, Field or port, 0 for device and stack scope. -/
structure Scope where
  code : Nat
  inst : Nat
  cause : Nat
  latch : Bool
  wider : Bool
  island : Nat               -- ISLAND of the record
  who : Option (Nat × Nat)   -- lane and index of the sweep instance whose strip failed (R84, R88)
deriving DecidableEq, Repr

/-- One fault-log record, Table SAF-7, field by field; CHECK is computed on reading. -/
structure LogRec where
  seq : Nat
  cause : Nat
  scope : Nat
  latch : Bool
  persisted : Bool
  wider : Bool
  strikes : Nat
  time : Nat
  island : Nat
  requester : Nat
  inst : Nat
  detail0 : Word
  detail1 : Word
  frame : Nat
deriving DecidableEq, Repr

/-- A fault that waits for a pending RECOVER to complete (R116). -/
structure Deferred where
  record : LogRec
  enters : Bool              -- it enters a scope; otherwise its record is all of it
  who : Option (Nat × Nat)
deriving DecidableEq, Repr

/-- The strip record of one sweep instance (R88, `SAF_SWEEP_AGE`). -/
structure StripRec where
  lastPass : Option Nat      -- µs since reset of the last passing strip
  lastFail : Option Nat      -- the previous slot's result was a failure: its strip
deriving DecidableEq, Repr

/-- `SAF_DEEP_STAT`, with the lanes of the test that is pending or running and the instances still to test. -/
structure DeepState where
  state : Nat                -- 0 idle, 1 pending, 2 running
  result : Nat               -- 0 none, 1 PASS, 2 FAIL, 3 ABORTED
  failed : Nat
  refused : Nat
  requester : Identity
  lanes : Nat                -- bit 0 channel, bit 1 cipher, bit 2 structural
  todo : List (Nat × Nat)    -- (lane, instance) not yet tested
  given : List Nat           -- per lane: spare slots already given to its first instance in `todo` (four make a strip)
  firstSlot : List Nat       -- per lane: the first of them
deriving DecidableEq, Repr

/-- A pending RECOVER (`SAF_RECOVER`). -/
structure RecoverReq where
  targets : List (Nat × Nat) -- scope code and instance of what it may end
  stays : Nat                -- RESULT when it ends nothing
deriving DecidableEq, Repr

/-- One strip running in a lane: the instance under test. -/
structure Strip where
  inst : Nat
  slot : Nat
deriving DecidableEq, Repr

structure SafState where
  scopes : List Scope
  starting : Bool              -- `GLB_SAFE`.DEVICE from reset until start-up completes (R101)
  causeCode : Nat              -- `SAF_CAUSE`
  safeNHeld : Bool             -- SAFE_N as the always-on island holds it in Off (R101)
  log : List LogRec            -- the ring, newest first, at most 256
  logHead : Nat                -- `SAF_LOG_HEAD`
  ppmA : Option Int            -- `SAF_REF`: deviation of the last SOF window; none is no SOF
  ppmB : Option Int
  lastSof : Port               -- the port of the last SOF received (Table SAF-7, FRAME)
  devA : Nat                   -- consecutive windows of the port that deviated (R74), at most 2
  devB : Nat
  railOut : Nat                -- `SAF_RAIL`.OUT
  railNow : List Rail          -- rails out of their window now (R111)
  hot : List Nat               -- per sensor: consecutive samples above 115 °C (R77), at most 3
  chnSlot : Nat                -- `SAF_SWEEP`
  cphSlot : Nat
  strSlot : Nat
  zqSlot : Bool
  cycle : Nat
  sweepOn : Bool               -- stopped in Dark and Off (R87)
  cycleDone : Bool             -- a full cycle has completed since the sweep started
  chnStrips : List StripRec
  cphStrips : List StripRec
  strStrips : List StripRec
  chnStrip : Option Strip      -- the strip now running in each lane
  cphStrip : Option Strip
  strStrip : Option Strip
  deep : DeepState
  recPending : Option RecoverReq
  recResult : Nat              -- `SAF_RECOVER_STAT`
  recCount : Nat
  deferred : List Deferred     -- faults detected while a RECOVER is pending, oldest first (R116)
  stripTickets : List (Option Nat) -- the class-6 ticket of the strip or withdrawal in each lane (Table ARB-2, input 19)
  stripAsked : List Nat            -- lanes whose present slot still asks for its ticket (R55)
  strikeLimit : Nat            -- Table SAF-9
  sofCheck : Bool
deriving DecidableEq, Repr

/-! ### The layout (chapters "The layout: …"): the parsed image and the life of the slots -/

/-- One frame as it stands in the image: what warm activation compares (R135). -/
structure RawFrame where
  offset : Nat
  ty : Nat
  inst : Nat
  payload : List Byte
deriving DecidableEq, Repr

/-- A CHANNEL entry, Table LAY-12. -/
structure ChanCfg where
  iface : Nat
  ceMask : Nat
  luns : Nat
  planes : Nat
  pageKib : Nat
  bits : Nat
  recipeSet : Nat
  ldpc : Nat
  spare : Nat
  ppb : Nat
  bpp : Nat
deriving DecidableEq, Repr

/-- A RECIPE set, Table LAY-13. `code` holds the instruction words as they stand in the image. -/
structure RecipeCfg where
  set : Nat
  entries : List Nat         -- 16 word indices, 0xFFFF absent
  timing : List Nat          -- 16-bit timing entries
  retry : List (List Byte)
  code : List Word
deriving DecidableEq, Repr

/-- A FIELD frame, Table LAY-15. -/
structure FieldCfg where
  inst : Nat
  chans : List Nat           -- channels of CHAN_MAP, ascending
  grain : Nat
  stripeW : Nat
  wear : Nat
  glean : Nat
  streams : Nat
  discard : Nat              -- 0 zeroing, 1 secure
  retention : Nat
  wide : Bool
  seedbedMax : Nat
  seedbedFactor : Nat
  headlandMin : Nat
  openBudget : Nat
  fixCadence : Nat
  gleanLow : Nat
  gleanHigh : Nat
  weights : List Nat
  readRefresh : Nat
  doseRefresh : Nat
  devices : List Nat         -- positions of DEVICES, ascending
deriving DecidableEq, Repr

/-- A PLOT frame, Table LAY-16. -/
structure PlotCfg where
  inst : Nat
  field : Nat
  credential : Bool
  ports : Nat
  embPort : Nat
  retryLimit : Nat
  readOnly : Bool
  capacity : Nat
deriving DecidableEq, Repr

/-- A BANK entry, Table LAY-17. -/
structure BankCfg where
  owner : Identity
  role : Nat
  field : Nat
deriving DecidableEq, Repr

/-- An MPU entry, Table LAY-18; also the content of a region's registers. -/
structure MpuCfg where
  index : Nat
  size : Nat
  enable : Bool
  space : Bool               -- true: bank space
  base : Nat
  read : Nat
  write : Nat
deriving DecidableEq, Repr

/-- A PORT frame, Table LAY-20. -/
structure PortCfg where
  enable : Bool
  maxSpeed : Nat
  linkPm : Nat
  wake : Nat
  vid : Nat
  pid : Nat
  bcdDevice : Nat
  attr : Nat
  maxPower : Nat
  carve : List Nat
deriving DecidableEq, Repr

/-- A STACK frame, Table LAY-21. -/
structure StackCfg where
  enable : Bool
  chain : Bool
  expect : Nat
  credits : Nat
  retry : Nat
  timePeriod : Nat
  stackId : Nat
deriving DecidableEq, Repr

/-- A whole image that passed checks v6 to v10, parsed. -/
structure Layout where
  member : Nat
  epoch : Nat
  length : Nat
  frames : List RawFrame
  mfr : List Byte
  product : List Byte
  langId : Nat
  noSerial : Bool
  gpio : List Byte
  wdog : Nat
  fmMult : Nat
  portMult : Nat
  stkMult : Nat
  grnMult : Nat
  chnMult : List Nat
  readBurst : Nat
  zqCycles : Nat
  channels : List ChanCfg
  recipes : List RecipeCfg
  fields : List FieldCfg
  plots : List PlotCfg
  banks : List BankCfg
  mpu : List MpuCfg
  ports : List PortCfg
  stack : StackCfg
  strikeLimit : Nat
  sofCheck : Bool
  durable : Bool
  tempAlert : Nat
  suspendTarget : Nat
  tickets : List Nat
deriving DecidableEq, Repr

/-- `LAY_SLOT`. -/
structure SlotState where
  epoch : Nat
  epochOver : Bool
  checked : Bool
  reason : Nat
deriving DecidableEq, Repr

/-- The stage of the layout operation in progress. -/
inductive LayStage where
  | verifying      -- checks v1 to v13, a7 and a8 still to come
  | committing     -- the record is written and the commit grant requested (R127)
  | developing     -- cold activation step 5
deriving DecidableEq, Repr

/-- The layout operation in progress (`LAY_STAT`.BUSY). -/
structure LayOp where
  op : Nat                   -- 1 VERIFY, 2 warm, 3 cold
  slot : Slot
  requester : Identity
  stage : LayStage
  image : Option Layout      -- the verified image, from stage `committing` on
  digest : List Byte
deriving DecidableEq, Repr

structure LayState where
  active : Option Layout     -- the active layout
  activeSlot : Slot
  op : Nat                   -- `LAY_STAT`.OP
  result : Nat
  starting : Bool            -- a start, or the start that ends a cold activation, is in progress
  run : Option LayOp
  slots : List SlotState     -- A, B
  digest : List Byte         -- `LAY_DIGEST`, 48 bytes
  recipePend : List Nat      -- channels still on the old recipe (`LAY_RECIPE_PEND`)
  oldRecipes : List RecipeCfg -- the recipes those channels finish under (R140)
  errOffset : Nat            -- `LAY_ERR`
  errAt : Nat
deriving DecidableEq, Repr

/-! ### Start, reset, power, temperature (chapter "Clocks, start-up and host-commanded power") -/

/-- The power states of Table PWR-4. -/
inductive PowerState where
  | lit | dim | dark | off
deriving DecidableEq, Repr

/-- A power transition waiting for development (R208, R212). -/
structure PowerXfer where
  target : PowerState        -- dark or off
  bySuspend : Bool
  from_ : PowerState
deriving DecidableEq, Repr

structure PwrState where
  cause : Nat                -- `PWR_RST_CAUSE`.CAUSE
  railDip : Bool
  step : Nat                 -- `PWR_START`.STEP
  attach : Nat               -- `PWR_START`.ATTACH, in 10 µs units
  b : Nat                    -- `PWR_START`.B
  state : PowerState         -- `PWR_STAT`.STATE; Off is not readable
  xfer : Option PowerXfer    -- `PWR_STAT`.PENDING
  result : Nat
  bySuspend : Bool
  before : PowerState        -- the state to return to on resume (R216)
  dimBefore : Nat            -- the divisors in force in it
  target : Nat               -- suspend target: 1 Dim, 2 Dark
  durable : Bool             -- DURABLE and TEMP_ALERT of the POWER frame in force (Table LAY-3)
  tempAlert : Nat
  frameWaits : Bool          -- a warm POWER frame takes effect at the next host power command
  dimReg : Nat               -- `PWR_DIM`
  dimNow : Nat               -- the divisors in force
  sens : List Int            -- the 24 sensors, Tj × 4
  tj : Int                   -- `PWR_TEMP`.TJ
  tjSensor : Nat
  alert : Bool               -- TEMP_ALERT_N asserted
  peak : Int                 -- `PWR_TEMP`.PEAK
  refPresent : Bool          -- the reference is seen
  ampOn : Bool               -- the oscillator amplifier of XTAL_IN is on (R640)
  railsUp : Bool             -- the rails are above their power-on thresholds
  calTrim : Bool             -- the islands run with the calibration row's trim
deriving DecidableEq, Repr

/-! ### USB ports and the embedded hub -/

/-- What the port last answered on the wire to a packet, token or request. -/
inductive WireAnswer where
  | none | ack | nyet | nak | nrdy | erdy (sent : List (Nat × Nat × Nat)) | stall | lau | lxu | data (n : Nat)
deriving DecidableEq, Repr

/-- One embedded downstream port of a hub. -/
structure EmbPort where
  holder : Option Nat        -- Plot reserving it (R253)
  conn : Bool                -- PORT_CONNECTION
  chg : Bool                 -- C_PORT_CONNECTION
  cReset : Bool              -- C_PORT_RESET
  cSuspend : Bool            -- C_PORT_SUSPEND
  reported : Bool            -- the change has been reported on the status endpoint (R257)
  deferred : Bool            -- a connect waits for CLEAR_FEATURE(C_PORT_CONNECTION) (R258)
  powered : Bool             -- PORT_POWER
  enabled : Bool
  suspended : Bool
  resetting : Bool
  alt : Nat                  -- selected alternate setting: 0 BOT, 1 UAS
  selected : Bool            -- the function is configured
deriving DecidableEq, Repr

/-- One endpoint buffer of a port: embedded port `k`, endpoint address `ep` (Table PRT-4). -/
structure EpState where
  k : Nat
  ep : Nat
  total : Nat                -- granules
  used : Nat
  seq : Nat                  -- data toggle or sequence number
  nrdy : Bool                -- NRDY answered, ERDY owed (R234)
  halted : Bool              -- the endpoint is halted
  burst : Nat                -- bMaxBurst it advertises (R235)
  streams : Nat              -- MaxStreams it advertises (R236)
deriving DecidableEq, Repr

/-- The last SOF or ITP (`PRT_SOF`). -/
structure SofRec where
  frame : Nat
  micro : Nat
  valid : Bool
deriving DecidableEq, Repr

structure PortState where
  vbus : Bool
  flip : Bool
  ssTerm : Bool              -- SuperSpeed terminations on
  dPlus : Bool               -- D+ pull-up on
  speed : UsbSpeed
  link : Nat                 -- `PRT_STAT`.LINK
  configured : Bool
  wakeEn : Bool
  u1Enable : Bool            -- device-initiated U1 or U2 enabled by the host (R243): recorded, never used
  u2Enable : Bool
  emb : List EmbPort         -- k = 0 to 15
  eps : List EpState
  sof : SofRec
  lpmAcc : Nat
  lpmRej : Nat
  wakeLast : Nat
  wakeCount : Nat
  wakeSignals : Nat          -- signallings in this suspend (R241)
  aborts : Nat
  detaches : Nat
  hubStatus : Nat            -- the bitmap of the last status poll
  answer : WireAnswer
deriving DecidableEq, Repr

/-! ### Functions: SCSI, capsules, events (chapter "Functions and command sets") -/

/-- What a command in flight does. -/
inductive TaskKind where
  | write | read | flush | discard | sanitize | put | get | list | del
deriving DecidableEq, Repr

/-- Fixed-format sense data, Table FNC-12 and R298. -/
structure Sense where
  key : Nat
  asc : Nat
  ascq : Nat
  info : Option Nat          -- failing LBA when below 2^32
  progress : Option Nat      -- SANITIZE progress (R290)
deriving DecidableEq, Repr

/-- How a SCSI command ended. -/
inductive ScsiStatus where
  | good | check (s : Sense) | taskSetFull | busy | functionComplete | functionSucceeded | overlappedTag | invalidInfoUnit
deriving DecidableEq, Repr

/-- A SCSI command or credential capsule in flight (between its acceptance by the port and the end of all its work). -/
structure Task where
  key : TaskKey
  tr : Option Transport      -- none: a credential capsule
  kind : TaskKind
  lba : Nat
  count : Nat
  fua : Bool
  order : Option Nat         -- order number (R38)
  horizon : Option Nat       -- a read's horizon (R41)
  ticket : Option Nat
  held : Bool                -- a BOT command waiting for a ticket (R53)
  intake : Bool              -- an UNMAP whose parameter list is still to come (R287)
  durable : Bool             -- a write that durable mode answers as with FUA, decided at its grant (R470)
  statusDue : Bool           -- the status or response has not been sent yet
  aborted : Bool             -- ended without GOOD: blocks not accepted are never applied (R43)
  asked : List (Nat × Nat)   -- read: blocks looked up, with the unit address the map named then (R397), or the unmapped address
  ready : List Nat           -- read: indices that lie in a bank (Table GLB-6, step 2)
  received : List Nat        -- block indices handed to the dispatcher
  accepted : List Nat        -- write: indices accepted; read: indices returned
  staged : List (Nat × Nat)  -- a PUT whose record is not accepted yet: the staging slots of its halves (R332, R378)
  descs : List (Nat × Nat)   -- discard extents (lba, count)
  name : List Byte           -- credential name, or LIST's AFTER
  value : List Byte
  mode : Nat                 -- PUT MODE, LIST MAX, SANITIZE IMMED
  fails : List (Nat × ScsiStatus) -- read: blocks that cannot be returned, with the status that ends the command there (R298)
  since : Nat                -- release sequence number next in the Plot's Field at the grant (R292)
deriving DecidableEq, Repr

/-- The last status a logical unit sent to one origin, with the data returned. -/
structure ScsiResult where
  key : TaskKey
  status : ScsiStatus
  data : List Byte
deriving DecidableEq, Repr

/-- A response capsule (Table FNC-1). -/
structure Response where
  opcode : Nat
  fua : Bool
  tag : Nat
  order : Nat
  status : Nat
  detail : Nat
  payload : List Byte
deriving DecidableEq, Repr

/-- A REG entry as the response carries it: status 0 OK, 2 DENIED, 3 NOT_DONE. -/
structure RegDone where
  addr : CsAddr
  op : Nat
  st : Nat
  value : Word
deriving DecidableEq, Repr

/-- One function's capsule engine: one request at a time. -/
structure CapState where
  fn : CapsuleFn
  busy : Bool                -- a request is in progress
  opcode : Nat
  tag : Nat
  todo : List RegEntry       -- REG entries not yet granted
  doneR : List RegDone       -- REG entries completed, oldest first
  resp : Option Response     -- built and not yet read in full
deriving DecidableEq, Repr

/-- An event record, Table FNC-9. -/
structure EventRec where
  seq : Nat
  kind : Nat
  inst : Nat
  time : Nat
  frame : Nat
  data0 : Word
  data1 : Word
deriving DecidableEq, Repr

/-- The functions of one port. -/
structure PortFn where
  caps : List CapState
  events : List EventRec     -- oldest first, at most 64
  evSeq : Nat                -- SEQ of the next record
  evLost : Nat               -- INFO.EVLOST
  overflow : Nat             -- records discarded and not yet reported by an OVERFLOW record (R280)
  gpioAcc : Nat              -- changes accumulated since the last GPIO record
  gpioTime : Nat             -- µs of the last GPIO record
  lastEvent : Option EventRec -- the last record the host read
  lastResp : Option Response -- the last response the host read
  sent : List Byte           -- the bytes of the last IN transfer of a capsule function
deriving DecidableEq, Repr

/-- A unit attention condition owed to an origin for a Plot (R296). -/
structure UnitAtt where
  origin : Origin
  plot : Nat
deriving DecidableEq, Repr

/-- Sense data kept for REQUEST SENSE. -/
structure KeptSense where
  origin : Origin
  plot : Nat
  sense : Sense
deriving DecidableEq, Repr

structure FnState where
  tasks : List Task          -- oldest first
  results : List ScsiResult  -- newest first, one per origin and Plot
  sense : List KeptSense
  attention : List UnitAtt
  portA : PortFn
  portB : PortFn
  gpioRaw : List Nat         -- the last two raw samples, newest first
  gpioLevel : Nat            -- debounced levels after polarity
deriving DecidableEq, Repr

/-! ### Semaphores (chapter "Two ports, one device") -/

structure SemState where
  owner : List Identity      -- 128 holders, 0xFF free
  busyA : Nat                -- `SEM_REFUSE`
  busyB : Nat
  busyStk : Nat
  locked : Nat
  lostId : Identity          -- `SEM_LOST`
  lostCount : Nat
  lostCause : Nat
  forced : Nat
  events : Nat
deriving DecidableEq, Repr

/-! ### Keys, Plots, security (chapter "Keys, Plots and credentials") -/

/-- Table FNC-7. -/
inductive PlotMode where
  | absent | closed | open_ | readOnly | safelight | erased
deriving DecidableEq, Repr

/-- A key record, Table SEC-2. -/
structure KeyRecord where
  keyed : Bool
  retry : Nat
  genBit : Bool              -- GEN bit 0
  rekeying : Bool            -- GEN bit 1
  field : Nat
  credential : Bool
  rekeys : Nat
  salt : List Byte
  vrf : List Byte
  wrapA : List Byte
  wrapB : List Byte
  rekeyLba : Nat
  seq : Nat
deriving DecidableEq, Repr

/-- A key-store entry (R330): the key set, the old set during a bulk re-key, and the KEK. -/
structure KeyEntry where
  keys : List Byte
  old : Option (List Byte)
  kek : List Byte
deriving DecidableEq, Repr

/-- A secret check in progress (R339), with what it is for. -/
inductive CheckFor where
  | unlock (mode : Nat)
  | rewrap (new : List Byte)
  | provision (new : List Byte)   -- R344, waiting for the trim entry of the erasure (R452)
deriving DecidableEq, Repr

/-- Who asked for a secret check, so that the answer can be sent. -/
inductive Asker where
  | port (p : Port) (tag : Nat)
  | ring (pos : Nat) (tag : Nat)
  | gone                     -- its capsule has been discarded (R267)
deriving DecidableEq, Repr

structure SecretCheck where
  asker : Asker
  what : CheckFor
  secret : List Byte
  matched : Bool             -- step 3: the record with RETRY = 0 is being written
deriving DecidableEq, Repr

/-- A crypto-erase in progress (R355). -/
structure SanitizeRun where
  key : TaskKey
  immed : Bool
  order : Nat
deriving DecidableEq, Repr

/-- One Plot. -/
structure PlotState where
  mode : PlotMode
  roCause : Nat              -- 1 unlock mode or layout, 2 headland, 3 order-number end
  byUnlock : Bool            -- Read-only by unlock mode 1 or LOCK MODE 1 (R276)
  health : Nat
  record : KeyRecord         -- the valid copy of the key record
  olderCopy : Bool           -- an older copy of the record still stands in the Granary (R336)
  keys : Option KeyEntry
  pace : Nat                 -- `PLT_PACE`
  result : Nat               -- `PLT_RESULT`
  eraseCut : Nat             -- copies numbered so or below belong to key sets erased since: recovery does not map them (R446)
  trimOwed : Option Nat      -- number of the whole-Plot trim entry its Field places when it is back in service (R452)
  checks : List SecretCheck  -- secret checks waiting, one at a time (R343)
  sanitize : Option SanitizeRun
deriving DecidableEq, Repr

/-- Read-out protection, provisioning, entropy. -/
structure SecState where
  level : Nat                -- `SEC_STAT`.LEVEL
  root : Bool
  keyHash : Bool
  provId : Bool
  entropyOk : Bool
  drbgReady : Bool
  tamperLow : Bool           -- TAMPER_N is low now
  tamperSeen : Bool          -- TAMPER_SEEN of the always-on island (R362)
  lowering : Bool            -- LOWERING marker present, R366 in progress
  loweredBy : Identity       -- who commanded the lowering
  rootWaits : Bool           -- ROOT_GEN waits for the DRBG to be instantiated (R358, R369)
  result : Nat               -- `SEC_RESULT`
deriving DecidableEq, Repr

/-! ### Fields, media care, recovery (chapters "Fields", "Media care", "Sudden removal and recovery") -/

/-- A block of a die: channel, die and block index. -/
structure BlkId where
  chan : Nat
  die : Nat
  block : Nat
deriving DecidableEq, Repr

/-- What a stored version is. -/
inductive EntryKind where
  | block | trim | wholePlot | record
deriving DecidableEq, Repr

/-- One accepted write of a block, discard or credential record: the versions R41 to R44, R443 to R445 speak of. -/
structure Entry where
  plot : Nat
  lba : Nat                  -- first LBA; a credential record's slot number
  count : Nat                -- blocks covered
  kind : EntryKind
  order : Nat
  stamp : Nat                -- write-time stamp of the envelope
  crc : Nat                  -- CRC-32C of the plaintext
  data : Block
  name : List Byte           -- credential record name
  present : Bool             -- a record entry: true for PUT, false for DELETE
  part : Nat                 -- a trim entry: the trim unit of its discard that holds it (up to 204 entries each)
  freed : Option Nat         -- the discard that freed its staging slot before its release (R403)
  rseq : Option Nat          -- the last page that carries a part of it, once all are released
  passed : Bool              -- every page that carries a part of it reported pass
  stage : List (Nat × Nat) := [] -- staging bank and slot of each of its blocks while it is latent (R378, R388)
  again : Bool := false      -- released once, and to be placed again after a failed program or a lost channel (R410, R430)
deriving DecidableEq, Repr

/-- What one die unit slot of a page holds. -/
inductive SlotUse where
  | filler
  | unit (plot lba order : Nat) (src : Option Nat)   -- `src`: the address a move took it from (R397)
  | trim (order part : Nat)
  | mapSegment (plot seg : Nat) (image : List Byte)  -- as written back (Table FLD-3)
  | fixPage (count idx : Nat) (image : List Byte)    -- page `idx` of the fix point with this FIXCOUNT (R454)
  | parity
deriving DecidableEq, Repr

/-- A page the drill has begun to fill, or has released. -/
structure PageRec where
  blk : BlkId
  page : Nat
  kind : Nat                 -- KIND of Table FIX-1
  slots : List SlotUse
  rseq : Option Nat          -- RSEQ once released
  stamp : Nat
  fixcount : Nat
  begun : Bool               -- its program has been started (R99)
  passed : Bool
  failed : Bool
  stale : List Nat           -- slots whose copy is invalid: superseded while it was moved, or not mapped by a recovery (R397, R464)
deriving DecidableEq, Repr

/-- A stripe set (R380, R381). -/
structure StripeSet where
  idx : Nat
  cls : Nat                  -- 0 to S − 1 host classes, S the Seedbed class, S + 1 the map class
  members : List BlkId
  open_ : Bool
  slc : Bool
  gen : Bool                 -- key generation it was opened under (R349)
  group : Nat                -- row group being filled
  member : Nat               -- data member being filled
  page : Nat                 -- page within the row group
  slot : Nat                 -- slot within the page
deriving DecidableEq, Repr

/-- A map entry: absent is unmapped (R373). `addr` is the 48-bit address of Table FLD-2; `lost` the LOST address. -/
structure MapEnt where
  plot : Nat
  unit : Nat
  addr : Nat
  lost : Bool
deriving DecidableEq, Repr

/-- Why valid units are moved out of a block. -/
inductive MoveWhy where
  | glean | fold | refresh | rebuild | rekey | secure
deriving DecidableEq, Repr

/-- A block being emptied (R395, R427, R437, R404). -/
structure MoveRun where
  why : MoveWhy
  blk : BlkId
  ticket : Option Nat
  read : List (BlkId × Nat)  -- pages that have been read for it (R396)
deriving DecidableEq, Repr

/-- A flush or FUA write waiting for the floor to reach its number (R449), or for the release bound of R292. -/
structure Waiter where
  key : TaskKey
  order : Nat                -- its number; with a release bound, how many versions were accepted at its grant
  rseqBound : Option Nat     -- a flush at the order-number end waits for every RSEQ below this
deriving DecidableEq, Repr

/-- A secure discard in progress (R404). -/
structure SecureRun where
  key : TaskKey
  order : Nat
  blocks : List BlkId
deriving DecidableEq, Repr

/-- The map unit, or Credential record, that a bulk re-key is rewriting (R350, R351). -/
structure RekeyUnit where
  plot : Nat
  parts : List (Nat × Nat)   -- LBA and source address of each block, ascending
  pages : List (BlkId × Nat) -- page reads still to come
  toDecrypt : List Nat       -- LBAs whose decryption is still to come
  toEncrypt : List Nat       -- LBAs whose echo check is still to come
deriving DecidableEq, Repr

/-- A page being rebuilt from the other members of its stripe (R414). -/
structure Rebuild where
  blk : BlkId
  page : Nat
  waiting : List BlkId       -- members whose page is still to be read
  asked : List BlkId         -- members whose read has been queued or sent
  lost : Bool                -- a second member did not decode (R432, R439)
deriving DecidableEq, Repr

/-- A map segment on its way into the cache: the address of its newest copy, none when none is on the medium, and the dirty
segment whose write-back must be programmed first (R377). -/
structure SegRead where
  plot : Nat
  seg : Nat
  addr : Option Nat
  victim : Option (Nat × Nat)
deriving DecidableEq, Repr

/-- A page that a merge reads for the blocks its command does not cover (R375). -/
structure MergeRead where
  blk : BlkId
  page : Nat
  done : Bool
deriving DecidableEq, Repr

/-- A directory or block-table page as it stands on the medium: its content, its address (Table FIX-4), and the QBASE of a
block-table page (R457). -/
structure FixPageRec where
  dir : Bool
  idx : Nat
  addrs : List Nat           -- a directory page's entries
  recs : List BlockRec       -- a block-table page's entries
  qbase : Nat
  addr : Nat
deriving DecidableEq, Repr

/-- A fix point (Table FIX-3, Table FIX-5). -/
structure FixRec where
  count : Nat
  floor : Nat
  high : Nat
  rseq0 : Nat
  wall : Nat
  qsum : Nat
  list : List (BlkId × Nat)       -- replay list: block and NEXTPAGE
  segs : List (Nat × Nat × Nat)   -- the map segments its directory names: Plot, segment, address
  pages : List Nat                -- addresses of the pages it is made of
  header : Nat                    -- ADDR of its contact-sheet entry (Table FIX-5)
deriving DecidableEq, Repr

/-- A contact-sheet entry of a Field (Table FIX-5): a fix point, or a hold-up seal with the fix point it follows. -/
structure SheetEntry where
  seq : Nat
  isSeal : Bool
  fix : Option FixRec
  floor : Nat
deriving DecidableEq, Repr

/-- A fix point in progress (R454). -/
structure FixRun where
  point : FixRec
  written : Bool             -- its own pages have been written: steps 3 to 5
  ticket : Option Nat
deriving DecidableEq, Repr

structure FieldState where
  entries : List Entry             -- accepted versions, oldest first
  map : List MapEnt                -- programmed copies
  heats : List (Nat × Nat × Nat)   -- HEAT: heat class of each unit that has one, by Plot and unit (R379)
  pages : List PageRec
  sets : List StripeSet
  nextSet : Nat                    -- the next stripe-set index i (R381)
  diePtr : List (Nat × Nat × Nat)  -- per (channel, die) pointer of R383
  blocks : List (BlkId × BlockRec) -- records that differ from a fresh block's
  seedSize : Nat
  gleaning : Bool
  hostWait : Bool
  spaceOut : Bool
  fallow : List (BlkId × Nat)      -- with the FIXCOUNT at entry (R400)
  moves : List MoveRun
  doomed : List BlkId              -- blocks with a page that needed stage 5: retired once emptied (Table MED-4)
  needs : List (Nat × Nat)         -- dies that needed a block the recorded replay list does not name (R459)
  rekeys : List RekeyUnit
  rebuilds : List Rebuild
  merges : List MergeRead
  secure : List SecureRun
  waiters : List Waiter
  fix : Option FixRun
  fixPages : List FixPageRec       -- directory and block-table pages on the medium
  recorded : Option FixRec
  sheet : List SheetEntry          -- the contact-sheet entries of the Field, newest first (R460, R461)
  sealFloor : Option Nat                -- FLOOR of a hold-up seal newer than the fix point
  sheetSeq : Nat
  fixcount : Nat                   -- `FLD_FIX`
  sinceFix : Nat                   -- units programmed since the last fix point
  rseqNext : Nat
  qsum : Nat
  doseI : Nat                      -- the dose increment I
  doseISat : Bool                  -- I has saturated since it was last applied (R422)
  cache : List (Nat × Nat × Bool)  -- map cache: (Plot, segment, dirty), most recent first
  segReads : List SegRead          -- map segments looked up and not in the cache yet (R377)
  stage6 : List (BlkId × Nat × Nat) -- places of map units that reached stage 6 (R419)
  misses : Nat                     -- `FLD_MAPC`.MISSES
  victims : Nat                    -- `FLD_GLEAN`
  stale : Nat
  replaying : Bool
  unreadable : Bool                -- R466
  floor : Nat                      -- `FIX_FLOOR`
  replayPages : Nat                -- `FIX_REPLAY`
  discarded : Nat
  gaps : Nat                       -- `FIX_GAP`
  replayMs : Nat
  headland : Int                   -- `MED_HEADLAND`
  roHead : Bool                    -- Read-only under R435
  health : Nat                     -- last reported health
  doseSat : Nat                    -- `MED_DOSE`.SAT
  corrMax : Nat                    -- `MED_ECC`
  soft : Nat
  retry : Nat                      -- `MED_ESC`
  parity : Nat
  unrecov : Nat                    -- `MED_LOST`.UNRECOV
  refDose : Nat                    -- `MED_REFRESH`
  refReads : Nat
  refEsc : Nat
deriving DecidableEq, Repr

/-- Wall time and off-time dose (R424). -/
structure WallState where
  e : Nat                    -- the estimate E, seconds
  wLo : Word                 -- `MED_WALL_LO` as last written
  offTj : Int                -- `MED_OFF`.OFF_TJ
  set : Bool                 -- WALL_SET
deriving DecidableEq, Repr

/-- Hold-up (`FIX_HOLD`). -/
structure HoldState where
  ok : Bool                  -- level of HOLDUP_OK
  pwrFail : Bool             -- PWR_FAIL_N asserted
  effective : Bool           -- R469 in force
  holding : Bool
  sealed : Bool
  dark : Bool                -- PWR_FAIL_N fell in Dark: CE_N and WP_N stay held until it rises (R475)
  lastSealed : Bool
  holds : Nat
deriving DecidableEq, Repr

/-! ### Channel engines (chapter "Channel engines and NAND recipes") -/

/-- The operations of Table CHN-3. -/
inductive OpKind where
  | read | program | erase | reset | init | status | retrySet | zq | suspend | resume
deriving DecidableEq, Repr

/-- Priority classes of a die queue entry (R61). -/
inductive QPri where
  | hostRead | internalRead | program | erase
deriving DecidableEq, Repr

/-- How far a page read has escalated (Table MED-2): the stage and step of its next READ, the soft offset it uses, the steps
still to visit, and the hard read that left the fewest unsatisfied checks so far, with whether a soft decode of it alone succeeds
(R485). -/
structure Escalation where
  stage : Nat
  s0 : Nat
  step : Nat
  soft : Nat                 -- index of the soft read in its code's offsets (Table CHN-2)
  todo : List Nat
  best : Nat × Nat × Bool    -- step, unsatisfied checks, soft decode of that read alone
deriving DecidableEq, Repr

/-- One die-queue entry. -/
structure DieOp where
  pri : QPri
  blk : BlkId
  page : Nat
  slot : Nat                 -- first slot wanted (reads)
  nunit : Nat                -- units wanted (reads)
  slc : Bool
  aborted : Bool             -- re-queued once after a mode abort (R496)
  rekey : Option Nat         -- a read of the bulk re-key of this Plot (R353)
  esc : Option Escalation    -- reads past their first try (R417)
  step : Option Nat          -- read step of a READ that has begun (R418)
  oldSet : Bool              -- begun under the old recipe and queued again (R140)
deriving DecidableEq, Repr

/-- A cycle the engine put on the NAND bus. -/
inductive BusCycle where
  | cmd (b : Byte)
  | addr (b : Byte)
  | dataOut (bytes : List Byte)
  | dataIn (bytes : Nat)
  | wait (ns : Nat)
deriving DecidableEq, Repr

/-- An open loop of a recipe. -/
structure LoopFrame where
  word : Nat                 -- index of the LOOP word
  count : Nat
  index : Nat
  src : LoopSrc
deriving DecidableEq, Repr

/-- What a running recipe waits for. -/
inductive SeqWait where
  | none
  | time                     -- WAIT
  | busy                     -- the BUSY time before the first poll (R492)
  | poll                     -- the 1 µs poll interval
deriving DecidableEq, Repr

/-- An operation running on a die: the sequencer's state. -/
structure RunOp where
  kind : OpKind
  entry : Nat                -- entry point index (Table LAY-14)
  ops : List DieOp           -- the die-queue entries it serves (two or more when combined, R486)
  npl : Nat
  nbit : Nat
  rank : Nat                 -- CE rank (ZQ)
  retry : List Byte          -- the 8 offset bytes of RETRY_SET
  retryStep : Nat
  retryDelta : Int           -- the soft offset added to them (R484)
  entered : Bool             -- ENTER has run
  word : Nat                 -- index of the next word
  last : Nat                 -- index of the word that ran last
  fs : Byte
  v : List Word              -- V0 to V3
  loops : List LoopFrame     -- innermost first
  err : Nat                  -- word of the error branch, 0xFFF none
  tmo : Nat                  -- TIMING index of the timeout
  inError : Bool             -- the error branch has been entered
  waiting : SeqWait
  pollByte : Byte            -- the status command of the poll
  pollLun : Bool             -- the poll names the LUN's row (78h)
  sinceMode : Nat            -- 2 after MODE, counted down by each step; 0: no abort window (R496)
  lastPending : Bool         -- LAST was set on the word that is waiting
  decoded : List PageDecode  -- what DIN PAGE returned, oldest first
  oldSet : Bool              -- it runs under the old recipe (R140)
  stopped : Bool             -- stopped at a step boundary by a slot (R80)
  again : Bool               -- a housekeeping operation run again after a mode abort (R496)
deriving DecidableEq, Repr

structure DieState where
  queue : List DieOp         -- at most 32 entries
  run : Option RunOp
  susp : Option RunOp
  aside : Option RunOp       -- an array-busy operation a slot stopped, while its die's STATUS runs (R502)
  redo : Option RunOp        -- a housekeeping operation that a mode abort cut off, to run once more (R496)
  suspCount : Nat
  readsInSusp : Nat          -- reads served since the suspension (R501)
  iface : Nat                -- present mode: 0 SDR, 1 NV-DDR3, 2 Toggle DDR
  tmode : Nat
  burst : Nat                -- consecutive reads that passed a waiting program or erase (R61)
  step : Option Nat          -- loaded read step, when VALID (`CHN_STEP`)
  delta : Int                -- the soft offset loaded with it (R484)
  todo : List OpKind         -- housekeeping operations owed: RESET and INIT (R487), STATUS (R502)
deriving DecidableEq, Repr

structure ChanState where
  dies : List DieState       -- 16
  phase : Option Nat         -- the die whose bus phase runs (R498)
  ready : List Nat           -- dies ready for a bus phase, the longest ready first (R498)
  paced : Nat                -- operations issued in the present window of 16 while host commands waited (R353)
  pacedRekey : Nat           -- of them, reads of a bulk re-key
  fenced : Bool
  fenceLatched : Bool
  strikes : Nat
  swept : Bool               -- in its sweep slot
  zq : Bool                  -- in its ZQ slot
  stopped : Bool             -- stopped: Dark, Off or not started
  ifaceNow : Nat             -- `CHN_STAT`
  tmodeNow : Nat
  rate : Nat
  faultStep : Nat            -- `CHN_FAULT`
  faultEntry : Nat
  faultLevel : Nat
  faultInLoop : Bool
  faultKind : Nat
  faultIter : Nat            -- `CHN_FAULT_LOOP`
  faultRemain : Nat
  faultDie : Nat
  progFail : Nat             -- `CHN_CNT`
  eraseFail : Nat
  suspends : Nat             -- `CHN_SUSP`
  aborts : Nat
  zqCycle : Nat              -- `CHN_ZQ`
  zqCount : Nat
  zqFail : Bool
  zqSkipped : Bool
  zqRanks : Nat              -- CE ranks whose ZQ operation has started in the present ZQ slot
  corrMax : Nat              -- `CHN_LDPC`
  soft : Nat
  bus : List BusCycle        -- the cycles of the last executed word
deriving DecidableEq, Repr

/-! ### Granary (chapter "The Granary embedded flash") -/

/-- The commands of `GRN_CMD`. -/
inductive GrnOp where
  | read | program | erase | inc
deriving DecidableEq, Repr

/-- A Granary command accepted and not yet ended. -/
structure GrnCmd where
  req : Identity
  op : GrnOp
  area : Nat
  margin : Nat
  count : Nat
  addr : Nat
deriving DecidableEq, Repr

/-- One requester's copy of the protocol registers (R517). -/
structure GrnBank where
  arm : Nat                  -- 0 unarmed, 1 first key seen, 2 armed
  addr : Nat
  data : List Word           -- `GRN_DATA`, 64 words
  done : Bool
  corr : Nat
  warn : Bool
  err : Nat                  -- `GRN_ERR`, 16 bits
deriving DecidableEq, Repr

/-- The erase in the array, running or suspended: a requester's sectors, or a batch of the controller's own (R541). -/
structure GrnErase where
  req : Identity
  first : Nat
  count : Nat
  batch : Nat                -- released pool sectors it erases; 0 is a requester's ERASE
  suspended : Bool
  bySuspend : Bool
  resumes : Nat
deriving DecidableEq, Repr

/-- The activation record (R127). -/
structure ActRecord where
  slot : Slot
  epoch : Nat
  digest : List Byte
deriving DecidableEq, Repr

/-- A Seed-row word: unprogrammed, programmed, or left undefined by a power loss (Table GRN-10). -/
inductive SeedWord where
  | blank
  | value (bytes : List Byte)
  | undefined
deriving DecidableEq, Repr

/-- One copy of a structure: its log of pool sectors and the entries in the last of them (R538). -/
structure PoolLog where
  struct : Nat
  copy : Nat
  sectors : Nat
  pos : Nat
deriving DecidableEq, Repr

structure GrnState where
  mem : List Host.Cell       -- window bytes by logical address: slots and OEM area; unlisted reads 0xFF (erased)
  undef : List Nat           -- logical addresses of code words left undefined by a power loss
  ones : List Nat            -- logical addresses of code words programmed with 32 bytes of 0xFF
  seed : List SeedWord       -- 64 words
  seedNow : List SeedWord    -- words 0 to 31 as the present session uses them (R531, R532)
  seedCopies : Nat           -- `GRN_POOL`.SEED_COPY
  counters : List Nat        -- 64
  act : Option ActRecord
  faults : List LogRec       -- fault area, newest first, at most 64
  bankA : GrnBank
  bankB : GrnBank
  bankStk : GrnBank
  bankJtag : GrnBank
  queue : List GrnCmd        -- accepted commands in grant order, the head holds or waits for the array
  erase : Option GrnErase
  cfgWarn : Nat              -- `GRN_CFG`.WARN
  s : Nat                    -- ledger
  a : Nat
  erases : Nat
  subs : List (Nat × Nat)    -- (failed sector, substitute)
  retired : List Nat
  weak : List Nat
  bad : List Nat             -- logical sectors marked BAD (R513)
  ledgerSeq : Nat
  sinceLedger : Nat
  logs : List PoolLog        -- the structure copies' logs (R538 to R541)
  poolErased : Nat           -- `GRN_POOL`.ERASED
  released : Nat             -- pool sectors released and not erased yet
deriving DecidableEq, Repr

/-! ### Banks and access control -/

/-- One port of a bank: its rotating pointer, the BUSY cycles of `BNK_BUSY`, and the word for which it is the earlier port in
the next conflict (R548, R550). -/
structure BankPort where
  pointer : Nat
  busy : Nat
  ahead : Option Nat
deriving DecidableEq, Repr

structure BankState where
  owner : Identity
  role : Nat
  field : Nat                -- 0xFF for none
  scrubbing : Bool
  result : Nat               -- `BNK_STAT`.RESULT
  ce : Nat                   -- `BNK_ECC`
  ue : Nat
  ueWord : Nat               -- `BNK_UE_ADDR`
  ueParity : Bool
  ueReq : Identity
  near : BankPort
  far : BankPort
  cycleCe : Nat              -- corrections in this sweep cycle
deriving DecidableEq, Repr

/-- One host identity's window and atomic registers. -/
structure WinState where
  page : Nat                 -- `BNK_WIN`.PAGE
  atomAddr : Nat             -- `BNK_ATOM_ADDR`
  opndLo : Word
  opndHi : Word
  resLo : Word
  resHi : Word
  carry : Bool               -- `BNK_ATOM_STAT`
  done : Bool
  denied : Bool
  ue : Bool
  bad : Bool
deriving DecidableEq, Repr

/-- A violation record, Table MPU-1. -/
structure VioRec where
  seq : Nat
  addr : Nat
  space : Bool
  kind : Nat                 -- 0 read, 1 write, 2 atomic
  byOwner : Bool
  part : Bool
  requester : Identity
  region : Nat               -- 0xFFFF for an ownership refusal
  time : Nat
  length : Nat
deriving DecidableEq, Repr

structure MpuState where
  regions : List MpuCfg      -- ascending index; an unlisted region is all zero
  lock : Bool                -- `MPU_CTRL`.LOCK
  refused : Bool
  records : List VioRec      -- the last 64 written, newest first
  head : Nat                 -- `MPU_VIO_STAT`.HEAD
  unread : Nat
  lost : Nat
deriving DecidableEq, Repr

/-! ### The stack ring -/

/-- A frame sent on a link (Table STK-2, Table STK-3): the header fields that belong to the frame and its payload. -/
structure OutFrame where
  ty : Nat
  bcast : Bool
  resp : Bool
  rerouted : Bool
  dest : Nat
  src : Nat
  hops : Nat
  tag : Nat
  payload : List Byte
deriving DecidableEq, Repr

/-- One link. -/
structure LinkState where
  idle : Bool                -- held in electrical idle
  up : Bool
  lock : Nat                 -- `STK_LINK`.LOCK, 4 bits
  replays : Nat
  downs : Nat
  txSeq : Nat                -- next LSEQ
  rxSeq : Nat                -- last LSEQ taken in order
  unacked : List (Nat × OutFrame) -- replay buffer, oldest first
  replayRun : Nat            -- consecutive replays of the oldest frame
  credits : Nat              -- credits held for sending
  owed : Nat                 -- credits to return
  waiting : List OutFrame    -- frames that wait for a credit
  nakSent : Bool             -- every later frame is discarded until the replay arrives
  sent : List OutFrame       -- the last 64 frames put on the link, oldest first
deriving DecidableEq, Repr

/-- A block key of Table STK-6, with what R602 compares. -/
structure BlkKey where
  order : Nat
  plot : Nat
  lba : Nat
  env : Envelope
  digest : Nat
deriving DecidableEq, Repr

/-- What a request kept for its response is about. -/
inductive ReqWhy where
  | task (key : TaskKey)                     -- a SCSI command of this member's host, forwarded to the master (R613)
  | vault (p : Port) (tag opcode : Nat)      -- a vault capsule, forwarded to the master
  | reg (id : Identity)                      -- `STK_ROP` (R604)
  | block (key : BlkKey) (page : Option Nat) -- a BLK_HEAD and BLK_DATA pair; `page` the address it is staged for
  | page (addr : Nat)                        -- PAGE_REL
  | read (key : TaskKey) (lba : Nat)         -- READ_REQ for a block of a command
  | member (field : Nat) (blk : BlkId) (page : Nat) -- READ_REQ for the page of a stripe member (R414)
  | other
deriving DecidableEq, Repr

/-- A request kept until its response arrives (R599). -/
structure RingReq where
  tag : Nat
  dest : Nat
  frame : OutFrame
  second : Option OutFrame   -- the BLK_DATA of a BLK_HEAD
  resent : Bool
  why : ReqWhy
deriving DecidableEq, Repr

/-- A block of a wide Field staged in a bank of this member. -/
structure WideBlk where
  key : BlkKey
  bank : Nat
  slot : Nat
  data : Block
  addr : Option Nat          -- its unit address, once PAGE_REL names its slot
  passed : Bool              -- its page is programmed: the copy on the member's die
deriving DecidableEq, Repr

/-- A ring key-store entry. -/
structure RingKey where
  plot : Nat
  gen : Nat
  old : Bool
  keys : List Byte
deriving DecidableEq, Repr

/-- A shadow copy at the master (R611): the page it is placed on and the staging slot the drill chose at its position. -/
structure Shadow where
  pos : Nat
  plot : Nat
  lba : Nat
  order : Nat
  page : Nat
  bank : Nat
  slot : Nat
deriving DecidableEq, Repr

/-- One host identity's remote-access registers. -/
structure RemoteBank where
  addr : Nat
  pos : Nat
  data : Word
  pending : Bool
  done : Bool
  result : Nat
  tag : Nat
deriving DecidableEq, Repr

/-- A READ_REQ at a member: whom it answers, and the units it asks for (R613). -/
structure MemberRead where
  src : Nat
  tag : Nat
  addr : Nat
  nunit : Nat
deriving DecidableEq, Repr

structure StkState where
  role : Nat                 -- STK_ROLE as sampled
  state : Nat                -- `STK_STAT`.STATE
  pos : Option Nat
  count : Nat
  size : Nat                 -- devices that answered the enumeration: N of R598
  broken : List Nat          -- positions p known to have no link to position p + 1
  refusal : Nat
  up : LinkState
  dn : LinkState
  window : Bool              -- the enumeration window is open
  entries : List (Nat × EnumEntry)  -- positions found, ascending
  members : List (Nat × Nat) -- admitted positions with their SERIAL
  absent : List Nat
  dark : List Nat            -- positions whose last POWER event was Dark (R620)
  requests : List RingReq
  nextTag : Nat
  keys : List BlkKey         -- block deduplication table
  retire : Nat
  regSeen : List (Nat × List RegDone)      -- last 64 REG frames: TAG and response
  ioSeen : List (Nat × Nat × List Byte)    -- SRC, TAG and the stored response
  pageSeen : List (Nat × Nat × Option Bool) -- ADDR, TAG and, when done, pass or fail
  copies : Nat               -- `STK_DEDUP`.COPIES
  heads : List (Nat × Nat × BlkHead)       -- BLK_HEADs waiting for BLK_DATA: SRC and TAG
  wide : List WideBlk
  reads : List MemberRead    -- READ_REQs a member has not answered
  shadows : List Shadow
  brecs : List (Nat × BlockRec)            -- the master's copy of members' block records, by address
  tags : List (Nat × PageTag)              -- page tags gathered by SCAN
  time : Nat                 -- stack time at the last TIME frame
  timeLocal : Nat            -- own µs since reset at that instant
  keyStore : List RingKey
  pairs : List (Nat × List Byte × List Byte) -- ephemeral key pairs by position: private, public
  transport : List (Nat × List Byte)       -- transport key by position
  bankA : RemoteBank
  bankB : RemoteBank
  bankStk : RemoteBank
  ctrlResult : Nat           -- `STK_CTRL`.RESULT
  dup : Bool                 -- DUP_MASTER: links idle until reset
  lone : Bool                -- LONE of INFO.STATE
  masterGone : Bool          -- a member that has lost its master (R608)
deriving DecidableEq, Repr

/-! ### JTAG -/

structure JtagState where
  ir : Nat                   -- instruction register
  cspaceValue : Word         -- the last value read
  sampled : List Bool        -- boundary-scan cells captured by SAMPLE
  preload : List Bool
  driven : Option (List Bool) -- EXTEST: the cells driven onto the balls
  dr : Nat                   -- data register selected: 0 bypass, 1 IDCODE, 2 boundary scan, 3 CSPACE
  drValue : Nat              -- what Capture-DR loaded
deriving DecidableEq, Repr

/-! ### The whole machine -/

/-- What the last Control-space access of an identity answered: 0 OK, 2 DENIED, as a REG entry carries it (Table FNC-5). -/
structure RegReply where
  id : Identity
  value : Word
  st : Nat
deriving DecidableEq, Repr

structure State where
  member : Member
  stepping : Stepping
  timeUs : Nat               -- µs since reset, from the reference counter
  free : Nat                 -- MODEL's own field: how many free values have been drawn (log 3)
  pending : List Instr       -- commands waiting, first in, first out
  snaps : List (Identity × Nat × Word)  -- snapshots of R48: reader, address of the HI register, value
  replies : List RegReply    -- one per identity that has accessed the Control space
  arb : ArbState
  engines : List CipherState
  saf : SafState
  lay : LayState
  pwr : PwrState
  portA : PortState
  portB : PortState
  fn : FnState
  sem : SemState
  plots : List PlotState
  sec : SecState
  fields : List FieldState
  wall : WallState
  hold : HoldState
  chans : List ChanState
  grn : GrnState
  banks : List BankState
  bankMem : List Host.Cell   -- bank-space bytes; unlisted reads 0
  bankBad : List Nat         -- bank-space word addresses that read uncorrectable
  wins : List WinState       -- 0x80, 0x81, 0x82
  mpu : MpuState
  stk : StkState
  jtag : JtagState
deriving DecidableEq, Repr

/-- Why a step of the block stops. -/
inductive Fault where
  /-- Never raised: the spec gives every command of the table an effect, and a memory access outside the block's own
  buffers is reserved space (R9). Kept so that the type names a reason; safe. -/
  | unmappedBuffer
deriving DecidableEq, Repr

/-- Why the model has no meaning for a command. -/
inductive Refusal where
  /-- Raised by an arm of `exec` that is not modelled yet; safe: it claims nothing about the hardware. -/
  | notModelled (mnemonic : String)
deriving DecidableEq, Repr

/-! ### The machine right after reset -/

namespace Reset

def strip : StripRec := ⟨none, none⟩
def deep : DeepState := ⟨0, 0, 0, 0, 0, 0, [], [0, 0, 0], [0, 0, 0]⟩

def arb (m : Member) : ArbState where
  ordNext := 0x0100_0000
  ordResume := 0x0100_0000
  lockstep := false
  ordEnd := false
  noCipher := false
  pointer := 0
  jtagTurn := false
  reserved := m.defaultReservations
  tickets := []
  sharedMin := m.pool - m.defaultReservations.sum
  tsfA := 0
  tsfB := 0
  wdogTime := 3
  wdogReq := 0
  wdogResp := 0
  wdogCount := 0
  readBurst := 8
  dispPtr := 0
  lastGrant := none
  loose := []

def engine : CipherState := ⟨[], false, false, false, false, 0, [], 0, 0⟩

def saf (m : Member) : SafState where
  scopes := []
  starting := true
  causeCode := 0
  safeNHeld := true
  log := []
  logHead := 0
  ppmA := some 0
  ppmB := some 0
  lastSof := .a
  devA := 0
  devB := 0
  railOut := 0
  railNow := []
  hot := List.replicate 24 0
  chnSlot := 0
  cphSlot := 0
  strSlot := 0
  zqSlot := false
  cycle := 0
  sweepOn := false
  cycleDone := false
  chnStrips := List.replicate m.channels strip
  cphStrips := List.replicate m.ciphers strip
  strStrips := List.replicate 35 strip
  chnStrip := none
  cphStrip := none
  strStrip := none
  deep := deep
  recPending := none
  recResult := 0
  recCount := 0
  deferred := []
  stripTickets := [none, none, none]
  stripAsked := []
  strikeLimit := 3
  sofCheck := true

def slot : SlotState := ⟨0, false, false, 0⟩

def lay : LayState where
  active := none
  activeSlot := .a
  op := 4
  result := 0
  starting := true
  run := none
  slots := [slot, slot]
  digest := List.replicate 48 0
  recipePend := []
  oldRecipes := []
  errOffset := 0
  errAt := 0

def pwr : PwrState where
  cause := 0
  railDip := false
  step := 1
  attach := 0
  b := 0
  state := .lit
  xfer := none
  result := 0
  bySuspend := false
  before := .lit
  dimBefore := 0
  target := 2
  durable := false
  tempAlert := 100
  frameWaits := false
  dimReg := 0
  dimNow := 0
  sens := List.replicate 24 0
  tj := 0
  tjSensor := 0
  alert := false
  peak := 0
  refPresent := false
  ampOn := false
  railsUp := true
  calTrim := false

def emb : EmbPort := ⟨none, false, false, false, false, false, false, true, false, false, false, 0, false⟩

def port : PortState where
  vbus := false
  flip := false
  ssTerm := false
  dPlus := false
  speed := .none
  link := 0
  configured := false
  wakeEn := false
  u1Enable := false
  u2Enable := false
  emb := List.replicate 16 emb
  eps := []
  sof := ⟨0, 0, false⟩
  lpmAcc := 0
  lpmRej := 0
  wakeLast := 0
  wakeCount := 0
  wakeSignals := 0
  aborts := 0
  detaches := 0
  hubStatus := 0
  answer := .none

def portFn : PortFn := ⟨[], [], 1, 0, 0, 0, 0, none, none, []⟩

def fn : FnState := ⟨[], [], [], [], portFn, portFn, [], 0⟩

def sem : SemState := ⟨List.replicate 128 idNone, 0, 0, 0, 0, idNone, 0, 0, 0, 0⟩

def record : KeyRecord := ⟨false, 0, false, false, 0, false, 0, [], [], [], [], 0, 0⟩

def plot : PlotState := ⟨.absent, 0, false, 0, record, false, none, 15, 0, 0, none, [], none⟩

def sec : SecState := ⟨0, false, false, false, false, false, false, false, false, idNone, false, 0⟩

def field : FieldState where
  entries := []
  map := []
  heats := []
  pages := []
  sets := []
  nextSet := 0
  diePtr := []
  blocks := []
  seedSize := 0
  gleaning := false
  hostWait := false
  spaceOut := false
  fallow := []
  moves := []
  doomed := []
  needs := []
  rekeys := []
  rebuilds := []
  merges := []
  secure := []
  waiters := []
  fix := none
  fixPages := []
  recorded := none
  sheet := []
  sealFloor := none
  sheetSeq := 0
  fixcount := 0
  sinceFix := 0
  rseqNext := 0
  qsum := 0
  doseI := 0
  doseISat := false
  cache := []
  segReads := []
  stage6 := []
  misses := 0
  victims := 0
  stale := 0
  replaying := false
  unreadable := false
  floor := 0
  replayPages := 0
  discarded := 0
  gaps := 0
  replayMs := 0
  headland := 0
  roHead := false
  health := 0
  doseSat := 0
  corrMax := 0
  soft := 0
  retry := 0
  parity := 0
  unrecov := 0
  refDose := 0
  refReads := 0
  refEsc := 0

def wall : WallState := ⟨0, 0, 40, false⟩
def hold : HoldState := ⟨false, false, false, false, false, false, false, 0⟩

def die : DieState := ⟨[], none, none, none, none, 0, 0, 0, 0, 0, none, 0, []⟩

def chan : ChanState where
  dies := List.replicate 16 die
  phase := none
  ready := []
  paced := 0
  pacedRekey := 0
  fenced := false
  fenceLatched := false
  strikes := 0
  swept := false
  zq := false
  stopped := true
  ifaceNow := 0
  tmodeNow := 0
  rate := 0
  faultStep := 0
  faultEntry := 0
  faultLevel := 0
  faultInLoop := false
  faultKind := 0
  faultIter := 0
  faultRemain := 0
  faultDie := 0
  progFail := 0
  eraseFail := 0
  suspends := 0
  aborts := 0
  zqCycle := 0
  zqCount := 0
  zqFail := false
  zqSkipped := false
  zqRanks := 0
  corrMax := 0
  soft := 0
  bus := []

def grnBank : GrnBank := ⟨0, 0, List.replicate 64 0, false, 0, false, 0⟩

/-- Seed word 0 as the factory leaves it: 16 serial bytes, the member code and the stepping (Table GRN-6). -/
def seedWord0 (m : Member) (st : Stepping) : List Byte :=
  List.replicate 16 (0 : Byte) ++ [BitVec.ofNat 8 m.channels, match st with | .a0 => 0x00 | .b0 => 0x10] ++
    List.replicate 14 (0 : Byte)

def grn (m : Member) (st : Stepping) : GrnState where
  mem := []
  undef := []
  ones := []
  seed := (.value (seedWord0 m st) :: List.replicate 31 .blank) ++ (.value (seedWord0 m st) :: List.replicate 31 .blank)
  seedNow := .value (seedWord0 m st) :: List.replicate 31 .blank
  seedCopies := 0
  counters := List.replicate 64 0
  act := none
  faults := []
  bankA := grnBank
  bankB := grnBank
  bankStk := grnBank
  bankJtag := grnBank
  queue := []
  erase := none
  cfgWarn := 2
  s := 0
  a := 0
  erases := 0
  subs := []
  retired := []
  weak := []
  bad := []
  ledgerSeq := 0
  sinceLedger := 0
  logs := []
  poolErased := m.oemFirst - 2 * m.slotSectors
  released := 0

def bankPort : BankPort := ⟨0, 0, none⟩
def bank : BankState := ⟨idNone, 0, 0xFF, false, 0, 0, 0, 0, false, idNone, bankPort, bankPort, 0⟩
def win : WinState := ⟨0, 0, 0, 0, 0, 0, false, false, false, false, false⟩
def mpu : MpuState := ⟨[], false, false, [], 0, 0, 0⟩

def link : LinkState := ⟨true, false, 0, 0, 0, 0, 0xFFF, [], 0, 0, 0, [], false, []⟩
def remote : RemoteBank := ⟨0, 0, 0, false, false, 0, 0⟩

def stk : StkState where
  role := 2
  state := 0
  pos := none
  count := 0
  size := 0
  broken := []
  refusal := 0
  up := link
  dn := link
  window := false
  entries := []
  members := []
  absent := []
  dark := []
  requests := []
  nextTag := 0
  keys := []
  retire := 0
  regSeen := []
  ioSeen := []
  pageSeen := []
  copies := 0
  heads := []
  wide := []
  reads := []
  shadows := []
  brecs := []
  tags := []
  time := 0
  timeLocal := 0
  keyStore := []
  pairs := []
  transport := []
  bankA := remote
  bankB := remote
  bankStk := remote
  ctrlResult := 0
  dup := false
  lone := false
  masterGone := false

def jtag : JtagState := ⟨0xFF, 0, [], [], none, 0, 0⟩

/-- The member `m` of stepping `st` right after reset. -/
def state (m : Member) (st : Stepping) : State where
  member := m
  stepping := st
  timeUs := 0
  free := 0
  pending := []
  snaps := []
  replies := []
  arb := arb m
  engines := List.replicate m.ciphers engine
  saf := saf m
  lay := lay
  pwr := pwr
  portA := port
  portB := port
  fn := fn
  sem := sem
  plots := List.replicate m.plots plot
  sec := sec
  fields := List.replicate m.fields field
  wall := wall
  hold := hold
  chans := List.replicate m.channels chan
  grn := grn m st
  banks := List.replicate m.banks bank
  bankMem := []
  bankBad := []
  wins := List.replicate 3 win
  mpu := mpu
  stk := stk
  jtag := jtag

end Reset

/-- The Z96 of stepping B0 right after reset: start step 1, device scope shown, nothing active (R101, R189, R193). -/
def State.reset : State := Reset.state .z96 .b0

end Sys2Proof.Machine
end

