-- ==== Sys2Proof/Machine/Flags.lean ====
section
/-! DEFINITION. The access codes of Table GLB-1 as operations on a field, and the counting fields of R10. -/

namespace Sys2Proof.Machine

/-- A hardware event counted in a field that saturates at `top` (R10). -/
def count (top n : Nat) : Nat := satAdd top n 1

/-- The value an RC field holds after a clearing read in whose tick `events` hardware events increment it: the clear
first, then the increments, saturating (R10). -/
def rcAfter (top events : Nat) : Nat := satAdd top 0 events

/-- A W1C write: each 1 clears that bit (Table GLB-1). -/
def w1c (old value : Nat) : Nat := old &&& (old ^^^ (old &&& value))

/-- A W1S write: each 1 sets that bit (Table GLB-1). -/
def w1s (old value : Nat) : Nat := old ||| value

/-- An RWL write: the value until the lock is set, ignored afterwards (R11). -/
def rwl (lock : Bool) (old value : Nat) : Nat := if lock then old else value

/-- A signed number in a field of `w` bits, two's complement. -/
def signedField (w : Nat) (x : Int) : Nat := (x % (2 ^ w : Int)).toNat

/-- The signed number a field of `w` bits holds. -/
def fieldSigned (w n : Nat) : Int := if n % 2 ^ w < 2 ^ (w - 1) then (n % 2 ^ w : Nat) else (n % 2 ^ w : Nat) - (2 ^ w : Int)

/-- A Bool as a bit of a number. -/
def bitOf (b : Bool) (i : Nat) : Nat := if b then 2 ^ i else 0

/-- The number whose bit i is set for each i of the list. -/
def bitset (l : List Nat) : Nat := l.foldl (fun a i => a ||| 2 ^ i) 0

def w32 (n : Nat) : Word := BitVec.ofNat 32 n

/-- The bytes of a number, least significant first (R4). -/
def leBytes : (count n : Nat) → List Byte
  | 0, _ => []
  | c + 1, n => BitVec.ofNat 8 n :: leBytes c (n / 256)

/-- The number little-endian bytes spell (R4). -/
def leNat : List Byte → Nat
  | [] => 0
  | b :: bs => b.toNat + 256 * leNat bs

/-- The bytes of a number, most significant first (SCSI, SP 800-108). -/
def beBytes (count n : Nat) : List Byte := (leBytes count n).reverse

/-- `n` bytes from offset `o`. -/
def slice (l : List Byte) (o n : Nat) : List Byte := (l.drop o).take n

/-- `l` cut or padded with `b` to `n` bytes. -/
def padTo (b : Byte) (n : Nat) (l : List Byte) : List Byte := l.take n ++ List.replicate (n - l.length) b

def ceilDiv (a b : Nat) : Nat := (a + b - 1) / b

/-- ceil(log2 n), 0 for n ≤ 1. -/
def clog2 (n : Nat) : Nat := if n ≤ 1 then 0 else Nat.log2 (n - 1) + 1

def popcount (n : Nat) : Nat := ((List.range 32).filter n.testBit).length

/-! ### Addressed bytes: the Granary window and bank space

A memory is a list of cells in one canonical form: addresses strictly rising, and no cell equal to what an unlisted address
reads as, `d`. -/

/-- The byte an address reads as. -/
def cellAt (d : Byte) (a : Nat) : List Host.Cell → Byte
  | [] => d
  | c :: cs => if c.1 = a then c.2 else cellAt d a cs

/-- Write one byte, keeping the canonical form: the value an unlisted address reads as removes the cell. -/
def putCell (d : Byte) (a : Nat) (b : Byte) : List Host.Cell → List Host.Cell
  | [] => if b = d then [] else [(a, b)]
  | c :: cs =>
    if c.1 < a then c :: putCell d a b cs
    else if c.1 = a then (if b = d then cs else (a, b) :: cs)
    else if b = d then c :: cs else (a, b) :: c :: cs

/-- Write consecutive bytes. -/
def putCells (d : Byte) : (a : Nat) → List Byte → List Host.Cell → List Host.Cell
  | _, [], m => m
  | a, b :: bs, m => putCells d (a + 1) bs (putCell d a b m)

/-- The cells outside an address range: the range reads as `d`. -/
def dropRange (lo hi : Nat) (m : List Host.Cell) : List Host.Cell := m.filter fun c => decide (c.1 < lo) || decide (hi ≤ c.1)

/-- `n` bytes from `a`, in one pass over the ascending cells. -/
def cellRun (d : Byte) : (n a : Nat) → List Host.Cell → List Byte
  | 0, _, _ => []
  | n + 1, a, mem =>
    match mem.dropWhile fun c => decide (c.1 < a) with
    | [] => List.replicate (n + 1) d
    | c :: cs => if c.1 = a then c.2 :: cellRun d n (a + 1) cs else d :: cellRun d n (a + 1) (c :: cs)

/-- The canonical form, above an address. -/
def cellsFrom (d : Byte) (lo : Nat) : List Host.Cell → Bool
  | [] => true
  | c :: cs => decide (lo ≤ c.1) && c.2 != d && cellsFrom d (c.1 + 1) cs

/-- The canonical form of a memory. -/
def cellsOk (d : Byte) (m : List Host.Cell) : Bool := cellsFrom d 0 m

end Sys2Proof.Machine
end

