-- ==== Sys2Proof/Machine/Ops.lean ====
section
/-! DEFINITION. The operations every meaning shares: access to the parts of the state, free values, tickets and order
numbers, semaphores, event records, the fault log, the embedded ports of a Plot, and the end of commands. -/

namespace Sys2Proof.Machine

/-! ### Parts of the state -/

def State.port (s : State) : Port → PortState
  | .a => s.portA
  | .b => s.portB

def State.modPort (s : State) (p : Port) (f : PortState → PortState) : State :=
  match p with
  | .a => { s with portA := f s.portA }
  | .b => { s with portB := f s.portB }

def State.pfn (s : State) : Port → PortFn
  | .a => s.fn.portA
  | .b => s.fn.portB

def State.modPfn (s : State) (p : Port) (f : PortFn → PortFn) : State :=
  match p with
  | .a => { s with fn := { s.fn with portA := f s.fn.portA } }
  | .b => { s with fn := { s.fn with portB := f s.fn.portB } }

def State.plot (s : State) (n : Nat) : PlotState := s.plots.getD n Reset.plot
def State.modPlot (s : State) (n : Nat) (f : PlotState → PlotState) : State := { s with plots := s.plots.modify n f }
def State.field (s : State) (n : Nat) : FieldState := s.fields.getD n Reset.field
def State.modField (s : State) (n : Nat) (f : FieldState → FieldState) : State := { s with fields := s.fields.modify n f }
def State.chan (s : State) (n : Nat) : ChanState := s.chans.getD n Reset.chan
def State.modChan (s : State) (n : Nat) (f : ChanState → ChanState) : State := { s with chans := s.chans.modify n f }
def State.engine (s : State) (n : Nat) : CipherState := s.engines.getD n Reset.engine
def State.modEngine (s : State) (n : Nat) (f : CipherState → CipherState) : State :=
  { s with engines := s.engines.modify n f }
def State.bank (s : State) (n : Nat) : BankState := s.banks.getD n Reset.bank
def State.modBank (s : State) (n : Nat) (f : BankState → BankState) : State := { s with banks := s.banks.modify n f }

def State.modArb (s : State) (f : ArbState → ArbState) : State := { s with arb := f s.arb }
def State.modSaf (s : State) (f : SafState → SafState) : State := { s with saf := f s.saf }
def State.modLay (s : State) (f : LayState → LayState) : State := { s with lay := f s.lay }
def State.modPwr (s : State) (f : PwrState → PwrState) : State := { s with pwr := f s.pwr }
def State.modFn (s : State) (f : FnState → FnState) : State := { s with fn := f s.fn }
def State.modSem (s : State) (f : SemState → SemState) : State := { s with sem := f s.sem }
def State.modSec (s : State) (f : SecState → SecState) : State := { s with sec := f s.sec }
def State.modHold (s : State) (f : HoldState → HoldState) : State := { s with hold := f s.hold }
def State.modGrn (s : State) (f : GrnState → GrnState) : State := { s with grn := f s.grn }
def State.modMpu (s : State) (f : MpuState → MpuState) : State := { s with mpu := f s.mpu }
def State.modStk (s : State) (f : StkState → StkState) : State := { s with stk := f s.stk }
def State.modJtag (s : State) (f : JtagState → JtagState) : State := { s with jtag := f s.jtag }
def State.modTasks (s : State) (f : List Task → List Task) : State := s.modFn fun q => { q with tasks := f q.tasks }

def ChanState.dieAt (c : ChanState) (d : Nat) : DieState := c.dies.getD d Reset.die
def ChanState.modDie (c : ChanState) (d : Nat) (f : DieState → DieState) : ChanState := { c with dies := c.dies.modify d f }

/-! ### The active layout -/

def State.layout (s : State) : Option Layout := s.lay.active
def State.hasLayout (s : State) : Bool := s.lay.active.isSome

def Layout.field? (l : Layout) (f : Nat) : Option FieldCfg := l.fields.find? (·.inst == f)
def Layout.plot? (l : Layout) (n : Nat) : Option PlotCfg := l.plots.find? (·.inst == n)
def Layout.recipe? (l : Layout) (r : Nat) : Option RecipeCfg := l.recipes.find? (·.set == r)

def State.fieldCfg? (s : State) (f : Nat) : Option FieldCfg := s.layout.bind (·.field? f)
def State.plotCfg? (s : State) (n : Nat) : Option PlotCfg := s.layout.bind (·.plot? n)
def State.chanCfg? (s : State) (c : Nat) : Option ChanCfg :=
  (s.layout.bind (·.channels[c]?)).bind fun k => if k.ceMask = 0 then none else some k

/-- The Field a channel belongs to. -/
def State.fieldOfChan (s : State) (c : Nat) : Option Nat :=
  s.layout.bind fun l => (l.fields.find? (·.chans.contains c)).map (·.inst)

/-- The Plots of a Field in the active layout. -/
def State.plotsOf (s : State) (f : Nat) : List Nat :=
  match s.layout with
  | none => []
  | some l => (l.plots.filter (·.field == f)).map (·.inst)

def State.fieldList (s : State) : List Nat := match s.layout with | none => [] | some l => l.fields.map (·.inst)
def State.plotList (s : State) : List Nat := match s.layout with | none => [] | some l => l.plots.map (·.inst)

/-- The provisioning identifiers of Seed word 4 (Table GRN-6). -/
def State.seedWord (s : State) (w : Nat) : Option (List Byte) :=
  match s.grn.seedNow.getD w .blank with
  | .value b => some b
  | _ => none

/-- The PORT frame in force: the layout's, or the no-layout carving of R248 under the provisioning identifiers (R147). -/
def State.portCfg (s : State) (p : Port) : PortCfg :=
  match s.layout with
  | some l => l.ports.getD p.index ⟨false, 0, 0, 0, 0, 0, 0, 0, 0, []⟩
  | none =>
    let ids := (s.seedWord 4).getD []
    { enable := s.sec.provId, maxSpeed := s.member.usbMax, linkPm := 0, wake := 0
      vid := leNat (slice ids 0 2), pid := leNat (slice ids 2 2), bcdDevice := 0
      attr := if s.member = .z1 then 0 else 1, maxPower := if s.member = .z1 then 100 else 0
      carve := 4 :: 16 :: List.replicate 14 0 }

/-! ### Free values (log 3) -/

def State.drawBool (s : State) : Bool × State := (Config.freeBool s.free, { s with free := s.free + 1 })
def State.drawNat (s : State) : Nat × State := (Config.freeNat s.free, { s with free := s.free + 1 })

/-- `n` bytes of the DRBG (R359; log 4). -/
def State.drawBytes (s : State) (n : Nat) : List Byte × State :=
  (padTo 0 n (Config.drbg s.free), { s with free := s.free + 1 })

/-! ### Time -/

/-- FRAME of Table SAF-7 for one port's last SOF. -/
def frameOf (p : Port) (r : SofRec) : Nat :=
  r.micro % 8 + 8 * (r.frame % 2048) + bitOf (p == .b) 14 + bitOf r.valid 15

/-! ### Events (R279 to R282) -/

/-- Queue an event record on one port: nothing unless its hub is configured, and a count in EVLOST and the next
OVERFLOW record when 64 records wait: its SEQ is left out. -/
def queueEvent (s : State) (p : Port) (kind inst d0 d1 : Nat) : State :=
  if !(s.port p).configured then s
  else s.modPfn p fun q =>
    if 64 ≤ q.events.length then { q with evLost := count 0xFFFF q.evLost, overflow := q.overflow + 1, evSeq := q.evSeq + 1 }
    else { q with
      events := q.events ++ [⟨q.evSeq, kind, inst, s.timeUs, frameOf p (s.port p).sof, w32 d0, w32 d1⟩]
      evSeq := q.evSeq + 1 }

/-- The 32 bytes of an event record, its CRC computed (Table FNC-9). -/
def EventRec.bytes (e : EventRec) : List Byte :=
  let b := leBytes 4 e.seq ++ leBytes 2 e.kind ++ leBytes 2 e.inst ++ leBytes 8 e.time ++ leBytes 2 e.frame ++ [0, 0] ++
    leBytes 4 e.data0.toNat ++ leBytes 4 e.data1.toNat
  b ++ leBytes 4 (crc32c b)

/-- Queue an event record on every attached port. -/
def queueEvents (s : State) (kind inst d0 d1 : Nat) : State :=
  s.member.portList.foldl (fun s p => queueEvent s p kind inst d0 d1) s

/-! ### Remote wake (R239 to R242) -/

/-- A trigger of Table PRT-2 on one port: it signals once, if the port is suspended, its host has enabled remote wake
and the trigger's WAKE bit is set, and this suspend has not been signalled before (R241). -/
def wakeTrigger (s : State) (p : Port) (bit : Nat) : State :=
  let q := s.port p
  if q.link = 3 ∧ q.wakeEn ∧ (s.portCfg p).wake.testBit bit ∧ q.wakeSignals = 0 then
    s.modPort p fun q => { q with wakeLast := 2 ^ bit, wakeCount := count 0xFF q.wakeCount, wakeSignals := 1 }
  else s

def wakeTriggers (s : State) (bit : Nat) : State := s.member.portList.foldl (fun s p => wakeTrigger s p bit) s

/-! ### Scopes in force -/

def scopeDevice : Nat := 6

def State.inScope (s : State) (code inst : Nat) : Bool := s.saf.scopes.any fun c => c.code == code && c.inst == inst
def State.deviceScope (s : State) : Bool := s.saf.scopes.any (·.code == 6)
def State.stackScope (s : State) : Bool := s.saf.scopes.any (·.code == 7)

/-- Field, device or stack scope covers the Field (R209, R409, R472). -/
def State.fieldHeld (s : State) (f : Nat) : Bool :=
  s.inScope 4 f || s.deviceScope || (s.stackScope && ((s.fieldCfg? f).map (·.wide)).getD false)

/-- A scope covers the Plot (Table SAF-5, column "Plot state"). -/
def State.plotHeld (s : State) (n : Nat) : Bool :=
  s.inScope 3 n || s.deviceScope || (match s.plotCfg? n with | some c => s.fieldHeld c.field | none => false)

/-- SAFE_N: asserted from reset until start-up completes, while no layout is active, and in device scope (R101, R149). -/
def State.safeN (s : State) : Bool :=
  if s.pwr.state = .off then s.saf.safeNHeld else s.saf.starting || s.deviceScope

/-- The bits of `GLB_SAFE`. -/
def State.glbSafe (s : State) : Nat :=
  bitOf (s.saf.starting || s.deviceScope) 0 + bitOf s.stackScope 1 + bitOf (s.saf.scopes.any (·.latch)) 2 +
  bitOf (!s.saf.scopes.isEmpty) 3

/-! ### The fault log (R102 to R107) -/

/-- The FRAME field of a fault record: the last SOF on any port. -/
def State.lastFrame (s : State) : Nat := frameOf s.saf.lastSof (s.port s.saf.lastSof).sof

/-! ### Structures in the Granary pool (R538 to R542) -/

/-- SIZE of Table GRN-9, in code words. -/
def structSize (struct : Nat) : Nat :=
  if struct = 0x100 then 2 else if 0x200 ≤ struct ∧ struct ≤ 0x23F then 12 else 1

/-- Usable spares: ring sectors neither retired nor substitutes, less the window (R510). -/
def State.grnSpares (s : State) : Nat :=
  s.member.ringSectors - s.grn.retired.length - s.grn.subs.length - s.member.windowSectors

/-- R515. -/
def State.spareOut (s : State) : Bool := decide (s.grnSpares < 2)

/-- A ledger entry is written (R514). -/
def writeLedger (g : GrnState) : GrnState := { g with ledgerSeq := g.ledgerSeq + 1, sinceLedger := 0 }

/-- Erases of window sectors are counted, and reach the ledger after every 16,384 (R511, R514). -/
def countErases (g : GrnState) (n : Nat) : GrnState :=
  let g := { g with erases := g.erases + n, sinceLedger := g.sinceLedger + n }
  if 16384 ≤ g.sinceLedger then writeLedger g else g

/-- Released pool sectors have been erased (R541). -/
def eraseReleased (g : GrnState) (n : Nat) : GrnState :=
  let n := min n g.released
  countErases { g with released := g.released - n, poolErased := g.poolErased + n } n

/-- The next batch of released pool sectors is erased. -/
def batchErase (g : GrnState) : GrnState := eraseReleased g 16

/-- The identity in the array's erase when it is the controller's own: no requester's. -/
def idController : Identity := 0xFF

/-- The controller begins to erase released sectors, up to 16 in a batch, when no erase is in the array; none starts while
PWR_FAIL_N is asserted (R526, R541). -/
def startBatch (pwrFail : Bool) (g : GrnState) : GrnState :=
  if g.erase.isNone ∧ g.released ≠ 0 ∧ !pwrFail then { g with erase := some ⟨idController, 0, 0, min 16 g.released, false, false, 0⟩ } else g

/-- One erased pool sector is taken; with none, the write waits for the end of the next batch (R542): that batch has ended
here. -/
def takeSector (g : GrnState) : GrnState :=
  let g := if g.poolErased = 0 then { batchErase g with erase := g.erase.filter (·.batch == 0) } else g
  { g with poolErased := g.poolErased - 1 }

/-- One entry appended to one copy of a structure's log. A new sector releases the older one of a single-version structure;
in the fault area 64 newer records do (R541). -/
def appendEntry (g : GrnState) (struct copy : Nat) : GrnState :=
  let top := 127 / structSize struct
  let old := (g.logs.find? fun l => l.struct == struct && l.copy == copy).getD ⟨struct, copy, 0, top⟩
  let put := fun (g : GrnState) (l : PoolLog) => { g with logs := l :: g.logs.filter fun l => !(l.struct == struct && l.copy == copy) }
  if old.pos < top ∧ old.sectors ≠ 0 then
    let l := { old with pos := old.pos + 1 }
    if struct = 0x400 ∧ l.pos = 64 ∧ 1 < l.sectors then put { g with released := g.released + l.sectors - 1 } { l with sectors := 1 }
    else put g l
  else if struct = 0x400 ∨ old.sectors = 0 then put (takeSector g) ⟨struct, copy, old.sectors + 1, 1⟩
  else
    let g := takeSector g
    put { g with released := g.released + old.sectors } ⟨struct, copy, 1, 1⟩

/-- Structures whose writes are urgent (Table GRN-9). -/
def urgentStruct (struct : Nat) : Bool := struct == 0 || (decide (0x100 ≤ struct) && decide (struct < 0x400))

/-- A structure is written: copy 0, then copy 1 (R540). An urgent write suspends a running erase, which resumes after it
(R526, R529). -/
def structWrite (s : State) (struct : Nat) : State :=
  s.modGrn fun g =>
    let g := appendEntry (appendEntry g struct 0) struct 1
    startBatch s.hold.pwrFail
      { g with erase := g.erase.map fun e => if urgentStruct struct && !e.suspended then { e with resumes := e.resumes + 1 } else e }

/-- Write one fault-log record; persist it when it latches (R104) unless the Granary is spare-exhausted (R515), and send
it as an event, which is remote-wake trigger 2, when its scope is not 0 or it reports RECOVER_DONE (R106). -/
def writeLog (s : State) (r : LogRec) : State :=
  let r := { r with seq := s.saf.logHead + 1, time := s.timeUs, frame := s.lastFrame }
  let s := { s with saf := { s.saf with log := (r :: s.saf.log).take 256, logHead := s.saf.logHead + 1 } }
  let s := if r.latch && !s.spareOut then
      structWrite { s with grn := { s.grn with faults := (r :: s.grn.faults).take 64 } } 0x400
    else s
  if r.scope = 0 ∧ r.cause ≠ 0x00C0 then s
  else
    let byte := r.scope + bitOf r.latch 3 + bitOf r.wider 5
    wakeTriggers (queueEvents s (if r.scope = 2 then 2 else 1) r.inst r.seq (r.cause + 65536 * byte)) 2

/-- A fault waits for the RECOVER that is pending (R116): a record alone, or a scope to enter with its record. -/
def deferFault (s : State) (r : LogRec) (enters : Bool) (who : Option (Nat × Nat)) : State :=
  { s with saf := { s.saf with deferred := s.saf.deferred ++ [⟨r, enters, who⟩] } }

/-- Record a fault; while a RECOVER is pending its record waits and follows the RECOVER_DONE record (R116). -/
def logFault (s : State) (cause scope inst : Nat) (latch wider : Bool) (strikes island requester : Nat)
    (d0 d1 : Word) : State :=
  let r : LogRec := ⟨0, cause, scope, latch, false, wider, strikes, 0, island, requester, inst, d0, d1, 0⟩
  if s.saf.recPending.isSome then deferFault s r false none
  else writeLog s r

/-- The bytes of a record (Table SAF-7), CHECK computed. -/
def LogRec.bytes (r : LogRec) : List Byte :=
  let b := leBytes 4 r.seq ++ leBytes 2 r.cause ++
    leBytes 1 (r.scope + bitOf r.latch 3 + bitOf r.persisted 4 + bitOf r.wider 5) ++ leBytes 1 r.strikes ++
    leBytes 8 r.time ++ leBytes 1 r.island ++ leBytes 1 r.requester ++ leBytes 2 r.inst ++
    leBytes 4 r.detail0.toNat ++ leBytes 4 r.detail1.toNat ++ leBytes 2 r.frame
  let check := (List.range 15).foldl (fun a i => a ^^^ leNat (slice b (2 * i) 2)) 0
  b ++ leBytes 2 check

/-- A record of an access to reserved Control space (R9). -/
def logRsvd (s : State) (id : Identity) (addr : Nat) (write : Bool) : State :=
  logFault s 0x0001 0 0xFFFF false false 0 0xFF id.toNat (w32 addr) (if write then 1 else 0)

/-! ### Tickets (R50 to R56) -/

/-- The shared tickets in use, and free: 0 when more are in use than the pool has (R138). -/
def ArbState.sharedUsed (a : ArbState) : Nat := (a.tickets.filter (·.shared)).length
def State.sharedPool (s : State) : Nat := s.member.pool - s.arb.reserved.sum
def State.sharedFree (s : State) : Nat := s.sharedPool - s.arb.sharedUsed
def ArbState.ownUsed (a : ArbState) (k : Nat) : Nat := (a.tickets.filter fun t => t.cls == k && !t.shared).length

/-- The lowest ticket number not in use (the number drawn is not readable; log 10). -/
def firstFree (used : List Nat) : (fuel n : Nat) → Nat
  | 0, n => n
  | fuel + 1, n => if used.contains n then firstFree used fuel (n + 1) else n

/-- Whether a class finds a ticket: in its reservation, or in the shared pool (R51). -/
def State.canDraw (s : State) (k : Nat) : Bool :=
  decide (s.arb.ownUsed k < s.arb.reserved.getD k 0) || decide (0 < s.sharedFree)

/-- Draw one ticket for class `k`: from its own reservation while any is free, otherwise from the shared pool (R51). -/
def drawTicket (s : State) (k : Nat) : Option (Nat × State) :=
  if s.arb.lockstep then none
  else
    let id := firstFree (s.arb.tickets.map (·.id)) s.arb.tickets.length 0
    if s.arb.ownUsed k < s.arb.reserved.getD k 0 then
      some (id, { s with arb := { s.arb with tickets := ⟨id, k, false⟩ :: s.arb.tickets } })
    else if 0 < s.sharedFree then
      some (id, { s with arb := { s.arb with
        tickets := ⟨id, k, true⟩ :: s.arb.tickets, sharedMin := min s.arb.sharedMin (s.sharedFree - 1) } })
    else none

/-- A request of class 0 or 1 that found no ticket is counted (`ARB_TSF_CNT`). -/
def countTsf (s : State) (k : Nat) : State :=
  if k = 0 then { s with arb := { s.arb with tsfA := count 0xFFFF s.arb.tsfA } }
  else if k = 1 then { s with arb := { s.arb with tsfB := count 0xFFFF s.arb.tsfB } }
  else s

/-- The grant is noted and the pointer moves to the input after the winner (R33). -/
def noteGrant (s : State) (g : Grant) : State :=
  s.modArb fun a => { a with
    pointer := (g.input + 1) % 22
    jtagTurn := if g.input = 20 then !a.jtagTurn else a.jtagTurn
    lastGrant := some g }

/-- Return a ticket to where it was drawn from (R52). -/
def releaseTicket (s : State) (id : Nat) : State :=
  { s with arb := { s.arb with tickets := s.arb.tickets.filter (·.id != id) } }

/-! ### Plot state changes -/

/-- Table FNC-7. -/
def PlotMode.code : PlotMode → Nat
  | .absent => 0 | .closed => 1 | .open_ => 2 | .readOnly => 3 | .safelight => 4 | .erased => 5

def PlotMode.up : PlotMode → Bool
  | .open_ => true
  | .readOnly => true
  | _ => false

/-- Give a Plot a state, with its PLOT_STATE event (Table FNC-10). -/
def setPlotMode (s : State) (n : Nat) (m : PlotMode) (reason : Nat) : State :=
  let old := (s.plot n).mode
  if old = m then s
  else queueEvents (s.modPlot n fun p => { p with mode := m }) 0x0010 n (old.code + 16 * m.code) reason

/-- Every Open Plot becomes Read-only for a cause that is not an unlock: 2 the headland, 3 the order-number end. -/
def demotePlots (s : State) (plots : List Nat) (cause : Nat) : State :=
  plots.foldl (fun s n =>
    if (s.plot n).mode = .open_ then
      (setPlotMode s n .readOnly 3).modPlot n fun p => { p with roCause := cause, byUnlock := false }
    else s) s

/-! ### Order numbers (R39, R41, R47) -/

/-- Issue the next order number: exactly one greater than the last (R39). The last number of the space ends it, and
every Plot of the device becomes Read-only (R47). -/
def issueOrder (s : State) : Option (Nat × State) :=
  if s.arb.lockstep || s.arb.ordEnd then none
  else
    let n := s.arb.ordNext
    let s := { s with arb := { s.arb with ordNext := n + 1 } }
    if orderLast < n + 1 then
      some (n, demotePlots { s with arb := { s.arb with ordEnd := true } } s.plotList 3)
    else some (n, s)

/-- A read's horizon: the highest order number issued before its grant (R41). -/
def State.horizon (s : State) : Nat := s.arb.ordNext - 1

/-! ### Semaphores (chapter "Two ports, one device") -/

def State.semOwner (s : State) (n : Nat) : Identity := s.sem.owner.getD n idNone
def State.holdsSem (s : State) (id : Identity) (n : Nat) : Bool := s.semOwner n == id && id != idNone

/-- Release every semaphore of an identity by an event of Table SEM-4; an event that frees none records nothing (R324). -/
def releaseSems (s : State) (id : Identity) (cause : Nat) : State :=
  let n := (s.sem.owner.filter (· == id)).length
  if n = 0 then s
  else { s with sem := { s.sem with
    owner := s.sem.owner.map fun o => if o == id then idNone else o
    lostId := id, lostCount := n, lostCause := cause, events := count 0xFF s.sem.events } }

/-- Whether R318 holds back a Control-space write of this identity that no exception covers. -/
def State.writeLocked (s : State) (id : Identity) : Bool :=
  isHostId id && s.semOwner 0 != idNone && s.semOwner 0 != id

def countLocked (s : State) : State := { s with sem := { s.sem with locked := count 0xFF s.sem.locked } }

/-! ### The embedded ports of a Plot (R253 to R258) -/

/-- Embedded port k is free on a port: no Plot holds it, its CARVE entry is at least 8, and no uncleared change. -/
def State.embFree (s : State) (p : Port) (k : Nat) : Bool :=
  let e := (s.port p).emb.getD k Reset.emb
  decide (2 ≤ k) && decide (k < 16) && e.holder.isNone && decide (8 ≤ (s.portCfg p).carve.getD k 0) && !e.chg

/-- The embedded port reserved for a Plot on a port: EMB_PORT when it is non-zero, else the lowest free (R253). A fixed
EMB_PORT that still carries an uncleared change is reserved all the same; its connect is deferred (R258). -/
def State.embChoice (s : State) (p : Port) (fixed : Nat) : Option Nat :=
  if fixed ≠ 0 then
    if ((s.port p).emb.getD fixed Reset.emb).holder.isNone && decide (8 ≤ (s.portCfg p).carve.getD fixed 0) then some fixed
    else none
  else (List.range 16).find? (s.embFree p)

/-- The embedded port a Plot holds on a port. -/
def State.embOf (s : State) (p : Port) (n : Nat) : Option Nat :=
  (List.range 16).find? fun k => ((s.port p).emb.getD k Reset.emb).holder == some n

def modEmb (s : State) (p : Port) (k : Nat) (f : EmbPort → EmbPort) : State :=
  s.modPort p fun q => { q with emb := q.emb.modify k f }

/-- The first command after a connection or reset owes UNIT ATTENTION (R296). -/
def addAttention (s : State) (p : Port) (n : Nat) : State :=
  { s with fn := { s.fn with attention :=
    ⟨.port p, n⟩ :: s.fn.attention.filter fun u => !(u.origin == .port p && u.plot == n) } }

/-- `PRT_STAT`.SPEED. -/
def speedCode : UsbSpeed → Nat
  | .none => 0 | .full => 1 | .high => 2 | .gen1x1 => 3 | .gen2x1 => 4 | .gen2x2 => 5

/-- The upstream link runs at SuperSpeed, and not at USB 2.0. -/
def PortState.super (q : PortState) : Bool := decide (3 ≤ speedCode q.speed)

/-- The upstream link carries traffic: a speed is reached and the link is not suspended. -/
def PortState.live (q : PortState) : Bool := decide (0 < speedCode q.speed) && decide (q.link ≠ 3)

/-- The host reaches the function on embedded port k: the hub configured, the function connected, enabled and neither
suspended nor being reset (R252, R259). -/
def PortState.reaches (q : PortState) (k : Nat) : Bool :=
  let e := q.emb.getD k Reset.emb
  q.live && q.configured && e.conn && e.enabled && !e.suspended && !e.resetting

/-- Its bulk endpoints exist: the host has selected its configuration. -/
def PortState.bulk (q : PortState) (k : Nat) : Bool := q.reaches k && (q.emb.getD k Reset.emb).selected

/-- Connect the function held on embedded port k: PORT_CONNECTION and C_PORT_CONNECTION at once, or after the host
clears a change still standing (R254, R258). -/
def connectEmb (s : State) (p : Port) (k n : Nat) : State :=
  let e := (s.port p).emb.getD k Reset.emb
  let s := addAttention s p n
  if e.chg then modEmb s p k fun e => { e with deferred := true }
  else if (s.port p).configured && e.powered then
    modEmb s p k fun e => { e with conn := true, chg := true, reported := false, enabled := (s.port p).super, selected := false, alt := 0 }
  else s

/-- Reserve and connect an embedded port for a Plot on one port. -/
def attachPlot (s : State) (p : Port) (n fixed : Nat) : State :=
  match s.embChoice p fixed with
  | none => s
  | some k => connectEmb (modEmb s p k fun e => { e with holder := some n }) p k n

/-- A capsule function with no request in progress and no response (R267). -/
def CapState.dropped (c : CapState) : CapState := { c with busy := false, todo := [], doneR := [], resp := none }

/-- Secret checks that a port's discarded capsules asked for are carried out, and answer nobody (R267). -/
def orphanChecks (s : State) (p : Port) : State :=
  let gone := fun (c : SecretCheck) => match c.asker with | .port q _ => if q = p then { c with asker := .gone } else c | _ => c
  { s with plots := s.plots.map fun x => { x with checks := x.checks.map gone } }

/-- Discard the capsule in progress of one function, and its response (R267). -/
def dropCapsule (s : State) (p : Port) (fn : CapsuleFn) : State :=
  (if fn = .management then orphanChecks s p else s).modPfn p fun q => { q with caps := q.caps.map fun c => if c.fn = fn then c.dropped else c }

/-- A Plot leaves Open and Read-only: its embedded ports disconnect on both ports, and a Credential capsule in progress is
discarded (R267). A connect the hub has not reported leaves no trace (R256, R257). -/
def detachPlot (s : State) (n : Nat) : State :=
  s.member.portList.foldl (fun s p =>
    match s.embOf p n with
    | none => s
    | some k => (dropCapsule s p (.credential n)).modPort p fun q =>
      { q with
        emb := q.emb.modify k fun e =>
          if e.conn && e.chg && !e.reported then { Reset.emb with powered := e.powered }
          else { Reset.emb with powered := e.powered, chg := e.conn || e.chg }
        eps := q.eps.filter (·.k != k) }) s

/-! ### Stack links: frames with their credits and sequence numbers (R585 to R589, R598, R599) -/

def StkState.link (k : StkState) : Link → LinkState
  | .up => k.up
  | .dn => k.dn

def modLink (s : State) (l : Link) (f : LinkState → LinkState) : State :=
  s.modStk fun k => match l with | .up => { k with up := f k.up } | .dn => { k with dn := f k.dn }

def Link.other : Link → Link
  | .up => .dn
  | .dn => .up

def frameAck : Nat := 0x01
def frameNak : Nat := 0x02

def noteSent (k : LinkState) (f : OutFrame) : LinkState := { k with sent := (k.sent ++ [f]).drop (k.sent.length + 1 - 64) }

/-- Put one frame on a link: ACK and NAK need no credit and are never replayed; any other frame takes a credit and a
sequence number, or waits for a credit (R585 to R587). -/
def putFrame (k : LinkState) (f : OutFrame) : LinkState :=
  if !k.up then k
  else if f.ty = frameAck ∨ f.ty = frameNak then { noteSent k f with owed := 0 }
  else if k.credits = 0 then { k with waiting := k.waiting ++ [f] }
  else { noteSent k f with credits := k.credits - 1, owed := 0, txSeq := (k.txSeq + 1) % 4096, unacked := k.unacked ++ [(k.txSeq, f)] }

def sendOn (s : State) (l : Link) (f : OutFrame) : State := modLink s l fun k => putFrame k f

def State.stackCfg? (s : State) : Option StackCfg := s.layout.map (·.stack)
def State.isChain (s : State) : Bool := ((s.stackCfg?).map (·.chain)).getD false
/-- Position 0: the strapped master, or a standalone device that its layout makes a Lone master (R579). -/
def State.isMaster (s : State) : Bool := s.stk.pos == some 0 && s.stk.role != 0
def State.ringPos (s : State) : Nat := s.stk.pos.getD 0x7F

/-- Hops to a position in each direction, on N devices. -/
def State.hopsTo (s : State) (l : Link) (dest : Nat) : Nat :=
  let n := max 1 s.stk.size
  let p := s.ringPos
  match l with
  | .dn => (dest + n - p % n) % n
  | .up => (p + n - dest % n) % n

/-- A direction has a path: its link is up, it does not pass the open end of a chain, and no link known to be down lies on it. -/
def State.pathOn (s : State) (l : Link) (dest : Nat) : Bool :=
  let n := max 1 s.stk.size
  let p := s.ringPos
  let segs := (List.range (s.hopsTo l dest)).map fun i => match l with | .dn => (p + i) % n | .up => (p + n - 1 - i % n) % n
  (s.stk.link l).up && segs.all (!s.stk.broken.contains ·) &&
    (!s.isChain || (match l with | .dn => decide (p < dest) | .up => decide (dest < p)))

/-- The direction with fewer hops, downstream on a tie; the only one with a path when there is only one (R598). -/
def routeTo (s : State) (dest : Nat) : Option Link :=
  match s.pathOn .dn dest, s.pathOn .up dest with
  | true, true => if s.hopsTo .dn dest ≤ s.hopsTo .up dest then some .dn else some .up
  | true, false => some .dn
  | false, true => some .up
  | false, false => none

/-- The stored response of an IO_REQ the master is serving (Table STK-6). -/
def storeIoRsp (s : State) (pos tag : Nat) (payload : List Byte) : State :=
  s.modStk fun k => { k with ioSeen := k.ioSeen.map fun x => if x.1 = pos ∧ x.2.1 = tag then (pos, tag, payload) else x }

/-- Send a frame to a position. -/
def ringSend (s : State) (ty dest tag : Nat) (resp : Bool) (payload : List Byte) : State :=
  let s := if ty = 0x31 then storeIoRsp s dest tag payload else s
  match routeTo s dest with
  | some l => sendOn s l ⟨ty, false, resp, false, dest, s.ringPos, s.hopsTo l dest, tag, payload⟩
  | none => s

/-- The ring is open: a chain, or a ring with a link down. -/
def State.ringOpen (s : State) : Bool := s.isChain || !s.stk.broken.isEmpty || !s.stk.up.up || !s.stk.dn.up

/-- Broadcast a frame: floor(N / 2) hops downstream and ceil(N / 2) − 1 upstream in a closed ring, else as far as each link
leads (R598). -/
def ringBroadcast (s : State) (ty tag : Nat) (payload : List Byte) : State :=
  let n := max 1 s.stk.size
  let f := fun (hops : Nat) => (⟨ty, true, false, false, 0, s.ringPos, hops, tag, payload⟩ : OutFrame)
  let send := fun (s : State) (l : Link) (hops : Nat) => if hops = 0 then s else sendOn s l (f hops)
  if s.ringOpen then send (send s .dn (n - 1)) .up (n - 1) else send (send s .dn (n / 2)) .up (ceilDiv n 2 - 1)

/-- Keep a request until its response arrives, and send it with its second frame; false when no path exists (R599). -/
def ringRequest (s : State) (ty dest : Nat) (payload : List Byte) (second : Option (Nat × List Byte)) (why : ReqWhy) : State × Bool :=
  match routeTo s dest with
  | none => (s, false)
  | some l =>
    let tag := s.stk.nextTag
    let hops := s.hopsTo l dest
    let head : OutFrame := ⟨ty, false, false, false, dest, s.ringPos, hops, tag, payload⟩
    let more := second.map fun x => (⟨x.1, false, false, false, dest, s.ringPos, hops, tag, x.2⟩ : OutFrame)
    let s := sendOn s l head
    let s := match more with | some f => sendOn s l f | none => s
    (s.modStk fun k => { k with requests := k.requests ++ [⟨tag, dest, head, more, false, why⟩], nextTag := (tag + 1) % 2 ^ 32 }, true)

/-- The 32-byte envelope of a block; it travels encrypted (log 5). -/
def envBytes (e : Envelope) : List Byte :=
  padTo 0 32 (leBytes 2 e.plot ++ leBytes 5 e.lba ++ leBytes 8 e.order ++ leBytes 8 e.stamp ++ leBytes 4 e.crc)

/-- BLK_HEAD (Table STK-3); FLAGS is 1 for MEDIUM, 2 for CHECK. -/
def headBytes (order lba flags plot bank slot : Nat) (env : Envelope) : List Byte :=
  leBytes 8 order ++ leBytes 5 lba ++ leBytes 1 flags ++ leBytes 2 plot ++ leBytes 1 bank ++ leBytes 1 slot ++ List.replicate 14 0 ++ envBytes env

/-- A BLK pair that answers a request: head and ciphertext (R613). -/
def sendPair (s : State) (dest tag order lba flags plot bank : Nat) (env : Envelope) (data : List Byte) : State :=
  ringSend (ringSend s 0x32 dest tag true (headBytes order lba flags plot bank 0 env)) 0x33 dest tag true data

/-- The admitted members of a wide Field's DEVICES (R614). -/
def State.keyMembers (s : State) (n : Nat) : List Nat :=
  match (s.plotCfg? n).bind fun p => s.fieldCfg? p.field with
  | some f => if f.wide then (s.stk.members.map (·.1)).filter fun p => p != 0 && f.devices.contains p else []
  | none => []

/-- KEYCLR to every member that holds a key of the master's wide Plot (R614). -/
def clearMembers (s : State) (n : Nat) : State :=
  if s.isMaster then (s.keyMembers n).foldl (fun s p => (ringRequest s 0x41 p (leBytes 2 n ++ [0, 0]) none .other).1) s else s

/-! ### The end of commands -/

/-- Whether every block a task has had accepted is programmed, so that R22 lets its ticket go. -/
def State.taskProgrammed (s : State) (t : Task) : Bool :=
  match t.order with
  | none => true
  | some o => s.fields.all fun f => f.entries.all fun e =>
      !(e.order == o && e.plot == t.key.plot && (e.kind == .block || e.kind == .record)) || e.passed

/-- A block of a command in an engine's queue. -/
def jobOf (t : Task) (j : BlockJob) : Bool :=
  j.key == t.key && (j.kind == .hostRead || (j.kind == .hostWrite && some j.env.order == t.order))

/-- Abort commands (R43): they get no status; what was accepted stays, and no further block of them is applied: those in the
cipher engines leave them. A flush, a read or a held command ends at once. -/
def abortTasks (s : State) (sel : Task → Bool) : State :=
  let ended := s.fn.tasks.filter fun t => sel t && t.statusDue
  let s := s.modTasks fun ts => ts.map fun t => if sel t then { t with aborted := true, statusDue := false } else t
  { s with engines := s.engines.map fun e => { e with queue := e.queue.filter fun j => !ended.any fun t => jobOf t j } }

/-- How many commands a selection would abort now. -/
def State.abortCount (s : State) (sel : Task → Bool) : Nat := (s.fn.tasks.filter fun t => sel t && t.statusDue).length

def taskOfPort (p : Port) (t : Task) : Bool := t.key.origin == .port p
def taskOfPlot (n : Nat) (t : Task) : Bool := t.key.plot == n

/-- Let go of every task that has ended: status sent or aborted, and its accepted blocks programmed or discarded (R22). -/
def settleTasks (s : State) : State :=
  let ended := s.fn.tasks.filter fun t => !t.statusDue && !t.held && !(t.kind == .sanitize && (s.plot t.key.plot).sanitize.isSome) &&
    (s.taskProgrammed t || t.kind == .read || t.kind == .flush || t.kind == .get || t.kind == .list)
  let s := s.modTasks fun ts => ts.filter fun t => !ended.contains t
  ended.foldl (fun s t => match t.ticket with | some id => releaseTicket s id | none => s) s

/-- Clear the working keys of Plots: the key-store entry with its KEK, and every engine's cached copy (R331). -/
def clearKeys (s : State) (plots : List Nat) : State :=
  let s := { s with engines := s.engines.map fun e =>
    if e.keyPlots.any plots.contains then
      { e with keyPlots := e.keyPlots.filter (!plots.contains ·), clears := count 0xFFFF e.clears }
    else e }
  plots.foldl (fun s n => s.modPlot n fun p => { p with keys := none }) s

/-- The unit that a bulk re-key of the Plot has in hand is given up: its blocks leave the cipher engines, and nothing of it is
placed (R354). -/
def dropRekey (s : State) (n : Nat) : State :=
  let mine := fun (j : BlockJob) => (match j.kind with | .rekey _ => true | _ => false) && j.key.plot == n
  { s with
    fields := s.fields.map fun fs => { fs with rekeys := fs.rekeys.filter (·.plot != n) }
    engines := s.engines.map fun e => { e with queue := e.queue.filter fun j => !mine j } }

/-- A Plot leaves Open and Read-only: commands aborted on both ports, its re-key paused, keys cleared, embedded ports disconnected
(R256, R277, R309, R354), and the new state entered. -/
def closePlot (s : State) (n : Nat) (m : PlotMode) (reason : Nat) : State :=
  let s := dropRekey (abortTasks s (taskOfPlot n)) n
  let s := clearMembers (clearKeys s [n]) n
  let s := detachPlot (s.modPlot n fun p => { p with sanitize := none }) n
  settleTasks (setPlotMode s n m reason)

/-- A member stops presenting the master's Plots: its ring key store cleared, their commands aborted, their embedded ports
disconnected (R614, R618, Table SAF-5). -/
def dropRemote (s : State) : State :=
  let s := s.modStk fun k => { k with keyStore := [] }
  let s := abortTasks s fun t => decide (64 ≤ t.key.plot)
  settleTasks ((List.range 64).foldl (fun (s : State) n => detachPlot s (64 + n)) s)

end Sys2Proof.Machine
end

