-- ==== Sys2Proof/Machine/Operands.lean ====
section
/-! DEFINITION. The checks every access passes (R26, R27): the MPU regions (R568, R569, R576) and the write lock of
semaphore 0 (R318). A command that is a register write carries the writer's identity; `csWrite` is that write. -/

namespace Sys2Proof.Machine

/-! ### MPU regions -/

/-- The last address a region covers. -/
def MpuCfg.last (r : MpuCfg) : Nat := r.base + 2 ^ (r.size + 8) - 1

/-- Two enabled regions of one space overlap (R573). -/
def MpuCfg.clash (a b : MpuCfg) : Bool :=
  a.index != b.index && a.enable && b.enable && a.space == b.space && decide (a.base ≤ b.last) && decide (b.base ≤ a.last)

/-- R568. -/
def MpuCfg.covers (r : MpuCfg) (space : Bool) (addr : Nat) : Bool :=
  r.enable && r.space == space && decide (r.base ≤ addr) && decide (addr ≤ r.last)

/-- What an access does, as KIND of Table MPU-1 codes it. -/
inductive AccessKind where
  | read | write | atomic
deriving DecidableEq, Repr

def AccessKind.code : AccessKind → Nat
  | .read => 0 | .write => 1 | .atomic => 2

/-- The region's rights for a requester class (R569). -/
def MpuCfg.allows (r : MpuCfg) (id : Identity) (k : AccessKind) : Bool :=
  match mpuClass id with
  | none => false
  | some c =>
    match k with
    | .read => r.read.testBit c
    | .write => r.write.testBit c
    | .atomic => r.read.testBit c && r.write.testBit c

/-- The region that refuses an access: the first of those that match and do not allow it (R569). JTAG's accesses meet
their own rule (R645). -/
def State.mpuRefuses (s : State) (id : Identity) (space : Bool) (addr : Nat) (k : AccessKind) : Option MpuCfg :=
  if id = idJtag then none
  else s.mpu.regions.find? fun r => r.covers space addr && !r.allows id k

/-- Record numbers run from 1 to 0xFFFF and wrap to 1. -/
def nextVioSeq (n : Nat) : Nat := n % 0xFFFF + 1

/-- Write a violation record; with 64 unread it is discarded and counted (R575, R576). -/
def recordVio (s : State) (id : Identity) (space : Bool) (addr : Nat) (k : AccessKind) (byOwner part : Bool)
    (region length : Nat) : State :=
  s.modMpu fun q =>
    if 64 ≤ q.unread then { q with lost := count 0xFF q.lost }
    else
      let n := nextVioSeq q.head
      { q with
        head := n
        unread := q.unread + 1
        records := (⟨n, addr, space, k.code, byOwner, part, id, region, s.timeUs % 2 ^ 32, length⟩ :: q.records).take 64 }

/-- An access of one identity reaches the Control and bank spaces: some access carries the identity (R17, R30), and the
islands they stand in are powered, which in Off they are not (R212, R213). -/
def State.csOpen (s : State) (id : Identity) : Bool := s.member.carriesId id && decide (s.pwr.state ≠ .off)

/-- The arbiter input on which an identity's Control-space accesses come (Table ARB-1). -/
def csInput (id : Identity) : Option Nat :=
  if id = idPortA then some 0 else if id = idPortB then some 1 else if id = idStack then some 2
  else if id = idGranary ∨ id = idJtag then some 20 else none

/-- A Control-space access wins its tick: a position in the grants, and the pointer moves to the input after its own (R33,
R37, Table ARB-2). -/
def noteAccess (s : State) (id : Identity) : State :=
  match csInput id with
  | some i => noteGrant s ⟨i, none, none, none, .granted⟩
  | none => s

/-- The MPU's answer to a Control-space access of one word, granted in its tick: the state, and whether it is refused. -/
def csCheck (s : State) (id : Identity) (addr : Nat) (k : AccessKind) : State × Bool :=
  if !s.csOpen id then (s, true)
  else
    let s := noteAccess s id
    match s.mpuRefuses id false addr k with
    | some r => (recordVio s id false addr k false false r.index 4, true)
    | none => (s, false)

/-- A host write into the block of Plot n needs semaphore 64 + n (Table SEM-3). -/
def State.lacksPlotSem (s : State) (id : Identity) (addr : Nat) : Bool :=
  let n := (addr - 0x14000) / 0x100
  isHostId id && decide (0x14000 ≤ addr) && decide (n < s.member.plots) && !s.holdsSem id (64 + n)

/-- A write of reserved Control space: recorded when the checks of R26 allow it, the MPU, then the semaphore of a Plot's block
and the write lock (R9, R318). The lock holds for no write of the semaphore block or of a Plot's block. -/
def rsvdWrite (s : State) (id : Identity) (addr : Nat) : State :=
  let (s, refused) := csCheck s id addr .write
  let outside := decide (0x10000 ≤ addr) && decide (addr < 0x14000 + 0x100 * s.member.plots)
  if refused || s.lacksPlotSem id addr then s
  else if !outside && s.writeLocked id then countLocked s
  else logRsvd s id addr true

/-- Registers whose writes remain available with no layout active: the global, semaphore and Granary blocks (R660). -/
def writableBare (addr : Nat) : Bool :=
  decide (addr < 0x4000) || (decide (0x10000 ≤ addr) && decide (addr < 0x14000)) || (decide (0x20000 ≤ addr) && decide (addr < 0x30000))

/-- A Control-space write of one identity: refused by the MPU, ignored and counted under the lock of R318 unless the
register is one of its exceptions, ignored with no layout outside the blocks of R660, or performed. -/
def csWrite (s : State) (id : Identity) (addr : Nat) (exempt : Bool) (effect : State → State) : State :=
  let (s, refused) := csCheck s id addr .write
  if refused then s
  else if !exempt && s.writeLocked id then countLocked s
  else if !s.hasLayout && !writableBare addr then s
  else effect s

/-! ### Addresses of the registers that commands name (Table IDX-2) -/

def csLayCtrl : Nat := 0x118
def csPwrReset : Nat := 0x208
def csPwrCtrl : Nat := 0x210
def csSecRdp : Nat := 0x304
def csSecProv : Nat := 0x308
def csWallLo : Nat := 0x400
def csWallHi : Nat := 0x404
def csRecover : Nat := 0x8030
def csDeep : Nat := 0x8048
def csSem (n : Nat) : Nat := 0x10000 + 4 * n
def csPltCtrl (n : Nat) : Nat := 0x14000 + 0x100 * n + 8
def csGrnKey : Nat := 0x20000
def csGrnCmd : Nat := 0x20004
def csMpu (r reg : Nat) : Nat := 0x30000 + 16 * r + 4 * reg
def csMpuCtrl : Nat := 0x34000
def csVioAck : Nat := 0x38404
def csBnkOwner (b : Nat) : Nat := 0x40000 + 0x100 * b
def csAtomOp : Nat := 0x4C010
def csAperture : Nat := 0x4D000
def csStkCtrl : Nat := 0x70070
def csStkRop : Nat := 0x70088

end Sys2Proof.Machine
end

