-- ==== Sys2Proof/Machine/Reply.lean ====
section
/-! DEFINITION. How an answer leaves the block: SCSI status and sense, response capsules, IO_RSP frames. -/

namespace Sys2Proof.Machine

/-! ### SCSI status -/

def statusCode : ScsiStatus → Nat
  | .good => 0x00
  | .check _ => 0x02
  | .taskSetFull => 0x28
  | .busy => 0x08
  | _ => 0x00

/-- IO_RSP for a SCSI command (Table STK-3). -/
def ioRspBytes (st : ScsiStatus) (order : Nat) : List Byte :=
  let (k, a, q, i) := match st with | .check e => (e.key, e.asc, e.ascq, e.info.getD 0) | _ => (0, 0, 0, 0)
  leBytes 1 (statusCode st) ++ leBytes 1 k ++ leBytes 1 a ++ leBytes 1 q ++ leBytes 4 0 ++ leBytes 8 order ++ leBytes 8 i

/-! ### Endpoint buffers at USB 2.0 (R231) -/

/-- Bulk packets of a port's speed, in bytes (Table PRT-3). -/
def bulkPacket : UsbSpeed → Nat
  | .full => 64
  | .high => 512
  | _ => 1024

def isEp (k ep : Nat) (e : EpState) : Bool := e.k == k && e.ep == ep
def modEp (s : State) (p : Port) (k ep : Nat) (f : EpState → EpState) : State :=
  s.modPort p fun q => { q with eps := q.eps.map fun e => if isEp k ep e then f e else e }

/-- The packets of one IN transfer at USB 2.0 each take a granule (R231), and free those of the packets before them as the host
takes them. -/
def sendPackets (packets : Nat) (e : EpState) : EpState :=
  { e with used := min e.total (e.used + packets), seq := (e.seq + packets) % 2 }

/-- What a Volume Plot sends at USB 2.0 takes granules: its data, and one packet of status; under BOT both leave on 0x81,
under UAS the data on 0x82 and the status on 0x81 (R231, Table PRT-3). At SuperSpeed each transaction meets the buffer by
itself (R234). -/
def sendIn (s : State) (key : TaskKey) (bytes : Nat) : State :=
  match key.origin with
  | .ring _ => s
  | .port p =>
    match s.embOf p key.plot with
    | none => s
    | some k =>
      let q := s.port p
      if q.super then s
      else
        let packets := ceilDiv bytes (bulkPacket q.speed)
        if (q.emb.getD k Reset.emb).alt = 1 then modEp (modEp s p k 0x82 (sendPackets packets)) p k 0x81 (sendPackets 1)
        else modEp s p k 0x81 (sendPackets (packets + 1))

/-- Send a SCSI status: the last one of its origin and Plot, with the sense kept for REQUEST SENSE. -/
def sendScsi (s : State) (key : TaskKey) (st : ScsiStatus) (data : List Byte) : State :=
  (sendIn s key data.length).modFn fun q => { q with
    results := ⟨key, st, data⟩ :: q.results.filter fun r => !(r.key.origin == key.origin && r.key.plot == key.plot)
    sense := match st with
      | .check e => ⟨key.origin, key.plot, e⟩ :: q.sense.filter fun r => !(r.origin == key.origin && r.plot == key.plot)
      | _ => q.sense }

def senseOf (key asc ascq : Nat) : Sense := ⟨key, asc, ascq, none, none⟩

/-- Sense with the failing LBA when it fits INFORMATION (R298). -/
def senseAt (key asc ascq lba : Nat) : Sense := ⟨key, asc, ascq, if lba < 2 ^ 32 then some lba else none, none⟩

/-! ### Capsules -/

def PortFn.cap (q : PortFn) (fn : CapsuleFn) : CapState :=
  (q.caps.find? (·.fn == fn)).getD ⟨fn, false, 0, 0, [], [], none⟩

def PortFn.modCap (q : PortFn) (fn : CapsuleFn) (f : CapState → CapState) : PortFn :=
  { q with caps := f (q.cap fn) :: q.caps.filter (·.fn != fn) }

/-- Build the response of the request in progress on one function (R266). A capsule discarded meanwhile gets none (R267). -/
def respond (s : State) (p : Port) (fn : CapsuleFn) (r : Response) : State :=
  s.modPfn p fun q => q.modCap fn fun c =>
    if c.busy ∧ c.opcode = r.opcode ∧ c.tag = r.tag then { c with busy := false, todo := [], doneR := [], resp := some r } else c

/-- A header-only answer with a status of Table FNC-3. -/
def respondStatus (s : State) (p : Port) (fn : CapsuleFn) (opcode : Nat) (fua : Bool) (tag status detail : Nat) : State :=
  respond s p fn ⟨opcode, fua, tag, 0, status, detail, []⟩

/-- The bytes of a response capsule (Table FNC-1). -/
def Response.bytes (r : Response) : List Byte :=
  let head := [0x5A, 0x4B, 0x43, 0x50, 0x01] ++ leBytes 1 r.opcode ++ leBytes 2 (bitOf r.fua 0 + 0x8000) ++
    leBytes 4 r.payload.length ++ leBytes 4 r.tag ++ leBytes 8 r.order ++ leBytes 2 r.status ++ leBytes 2 r.detail
  head ++ leBytes 4 (crc32c (head ++ r.payload)) ++ r.payload

/-- Answer a vault opcode where it came from: the port's management function, or the member that forwarded it (R613). -/
def answerVault (s : State) (a : Asker) (opcode status detail : Nat) (payload : List Byte) : State :=
  match a with
  | .port p tag => respond s p .management ⟨opcode, false, tag, 0, status, detail, payload⟩
  | .ring pos tag => ringSend s 0x31 pos tag true (Response.bytes ⟨opcode, false, tag, 0, status, detail, payload⟩)
  | .gone => s

/-- The opcode a secret check belongs to. -/
def CheckFor.opcode : CheckFor → Nat
  | .unlock _ => 0x10
  | .rewrap _ => 0x12
  | .provision _ => 0x12

/-! ### The end of a command -/

def taskOpcode : TaskKind → Nat
  | .put => 0x40 | .get => 0x41 | .list => 0x42 | _ => 0x43

/-- What a finished credential capsule answers: OK, MEDIUM or CHECK, with its order number. -/
def capsuleStatus : ScsiStatus → Nat
  | .check e => if e.asc = 0x11 then 0x0014 else 0x0015
  | _ => 0

/-- Answer a credential capsule in flight with a status of Table FNC-3; ORDER carries its number or horizon (R299, R302). -/
def answerCapsule (s : State) (t : Task) (status detail : Nat) (payload : List Byte) : State :=
  if !t.statusDue then s
  else
    let s := s.modTasks fun ts => ts.map fun x => if x.key == t.key && x.statusDue then { x with statusDue := false } else x
    match t.key.origin with
    | .port p => respond s p (.credential t.key.plot) ⟨taskOpcode t.kind, t.fua, t.key.tag, t.order.getD (t.horizon.getD 0), status, detail, payload⟩
    | .ring _ => s

/-- A member's read that fails after its IO_RSP: the BLK pair of the failing block says so, with MEDIUM for a block the medium did
not give back and CHECK for any other failure (R25, R613; log 18). -/
def failPair (s : State) (pos : Nat) (t : Task) (st : ScsiStatus) : State :=
  let (key, info) := match st with | .check e => (e.key, e.info) | _ => (0, none)
  let first := t.lba + ((List.range t.count).find? fun i => !t.accepted.contains i).getD 0
  sendPair s pos t.key.tag 0 (info.getD first) (if key = 3 then 1 else 2) t.key.plot 0 ⟨0, 0, 0, 0, 0⟩ (List.replicate 4096 0)

/-- Send the status or response of a task that is due one. -/
def answerTask (s : State) (t : Task) (st : ScsiStatus) (data : List Byte) : State :=
  if !t.statusDue then s
  else
    let s := s.modTasks fun ts => ts.map fun x => if x.key == t.key && x.statusDue then { x with statusDue := false } else x
    match t.key.origin, t.tr with
    | .port p, none => respond s p (.credential t.key.plot) ⟨taskOpcode t.kind, t.fua, t.key.tag, t.order.getD (t.horizon.getD 0), capsuleStatus st, 0, data⟩
    | .port _, some _ => sendScsi s t.key st data
    | .ring pos, _ =>
      if (t.kind = .write ∨ t.kind = .read) ∧ st = .good then s
      else if t.kind = .read ∧ t.horizon.isSome then failPair s pos t st
      else ringSend s 0x31 pos t.key.tag true (ioRspBytes st (t.order.getD 0))

end Sys2Proof.Machine
end

