-- ==== Sys2Proof/Machine/Geometry.lean ====
section
/-! DEFINITION. The geometry of a Field (Table FLD-1), physical unit addresses (Table FLD-2), and how a channel engine
forms NAND addresses (R478, R479). -/

namespace Sys2Proof.Machine

/-- The quantities of Table FLD-1 with those the drill derives from them (R380, R384, R386). -/
structure Geo where
  chans : List Nat           -- the channels c_0 to c_(C−1); position × 128 + channel in a wide Field
  drill : List Nat           -- the channels in the order in which the drill deals members to them (R381, R610)
  pc : Nat
  d : Nat
  bd : Nat
  u : Nat
  g : Nat
  n : Nat
  w : Nat
  m : Nat
  pmax : Nat
  a : Nat
  kmax : Nat
  l : Nat                    -- pages per member of a row group (R384)
  ppb : Nat
  slcPages : Nat
  bits : Nat
  luns : Nat
  nretry : Nat
  hard : Nat                 -- t of the LDPC code (Table CHN-2)
deriving DecidableEq, Repr

def grainBlocks (grain : Nat) : Nat := 4 ^ grain

/-- Table FLD-1 from the FIELD frame and the CHANNEL entry its channels share. A wide Field names its channels on every
position of DEVICES. -/
def geoOf (l : Layout) (f : FieldCfg) : Geo :=
  let k : ChanCfg := (f.chans.head?.bind (l.channels[·]?)).getD ⟨0, 0, 1, 1, 4, 1, 0, 0, 0, 1, 1⟩
  let chans := if f.wide then f.devices.flatMap fun p => f.chans.map (p * 128 + ·) else f.chans
  let pc := popcount k.ceMask * k.luns
  let d := chans.length * pc
  let bd := k.planes * k.bpp
  let u := k.pageKib / 4
  let g := grainBlocks f.grain
  let m := ceilDiv bd 128
  let pmax := if d = 0 then 0 else ceilDiv f.openBudget d
  { chans := chans
    drill := if f.wide then f.chans.flatMap fun c => f.devices.map (· * 128 + c) else f.chans
    pc := pc
    d := d
    bd := bd
    u := u
    g := g
    n := if g = 0 then 0 else g * (k.ppb * u / g)
    w := f.stripeW
    m := m
    pmax := pmax
    a := bd - f.headlandMin - f.seedbedMax - m - pmax
    kmax := max 1 (if f.stripeW = 0 then 0 else f.openBudget / f.stripeW)
    l := max 1 (if u = 0 then 1 else g / u)
    ppb := k.ppb
    slcPages := if k.bits = 0 then 0 else k.ppb / k.bits
    bits := k.bits
    luns := k.luns
    nretry := ((l.recipe? k.recipeSet).map (·.retry.length)).getD 0
    hard := ldpcHard k.ldpc }

/-- The usable capacity in logical blocks (R371). -/
def Geo.capacity (q : Geo) : Nat :=
  if q.w = 0 ∨ q.g = 0 then 0 else q.g * (q.d * q.a * q.n * (q.w - 1) * 15 / (q.w * 16) / q.g)

/-- Map units a Plot occupies (R372). -/
def plotUnits (q : Geo) (p : PlotCfg) : Nat := ceilDiv (if p.credential then 2 * p.capacity else p.capacity) q.g

def emptyGeo : Geo := ⟨[], [], 0, 0, 0, 1, 1, 0, 0, 0, 0, 0, 1, 1, 0, 0, 1, 1, 0, 0⟩

def State.geo (s : State) (f : Nat) : Geo :=
  match s.layout with
  | some l => ((l.field? f).map (geoOf l)).getD emptyGeo
  | none => emptyGeo

/-- Table FLD-2. -/
def unitAddr (q : Geo) (b : BlkId) (page slot : Nat) : Nat :=
  b.chan * 2 ^ 34 + b.die * 2 ^ 30 + (b.block * q.ppb + page) * q.u + slot

def addrUnmapped : Nat := 0xFFFFFFFFFFFF
def addrLost : Nat := 0xFFFFFFFFFFFE

/-- The place a physical unit address names. -/
def addrPlace (q : Geo) (a : Nat) : BlkId × Nat × Nat :=
  let unit := a % 2 ^ 30
  (⟨a / 2 ^ 34, a / 2 ^ 30 % 16, unit / q.u / q.ppb⟩, unit / q.u % q.ppb, unit % q.u)

/-- The k-th set bit of a mask, counted from 0. -/
def nthBit (mask k : Nat) : Option Nat := ((List.range 4).filter mask.testBit)[k]?

/-- The CE_N that operation die DIE selects (R478). -/
def ceOf (c : ChanCfg) (die : Nat) : Option Nat := nthBit c.ceMask (die / c.luns)

/-- The row address of a page and its cycle count (R479). -/
def rowAddr (c : ChanCfg) (lun block page : Nat) : Nat :=
  let pw := clog2 c.ppb
  let bw := clog2 (c.planes * c.bpp)
  lun * 2 ^ (pw + bw) + block * 2 ^ pw + page

def rowCycles (c : ChanCfg) : Nat := max 2 (ceilDiv (clog2 c.ppb + clog2 (c.planes * c.bpp) + clog2 c.luns) 8)

/-- The column of unit k (R481). -/
def unitColumn (c : ChanCfg) (k : Nat) : Nat := if k = 0 then 0 else k * (4128 + ldpcParity c.ldpc) + 64

/-- The data rate of a Toggle DDR mode in MT/s (Table CHN-6). -/
def toggleRate : Nat → Nat
  | 0 => 100 | 1 => 200 | 2 => 266 | 3 => 400 | 4 => 533 | 5 => 667 | 6 => 800
  | 7 => 1066 | 8 => 1200 | 9 => 1400 | 10 => 1600 | _ => 0

end Sys2Proof.Machine
end

