-- ==== Sys2Proof/Machine/FieldCore.lean ====
section
/-! DEFINITION. One Field by itself: block records, the versions of a block, the drill (R379 to R384), page release and
tags (R388 to R390, R447, R448), what a passed or failed program does to map and records, and the counts the Field's
rules are stated in. Everything here maps a FieldState to a FieldState; FieldOps.lean joins it to the machine. -/

namespace Sys2Proof.Machine

/-- What a Field manager knows from outside its own state. -/
structure FEnv where
  geo : Geo
  cfg : FieldCfg
  num : Nat
  fenced : List Nat                       -- channels whose dies are unusable: fenced, or on an absent member
  ordNext : Nat
  unaccepted : List (Nat × Nat × Nat)     -- (Plot, LBA, order) of granted write blocks not accepted and still to come
  gen : Nat → Bool                        -- key generation bit of each Plot (R349)
  rekeys : Nat → Bool                     -- Plots whose bulk re-key runs now (R350, R354)
  holding : Bool                          -- a hold-up develops the latent window (R472)
  cacheSlots : Nat                        -- map segments the map-cache banks of the Field hold

/-! ### Block records (R411, R412) -/

def freshRec : BlockRec := ⟨0, 0, false, false, false, false, false, 0, 0, 0, 0, none, 0⟩

def FieldState.blockRec (fs : FieldState) (b : BlkId) : BlockRec := ((fs.blocks.find? (·.1 == b)).map (·.2)).getD freshRec

def FieldState.modRec (fs : FieldState) (b : BlkId) (f : BlockRec → BlockRec) : FieldState :=
  { fs with blocks := (b, f (fs.blockRec b)) :: fs.blocks.filter (·.1 != b) }

def FieldState.countState (fs : FieldState) (p : BlkId → BlockRec → Bool) : Nat :=
  (fs.blocks.filter fun x => p x.1 x.2).length

/-- Channels of the Field whose dies can be used; the blocks of the others count in no register and in no F (R440). -/
def FEnv.usable (env : FEnv) : List Nat := env.geo.chans.filter fun c => !env.fenced.contains c

/-- Blocks of usable channels whose record has a property. -/
def FieldState.countUsable (fs : FieldState) (env : FEnv) (p : BlockRec → Bool) : Nat :=
  fs.countState fun b r => env.usable.contains b.chan && p r

/-- Free blocks F: erased blocks plus fallow blocks (R385). -/
def FieldState.free (fs : FieldState) (env : FEnv) : Nat :=
  env.usable.length * env.geo.pc * env.geo.bd - fs.countUsable env fun r => r.state == 1 || r.state == 2 || r.state == 4 || r.state == 5

def onDie (b : BlkId) (chan die : Nat) : Bool := b.chan == chan && b.die == die

def FieldState.openOn (fs : FieldState) (chan die : Nat) : Nat := fs.countState fun b r => onDie b chan die && r.state == 1

def FieldState.slcOn (fs : FieldState) (chan die : Nat) : Nat :=
  fs.countState fun b r => onDie b chan die && r.slc && (r.state == 1 || r.state == 2)

/-- dose_h of R416: equivalent hours at 40 °C. -/
def doseHours (r : BlockRec) : Nat := r.dose / 57600

/-- The order in which R427 takes the causes of DUE. -/
def dueRank (why : Nat) : Nat := if why = 4 ∨ why = 5 then 0 else if why = 3 then 1 else 2

/-- A condition of Table MED-3 arises for a block: it is due with this WHY, whatever it was due for (R423, R426, R437; log 81). -/
def FieldState.markDue (fs : FieldState) (b : BlkId) (why : Nat) : FieldState :=
  let r := fs.blockRec b
  if r.state = 1 ∨ r.state = 2 ∨ r.state = 3 then fs.modRec b fun r => { r with due := true, why := why } else fs

/-- Conditions of Table MED-3 that a record meets by itself. -/
def dueByRecord (cfg : FieldCfg) (r : BlockRec) : Option Nat :=
  if r.doseSat then some 1
  else if cfg.retention.testBit 0 ∧ cfg.doseRefresh ≤ doseHours r then some 1
  else if cfg.retention.testBit 1 ∧ cfg.readRefresh ≤ r.reads then some 2
  else none

/-- A condition that the record of a block did not meet before arises (log 81). -/
def FieldState.markArisen (fs : FieldState) (cfg : FieldCfg) (b : BlkId) (old : BlockRec) : FieldState :=
  match dueByRecord cfg (fs.blockRec b) with
  | some w => if dueByRecord cfg old ≠ some w ∨ !(fs.blockRec b).due then fs.markDue b w else fs
  | none => fs

/-- Add a dose to a block; `full` says that the increment has itself saturated (R422). -/
def addDose (r : BlockRec) (i : Nat) (full : Bool) : BlockRec :=
  let sat := 2 ^ 40 ≤ r.dose + i ∨ full
  { r with dose := if sat then 2 ^ 40 - 1 else r.dose + i, doseSat := r.doseSat || decide sat }

/-- A block reports its erase: R412. -/
def erasedRec (r : BlockRec) : BlockRec := { freshRec with pe := count 0xFFFFFF r.pe }

/-- A block record (Table MED-1). -/
def recBytes (r : BlockRec) : List Byte :=
  leBytes 3 r.pe ++ leBytes 1 (r.state % 8 + bitOf r.slc 3 + bitOf r.gen 4 + bitOf r.doseSat 5 + bitOf r.due 6 + bitOf r.weak 7) ++
    leBytes 4 r.closeFix ++ leBytes 5 r.dose ++ leBytes 3 r.reads ++ leBytes 1 (r.cls % 16) ++
    leBytes 1 (match r.lastOk with | some k => k % 32 + 128 | none => 0) ++ leBytes 1 (r.why % 8) ++ [0]

/-! ### Versions (R41 to R44) -/

def Entry.covers (e : Entry) (plot lba : Nat) : Bool :=
  e.plot == plot && (e.kind == .wholePlot || (decide (e.lba ≤ lba) && decide (lba < e.lba + e.count)))

/-- Later in the order R43 and R453 give: the higher number, and a whole-Plot entry after a copy of its own number. -/
def Entry.after (a b : Entry) : Bool :=
  decide (b.order < a.order) || (decide (a.order = b.order) && a.kind == .wholePlot)

/-- The version of a block with the highest order number at or below a horizon (R41, R43). -/
def versionAt (es : List Entry) (plot lba horizon : Nat) : Option Entry :=
  (es.filter fun e => e.covers plot lba && decide (e.order ≤ horizon)).foldl
    (fun best e => match best with | none => some e | some b => if e.after b then some e else best) none

/-- Whether a version holds data: a discard's does not. -/
def Entry.hasData (e : Entry) : Bool := e.kind == .block || e.kind == .record

def zeroBlock : Block := List.replicate 4096 0

/-! ### The map -/

def FieldState.mapEnt (fs : FieldState) (plot unit : Nat) : Option MapEnt :=
  fs.map.find? fun e => e.plot == plot && e.unit == unit

def FieldState.setMap (fs : FieldState) (e : MapEnt) : FieldState :=
  { fs with map := e :: fs.map.filter fun x => !(x.plot == e.plot && x.unit == e.unit) }

/-! ### Pages -/

def FieldState.page? (fs : FieldState) (b : BlkId) (p : Nat) : Option PageRec :=
  fs.pages.find? fun r => r.blk == b && r.page == p

def FieldState.modPage (fs : FieldState) (b : BlkId) (p : Nat) (f : PageRec → PageRec) : FieldState :=
  { fs with pages := fs.pages.map fun r => if r.blk == b && r.page == p then f r else r }

def slotOrder : SlotUse → Option Nat
  | .unit _ _ o _ => some o
  | .trim o _ => some o
  | _ => none

/-- The lowest order number a page carries (R62). -/
def PageRec.lowest (r : PageRec) : Option Nat :=
  (r.slots.filterMap slotOrder).foldl (fun m o => match m with | none => some o | some x => some (min x o)) none

/-- KIND of Table FIX-1. -/
def kindOf (slots : List SlotUse) : Nat :=
  match slots.find? (· != .filler) with
  | none => 2
  | some (.unit _ _ _ _) => 0
  | some (.trim _ _) => 4
  | some (.mapSegment _ _ _) => 3
  | some (.fixPage _ _ _) => 5
  | some .parity => 1
  | some .filler => 2

def isHostSlot : SlotUse → Bool
  | .unit _ _ _ none => true
  | _ => false

/-- The last LBA of a version's own blocks. -/
def Entry.lastLba (e : Entry) : Nat := e.lba + e.count - 1

/-- The parts of a version that are placed one by one: its blocks, or its one trim entry. -/
def Entry.parts (e : Entry) : List Nat := if e.hasData then (List.range e.count).map (e.lba + ·) else [e.lba]

/-- Whether a slot carries a part of the version. One whose staging slot a later discard freed is carried by that discard: its
trim units, or the merged copies that hold zeros in its place (R403; log 55). -/
def carriesPart (e : Entry) (part : Nat) : SlotUse → Bool
  | .unit p l o _ => e.hasData && e.plot == p && l == part && o == e.freed.getD e.order
  | .trim o j => (!e.hasData && e.order == o && e.part == j) || e.freed == some o
  | _ => false

/-- Whether a slot carries some part of the version. -/
def carries (e : Entry) (u : SlotUse) : Bool := e.parts.any fun l => carriesPart e l u

/-- Every part of a version lies on a page of a kind. -/
def allParts (fs : FieldState) (p : PageRec → Bool) (e : Entry) : Bool :=
  e.parts.all fun l => fs.pages.any fun r => p r && r.slots.any (carriesPart e l)

/-- The development floor a page released now is stamped with: stamps never fall, so a version that was released once and is
placed again counts as released (R448; log 110). -/
def stampNow (fs : FieldState) (env : FEnv) : Nat :=
  let orders := (fs.entries.filter fun e => e.rseq.isNone && !e.again).map (·.order) ++ env.unaccepted.map fun x => x.2.2
  match orders.foldl (fun m o => match m with | none => some o | some x => some (min x o)) none with
  | none => env.ordNext - 1
  | some o => o - 1

/-- Release one page: its release sequence number, stamp, FIXCOUNT and kind (R447, R448). -/
def releasePage (fs : FieldState) (env : FEnv) (b : BlkId) (p : Nat) : FieldState :=
  match fs.page? b p with
  | none => fs
  | some r =>
    let n := fs.rseqNext
    let fs := fs.modPage b p fun r => { r with rseq := some n }
    let out := fun (e : Entry) => e.rseq.isNone && r.slots.any (carries e) && allParts fs (fun x => x.rseq.isSome && !x.failed) e
    let fs : FieldState := { fs with entries := fs.entries.map fun e => if out e then { e with rseq := some n } else e, rseqNext := n + 1 }
    let stamp := stampNow fs env
    let fc := (fs.recorded.map (·.count)).getD 0
    fs.modPage b p fun r => { r with stamp := stamp, fixcount := fc, kind := kindOf r.slots }

/-- HOST_WAIT holds host blocks back, unless SPACE_OUT or a hold-up lets the accepted ones develop (R398, R399, R472). -/
def hostHeld (fs : FieldState) (env : FEnv) : Bool := fs.hostWait && !fs.spaceOut && !env.holding

def isMovedSlot : SlotUse → Bool
  | .unit _ _ _ (some _) => true
  | _ => false

/-- A host page is held while HOST_WAIT is set. One that a relocation shares, or must follow in its block, is released with it:
relocation continues (R398; log 88). -/
def heldPage (fs : FieldState) (env : FEnv) (r : PageRec) : Bool :=
  hostHeld fs env && r.slots.any isHostSlot &&
    !fs.pages.any fun x => x.blk == r.blk && decide (r.page ≤ x.page) && x.rseq.isNone && x.slots.any isMovedSlot

/-- The next page to release: full, every earlier page of its block released, not held; the lowest order number first
(R62), pages without a number after those that carry one. -/
def nextRelease (fs : FieldState) (env : FEnv) : Option PageRec :=
  let ready := fs.pages.filter fun r => r.rseq.isNone && decide (env.geo.u ≤ r.slots.length) && !heldPage fs env r &&
    fs.pages.all fun x => !(x.blk == r.blk && decide (x.page < r.page)) || x.rseq.isSome
  ready.foldl (fun best r => match best with
    | none => some r
    | some b =>
      match r.lowest, b.lowest with
      | some x, some y => if x < y then some r else best
      | some _, none => some r
      | _, _ => best) none

def releaseReady (env : FEnv) : Nat → FieldState → FieldState
  | 0, fs => fs
  | fuel + 1, fs =>
    match nextRelease fs env with
    | none => fs
    | some r => releaseReady env fuel (releasePage fs env r.blk r.page)

def releaseAll (fs : FieldState) (env : FEnv) : FieldState := releaseReady env fs.pages.length fs

/-! ### The drill -/

def hostClasses (env : FEnv) : Nat := max 1 env.cfg.streams
def seedClass (env : FEnv) : Nat := hostClasses env
def mapClass (env : FEnv) : Nat := hostClasses env + 1

/-- Member m of the i-th set: channel and die (R381); in a wide Field consecutive members lie on consecutive positions (R610). -/
def memberPlace (q : Geo) (i m : Nat) : Nat × Nat :=
  let k := i * q.w + m
  (q.drill.getD (k % q.drill.length) 0, k / q.drill.length % q.pc)

/-- The erased blocks the drill may open on a die: those the latest recorded replay list names (R458). -/
def erasedOn (fs : FieldState) (env : FEnv) (chan die : Nat) : List BlkId :=
  let all : List BlkId := match fs.recorded with
    | none => (List.range env.geo.bd).map fun b => ⟨chan, die, b⟩
    | some r => (r.list.map (·.1)).filter fun b => onDie b chan die
  let all := match fs.fix with
    | some x => if x.written then all.filter fun b => x.point.list.any (·.1 == b) else all
    | none => all
  all.filter fun b => (fs.blockRec b).state == 0

/-- Choose one of them (R383). -/
def chooseBlock (fs : FieldState) (env : FEnv) (bs : List BlkId) (chan die : Nat) : Option BlkId :=
  if env.cfg.wear = 1 then
    bs.foldl (fun best b => match best with
      | none => some b
      | some x =>
        let pb := (fs.blockRec b).pe
        let px := (fs.blockRec x).pe
        if pb < px ∨ (pb = px ∧ b.block < x.block) then some b else best) none
  else
    let ptr := ((fs.diePtr.find? fun x => x.1 == chan && x.2.1 == die).map (·.2.2)).getD 0
    let key := fun (b : BlkId) => (b.block + env.geo.bd - ptr) % env.geo.bd
    bs.foldl (fun best b => match best with | none => some b | some x => if key b < key x then some b else best) none

/-- The member blocks of set i, or none when i does not qualify (R381, R386, R410). -/
def setMembers (fs : FieldState) (env : FEnv) (slc : Bool) (i : Nat) : Option (List BlkId) :=
  (List.range env.geo.w).mapM fun m =>
    let (chan, die) := memberPlace env.geo i m
    if env.fenced.contains chan then none
    else if env.geo.pmax ≤ fs.openOn chan die then none
    else if slc ∧ fs.seedSize ≤ fs.slcOn chan die then none
    else chooseBlock fs env (erasedOn fs env chan die) chan die

def FieldState.openSets (fs : FieldState) : List StripeSet := fs.sets.filter (·.open_)

/-- A die that may open one more block and has no erased one the recorded replay list names (R459). -/
def lacksBlock (fs : FieldState) (env : FEnv) (p : Nat × Nat) : Bool :=
  !env.fenced.contains p.1 && decide (fs.openOn p.1 p.2 < env.geo.pmax) && (erasedOn fs env p.1 p.2).isEmpty

/-- Open a set of a class and key generation: the first qualifying index of D consecutive ones (R381, R382, R349). The dies that
made an index fail for want of an erased block need one (R459). -/
def openSet (fs : FieldState) (env : FEnv) (cls : Nat) (slc gen : Bool) : FieldState :=
  if env.geo.kmax ≤ fs.openSets.length ∨ env.geo.chans = [] ∨ env.geo.pc = 0 then fs
  else
    let tried := (List.range (max 1 env.geo.d)).takeWhile fun k => (setMembers fs env slc (fs.nextSet + k)).isNone
    let lacking := (tried.flatMap fun k => (List.range env.geo.w).map fun m => memberPlace env.geo (fs.nextSet + k) m).filter (lacksBlock fs env)
    let fs : FieldState := { fs with needs := (fs.needs ++ lacking).dedup }
    match (List.range (max 1 env.geo.d)).find? fun k => (setMembers fs env slc (fs.nextSet + k)).isSome with
    | none => { fs with nextSet := fs.nextSet + max 1 env.geo.d }
    | some k =>
      let i := fs.nextSet + k
      let ms := (setMembers fs env slc i).getD []
      let fs := ms.foldl (fun fs b =>
        let fs := fs.modRec b fun r => { r with state := 1, slc := slc, gen := gen, cls := min cls 15 }
        if env.cfg.wear = 1 then fs
        else { fs with diePtr := (b.chan, b.die, (b.block + 1) % env.geo.bd) :: fs.diePtr.filter fun x => !(x.1 == b.chan && x.2.1 == b.die) }) fs
      { fs with nextSet := i + 1, sets := fs.sets ++ [⟨i, cls, ms, true, slc, gen, 0, 0, 0, 0⟩] }

/-- Whether a set may take units of a key generation: the blocks a Plot's units go to carry the Plot's own generation, or the
block's they were moved from; map and fix-point units have none (R349). -/
def StripeSet.suits (x : StripeSet) (gen : Option Bool) : Bool := match gen with | some g => x.gen == g | none => true

/-- A set holds host pages that HOST_WAIT keeps back: relocation goes to other sets while there are any (R398, log 88). -/
def setHeld (fs : FieldState) (env : FEnv) (x : StripeSet) : Bool :=
  fs.pages.any fun r => x.members.contains r.blk && r.rseq.isNone && heldPage fs env r

/-- The open set of the class among some, or of the nearest class, the colder one first; the map class goes to the coldest open
host class, and only folding empties a Seedbed set (R382, R387). -/
def nearestOf (env : FEnv) (cls : Nat) (open_ : List StripeSet) : Option StripeSet :=
  match open_.find? (·.cls == cls) with
  | some x => some x
  | none =>
    let want := if hostClasses env ≤ cls then hostClasses env - 1 else cls
    let dist := fun (x : StripeSet) => if want ≤ x.cls then 2 * (x.cls - want) else 2 * (want - x.cls) + 1
    (open_.filter fun x => !x.slc).foldl (fun best x => match best with | none => some x | some b => if dist x < dist b then some x else best) none

/-- The set the units of a class and generation go to. -/
def nearestSet (fs : FieldState) (env : FEnv) (cls : Nat) (gen : Option Bool) : Option StripeSet :=
  let open_ := fs.openSets.filter (·.suits gen)
  (nearestOf env cls (open_.filter fun x => !setHeld fs env x)).orElse fun _ => nearestOf env cls open_

def FieldState.modSet (fs : FieldState) (i : Nat) (f : StripeSet → StripeSet) : FieldState :=
  { fs with sets := fs.sets.map fun x => if x.idx == i then f x else x }

/-- Close a set: its blocks are closed at this FIXCOUNT (Table MED-1). -/
def closeSet (fs : FieldState) (x : StripeSet) : FieldState :=
  let fs := fs.modSet x.idx fun x => { x with open_ := false }
  x.members.foldl (fun fs b =>
    if (fs.blockRec b).state = 1 then fs.modRec b fun r => { r with state := 2, closeFix := fs.fixcount } else fs) fs

/-- Row groups of a set (R384, R386). -/
def setGroups (env : FEnv) (x : StripeSet) : Nat := (if x.slc then env.geo.slcPages else env.geo.ppb) / env.geo.l

def freshPage (b : BlkId) (p : Nat) (slots : List SlotUse) : PageRec := ⟨b, p, 0, slots, none, 0, 0, false, false, false, []⟩

/-- The parity member's pages of a row group (R384, R413). -/
def parityPages (env : FEnv) (x : StripeSet) (first n : Nat) : List PageRec :=
  ((x.members.getLast?).map fun b => (List.range n).map fun k => freshPage b (first + k) (List.replicate env.geo.u .parity)).getD []

/-- The pages no row group reaches at the end of each block: filler units, which are never mapped (R370). -/
def endPages (env : FEnv) (x : StripeSet) : List PageRec :=
  let first := setGroups env x * env.geo.l
  let n := (if x.slc then env.geo.slcPages else env.geo.ppb) - first
  (x.members.dropLast.flatMap fun b => (List.range n).map fun k => freshPage b (first + k) (List.replicate env.geo.u .filler)) ++
    parityPages env x first n

/-- Put one unit into the set's current slot and move on, adding the parity pages when a row group is complete and
closing the set after its last one (R384). -/
def fillSlot (fs : FieldState) (env : FEnv) (i : Nat) (use : SlotUse) : FieldState :=
  match fs.sets.find? (·.idx == i) with
  | none => fs
  | some x =>
    match if x.open_ then x.members[x.member]? else none with
    | none => fs
    | some b =>
      let p := x.group * env.geo.l + x.page
      let fs : FieldState := match fs.page? b p with
        | some _ => fs.modPage b p fun r => { r with slots := r.slots ++ [use] }
        | none => { fs with pages := fs.pages ++ [freshPage b p [use]] }
      if x.slot + 1 < env.geo.u then fs.modSet i fun x => { x with slot := x.slot + 1 }
      else if x.page + 1 < env.geo.l then fs.modSet i fun x => { x with slot := 0, page := x.page + 1 }
      else if x.member + 2 < env.geo.w then fs.modSet i fun x => { x with slot := 0, page := 0, member := x.member + 1 }
      else
        let fs : FieldState := { fs with pages := fs.pages ++ parityPages env x (x.group * env.geo.l) env.geo.l }
        let fs := fs.modSet i fun x => { x with slot := 0, page := 0, member := 0, group := x.group + 1 }
        if x.group + 1 < setGroups env x then fs else closeSet { fs with pages := fs.pages ++ endPages env x } x

def fillSlots (fs : FieldState) (env : FEnv) (i : Nat) (uses : List SlotUse) : FieldState :=
  uses.foldl (fun fs u => fillSlot fs env i u) fs

/-- Whether a set stands inside a row group. -/
def StripeSet.midGroup (x : StripeSet) : Bool := x.slot != 0 || x.page != 0 || x.member != 0

/-- Complete the row group of a set with filler (R390). -/
def padGroup (env : FEnv) (i : Nat) : Nat → FieldState → FieldState
  | 0, fs => fs
  | fuel + 1, fs =>
    match fs.sets.find? (·.idx == i) with
    | some x => if x.open_ && x.midGroup then padGroup env i fuel (fillSlot fs env i .filler) else fs
    | none => fs

def padSet (fs : FieldState) (env : FEnv) (i : Nat) : FieldState := padGroup env i (env.geo.w * env.geo.l * env.geo.u) fs

/-- A set holds a unit the trigger covers, on a page not yet released or in the row group that is still incomplete (R389, R390,
R465). -/
def setCovered (fs : FieldState) (env : FEnv) (x : StripeSet) (cover : SlotUse → Bool) : Bool :=
  fs.pages.any fun r => (r.rseq.isNone || decide (x.group * env.geo.l ≤ r.page)) && x.members.contains r.blk && r.slots.any cover

/-- Force development of what a trigger covers (R389, R390). -/
def forceField (fs : FieldState) (env : FEnv) (cover : SlotUse → Bool) : FieldState :=
  releaseAll (fs.openSets.foldl (fun fs x => if setCovered fs env x cover then padSet fs env x.idx else fs) fs) env

/-- Every accepted block and trim entry below an order number (R449). -/
def below (n : Nat) : SlotUse → Bool
  | .unit _ _ o none => decide (o < n)
  | .trim o _ => decide (o < n)
  | _ => false

def anySlot (_ : SlotUse) : Bool := true

/-- Close a set at the end of its current row group (R410, R429). -/
def finishSet (fs : FieldState) (env : FEnv) (x : StripeSet) : FieldState :=
  closeSet (padSet fs env x.idx) x

/-! ### Placing units -/

def heatOf (fs : FieldState) (env : FEnv) (plot unit : Nat) : Option Nat :=
  (fs.heats.find? fun x => x.1 == plot && x.2.1 == unit).map fun x => min x.2.2 (hostClasses env - 1)

/-- HEAT of a unit, recorded when the drill places it (R379). -/
def FieldState.setHeat (fs : FieldState) (plot unit h : Nat) : FieldState :=
  { fs with heats := (plot, unit, h) :: fs.heats.filter fun x => !(x.1 == plot && x.2.1 == unit) }

/-- The class of a host write (R379). -/
def hostClass (fs : FieldState) (env : FEnv) (plot unit : Nat) : Nat :=
  match heatOf fs env plot unit with
  | none => hostClasses env - 1
  | some h => h - 1

/-- The class of a moved unit (R379, R387). -/
def moveClass (fs : FieldState) (env : FEnv) (why : MoveWhy) (plot unit : Nat) : Nat :=
  let h := (heatOf fs env plot unit).getD (hostClasses env - 1)
  if why = .fold then h else min (h + 1) (hostClasses env - 1)

/-- Filler up to the next unit index that is a multiple of the grain (R373). -/
def alignSet (env : FEnv) (i : Nat) : Nat → FieldState → FieldState
  | 0, fs => fs
  | fuel + 1, fs =>
    match fs.sets.find? (·.idx == i) with
    | some x => if (x.page * env.geo.u + x.slot) % env.geo.g = 0 then fs else alignSet env i fuel (fillSlot fs env i .filler)
    | none => fs

/-- Make sure the class has a set of its own and of the generation while one may be opened. With every set open for another
generation, or only Seedbed sets open, one of them is closed to make room (log 56). -/
def ensureSet (fs : FieldState) (env : FEnv) (cls : Nat) (slc : Bool) (gen : Option Bool) : FieldState :=
  if fs.openSets.any fun x => x.cls == cls && x.suits gen && !setHeld fs env x then fs
  else
    let fs := openSet fs env cls slc (gen.getD false)
    if (nearestSet fs env cls gen).isSome then fs
    else match (nearestSet fs env cls none).orElse fun _ => fs.openSets.head? with
      | some x => openSet (finishSet fs env x) env cls slc (gen.getD false)
      | none => fs

/-- The open set that takes the next unit of a class, filled up to the unit's place when a whole map unit comes: that filler may
complete the set's last row group and close it, and the next set is taken (R373, R384). -/
def unitSet (env : FEnv) (cls : Nat) (slc : Bool) (gen : Option Bool) (whole : Bool) : (fuel : Nat) → FieldState → FieldState × Option Nat
  | 0, fs => (fs, none)
  | fuel + 1, fs =>
    let fs := ensureSet fs env cls slc gen
    match nearestSet fs env cls gen with
    | none => (fs, none)
    | some x =>
      let fs := if whole then alignSet env x.idx env.geo.g fs else fs
      if fs.openSets.any (·.idx == x.idx) then (fs, some x.idx) else unitSet env cls slc gen whole fuel fs

/-- Cut a list into pieces of n. -/
def pieces {α : Type} (n : Nat) (l : List α) : List (List α) := (List.range (ceilDiv l.length n)).map fun i => (l.drop (n * i)).take n

/-- Put units into the set of a class, map unit by map unit; they stay unplaced while no set can be had. -/
def placeIn (fs : FieldState) (env : FEnv) (cls : Nat) (slc : Bool) (gen : Option Bool) (uses : List SlotUse) : FieldState :=
  (pieces (max 1 env.geo.g) uses).foldl (fun fs us =>
    match unitSet env cls slc gen (us.length == env.geo.g) (fs.openSets.length + 2) fs with
    | (fs, some i) => fillSlots fs env i us
    | (fs, none) => fs) fs

/-- Units of the map class: segments, trim units, fix-point pages. -/
def placeMap (fs : FieldState) (env : FEnv) (uses : List SlotUse) : FieldState := placeIn fs env (mapClass env) false none uses

/-! ### Copies of a map unit -/

/-- The unit slot stored at an address. -/
def slotAt (fs : FieldState) (env : FEnv) (addr : Nat) : Option SlotUse :=
  let (b, page, slot) := addrPlace env.geo addr
  (fs.page? b page).bind fun r => r.slots[slot]?

/-- The order numbers of the g blocks of the map unit copy at an address. -/
def copyNumbers (fs : FieldState) (env : FEnv) (addr : Nat) : List Nat :=
  (List.range env.geo.g).map fun j => ((slotAt fs env (addr + j)).bind slotOrder).getD 0

/-- Some block of a map unit has a version, of a kind, later than the number its copy carries (R397, R453). -/
def newerThan (fs : FieldState) (env : FEnv) (plot unit : Nat) (nums : List Nat) (kind : Entry → Bool) : Bool :=
  fs.entries.any fun e => kind e && (List.range env.geo.g).any fun j =>
    e.covers plot (env.geo.g * unit + j) && (decide (nums.getD j 0 < e.order) || (e.kind == .wholePlot && decide (nums.getD j 0 ≤ e.order)))

/-- A page that holds a version of a block: the newest programmed copy of it that is not invalid. -/
def copyAt (fs : FieldState) (plot lba o : Nat) : Option (BlkId × Nat × Nat) :=
  let hit := fun (r : PageRec) => (List.range r.slots.length).find? fun k => !r.stale.contains k &&
    (match r.slots[k]? with | some (.unit p l v _) => p == plot && l == lba && v == o | _ => false)
  ((fs.pages.filter fun r => r.passed && (hit r).isSome).foldl (fun best r => match best with
    | none => some r
    | some b => if b.rseq.getD 0 < r.rseq.getD 0 then some r else best) (none : Option PageRec)).map fun r => (r.blk, r.page, (hit r).getD 0)

def copyPage (fs : FieldState) (plot lba o : Nat) : Option (BlkId × Nat) := (copyAt fs plot lba o).map fun x => (x.1, x.2.1)

/-- The map names the LOST address for a unit, or a copy that reached stage 6 (R419). -/
def lostUnit (fs : FieldState) (env : FEnv) (plot unit : Nat) : Bool :=
  match fs.mapEnt plot unit with
  | some m => m.lost || fs.stage6.contains (addrPlace env.geo m.addr)
  | none => false

/-! ### Merges (R375) -/

/-- The version a merge takes for a block its command does not cover, at an order number; none: zeros with the command's number
(R375, R403, R419). -/
def mergeFrom (fs : FieldState) (env : FEnv) (e : Entry) (cut unit lba : Nat) : Option Entry :=
  match versionAt fs.entries e.plot lba cut with
  | some v => if v.hasData && (v.order == e.order || (v.freed.isNone && !(v.passed && lostUnit fs env e.plot unit))) then some v else none
  | none => none

/-- The order numbers at which a map unit is placed for a version: its own, and each later one of another block of the unit up to
which it is still the version of a block of its own. Every prefix of the accepted commands then has its copy, also when a lower
number is accepted after a higher one (R375, R444; log 89). -/
def unitCuts (fs : FieldState) (env : FEnv) (e : Entry) (unit : Nat) : List Nat :=
  let lbas := (List.range env.geo.g).map (env.geo.g * unit + ·)
  let later := fs.entries.filter fun x => x.hasData && x.freed.isNone && decide (e.order < x.order) && lbas.any (x.covers e.plot) &&
    lbas.any fun l => e.covers e.plot l && (versionAt fs.entries e.plot l x.order).map (·.order) == some e.order
  (e.order :: later.map (·.order)).dedup

/-- The units of the map unit that version e completes, at an order number: e's own blocks, the latest versions of the others, and
zeros with e's order number where there is none (R375). -/
def unitSlots (fs : FieldState) (env : FEnv) (e : Entry) (unit cut : Nat) : List SlotUse :=
  (List.range env.geo.g).map fun j =>
    let lba := env.geo.g * unit + j
    .unit e.plot lba ((mergeFrom fs env e cut unit lba).elim e.order (·.order)) none

/-- The pages a merge reads: those that hold the blocks its command does not cover (R375 step 1). -/
def mergePages (fs : FieldState) (env : FEnv) (e : Entry) (unit : Nat) : List (BlkId × Nat) :=
  ((unitCuts fs env e unit).flatMap fun cut => (List.range env.geo.g).filterMap fun j =>
    match mergeFrom fs env e cut unit (env.geo.g * unit + j) with
    | some v => if v.passed && v.order != e.order then copyPage fs e.plot (env.geo.g * unit + j) v.order else none
    | none => none).dedup

/-- Blocks of a unit that zeros replace become versions of their own: what was LOST, or freed by a discard, stays zeros
(R403, R419). -/
def zeroFill (fs : FieldState) (env : FEnv) (e : Entry) (unit : Nat) : FieldState :=
  let gone := (List.range env.geo.g).filterMap fun j =>
    let lba := env.geo.g * unit + j
    match versionAt fs.entries e.plot lba e.order with
    | some v => if v.hasData && (mergeFrom fs env e e.order unit lba).isNone then some lba else none
    | none => none
  { fs with entries := fs.entries ++ gone.map fun l =>
      { e with lba := l, count := 1, kind := .block, crc := crc32c zeroBlock, data := zeroBlock, name := [], rseq := none, passed := false, stage := [] } }

/-- Every part of a version has a place: released with its page, or on a page still to be released. -/
def placed (fs : FieldState) (e : Entry) : Bool := e.rseq.isSome || allParts fs (fun r => !r.failed) e

/-- A version whose map unit still waits for a block of the same command (R375, step 3). -/
def unitWaits (env : FEnv) (e : Entry) (unit : Nat) : Bool :=
  env.unaccepted.any fun x => x.1 == e.plot && x.2.2 == e.order && x.2.1 / env.geo.g == unit

/-- The map units a version's blocks lie in. -/
def unitsOf (env : FEnv) (e : Entry) : List Nat :=
  let g := max 1 env.geo.g
  (List.range (e.lastLba / g + 1 - e.lba / g)).map (e.lba / g + ·)

/-- Every unit of a version can be placed: its command's blocks are there, and what a merge reads is. -/
def readyToPlace (fs : FieldState) (env : FEnv) (e : Entry) : Bool :=
  (unitsOf env e).all fun unit => !unitWaits env e unit &&
    (mergePages fs env e unit).all fun p => fs.merges.any fun m => m.done && m.blk == p.1 && m.page == p.2

/-- The units are placed already, on pages that have not failed. -/
def standing (fs : FieldState) (slots : List SlotUse) : Bool := fs.pages.any fun r => !r.failed && slots.all r.slots.contains

/-- Place the copy of one map unit at an order number, in the Seedbed class where it has a set of its own, and otherwise in
its heat class (R379, R382, R386). -/
def placeCopy (fs : FieldState) (env : FEnv) (e : Entry) (unit cut : Nat) : FieldState :=
  let slots := unitSlots fs env e unit cut
  if standing fs slots then fs
  else
    let h := hostClass fs env e.plot unit
    let gen := some (env.gen e.plot)
    let fs := if fs.seedSize = 0 then fs else ensureSet fs env (seedClass env) true gen
    let seed := decide (fs.seedSize ≠ 0) && fs.openSets.any fun x => x.cls == seedClass env && x.suits gen
    let cls := if seed then seedClass env else h
    let fs := placeIn fs env cls seed gen slots
    if standing fs slots then fs.setHeat e.plot unit h else fs

/-- Place one unit of a version: its copy at each number that asks for one. -/
def placeUnit (fs : FieldState) (env : FEnv) (e : Entry) (unit : Nat) : FieldState :=
  let fs := zeroFill fs env e unit
  (unitCuts fs env e unit).foldl (fun fs cut => placeCopy fs env e unit cut) fs

/-- Place one accepted version: a block or record in its heat class or the Seedbed, a discard in a trim unit of the map
class, with the entries that share it (R379, R386, R451). -/
def placeEntry (fs : FieldState) (env : FEnv) (e : Entry) : FieldState :=
  if placed fs e ∨ e.freed.isSome ∨ (e.hasData ∧ hostHeld fs env) then fs
  else if e.hasData then (if readyToPlace fs env e then (unitsOf env e).foldl (fun fs unit => placeUnit fs env e unit) fs else fs)
  else placeMap fs env [.trim e.order e.part]

/-- Pages the versions still to be placed need for their merges. -/
def mergesNeeded (fs : FieldState) (env : FEnv) : List (BlkId × Nat) :=
  ((fs.entries.filter fun e => e.hasData && e.freed.isNone && !placed fs e).flatMap fun e =>
    (unitsOf env e).flatMap fun unit => if unitWaits env e unit then [] else mergePages fs env e unit).dedup

/-- Note the pages merges wait for, and forget those none needs any more. -/
def noteMerges (fs : FieldState) (env : FEnv) : FieldState :=
  let want := mergesNeeded fs env
  let keep := fs.merges.filter fun m => want.contains (m.blk, m.page)
  { fs with merges := keep ++ (want.filter fun p => !keep.any fun m => m.blk == p.1 && m.page == p.2).map fun p => ⟨p.1, p.2, false⟩ }

/-- Word lines of a die with units of pages not yet released. -/
def openLines (fs : FieldState) (env : FEnv) (b : BlkId) : List (Nat × Nat) :=
  ((fs.pages.filter fun r => r.rseq.isNone && onDie r.blk b.chan b.die && r.slots.any (· != .filler)).map fun r =>
    (r.blk.block, r.page / max 1 env.geo.bits)).dedup

/-- In durable mode a die holds one unreleased word line of latent blocks at most: a set that would begin a second one on a die
completes its row group (R471). -/
def holdLines (env : FEnv) (durable : Bool) (fs : FieldState) : FieldState :=
  if !durable then fs
  else fs.openSets.foldl (fun fs x => if x.members.any fun b => decide (1 < (openLines fs env b).length) then padSet fs env x.idx else fs) fs

/-- Place every accepted version that has no place yet, and release what is full. -/
def placeAll (durable : Bool) (fs : FieldState) (env : FEnv) : FieldState :=
  noteMerges (releaseAll (fs.entries.foldl (fun fs e => holdLines env durable (placeEntry fs env e)) fs) env) env

/-! ### The latent window -/

/-- Data slots of pages not yet programmed in the bank island of a channel (R388, R63). -/
def latentIn (fs : FieldState) (island : Nat) : Nat :=
  ((fs.pages.filter fun r => !r.passed && !r.failed && r.blk.chan / 8 == island).map fun r =>
    (r.slots.filter fun u => match u with | .unit _ _ _ _ => true | _ => false).length).sum

/-- Blocks accepted and not yet programmed (`FLD_LATENT`). -/
def latentBlocks (fs : FieldState) : Nat := (fs.entries.filter fun e => e.hasData && !e.passed && e.freed.isNone).length

/-- Everything a failed page carried has since been programmed elsewhere (Table MED-4). -/
def redone (fs : FieldState) (r : PageRec) : Bool := r.slots.all fun u => fs.entries.all fun e => !carries e u || e.passed

/-- The other members of a block's stripe set. -/
def mates (fs : FieldState) (b : BlkId) : List BlkId :=
  match fs.sets.find? (·.members.contains b) with
  | some x => x.members.filter (· != b)
  | none => []

/-- The other pages of a page's row are programmed: a recovery finds the page by rebuild (R463). -/
def rowPassed (fs : FieldState) (r : PageRec) : Bool :=
  let ms := mates fs r.blk
  !ms.isEmpty && ms.all fun b => match fs.page? b r.page with | some x => x.passed | none => false

/-- A released page whose units still wait for a program: its own, or after a failure another one. -/
def outstanding (fs : FieldState) (r : PageRec) : Bool := r.rseq.isSome && !r.passed && !(r.failed && redone fs r)

/-- A released page that holds the floor back: not programmed, or failed and not to be found through its row yet (R449, R463). -/
def holdsFloor (fs : FieldState) (r : PageRec) : Bool := outstanding fs r || (r.rseq.isSome && r.failed && !rowPassed fs r)

/-- A failed page that no row gives back: only a later fix point lets the floor rise above it (log 90). -/
def lostRow (fs : FieldState) (r : PageRec) : Bool :=
  r.rseq.isSome && r.failed && redone fs r && !rowPassed fs r && (mates fs r.blk).all fun b => match fs.page? b r.page with
    | some x => x.passed || x.failed
    | none => true

/-- The floor reached by programming: the highest stamp of a page that has passed with every page released before it, or the
recorded FLOOR (R449). -/
def reachedFloor (fs : FieldState) : Nat :=
  let r0 := (fs.recorded.map (·.rseq0)).getD 0
  let stop := ((fs.pages.filter (holdsFloor fs)).filterMap (·.rseq)).foldl (fun m n => if r0 ≤ n then min m n else m) fs.rseqNext
  (fs.pages.filter fun r => r.passed && decide (r.rseq.getD stop < stop)).foldl (fun m r => max m r.stamp)
    ((fs.recorded.map (·.floor)).getD 0)

/-- The highest number of an accepted version at or below n. -/
def topBelow (fs : FieldState) (n : Nat) : Nat := (fs.entries.filter fun e => decide (e.order ≤ n)).foldl (fun m e => max m e.order) 0

/-- Blocks numbered n or below are still to arrive. -/
def owedBelow (env : FEnv) (n : Nat) : Bool := env.unaccepted.any fun x => decide (x.2.2 ≤ n)

/-- Whether a flush or FUA write with number n is complete: a page whose STAMP is at least n has passed with every page released
before it, and nothing it covers is still to arrive (R449). -/
def flushDone (fs : FieldState) (env : FEnv) (n : Nat) : Bool := !owedBelow env n && decide (n ≤ reachedFloor fs)

/-- A flush granted now has nothing outstanding: all that is accepted below it lies at or below the floor and nothing is owed, so
that no page is written for it (R390). -/
def flushIdle (fs : FieldState) (env : FEnv) (n : Nat) : Bool := !owedBelow env n && decide (topBelow fs n ≤ reachedFloor fs)

/-- When everything a flush covers is released but no released page carries a stamp that reaches it, a row of filler does
(R449). -/
def stampRow (fs : FieldState) (env : FEnv) (n : Nat) : FieldState :=
  let waits := fs.entries.any fun e => decide (e.order ≤ n) && e.rseq.isNone
  let done := decide (n ≤ (fs.recorded.map (·.floor)).getD 0) || fs.pages.any fun r => r.rseq.isSome && !r.failed && decide (n ≤ r.stamp)
  if owedBelow env n ∨ waits ∨ done then fs
  else
    let fs := ensureSet fs env 0 false none
    match nearestSet fs env 0 none with
    | some x => releaseAll (padSet (fillSlot fs env x.idx .filler) env x.idx) env
    | none => fs

/-! ### Valid units -/

/-- Whether the map names this slot for the block. -/
def mapNames (fs : FieldState) (env : FEnv) (b : BlkId) (page slot plot lba : Nat) : Bool :=
  match fs.mapEnt plot (lba / env.geo.g) with
  | some e => !e.lost && e.addr + lba % env.geo.g == unitAddr env.geo b page slot
  | none => false

/-- The address the recorded fix point names for a map unit: the entry in the segment its directory names (Table FLD-3). -/
def fixAddr (fs : FieldState) (env : FEnv) (r : FixRec) (plot unit : Nat) : Nat :=
  match r.segs.find? fun x => x.1 == plot && x.2.1 == unit / 512 with
  | none => addrUnmapped
  | some x =>
    match slotAt fs env x.2.2 with
    | some (.mapSegment _ _ image) => leNat (slice image (32 + 6 * (unit % 512)) 6)
    | _ => addrUnmapped

/-- Whether the recorded fix point names a copy: its own address, or, for one released since or numbered above its FLOOR, nothing
newer. An older copy counts as valid until a recorded fix point names the newer one (R455, R456). -/
def fixKeeps (fs : FieldState) (env : FEnv) (rseq addr plot lba o : Nat) : Bool :=
  match fs.recorded with
  | none => true
  | some r =>
    let named := fixAddr fs env r plot (lba / env.geo.g)
    let newer := match (slotAt fs env (named + lba % env.geo.g)).bind slotOrder with
      | some v => decide (named < addrLost) && decide (o < v)
      | none => false
    named + lba % env.geo.g == addr || decide (r.floor < o) || (decide (r.rseq0 ≤ rseq) && !newer)

/-- The slots of a page with their indices. -/
def PageRec.indexed (r : PageRec) : List (Nat × SlotUse) := (List.range r.slots.length).zip r.slots

/-- The address of the newest programmed copy of a map segment. -/
def segmentAddr (fs : FieldState) (env : FEnv) (plot seg : Nat) : Option Nat :=
  ((fs.pages.filter (·.passed)).flatMap fun r => r.indexed.filterMap fun x => match x.2 with
    | .mapSegment p i _ => if p = plot ∧ i = seg then some (r.rseq.getD 0, unitAddr env.geo r.blk r.page x.1) else none
    | _ => none).foldl (fun best x => match best with | none => some x | some b => if b.1 < x.1 then some x else best) none |>.map (·.2)

/-- A map segment is valid while it is the newest copy, the recorded fix point names it, or no fix point recorded since its
release names a newer one (R456). -/
def segmentValid (fs : FieldState) (env : FEnv) (plot seg addr rseq : Nat) : Bool :=
  segmentAddr fs env plot seg == some addr || (match fs.recorded with
    | some p => p.segs.contains (plot, seg, addr) || decide (p.rseq0 ≤ rseq)
    | none => true)

/-- A fix-point page is valid while the recorded fix point, or the one in progress, is made of it. -/
def fixPageValid (fs : FieldState) (addr : Nat) : Bool :=
  (match fs.recorded with | some p => p.pages.contains addr | none => false) ||
  (match fs.fix with | some x => x.point.pages.contains addr | none => false)

/-- A slot with content of its own is valid while the map or a fix point needs it (R456). A page not yet passed is not counted
invalid. -/
def unitValid (fs : FieldState) (env : FEnv) (r : PageRec) (slot : Nat) : Bool :=
  r.passed && !r.stale.contains slot && match r.slots[slot]? with
  | some (.unit plot lba o _) => mapNames fs env r.blk r.page slot plot lba ||
      fixKeeps fs env (r.rseq.getD 0) (unitAddr env.geo r.blk r.page slot) plot lba o
  | some (.mapSegment plot seg _) => segmentValid fs env plot seg (unitAddr env.geo r.blk r.page slot) (r.rseq.getD 0)
  | some (.fixPage _ _ _) => fixPageValid fs (unitAddr env.geo r.blk r.page slot)
  | some (.trim _ _) => match fs.recorded with | some f => decide (f.rseq0 ≤ r.rseq.getD 0) | none => true
  | _ => false

/-- Some unit of a page's row, on another member, has a property. -/
def rowAny (fs : FieldState) (r : PageRec) (p : PageRec → Nat → Bool) : Bool :=
  (mates fs r.blk).any fun b => match fs.page? b r.page with
    | some x => (List.range x.slots.length).any (p x)
    | none => false

/-- A slot is valid: its own content is, or it is parity of a row that still holds a valid unit (R400, R414). -/
def slotValid (fs : FieldState) (env : FEnv) (r : PageRec) (slot : Nat) : Bool :=
  if r.slots[slot]? = some .parity then rowAny fs r (unitValid fs env) else unitValid fs env r slot

/-- Whether a slot holds a map-class unit that is still valid, or parity for one. -/
def mapUnitValid (fs : FieldState) (env : FEnv) (r : PageRec) (slot : Nat) : Bool :=
  match r.slots[slot]? with
  | some (.unit _ _ _ _) => false
  | _ => unitValid fs env r slot

/-- Whether a fix point still needs a slot: until a newer one is recorded its block is not erased (R456). -/
def slotNeeded (fs : FieldState) (env : FEnv) (r : PageRec) (slot : Nat) : Bool :=
  match r.slots[slot]? with
  | some (.unit plot lba o _) => r.passed && !r.stale.contains slot &&
      fixKeeps fs env (r.rseq.getD 0) (unitAddr env.geo r.blk r.page slot) plot lba o
  | _ => mapUnitValid fs env r slot

/-- A fallow block may be erased once a fix point begun after its entry is recorded and none of its units, or of the units its
parity protects, is still named by it (R400, R456). -/
def eraseAllowed (fs : FieldState) (env : FEnv) (b : BlkId) : Bool :=
  match fs.fallow.find? (·.1 == b), fs.recorded with
  | some (_, n), some r => decide (0 < (r.count + 2 ^ 32 - n) % 2 ^ 32 ∧ (r.count + 2 ^ 32 - n) % 2 ^ 32 < 2 ^ 31) &&
      fs.pages.all fun p => !(p.blk == b) || (List.range p.slots.length).all fun k =>
        !(if p.slots[k]? = some .parity then rowAny fs p (slotNeeded fs env) else slotNeeded fs env p k)
  | _, _ => false

/-- Valid units of a block. -/
def validUnits (fs : FieldState) (env : FEnv) (b : BlkId) : Nat :=
  ((fs.pages.filter fun r => r.blk == b).map fun r =>
    ((List.range r.slots.length).filter (slotValid fs env r)).length).sum

/-- Units of a page the map still names: those a move takes out of it. -/
def namedSlots (fs : FieldState) (env : FEnv) (r : PageRec) : List (Nat × Nat × Nat × Nat) :=
  r.indexed.filterMap fun x =>
    match x.2 with
    | .unit plot lba o _ => if mapNames fs env r.blk r.page x.1 plot lba then some (x.1, plot, lba, o) else none
    | _ => none

/-- A slot that holds the newest copy of a map segment. -/
def newestSegment (fs : FieldState) (env : FEnv) (r : PageRec) (x : Nat × SlotUse) : Bool :=
  match x.2 with
  | .mapSegment plot seg _ => segmentAddr fs env plot seg == some (unitAddr env.geo r.blk r.page x.1)
  | _ => false

/-- A page holds what must be moved before its block can be lost: units the map names, or the newest copy of a map segment. -/
def holdsLive (fs : FieldState) (env : FEnv) (r : PageRec) : Bool :=
  r.passed && (!(namedSlots fs env r).isEmpty || r.indexed.any (newestSegment fs env r))

/-! ### The map cache (R377) -/

/-- The cache without a segment. -/
def FieldState.uncached (fs : FieldState) (plot seg : Nat) : List (Nat × Nat × Bool) := fs.cache.filter fun c => !(c.1 == plot && c.2.1 == seg)

/-- A segment's entries have changed: it is dirty in the cache. -/
def FieldState.dirtied (fs : FieldState) (plot seg : Nat) : FieldState := { fs with cache := (plot, seg, true) :: fs.uncached plot seg }

/-- A segment waits to be read into the cache. -/
def segPending (fs : FieldState) (plot seg : Nat) : Bool := fs.segReads.any fun r => r.plot == plot && r.seg == seg

/-! ### Moves -/

/-- A slot holds the copy of the unit at an address. -/
def movesFrom (addr : Nat) : SlotUse → Bool
  | .unit _ _ _ (some a) => a == addr
  | _ => false

/-- A unit already copied out and waiting for its program. -/
def inMove (fs : FieldState) (addr : Nat) : Bool :=
  fs.pages.any fun r => !r.passed && !r.failed && r.slots.any (movesFrom addr)

/-- The g units of the map unit at an address, as their copies: numbers unchanged (R396). -/
def movedUnit (fs : FieldState) (env : FEnv) (addr : Nat) : List SlotUse :=
  match slotAt fs env addr with
  | some (.unit plot lba _ _) => (List.range env.geo.g).map fun j =>
      .unit plot (lba + j) (((slotAt fs env (addr + j)).bind slotOrder).getD 0) (some (addr + j))
  | _ => []

/-- Write the map-class units of a page again (a move out of a map-class block): the newest copy of a segment. A fix point's own
pages and trim units stay until a later fix point makes them invalid. -/
def moveSegments (fs : FieldState) (env : FEnv) (r : PageRec) : FieldState :=
  r.indexed.foldl (fun fs x =>
    match x.2 with
    | .mapSegment plot seg image =>
      if newestSegment fs env r x && !fs.pages.any (fun p => !p.passed && !p.failed && p.slots.any fun u =>
          match u with | .mapSegment a i _ => a == plot && i == seg | _ => false) then placeMap fs env [.mapSegment plot seg image] else fs
    | _ => fs) fs

/-- A block's units of a Plot are re-encrypted instead of moved: its bulk re-key runs and the block is of the old generation
(R349, R396). -/
def reEncrypts (fs : FieldState) (env : FEnv) (b : BlkId) (plot : Nat) : Bool := env.rekeys plot && (fs.blockRec b).gen != env.gen plot

/-- The blocks a move takes units out of: its own, or, for a parity block, the data members its content protects (log 88). -/
def moveBlocks (fs : FieldState) (b : BlkId) : List BlkId :=
  match fs.sets.find? fun x => x.members.getLast? == some b with
  | some x => x.members.dropLast
  | none => [b]

/-- The map units a move is to take out of a block: address, Plot and unit number. -/
def movable (fs : FieldState) (env : FEnv) (b : BlkId) : List (Nat × Nat × Nat) :=
  (fs.pages.filter fun r => r.blk == b && r.passed).flatMap fun r =>
    (namedSlots fs env r).filterMap fun x =>
      let addr := unitAddr env.geo b r.page x.1
      if x.2.2.1 % env.geo.g ≠ 0 ∨ inMove fs addr ∨ reEncrypts fs env b x.2.1 then none else some (addr, x.2.1, x.2.2.1 / env.geo.g)

/-- The pages the map unit at an address lies on (R373). -/
def unitPages (env : FEnv) (addr : Nat) : List (BlkId × Nat) :=
  ((List.range env.geo.g).map fun j => let (b, p, _) := addrPlace env.geo (addr + j); (b, p)).dedup

/-- A map unit that reached stage 6 becomes LOST when it is moved (R419). -/
def loseUnit (fs : FieldState) (plot unit : Nat) : FieldState :=
  match fs.mapEnt plot unit with
  | some e => (fs.setMap { e with addr := addrLost, lost := true }).dirtied plot (unit / 512)
  | none => fs

/-- Copy one map unit into the set its class asks for, in a block of the generation it was encrypted under, and record its class
(R349, R379, R396, R428, R437); one that reached stage 6 becomes LOST (R419). -/
def moveUnit (env : FEnv) (why : MoveWhy) (b : BlkId) (fs : FieldState) (x : Nat × Nat × Nat) : FieldState :=
  if fs.stage6.contains (addrPlace env.geo x.1) then loseUnit fs x.2.1 x.2.2
  else
    let h := moveClass fs env why x.2.1 x.2.2
    let fs := placeIn fs env h false (some (fs.blockRec b).gen) (movedUnit fs env x.1)
    if inMove fs x.1 then fs.setHeat x.2.1 x.2.2 h else fs

/-- Copy what a move has read: every map unit all of whose pages have come. -/
def copyOut (fs : FieldState) (env : FEnv) (m : MoveRun) : FieldState :=
  (moveBlocks fs m.blk).foldl (fun fs b =>
    ((movable fs env b).filter fun x => fs.stage6.contains (addrPlace env.geo x.1) || (unitPages env x.1).all m.read.contains).foldl
      (moveUnit env m.why b) fs) fs

/-- A move wants a page: a unit it is to take lies there and has not been read, or the newest copy of a segment does. -/
def moveWants (fs : FieldState) (env : FEnv) (m : MoveRun) (b : BlkId) (page : Nat) : Bool :=
  !m.read.contains (b, page) &&
    ((movable fs env b).any (fun x => !fs.stage6.contains (addrPlace env.geo x.1) && (unitPages env x.1).contains (b, page)) ||
      match fs.page? b page with | some r => r.passed && r.indexed.any (newestSegment fs env r) | none => false)

/-- The next page a move reads. -/
def nextMovePage (fs : FieldState) (env : FEnv) (m : MoveRun) : Option (BlkId × Nat) :=
  (moveBlocks fs m.blk).findSome? fun b => (fs.pages.find? fun r => r.blk == b && moveWants fs env m b r.page).map fun r => (b, r.page)

/-! ### What a program's end does -/

/-- The slots of the map unit copy at an address become invalid (R397). -/
def staleCopy (fs : FieldState) (env : FEnv) (addr : Nat) : FieldState :=
  (List.range env.geo.g).foldl (fun fs j =>
    let (b, page, slot) := addrPlace env.geo (addr + j)
    fs.modPage b page fun r => { r with stale := slot :: r.stale }) fs

/-- Update the map for the map unit whose last block lies at slot k of a passed page (R397, R453). A moved copy counts only
while the map names its source and nothing newer of the unit is latent; a host copy, unless a later version of some block of
the unit is programmed. -/
def passUnit (env : FEnv) (b : BlkId) (page k plot lba : Nat) (src : Option Nat) (fs : FieldState) : FieldState :=
  let unit := lba / env.geo.g
  let addr := unitAddr env.geo b page k - lba % env.geo.g
  let nums := copyNumbers fs env addr
  match src with
  | some a =>
    let named := match fs.mapEnt plot unit with | some e => e.addr + lba % env.geo.g == a && !e.lost | none => false
    if named && !newerThan fs env plot unit nums (fun _ => true) then fs.setMap ⟨plot, unit, addr, false⟩
    else { staleCopy fs env addr with stale := count 0xFFFF fs.stale }
  | none => if newerThan fs env plot unit nums (·.passed) then fs else fs.setMap ⟨plot, unit, addr, false⟩

/-- Units a page counts towards FIX_CADENCE: host, relocated, folded and filler units (R402). -/
def cadenceUnits (r : PageRec) : Nat := (r.slots.filter fun u => match u with | .unit _ _ _ _ | .filler => true | _ => false).length

/-- A page reported pass (Table GLB-5, step 11): its versions are programmed, its units enter the map. -/
def pagePassed (fs : FieldState) (env : FEnv) (b : BlkId) (page : Nat) : FieldState :=
  match fs.page? b page with
  | none => fs
  | some r =>
    let fs := fs.modPage b page fun r => { r with passed := true }
    let done := fun (e : Entry) => !e.passed && r.slots.any (carries e) && allParts fs (·.passed) e
    let fs : FieldState := { fs with
      sinceFix := fs.sinceFix + cadenceUnits r
      entries := fs.entries.map fun e => if done e then { e with passed := true, stage := [], again := false, rseq := e.rseq.orElse fun _ => r.rseq } else e
      segReads := fs.segReads.map fun x => match x.victim with
        | some (p, i) => if r.slots.any fun u => match u with | .mapSegment a k _ => a == p && k == i | _ => false then { x with victim := none } else x
        | none => x }
    r.indexed.foldl (fun fs x =>
      match x.2 with
      | .unit plot lba _ src => if lba % env.geo.g = env.geo.g - 1 then passUnit env b page x.1 plot lba src fs else fs
      | _ => fs) fs

/-- Put the map segments a page will never carry into other pages; the pages of a fix point are written again with it. -/
def replaceMapUnits (fs : FieldState) (env : FEnv) (r : PageRec) : FieldState :=
  r.slots.foldl (fun fs u => match u with
    | .mapSegment _ _ _ => placeMap fs env [u]
    | _ => fs) fs

/-- A program reported fail (Table MED-4): the block retires and is never programmed again (R412), so none of its pages
still to be programmed is; what they carry is placed again, the set is closed at the end of its row group, and its other
blocks become due with WHY = 5. -/
def pageFailed (fs : FieldState) (env : FEnv) (b : BlkId) (_page : Nat) : FieldState :=
  let fs : FieldState := match fs.sets.find? (·.members.contains b) with
    | none => fs
    | some x =>
      let fs : FieldState := if x.open_ then finishSet fs env x else fs
      x.members.foldl (fun fs y => if y == b then fs else fs.markDue y 5) fs
  let dead := fs.pages.filter fun r => r.blk == b && !r.passed && !r.failed
  let hit := fun (e : Entry) => !e.passed && dead.any fun r => r.slots.any (carries e)
  let fs : FieldState := { fs with
    pages := (fs.pages.filter fun r => !(r.blk == b && !r.passed && r.rseq.isNone)).map fun r =>
        if r.blk == b && !r.passed then { r with failed := true } else r
    entries := fs.entries.map fun e => if hit e then { e with rseq := none, again := e.again || e.rseq.isSome } else e }
  let fs := fs.modRec b fun r => { r with state := 4, due := false }
  dead.foldl (fun fs r => replaceMapUnits fs env r) fs

/-- A block's erase reported pass: R412; its pages and any place in the fallow list are gone. -/
def blockErased (fs : FieldState) (b : BlkId) : FieldState :=
  let fs := fs.modRec b erasedRec
  { fs with
    pages := fs.pages.filter (·.blk != b)
    fallow := fs.fallow.filter (·.1 != b)
    doomed := fs.doomed.filter (· != b)
    stage6 := fs.stage6.filter (·.1 != b)
    sets := fs.sets.map fun x => { x with members := x.members.map fun y => if y == b then ⟨0xFFFF, 0, 0⟩ else y } }

/-- A block's erase reported fail (Table MED-4). -/
def eraseFailed (fs : FieldState) (b : BlkId) : FieldState :=
  let fs := fs.modRec b fun r => { r with state := 4 }
  { fs with fallow := fs.fallow.filter (·.1 != b) }

/-! ### What a page read does (R416 to R419, R426, R431, R432, R439) -/

/-- The first read step (R416). -/
def firstStep (env : FEnv) (r : BlockRec) : Nat :=
  match r.lastOk with
  | some k => k
  | none =>
    if r.slc then 0
    else if r.doseSat then env.geo.nretry
    else if env.cfg.retention.testBit 0 ∧ env.cfg.doseRefresh ≠ 0 then
      min env.geo.nretry (env.geo.nretry * doseHours r / env.cfg.doseRefresh)
    else 0

/-- How the stages 1 to 4 of a page read ended: the deepest stage reached, the step that decoded, and the bits its first hard
decode corrected. -/
structure ReadOutcome where
  stage : Nat
  step : Option Nat
  corrected : Nat

/-- A page that decoded only at stage 3 or later: WEAK while dose and reads of the block are below an eighth of their limits
(R431). -/
def FieldState.markWeak (fs : FieldState) (env : FEnv) (b : BlkId) : FieldState :=
  let r := fs.blockRec b
  if 8 * doseHours r < env.cfg.doseRefresh ∧ 8 * r.reads < env.cfg.readRefresh then fs.modRec b fun r => { r with weak := true } else fs

/-- Record the end of a page read's stages 1 to 4 (READS is counted with each READ): LASTOK, refresh and retirement marks, the
Field's counts. -/
def noteRead (fs : FieldState) (env : FEnv) (b : BlkId) (o : ReadOutcome) : FieldState :=
  let fs : FieldState := match o.step with | some k => fs.modRec b fun r => { r with lastOk := some k } | none => fs
  let fs : FieldState := { fs with
    corrMax := if o.stage = 1 then max fs.corrMax (min 0xFF o.corrected) else fs.corrMax
    soft := if 2 ≤ o.stage then count 0xFFFF fs.soft else fs.soft
    retry := if 3 ≤ o.stage ∧ env.geo.nretry ≠ 0 then count 0xFFFF fs.retry else fs.retry }
  let fs : FieldState := if 2 ≤ o.stage ∨ 3 * env.geo.hard < 4 * o.corrected then fs.markDue b 3 else fs
  let fs : FieldState := if o.stage = 5 then { fs with doomed := b :: fs.doomed.filter (· != b) } else fs
  if o.stage = 3 ∨ o.stage = 4 then fs.markWeak env b else fs

/-- A page read adds 1 to READS (R412), which may make the block due (R426). -/
def countRead (fs : FieldState) (env : FEnv) (b : BlkId) : FieldState :=
  (fs.modRec b fun r => { r with reads := count 0xFFFFFF r.reads }).markArisen env.cfg b (fs.blockRec b)

/-- Whether a second member of a page's row is lost: it lies on a fenced channel or an absent member (R439), its program failed
(R432), or its block has been erased since (log 57). -/
def rowLost (fs : FieldState) (env : FEnv) (b : BlkId) (page : Nat) : Bool :=
  (mates fs b).isEmpty || (mates fs b).any fun y => env.fenced.contains y.chan || y.chan == 0xFFFF ||
    (match fs.page? y page with | some r => r.failed | none => false)

/-- The members whose page a rebuild reads: the row's pages that are programmed. What is still in the parity bank or in
staging banks is taken from there (R414). -/
def rowReads (fs : FieldState) (b : BlkId) (page : Nat) : List BlkId :=
  (mates fs b).filter fun y => match fs.page? y page with | some r => r.passed | none => false

/-- Begin to rebuild a page, unless it is being rebuilt. -/
def beginRebuild (fs : FieldState) (env : FEnv) (b : BlkId) (page : Nat) : FieldState :=
  if fs.rebuilds.any fun x => x.blk == b && x.page == page then fs
  else { fs with rebuilds := fs.rebuilds ++ [⟨b, page, rowReads fs b page, [], rowLost fs env b page⟩] }

/-- A member's page has been read for the rebuilds that wait for it. -/
def rebuildRead (fs : FieldState) (b : BlkId) (page : Nat) (ok : Bool) : FieldState :=
  { fs with rebuilds := fs.rebuilds.map fun x =>
      if x.page == page && x.waiting.contains b then
        { x with waiting := x.waiting.filter (· != b), asked := x.asked.filter (· != b), lost := x.lost || !ok }
      else x }

/-- The rebuilds that have ended: every member read, or a second one lost. -/
def endedRebuilds (fs : FieldState) : List Rebuild := fs.rebuilds.filter fun x => x.lost || x.waiting.isEmpty

/-- A page whose data was wanted inside the Field has come, or its units have reached stage 6: the merges that wait for it go
on, and the moves out of its block copy what is complete (R375, R396, R419, R439). -/
def pageDelivered (fs : FieldState) (env : FEnv) (b : BlkId) (page : Nat) : FieldState :=
  let fs : FieldState := { fs with
    merges := fs.merges.map fun m => if m.blk == b && m.page == page then { m with done := true } else m
    moves := fs.moves.map fun m => if (moveBlocks fs m.blk).contains b && !m.read.contains (b, page) then { m with read := (b, page) :: m.read } else m }
  match fs.moves.find? fun m => m.read.contains (b, page) with
  | some m =>
    let fs := match fs.page? b page with | some r => moveSegments fs env r | none => fs
    copyOut fs env m
  | none => fs

/-! ### Gleaning (R391 to R394) -/

/-- Closed, every page programmed, not a Seedbed block, not on a fenced channel, at least one invalid unit (R392). A parity block
holds no unit of its own and is emptied with its set. -/
def eligible (fs : FieldState) (env : FEnv) (b : BlkId) : Bool :=
  let r := fs.blockRec b
  r.state == 2 && !r.slc && !env.fenced.contains b.chan && (fs.pages.all fun p => !(p.blk == b) || (p.passed && !p.slots.contains .parity)) &&
  decide (validUnits fs env b < env.geo.n)

def peMax (fs : FieldState) : Nat := fs.blocks.foldl (fun m x => max m x.2.pe) 0

/-- The score of R393. -/
def gleanScore (fs : FieldState) (env : FEnv) (b : BlkId) : Nat :=
  let r := fs.blockRec b
  let w := env.cfg.weights
  let top := peMax fs
  let v := if env.geo.n = 0 then 0 else 255 * (env.geo.n - validUnits fs env b) / env.geo.n
  let a := min 255 ((fs.fixcount + 2 ^ 32 - r.closeFix) % 2 ^ 32)
  let ww := if top = 0 then 255 else 255 * (top - r.pe) / top
  let d := if env.cfg.doseRefresh = 0 then 255 else min 255 (255 * doseHours r / env.cfg.doseRefresh)
  w.getD 0 0 * v + w.getD 1 0 * a + w.getD 2 0 * ww + w.getD 3 0 * d

def blkLt (a b : BlkId) : Bool :=
  decide (a.chan < b.chan) || (a.chan == b.chan && (decide (a.die < b.die) || (a.die == b.die && decide (a.block < b.block))))

/-- The better victim of two: R393 when GLEAN = 0, R394 when GLEAN = 1. -/
def betterVictim (fs : FieldState) (env : FEnv) (a b : BlkId) : Bool :=
  if env.cfg.glean = 0 then
    let x := gleanScore fs env a
    let y := gleanScore fs env b
    decide (y < x) || (x == y && blkLt a b)
  else
    let x := validUnits fs env a
    let y := validUnits fs env b
    let cx := (fs.blockRec a).cls
    let cy := (fs.blockRec b).cls
    decide (x < y) || (x == y && (decide (cx < cy) || (cx == cy && blkLt a b)))

def bestOf (better : BlkId → BlkId → Bool) (bs : List BlkId) : Option BlkId :=
  bs.foldl (fun best b => match best with | none => some b | some x => if better b x then some b else best) none

/-- The next victim, one per die at a time (R395). -/
def nextVictim (fs : FieldState) (env : FEnv) : Option BlkId :=
  bestOf (betterVictim fs env) ((fs.blocks.map (·.1)).filter fun b => eligible fs env b && !(fs.moves.any (·.blk == b)) &&
    !(fs.moves.any fun m => m.why == .glean && onDie m.blk b.chan b.die))

/-- The next block to refresh, at most one per die (R427). A retired block with data left is emptied with its set. -/
def refreshLt (fs : FieldState) (a b : BlkId) : Bool :=
  let x := fs.blockRec a
  let y := fs.blockRec b
  let p := dueRank x.why
  let q := dueRank y.why
  decide (p < q) || (p == q && (decide (doseHours y < doseHours x) || (doseHours x == doseHours y &&
    (decide (y.reads < x.reads) || (x.reads == y.reads && blkLt a b)))))

def nextRefresh (fs : FieldState) : Option BlkId :=
  bestOf (refreshLt fs) ((fs.blocks.filter fun x => x.2.due && x.2.state == 2).map (·.1) |>.filter fun b =>
    !(fs.moves.any fun m => m.blk == b) && !(fs.moves.any fun m => m.why == .refresh && onDie m.blk b.chan b.die))

/-- The next Seedbed block to fold: the oldest closed one, one per die (R387). -/
def nextFold (fs : FieldState) : Option BlkId :=
  let closed := fs.blocks.filter fun x => x.2.slc && x.2.state == 2 &&
    !(fs.moves.any fun m => m.blk == x.1) && !(fs.moves.any fun m => m.why == .fold && onDie m.blk x.1.chan x.1.die)
  let age := fun (b : BlkId) => (fs.fixcount + 2 ^ 32 - (fs.blockRec b).closeFix) % 2 ^ 32
  bestOf (fun a b => decide (age b < age a) || (age a == age b && blkLt a b)) (closed.map (·.1))

/-! ### Exposed sets, headland, health (R434, R437, R442) -/

/-- Sets with a member on an unusable channel whose blocks still hold what must be kept (R437). -/
def exposedSets (fs : FieldState) (env : FEnv) : List StripeSet :=
  fs.sets.filter fun x => (x.members.any fun b => env.fenced.contains b.chan) &&
    x.members.any fun b => fs.pages.any fun r => r.blk == b && holdsLive fs env r

/-- A rebuild is pending: a set is exposed, or one that was still has members to empty (R440, R442). -/
def rebuildPending (fs : FieldState) (env : FEnv) : Bool := !(exposedSets fs env).isEmpty || fs.moves.any (·.why == .rebuild)

/-- H of R434. -/
def headlandOf (fs : FieldState) (env : FEnv) : Int :=
  let q := env.geo
  let lost := fs.countUsable env fun r => r.state == 4 || r.state == 5
  (env.usable.length * q.pc : Nat) * ((q.bd : Int) - q.m - q.pmax - env.cfg.seedbedMax) - lost - (q.d * ceilDiv (q.a * 15) 16 : Nat)

def floorOf (env : FEnv) : Nat := env.geo.d * env.cfg.headlandMin

/-- Table MED-5. -/
def healthOf (fs : FieldState) (env : FEnv) : Nat :=
  if fs.roHead ∨ fs.headland < 2 * (floorOf env : Int) then 2
  else if env.fenced.any env.geo.chans.contains ∨ rebuildPending fs env then 1
  else 0

end Sys2Proof.Machine
end

