-- ==== Sys2Proof/Machine/FixCore.lean ====
section
/-! DEFINITION. Fix points of one Field (R454 to R459): the pages Tables FIX-3, FIX-4 and FLD-3 lay out, the steps of R454,
and what a recorded fix point leaves. -/

namespace Sys2Proof.Machine

def dirtySegs (fs : FieldState) : Nat := (fs.cache.filter fun c => c.2.2).length

/-- A 4,096-byte page of the map class: its content, zeros, and the CRC-32C of its other bytes at the end. -/
def sealedPage (b : List Byte) : List Byte :=
  let b := b ++ List.replicate (4092 - b.length) 0
  b ++ leBytes 4 (crc32c b)

/-! ### Map segments (R376, R378, R455) -/

/-- A programmed copy of a map unit: the highest and the sum of the order numbers of its blocks, and its address. -/
def unitCopies (fs : FieldState) (env : FEnv) (plot unit : Nat) : List (Nat × Nat × Nat) :=
  (fs.pages.filter (·.passed)).flatMap fun r => r.indexed.filterMap fun x => match x.2 with
    | .unit p l _ _ =>
      if p = plot ∧ l = env.geo.g * unit + env.geo.g - 1 ∧ !r.stale.contains x.1 then
        let addr := unitAddr env.geo r.blk r.page x.1 - (env.geo.g - 1)
        let nums := copyNumbers fs env addr
        some (nums.foldl max 0, nums.sum, addr)
      else none
    | _ => none

/-- Whether a discard at or below the floor comes after a copy of number o (R453). -/
def discardedBy (fs : FieldState) (env : FEnv) (plot unit o floor : Nat) : Bool :=
  fs.entries.any fun e => !e.hasData && decide (e.order ≤ floor) && e.covers plot (env.geo.g * unit) &&
    (decide (o < e.order) || (e.kind == .wholePlot && decide (o ≤ e.order)))

/-- The address a segment names for a unit: its newest copy all of whose blocks lie at or below the floor, LOST, or unmapped
(R455). -/
def floorAddr (fs : FieldState) (env : FEnv) (plot unit floor : Nat) : Nat :=
  let best := ((unitCopies fs env plot unit).filter fun c => decide (c.1 ≤ floor)).foldl
    (fun (b : Option (Nat × Nat × Nat)) c => match b with
      | none => some c
      | some x => if x.1 < c.1 ∨ (x.1 = c.1 ∧ x.2.1 ≤ c.2.1) then some c else b) none
  match fs.mapEnt plot unit, best with
  | some m, some c =>
    if m.lost then addrLost
    else if (unitCopies fs env plot unit).any fun x => x.2.2 == m.addr && x.1 == c.1 && x.2.1 == c.2.1 then m.addr
    else if discardedBy fs env plot unit c.1 floor then addrUnmapped else c.2.2
  | some m, none => if m.lost then addrLost else addrUnmapped
  | none, some c => if discardedBy fs env plot unit c.1 floor then addrUnmapped else c.2.2
  | none, none => addrUnmapped

/-- A map segment as written back (Table FLD-3). -/
def segmentImage (fs : FieldState) (env : FEnv) (plot seg count floor : Nat) : List Byte :=
  let units := (List.range 512).map (512 * seg + ·)
  let heat := fun j => ((heatOf fs env plot (512 * seg + j)).getD 0) % 16
  let head := leBytes 4 0x534D4B5A ++ leBytes 2 plot ++ leBytes 1 env.cfg.grain ++ [0] ++ leBytes 4 seg ++ leBytes 4 0 ++ leBytes 8 count ++ leBytes 4 0
  let body := units.flatMap (fun i => leBytes 6 (floorAddr fs env plot i floor)) ++
    (List.range 256).map (fun j => BitVec.ofNat 8 (heat (2 * j) + 16 * heat (2 * j + 1))) ++ List.replicate 736 0
  head ++ leBytes 4 (crc32c (head ++ body)) ++ body

/-- Write a segment back outside a fix point: an entry of a latent block carries the address its unit had before (R377, R378). -/
def writeBack (fs : FieldState) (env : FEnv) (plot seg : Nat) : FieldState :=
  placeMap fs env [.mapSegment plot seg (segmentImage fs env plot seg ((fs.fixcount + 1) % 2 ^ 32) (2 ^ 64))]

/-- A map-class unit of a segment still waits for its program. -/
def segmentComing (fs : FieldState) (plot seg : Nat) : Bool :=
  fs.pages.any fun r => !r.passed && !r.failed && r.slots.any fun u => match u with | .mapSegment p i _ => p == plot && i == seg | _ => false

/-- Look up a map segment: a cached one becomes the most recent; one that is not takes the slot of the least recently used clean
segment, or of the least recently used dirty one after its write-back, and is read from its newest copy on the medium (R377). -/
def lookupSeg (fs : FieldState) (env : FEnv) (plot seg : Nat) (dirty : Bool) : FieldState :=
  match fs.cache.find? fun c => c.1 == plot && c.2.1 == seg with
  | some c => { fs with cache := (plot, seg, c.2.2 || dirty) :: fs.uncached plot seg }
  | none =>
    let fs := { fs with misses := count 0xFFFF fs.misses }
    let (fs, victim) : FieldState × Option (Nat × Nat) :=
      if fs.cache.length < env.cacheSlots then (fs, none)
      else match fs.cache.reverse.find? fun c => !c.2.2 with
        | some v => ({ fs with cache := fs.cache.filter (· != v) }, none)
        | none =>
          match fs.cache.getLast? with
          | some v =>
            let out := writeBack fs env v.1 v.2.1
            if segmentComing out v.1 v.2.1 then ({ out with cache := fs.cache.filter (· != v) }, some (v.1, v.2.1)) else (fs, none)
          | none => (fs, none)
    let addr := segmentAddr fs env plot seg
    { fs with
      cache := (plot, seg, dirty) :: fs.cache
      segReads := if addr.isNone && victim.isNone then fs.segReads else fs.segReads ++ [⟨plot, seg, addr, victim⟩] }

/-- The map units of a range become unmapped, in their segments (R377, R403). -/
def FieldState.unmapUnits (fs : FieldState) (env : FEnv) (plot first last : Nat) : FieldState :=
  let gone := fun (x : MapEnt) => x.plot == plot && decide (first ≤ x.unit) && decide (x.unit ≤ last)
  let fs := ((List.range (last / 512 + 1 - first / 512)).map (first / 512 + ·)).foldl (fun fs seg =>
    lookupSeg fs env plot seg (fs.map.any fun x => gone x && x.unit / 512 == seg)) fs
  { fs with
    map := fs.map.filter fun x => !gone x
    heats := fs.heats.filter fun x => !(x.1 == plot && decide (first ≤ x.2.1) && decide (x.2.1 ≤ last)) }

/-- A Plot's map is replaced by an empty one: every segment with a mapped unit changes (R338, R355). -/
def FieldState.unmapPlot (fs : FieldState) (plot : Nat) : FieldState :=
  let segs := ((fs.map.filter (·.plot == plot)).map (·.unit / 512)).dedup
  let fs := segs.foldl (fun (fs : FieldState) seg => fs.dirtied plot seg) fs
  { fs with map := fs.map.filter (·.plot != plot), heats := fs.heats.filter (·.1 != plot) }

/-! ### The pages of a fix point (Tables FIX-3 and FIX-4) -/

/-- The address of the slot that holds a map-class unit. -/
def placeOfUse (fs : FieldState) (env : FEnv) (use : SlotUse) : Option Nat :=
  (fs.pages.filter fun r => !r.failed).findSome? fun r => (r.indexed.find? (·.2 == use)).map fun x => unitAddr env.geo r.blk r.page x.1

def pageHead (magic f kind count idx : Nat) : List Byte :=
  leBytes 4 magic ++ leBytes 1 f ++ leBytes 1 kind ++ [0, 0] ++ leBytes 4 count ++ leBytes 4 idx

/-- KIND in the header of a page of Table FIX-4, in the table's order (log 58). -/
def listPage (f count idx : Nat) (es : List (Nat × Nat)) : List Byte :=
  sealedPage (pageHead 0x4C464B5A f 1 count idx ++ es.flatMap fun e => leBytes 6 e.1 ++ leBytes 2 e.2)

def dirPage (f count idx : Nat) (addrs : List Nat) : List Byte := sealedPage (pageHead 0x44464B5A f 2 count idx ++ addrs.flatMap (leBytes 6))

def tablePage (f count idx qbase : Nat) (rs : List BlockRec) : List Byte :=
  sealedPage (pageHead 0x42464B5A f 3 count idx ++ leBytes 8 qbase ++ rs.flatMap recBytes)

def indexPage (f count idx : Nat) (addrs : List Nat) : List Byte := sealedPage (pageHead 0x49464B5A f 0 count idx ++ addrs.flatMap (leBytes 6))

/-- The fix header (Table FIX-3). -/
def fixHeader (f : Nat) (p : FixRec) (ndir nbt : Nat) (idx : List Nat) : List Byte :=
  sealedPage (leBytes 4 0x58464B5A ++ leBytes 1 f ++ [0x01] ++ leBytes 2 idx.length ++ leBytes 4 p.count ++ leBytes 4 p.list.length ++
    leBytes 8 p.floor ++ leBytes 8 p.high ++ leBytes 8 p.rseq0 ++ leBytes 8 p.wall ++ leBytes 8 p.qsum ++ leBytes 4 ndir ++ leBytes 4 nbt ++
    idx.flatMap (leBytes 6))

/-! ### The steps of R454 -/

/-- Step 1: force development of every accepted block. FLOOR is the STAMP of the last page released before (R455). -/
def beginFix (fs : FieldState) (env : FEnv) (ticket : Option Nat) : FieldState :=
  let last := fs.pages.find? fun r => r.rseq.isSome && r.rseq == some (fs.rseqNext - 1)
  let floor := match last with | some r => r.stamp | none => (fs.recorded.map (·.floor)).getD 0
  let point : FixRec := ⟨(fs.fixcount + 1) % 2 ^ 32, floor, 0, fs.rseqNext, 0, 0, [], [], [], 0⟩
  forceField { fs with fix := some ⟨point, false, ticket⟩, sinceFix := 0 } env anySlot

/-- Step 2: every page released before the fix point began has reported pass. -/
def fixDrained (fs : FieldState) (run : FixRun) : Bool :=
  fs.pages.all fun r => !outstanding fs r || decide (run.point.rseq0 ≤ r.rseq.getD 0)

/-- The replay list (R458): every open block, and erased blocks up to PMAX per die. -/
def replayList (fs : FieldState) (env : FEnv) : List (BlkId × Nat) :=
  let next := fun (b : BlkId) => (fs.pages.filter fun r => r.blk == b && r.rseq.isSome).length
  env.geo.chans.flatMap fun c => (List.range env.geo.pc).flatMap fun d =>
    let opens := (fs.blocks.filter fun x => onDie x.1 c d && x.2.state == 1).map (·.1)
    let erased := ((List.range env.geo.bd).map fun b => (⟨c, d, b⟩ : BlkId)).filter fun b => (fs.blockRec b).state == 0
    let picks := (List.range (env.geo.pmax - opens.length)).foldl (fun acc _ =>
      match chooseBlock fs env (erased.filter fun b => !acc.contains b) c d with
      | some b => acc ++ [b]
      | none => acc) ([] : List BlkId)
    (opens.map fun b => (b, next b)) ++ picks.map fun b => (b, 0)

/-- The Seedbed size a fix point sets (R385). -/
def seedbedSize (fs : FieldState) (env : FEnv) : Nat :=
  let da := env.geo.d * env.geo.a
  if da = 0 then 0 else min env.cfg.seedbedMax (fs.free env * env.cfg.seedbedFactor / da)

/-- The highest order number in any tag or envelope of the Field so far (Table FIX-3). -/
def highOrder (fs : FieldState) : Nat :=
  let e := fs.entries.foldl (fun m e => if e.rseq.isSome then max m e.order else m) ((fs.recorded.map (·.high)).getD 0)
  fs.pages.foldl (fun m r => if r.rseq.isSome then max m r.stamp else m) e

/-- The dose increment goes to every open, closed and fallow block and to QSUM (R421, R422), with what falls due (R426). -/
def applyDose (fs : FieldState) (env : FEnv) : FieldState :=
  let i := fs.doseI
  let full := fs.doseISat
  let before := fs.countState fun _ r => r.doseSat
  let old := fs.blocks
  let fs : FieldState := { fs with blocks := fs.blocks.map fun x =>
                      if x.2.state = 1 ∨ x.2.state = 2 ∨ x.2.state = 3 then (x.1, addDose x.2 i full) else x }
  let fs : FieldState := { fs with
    doseI := 0
    doseISat := false
    qsum := (fs.qsum + i) % 2 ^ 64
    doseSat := satAdd 0xFF fs.doseSat ((fs.countState fun _ r => r.doseSat) - before) }
  old.foldl (fun fs x => fs.markArisen env.cfg x.1 x.2) fs

/-- A record as read back from a block-table page: QSUM − QBASE is added to a dose that has run on (R457). -/
def agedRec (r : BlockRec) (gap : Nat) : BlockRec := if r.state = 1 ∨ r.state = 2 ∨ r.state = 3 then (if gap = 0 then r else addDose r gap false) else r

/-- Every block of every die, in (channel, die, block) order. -/
def allBlocks (q : Geo) : List BlkId :=
  q.chans.flatMap fun c => (List.range q.pc).flatMap fun d => (List.range q.bd).map fun b => ⟨c, d, b⟩

/-- Place one page of the fix point and note it. -/
def placeFixPage (env : FEnv) (count : Nat) (x : FieldState × List Nat) (image : List Byte) : FieldState × List Nat :=
  let use := SlotUse.fixPage count x.2.length image
  let fs := placeMap x.1 env [use]
  (fs, x.2 ++ (placeOfUse fs env use).toList)

/-- Place pages; the addresses that they alone added. -/
def placeFixPages (env : FEnv) (count : Nat) (x : FieldState × List Nat) (images : List (List Byte)) : (FieldState × List Nat) × List Nat :=
  let y := images.foldl (placeFixPage env count) x
  (y, y.2.drop x.2.length)

/-- Step 4: a directory or block-table page whose content has changed is written; an unchanged one keeps its address (R454). -/
def placeKept (env : FEnv) (count : Nat) (x : (FieldState × List Nat) × List FixPageRec) (p : FixPageRec × Bool × List Byte) :
    (FieldState × List Nat) × List FixPageRec :=
  if p.2.1 then (x.1, x.2 ++ [p.1])
  else
    let (y, a) := placeFixPages env count x.1 [p.2.2]
    (y, x.2 ++ a.map fun n => { p.1 with addr := n })

/-- The directory of the segments: every segment of every Plot of the Field, in (Plot, INDEX) order (log 59). -/
def directory (fs : FieldState) (env : FEnv) (segments : List (Nat × Nat)) : List (Nat × Nat × Nat) :=
  segments.map fun x => (x.1, x.2, (placeOfNewest fs env x.1 x.2).getD addrUnmapped)
where
  /-- The newest copy of a segment, programmed or still to be. -/
  placeOfNewest (fs : FieldState) (env : FEnv) (plot seg : Nat) : Option Nat :=
    match fs.pages.findSome? fun r => if r.passed || r.failed then none else (r.indexed.find? fun x => match x.2 with
        | .mapSegment p i _ => p == plot && i == seg | _ => false).map fun x => unitAddr env.geo r.blk r.page x.1 with
    | some a => some a
    | none => segmentAddr fs env plot seg

/-- The directory and block-table pages of this fix point, each with whether it stands unchanged. -/
def keptPages (fs : FieldState) (f count : Nat) (dir : List (Nat × Nat × Nat)) (recs : List BlockRec) : List (FixPageRec × Bool × List Byte) :=
  let old := fun (d : Bool) (i : Nat) => fs.fixPages.find? fun p => p.dir == d && p.idx == i
  let ds := pieces 672 (dir.map (·.2.2))
  let bs := pieces 203 recs
  (List.range ds.length).zip ds |>.map (fun (i, a) => match old true i with
    | some p => if p.addrs = a then (p, true, []) else (⟨true, i, a, [], 0, 0⟩, false, dirPage f count i a)
    | none => (⟨true, i, a, [], 0, 0⟩, false, dirPage f count i a)) |>.append <|
  (List.range bs.length).zip bs |>.map fun (i, r) => match old false i with
    | some p => if p.recs.map (agedRec · ((fs.qsum + 2 ^ 64 - p.qbase) % 2 ^ 64)) = r then (p, true, [])
        else (⟨false, i, [], r, fs.qsum, 0⟩, false, tablePage f count i fs.qsum r)
    | none => (⟨false, i, [], r, fs.qsum, 0⟩, false, tablePage f count i fs.qsum r)

/-- Steps 3 to 5: dirty segments, changed directory and block-table pages, the replay list, the index and the header. With no
set to take them they are tried again later. -/
def writeFix (fs0 : FieldState) (env : FEnv) (segments : List (Nat × Nat)) (wall : Nat) (run : FixRun) : FieldState :=
  let count := run.point.count
  let fs := applyDose fs0 env
  let segs := (fs.cache.filter fun c => c.2.2).map fun c => SlotUse.mapSegment c.1 c.2.1 (segmentImage fs env c.1 c.2.1 count run.point.floor)
  let fs : FieldState := { fs with cache := fs.cache.map fun c => (c.1, c.2.1, false) }
  let fs := forceField (segs.foldl (fun fs u => placeMap fs env [u]) fs) env anySlot
  let dir := directory fs env segments
  let list := replayList fs env
  let q := env.geo
  let kept := keptPages fs env.num count dir ((allBlocks q).map fs.blockRec)
  let lists := pieces 509 (list.map fun x => (unitAddr q x.1 0 0, x.2))
  let (x, addrs) := placeFixPages env count (fs, []) ((List.range lists.length).zip lists |>.map fun p => listPage env.num count p.1 p.2)
  let (x, kept) := kept.foldl (placeKept env count) (x, [])
  let idx := pieces 679 (addrs ++ (kept.map (·.addr)))
  let (x, idxAddrs) := placeFixPages env count x ((List.range idx.length).zip idx |>.map fun p => indexPage env.num count p.1 p.2)
  let point := { run.point with high := highOrder fs, wall := wall, qsum := fs.qsum, list := list, segs := dir.filter (·.2.2 != addrUnmapped) }
  let (x, head) := placeFixPages env count x [fixHeader env.num point ((kept.filter (·.dir)).length) ((kept.filter fun p => !p.dir).length) idxAddrs]
  match head with
  | [h] =>
    let point := { point with header := h, pages := x.2 ++ (kept.map (·.addr)) }
    let fs : FieldState := { x.1 with
      fix := some { run with point := point, written := true }
      fixPages := kept
      seedSize := seedbedSize x.1 env }
    forceField fs env anySlot
  | _ => fs0

/-- Whether a fix point's own pages, and the segments its directory names, have all reported pass, so that its entry can be
written (R460). -/
def fixReady (fs : FieldState) (env : FEnv) : Bool :=
  let onMedium := fun (a : Nat) => let (b, p, _) := addrPlace env.geo a; fs.pages.any fun r => r.blk == b && r.page == p && r.passed
  match fs.fix with
  | some run => run.written && run.point.pages.all onMedium && run.point.segs.all fun x => onMedium x.2.2
  | none => false

/-- A page of the fix point in progress, or a segment its directory names, has failed: its pages are written again, with the
segments dirty once more (R454, R460). -/
def redoFix (fs : FieldState) (env : FEnv) : FieldState :=
  let bad := fun (a : Nat) => let (b, p, _) := addrPlace env.geo a; fs.pages.any fun r => r.blk == b && r.page == p && r.failed
  match fs.fix with
  | some run =>
    if run.written ∧ (run.point.pages.any bad ∨ run.point.segs.any fun x => bad x.2.2) then
      let fs := (run.point.segs.filter fun x => bad x.2.2).foldl (fun (fs : FieldState) x => fs.dirtied x.1 x.2.1) fs
      { fs with fix := some { run with written := false }, fixPages := fs.fixPages.filter fun p => !bad p.addr }
    else fs
  | none => fs

/-- A hold-up seal in the contact sheet: the STAMP of the Field's last page, above the latest fix point (Table FIX-5, Table
FIX-7). -/
def recordSeal (fs : FieldState) : FieldState :=
  let floor := max (reachedFloor fs) (fs.sealFloor.getD 0)
  { fs with
    sealFloor := some floor
    sheetSeq := fs.sheetSeq + 1
    sheet := ⟨fs.sheetSeq + 1, true, fs.recorded, floor⟩ :: fs.sheet }

/-- A fix point is recorded in the contact sheet (R400, R458, R460). -/
def recordFix (fs : FieldState) (run : FixRun) : FieldState :=
  { fs with
    fixcount := run.point.count
    sheetSeq := fs.sheetSeq + 1
    sheet := ⟨fs.sheetSeq + 1, false, some run.point, run.point.floor⟩ :: fs.sheet
    floor := run.point.floor
    recorded := some run.point
    fix := none
    needs := []
    sealFloor := none }

end Sys2Proof.Machine
end

