-- ==== Sys2Proof/Machine/Reads.lean ====
section
/-! DEFINITION. The versions a read returns (R41 to R44), blocks held back by writes still to come (R42), the progress and the
end of a read, and what the abort of commands lets go on. -/

namespace Sys2Proof.Machine

/-- The Field of a Plot. -/
def State.fieldOf (s : State) (plot : Nat) : Option Nat := (s.plotCfg? plot).map (·.field)

/-- A write or discard at or below the horizon still owes this block (R42); a PUT owes both halves of its record until it is
accepted. -/
def State.readHeld (s : State) (plot lba horizon : Nat) : Bool :=
  s.fn.tasks.any fun t =>
    match t.order with
    | some o => (t.kind == .write || t.kind == .put) && !t.aborted && t.key.plot == plot && decide (o ≤ horizon) &&
        decide (t.lba ≤ lba) && decide (lba < t.lba + t.count) &&
        (if t.kind = .put then decide (t.accepted.length < 2) else !t.accepted.contains (lba - t.lba))
    | none => false

/-- The version a read of a block returns at its horizon. -/
def State.versionOf (s : State) (plot lba horizon : Nat) : Option Entry :=
  match s.fieldOf plot with
  | some f => versionAt (s.field f).entries plot lba horizon
  | none => none

/-- The plaintext of one block of a version. -/
def Entry.blockAt (e : Entry) (lba : Nat) : Block :=
  if e.kind = .record then slice e.data (4096 * (lba - e.lba)) 4096 else e.data

/-- The plaintext a read returns for a block: zeros when it is unmapped or discarded (R374, R403). -/
def State.plainOf (s : State) (plot lba horizon : Nat) : Block :=
  match s.versionOf plot lba horizon with
  | some e => if e.hasData then e.blockAt lba else zeroBlock
  | none => zeroBlock

/-- The block's copy is LOST (R419). -/
def State.isLost (s : State) (plot lba horizon : Nat) : Bool :=
  match s.fieldOf plot, s.versionOf plot lba horizon with
  | some f, some e => e.hasData && e.passed && (match (s.field f).mapEnt plot (lba / max 1 (s.geo f).g) with | some m => m.lost | none => false)
  | _, _ => false

/-- The blocks a read has returned from its first one on, in LBA order. Blocks of the master's Plots stand in the task's
`value`, in the order of `accepted`. -/
def State.readData (s : State) (t : Task) : List Byte :=
  ((List.range t.count).takeWhile t.accepted.contains).flatMap fun i =>
    if 64 ≤ t.key.plot then slice t.value (4096 * t.accepted.idxOf i) 4096
    else s.plainOf t.key.plot (t.lba + i) (t.horizon.getD 0)

/-- The plaintext of a record image (R332). -/
def recordPlain (name value : List Byte) : List Byte :=
  padTo 0 8176 (leBytes 1 name.length ++ [0] ++ leBytes 2 value.length ++ padTo 0 64 name ++ padTo 0 4096 value)

/-- A record image under a key set: its plaintext and its GCM tag, under MK1, the IV and the AAD of Table CPH-1 (R332). -/
def recordImage (keys : List Byte) (plot slot order : Nat) (plain : List Byte) : List Byte :=
  plain ++ padTo 0 16 (Config.gcmTag (keys.take 32) (leBytes 8 order ++ leBytes 4 slot) (leBytes 2 plot ++ leBytes 4 slot ++ plain.take 1 ++ slice plain 2 2) plain)

/-- The key set a Plot encrypts with now. -/
def State.keySet (s : State) (plot : Nat) : List Byte := ((s.plot plot).keys.map (·.keys)).getD []

/-- The value in a Credential record image (R332). -/
def recordValue (image : List Byte) : List Byte := slice image 68 (leNat (slice image 2 2))

/-- What a finished read answers with: its blocks, or a GET's VLEN, two zero bytes and VALUE (Table FNC-13). -/
def State.readAnswer (s : State) (t : Task) : List Byte :=
  if t.kind = .get then
    let v := recordValue (s.readData t)
    leBytes 2 v.length ++ [0, 0] ++ v
  else s.readData t

/-- The data a read that fails has returned: the blocks before the failing one; a credential capsule carries none (R298, R304). -/
def State.partialAnswer (s : State) (t : Task) : List Byte := if t.tr.isNone then [] else s.readData t

/-- The command in flight under a key is the one whose status is still due; an earlier one of the same tag may still wait for
its programs (R22). -/
def setTask (s : State) (key : TaskKey) (f : Task → Task) : State :=
  s.modTasks fun ts => ts.map fun t => if t.key == key && t.statusDue then f t else t

def State.task? (s : State) (key : TaskKey) : Option Task := s.fn.tasks.find? fun t => t.key == key && t.statusDue

/-! ### Credential records (R299 to R303, R332, R333) -/

/-- The records present at a horizon, as slot and name; the versions accepted so far. -/
def acceptedRecords (es : List Entry) (plot horizon : Nat) : List (Nat × List Byte) :=
  let slots := ((es.filter fun e => e.kind == .record && e.plot == plot && decide (e.order ≤ horizon)).map (·.lba / 2)).dedup
  slots.filterMap fun k => match versionAt es plot (2 * k) horizon with
    | some e => if e.kind = .record then some (k, e.name) else none
    | none => none

/-- A granted PUT of the Plot at or below a number whose image is not accepted yet. -/
def Task.putOwed (t : Task) (plot number : Nat) : Bool :=
  t.kind == .put && t.key.plot == plot && !t.aborted && decide (t.accepted.length < 2) &&
    (match t.order with | some o => decide (o ≤ number) | none => false)

/-- The records present at a number: those accepted, with the PUTs decided at lower numbers laid over them (R299). -/
def State.recordsAt (s : State) (plot number : Nat) : List (Nat × List Byte) :=
  let es := match s.fieldOf plot with | some f => (s.field f).entries | none => []
  (s.fn.tasks.filter fun t => t.putOwed plot number).foldl (fun recs t =>
    let later := match versionAt es plot t.lba number with | some e => decide (t.order.getD 0 < e.order) | none => false
    if later then recs else (t.lba / 2, t.name) :: recs.filter (·.1 != t.lba / 2)) (acceptedRecords es plot number)

/-- Lexicographic order by unsigned byte; a name sorts before every longer one that begins with it. -/
def nameBefore : List Byte → List Byte → Bool
  | [], [] => false
  | [], _ :: _ => true
  | _ :: _, [] => false
  | a :: x, b :: y => if a = b then nameBefore x y else decide (a.toNat < b.toNat)

def insertName (r : Nat × List Byte) : List (Nat × List Byte) → List (Nat × List Byte)
  | [] => [r]
  | x :: xs => if nameBefore r.2 x.2 then r :: x :: xs else x :: insertName r xs

/-- The records LIST returns, within MAX and 65,536 payload bytes (R303). -/
def takeNames : (max room : Nat) → List (Nat × List Byte) → List (Nat × List Byte)
  | 0, _, _ => []
  | _, _, [] => []
  | max + 1, room, r :: rs => if 4 + r.2.length ≤ room then r :: takeNames max (room - 4 - r.2.length) rs else []

/-- A GET or LIST waits while a PUT at or below its horizon is still to be accepted (R42, R302). -/
def State.listHeld (s : State) (t : Task) : Bool := s.fn.tasks.any fun x => x.putOwed t.key.plot (t.horizon.getD 0)

/-- The records a LIST may return, in name order, and those it returns: one consistent view at its horizon (R302, R303). -/
def State.listAll (s : State) (t : Task) : List (Nat × List Byte) :=
  ((s.recordsAt t.key.plot (t.horizon.getD 0)).filter fun r => nameBefore t.name r.2).foldl (fun l r => insertName r l) []
def State.listOut (s : State) (t : Task) : List (Nat × List Byte) := takeNames t.mode (65536 - 4) (s.listAll t)

/-- The blocks a read needs: all of its range, or both halves of each record a LIST returns. -/
def State.wanted (s : State) (t : Task) : List Nat :=
  if t.kind = .list then (if s.listHeld t then [] else (s.listOut t).flatMap fun r => [2 * r.1, 2 * r.1 + 1])
  else List.range t.count

/-- Every block the read needs has been returned or checked. -/
def State.readOver (s : State) (t : Task) : Bool :=
  if t.kind = .list then (s.wanted t).all t.accepted.contains else decide (t.count ≤ t.accepted.length)

/-- What LIST answers with (Table FNC-13, R303). -/
def State.listAnswer (s : State) (t : Task) : List Byte :=
  let out := s.listOut t
  let body := out.flatMap fun r =>
    let v := recordValue (match s.versionOf t.key.plot (2 * r.1) (t.horizon.getD 0) with | some e => e.data | none => [])
    leBytes 1 r.2.length ++ [0] ++ leBytes 2 v.length ++ r.2
  leBytes 2 out.length ++ leBytes 1 (bitOf (decide (out.length < (s.listAll t).length)) 0) ++ [0] ++ body

/-- A finished read, GET or LIST: a GET whose record its horizon does not hold after all ends with NOT_FOUND. -/
def concludeRead (s : State) (t : Task) : State :=
  if t.kind = .list then answerCapsule s t 0 0 (s.listAnswer t)
  else if t.kind = .get then
    match s.versionOf t.key.plot t.lba (t.horizon.getD 0) with
    | some e => if e.kind = .record ∧ e.name = t.name then answerTask s t .good (s.readAnswer t) else answerCapsule s t 0x0012 0 []
    | none => answerCapsule s t 0x0012 0 []
  else answerTask s t .good (s.readAnswer t)

/-- The structural strip of a Field manager pauses the lookups and the drill of its island's four Fields (Table SAF-4). -/
def State.fmPaused (s : State) (f : Nat) : Bool :=
  match s.saf.strStrip with
  | some x => decide (x.inst < s.member.fields ∧ x.inst / 4 = f / 4)
  | none => false

def State.lookupWaits (s : State) (plot : Nat) : Bool := match s.fieldOf plot with | some f => s.fmPaused f | none => false

/-! ### The progress of a read -/

/-- A block of a member's read goes to the member still encrypted; with the last one the read is over for the master (R613). -/
def forwardBlock (s : State) (t : Task) (j : BlockJob) : State :=
  match t.key.origin with
  | .port _ => s
  | .ring pos =>
    let s := sendPair s pos t.key.tag j.env.order j.lba 0 t.key.plot 0 j.env j.data
    let t := { t with accepted := j.idx :: t.accepted, received := j.idx :: t.received }
    let s := setTask s t.key fun _ => t
    if t.count ≤ t.accepted.length then settleTasks (setTask s t.key fun t => { t with statusDue := false }) else s

/-- A member's read also gets the blocks no map unit names: the master sends zeros under the block's own Plot and LBA (log 26). -/
def forwardZero (s : State) (t : Task) (i : Nat) : State :=
  let lba := t.lba + i
  match s.task? t.key with
  | some t => forwardBlock s t ⟨t.key, i, .decrypt, .hostRead, lba, zeroBlock, ⟨t.key.plot, lba, 0, 0, crc32c zeroBlock⟩⟩
  | none => s

/-- A block of a read has been looked up in the map; the blocks of the master's Plots are looked up at the master. -/
def Task.looked (t : Task) (i : Nat) : Bool := decide (64 ≤ t.key.plot) || t.asked.any (·.1 == i)

/-- A read ends at the first of its blocks that failed, once every block before it has been returned (R298). -/
def State.readFailed (s : State) (t : Task) : Option ScsiStatus :=
  match (s.wanted t).find? fun i => !t.accepted.contains i with
  | some i => (t.fails.find? (·.1 == i)).map (·.2)
  | none => none

/-- End a read whose first missing block failed, with the blocks before it, and one that has them all with GOOD. -/
def closeRead (s : State) (t : Task) : State :=
  match s.readFailed t with
  | some st => settleTasks (answerTask s t st (s.partialAnswer t))
  | none => if s.readOver t ∧ !t.key.origin.isRing then settleTasks (concludeRead s t) else s

/-- MEDIUM ERROR for one block of a command. -/
def mediumError (t : Task) (i : Nat) : ScsiStatus := .check (senseAt 3 0x11 0x00 (t.lba + i))

/-- Return a read's blocks that the lookup found unmapped, note those that are LOST, and end it when it can be (R298, R374,
R419). -/
def advanceRead (s : State) (t : Task) : State :=
  if !t.statusDue ∨ t.held ∨ s.lookupWaits t.key.plot ∨ (t.kind = .list ∧ s.listHeld t) then s
  else
    let h := t.horizon.getD 0
    let n := t.key.plot
    let todo := (s.wanted t).filter fun i => !t.accepted.contains i && !s.readHeld n (t.lba + i) h && t.looked i
    let lost := todo.filter fun i => s.isLost n (t.lba + i) h
    let zero := if 64 ≤ n then [] else todo.filter fun i => match s.versionOf n (t.lba + i) h with | some e => !e.hasData | none => true
    let s := setTask s t.key fun t => { t with
      fails := t.fails ++ lost.map fun i => (i, mediumError t i)
      accepted := if t.key.origin.isRing then t.accepted else t.accepted ++ zero }
    let s := if t.key.origin.isRing then zero.foldl (fun s i => forwardZero s t i) s else s
    match s.task? t.key with
    | some t => closeRead s t
    | none => s

/-- A command that reads blocks. -/
def isReadTask (t : Task) : Bool := t.kind == .read || t.kind == .get || t.kind == .list

/-- Reads that waited for a write to be accepted or to end go on (R42). -/
def advanceReads (s : State) : State :=
  (s.fn.tasks.filter isReadTask).foldl (fun s t =>
    match s.task? t.key with
    | some t => advanceRead s t
    | none => s) s

/-! ### Pages that arrive for reads, and reads that end without one -/

/-- The units of a page from a slot on: those read of a page lie in a bank now (Table GLB-6, step 2). -/
def markReady (s : State) (addr n : Nat) (field : Nat) : State :=
  s.modTasks fun ts => ts.map fun t =>
    if isReadTask t && t.statusDue && s.fieldOf t.key.plot == some field then
      { t with ready := t.ready ++ (t.asked.filter fun x => decide (addr ≤ x.2) && decide (x.2 < addr + n) && !t.ready.contains x.1).map (·.1) }
    else t

/-- A block of a read fails with a status: the command ends there once the blocks before it are returned (R25, R298). -/
def failBlock (s : State) (key : TaskKey) (i : Nat) (st : ScsiStatus) : State :=
  let s := setTask s key fun t => { t with fails := t.fails ++ [(i, st)] }
  match s.task? key with
  | some t => closeRead s t
  | none => s

/-- The blocks of reads that lie in units of a page which reached stage 6. -/
def Task.failing (t : Task) (addr n : Nat) : List (Nat × Nat) :=
  t.asked.filter fun x => decide (addr ≤ x.2) && decide (x.2 < addr + n) && !t.accepted.contains x.1

/-- Reads whose blocks lie in units that reached stage 6 end with MEDIUM ERROR for the first of them, after the blocks before it
(R25, R298, R419). -/
def failReads (s : State) (addr n : Nat) (field : Nat) : State :=
  (s.fn.tasks.filter fun t => isReadTask t && t.statusDue && s.fieldOf t.key.plot == some field).foldl (fun (s : State) t =>
    (t.failing addr n).foldl (fun s x => failBlock s t.key x.1 (mediumError t x.1)) s) s

/-! ### Aborts -/

/-- Commands are aborted, and reads that waited for a block of theirs go on (R42, R43). -/
def abortAnd (s : State) (sel : Task → Bool) : State := advanceReads (settleTasks (abortTasks s sel))

/-- A port's commands are aborted, counted in `PRT_CNT`.ABORTS, with R42 and R43 applied. -/
def abortPort (s : State) (p : Port) (sel : Task → Bool) : State :=
  let n := s.abortCount fun t => taskOfPort p t && sel t
  abortAnd (s.modPort p fun q => { q with aborts := satAdd 0xFFFF q.aborts n }) fun t => taskOfPort p t && sel t

end Sys2Proof.Machine
end

