-- ==== Sys2Proof/Machine/FieldOps.lean ====
section
/-! DEFINITION. A Field joined to the machine: what its manager knows, its die queues, its internal work with tickets
(R387, R391 to R404, R427, R437), flushes and FUA writes that become complete (R449), its Read-only state and health
(R435, R436, R442, R443). `runField` lets one Field manager do everything it can do at this moment. -/

namespace Sys2Proof.Machine

def emptyFieldCfg : FieldCfg := ⟨0, [], 0, 0, 0, 0, 1, 0, 0, false, 0, 0, 0, 0, 0, 0, 0, [], 0, 0, []⟩

/-- The local channel a channel code of a Field names (position × 128 + channel in a wide Field). -/
def State.localChan (s : State) (wide : Bool) (code : Nat) : Option Nat :=
  if !wide then (if code < s.member.channels then some code else none)
  else if code / 128 = s.stk.pos.getD 0 ∧ code % 128 < s.member.channels then some (code % 128) else none

/-- A channel code whose dies cannot be used: fenced, or on an absent member (R434, R441). -/
def State.unusable (s : State) (wide : Bool) (code : Nat) : Bool :=
  match s.localChan wide code with
  | some c => (s.chan c).fenced
  | none => s.stk.absent.contains (code / 128)

/-- Blocks of granted writes of a Field that have not been accepted and may still be (R42, R448). -/
def State.unaccepted (s : State) (f : Nat) : List (Nat × Nat × Nat) :=
  s.fn.tasks.flatMap fun t =>
    match t.order with
    | some o =>
      if (t.kind = .write ∨ t.kind = .put) ∧ !t.aborted ∧ (s.plotsOf f).contains t.key.plot then
        ((List.range t.count).filter fun i => !t.accepted.contains i).map fun i => (t.key.plot, t.lba + i, o)
      else []
    | none => []

def State.fenv (s : State) (f : Nat) : FEnv :=
  let cfg := (s.fieldCfg? f).getD emptyFieldCfg
  let q := s.geo f
  { geo := q
    cfg := cfg
    num := f
    fenced := q.chans.filter (s.unusable cfg.wide)
    holding := s.hold.holding
    cacheSlots := 64 * (s.banks.filter fun b => b.role == 2 && b.field == f).length
    ordNext := s.arb.ordNext
    unaccepted := s.unaccepted f
    gen := fun n => (s.plot n).record.genBit
    rekeys := fun n => (s.plot n).mode.up && (s.plot n).record.rekeying }

/-- Apply an operation of FieldCore to Field f. -/
def onField (s : State) (f : Nat) (g : FieldState → FEnv → FieldState) : State :=
  s.modField f fun fs => g fs (s.fenv f)

/-! ### Die queues (R61, R64) -/

def dieHas (d : DieState) (p : DieOp → Bool) : Bool :=
  d.queue.any p || (d.run.toList ++ d.susp.toList ++ d.aside.toList).any fun r => r.ops.any p

/-- Queue one operation, unless the queue is full (R64). -/
def pushDie (s : State) (c : Nat) (op : DieOp) : State :=
  s.modChan c fun k =>
    let k := k.modDie op.blk.die fun d => if d.queue.length < 32 then { d with queue := d.queue ++ [op] } else d
    if k.ready.contains op.blk.die then k else { k with ready := k.ready ++ [op.blk.die] }

/-- A new die-queue entry. -/
def dieOp (pri : QPri) (b : BlkId) (page slot nunit : Nat) (slc : Bool) : DieOp :=
  { pri := pri, blk := b, page := page, slot := slot, nunit := nunit, slc := slc, aborted := false, rekey := none, esc := none, step := none, oldSet := false }

/-- Two entries ask for the same operation. -/
def DieOp.same (a b : DieOp) : Bool :=
  a.pri == b.pri && a.blk == b.blk && a.page == b.page && a.slot == b.slot && a.nunit == b.nunit

/-- Queue an operation that its die does not hold yet; with a full queue it is held back, to be offered again (R64). -/
def queueOnce (s : State) (wide : Bool) (op : DieOp) : State :=
  match s.localChan wide op.blk.chan with
  | none => s
  | some c => if (s.chan c).fenced || dieHas ((s.chan c).dieAt op.blk.die) op.same then s else pushDie s c op

/-- Queue the read of a whole page of a Field. -/
def queuePage (s : State) (f : Nat) (b : BlkId) (page : Nat) (rekey : Option Nat) : State :=
  let env := s.fenv f
  queueOnce s env.cfg.wide { dieOp .internalRead b page 0 env.geo.u ((s.field f).blockRec b).slc with rekey := rekey }

/-! ### Pages of a wide Field on other positions (R611) -/

/-- The Field manager of a Field: this device, but for a wide Field only on the master (Table STK-7). -/
def State.manages (s : State) (f : Nat) : Bool :=
  match s.fieldCfg? f with
  | some c => !c.wide || s.isMaster
  | none => false

/-- The page tag of a released page (Table FIX-1). -/
def tagBytes (f : Nat) (r : PageRec) : List Byte :=
  let b := leBytes 8 (r.rseq.getD 0) ++ leBytes 8 r.stamp ++ leBytes 4 r.fixcount ++ leBytes 1 f ++ leBytes 1 r.kind ++ List.replicate 6 0
  b ++ leBytes 4 (crc32c b)

/-- The bytes of a page tag (Table FIX-1). -/
def pageTagBytes (t : PageTag) : List Byte :=
  let b := leBytes 8 t.rseq ++ leBytes 8 t.stamp ++ leBytes 4 t.fixcount ++ leBytes 1 t.fieldNo ++ leBytes 1 t.kind ++ List.replicate 6 0
  b ++ leBytes 4 (crc32c b)

/-- A staging slot of a member the master's shadows do not use; which bank is open, since the master does not know the member's
banks (R611; log 16). -/
def freeStage (s : State) (pos : Nat) : Nat × Nat × State :=
  let (n, s) := s.drawNat
  let used := fun (b : Nat) => (s.stk.shadows.filter fun x => x.pos == pos && x.bank == b).map (·.slot)
  let bank := ((List.range 192).map fun i => (n + i) % 192).find? fun b => decide (firstFree (used b) (used b).length 0 < 63)
  let b := bank.getD 0
  (b, firstFree (used b) (used b).length 0, s)

/-- Send one block of a remote page from its shadow copy. -/
def sendShadow (s : State) (f pos page : Nat) (plot lba order : Nat) : State :=
  if s.stk.shadows.any fun x => x.page == page && x.plot == plot && x.lba == lba && x.order == order then s
  else
    match versionAt (s.field f).entries plot lba order with
    | none => s
    | some e =>
      let data := e.blockAt lba
      let env : Envelope := ⟨plot, lba, order, e.stamp, crc32c data⟩
      let (bank, slot, s) := freeStage s pos
      let (s, ok) := ringRequest s 0x32 pos (headBytes order lba 0 plot bank slot env) (some (0x33, data))
        (.block ⟨order, plot, lba, env, crc32c data⟩ (some page))
      if ok then s.modStk fun k => { k with shadows := k.shadows ++ [⟨pos, plot, lba, order, page, bank, slot⟩] } else s

/-- PAGE_REL for a released page once every block of it is acknowledged. -/
def releaseRemote (s : State) (f pos page : Nat) (r : PageRec) : State :=
  let open_ := s.stk.requests.any fun q => match q.why with
    | .block _ (some a) => a == page
    | .page a => a == page
    | _ => false
  if r.rseq.isNone ∨ open_ then s
  else
    let pair := fun (u : SlotUse) => match u with
      | .unit plot lba order _ =>
        (match s.stk.shadows.find? fun x => x.page == page && x.plot == plot && x.lba == lba && x.order == order with
         | some x => leBytes 1 x.bank ++ leBytes 1 x.slot
         | none => [0xFF, 0xFF])
      | _ => [0xFF, 0xFF]
    (ringRequest s 0x35 pos (leBytes 6 page ++ leBytes 1 r.slots.length ++ [0] ++ tagBytes f r ++ r.slots.flatMap pair) none (.page page)).1

/-- What the master does for the pages that lie on other positions. -/
def syncRemote (s : State) (f : Nat) : State :=
  let env := s.fenv f
  let own := s.ringPos
  ((s.field f).pages.filter fun r => !r.passed && !r.failed && r.blk.chan / 128 != own && !s.stk.absent.contains (r.blk.chan / 128)).foldl
    (fun (s : State) r =>
      let page := unitAddr env.geo r.blk r.page 0
      let pos := r.blk.chan / 128
      let s := r.slots.foldl (fun (s : State) u => match u with
        | .unit plot lba order _ => sendShadow s f pos page plot lba order
        | _ => s) s
      releaseRemote s f pos page r) s

/-- Insert a released page in release order. -/
def insertReleased (r : PageRec) : List PageRec → List PageRec
  | [] => [r]
  | x :: xs => if r.rseq.getD 0 < x.rseq.getD 0 then r :: x :: xs else x :: insertReleased r xs

/-- Programs of blocks that have retired since are not run (R412). -/
def dropDead (s : State) (f : Nat) : State :=
  let fs := s.field f
  let dead := fun (o : DieOp) => o.pri == .program && (fs.blockRec o.blk).state == 4
  match s.fieldCfg? f with
  | none => s
  | some cfg => cfg.chans.foldl (fun (s : State) c =>
      s.modChan c fun k => { k with dies := k.dies.map fun d => { d with queue := d.queue.filter fun o => !dead o } }) s

/-- A die has erased blocks, whether or not a replay list names them. -/
def hasErased (fs : FieldState) (env : FEnv) (c d : Nat) : Bool :=
  decide (fs.countState (fun b r => onDie b c d && r.state != 0) < env.geo.bd)

/-- A slot of a fix point's own pages, or of a map segment. -/
def isFixSlot : SlotUse → Bool
  | .mapSegment _ _ _ => true
  | .fixPage _ _ _ => true
  | _ => false

/-- A die that needs a block no recorded replay list names waits with its programs for the contact-sheet entry of the fix
point begun for it. What that fix point itself needs is programmed: the pages released before it, and its own pages with those
before them in their blocks (R459; log 92). -/
def awaitsFix (fs : FieldState) (env : FEnv) (r : PageRec) : Bool :=
  let die := (r.blk.chan, r.blk.die)
  fs.recorded.isSome && fs.needs.contains die && lacksBlock fs env die && hasErased fs env die.1 die.2 &&
    (match fs.fix with | some x => decide (x.point.rseq0 ≤ r.rseq.getD 0) | none => true) &&
    !fs.pages.any fun x => x.blk == r.blk && decide (r.page ≤ x.page) && !x.passed && x.slots.any isFixSlot

/-- The Plot whose bulk re-key a page's program belongs to: it carries a unit moved out of a block of the other generation
(R353). -/
def rekeyedPage (fs : FieldState) (env : FEnv) (r : PageRec) : Option Nat :=
  r.slots.findSome? fun u => match u with
    | .unit p _ _ (some a) => if (fs.blockRec (addrPlace env.geo a).1).gen != (fs.blockRec r.blk).gen then some p else none
    | _ => none

/-- Queue the programs of released pages in the order released (R62), and the erases of fallow blocks that may be erased
(R400). -/
def syncQueues (s : State) (f : Nat) : State :=
  let env := s.fenv f
  let s := dropDead (if env.cfg.wide then syncRemote s f else s) f
  let fs := s.field f
  let due := (fs.pages.filter fun r => r.rseq.isSome && !r.passed && !r.failed && !awaitsFix fs env r).foldl (fun l r => insertReleased r l) []
  let s := due.foldl (fun s r =>
    queueOnce s env.cfg.wide { dieOp .program r.blk r.page 0 0 (fs.blockRec r.blk).slc with rekey := rekeyedPage fs env r }) s
  if s.hold.holding then s
  else (fs.fallow.filter fun x => eraseAllowed fs env x.1).foldl (fun s x =>
    queueOnce s env.cfg.wide (dieOp .erase x.1 0 0 0 (fs.blockRec x.1).slc)) s

/-! ### Pages that have been read, and pages rebuilt (R414, R415, R439) -/

/-- The map units of part of a page that someone wants: those a read has asked for, or every one of a whole page that a move,
a merge or a bulk re-key reads (R419, R439). -/
def wantedUnits (s : State) (f : Nat) (b : BlkId) (page slot n : Nat) : List (BlkId × Nat × Nat) :=
  let fs := s.field f
  let env := s.fenv f
  let inside := slot == 0 && decide (env.geo.u ≤ n) && (fs.moves.any (fun m => (moveBlocks fs m.blk).contains b) ||
    fs.merges.any (fun m => m.blk == b && m.page == page && !m.done) || fs.rekeys.any fun x => x.pages.contains (b, page))
  let asked := fun (base : Nat) => s.fn.tasks.any fun t => isReadTask t && t.statusDue && s.fieldOf t.key.plot == some f &&
    t.asked.any fun x => decide (base ≤ x.2) && decide (x.2 < base + env.geo.g) && !t.accepted.contains x.1
  match fs.page? b page with
  | none => []
  | some r =>
    let named := (namedSlots fs env r).filter fun x => decide (slot ≤ x.1) && decide (x.1 < slot + n)
    let bases := (named.map fun x => unitAddr env.geo b page x.1 - x.2.2.1 % env.geo.g).dedup
    (bases.filter fun a => inside || asked a).map (addrPlace env.geo)

/-- Units of a page have come to a bank, or reached stage 6: what waited for them goes on. -/
def pageArrived (s : State) (f : Nat) (b : BlkId) (page slot n : Nat) (ok : Bool) : State :=
  let env := s.fenv f
  let addr := unitAddr env.geo b page slot
  let lost := if ok then [] else (wantedUnits s f b page slot n).filter fun a => !(s.field f).stage6.contains a
  let whole := slot == 0 && decide (env.geo.u ≤ n)
  let s := s.modField f fun fs => { fs with
    unrecov := satAdd 0xFFFF fs.unrecov lost.length
    stage6 := fs.stage6 ++ lost
    segReads := fs.segReads.filter fun x => match x.addr with
      | some a => !(x.victim.isNone && decide (addr ≤ a) && decide (a < addr + n))
      | none => true
    rekeys := if !whole then fs.rekeys
      else if ok then fs.rekeys.map fun x => { x with pages := x.pages.filter (· != (b, page)) }
      else fs.rekeys.filter fun x => !x.pages.contains (b, page) }
  let s := if whole then onField s f fun fs env => releaseAll (pageDelivered fs env b page) env else s
  if ok then markReady s addr n f else failReads s addr n f

/-- Rebuilds that have ended give their page, or stage 6 (Table MED-2). -/
def settleRebuilds (s : State) (f : Nat) : State :=
  (endedRebuilds (s.field f)).foldl (fun (s : State) x =>
    let s := onField s f fun fs env =>
      let fs : FieldState := { fs with
        rebuilds := fs.rebuilds.filter (· != x)
        parity := if x.lost then fs.parity else count 0xFFFF fs.parity }
      if !x.lost && fs.doomed.contains x.blk then fs.markWeak env x.blk else fs
    pageArrived s f x.blk x.page 0 (s.geo f).u (!x.lost)) s

/-- Ask another position for a page, once (R414, R441); the flag is false when no path leads there. -/
def askMember (s : State) (f : Nat) (b : BlkId) (page : Nat) : State × Bool :=
  if s.stk.requests.any fun q => q.why == .member f b page then (s, true)
  else ringRequest s 0x37 (b.chan / 128) (leBytes 6 (unitAddr (s.geo f) b page 0) ++ leBytes 1 (s.geo f).u ++ [0]) none (.member f b page)

/-- Read the members a rebuild waits for. A member withdrawn by the sweep is waited for (R83); one on a channel fenced since is
lost (R439); one on another position is read over the ring (R441). -/
def askRebuild (s : State) (f : Nat) (x : Rebuild) : State :=
  let env := s.fenv f
  let lose := fun (s : State) => s.modField f fun fs => { fs with rebuilds := fs.rebuilds.map fun z =>
    if z.blk == x.blk && z.page == x.page then { z with lost := true } else z }
  x.waiting.foldl (fun (s : State) y =>
    if env.fenced.contains y.chan then lose s
    else
      match s.localChan env.cfg.wide y.chan with
      | some c =>
        let rekey := ((s.field f).rekeys.find? fun z => z.pages.contains (x.blk, x.page)).map (·.plot)
        if (s.chan c).swept ∨ (s.chan c).zq then s else queuePage s f y x.page rekey
      | none =>
        let (s, ok) := askMember s f y x.page
        if ok then s else lose s) s

def askRebuilds (s : State) (f : Nat) : State :=
  settleRebuilds ((s.field f).rebuilds.foldl (fun s x => askRebuild s f x) s) f

/-- Read a page inside the Field: from its die, from another position, or by rebuild where its channel is lost (R414, R437,
R441). -/
def wantPage (s : State) (f : Nat) (b : BlkId) (page : Nat) (rekey : Option Nat) : State :=
  let env := s.fenv f
  if env.fenced.contains b.chan then onField s f fun fs env => beginRebuild fs env b page
  else if (s.localChan env.cfg.wide b.chan).isSome then queuePage s f b page rekey
  else (askMember s f b page).1

/-- Read what merges wait for (R375 step 1). -/
def askMerges (s : State) (f : Nat) : State :=
  ((s.field f).merges.filter fun m => !m.done).foldl (fun s m => wantPage s f m.blk m.page none) s

/-- Read the map segments that lookups wait for, each once its slot is free; a full die queue, and a channel that fails, are
met as any internal read meets them (R64, R377, R417). -/
def askSegments (s : State) (f : Nat) : State :=
  let s := s.modField f fun fs => { fs with segReads := fs.segReads.filter fun x => x.addr.isSome || x.victim.isSome }
  (s.field f).segReads.foldl (fun (s : State) x =>
    match x.victim, x.addr with
    | none, some a =>
      let env := s.fenv f
      let (b, page, slot) := addrPlace env.geo a
      if env.fenced.contains b.chan ∨ (s.localChan env.cfg.wide b.chan).isNone then wantPage s f b page none
      else queueOnce s env.cfg.wide (dieOp .internalRead b page slot 1 ((s.field f).blockRec b).slc)
    | _, _ => s) s

/-! ### Internal work -/

def moveClassOf : MoveWhy → Nat
  | .glean => 3 | .fold => 3 | .refresh => 4 | .rebuild => 5 | .rekey => 7 | .secure => 2

/-- What a Field manager asks its arbiter input for (Table FLD-4). -/
inductive FieldReq where
  | move (why : MoveWhy) (blk : BlkId)
  | rebuild (x : StripeSet)
  | fix

def FieldReq.cls : FieldReq → Nat
  | .move why _ => moveClassOf why
  | .rebuild _ => 5
  | .fix => 3

/-- The arbiter input of a Field manager (Table ARB-1). -/
def fieldInput (f : Nat) : Nat := 3 + f

/-- Begin what was asked for, under its ticket: a rebuild empties every member of its set (R437). -/
def beginRequest (s : State) (f : Nat) (r : FieldReq) (id : Nat) : State :=
  match r with
  | .move why b => s.modField f fun fs => { fs with moves := fs.moves ++ [⟨why, b, some id, []⟩] }
  | .rebuild x => s.modField f fun fs =>
      { fs with moves := fs.moves ++ (((List.range x.members.length).zip x.members).filter fun p => !fs.moves.any (·.blk == p.2)).map fun p =>
                                       ⟨.rebuild, p.2, if p.1 = 0 then some id else none, []⟩ }
  | .fix => onField s f fun fs env => beginFix fs env (some id)

/-- A request wins its tick of the arbiter: its ticket, the grant noted, and the work (R33, R55). -/
def grantRequest (s : State) (f : Nat) (r : FieldReq) : State :=
  match drawTicket s r.cls with
  | none => s
  | some (id, s) => beginRequest (noteGrant s ⟨fieldInput f, none, none, some id, .granted⟩) f r id

/-- The next page a move needs: a read on a usable die or on another position, or, on a fenced channel, the rebuild from the other
members, which are read in parallel (R414, R437, R441). What it has read and not placed yet is placed. -/
def feedMove (s : State) (f : Nat) (m : MoveRun) : State :=
  let s := onField s f fun fs env => match fs.moves.find? (·.blk == m.blk) with
    | some m => releaseAll (copyOut fs env m) env
    | none => fs
  match (s.field f).moves.find? (·.blk == m.blk) with
  | none => s
  | some m =>
    match nextMovePage (s.field f) (s.fenv f) m with
    | none => s
    | some (b, page) => wantPage s f b page none

/-- Parity of a row that still holds what a move takes out or a fix point needs (R400). -/
def parityLive (fs : FieldState) (env : FEnv) (r : PageRec) : Bool :=
  r.slots.contains .parity && rowAny fs r fun x k => mapUnitValid fs env x k || (namedSlots fs env x).any (·.1 == k)

/-- Whether a block is emptied: nothing the map names or a fix point needs is left in it or protected by it, and no copy is under
way. -/
def emptied (fs : FieldState) (env : FEnv) (b : BlkId) : Bool :=
  fs.pages.all fun r => !(r.blk == b) || ((r.passed || r.failed) && (namedSlots fs env r).isEmpty && !parityLive fs env r &&
    (List.range r.slots.length).all fun k => !mapUnitValid fs env r k)

/-- A block enters the fallow list, or retires when Table MED-4 says so (R400, R430). -/
def enterFallow (fs : FieldState) (b : BlkId) : FieldState :=
  let r := fs.blockRec b
  if r.state = 4 then fs
  else if r.weak ∨ fs.doomed.contains b then fs.modRec b fun r => { r with state := 4 }
  else
    let fs := fs.modRec b fun r => { r with state := 3 }
    { fs with fallow := fs.fallow ++ [(b, match fs.fix with | some x => x.point.count | none => fs.fixcount)] }

/-- What a finished move counts (`FLD_GLEAN`, `MED_REFRESH`). -/
def countMove (fs : FieldState) (m : MoveRun) : FieldState :=
  let w := (fs.blockRec m.blk).why
  match m.why with
  | .glean => { fs with victims := count 0xFFFF fs.victims }
  | .refresh =>
    if w = 1 then { fs with refDose := count 0x3FF fs.refDose }
    else if w = 2 then { fs with refReads := count 0x3FF fs.refReads }
    else if w = 3 then { fs with refEsc := count 0x3FF fs.refEsc }
    else fs
  | _ => fs

/-- End the moves whose block is empty, with their tickets; a rebuild's ticket is held until its set is empty. -/
def endMoves (s : State) (f : Nat) : State :=
  (s.field f).moves.foldl (fun s m =>
    let env := s.fenv f
    let fs := s.field f
    let mates := match fs.sets.find? (·.members.contains m.blk) with | some x => x.members | none => []
    let more := m.why = .rebuild ∧ m.ticket.isSome ∧ fs.moves.any fun x => x.why == .rebuild && x.blk != m.blk && mates.contains x.blk
    if !emptied fs env m.blk ∨ (fs.blockRec m.blk).state = 1 ∨ more then s
    else
      let fs := countMove fs m
      let fs := if env.fenced.contains m.blk.chan then fs else enterFallow fs m.blk
      let s := s.modField f fun _ => { fs with moves := fs.moves.filter fun x => !(x.blk == m.blk) }
      match m.ticket with
      | some id => releaseTicket s id
      | none => s) s

/-- Closed blocks that hold nothing enter the fallow list without a move (R400). -/
def sweepEmpty (s : State) (f : Nat) : State :=
  onField s f fun fs env =>
    ((fs.blocks.filter fun x => x.2.state == 2 && !fs.moves.any fun m => m.blk == x.1).map (·.1)).foldl (fun fs b =>
      if !env.fenced.contains b.chan ∧ emptied fs env b ∧ validUnits fs env b = 0 then enterFallow fs b else fs) fs

/-- GLEANING, HOST_WAIT and SPACE_OUT (R391, R398, R399). -/
def fieldFlags (fs : FieldState) (env : FEnv) : FieldState :=
  let free := fs.free env
  let da := env.geo.d * env.geo.a
  let wait := decide (free ≤ 2 * env.geo.d) && decide (env.geo.d ≠ 0)
  let glean := if free * 100 ≤ env.cfg.gleanLow * da then true
    else if env.cfg.gleanHigh * da ≤ free * 100 then false else fs.gleaning
  let stuck := wait && !(fs.blocks.any fun x => eligible fs env x.1) && !(fs.moves.any fun m => m.why == .glean || m.why == .fold)
  { fs with hostWait := wait, gleaning := glean, spaceOut := wait && (fs.spaceOut || stuck) }

/-- Whether a fix point is due: by cadence; because a die has no erased block and holds a fallow one that waits for a fix
point; because a die that needs a block has erased ones, none of them in the replay list; because a secure discard's blocks
are all fallow; or because a flush waits behind a failed page that no row gives back (R401, R402, R404, R459; log 90). -/
def fixDue (fs : FieldState) (env : FEnv) : Bool :=
  fs.fix.isNone && (decide (env.cfg.fixCadence * 256 ≤ fs.sinceFix ∧ env.cfg.fixCadence ≠ 0) ||
    (env.geo.chans.any fun c => !env.fenced.contains c && (List.range env.geo.pc).any fun d =>
      !hasErased fs env c d && fs.fallow.any fun x => onDie x.1 c d && !eraseAllowed fs env x.1) ||
    (fs.recorded.isSome && fs.needs.any fun p => lacksBlock fs env p && hasErased fs env p.1 p.2) ||
    (!fs.waiters.isEmpty && fs.pages.any fun r => lostRow fs r && decide ((fs.recorded.map (·.rseq0)).getD 0 ≤ r.rseq.getD 0)) ||
    fs.secure.any fun r => !r.blocks.isEmpty && r.blocks.all fun b => (fs.blockRec b).state == 3 && !eraseAllowed fs env b)

/-- The requests a Field manager has raised: rebuilds of exposed sets, refresh, folding, gleaning while it is active or hosts
wait, and a fix point that is due (R387, R395, R398, R427, R437). -/
def fieldRequests (s : State) (f : Nat) : List FieldReq :=
  let fs := s.field f
  let env := s.fenv f
  ((exposedSets fs env).filter fun x => !x.open_ && !(fs.moves.any fun m => m.why == .rebuild && x.members.contains m.blk)).map .rebuild ++
  ((nextRefresh fs).map (.move .refresh)).toList ++ ((nextFold fs).map (.move .fold)).toList ++
  (if fs.gleaning ∨ fs.hostWait then ((nextVictim fs env).map (.move .glean)).toList else []) ++
  (if fixDue fs env then [.fix] else [])

/-- The first request for which a ticket is free: the others stay raised (R55). -/
def nextRequest (s : State) (f : Nat) : Option FieldReq := (fieldRequests s f).find? fun r => !s.arb.lockstep && s.canDraw r.cls

/-- Grant what the Field asks for and tickets allow, one request after the other. -/
def grantRequests (f : Nat) : Nat → State → State
  | 0, s => s
  | fuel + 1, s =>
    match nextRequest s f with
    | none => s
    | some r => grantRequests f fuel (grantRequest s f r)

/-- The map segments of the Plots of a Field, in (Plot, INDEX) order. -/
def State.segments (s : State) (f : Nat) : List (Nat × Nat) :=
  let q := s.geo f
  (s.plotsOf f).flatMap fun n => match s.plotCfg? n with
    | some p => (List.range (ceilDiv (plotUnits q p) 512)).map fun i => (n, i)
    | none => []

/-- A fix point whose earlier pages have all passed writes its own (R454). -/
def stepFix (s : State) (f : Nat) : State :=
  match (s.field f).fix with
  | some run =>
    if run.written then onField s f redoFix
    else if !fixDrained (s.field f) run then s
    else
      let segs := s.segments f
      onField s f fun fs env => writeFix fs env segs s.wall.e run
  | none => s

/-- No internal work in Field, device or stack scope, in Dark and Off, and during a hold-up (R409, R472). -/
def State.workStops (s : State) (f : Nat) : Bool :=
  s.fieldHeld f || s.pwr.state == .dark || s.pwr.state == .off || s.hold.holding || (s.field f).replaying

/-- Blocks of a set due for refresh while open: the drill closes the set at the end of its row group (R429). -/
def closeDueSets (fs : FieldState) (env : FEnv) : FieldState :=
  fs.openSets.foldl (fun fs x =>
    if x.members.any fun b => (fs.blockRec b).due || env.fenced.contains b.chan then finishSet fs env x else fs) fs

/-! ### Bulk re-key (R350, R351, R354) -/

/-- Named old-generation units of a Plot: LBA and address. -/
def oldUnits (fs : FieldState) (env : FEnv) (n : Nat) : List (Nat × Nat) :=
  fs.pages.flatMap fun r =>
    if !r.passed || (fs.blockRec r.blk).gen == env.gen n then []
    else (namedSlots fs env r).filterMap fun x => if x.2.1 = n then some (x.2.2.1, unitAddr env.geo r.blk r.page x.1) else none

/-- The blocks rewritten together with one: its map unit, and in a Credential Plot both halves of its record (R351). -/
def rekeyParts (fs : FieldState) (env : FEnv) (n lba : Nat) (cred : Bool) : List (Nat × Nat) :=
  let g := env.geo.g
  let lbas := if cred ∧ g < 2 then [lba / 2 * 2, lba / 2 * 2 + 1] else (List.range g).map (lba / g * g + ·)
  lbas.filterMap fun l => match fs.mapEnt n (l / g) with
    | some m => if m.lost then none else some (l, m.addr + l % g)
    | none => none

/-- The next unit of a Plot to re-encrypt: the lowest LBA, but first what another move waits for (R350, R351). -/
def nextRekey (fs : FieldState) (env : FEnv) (n : Nat) : Option (Nat × Nat) :=
  let low := fun (l : List (Nat × Nat)) => l.foldl (fun m x =>
      match m with | none => some x | some y => if x.1 < y.1 then some x else m) (none : Option (Nat × Nat))
  let all := (oldUnits fs env n).filter fun x => !inMove fs x.2
  (low (all.filter fun x => fs.moves.any fun m => m.why != .rekey && m.blk == (addrPlace env.geo x.2).1)).orElse fun _ => low all

/-- Begin the next unit of a Plot, under the ticket its erase block holds; the one before it is placed. -/
def beginRekey (s : State) (f n : Nat) : State :=
  let fs := s.field f
  let env := s.fenv f
  if fs.rekeys.any (·.plot == n) then s
  else
    match nextRekey fs env n with
    | none => s
    | some (lba, addr) =>
      let b := (addrPlace env.geo addr).1
      let s := if fs.moves.any (·.blk == b) ∨ (fs.blockRec b).state ≠ 2 then s else grantRequest s f (.move .rekey b)
      if !(s.field f).moves.any (·.blk == b) then s
      else
        let parts := rekeyParts fs env n lba (((s.plotCfg? n).map (·.credential)).getD false)
        let pages := (parts.map fun x => let (b, p, _) := addrPlace env.geo x.2; (b, p)).dedup
        s.modField f fun fs => { fs with rekeys := fs.rekeys ++ [⟨n, parts, pages, parts.map (·.1), parts.map (·.1)⟩] }

/-- A Plot that is not Open or Read-only pauses its re-key: the unit in hand and the tickets of its blocks go (R354). -/
def pauseRekeys (s : State) (f : Nat) : State :=
  let env := s.fenv f
  let fs := s.field f
  let idle := fs.moves.filter fun m => m.why == .rekey && !(fs.pages.any fun r => r.blk == m.blk &&
      (namedSlots fs env r).any fun x => reEncrypts fs env m.blk x.2.1) &&
    !emptied fs env m.blk
  let s := s.modField f fun fs => { fs with rekeys := fs.rekeys.filter fun x => env.rekeys x.plot, moves := fs.moves.filter fun m => !idle.contains m }
  idle.foldl (fun s m => match m.ticket with | some id => releaseTicket s id | none => s) s

/-- Open sets of the old generation that hold units of a Plot under re-key are closed, so that their blocks can be emptied. -/
def closeOldSets (fs : FieldState) (env : FEnv) : FieldState :=
  fs.openSets.foldl (fun fs x =>
    if fs.pages.any fun r => x.members.contains r.blk && r.slots.any fun u => match u with | .unit p _ _ _ => env.rekeys p && x.gen != env.gen p | _ => false
    then finishSet fs env x else fs) fs

/-- Re-encrypt the old-generation blocks of Plots whose bulk re-key runs, in ascending LBA order (R350). -/
def rekeyWork (s : State) (f : Nat) : State :=
  let s := onField (pauseRekeys s f) f fun fs env => releaseAll (closeOldSets fs env) env
  let s := ((s.plotsOf f).filter (s.fenv f).rekeys).foldl (fun s n => beginRekey s f n) s
  (s.field f).rekeys.foldl (fun s x => x.pages.foldl (fun s p => wantPage s f p.1 p.2 (some x.plot)) s) s

/-- The mapped blocks of a Plot that lie in old-generation erase blocks. -/
def rekeyLeft (s : State) (f n : Nat) : List Nat := (oldUnits (s.field f) (s.fenv f) n).map (·.1)

/-- Pages of the old generation that carry blocks of the Plot and are still to be programmed. -/
def rekeyLatent (s : State) (f n : Nat) : Bool :=
  let fs := s.field f
  fs.pages.any fun r => !r.passed && !r.failed && (fs.blockRec r.blk).gen != (s.plot n).record.genBit &&
    r.slots.any fun u => match u with | .unit p _ _ _ => p == n | _ => false

/-- Write a Plot's key record. -/
def writeRecord (s : State) (n : Nat) (f : KeyRecord → KeyRecord) : State :=
  structWrite (s.modPlot n fun p => { p with record := { f p.record with seq := p.record.seq + 1 }, olderCopy := true }) (0x200 + n)

/-- A bulk re-key whose old-generation blocks have all been rewritten ends: the record without the old set, the old set
cleared from the key store, PLOT_HEALTH with unchanged values (R352). A spare-exhausted Granary refuses that record (R515). -/
def endRekeys (s : State) (f : Nat) : State :=
  (s.plotsOf f).foldl (fun (s : State) n =>
    let p := s.plot n
    if p.record.rekeying && !s.spareOut && p.mode.up && (rekeyLeft s f n).isEmpty && !rekeyLatent s f n then
      let s := writeRecord s n fun r => { r with rekeying := false, wrapB := [], rekeyLba := 0 }
      let s := s.modPlot n fun p => { p with keys := p.keys.map fun k => { k with old := none } }
      queueEvents s 0x0011 n p.health p.health
    else s) s

/-- `REKEY_LBA` goes to the record at each fix point (R350, R351), not when the Granary is spare-exhausted (R515). -/
def noteRekey (s : State) (f : Nat) : State :=
  (s.plotsOf f).foldl (fun (s : State) n =>
    if (s.plot n).record.rekeying && !s.spareOut then
      let left := (rekeyLeft s f n).foldl (fun m x => match m with | none => some x | some y => some (min x y)) (none : Option Nat)
      let cred := ((s.plotCfg? n).map (·.credential)).getD false
      match left with
      | some l => writeRecord s n fun r => { r with rekeyLba := if cred then l / 2 * 2 else l }
      | none => s
    else s) s

/-- Moved units that wait in pages nothing more will fill are forced out: no move has anything left to read or to place (log
93). -/
def forceMoved (fs : FieldState) (env : FEnv) : FieldState :=
  if fs.rekeys.isEmpty && fs.moves.all (fun m => (nextMovePage fs env m).isNone && (moveBlocks fs m.blk).all fun b => (movable fs env b).isEmpty)
  then forceField fs env isMovedSlot else fs

/-- Everything a Field manager's internal work can do now. -/
def internalWork (s : State) (f : Nat) : State :=
  if s.workStops f then s
  else
    let s := onField s f fun fs env => releaseAll (closeDueSets fs env) env
    let s := sweepEmpty (endMoves s f) f
    let s := onField s f fieldFlags
    let s := grantRequests f ((s.fenv f).geo.d * 4 + 4) s
    let s := endRekeys (rekeyWork s f) f
    let s := (s.field f).moves.foldl (fun s m => feedMove s f m) s
    let s := onField s f fun fs env => fieldFlags (forceMoved fs env) env
    stepFix s f

/-! ### Headland, Read-only and health -/

/-- Recompute H and apply R435 or R436. -/
def updateHeadland (s : State) (f : Nat) : State :=
  match s.fieldCfg? f with
  | none => s
  | some cfg =>
    let env := s.fenv f
    let fs := s.field f
    let h := headlandOf fs env
    let floor : Int := floorOf env
    let s := s.modField f fun fs => { fs with headland := h }
    if h < floor ∧ !fs.roHead then
      demotePlots (s.modField f fun fs => { fs with roHead := true }) (s.plotsOf f) 2
    else if fs.roHead ∧ (env.geo.d * (cfg.headlandMin + 1) : Nat) ≤ h then
      (s.plotsOf f).foldl (fun s n =>
        if (s.plot n).mode = .readOnly ∧ (s.plot n).roCause = 2 ∧ !s.arb.ordEnd then
          (setPlotMode s n .open_ 3).modPlot n fun p => { p with roCause := 0 }
        else s) (s.modField f fun fs => { fs with roHead := false })
    else s

/-- Send PLOT_HEALTH for every Plot of the Field when its health changed (R442, R443). -/
def updateHealth (s : State) (f : Nat) : State :=
  match s.fieldCfg? f with
  | none => s
  | some _ =>
    let now := healthOf (s.field f) (s.fenv f)
    let s := s.modField f fun fs => { fs with health := now }
    (s.plotsOf f).foldl (fun s n =>
      let old := (s.plot n).health
      if old = now then s
      else queueEvents (s.modPlot n fun p => { p with health := now }) 0x0011 n now old) s

/-! ### Flushes, FUA writes and discards that complete -/

/-- Whether durable mode answers writes and discards as FUA (R469, R470). -/
def State.asFua (s : State) : Bool :=
  match s.layout with
  | some _ => s.pwr.durable && !s.hold.effective
  | none => false

/-- Complete the waiters of a Field whose numbers are programmed and reachable (R449), or whose release bound has passed
(R292). -/
def runWaiters (s : State) (f : Nat) : State :=
  let env := s.fenv f
  (s.field f).waiters.foldl (fun s w =>
    let fs := s.field f
    let done := match w.rseqBound with
      | some b => (fs.entries.take w.order).all (·.passed) && fs.pages.all fun r => !outstanding fs r || decide (b ≤ r.rseq.getD b)
      | none => flushDone fs env w.order
    let t := s.fn.tasks.find? fun t => t.key == w.key && t.statusDue
    let accepted := match t with
      | some t => ((t.kind != .write && t.kind != .put) || decide (t.count ≤ t.accepted.length)) && !fs.secure.any (·.key == t.key)
      | none => true
    if done && accepted then
      let s := s.modField f fun fs => { fs with waiters := fs.waiters.filter (· != w) }
      match t with
      | some t => answerTask s t .good []
      | none => s
    else s) s

/-- Secure discards whose affected blocks have all been erased return GOOD (R404, R407); one granted under durable mode as its
waiter's floor is reached as well (R470). A block whose erase failed is never erased, and its discard gets no GOOD (log 111). -/
def runSecure (s : State) (f : Nat) : State :=
  (s.field f).secure.foldl (fun s r =>
    let fs := s.field f
    let left := r.blocks.filter fun b => (fs.blockRec b).state != 0
    if left.isEmpty then
      let s := s.modField f fun fs => { fs with secure := fs.secure.filter (· != r) }
      match s.fn.tasks.find? fun t => t.key == r.key && t.statusDue with
      | some t => if fs.waiters.any (·.key == r.key) then s else answerTask s t .good []
      | none => s
    else s.modField f fun fs => { fs with secure := fs.secure.map fun x => if x == r then { r with blocks := left } else x }) s

/-- Nothing of a Field is latent: every version programmed and every page passed. -/
def developed (fs : FieldState) : Bool := fs.entries.all (·.passed) && fs.pages.all fun r => !outstanding fs r

/-- Hold-up, step 4 (Table FIX-7): once every program has passed, one seal entry per Field with the STAMP of its last page. -/
def sealFields (s : State) : State :=
  let out := fun f => s.fieldHeld f || (s.field f).unreadable || (s.field f).replaying
  if s.hold.holding && !s.hold.sealed && s.fieldList.all fun f => out f || developed (s.field f) then
    let s := s.fieldList.foldl (fun (s : State) f =>
      if out f then s
      else structWrite (s.modField f recordSeal) (0x300 + f)) s
    s.modHold fun h => { h with sealed := true }
  else s

/-- Development that flushes, FUA writes, Dark, Off, a cold activation and a hold-up still force, blocks accepted since
among it (R136, R208, R212, R389, R449, R472). -/
def forceDue (s : State) (f : Nat) : State :=
  let all := s.pwr.xfer.isSome || s.hold.holding || s.lay.run.any (fun r => r.stage == .developing)
  onField s f fun fs env =>
    let fs := releaseAll fs env
    if all then forceField fs env anySlot
    else fs.waiters.foldl (fun fs w => match w.rseqBound with
      | some _ => forceField fs env anySlot
      | none => stampRow (forceField fs env (below (w.order + 1))) env w.order) fs

/-- Let the manager of Field f do all it can: place and release, its internal work, its die queues, and the commands that
are complete. In Field, device or stack scope the latent window is held (Table SAF-5), and the strip of its manager pauses it
(Table SAF-4). -/
def runField (s : State) (f : Nat) : State :=
  match s.fieldCfg? f with
  | none => s
  | some _ =>
    if s.fieldHeld f || s.fmPaused f || !s.manages f || (s.field f).unreadable || (s.field f).replaying then s
    else
      let s := askSegments (askMerges (onField s f (placeAll s.pwr.durable)) f) f
      let s := updateHeadland (internalWork s f) f
      let s := askRebuilds (forceDue s f) f
      let s := if s.pwr.state = .dark ∨ s.pwr.state = .off then s else syncQueues s f
      let s := runWaiters s f
      sealFields (settleTasks (updateHealth (runSecure s f) f))

def runFields (s : State) : State := s.fieldList.foldl runField s

/-- Force development in a Field and let it run. -/
def develop (s : State) (f : Nat) (cover : SlotUse → Bool) : State :=
  runField (onField s f fun fs env => forceField (placeAll s.pwr.durable fs env) env cover) f

end Sys2Proof.Machine
end

