-- ==== Sys2Proof/Machine/PortCore.lean ====
section
/-! DEFINITION. What an upstream reset and an upstream detach of a port do (R229, R230, R267), shared by the USB commands,
port scope and the start. -/

namespace Sys2Proof.Machine

/-- Discard every capsule in progress on a port (R267). -/
def dropCapsules (s : State) (p : Port) : State :=
  (orphanChecks s p).modPfn p fun q => { q with caps := q.caps.map CapState.dropped }

/-- The hub's default state: unconfigured, nothing connected, reservations kept. -/
def defaultHub (q : PortState) : PortState :=
  { q with
    configured := false
    wakeEn := false
    u1Enable := false
    u2Enable := false
    emb := q.emb.map fun e => { Reset.emb with holder := e.holder }
    eps := []
    wakeSignals := 0
    hubStatus := 0 }

/-- An upstream reset of a port (R229): its commands aborted, hub and functions in their default state, capsules gone. -/
def resetPort (s : State) (p : Port) : State :=
  let s := abortPort s p fun _ => true
  let s := dropCapsules s p
  s.modPort p fun q => { defaultHub q with link := 0 }

/-- An upstream detach (R230): commands as in R229, the terminations and the pull-up off, the port's semaphores released
under Table SEM-4 with the cause given. -/
def detachPort (s : State) (p : Port) (cause : Nat) : State :=
  let s := resetPort s p
  let s := releaseSems s p.identity cause
  s.modPort p fun q => { q with
    ssTerm := false
    dPlus := false
    speed := .none
    flip := false
    sof := { q.sof with valid := false }
    detaches := count 0xFFFF q.detaches }

/-- CONNECTED of `PRT_STAT`. -/
def PortState.connected (q : PortState) : Bool := q.ssTerm || q.dPlus

/-- A port that is enabled, senses VBUS and is not in port scope offers its SuperSpeed terminations when MAX_SPEED is 1 or
more, and otherwise the D+ pull-up, from step 10 of the start on (R224, R226, R261). FLIP is sampled once; where no command
brings its level it is a free value (log 23). -/
def offerConnect (s : State) (p : Port) : State :=
  let c := s.portCfg p
  if c.enable ∧ (s.port p).vbus ∧ !(s.port p).connected ∧ !s.inScope 5 p.index ∧ s.pwr.state ≠ .off ∧ s.pwr.step = 15 then
    let (flip, s) := s.drawBool
    s.modPort p fun q =>
      if 1 ≤ min c.maxSpeed s.member.usbMax then { q with ssTerm := true, flip := flip } else { q with dPlus := true, flip := flip }
  else s

/-! ### Endpoint buffers (R231 to R236, R247) -/

def answerWire (s : State) (p : Port) (a : WireAnswer) : State := s.modPort p fun q => { q with answer := a }

/-- An endpoint buffer, empty, its toggle or sequence number at its start (R233, R234). -/
def freshEp (k ep total : Nat) : EpState := ⟨k, ep, total, 0, 0, false, false, 0, 0⟩

/-- Table PRT-4 for the capsule OUT and IN pair, and for BOT: half of the granules, and the rest. -/
def halves (k g : Nat) : List EpState := [freshEp k 0x01 (g / 2), freshEp k 0x81 (g - g / 2)]

/-- The endpoint buffers of the interface `alt` of the function on embedded port k, from its CARVE entry g (Table PRT-4). -/
def carveEps (k alt g : Nat) : List EpState :=
  if k = 0 then [freshEp 0 0x00 (g - 1), freshEp 0 0x81 1]
  else if k = 1 then freshEp 1 0x82 1 :: halves 1 (g - 1)
  else if alt = 0 then halves k g
  else [freshEp k 0x01 1, freshEp k 0x81 1, freshEp k 0x02 ((g - 2) / 2), freshEp k 0x82 (g - 2 - (g - 2) / 2)]

/-- bMaxBurst of a buffer of G granules (R235). -/
def maxBurst (g : Nat) : Nat := min 15 (g - 1)

/-- MaxStreams of the UAS data pipes: 2^14 streams at SuperSpeed (R236). -/
def maxStreams : Nat := 14

/-- What an endpoint of a function advertises at SuperSpeed: its burst (R235), and streams on the data pipes of UAS (R236). At
USB 2.0 there is neither. -/
def advertised (super : Bool) (alt : Nat) (e : EpState) : EpState :=
  if super && decide (1 ≤ e.k) then
    { e with burst := maxBurst e.total, streams := if 2 ≤ e.k ∧ alt = 1 ∧ (e.ep = 0x02 ∨ e.ep = 0x82) then maxStreams else 0 }
  else e

def PortState.ep? (q : PortState) (k ep : Nat) : Option EpState := q.eps.find? (isEp k ep)

/-- The endpoint is there: the hub's own, or one of a function whose configuration is selected. -/
def PortState.hasEp (q : PortState) (k ep : Nat) : Bool :=
  (q.ep? k ep).isSome && (if k = 0 then q.live && q.configured else q.bulk k)

/-- Select an interface: its buffers replace those of the function (R247), toggles at DATA0, sequence numbers at 0. -/
def selectEps (s : State) (p : Port) (k alt : Nat) : State :=
  let g := (s.portCfg p).carve.getD k 0
  s.modPort p fun q => { q with eps := (carveEps k alt g).map (advertised q.super alt) ++ q.eps.filter (·.k != k) }

/-- A packet takes one granule (R231) and moves the toggle or the sequence number on. -/
def takeGranule (wrap : Nat) (e : EpState) : EpState := { e with used := e.used + 1, seq := (e.seq + 1) % wrap }

/-- A USB 2.0 IN transfer of some bytes, ended by a short or zero-length packet (R263, R266): STALL while the endpoint is
halted, NAK without a free granule, and the flag is false. At SuperSpeed each transaction meets the buffer by itself (R234).
-/
def inTransfer (s : State) (p : Port) (k ep bytes : Nat) : State × Bool :=
  match (s.port p).super, (s.port p).ep? k ep with
  | super, some e =>
    if e.halted then (answerWire s p .stall, false)
    else if super then (s, true)
    else if e.total ≤ e.used then (answerWire s p .nak, false)
    else (modEp s p k ep (sendPackets (bytes / bulkPacket (s.port p).speed + 1)), true)
  | _, none => (s, true)

/-- A request on endpoint 0, which the hub and every function of a port share (Table PRT-4), is carried out: at USB 2.0 its
SETUP packet and its status packet each take a granule, and a data packet one more (R231). A request answered with STALL
changes nothing (R223). -/
def answerControl (s : State) (p : Port) (data : Nat) (a : WireAnswer) : State :=
  answerWire (if (s.port p).super then s else modEp s p 0 0x00 (sendPackets (data + 2))) p a

end Sys2Proof.Machine
end

