-- ==== Sys2Proof/Machine/Scope.lean ====
section
/-! DEFINITION. Entering a Safelight scope: the record, the event, and what Table SAF-5 does at each scope (R95 to R100,
R113), the scope of an island fault (Table SAF-3), and a channel's loss (R410, R437, R506). -/

namespace Sys2Proof.Machine

/-- Whether a scope entered now lies inside a wider one in force (R100). The spec does not order device and stack scope:
neither counts as the wider of the two (DESIGN CHOICE, log 94). -/
def State.widerThan (s : State) (code inst : Nat) : Bool :=
  (code != 6 && code != 7 && s.deviceScope) ||
  (code == 3 && match s.plotCfg? inst with | some c => s.inScope 4 c.field || s.fieldHeld c.field | none => false) ||
  (code == 4 && s.stackScope && ((s.fieldCfg? inst).map (·.wide)).getD false) ||
  (code == 2 && match s.fieldOfChan inst with | some f => s.fieldHeld f | none => false)

/-- INSTANCE of a record (R663): 0xFFFF for device and stack scope. -/
def recInst (code inst : Nat) : Nat := if code = 6 ∨ code = 7 then 0xFFFF else inst

/-- Whether the cause latches (Table SAF-8). -/
def latchingCause (cause : Nat) : Bool :=
  [0x0031, 0x0041, 0x0061, 0x0081, 0x0082, 0x0083, 0x0090, 0x00A2, 0x00C1].contains cause

/-! ### Channels -/

/-- A channel with no operation left under its old recipe has taken the new one: its pending bit clears and every loaded
read step is unknown (R140, R508). -/
def settleRecipe (s : State) (c : Nat) : State :=
  if s.lay.recipePend.contains c ∧ !((s.chan c).dies.any fun d =>
      (d.run.toList ++ d.susp.toList ++ d.aside.toList ++ d.redo.toList).any (·.oldSet) || d.queue.any (·.oldSet)) then
    (s.modLay fun l => { l with recipePend := l.recipePend.filter (· != c) }).modChan c fun k =>
      { k with dies := k.dies.map fun d => { d with step := none } }
  else s

/-- What runs in the dies of a channel is abandoned. -/
def stopDies (k : ChanState) : ChanState :=
  { k with phase := none, ready := [], dies := k.dies.map fun d => { d with run := none, susp := none, aside := none, redo := none } }

/-- The programs a channel runs or has suspended. -/
def ChanState.programs (k : ChanState) : List DieOp :=
  k.dies.flatMap fun d => (d.run.toList ++ d.susp.toList ++ d.aside.toList).flatMap fun r => if r.kind = .program then r.ops else []

/-- All CE_N high and WP_N low: a page whose program is cut off counts as never programmed (R99, R506), and an old recipe's last
operation is gone with it (R142). -/
def stopChannel (s : State) (c : Nat) : State :=
  let cut := (s.chan c).programs
  let s := match s.fieldOfChan c with
    | some f => s.modField f fun fs => cut.foldl (fun fs (o : DieOp) => fs.modPage o.blk o.page fun p => { p with begun := false }) fs
    | none => s
  settleRecipe (s.modChan c stopDies) c

/-- The pages of a fenced channel that are not programmed leave it: their units are placed again (R410), as after a failed
program but without retiring anything. -/
def dropPages (fs : FieldState) (chan : Nat) : FieldState :=
  let gone := fs.pages.filter fun r => r.blk.chan == chan && !r.passed && !r.failed
  let hit := fun (e : Entry) => !e.passed && gone.any fun r => r.slots.any (carries e)
  { fs with
    pages := (fs.pages.filter fun r => !(gone.contains r && r.rseq.isNone)).map fun r => if gone.contains r then { r with failed := true } else r
    entries := fs.entries.map fun e => if hit e then { e with rseq := none, again := e.again || e.rseq.isSome } else e }

/-- Every block of a set with a member on a lost channel is due with WHY = 4 (R426, R437). -/
def markExposed (fs : FieldState) (chan : Nat) : FieldState :=
  (fs.sets.filter fun x => x.members.any fun b => b.chan == chan).foldl (fun fs x => x.members.foldl (fun fs b => fs.markDue b 4) fs) fs

/-- Host reads queued on a channel that can no longer serve them are served from parity (R414, R506). -/
def rebuildAsked (s : State) (f c : Nat) : State :=
  let env := s.fenv f
  let pages := (s.fn.tasks.filter fun t => isReadTask t && t.statusDue && s.fieldOf t.key.plot == some f).flatMap fun t =>
    (t.asked.filter fun x => !t.ready.contains x.1 && !t.accepted.contains x.1).map fun x => let (b, p, _) := addrPlace env.geo x.2; (b, p)
  onField s f fun fs env => (pages.filter fun p => s.localChan env.cfg.wide p.1.chan == some c).foldl (fun fs p => beginRebuild fs env p.1 p.2) fs

/-- What the Field of a fenced channel does: open sets with a member there are closed with filler, latent blocks placed
elsewhere, every block of an exposed set due with WHY = 4, H recomputed, rebuild started (R410, R437). -/
def loseChannel (s : State) (f chan : Nat) : State :=
  if (s.field f).replaying ∨ s.fieldHeld f then updateHealth (updateHeadland (s.modField f (markExposed · chan)) f) f
  else
    let s := onField s f fun fs env =>
      let fs := fs.openSets.foldl (fun fs x => if x.members.any fun b => b.chan == chan then finishSet fs env x else fs) fs
      let gone := fs.pages.filter fun r => r.blk.chan == chan && !r.passed && !r.failed
      markExposed (gone.foldl (fun fs r => replaceMapUnits fs env r) (dropPages fs chan)) chan
    runField (updateHealth (updateHeadland (rebuildAsked s f chan) f) f) f

/-- Fence a channel (Table SAF-5): dies abandoned, queued reads served from parity, queued programs re-drilled, queued
erases dropped (R506). -/
def fenceChannel (s : State) (c : Nat) (latch : Bool) : State :=
  let s := (stopChannel s c).modChan c fun k =>
    { k with
      dies := k.dies.map fun d => { d with queue := [], todo := [] }
      fenced := true
      fenceLatched := latch
      swept := false
      zq := false }
  let s := settleRecipe s c
  match s.fieldOfChan c with
  | some f => loseChannel s f c
  | none => s

/-! ### Cipher engines (R57 to R60) -/

/-- An engine the dispatcher may choose. -/
def CipherState.available (e : CipherState) : Bool := !e.pending && !e.withdrawn && !e.fenced

/-- The engine R57 chooses: fewest queued blocks; among equals the first at or after the pointer; none is full (R58). -/
def chooseEngine (s : State) : Option Nat :=
  let n := s.engines.length
  ((List.range n).map fun k => (s.arb.dispPtr + k) % n).foldl (fun best i =>
    let e := s.engine i
    if e.available && decide (e.queue.length < 8) then
      match best with
      | none => some i
      | some b => if e.queue.length < (s.engine b).queue.length then some i else best
    else best) none

def noEngine (s : State) : Bool := s.engines.all fun e => !e.available

/-- No engine is available for a block (R60). The only engine of a Z1 in its sweep slot makes the block wait instead (R32). -/
def noneAvailable (s : State) : Bool :=
  noEngine s && !(s.member == .z1 && s.engines.all fun e => !e.fenced)

/-- Assign one block to the engine R57 chooses. The answer is false when every available queue is full (R58). -/
def dispatchJob (s : State) (j : BlockJob) : State × Bool :=
  match chooseEngine s with
  | none => (s, false)
  | some i =>
    let t := s.modEngine i fun e =>
      { e with queue := e.queue ++ [j], keyPlots := (j.key.plot :: e.keyPlots.filter (· != j.key.plot)).take 4 }
    (t.modArb fun a => { a with dispPtr := (i + 1) % s.engines.length }, true)

/-- Re-dispatch a block of a fenced engine (R59). While every other engine's queue is full it waits where it lies, to be
received again (R58). -/
def redispatch (s : State) (j : BlockJob) : State :=
  let (t, ok) := dispatchJob s j
  if ok then t
  else s.modTasks fun ts => ts.map fun t => if t.key == j.key && t.statusDue then { t with received := t.received.filter (· != j.idx) } else t

/-! ### Scopes -/

/-- Every Plot in the list that the layout presents enters Safelight: closed on both ports, keys cleared (R256, R331). An
Erased Plot stays Erased (DESIGN CHOICE, log 94). -/
def darkenPlots (s : State) (plots : List Nat) : State :=
  plots.foldl (fun s n =>
    if (s.plot n).mode = .absent ∨ (s.plot n).mode = .safelight ∨ (s.plot n).mode = .erased then clearKeys s [n]
    else
      let asked := (s.plot n).checks
      let s := asked.foldl (fun (s : State) c => answerVault s c.asker c.what.opcode 0x0010 0 []) s
      closePlot (s.modPlot n fun p => { p with checks := [] }) n .safelight 1) s

/-- The channels of a Field stop: all CE_N high, WP_N low. -/
def stopField (s : State) (f : Nat) : State :=
  match s.fieldCfg? f with
  | none => s
  | some c => c.chans.foldl stopChannel s

/-- Clear an engine's cached keys, counted when it held any (`CPH_CNT`). -/
def clearEngine (e : CipherState) : CipherState :=
  if e.keyPlots.isEmpty then e else { e with keyPlots := [], clears := count 0xFFFF e.clears }

/-- What a scope does to the outputs and the state when it is entered (Table SAF-5); nothing more when it is in force. -/
def applyScope (s : State) (code inst : Nat) (latch : Bool) : State :=
  match code with
  | 1 =>
    let q := (s.engine inst).queue
    let held := (s.engine inst).keyPlots
    let s := s.modEngine inst fun e =>
        { e with fenced := true, fenceLatched := latch, queue := [], pending := false, withdrawn := false, keyPlots := [],
                 clears := if held.isEmpty then e.clears else count 0xFFFF e.clears }
    q.foldl redispatch s
  | 2 => fenceChannel s inst latch
  | 3 =>
    let s := darkenPlots s [inst]
    (match s.plotCfg? inst with
     | some c => develop s c.field fun u => match u with | .unit p _ _ none => p == inst | _ => false
     | none => s)
  | 4 =>
    let s := stopField (darkenPlots s (s.plotsOf inst)) inst
    if ((s.fieldCfg? inst).map (·.wide)).getD false ∧ !s.isMaster then dropRemote s else s
  | 5 => detachPort s (if inst = 0 then .a else .b) 3
  | 6 =>
    let s := darkenPlots s s.plotList
    let s : State := { s with engines := s.engines.map clearEngine }
    (List.range s.chans.length).foldl stopChannel (dropRemote s)
  | 7 =>
    let s := dropRemote s
    (match s.layout with
     | some l => (l.fields.filter (·.wide)).foldl (fun s f => stopField (darkenPlots s (s.plotsOf f.inst)) f.inst) s
     | none => s)
  | _ => s

/-- The number of strikes an instance has after this fence (R113); 0 for scopes that fence nothing. -/
def strikesAfter (s : State) (code inst : Nat) : Nat :=
  if code = 1 then count 255 (s.engine inst).strikes
  else if code = 2 then count 255 (s.chan inst).strikes
  else 0

def addStrike (s : State) (code inst : Nat) : State :=
  if code = 1 then s.modEngine inst fun e => { e with strikes := count 255 e.strikes }
  else if code = 2 then s.modChan inst fun k => { k with strikes := count 255 k.strikes }
  else s

/-- Stack scope for a cause: one more active cause when it is in force already (R110). -/
def addStackScope (s : State) (cause : Nat) (latch : Bool) (island : Nat) (d0 d1 : Word) : State :=
  let active := s.stackScope
  let s := s.modSaf fun q => { q with scopes := q.scopes ++ [⟨7, 0, cause, latch, false, island, none⟩] }
  let s := logFault s cause 7 0xFFFF latch false 0 island 0xFF d0 d1
  if active then s else applyScope s 7 0 latch

/-- The master of a stack that enters device scope broadcasts SAFE, and every member, the master among them, enters stack
scope (R621). -/
def tellRing (s : State) (code cause : Nat) (latch : Bool) (island : Nat) (d0 d1 : Word) : State :=
  if code = 6 ∧ s.isMaster ∧ 1 < s.stk.count then
    addStackScope (ringBroadcast s 0x14 0 (leBytes 1 code ++ [0] ++ leBytes 2 cause)) cause latch island d0 d1
  else s

/-- One scope entered for a cause, unless a RECOVER is pending, which it waits for (R116): the record with its strikes, latch
and WIDER, `SAF_CAUSE` for device scope, the outputs, and STRIKE_LATCH at the strike limit (R97, R100, R113). -/
def enterOneScope (s : State) (cause code inst : Nat) (latch : Bool) (island requester : Nat) (d0 d1 : Word)
    (who : Option (Nat × Nat) := none) : State :=
  if s.saf.recPending.isSome then deferFault s ⟨0, cause, code, latch, false, false, 0, 0, island, requester, inst, d0, d1, 0⟩ true who
  else
  let active := s.inScope code (if code = 6 ∨ code = 7 then 0 else inst)
  let key := if code = 6 ∨ code = 7 then 0 else inst
  let wider := s.widerThan code inst
  let fence := (code = 1 ∨ code = 2) ∧ !active
  let strikes := if fence then strikesAfter s code inst else 0
  let s := if fence then addStrike s code inst else s
  let s := s.modSaf fun q => { q with
    scopes := q.scopes ++ [⟨code, key, cause, latch, wider, island, who⟩]
    causeCode := if code = 6 ∧ q.causeCode = 0 then cause else q.causeCode }
  let s := logFault s cause code (recInst code inst) latch wider strikes island requester d0 d1
  let s := if active then s else tellRing (applyScope s code key latch) code cause latch island d0 d1
  if fence ∧ s.saf.strikeLimit ≤ strikes then
    let s := s.modSaf fun q => { q with scopes := q.scopes ++ [⟨code, key, 0x00C1, true, wider, island, who⟩] }
    let s := if code = 1 then s.modEngine inst fun e => { e with fenceLatched := true } else s.modChan inst fun k => { k with fenceLatched := true }
    logFault s 0x00C1 code (recInst code inst) true wider strikes island requester (w32 inst) (w32 strikes)
  else s

/-- A fault whose scope stands is not entered again; while a RECOVER that may end the scope is pending, one such fault waits
for it (R116). -/
def State.stands (s : State) (p : Nat → Nat → Bool) : Bool :=
  if s.saf.recPending.isSome then s.saf.deferred.any fun d => d.enters && p d.record.cause d.record.inst
  else s.saf.scopes.any fun c => p c.cause c.inst

/-- No cipher engine is available for a block: `ARB_STAT`.NO_CIPHER and device scope (R60). -/
def noCipher (s : State) : State :=
  if s.arb.noCipher && s.stands fun c _ => c == 0x0032 then s
  else enterOneScope (s.modArb fun a => { a with noCipher := true }) 0x0032 6 0 (latchingCause 0x0032) 0xFF 0xFF 0 0

/-- Enter a scope. When the fence of the last engine leaves its queued blocks without an engine, R60 follows. -/
def enterScope (s : State) (cause code inst : Nat) (latch : Bool) (island requester : Nat) (d0 d1 : Word)
    (who : Option (Nat × Nat) := none) : State :=
  let blocks := decide (code = 1) && !(s.engine inst).queue.isEmpty
  let s := enterOneScope s cause code inst latch island requester d0 d1 who
  if blocks && noneAvailable s then noCipher s else s

/-- Device scope for a cause. -/
def enterDevice (s : State) (cause island requester : Nat) (d0 d1 : Word) : State :=
  enterScope s cause 6 0 (latchingCause cause) island requester d0 d1

/-- The Fields a Field-manager island manages. -/
def fieldsOfIsland (s : State) (i : Nat) : List Nat := s.fieldList.filter fun f => f / 4 == i

/-- The Fields or the device scope that one bank leads to (Table SAF-3, bank-island row). -/
def bankScope (s : State) (b : BankState) : List (Nat × Nat) :=
  let o := b.owner.toNat
  if b.owner == idPortA || b.owner == idPortB || b.owner == idStack || b.owner == idGranary || b.owner == idRecovery then [(6, 0)]
  else if (b.role = 1 ∨ b.role = 2 ∨ b.role = 3) ∧ b.field ≠ 0xFF then [(4, b.field)]
  else if b.role = 0 ∧ 0x83 ≤ o ∧ o ≤ 0x86 then (fieldsOfIsland s (o - 0x83)).map fun f => (4, f)
  else []

/-- The scopes of a faulty bank island. -/
def bankScopes (s : State) (i : Nat) : List (Nat × Nat) := (((s.banks.drop (16 * i)).take 16).flatMap (bankScope s)).dedup

/-- Scopes of an island fault (Table SAF-3): code, instance, whether it latches. Empty: logged only. -/
def islandScopes (s : State) (island : Nat) : List (Nat × Nat × Bool) :=
  match islandKind s.member island with
  | .channel c => if s.member = .z1 then [(6, 0, false)] else [(2, c, false)]
  | .cipher e => [(1, e, false)]
  | .bank i => (bankScopes s i).map fun x => (x.1, x.2, false)
  | .fm i => (fieldsOfIsland s i).map fun f => (4, f, false)
  | .port p => [(5, p.index, false)]
  | .stack => [(6, 0, false)]
  | .central => [(6, 0, true)]
  | .granary => [(6, 0, true)]
  | .alwaysOn => [(6, 0, true)]
  | .none => []

/-- The stack island's fault drops both links (Table SAF-3). -/
def dropLinks (s : State) : State :=
  s.modStk fun k => { k with
    up := { k.up with up := false, lock := 0, unacked := [], waiting := [] }
    dn := { k.dn with up := false, lock := 0, unacked := [], waiting := [] } }

/-- A fault of one island (R78): its scopes, or a record of scope 0 when no scope follows. -/
def islandFault (s : State) (cause island requester : Nat) (d0 d1 : Word) (who : Option (Nat × Nat) := none) : State :=
  let scopes := islandScopes s island
  let s := match islandKind s.member island with | .stack => dropLinks s | _ => s
  if scopes.isEmpty then logFault s cause 0 0xFFFF false false 0 island requester d0 d1
  else scopes.foldl (fun s x => enterScope s cause x.1 x.2.1 x.2.2 island requester d0 d1 who) s

/-- Engine scope; on a Z1 a failed echo check or envelope is device scope (Table GLB-10). -/
def engineFault (s : State) (cause e requester : Nat) (d0 d1 : Word) : State :=
  if s.member = .z1 then enterScope s cause 6 0 false (s.member.cipherIsland e) requester d0 d1
  else enterScope s cause 1 e false (s.member.cipherIsland e) requester d0 d1

/-- Channel scope; on a Z1 it is device scope (Table GLB-10). -/
def channelFault (s : State) (cause c requester : Nat) (d0 d1 : Word) : State :=
  if s.member = .z1 then enterScope s cause 6 0 false c requester d0 d1
  else enterScope s cause 2 c false c requester d0 d1

/-- Field scope (R70, R466, MPU_OVERLAP). -/
def fieldFault (s : State) (cause f requester : Nat) (island : Nat) (d0 d1 : Word) : State :=
  enterScope s cause 4 f false island requester d0 d1

end Sys2Proof.Machine
end

