-- ==== Sys2Proof/Machine/BankCore.lean ====
section
/-! DEFINITION. Bank words (R546 to R558): who passes the ownership check, what a port of a bank serves in which cycle, the
checks of one word and of a transfer of many, and the accesses the data path itself makes under its own identities. -/

namespace Sys2Proof.Machine

def bankBytes : Nat := 0x40000

/-- Bank space ends here (R546). -/
def State.bankLimit (s : State) : Nat := bankBytes * s.banks.length

/-! ### Ownership (R557) -/

/-- A channel engine that carries the Field's data, in the bank's own island (R15). -/
def State.agentChannel (s : State) (id : Identity) (b : Nat) : Bool :=
  let c := id.toNat
  decide (c < s.member.channels) && c / 8 == b / 16 && s.fieldOfChan c == some (s.bank b).field

/-- Table BNK-3. -/
def State.passesOwner (s : State) (id : Identity) (b : Nat) : Bool :=
  let k := s.bank b
  (k.owner == id && id != idNone) ||
  (k.role == 1 && (s.agentChannel id b || (decide (0x60 ≤ id.toNat) && decide (id.toNat < 0x60 + s.member.ciphers)) || id == idRecovery ||
    (id == idStack && ((s.fieldCfg? k.field).map (·.wide)).getD false))) ||
  ((k.role == 2 || k.role == 3) && (s.agentChannel id b || id == idRecovery))

/-- An identity that is no host's (R558). -/
def isInternal (id : Identity) : Bool := !isHostId id

/-! ### Ports of a bank (R548 to R551) -/

/-- The input a requester has on its port: 8 channel engines on the near port, 42 inputs on the far port in the order R548
names them. -/
def portInput (id : Identity) : Nat :=
  let n := id.toNat
  if n < 0x60 then n % 8
  else if n < 0x80 then n - 0x60
  else if 0x83 ≤ n ∧ n ≤ 0x86 then 32 + (n - 0x83)
  else if n < 0x83 then 36 + (n - 0x80)
  else if n ≤ 0x89 then 39 + (n - 0x87)
  else 0

def isNear (id : Identity) : Bool := decide (id.toNat < 0x60)
def portSize (near : Bool) : Nat := if near then 8 else 42

def BankState.port (k : BankState) (near : Bool) : BankPort := if near then k.near else k.far
def BankState.modPort (k : BankState) (near : Bool) (f : BankPort → BankPort) : BankState :=
  { k with near := if near then f k.near else k.near, far := if near then k.far else f k.far }

/-- The inputs a port serves, first to last, when some present an access in one cycle: each in turn from the rotating pointer
(R548). -/
def serveOrder (size ptr : Nat) (live : List Nat) : List Nat :=
  ((List.range size).map fun k => (ptr + k) % size).filter live.contains

/-- The port serves everything presented with this access: one a cycle, with BUSY to the rest, and the pointer past the last. -/
def BankPort.rotate (q : BankPort) (size : Nat) (live : List Nat) : BankPort :=
  { q with
    busy := satAdd 0xFFFF q.busy (live.length - 1)
    pointer := match (serveOrder size q.pointer live).getLast? with | some i => (i + 1) % size | none => q.pointer }

/-- In a same-word conflict of the two ports (Table BNK-1) the later port gets BUSY, has done nothing, and is the earlier one in
the next conflict for the word (R549, R550). -/
def BankState.conflict (k : BankState) (clash near earlier : Bool) (word : Nat) : BankState :=
  let late := if earlier then !near else near
  let k := k.modPort late fun q => if clash then { q with busy := count 0xFFFF q.busy, ahead := some word } else q
  k.modPort (!late) fun q => if clash ∧ q.ahead = some word then { q with ahead := none } else q

/-- Whether this port is the earlier one of a conflict: the one that last received BUSY for the word, else an open choice. -/
def BankState.earlier (k : BankState) (near : Bool) (word : Nat) (open_ : Bool) : Bool :=
  if (k.port near).ahead = some word then true
  else if (k.port (!near)).ahead = some word then false
  else open_

/-- One word access at its port. Which other inputs present an access in the same cycle, whether the other port meets the same
word, and which is then the earlier is open (log 54). -/
def portServe (s : State) (id : Identity) (b word : Nat) (read : Bool) : State :=
  let near := isNear id
  let size := portSize near
  let (n, s) := s.drawNat
  let (hit, s) := s.drawBool
  let (otherReads, s) := s.drawBool
  let (open_, s) := s.drawBool
  let live := (List.range size).filter fun i => i == portInput id || n.testBit i
  s.modBank b fun k =>
    let k := k.modPort near fun q => q.rotate size live
    k.conflict (hit && !(read && otherReads)) near (k.earlier near word open_) word

/-! ### One word -/

/-- An uncorrectable word or a request with wrong address parity (R554). -/
def bankError (s : State) (id : Identity) (addr : Nat) (parity : Bool) : State :=
  let b := addr / bankBytes
  let w := addr % bankBytes / 8
  let s := s.modBank b fun k => { k with ue := count 0xFFFF k.ue, ueWord := w, ueParity := parity, ueReq := id }
  islandFault s 0x0021 (s.member.bankIsland (b / 16)) id.toNat (w32 b) (w32 w)

/-- A refusal of a bank word: an internal requester's is also BANK_UE with its scope (R558). -/
def refuseWord (s : State) (id : Identity) (addr : Nat) : State :=
  if isInternal id then
    let b := addr / bankBytes
    islandFault s 0x0021 (s.member.bankIsland (b / 16)) id.toNat (w32 b) (w32 (addr % bankBytes / 8))
  else s

/-- How an access to bank words ends. -/
inductive BankEnd where
  | done | denied | uncorrectable | reserved
deriving DecidableEq, Repr

/-- The walls of R26 and the word's checks for one access of at most a word (R553 to R558, R561, R568, R569). A word
found uncorrectable before may read correctly when the fault lay in the read path. -/
def bankCheck (s : State) (id : Identity) (addr : Nat) (k : AccessKind) (bytes : Nat) (parityOk : Bool) : State × BankEnd :=
  let b := addr / bankBytes
  if s.bankLimit ≤ addr then (logRsvd s id addr (k != .read), .reserved)
  else if !s.passesOwner id b then (refuseWord (recordVio s id true addr k true false 0xFFFF bytes) id addr, .denied)
  else
    match s.mpuRefuses id true addr k with
    | some r => (refuseWord (recordVio s id true addr k false false r.index bytes) id addr, .denied)
    | none =>
      let scrubbing := (s.bank b).scrubbing
      let s := portServe s id b (addr % bankBytes / 8) (k == .read)
      let s := if scrubbing then
        let (n, s) := s.drawNat
        s.modBank b fun q => q.modPort (isNear id) fun p => { p with busy := satAdd 0xFFFF p.busy n }
        else s
      if !parityOk then (bankError s id addr true, .uncorrectable)
      else if s.bankBad.contains (addr / 8) ∧ !(k = .write ∧ bytes = 8) then
        let (again, s) := s.drawBool
        if again ∨ k ≠ .read then (bankError s id addr false, .uncorrectable) else (s, .done)
      else (s, .done)

def bankNat (s : State) (addr bytes : Nat) : Nat := leNat (cellRun 0 bytes addr s.bankMem)

def bankStore (s : State) (addr bytes value : Nat) : State := { s with bankMem := putCells 0 addr (leBytes bytes value) s.bankMem }

/-- Every word of a bank zero with a valid check (R561). -/
def zeroBank (s : State) (b : Nat) : State :=
  let lo := bankBytes * b
  { s with bankMem := dropRange lo (lo + bankBytes) s.bankMem, bankBad := s.bankBad.filter fun w => decide (8 * w < lo) || decide (lo + bankBytes ≤ 8 * w) }

/-! ### Transfers of the data path (R17, R18, R547, R558) -/

/-- The parts of an access that region boundaries cut and that regions refuse: first address, length and region (R568 to R570). -/
def State.deniedParts (s : State) (id : Identity) (lo bytes : Nat) (k : AccessKind) : List (Nat × Nat × Nat) :=
  (s.mpu.regions.filter fun r => r.enable && r.space && !r.allows id k && decide (r.base < lo + bytes) && decide (lo ≤ r.last)).map fun r =>
    let a := max lo r.base
    (a, min (lo + bytes) (r.last + 1) - a, r.index)

/-- A transfer of one of the block's own requesters within one bank: ownership, the MPU at each region boundary with a record
for each denied part (R570), the ports, and the words' checks; a whole word written is good again (R554). The answer says
whether all of it was done. -/
def bankTransfer (s : State) (id : Identity) (lo bytes : Nat) (k : AccessKind) : State × Bool :=
  let b := lo / bankBytes
  if !s.passesOwner id b then (refuseWord (recordVio s id true lo k true false 0xFFFF bytes) id lo, false)
  else
    match s.deniedParts id lo bytes k with
    | p :: ps =>
      let s := (p :: ps).foldl (fun (s : State) x => recordVio s id true x.1 k false (x.2.1 != bytes) x.2.2 x.2.1) s
      (refuseWord s id p.1, false)
    | [] =>
      let s := portServe s id b (lo % bankBytes / 8) (k == .read)
      if k = .write then ({ s with bankBad := s.bankBad.filter fun w => decide (8 * w < lo) || decide (lo + bytes ≤ 8 * w) }, true)
      else
        match s.bankBad.find? fun w => decide (lo ≤ 8 * w) && decide (8 * w < lo + bytes) with
        | none => (s, true)
        | some w =>
          let (again, s) := s.drawBool
          if again then (bankError s id (8 * w) false, false) else (s, true)

/-- The banks of a role that serve a Field, in one bank island or in any. -/
def State.banksFor (s : State) (role f : Nat) (island : Option Nat) : List Nat :=
  (List.range s.banks.length).filter fun b => (s.bank b).role == role && (s.bank b).field == f &&
    (match island with | some i => b / 16 == i | none => true)

/-- A transfer of the data path to or from a slot of one of the Field's banks of a role. Which bank and slot is open (R388,
log 16); with no such bank there is nothing to access. -/
def fieldTransfer (s : State) (id : Identity) (role f : Nat) (island : Option Nat) (bytes : Nat) (k : AccessKind) : State × Bool :=
  let banks := s.banksFor role f island
  if banks.isEmpty then (s, true)
  else
    let (n, s) := s.drawNat
    bankTransfer s id (bankBytes * banks.getD (n % banks.length) 0 + bytes * (n / banks.length % (bankBytes / bytes))) bytes k

/-- A staged block with its envelope. -/
def stagedBytes : Nat := 0x1020

/-- Slots of a staging bank. -/
def stageSlots : Nat := 63

/-- The staging slots that hold latent blocks of a Field (R378, R388), and first halves of records not accepted yet (R332). -/
def State.usedStages (s : State) (f : Nat) : List (Nat × Nat) :=
  (s.field f).entries.flatMap (·.stage) ++ (s.fn.tasks.filter fun t => s.fieldOf t.key.plot == some f).flatMap (·.staged)

/-- A free staging slot of a Field in a bank island, or in any: which of them is open (log 16). -/
def freeStagingSlot (s : State) (f : Nat) (island : Option Nat) : Option (Nat × Nat) × State :=
  let used := s.usedStages f
  let free := (s.banksFor 1 f island).flatMap fun b => ((List.range stageSlots).map fun k => (b, k)).filter (!used.contains ·)
  if free.isEmpty then (none, s)
  else
    let (n, s) := s.drawNat
    (free[n % free.length]?, s)

def stageAddr (x : Nat × Nat) : Nat := bankBytes * x.1 + stagedBytes * x.2

/-- What a staging slot holds of a block: ciphertext and envelope (R481). -/
def stageBlock (s : State) (x : Nat × Nat) (bytes : List Byte) : State :=
  { s with bankMem := putCells 0 (stageAddr x) (padTo 0 stagedBytes bytes) s.bankMem }

/-- A requester writes a block to a staging slot. Of a transfer that regions cut, the parts they permit are written and the others
dropped; of one that ownership refuses, nothing is (R557, R570). -/
def writeStage (s : State) (id : Identity) (x : Nat × Nat) (bytes : List Byte) : State × Bool :=
  let lo := stageAddr x
  let kept := (s.deniedParts id lo stagedBytes .write).foldl (fun m p => putCells 0 p.1 (cellRun 0 p.2.1 p.1 s.bankMem) m) (stageBlock s x bytes).bankMem
  let owner := s.passesOwner id (lo / bankBytes)
  let (s, ok) := bankTransfer s id lo stagedBytes .write
  (if owner then { s with bankMem := kept } else s, ok)

/-- A freed staging slot is zeroed before it is used again (R404 step 1). -/
def zeroStage (s : State) (x : Nat × Nat) : State :=
  { s with bankMem := dropRange (stageAddr x) (stageAddr x + stagedBytes) s.bankMem }

/-- A Field manager's access to the map cache of its Field: one segment of 512 entries. -/
def mapTransfer (s : State) (f : Nat) (k : AccessKind) : State × Bool := fieldTransfer s (idFm (f / 4)) 2 f none 0x1000 k

end Sys2Proof.Machine
end

