-- ==== Sys2Proof/Machine/ReadStart.lean ====
section
/-! DEFINITION. The medium reads of host commands: the lookup in the map cache (R377), the page reads of a granted read and
what stands in for them (Table GLB-6, R32, R64, R83, R414). -/

namespace Sys2Proof.Machine

/-- Look up the segment of a map unit: the Field manager's access to the map cache, and the lookup, which a refused access
does not make (R18, R377). The flag says that it was made. -/
def touchSegment (s : State) (f plot unit : Nat) (dirty : Bool) : State × Bool :=
  let (s, ok) := mapTransfer s f (if dirty then .write else .read)
  if ok then (askSegments (onField s f fun fs env => lookupSeg fs env plot (unit / 512) dirty) f, true) else (s, false)

/-- The map segments whose entries a passed page changes are dirty (R377). -/
def touchPage (s : State) (f : Nat) (o : DieOp) : State :=
  match (s.field f).page? o.blk o.page with
  | none => s
  | some r => r.slots.foldl (fun s u => match u with
      | .unit plot lba _ _ => if lba % max 1 (s.geo f).g = 0 then (touchSegment s f plot (lba / max 1 (s.geo f).g) true).1 else s
      | _ => s) s

/-- A unit of a wide Field on another position is fetched by READ_REQ; with no path the command ends with LINK_LOST (R599,
R613). -/
def readRemote (s : State) (t : Task) (lba pos addr : Nat) : State :=
  let (s, ok) := ringRequest s 0x37 pos (leBytes 6 addr ++ [1, 0]) none (.read t.key lba)
  if ok then s
  else match s.task? t.key with
    | some t => settleTasks (answerTask s t (.check (senseOf 0xB 0x08 0x00)) (s.partialAnswer t))
    | none => s

/-- Where the version of a block that a read returns lies on the medium: the copy the map names when that is the version, and
otherwise, for one overwritten or discarded since the horizon, the newest copy that still stands. Nothing for a block that is
unmapped, discarded or latent at the horizon (R41, R302, R374, R378). -/
def State.mediumAddr (s : State) (f : Nat) (t : Task) (i : Nat) : Option Nat :=
  let lba := t.lba + i
  let n := t.key.plot
  let g := max 1 (s.geo f).g
  let fs := s.field f
  let env := s.fenv f
  match s.versionOf n lba (t.horizon.getD 0) with
  | some e =>
    if e.hasData && e.passed then
      let named := match fs.mapEnt n (lba / g) with
        | some m => if !m.lost && (slotAt fs env (m.addr + lba % g)).bind slotOrder == some e.order then some (m.addr + lba % g) else none
        | none => none
      named.orElse fun _ => (copyAt fs n lba e.order).map fun x => unitAddr env.geo x.1 x.2.1 x.2.2
    else none
  | none => none

/-- Some version of the block holds data at the read's horizon. -/
def State.hasVersion (s : State) (t : Task) (i : Nat) : Bool :=
  match s.versionOf t.key.plot (t.lba + i) (t.horizon.getD 0) with | some e => e.hasData | none => false

/-- Offer the page read of one block: to its die, to another position, or as a rebuild while its channel is fenced or withdrawn
(R414, R506, Table SAF-4). It waits for its withdrawn channel where no rebuild can be made: on a Z1 (R32), and with another member
of the row lost (R83). -/
def offerBlock (s : State) (f : Nat) (t : Task) (i addr : Nat) (first : Bool) : State :=
  let env := s.fenv f
  let (b, page, slot) := addrPlace env.geo addr
  match s.localChan env.cfg.wide b.chan with
  | none =>
    if s.unusable env.cfg.wide b.chan then onField s f fun fs env => beginRebuild fs env b page
    else if first then readRemote s t (t.lba + i) (b.chan / 128) addr else s
  | some c =>
    let k := s.chan c
    if k.fenced then onField s f fun fs env => beginRebuild fs env b page
    else if k.swept ∨ k.zq then
      (if s.member = .z1 ∨ rowLost (s.field f) env b page then s else onField s f fun fs env => beginRebuild fs env b page)
    else queueOnce s env.cfg.wide (dieOp .hostRead b page slot 1 ((s.field f).blockRec b).slc)

/-- Look up one block of a read in the map: nothing while its segment is on its way (R377). A block that lies latent in a
staging slot is there at once (R378); one looked up keeps the address it was given then (R397). -/
def lookupBlock (s : State) (f : Nat) (t : Task) (i : Nat) : State × Option Nat :=
  let unit := (t.lba + i) / max 1 (s.geo f).g
  if segPending (s.field f) t.key.plot (unit / 512) then (s, none)
  else
    let (s, ok) := touchSegment s f t.key.plot unit false
    if !ok || segPending (s.field f) t.key.plot (unit / 512) then (s, none)
    else
      let a := s.mediumAddr f t i
      let here := a.isNone && s.hasVersion t i && !s.isLost t.key.plot (t.lba + i) (t.horizon.getD 0)
      (setTask s t.key fun t => { t with
        asked := t.asked ++ [(i, a.getD addrUnmapped)]
        ready := if here then i :: t.ready else t.ready }, a)

/-- Offer every page read a command still needs; blocks a write still owes wait (R42). -/
def offerRead (s : State) (t : Task) : State :=
  match s.fieldOf t.key.plot with
  | none => s
  | some f =>
    if s.fmPaused f then s
    else (s.wanted t).foldl (fun (s : State) i =>
      match s.task? t.key with
      | none => s
      | some t =>
        if t.accepted.contains i ∨ t.ready.contains i ∨ t.fails.any (·.1 == i) ∨ s.readHeld t.key.plot (t.lba + i) (t.horizon.getD 0) then s
        else match t.asked.find? (·.1 == i) with
          | some x => if x.2 = addrUnmapped then s else offerBlock s f t i x.2 false
          | none =>
            match lookupBlock s f t i with
            | (s, some a) => offerBlock s f t i a true
            | (s, none) => s) s

/-! ### READ_REQ at a member (R413, R613, Table STK-7) -/

/-- One unit of a member's page goes to the requester; what a unit holds that no ring block programmed is open (log 19). -/
def sendUnit (s : State) (r : MemberRead) (medium : Bool) (a : Nat) : State :=
  match s.stk.wide.find? fun w => w.addr == some a with
  | some w => sendPair s r.src r.tag w.key.order w.key.lba (bitOf medium 0) w.key.plot 0xFF w.key.env w.data
  | none =>
    let (data, s) := s.drawBytes 4096
    let (n, s) := s.drawNat
    sendPair s r.src r.tag n 0 (bitOf medium 0) 0 0xFF ⟨0, 0, n, 0, 0⟩ data

/-- Answer a READ_REQ with its BLK pairs, once its die has been read or cannot be: MEDIUM says that nothing came back. -/
def answerRead (s : State) (medium : Bool) (r : MemberRead) : State :=
  let s := s.modStk fun k => { k with reads := k.reads.filter (· != r) }
  (List.range r.nunit).foldl (fun (s : State) i => sendUnit s r medium (r.addr + i)) s

/-- The place of a READ_REQ's units, when they lie on this position. -/
def State.readPlace (s : State) (r : MemberRead) : Option (Nat × BlkId × Nat × Nat) :=
  match (s.fieldList.find? fun f => (s.geo f).chans.contains (r.addr / 2 ^ 34)) with
  | some f => some (f, addrPlace (s.geo f) r.addr)
  | none => none

/-- Offer the die read of a READ_REQ; units on a channel that is fenced or not this position's cannot be read. -/
def offerMemberRead (s : State) (r : MemberRead) : State :=
  match s.readPlace r with
  | none => answerRead s true r
  | some (f, b, page, slot) =>
    match s.localChan true b.chan with
    | none => answerRead s true r
    | some c => if (s.chan c).fenced then answerRead s true r
      else queueOnce s true (dieOp .hostRead b page slot r.nunit ((s.field f).blockRec b).slc)

/-- The READ_REQs whose units a die read of this page covers are answered. -/
def answerReads (s : State) (f : Nat) (b : BlkId) (page : Nat) (ok : Bool) : State :=
  (s.stk.reads.filter fun r => match s.readPlace r with | some (g, b', p, _) => g == f && b' == b && p == page | none => false).foldl
    (fun s r => answerRead s (!ok) r) s

/-- Offer the page reads of every read in flight again: what a full die queue, a write still to come or a slot held back (R42,
R64). -/
def offerReads (s : State) : State :=
  let s := (s.fn.tasks.filter fun t => isReadTask t && t.statusDue && !t.held).foldl (fun (s : State) t => offerRead s t) s
  let s := s.stk.reads.foldl (fun s r => offerMemberRead s r) s
  s.fieldList.foldl (fun s f => if (s.field f).rebuilds.isEmpty then s else askRebuilds s f) s

/-- Reads go on: blocks are looked up and their page reads offered, and what needs no medium is returned. -/
def serveReads (s : State) : State := advanceReads (offerReads s)

/-- Begin a granted read: its page reads, and at once what needs none (Table GLB-6, steps 2 and 3). -/
def startRead (s : State) (t : Task) : State :=
  let s := offerRead s t
  let s := match s.fieldOf t.key.plot with | some f => askRebuilds s f | none => s
  match s.task? t.key with
  | some t => advanceRead s t
  | none => s

end Sys2Proof.Machine
end

