-- ==== Sys2Proof/Machine/Recipe.lean ====
section
/-! DEFINITION. The channel engine's recipe sequencer (chapter "Channel engines and NAND recipes"): which operation an ENTER
starts, what each word does, faults, mode aborts and the end of an operation. A command names one executed word of the
operation that runs on a die, with what the die returned. -/

namespace Sys2Proof.Machine

/-- Entry points, Table LAY-14. -/
def entryOf (kind : OpKind) (slc : Bool) : Nat :=
  match kind with
  | .reset => 0 | .init => 1
  | .read => if slc then 6 else 2
  | .program => if slc then 7 else 3
  | .erase => 4 | .status => 5 | .zq => 8 | .retrySet => 9 | .suspend => 10 | .resume => 11

/-- The recipe an operation on a channel runs under: the set of the channel, or its old one for an operation that began
before a warm RECIPE change (R140). -/
def State.recipeOf (s : State) (c : Nat) (old : Bool) : Option RecipeCfg :=
  (s.chanCfg? c).bind fun k =>
    if old then s.lay.oldRecipes.find? (·.set == k.recipeSet) else s.layout.bind (·.recipe? k.recipeSet)

def RecipeCfg.entry? (r : RecipeCfg) (i : Nat) : Option Nat :=
  (r.entries[i]?).bind fun w => if w = 0xFFFF then none else some w

def opcodeOf (w : Word) : Nat := field w 27 5

/-- The word after the NEXT that closes the loop opened at `i` (R494). -/
def afterNext (code : List Word) : (fuel i depth : Nat) → Nat
  | 0, i, _ => i
  | fuel + 1, i, depth =>
    match code[i]? with
    | none => i
    | some w =>
      if opcodeOf w = 0x0A then afterNext code fuel (i + 1) (depth + 1)
      else if opcodeOf w = 0x0B then (if depth = 0 then i + 1 else afterNext code fuel (i + 1) (depth - 1))
      else afterNext code fuel (i + 1) depth

/-- A recipe word as Table CHN-4 reads it. DIN names its destination and register; what the die returns is no part of the word. -/
inductive RecWord where
  | end_ | next | fail
  | enter (tmo err : Nat)
  | cmd (byte : Byte) (wait : Bool) (busy : Nat) (last : Bool)
  | cmdl (notLast lastB : Byte) (level : Nat) (none wait waitLast : Bool) (busy : Nat) (last : Bool)
  | addr (kind : AddrKind) (last : Bool)
  | dout (src : DoutSrc) (last : Bool)
  | din (dst k : Nat) (colSel last : Bool)
  | wait (t : Nat) (last : Bool)
  | poll (byte : Byte) (busy : Nat) (lunAddr last : Bool)
  | test (mask : Byte) (sense : Bool) (target : Nat) (last : Bool)
  | loop (src : LoopSrc)
  | jump (target : Nat)
  | mode (iface : IfaceKind) (tmode : Nat) (last : Bool)
  | setv (k : Nat) (high : Bool) (value : BitVec 16) (last : Bool)
deriving DecidableEq, Repr

def addrKindOf (w : Word) : Option AddrKind :=
  match field w 0 3 with
  | 0 => some .col | 1 => some .row | 2 => some .colRow | 3 => some .lun
  | 4 => some (.imm (BitVec.ofNat 8 (field w 3 8)))
  | _ => none

def doutSrcOf (w : Word) : Option DoutSrc :=
  match field w 0 3 with
  | 0 => some .page | 1 => some (.v (field w 3 2)) | 2 => some .retryLo | 3 => some .retryHi | 4 => some .zero
  | _ => none

def loopSrcOf (w : Word) : Option LoopSrc :=
  match field w 0 3 with
  | 0 => some (.imm (field w 3 8)) | 1 => some .npl | 2 => some .nbit | 3 => some .nce | 4 => some (.v (field w 11 2))
  | _ => none

def ifaceOf (w : Word) : Option IfaceKind :=
  match field w 0 2 with
  | 0 => some .sdr | 1 => some .nvDdr3 | 2 => some .toggle
  | _ => none

/-- Decode one stored word (R488, Table CHN-4). -/
def decodeWord (w : Word) : Option RecWord :=
  let last := w.getLsbD 26
  let byte := fun (i : Nat) => BitVec.ofNat 8 (field w i 8)
  match opcodeOf w with
  | 0x00 => some .end_
  | 0x01 => some (.enter (field w 0 5) (field w 5 12))
  | 0x02 => some (.cmd (byte 0) (w.getLsbD 8) (field w 9 5) last)
  | 0x03 => some (.cmdl (byte 0) (byte 8) (field w 16 2) (w.getLsbD 18) (w.getLsbD 19) (w.getLsbD 20) (field w 21 5) last)
  | 0x04 => (addrKindOf w).map (.addr · last)
  | 0x05 => (doutSrcOf w).map (.dout · last)
  | 0x06 => if field w 0 3 ≤ 2 then some (.din (field w 0 3) (if field w 0 3 = 2 then field w 4 2 else 0) (w.getLsbD 3) last) else none
  | 0x07 => some (.wait (field w 0 5) last)
  | 0x08 => some (.poll (byte 0) (field w 8 5) (w.getLsbD 13) last)
  | 0x09 => some (.test (byte 0) (w.getLsbD 8) (field w 9 12) last)
  | 0x0A => (loopSrcOf w).map .loop
  | 0x0B => some .next
  | 0x0C => some (.jump (field w 0 12))
  | 0x0D => (ifaceOf w).map (.mode · (field w 4 4) last)
  | 0x0E => some (.setv (field w 0 2) (w.getLsbD 2) (BitVec.ofNat 16 (field w 3 16)) last)
  | 0x0F => some .fail
  | _ => none

def modRun (s : State) (c d : Nat) (f : RunOp → RunOp) : State :=
  s.modChan c fun k => k.modDie d fun x => { x with run := x.run.map f }

def State.runOp (s : State) (c d : Nat) : Option RunOp := ((s.chan c).dieAt d).run

/-- A pending RECOVER may return the channel: its engine runs RESET and INIT before the strip (R507). -/
def State.returning (s : State) (c : Nat) : Bool := match s.saf.recPending with | some r => r.targets.contains (2, c) | none => false

/-- The channel's outputs are parked, all CE_N high and WP_N low: unpopulated, fenced, stopped, in Field or device scope, stack
scope for a wide Field, after the seal of a hold-up, or while PWR_FAIL_N that fell in Dark stays low (R95, R166, R475, R480, Table
FIX-7). -/
def State.parked (s : State) (c : Nat) : Bool :=
  let k := s.chan c
  (k.fenced && !s.returning c) || k.stopped || s.hold.dark || (match s.chanCfg? c with | some g => g.ceMask == 0 | none => true) ||
    (match s.fieldOfChan c with | some f => s.fieldHeld f | none => s.deviceScope) || (s.hold.holding && s.hold.sealed)

/-- WP_N of a channel: high while it is active, in its slots too (R480). -/
def State.wpHigh (s : State) (c : Nat) : Bool := !s.parked c

/-- The engine may put cycles on the bus: not parked and not in a sweep slot (R80, R480). -/
def State.awake (s : State) (c : Nat) : Bool := !s.parked c && !(s.chan c).swept

/-- The die an operation addresses: its own, or inside a loop over CE ranks the one of the loop's rank (R494). -/
def RunOp.target (r : RunOp) (g : ChanCfg) (d : Nat) : Nat :=
  match r.loops.find? (·.src == .nce) with
  | some l => l.index * g.luns + d % max 1 g.luns
  | none => d

/-- The CE_N the engine drives low: that of the die whose bus phase runs; every other one is high (R478, R480). -/
def State.ceLow (s : State) (c : Nat) : Option Nat :=
  if s.awake c then (s.chan c).phase.bind fun d => (s.chanCfg? c).bind fun g => ceOf g (((s.runOp c d).map (·.target g d)).getD d) else none

/-! ### Choosing the next operation -/

/-- The first entry of the highest priority (R61). -/
def firstOf (q : List DieOp) (p : QPri) : Option DieOp := q.find? (·.pri == p)

def isRead (o : DieOp) : Bool := o.pri == .hostRead || o.pri == .internalRead

/-- R61: host reads, internal reads, programs, erases; after READ_BURST reads past a waiting program or erase, that one. -/
def chooseOp (q : List DieOp) (burst readBurst : Nat) : Option DieOp :=
  let work := (firstOf q .program).orElse fun _ => firstOf q .erase
  let read := (firstOf q .hostRead).orElse fun _ => firstOf q .internalRead
  match q.find? fun o => o.aborted || o.oldSet with
  | some o => some o
  | none =>
    match read, work with
    | some r, some w => if readBurst ≤ burst then some w else some r
    | some r, none => some r
    | none, w => w

/-- The blocks of entries lie on planes without a gap: plane offset i addresses BLOCK + i (R486). -/
def adjacent (ops : List DieOp) : Bool :=
  let bs := (ops.map (·.blk.block)).dedup
  decide (bs.foldl max 0 + 1 = bs.foldl min (bs.foldl max 0) + bs.length)

/-- An operation with the entries next after it that can join it, as many as lie on adjacent planes together. -/
def gather (o : DieOp) (rest : List DieOp) : (n : Nat) → List DieOp
  | 0 => [o]
  | n + 1 => if adjacent (o :: rest.take (n + 1)) then o :: rest.take (n + 1) else gather o rest n

/-- The programs or erases that run with it as one operation (R486): those next in the queue's order on adjacent planes of the
same block row at the same word line, and the further pages of the word line itself, as many as are released (log 60). -/
def combined (q : List DieOp) (o : DieOp) (planes bits : Nat) : List DieOp :=
  let line := fun (x : DieOp) => if x.slc || bits = 0 then x.page else x.page / bits
  let joins := fun (x : DieOp) => x.slc == o.slc && x.blk.block / max 1 planes == o.blk.block / max 1 planes && (o.pri == .erase || line x == line o)
  let rest := (((q.filter (·.pri == o.pri)).dropWhile (· != o)).drop 1).takeWhile joins
  if isRead o then [o] else gather o rest rest.length

def planesOf (ops : List DieOp) : Nat := ((ops.map (·.blk.block)).dedup).length

/-- The soft offsets of an LDPC code (Table CHN-2). -/
def softOffsets : Nat → List Int
  | 0 => [-4, 4]
  | 1 => [-6, 6]
  | 2 => [-8, -4, 4, 8]
  | _ => [-12, -8, -4, 4, 8, 12]

def State.ldpcOf (s : State) (c : Nat) : Nat := ((s.chanCfg? c).map (·.ldpc)).getD 0

/-- The read step an operation needs on a die, and the soft offset added to it (R416, R417, R484, R497). -/
def State.stepFor (s : State) (c : Nat) (o : DieOp) : Nat × Int :=
  match o.esc with
  | some e => (e.step, if e.stage = 2 ∨ e.stage = 4 then (softOffsets (s.ldpcOf c)).getD e.soft 0 else 0)
  | none =>
    match s.fieldOfChan c with
    | none => (0, 0)
    | some f => (firstStep (s.fenv f) ((s.field f).blockRec o.blk), 0)

/-- A threshold offset plus Δ, saturated to −128 to +127 (R484). -/
def addOffset (b : Byte) (d : Int) : Byte := BitVec.ofInt 8 (max (-128) (min 127 (b.toInt + d)))

/-- The 8 offset bytes of a read step: set k − 1, or zeros for step 0, each plus Δ (R497). -/
def offsetBytes (r : RecipeCfg) (step : Nat) (delta : Int) : List Byte :=
  (if step = 0 then List.replicate 8 0 else r.retry.getD (step - 1) []).map (addOffset · delta)

def newRun (kind : OpKind) (slc : Bool) (ops : List DieOp) (npl nbit : Nat) (retry : List Byte) (step : Nat) (delta : Int := 0) : RunOp :=
  { kind := kind
    entry := entryOf kind slc
    ops := ops
    npl := npl
    nbit := nbit
    rank := 0
    retry := retry
    retryStep := step
    retryDelta := delta
    entered := false
    word := 0
    last := 0
    fs := 0
    v := [0, 0, 0, 0]
    loops := []
    err := 0xFFF
    tmo := 0
    inError := false
    waiting := .none
    pollByte := 0x70
    pollLun := false
    sinceMode := 0
    lastPending := false
    decoded := []
    oldSet := false
    stopped := false
    again := false }

/-- Whether SUSPEND may run now on a die whose operation is array-busy with a read queued (R500). How long the operation has run
is timing: the ENTER of a SUSPEND comes when that condition holds (log 61). -/
def canSuspend (r : RecipeCfg) (d : DieState) : Bool :=
  match d.run with
  | some x =>
    (r.entry? 10).isSome && (r.entry? 11).isSome && d.susp.isNone && d.queue.any isRead && x.waiting != .none &&
    ((x.kind == .erase && decide (d.suspCount < 16)) || (x.kind == .program && decide (d.suspCount < 4)))
  | none => false

/-- Host commands wait on a channel (R353). -/
def hostWaits (k : ChanState) : Bool := k.dies.any fun d => d.queue.any fun o => o.rekey.isNone && (o.pri == .hostRead || o.pri == .program)

/-- Reads, rebuild reads and programs of a bulk re-key hold back while host commands wait and its share of the last 16
operations is used up (R353). -/
def State.pacedOut (s : State) (c : Nat) (o : DieOp) : Bool :=
  match o.rekey with
  | some n => hostWaits (s.chan c) && decide ((s.plot n).pace + 1 ≤ (s.chan c).pacedRekey)
  | none => false

/-- Count an operation into the window of 16 while host commands wait (R353; log 62). -/
def notePace (k : ChanState) (ops : List DieOp) : ChanState :=
  let mine := if ops.any (·.rekey.isSome) then 1 else 0
  if !hostWaits k then { k with paced := 0, pacedRekey := 0 }
  else if 15 ≤ k.paced then { k with paced := 0, pacedRekey := 0 }
  else { k with paced := k.paced + 1, pacedRekey := k.pacedRekey + mine }

/-- Some die of a channel still owes RESET or INIT: no other operation of the channel begins (R487, R496). -/
def owesReset (k : ChanState) : Bool := k.dies.any fun d => d.todo.any fun h => h == .reset || h == .init

/-- The operation an ENTER on this die starts, with the die after it has been taken: ZQ in its slot, housekeeping, SUSPEND or
RESUME, a read-retry load, or the choice of the die queue. An operation begun under the old set is suspended through the old set
(R140). -/
def nextOperation (s : State) (c d : Nat) (r : RecipeCfg) : Option (RunOp × DieState) :=
  let k := s.chan c
  let x := k.dieAt d
  let cfg := s.chanCfg? c
  let own := if (x.run.map (·.oldSet)).getD false then (s.recipeOf c true).getD r else r
  let mayRun := x.queue.filter fun o => !s.pacedOut c o
  if !k.zq && !owesReset k && canSuspend own { x with queue := mayRun } then some (newRun .suspend false [] 1 1 [] 0, { x with susp := x.run, run := none })
  else if x.run.isSome then none
  else if k.zq then
    match cfg with
    | some g => if d % g.luns = 0 ∧ d / g.luns = k.zqRanks ∧ (r.entry? 8).isSome
        then some ({ newRun .zq false [] 1 1 [] 0 with rank := d / g.luns }, x) else none
    | none => none
  else
    match x.todo, x.redo with
    | h :: t, _ =>
      let again := h == .reset && (x.redo.map (·.kind)) == some .reset
      some ({ newRun h false [] 1 1 [] 0 with oldSet := h == .status && (x.aside.map (·.oldSet)).getD false, again := again },
        { x with todo := t, redo := if again then none else x.redo })
    | [], some o => if owesReset k then none else
        some ({ newRun o.kind false [] o.npl o.nbit o.retry o.retryStep o.retryDelta with rank := o.rank, again := true, oldSet := o.oldSet }, { x with redo := none })
    | [], none =>
      if owesReset k then none
      else if x.susp.isSome ∧ (!(mayRun.any isRead) ∨ s.arb.readBurst ≤ x.readsInSusp) then
        some (newRun .resume false [] 1 1 [] 0, x)
      else
        let q := if x.susp.isSome then mayRun.filter isRead else mayRun
        match chooseOp q x.burst s.arb.readBurst with
        | none => none
        | some o =>
          let planes := (cfg.map (·.planes)).getD 1
          let bits := (cfg.map (·.bits)).getD 1
          let (step, delta) := s.stepFor c o
          if isRead o ∧ (x.step ≠ some step ∨ x.delta ≠ delta) ∧ (r.entry? 9).isSome then
            some (newRun .retrySet false [] 1 1 (offsetBytes r step delta) step delta, x)
          else
            let ops := combined q o planes bits
            let kind := match o.pri with | .program => OpKind.program | .erase => .erase | _ => .read
            let begun := if isRead o then ops.map fun y => { y with step := some step } else ops
            let x := { x with
              queue := x.queue.filter fun y => !ops.contains y
              readsInSusp := if isRead o then x.readsInSusp + 1 else 0 }
            some (newRun kind o.slc begun (planesOf ops) (if o.slc then 1 else bits) [] 0, x)

/-! ### Bus phases (R498) -/

/-- A die is ready for a bus phase: its operation goes on, or one can begin. -/
def State.dieReady (s : State) (c d : Nat) : Bool :=
  match ((s.chan c).dieAt d).run with
  | some r => r.entered && r.waiting == .none
  | none => match s.recipeOf c false with
    | some r => (nextOperation s c d r).isSome
    | none => false

/-- Dies ready for a bus phase, the longest ready first; among those ready since the same moment the lowest DIE (R498). -/
def State.readyDies (s : State) (c : Nat) : List Nat :=
  let old := (s.chan c).ready.filter (s.dieReady c)
  old ++ (List.range 16).filter fun d => s.dieReady c d && !old.contains d

/-- Note which dies are ready now. -/
def noteReady (s : State) (c : Nat) : State := s.modChan c fun k => { k with ready := s.readyDies c }

/-- An operation of the die is stopped by a slot (R80). -/
def State.dieStopped (s : State) (c d : Nat) : Bool := ((s.runOp c d).map (·.stopped)).getD false

/-- The bus serves a die's words: its phase runs, or the bus is free and of the dies not stopped it is the one ready longest
(R498). -/
def State.busFor (s : State) (c d : Nat) : Bool :=
  s.awake c && match (s.chan c).phase with
  | some x => x == d
  | none => (s.readyDies c).find? (fun x => !s.dieStopped c x) == some d

/-- A SUSPEND, which an array-busy die begins, takes a free bus when it is due (log 61). -/
def State.suspendFor (s : State) (c d : Nat) : Bool :=
  s.awake c && (s.chan c).phase.isNone && ((s.chan c).dieAt d).run.isSome && !s.dieStopped c d

/-- A bus phase begins or goes on, and ends. -/
def takeBus (s : State) (c d : Nat) : State := s.modChan c fun k => { k with phase := some d, ready := k.ready.filter (· != d) }
def freeBus (s : State) (c d : Nat) : State :=
  noteReady (s.modChan c fun k => if k.phase == some d then { k with phase := none } else k) c

/-! ### Ending an operation -/

/-- RECIPE_TIMEOUT: the channel is fenced (R493, R496, R197). -/
def recipeFence (s : State) (c word : Nat) : State := channelFault s 0x00B0 c 0xFF (w32 c) (w32 word)

/-- Blocks of a unit in the cipher engines for a bulk re-key. -/
def State.rekeyJob (s : State) (f n lba : Nat) : Bool :=
  s.engines.any fun e => e.queue.any fun j => j.kind == .rekey f && j.key.plot == n && j.lba == lba

/-- Hand the blocks of the units under re-key to the cipher engines: decryption once their pages are read, encryption once all are
decrypted (R350, R351). A block no engine has room for is offered again. -/
def rekeyDispatch (s : State) (f : Nat) : State :=
  (s.field f).rekeys.foldl (fun (s : State) x =>
    let todo := if x.toDecrypt.isEmpty then x.toEncrypt else x.toDecrypt
    if !x.pages.isEmpty ∨ todo.all (s.rekeyJob f x.plot) then s
    else if noneAvailable s then noCipher s
    else
      let dir := if x.toDecrypt.isEmpty then CipherDir.encrypt else .decrypt
      todo.foldl (fun (s : State) lba =>
        if s.rekeyJob f x.plot lba then s
        else
          let addr := ((x.parts.find? (·.1 == lba)).map (·.2)).getD 0
          let order := ((slotAt (s.field f) (s.fenv f) addr).bind slotOrder).getD 0
          match versionAt (s.field f).entries x.plot lba order with
          | some e => (dispatchJob s ⟨⟨.port .a, x.plot, 0⟩, 0, dir, .rekey f, lba, e.blockAt lba,
              ⟨x.plot, lba, order, e.stamp, crc32c (e.blockAt lba)⟩⟩).1
          | none => (dispatchJob s ⟨⟨.port .a, x.plot, 0⟩, 0, dir, .rekey f, lba, zeroBlock, ⟨x.plot, lba, order, 0, crc32c zeroBlock⟩⟩).1) s) s

/-- What a page read did so far: where the next READ of Table MED-2 goes, or how stages 1 to 4 ended. -/
inductive ReadNext where
  | again (e : Escalation)
  | ended (o : ReadOutcome)

/-- Stage 3 and 4: the next step to visit, then the soft decode of the best hard read, then stage 5. -/
def nextStep (e : Escalation) (loads : Bool) : ReadNext :=
  match e.todo with
  | k :: rest => .again { e with stage := 3, step := k, todo := rest }
  | [] =>
    if loads then .again { e with stage := 4, step := e.best.1, soft := 0 }
    else if e.best.2.2 then .ended ⟨4, some e.best.1, 0⟩
    else .ended ⟨5, none, 0⟩

/-- One READ has ended: the stage it belongs to, and what follows (Table MED-2, R484, R485). `nretry` is NRETRY, `nsoft` the soft
reads of the code, `loads` whether the set has RETRY_SET. -/
def escalate (esc : Option Escalation) (s0 nretry nsoft : Nat) (loads : Bool) (d : PageDecode) : ReadNext :=
  match esc with
  | none =>
    match d.hard with
    | some c => .ended ⟨1, some s0, c⟩
    | none =>
      let todo := (List.range (nretry - s0)).map (s0 + 1 + ·) ++ List.range s0
      let e : Escalation := ⟨2, s0, s0, 0, todo, (s0, d.checks, d.soft)⟩
      if loads then .again e else if d.soft then .ended ⟨2, some s0, 0⟩ else if nretry = 0 then .ended ⟨5, none, 0⟩ else nextStep e loads
  | some e =>
    if e.stage = 3 then
      match d.hard with
      | some _ => .ended ⟨3, some e.step, 0⟩
      | none => nextStep { e with best := if d.checks < e.best.2.1 then (e.step, d.checks, d.soft) else e.best } loads
    else if e.soft + 1 < nsoft then .again { e with soft := e.soft + 1 }
    else if d.soft then .ended ⟨e.stage, some e.step, 0⟩
    else if e.stage = 4 ∨ nretry = 0 then .ended ⟨5, none, 0⟩
    else nextStep e loads

/-- Something in the Field wants the data of a page, other than as a member of another page's rebuild: a read, a move, a merge, a
re-key, or the lookup of a map segment. -/
def wantsPage (fs : FieldState) (env : FEnv) (o : DieOp) : Bool :=
  (fs.segReads.any fun x => match x.addr with | some a => (match addrPlace env.geo a with | (b, p, _) => b == o.blk && p == o.page) | none => false) ||
  o.pri == .hostRead || fs.moves.any (fun m => (moveBlocks fs m.blk).contains o.blk) || fs.merges.any (fun m => m.blk == o.blk && m.page == o.page && !m.done) ||
    fs.rekeys.any fun x => x.pages.contains (o.blk, o.page)

/-- What a READ that ends with fail, or whose words bring no page in, gives: a hard decode that fails, worse than any other
(DESIGN CHOICE, log 82). -/
def noDecode : PageDecode := ⟨none, 2 ^ 32, false, 0⟩

/-- What a READ whose words bring its units in by several DIN PAGE gives as a whole. -/
def joinDecodes : List PageDecode → PageDecode
  | [] => noDecode
  | d :: ds => ds.foldl (fun a b =>
      ⟨match a.hard, b.hard with | some x, some y => some (max x y) | _, _ => none, a.checks + b.checks, a.soft && b.soft, max a.most b.most⟩) d

/-- A READ ends: the next one of its escalation goes to the head of the die queue, or the page has come, or its rebuild begins
(R417, R418, R432, R439). -/
def endRead (s : State) (c : Nat) (r : RunOp) (pass : Bool) : State :=
  match s.fieldOfChan c, r.ops.head? with
  | some f, some o =>
    let dec : PageDecode := if pass then joinDecodes r.decoded else noDecode
    let loads := match s.recipeOf c false with | some x => (x.entry? 9).isSome | none => false
    let soft := match o.esc with
      | some e => decide (e.stage ≠ 3) && decide ((softOffsets (s.ldpcOf c)).length ≤ e.soft + 1)
      | none => !loads && dec.hard.isNone
    let s := s.modChan c fun k => { k with
      corrMax := max k.corrMax (min 0xFF (max dec.most (dec.hard.getD 0)))
      soft := if soft then count 0xFFFF k.soft else k.soft }
    let s0 := (o.esc.map (·.s0)).getD (o.step.getD (firstStep (s.fenv f) ((s.field f).blockRec o.blk)))
    let s := onField s f fun fs env => countRead fs env o.blk
    let whole := decide (o.slot = 0) && decide ((s.geo f).u ≤ o.nunit)
    match escalate o.esc s0 (s.geo f).nretry (softOffsets (s.ldpcOf c)).length loads dec with
    | .again e => s.modChan c fun k => k.modDie o.blk.die fun x => { x with queue := { o with esc := some e } :: x.queue }
    | .ended out =>
      let ok := out.stage ≠ 5
      let s := onField s f fun fs env => noteRead fs env o.blk out
      let s := if whole then s.modField f fun fs => rebuildRead fs o.blk o.page ok else s
      let s := if s.manages f then s else answerReads s f o.blk o.page ok
      let s := if ok then pageArrived s f o.blk o.page o.slot o.nunit true
        else if wantsPage (s.field f) (s.fenv f) o then onField s f fun fs env => beginRebuild fs env o.blk o.page
        else s
      rekeyDispatch (serveReads (runField s f)) f
  | _, _ => s

/-- A member's page released by PAGE_REL is programmed, or failed: PAGE_DONE to the master (R600, R611). -/
def pageDoneOf (s : State) (f : Nat) (pass : Bool) (o : DieOp) : State :=
  let addr := unitAddr (s.geo f) o.blk o.page 0
  let here := fun (w : WideBlk) => match w.addr with | some a => decide (addr ≤ a) && decide (a < addr + (s.geo f).u) | none => false
  match s.stk.pageSeen.find? fun x => x.1 == addr && x.2.2.isNone with
  | none => s
  | some x =>
    let s := s.modStk fun k => { k with
      pageSeen := k.pageSeen.map fun y => if y = x then (x.1, x.2.1, some pass) else y
      tags := if pass then k.tags else k.tags.filter (·.1 != addr)
      wide := if pass then k.wide.map fun w => if here w then { w with passed := true } else w
              else k.wide.filter fun w => !here w }
    ringSend s 0x36 0 x.2.1 true (leBytes 6 addr ++ leBytes 1 (bitOf (!pass) 0) ++ [0])

/-- A member sends the records of blocks of a wide Field to the master (Table STK-7). -/
def brecOut (s : State) (f : Nat) (bs : List BlkId) : State :=
  ringSend s 0x42 0 0 false (bs.flatMap fun b => leBytes 6 (unitAddr (s.geo f) b 0 0) ++ recBytes ((s.field f).blockRec b) ++ [0, 0])

/-- A page of a member's block has been programmed: the block is open, and with its last page closed, which the master is told
(Table STK-7; log 112). -/
def memberPassed (s : State) (f : Nat) (o : DieOp) : State :=
  let full := decide ((if o.slc then (s.geo f).slcPages else (s.geo f).ppb) ≤ o.page + 1)
  let s := s.modField f fun fs => fs.modRec o.blk fun r =>
    { r with state := if full then 2 else 1, slc := o.slc, closeFix := if full then fs.fixcount else r.closeFix }
  if full then brecOut s f [o.blk] else s

/-- The block of a wide Field on this member is erased, or retired by a failed erase: what its pages held is gone, and the master
gets its record. -/
def sendBrec (s : State) (f : Nat) (b : BlkId) : State :=
  let addr := unitAddr (s.geo f) b 0 0
  let next := unitAddr (s.geo f) ⟨b.chan, b.die, b.block + 1⟩ 0 0
  let s := s.modStk fun k => { k with
    wide := k.wide.filter fun w => !(decide (addr ≤ w.addr.getD 0) && decide (w.addr.getD 0 < next) && w.addr.isSome)
    tags := k.tags.filter fun x => !(decide (addr ≤ x.1) && decide (x.1 < next))
    pageSeen := k.pageSeen.filter fun x => !(decide (addr ≤ x.1) && decide (x.1 < next)) }
  brecOut s f [b]

def endProgram (s : State) (c : Nat) (r : RunOp) (pass : Bool) : State :=
  match s.fieldOfChan c with
  | none => s
  | some f =>
    let s := if pass then s else s.modChan c fun k => { k with progFail := count 0xFFFF k.progFail }
    let s := r.ops.foldl (fun s o =>
      if pass then touchPage (onField s f fun fs env => pagePassed fs env o.blk o.page) f o
      else onField s f fun fs env => pageFailed fs env o.blk o.page) s
    if !s.manages f then r.ops.foldl (fun s o =>
      let s := pageDoneOf s f pass o
      if pass then memberPassed s f o else brecOut s f [o.blk]) s
    else serveReads (runField (if pass then s else updateHeadland s f) f)

def endErase (s : State) (c : Nat) (r : RunOp) (pass : Bool) : State :=
  match s.fieldOfChan c with
  | none => s
  | some f =>
    let s := if pass then s else s.modChan c fun k => { k with eraseFail := count 0xFFFF k.eraseFail }
    let s := r.ops.foldl (fun s o => s.modField f fun fs => if pass then blockErased fs o.blk else eraseFailed fs o.blk) s
    if !s.manages f then r.ops.foldl (fun s o => sendBrec s f o.blk) s
    else serveReads (runField (if pass then s else updateHeadland s f) f)

/-- An operation ends with pass or fail (R491). -/
def endOp (s : State) (c d : Nat) (pass : Bool) : State :=
  match s.runOp c d with
  | none => s
  | some r =>
    let s := s.modChan c fun k => k.modDie d fun x => { x with run := none }
    let s := match r.kind with
      | .read => endRead (s.modChan c fun k => k.modDie d fun x => { x with burst := if x.queue.any (fun o => !isRead o) then x.burst + 1 else 0 }) c r pass
      | .program => endProgram (s.modChan c fun k => k.modDie d fun x => { x with suspCount := 0, burst := 0 }) c r pass
      | .erase => endErase (s.modChan c fun k => k.modDie d fun x => { x with suspCount := 0, burst := 0 }) c r pass
      | .reset => if pass then s.modChan c fun k => k.modDie d fun x => { x with iface := 0, tmode := 0, step := none, delta := 0 } else recipeFence s c r.last
      | .init => if pass then s else recipeFence s c r.last
      | .status => s.modChan c fun k => k.modDie d fun x => { x with run := x.aside, aside := none }
      | .retrySet => s.modChan c fun k => k.modDie d fun x => { x with step := if pass then some r.retryStep else none, delta := if pass then r.retryDelta else 0 }
      | .zq => s.modChan c fun k =>
          if pass then { k with zqCycle := s.saf.cycle, zqCount := count 0xFF k.zqCount, zqFail := false } else { k with zqFail := true }
      | .suspend => s.modChan c fun k =>
          { k.modDie d (fun x => if pass then { x with suspCount := x.suspCount + 1, readsInSusp := 0 } else { x with run := x.susp, susp := none }) with
            suspends := count 0xFFFF k.suspends }
      | .resume => s.modChan c fun k => k.modDie d fun x => if pass then { x with run := x.susp, susp := none } else x
    freeBus (settleRecipe s c) c d

/-! ### Steps -/

/-- What a die owes after a mode abort: SDR mode 0, RESET and INIT, after a STATUS it is still at (R487, R496). -/
def abortedDie (x : DieState) : DieState :=
  { x with iface := 0, tmode := 0, step := none, delta := 0, todo := (if x.aside.isSome then [.status] else []) ++ [.reset, .init] }

/-- Dies of a channel that are populated. -/
def State.populated (s : State) (c : Nat) : Nat := ((s.chanCfg? c).map fun g => popcount g.ceMask * g.luns).getD 0

/-- Every populated die of a channel is in SDR mode 0 and owes RESET and INIT: first used at start, or on return from a fence
(R487). -/
def oweReset (s : State) (c : Nat) : State :=
  let n := s.populated c
  s.modChan c fun k =>
    let dies := ((List.range k.dies.length).zip k.dies).map fun p =>
      if p.1 < n then abortedDie { p.2 with aside := none, redo := none } else p.2
    { k with dies := dies }

/-- A fault in one of the two steps after a MODE (R496): the operation is abandoned and runs again once; every populated die goes
to SDR mode 0 and owes RESET and INIT. An aborted RESET runs again as the RESET its die owes. -/
def modeAbort (s : State) (c d : Nat) (r : RunOp) : State :=
  let s := s.modChan c fun k => { k with aborts := count 0xFFFF k.aborts, faultKind := 3 }
  if r.kind = .init ∨ r.again ∨ r.ops.any (·.aborted) then recipeFence s c r.last
  else
    let n := s.populated c
    let again := r.ops.map fun o => { o with aborted := true, oldSet := r.oldSet }
    s.modChan c fun k => { k with phase := none, dies := ((List.range k.dies.length).zip k.dies).map fun p =>
      let x := if p.1 < n then abortedDie p.2 else p.2
      if p.1 = d then { x with run := none, redo := if r.ops = [] then some r else none, queue := again ++ x.queue } else x }

/-- A fault of the running operation (R491, R495). Inside the error branch it ends the operation, also right after a MODE (DESIGN
CHOICE, log 113). -/
def seqFault (s : State) (c d kind : Nat) : State :=
  match s.runOp c d with
  | none => s
  | some r =>
    if r.inError then endOp s c d false
    else
      let (iter, rem) := match r.loops.head? with | some l => (l.index, l.count - l.index - 1) | none => (0, 0)
      let s := s.modChan c fun k => { k with
        faultStep := r.last
        faultEntry := r.entry
        faultLevel := r.loops.length - 1
        faultInLoop := !r.loops.isEmpty
        faultKind := kind
        faultIter := iter
        faultRemain := rem
        faultDie := d }
      if 0 < r.sinceMode then modeAbort s c d r
      else if r.err = 0xFFF then endOp s c d false
      else modRun s c d fun r => { r with inError := true, loops := [], word := r.err }

def State.wordsOf (s : State) (c : Nat) (r : RunOp) : Nat := ((s.recipeOf c r.oldSet).map (·.code.length)).getD 0

/-- Complete a step (R490): end at LAST, else go to the next word; a step that would execute word WORDS is a fault. -/
def stepTo (s : State) (c d next : Nat) (last : Bool) : State :=
  match s.runOp c d with
  | none => s
  | some r =>
    let s := modRun s c d fun r => { r with sinceMode := r.sinceMode - 1, waiting := .none, lastPending := false }
    if last then endOp s c d (!r.inError)
    else
      let s := modRun s c d fun r => { r with word := next }
      if s.wordsOf c r ≤ next then seqFault (modRun s c d fun r => { r with last := next }) c d 2 else s

/-- The word an operation executes next, as the recipe of its channel holds it. -/
def State.wordAt (s : State) (c : Nat) (r : RunOp) : Option RecWord :=
  (s.recipeOf c r.oldSet).bind fun x => (x.code[r.word]?).bind decodeWord

/-- Run a word on a die: nothing unless an operation has been entered there, waits for nothing, the bus serves its die, and
the word is the one its recipe holds at the step it has reached (R488, R490; log 36). -/
def onStep (s : State) (c d : Nat) (w : RecWord) (f : State → RunOp → State) : State :=
  match s.runOp c d with
  | none => s
  | some r =>
    if s.busFor c d ∧ r.entered ∧ r.waiting = .none ∧ !r.stopped ∧ s.wordAt c r = some w then
      let s := modRun (takeBus s c d) c d fun r => { r with last := r.word }
      f s { r with last := r.word }
    else s

/-- Twice the channel island's present clock in MHz, the data rate it allows in MT/s: 25 MHz × CHN_MULT, divided in Dim (R206,
R477). -/
def State.chanRate (s : State) (c : Nat) : Nat :=
  let mult := ((s.layout.bind fun l => l.chnMult[c]?)).getD 0
  50 * mult / (if s.pwr.state = .dim then s.pwr.dimNow % 4 + 1 else 1)

/-- Note the interface, timing mode and data rate of a bus phase (`CHN_STAT`, R477). The rates of the ONFI modes are not
stated here: a free value (log 5). -/
def notePhase (s : State) (c d : Nat) (bus : List BusCycle) (transfer : Bool) : State :=
  let x := (s.chan c).dieAt d
  let rate := if x.iface = 2 then toggleRate x.tmode else Config.onfiRate x.iface x.tmode
  s.modChan c fun k => { k with
    bus := bus
    ifaceNow := x.iface
    tmodeNow := x.tmode
    rate := if transfer then min rate (s.chanRate c) % 2 ^ 11 else k.rate }

/-- The index of the innermost loop with this source (R494). -/
def loopIndex (r : RunOp) (src : LoopSrc) : Nat := ((r.loops.find? (·.src == src)).map (·.index)).getD 0

/-- Block, page and slot the address words name: the operation's, moved by the plane offset and the page offset (R486,
R494). -/
def placeOf (r : RunOp) : Nat × Nat × Nat :=
  match r.ops.head? with
  | some o =>
    let low := (r.ops.map (·.blk.block)).foldl min o.blk.block
    let first := (r.ops.map (·.page)).foldl min o.page
    (low + loopIndex r .npl, first + loopIndex r .nbit, if r.kind = .read then o.slot else 0)
  | none => (0, 0, 0)

/-- The row address of a page of a die's LUN. -/
def rowBytes (g : ChanCfg) (d block page : Nat) : List BusCycle :=
  (leBytes (rowCycles g) (rowAddr g (d % max 1 g.luns) block page)).map .addr

def addrCycles (g : ChanCfg) (d : Nat) (r : RunOp) (kind : AddrKind) : List BusCycle :=
  let (block, page, slot) := placeOf r
  match kind with
  | .col => (leBytes 2 (unitColumn g slot)).map .addr
  | .row => rowBytes g d block page
  | .colRow => (leBytes 2 (unitColumn g slot)).map BusCycle.addr ++ rowBytes g d block page
  | .lun => rowBytes g d 0 0
  | .imm b => [.addr b]

def chanOr (s : State) (c : Nat) : ChanCfg := (s.chanCfg? c).getD ⟨0, 0, 1, 1, 4, 1, 0, 0, 0, 1, 1⟩

/-- Bytes of a page stream (R481). -/
def pageBytes (g : ChanCfg) : Nat := g.pageKib * 1024 + g.spare

/-- A trim unit: the entries of a discard, or of a Plot's map replaced, that share it (Table FIX-2); the places in its header
are the model's (log 58). -/
def trimImage (fs : FieldState) (f order part : Nat) : List Byte :=
  let es := fs.entries.filter fun e => !e.hasData && e.order == order && e.part == part
  leBytes 4 0x52544B5A ++ leBytes 1 f ++ leBytes 1 es.length ++ List.replicate 10 0 ++ es.flatMap fun e =>
    let whole := e.kind == .wholePlot
    leBytes 8 e.order ++ leBytes 5 (if whole then 0 else e.lba) ++ leBytes 4 (if whole then 0 else e.count) ++ leBytes 2 e.plot ++ leBytes 1 (bitOf whole 0)

/-- The 4,128 bytes of one unit before LDPC encoding: the ciphertext and envelope of a block, a unit of the map class stored in
the clear, or zeros for filler (R447, R481). -/
def unitContent (fs : FieldState) (f : Nat) (gen : Bool) : SlotUse → List Byte
  | .unit plot lba o _ => match versionAt fs.entries plot lba o with
      | some e => padTo 0 4128 (Config.sealedUnit plot lba e.order e.stamp gen (e.blockAt lba))
      | none => padTo 0 4128 (Config.sealedUnit plot lba o 0 gen zeroBlock)
  | .trim o part => padTo 0 4128 (trimImage fs f o part)
  | .mapSegment _ _ image => padTo 0 4128 image
  | .fixPage _ _ image => padTo 0 4128 image
  | _ => List.replicate 4128 0

def xorBytes (a b : List Byte) : List Byte := (a.zip b).map fun x => x.1 ^^^ x.2

/-- The data, envelopes and tag of a page before LDPC encoding: each unit, and the tag. Filler pages are all zero but for their
tag; what a parity page holds is the XOR over its row (R413, R481). -/
def pageContent (fs : FieldState) (env : FEnv) (r : PageRec) : List (List Byte) × List Byte :=
  let gen := (fs.blockRec r.blk).gen
  let zero : List (List Byte) := List.replicate env.geo.u (List.replicate 4128 0)
  let tagOf := fun (x : PageRec) => if x.slots.all (· == .filler) then List.replicate 32 0 else tagBytes env.num x
  if r.slots.all (· == .parity) then
    (mates fs r.blk).foldl (fun (acc : List (List Byte) × List Byte) b =>
      match fs.page? b r.page with
      | some x => ((acc.1.zip (x.slots.map (unitContent fs env.num (fs.blockRec b).gen))).map fun p => xorBytes p.1 p.2, xorBytes acc.2 (tagOf x))
      | none => acc) (zero, List.replicate 32 0)
  else (r.slots.map (unitContent fs env.num gen), tagBytes env.num r)

/-- The page stream of R481: the units with their envelopes, the tag and PTAG after the first, each codeword's parity, and
0xFF. -/
def pageStream (fs : FieldState) (env : FEnv) (g : ChanCfg) (r : PageRec) : List Byte :=
  let (units, tag) := pageContent fs env r
  let ptag := if r.slots.all (· == .parity) then tagBytes env.num r else List.replicate 32 0
  let body := ((List.range units.length).zip units).flatMap fun x =>
    let info := if x.1 = 0 then x.2 ++ tag ++ ptag else x.2
    info ++ padTo 0 (ldpcParity g.ldpc) (Config.ldpcParityOf g.ldpc info)
  body.take (pageBytes g) ++ List.replicate (pageBytes g - body.length) 0xFF

/-- What the page stream of a member's page holds: the blocks the master had it stage (R611). The spec names no frame that
carries the XOR of a parity page, with its tag, or the units of the map class to another position: their content there is open
(log 91). A parity page carries its own tag in PTAG (R413). -/
def wideStream (s : State) (g : ChanCfg) (addr u : Nat) : List Byte :=
  let page := s.stk.tags.find? (·.1 == addr)
  let kind := (page.map (·.2.kind)).getD 2
  let own := match page with | some x => pageTagBytes x.2 | none => List.replicate 32 0
  let (tag, ptag) := if kind = 1 then (padTo 0 32 (Config.remoteUnit addr), own) else (own, List.replicate 32 0)
  let body := (List.range u).flatMap fun k =>
    let data := match s.stk.wide.find? fun w => w.addr == some (addr + k) with
      | some w => padTo 0 4128 (w.data ++ Config.envelopeBytes w.key.env.plot w.key.env.lba w.key.env.order w.key.env.stamp w.key.env.crc)
      | none => if kind = 0 ∨ kind = 2 then List.replicate 4128 0 else padTo 0 4128 (Config.remoteUnit (addr + k))
    let info := if k = 0 then data ++ tag ++ ptag else data
    info ++ padTo 0 (ldpcParity g.ldpc) (Config.ldpcParityOf g.ldpc info)
  body.take (pageBytes g) ++ List.replicate (pageBytes g - body.length) 0xFF

/-- The bytes of a DOUT word (Table CHN-4): the page stream, a register, the offset bytes of RETRY_SET, or zeros. -/
def doutBytes (s : State) (c : Nat) (r : RunOp) : DoutSrc → List Byte
  | .page =>
    let g := chanOr s c
    match s.fieldOfChan c, r.ops.head? with
    | some f, some o =>
      let (block, page, _) := placeOf r
      let b : BlkId := { o.blk with block := block }
      if !s.manages f then wideStream s g (unitAddr (s.geo f) b page 0) (s.geo f).u
      else match (s.field f).page? b page with
        | some p => pageStream (s.field f) (s.fenv f) g p
        | none => List.replicate (pageBytes g) 0xFF
    | _, _ => List.replicate (pageBytes g) 0xFF
  | .v k => leBytes 4 (r.v.getD k 0).toNat
  | .retryLo => slice r.retry 0 4
  | .retryHi => slice r.retry 4 4
  | .zero => List.replicate 4 0

/-- Bytes of the units a read brings in (R481, R482). -/
def unitBytes (g : ChanCfg) (slot n : Nat) : Nat := n * (4128 + ldpcParity g.ldpc) + (if slot = 0 ∧ n ≠ 0 then 64 else 0)

/-- The nanoseconds of a TIMING entry (Table LAY-13). -/
def timingNs (t : Nat) : Nat := (t % 2 ^ 14) * (match t / 2 ^ 14 % 4 with | 0 => 1 | 1 => 100 | 2 => 10000 | _ => 1000000)

def State.timing (s : State) (c : Nat) (r : RunOp) (i : Nat) : Nat :=
  (((s.recipeOf c r.oldSet).bind fun x => x.timing[i]?).map timingNs).getD 0

/-- The word waits for ready: after BUSY, or at once with index 31 (R492). -/
def beginPoll (s : State) (c d busy : Nat) (byte : Byte) (lun last : Bool) : State :=
  freeBus (modRun s c d fun r => { r with
    waiting := if busy = 31 then .poll else .busy
    pollByte := byte
    pollLun := lun
    lastPending := last }) c d

/-! ### The words -/

/-- The pages a program operation begins to write (R99). -/
def noteBegun (s : State) (c : Nat) (r : RunOp) : State :=
  match s.fieldOfChan c with
  | some f => if r.kind = .program then s.modField f fun fs => r.ops.foldl (fun fs o => fs.modPage o.blk o.page fun p => { p with begun := true }) fs else s
  | none => s

/-- ENTER (Table CHN-4): start the operation the engine chose, FS and V0 to V3 zero; RESUME of an operation begun under an
old recipe runs the old set's (R508). -/
def execEnter (ch die tmo err : Nat) (s : State) : Host.Outcome State Fault Refusal :=
  .next <|
    if !s.busFor ch die && !s.suspendFor ch die then s
    else
      match s.recipeOf ch false with
      | none => s
      | some r =>
        match nextOperation s ch die r with
        | none => s
        | some (run, x) =>
          let old := ((run.kind == .resume || run.kind == .suspend) && ((x.susp.map (·.oldSet)).getD false)) || run.oldSet || run.ops.any (·.oldSet)
          let set := if old then s.recipeOf ch true else some r
          match set.bind fun r => (r.entry? run.entry).bind fun w => if (r.code[w]?).bind decodeWord = some (.enter tmo err) then some w else none with
          | none => s
          | some w =>
            let run := { run with entered := true, word := w, last := w, tmo := tmo, err := err, oldSet := old }
            let s := if run.kind = .zq then s.modChan ch fun k => { k with zqRanks := k.zqRanks + 1 } else s
            let s := s.modChan ch fun k => { (notePace k run.ops).modDie die (fun _ => { x with run := some run }) with bus := [] }
            stepTo (noteBegun (takeBus s ch die) ch run) ch die (w + 1) false

/-- CMD: one command byte; with WAIT, poll until ready. -/
def execCmd (ch die : Nat) (byte : Byte) (wait : Bool) (busy : Nat) (last : Bool) (s : State) : Host.Outcome State Fault Refusal :=
  .next <| onStep s ch die (.cmd byte wait busy last) fun s r =>
    let s := notePhase s ch die [.cmd byte] false
    if wait then beginPoll s ch die busy (if 1 < (chanOr s ch).luns then 0x78 else 0x70) (decide (1 < (chanOr s ch).luns)) last
        else stepTo s ch die (r.word + 1) last

/-- CMDL: NOTLAST while the loop at LEVEL (0 the outermost) has iterations left, LASTB or nothing on its last one. -/
def execCmdl (ch die : Nat) (notLast lastB : Byte) (level : Nat) (none wait waitLast : Bool) (busy : Nat) (last : Bool) (s : State) :
    Host.Outcome State Fault Refusal :=
  .next <| onStep s ch die (.cmdl notLast lastB level none wait waitLast busy last) fun s r =>
    let loopLast := match r.loops.reverse[level]? with | some l => decide (l.count ≤ l.index + 1) | Option.none => true
    let bus := if loopLast then (if none then [] else [BusCycle.cmd lastB]) else [.cmd notLast]
    let s := notePhase s ch die bus false
    if (loopLast && waitLast) || (!loopLast && wait) then
        beginPoll s ch die busy (if 1 < (chanOr s ch).luns then 0x78 else 0x70) (decide (1 < (chanOr s ch).luns)) last
    else stepTo s ch die (r.word + 1) last

/-- ADDR: address cycles (R479). -/
def execAddr (ch die : Nat) (kind : AddrKind) (last : Bool) (s : State) : Host.Outcome State Fault Refusal :=
  .next <| onStep s ch die (.addr kind last) fun s r =>
    stepTo (notePhase s ch die (addrCycles (chanOr s ch) (r.target (chanOr s ch) die) r kind) false) ch die (r.word + 1) last

/-- DOUT: the page stream, a register, retry bytes or zeros. -/
def execDout (ch die : Nat) (src : DoutSrc) (last : Bool) (s : State) : Host.Outcome State Fault Refusal :=
  .next <| onStep s ch die (.dout src last) fun s r =>
    stepTo (notePhase s ch die [.dataOut (doutBytes s ch r src)] true) ch die (r.word + 1) last

/-- The word of a DIN: its destination without what the die returns. -/
def dinWord (dst : DinDst) (colSel last : Bool) : RecWord :=
  match dst with
  | .page _ => .din 0 0 colSel last
  | .status _ => .din 1 0 colSel last
  | .v k _ => .din 2 k colSel last

/-- DIN: units into the decoder, one status byte into FS, or four bytes into VK. -/
def execDin (ch die : Nat) (dst : DinDst) (colSel : Bool) (last : Bool) (s : State) : Host.Outcome State Fault Refusal :=
  .next <| onStep s ch die (dinWord dst colSel last) fun s r =>
    let g := chanOr s ch
    let (_, _, slot) := placeOf r
    let pre := if colSel then [BusCycle.cmd 0x05] ++ (leBytes 2 (unitColumn g slot)).map BusCycle.addr ++ [.cmd 0xE0] else []
    let units := (r.ops.head?.map (·.nunit)).getD 0
    let n := match dst with | .page _ => unitBytes g slot units | .status _ => 1 | .v _ _ => 4
    let s := notePhase s ch die (pre ++ [.dataIn n]) true
    let s := modRun s ch die fun r => match dst with
      | .page dec => { r with decoded := r.decoded ++ [dec] }
      | .status b => { r with fs := b }
      | .v k x => { r with v := r.v.set k x }
    stepTo s ch die (r.word + 1) last

/-- WAIT: at least the time of a TIMING entry; the step completes when it has elapsed. -/
def execWait (ch die : Nat) (t : Nat) (last : Bool) (s : State) : Host.Outcome State Fault Refusal :=
  .next <| onStep s ch die (.wait t last) fun s r =>
    let s := s.modChan ch fun k => { k with bus := [.wait (s.timing ch r t)] }
    freeBus (modRun s ch die fun r => { r with waiting := .time, lastPending := last }) ch die

/-- The status command of a poll, with the LUN's row address where it carries one (R492). -/
def pollCycles (g : ChanCfg) (die : Nat) (byte : Byte) (lun : Bool) : List BusCycle :=
  BusCycle.cmd byte :: (if lun then rowBytes g die 0 0 else [])

/-- A status byte arrives: FS takes it, and the step completes when bit 6 is 1 (R492). -/
def takeStatus (s : State) (ch die : Nat) (r : RunOp) (status : Byte) : State :=
  let s := s.modChan ch fun k => { k with bus := pollCycles (chanOr s ch) (r.target (chanOr s ch) die) r.pollByte r.pollLun ++ [.dataIn 1] }
  let s := modRun (takeBus s ch die) ch die fun r => { r with fs := status, waiting := .poll }
  if status.getLsbD 6 then stepTo s ch die (r.word + 1) r.lastPending else freeBus s ch die

/-- A die may poll: the bus is free (R492). -/
def State.busFree (s : State) (c : Nat) : Bool := s.awake c && (s.chan c).phase.isNone

/-- A WAIT has elapsed, or the BUSY time before a first poll: then the first status is read (R492), or, while another die's bus
phase runs, at a later poll (R498). -/
def execWaitElapsed (ch die : Nat) (status : Byte) (s : State) : Host.Outcome State Fault Refusal :=
  .next <|
    match s.runOp ch die with
    | none => s
    | some r =>
      if !s.awake ch ∨ r.stopped then s
      else match r.waiting with
        | .time => noteReady (stepTo s ch die (r.word + 1) r.lastPending) ch
        | .busy => if s.busFree ch then takeStatus s ch die r status else modRun s ch die fun r => { r with waiting := .poll }
        | _ => s

/-- POLL: first the BUSY time, then status every 1 µs (R492). -/
def execPoll (ch die : Nat) (byte : Byte) (busy : Nat) (lunAddr : Bool) (last : Bool) (s : State) : Host.Outcome State Fault Refusal :=
  .next <| onStep s ch die (.poll byte busy lunAddr last) fun s _ =>
    beginPoll (s.modChan ch fun k => { k with bus := [] }) ch die busy byte lunAddr last

/-- One status poll of a word that waits for ready. -/
def execStatusPoll (ch die : Nat) (status : Byte) (s : State) : Host.Outcome State Fault Refusal :=
  .next <|
    match s.runOp ch die with
    | none => s
    | some r => if s.busFree ch ∧ r.waiting = .poll ∧ !r.stopped then takeStatus s ch die r status else s

/-- Whether a loop's body holds a word: the words after its LOOP up to and including its NEXT (Table CHN-5). -/
def LoopFrame.holds (code : List Word) (l : LoopFrame) (i : Nat) : Bool := decide (l.word < i ∧ i < afterNext code code.length (l.word + 1) 0)

/-- A taken branch takes effect at once; it leaves the loops whose body does not hold its target (R490; DEDUCED, log 83). -/
def branchTo (s : State) (c d target : Nat) : State :=
  let s := match s.runOp c d with
    | some r =>
      let code := ((s.recipeOf c r.oldSet).map (·.code)).getD []
      modRun s c d fun r => { r with loops := r.loops.filter fun l => l.holds code target }
    | none => s
  stepTo s c d target false

/-- TEST: branch when any bit of FS under MASK is 1 (SENSE = 0) or is 0 (SENSE = 1); TARGET 0xFFF is a fault. -/
def execTest (ch die : Nat) (mask : Byte) (sense : Bool) (target : Nat) (last : Bool) (s : State) : Host.Outcome State Fault Refusal :=
  .next <| onStep s ch die (.test mask sense target last) fun s r =>
    let bits := (if sense then ~~~r.fs else r.fs) &&& mask
    if bits ≠ 0 then
      if target = 0xFFF then seqFault s ch die 1 else branchTo s ch die target
    else stepTo s ch die (r.word + 1) last

def loopCount (s : State) (ch : Nat) (r : RunOp) : LoopSrc → Nat
  | .imm n => n % 256
  | .npl => r.npl
  | .nbit => r.nbit
  | .nce => popcount (chanOr s ch).ceMask
  | .v k => (r.v.getD k 0).toNat % 256

/-- LOOP: opens a loop; a count of 0 skips its body (R494). -/
def execLoop (ch die : Nat) (src : LoopSrc) (s : State) : Host.Outcome State Fault Refusal :=
  .next <| onStep s ch die (.loop src) fun s r =>
    let n := loopCount s ch r src
    if n = 0 then
      let code := ((s.recipeOf ch r.oldSet).map (·.code)).getD []
      stepTo s ch die (afterNext code code.length (r.word + 1) 0) false
    else
      stepTo (modRun s ch die fun r => { r with loops := ⟨r.word, n, 0, src⟩ :: r.loops }) ch die (r.word + 1) false

/-- NEXT: repeats the innermost loop or leaves it after its last iteration. -/
def execNext (ch die : Nat) (s : State) : Host.Outcome State Fault Refusal :=
  .next <| onStep s ch die .next fun s r =>
    match r.loops with
    | [] => stepTo s ch die (r.word + 1) false
    | l :: rest =>
      if l.index + 1 < l.count then
        stepTo (modRun s ch die fun r => { r with loops := { l with index := l.index + 1 } :: rest }) ch die (l.word + 1) false
      else stepTo (modRun s ch die fun r => { r with loops := rest }) ch die (r.word + 1) false

/-- JUMP: continues at TARGET. -/
def execJump (ch die : Nat) (target : Nat) (s : State) : Host.Outcome State Fault Refusal :=
  .next <| onStep s ch die (.jump target) fun s _ => branchTo s ch die target

def ifaceCode : IfaceKind → Nat
  | .sdr => 0 | .nvDdr3 => 1 | .toggle => 2

/-- MODE: the engine's side of the die's interface; the next two steps are an abort window (R496). -/
def execMode (ch die : Nat) (iface : IfaceKind) (tmode : Nat) (last : Bool) (s : State) : Host.Outcome State Fault Refusal :=
  .next <| onStep s ch die (.mode iface tmode last) fun s r =>
    let s := s.modChan ch fun k => { k.modDie die (fun x => { x with iface := ifaceCode iface, tmode := tmode }) with bus := [] }
    stepTo (modRun s ch die fun r => { r with sinceMode := 3 }) ch die (r.word + 1) last

/-- SETV: VALUE into the low or high half of VK. -/
def execSetv (ch die : Nat) (k : Nat) (high : Bool) (value : BitVec 16) (last : Bool) (s : State) : Host.Outcome State Fault Refusal :=
  .next <| onStep s ch die (.setv k high value last) fun s r =>
    let old := (r.v.getD k 0).toNat
    let new := if high then value.toNat * 65536 + old % 65536 else old / 65536 * 65536 + value.toNat
    stepTo (modRun s ch die fun r => { r with v := r.v.set k (w32 new) }) ch die (r.word + 1) last

/-- FAIL: a fault (R491). -/
def execFail (ch die : Nat) (s : State) : Host.Outcome State Fault Refusal :=
  .next <| onStep s ch die .fail fun s _ => seqFault s ch die 2

/-- END: pass, unless the error branch has been entered (R491). -/
def execEnd (ch die : Nat) (s : State) : Host.Outcome State Fault Refusal :=
  .next <| onStep s ch die .end_ fun s r => endOp s ch die (!r.inError)

/-- The time since ENTER exceeds TMO: the channel is fenced with RECIPE_TIMEOUT naming the step that was running (R493). The
clock is paused in a sweep or ZQ slot, and while the operation is suspended. -/
def execRecipeTimeout (ch die : Nat) (s : State) : Host.Outcome State Fault Refusal :=
  .next <|
    match s.runOp ch die with
    | none => s
    | some r => if s.awake ch ∧ r.entered ∧ !r.stopped then recipeFence s ch r.last else s

end Sys2Proof.Machine
end

