-- ==== Sys2Proof/Machine/Tasks.lean ====
section
/-! DEFINITION. Commands that draw a ticket (Table ARB-2): what a write, read, flush, discard or SANITIZE gets and begins at
its grant, the endings of R53 and R54 when no ticket is free, and the commands BOT holds until one is. -/

namespace Sys2Proof.Machine

/-! ### Answers of commands that hold nothing -/

/-- End a command that draws nothing: status on the wire, or IO_RSP on the ring. -/
def replyScsi (s : State) (key : TaskKey) (st : ScsiStatus) (data : List Byte) : State :=
  match key.origin with
  | .port _ => sendScsi s key st data
  | .ring pos => ringSend s 0x31 pos key.tag true (ioRspBytes st 0)

def illegal (asc ascq : Nat) : ScsiStatus := .check (senseOf 5 asc ascq)
def notReady (asc ascq : Nat) : ScsiStatus := .check (senseOf 2 asc ascq)
def dataProtect (ascq : Nat) : ScsiStatus := .check (senseOf 7 0x27 ascq)

/-! ### Discards (R288, R403, R404) -/

/-- Add an extent to disjoint ones in ascending order: what overlaps or touches it becomes one with it. -/
def addExtent (d : Nat × Nat) : List (Nat × Nat) → List (Nat × Nat)
  | [] => [d]
  | x :: xs =>
    if d.1 + d.2 < x.1 then d :: x :: xs
    else if x.1 + x.2 < d.1 then x :: addExtent d xs
    else addExtent (min d.1 x.1, max (d.1 + d.2) (x.1 + x.2) - min d.1 x.1) xs

/-- The blocks a discard covers, as disjoint extents: a map unit that several descriptors cover fully together is covered fully
(R403). -/
def extentsOf (descs : List (Nat × Nat)) : List (Nat × Nat) := (descs.filter fun d => d.2 != 0).foldl (fun l d => addExtent d l) []

/-- Split one extent into the trim entry of the map units it covers fully and the blocks of those it covers partly. -/
def trimEntries (g plot order stamp lba count : Nat) : List Entry :=
  let first := ceilDiv lba g
  let stop := (lba + count) / g
  let part := fun (l : Nat) =>
    ({ plot := plot, lba := l, count := 1, kind := .block, order := order, stamp := stamp, crc := crc32c zeroBlock
       data := zeroBlock, name := [], present := true, part := 0, freed := none, rseq := none, passed := false } : Entry)
  if first < stop then
    let head := (List.range (first * g - lba)).map fun i => part (lba + i)
    let tail := (List.range (lba + count - stop * g)).map fun i => part (stop * g + i)
    ({ plot := plot, lba := first * g, count := (stop - first) * g, kind := .trim, order := order, stamp := stamp, crc := 0
       data := [], name := [], present := false, part := 0, freed := none, rseq := none, passed := false } : Entry) :: head ++ tail
  else (List.range count).map fun i => part (lba + i)

/-- Some block of a map unit is discarded. -/
def touchesUnit (env : FEnv) (descs : List (Nat × Nat)) (unit : Nat) : Bool :=
  let g := max 1 env.geo.g
  descs.any fun d => decide (unit * g < d.1 + d.2) && decide (d.1 < (unit + 1) * g)

/-- The physical blocks that hold a unit one of the extents touches, as the map names them (R404 step 2). -/
def touchedBlocks (fs : FieldState) (env : FEnv) (plot : Nat) (descs : List (Nat × Nat)) : List BlkId :=
  ((fs.map.filter fun m => m.plot == plot && !m.lost && touchesUnit env descs m.unit).flatMap fun m => (unitPages env m.addr).map (·.1)).dedup

/-- The physical blocks whose pages still to be programmed hold such a unit (R404 step 2). -/
def comingBlocks (fs : FieldState) (env : FEnv) (plot : Nat) (descs : List (Nat × Nat)) : List BlkId :=
  ((fs.pages.filter fun r => !r.passed && !r.failed && r.slots.any fun u => match u with
    | .unit p l _ _ => p == plot && touchesUnit env descs (l / max 1 env.geo.g)
    | _ => false).map (·.blk)).dedup

/-- The trim entries of a discard fill trim units of up to 204 (R451). -/
def numberTrims (es : List Entry) : List Entry :=
  let trims := es.filter (·.kind == .trim)
  es.map fun e => if e.kind = .trim then { e with part := trims.idxOf e / 204 } else e

/-- A discard's own entry covers all of a version's blocks. -/
def Entry.frees (d e : Entry) : Bool := e.hasData && !e.passed && e.rseq.isNone && e.freed.isNone && d.order != e.order &&
  d.covers e.plot e.lba && d.covers e.plot e.lastLba

/-- The versions still latent that a discard frees. -/
def freedBy (fs : FieldState) (es : List Entry) : List Entry := fs.entries.filter fun e => es.any (·.frees e)

/-- The staging slots of discarded blocks still latent are freed: the versions are carried by the discard from now on, and the
slots that pages not yet released hold for them, or for moved copies of units the discard covers fully, become filler (R289, R403;
log 55). -/
def freeLatent (fs : FieldState) (env : FEnv) (es : List Entry) : FieldState :=
  let g := max 1 env.geo.g
  let gone := freedBy fs es
  let order := (es.head?.map (·.order)).getD 0
  let whole := fun (p l o : Nat) => es.any fun e => e.kind == .trim && e.covers p (l / g * g) && e.covers p l && decide (o < e.order)
  let dead : SlotUse → Bool := fun u => match u with
    | .unit p l o none => gone.any (fun e => e.plot == p && decide (e.lba ≤ l) && decide (l ≤ e.lastLba) && e.order == o) || whole p l o
    | .unit p l o (some _) => whole p l o
    | _ => false
  { fs with
    entries := fs.entries.map fun e => if gone.contains e then { e with freed := some order, stage := [] } else e
    pages := fs.pages.map fun r => if r.rseq.isNone && !r.failed then { r with slots := r.slots.map fun u => if dead u then .filler else u } else r }

/-- Relocation source blocks that are not erased yet (R404 step 3). -/
def sourceBlocks (fs : FieldState) : List BlkId := (fs.fallow.map (·.1) ++ fs.moves.map (·.blk)).dedup

/-- A Field's discards are secure (Table LAY-15). -/
def State.secureField (s : State) (f : Nat) : Bool := match s.fieldCfg? f with | some c => c.discard == 1 | none => false

/-- The units of a trim entry become unmapped in the map cache; a refused access unmaps nothing (R18, R403). -/
def unmapTrim (s : State) (f : Nat) (e : Entry) : State :=
  if e.kind ≠ .trim then s
  else
    let (s, ok) := mapTransfer s f .write
    if ok then askSegments (onField s f fun fs env => let g := max 1 env.geo.g; fs.unmapUnits env e.plot (e.lba / g) ((e.lba + e.count) / g - 1)) f else s

/-- A discard is accepted: reads return zeros from its grant (R403, R451). In a secure Field the staging slots it frees are
zeroed at once (R404 step 1). -/
def applyDiscard (s : State) (f : Nat) (t : Task) : State :=
  let (stamp, s) := s.drawNat
  let es := numberTrims ((extentsOf t.descs).flatMap fun d => trimEntries (max 1 (s.geo f).g) t.key.plot (t.order.getD 0) stamp d.1 d.2)
  let s := if s.secureField f then ((freedBy (s.field f) es).flatMap (·.stage)).foldl zeroStage s else s
  let s := onField s f fun fs env => let fs := freeLatent fs env es; { fs with entries := fs.entries ++ es }
  es.foldl (fun s e => unmapTrim s f e) s

/-- The affected blocks of a secure discard are emptied under its ticket (R404). -/
def secureMoves (s : State) (f : Nat) (t : Task) (blocks : List BlkId) : State :=
  onField s f fun fs env =>
    let fs := fs.openSets.foldl (fun fs x => if x.members.any blocks.contains then finishSet fs env x else fs) fs
    let new := blocks.filter fun b => (fs.blockRec b).state == 2 && !fs.moves.any (·.blk == b)
    { fs with
      moves := fs.moves ++ new.map fun b => ⟨.secure, b, none, []⟩
      secure := fs.secure ++ [⟨t.key, t.order.getD 0, blocks⟩] }

/-- A granted discard: GOOD on acceptance (R288), as a FUA write when durable mode asked for it (R470), or after the last erase
in a Field of secure discards (R289, R404). -/
def beginDiscard (s : State) (f : Nat) (t : Task) : State :=
  let n := t.order.getD 0
  let named := touchedBlocks (s.field f) (s.fenv f) t.key.plot t.descs
  let secure := s.secureField f
  let s := applyDiscard s f t
  let s := if secure then
      secureMoves s f t (named ++ comingBlocks (s.field f) (s.fenv f) t.key.plot t.descs ++ sourceBlocks (s.field f)).dedup
    else if t.durable then s
    else answerTask s t .good []
  if t.durable then develop (s.modField f fun fs => { fs with waiters := fs.waiters ++ [⟨t.key, n, none⟩] }) f (below (n + 1))
  else runField s f

/-! ### Flushes (R286, R292, R449) -/

/-- A granted flush forces the development it covers, and with nothing outstanding writes no page (R390); with no number left
it waits for what was accepted before it and for every page released until its own development has ended. -/
def beginFlush (s : State) (f : Nat) (t : Task) : State :=
  match t.order with
  | some n =>
    if flushIdle (s.field f) (s.fenv f) n then answerTask s t .good []
    else develop (s.modField f fun fs => { fs with waiters := fs.waiters ++ [⟨t.key, n, none⟩] }) f (below n)
  | none =>
    let s := onField s f fun fs env => forceField (placeAll s.pwr.durable fs env) env anySlot
    runField (s.modField f fun fs => { fs with waiters := fs.waiters ++ [⟨t.key, fs.entries.length, some fs.rseqNext⟩] }) f

/-! ### Whole-Plot trim entries (R338, R452) -/

/-- The Field places nothing now: in a scope, in replay, or unreadable. -/
def State.fieldAway (s : State) (f : Nat) : Bool := s.fieldHeld f || (s.field f).replaying || (s.field f).unreadable

/-- The whole-Plot trim entry of an order number is placed in the latent window, at once or when the Field is back in service. -/
def trimPlot (s : State) (f n order : Nat) : State :=
  if s.fieldAway f then s.modPlot n fun p => { p with trimOwed := some order }
  else
    let e : Entry := ⟨n, 0, 0, .wholePlot, order, 0, 0, [], [], false, 0, none, none, false, [], false⟩
    runField (s.modField f fun fs => { fs with entries := fs.entries ++ [e] }) f

/-- The whole-Plot trim entries a Field owes are placed. -/
def trimOwed (s : State) (f : Nat) : State :=
  if s.fieldAway f then s
  else (s.plotsOf f).foldl (fun s n => match (s.plot n).trimOwed with
    | some o => trimPlot (s.modPlot n fun p => { p with trimOwed := none }) f n o
    | none => s) s

/-- The Plot's map is replaced by an empty map. -/
def clearMap (s : State) (n : Nat) : State :=
  match s.fieldOf n with
  | none => s
  | some f => runField (s.modField f (·.unmapPlot n)) f

/-- A Plot's keys are gone: its map is replaced by an empty map, with the whole-Plot trim entry of the order number given, and
what was written so far is mapped by no recovery (R338, R446, R452). -/
def emptyPlot (s : State) (n order : Nat) : State :=
  match s.fieldOf n with
  | none => s
  | some f => trimPlot (clearMap (s.modPlot n fun p => { p with eraseCut := order }) n) f n order

/-! ### Grants -/

/-- IO_RSP for a command of a member's host, sent with the number or horizon of its grant (R613). -/
def tellMember (s : State) (t : Task) (number : Nat) : State :=
  match t.key.origin with
  | .port _ => s
  | .ring pos => ringSend s 0x31 pos t.key.tag true (ioRspBytes .good number)

/-- A command of a Plot ends as not ready in Dark, after Dark or Off was commanded (R208, R210), and while a member of the wide
Field's DEVICES is in Dark (R620). -/
def State.plotDark (s : State) (n : Nat) : Bool :=
  s.pwr.state == .dark || s.pwr.xfer.isSome || s.hold.holding ||
  (match (s.plotCfg? n).bind fun c => s.fieldCfg? c.field with
   | some f => f.wide && f.devices.any s.stk.dark.contains
   | none => false)

/-- DATA PROTECT of Table FNC-12 for a write, UNMAP or SANITIZE to a Read-only Plot. -/
def State.protects (s : State) (n : Nat) (kind : TaskKind) : Option ScsiStatus :=
  if (s.plot n).mode ≠ .readOnly then none
  else if s.arb.ordEnd ∨ (s.plot n).roCause ≠ 2 then some (dataProtect 0x00)
  else if kind = .sanitize then none
  else some (dataProtect 0x07)

/-- The crypto-erase of a Plot is refused with its re-key counter at the end, or with no sector to spare (R347, R355 step 1). -/
def State.eraseBarred (s : State) (n : Nat) : Bool := (s.plot n).record.rekeys == counterMax || s.spareOut

/-- What a SANITIZE in progress (R290), R208, R355 and the Plot's state say to a command at its grant. -/
def State.grantRefusal (s : State) (t : Task) : Option ScsiStatus :=
  if (s.plot t.key.plot).sanitize.isSome then some (notReady 0x04 0x1B)
  else if s.plotDark t.key.plot then some (notReady 0x04 0x12)
  else if t.kind = .sanitize ∧ s.eraseBarred t.key.plot then some (.check (senseOf 3 0x31 0x03))
  else if t.kind = .write ∨ t.kind = .discard ∨ t.kind = .sanitize then s.protects t.key.plot t.kind
  else none

/-- R399: a write, or a discard of part of a map unit, granted while the Field has no space. -/
def State.noSpace (s : State) (f : Nat) (t : Task) : Bool :=
  let g := max 1 (s.geo f).g
  (s.field f).spaceOut && (t.kind == .write || (t.kind == .discard && t.descs.any fun d => d.1 % g != 0 || (d.1 + d.2) % g != 0))

/-- A granted command ends at once; its ticket returns. -/
def endGranted (s : State) (t : Task) (st : ScsiStatus) : State :=
  let s := match t.ticket with | some id => releaseTicket s id | none => s
  replyScsi s t.key st []

/-- A command granted with its ticket begins (Table ARB-2). -/
def beginTask (s : State) (t : Task) : State :=
  let t := { t with held := false, durable := s.asFua }
  match s.fieldOf t.key.plot, s.grantRefusal t with
  | none, _ => s
  | some _, some st => endGranted s t st
  | some f, none =>
    let add := fun (s : State) (t : Task) => s.modTasks fun ts => ts ++ [t]
    if t.kind = .read then
      let t := { t with horizon := some s.horizon }
      startRead (tellMember (add s t) t s.horizon) t
    else
      match issueOrder s with
      | some (n, s) =>
        let t := { t with order := some n, since := (s.field f).rseqNext }
        if s.noSpace f t then endGranted s t (dataProtect 0x07)
        else
        let s := add s t
        match t.kind with
        | .write => tellMember s t n
        | .flush => beginFlush s f t
        | .discard => beginDiscard s f t
        | .sanitize =>
          let s := s.modPlot t.key.plot fun p => { p with sanitize := some ⟨t.key, decide (t.mode = 1), n⟩ }
          trimPlot (if t.mode = 1 then answerTask s t .good [] else s) f t.key.plot n
        | _ => s
      | none => if t.kind = .flush then beginFlush (add s t) f t else add s t

/-- What a command that finds no ticket gets (R53, R54). -/
def noTicket (s : State) (t : Task) : State :=
  match t.key.origin, t.tr with
  | .ring pos, _ => ringSend s 0x31 pos t.key.tag true (ioRspBytes .busy 0)
  | .port _, some (.uas _ _) => sendScsi s t.key .taskSetFull []
  | .port _, some .bot => s.modTasks fun ts => ts ++ [{ t with held := true }]
  | .port p, none => respond s p (.credential t.key.plot) ⟨taskOpcode t.kind, t.fua, t.key.tag, 0, 0x0008, 1, []⟩

/-- How a command that finds no ticket ends at the arbiter (R53, R54). -/
def Task.noTicketEnd (t : Task) : GrantEnd :=
  match t.key.origin, t.tr with
  | .ring _, _ => .ringBusy
  | .port _, some (.uas _ _) => .taskSetFull
  | .port _, some .bot => .held
  | .port _, none => .capsuleBusy

/-- The order number a command draws at its grant: none for a read, for one that ends at once, and after the last number. -/
def State.grantOrder (s : State) (t : Task) : Option Nat :=
  if t.kind = .read ∨ (s.grantRefusal t).isSome ∨ (s.fieldOf t.key.plot).isNone then none else (issueOrder s).map (·.1)

/-- What a command that wins its tick gets (Table ARB-2). -/
def Task.grant (t : Task) (s : State) (id : Nat) : Grant :=
  ⟨t.key.origin.cls, s.grantOrder t, if t.kind = .read then some s.horizon else none, some id, .granted⟩

/-- A command wins its tick with a ticket: the grant is noted, the pointer moves to the input after its own, and it begins
(R33). -/
def grantTask (s : State) (t : Task) (id : Nat) : State := beginTask (noteGrant s (t.grant s id)) { t with ticket := some id }

/-- A command is presented to the arbiter: begun with a ticket of its class, or ended as R53 and R54 say. -/
def startTask (s : State) (t : Task) : State :=
  match drawTicket s t.key.origin.cls with
  | some (id, s) => grantTask s t id
  | none => if s.arb.lockstep then s
      else noTicket (noteGrant (countTsf s t.key.origin.cls) ⟨t.key.origin.cls, none, none, none, t.noTicketEnd⟩) t

/-- A new command of a kind with its transport. -/
def newTask (key : TaskKey) (tr : Option Transport) (kind : TaskKind) (lba count : Nat) (fua : Bool) : Task :=
  { key := key, tr := tr, kind := kind, lba := lba, count := count, fua := fua, order := none, horizon := none, ticket := none
    held := false, intake := false, durable := false, statusDue := true, aborted := false, asked := [], ready := [], received := []
    accepted := [], staged := [], descs := [], name := [], value := [], mode := 0, fails := [], since := 0 }

end Sys2Proof.Machine
end

