-- ==== Sys2Proof/Machine/Data.lean ====
section
/-! DEFINITION. Handshake watchdogs, the cipher engines' blocks (chapter "Order, tickets and shared instances"), recorded fix points
and the dose tick. -/

namespace Sys2Proof.Machine

/-- The head of an engine's queue leaves it. -/
def popEngine (s : State) (e : Nat) : State := s.modEngine e fun q => { q with queue := q.queue.drop 1 }

/-- The blocks of bulk re-keys an engine has room for now. -/
def offerRekeys (s : State) : State := s.fieldList.foldl (fun s f => if (s.field f).rekeys.isEmpty then s else rekeyDispatch s f) s

/-- The transfer of a requester whose handshake ran out is dropped, and what it carried is not committed (R65): the block at the
head of a cipher engine is handed to an engine again later, and an operation whose bus phase runs begins again from its die's
queue (log 72). -/
def dropTransfer (s : State) (island : Nat) : State :=
  match islandKind s.member island with
  | .cipher e =>
    match (s.engine e).queue.head? with
    | none => s
    | some j =>
      let s := popEngine s e
      match j.kind with
      | .rekey _ => s
      | _ => setTask s j.key fun t => { t with received := t.received.filter (· != j.idx) }
  | .channel c =>
    match (s.chan c).phase with
    | none => s
    | some d =>
      match s.runOp c d with
      | none => s
      | some r => if r.ops.isEmpty then s
          else freeBus (s.modChan c fun k => k.modDie d fun x => { x with run := none, queue := r.ops ++ x.queue }) c d
  | _ => s

/-- A handshake watchdog fires (R65, R66): both islands are recorded, the requester drops its transfer and the responder is at
fault. -/
def execWatchdogExpiry (requester responder : Nat) (s : State) : Host.Outcome State Fault Refusal :=
  .next <|
    let s := s.modArb fun a => { a with wdogReq := requester % 256, wdogResp := responder % 256, wdogCount := count 0xFFFF a.wdogCount }
    offerRekeys (islandFault (dropTransfer s requester) 0x0030 responder 0xFF (w32 responder) (w32 requester))

/-! ### Blocks through the cipher engines -/

/-- A member sends an encrypted block of a wide Plot to the master, whose drill chooses its place; without a path the command
ends with LINK_LOST (R611, R613). -/
def sendToMaster (s : State) (t : Task) (j : BlockJob) : State :=
  if t.key.plot < 64 then s
  else
    let key : BlkKey := ⟨j.env.order, t.key.plot - 64, j.lba, j.env, crc32c j.data⟩
    let (s, ok) := ringRequest s 0x32 0 (headBytes j.env.order j.lba 0 (t.key.plot - 64) 0xFF 0 j.env) (some (0x33, j.data)) (.block key none)
    if ok then s else settleTasks (answerTask s t (.check (senseOf 0xB 0x08 0x00)) [])

/-- A logical block lies complete in endpoint memory (a write) or in a bank (a read), and the dispatcher assigns it to a
cipher engine (R57, R58, R60). A block of a read lies there once it has been looked up and its page has been read, it was
latent at the lookup, or it has come over the ring. -/
def execBlockReceived (key : TaskKey) (idx : Nat) (dir : CipherDir) (data : Block) (env : Envelope) (s : State) :
    Host.Outcome State Fault Refusal :=
  .next <| offerRekeys <|
    match s.task? key with
    | none => s
    | some t =>
      if t.aborted ∨ !t.statusDue ∨ t.held ∨ t.count ≤ idx ∨ t.received.contains idx then s
      else
        let lba := t.lba + idx
        let job : Option BlockJob :=
          match dir with
          | .encrypt =>
            if (t.kind = .write ∨ t.kind = .put) ∧ t.order.isSome then
              let data := if t.kind = .put then slice t.value (4096 * idx) 4096 else data
              some ⟨key, idx, .encrypt, .hostWrite, lba, data, ⟨key.plot, lba, t.order.getD 0, 0, crc32c data⟩⟩
            else none
          | .decrypt =>
            let h := t.horizon.getD 0
            if 64 ≤ key.plot then
              if isReadTask t ∧ !t.accepted.contains idx ∧ t.ready.contains idx then some ⟨key, idx, .decrypt, .hostRead, lba, data, env⟩ else none
            else if isReadTask t ∧ (s.wanted t).contains idx ∧ !t.accepted.contains idx ∧ t.ready.contains idx then
              if !t.asked.contains (idx, addrUnmapped) then some ⟨key, idx, .decrypt, .hostRead, lba, data, env⟩
              else (s.versionOf key.plot lba h).map fun e =>
                ⟨key, idx, .decrypt, .hostRead, lba, e.blockAt lba, ⟨key.plot, lba, e.order, e.stamp, crc32c (e.blockAt lba)⟩⟩
            else none
        match job with
        | none => s
        | some j =>
          if key.origin.isRing ∧ dir = .decrypt then forwardBlock s t j
          else if noneAvailable s then noCipher s
          else
            let (s, ok) := dispatchJob s j
            if ok then setTask s key fun t => { t with received := idx :: t.received } else s

/-- The version a block of a write makes when it is accepted: a PUT's record, or the block itself. -/
def versionOfJob (t : Task) (j : BlockJob) (stamp : Nat) : Entry :=
  let e : Entry :=
    { plot := t.key.plot, lba := j.lba, count := 1, kind := .block, order := t.order.getD 0, stamp := stamp, crc := j.env.crc
      data := j.data, name := [], present := true, part := 0, freed := none, rseq := none, passed := false }
  if t.kind = .put then { e with lba := t.lba, count := 2, kind := .record, data := t.value, name := t.name } else e

/-- A block is accepted: it has passed its echo check and lies in a bank (R19, R41), in the staging slots given. A Credential
record is accepted with its second half (R332). -/
def acceptBlock (s : State) (t : Task) (j : BlockJob) (stamp : Nat) (slots : List (Nat × Nat)) : State :=
  match s.fieldOf t.key.plot with
  | none => s
  | some f =>
    let half := t.kind = .put ∧ t.accepted.isEmpty
    let s := setTask s t.key fun t => { t with
      accepted := j.idx :: t.accepted
      staged := if half then t.staged ++ slots else []
      value := if t.kind = .put then t.value else [] }
    if half then s
    else s.modField f fun fs => { fs with entries := fs.entries ++ [{ versionOfJob t j stamp with stage := t.staged ++ slots }] }

/-- Every block of a write is accepted: GOOD (R19), or, with FUA or when durable mode asked for it at the grant, development
and the wait of R449 (R20, R470). -/
def finishWrite (s : State) (key : TaskKey) : State :=
  match s.task? key, s.fieldOf key.plot with
  | some t, some f =>
    if t.accepted.length < t.count then runField s f
    else if t.fua ∨ t.durable then
      let n := t.order.getD 0
      let s := s.modField f fun fs => { fs with waiters := fs.waiters ++ [⟨key, n, none⟩] }
      develop s f (below (n + 1))
    else runField (answerTask s t .good []) f
  | _, _ => s

/-! ### Staging slots (R15, R378, R388) -/

/-- The member block the drill fills with a version, were it accepted now: its channel decides the staging banks (R15). -/
def State.drillPlace (s : State) (f : Nat) (e : Entry) : Option BlkId :=
  let env := s.fenv f
  let fs := s.field f
  let fs := placeUnit { fs with entries := fs.entries ++ [e] } env e (e.lba / max 1 env.geo.g)
  (fs.pages.find? fun r => !r.failed && r.slots.any (carriesPart e e.lba)).map (·.blk)

/-- The bank island of a channel of a Field (R15); none for one on another position. -/
def State.islandOf (s : State) (f chan : Nat) : Option Nat := (s.localChan (s.fenv f).cfg.wide chan).map (· / 8)

/-- The bank island a version is staged in. -/
def State.stageIsland (s : State) (f : Nat) (e : Entry) : Option Nat := (s.drillPlace f e).bind fun b => s.islandOf f b.chan

/-- The staging banks of a version's island have a free slot for one more block: 63 slots a bank (R388). -/
def stagingFree (s : State) (f : Nat) (e : Entry) : Bool :=
  let island := s.stageIsland f e
  let banks := s.banksFor 1 f island
  let held := ((List.range 12).filter fun i => island.isNone || island == some i).map (latentIn (s.field f))
  banks.isEmpty || (decide (held.sum < stageSlots * banks.length) && (freeStagingSlot s f island).1.isSome)

/-- A requester writes a block, encrypted with its envelope, to a free staging slot of its version's island (R15, R388). The
answer is the slot, none where the Field has no staging bank there, and whether the access was made (R26). -/
def stageVersion (s : State) (id : Identity) (f : Nat) (e : Entry) (bytes : List Byte) : State × List (Nat × Nat) × Bool :=
  match freeStagingSlot s f (s.stageIsland f e) with
  | (none, s) => (s, [], true)
  | (some x, s) =>
    let (s, ok) := writeStage s id x bytes
    (s, if ok then [x] else [], ok)

def idCipher (engine : Nat) : Identity := BitVec.ofNat 8 (0x60 + engine)

/-- What a cipher engine stages of a block: ciphertext and envelope (R19, R481). -/
def sealedBytes (s : State) (j : BlockJob) (stamp : Nat) : List Byte :=
  Config.sealedUnit j.key.plot j.lba j.env.order stamp (s.plot j.key.plot).record.genBit j.data

/-- A cipher engine's read of a staged block: of its slot while it is latent, and otherwise of a slot in the island of the
channel its page came from (R15, R26, R63). The flag says that no part was refused. -/
def cipherRead (s : State) (f engine plot lba : Nat) (order addr : Option Nat) : State × Bool :=
  let latent := (s.field f).entries.find? fun e => e.plot == plot && e.hasData && decide (e.lba ≤ lba) && decide (lba ≤ e.lastLba) && some e.order == order
  match latent.bind fun e => e.stage[lba - e.lba]? with
  | some x => bankTransfer s (idCipher engine) (stageAddr x) stagedBytes .read
  | none => fieldTransfer s (idCipher engine) 1 f (addr.bind fun a => s.islandOf f (addrPlace (s.geo f) a).1.chan) stagedBytes .read

/-! ### Blocks of a bulk re-key (R350, R351) -/

/-- The units of a Plot under re-key, changed. -/
def modRekey (s : State) (f n : Nat) (g : RekeyUnit → RekeyUnit) : State :=
  s.modField f fun fs => { fs with rekeys := fs.rekeys.map fun x => if x.plot == n then g x else x }

/-- The order numbers of the parts: the halves of a record carry one (R351 step 1). -/
def rekeyAgrees (s : State) (f : Nat) (x : RekeyUnit) : Bool :=
  let cred := ((s.plotCfg? x.plot).map (·.credential)).getD false
  let num := fun (a : Nat) => ((slotAt (s.field f) (s.fenv f) a).bind slotOrder).getD 0
  !cred || x.parts.all fun p => x.parts.all fun q => p.1 / 2 != q.1 / 2 || num p.2 == num q.2

/-- Credential records encrypted anew carry the tag of the new key set (R332, R351). -/
def retag (s : State) (f n : Nat) (lbas : List Nat) : State :=
  s.modField f fun fs => { fs with entries := fs.entries.map fun e =>
    if e.plot = n ∧ e.kind = .record ∧ lbas.contains e.lba then { e with data := recordImage (s.keySet n) n (e.lba / 2) e.order (e.data.take 8176) } else e }

/-- The class the unit under re-key goes to (R379). -/
def rekeyClass (fs : FieldState) (env : FEnv) (x : RekeyUnit) : Nat :=
  match x.parts.head? with | some p => moveClass fs env .rekey x.plot (p.1 / env.geo.g) | none => 0

/-- The bank island its re-encrypted blocks are staged in: that of the channel the drill fills next for it (R15). -/
def rekeyIsland (s : State) (f n : Nat) : Option Nat :=
  let fs := s.field f
  let env := s.fenv f
  (fs.rekeys.find? (·.plot == n)).bind fun x =>
    ((nearestSet fs env (rekeyClass fs env x) (some (env.gen n))).bind fun y => y.members[y.member]?).bind fun b => s.islandOf f b.chan

/-- Every block of the unit has passed its echo check: all are placed in one step, in blocks of the new generation, with their
order numbers (R349 to R351). -/
def placeRekeyed (s : State) (f n : Nat) : State :=
  match (s.field f).rekeys.find? (·.plot == n) with
  | none => s
  | some x =>
    if !x.toEncrypt.isEmpty then s
    else
      let s := onField (retag s f n (x.parts.map (·.1))) f fun fs env =>
        let fs : FieldState := { fs with rekeys := fs.rekeys.filter (·.plot != n) }
        let cls := rekeyClass fs env x
        let use := x.parts.map fun p => SlotUse.unit n p.1 (((slotAt fs env p.2).bind slotOrder).getD 0) (some p.2)
        releaseAll (placeIn fs env cls false (some (env.gen n)) use) env
      serveReads (runField s f)

/-- The Field of a block a member reads for the master's Plots: the wide Field this member belongs to. -/
def State.memberField (s : State) : Option Nat :=
  match s.fieldList.filter fun f => ((s.fieldCfg? f).map (·.wide)).getD false with
  | [f] => some f
  | _ => none

/-- The scope of a failed envelope (R70): `page` is where its page was read, none for a block that came over the ring or from
a staging slot. Channel scope of a channel on another position is recorded and entered nowhere: no frame carries it there (log
95). -/
def envelopeFault (s : State) (engine : Nat) (j : BlockJob) (f : Option Nat) (page : Option Nat) (v : EnvVerdict) : State :=
  let d0 := w32 j.key.plot
  let d1 := w32 j.lba
  let id := 0x60 + engine
  match v with
  | .secondPasses => engineFault s 0x0011 engine id d0 d1
  | .rebuiltPasses =>
    match f.bind fun f => page.map fun a => ((addrPlace (s.geo f) a).1.chan, ((s.fieldCfg? f).map (·.wide)).getD false) with
    | some (chan, wide) =>
      (match s.localChan wide chan with
       | some c => channelFault s 0x0012 c id d0 d1
       | none => logFault s 0x0012 2 (chan % 128) false false 0 (chan % 128) id d0 d1)
    | none => logFault s 0x0012 2 0xFFFF false false 0 0xFF id d0 d1
  | .rebuiltFails =>
    match f.orElse fun _ => s.memberField with
    | some f => fieldFault s 0x0013 f id (s.member.fmIsland (f / 4)) d0 d1
    | none => logFault s 0x0013 4 0xFFFF false false 0 0xFF id d0 d1

/-- A cipher engine ends encrypting a block and its echo check (R21): accepted on a pass; on a failure nothing of it is
written, the engine is at fault and its queue is dispatched again (R59). A full staging bank holds the block back. A block whose
command has ended is dropped (R43). -/
def execEchoCheckDone (engine : Nat) (pass : Bool) (s : State) : Host.Outcome State Fault Refusal :=
  .next <| offerRekeys <|
    match (s.engine engine).queue.head? with
    | none => s
    | some j =>
      if j.dir ≠ .encrypt then s
      else if !pass then
        let s := s.modEngine engine fun e => { e with echoFail := count 0xFFFF e.echoFail }
        engineFault s 0x0010 engine (0x60 + engine) (w32 j.key.plot) (w32 j.lba)
      else
        match j.kind with
        | .rekey f =>
          let (s, ok) := fieldTransfer (popEngine s engine) (idCipher engine) 1 f (rekeyIsland s f j.key.plot) stagedBytes .write
          if !ok then s
          else placeRekeyed (modRekey s f j.key.plot fun x => { x with toEncrypt := x.toEncrypt.filter (· != j.lba) }) f j.key.plot
        | _ =>
          match s.task? j.key with
          | none => popEngine s engine
          | some t =>
            if t.aborted ∨ t.order ≠ some j.env.order then settleTasks (popEngine s engine)
            else
              match s.fieldOf j.key.plot with
              | none => sendToMaster (popEngine s engine) t j
              | some f =>
                let e := versionOfJob t j 0
                if !stagingFree s f e then s
                else
                  let (stamp, s) := s.drawNat
                  let (s, slots, ok) := stageVersion (popEngine s engine) (idCipher engine) f e (sealedBytes s j stamp)
                  if ok then serveReads (finishWrite (acceptBlock s t j stamp slots) j.key) else s

/-- A decrypted block of a bulk re-key: its envelope and its record's order numbers and tag are right, or it fails as under
R70 and its unit is given up for now (R351). -/
def rekeyDecrypted (s : State) (f engine : Nat) (j : BlockJob) (ok : Bool) (verdict : EnvVerdict) : State :=
  match (s.field f).rekeys.find? (·.plot == j.key.plot) with
  | none => s
  | some x =>
    let page := (x.parts.find? (·.1 == j.lba)).map (·.2)
    if !ok ∨ !rekeyAgrees s f x then
      envelopeFault (s.modField f fun fs => { fs with rekeys := fs.rekeys.filter (·.plot != j.key.plot) }) engine j (some f) page verdict
    else rekeyDispatch (modRekey s f j.key.plot fun x => { x with toDecrypt := x.toDecrypt.filter (· != j.lba) }) f

/-- A cipher engine ends decrypting a read block (R24): Plot, LBA, order number and CRC-32C against the request, then the
port's own CRC-32C. A failure withholds the block, is reported, and ends the command once the blocks before it are returned
(R298). -/
def execDecryptDone (engine : Nat) (tagOk : Bool) (verdict : EnvVerdict) (portCrcOk : Bool) (s : State) : Host.Outcome State Fault Refusal :=
  .next <| offerRekeys <|
    match (s.engine engine).queue.head? with
    | none => s
    | some j =>
      if j.dir ≠ .decrypt then s
      else
        let s := popEngine s engine
        match j.kind with
        | .rekey f =>
          let addr := (((s.field f).rekeys.find? (·.plot == j.key.plot)).bind fun x => x.parts.find? (·.1 == j.lba)).map (·.2)
          let (s, ok) := cipherRead s f engine j.key.plot j.lba none addr
          if ok then rekeyDecrypted s f engine j tagOk verdict else s
        | _ =>
          match s.task? j.key with
          | none => s
          | some t =>
            if t.aborted ∨ !t.statusDue then settleTasks s
            else
              let wide := decide (64 ≤ j.key.plot)
              let f := s.fieldOf j.key.plot
              let order := if wide then some (min j.env.order (t.horizon.getD 0))
                else (s.versionOf j.key.plot j.lba (t.horizon.getD 0)).map (·.order)
              let page := (t.asked.find? fun x => x.1 == j.idx && x.2 != addrUnmapped).map (·.2)
              let (s, readOk) := match f with | some f => cipherRead s f engine j.key.plot j.lba order page | none => (s, true)
              let ok := tagOk && j.env.plot == (if wide then j.key.plot - 64 else j.key.plot) && j.env.lba == j.lba &&
                  some j.env.order == order && j.env.crc == crc32c j.data
              let failed := fun (s : State) => settleTasks (failBlock s t.key j.idx (.check (senseAt 4 0x44 0x00 j.lba)))
              if !readOk then failed s
              else if !ok then envelopeFault (failed s) engine j f page verdict
              else if !portCrcOk then
                match j.key.origin with
                | .port p => serveReads (enterScope (failed s) 0x0014 5 p.index false (s.member.portIsland p.index) p.identity.toNat (w32 j.key.plot) (w32 j.lba))
                | .ring _ => failed s
              else
                let t := { t with accepted := j.idx :: t.accepted, value := if wide then j.data ++ t.value else t.value }
                advanceRead (setTask s t.key fun _ => t) t

/-! ### Fix points and the dose -/

/-- The contact-sheet entry of a fix point is written in both copies (R460): the fix point is recorded, its ticket returns,
and what waited for it may go on (R400, R458). Only a fix point whose pages have all passed gets there (R454). -/
def execFixPointRecorded (field : Nat) (s : State) : Host.Outcome State Fault Refusal :=
  .next <|
    match (s.field field).fix with
    | none => s
    | some run =>
      if !fixReady (s.field field) (s.fenv field) then s
      else
        let s := structWrite (s.modField field fun fs => recordFix fs run) (0x300 + field)
        let s := match run.ticket with | some id => releaseTicket s id | none => s
        runField (noteRekey s field) field

/-- A dose goes to the increment I, which saturates (R420, R422). -/
def addIncrement (fs : FieldState) (f : Nat) : FieldState :=
  { fs with doseI := doseAdd fs.doseI f, doseISat := fs.doseISat || decide (2 ^ 40 ≤ fs.doseI + f) }

/-- Each second of the reference counter (R420): f(T) to the dose increment of every Field, one second to E. -/
def execDoseTick (s : State) : Host.Outcome State Fault Refusal :=
  .next <|
    if s.pwr.state = .off then s
    else
      let f := doseCharge (s.pwr.tj / 4)
      { s with
        fields := s.fields.map fun fs => addIncrement fs f
        wall := { s.wall with e := s.wall.e + 1 } }

end Sys2Proof.Machine
end

