-- ==== Sys2Proof/Machine/Recovery.lean ====
section
/-! DEFINITION. Recovery of a Field (chapter "Sudden removal and recovery", Table FIX-6): what a Field loses when its
latent window goes, the floor the pages found give, the map rebuilt at that floor, and the fix point that ends replay. -/

namespace Sys2Proof.Machine

/-- What of a Field does not survive a removal: the latent window, moves, a fix point in progress, the map cache (R115,
R190). The pages released and not passed may be on the medium. -/
def dropVolatile (fs : FieldState) : FieldState :=
  { fs with
    pages := fs.pages.filter (·.rseq.isSome)
    gleaning := false
    hostWait := false
    spaceOut := false
    moves := []
    doomed := []
    needs := []
    rekeys := []
    rebuilds := []
    merges := []
    secure := []
    waiters := []
    fix := none
    segReads := []
    stage6 := []
    cache := []
    entries := fs.entries.map fun e => { e with stage := [] } }

def dropDies (k : ChanState) : ChanState :=
  let dies := k.dies.map fun d => { d with queue := [], run := none, susp := none, aside := none, redo := none, suspCount := 0, readsInSusp := 0, burst := 0 }
  { k with dies := dies, phase := none, ready := [], paced := 0, pacedRekey := 0 }

/-- The master of an enumerated stack asks every admitted member of a wide Field for its page tags (R616). -/
def scanField (s : State) (f : Nat) : State :=
  match s.fieldCfg? f with
  | none => s
  | some c =>
    if !c.wide ∨ !s.isMaster ∨ s.stk.state ≠ 2 then s
    else
      let n := ((s.field f).recorded.map (·.count)).getD 0
      (c.devices.filter fun p => p != s.ringPos && s.stk.members.any (·.1 == p) && !s.stk.absent.contains p).foldl
        (fun (s : State) p => (ringRequest s 0x43 p (leBytes 4 n ++ leBytes 4 0) none .other).1) s

/-- Begin the replay of a Field: tickets of its internal work return, its channels' queues are empty. -/
def beginReplay (s : State) (f : Nat) : State :=
  if !s.manages f then s
  else
    let fs := s.field f
    let ids := fs.moves.filterMap (·.ticket) ++ (match fs.fix with | some x => x.ticket.toList | none => [])
    let s := ids.foldl releaseTicket s
    let s := match s.fieldCfg? f with
      | some c => c.chans.foldl (fun (s : State) ch => settleRecipe (s.modChan ch dropDies) ch) s
      | none => s
    scanField (s.modField f fun fs => { dropVolatile fs with replaying := true }) f

/-! ### Found pages and the floor (R463, stage 4) -/

def firstRseq (fs : FieldState) : Nat := (fs.recorded.map (·.rseq0)).getD 0

/-- A page found: its program had begun, or the rest of its row gives it back, and recovery does not report it missing (R463). -/
def pageFound (fs : FieldState) (missing : List Nat) (r : PageRec) : Bool :=
  (r.passed || r.begun || rowPassed fs r) && match r.rseq with | some n => !missing.contains n | none => false

/-- The page of an RSEQ is found. -/
def foundAt (fs : FieldState) (missing : List Nat) (n : Nat) : Bool :=
  match fs.pages.find? (·.rseq == some n) with
  | some r => pageFound fs missing r
  | none => !missing.contains n

/-- A missing RSEQ counts as found when a later page of the same block is found (R463). -/
def toleratedAt (fs : FieldState) (missing : List Nat) (n : Nat) : Bool :=
  !foundAt fs missing n && match fs.pages.find? (·.rseq == some n) with
    | some r => fs.pages.any fun x => x.blk == r.blk && decide (r.page < x.page) && pageFound fs missing x
    | none => false

/-- The first RSEQ at or after `n` that is neither found nor tolerated. -/
def reach (fs : FieldState) (missing : List Nat) : (fuel n : Nat) → Nat
  | 0, n => n
  | fuel + 1, n => if foundAt fs missing n || toleratedAt fs missing n then reach fs missing fuel (n + 1) else n

/-- One more than R*. -/
def afterRstar (fs : FieldState) (missing : List Nat) : Nat :=
  reach fs missing (fs.rseqNext - firstRseq fs) (firstRseq fs)

/-- S*: the STAMP of page R*, or the fix point's FLOOR when no page is found; at least a seal's FLOOR. Stamps never
decrease, so the STAMP of page R* is the largest of the found pages up to it. -/
def replayFloor (fs : FieldState) (missing : List Nat) : Nat :=
  let stop := afterRstar fs missing
  let stamp := fs.pages.foldl (fun m r => match r.rseq with
    | some k => if firstRseq fs ≤ k ∧ k < stop ∧ pageFound fs missing r then max m r.stamp else m
    | none => m) ((fs.recorded.map (·.floor)).getD 0)
  max stamp (fs.sealFloor.getD 0)

/-! ### The map at the floor (stage 5) -/

/-- A copy of a map unit that recovery may map. -/
structure UnitCopy where
  plot : Nat
  unit : Nat
  order : Nat         -- the highest number of its blocks
  total : Nat         -- their sum: among copies of one highest number the one with the newer other blocks
  rank : Nat          -- among equal copies: a page that passed, then the one the fix point names
  addr : Nat
  lost : Bool
deriving DecidableEq, Repr

/-- The unit copies a page holds, but those that are invalid. -/
def copiesOf (fs : FieldState) (env : FEnv) (r : PageRec) (rank : Nat) (lost : Bool) : List UnitCopy :=
  let g := max 1 env.geo.g
  r.indexed.filterMap fun x => match x.2 with
    | .unit plot lba _ _ =>
      if lba % g = g - 1 ∧ !r.stale.contains x.1 then
        let addr := unitAddr env.geo r.blk r.page x.1 - lba % g
        let nums := copyNumbers fs env addr
        some ⟨plot, lba / g, nums.foldl max 0, nums.sum, rank, addr, lost⟩
      else none
    | _ => none

/-- The map as the recorded fix point's segments name it (Table FIX-6, stages 1 and 5). -/
def fixCopies (fs : FieldState) (env : FEnv) : List UnitCopy :=
  match fs.recorded with
  | none => []
  | some r => r.segs.flatMap fun x => match slotAt fs env x.2.2 with
    | some (.mapSegment _ _ image) => (List.range 512).filterMap fun (k : Nat) =>
        let a := leNat (slice image (32 + 6 * k) 6)
        if a = addrUnmapped then none
        else if a = addrLost then some ⟨x.1, 512 * x.2.1 + k, 0, 0, 2 ^ 66, a, true⟩
        else
          let nums := copyNumbers fs env a
          some ⟨x.1, 512 * x.2.1 + k, nums.foldl max 0, nums.sum, 2 ^ 66, a, false⟩
    | _ => []

/-- The tag of a page names the recorded fix point, or the one before it: what is released between the beginning of a fix
point and its record carries the earlier count (R447, stage 3; log 58). -/
def tagFits (fs : FieldState) (r : PageRec) : Bool :=
  match fs.recorded with
  | none => true
  | some p => r.fixcount == p.count || (r.fixcount + 1) % 2 ^ 32 == p.count

/-- Every unit copy the replay finds: the fix point's, and those of the pages from RSEQ0 to R* (stages 3 to 5). -/
def allCopies (fs : FieldState) (env : FEnv) (missing : List Nat) : List UnitCopy :=
  let r0 := firstRseq fs
  let stop := afterRstar fs missing
  fixCopies fs env ++ fs.pages.flatMap fun r => match r.rseq with
    | none => []
    | some k => if r0 ≤ k ∧ k < stop ∧ tagFits fs r then
        copiesOf fs env r ((if r.failed then 0 else 2 ^ 65) + (2 ^ 64 - 1 - k)) (!pageFound fs missing r) else []

def betterCopy (a b : UnitCopy) : Bool :=
  decide (b.order < a.order) || (a.order == b.order && (decide (b.total < a.total) || (a.total == b.total && decide (b.rank < a.rank))))

/-- Whether a discard at or below the floor comes after a copy of a unit (R453). -/
def trimmedAfter (fs : FieldState) (env : FEnv) (floor : Nat) (c : UnitCopy) : Bool :=
  let g := max 1 env.geo.g
  fs.entries.any fun e => !e.hasData && decide (e.order ≤ floor) && e.covers c.plot (c.unit * g) && e.covers c.plot (c.unit * g + g - 1) &&
    (decide (c.order < e.order) || (e.kind == .wholePlot && decide (c.order ≤ e.order)))

/-- The map recovery builds: for each unit of a keyed Plot the newest copy at or below the floor, if no discard comes after
it. A copy made under keys that a crypto-erase has replaced since is not mapped: the key record decides, whether or not the
erase's trim entry was lost (R446; `cut` is the highest number of each Plot's erased keys). -/
def replayMap (fs : FieldState) (env : FEnv) (missing : List Nat) (floor : Nat) (keyed : Nat → Bool) (cut : Nat → Nat) : List MapEnt :=
  let copies := (allCopies fs env missing).filter fun c => decide (c.order ≤ floor) && keyed c.plot && (c.lost || decide (cut c.plot < c.order))
  let units := (copies.map fun c => (c.plot, c.unit)).dedup
  units.filterMap fun u =>
    let best := (copies.filter fun c => c.plot == u.1 && c.unit == u.2).foldl (fun best c => match best with
      | none => some c
      | some b => if betterCopy c b then some c else best) (none : Option UnitCopy)
    match best with
    | none => none
    | some c =>
      if trimmedAfter fs env floor c then none
      else some ⟨c.plot, c.unit, if c.lost then addrLost else c.addr, c.lost⟩

/-- Units and trim entries above the floor on the pages found. -/
def aboveFloor (fs : FieldState) (missing : List Nat) (floor : Nat) : Nat :=
  (fs.pages.map fun r => match r.rseq with
    | some k => if firstRseq fs ≤ k ∧ pageFound fs missing r then
        (r.slots.filter fun u => match slotOrder u with | some o => decide (floor < o) | none => false).length else 0
    | none => 0).sum

def gapsTolerated (fs : FieldState) (missing : List Nat) : Nat :=
  ((List.range (afterRstar fs missing - firstRseq fs)).filter fun i => toleratedAt fs missing (firstRseq fs + i)).length

/-- The copies stage 5 did not map are invalid from now on, to every later recovery too (R464). -/
def discardCopies (env : FEnv) (map : List MapEnt) (r : PageRec) : PageRec :=
  let g := max 1 env.geo.g
  let kept := fun (x : Nat × SlotUse) => match x.2 with
    | .unit plot lba _ _ => map.any fun m => m.plot == plot && m.unit == lba / g && m.addr + lba % g == unitAddr env.geo r.blk r.page x.1
    | _ => true
  { r with stale := (r.indexed.filter fun x => !kept x).map (·.1) }

/-- The segments whose entries differ between two maps. -/
def changedSegs (old : List UnitCopy) (new : List MapEnt) : List (Nat × Nat) :=
  let gone := (old.filter fun c => !new.any fun m => m.plot == c.plot && m.unit == c.unit && m.addr == c.addr).map fun c => (c.plot, c.unit / 512)
  let come := (new.filter fun m => !old.any fun c => m.plot == c.plot && m.unit == c.unit && m.addr == c.addr).map fun m => (m.plot, m.unit / 512)
  (gone ++ come).dedup

/-- Stages 4 to 6 of Table FIX-6. -/
def replayField (fs : FieldState) (env : FEnv) (facts : ReplayFacts) (keyed : Nat → Bool) (cut : Nat → Nat) : FieldState :=
  let floor := replayFloor fs facts.missing
  let map := replayMap fs env facts.missing floor keyed cut
  let entries := (fs.entries.filter fun e => decide (e.order ≤ floor) && (!e.hasData || (keyed e.plot && decide (cut e.plot < e.order)))).map fun e =>
    { e with rseq := some (e.rseq.getD 0), passed := true, stage := [], again := false }
  let stop := afterRstar fs facts.missing
  let pages := (fs.pages.filter fun r => pageFound fs facts.missing r || r.passed || decide (r.rseq.getD stop < stop)).map fun r =>
    discardCopies env map (if pageFound fs facts.missing r then { r with passed := !r.failed } else { r with failed := !r.passed })
  let sets := (fs.sets.filter fun x => x.members.any fun b => pages.any (·.blk == b)).map fun x => { x with open_ := false }
  let blocks := fs.blocks.map fun x =>
    if x.2.state = 1 then
      (x.1, if fs.pages.any (fun r => r.blk == x.1 && (r.passed || r.begun)) then { x.2 with state := 2, closeFix := fs.fixcount } else { x.2 with state := 0 })
    else x
  { fs with
    map := map
    cache := (changedSegs (fixCopies fs env) map).map fun x => (x.1, x.2, true)
    heats := fs.heats.filter fun x => map.any fun m => m.plot == x.1 && m.unit == x.2.1
    entries := entries
    sets := sets
    blocks := blocks
    floor := floor
    replayPages := min 0xFFFF facts.pagesRead
    discarded := min 0xFFFF (aboveFloor fs facts.missing floor)
    gaps := min 0xFFFF (gapsTolerated fs facts.missing)
    replayMs := min 0xFFFF facts.timeMs
    pages := pages }

/-- Stage 7: the changed segments and a fix point are written and recorded, with the floor as its FLOOR (R454, R460). -/
def replayFix (fs : FieldState) (env : FEnv) (segments : List (Nat × Nat)) (wall : Nat) : FieldState :=
  let floor := fs.floor
  let program := fun (fs : FieldState) => fs.pages.foldl (fun fs r =>
      if r.rseq.isSome ∧ !r.passed ∧ !r.failed then pagePassed fs env r.blk r.page else fs) fs
  let fs := program (beginFix { fs with fix := none } env none)
  match fs.fix with
  | none => fs
  | some run =>
    let fs := program (writeFix fs env segments wall { run with point := { run.point with floor := floor } })
    match fs.fix with
    | some run => if run.written then recordFix fs run else { fs with fix := none }
    | none => fs

/-! ### The contact sheet (R461) -/

/-- The entry a recovery uses: the one with the highest SEQ that is valid in a copy; a seal needs the entry of its fix point
too. -/
def usedEntry (fs : FieldState) (bad : List Nat) : Option SheetEntry :=
  match fs.sheet.find? fun x => !bad.contains x.seq with
  | none => none
  | some x =>
    if !x.isSeal || x.fix.isNone || fs.sheet.any (fun y => !y.isSeal && y.fix == x.fix && !bad.contains y.seq) then some x else none

/-- Replay starts from the entry used. -/
def fromEntry (fs : FieldState) (x : SheetEntry) : FieldState :=
  { fs with recorded := x.fix, sealFloor := if x.isSeal then some x.floor else none }

/-- Stages 1 to 7 for a Field whose entry can be read (R462), under the class-3 ticket of its fix point (Table FLD-4). The exposed
sets of channels that are fenced become due (R426). -/
def recoverField (s : State) (f : Nat) (facts : ReplayFacts) : State :=
  let keyed := fun n => (s.plot n).record.keyed
  let cut := fun n => (s.plot n).eraseCut
  let s := onField s f fun fs env => replayField fs env facts keyed cut
  let segs := s.segments f
  let fix := fun (s : State) => structWrite (onField s f fun fs env => replayFix fs env segs s.wall.e) (0x300 + f)
  let s := match drawTicket s 3 with
    | some (id, s) => releaseTicket (fix (noteGrant s ⟨fieldInput f, none, none, some id, .granted⟩)) id
    | none => fix s
  let s := onField s f fun fs env => env.fenced.foldl markExposed { fs with replaying := false }
  settleTasks (trimOwed (runField (updateHealth (updateHeadland s f) f) f) f)

/-- A Field's recovery ends (R462, R464): the plain outcome of R444, or Field scope with ENV_MAP when its contact-sheet entry
or fix point cannot be read (R466). A bank access refused to the recovery engine leaves the Field in replay (R26). -/
def execFieldReplayDone (field : Nat) (facts : ReplayFacts) (s : State) : Host.Outcome State Fault Refusal :=
  .next <|
    let waits := s.stk.window && ((s.fieldCfg? field).map (·.wide)).getD false
    if !(s.field field).replaying ∨ waits then s
    else
      match usedEntry (s.field field) facts.badEntries with
      | none =>
        if (s.field field).sheet.isEmpty then
          let (s, ok) := fieldTransfer s idRecovery 2 field none 0x1000 .write
          if ok then recoverField s field facts else s
        else unreadableField s
      | some x =>
        if !facts.contactReadable then unreadableField s
        else
          let (s, ok) := fieldTransfer s idRecovery 2 field none 0x1000 .write
          if ok then recoverField (s.modField field (fromEntry · x)) field facts else s
where
  /-- The Field stays unreadable until a later start (R466). -/
  unreadableField (s : State) : State :=
    fieldFault (s.modField field fun fs => { fs with replaying := false, unreadable := true }) 0x0013 field 0xFF (s.member.fmIsland (field / 4)) 0xFFFF 0

end Sys2Proof.Machine
end

