-- ==== Sys2Proof/Machine/Monitors.lean ====
section
/-! DEFINITION. The continuous monitors of chapter "Safety concept and Safelight": island clocks, the reference against SOF,
supplies, temperature, tamper and the entropy source. -/

namespace Sys2Proof.Machine

/-! ### Clocks (R72, R73, R187) -/

/-- An island's Lit multiplier of 25 MHz (Table PWR-1); none where the layout gives it and none is active. -/
def State.islandMult (s : State) (island : Nat) : Option Nat :=
  match islandKind s.member island with
  | .channel c => s.layout.bind fun l => l.chnMult[c]?
  | .cipher _ => some 12
  | .bank _ => some 32
  | .fm _ => s.layout.map (·.fmMult)
  | .port _ => s.layout.map (·.portMult)
  | .stack => s.layout.map (·.stkMult)
  | .central => some 40
  | .granary => some ((s.layout.map (·.grnMult)).getD 4)
  | .alwaysOn => some 1
  | .none => none

/-- The divisor an island runs at: DIV of `PWR_DIM` in Dim for the island types it names, else 1 (R206). -/
def State.islandDiv (s : State) (island : Nat) : Nat :=
  let dim := fun (lo : Nat) => if s.pwr.state = .dim then s.pwr.dimNow / 2 ^ lo % 4 + 1 else 1
  match islandKind s.member island with
  | .channel _ => dim 0
  | .cipher _ => dim 2
  | .bank _ => dim 4
  | .fm _ => dim 6
  | .stack => dim 8
  | _ => 1

/-- An admitted stack member keeps its stack island running in Dark (R620). -/
def State.stackRunsDark (s : State) : Bool := s.stk.pos.isSome && !s.stk.lone

/-- An island whose clock runs in the present power state (Table PWR-4). -/
def State.islandRuns (s : State) (island : Nat) : Bool :=
  match s.pwr.state, islandKind s.member island with
  | _, .none => false
  | .lit, _ => true
  | .dim, _ => true
  | .dark, .port _ => true
  | .dark, .central => true
  | .dark, .granary => true
  | .dark, .stack => s.stackRunsDark
  | _, .alwaysOn => true
  | _, _ => false

/-- A monitor window of 256 reference cycles ends. The ppm of DETAIL1 are rounded as `Int` division does (DESIGN CHOICE, log
71). An island more than 2 % off its set frequency is at fault (R72). A window with a clock change or an oscillator start in
it is not evaluated (R187). -/
def execFreqMonitorWindow (island count : Nat) (clockChanged : Bool) (s : State) : Host.Outcome State Fault Refusal :=
  .next <|
    match s.islandMult island with
    | none => s
    | some mult =>
      let want : Int := (256 * mult : Nat)
      let dev : Int := ((count * s.islandDiv island : Nat) : Int) - want
      if clockChanged ∨ !s.islandRuns island ∨ !s.pwr.refPresent then s
      else if want < 50 * (dev.natAbs : Int) then
        islandFault s 0x0040 island 0xFF (w32 island) (w32 (signedField 32 (dev * 1000000 / want)))
      else s

/-- The reference shows no rising edge for 2 µs: device scope, latched (R73). -/
def execReferenceLoss (s : State) : Host.Outcome State Fault Refusal :=
  .next <|
    if s.pwr.refPresent then enterDevice { s with pwr := { s.pwr with refPresent := false } } 0x0041 0xFF 0xFF 0 0
    else s

/-! ### The reference against SOF (R74, R75) -/

def sofPpm (count : Nat) : Int := ((count : Int) - 25000) * 40

/-- DETAIL of REF_SOF: the deviation, 0x8000 when the port receives no SOF, as in `SAF_REF`. -/
def ppmWord (p : Option Int) : Word := match p with | some x => w32 (signedField 32 x) | none => 0x8000

/-- Consecutive windows that deviate (R74): while the check is off they count as one, so that it acts with the window after it
has been turned on. -/
def sofRun (p : Option Int) (on : Bool) (run : Nat) : Nat :=
  match p with
  | some x => if 1000 < x.natAbs then (if on then min 2 (run + 1) else 1) else 0
  | none => 0

/-- Both ports receive SOF, and one of them alone deviates in its second consecutive window. -/
def sofAlone (mine other : Option Int) (run otherRun : Nat) : Bool := mine.isSome && other.isSome && run == 2 && otherRun != 2

/-- A 1 ms SOF window ends on the ports. SOF_ONE is logged when a port comes to deviate alone, and REF_SOF once while its scope is
in force: how often either is recorded while the deviation lasts is open (DESIGN CHOICE, log 71). -/
def execSofWindow (countA countB : Option Nat) (s : State) : Host.Outcome State Fault Refusal :=
  .next <|
    let a := countA.map sofPpm
    let b := if s.member.ports = 1 then none else countB.map sofPpm
    let wasA := sofAlone s.saf.ppmA s.saf.ppmB s.saf.devA s.saf.devB
    let wasB := sofAlone s.saf.ppmB s.saf.ppmA s.saf.devB s.saf.devA
    let check := s.saf.sofCheck && s.hasLayout
    let s := s.modSaf fun q => { q with ppmA := a, ppmB := b, devA := sofRun a check q.devA, devB := sofRun b check q.devB }
    let onA := s.saf.devA == 2
    let onB := s.saf.devB == 2
    let receives := (a.isSome || b.isSome) && (a.isNone || onA) && (b.isNone || onB)
    if !check then s
    else if receives then
      if s.stands fun c _ => c == 0x0042 then s else enterDevice s 0x0042 0xFF 0xFF (ppmWord a) (ppmWord b)
    else
      let s := if sofAlone a b s.saf.devA s.saf.devB && !wasA then logFault s 0x0043 0 0 false false 0 0xFF 0xFF 0 (ppmWord a) else s
      if sofAlone b a s.saf.devB s.saf.devA && !wasB then logFault s 0x0043 0 1 false false 0 0xFF 0xFF 1 (ppmWord b) else s

/-! ### Supplies and temperature (R76, R77, R219, R220) -/

def railBit : Rail → Nat
  | .vddCore => 0 | .vddSram => 1 | .vccq => 2 | .vdd1v8 => 3 | .vdd3v3 => 4

/-- A rail has been out of its window for 2 µs (R76). DETAIL0 is the number of its bit (DESIGN CHOICE, log 71). The Z1 has no
VDD_SRAM. In Off only the power-on thresholds act. -/
def execRailFault (rail : Rail) (millivolt : Nat) (s : State) : Host.Outcome State Fault Refusal :=
  .next <|
    if (s.member = .z1 ∧ rail = .vddSram) ∨ s.pwr.state = .off then s
    else
      let s := s.modSaf fun q => { q with
        railOut := q.railOut ||| 2 ^ railBit rail
        railNow := rail :: q.railNow.filter (· != rail) }
      enterDevice s 0x0050 0xFF 0xFF (w32 (railBit rail)) (w32 millivolt)

/-- TEMP_ALERT in °C: the layout's, or its default (Table LAY-22). -/
def State.tempAlertAt (s : State) : Int := (s.pwr.tempAlert : Nat)

/-- The sensor with the highest reading, the lowest of several. -/
def hottest (readings : List Int) : Nat × Int :=
  ((List.range readings.length).zip readings).foldl (fun m x => if m.2 < x.2 then x else m) (0, readings.headD 0)

/-- TEMP_ALERT_N follows Tj, with its event (R219, R220); asserted, it is remote-wake trigger 3. -/
def tempAlert (s : State) : State :=
  let at_ := s.tempAlertAt
  let tj := s.pwr.tj
  if !s.pwr.alert ∧ 4 * at_ ≤ tj then
    wakeTriggers (queueEvents (s.modPwr fun q => { q with alert := true }) 0x0030 s.pwr.tjSensor (signedField 32 tj) 1) 3
  else if s.pwr.alert ∧ tj < 4 * (at_ - 5) then
    queueEvents (s.modPwr fun q => { q with alert := false }) 0x0030 s.pwr.tjSensor (signedField 32 tj) 0
  else s

/-- The sensors are sampled (Tj × 4 each): Tj, the alert, and device scope for each sensor above 115 °C in a second
consecutive sample. Not in Off. -/
def execTempSample (readings : List Int) (s : State) : Host.Outcome State Fault Refusal :=
  .next <|
    if s.pwr.state = .off ∨ readings = [] then s
    else
      let sens := (readings ++ s.pwr.sens.drop readings.length).take 24
      let top := hottest sens
      let s := s.modPwr fun q => { q with sens := sens, tj := top.2, tjSensor := top.1, peak := max q.peak top.2 }
      let hot := (List.range 24).map fun i => if 460 < sens.getD i 0 then min 3 (s.saf.hot.getD i 0 + 1) else 0
      let s := tempAlert (s.modSaf fun q => { q with hot := hot })
      ((List.range 24).filter fun i => hot.getD i 0 == 2).foldl (fun s i =>
        enterDevice s 0x0051 0xFF 0xFF (w32 i) (w32 (signedField 32 (sens.getD i 0)))) s

/-! ### Tamper, test enable, entropy -/

/-- TAMPER_N has been low for 2 µs (R361); in Off only TAMPER_SEEN is set (R362). -/
def execTamper (s : State) : Host.Outcome State Fault Refusal :=
  .next <|
    let s := s.modSec fun q => { q with tamperLow := true }
    if s.pwr.state = .off then s.modSec fun q => { q with tamperSeen := true }
    else enterDevice s 0x0090 0xFF 0xFF 0 0

/-- TEST_EN is high after the release of reset: as a tamper (R628). -/
def execTestEn (s : State) : Host.Outcome State Fault Refusal :=
  .next <| enterDevice s 0x0090 0xFF 0xFF 0 0

/-- A health-test window ends; a failed test is device scope (R360). -/
def execEntropy (failedTest : Option Nat) (s : State) : Host.Outcome State Fault Refusal :=
  .next <|
    match failedTest with
    | none => s
    | some t => enterDevice (s.modSec fun q => { q with entropyOk := false }) 0x0091 0xFF 0xFF (w32 t) 0

end Sys2Proof.Machine
end

