-- ==== Sys2Proof/Machine/Sweep.lean ====
section
/-! DEFINITION. The test-strip sweep and deep tests (chapter "Safety concept and Safelight"), and the slots of the channel
engines (R80, R502 to R504). -/

namespace Sys2Proof.Machine

/-! ### Lanes (Table SAF-4) -/

def laneCode : Lane → Nat
  | .channel => 0 | .cipher => 1 | .structural => 2

/-- Instances of a lane: on a smaller member, its own, with no gaps. -/
def laneCount (m : Member) : Lane → Nat
  | .channel => m.channels
  | .cipher => m.ciphers
  | .structural => m.fields + m.bankIslands + m.ports + 3 + (if m.hasStack then 1 else 0) + 1

def laneSlots : Lane → Nat
  | .channel => 125 | .cipher => 100 | .structural => 125

/-- The island of an instance. -/
def laneIsland (m : Member) (lane : Lane) (i : Nat) : Nat :=
  match lane with
  | .channel => i
  | .cipher => m.cipherIsland i
  | .structural =>
    let f := m.fields
    let b := f + m.bankIslands
    let p := b + m.ports
    if i < f then m.fmIsland (i / 4)
    else if i < b then m.bankIsland (i - f)
    else if i < p then m.portIsland (i - b)
    else if i < p + 3 then m.centralIsland
    else if m.hasStack ∧ i = p + 3 then m.stackIsland
    else m.granaryIsland

/-- INSTANCE of a strip record of scope 0: the channel or engine, else none (R663). -/
def laneInst (lane : Lane) (i : Nat) : Nat :=
  match lane with
  | .structural => 0xFFFF
  | _ => i

def SafState.strips (q : SafState) : Lane → List StripRec
  | .channel => q.chnStrips | .cipher => q.cphStrips | .structural => q.strStrips

def SafState.strip (q : SafState) : Lane → Option Strip
  | .channel => q.chnStrip | .cipher => q.cphStrip | .structural => q.strStrip

def SafState.slotOf (q : SafState) : Lane → Nat
  | .channel => q.chnSlot | .cipher => q.cphSlot | .structural => q.strSlot

def SafState.setStrips (q : SafState) (lane : Lane) (l : List StripRec) : SafState :=
  match lane with
  | .channel => { q with chnStrips := l } | .cipher => { q with cphStrips := l } | .structural => { q with strStrips := l }

def SafState.setStrip (q : SafState) (lane : Lane) (x : Option Strip) : SafState :=
  match lane with
  | .channel => { q with chnStrip := x } | .cipher => { q with cphStrip := x } | .structural => { q with strStrip := x }

def SafState.setSlot (q : SafState) (lane : Lane) (n : Nat) : SafState :=
  match lane with
  | .channel => { q with chnSlot := n } | .cipher => { q with cphSlot := n } | .structural => { q with strSlot := n }

/-! ### Channel slots -/

/-- A die returns from a slot: an operation that found the array busy waits for a STATUS of its die, another goes on at its step
boundary (R80, R502). -/
def wakeDie (d : DieState) : DieState :=
  match d.run with
  | some r =>
    if !r.stopped then d
    else if r.waiting = .busy ∨ r.waiting = .poll then { d with aside := some { r with stopped := false }, run := none, todo := .status :: d.todo }
    else { d with run := some { r with stopped := false } }
  | none => d

/-- A channel returns from a sweep or ZQ slot. -/
def wakeChannel (k : ChanState) : ChanState := { k with swept := false, zq := false, dies := k.dies.map wakeDie }

/-- A ZQ slot that ends before every populated CE_N has been calibrated sets SKIPPED (R504). -/
def endZq (s : State) (c : Nat) : State :=
  if (s.chan c).zq then s.modChan c fun k => { k with zqSkipped := decide (k.zqRanks < popcount (chanOr s c).ceMask) }
  else s

def leaveSlot (s : State) (c : Nat) : State := noteReady ((endZq s c).modChan c wakeChannel) c

/-- The engine of a channel stops at its next step boundary, which ends the bus phase that runs; its die goes on first (R80,
R498). -/
def withdrawChannel (s : State) (c : Nat) (zq : Bool) : State :=
  s.modChan c fun k =>
    if k.fenced then k
    else
      let dies := k.dies.map fun d => { d with run := d.run.map fun r => { r with stopped := true } }
      { k with
        swept := !zq
        zq := zq
        phase := none
        ready := k.phase.toList ++ k.ready
        zqRanks := 0
        dies := dies }

/-- The channels that take a ZQ slot in the present cycle, ascending (R503). The entry is judged by the set in force: the
old one while the channel's RECIPE change is pending. -/
def State.zqDue (s : State) : List Nat :=
  match s.layout with
  | none => []
  | some l => (List.range s.member.channels).filter fun c =>
      l.zqCycles != 0 && c % l.zqCycles == s.saf.cycle % l.zqCycles && !(s.chan c).fenced &&
      (((s.recipeOf c (s.lay.recipePend.contains c)).bind (·.entry? 8)).isSome)

/-- Every engine returns from its slot. -/
def returnEngines (s : State) : State :=
  { s with engines := s.engines.map fun (e : CipherState) => { e with pending := false, withdrawn := false } }

/-! ### Deep tests (R89 to R94) -/

/-- The instances a deep test visits. -/
def deepTodo (m : Member) (lanes : Nat) : List (Nat × Nat) :=
  [Lane.channel, .cipher, .structural].flatMap fun l =>
    if lanes.testBit (laneCode l) then (List.range (laneCount m l)).map fun i => (laneCode l, i) else []

/-- A write of `SAF_DEEP` (R89, R90, R94). -/
def requestDeep (s : State) (id : Identity) (start : Bool) (lanes : Nat) : State :=
    if !start then s
    else s.modSaf fun q =>
      let d := q.deep
      if d.state ≠ 0 then { q with deep := { d with refused := count 0xFF d.refused } }
      else if lanes % 8 = 0 then { q with deep := { d with result := 1, failed := 0, requester := id } }
      else { q with deep := { d with
        state := 1
        failed := 0
        requester := id
        lanes := lanes % 8
        todo := deepTodo s.member (lanes % 8)
        given := [0, 0, 0]
        firstSlot := [0, 0, 0] } }

def execSafDeep (id : Identity) (start : Bool) (lanes : Nat) (s : State) : Host.Outcome State Fault Refusal :=
  .next <| csWrite s id csDeep true fun s => requestDeep s id start lanes

/-- A spare slot that ZQ does not use goes to the lane's next instance; its extended strip takes four slots of one cycle.
Whether its instance is withdrawn for them the spec does not say: nothing is (DESIGN CHOICE, log 96). -/
def deepSlot (s : State) (lane : Lane) (slot : Nat) : State :=
  let k := laneCode lane
  s.modSaf fun q =>
    let d := q.deep
    let n := d.given.getD k 0
    if d.state = 0 ∨ !d.todo.any (·.1 == k) then q
    else if n = 0 then
      if slot + 4 ≤ laneSlots lane then
        { q with deep := { d with state := 2, given := d.given.set k 1, firstSlot := d.firstSlot.set k slot } }
      else q
    else { q with deep := { d with given := d.given.set k (min 4 (n + 1)) } }

/-! ### A slot begins (R79 to R82, R503) -/

/-- The first slot after the last of a cycle is slot 0 of the next; the channel lane counts the cycles. -/
def nextSlot (q : SafState) (lane : Lane) : SafState :=
  let n := q.slotOf lane + 1
  if n < laneSlots lane then q.setSlot lane n
  else
    let q := q.setSlot lane 0
    match lane with
    | .channel => { q with cycle := q.cycle + 1, cycleDone := true }
    | _ => q

/-- BANK_CE of the cycle that ends: one record for each bank that corrected something, with its corrections in the cycle (R107,
R553). The spec bounds it to one a cycle and counts the cycle's corrections, so it is written at its end (DEDUCED, log 67). -/
def recordCe (s : State) : State :=
  let s := (List.range s.banks.length).foldl (fun (s : State) b =>
    if (s.bank b).cycleCe = 0 then s
    else logFault s 0x0020 0 0xFFFF false false 0 (s.member.bankIsland (b / 16)) 0xFF (w32 b) (w32 (s.bank b).cycleCe)) s
  { s with banks := s.banks.map fun b => { b with cycleCe := 0 } }

/-- The ticket of a lane's strip or withdrawal returns. -/
def freeLane (s : State) (lane : Lane) : State :=
  match s.saf.stripTickets.getD (laneCode lane) none with
  | some id => (releaseTicket s id).modSaf fun q => { q with stripTickets := q.stripTickets.set (laneCode lane) none }
  | none => s

/-- The arbiter input of the safety sweep (Table ARB-1). -/
def sweepInput : Nat := 19

/-- Input 19 draws the ticket of class 6 that a strip or a ZQ withdrawal needs (Table ARB-2). With none free the request stays
raised while its slot lasts (R55; log 69). -/
def drawLane (s : State) (lane : Lane) : State × Bool :=
  let k := laneCode lane
  match drawTicket s 6 with
  | some (id, s) =>
    ((noteGrant s ⟨sweepInput, none, none, some id, .granted⟩).modSaf fun q =>
      { q with stripTickets := q.stripTickets.set k (some id), stripAsked := q.stripAsked.filter (· != k) }, true)
  | none => (s.modSaf fun q => { q with stripAsked := k :: q.stripAsked.filter (· != k) }, false)

/-- What a lane's slot is for. -/
inductive SlotFor where
  | strip | zq (c : Nat) | deep | nothing
deriving DecidableEq, Repr

def State.slotFor (s : State) (lane : Lane) : SlotFor :=
  let slot := s.saf.slotOf lane
  if slot < laneCount s.member lane then .strip
  else
    let zq := match lane with | .channel => s.zqDue[slot - s.member.channels]? | _ => none
    match zq with
    | some c => .zq c
    | none => if s.saf.deep.state ≠ 0 ∧ s.saf.deep.todo.any (·.1 == laneCode lane) then .deep else .nothing

/-- What a lane withdrew in its last slot returns. -/
def returnLane (s : State) (lane : Lane) : State :=
  let s := freeLane s lane
  match lane with
  | .channel => (List.range s.member.channels).foldl (fun s c => if (s.chan c).swept ∨ (s.chan c).zq then leaveSlot s c else s) s
  | .cipher => returnEngines s
  | .structural => s

/-- The instance of a strip leaves service for its slot. -/
def withdrawFor (s : State) (lane : Lane) (slot : Nat) : State :=
  match lane with
  | .channel => withdrawChannel s slot false
  | .cipher => s.modEngine slot fun e => { e with pending := !e.fenced }
  | .structural => s

/-- What a lane's present slot is for begins once input 19 has its ticket: an instance is withdrawn for its strip, or the
spare slot is used. -/
def useSlot (s : State) (lane : Lane) : State :=
  let slot := s.saf.slotOf lane
  match s.slotFor lane with
  | .nothing => s
  | use =>
    match drawLane s lane with
    | (s, false) => s
    | (s, true) =>
      match use with
      | .strip => withdrawFor (s.modSaf fun q => q.setStrip lane (some ⟨slot, slot⟩)) lane slot
      | .zq c => (withdrawChannel s c true).modSaf fun q => { q with zqSlot := true }
      | _ => deepSlot s lane slot

/-- The present slot of a lane begins; what the slot before it asked for in vain is asked for no more. -/
def beginSlot (s : State) (lane : Lane) : State :=
  let slot := s.saf.slotOf lane
  let s := (returnLane s lane).modSaf fun q => { q.setStrip lane none with stripAsked := q.stripAsked.filter (· != laneCode lane) }
  useSlot (match lane with
    | .channel => (if slot = 0 then recordCe s else s).modSaf fun q => { q with zqSlot := false }
    | _ => s) lane

/-- Fields whose manager is back from its strip go on (Table SAF-4). -/
def resumeFields (s : State) (lane : Lane) : State := if lane = .structural then serveReads (runFields s) else s

/-- A sweep slot begins in a lane; the sweep is stopped in Dark and Off (R87). -/
def execSweepSlot (lane : Lane) (s : State) : Host.Outcome State Fault Refusal :=
  .next <|
    if !s.saf.sweepOn then s
    else resumeFields (beginSlot (s.modSaf fun q => nextSlot q lane) lane) lane

/-- A full cycle begins at this moment (R87, step 9 of Table PWR-3). -/
def startSweep (s : State) : State :=
  let s := s.modSaf fun q => { q with sweepOn := true, chnSlot := 0, cphSlot := 0, strSlot := 0, zqSlot := false }
  beginSlot (beginSlot (beginSlot s .channel) .cipher) .structural

def abortDeep (d : DeepState) : DeepState := if d.state = 0 then d else { d with state := 0, result := 3, todo := [] }

/-- The sweep stops: what was withdrawn returns, and a deep test ends ABORTED (R87, R93). -/
def stopSweep (s : State) : State :=
  let s := (List.range s.member.channels).foldl (fun s c => leaveSlot s c) s
  let s := freeLane (freeLane (freeLane s .channel) .cipher) .structural
  (returnEngines s).modSaf fun q => { q with
    sweepOn := false
    stripAsked := []
    chnStrip := none
    cphStrip := none
    strStrip := none
    deep := abortDeep q.deep }

/-- A pending engine's queue has drained: its strip starts (R81). -/
def execCipherQueueDrained (engine : Nat) (s : State) : Host.Outcome State Fault Refusal :=
  .next <|
    let e := s.engine engine
    if e.pending ∧ e.queue.isEmpty then s.modEngine engine fun e => { e with pending := false, withdrawn := true }
    else s

/-- The named slot of a channel ends, its strip's or its ZQ calibration's: the engine owes a STATUS to every die that was
array-busy, and stopped operations go on (R502). A slot that the channel is not in has no end. -/
def execSweepSlotEnd (ch : Nat) (slot : SlotKind) (s : State) : Host.Outcome State Fault Refusal :=
  .next <|
    if !(match slot with | .strip => (s.chan ch).swept | .zq => (s.chan ch).zq) then s
    else
      let s := freeLane (leaveSlot s ch) .channel
      match s.fieldOfChan ch with
      | some f => serveReads (runField s f)
      | none => s

/-! ### Results of strips (R84, R85, R88, R92) -/

/-- The instance is fenced, or its island's scopes are all in force because of an earlier fault of it (R84, R88). An island
that holds one instance alone is faulty through that instance. -/
def State.stripInForce (s : State) (lane : Lane) (i : Nat) : Bool :=
  let island := laneIsland s.member lane i
  let alone := match lane with
    | .structural => decide (island ≠ s.member.centralIsland) && !(match islandKind s.member island with | .fm _ => true | _ => false)
    | _ => true
  let mine := fun (c : Scope) => c.who == some (laneCode lane, i) || (alone && c.who.isNone && c.island == island)
  match lane with
  | .channel => (s.chan i).fenced || s.saf.scopes.any mine
  | .cipher => (s.engine i).fenced || s.saf.scopes.any mine
  | .structural =>
    let keys := islandScopes s island
    !keys.isEmpty && keys.all fun k => s.saf.scopes.any fun c => c.code == k.1 && c.inst == k.2.1 && mine c

def stripDetail0 (strip step : Nat) : Word := bitsAt 0 16 strip ||| bitsAt 16 16 step
def stripDetail1 (lane : Lane) (slot : Nat) : Word := bitsAt 0 8 (laneCode lane) ||| bitsAt 8 8 slot

/-- The strip of an instance ends (R84, R88). DETAIL0 of STRIP_PASS names the strip that failed last (DESIGN CHOICE, log 70). -/
def endStrip (s : State) (lane : Lane) (x : Strip) (result : StripResult) : State :=
  let i := x.inst
  let island := laneIsland s.member lane i
  let old := (s.saf.strips lane).getD i Reset.strip
  let new : StripRec := match result with
    | .pass => { old with lastPass := some s.timeUs, lastFail := none }
    | .fail strip _ => { old with lastFail := some strip }
  let held := s.stripInForce lane i
  let s := s.modSaf fun q => (q.setStrips lane ((q.strips lane).set i new)).setStrip lane none
  let s := match lane with
    | .channel => s
    | .cipher => (freeLane s .cipher).modEngine i fun e => { e with pending := false, withdrawn := false }
    | .structural => freeLane s .structural
  match result, old.lastFail with
  | .fail strip step, before =>
    if held then
      if before.isSome then s
      else logFault s 0x0060 0 (laneInst lane i) false false 0 island 0x87 (stripDetail0 strip step) (stripDetail1 lane x.slot)
    else islandFault s 0x0060 island 0x87 (stripDetail0 strip step) (stripDetail1 lane x.slot) (some (laneCode lane, i))
  | .pass, some strip =>
    if held then logFault s 0x0063 0 (laneInst lane i) false false 0 island 0x87 (stripDetail0 strip 0) (stripDetail1 lane x.slot)
    else s
  | .pass, none => s

/-- The extended strip of the instance a lane's deep test is at ends (R92); the test ends with its last instance. -/
def endDeepStrip (s : State) (lane : Lane) (result : StripResult) : State :=
  let k := laneCode lane
  match s.saf.deep.todo.find? (·.1 == k) with
  | none => s
  | some x =>
    let first := s.saf.deep.firstSlot.getD k 0
    let bad := match result with | .pass => false | .fail _ _ => true
    let s := s.modSaf fun q =>
      let d := q.deep
      let todo := d.todo.filter (· != x)
      let failed := if bad then count 0xFF d.failed else d.failed
      { q with deep := { d with
        todo := todo
        given := d.given.set k 0
        failed := failed
        state := if todo.isEmpty then 0 else 2
        result := if todo.isEmpty then (if failed = 0 then 1 else 2) else d.result } }
    match result with
    | .pass => s
    | .fail strip step =>
      islandFault s 0x0062 (laneIsland s.member lane x.2) 0x87 (stripDetail0 strip step) (stripDetail1 lane first) (some x)

/-- A strip of a lane ends. A comparator that does not flag the injected wrong value is device scope (R85). -/
def execTestStripDone (lane : Lane) (result : StripResult) (comparatorFlagged : Bool) (s : State) : Host.Outcome State Fault Refusal :=
  .next <|
    let check := fun (s : State) (slot : Nat) =>
      if comparatorFlagged then s
      else enterDevice s 0x0061 s.member.centralIsland 0x87 (w32 (laneCode lane)) (w32 slot)
    match s.saf.strip lane with
    | some x => resumeFields (check (endStrip s lane x result) x.slot) lane
    | none =>
      if s.saf.deep.state = 2 ∧ s.saf.deep.given.getD (laneCode lane) 0 = 4 then
        check (endDeepStrip s lane result) (s.saf.slotOf lane)
      else s

end Sys2Proof.Machine
end

