-- ==== Sys2Proof/Machine/Arbiter.lean ====
section
/-! DEFINITION. The order arbiter's tick (chapter "Order, tickets and shared instances"): what is raised, which request wins, and what
it is given. -/

namespace Sys2Proof.Machine

/-! ### ARBITER_GRANT (R33 to R36, R51, R53 to R55, R662) -/

/-- A request takes part in this tick: an internal one only while a ticket is free for it (R55); after LOCKSTEP only
Control-space accesses (R662). -/
def State.takesPart (s : State) (r : ArbReq) : Bool :=
  match r.kind with
  | .control => true
  | .ticket k => !s.arb.lockstep && s.canDraw k
  | _ => !s.arb.lockstep

/-- What is raised in a tick: a request the command brings, a command BOT holds until a ticket is free (R53), and what a Field
manager or a lane of the sweep has asked for in vain so far (R55). -/
inductive Raised where
  | asked (r : ArbReq)
  | waiting (t : Task)
  | field (f : Nat)
  | strip (lane : Lane)
deriving DecidableEq, Repr

def Raised.input : Raised → Nat
  | .asked r => r.input
  | .waiting t => t.key.origin.cls
  | .field f => fieldInput f
  | .strip _ => sweepInput

/-- A Field manager has a request for which a ticket is free now (R55). -/
def State.fieldAsks (s : State) (f : Nat) : Bool :=
  !s.fmPaused f && s.manages f && !(s.field f).unreadable && !s.workStops f && (nextRequest s f).isSome

/-- Everything raised that takes part in the choice. Of several requests on one input the spec orders none: the model lets the
commands held longest go first, then takes the order of the list (DESIGN CHOICE, log 53). -/
def State.raised (s : State) (reqs : List ArbReq) : List Raised :=
  ((s.fn.tasks.filter fun t => t.held && !t.aborted && !s.arb.lockstep && s.canDraw t.key.origin.cls).map .waiting) ++
    (reqs.filter s.takesPart).map .asked ++ (s.fieldList.filter s.fieldAsks).map .field ++
    ([Lane.channel, .cipher, .structural].filter fun l => s.saf.stripAsked.contains (laneCode l) && !s.arb.lockstep && s.canDraw 6).map .strip

/-- The winner of R33: the first requesting input at or after the pointer. Input 20's two requesters alternate (Table
ARB-1): the list order is Granary, then JTAG. On another input the first of several requests goes first (log 53). -/
def State.winner (s : State) (reqs : List ArbReq) : Option Raised :=
  let live := s.raised reqs
  match (List.range 22).map (fun k => (s.arb.pointer + k) % 22) |>.find? fun i => live.any (·.input == i) with
  | none => none
  | some i =>
    let here := live.filter (·.input == i)
    if i = 20 ∧ s.arb.jtagTurn then here.getLast? else here.head?

/-- How a request of class k without a ticket ends (R53, R54). -/
def noTicketEnd (r : ArbReq) (k : Nat) : GrantEnd :=
  if k = 2 then .ringBusy else if r.credential then .capsuleBusy else if r.bot then .held else .taskSetFull

/-- A ticket drawn for a request the command itself brought is in use until the command names it as returned. -/
def noteLoose (s : State) (id : Nat) : State := s.modArb fun a => { a with loose := id :: a.loose }

/-- What the winner is given (Table ARB-2). -/
def giveGrant (s : State) (r : ArbReq) : State × Grant :=
  match r.kind with
  | .control => (s, ⟨r.input, none, none, none, .granted⟩)
  | .ticket k =>
    match drawTicket s k with
    | some (id, s) => (noteLoose s id, ⟨r.input, none, none, some id, .granted⟩)
    | none => (s, ⟨r.input, none, none, none, .granted⟩)
  | .horizon k =>
    match drawTicket s k with
    | some (id, s) => (noteLoose s id, ⟨r.input, none, some s.horizon, some id, .granted⟩)
    | none => (countTsf s k, ⟨r.input, none, none, none, noTicketEnd r k⟩)
  | .numbered k =>
    match drawTicket s k with
    | some (id, s) =>
      match issueOrder (noteLoose s id) with
      | some (o, s) => (s, ⟨r.input, some o, none, some id, .granted⟩)
      | none => (noteLoose s id, ⟨r.input, none, none, some id, .granted⟩)
    | none => (countTsf s k, ⟨r.input, none, none, none, noTicketEnd r k⟩)

/-- A held command that wins a tick begins with a ticket of its class, as one granted at once does (R53). -/
def giveHeld (s : State) (t : Task) : State × Grant :=
  match drawTicket s t.key.origin.cls with
  | none => (s, ⟨t.key.origin.cls, none, none, none, .held⟩)
  | some (id, s) =>
    let s := s.modTasks fun ts => ts.filter (· != t)
    (grantTask s t id, t.grant s id)

/-- A Field manager's first request is granted, and what it began goes on (R55). -/
def giveField (s : State) (f : Nat) : State × Grant :=
  match nextRequest s f with
  | none => (s, ⟨fieldInput f, none, none, none, .granted⟩)
  | some r => (runField (grantRequest s f r) f, ⟨fieldInput f, none, none, (drawTicket s r.cls).map (·.1), .granted⟩)

/-- A lane of the sweep gets its ticket while its slot lasts (R55). -/
def giveStrip (s : State) (lane : Lane) : State × Grant :=
  (useSlot s lane, ⟨sweepInput, none, none, (drawTicket s 6).map (·.1), .granted⟩)

/-- What the winner of a tick is given. -/
def give (s : State) : Raised → State × Grant
  | .asked r => giveGrant s r
  | .waiting t => giveHeld s t
  | .field f => giveField s f
  | .strip l => giveStrip s l

/-- The trees disagree: no grant, LOCKSTEP, and device scope latched (R36). -/
def lockstepFault (s : State) : State :=
  enterDevice (s.modArb fun a => { a with lockstep := true }) 0x0031 s.member.centralIsland 0xFF 0 0

/-- One tick of the arbiter: one grant at most. After LOCKSTEP only Control-space accesses take part (R662). -/
def arbiterTick (reqs : List ArbReq) (trees : TreeAgreement) (s : State) : State :=
  if s.arb.lockstep then
    if !trees.winnerAndPointer then s
    else
      match s.winner reqs with
      | none => s
      | some w => noteGrant s ⟨w.input, none, none, none, .granted⟩
  else if !(trees.winnerAndPointer && trees.orderAndTicket) then lockstepFault s
  else
    match s.winner reqs with
    | none => s
    | some w => let (s, g) := give s w; noteGrant s g

/-- The work of requests granted in earlier ticks has ended: their tickets return (R22, R52). -/
def returnLoose (s : State) (ids : List Nat) : State :=
  (ids.filter s.arb.loose.contains).foldl (fun (s : State) id => releaseTicket (s.modArb fun a => { a with loose := a.loose.filter (· != id) }) id) s

/-- A tick of the arbiter; the tickets named returned are free in it. -/
def execArbiterGrant (reqs : List ArbReq) (tick : ArbTick) (s : State) : Host.Outcome State Fault Refusal :=
  .next (arbiterTick reqs tick.trees (returnLoose s tick.returned))

end Sys2Proof.Machine
end

