-- ==== Sys2Proof/Machine/Recover.lean ====
section
/-! DEFINITION. RECOVER (R109 to R118): what it may end, what ending a scope does, and the records that follow it. -/

namespace Sys2Proof.Machine

/-! ### Ending a scope -/

/-- Flags of cause 4 clear in blocks of sets that are no longer exposed and whose rebuild has not started (R440). -/
def clearExposed (fs : FieldState) (env : FEnv) : FieldState :=
  let exposed := exposedSets fs env
  let keep := fun (b : BlkId) => exposed.any (·.members.contains b) || fs.moves.any fun m => m.why == .rebuild && m.blk == b
  let blocks := fs.blocks.map fun x =>
    if x.2.due ∧ x.2.why = 4 ∧ !keep x.1 then (x.1, { x.2 with due := false, why := 0 }) else x
  { fs with blocks := blocks }

/-- Plots that no scope covers any more are Closed (R114). -/
def closeFreed (s : State) (plots : List Nat) : State :=
  plots.foldl (fun s n =>
    if (s.plot n).mode = .safelight ∧ !s.plotHeld n then setPlotMode s n .closed 1 else s) s

/-- Fields that no scope holds any more are brought back as after sudden removal (R115). -/
def bringBack (s : State) (fields : List Nat) : State :=
  fields.foldl (fun s f => if s.fieldHeld f ∨ (s.field f).unreadable then s else beginReplay s f) s

def State.wideFields (s : State) : List Nat :=
  match s.layout with
  | some l => (l.fields.filter (·.wide)).map (·.inst)
  | none => []

/-- A scope ends: what it held back returns to service. -/
def endScope (s : State) (code inst : Nat) : State :=
  let s := s.modSaf fun q => { q with scopes := q.scopes.filter fun c => !(c.code == code && c.inst == inst) }
  match code with
  | 1 => (s.modEngine inst fun e => { e with fenced := false, fenceLatched := false }).modArb fun a => { a with noCipher := false }
  | 2 =>
    let s := settleRecipe (s.modChan inst fun k => { k with fenced := false, fenceLatched := false }) inst
    (match s.fieldOfChan inst with
     | some f => runField (updateHealth (updateHeadland (onField s f clearExposed) f) f) f
     | none => s)
  | 3 => closeFreed s [inst]
  | 4 => bringBack (closeFreed s (s.plotsOf inst)) [inst]
  | 5 => offerConnect s (if inst = 0 then .a else .b)
  | 6 => bringBack (closeFreed (s.modSaf fun q => { q with causeCode := 0 }) s.plotList) s.fieldList
  | 7 => bringBack (closeFreed s (s.wideFields.flatMap s.plotsOf)) s.wideFields
  | _ => s

/-! ### What stands against a RECOVER (R110, R111) -/

/-- A rail's return to its window comes with no command: whether it is back is open (log 3). -/
def pollRails (s : State) : State :=
  s.saf.railNow.foldl (fun s r =>
    let (out, s) := s.drawBool
    if out then s else s.modSaf fun q => { q with railNow := q.railNow.filter (· != r) }) s

/-- Positions of a wide Field's DEVICES that are absent. -/
def State.absentOf (s : State) (f : Nat) : List Nat :=
  match s.fieldCfg? f with
  | some c => if c.wide then c.devices.filter s.stk.absent.contains else []
  | none => []

/-- The condition of a cause is still present (R111). With two ports that receive SOF, a deviation of either one's last window
counts as present (DESIGN CHOICE, log 97). -/
def State.stillPresent (s : State) (c : Scope) : Bool :=
  if c.cause = 0x0050 then !s.saf.railNow.isEmpty
  else if c.cause = 0x0051 then decide (420 < s.pwr.tj)
  else if c.cause = 0x0042 then
    [s.saf.ppmA, s.saf.ppmB].any fun p => match p with | some x => decide (1000 < x.natAbs) | none => false
  else if c.cause = 0x00A1 then
    match (if c.code = 4 then some c.inst else s.fieldOf c.inst) with
    | some f => decide (2 ≤ (s.absentOf f).length)
    | none => false
  else if c.cause = 0x0070 then s.mpu.regions.any fun a => s.mpu.regions.any fun b => a.clash b
  else false

def State.scopesAt (s : State) (key : Nat × Nat) : List Scope := s.saf.scopes.filter fun c => c.code == key.1 && c.inst == key.2

/-- RESULT when a scope stays in place: 1 LATCHED, 2 PRESENT; 0 when nothing stands against its end. -/
def State.barred (s : State) (key : Nat × Nat) : Nat :=
  let cs := s.scopesAt key
  if cs.any (·.latch) then 1 else if cs.any s.stillPresent then 2 else 0

/-- The islands whose strip a RECOVER of a scope runs first (R112): the engine's, the channel's or the port's, and those of
this device whose own fault entered it. -/
def State.stripIslands (s : State) (key : Nat × Nat) : List Nat :=
  let own := match key.1 with
    | 1 => [s.member.cipherIsland key.2]
    | 2 => [key.2]
    | 5 => [s.member.portIsland key.2]
    | _ => []
  let island := [0x0021, 0x0030, 0x0040, 0x0060, 0x0062]
  own ++ ((s.scopesAt key).filter fun c => island.contains c.cause && c.island != 0xFF).map (·.island)

/-! ### The commands -/

def setRecover (s : State) (result count : Nat) : State := s.modSaf fun q => { q with recResult := result, recCount := count }

/-- Whether a requester may recover at all: it holds semaphore 0, and its own port is not in port scope (R109, R117). -/
def State.mayRecover (s : State) (id : Identity) : Bool :=
  s.holdsSem id 0 && !(id == idPortA && s.inScope 5 0) && !(id == idPortB && s.inScope 5 1)

/-- A RECOVER granted for these scopes; the dies of a channel it may return run RESET and INIT first (R487, R507). When none
of several can end, RESULT is that of the first (DESIGN CHOICE, log 68). -/
def startRecover (s : State) (keys : List (Nat × Nat)) : State :=
  let s := pollRails s
  let free := keys.filter fun k => s.barred k == 0
  let stays := match keys.find? fun k => s.barred k != 0 with | some k => s.barred k | none => 0
  if free.isEmpty then setRecover s stays 0
  else
    let s := s.modSaf fun q => { q with recPending := some ⟨free, stays⟩ }
    free.foldl (fun s k => if k.1 = 2 then oweReset s k.2 else s) s

/-- A write of `SAF_RECOVER` that names a scope (R109 to R111, R117, R118). -/
def recoverScope (s : State) (id : Identity) (scope inst : Nat) : State :=
    if !s.mayRecover id then s.modSaf fun q => { q with recResult := 3 }
    else if s.saf.recPending.isSome then s.modSaf fun q => { q with recResult := 6 }
    else
      let key := (scope, if scope = 6 ∨ scope = 7 then 0 else inst)
      if !s.inScope key.1 key.2 then setRecover s 4 0 else startRecover s [key]

def execRecover (id : Identity) (scope inst : Nat) (s : State) : Host.Outcome State Fault Refusal :=
  .next <| csWrite s id csRecover true fun s => recoverScope s id scope inst

/-- A write of `SAF_RECOVER` with ALL: every scope that is active and not latched. With latched scopes alone RESULT is LATCHED
(DESIGN CHOICE, log 68). -/
def recoverEvery (s : State) (id : Identity) : State :=
    if !s.mayRecover id then s.modSaf fun q => { q with recResult := 3 }
    else if s.saf.recPending.isSome then s.modSaf fun q => { q with recResult := 6 }
    else
      let keys := (s.saf.scopes.map fun c => (c.code, c.inst)).dedup
      let loose := keys.filter fun k => s.barred k != 1
      if keys.isEmpty then setRecover s 4 0 else if loose.isEmpty then setRecover s 1 0 else startRecover s loose

def execRecoverAll (id : Identity) (s : State) : Host.Outcome State Fault Refusal :=
  .next <| csWrite s id csRecover true fun s => recoverEvery s id

/-- One scope of a pending RECOVER: ended with its record once every strip it needs has passed (R112), or left in place with
the result it gives. The numbers are the scopes ended and the first result of one that stays. -/
def recoverOne (strips : List (Nat × StripResult)) (startupTestOk diesOk : Bool) (a : State × Nat × Nat) (key : Nat × Nat) :
    State × Nat × Nat :=
  let (s, ended, stays) := a
  let note := fun (r : Nat) => if stays = 0 then r else stays
  let cs := s.scopesAt key
  let bad := !(s.stripIslands key).all fun i => (strips.find? (·.1 == i)).any (·.2 == .pass)
  if cs.isEmpty then (s, ended, stays)
  else if key.1 = 2 ∧ !diesOk then
    let s := s.modSaf fun q => { q with scopes := q.scopes.filter fun c => !(c.code == 2 && c.inst == key.2) }
    if s.stands fun c i => c == 0x00B0 && i == key.2 then (s, ended, note 5)
    else
      let (n, s) := s.drawNat
      (recipeFence s key.2 (n % 4096), ended, note 5)
  else if bad then (s, ended, note 5)
  else if cs.any (·.cause == 0x0091) ∧ !startupTestOk then (s, ended, note 2)
  else
    let s := if cs.any (·.cause == 0x0091) then s.modSec fun q => { q with entropyOk := true, drbgReady := true } else s
    let s := endScope s key.1 key.2
    let inst := recInst key.1 key.2
    let r : LogRec := ⟨0, 0x00C0, 0, false, false, false, 0, 0, 0xFF, 0xFF, inst, w32 key.1, w32 inst, 0⟩
    (writeLog s r, ended + 1, stays)

/-- Faults detected while the RECOVER was pending apply after it in their order, each record after RECOVER_DONE; a scope it ended
is entered again, as a new fence (R116). -/
def applyDeferred (s : State) (ds : List Deferred) : State :=
  ds.foldl (fun s d =>
    let r := d.record
    if d.enters then enterScope s r.cause r.scope r.inst r.latch r.island r.requester r.detail0 r.detail1 d.who
    else writeLog s r) s

/-- A pending RECOVER completes. RESULT is DONE when every scope it named has ended, else what holds the first that stays; COUNT
is the scopes ended (R111, R112). The strips (by island), the rerun start-up test of the entropy source and RESET and INIT of
returning dies have run (R112, R360, R507). -/
def execRecoverDone (strips : List (Nat × StripResult)) (startupTestOk diesOk : Bool) (s : State) : Host.Outcome State Fault Refusal :=
  .next <|
    match s.saf.recPending with
    | none => s
    | some r =>
      let (s, ended, stays) := r.targets.foldl (recoverOne strips startupTestOk diesOk) (s, 0, 0)
      let result := if stays ≠ 0 then stays else if r.stays ≠ 0 then r.stays else if ended = 0 then 4 else 0
      let rs := s.saf.deferred
      let s := s.modSaf fun q => { q with recPending := none, deferred := [], recResult := result, recCount := min 0xFF ended }
      serveReads (applyDeferred s rs)

end Sys2Proof.Machine
end

