-- ==== Sys2Proof/Machine/Image.lean ====
section
/-! DEFINITION. The layout image (chapter "The layout: frame catalogue"): the bytes of a slot, the frame walk of check v7,
the ranges of v8, the parsed layout, the constraints of v9 and v10, and where `LAY_ERR` points (R161). -/

namespace Sys2Proof.Machine

/-! ### Bytes -/

/-- The window byte of one address; unlisted bytes are erased flash. -/
def grnByte (mem : List Host.Cell) (a : Nat) : Byte := ((mem.find? (·.1 == a)).map (·.2)).getD 0xFF

/-- `n` window bytes from `a`, in one pass over the ascending cells. -/
def grnRun (n a : Nat) (mem : List Host.Cell) : List Byte := cellRun 0xFF n a mem

def slotBase (m : Member) : Slot → Nat
  | .a => 0
  | .b => m.slotSectors * 4096

def slotBytes (m : Member) : Nat := m.slotSectors * 4096

/-- What the undefined code words among `bytes`, read from address `a`, read as: open bytes (R520, Table GRN-10; log 3). -/
def overlayUndef (s : State) (a : Nat) (bytes : List Byte) : List Byte :=
  if s.grn.undef.isEmpty then bytes
  else bytes.zipIdx.map fun p =>
    let w := (a + p.2) / 32 * 32
    if s.grn.undef.contains w then BitVec.ofNat 8 (Config.freeNat (s.free + a + p.2)) else p.1

def State.slotRun (s : State) (x : Slot) (n : Nat) : List Byte :=
  let a := slotBase s.member x
  overlayUndef s a (grnRun n a s.grn.mem)

def byteAt (l : List Byte) (o : Nat) : Nat := (l.getD o 0).toNat
def le16 (l : List Byte) (o : Nat) : Nat := leNat (slice l o 2)
def le32 (l : List Byte) (o : Nat) : Nat := leNat (slice l o 4)

/-! ### Where a check fails (R161) -/

/-- The image offset of the failing frame's header and the payload (or header) offset of the failing field. -/
structure Loc where
  frame : Nat
  at_ : Nat
deriving DecidableEq, Repr

def noFrame : Nat := 0xFFFFF
def noAt : Nat := 0xFF

def Loc.before (a b : Loc) : Bool := decide (a.frame < b.frame) || (a.frame == b.frame && decide (a.at_ < b.at_))

/-- The first failing item in offset order. -/
def firstLoc (l : List Loc) : Option Loc :=
  l.foldl (fun best x => match best with | none => some x | some b => if x.before b then some x else best) none

/-- One field of a payload that must satisfy a condition; of a condition on several fields the first in offset order (R161,
log 77). -/
def need (at_ : Nat) (ok : Bool) : List Nat := if ok then [] else [at_]

def within (lo hi v : Nat) : Bool := decide (lo ≤ v) && decide (v ≤ hi)

/-- Reserved bytes of a payload, which must be zero: the failing item is the byte (R159; Edges of the frame catalogue). -/
def reserved (pl : List Byte) (o n : Nat) : List Nat := (List.range n).flatMap fun i => need (o + i) (byteAt pl (o + i) == 0)

/-- Fields, each an offset and a length, that must all be zero: the failing item is the field. -/
def zeroFields (pl : List Byte) (l : List (Nat × Nat)) : List Nat := l.flatMap fun x => need x.1 ((slice pl x.1 x.2).all (· == 0))

/-! ### v7: the frames (R152, R155 to R157, R180) -/

/-- Payload length of Table LAY-7; `none` for an unknown type. -/
def frameLen (m : Member) (ty : Nat) (pl : List Byte) : Option Nat :=
  match ty with
  | 0x01 => some 76
  | 0x02 => some (8 + 4 * ceilDiv m.channels 4)
  | 0x03 => some (8 + 16 * m.channels)
  | 0x04 => some (36 + 4 * ceilDiv (byteAt pl 2) 2 + 8 * byteAt pl 3 + 4 * le16 pl 0)
  | 0x05 => some 60
  | 0x06 => some 16
  | 0x07 => some (4 * m.banks)
  | 0x08 => some (4 + 16 * le16 pl 0)
  | 0x09 => some 32
  | 0x0A => if m.hasStack then some 16 else none
  | 0x0B => some 4
  | 0x0C => some 4
  | 0x0D => some 16
  | 0x0F => some 0
  | _ => none

/-- The number of instances of a type. -/
def frameInsts (m : Member) (ty : Nat) : Nat :=
  match ty with
  | 0x04 => 16
  | 0x05 => m.fields
  | 0x06 => m.plots
  | 0x09 => m.ports
  | _ => 1

/-- The next frame at `off`, when its header and payload pass R156 and it stands after `prev` (R157). -/
def frameAt (m : Member) (img : List Byte) (stop off : Nat) (prev : Option (Nat × Nat)) : Option RawFrame :=
  let h := slice img off 12
  let ty := byteAt h 0
  let inst := le16 h 2
  let len := le32 h 4
  let pl := slice img (off + 12) len
  let order := match prev with
    | some (t, i) => decide (t < ty) || (t == ty && decide (i < inst))
    | none => true
  if decide (off + 12 + len ≤ stop) && byteAt h 1 == 1 && frameLen m ty pl == some len && order &&
     decide (inst < frameInsts m ty) && le32 h 8 == crc32c (slice img off 8 ++ pl) then
    some ⟨off, ty, inst, pl⟩
  else none

/-- Walk the frames from `off`; the answer is the frames found and the offset of a failing one. -/
def walkFrames (m : Member) (img : List Byte) (stop : Nat) :
    (fuel off : Nat) → Option (Nat × Nat) → List RawFrame → List RawFrame × Option Nat
  | 0, _, _, acc => (acc.reverse, some noFrame)
  | fuel + 1, off, prev, acc =>
    if stop ≤ off then (acc.reverse, none)
    else
      match frameAt m img stop off prev with
      | none => (acc.reverse, some off)
      | some f =>
        let next := off + 12 + f.payload.length
        if f.ty = 0x0F ∧ next ≠ stop then (acc.reverse, some off)
        else walkFrames m img stop fuel next (some (f.ty, f.inst)) (f :: acc)

def frameOfTy (fs : List RawFrame) (ty inst : Nat) : Option RawFrame := fs.find? fun f => f.ty == ty && f.inst == inst

/-- Check v7: the frames, or the offset it points at. -/
def checkFrames (m : Member) (img : List Byte) (length : Nat) : List RawFrame × Option Nat :=
  let (fs, bad) := walkFrames m img (length - 192) (length / 12 + 1) 32 none []
  match bad with
  | some o => (fs, some o)
  | none =>
    let mandatory := [(0x01, 0), (0x02, 0), (0x03, 0), (0x07, 0), (0x0F, 0)] ++ (List.range m.ports).map fun p => (0x09, p)
    if (mandatory.all fun x => (frameOfTy fs x.1 x.2).isSome) && le16 img 16 == fs.length then (fs, none)
    else (fs, some noFrame)

/-! ### v8: ranges -/

/-- One UTF-8 character at the head of the bytes: what follows it, or `none` when it is not well formed. -/
def utf8Step (l : List Byte) : Option (List Byte) :=
  let cont := fun (b : Byte) => within 0x80 0xBF b.toNat
  match l with
  | [] => none
  | a :: l =>
    let n := a.toNat
    if n < 0x80 then some l
    else
      match l with
      | b :: l =>
        if within 0xC2 0xDF n then (if cont b then some l else none)
        else
          match l with
          | c :: l =>
            if within 0xE0 0xEF n then
              if cont b && cont c && (n != 0xE0 || decide (0xA0 ≤ b.toNat)) && (n != 0xED || decide (b.toNat ≤ 0x9F)) then some l else none
            else
              match l with
              | d :: l =>
                if within 0xF0 0xF4 n && cont b && cont c && cont d && (n != 0xF0 || decide (0x90 ≤ b.toNat)) &&
                   (n != 0xF4 || decide (b.toNat ≤ 0x8F)) then some l else none
              | [] => none
          | [] => none
      | [] => none

def utf8Run : (fuel : Nat) → List Byte → Bool
  | _, [] => true
  | 0, _ => false
  | fuel + 1, l => match utf8Step l with | some t => utf8Run fuel t | none => false

/-- An IDENT string of 32 bytes (R162). -/
def identOk (b : List Byte) : Bool :=
  let text := b.takeWhile (· != 0)
  ((b.drop text.length).all (· == 0)) && utf8Run 32 text

def identText (b : List Byte) : List Byte := b.takeWhile (· != 0)

def rangeIdent (pl : List Byte) : List Nat :=
  let mfr := slice pl 0 32
  let product := slice pl 32 32
  let text := byteAt pl 0 != 0 || byteAt pl 32 != 0
  need 0 (identOk mfr) ++ need 32 (identOk product) ++ need 0 (text == (le16 pl 64 != 0)) ++ need 66 (decide (byteAt pl 66 ≤ 1)) ++
  reserved pl 67 1 ++ (List.range 8).flatMap fun i => need (68 + i) (decide (byteAt pl (68 + i) % 128 ≤ 6))

def chnMultMax : Stepping → Nat
  | .a0 => 24
  | .b0 => 32

def rangeIsland (m : Member) (st : Stepping) (pl : List Byte) : List Nat :=
  need 0 (decide (byteAt pl 0 ≤ 15)) ++ need 1 (within 16 32 (byteAt pl 1)) ++ need 2 (within 16 32 (byteAt pl 2)) ++
  need 3 (if m.hasStack then within 16 32 (byteAt pl 3) else byteAt pl 3 == 0) ++ need 4 (within 4 8 (byteAt pl 4)) ++
  reserved pl 5 3 ++ ((List.range m.channels).flatMap fun c => need (8 + c) (within 4 (chnMultMax st) (byteAt pl (8 + c)))) ++
  reserved pl (8 + m.channels) (pl.length - 8 - m.channels)

/-- One CHANNEL entry (Table LAY-12, R166): the byte offsets within the entry that fail. -/
def rangeChannel (e : List Byte) : List Nat :=
  if byteAt e 1 = 0 then
    zeroFields e [(0, 1), (2, 1), (3, 1), (4, 1), (5, 1), (6, 1), (7, 1), (8, 2), (10, 2), (12, 2)] ++ reserved e 14 2
  else
    let mask := byteAt e 1
    let luns := byteAt e 2
    let one := need 0 (decide (byteAt e 0 ≤ 1)) ++ need 1 (decide (mask ≤ 15)) ++ need 2 (within 1 4 luns) ++
      need 3 ([1, 2, 4].contains (byteAt e 3)) ++ need 4 ([8, 16, 32].contains (byteAt e 4)) ++ need 5 (within 1 4 (byteAt e 5)) ++
      need 6 (decide (byteAt e 6 ≤ 15)) ++ need 7 (decide (byteAt e 7 ≤ 3)) ++ need 8 (decide (le16 e 8 ≤ 8192)) ++
      need 10 (within 64 4096 (le16 e 10)) ++ need 12 (within 128 16384 (le16 e 12)) ++ reserved e 14 2
    one ++ need 1 (decide (popcount (mask % 16) * luns ≤ 16)) ++
      need 3 (decide (byteAt e 4 * 8192 * le16 e 10 * le16 e 12 * byteAt e 3 ≤ 2 ^ 42))

def rangeChannels (m : Member) (pl : List Byte) : List Nat :=
  need 0 (within 1 64 (byteAt pl 0)) ++ reserved pl 1 1 ++ need 2 (decide (ceilDiv m.channels 29 ≤ le16 pl 2)) ++ reserved pl 4 4 ++
  (List.range m.channels).flatMap fun c => (rangeChannel (slice pl (8 + 16 * c) 16)).map (8 + 16 * c + ·)

/-! Recipe words (Table CHN-5). -/

def recipeTiming (pl : List Byte) : List Nat := (List.range (byteAt pl 2)).map fun i => le16 pl (36 + 2 * i)
def recipeCodeAt (pl : List Byte) : Nat := 36 + 4 * ceilDiv (byteAt pl 2) 2 + 8 * byteAt pl 3
def recipeEntries (pl : List Byte) : List Nat := (List.range 16).map fun i => le16 pl (4 + 2 * i)
def recipeCode (pl : List Byte) : List Word := (List.range (le16 pl 0)).map fun i => w32 (le32 pl (recipeCodeAt pl + 4 * i))

/-- Bits of a word that Table CHN-4 names for its opcode, LAST among them. -/
def namedBits (op : Nat) : Nat :=
  let last := 2 ^ 26
  match op with
  | 0x00 => last | 0x01 => last + (2 ^ 17 - 1) | 0x02 => last + (2 ^ 14 - 1) | 0x03 => last + (2 ^ 26 - 1)
  | 0x04 => last + (2 ^ 11 - 1) | 0x05 => last + (2 ^ 5 - 1) | 0x06 => last + (2 ^ 6 - 1) | 0x07 => last + (2 ^ 5 - 1)
  | 0x08 => last + (2 ^ 14 - 1) | 0x09 => last + (2 ^ 21 - 1) | 0x0A => last + (2 ^ 13 - 1) | 0x0B => last
  | 0x0C => last + (2 ^ 12 - 1) | 0x0D => last + 0xF3 | 0x0E => last + (2 ^ 19 - 1) | 0x0F => last
  | _ => 0

/-- The word a word may continue at besides the next one: TARGET or ERR. -/
def wordTarget (w : Word) : Option Nat :=
  match opcodeOf w with
  | 0x01 => some (field w 5 12)
  | 0x09 => some (field w 9 12)
  | 0x0C => some (field w 0 12)
  | _ => none

/-- R667: the timing modes an interface has. Which NV-DDR3 mode numbers the standard defines is not in the spec. -/
def modeAllowed (iface tmode : Nat) : Bool :=
  match iface with
  | 0 => decide (tmode ≤ 5)
  | 1 => Config.nvDdr3Mode tmode
  | 2 => decide (tmode ≤ 10)
  | _ => false

/-- The checks of Table CHN-5 that concern one word by itself. -/
def wordOk (ntiming words : Nat) (w : Word) : Bool :=
  let op := opcodeOf w
  let idx := fun (t : Nat) => decide (t < ntiming) || t == 31
  let busy := fun (used : Bool) (t : Nat) => if used then idx t else t == 0
  let target := fun (t : Nat) => decide (t < words) || t == 0xFFF
  decide (op ≤ 0x0F) && (w.toNat % 2 ^ 27 &&& namedBits op) == w.toNat % 2 ^ 27 &&
  !([0x00, 0x01, 0x0F, 0x0A, 0x0B, 0x0C].contains op && w.getLsbD 26) &&
  (match op with
   | 0x01 => idx (field w 0 5) && target (field w 5 12)
   | 0x02 => busy (w.getLsbD 8) (field w 9 5)
   | 0x03 => busy (w.getLsbD 19 || w.getLsbD 20) (field w 21 5)
   | 0x04 => decide (field w 0 3 ≤ 4)
   | 0x05 => decide (field w 0 3 ≤ 4)
   | 0x06 => decide (field w 0 3 ≤ 2)
   | 0x07 => decide (field w 0 5 < ntiming)
   | 0x08 => idx (field w 8 5)
   | 0x09 => target (field w 9 12)
   | 0x0A => decide (field w 0 3 ≤ 4)
   | 0x0C => decide (field w 0 12 < words) && field w 0 12 != 0xFFF
   | 0x0D => modeAllowed (field w 0 2) (field w 4 4)
   | _ => true)

/-- The loops of a text: pairs of LOOP and NEXT, and the words that break the nesting rules. -/
def scanLoops : (i : Nat) → List Word → (stack : List Nat) → (loops : List (Nat × Nat)) → (bad : List Nat) →
    List (Nat × Nat) × List Nat
  | _, [], stack, loops, bad => (loops, stack ++ bad)
  | i, w :: ws, stack, loops, bad =>
    let op := opcodeOf w
    if op = 0x0A then scanLoops (i + 1) ws (i :: stack) loops (if 4 ≤ stack.length then i :: bad else bad)
    else if op = 0x0B then
      match stack with
      | [] => scanLoops (i + 1) ws [] loops (i :: bad)
      | l :: stack => scanLoops (i + 1) ws stack ((l, i) :: loops) bad
    else if op = 0x03 ∧ stack.length ≤ field w 16 2 then scanLoops (i + 1) ws stack loops (i :: bad)
    else scanLoops (i + 1) ws stack loops bad

/-- Words of a recipe that break Table CHN-5. -/
def badWords (pl : List Byte) : List Nat :=
  let code := recipeCode pl
  let entries := recipeEntries pl
  let timing := recipeTiming pl
  let points := (entries.take 12).filter fun e => e != 0xFFFF
  let (loops, nest) := scanLoops 0 code [] [] []
  let inBody := fun (l : Nat × Nat) (i : Nat) => decide (l.1 < i) && decide (i ≤ l.2)
  let zq := entries.getD 8 0xFFFF
  (List.range code.length).filter fun i =>
    let w := code.getD i 0
    !wordOk timing.length code.length w || nest.contains i || ((opcodeOf w == 0x01) != points.contains i) ||
    (match wordTarget w with
     | some t => t != 0xFFF && loops.any fun l => inBody l t && !inBody l i
     | none => false) ||
    (i == zq && opcodeOf w == 0x01 && (match timing[field w 0 5]? with
      | some t => field w 0 5 == 31 || decide (76000 < timingNs t)
      | none => true))

def rangeRecipe (pl : List Byte) : List Nat :=
  need 0 (within 1 4096 (le16 pl 0)) ++ need 2 (decide (byteAt pl 2 ≤ 32)) ++ need 3 (decide (byteAt pl 3 ≤ 16)) ++
  (if byteAt pl 2 % 2 = 1 then reserved pl (36 + 2 * byteAt pl 2) 2 else []) ++
  (badWords pl).map fun i => recipeCodeAt pl + 4 * i

def rangeField (m : Member) (pl : List Byte) : List Nat :=
  let b := byteAt pl
  let h := le16 pl
  need 0 (decide (leNat (slice pl 0 12) < 2 ^ m.channels)) ++ need 12 (decide (b 12 ≤ 3)) ++ need 13 (within 2 32 (b 13)) ++
  need 14 (decide (b 14 ≤ 1)) ++ need 15 (decide (b 15 ≤ 1)) ++ need 16 (within 1 8 (b 16)) ++ need 15 (b 15 != 1 || decide (2 ≤ b 16)) ++
  need 17 (decide (b 17 ≤ 1)) ++ need 18 (within 1 3 (b 18)) ++ need 19 (decide (b 19 ≤ 1)) ++ need 20 (decide (h 20 ≤ 1024)) ++
  need 24 (within 1 1024 (h 24)) ++ need 26 (within 1 4096 (h 26)) ++ need 28 (decide (1 ≤ h 28)) ++ need 30 (within 1 50 (b 30)) ++
  need 31 (decide (b 31 ≤ 75)) ++ need 30 (decide (b 30 < b 31)) ++ need 15 (b 15 != 0 || (slice pl 32 4).any (· != 0)) ++
  need 36 (within 1000 16777215 (le32 pl 36)) ++ need 40 (decide (1 ≤ h 40)) ++ reserved pl 42 2 ++
  need 19 (b 19 != 0 || (slice pl 44 16).all (· == 0))

def rangePlot (pl : List Byte) : List Nat :=
  let b := byteAt pl
  need 1 (decide (b 1 ≤ 1)) ++ need 2 (decide (b 2 ≤ 3)) ++ need 3 (b 3 == 0 || within 2 15 (b 3)) ++ need 4 (decide (1 ≤ b 4)) ++
  need 5 (decide (b 5 ≤ 1)) ++ reserved pl 6 2 ++
  need 8 (within 1 (2 ^ 40) (leNat (slice pl 8 8))) ++ need 1 (b 1 != 1 || decide (leNat (slice pl 8 8) ≤ 65536))

/-- Identities of Table GLB-4 that the member carries. -/
def carriedId (m : Member) (n : Nat) : Bool :=
  if n < 0x60 then decide (n < m.channels)
  else if n < 0x80 then decide (n - 0x60 < m.ciphers)
  else if n = 0x81 then decide (2 ≤ m.ports)
  else if n = 0x82 then m.hasStack
  else if 0x83 ≤ n ∧ n ≤ 0x86 then decide (n - 0x83 < m.fmIslands)
  else decide (n ≤ 0x8A)

def rangeBank (m : Member) (pl : List Byte) : List Nat :=
  (List.range m.banks).flatMap fun i =>
    let b := fun (k : Nat) => byteAt pl (4 * i + k)
    need (4 * i) (carriedId m (b 0)) ++ need (4 * i + 1) (decide (b 1 ≤ 4)) ++
    need (4 * i + 1) (if b 1 = 0 ∨ b 1 = 4 then b 2 == 0xFF else true) ++ reserved pl (4 * i + 3) 1

def rangeMpu (m : Member) (pl : List Byte) : List Nat :=
  let index := fun (i : Nat) => le16 pl (4 + 16 * i)
  need 0 (decide (le16 pl 0 ≤ m.mpuRegions)) ++ reserved pl 2 2 ++
  (List.range (le16 pl 0)).flatMap fun i =>
    let o := 4 + 16 * i
    let size := 2 ^ (byteAt pl (o + 2) + 8)
    let base := le32 pl (o + 4)
    let limit := if (byteAt pl (o + 3)).testBit 1 then m.banks * 0x40000 else 2 ^ 24
    need o (decide (index i < m.mpuRegions)) ++ need (o - 16) (i == 0 || decide (index (i - 1) < index i)) ++
    need (o + 2) (decide (byteAt pl (o + 2) ≤ 24)) ++ need (o + 3) (decide (byteAt pl (o + 3) ≤ 3)) ++
    need (o + 2) (base % size == 0) ++ need (o + 2) (decide (base + size ≤ limit)) ++
    need (o + 8) (decide (le16 pl (o + 8) < 2 ^ 9)) ++ need (o + 10) (decide (le16 pl (o + 10) < 2 ^ 9)) ++ reserved pl (o + 12) 4

def rangePort (m : Member) (pl : List Byte) : List Nat :=
  let b := byteAt pl
  need 0 (decide (b 0 ≤ 1)) ++ need 1 (decide (b 1 ≤ m.usbMax)) ++ need 2 (decide (b 2 ≤ 7)) ++ need 3 (decide (b 3 ≤ 15)) ++
  need 10 (decide (b 10 ≤ 1)) ++ reserved pl 11 1 ++ need 12 (decide (le16 pl 12 ≤ 900)) ++ reserved pl 14 2 ++
  need 16 (decide (2 ≤ b 16)) ++ need 17 (decide (4 ≤ b 17)) ++
  ((List.range 14).flatMap fun k => need (18 + k) (b (18 + k) == 0 || decide (8 ≤ b (18 + k)))) ++
  need 16 (decide (((slice pl 16 16).map (·.toNat)).sum ≤ 256))

def rangeStack (m : Member) (pl : List Byte) : List Nat :=
  let b := byteAt pl
  if b 0 = 0 then zeroFields pl [(1, 1), (2, 1), (3, 1), (4, 1), (6, 2), (8, 4)] ++ reserved pl 5 1 ++ reserved pl 12 4
  else
    need 0 (b 0 == 1) ++ need 1 (decide (b 1 ≤ 1)) ++ need 2 (within 1 m.stackMax (b 2)) ++ need 3 (within 4 64 (b 3)) ++
    need 4 (within 1 15 (b 4)) ++ reserved pl 5 1 ++ need 6 (within 100 10000 (le16 pl 6)) ++ reserved pl 12 4

def rangeSafety (pl : List Byte) : List Nat :=
  need 0 (within 1 7 (byteAt pl 0)) ++ need 1 (decide (byteAt pl 1 ≤ 1)) ++ reserved pl 2 2

def rangePower (pl : List Byte) : List Nat :=
  need 0 (decide (byteAt pl 0 ≤ 1)) ++ need 1 (within 60 110 (byteAt pl 1)) ++ need 2 (within 1 2 (byteAt pl 2)) ++ reserved pl 3 1

/-- Failing payload offsets of a frame. -/
def rangeFrame (m : Member) (st : Stepping) (f : RawFrame) : List Nat :=
  match f.ty with
  | 0x01 => rangeIdent f.payload
  | 0x02 => rangeIsland m st f.payload
  | 0x03 => rangeChannels m f.payload
  | 0x04 => rangeRecipe f.payload
  | 0x05 => rangeField m f.payload
  | 0x06 => rangePlot f.payload
  | 0x07 => rangeBank m f.payload
  | 0x08 => rangeMpu m f.payload
  | 0x09 => rangePort m f.payload
  | 0x0A => rangeStack m f.payload
  | 0x0B => rangeSafety f.payload
  | 0x0C => rangePower f.payload
  | _ => []

/-- Header fields that belong to v8 (Table LAY-5). -/
def rangeHeader (img : List Byte) : List Nat :=
  need 4 (le16 img 4 == 1) ++ need 7 (byteAt img 7 == 0) ++ reserved img 18 2 ++ reserved img 28 4

def checkRanges (m : Member) (st : Stepping) (img : List Byte) (fs : List RawFrame) : Option Loc :=
  firstLoc ((rangeHeader img).map (⟨0, ·⟩) ++ fs.flatMap fun f => (rangeFrame m st f).map (⟨f.offset, ·⟩))

/-! ### The parsed layout (R158, R162 to R181) -/

def bitsSet (n w : Nat) : List Nat := (List.range w).filter n.testBit

def parseChan (e : List Byte) : ChanCfg :=
  ⟨byteAt e 0, byteAt e 1, byteAt e 2, byteAt e 3, byteAt e 4, byteAt e 5, byteAt e 6, byteAt e 7, le16 e 8, le16 e 10, le16 e 12⟩

def parseRecipe (f : RawFrame) : RecipeCfg :=
  let pl := f.payload
  let retryAt := 36 + 4 * ceilDiv (byteAt pl 2) 2
  { set := f.inst
    entries := recipeEntries pl
    timing := recipeTiming pl
    retry := (List.range (byteAt pl 3)).map fun i => slice pl (retryAt + 8 * i) 8
    code := recipeCode pl }

def parseField (m : Member) (f : RawFrame) : FieldCfg :=
  let b := byteAt f.payload
  let h := le16 f.payload
  { inst := f.inst
    chans := bitsSet (leNat (slice f.payload 0 12)) m.channels
    grain := b 12
    stripeW := b 13
    wear := b 14
    glean := b 15
    streams := b 16
    discard := b 17
    retention := b 18
    wide := b 19 == 1
    seedbedMax := h 20
    seedbedFactor := h 22
    headlandMin := h 24
    openBudget := h 26
    fixCadence := h 28
    gleanLow := b 30
    gleanHigh := b 31
    weights := (slice f.payload 32 4).map (·.toNat)
    readRefresh := le32 f.payload 36
    doseRefresh := h 40
    devices := bitsSet (leNat (slice f.payload 44 16)) 128 }

def parsePlot (f : RawFrame) : PlotCfg :=
  let b := byteAt f.payload
  ⟨f.inst, b 0, b 1 == 1, b 2, b 3, b 4, b 5 % 2 == 1, leNat (slice f.payload 8 8)⟩

def parseBank (e : List Byte) : BankCfg := ⟨BitVec.ofNat 8 (byteAt e 0), byteAt e 1, byteAt e 2⟩

def parseMpu (e : List Byte) : MpuCfg :=
  ⟨le16 e 0, byteAt e 2, (byteAt e 3).testBit 0, (byteAt e 3).testBit 1, le32 e 4, le16 e 8, le16 e 10⟩

def parsePort (f : RawFrame) : PortCfg :=
  let b := byteAt f.payload
  let h := le16 f.payload
  ⟨b 0 == 1, b 1, b 2, b 3, h 4, h 6, h 8, b 10, h 12, (slice f.payload 16 16).map (·.toNat)⟩

def parseStack (pl : List Byte) : StackCfg :=
  let b := byteAt pl
  ⟨b 0 == 1, b 1 == 1, b 2, b 3, b 4, le16 pl 6, le32 pl 8⟩

/-- The layout an image that passed v8 describes, absent frames at their defaults. -/
def parseLayout (m : Member) (img : List Byte) (fs : List RawFrame) : Layout :=
  let pl := fun (ty : Nat) => ((frameOfTy fs ty 0).map (·.payload)).getD []
  let all := fun (ty : Nat) => fs.filter (·.ty == ty)
  let id := pl 0x01
  let isl := pl 0x02
  let ch := pl 0x03
  let mpu := pl 0x08
  let safety := frameOfTy fs 0x0B 0
  let power := frameOfTy fs 0x0C 0
  let ticket := frameOfTy fs 0x0D 0
  { member := byteAt img 6
    epoch := le32 img 8
    length := le32 img 12
    frames := fs
    mfr := identText (slice id 0 32)
    product := identText (slice id 32 32)
    langId := le16 id 64
    noSerial := byteAt id 66 == 1
    gpio := slice id 68 8
    wdog := byteAt isl 0
    fmMult := byteAt isl 1
    portMult := byteAt isl 2
    stkMult := byteAt isl 3
    grnMult := byteAt isl 4
    chnMult := (slice isl 8 m.channels).map (·.toNat)
    readBurst := byteAt ch 0
    zqCycles := le16 ch 2
    channels := (List.range m.channels).map fun c => parseChan (slice ch (8 + 16 * c) 16)
    recipes := (all 0x04).map parseRecipe
    fields := (all 0x05).map (parseField m)
    plots := (all 0x06).map parsePlot
    banks := (List.range m.banks).map fun i => parseBank (slice (pl 0x07) (4 * i) 4)
    mpu := (List.range (le16 mpu 0)).map fun i => parseMpu (slice mpu (4 + 16 * i) 16)
    ports := (all 0x09).map parsePort
    stack := parseStack (pl 0x0A)
    strikeLimit := (safety.map fun f => byteAt f.payload 0).getD 3
    sofCheck := (safety.map fun f => byteAt f.payload 1 == 1).getD true
    durable := (power.map fun f => byteAt f.payload 0 == 1).getD false
    tempAlert := (power.map fun f => byteAt f.payload 1).getD 100
    suspendTarget := (power.map fun f => byteAt f.payload 2).getD 2
    tickets := (ticket.map fun f => (List.range 8).map fun k => le16 f.payload (2 * k)).getD m.defaultReservations }

/-! ### v9: constraints (R164, R167, R169, R171, R173, R174, R176, R179, R181, R609) -/

def offOf (l : Layout) (ty inst : Nat) : Nat := ((frameOfTy l.frames ty inst).map (·.offset)).getD noFrame

/-- A frame's failing item, when a condition does not hold. -/
def must (loc : Loc) (ok : Bool) : List Loc := if ok then [] else [loc]

/-- The later of the frames involved (R161). -/
def laterOf (a b : Loc) : Loc := if b.before a ∨ b.frame = noFrame then a else b

def conIsland (l : Layout) : List Loc :=
  ((List.range l.ports.length).zip l.ports).flatMap fun x =>
    let want := match x.2.maxSpeed with | 2 => 20 | 3 => 24 | _ => 0
    must ⟨offOf l 0x09 x.1, 0⟩ (!x.2.enable || decide (want ≤ l.portMult))

def conChannels (l : Layout) : List Loc :=
  ((List.range l.channels.length).zip l.channels).flatMap fun x =>
    let k := x.2
    let o := 8 + 16 * x.1
    if k.ceMask = 0 then []
    else must ⟨offOf l 0x03 0, o + 6⟩ (l.recipe? k.recipeSet).isSome ++
      must ⟨offOf l 0x03 0, o + 4⟩ (decide (k.pageKib / 4 * (32 + ldpcParity k.ldpc) + 64 ≤ k.spare))

/-- R169: required entries, RETRY_SET with NRETRY, SUSPEND with RESUME, entries below WORDS, reserved entries. -/
def conRecipe (l : Layout) (r : RecipeCfg) : List Loc :=
  let e := fun (i : Nat) => r.entries.getD i 0xFFFF
  let at_ := fun (o : Nat) => (⟨offOf l 0x04 r.set, o⟩ : Loc)
  let here := fun (i : Nat) => at_ (4 + 2 * i)
  ([0, 1, 2, 3, 4, 5].flatMap fun i => must (here i) (e i != 0xFFFF)) ++ must (at_ 3) (r.retry.isEmpty || e 9 != 0xFFFF) ++
  must (here 10) ((e 10 == 0xFFFF) == (e 11 == 0xFFFF)) ++
  must (at_ 0) ((List.range 12).all fun i => e i == 0xFFFF || decide (e i < r.code.length)) ++
  [12, 13, 14, 15].flatMap fun i => must (here i) (e i == 0xFFFF)

def bankServes (l : Layout) (role f : Nat) (island : Option Nat) : Bool :=
  ((List.range l.banks.length).zip l.banks).any fun x =>
    x.2.role == role && x.2.field == f && (match island with | some i => x.1 / 16 == i | none => true)

/-- R171 with the Seedbed entries of Table LAY-14 and R609. -/
def conField (m : Member) (l : Layout) (f : FieldCfg) : List Loc :=
  let fo := offOf l 0x05 f.inst
  let bo := offOf l 0x07 0
  let so := offOf l 0x0A 0
  let entries := f.chans.map fun c => l.channels.getD c ⟨0, 0, 0, 0, 0, 0, 0, 0, 0, 0, 0⟩
  let k := entries.head?.getD ⟨0, 0, 0, 0, 0, 0, 0, 0, 0, 0, 0⟩
  let earlier := l.fields.filter fun g => decide (g.inst < f.inst)
  let lim := if f.wide then f.devices.length else if m = .z1 then popcount k.ceMask * k.luns else f.chans.length
  let rec? := l.recipe? k.recipeSet
  let slc := match rec? with | some r => r.entries.getD 6 0xFFFF != 0xFFFF && r.entries.getD 7 0xFFFF != 0xFFFF | none => true
  must ⟨fo, 0⟩ (!f.chans.isEmpty) ++ must ⟨fo, 0⟩ (entries.all (·.ceMask != 0)) ++
  must ⟨fo, 0⟩ (f.chans.all fun c => earlier.all fun g => !g.chans.contains c) ++ must ⟨fo, 0⟩ (entries.all (· == k)) ++
  must ⟨fo, if f.wide then 13 else 0⟩ (decide (f.stripeW ≤ lim)) ++ must ⟨fo, 20⟩ (f.seedbedMax == 0 || (decide (2 ≤ k.bits) && slc)) ++
  must (laterOf ⟨fo, 0⟩ ⟨bo, noAt⟩) (f.chans.all fun c => bankServes l 1 f.inst (some (c / 8))) ++
  must (laterOf ⟨fo, noAt⟩ ⟨bo, noAt⟩) (bankServes l 2 f.inst none && bankServes l 3 f.inst none) ++
  (if !f.wide then []
   else must (laterOf ⟨fo, 19⟩ ⟨so, 0⟩) l.stack.enable ++ must ⟨fo, 19⟩ (decide (2 ≤ f.devices.length)) ++
     must ⟨fo, 19⟩ (f.devices.contains 0) ++
     must (laterOf ⟨fo, 44⟩ ⟨so, 2⟩) (!l.stack.enable || f.devices.all fun p => decide (p < l.stack.expect)))

def plotLoad (p : PlotCfg) : Nat := if p.credential then 2 * p.capacity else p.capacity

/-- R173 and the second condition of R609. -/
def conPlot (l : Layout) (p : PlotCfg) : List Loc :=
  let po := offOf l 0x06 p.inst
  let earlier := l.plots.filter fun q => decide (q.inst < p.inst)
  let ports := (List.range 2).filter p.ports.testBit
  match l.field? p.field with
  | none => [⟨po, 0⟩]
  | some f =>
    let load := (((earlier.filter (·.field == p.field)) ++ [p]).map plotLoad).sum
    (ports.flatMap fun q => must (laterOf ⟨po, 2⟩ ⟨offOf l 0x09 q, 0⟩) ((l.ports[q]?.map (·.enable)).getD false)) ++
    must ⟨po, 0⟩ (!(p.credential && f.wide)) ++
    must ⟨po, 2⟩ (p.embPort == 0 || earlier.all fun q => q.embPort != p.embPort || (q.ports &&& p.ports) == 0) ++
    (ports.flatMap fun q => must (laterOf ⟨po, 2⟩ ⟨offOf l 0x09 q, 16 + p.embPort⟩)
      (p.embPort == 0 || decide (8 ≤ (l.ports[q]?.map fun c => c.carve.getD p.embPort 0).getD 0))) ++
    must ⟨po, 8⟩ (decide (load ≤ (geoOf l f).capacity))

/-- R174. A bank of role 1 to 3 whose FIELD names an absent Field fails here, as a Plot whose FIELD does, and not with RANGE
(DESIGN CHOICE, log 100). -/
def conBank (l : Layout) : List Loc :=
  ((List.range l.banks.length).zip l.banks).flatMap fun x =>
    let b := x.2
    let bo := offOf l 0x07 0
    if b.role = 1 ∨ b.role = 2 ∨ b.role = 3 then
      must ⟨bo, 4 * x.1 + 1⟩ (l.field? b.field).isSome ++ must ⟨bo, 4 * x.1⟩ (b.owner == idFm (b.field / 4))
    else if b.role = 4 then must ⟨bo, 4 * x.1⟩ (isHostId b.owner)
    else []

/-- R176: two overlapping enabled regions, at the first field both the sizes and the bases of the pair involve: SIZE of the first
region (R161). -/
def conMpu (l : Layout) : List Loc :=
  ((List.range l.mpu.length).zip l.mpu).flatMap fun x =>
    must ⟨offOf l 0x08 0, 4 + 16 * x.1 + 2⟩ ((l.mpu.drop (x.1 + 1)).all fun r => !x.2.clash r)

/-- R179: the last frame that could have given a way in. -/
def conWayIn (l : Layout) : List Loc :=
  let last := ((List.range l.ports.length).map fun p => (⟨offOf l 0x09 p, 0⟩ : Loc)).foldl laterOf ⟨0, 0⟩
  must (laterOf last ⟨offOf l 0x0A 0, 0⟩) (l.ports.any (·.enable) || l.stack.enable)

def conTicket (m : Member) (l : Layout) : List Loc :=
  must ⟨offOf l 0x0D 0, 0⟩ (decide (l.tickets.sum ≤ m.pool * 31 / 32))

def checkConstraints (m : Member) (l : Layout) : Option Loc :=
  firstLoc (conIsland l ++ conChannels l ++ l.recipes.flatMap (conRecipe l) ++ l.fields.flatMap (conField m l) ++
    l.plots.flatMap (conPlot l) ++ conBank l ++ conMpu l ++ conWayIn l ++ conTicket m l)

/-- R178. -/
def checkIdentity (l : Layout) : Option Loc :=
  let bad := fun (v : Nat) => v == 0 || v == 0xFFFF
  firstLoc (((List.range l.ports.length).zip l.ports).flatMap fun x =>
    let o := offOf l 0x09 x.1
    if x.2.enable then must ⟨o, 4⟩ (!bad x.2.vid) ++ must ⟨o, 6⟩ (!bad x.2.pid) else [])

end Sys2Proof.Machine
end

