-- ==== Sys2Proof/Machine/LayoutCmd.lean ====
section
/-! DEFINITION. The life of a layout (chapter "The layout: signing, slots and activation"): verification of a slot, the
three operations of `LAY_CTRL`, the commit, and what a warm activation changes. -/

namespace Sys2Proof.Machine

/-! ### Verification (Table LAY-2, v1 to v13) -/

/-- What the verification of a slot found. -/
structure Verdict where
  reason : Nat
  err : Option Loc           -- where `LAY_ERR` points, from check v2 on
  epoch : Nat                -- the header's epoch
  image : Option Layout      -- on success
  digest : List Byte
deriving DecidableEq, Repr

def State.counter0 (s : State) : Nat := s.grn.counters.getD 0 0

/-- The OEM key hash of Seed words 2 and 3; none while one of them is unprogrammed (Table GRN-6). -/
def State.keyHash (s : State) : Option (List Byte) :=
  match s.seedWord 2, s.seedWord 3 with
  | some a, some b => some (a ++ b.take 16)
  | _, _ => none

def magic : List Byte := [0x5A, 0x4B, 0x4C, 0x59]

/-- Checks v6 to v13 of an image whose signature has verified. -/
def verifyContent (s : State) (img : List Byte) (length epoch : Nat) : Verdict :=
  let m := s.member
  let digest := Config.sha384 (img.take (length - 192))
  let fail := fun (reason : Nat) (loc : Loc) => (⟨reason, some loc, epoch, none, digest⟩ : Verdict)
  if byteAt img 6 ≠ m.channels then fail 0x06 ⟨0, 6⟩
  else
    match checkFrames m img length with
    | (_, some o) => fail 0x07 ⟨o, noAt⟩
    | (fs, none) =>
      match checkRanges m s.stepping img fs with
      | some loc => fail 0x08 loc
      | none =>
        let l := parseLayout m img fs
        match checkConstraints m l, checkIdentity l with
        | some loc, _ => fail 0x09 loc
        | none, some loc => fail 0x0A loc
        | none, none =>
          if epoch = 0 ∨ epoch < s.counter0 then fail 0x0B ⟨0, 8⟩
          else if s.counter0 + 1 < epoch then fail 0x0C ⟨0, 8⟩
          else if epoch = s.counter0 + 1 ∧ s.counter0 = counterMax then fail 0x0D ⟨0, 8⟩
          else ⟨0, none, epoch, some l, digest⟩

/-- Verify one slot (R122, R160, R182, R183). A slot without MAGIC has no header, so its EPOCH reads 0 (DESIGN CHOICE, log 78). -/
def verifySlot (s : State) (x : Slot) (read : SlotRead) : Verdict :=
  let head := s.slotRun x 32
  let length := le32 head 12
  let epoch := le32 head 8
  let img := s.slotRun x length
  let block := slice img (length - 192) 192
  let fail := fun (reason : Nat) => (⟨reason, some ⟨noFrame, noAt⟩, epoch, none, []⟩ : Verdict)
  if head.take 4 ≠ magic then ⟨0x01, none, 0, none, []⟩
  else if length < 236 ∨ slotBytes s.member < length ∨ length % 4 ≠ 0 then ⟨0x02, some ⟨0, 12⟩, epoch, none, []⟩
  else
    match s.keyHash with
    | none => fail 0x03
    | some hash =>
      if Config.sha384 (block.take 96) ≠ hash then fail 0x04
      else if !read.readsAgree || !read.correctable || !Config.ecdsaValid (block.take 96) (img.take (length - 192)) (block.drop 96) then fail 0x05
      else verifyContent s img length epoch

def slotIndex : Slot → Nat
  | .a => 0 | .b => 1

/-- What a verification leaves in `LAY_SLOT` and `LAY_ERR`. -/
def noteVerdict (s : State) (x : Slot) (v : Verdict) : State :=
  s.modLay fun l => { l with
    slots := l.slots.set (slotIndex x) ⟨min v.epoch 0xFFFFF, decide (0xFFFFF < v.epoch), true, v.reason⟩
    errOffset := match v.err with | some e => e.frame | none => l.errOffset
    errAt := match v.err with | some e => if e.at_ ≤ 254 then e.at_ else noAt | none => l.errAt }

/-! ### `LAY_CTRL` (R151, a1 to a6) -/

def State.layBusy (s : State) : Bool := s.lay.starting || s.lay.run.isSome

def State.anyPlotUp (s : State) : Bool := s.plotList.any fun n => (s.plot n).mode.up

/-- The reason an operation is refused at its grant, 0 for none. -/
def layRefusal (s : State) (id : Identity) (op : Nat) (x : Slot) : Nat :=
  if !s.holdsSem id 1 then 0x10
  else if s.layBusy || !s.lay.recipePend.isEmpty then 0x11
  else if op = 1 then 0
  else if s.pwr.state = .dark then 0x12
  else if s.hasLayout && s.lay.activeSlot == x then 0x13
  else if op = 3 ∧ s.saf.scopes.any (·.latch) then 0x15
  else if op = 3 ∧ s.anyPlotUp then 0x14
  else 0

/-- A granted write of `LAY_CTRL`: refused with its reason, without any effect while an operation is in progress, or begun. -/
def layCommand (s : State) (id : Identity) (op : Nat) (x : Slot) : State :=
  if s.layBusy then s
  else
    let reason := layRefusal s id op x
    if reason ≠ 0 then s.modLay fun l => { l with op := op, result := reason }
    else s.modLay fun l => { l with op := op, run := some ⟨op, x, id, .verifying, none, []⟩ }

def execLayVerify (id : Identity) (slot : Slot) (s : State) : Host.Outcome State Fault Refusal :=
  .next <| csWrite s id csLayCtrl true fun s => layCommand s id 1 slot

def execWarmActivation (id : Identity) (slot : Slot) (s : State) : Host.Outcome State Fault Refusal :=
  .next <| csWrite s id csLayCtrl true fun s => layCommand s id 2 slot

def execColdActivation (id : Identity) (slot : Slot) (s : State) : Host.Outcome State Fault Refusal :=
  .next <| csWrite s id csLayCtrl true fun s => layCommand s id 3 slot

/-! ### Verification ends (R127, R128, R133, R135) -/

/-- The operation ends with a result. -/
def endLayOp (s : State) (reason : Nat) : State := s.modLay fun l => { l with result := reason, run := none }

/-- Frames of Table LAY-3. -/
def warmType (ty : Nat) : Bool := [0x04, 0x08, 0x0B, 0x0C, 0x0D].contains ty

/-- The frames that differ, or none when the sequence differs or a frame outside Table LAY-3 does (R135). -/
def warmDiff (old new : Layout) : Option (List RawFrame) :=
  let key := fun (f : RawFrame) => (f.ty, f.inst)
  if old.frames.map key ≠ new.frames.map key then none
  else
    let changed := (old.frames.zip new.frames).filterMap fun p => if p.1.payload = p.2.payload then none else some p.2
    if changed.all fun f => warmType f.ty then some changed else none

/-- Raise counter 0 and write the activation record (R127, R128); spare-exhausted, the record is not written (R515). -/
def recordActivation (s : State) (x : Slot) (l : Layout) (digest : List Byte) : State :=
  let s := structWrite (s.modGrn fun g => { g with counters := g.counters.set 0 (g.counters.getD 0 0 + 1) }) 0
  if s.spareOut then s
  else structWrite (s.modGrn fun g => { g with act := some ⟨x, l.epoch, digest⟩ }) 0x100

/-- The verification of the named slot ends: a refusal, the end of a VERIFY, or the commit's request. -/
def execSlotVerified (read : SlotRead) (s : State) : Host.Outcome State Fault Refusal :=
  .next <|
    match s.lay.run with
    | none => s
    | some r =>
      if r.stage ≠ .verifying then s
      else
        let v := verifySlot s r.slot read
        let s := noteVerdict s r.slot v
        match v.image with
        | none => endLayOp s v.reason
        | some l =>
          if r.op = 1 then endLayOp s 0
          else if l.epoch = s.counter0 then endLayOp s 0x16
          else if r.op = 2 ∧ ((s.lay.active.bind fun old => warmDiff old l).isNone) then endLayOp s 0x17
          else
            let s := recordActivation s r.slot l v.digest
            s.modLay fun q => { q with run := some { r with stage := .committing, image := some l, digest := v.digest } }

/-! ### Warm effects (Table LAY-3, R136 to R142) -/

/-- Held tickets of a class, up to its reservation its own and the rest shared (R137). -/
def reassignTickets (reserved : List Nat) (ts : List Ticket) : List Ticket :=
  (ts.foldl (fun (a : List Ticket × List Nat) t =>
    let k := t.cls
    let used := a.2.getD k 0
    (a.1 ++ [{ t with shared := decide (reserved.getD k 0 ≤ used) }], a.2.set k (used + 1))) ([], List.replicate 8 0)).1

def applyTickets (s : State) (reserved : List Nat) : State :=
  let s := s.modArb fun a => { a with reserved := reserved, tickets := reassignTickets reserved a.tickets }
  s.modArb fun a => { a with sharedMin := min a.sharedMin s.sharedFree }

/-- An operation of a die has begun under the recipe of now: one that runs, is suspended, was set aside by a sweep slot, or runs
again after a mode abort (R140). -/
def DieState.begun (d : DieState) : Bool :=
  d.run.isSome || d.susp.isSome || d.aside.isSome || d.redo.isSome || d.queue.any (·.aborted)

/-- The operations of a die that have begun keep the recipe they began under (R140). -/
def DieState.keepRecipe (d : DieState) : DieState :=
  let old := fun (r : Option RunOp) => r.map fun r => { r with oldSet := true }
  { d with
    run := old d.run
    susp := old d.susp
    aside := old d.aside
    redo := old d.redo
    queue := d.queue.map fun o => if o.aborted then { o with oldSet := true } else o }

/-- A channel on a changed set: an operation under way keeps the old recipe (R140); an idle or fenced channel changes at the
grant (R141, R142). -/
def applyRecipe (s : State) (changed : List Nat) (c : Nat) : State :=
  match s.chanCfg? c with
  | none => s
  | some k =>
    if !changed.contains k.recipeSet then s
    else
      let busy := (s.chan c).dies.any (·.begun)
      let s := s.modChan c fun q => { q with dies := q.dies.map (·.keepRecipe) }
      if busy then s.modLay fun l => { l with recipePend := l.recipePend ++ [c] }
      else s.modChan c fun q =>
        let dies := q.dies.map fun d => { d with step := none }
        { q with dies := dies }

/-- The new image takes effect warm: each frame that differs from the active image's. An MPU frame that does not differ leaves the
region registers as hosts have written them (DESIGN CHOICE, log 79). -/
def applyWarm (s : State) (old new : Layout) (changed : List RawFrame) : State :=
  let has := fun (ty : Nat) => changed.any (·.ty == ty)
  let sets := (changed.filter (·.ty == 0x04)).map (·.inst)
  let s := s.modLay fun l => { l with active := some new, oldRecipes := old.recipes, recipePend := [] }
  let s := (List.range s.member.channels).foldl (fun s c => applyRecipe s sets c) s
  let s := if has 0x08 then s.modMpu fun q => { q with regions := new.mpu } else s
  let s := if has 0x0D then applyTickets s new.tickets else s
  let s := if has 0x0B then s.modSaf fun q => { q with strikeLimit := new.strikeLimit, sofCheck := new.sofCheck } else s
  if has 0x0C then s.modPwr fun q => { q with frameWaits := true } else s

/-- The POWER frame of the active layout takes effect. -/
def takePowerFrame (s : State) : State :=
  match s.layout with
  | none => s
  | some l =>
    let s := s.modPwr fun q => { q with durable := l.durable, tempAlert := l.tempAlert, target := l.suspendTarget, frameWaits := false }
    s.modHold fun h => { h with effective := l.durable && h.ok }

/-- Force the development of every Field no scope holds (R208). -/
def developAll (s : State) : State :=
  s.fieldList.foldl (fun s f => if s.fieldHeld f ∨ (s.field f).replaying ∨ (s.field f).unreadable then s else develop s f anySlot) s

/-- The commit grant (R132, R134): the LAYOUT event, and the effects of a warm activation or the development of a cold one. -/
def execCommitGrant (s : State) : Host.Outcome State Fault Refusal :=
  .next <|
    match s.lay.run with
    | none => s
    | some r =>
      if r.stage ≠ .committing then s
      else
        match r.image with
        | none => s
        | some l =>
          let s := queueEvents s 0x0020 0xFFFF l.epoch (r.op + bitOf (r.slot == .b) 4)
          if r.op = 3 then
            developAll (s.modLay fun q => { q with run := some { r with stage := .developing } })
          else
            match s.lay.active with
            | none => s
            | some old =>
              let s := applyWarm s old l ((warmDiff old l).getD [])
              endLayOp (s.modLay fun q => { q with activeSlot := r.slot, digest := r.digest }) 0

end Sys2Proof.Machine
end

