-- ==== Sys2Proof/Machine/Granary.lean ====
section
/-! DEFINITION. The Granary embedded flash (chapter of that name): arming, the checks of a command, what each command does
when it ends, erase suspend, the rotating window with its ledger, and what a power loss leaves behind. -/

namespace Sys2Proof.Machine

/-! ### Banks of the protocol registers (R517) -/

def State.grnBank? (s : State) (id : Identity) : Option GrnBank :=
  if id = idPortA then some s.grn.bankA
  else if id = idPortB then some s.grn.bankB
  else if id = idStack then some s.grn.bankStk
  else if id = idJtag then some s.grn.bankJtag
  else none

def modGrnBank (s : State) (id : Identity) (f : GrnBank → GrnBank) : State :=
  s.modGrn fun g =>
    if id = idPortA then { g with bankA := f g.bankA }
    else if id = idPortB then { g with bankB := f g.bankB }
    else if id = idStack then { g with bankStk := f g.bankStk }
    else if id = idJtag then { g with bankJtag := f g.bankJtag }
    else g

def errKey : Nat := 0
def errNotArmed : Nat := 1
def errBusy : Nat := 2
def errRange : Nat := 3
def errNoSem : Nat := 4
def errActiveSlot : Nat := 5
def errProtected : Nat := 6
def errLevel : Nat := 7
def errProgTwice : Nat := 8
def errProgFail : Nat := 9
def errEraseFail : Nat := 10
def errUncorr : Nat := 11
def errSectorBusy : Nat := 12
def errSpareOut : Nat := 13
def errExhausted : Nat := 14
def errBadSector : Nat := 15

/-- Set one bit of `GRN_ERR`. -/
def GrnBank.setErr (b : GrnBank) (bit : Nat) : GrnBank := { b with err := b.err ||| 2 ^ bit }

def grnKey1 : Nat := 0x6C3A91F4
def grnKey2 : Nat := 0x0B5ED7A2

/-- The arming state after a write of `GRN_KEY` (R518). -/
def GrnBank.key (b : GrnBank) (k : Nat) : GrnBank :=
  if b.arm = 1 then (if k = grnKey2 then { b with arm := 2 } else { b.setErr errKey with arm := 0 })
  else if k = grnKey1 then { b with arm := 1 }
  else { b.setErr errKey with arm := 0 }

def execGrnKey (id : Identity) (key : Word) (s : State) : Host.Outcome State Fault Refusal :=
  .next <| csWrite s id csGrnKey true fun s => modGrnBank s id fun b => b.key key.toNat

/-! ### Areas of the logical window (R516, R666) -/

def State.slotOfSector (s : State) (l : Nat) : Option Slot :=
  if l < s.member.slotSectors then some .a
  else if l < 2 * s.member.slotSectors then some .b
  else none

def State.inPool (s : State) (l : Nat) : Bool := decide (2 * s.member.slotSectors ≤ l) && decide (l < s.member.oemFirst)

/-- Which area of Table GRN-3 a logical sector lies in: 0 slot A, 1 slot B, 2 pool, 3 OEM. -/
def State.areaOf (s : State) (l : Nat) : Nat :=
  match s.slotOfSector l with
  | some .a => 0
  | some .b => 1
  | none => if s.inPool l then 2 else 3

/-! ### The rotating window (R510) -/

/-- The usable ring sectors, counted upward from S. -/
def usableFrom (m : Member) (g : GrnState) : List Nat :=
  let subs := g.subs.map (·.2)
  ((List.range m.ringSectors).map fun i => (g.s + i) % m.ringSectors).filter fun p =>
    !g.retired.contains p && !subs.contains p

def substituteOf (g : GrnState) (p : Nat) : Nat := ((g.subs.find? (·.1 == p)).map (·.2)).getD p

/-- P(L). -/
def physOf (m : Member) (g : GrnState) (l : Nat) : Nat :=
  substituteOf g ((usableFrom m g).getD ((l + m.windowSectors - g.a % m.windowSectors) % m.windowSectors) 0)

/-- The sector is marked WEAK in the ledger (R521, R523); the mark stands across a power loss (DESIGN CHOICE, log 109). -/
def markWeak (m : Member) (g : GrnState) (l : Nat) : GrnState :=
  let p := physOf m g l
  if g.weak.contains p then g else { g with weak := p :: g.weak }

/-! ### Cells of the window -/

/-- Write consecutive window bytes; an erased byte reads as 0xFF. -/
def putBytes (a : Nat) (bs : List Byte) (m : List Host.Cell) : List Host.Cell := putCells 0xFF a bs m

def dropAddrs (lo hi : Nat) (l : List Nat) : List Nat := l.filter fun a => decide (a < lo) || decide (hi ≤ a)

/-- The addresses of the code words of `n` sectors. -/
def sectorWords (first n : Nat) : List Nat := (List.range (128 * n)).map fun i => first * 4096 + 32 * i

/-- The sectors read as undefined (Table GRN-10). -/
def spoilSectors (g : GrnState) (first n : Nat) : GrnState :=
  let lo := first * 4096
  let hi := (first + n) * 4096
  { g with undef := dropAddrs lo hi g.undef ++ sectorWords first n, ones := dropAddrs lo hi g.ones }

def clearSectors (g : GrnState) (first n : Nat) : GrnState :=
  let lo := first * 4096
  let hi := (first + n) * 4096
  { g with mem := dropRange lo hi g.mem, undef := dropAddrs lo hi g.undef, ones := dropAddrs lo hi g.ones }

/-- A program or erase of a slot ends what `LAY_SLOT` says of its content. -/
def uncheckSlots (s : State) (first n : Nat) : State :=
  (List.range n).foldl (fun (s : State) i =>
    match s.slotOfSector (first + i) with
    | none => s
    | some x => s.modLay fun l => { l with slots := l.slots.modify (slotIndex x) fun q => { q with checked := false } }) s

/-! ### The checks of Table GRN-4 -/

def opRead : Nat := 1
def opProgram : Nat := 2
def opErase : Nat := 3
def opSuspend : Nat := 4
def opResume : Nat := 5
def opInc : Nat := 6

/-- Check 1: a reserved field, or a count over its limit. -/
def grnFieldsOk (op area margin count : Nat) : Bool :=
  decide (op ≤ 6) && decide (area < 3) && decide (margin < 3) && (margin == 0 || op == opRead) &&
  (area == 0 || op != opErase) && (decide (count ≤ 8) || !(op == opRead || op == opProgram)) &&
  (decide (count ≤ 16) || op != opErase)

def State.grnPending (s : State) (id : Identity) : Bool :=
  s.grn.queue.any (·.req == id) || (match s.grn.erase with | some e => e.req == id | none => false)

/-- The requester's pending command is its own ERASE. -/
def State.ownErase (s : State) (id : Identity) : Bool :=
  (match s.grn.erase with | some e => e.req == id | none => false) ||
  s.grn.queue.any fun c => c.req == id && c.op == .erase

/-- Check 5: alignment, the area and the sector, and the counter number. -/
def State.grnRangeOk (s : State) (op area count addr : Nat) : Bool :=
  if op = opInc then decide (addr < 64)
  else if op = opErase then
    let l := addr / 4096
    decide (addr % 4096 = 0) && decide (l + count ≤ s.member.windowSectors) &&
      decide (s.areaOf l = s.areaOf (l + count - 1))
  else
    decide (addr % 32 = 0) &&
    (if area = 0 then
      decide (addr / 4096 < s.member.windowSectors) && decide (addr / 4096 = (addr + 32 * count - 1) / 4096)
    else decide (addr + 32 * count ≤ 2048))

/-- JTAG has the rights of a holder of semaphores 0, 1 and 2 (R516). -/
def State.grnHolds (s : State) (id : Identity) (n : Nat) : Bool := id == idJtag || s.holdsSem id n

/-- The words of a Seed program that a host may program: 2, 3, 4 and their copies. -/
def seedOpen (w : Nat) : Bool := decide (2 ≤ w % 32) && decide (w % 32 ≤ 4)

/-- Check 6: Tables GRN-3 and GRN-8 and R537, in the order PROTECTED, LEVEL, NO_SEM, ACTIVE_SLOT. -/
def State.grnRefusal (s : State) (id : Identity) (op area count addr : Nat) : Option Nat :=
  if op = opInc then (if addr = 0 then some errProtected else none)
  else if op = opRead then
    (if area = 0 ∧ s.inPool (addr / 4096) ∧ s.sec.level ≠ 0 then some errProtected else none)
  else if area = 2 then some errProtected
  else if area = 1 then
    let words := (List.range count).map fun i => addr / 32 + i
    if words.any fun w => !seedOpen w then some errProtected
    else if s.sec.level ≠ 0 then some errLevel
    else if !s.grnHolds id 0 then some errNoSem
    else none
  else
    match s.slotOfSector (addr / 4096) with
    | some x =>
      if !s.grnHolds id 1 then some errNoSem
      else if s.hasLayout && s.lay.activeSlot == x then some errActiveSlot
      else none
    | none =>
      if s.inPool (addr / 4096) then some errProtected
      else if !s.grnHolds id 2 then some errNoSem
      else none

/-- A PROGRAM with a word in the sector whose erase is running or suspended (R527). -/
def State.inErase (s : State) (l : Nat) : Bool :=
  match s.grn.erase with
  | none => false
  | some e => decide (e.first ≤ l) && decide (l < e.first + e.count)

/-- Check 8. -/
def State.grnClash (s : State) (id : Identity) (op area addr : Nat) : Option Nat :=
  if op = opErase then
    (match s.grn.erase with | some e => if e.suspended then some errBusy else none | none => none)
  else if op = opSuspend then
    (match s.grn.erase with | some e => if e.req = id ∧ !e.suspended then none else some errBusy | none => some errBusy)
  else if op = opResume then
    (match s.grn.erase with | some e => if e.req = id ∧ e.suspended then none else some errBusy | none => some errBusy)
  else if op = opProgram ∧ area = 0 ∧ s.inErase (addr / 4096) then some errSectorBusy
  else none

/-- The answer of the checks: the bit of `GRN_ERR`, a command that is over at once (check 4), or a command that passes. -/
inductive GrnCheck where
  | fails (bit : Nat)
  | nothing
  | passes
deriving DecidableEq, Repr

def firstFail (l : List (Option Nat)) : GrnCheck :=
  match l.findSome? id with
  | some bit => .fails bit
  | none => .passes

/-- Checks 5 to 8. -/
def State.grnLate (s : State) (id : Identity) (op area count addr : Nat) : GrnCheck :=
  firstFail [if s.grnRangeOk op area count addr then none else some errRange, s.grnRefusal id op area count addr,
    if (op = opProgram ∨ op = opErase) ∧ s.spareOut then some errSpareOut else none, s.grnClash id op area addr]

/-- Table GRN-4. SUSPEND and RESUME carry no address and no right. -/
def State.grnCheck (s : State) (id : Identity) (armed : Bool) (op area margin count addr : Nat) : GrnCheck :=
  let wish := op == opSuspend || op == opResume
  match firstFail [if grnFieldsOk op area margin count then none else some errRange,
      if (op = opProgram ∨ op = opErase ∨ op = opInc) ∧ !armed then some errNotArmed else none,
      if s.grnPending id ∧ !(wish ∧ s.ownErase id) then some errBusy else none] with
  | .fails bit => .fails bit
  | _ =>
    if wish then firstFail [s.grnClash id op area addr]
    else if op ≠ opInc ∧ count = 0 then .nothing
    else s.grnLate id op area count addr

/-! ### Running erases -/

/-- Released pool sectors are erased ahead of every requested ERASE (R541); then the erase at the head of the queue takes the
array when no erase is in it. None starts while PWR_FAIL_N is asserted (R526). -/
def startErase (s : State) : State :=
  let s := s.modGrn (startBatch s.hold.pwrFail)
  match s.grn.erase, s.grn.queue with
  | none, c :: rest =>
    if c.op = .erase ∧ !s.hold.pwrFail then
      s.modGrn fun g => { g with queue := rest, erase := some ⟨c.req, c.addr / 4096, c.count, 0, false, false, 0⟩ }
    else s
  | _, _ => s

/-- A suspended erase runs on (R527 to R529); not while PWR_FAIL_N is asserted (R526). -/
def resumeErase (s : State) : State :=
  match s.grn.erase with
  | none => s
  | some e =>
    if e.suspended && !s.hold.pwrFail then
      s.modGrn fun g => { g with erase := some { e with suspended := false, bySuspend := false, resumes := e.resumes + 1 } }
    else s

/-- RESUME, and the end of the 10 ms of R528: the erase resumes, after the nested command when one runs (R527). -/
def endSuspend (s : State) : State :=
  if s.grn.queue.isEmpty then resumeErase s
  else s.modGrn fun g => { g with erase := g.erase.map fun e => { e with bySuspend := false } }

def grnOpOf (op : Nat) : GrnOp :=
  if op = opProgram then .program else if op = opErase then .erase else if op = opInc then .inc else .read

/-- A granted write of `GRN_CMD` (R518, R519, R528). OP = 0 only consumes the arming. -/
def grnCommand (s : State) (id : Identity) (op area margin count : Nat) : State :=
  match s.grnBank? id with
  | none => s
  | some b =>
    let s := modGrnBank s id fun b => { b with arm := 0 }
    if op = 0 then s
    else
      let wish := op == opSuspend || op == opResume
      match s.grnCheck id (b.arm == 2) op area margin count b.addr with
      | .fails bit => modGrnBank s id fun b =>
          let b := { b.setErr bit with done := b.done || !wish }
          if op = opRead ∧ bit = errProtected then { b with data := List.replicate (8 * count) 0 ++ b.data.drop (8 * count) } else b
      | .nothing => modGrnBank s id fun b => { b with done := true }
      | .passes =>
        if op = opSuspend then s.modGrn fun g => { g with erase := g.erase.map fun e => { e with bySuspend := true } }
        else if op = opResume then endSuspend s
        else
          let s := modGrnBank s id fun b => { b with done := false }
          startErase (s.modGrn fun g => { g with queue := g.queue ++ [⟨id, grnOpOf op, area, margin, count, b.addr⟩] })

/-- The write that a Granary command is. -/
def grnWrite (s : State) (id : Identity) (op area margin count : Nat) : State :=
  csWrite s id csGrnCmd true fun s => grnCommand s id op area margin count

def execGrnRead (id : Identity) (area margin count : Nat) (s : State) : Host.Outcome State Fault Refusal :=
  .next (grnWrite s id opRead area margin count)

def execGrnProgram (id : Identity) (area margin count : Nat) (s : State) : Host.Outcome State Fault Refusal :=
  .next (grnWrite s id opProgram area margin count)

def execGrnErase (id : Identity) (area margin count : Nat) (s : State) : Host.Outcome State Fault Refusal :=
  .next (grnWrite s id opErase area margin count)

def execGrnSuspend (id : Identity) (s : State) : Host.Outcome State Fault Refusal :=
  .next (grnWrite s id opSuspend 0 0 0)

def execGrnResume (id : Identity) (s : State) : Host.Outcome State Fault Refusal :=
  .next (grnWrite s id opResume 0 0 0)

def execGrnInc (id : Identity) (s : State) : Host.Outcome State Fault Refusal :=
  .next (grnWrite s id opInc 0 0 0)

/-- A waiting READ, PROGRAM or INC, or the requester's SUSPEND, takes the array from the running erase (R525, R528). -/
def execEraseSuspendDue (s : State) : Host.Outcome State Fault Refusal :=
  .next <|
    match s.grn.erase with
    | none => s
    | some e =>
      let waits := match s.grn.queue with | c :: _ => c.op != .erase | [] => false
      if !e.suspended && (waits || e.bySuspend) then
        s.modGrn fun g => { g with erase := some { e with suspended := true } }
      else s

/-- An erase suspended by SUSPEND resumes by itself (R528). -/
def execEraseAutoResume (s : State) : Host.Outcome State Fault Refusal :=
  .next <|
    match s.grn.erase with
    | some e => if e.suspended && e.bySuspend then endSuspend s else s
    | none => s

/-! ### READ (R520, R523) -/

/-- Thirty-two bytes the spec leaves open. -/
def drawWord (s : State) : List Byte × State := let (n, s) := s.drawNat; (leBytes 32 n, s)

/-- The header of a pool sector (R538): "ZKLG", STRUCT, COPY, SIZE, SSEQ, zeros and the CRC. -/
def poolHeader (struct copy sseq : Nat) : List Byte :=
  let b := [0x5A, 0x4B, 0x4C, 0x47] ++ leBytes 2 struct ++ leBytes 1 copy ++ leBytes 1 (structSize struct) ++ leBytes 4 sseq ++ List.replicate 16 0
  b ++ leBytes 4 (crc32c b)

/-- The entry of counter n in the pool (Table GRN-9): one code word. The order of its fields is the table's; what is left of
the word is zero (log 80). -/
def counterEntry (n value : Nat) : List Byte :=
  let b := leBytes 4 0x5A434E54 ++ leBytes 4 n ++ leBytes 4 value ++ List.replicate 16 0
  b ++ leBytes 4 (crc32c b)

/-- One code word of an area. Pool sectors hold the structures at places the controller chooses, so their bytes are open (log 80);
an undefined word may read differently on each read. -/
def readWord (s : State) (area addr : Nat) : List Byte × State :=
  if area = 0 then
    if s.inPool (addr / 4096) then drawWord s
    else if s.grn.undef.contains addr then drawWord s
    else (grnRun 32 addr s.grn.mem, s)
  else if area = 1 then
    let w := addr / 32
    if w % 32 = 1 then (List.replicate 32 0, s)
    else
      match s.grn.seed.getD w .blank with
      | .value b => (padTo 0 32 b, s)
      | .blank => (List.replicate 32 0xFF, s)
      | .undefined => drawWord s
  else ((List.range 32).map fun i => Config.calRow (addr + i), s)

/-- The words of a byte list, in ascending order (R4). -/
def toWords : (n : Nat) → List Byte → List Word
  | 0, _ => []
  | n + 1, b => w32 (leNat (b.take 4)) :: toWords n (b.drop 4)

/-- A READ ends: an uncorrectable word and a word in the sector being erased read as zeros. -/
def finishRead (s : State) (c : GrnCmd) (corrected : Nat) (uncorrectable : List Nat) : State :=
  let erasing := fun (i : Nat) => c.area == 0 && s.inErase ((c.addr + 32 * i) / 4096)
  let idx := List.range c.count
  let (bytes, s) := idx.foldl (fun (a : List Byte × State) i =>
    if erasing i || uncorrectable.contains i then (a.1 ++ List.replicate 32 0, a.2)
    else let (b, t) := readWord a.2 c.area (c.addr + 32 * i); (a.1 ++ b, t)) (([] : List Byte), s)
  let corr := min 3 corrected
  let warn := decide (s.grn.cfgWarn ≤ corr)
  let bad := idx.any fun i => uncorrectable.contains i && !erasing i
  let s := modGrnBank s c.req fun b =>
    let b := { b with data := toWords (8 * c.count) bytes ++ b.data.drop (8 * c.count), corr := corr, warn := warn }
    let b := if bad then b.setErr errUncorr else b
    if idx.any erasing then b.setErr errSectorBusy else b
  if warn ∧ c.area = 0 then s.modGrn fun g => markWeak s.member g (c.addr / 4096) else s

/-! ### PROGRAM (R521, R532, R533) -/

/-- Whether a code word of the window reads as erased at the tight margin; an undefined word may or may not. -/
def erasedTight (s : State) (addr : Nat) : Bool × State :=
  if s.grn.undef.contains addr then s.drawBool
  else if s.grn.ones.contains addr then (Config.allOnesErased, s)
  else ((grnRun 32 addr s.grn.mem).all (· == 0xFF), s)

/-- The bytes of word i of the data buffer. -/
def dataWord (data : List Word) (i : Nat) : List Byte := (slice' data (8 * i) 8).flatMap fun w => leBytes 4 w.toNat
where slice' (l : List Word) (o n : Nat) : List Word := (l.drop o).take n

/-- One window word takes its value. -/
def putWord (g : GrnState) (addr : Nat) (b : List Byte) : GrnState :=
  { g with
    mem := putBytes addr b g.mem
    undef := g.undef.filter (· != addr)
    ones := if b.all (· == 0xFF) then addr :: g.ones.filter (· != addr) else g.ones.filter (· != addr) }

/-- One window word is left undefined. -/
def spoilWord (g : GrnState) (addr : Nat) : GrnState :=
  { g with undef := addr :: g.undef.filter (· != addr), ones := g.ones.filter (· != addr) }

/-- What R533 lets a Seed program do to one pair. -/
inductive SeedPlan where
  | pair | primaryOnly | twice
deriving DecidableEq, Repr

/-- A Seed word reads as erased at the tight margin. -/
def seedErased (s : State) (w : Nat) : Bool × State :=
  match s.grn.seed.getD w .blank with
  | .blank => (true, s)
  | .value _ => (false, s)
  | .undefined => s.drawBool

def seedPlan (s : State) (w : Nat) (data : List Byte) : SeedPlan × State :=
  let (primary, s) := seedErased s w
  let (copy, s) := seedErased s (w + 32)
  if !primary then (.twice, s)
  else if copy then (.pair, s)
  else
    match s.grn.seed.getD (w + 32) .blank with
    | .value b => (if b = data then .primaryOnly else .twice, s)
    | _ =>
      let (allowed, s) := s.drawBool
      (if allowed then .primaryOnly else .twice, s)

/-- The flags of `SEC_STAT` that Seed words decide (R532). -/
def noteSeed (s : State) : State :=
  let on := fun (w : Nat) => (s.seedWord w).isSome
  s.modSec fun q => { q with keyHash := on 2 && on 3, provId := on 4 }

/-- What a word programmed with these bytes is: one of all ones may read as erased (log 12). -/
def seedValue (b : List Byte) : SeedWord := if b.all (· == 0xFF) && Config.allOnesErased then .blank else .value b

/-- A Seed pair is programmed, the copy first, and used at once. -/
def putSeed (s : State) (w : Nat) (plan : SeedPlan) (b : List Byte) : State :=
  noteSeed (s.modGrn fun g =>
    let seed := if plan = .pair then g.seed.set (w + 32) (seedValue b) else g.seed
    { g with seed := seed.set w (seedValue b), seedNow := g.seedNow.set w (seedValue b) })

/-- A Seed pair's program does not complete: the word being programmed is undefined, the copy or, after it, the primary. -/
def spoilSeed (s : State) (w : Nat) (plan : SeedPlan) (b : List Byte) : State :=
  let (atCopy, s) := s.drawBool
  s.modGrn fun g =>
    if plan = .pair ∧ atCopy then { g with seed := g.seed.set (w + 32) .undefined }
    else
      let seed := if plan = .pair then g.seed.set (w + 32) (seedValue b) else g.seed
      { g with seed := seed.set w .undefined }

/-- The programs of the first `n` words of a Seed command. -/
def progSeed (s : State) (c : GrnCmd) (plans : List SeedPlan) (data : List Word) (n : Nat) : State :=
  (List.range n).foldl (fun (s : State) i =>
    putSeed s ((c.addr / 32 + i) % 32) (plans.getD i .pair) (dataWord data i)) s

/-- The programs of the first `n` words of a window command. -/
def progWords (s : State) (c : GrnCmd) (data : List Word) (n : Nat) : State :=
  s.modGrn fun g => (List.range n).foldl (fun (g : GrnState) i => putWord g (c.addr + 32 * i) (dataWord data i)) g

/-- The erased check of every word of a PROGRAM, with the plan of each Seed pair. -/
def progCheck (s : State) (c : GrnCmd) (data : List Word) : Bool × List SeedPlan × State :=
  (List.range c.count).foldl (fun (a : Bool × List SeedPlan × State) i =>
    if c.area = 1 then
      let (plan, t) := seedPlan a.2.2 ((c.addr / 32 + i) % 32) (dataWord data i)
      (a.1 && plan != .twice, a.2.1 ++ [plan], t)
    else
      let (ok, t) := erasedTight a.2.2 (c.addr + 32 * i)
      (a.1 && ok, a.2.1, t)) (true, [], s)

/-- A PROGRAM ends. -/
def finishProgram (s : State) (c : GrnCmd) (failAt : Option Nat) : State :=
  let data := ((s.grnBank? c.req).getD Reset.grnBank).data
  let sector := c.addr / 4096
  let err := fun (s : State) (bit : Nat) => modGrnBank s c.req fun b => b.setErr bit
  if c.area = 0 ∧ s.grn.bad.contains sector then err s errBadSector
  else
    let (ok, plans, s) := progCheck s c data
    if !ok then err s errProgTwice
    else
      let s := if c.area = 0 then uncheckSlots s sector 1 else s
      let n := match failAt with | some j => min j c.count | none => c.count
      let s := if c.area = 1 then progSeed s c plans data n else progWords s c data n
      if n = c.count then s
      else if c.area = 1 then
        err (spoilSeed s ((c.addr / 32 + n) % 32) (plans.getD n .pair) (dataWord data n)) errProgFail
      else err (s.modGrn fun g => markWeak s.member (spoilWord g (c.addr + 32 * n)) sector) errProgFail

/-! ### ERASE (R513, R522) -/

/-- The first usable spares whose erase fails are retired at once (R512). -/
def retireSpares (m : Member) (g : GrnState) : (n : Nat) → GrnState
  | 0 => g
  | n + 1 =>
    match (usableFrom m g)[m.windowSectors]? with
    | some p => retireSpares m (writeLedger { g with retired := p :: g.retired }) n
    | none => g

/-- The erase of one window sector fails twice: the first usable spare that can be erased substitutes it, after `spoiled` spares
whose erase fails; with 16 substitutions, or no spare, the sector is marked BAD. -/
def substitute (m : Member) (g : GrnState) (l spoiled : Nat) : GrnState × Bool :=
  let g := if 16 ≤ g.subs.length then g else retireSpares m g spoiled
  let home := (usableFrom m g).getD ((l + m.windowSectors - g.a % m.windowSectors) % m.windowSectors) 0
  match if 16 ≤ g.subs.length then none else (usableFrom m g)[m.windowSectors]? with
  | none => ({ spoilSectors g l 1 with bad := l :: g.bad.filter (· != l) }, false)
  | some spare =>
    let old := (g.subs.find? (·.1 == home)).map (·.2)
    let retired := match old with | some p => p :: g.retired | none => g.retired
    (writeLedger { g with subs := (home, spare) :: g.subs.filter (·.1 != home), retired := retired }, true)

/-- Substitute the sectors whose erase failed twice in a row; a sector named again names as often a spare whose erase fails
too. -/
def substituteAll (m : Member) (g : GrnState) (fails : List Nat) (sector : Nat → Nat) : GrnState × Bool :=
  fails.dedup.foldl (fun (a : GrnState × Bool) i =>
    let (g, ok) := substitute m a.1 (sector i) (fails.count i - 1)
    (g, a.2 && ok)) (g, true)

/-- An ERASE ends; `fails` names the sectors of the command whose erase failed twice in a row. -/
def finishErase (s : State) (e : GrnErase) (fails : List Nat) : State :=
  let s := s.modGrn fun g => { g with erase := none }
  let sectors := (List.range e.count).map (e.first + ·)
  if sectors.any s.grn.bad.contains then modGrnBank s e.req fun b => { b.setErr errBadSector with done := true }
  else
    let s := uncheckSlots s e.first e.count
    let s := s.modGrn fun g => countErases (clearSectors g e.first e.count) e.count
    let (g, ok) := substituteAll s.member s.grn (fails.filter (decide <| · < e.count)) (e.first + ·)
    let s := s.modGrn fun _ => g
    modGrnBank s e.req fun b => { (if ok then b else b.setErr errEraseFail) with done := true }

/-! ### INC (R524, R535, R536) -/

/-- A counter is raised; at its limit nothing changes. -/
def finishInc (s : State) (c : GrnCmd) : State :=
  let n := c.addr % 64
  let v := s.grn.counters.getD n 0
  let ret := fun (s : State) (v : Nat) => modGrnBank s c.req fun b => { b with data := w32 v :: b.data.drop 1 }
  if counterMax ≤ v then modGrnBank (ret s v) c.req fun b => b.setErr errExhausted
  else ret (structWrite (s.modGrn fun g => { g with counters := g.counters.set n (v + 1) }) n) (v + 1)

/-! ### The end of a command -/

/-- A batch of the controller ends (R541). A pool sector whose erase fails twice is substituted (R513); which sectors the batch
erases is open (log 80). -/
def finishBatch (s : State) (e : GrnErase) (fails : List Nat) : State :=
  let (first, s) := s.drawNat
  let base := 2 * s.member.slotSectors
  let pool := s.member.oemFirst - base
  s.modGrn fun g =>
    let g := { eraseReleased g e.batch with erase := none }
    let (g, _) := substituteAll s.member g (fails.filter (decide <| · < e.batch)) fun i => base + (first + i) % pool
    { g with poolErased := g.poolErased - (g.bad.filter fun l => !s.grn.bad.contains l).length }

/-- What the array runs ends (Table GRN-5 step 4): a running erase, or the command at the head of the queue; then any suspended
erase resumes, and the next batch or a waiting ERASE starts. -/
def execGrnCommandDone (corrected : Nat) (uncorrectable : List Nat) (failAt : Option Nat) (eraseFails : List Nat)
    (s : State) : Host.Outcome State Fault Refusal :=
  let head := fun (s : State) =>
    match s.grn.queue with
    | [] => s
    | c :: rest =>
      if c.op = .erase then s
      else
        let s := s.modGrn fun g => { g with queue := rest }
        let s := match c.op with
          | .read => finishRead s c corrected uncorrectable
          | .program => finishProgram s c failAt
          | _ => finishInc s c
        startErase (resumeErase (modGrnBank s c.req fun b => { b with done := true }))
  .next <|
    match s.grn.erase with
    | some e =>
      if e.suspended then head s
      else startErase (if e.batch = 0 then finishErase s e eraseFails else finishBatch s e eraseFails)
    | none => head s

/-! ### The advance (R511, R512) -/

/-- The window advances by one sector. The copied content keeps its logical address. -/
def advance (m : Member) (g : GrnState) (destEraseFails : Bool) : GrnState :=
  let next := fun (g : GrnState) => (usableFrom m g).getD m.windowSectors 0
  let g := if destEraseFails then writeLedger { g with retired := next g :: g.retired } else g
  let home := g.s
  let source := substituteOf g home
  let after := (usableFrom m g).getD 1 home
  let l := g.a % m.windowSectors
  let gone := source != home || g.weak.contains home || g.bad.contains l
  let retired := if gone then home :: g.retired else g.retired
  let retired := if source != home && g.weak.contains source then source :: retired else retired
  writeLedger { g with
    s := after
    a := (g.a + 1) % m.windowSectors
    erases := 0
    subs := g.subs.filter (·.1 != home)
    retired := retired
    weak := g.weak.filter fun p => p != home && p != source
    bad := g.bad.filter (· != l) }

def execWindowAdvance (destEraseFails : Bool) (s : State) : Host.Outcome State Fault Refusal :=
  .next <| if s.grn.erases < 65536 ∨ s.spareOut then s else s.modGrn fun g => advance s.member g destEraseFails

/-! ### Power loss, reset and Off (Table GRN-10) -/

/-- The command in the array is cut off. `finish`: the controller finishes the code word it is programming (Off). How far a
program or an increment had come is open. -/
def cutCommand (s : State) (c : GrnCmd) (finish : Bool) : State :=
  match c.op with
  | .read => s
  | .erase => s
  | .inc =>
    let (done, s) := s.drawBool
    if done then finishInc s c else s
  | .program =>
    let data := ((s.grnBank? c.req).getD Reset.grnBank).data
    let (n, s) := s.drawNat
    let (begun, s) := s.drawBool
    let (ok, plans, s) := progCheck s c data
    if !ok ∨ (c.area = 0 ∧ s.grn.bad.contains (c.addr / 4096)) then s
    else
      let n := n % (c.count + 1)
      let s := if c.area = 1 then progSeed s c plans data n else progWords s c data n
      if n = c.count ∨ !begun ∨ finish then s
      else if c.area = 1 then spoilSeed s ((c.addr / 32 + n) % 32) (plans.getD n .pair) (dataWord data n)
      else s.modGrn fun g => spoilWord g (c.addr + 32 * n)

/-- Every Granary operation is cut off, and the registers of the controller are reset. -/
def grnCut (s : State) (finish : Bool) : State :=
  let s := match s.grn.erase, s.grn.queue with
    | some e, c :: _ => if e.suspended then cutCommand s c finish else s
    | none, c :: _ => cutCommand s c finish
    | _, [] => s
  let s := match s.grn.erase with
    | some e => s.modGrn fun g => spoilSectors g e.first e.count
    | none => s
  s.modGrn fun g => { g with
    queue := [], erase := none, bankA := Reset.grnBank, bankB := Reset.grnBank, bankStk := Reset.grnBank
    bankJtag := Reset.grnBank, cfgWarn := 2, erases := g.erases - g.sinceLedger, sinceLedger := 0 }

/-! ### Registers of the Granary block -/

def grnStat (s : State) (id : Identity) : Word :=
  match s.grnBank? id with
  | none => 0
  | some b =>
    let susp := match s.grn.erase with | some e => e.suspended | none => false
    let own := match s.grn.erase with | some e => e.suspended && e.bySuspend && e.req == id | none => false
    flagAt 0 (b.arm == 2) ||| flagAt 1 (s.grnPending id) ||| flagAt 2 b.done ||| bitsAt 3 2 b.corr ||| flagAt 5 b.warn |||
      flagAt 6 s.grn.erase.isSome ||| flagAt 7 susp ||| flagAt 8 own

def grnSpare (s : State) : Word :=
  bitsAt 0 11 s.grnSpares ||| bitsAt 11 11 s.grn.retired.length ||| bitsAt 22 5 s.grn.subs.length ||| flagAt 27 s.spareOut

def grnPool (s : State) : Word :=
  bitsAt 0 11 s.grn.poolErased ||| bitsAt 11 11 ((s.grn.logs.map (·.sectors)).sum) ||| bitsAt 22 8 s.grn.seedCopies

def grnCnt (s : State) (n : Nat) : Word :=
  let v := s.grn.counters.getD n 0
  bitsAt 0 20 v ||| flagAt 20 (v == counterMax)

end Sys2Proof.Machine
end

