-- ==== Sys2Proof/Machine/Keys.lean ====
section
/-! DEFINITION. Key records and what is done to a Plot's keys (chapter "Keys, Plots and credentials"): derivation, the
destruction of keys, the secret check with its retry counter, provisioning, re-wrap, bulk re-key, crypto-erase. -/

namespace Sys2Proof.Machine

/-! ### Derivation (R327, R328) -/

def labelVrf : List Byte := [0x5A, 0x4B, 0x2D, 0x56, 0x52, 0x46]
def labelKek : List Byte := [0x5A, 0x4B, 0x2D, 0x4B, 0x45, 0x4B]

/-- The device root key as the vault uses it. -/
def State.rootKey (s : State) : List Byte := (s.seedWord 1).getD []

def keyContext (n : Nat) (salt secret : List Byte) : List Byte := beBytes 2 n ++ salt ++ Config.sha384 secret

def State.vrf (s : State) (n : Nat) (salt secret : List Byte) : List Byte :=
  Config.kdf s.rootKey labelVrf (keyContext n salt secret) 128

def State.kek (s : State) (n : Nat) (salt secret : List Byte) : List Byte :=
  Config.kdf s.rootKey labelKek (keyContext n salt secret) 256

/-- MK ‖ EK, 128 bytes (Table SEC-1). -/
def drawKeySet (s : State) : List Byte × State := s.drawBytes 128
def drawSalt (s : State) : List Byte × State := s.drawBytes 16

/-! ### The record -/

/-- The record fits Table LAY-16: its retry limit. -/
def State.retryLimit (s : State) (n : Nat) : Nat := ((s.plotCfg? n).map (·.retryLimit)).getD 0

/-- The 384 bytes of the key record of Plot n (R335, Table SEC-2): cleared fields are zero, the CRC covers the bytes before it. -/
def KeyRecord.bytes (n : Nat) (r : KeyRecord) : List Byte :=
  let b := [0x5A, 0x4B, 0x4B, 0x52] ++ leBytes 1 (bitOf r.keyed 0) ++ leBytes 1 r.retry ++ leBytes 1 (bitOf r.genBit 0 + bitOf r.rekeying 1) ++
    leBytes 1 r.field ++ leBytes 1 (bitOf r.credential 0) ++ [0] ++ leBytes 2 n ++ leBytes 4 r.rekeys ++ padTo 0 16 r.salt ++
    padTo 0 16 r.vrf ++ padTo 0 136 r.wrapA ++ padTo 0 136 r.wrapB ++ leBytes 8 r.rekeyLba ++ List.replicate 48 0 ++ leBytes 4 r.seq
  b ++ leBytes 4 (crc32c b)

/-- A log whose older sectors are released and erased in one batch: a fresh sector of each copy holds the new entry (R543). -/
def freshEntry (g : GrnState) (struct copy : Nat) : GrnState :=
  let old := ((g.logs.find? fun l => l.struct == struct && l.copy == copy).map (·.sectors)).getD 0
  let g := takeSector g
  { g with
    released := g.released + old
    logs := ⟨struct, copy, 1, 1⟩ :: g.logs.filter fun l => !(l.struct == struct && l.copy == copy) }

/-- Older copies of a Plot's record are destroyed (R336, R543): every released sector is erased, in as many batches as it
takes. -/
def destroyOlder (s : State) (n : Nat) : State :=
  let s := s.modGrn fun g =>
    let g := freshEntry (freshEntry g (0x200 + n) 0) (0x200 + n) 1
    eraseReleased g g.released
  s.modPlot n fun p => { p with olderCopy := false }

/-- The keys of a Plot are destroyed: a record with KEYED = 0 that keeps REKEYS, and no older copy (R336). -/
def destroyRecord (s : State) (n : Nat) : State :=
  destroyOlder (s.modPlot n fun p => { p with record := { Reset.record with rekeys := p.record.rekeys, seq := p.record.seq + 1 } }) n

/-- A Plot becomes Erased (R336, R338): closed on both ports, its keys destroyed, its map empty. -/
def erasePlot (s : State) (n reason : Nat) : State :=
  let order := s.arb.ordNext - 1
  let s := closePlot s n .erased reason
  emptyPlot (destroyRecord s n) n order

/-! ### The secret check (R274, R339 to R346) -/

/-- The state of a Plot's Field that makes an unlock Read-only, as `PLT` cause: 1 the layout, 2 the headland, 3 the end of the
order numbers; 0 for none (R47, R275, R435). -/
def State.readOnlyCause (s : State) (n : Nat) : Nat :=
  if s.arb.ordEnd then 3
  else
    match s.plotCfg? n with
    | none => 0
    | some c => if c.readOnly then 1 else if (s.field c.field).roHead then 2 else 0

/-- The ports that present a Plot (R253). -/
def State.portsOf (s : State) (n : Nat) : List Port :=
  match s.plotCfg? n with
  | some c => s.member.portList.filter fun p => c.ports.testBit p.index
  | none => []

/-- A port that presents the Plot and has no embedded port for it, as DETAIL of NO_PORT. -/
def State.noPort (s : State) (n : Nat) : Option Nat :=
  match s.plotCfg? n with
  | none => none
  | some c => ((s.portsOf n).find? fun p => (s.embOf p n).isNone && (s.embChoice p c.embPort).isNone).map (·.index)

/-- The busy DETAIL of an unlock: 2 a cold activation (R143), 3 the Field's replay (R201). -/
def State.unlockBusy (s : State) (n : Nat) : Option Nat :=
  let cold := match s.lay.run with | some r => r.op == 3 | none => false
  if cold then some 2
  else
    match s.fieldOf n with
    | some f => if (s.field f).replaying then some 3 else none
    | none => none

/-- A vault opcode names a Plot that is there: a layout, and the Plot in it. -/
def State.noPlotRefusal (s : State) (n : Nat) : Option (Nat × Nat) :=
  if !s.hasLayout then some (0x000B, 0)
  else if (s.plotCfg? n).isNone then some (0x000C, 0)
  else none

/-- Checks 1 and 2 of R274: status and DETAIL. -/
def State.unlockFirst (s : State) (n : Nat) : Option (Nat × Nat) :=
  match s.noPlotRefusal n with
  | some r => some r
  | none => (s.unlockBusy n).map fun d => (0x0008, d)

/-- The Plot's Field could not be read at this start: its Plots are not unlockable until a later start succeeds (R466). -/
def State.plotUnreadable (s : State) (n : Nat) : Bool := match s.fieldOf n with | some f => (s.field f).unreadable | none => false

/-- The answer of checks 1 to 7 of R274 but for Dark, which is decided at the grant (R208): status and DETAIL. A Plot of an
unreadable Field answers as in Safelight, whatever RECOVER has ended (DESIGN CHOICE, log 101). -/
def State.unlockRefusal (s : State) (n mode : Nat) : Option (Nat × Nat) :=
  let p := s.plot n
  match s.unlockFirst n with
  | some r => some r
  | none =>
    if p.mode = .erased then some (0x000F, 0)
    else if p.mode = .safelight ∨ s.plotHeld n ∨ s.plotUnreadable n then some (0x0010, 0)
    else if p.mode = .open_ ∨ (p.mode = .readOnly ∧ mode = 1) then some (0x0018, p.mode.code)
    else (s.noPort n).map fun d => (0x0009, d)

/-- The answer of a SET_SECRET before any secret is checked (R345, R347, R369, and the states of R346). -/
def State.secretRefusal (s : State) (n : Nat) (rewrap : Bool) : Option (Nat × Nat) :=
  let p := s.plot n
  match s.noPlotRefusal n with
  | some r => some r
  | none =>
  if rewrap ∧ p.mode = .erased then some (0x000F, 0)
  else if !rewrap ∧ p.mode ≠ .erased then some (0x0018, p.mode.code)
  else if p.mode = .safelight ∨ s.plotHeld n then some (0x0010, 0)
  else if !rewrap ∧ !s.sec.root then some (0x0018, 0x0300 + p.mode.code)
  else if p.record.rekeys = counterMax then some (0x0017, 0x0100 + n)
  else if s.spareOut then some (0x0017, 0xFFFF)
  else none

/-- What stops a waiting secret check now. -/
def State.checkRefusal (s : State) (n : Nat) (c : SecretCheck) : Option (Nat × Nat) :=
  match c.what with
  | .unlock mode =>
    match s.unlockRefusal n mode with
    | some r => some r
    | none => if s.spareOut then some (0x0017, 0xFFFF) else none
  | .rewrap _ => s.secretRefusal n true
  | .provision _ => s.secretRefusal n false

def answerCheck (s : State) (c : SecretCheck) (status detail : Nat) (payload : List Byte) : State :=
  answerVault s c.asker c.what.opcode status detail payload

/-- The first check of the queue is done. -/
def popCheck (s : State) (n : Nat) : State := s.modPlot n fun p => { p with checks := p.checks.drop 1 }

/-- Whether the trim entry of the Plot's erasure has been developed and sealed (R449, R452). -/
def State.trimDone (s : State) (n : Nat) : Bool :=
  match s.fieldOf n with
  | none => true
  | some f => (s.plot n).trimOwed.isNone && (s.field f).entries.all fun e => !(e.plot == n && e.kind == .wholePlot) || (e.passed && flushDone (s.field f) (s.fenv f) e.order)

/-- Provision an Erased Plot (R344): a key set and a SALT, VRF and KEK from the new secret, a keyed record. It is Closed. -/
def provision (s : State) (n : Nat) (new : List Byte) : State :=
  let (keys, s) := drawKeySet s
  let (salt, s) := drawSalt s
  let cfg := (s.plotCfg? n).getD ⟨n, 0, false, 0, 0, 0, false, 0⟩
  let s := writeRecord s n fun r => { r with
    keyed := true, retry := 0, genBit := false, rekeying := false, field := cfg.field, credential := cfg.credential
    rekeys := min counterMax (r.rekeys + 1), salt := salt, vrf := s.vrf n salt new
    wrapA := Config.kwWrap (s.kek n salt new) keys, wrapB := [], rekeyLba := 0 }
  setPlotMode s n .closed 0

/-- The checks of a Plot's queue are decided one at a time (R343): those that a state now refuses are answered; a provisioning
goes through once its trim entry is durable and the DRBG is instantiated (R358); the first that needs a comparison has its
attempt counted when the record is written (R339, step 1). -/
def runChecks (n : Nat) : (fuel : Nat) → State → State
  | 0, s => s
  | fuel + 1, s =>
    match (s.plot n).checks with
    | [] => s
    | c :: _ =>
      if c.matched then s
      else
        match s.checkRefusal n c with
        | some (st, d) => runChecks n fuel (popCheck (answerCheck s c st d []) n)
        | none =>
          match c.what with
          | .provision new =>
            if s.trimDone n && s.sec.drbgReady then runChecks n fuel (answerCheck (provision (popCheck s n) n new) c 0 0 [])
            else s
          | _ => s

/-- In Dark, once Dark or Off is commanded, and in hold-up, a vault opcode granted now ends as not ready (R208, R210, R472). -/
def State.vaultDark (s : State) : Bool := s.pwr.state == .dark || s.pwr.xfer.isSome || s.hold.holding

/-- What an UNLOCK or SET_SECRET is answered at its grant: checks 1 and 2, then Dark, then the rest, in the order of R274. -/
def State.gateRefusal (s : State) (n : Nat) (c : SecretCheck) : Option (Nat × Nat) :=
  let first := match c.what with | .unlock _ => s.unlockFirst n | _ => s.noPlotRefusal n
  match first with
  | some r => some r
  | none => if s.vaultDark then some (0x000A, 0) else s.checkRefusal n c

/-- A secret check is answered at its grant or joins the Plot's queue. -/
def askCheck (s : State) (n : Nat) (a : Asker) (what : CheckFor) (secret : List Byte) : State :=
  match s.gateRefusal n ⟨a, what, secret, false⟩ with
  | some (st, d) => answerVault s a what.opcode st d []
  | none =>
  let s := s.modPlot n fun p => { p with checks := p.checks ++ [⟨a, what, secret, false⟩] }
  let s := match what, s.fieldOf n with
    | .provision _, some f => if s.trimDone n then s else develop s f anySlot
    | _, _ => s
  runChecks n (s.plot n).checks.length s

/-- The unlocked key set, or the failure of its integrity check. -/
def State.unwrap (s : State) (n : Nat) (secret : List Byte) : Option KeyEntry :=
  let r := (s.plot n).record
  let kek := s.kek n r.salt secret
  match Config.kwUnwrap kek r.wrapA with
  | none => none
  | some keys =>
    if r.rekeying then (Config.kwUnwrap kek r.wrapB).map fun old => ⟨keys, some old, kek⟩
    else some ⟨keys, none, kek⟩

/-- The attempt has been counted in the record; the verifier is compared (R339 step 2, R340, R341, R346). -/
def compareSecret (s : State) (n : Nat) (c : SecretCheck) : State :=
  let r := (s.plot n).record
  if s.vrf n r.salt c.secret ≠ r.vrf then
    if s.retryLimit n ≤ r.retry then answerCheck (erasePlot (popCheck s n) n 2) c 0x000F 0 []
    else answerCheck (popCheck s n) c 0x000E (s.retryLimit n - r.retry) []
  else
    match s.unwrap n c.secret with
    | none =>
      let s := answerCheck (popCheck s n) c 0x0010 0 []
      enterScope s 0x00A0 3 n false s.member.centralIsland 0xFF (w32 n) 0
    | some k =>
      match c.what with
      | .unlock _ => s.modPlot n fun p => { p with
          keys := some k, checks := p.checks.modify 0 fun c => { c with matched := true } }
      | .rewrap new =>
        let (salt, s) := drawSalt s
        let kek := s.kek n salt new
        let s := writeRecord s n fun r => { r with
          salt := salt, vrf := s.vrf n salt new, wrapA := Config.kwWrap kek k.keys
          wrapB := match k.old with | some o => Config.kwWrap kek o | none => []
          rekeys := min counterMax (r.rekeys + 1), retry := 0 }
        let s := s.modPlot n fun p => { p with keys := p.keys.map fun e => { e with kek := kek } }
        answerCheck (popCheck s n) c 0 0 []
      | .provision _ => popCheck s n

/-- The write of the counting record completes, and the verifier is compared (R339). A re-wrap waits for the DRBG it needs
(R358). -/
def execRetryCounted (plot : Nat) (s : State) : Host.Outcome State Fault Refusal :=
  .next <|
    match (s.plot plot).checks with
    | [] => s
    | c :: _ =>
      if c.matched then s
      else
        let next := fun (s : State) => runChecks plot ((s.plot plot).checks.length + 1) s
        match s.checkRefusal plot c, c.what with
        | some (st, d), _ => next (popCheck (answerCheck s c st d []) plot)
        | none, .provision _ => next s
        | none, .rewrap _ =>
          if s.sec.drbgReady then next (compareSecret (writeRecord s plot fun r => { r with retry := min 255 (r.retry + 1) }) plot c) else s
        | none, _ => next (compareSecret (writeRecord s plot fun r => { r with retry := min 255 (r.retry + 1) }) plot c)

/-- The master sends the working keys of a wide Plot to the members of DEVICES, wrapped under each one's transport key (R614). -/
def distributeKey (s : State) (n : Nat) : State :=
  if !s.isMaster then s
  else
    match (s.plot n).keys with
    | none => s
    | some k =>
      (s.keyMembers n).foldl (fun (s : State) pos =>
        match s.stk.transport.find? (·.1 == pos) with
        | none => s
        | some x =>
          let gen := (s.plot n).record.genBit
          let put := fun (s : State) (keys : List Byte) (old : Bool) =>
            (ringRequest s 0x40 pos (leBytes 2 n ++ leBytes 1 (bitOf (gen != old) 0) ++ leBytes 1 (bitOf old 0) ++
              leBytes 4 0 ++ padTo 0 136 (Config.kwWrap x.2 keys)) none .other).1
          let s := put s k.keys false
          match k.old with | some o => put s o true | none => s) s

/-- The request came through this port. -/
def Asker.isPort (a : Asker) (p : Port) : Bool := match a with | .port q _ => q == p | _ => false

/-- The embedded port a Plot holds on a port, 0 for none, as the UNLOCK response names it. -/
def State.embByte (s : State) (p : Port) (n : Nat) : Nat := (s.embOf p n).getD 0

/-- What stands against a matched unlock when its record is written (log 65): a refusal of R274 that has arisen since, an
embedded port taken meanwhile among them (R253), or the key-store entry gone with a LOCK or an erasure. -/
def State.openRefusal (s : State) (n mode : Nat) : Option (Nat × Nat) :=
  match s.unlockRefusal n mode with
  | some r => some r
  | none => if (s.plot n).keys.isNone then some (0x0018, (s.plot n).mode.code) else none

/-- A matched unlock that ends refused leaves no key of a Plot that is not open. -/
def refuseOpen (s : State) (n : Nat) (c : SecretCheck) (status detail : Nat) : State :=
  let s := popCheck s n
  answerCheck (if (s.plot n).mode.up then s else clearKeys s [n]) c status detail []

/-- The record with RETRY = 0 is written and the Plot becomes Open or Read-only; its embedded ports are connected and OK is
sent (R253 to R255, R275, R276, R339 step 3); the other ports that present the Plot take wake trigger 1 (Table PRT-2). A
provisioning that waited for its trim entry goes on. -/
def execKeyRecordWritten (plot : Nat) (s : State) : Host.Outcome State Fault Refusal :=
  .next <|
    match (s.plot plot).checks with
    | [] => s
    | c :: _ =>
      let next := fun (s : State) => runChecks plot ((s.plot plot).checks.length + 1) s
      if !c.matched then next s
      else
        match c.what with
        | .unlock mode =>
          match s.openRefusal plot mode with
          | some (st, d) => next (refuseOpen (writeRecord s plot fun r => { r with retry := 0 }) plot c st d)
          | none =>
          let cause := s.readOnlyCause plot
          let goal := if mode = 1 ∨ cause ≠ 0 then PlotMode.readOnly else .open_
          let before := (s.plot plot).mode
          let s := popCheck (writeRecord s plot fun r => { r with retry := 0 }) plot
          let s := setPlotMode s plot goal 0
          let s := s.modPlot plot fun p => { p with
            roCause := if goal = .readOnly then (if mode = 1 then 1 else cause) else 0
            byUnlock := decide (mode = 1) }
          let emb := ((s.plotCfg? plot).map (·.embPort)).getD 0
          let s := if before.up then s else (s.portsOf plot).foldl (fun (s : State) p => attachPlot s p plot emb) s
          let s := (s.portsOf plot).foldl (fun (s : State) p => if c.asker.isPort p then s else wakeTrigger s p 1) s
          let s := distributeKey s plot
          let s := answerCheck s c 0 (if mode = 0 ∧ goal = .readOnly then 1 else 0)
            (leBytes 1 goal.code ++ leBytes 1 (s.embByte .a plot) ++ leBytes 1 (s.embByte .b plot) ++ [0])
          let s := match s.fieldOf plot with | some f => runField s f | none => s
          next s
        | _ => s

/-! ### `PLT_CTRL` (R348, R356, R357) -/

/-- A write of the block of Plot n: by a host identity only as holder of semaphore 64 + n (Table SEM-3, R661). -/
def plotWrite (s : State) (id : Identity) (n addr : Nat) (effect : State → State) : State :=
  if s.plots.length ≤ n then rsvdWrite s id addr
  else csWrite s id addr true fun s => if !isHostId id || s.holdsSem id (64 + n) then effect s else s

def setPlotResult (s : State) (n result : Nat) : State := s.modPlot n fun p => { p with result := result }

/-- Credential records of a Plot that are not in a page yet, in flight or latent, carry the tag of the key set that writes
them (R332, R349). -/
def retagPuts (s : State) (n : Nat) : State :=
  let again := fun (lba order : Nat) (image : List Byte) => recordImage (s.keySet n) n (lba / 2) order (image.take 8176)
  let s := s.modTasks fun ts => ts.map fun t =>
    match t.order with
    | some o => if t.key.plot = n ∧ t.kind = .put ∧ !t.value.isEmpty then { t with value := again t.lba o t.value } else t
    | none => t
  match s.fieldOf n with
  | none => s
  | some f => s.modField f fun fs => { fs with entries := fs.entries.map fun e =>
      if e.plot = n ∧ e.kind = .record ∧ !placed fs e then { e with data := again e.lba e.order e.data } else e }

/-- OP = 1: a bulk re-key starts (R348, R347, R357). -/
def startRekey (s : State) (n : Nat) : State :=
  let p := s.plot n
  if !p.mode.up then setPlotResult s n 2
  else if p.record.rekeying ∨ p.sanitize.isSome then setPlotResult s n 3
  else if p.record.rekeys = counterMax then setPlotResult s n 1
  else
    match p.keys with
    | none => setPlotResult s n 2
    | some k =>
      let (keys, s) := drawKeySet s
      let s := writeRecord s n fun r => { r with
        wrapA := Config.kwWrap k.kek keys, wrapB := Config.kwWrap k.kek k.keys, genBit := !r.genBit, rekeying := true
        rekeyLba := 0, rekeys := min counterMax (r.rekeys + 1) }
      let s := s.modPlot n fun p => { p with keys := some { k with keys := keys, old := some k.keys }, result := 0 }
      let s := distributeKey (retagPuts s n) n
      match s.fieldOf n with
      | some f => runField s f
      | none => s

/-- OP = 2: the Plot's keys are destroyed (R356). -/
def plotErase (s : State) (n key : Nat) : State :=
  if key ≠ 0xE2A5 then setPlotResult s n 4
  else
    let s := setPlotResult (erasePlot s n 0) n 0
    runChecks n ((s.plot n).checks.length) s

/-- A granted write of `PLT_CTRL`. A Plot the layout does not define has no state to leave or enter; its record is destroyed all
the same (R337, R356, R357). -/
def plotControl (s : State) (n op key : Nat) : State :=
  if (s.plotCfg? n).isNone then
    if op = 1 then setPlotResult s n 2
    else if op ≠ 2 then s
    else if key ≠ 0xE2A5 then setPlotResult s n 4
    else queueEvents (setPlotResult (destroyRecord s n) n 0) 0x0010 n (PlotMode.absent.code + 16 * PlotMode.erased.code) 0
  else if op = 1 then startRekey s n
  else if op = 2 then plotErase s n key
  else s

def execBulkRekey (id : Identity) (plot : Nat) (s : State) : Host.Outcome State Fault Refusal :=
  .next <| plotWrite s id plot (csPltCtrl plot) fun s => plotControl s plot 1 0

def execPlotErase (id : Identity) (plot : Nat) (key : BitVec 16) (s : State) : Host.Outcome State Fault Refusal :=
  .next <| plotWrite s id plot (csPltCtrl plot) fun s => plotControl s plot 2 key.toNat

end Sys2Proof.Machine
end

