-- ==== Sys2Proof/Machine/Vault.lean ====
section
/-! DEFINITION. The management function (chapter "Functions and command sets"): how a request capsule is taken, the refusals of
Table FNC-2, INFO, ECHO, the intake of REG, the vault opcodes, and what leaves on its IN endpoints. -/

namespace Sys2Proof.Machine

/-! ### Taking a request (R264 to R266) -/

/-- The function stands behind a configured hub, connected on its embedded port (R252, R254). -/
def State.hasFn (s : State) (p : Port) : CapsuleFn → Bool
  | .management => (s.port p).bulk 1
  | .credential n => ((s.plotCfg? n).map (·.credential)).getD false && (match s.embOf p n with | some k => (s.port p).bulk k | none => false)

/-- The function takes a request: none is in progress, and the response before it has been read. -/
def State.takes (s : State) (p : Port) (fn : CapsuleFn) : Bool :=
  s.hasFn p fn && !((s.pfn p).cap fn).busy && ((s.pfn p).cap fn).resp.isNone

/-- A request is in progress on a function. -/
def beginCapsule (s : State) (p : Port) (fn : CapsuleFn) (opcode tag : Nat) : State :=
  s.modPfn p fun q => q.modCap fn fun c => { c with busy := true, opcode := opcode, tag := tag, todo := [], doneR := [], resp := none }

/-- Take a request and do what it asks. -/
def withCapsule (s : State) (p : Port) (fn : CapsuleFn) (opcode tag : Nat) (run : State → State) : State :=
  if s.takes p fn then run (beginCapsule s p fn opcode tag) else s

def stBadMagic : Nat := 0x0001
def stBadVersion : Nat := 0x0002
def stBadLength : Nat := 0x0003
def stBadCrc : Nat := 0x0004
def stBadOpcode : Nat := 0x0005
def stBadField : Nat := 0x0006
def stPartial : Nat := 0x0007
def stBusy : Nat := 0x0008
def stNotReady : Nat := 0x000A
def stNoLayout : Nat := 0x000B
def stNoPlot : Nat := 0x000C
def stNoSem : Nat := 0x000D
def stErased : Nat := 0x000F
def stSafelight : Nat := 0x0010
def stReadOnly : Nat := 0x0011
def stNotFound : Nat := 0x0012
def stFull : Nat := 0x0013
def stLinkLost : Nat := 0x0016
def stWrongState : Nat := 0x0018

/-- Answer the request in progress of the management function with a status alone. -/
def mgmtStatus (s : State) (p : Port) (opcode tag status detail : Nat) : State := respondStatus s p .management opcode false tag status detail

/-- The opcodes of a function (Tables FNC-4 and FNC-13). -/
def opcodesOf : CapsuleFn → List Nat
  | .management => [0x01, 0x02, 0x03, 0x10, 0x11, 0x12]
  | .credential _ => [0x40, 0x41, 0x42, 0x43]

/-- Whether LENGTH fits the payload an opcode requires (Table FNC-2, check 7). -/
def lengthOk (opcode length : Nat) (pl : List Byte) : Bool :=
  let u8 := fun (o : Nat) => leNat (slice pl o 1)
  let u16 := fun (o : Nat) => leNat (slice pl o 2)
  if opcode = 0x01 then length == 0
  else if opcode = 0x02 then length % 8 == 0
  else if opcode = 0x03 then true
  else if opcode = 0x10 then decide (8 ≤ length) && length == 8 + u16 4
  else if opcode = 0x11 then length == 4
  else if opcode = 0x12 then decide (4 ≤ length) && length == 4 + u16 2
  else if opcode = 0x40 then decide (4 ≤ length) && length == 4 + u8 0 + u16 2
  else decide (4 ≤ length) && length == 4 + u8 0

/-- The payload offset of the first field out of its range (Table FNC-2, check 8; Tables FNC-8, FNC-13 and PLT-3). -/
def fieldFault? (opcode : Nat) (pl : List Byte) : Option Nat :=
  let u8 := fun (o : Nat) => leNat (slice pl o 1)
  let u16 := fun (o : Nat) => leNat (slice pl o 2)
  let first := fun (l : List (Nat × Bool)) => (l.find? fun x => !x.2).map (·.1)
  if opcode = 0x10 then first [(0, decide (u16 0 ≤ 1023)), (2, decide (u8 2 ≤ 1)), (3, u8 3 == 0),
    (4, decide (16 ≤ u16 4) && decide (u16 4 ≤ 512)), (6, u16 6 == 0)]
  else if opcode = 0x11 then first [(0, decide (u16 0 ≤ 1023)), (2, decide (u8 2 ≤ 1)), (3, u8 3 == 0)]
  else if opcode = 0x12 then first [(0, decide (u16 0 ≤ 1023)), (2, decide (16 ≤ u16 2) && decide (u16 2 ≤ 1024)),
    (4, u16 4 == 0 || (decide (16 ≤ u16 4) && decide (u16 4 ≤ 504))), (6, decide (16 ≤ u16 6) && decide (u16 6 ≤ 504)),
    (2, u16 2 == 4 + u16 4 + u16 6)]
  else if opcode = 0x40 then first [(0, decide (1 ≤ u8 0) && decide (u8 0 ≤ 64)), (1, decide (u8 1 ≤ 2)), (2, decide (u16 2 ≤ 4096))]
  else if opcode = 0x41 ∨ opcode = 0x43 then first [(0, decide (1 ≤ u8 0) && decide (u8 0 ≤ 64)), (1, u8 1 == 0), (2, u8 2 == 0), (3, u8 3 == 0)]
  else if opcode = 0x42 then first [(0, decide (u8 0 ≤ 64)), (1, u8 1 == 0), (2, decide (u16 2 ≤ 1024))]
  else none

/-- The first failure of Table FNC-2: status and DETAIL. -/
def capsuleCheck (fn : CapsuleFn) (r : CapsuleRaw) : Option (Nat × Nat) :=
  let op := r.opcode.toNat
  let flags := r.flags.toNat
  let fua := op == 0x40 || op == 0x43
  if r.bytes < 32 ∨ 65568 < r.bytes ∨ r.bytes ≠ 32 + r.length then some (stBadLength, 0)
  else if !r.magicOk then some (stBadMagic, 0)
  else if r.version ≠ 0x01 then some (stBadVersion, 0)
  else if !r.crcOk then some (stBadCrc, 0)
  else if !(opcodesOf fn).contains op then some (stBadOpcode, 0)
  else if 1 < flags ∨ (flags = 1 ∧ !fua) ∨ r.order ≠ 0 ∨ r.status ≠ 0 ∨ r.detail ≠ 0 then some (stBadField, 0)
  else if !lengthOk op r.length r.payload then some (stBadLength, 0)
  else (fieldFault? op r.payload).map fun o => (stBadField, o)

/-- A request capsule arrives that a check of Table FNC-2 refuses (R264, R265): a header-only answer that echoes the OPCODE,
the FUA bit and the TAG as they arrived, zero where they did not. A capsule that passes every check has its own command. -/
def execCapsuleRefused (p : Port) (fn : CapsuleFn) (raw : CapsuleRaw) (s : State) : Host.Outcome State Fault Refusal :=
  .next <|
    match capsuleCheck fn raw with
    | none => s
    | some (st, d) =>
      let op := if raw.bytes < 6 then 0 else raw.opcode.toNat
      let tag := if raw.bytes < 16 then 0 else raw.tag
      let fua := decide (8 ≤ raw.bytes) && raw.flags.toNat.testBit 0
      withCapsule s p fn op tag fun s => respond s p fn ⟨op, fua, tag, 0, st, d, []⟩

/-! ### INFO (Table FNC-6) -/

def powerCode : PowerState → Nat
  | .lit => 1 | .dim => 2 | .dark => 3 | .off => 0

def State.epoch (s : State) : Nat := ((s.layout).map (·.epoch)).getD 0

def infoState (s : State) : Nat :=
  bitOf (!s.hasLayout) 0 + bitOf s.stk.lone 1 + bitOf (s.saf.scopes.any fun c => c.code == 6 && c.latch) 2 +
  bitOf (s.saf.starting || s.deviceScope) 3 + bitOf (s.pwr.step != 15) 4 + bitOf (s.fields.any (·.replaying)) 5

/-- Two 4-bit fields or four 2-bit fields to a byte, lowest Plot in the lowest bits. -/
def packPlots (s : State) (per width : Nat) (f : PlotState → Nat) : List Byte :=
  (List.range (64 / per)).map fun i =>
    BitVec.ofNat 8 (((List.range per).map fun j => f (s.plot (per * i + j)) * 2 ^ (width * j)).sum)

def infoBytes (s : State) (p : Port) : List Byte :=
  let position := if s.stk.up.up ∨ s.stk.dn.up then s.ringPos else 0xFF
  leBytes 4 (glbId s.member s.stepping).toNat ++ leBytes 1 (infoState s) ++ leBytes 1 p.index ++ leBytes 1 (powerCode s.pwr.state) ++
  leBytes 1 position ++ leBytes 4 s.epoch ++ leBytes 2 s.saf.causeCode ++ leBytes 2 (s.pfn p).evLost ++
  packPlots s 2 4 (·.mode.code) ++ packPlots s 4 2 (·.health)

def execInfo (p : Port) (tag : Nat) (s : State) : Host.Outcome State Fault Refusal :=
  .next <| withCapsule s p .management 0x01 tag fun s =>
    let s := respond s p .management ⟨0x01, false, tag, 0, 0, 0, infoBytes s p⟩
    s.modPfn p fun q => { q with evLost := 0 }

/-! ### ECHO and REG -/

def execEcho (p : Port) (tag : Nat) (payload : List Byte) (s : State) : Host.Outcome State Fault Refusal :=
  .next <| withCapsule s p .management 0x03 tag fun s =>
    if 65536 < payload.length then mgmtStatus s p 0x03 tag stBadLength 0
    else respond s p .management ⟨0x03, false, tag, 0, 0, 0, payload⟩

/-- An entry passes the pre-check of R269. -/
def regEntryOk (e : RegEntry) : Bool := decide (e.op ≤ 1) && e.addr.toNat % 4 == 0 && (e.op == 1 || e.value == 0)

/-- A REG capsule: the pre-check of every entry, then its entries one by one as the arbiter grants them (R269, R270). -/
def execReg (p : Port) (tag : Nat) (entries : List RegEntry) (s : State) : Host.Outcome State Fault Refusal :=
  .next <| withCapsule s p .management 0x02 tag fun s =>
    if 8192 < entries.length then mgmtStatus s p 0x02 tag stBadLength 0
    else
      match entries.findIdx? fun e => !regEntryOk e with
      | some i => mgmtStatus s p 0x02 tag stBadField i
      | none =>
        if entries.isEmpty then mgmtStatus s p 0x02 tag 0 0
        else s.modPfn p fun q => q.modCap .management fun c => { c with todo := entries }

/-! ### Vault opcodes (R268, R273 to R278) -/

/-- A vault capsule as it travels to the stack master. -/
def vaultCapsule (opcode tag : Nat) (payload : List Byte) : List Byte :=
  let head := [0x5A, 0x4B, 0x43, 0x50, 0x01] ++ leBytes 1 opcode ++ leBytes 2 0 ++ leBytes 4 payload.length ++ leBytes 4 tag ++ leBytes 12 0
  head ++ leBytes 4 (crc32c (head ++ payload)) ++ payload

/-- A Plot number of 64 or above: the master's Plot is forwarded to it, 128 and above names no Plot (R613). A Lone member has no
master to ask (R596). -/
def forwardVault (s : State) (p : Port) (opcode tag plot : Nat) (payload : List Byte) : State :=
  if 128 ≤ plot ∨ s.isMaster then mgmtStatus s p opcode tag stNoPlot 0
  else if s.stk.state ≠ 2 then mgmtStatus s p opcode tag (if s.stk.lone ∨ s.stk.state = 1 then stLinkLost else stNoPlot) 0
  else
    let (s, ok) := ringRequest s 0x30 0 (leBytes 1 1 ++ leBytes 1 p.index ++ leBytes 2 (plot - 64) ++ vaultCapsule opcode tag payload)
      none (.vault p tag opcode)
    if ok then s else mgmtStatus s p opcode tag stLinkLost 0

/-- The identity that holds a Plot's semaphore when it is not the asker (R273). -/
def State.plotSemHeld (s : State) (n : Nat) (id : Identity) : Option Identity :=
  let o := s.semOwner (64 + n)
  if n < s.member.plots ∧ o ≠ idNone ∧ o ≠ id then some o else none

/-- The refusals before the decision on a Plot: no layout, and another's semaphore. -/
def vaultRefusal (s : State) (id : Identity) (n : Nat) : Option (Nat × Nat) :=
  if !s.hasLayout then some (stNoLayout, 0)
  else (s.plotSemHeld n id).map fun o => (stNoSem, o.toNat)

/-- A Lone member presents only its management function (R594, R596): an UNLOCK of its Plots ends with LINK_LOST. -/
def State.loneMember (s : State) : Bool := (s.stk.lone && s.stk.role == 0) || s.stk.state == 4

/-- UNLOCK, decided as R274 orders; the secret check waits its turn. -/
def unlockPlot (s : State) (a : Asker) (id : Identity) (n mode : Nat) (secret : List Byte) : State :=
  match vaultRefusal s id n with
  | some (st, d) => answerVault s a 0x10 st d []
  | none =>
    if s.loneMember ∧ (s.plotCfg? n).isSome then answerVault s a 0x10 stLinkLost 0 []
    else askCheck s n a (.unlock mode) secret

/-- LOCK with MODE 0 (R277, R278). -/
def lockPlot (s : State) (a : Asker) (id : Identity) (n : Nat) : State :=
  let done := fun (s : State) (detail : Nat) => answerVault s a 0x11 0 detail [1, 0, 0, 0]
  match vaultRefusal s id n with
  | some (st, d) => answerVault s a 0x11 st d []
  | none =>
    if (s.plotCfg? n).isNone then answerVault s a 0x11 stNoPlot 0 []
    else if s.vaultDark then answerVault s a 0x11 stNotReady 0 []
    else
      match (s.plot n).mode with
      | .closed => done s 1
      | .erased => answerVault s a 0x11 stErased 0 []
      | .safelight => answerVault s a 0x11 stSafelight 0 []
      | .absent => answerVault s a 0x11 stNoPlot 0 []
      | _ => done (closePlot s n .closed 0) 0

/-- LOCK with MODE 1: Open to Read-only (R278). -/
def demotePlot (s : State) (a : Asker) (id : Identity) (n : Nat) : State :=
  match vaultRefusal s id n with
  | some (st, d) => answerVault s a 0x11 st d []
  | none =>
    if (s.plotCfg? n).isNone then answerVault s a 0x11 stNoPlot 0 []
    else if s.vaultDark then answerVault s a 0x11 stNotReady 0 []
    else if (s.plot n).mode ≠ .open_ then answerVault s a 0x11 stWrongState (s.plot n).mode.code []
    else
      let s := (setPlotMode s n .readOnly 0).modPlot n fun p => { p with roCause := 1, byUnlock := true }
      answerVault s a 0x11 0 0 [3, 0, 0, 0]

/-- SET_SECRET: provisioning with OLEN = 0, otherwise a re-wrap whose old secret is checked first (R344 to R346). -/
def secretPlot (s : State) (a : Asker) (id : Identity) (n : Nat) (old : Option (List Byte)) (new : List Byte) : State :=
  match vaultRefusal s id n with
  | some (st, d) => answerVault s a 0x12 st d []
  | none =>
    match old with
    | none => askCheck s n a (.provision new) []
    | some o => askCheck s n a (.rewrap new) o

def unlockPayload (plot mode : Nat) (secret : List Byte) : List Byte :=
  leBytes 2 plot ++ leBytes 1 mode ++ [0] ++ leBytes 2 secret.length ++ [0, 0] ++ secret

def secretPayload (plot : Nat) (old new : List Byte) : List Byte :=
  leBytes 2 plot ++ leBytes 2 (4 + old.length + new.length) ++ leBytes 2 old.length ++ leBytes 2 new.length ++ old ++ new

/-- A vault opcode from a port: its field check, then the decision here or at the master. -/
def vaultOp (s : State) (p : Port) (opcode tag plot : Nat) (payload : List Byte) (decide_ : State → State) : State :=
  withCapsule s p .management opcode tag fun s =>
    match fieldFault? opcode payload with
    | some o => mgmtStatus s p opcode tag stBadField o
    | none =>
      if 64 ≤ plot then (if s.hasLayout then forwardVault s p opcode tag plot payload else mgmtStatus s p opcode tag stNoLayout 0)
      else decide_ s

def execUnlock (p : Port) (tag plot mode : Nat) (secret : List Byte) (s : State) : Host.Outcome State Fault Refusal :=
  .next <| vaultOp s p 0x10 tag plot (unlockPayload plot mode secret) fun s => unlockPlot s (.port p tag) p.identity plot mode secret

def execLock (p : Port) (tag plot : Nat) (s : State) : Host.Outcome State Fault Refusal :=
  .next <| vaultOp s p 0x11 tag plot (leBytes 2 plot ++ [0, 0]) fun s => lockPlot s (.port p tag) p.identity plot

def execLockDemote (p : Port) (tag plot : Nat) (s : State) : Host.Outcome State Fault Refusal :=
  .next <| vaultOp s p 0x11 tag plot (leBytes 2 plot ++ [1, 0]) fun s => demotePlot s (.port p tag) p.identity plot

def execSetSecret (p : Port) (tag plot : Nat) (new : List Byte) (s : State) : Host.Outcome State Fault Refusal :=
  .next <| vaultOp s p 0x12 tag plot (secretPayload plot [] new) fun s => secretPlot s (.port p tag) p.identity plot none new

def execRewrap (p : Port) (tag plot : Nat) (old new : List Byte) (s : State) : Host.Outcome State Fault Refusal :=
  .next <| vaultOp s p 0x12 tag plot (secretPayload plot old new) fun s => secretPlot s (.port p tag) p.identity plot (some old) new

/-! ### IN endpoints: responses and event records (R266, R279, R280) -/

/-- The oldest event record leaves its queue; with space free again, the OVERFLOW record of what was lost follows. -/
def takeEvent (s : State) (p : Port) : State :=
  s.modPfn p fun q =>
    match q.events with
    | [] => q
    | e :: rest =>
      let q := { q with events := rest, lastEvent := some e, sent := e.bytes }
      if q.overflow = 0 then q
      else { q with
        events := q.events ++ [⟨q.evSeq, 0x00F0, 0xFFFF, s.timeUs, frameOf p (s.port p).sof, w32 q.overflow, 0⟩]
        evSeq := q.evSeq + 1
        overflow := 0 }

/-- The response leaves in full, after which the function takes the next request (R266). -/
def takeResponse (s : State) (p : Port) (fn : CapsuleFn) (r : Response) : State :=
  s.modPfn p fun q => { q.modCap fn fun c => { c with resp := none } with lastResp := some r, sent := r.bytes }

/-- The embedded port a capsule function stands on. -/
def State.fnPort (s : State) (p : Port) : CapsuleFn → Nat
  | .management => 1
  | .credential n => (s.embOf p n).getD 0

/-- The host reads a bulk IN endpoint of a capsule function: the next event record (R279), or the response in full. Its packets
take granules of the endpoint's buffer (R231). -/
def execBulkInTransfer (p : Port) (fn : CapsuleFn) (isEvent : Bool) (s : State) : Host.Outcome State Fault Refusal :=
  .next <|
    if !s.hasFn p fn then s
    else if isEvent then
      if fn ≠ .management ∨ (s.pfn p).events.isEmpty then s
      else
        let (s, ok) := inTransfer s p 1 0x82 32
        if ok then takeEvent s p else s
    else match ((s.pfn p).cap fn).resp with
      | none => s
      | some r =>
        let (s, ok) := inTransfer s p (s.fnPort p fn) 0x81 r.bytes.length
        if ok then takeResponse s p fn r else s

end Sys2Proof.Machine
end

