-- ==== Sys2Proof/Machine/Scsi.lean ====
section
/-! DEFINITION. Volume Plots (chapter "Functions and command sets"): the SCSI commands of Table FNC-11 with the sense data of
Table FNC-12, UAS task management and BOT requests (R294, R295). What a data format of SPC or SBC leaves to those standards is
filled as log 13 says. -/

namespace Sys2Proof.Machine

/-! ### Which commands reach a logical unit, and in what order they are refused -/

/-- The Plot's interface is selected on the port the command came from, or the command came over the ring (R253, R613). -/
def State.presented (s : State) (key : TaskKey) : Bool :=
  match key.origin with
  | .ring _ => true
  | .port p =>
    !((s.plotCfg? key.plot).map (·.credential)).getD false && (match s.embOf p key.plot with | some k => (s.port p).bulk k | none => false)

/-- The Plot is the stack master's, and its commands are forwarded (R612, R613). -/
def isRemote (key : TaskKey) : Bool := decide (64 ≤ key.plot) && !key.origin.isRing

def sameUnit (key : TaskKey) (o : Origin) (n : Nat) : Bool := o == key.origin && n == key.plot

/-- Sense data kept for REQUEST SENSE goes with the next command. -/
def dropSense (s : State) (key : TaskKey) : State :=
  s.modFn fun q => { q with sense := q.sense.filter fun e => !sameUnit key e.origin e.plot }

def State.owesAttention (s : State) (key : TaskKey) : Bool := s.fn.attention.any fun u => sameUnit key u.origin u.plot

def dropAttention (s : State) (key : TaskKey) : State :=
  s.modFn fun q => { q with attention := q.attention.filter fun u => !sameUnit key u.origin u.plot }

/-- A command in flight under the same tag is aborted and the new one is answered OVERLAPPED TAG ATTEMPTED (R294). -/
def overlapTag (s : State) (key : TaskKey) : State :=
  replyScsi (serveReads (abortAnd s fun t => t.key == key && t.statusDue)) key .overlappedTag []

/-- A command IU R294 turns away: ACA, an ADDITIONAL CDB LENGTH, or at SuperSpeed a tag that is no stream ID. The response of the
last two the spec leaves open: that of ACA (log 76). -/
def State.badIu (s : State) (key : TaskKey) (tr : Transport) : Bool :=
  match tr, key.origin with
  | .uas attr additional, .port p =>
    attr == .aca || additional != 0 || ((s.port p).super && (key.tag == 0 || decide (2 ^ maxStreams < key.tag)))
  | _, _ => false

/-- What comes before a command's own meaning: its logical unit, its IU, its tag, UNIT ATTENTION once (R296), SANITIZE in progress
(R290), Dark (R208, R210). INQUIRY, REPORT LUNS and REQUEST SENSE pass the last three. -/
def scsiGate (s : State) (key : TaskKey) (tr : Transport) (exempt keepsSense : Bool) (run : State → State) : State :=
  if !s.presented key then s
  else if s.badIu key tr then replyScsi s key .invalidInfoUnit []
  else if s.fn.tasks.any fun t => t.key == key && t.statusDue then overlapTag s key
  else
    let s := if keepsSense then s else dropSense s key
    if exempt then run s
    else if s.owesAttention key then replyScsi (dropAttention s key) key (.check (senseOf 6 0x29 0x00)) []
    else if (s.plot key.plot).sanitize.isSome then replyScsi s key (notReady 0x04 0x1B) []
    else if s.plotDark key.plot then replyScsi s key (notReady 0x04 0x12) []
    else run s

/-- The gate for a command whose CDB has fields beyond its operands: a reserved or unsupported one set is refused (Table
FNC-12). -/
def arrived (s : State) (a : Arrival) (exempt keepsSense : Bool) (run : State → State) : State :=
  scsiGate s a.key a.tr exempt keepsSense fun s => if a.reserved then replyScsi s a.key (illegal 0x24 0x00) [] else run s

/-! ### Commands for the stack master's Plots (R613) -/

def cdb10 (op flags lba len : Nat) : List Byte := leBytes 1 op ++ leBytes 1 flags ++ beBytes 4 lba ++ [0] ++ beBytes 2 len ++ [0]
def cdb16 (op flags lba len : Nat) : List Byte := leBytes 1 op ++ leBytes 1 flags ++ beBytes 8 lba ++ beBytes 4 len ++ [0, 0]

/-- Forward a command as IO_REQ and keep it until its IO_RSP; with no path it ends with LINK_LOST (Table FNC-12). -/
def forwardScsi (s : State) (cdb list : List Byte) (t : Task) : State :=
  let p := match t.key.origin with | .port p => p.index | .ring _ => 0
  let (s, ok) := ringRequest s 0x30 0 (leBytes 1 0 ++ leBytes 1 p ++ leBytes 2 (t.key.plot - 64) ++ padTo 0 16 cdb ++ list) none (.task t.key)
  if ok then s.modTasks fun ts => ts ++ [t] else replyScsi s t.key (.check (senseOf 0xB 0x08 0x00)) []

/-- A command with no data-path work of its own on this device, forwarded. With the master's GOOD it answers with `data`: an
IO_RSP has no room for data, so what the member cannot know of the master's Plot is a free value (log 75). -/
def forwardPlain (s : State) (key : TaskKey) (cdb data : List Byte) : State :=
  forwardScsi s cdb [] { newTask key (some .plain) .flush 0 0 false with value := data }

/-! ### Data returned -/

def good (s : State) (key : TaskKey) : State := replyScsi s key .good []
def goodData (s : State) (key : TaskKey) (data : List Byte) (alloc : Nat) : State := replyScsi s key .good (data.take alloc)

/-- A hexadecimal digit of a string, A to F in upper case: the spec says only hexadecimal digits (DESIGN CHOICE, log 102). -/
def hexDigit (n : Nat) : Byte := if n < 10 then BitVec.ofNat 8 (0x30 + n) else BitVec.ofNat 8 (0x37 + n)
def hexText (digits n : Nat) : List Byte := ((List.range digits).map fun i => hexDigit (n / 16 ^ i % 16)).reverse
def decText (digits n : Nat) : List Byte := ((List.range digits).map fun i => hexDigit (n / 10 ^ i % 10)).reverse

/-- A serial string of Table PRT-3: the device's 32 digits and what follows for the function; none while IDENT.SERIAL is 1. -/
def State.serialOf (s : State) (suffix : List Byte) : List Byte :=
  if ((s.layout).map (·.noSerial)).getD false then []
  else (slice ((s.seedWord 0).getD []) 0 16).flatMap (fun b => hexText 2 b.toNat) ++ suffix

/-- The serial string of the function of Plot n. -/
def State.serialText (s : State) (n : Nat) : List Byte := s.serialOf ([0x2D, 0x50] ++ decText (if n < 100 then 2 else 3) n)

def State.vendorText (s : State) : List Byte := padTo 0x20 8 (((s.layout).map (·.mfr)).getD [])
def State.productText (s : State) : List Byte := padTo 0x20 16 (((s.layout).map (·.product)).getD [])

/-- Fixed-format sense data (SPC): response code 0x70, VALID with INFORMATION, and the progress field of R290. -/
def senseBytes (e : Sense) : List Byte :=
  let info := e.info.getD 0
  let head := leBytes 1 (0x70 + bitOf e.info.isSome 7) ++ [0] ++ leBytes 1 e.key ++ beBytes 4 info ++ [10, 0, 0, 0, 0] ++ leBytes 1 e.asc ++ leBytes 1 e.ascq ++ [0]
  head ++ (match e.progress with | some n => [0x80] ++ beBytes 2 n | none => [0, 0, 0])

/-- The Plot's port-side identity for BCD_DEVICE. -/
def State.bcdDevice (s : State) (key : TaskKey) : Nat :=
  match key.origin with
  | .port p => (s.portCfg p).bcdDevice
  | .ring _ => 0

/-- The grain in blocks of the Plot's Field. A member knows the grains of the wide Fields from its own FIELD frames, and not which
of them the master's Plot is in: a free value where there are several (log 75). -/
def State.grainOf (s : State) (n : Nat) : Nat :=
  match s.fieldOf n with
  | some f => (s.geo f).g
  | none =>
    let wide := s.fieldList.filter fun f => ((s.fieldCfg? f).map (·.wide)).getD false
    match wide[Config.freeNat n % max 1 wide.length]? with
    | some f => (s.geo f).g
    | none => 1

def standardInquiry (s : State) (key : TaskKey) : List Byte :=
  [0x00, 0x00, 0x06, 0x02, 31, 0, 0, 0] ++ s.vendorText ++ s.productText ++ hexText 4 (s.bcdDevice key)

/-- The body of a VPD page (Table FNC-11). -/
def vpdBody (s : State) (key : TaskKey) (page : Nat) : Option (List Byte) :=
  let g := s.grainOf key.plot
  match page with
  | 0x00 => some [0x00, 0x80, 0x83, 0xB0, 0xB1, 0xB2]
  | 0x80 => some (s.serialText key.plot)
  | 0x83 =>
    let d := s.vendorText ++ s.serialText key.plot
    some ([0x02, 0x01, 0x00] ++ leBytes 1 d.length ++ d)
  | 0xB0 => some (padTo 0 60 ([0, 0, 0, 0] ++ beBytes 4 65536 ++ beBytes 4 g ++ [0, 0, 0, 0] ++ beBytes 4 0xFFFFFFFF ++ beBytes 4 4095 ++ beBytes 4 g))
  | 0xB1 => some (padTo 0 60 (beBytes 2 0x0001))
  | 0xB2 => some [0x00, 0x84, 0x02, 0x00]
  | _ => none

def State.capacityOf (s : State) (n : Nat) : Nat := ((s.plotCfg? n).map (·.capacity)).getD 0

/-- log2 of the grain: 0, 2, 4 or 6. -/
def grainExp (g : Nat) : Nat := Nat.log2 (max 1 g)

def modePage (page : Nat) (changeable : Bool) : Option (List Byte) :=
  let caching := padTo 0 20 ([0x08, 0x12] ++ leBytes 1 (bitOf (!changeable) 2))
  let control := padTo 0 12 [0x0A, 0x0A]
  match page with
  | 0x08 => some caching
  | 0x0A => some control
  | 0x3F => some (caching ++ control)
  | _ => none

/-! ### Commands that draw nothing (Table ARB-2) -/

def execTestUnitReady (a : Arrival) (s : State) : Host.Outcome State Fault Refusal :=
  .next <| arrived s a false false fun s => if isRemote a.key then forwardPlain s a.key [0x00] [] else good s a.key

/-- REQUEST SENSE (R290, R298): the progress of a SANITIZE; the kept sense data, which it clears; Dark; or no sense. -/
def execRequestSense (a : Arrival) (desc : Bool) (alloc : Nat) (s : State) : Host.Outcome State Fault Refusal :=
  .next <| arrived s a true true fun s =>
    if desc then replyScsi (dropSense s a.key) a.key (illegal 0x24 0x00) []
    else
      if (s.plot a.key.plot).sanitize.isSome then
        let (n, s) := s.drawNat
        goodData s a.key (senseBytes ⟨2, 0x04, 0x1B, none, some (n % 65536)⟩) alloc
      else match s.fn.sense.find? fun e => sameUnit a.key e.origin e.plot with
      | some e => goodData (dropSense s a.key) a.key (senseBytes e.sense) alloc
      | none =>
        if s.plotDark a.key.plot then goodData s a.key (senseBytes (senseOf 2 0x04 0x12)) alloc
        else goodData s a.key (senseBytes (senseOf 0 0 0)) alloc

def execInquiry (a : Arrival) (evpd : Bool) (page alloc : Nat) (s : State) : Host.Outcome State Fault Refusal :=
  .next <| arrived s a true false fun s =>
    if !evpd then
      if page ≠ 0 then replyScsi s a.key (illegal 0x24 0x00) [] else goodData s a.key (standardInquiry s a.key) alloc
    else
      match vpdBody s a.key page with
      | some b => goodData s a.key ([0x00] ++ leBytes 1 page ++ beBytes 2 b.length ++ b) alloc
      | none => replyScsi s a.key (illegal 0x24 0x00) []

def execReportLuns (a : Arrival) (select alloc : Nat) (s : State) : Host.Outcome State Fault Refusal :=
  .next <| arrived s a true false fun s =>
    if (select ≠ 0 ∧ select ≠ 2) ∨ alloc < 16 then replyScsi s a.key (illegal 0x24 0x00) []
    else goodData s a.key (beBytes 4 8 ++ List.replicate 12 0) alloc

def execReadCapacity10 (a : Arrival) (s : State) : Host.Outcome State Fault Refusal :=
  .next <| arrived s a false false fun s =>
    if isRemote a.key then
      let (last, s) := s.drawBytes 4
      forwardPlain s a.key (cdb10 0x25 0 0 0) (last ++ beBytes 4 4096)
    else goodData s a.key (beBytes 4 (min 0xFFFFFFFF (s.capacityOf a.key.plot - 1)) ++ beBytes 4 4096) 8

def execReadCapacity16 (a : Arrival) (alloc : Nat) (s : State) : Host.Outcome State Fault Refusal :=
  .next <| arrived s a false false fun s =>
    let data := fun (last : List Byte) =>
      last ++ beBytes 4 4096 ++ [0x00] ++ leBytes 1 (grainExp (s.grainOf a.key.plot)) ++ [0xC0, 0x00] ++ List.replicate 16 0
    if isRemote a.key then
      let (last, s) := s.drawBytes 8
      forwardPlain s a.key (cdb16 0x9E 0x10 0 alloc) ((data last).take alloc)
    else goodData s a.key (data (beBytes 8 (s.capacityOf a.key.plot - 1))) alloc

def execModeSense10 (a : Arrival) (pageControl page alloc : Nat) (s : State) : Host.Outcome State Fault Refusal :=
  .next <| arrived s a false false fun s =>
    if pageControl = 3 then replyScsi s a.key (illegal 0x39 0x00) []
    else
      match modePage page (pageControl == 1) with
      | none => replyScsi s a.key (illegal 0x24 0x00) []
      | some b =>
        let data := fun (wp : Bool) => beBytes 2 (6 + b.length) ++ [0x00] ++ leBytes 1 (bitOf wp 7 + 0x10) ++ [0, 0, 0, 0] ++ b
        if isRemote a.key then
          let (wp, s) := s.drawBool
          forwardPlain s a.key
            (padTo 0 16 (leBytes 1 0x5A ++ [0] ++ leBytes 1 (64 * pageControl + page) ++ [0, 0, 0, 0] ++ beBytes 2 alloc)) ((data wp).take alloc)
        else goodData s a.key (data (decide ((s.plot a.key.plot).mode = PlotMode.readOnly))) alloc

/-- The 8 bytes of protocol 0xF0 (R293). -/
def securityBytes (state health retries rekeys : Nat) : List Byte :=
  leBytes 1 state ++ leBytes 1 health ++ leBytes 1 retries ++ [0] ++ beBytes 4 rekeys

/-- SECURITY PROTOCOL IN (R293). A member presents the master's Plot while it is Open or Read-only; the rest of what it says
of it is free (log 75). -/
def execSecurityProtocolIn (a : Arrival) (protocol specific alloc : Nat) (s : State) : Host.Outcome State Fault Refusal :=
  .next <| arrived s a false false fun s =>
    if protocol = 0x00 ∧ specific = 0 then goodData s a.key (List.replicate 6 0 ++ beBytes 2 2 ++ [0x00, 0xF0]) alloc
    else if protocol = 0xF0 ∧ specific = 1 then
      if isRemote a.key then
        let (ro, s) := s.drawBool
        let (n, s) := s.drawNat
        let (m, s) := s.drawNat
        let state := if ro then PlotMode.readOnly.code else PlotMode.open_.code
        forwardPlain s a.key (leBytes 1 0xA2 ++ leBytes 1 protocol ++ beBytes 2 specific ++ [0, 0] ++ beBytes 4 alloc)
          ((securityBytes state (n % 3) (n / 3) (m % 2 ^ 20)).take alloc)
      else
        let p := s.plot a.key.plot
        goodData s a.key (securityBytes p.mode.code p.health (s.retryLimit a.key.plot - p.record.retry) p.record.rekeys) alloc
    else replyScsi s a.key (illegal 0x24 0x00) []

/-- An operation code or service action that Table FNC-11 does not list (R283). -/
def execUnsupportedCdb (a : Arrival) (_opcode : Nat) (s : State) : Host.Outcome State Fault Refusal :=
  .next <| scsiGate s a.key a.tr false false fun s => replyScsi s a.key (illegal 0x20 0x00) []

/-! ### READ and WRITE (R19, R20, R23, R284, R285) -/

def flagsBad (f : CdbFlags) : Bool := f.protect != 0 || f.group != 0 || f.reserved

/-- The part READ and WRITE share: field checks, range, the empty transfer, and the request to the arbiter. For the master's Plots
the master checks the range, of an empty transfer too (R284, R613). -/
def transfer (s : State) (t : Task) (f : CdbFlags) (cdb : List Byte) : State :=
  scsiGate s t.key (t.tr.getD .plain) false false fun s =>
    if flagsBad f ∨ 65536 < t.count then replyScsi s t.key (illegal 0x24 0x00) []
    else if isRemote t.key then forwardScsi s cdb [] (if t.count = 0 then { t with kind := .flush } else t)
    else if s.capacityOf t.key.plot < t.lba + t.count then replyScsi s t.key (illegal 0x21 0x00) []
    else if t.count = 0 then good s t.key
    else
      match if t.kind = TaskKind.write then s.protects t.key.plot .write else none with
      | some st => replyScsi s t.key st []
      | none => startTask s t

def execRead10 (key : TaskKey) (tr : Transport) (lba : BitVec 32) (length : BitVec 16) (fl : CdbFlags) (s : State) :
    Host.Outcome State Fault Refusal :=
  .next <| transfer s (newTask key (some tr) .read lba.toNat length.toNat false) fl (cdb10 0x28 0 lba.toNat length.toNat)

def execRead16 (key : TaskKey) (tr : Transport) (lba : BitVec 64) (length : BitVec 32) (fl : CdbFlags) (s : State) :
    Host.Outcome State Fault Refusal :=
  .next <| transfer s (newTask key (some tr) .read lba.toNat length.toNat false) fl (cdb16 0x88 0 lba.toNat length.toNat)

def execWrite10 (key : TaskKey) (tr : Transport) (lba : BitVec 32) (length : BitVec 16) (fl : CdbFlags) (s : State) :
    Host.Outcome State Fault Refusal :=
  .next <| transfer s (newTask key (some tr) .write lba.toNat length.toNat fl.fua) fl (cdb10 0x2A (bitOf fl.fua 3) lba.toNat length.toNat)

def execWrite16 (key : TaskKey) (tr : Transport) (lba : BitVec 64) (length : BitVec 32) (fl : CdbFlags) (s : State) :
    Host.Outcome State Fault Refusal :=
  .next <| transfer s (newTask key (some tr) .write lba.toNat length.toNat fl.fua) fl (cdb16 0x8A (bitOf fl.fua 3) lba.toNat length.toNat)

/-! ### Flushes (R286, R291, R292) -/

def flushPlot (s : State) (key : TaskKey) (tr : Transport) (cdb : List Byte) : State :=
  let t := newTask key (some tr) .flush 0 0 false
  if isRemote key then forwardScsi s cdb [] t else startTask s t

def syncCache (s : State) (key : TaskKey) (tr : Transport) (lba count : Nat) (immed : Bool) (fl : CdbFlags) (cdb : List Byte) : State :=
  scsiGate s key tr false false fun s =>
    if immed ∨ flagsBad fl then replyScsi s key (illegal 0x24 0x00) []
    else if !isRemote key ∧ s.capacityOf key.plot < lba + count then replyScsi s key (illegal 0x21 0x00) []
    else flushPlot s key tr cdb

def execSynchronizeCache10 (key : TaskKey) (tr : Transport) (lba : BitVec 32) (count : BitVec 16) (immed : Bool) (fl : CdbFlags) (s : State) :
    Host.Outcome State Fault Refusal :=
  .next <| syncCache s key tr lba.toNat count.toNat immed fl (cdb10 0x35 0 lba.toNat count.toNat)

def execSynchronizeCache16 (key : TaskKey) (tr : Transport) (lba : BitVec 64) (count : BitVec 32) (immed : Bool) (fl : CdbFlags) (s : State) :
    Host.Outcome State Fault Refusal :=
  .next <| syncCache s key tr lba.toNat count.toNat immed fl (cdb16 0x91 0 lba.toNat count.toNat)

def execStartStopUnitStop (key : TaskKey) (c : Carried) (powerCondition : Nat) (s : State) : Host.Outcome State Fault Refusal :=
  .next <| arrived s ⟨key, c.tr, c.reserved⟩ false false fun s =>
    if powerCondition ≠ 0 then replyScsi s key (illegal 0x24 0x00) [] else flushPlot s key c.tr [0x1B]

def execStartStopUnitStart (a : Arrival) (powerCondition : Nat) (s : State) : Host.Outcome State Fault Refusal :=
  .next <| arrived s a false false fun s =>
    if powerCondition ≠ 0 then replyScsi s a.key (illegal 0x24 0x00) []
    else if isRemote a.key then forwardPlain s a.key [0x1B, 0, 0, 0, 1, 0] []
    else good s a.key

/-! ### UNMAP (R287 to R289) -/

/-- An UNMAP arrives: its parameter list is taken in before anything is asked of the arbiter. -/
def execUnmap (key : TaskKey) (tr : Transport) (anchor : Bool) (paramLength : Nat) (fl : CdbFlags) (s : State) : Host.Outcome State Fault Refusal :=
  .next <| scsiGate s key tr false false fun s =>
    if anchor ∨ flagsBad fl then replyScsi s key (illegal 0x24 0x00) []
    else if paramLength = 0 then good s key
    else s.modTasks fun ts => ts ++ [{ newTask key (some tr) .discard 0 0 false with intake := true }]

/-- The parameter list as it travels behind an IO_REQ (log 14). -/
def unmapList (descs : List UnmapDesc) : List Byte :=
  beBytes 2 (6 + 16 * descs.length) ++ beBytes 2 (16 * descs.length) ++ List.replicate 4 0 ++
    descs.flatMap fun d => beBytes 8 d.lba ++ beBytes 4 d.count ++ List.replicate 4 0

/-- The decision on a complete parameter list (R287, R290), and the request to the arbiter. -/
def unmapDecide (s : State) (t : Task) (wellFormed : Bool) (descs : List UnmapDesc) : State :=
  let todo := descs.filter fun d => d.count != 0
  if (s.plot t.key.plot).sanitize.isSome then replyScsi s t.key (notReady 0x04 0x1B) []
  else if s.plotDark t.key.plot then replyScsi s t.key (notReady 0x04 0x12) []
  else if !wellFormed ∨ 4095 < descs.length then replyScsi s t.key (illegal 0x26 0x00) []
  else if isRemote t.key then
    (if todo.isEmpty then good s t.key
     else forwardScsi s (cdb10 0x42 0 0 (8 + 16 * descs.length)) (unmapList descs) { t with kind := .flush })
  else if todo.any fun d => decide (s.capacityOf t.key.plot < d.lba + d.count) then replyScsi s t.key (illegal 0x21 0x00) []
  else if todo.isEmpty then good s t.key
  else
    match s.protects t.key.plot .discard with
    | some st => replyScsi s t.key st []
    | none => startTask s { t with descs := todo.map fun d => (d.lba, d.count) }

def execUnmapParameterList (key : TaskKey) (wellFormed : Bool) (descs : List UnmapDesc) (s : State) : Host.Outcome State Fault Refusal :=
  .next <|
    match s.fn.tasks.find? fun t => t.key == key && t.intake && t.statusDue with
    | none => s
    | some t =>
      let s := s.modTasks fun ts => ts.filter fun x => !(x.key == key && x.intake)
      unmapDecide s { t with intake := false } wellFormed descs

/-! ### SANITIZE (R290, R347, R355) -/

/-- The decision on a SANITIZE whose CDB is in order, and the request to the arbiter; for the master's Plots the master
decides. -/
def sanitizePlot (s : State) (key : TaskKey) (tr : Transport) (immed : Bool) : State :=
  let t := { newTask key (some tr) .sanitize 0 0 false with mode := bitOf immed 0 }
  if isRemote key then forwardScsi s (cdb10 0x48 (3 + bitOf immed 7) 0 0) [] { t with kind := .flush }
  else
    match s.protects key.plot .sanitize with
    | some st => replyScsi s key st []
    | none =>
      if s.eraseBarred key.plot then replyScsi s key (.check (senseOf 3 0x31 0x03)) []
      else startTask s t

def execSanitize (key : TaskKey) (c : Carried) (serviceAction : Nat) (immed : Bool) (paramLength : Nat) (s : State) :
    Host.Outcome State Fault Refusal :=
  .next <| scsiGate s key c.tr false false fun s =>
    if serviceAction ≠ 3 then replyScsi s key (illegal 0x20 0x00) []
    else if paramLength ≠ 0 ∨ c.reserved then replyScsi s key (illegal 0x24 0x00) []
    else sanitizePlot s key c.tr immed

/-- Every other command of the Plot granted before the SANITIZE has ended (R355, step 2). -/
def State.earlierEnded (s : State) (n : Nat) (run : SanitizeRun) : Bool :=
  !s.fn.tasks.any fun t => t.key.plot == n && t.key != run.key && t.statusDue && !t.held && !t.intake && t.ticket.isSome

/-- Steps 3 and 4 of R355: the new key set under the same KEK, an empty map, and no older record copy. The trim entry was
placed at the grant; what was written so far is mapped by no recovery (R446, R452). -/
def cryptoErase (s : State) (n : Nat) (run : SanitizeRun) (k : KeyEntry) : State :=
  let (keys, s) := drawKeySet s
  let s := writeRecord s n fun r => { r with
    wrapA := Config.kwWrap k.kek keys, wrapB := [], rekeying := false, rekeyLba := 0, rekeys := min counterMax (r.rekeys + 1) }
  let s := s.modPlot n fun p => { p with keys := some { k with keys := keys, old := none } }
  destroyOlder (distributeKey (clearMap (s.modPlot n fun p => { p with eraseCut := run.order }) n) n) n

/-- The crypto-erase completes. Before every earlier command of the Plot has ended it cannot. -/
def execSanitizeComplete (plot : Nat) (s : State) : Host.Outcome State Fault Refusal :=
  .next <|
    match (s.plot plot).sanitize, (s.plot plot).keys with
    | some run, some k =>
      if !s.earlierEnded plot run then s
      else
        let s := cryptoErase s plot run k
        let s := s.modPlot plot fun p => { p with sanitize := none }
        let s := match s.task? run.key with
          | some t => answerTask s t .good []
          | none => s
        settleTasks s
    | _, _ => s

/-! ### Task management (R294) and BOT requests (R295) -/

/-- The alternate setting of the Plot's interface is UAS. -/
def State.runsUas (s : State) (key : TaskKey) : Bool :=
  match key.origin with
  | .ring _ => false
  | .port p => match s.embOf p key.plot with | some k => ((s.port p).emb.getD k Reset.emb).alt == 1 | none => false

/-- A task management function on the UAS interface of a Plot: the commands it selects are aborted with R43 applied. -/
def taskManagement (s : State) (key : TaskKey) (sel : Task → Bool) : State :=
  if !s.presented key ∨ !s.runsUas key then s
  else sendScsi (serveReads (abortAnd s fun t => sel t && t.statusDue)) key .functionComplete []

/-- A command of the Plot from the same port. Those of a Plot's other port are left alone, by LOGICAL UNIT RESET and CLEAR
TASK SET too (DESIGN CHOICE, log 103). -/
def ofUnit (key : TaskKey) (t : Task) : Bool := sameUnit key t.key.origin t.key.plot

def execAbortTask (key : TaskKey) (s : State) : Host.Outcome State Fault Refusal := .next (taskManagement s key (·.key == key))
def execAbortTaskSet (key : TaskKey) (s : State) : Host.Outcome State Fault Refusal := .next (taskManagement s key (ofUnit key))
def execClearTaskSet (key : TaskKey) (s : State) : Host.Outcome State Fault Refusal := .next (taskManagement s key (ofUnit key))
def execLogicalUnitReset (key : TaskKey) (s : State) : Host.Outcome State Fault Refusal := .next (taskManagement s key (ofUnit key))
def execITNexusReset (key : TaskKey) (s : State) : Host.Outcome State Fault Refusal := .next (taskManagement s key (ofUnit key))

/-- QUERY TASK: FUNCTION SUCCEEDED while the tag is in flight, else FUNCTION COMPLETE. -/
def execQueryTask (key : TaskKey) (s : State) : Host.Outcome State Fault Refusal :=
  .next <|
    if !s.presented key ∨ !s.runsUas key then s
    else if (s.task? key).isSome then sendScsi s key .functionSucceeded []
    else sendScsi s key .functionComplete []

/-- The Volume function of a Plot on a port, under BOT. -/
def State.runsBot (s : State) (p : Port) (plot : Nat) : Bool :=
  let key : TaskKey := ⟨.port p, plot, 0⟩
  s.presented key && !s.runsUas key

/-- Bulk-Only Mass Storage Reset (R295). -/
def execMassStorageReset (p : Port) (plot : Nat) (s : State) : Host.Outcome State Fault Refusal :=
  .next <|
    if !s.runsBot p plot then s
    else answerControl (serveReads (abortAnd s fun t => ofUnit ⟨.port p, plot, 0⟩ t && t.statusDue)) p 0 .ack

/-- GET MAX LUN returns 0: one LUN (R295). -/
def execGetMaxLun (p : Port) (plot : Nat) (s : State) : Host.Outcome State Fault Refusal :=
  .next <| if !s.runsBot p plot then s else answerControl s p 1 (.data 0)

end Sys2Proof.Machine
end

