-- ==== Sys2Proof/Machine/Cred.lean ====
section
/-! DEFINITION. Credential Plots (chapter "Functions and command sets", R299 to R304; R332, R333): PUT, GET, LIST and DELETE. -/

namespace Sys2Proof.Machine

/-- READ_ONLY's DETAIL: 1 the unlock or the layout, 2 the headland, 3 the end of the order numbers. -/
def State.roDetail (s : State) (n : Nat) : Nat := if s.arb.ordEnd then 3 else (s.plot n).roCause

/-- What comes before a credential opcode's own meaning: the function, its fields (Table FNC-2), Dark and Read-only (R304).
Where several apply the spec gives no order: NOT_READY, then READ_ONLY, then BUSY (DESIGN CHOICE, log 105). -/
def credGate (s : State) (key : TaskKey) (opcode : Nat) (payload : List Byte) (mutates fua : Bool) (run : State → Port → State) : State :=
  match key.origin with
  | .ring _ => s
  | .port p =>
    let fn := CapsuleFn.credential key.plot
    withCapsule s p fn opcode key.tag fun s =>
      match fieldFault? opcode payload with
      | some o => respondStatus s p fn opcode fua key.tag stBadField o
      | none =>
        if s.plotDark key.plot then respondStatus s p fn opcode fua key.tag stNotReady 0
        else if mutates ∧ (s.plot key.plot).mode = .readOnly then respondStatus s p fn opcode fua key.tag stReadOnly (s.roDetail key.plot)
        else run s p

/-- What a credential opcode that wins its tick draws beside its ticket (Table ARB-2). -/
def credGrant (s : State) (t : Task) (id : Nat) : Grant :=
  let reads := t.kind = .get ∨ t.kind = .list
  ⟨t.key.origin.cls, if reads then none else (issueOrder s).map (·.1), if reads then some s.horizon else none, some id, .granted⟩

/-- A ticket for a credential opcode, whose grant is noted, or BUSY (R33, R53, R304). -/
def credTicket (s : State) (t : Task) (run : State → Task → State) : State :=
  match drawTicket s t.key.origin.cls with
  | some (id, s) => run (noteGrant s (credGrant s t id)) { t with ticket := some id, durable := s.asFua }
  | none => if s.arb.lockstep then s
      else noTicket (noteGrant (countTsf s t.key.origin.cls) ⟨t.key.origin.cls, none, none, none, t.noTicketEnd⟩) t

/-- A numbered credential opcode ends at its number; its ticket returns. -/
def endNumbered (s : State) (t : Task) (status detail : Nat) : State :=
  settleTasks (answerCapsule (s.modTasks fun ts => ts ++ [t]) t status detail [])

/-- The lowest slot no record holds (R333). -/
def freeSlot (used : List Nat) : (fuel n : Nat) → Nat
  | 0, n => n
  | fuel + 1, n => if used.contains n then freeSlot used fuel (n + 1) else n

/-- A granted PUT, decided at its number (R299, R300, R333, R399). -/
def putAt (s : State) (t : Task) (f mode : Nat) (value : List Byte) (n : Nat) : State :=
  let t := { t with order := some n, since := (s.field f).rseqNext }
  let recs := s.recordsAt t.key.plot (n - 1)
  let there := (recs.find? (·.2 == t.name)).map (·.1)
  let code := (s.plot t.key.plot).mode.code
  if mode = 1 ∧ there.isSome then endNumbered s t stWrongState (0x0100 + code)
  else if mode = 2 ∧ there.isNone then endNumbered s t stWrongState (0x0200 + code)
  else if (s.field f).spaceOut then endNumbered s t stFull 2
  else if there.isNone ∧ s.capacityOf t.key.plot ≤ recs.length then endNumbered s t stFull 1
  else
    let slot := there.getD (freeSlot (recs.map (·.1)) recs.length 0)
    s.modTasks fun ts => ts ++ [{ t with lba := 2 * slot, count := 2, value := recordImage (s.keySet t.key.plot) t.key.plot slot n (recordPlain t.name value) }]

/-- A granted DELETE, decided at its number (R299, R301): the record's two blocks are discarded. -/
def deleteAt (s : State) (t : Task) (f n : Nat) : State :=
  let t := { t with order := some n, since := (s.field f).rseqNext }
  match (s.recordsAt t.key.plot (n - 1)).find? (·.2 == t.name) with
  | none => endNumbered s t stNotFound 0
  | some r =>
    let g := max 1 (s.geo f).g
    if (s.field f).spaceOut ∧ 2 < g then endNumbered s t stFull 2
    else
      let t := { t with lba := 2 * r.1, count := 0, descs := [(2 * r.1, 2)] }
      let s := applyDiscard (s.modTasks fun ts => ts ++ [t]) f t
      if t.fua ∨ t.durable then
        develop (s.modField f fun fs => { fs with waiters := fs.waiters ++ [⟨t.key, n, none⟩] }) f (below (n + 1))
      else runField (answerTask s t .good []) f

/-- The number of a numbered credential opcode; the order-number end leaves its Plot Read-only (R47). -/
def numbered (s : State) (t : Task) (p : Port) (run : State → Nat → State) : State :=
  match issueOrder s with
  | some (n, s) => run s n
  | none =>
    let s := match t.ticket with | some id => releaseTicket s id | none => s
    respondStatus s p (.credential t.key.plot) (taskOpcode t.kind) t.fua t.key.tag stReadOnly 3

def putPayload (mode : Nat) (name value : List Byte) : List Byte :=
  leBytes 1 name.length ++ leBytes 1 mode ++ leBytes 2 value.length ++ name ++ value

def namePayload (name : List Byte) : List Byte := leBytes 1 name.length ++ [0, 0, 0] ++ name

def execPut (key : TaskKey) (mode : Nat) (name value : List Byte) (fua : Bool) (s : State) : Host.Outcome State Fault Refusal :=
  .next <| credGate s key 0x40 (putPayload mode name value) true fua fun s p =>
    match s.fieldOf key.plot with
    | none => s
    | some f =>
      credTicket s { newTask key none .put 0 0 fua with name := name, mode := mode } fun s t =>
        numbered s t p fun s n => putAt s t f mode value n

def execDelete (key : TaskKey) (name : List Byte) (fua : Bool) (s : State) : Host.Outcome State Fault Refusal :=
  .next <| credGate s key 0x43 (namePayload name) true fua fun s p =>
    match s.fieldOf key.plot with
    | none => s
    | some f =>
      credTicket s { newTask key none .del 0 0 fua with name := name } fun s t => numbered s t p fun s n => deleteAt s t f n

/-- GET (R302): the record its horizon holds; NOT_FOUND for a name that is absent there. -/
def execGet (key : TaskKey) (name : List Byte) (s : State) : Host.Outcome State Fault Refusal :=
  .next <| credGate s key 0x41 (namePayload name) false false fun s _ =>
    credTicket s { newTask key none .get 0 0 false with name := name } fun s t =>
      let t := { t with horizon := some s.horizon }
      match (s.recordsAt key.plot s.horizon).find? (·.2 == name) with
      | none => endNumbered s t stNotFound 0
      | some r =>
        let t := { t with lba := 2 * r.1, count := 2 }
        startRead (s.modTasks fun ts => ts ++ [t]) t

/-- LIST (R302, R303): it reads the images of the records it returns, wherever in the Plot they stand (R304). -/
def execList (key : TaskKey) (after : List Byte) (max : Nat) (s : State) : Host.Outcome State Fault Refusal :=
  .next <| credGate s key 0x42 (leBytes 1 after.length ++ [0] ++ leBytes 2 max ++ after) false false fun s _ =>
    credTicket s { newTask key none .list 0 (2 * s.capacityOf key.plot) false with name := after, mode := max } fun s t =>
      let t := { t with horizon := some s.horizon }
      startRead (s.modTasks fun ts => ts ++ [t]) t

end Sys2Proof.Machine
end

