-- ==== Sys2Proof/Machine/Banks.lean ====
section
/-! DEFINITION. Banks and access control (chapter "Banks and access control"): bank words behind ownership and the MPU, the
window and atomic registers of each host identity, handover and seizure, and the MPU's own registers. -/

namespace Sys2Proof.Machine

/-! ### The window of each host identity (R564 to R567) -/

def winIndex (id : Identity) : Option Nat := if id = idPortA then some 0 else if id = idPortB then some 1 else if id = idStack then some 2 else none

def State.win (s : State) (i : Nat) : WinState := s.wins.getD i Reset.win
def modWin (s : State) (i : Nat) (f : WinState → WinState) : State := { s with wins := s.wins.modify i f }

/-- The answer of a Control-space access, kept for its identity. -/
def setReply (s : State) (id : Identity) (value : Word) (st : Nat) : State :=
  if !s.csOpen id then s else
  { s with replies := ⟨id, value, st⟩ :: s.replies.filter fun r => r.id != id }

/-- A 32-bit access through the aperture: the value read, and whether the entry is DENIED (R564, R566). Another identity has
no window, and with no layout there is none to reach (R659, R660). -/
def aperture (s : State) (id : Identity) (offset : Nat) (write : Bool) (value : Word) (parityOk : Bool) : State × Word × Bool :=
  match (if s.csOpen id then winIndex id else none), s.hasLayout with
  | none, _ => (s, 0, false)
  | _, false => (s, 0, false)
  | some i, true =>
    let addr := (s.win i).page * 0x1000 + offset % 0x1000 / 4 * 4
    match bankCheck s id addr (if write then .write else .read) 4 parityOk with
    | (s, .done) => if write then (bankStore s addr 4 value.toNat, 0, false) else (s, w32 (bankNat s addr 4), false)
    | (s, .reserved) => (s, 0, false)
    | (s, _) => (s, 0, true)

def execApertureAccess (id : Identity) (offset : Nat) (write : Bool) (value : Word) (parityOk : Bool) (s : State) :
    Host.Outcome State Fault Refusal :=
  .next <|
    let (s, v, denied) := aperture s id offset write value parityOk
    setReply s id v (if denied then 2 else 0)

/-- A single-bit error corrected and written back: counted (R553). BANK_CE is recorded at the end of the sweep cycle. -/
def execEccWriteback (bank _word : Nat) (s : State) : Host.Outcome State Fault Refusal :=
  .next <|
    if s.banks.length ≤ bank then s
    else
      s.modBank bank fun k => { k with ce := count 0xFFFF k.ce, cycleCe := count 0xFFFFFFFF k.cycleCe }

/-! ### Atomic operations (Table BNK-4) -/

/-- One of OP 1 to 4: width in bits, and whether it adds. -/
def atomicOp (s : State) (id : Identity) (bits : Nat) (add : Bool) : State :=
  match winIndex id with
  | none => s
  | some i =>
    let w := s.win i
    let addr := w.atomAddr
    let clear := fun (w : WinState) => { w with resLo := 0, resHi := 0, carry := false, done := false, denied := false, ue := false, bad := false }
    if bits = 64 ∧ addr % 8 ≠ 0 then modWin s i fun w => { w with carry := false, done := false, denied := false, ue := false, bad := true }
    else
      match bankCheck s id addr .atomic (bits / 8) true with
      | (s, .done) =>
        let old := bankNat s addr (bits / 8)
        let opnd := if bits = 64 then w.opndLo.toNat + w.opndHi.toNat * 2 ^ 32 else w.opndLo.toNat
        let new := if add then (old + opnd) % 2 ^ bits else opnd
        modWin (bankStore s addr (bits / 8) new) i fun w => { clear w with
          resLo := loHalf old, resHi := if bits = 64 then hiHalf old else 0
          carry := add && decide (2 ^ bits ≤ old + opnd), done := true }
      | (s, .denied) => modWin s i fun w => { clear w with denied := true }
      | (s, .uncorrectable) => modWin s i fun w => { clear w with ue := true }
      | (s, .reserved) => modWin s i clear

def atomicWrite (s : State) (id : Identity) (bits : Nat) (add : Bool) : State :=
  csWrite s id csAtomOp true fun s => atomicOp s id bits add

def execAdd32 (id : Identity) (s : State) : Host.Outcome State Fault Refusal := .next (atomicWrite s id 32 true)
def execAdd64 (id : Identity) (s : State) : Host.Outcome State Fault Refusal := .next (atomicWrite s id 64 true)
def execSwap32 (id : Identity) (s : State) : Host.Outcome State Fault Refusal := .next (atomicWrite s id 32 false)
def execSwap64 (id : Identity) (s : State) : Host.Outcome State Fault Refusal := .next (atomicWrite s id 64 false)

/-- OP 0 or above 4 performs nothing and sets BAD. -/
def badAtomic (s : State) (id : Identity) : State :=
  match winIndex id with
  | none => s
  | some i => modWin s i fun w => { w with carry := false, done := false, denied := false, ue := false, bad := true }

/-- A write of `BNK_ATOM_OP` as the register sees it. -/
def writeAtomic (s : State) (id : Identity) (op : Nat) : State :=
  if op = 1 then atomicOp s id 32 true
  else if op = 2 then atomicOp s id 64 true
  else if op = 3 then atomicOp s id 32 false
  else if op = 4 then atomicOp s id 64 false
  else badAtomic s id

/-! ### Handover and seizure (R559 to R562) -/

def setBankResult (s : State) (b r : Nat) : State := s.modBank b fun k => { k with result := r }

/-- A host identity the member carries. -/
def State.carriesHost (s : State) (id : Identity) : Bool :=
  isHostId id && s.csOpen id

/-- The bank is zeroed before it serves any later access. -/
def scrubBank (s : State) (b : Nat) : State := (zeroBank s b).modBank b fun k => { k with scrubbing := true }

def handover (s : State) (id : Identity) (b : Nat) (new : Identity) (scrub : Bool) : State :=
  let k := s.bank b
  if k.owner ≠ id then setBankResult s b 1
  else if k.role ≠ 0 ∧ k.role ≠ 4 then setBankResult s b 2
  else if !s.carriesHost new then setBankResult s b 3
  else if k.scrubbing then setBankResult s b 4
  else
    let s := setBankResult (s.modBank b fun k => { k with owner := new }) b 0
    if scrub then scrubBank s b else s

def seize (s : State) (id : Identity) (b : Nat) : State :=
  let k := s.bank b
  if !s.holdsSem id 0 ∧ id ≠ idStack then setBankResult s b 5
  else if (k.role ≠ 0 ∧ k.role ≠ 4) ∨ !isHostId k.owner then setBankResult s b 2
  else scrubBank (setBankResult (s.modBank b fun k => { k with owner := id }) b 0) b

def execBnkHandover (id : Identity) (bank : Nat) (new : Identity) (scrub : Bool) (s : State) : Host.Outcome State Fault Refusal :=
  .next <|
    if s.banks.length ≤ bank then rsvdWrite s id (csBnkOwner bank)
    else csWrite s id (csBnkOwner bank) false fun s => handover s id bank new scrub

def execBnkSeize (id : Identity) (bank : Nat) (s : State) : Host.Outcome State Fault Refusal :=
  .next <|
    if s.banks.length ≤ bank then rsvdWrite s id (csBnkOwner bank)
    else csWrite s id (csBnkOwner bank) true fun s => seize s id bank

/-- A scrub ends (R561). -/
def execScrubDone (bank : Nat) (s : State) : Host.Outcome State Fault Refusal :=
  .next (s.modBank bank fun k => { k with scrubbing := false })

/-! ### MPU registers (R571 to R574, R576) -/

def MpuState.region (q : MpuState) (r : Nat) : MpuCfg := (q.regions.find? (·.index == r)).getD ⟨r, 0, false, false, 0, 0, 0⟩

/-- Put a region back among the others, in ascending order; one that is all zero is not listed. -/
def MpuState.setRegion (q : MpuState) (c : MpuCfg) : MpuState :=
  let rest := q.regions.filter (·.index != c.index)
  let blank := c.size = 0 ∧ !c.enable ∧ !c.space ∧ c.base = 0 ∧ c.read = 0 ∧ c.write = 0
  { q with regions :=
      if blank then rest
      else (rest.filter fun x => decide (x.index < c.index)) ++ c :: rest.filter fun x => decide (c.index < x.index) }

/-- A region as R572 wants it before it is enabled. -/
def State.regionOk (s : State) (c : MpuCfg) : Bool :=
  decide (c.size ≤ 24) && c.base % 2 ^ (c.size + 8) == 0 &&
    decide (c.base + 2 ^ (c.size + 8) ≤ if c.space then s.bankLimit else 2 ^ 24)

/-- The fault of one overlap (R573): device scope, or the scopes of the banks within the intersection. -/
def overlapFault (s : State) (new old : MpuCfg) : State :=
  let d0 := w32 new.index
  let d1 := w32 old.index
  if !new.space then enterScope s 0x0070 6 0 false 0xFF 0xFF d0 d1
  else
    let lo := max new.base old.base
    let hi := min new.last old.last
    let banks := (List.range (hi / bankBytes + 1 - lo / bankBytes)).map (lo / bankBytes + ·)
    let scopes := (banks.flatMap fun b => bankScope s (s.bank b)).dedup
    if scopes.isEmpty then logFault s 0x0070 0 0xFFFF false false 0 0xFF 0xFF d0 d1
    else scopes.foldl (fun (s : State) x => enterScope s 0x0070 x.1 x.2 false 0xFF 0xFF d0 d1) s

/-- An enabling write of `MPU_ATTR` (R572, R573). -/
def enableRegion (s : State) (c : MpuCfg) : State :=
  if !s.regionOk c then s.modMpu fun q => { q.setRegion { c with enable := false } with refused := true }
  else
    let c := { c with enable := true }
    let hit := s.mpu.regions.filter c.clash
    hit.foldl (fun (s : State) o => overlapFault s c o) (s.modMpu (·.setRegion c))

/-- A granted write of one of a region's registers: 0 BASE, 1 ATTR, 2 PERM (R571). -/
def writeRegion (s : State) (r reg : Nat) (v : Word) : State :=
  if s.mpu.lock then s
  else
    let c := s.mpu.region r
    if c.enable then
      if reg = 1 ∧ field v 8 1 = 0 then s.modMpu (·.setRegion { c with enable := false }) else s
    else if reg = 0 then s.modMpu (·.setRegion { c with base := field v 0 26 })
    else if reg = 1 then
      let c := { c with size := field v 0 5, space := v.getLsbD 9 }
      if v.getLsbD 8 then enableRegion s c else s.modMpu (·.setRegion c)
    else s.modMpu (·.setRegion { c with read := field v 0 9, write := field v 16 9 })

def execMpuRegionWrite (id : Identity) (region reg : Nat) (value : Word) (s : State) : Host.Outcome State Fault Refusal :=
  .next <|
    if s.member.mpuRegions ≤ region ∨ 3 ≤ reg then rsvdWrite s id (csMpu region reg)
    else csWrite s id (csMpu region reg) false fun s => writeRegion s region reg value

/-- `MPU_CTRL`: LOCK sets and stays (R11, R574); REFUSED clears where a 1 is written. -/
def writeMpuCtrl (s : State) (v : Word) : State :=
  s.modMpu fun q => { q with lock := q.lock || v.getLsbD 0, refused := q.refused && !v.getLsbD 1 }

def execMpuLock (id : Identity) (s : State) : Host.Outcome State Fault Refusal :=
  .next (csWrite s id csMpuCtrl false fun s => writeMpuCtrl s 1)

/-- The unread records left after an acknowledgement of SEQ `n` (R576). SEQ wraps from 0xFFFF to 1: within half that range
ahead of the newest record a SEQ is later. -/
def vioLeft (head unread n : Nat) : Nat :=
  let ahead := (n + 0xFFFF - head) % 0xFFFF
  let behind := (head + 0xFFFF - n) % 0xFFFF
  if ahead < 0x8000 then 0 else min unread behind

def ackVio (s : State) (n : Nat) : State := s.modMpu fun q => { q with unread := vioLeft q.head q.unread (n % 0x10000) }

def execMpuVioAck (id : Identity) (seq : Nat) (s : State) : Host.Outcome State Fault Refusal :=
  .next (csWrite s id csVioAck false fun s => ackVio s seq)

end Sys2Proof.Machine
end

