-- ==== Sys2Proof/Machine/Sem.lean ====
section
/-! DEFINITION. Semaphores (chapter "Two ports, one device", R310 to R317): take, release and force. -/

namespace Sys2Proof.Machine

def setOwner (s : State) (n : Nat) (id : Identity) : State := s.modSem fun q => { q with owner := q.owner.set n id }

/-- A take refused because another holds the semaphore is counted for the port or the ring (`SEM_REFUSE`). -/
def countBusy (s : State) (id : Identity) : State :=
  s.modSem fun q =>
    if id = idPortA then { q with busyA := count 0xFF q.busyA }
    else if id = idPortB then { q with busyB := count 0xFF q.busyB }
    else if id = idStack then { q with busyStk := count 0xFF q.busyStk }
    else q

/-- Whether the writer may force the semaphore (R315). -/
def State.mayForce (s : State) (id : Identity) (n : Nat) : Bool := id == idStack || (s.holdsSem id 0 && n != 0)

/-- Table SEM-2. With no layout active, takes of semaphores 3 to 127 are ignored (R317). -/
def semaphoreOp (s : State) (id : Identity) (n op : Nat) : State :=
  if !isHostId id ∨ 128 ≤ n then s
  else
    let o := s.semOwner n
    if op = 1 then
      if !s.hasLayout ∧ 3 ≤ n then s
      else if o = idNone then setOwner s n id
      else if o = id then s
      else countBusy s id
    else if op = 2 then (if o = id then setOwner s n idNone else s)
    else if op = 3 then
      if o = id then setOwner s n idNone
      else if o = idNone ∨ !s.mayForce id n then s
      else (setOwner s n idNone).modSem fun q => { q with forced := count 0xF q.forced }
    else s

/-- A write of `SEM_n`; the semaphore block is outside the write lock (R318). -/
def semWrite (s : State) (id : Identity) (n op : Nat) : State := csWrite s id (csSem n) true fun s => semaphoreOp s id n op

def execSemTake (id : Identity) (n : Nat) (s : State) : Host.Outcome State Fault Refusal := .next (semWrite s id n 1)
def execSemRelease (id : Identity) (n : Nat) (s : State) : Host.Outcome State Fault Refusal := .next (semWrite s id n 2)
def execSemForce (id : Identity) (n : Nat) (s : State) : Host.Outcome State Fault Refusal := .next (semWrite s id n 3)

end Sys2Proof.Machine
end

