-- ==== Sys2Proof/Machine/HoldUp.lean ====
section
/-! DEFINITION. Hold-up energy (chapter "Sudden removal and recovery", R469 to R475) and the wall time of the dose (R424). -/

namespace Sys2Proof.Machine

/-- Lit or Dim, where a hold-up has steps to carry out (R472, R475). -/
def PowerState.runs : PowerState → Bool
  | .lit => true
  | .dim => true
  | _ => false

/-- Every running erase of the Granary is suspended at once (R526). -/
def stopErase (s : State) : State := s.modGrn fun g => { g with erase := g.erase.map fun e => { e with suspended := true } }

/-- A granted write with blocks still to come. -/
def Task.halfWay (t : Task) : Bool :=
  t.statusDue && t.order.isSome && (t.kind == .write || t.kind == .put) && decide (t.accepted.length < t.count)

/-- A write that a hold-up finds half way ends as not ready, with R43 applied: no block is accepted any more, and the numbers
above its own keep their place below the seal's floor (R469; DESIGN CHOICE, log 107). -/
def cutShort (s : State) (t : Task) : State :=
  if t.tr.isNone then answerCapsule s t stNotReady 0 [] else answerTask s t (notReady 0x04 0x12) []

def cutWrites (s : State) : State :=
  let late := s.fn.tasks.filter (·.halfWay)
  serveReads (settleTasks (late.foldl cutShort (abortTasks s late.contains)))

/-- Steps 1 and 2 of Table FIX-7: hold-up begins and every latent page is released. -/
def beginHold (s : State) : State :=
  let s := s.modHold fun h => { h with holding := true, sealed := false, holds := count 0xFF h.holds }
  sealFields (developAll (cutWrites s))

/-- PWR_FAIL_N has been low for 1 µs. In Dark the window is already developed, and only step 5 has effect: the lines stay held
until PWR_FAIL_N rises, also when Dark is left before that. In Off nothing happens (R475). -/
def execPwrFail (s : State) : Host.Outcome State Fault Refusal :=
  .next <|
    if s.pwr.state = .off ∨ s.hold.pwrFail then s
    else
      let s := stopErase (s.modHold fun h => { h with pwrFail := true })
      if s.pwr.state.runs then beginHold s else s.modHold fun h => { h with dark := true }

/-- The erase a hold-up suspended runs on, unless a command or a SUSPEND of its requester holds it. -/
def restartErase (s : State) : State :=
  match s.grn.erase with
  | some e => if s.grn.queue.isEmpty ∧ !e.bySuspend then resumeErase s else s
  | none => startErase s

/-- PWR_FAIL_N has been high for 1 ms: service resumes (Table FIX-7, step 5). -/
def execHoldupRelease (s : State) : Host.Outcome State Fault Refusal :=
  .next <|
    if s.pwr.state = .off ∨ !s.hold.pwrFail then s
    else runFields (restartErase (s.modHold fun h => { h with pwrFail := false, holding := false, sealed := false, dark := false }))

/-- HOLDUP_OK falls: with DURABLE = 1 everything accepted is forced to develop (R470). -/
def execHoldupLost (s : State) : Host.Outcome State Fault Refusal :=
  .next <|
    let s := s.modHold fun h => { h with ok := false, effective := false }
    if s.pwr.durable ∧ s.pwr.state.runs then developAll s else s

/-- HOLDUP_OK rises: with DURABLE = 1 the guarantee of R469 is in force. -/
def execHoldupOkAsserted (s : State) : Host.Outcome State Fault Refusal :=
  .next (s.modHold fun h => { h with ok := true, effective := s.pwr.durable })

/-! ### Wall time -/

/-- A commit of W by the holder of semaphore 0 (R424, R422). -/
def commitWall (s : State) (hi : Word) : State :=
  let w := hi.toNat * 2 ^ 32 + s.wall.wLo.toNat
  if w ≤ s.wall.e then s
  else
    let charge := (w - s.wall.e) * doseCharge s.wall.offTj
    { s with
      fields := s.fields.map fun fs => addIncrement fs charge
      wall := { s.wall with e := w, set := true } }

def writeWallHi (s : State) (id : Identity) (hi : Word) : State := if s.holdsSem id 0 then commitWall s hi else s

def execWallTime (id : Identity) (hi : Word) (s : State) : Host.Outcome State Fault Refusal :=
  .next (csWrite s id csWallHi false fun s => writeWallHi s id hi)

end Sys2Proof.Machine
end

