-- ==== Sys2Proof/Machine/Stack.lean ====
section
/-! DEFINITION. The stack ring (chapter "The stack ring"), first part: links with their retry and credits (R581 to R589),
routing and re-routing (R598, R599), enumeration and admission (R590 to R597), absence and return (R617 to R619), stack time. -/

namespace Sys2Proof.Machine

/-! ### What a device says of itself -/

/-- A STACK event (Table FNC-10). -/
def stackEvent (s : State) (pos code data : Nat) : State := queueEvents s 0x0060 pos code data

/-- SERIAL: bytes 0 to 15 of Seed word 0. -/
def State.ownSerial (s : State) : Nat := leNat (((s.seedWord 0).getD []).take 16)

def payloadOf (l : Layout) (ty inst : Nat) : List Byte := ((frameOfTy l.frames ty inst).map (·.payload)).getD []

/-- R593. -/
def fdig (l : Layout) : Nat :=
  let stack := payloadOf l 0x0A 0
  let chan := payloadOf l 0x03 0
  let part := fun (f : FieldCfg) =>
    leBytes 1 f.inst ++ slice (payloadOf l 0x05 f.inst) 12 48 ++ slice chan (8 + 16 * f.chans.headD 0) 14 ++ leBytes 1 f.chans.length
  crc32c (slice stack 1 2 ++ slice stack 6 6 ++ (l.fields.filter (·.wide)).flatMap part)

def State.stackIdOf (s : State) : Nat := ((s.stackCfg?).map (·.stackId)).getD 0
def State.expectOf (s : State) : Nat := ((s.stackCfg?).map (·.expect)).getD 1

/-- The device's enumeration entry (Table STK-4). -/
def State.ownEntry (s : State) : EnumEntry where
  serial := s.ownSerial
  member := s.member.channels
  stepping := match s.stepping with | .a0 => 0x00 | .b0 => 0x10
  plots := s.plotList.length
  role := s.stk.role
  stackId := s.stackIdOf
  fdig := ((s.layout).map fdig).getD 0
  stackMax := s.member.stackMax

def entryBytes (e : EnumEntry) : List Byte :=
  leBytes 16 e.serial ++ leBytes 1 e.member ++ leBytes 1 e.stepping ++ leBytes 1 e.plots ++ leBytes 1 e.role ++
    leBytes 4 e.stackId ++ leBytes 4 e.fdig ++ leBytes 1 e.stackMax ++ [0, 0, 0]

/-- HELLO (Table STK-3). -/
def helloBytes (stackId pos role st serial : Nat) : List Byte :=
  leBytes 4 stackId ++ leBytes 1 pos ++ leBytes 1 role ++ leBytes 1 st ++ [0] ++ leBytes 8 serial

def State.ownHello (s : State) : List Byte :=
  helloBytes s.stackIdOf (s.stk.pos.getD 0x80) s.stk.role s.stk.state s.ownSerial

def linkCode : Link → Nat
  | .up => 0
  | .dn => 1

/-- The ring segment a link of a position lies on, named by the position above it. -/
def segmentOf (s : State) (pos : Nat) (l : Link) : Nat :=
  let n := max 1 s.stk.size
  match l with
  | .dn => pos
  | .up => (pos + n - 1) % n

def breakSegment (s : State) (g : Nat) : State := s.modStk fun k => { k with broken := if k.broken.contains g then k.broken else k.broken ++ [g] }
def mendSegment (s : State) (g : Nat) : State := s.modStk fun k => { k with broken := k.broken.filter (· != g) }

/-! ### The link level (R585 to R587) -/

/-- Frames that waited for a credit go while there is one. -/
def drainWaiting : Nat → LinkState → LinkState
  | 0, k => k
  | n + 1, k =>
    match k.waiting with
    | [] => k
    | f :: rest => if k.credits = 0 then k else drainWaiting n (putFrame { k with waiting := rest } f)

/-- The acknowledgement and the credit an accepted frame brings (R585, R587). -/
def takeAck (limit : Nat) (h : FrameHdr) (k : LinkState) : LinkState :=
  let k := match k.unacked.findIdx? (·.1 == h.lack) with
    | some i => if h.ackv then { k with unacked := k.unacked.drop (i + 1), replayRun := 0 } else k
    | none => k
  drainWaiting k.waiting.length { k with credits := min limit (k.credits + h.credit) }

def State.creditsOf (s : State) : Nat := ((s.stackCfg?).map (·.credits)).getD 0
def State.retryOf (s : State) : Nat := ((s.stackCfg?).map (·.retry)).getD 0

def ackFrame (s : State) (ty : Nat) : OutFrame := ⟨ty, false, false, false, 0, s.ringPos, 0, 0, []⟩

/-- A NAK naming the last good sequence; one for the frame and every later one that is discarded (R585). -/
def sendNak (s : State) (l : Link) : State :=
  if (s.stk.link l).nakSent then s
  else sendOn (modLink s l fun k => { k with nakSent := true }) l (ackFrame s frameNak)

/-- The link takes a frame whose CRC is valid: in order it is accepted and acknowledged, with its credit returned; out of order it
is discarded (R585). -/
def linkTake (s : State) (h : FrameHdr) : State × Bool :=
  let k := s.stk.link h.link
  if !k.up ∨ s.stk.dup then (s, false)
  else if h.lseq ≠ (k.rxSeq + 1) % 4096 then (sendNak s h.link, false)
  else
    let s := modLink s h.link fun k => takeAck s.creditsOf h { k with rxSeq := h.lseq, nakSent := false, owed := k.owed + 1 }
    (sendOn s h.link (ackFrame s frameAck), true)

/-- A frame goes on through the other link with one hop less, every other byte unchanged (R583, R598). -/
def passOn (s : State) (h : FrameHdr) (ty : Nat) (payload : List Byte) : State :=
  if h.hops ≤ 1 then s
  else sendOn s (Link.other h.link) ⟨ty, h.bcast, h.resp, h.rerouted, h.dest, h.src, h.hops - 1, h.tag, payload⟩

/-- A routed frame: delivered and forwarded when broadcast, delivered at its destination, forwarded otherwise (R598). -/
def takeFrame (s : State) (h : FrameHdr) (ty : Nat) (payload : List Byte) (deliver : State → State) : State :=
  match linkTake s h with
  | (s, false) => s
  | (s, true) =>
    if h.bcast then passOn (deliver s) h ty payload
    else if s.stk.pos = some h.dest then deliver s
    else passOn s h ty payload

/-- A frame every device it reaches takes itself (HELLO, ENUM). -/
def takeLocal (s : State) (h : FrameHdr) (deliver : State → State) : State :=
  match linkTake s h with
  | (s, false) => s
  | (s, true) => deliver s

/-! ### Requests whose path is lost (R599) -/

def dropRequest (s : State) (tag : Nat) : State := s.modStk fun k => { k with requests := k.requests.filter (·.tag != tag) }
def State.request? (s : State) (tag : Nat) : Option RingReq := s.stk.requests.find? (·.tag == tag)

def State.remoteBank (s : State) (id : Identity) : RemoteBank :=
  if id = idPortA then s.stk.bankA else if id = idPortB then s.stk.bankB else s.stk.bankStk

def modRemote (s : State) (id : Identity) (f : RemoteBank → RemoteBank) : State :=
  s.modStk fun k =>
    if id = idPortA then { k with bankA := f k.bankA }
    else if id = idPortB then { k with bankB := f k.bankB }
    else if id = idStack then { k with bankStk := f k.bankStk }
    else k

def linkLost : ScsiStatus := .check (senseOf 0xB 0x08 0x00)

/-- A command of this device's own host that writes a block of the master's Plot. -/
def State.blockTask (s : State) (key : BlkKey) : Option Task :=
  s.fn.tasks.find? fun t => t.statusDue && !t.key.origin.isRing && t.key.plot == 64 + key.plot && t.order == some key.order &&
    t.kind == .write

/-- A request completes with LINK_LOST. -/
def completeLost (s : State) (q : RingReq) : State :=
  let s := dropRequest s q.tag
  match q.why with
  | .task key =>
    (match s.task? key with
     | some t => settleTasks (answerTask s t linkLost [])
     | none => s)
  | .vault p tag opcode => mgmtStatus s p opcode tag stLinkLost 0
  | .reg id => modRemote s id fun b => { b with pending := false, done := true, result := 2 }
  | .block key page =>
    if page.isSome then s
    else (match s.blockTask key with
      | some t => settleTasks (answerTask s t linkLost [])
      | none => s)
  | .read key _ =>
    (match s.task? key with
     | some t => settleTasks (answerTask s t linkLost (s.partialAnswer t))
     | none => s)
  | _ => s

/-- Send a kept request again as a copy (REROUTED = 1). -/
def resendOn (s : State) (l : Link) (q : RingReq) : State :=
  let copy := fun (f : OutFrame) => { f with rerouted := true, hops := s.hopsTo l q.dest }
  let s := sendOn s l (copy q.frame)
  match q.second with
  | some f => sendOn s l (copy f)
  | none => s

def modRequest (s : State) (tag : Nat) (f : RingReq → RingReq) : State :=
  s.modStk fun k => { k with requests := k.requests.map fun q => if q.tag = tag then f q else q }

/-- Requests whose path a failure removed: the copy goes the other way, or the request completes with LINK_LOST. `before` is the
ring as it stood; the number re-sent goes into the REROUTED event. -/
def reroute (before s : State) : State :=
  let hit := s.stk.requests.filter fun q => match routeTo before q.dest with
    | some l => !s.pathOn l q.dest
    | none => true
  let (s, n) := hit.foldl (fun (a : State × Nat) q => match routeTo a.1 q.dest with
    | some l => (modRequest (resendOn a.1 l q) q.tag fun q => { q with resent := false }, a.2 + 1)
    | none => (completeLost a.1 q, a.2)) (s, 0)
  if n = 0 then s else stackEvent s s.ringPos 5 n

/-! ### Links up and down (R582, R588, R589) -/

/-- A link is declared down. -/
def linkDown (s : State) (l : Link) : State :=
  if !(s.stk.link l).up then s
  else
    let before := s
    let s := modLink s l fun k =>
      { k with up := false, downs := count 0xFF k.downs, unacked := [], waiting := [], replayRun := 0, credits := 0, nakSent := false }
    let s := breakSegment s (segmentOf s s.ringPos l)
    let n := max 1 s.stk.size
    let s := sendOn s (Link.other l) ⟨0x04, true, false, false, 0, s.ringPos, n - 1, 0, leBytes 1 s.ringPos ++ leBytes 1 (linkCode l) ++ [0, 0]⟩
    reroute before (stackEvent s s.ringPos 3 (linkCode l))

def execLinkUp (l : Link) (s : State) : Host.Outcome State Fault Refusal :=
  .next <|
    let k := s.stk.link l
    if k.idle ∨ k.up ∨ s.stk.dup then s
    else
      let credits := s.creditsOf
      let s := modLink s l fun k => { k with
        up := true, lock := 0xF, txSeq := 0, rxSeq := 0xFFF, unacked := [], waiting := [], replayRun := 0, credits := credits
        owed := 0, nakSent := false }
      let s := mendSegment s (segmentOf s s.ringPos l)
      let s := sendOn s l ⟨0x03, false, false, false, 0, s.ringPos, 1, 0, s.ownHello⟩
      stackEvent s s.ringPos 4 (linkCode l)

def execLaneLoss (l : Link) (lane : Nat) (s : State) : Host.Outcome State Fault Refusal :=
  .next <| linkDown (modLink s l fun k => { k with lock := bitset ((List.range 4).filter fun i => k.lock.testBit i && i != lane) }) l

/-- Every unacknowledged frame goes again; when RETRY replays of the same frame have failed, the link is down (R586). -/
def replayLink (s : State) (l : Link) : State :=
  let k := s.stk.link l
  if !k.up ∨ k.unacked.isEmpty then s
  else if s.retryOf ≤ k.replayRun then linkDown s l
  else modLink s l fun k =>
    { k.unacked.foldl (fun k x => noteSent k x.2) k with replays := count 0xFF k.replays, replayRun := k.replayRun + 1 }

def execReplayTimeout (l : Link) (s : State) : Host.Outcome State Fault Refusal := .next (replayLink s l)

/-- A down link tries to train again: four lanes with block lock are LINK_UP, a command of its own (R589). -/
def execLinkRetrain (l : Link) (s : State) : Host.Outcome State Fault Refusal :=
  .next <| if (s.stk.link l).up ∨ (s.stk.link l).idle ∨ s.stk.dup then s else modLink s l fun k => { k with lock := 0 }

def execAck (h : FrameHdr) (s : State) : Host.Outcome State Fault Refusal :=
  .next <| if (s.stk.link h.link).up ∧ !s.stk.dup then modLink s h.link (takeAck s.creditsOf h) else s

def execNak (h : FrameHdr) (s : State) : Host.Outcome State Fault Refusal :=
  .next <| if (s.stk.link h.link).up ∧ !s.stk.dup then replayLink (modLink s h.link (takeAck s.creditsOf h)) h.link else s

/-- A frame with a failing CRC or out of order is discarded, and a NAK goes back (R585). -/
def execLinkFrameError (l : Link) (crcOk : Bool) (lseq : Nat) (s : State) : Host.Outcome State Fault Refusal :=
  .next <|
    let k := s.stk.link l
    if !k.up ∨ s.stk.dup ∨ (crcOk ∧ lseq = (k.rxSeq + 1) % 4096) then s else sendNak s l

/-- A frame of no known type, or of a wrong length or with a reserved bit set, is discarded after the link-level checks and
recorded (R584). -/
def execUnknownFrame (h : FrameHdr) (_ty _len : Nat) (s : State) : Host.Outcome State Fault Refusal :=
  .next <| takeLocal s h fun s =>
    logFault s 0x0001 0 0xFFFF false false 0 0xFF idStack.toNat 0xFFFFFFFF 0

/-! ### Presentation of the local Plots by a member (R594, R596) -/

/-- Only the management function stays. -/
def hidePlots (s : State) : State :=
  s.plotList.foldl (fun (s : State) n => settleTasks (detachPlot (abortTasks s (taskOfPlot n)) n)) s

/-- The Plots that are Open or Read-only take their embedded ports again. -/
def showPlots (s : State) : State :=
  s.plotList.foldl (fun (s : State) n =>
    if (s.plot n).mode.up then
      (s.portsOf n).foldl (fun (s : State) p => if (s.embOf p n).isNone then attachPlot s p n (((s.plotCfg? n).map (·.embPort)).getD 0) else s) s
    else s) s

/-! ### Absence (R441, R617) -/

/-- The dies of a position are lost to a wide Field. -/
def loseDies (s : State) (f pos : Nat) : State :=
  match s.fieldCfg? f with
  | none => s
  | some c => c.chans.foldl (fun (s : State) ch => loseChannel s f (pos * 128 + ch)) s

/-- What the absence of `pos` means for one wide Field: its blocks re-drilled and rebuilt; with two positions of DEVICES absent,
Plot scope for every Plot, or R466 during recovery (R616). -/
def absenceIn (s : State) (pos : Nat) (f : FieldCfg) : State :=
  if !f.devices.contains pos then s
  else
    let s := loseDies s f.inst pos
    if (f.devices.filter s.stk.absent.contains).length ≠ 2 then s
    else if (s.field f.inst).replaying then
      let s := s.modField f.inst fun fs => { fs with replaying := false, unreadable := true }
      fieldFault s 0x00A1 f.inst 0xFF (s.member.stackIsland % 256) 0xFFFF (w32 pos)
    else (s.plotsOf f.inst).foldl (fun (s : State) n =>
      enterScope s 0x00A1 3 n false (s.member.stackIsland % 256) 0xFF (w32 n) (w32 pos)) s

def wideCfgs (s : State) : List FieldCfg := match s.layout with | some l => l.fields.filter (·.wide) | none => []

/-- The master declares a position absent: `why` 0 no path, 1 LEAVE. -/
def declareAbsent (s : State) (pos why : Nat) : State :=
  if !s.isMaster ∨ pos = s.ringPos ∨ !(s.stk.members.any (·.1 == pos)) ∨ s.stk.absent.contains pos then s
  else
    let lost := s.stk.requests.filter (·.dest == pos)
    let s := s.modStk fun k => { k with absent := k.absent ++ [pos], shadows := k.shadows.filter (·.pos != pos), dark := k.dark.filter (· != pos) }
    let s := lost.foldl completeLost s
    (wideCfgs s).foldl (fun (s : State) f => absenceIn s pos f) (stackEvent s pos 6 why)

def execAbsentTimeout (pos : Nat) (s : State) : Host.Outcome State Fault Refusal := .next (declareAbsent s pos 0)

def execLeave (h : FrameHdr) (pos : Nat) (s : State) : Host.Outcome State Fault Refusal :=
  .next <| takeFrame s h 0x05 (leBytes 1 pos ++ [0, 0, 0]) fun s => declareAbsent s pos 1

/-- An absent position is back with the SERIAL it was admitted with: admitted again, its exposure ends as R440 states (R619). -/
def rejoin (s : State) (pos : Nat) : State :=
  let s := stackEvent (s.modStk fun k => { k with absent := k.absent.filter (· != pos) }) pos 7 0
  (wideCfgs s).foldl (fun (s : State) f =>
    if f.devices.contains pos ∧ s.manages f.inst then
      runField (updateHealth (updateHeadland (onField s f.inst clearExposed) f.inst) f.inst) f.inst
    else s) s

/-! ### Enumeration (R590 to R597) -/

/-- The key pair of a transport-key exchange with a position, and its KEYX (R615). -/
def sendKeyx (s : State) (pos : Nat) : State :=
  let (scalar, s) := s.drawBytes 48
  let pub := padTo 0 96 (Config.p384Public scalar)
  let s := s.modStk fun k => { k with pairs := (pos, scalar, pub) :: k.pairs.filter (·.1 != pos) }
  ringSend s 0x12 pos 0 false pub

/-- The result of Table STK-5 for one found position; `plots` counts the PLOT frames of the devices admitted before it. -/
def admitCode (own : EnumEntry) (expect : Nat) (small twice : Bool) (plots pos : Nat) (e : EnumEntry) : Nat :=
  if e.stackId ≠ own.stackId then 1
  else if e.fdig ≠ own.fdig then 2
  else if e.role = 1 then 3
  else if e.stackMax ≤ pos ∨ small then 4
  else if expect ≤ pos ∨ twice then 5
  else if 1024 < plots + e.plots then 6
  else 0

/-- R592: the results of the positions found, in position order. A position that two devices took, one from each direction, is
refused to both: RESULT has one byte for it (log 85). -/
def admission (own : EnumEntry) (expect : Nat) (found : List (Nat × EnumEntry)) : List (Nat × Nat × EnumEntry) :=
  let seats := (found.map (·.1)).dedup
  let small := decide (16 < seats.length) && found.any fun x => x.2.member == 8
  let one := (seats.filter (· != 0)).mergeSort fun a b => decide (a ≤ b)
  ((one.foldl (fun (a : List (Nat × Nat × EnumEntry) × Nat) pos =>
    match found.find? (·.1 == pos) with
    | none => a
    | some x =>
      let twice := found.any fun y => y.1 == pos && y.2.serial != x.2.serial
      let code := admitCode own expect small twice a.2 pos x.2
      (a.1 ++ [(pos, code, x.2)], if code = 0 then a.2 + x.2.plots else a.2)) ([], own.plots))).1

def confirmBytes (expect count : Nat) (results : List Nat) : List Byte :=
  leBytes 1 expect ++ leBytes 1 count ++ [0, 0] ++ results.flatMap (leBytes 1)

/-- Wide Fields after enumeration: positions of DEVICES that were not admitted are absent; recovery may gather page tags (R597,
R616). -/
def settleWide (s : State) : State :=
  let away := ((wideCfgs s).flatMap (·.devices)).dedup.filter fun p => p != 0 && !s.stk.members.any (·.1 == p) && !s.stk.absent.contains p
  let s := away.foldl (fun (s : State) pos =>
    (wideCfgs s).foldl (fun (s : State) f => absenceIn s pos f) (s.modStk fun k => { k with absent := k.absent ++ [pos] })) s
  (wideCfgs s).foldl (fun (s : State) f => if (s.field f.inst).replaying then scanField s f.inst else s) s

/-- Another master is on the ring: both links idle until reset, and a Lone master (R595), whose wide Plots fare as R617
says. -/
def declareDup (s : State) : State :=
  let lostA := s.stk.requests
  let s := s.modStk fun k => { k with
    dup := true, window := false, state := 3, lone := true, members := [(0, 0)], count := 1, requests := []
    up := { k.up with idle := true, up := false, lock := 0, unacked := [], waiting := [] }
    dn := { k.dn with idle := true, up := false, lock := 0, unacked := [], waiting := [] } }
  settleWide (stackEvent (lostA.foldl completeLost s) s.ringPos 10 0)

/-- The master decides admission and broadcasts CONFIRM; enumeration ends (R590, R592, R597, R615). -/
def finishEnum (s : State) : State :=
  let own := s.ownEntry
  let expect := s.expectOf
  let adm := admission own expect s.stk.entries
  let members := (0, own.serial) :: (adm.filter fun x => x.2.1 == 0).map fun x => (x.1, x.2.2.serial)
  let top := s.stk.entries.foldl (fun m x => max m x.1) 0
  let alone := members.length = 1 ∧ expect ≠ 1
  let s := s.modStk fun k => { k with
    window := false, members := members, count := members.length, size := top + 1, absent := [], dark := []
    state := if alone then 3 else 2, lone := decide alone }
  let results := (List.range 128).map fun p => if p = 0 then 0 else ((adm.find? (·.1 == p)).map (·.2.1)).getD 0xFF
  let s := ringBroadcast s 0x11 0 (confirmBytes expect members.length results)
  let s := members.foldl (fun (s : State) m => if m.1 = 0 then s else sendKeyx s m.1) s
  let s := stackEvent s 0 1 members.length
  let s := adm.foldl (fun (s : State) x => if x.2.1 = 0 then s else stackEvent s x.1 2 x.2.1) s
  settleWide s

def enumBytes (es : List EnumEntry) : List Byte := es.flatMap entryBytes

/-- An ENUM frame of the master, holding its own entry. -/
def sendEnum (s : State) (l : Link) : State :=
  sendOn s l ⟨0x10, false, false, false, 0, s.ringPos, 127, 0, enumBytes [s.ownEntry]⟩

/-- Enough devices found: enumeration ends early (R590). -/
def State.allFound (s : State) : Bool := decide (s.expectOf ≤ ((s.stk.entries.map (·.1)).dedup).length)

/-- A new enumeration window (R590, R606). -/
def openWindow (s : State) : State :=
  let s := s.modStk fun k => { k with
    window := true, state := 1, lone := false, entries := [(0, s.ownEntry)], members := [], absent := [], dark := [], broken := []
    count := 0, size := 0, keyStore := [], transport := [], pairs := [] }
  let s := sendEnum s .dn
  if s.allFound then finishEnum s else s

def addEntries (s : State) (es : List (Nat × EnumEntry)) : State :=
  s.modStk fun k => { k with entries := k.entries ++ es.filter fun e => !k.entries.contains e }

/-- An ENUM reaches the master: another master's, a closed ring, a break, or the devices reached upstream (R591, R595). -/
def enumAtMaster (s : State) (h : FrameHdr) (es : List EnumEntry) : State :=
  match es.head? with
  | none => s
  | some first =>
    if first.serial ≠ s.ownSerial then declareDup s
    else if !s.stk.window then s
    else
      let away := ((List.range es.length).zip es).map fun x => (x.1, x.2)
      if !h.resp then finishEnum (addEntries s away)
      else
        match h.link with
        | .dn =>
          let s := addEntries s away
          if s.isChain ∨ s.allFound then finishEnum s
          else sendEnum (breakSegment s (es.length - 1)) .up
        | .up =>
          let seats := (away.filter fun x => decide (x.1 = 0 ∨ x.1 < s.expectOf)).map fun x => (if x.1 = 0 then 0 else s.expectOf - x.1, x.2)
          finishEnum (addEntries s seats)

/-- A member takes its position and sends the ENUM on, or back where its other link is not up (R591); from the other direction
no position is left once EXPECT entries are there (log 85). A member that was admitted starts anew, and the semaphores of its
ring identity go with CAUSE 4, which Table SEM-4 does not list for it (R606; DESIGN CHOICE, log 106). -/
def enumAtMember (s : State) (h : FrameHdr) (es : List EnumEntry) : State :=
  if h.resp then passOn s h 0x10 (enumBytes es)
  else
    let s := if s.stk.state = 2 then
        releaseSems (dropRemote (s.modStk fun k =>
            { k with transport := [], pairs := [], wide := [], reads := [], heads := [], state := 1, masterGone := false })) idStack 4
      else s
    let pos := match h.link with
      | .up => some es.length
      | .dn => if es.length < s.expectOf then some (s.expectOf - es.length) else none
    let s := s.modStk fun k => { k with pos := pos, state := if k.state = 0 then 1 else k.state }
    let all := enumBytes (es ++ [s.ownEntry])
    let out := Link.other h.link
    if (s.stk.link out).up then sendOn s out ⟨0x10, false, false, h.rerouted, h.dest, h.src, h.hops - 1, h.tag, all⟩
    else sendOn s h.link ⟨0x10, false, true, h.rerouted, h.dest, h.src, 127, h.tag, all⟩

def execEnum (h : FrameHdr) (entries : List EnumEntry) (s : State) : Host.Outcome State Fault Refusal :=
  .next <| takeLocal s h fun s => if s.isMaster then enumAtMaster s h entries else enumAtMember s h entries

/-- A member is admitted or refused (R594, R596, R615). -/
def takeConfirm (s : State) (count : Nat) (results : List Nat) : State :=
  match s.stk.pos with
  | none => s
  | some pos =>
    let code := results.getD pos 0xFF
    let seats := (List.range 128).filter fun p => results.getD p 0xFF != 0xFF
    let top := seats.foldl max 0
    let members := (seats.filter fun p => results.getD p 0xFF == 0).map fun p => (p, 0)
    if code = 0xFF then s
    else if code = 0 then
      let s := s.modStk fun k => { k with
        state := 2, count := count, size := top + 1, members := members, refusal := 0, lone := false, masterGone := false, transport := []
        broken := [] }
      sendKeyx (showPlots s) 0
    else
      hidePlots (s.modStk fun k => { k with state := 4, count := count, size := top + 1, members := members, refusal := code, lone := true })

def execConfirm (h : FrameHdr) (expect count : Nat) (results : List Nat) (s : State) : Host.Outcome State Fault Refusal :=
  .next <| takeFrame s h 0x11 (confirmBytes expect count results) fun s =>
    if s.isMaster then declareDup s else takeConfirm s count results

def execEnumResend (s : State) : Host.Outcome State Fault Refusal :=
  .next <| if s.isMaster ∧ s.stk.window then sendEnum s .dn else s

def execEnumWindowClose (s : State) : Host.Outcome State Fault Refusal :=
  .next <| if s.isMaster ∧ s.stk.window then finishEnum s else s

/-- A device with a stack island that its layout enables. -/
def State.stackOn (s : State) : Bool := s.member.hasStack && ((s.stackCfg?).map (·.enable)).getD false

/-- The master and a standalone device are position 0 (R579, R590). -/
def takePosition (s : State) : State :=
  if s.stackOn ∧ s.stk.role ≠ 0 then s.modStk fun k => { k with pos := some 0 } else s

/-- The start's step 6 on a stack device: strap and STACK frame decide its role (R578, R579, R590). -/
def startStack (s : State) : State :=
  let links := fun (s : State) (idle : Bool) => s.modStk fun k => { k with up := { k.up with idle := idle }, dn := { k.dn with idle := idle } }
  if !s.stackOn then s
  else if s.stk.role = 0 then links (s.modStk fun k => { k with state := 1 }) false
  else if s.stk.role = 1 then openWindow (links (takePosition s) false)
  else finishEnum ((takePosition s).modStk fun k => { k with entries := [(0, s.ownEntry)] })

/-- HELLO names the device at the other end of a link: another master (R595), or an absent position that returns (R619). A member
tells the master of a position it hears (log 17). -/
def takeHello (s : State) (stackId pos role st serial : Nat) : State :=
  if s.isMaster then
    if role = 1 then declareDup s
    else if !s.stk.absent.contains pos then s
    else
      match s.stk.members.find? (·.1 == pos) with
      | none => s
      | some m => if m.2 % 2 ^ 64 = serial then rejoin s pos else stackEvent s pos 2 5
  else if s.stk.state = 2 ∧ pos ≠ 0x80 ∧ pos ≠ 0 then ringSend s 0x03 0 0 false (helloBytes stackId pos role st serial)
  else s

def execHello (h : FrameHdr) (stackId pos role st serial : Nat) (s : State) : Host.Outcome State Fault Refusal :=
  .next <| takeLocal s h fun s => takeHello s stackId pos role st serial

/-- LINKDOWN: the segment is out, and requests that used it go the other way (R599). -/
def execLinkdown (h : FrameHdr) (pos : Nat) (which : Link) (s : State) : Host.Outcome State Fault Refusal :=
  .next <| takeFrame s h 0x04 (leBytes 1 pos ++ leBytes 1 (linkCode which) ++ [0, 0]) fun s =>
    reroute s (breakSegment s (segmentOf s pos which))

/-- KEYX: with the own key pair, the transport key; both are cleared (R615). -/
def takeKeyx (s : State) (pos : Nat) (other : List Byte) : State :=
  match s.stk.pairs.find? (·.1 == pos) with
  | none => s
  | some x =>
    let z := Config.p384Shared x.2.1 other
    let qs := if s.isMaster then x.2.2 ++ other else other ++ x.2.2
    let p := if s.isMaster then pos else s.ringPos
    let key := Config.kdf z [0x5A, 0x4B, 0x2D, 0x53, 0x54, 0x4B] (beBytes 4 s.stackIdOf ++ beBytes 1 p ++ qs) 256
    s.modStk fun k => { k with
      transport := (pos, key) :: k.transport.filter (·.1 != pos), pairs := k.pairs.filter (·.1 != pos) }

def execKeyx (h : FrameHdr) (publicKey : List Byte) (s : State) : Host.Outcome State Fault Refusal :=
  .next <| takeFrame s h 0x12 publicKey fun s => takeKeyx s h.src publicKey

/-! ### Stack time (R601, R607, R608) -/

def execTime (h : FrameHdr) (stackTime retire : Nat) (s : State) : Host.Outcome State Fault Refusal :=
  .next <| takeFrame s h 0x13 (leBytes 8 (stackTime + Config.ringLatency (linkCode (Link.other h.link))) ++ leBytes 8 retire) fun s =>
    if s.isMaster ∨ s.stk.state ≠ 2 ∨ h.src ≠ 0 then s
    else s.modStk fun k => { k with
      time := stackTime, timeLocal := s.timeUs, retire := retire, masterGone := false, keys := k.keys.filter fun x => decide (retire < x.order) }

/-- RETIRE: one below the lowest order number an outstanding ring request carries, else below the next number (R601). -/
def retireNow (s : State) : Nat :=
  let least := s.stk.requests.foldl (fun m q => match q.why with | .block k _ => min m k.order | _ => m) s.arb.ordNext
  least - 1

def execTimePeriod (s : State) : Host.Outcome State Fault Refusal :=
  .next <|
    if !s.isMaster ∨ s.stk.state ≠ 2 ∨ s.stk.window then s
    else
      let r := retireNow s
      let busy := fun (o : Nat) => s.fn.tasks.any fun t => t.order == some o
      let s := s.modStk fun k => { k with
        time := s.timeUs, timeLocal := s.timeUs, retire := r, keys := k.keys.filter fun x => decide (r < x.order) || busy x.order }
      ringBroadcast s 0x13 0 (leBytes 8 s.timeUs ++ leBytes 8 r)

/-- A member has lost its master (R618). -/
def execMasterLost (s : State) : Host.Outcome State Fault Refusal :=
  .next <|
    if s.isMaster ∨ s.stk.state ≠ 2 then s
    else
      let s := releaseSems (dropRemote s) idStack 4
      s.modStk fun k => { k with masterGone := true, wide := k.wide.filter (·.addr.isSome), heads := [], reads := [] }

/-- No ENUM within 500 ms of step 6, or 500 ms without a master: Lone (R596, R618). -/
def execLoneTimeout (s : State) : Host.Outcome State Fault Refusal :=
  .next <|
    let waits := (s.stk.state = 1 ∧ s.stk.pos.isNone) ∨ (s.stk.state = 2 ∧ s.stk.masterGone)
    if s.isMaster ∨ s.stk.role ≠ 0 ∨ !waits then s
    else
      let s := s.modStk fun k => { k with state := 3, lone := true }
      stackEvent (hidePlots (releaseSems s idStack 4)) s.ringPos 8 0

/-- No response 5 ms after a request: a copy on the current path, at most once per failure (R599). -/
def execRequestTimeout (tag : Nat) (s : State) : Host.Outcome State Fault Refusal :=
  .next <|
    match s.request? tag with
    | none => s
    | some q =>
      match routeTo s q.dest with
      | none => completeLost s q
      | some l => if q.resent then s else modRequest (resendOn s l q) tag fun q => { q with resent := true }

/-- `STK_CTRL`.ENUM (R606). -/
def reEnumerate (s : State) (id : Identity) : State :=
  let result := fun (s : State) (r : Nat) => s.modStk fun k => { k with ctrlResult := r }
  if !s.isMaster then result s 3
  else if !s.holdsSem id 0 then result s 2
  else if (s.wideFields.flatMap s.plotsOf).any fun n => (s.plot n).mode.up then result s 1
  else result (openWindow s) 0

def execReEnumerate (id : Identity) (s : State) : Host.Outcome State Fault Refusal :=
  .next <| if s.member.hasStack then csWrite s id csStkCtrl true fun s => reEnumerate s id else rsvdWrite s id csStkCtrl

end Sys2Proof.Machine
end

