-- ==== Sys2Proof/Machine/StackIo.lean ====
section
/-! DEFINITION. The stack ring (chapter "The stack ring"), second part: commands and blocks of wide Fields, keys, page tags and
block records on the ring (R600 to R603, R609 to R616), SAFE (R621), remote access to a member's Control space (R604, R605). -/

namespace Sys2Proof.Machine

/-! ### SAFE (R602, R621) -/

/-- ISLAND of a record whose cause alone is known (R663): the central island, the stack island, or none. -/
def causeIsland (s : State) (cause : Nat) : Nat :=
  if [0x0031, 0x0061, 0x00A0].contains cause then s.member.centralIsland
  else if [0x00A1, 0x00A2].contains cause then s.member.stackIsland % 256
  else 0xFF

/-- Enter stack scope for a cause another device reports; a latching cause joins a scope already in force (R110). -/
def stackFault (s : State) (cause : Nat) (d0 d1 : Word) : State :=
  if s.saf.scopes.any fun c => c.code == 7 && c.cause == cause then s
  else enterScope s cause 7 0 (latchingCause cause) (causeIsland s cause) 0xFF d0 d1

def safeBytes (scope cause : Nat) : List Byte := leBytes 1 scope ++ [0] ++ leBytes 2 cause

/-- The master broadcasts SAFE; a member sends it to the master. -/
def sendSafe (s : State) (scope cause : Nat) : State :=
  if s.isMaster then ringBroadcast s 0x14 0 (safeBytes scope cause) else ringSend s 0x14 0 0 false (safeBytes scope cause)

def takeSafe (s : State) (scope cause : Nat) : State :=
  if s.isMaster then stackFault (sendSafe s scope cause) cause 0 0
  else if s.stk.state = 2 then stackFault s cause 0 0
  else s

def execSafe (h : FrameHdr) (scope cause : Nat) (s : State) : Host.Outcome State Fault Refusal :=
  .next <| takeFrame s h 0x14 (safeBytes scope cause) fun s => takeSafe s scope cause

/-- One order number with two different blocks (R602). -/
def stkOrder (s : State) (b : BlkHead) : State :=
  sendSafe (stackFault s 0x00A2 (loHalf b.order) (hiHalf b.order)) 7 0x00A2

/-! ### Remote access (R604, R605) -/

/-- A write of `STK_ROP` by one requester: `op` 1 read, 2 write. -/
def remoteOp (s : State) (id : Identity) (op : Nat) : State :=
  let b := s.remoteBank id
  let result := fun (s : State) (r : Nat) => modRemote s id fun b => { b with result := r }
  if !isHostId id then s
  else if b.pending then result s 5
  else if !s.isMaster then result (modRemote s id fun b => { b with done := true }) 4
  else if b.pos = s.ringPos ∨ !(s.stk.members.any (·.1 == b.pos)) then result (modRemote s id fun b => { b with done := true }) 3
  else
    let entry := leBytes 3 b.addr ++ leBytes 1 (op - 1) ++ leBytes 4 (if op = 2 then b.data.toNat else 0)
    let tag := s.stk.nextTag
    let (s, ok) := ringRequest s 0x20 b.pos entry none (.reg id)
    if ok then modRemote s id fun b => { b with pending := true, done := false, result := 0, tag := tag }
    else result (modRemote s id fun b => { b with done := true }) 2

/-- A write of `STK_ROP`; a member without a stack island has no such register (R30). -/
def remoteWrite (s : State) (id : Identity) (op : Nat) : State :=
  if s.member.hasStack then csWrite s id csStkRop false fun s => remoteOp s id op else rsvdWrite s id csStkRop

def execStkRemoteRead (id : Identity) (s : State) : Host.Outcome State Fault Refusal :=
  .next (remoteWrite s id 1)

def execStkRemoteWrite (id : Identity) (s : State) : Host.Outcome State Fault Refusal :=
  .next (remoteWrite s id 2)

/-- REG_RSP: the result in `STK_RDATA` and `STK_RSTAT`. The status is that of the entry (Table FNC-5). -/
def takeRegRsp (s : State) (tag status : Nat) (value : Word) : State :=
  match s.request? tag with
  | some ⟨_, _, _, _, _, .reg id⟩ =>
    modRemote (dropRequest s tag) id fun b =>
      { b with pending := false, done := true, result := if status = 0 then 0 else 1, data := if status = 0 then value else b.data }
  | _ => s

def execRegRsp (h : FrameHdr) (status : Nat) (value : Word) (s : State) : Host.Outcome State Fault Refusal :=
  .next <| takeFrame s h 0x21 (List.replicate 3 0 ++ leBytes 1 (status * 16) ++ leBytes 4 value.toNat) fun s => takeRegRsp s h.tag status value

/-! ### Commands of member hosts at the master (R600, R611, R613) -/

/-- The bytes of an IO_REQ. -/
def ioReqBytes (p : Port) (plot tag : Nat) (req : IoRequest) : List Byte :=
  let head := fun (kind : Nat) => leBytes 1 kind ++ leBytes 1 p.index ++ leBytes 2 plot
  let scsi := fun (cdb : List Byte) => head 0 ++ padTo 0 16 cdb
  match req with
  | .write lba count fua => scsi (cdb16 0x8A (bitOf fua 3) lba count)
  | .read lba count => scsi (cdb16 0x88 0 lba count)
  | .flush lba count => scsi (cdb16 0x91 0 lba count)
  | .stop => scsi [0x1B]
  | .sanitize immed => scsi (cdb10 0x48 (3 + bitOf immed 7) 0 0)
  | .unmap descs => scsi (cdb10 0x42 0 0 (8 + 16 * descs.length)) ++ unmapList descs
  | .unlock mode secret => head 1 ++ vaultCapsule 0x10 tag (unlockPayload (64 + plot) mode secret)
  | .lock mode => head 1 ++ vaultCapsule 0x11 tag (leBytes 2 (64 + plot) ++ leBytes 1 mode ++ [0])
  | .setSecret new => head 1 ++ vaultCapsule 0x12 tag (secretPayload (64 + plot) [] new)
  | .rewrap old new => head 1 ++ vaultCapsule 0x12 tag (secretPayload (64 + plot) old new)
  | .plain cdb => scsi cdb

def isVault : IoRequest → Bool
  | .unlock _ _ => true
  | .lock _ => true
  | .setSecret _ => true
  | .rewrap _ _ => true
  | _ => false

def State.widePlot (s : State) (n : Nat) : Bool :=
  (((s.plotCfg? n).bind fun c => s.fieldCfg? c.field).map (·.wide)).getD false

/-- A CDB of Table FNC-11 that has no data-path work and is forwarded: TEST UNIT READY, READ CAPACITY, MODE SENSE, SECURITY
PROTOCOL IN, START STOP UNIT with START = 1. -/
def plainCdb (cdb : List Byte) : Bool := [0x00, 0x25, 0x9E, 0x5A, 0xA2, 0x1B].contains (byteAt cdb 0)

def noFlags : CdbFlags := ⟨false, 0, 0, false⟩

/-- A command of a member's host at the master, granted through input 2 with a class-2 ticket (R54, R613). -/
def serveIo (s : State) (src tag plot : Nat) (req : IoRequest) : State :=
  let key : TaskKey := ⟨.ring src, plot, tag⟩
  let a := Asker.ring src tag
  if !s.widePlot plot then
    (if isVault req then answerVault s a 0x10 stNoPlot 0 [] else replyScsi s key (illegal 0x25 0x00) [])
  else if !isVault req ∧ !(s.plot plot).mode.up then replyScsi s key (illegal 0x25 0x00) []
  else
    match req with
    | .write lba count fua => transfer s (newTask key (some .plain) .write lba count fua) noFlags []
    | .read lba count => transfer s (newTask key (some .plain) .read lba count false) noFlags []
    | .flush lba count => syncCache s key .plain lba count false noFlags []
    | .stop => scsiGate s key .plain false false fun s => flushPlot s key .plain []
    | .sanitize immed => scsiGate s key .plain false false fun s => sanitizePlot s key .plain immed
    | .unmap descs => scsiGate s key .plain false false fun s => unmapDecide s (newTask key (some .plain) .discard 0 0 false) true descs
    | .plain cdb => scsiGate s key .plain false false fun s => if plainCdb cdb then good s key else replyScsi s key (illegal 0x20 0x00) []
    | .unlock mode secret => unlockPlot s a idStack plot mode secret
    | .lock mode => if mode = 0 then lockPlot s a idStack plot else demotePlot s a idStack plot
    | .setSecret new => secretPlot s a idStack plot none new
    | .rewrap old new => secretPlot s a idStack plot (some old) new

def countCopy (s : State) : State := s.modStk fun k => { k with copies := count 0xFFFF k.copies }

/-- IO_REQ: applied once; a copy gets the stored IO_RSP (Table STK-6). -/
def takeIoReq (s : State) (src tag plot : Nat) (req : IoRequest) : State :=
  if !s.isMaster ∨ !(s.stk.members.any (·.1 == src)) then s
  else
    match s.stk.ioSeen.find? fun x => x.1 == src && x.2.1 == tag with
    | some x => if x.2.2.isEmpty then countCopy s else ringSend (countCopy s) 0x31 src tag true x.2.2
    | none => serveIo (s.modStk fun k => { k with ioSeen := k.ioSeen ++ [(src, tag, [])] }) src tag plot req

def execIoReq (h : FrameHdr) (p : Port) (plot : Nat) (req : IoRequest) (s : State) : Host.Outcome State Fault Refusal :=
  .next <| takeFrame s h 0x30 (ioReqBytes p plot h.tag req) fun s => takeIoReq s h.src h.tag plot req

/-! ### IO_RSP at the member (R613) -/

/-- The status an IO_RSP for a SCSI command carries. INFO is the failing LBA of a block's error; INFORMATION holds it when it
fits (R298). -/
def ioStatus (status senseKey asc ascq info : Nat) : ScsiStatus :=
  let block := (senseKey = 3 ∧ asc = 0x11) ∨ (senseKey = 4 ∧ asc = 0x44)
  if status = 0x00 then .good
  else if status = 0x08 then .busy
  else if status = 0x28 then .taskSetFull
  else .check (if block then senseAt senseKey asc ascq info else senseOf senseKey asc ascq)

/-- The response of a vault opcode as the member's host gets it: the embedded ports are the member's own (Table FNC-8). -/
def vaultReply (s : State) (p : Port) (tag opcode status detail mode plot : Nat) : State :=
  let pl := if status ≠ 0 then [] else if opcode = 0x10 then
      leBytes 1 mode ++ leBytes 1 (s.embByte .a plot) ++ leBytes 1 (s.embByte .b plot) ++ [0]
    else if opcode = 0x11 then leBytes 1 mode ++ [0, 0, 0] else []
  respond s p .management ⟨opcode, false, tag, 0, status, detail, pl⟩

/-- The Plot an IO_REQ of this member named, as the member numbers it. -/
def reqPlot (q : RingReq) : Nat := 64 + leNat (slice q.frame.payload 2 2)

/-- IO_RSP: a write or a read goes on under its number or horizon; anything else ends. For a vault capsule the operands are its
STATUS, STATE and DETAIL (log 18). -/
def takeIoRsp (s : State) (tag status senseKey asc ascq order info : Nat) : State :=
  match s.request? tag with
  | none => s
  | some q =>
    let s := dropRequest s tag
    match q.why with
    | .vault p capTag opcode => vaultReply s p capTag opcode status info senseKey (reqPlot q)
    | .task key =>
      (match s.task? key with
       | none => s
       | some t =>
         let st := ioStatus status senseKey asc ascq info
         if status ≠ 0 then settleTasks (answerTask s t st [])
         else if t.kind = .write then setTask s key fun t => { t with order := some order }
         else if t.kind = .read then setTask s key fun t => { t with horizon := some order }
         else settleTasks (answerTask s t .good t.value))
    | _ => s

def ioRspFrame (status senseKey asc ascq order info : Nat) : List Byte :=
  leBytes 1 status ++ leBytes 1 senseKey ++ leBytes 1 asc ++ leBytes 1 ascq ++ leBytes 4 0 ++ leBytes 8 order ++ leBytes 8 info

def execIoRsp (h : FrameHdr) (status senseKey asc ascq order info : Nat) (s : State) : Host.Outcome State Fault Refusal :=
  .next <| takeFrame s h 0x31 (ioRspFrame status senseKey asc ascq order info) fun s =>
    takeIoRsp s h.tag status senseKey asc ascq order info

/-! ### Blocks (R600 to R603, R611, R613) -/

def blkHeadBytes (b : BlkHead) : List Byte :=
  leBytes 8 b.order ++ leBytes 5 b.lba ++ leBytes 1 (bitOf b.medium 0 + bitOf b.check 1) ++ leBytes 2 b.plot ++ leBytes 1 b.bank ++
    leBytes 1 b.slot ++ List.replicate 14 0 ++ envBytes b.env

/-- BLK_HEAD waits for its BLK_DATA. -/
def execBlkHead (h : FrameHdr) (b : BlkHead) (s : State) : Host.Outcome State Fault Refusal :=
  .next <| takeFrame s h 0x32 (blkHeadBytes b) fun s => s.modStk fun k =>
    { k with heads := (h.src, h.tag, b) :: k.heads.filter fun x => !(x.1 == h.src && x.2.1 == h.tag) }

def blkAckSend (s : State) (h : FrameHdr) (result : Nat) : State := ringSend s 0x34 h.src h.tag true (leBytes 1 result ++ [0, 0, 0])

def BlkKey.of (b : BlkHead) (data : Block) : BlkKey := ⟨b.order, b.plot, b.lba, b.env, crc32c data⟩

def noteKey (s : State) (k : BlkKey) : State := s.modStk fun q => { q with keys := q.keys ++ [k] }

/-- A block of a member's host write at the master: written as identity 0x82 into a staging bank and accepted (Table BNK-3,
R26, R611). An access that ownership or a region refuses stages nothing and refuses the block (log 104). -/
def acceptRemote (s : State) (h : FrameHdr) (b : BlkHead) (data : Block) : State :=
  match s.fn.tasks.find? fun t => t.key.origin == .ring h.src && t.key.plot == b.plot && t.order == some b.order && t.kind == .write with
  | none => blkAckSend s h 3
  | some t =>
    let f := (s.fieldOf b.plot).getD 0
    let j : BlockJob := ⟨t.key, b.lba - t.lba, .encrypt, .hostWrite, b.lba, data, b.env⟩
    let stamp := b.env.stamp
    let e := versionOfJob t j stamp
    if t.aborted ∨ b.lba < t.lba ∨ t.lba + t.count ≤ b.lba then blkAckSend s h 3
    else if !stagingFree s f e then blkAckSend s h 2
    else
      let (s, slots, ok) := stageVersion s idStack f e (data ++ envBytes b.env)
      if !ok then blkAckSend s h 3
      else blkAckSend (serveReads (finishWrite (acceptBlock (noteKey s (BlkKey.of b data)) t j stamp slots) t.key)) h 0

/-- A block of the master, written as identity 0x82 into a staging slot of this member (Table BNK-3, R26; log 104). -/
def stageRemote (s : State) (h : FrameHdr) (b : BlkHead) (data : Block) : State :=
  if s.stk.state ≠ 2 ∨ s.banks.length ≤ b.bank ∨ 62 < b.slot then blkAckSend s h 3
  else
    let key := BlkKey.of b data
    let at_ := (b.bank, b.slot)
    match writeStage s idStack at_ (data ++ envBytes b.env) with
    | (s, false) => blkAckSend s h 3
    | (s, true) =>
      let s := (noteKey s key).modStk fun k => { k with
        wide := k.wide.filter (fun w => !(w.bank == b.bank && w.slot == b.slot && !w.passed)) ++ [⟨key, b.bank, b.slot, data, none, false⟩] }
      blkAckSend s h 0

/-- A block is applied at most once (R600); a copy that differs is STK_ORDER (R602); at a member a number at or below RETIRE is a
duplicate; a full table answers busy (R601). -/
def applyBlock (s : State) (h : FrameHdr) (b : BlkHead) (data : Block) : State :=
  match s.stk.keys.find? fun k => k.order == b.order && k.plot == b.plot && k.lba == b.lba with
  | some k =>
    let s := if k = BlkKey.of b data then s else stkOrder s b
    blkAckSend (countCopy s) h 1
  | none =>
    if !s.isMaster ∧ b.order ≤ s.stk.retire then blkAckSend (countCopy s) h 1
    else if 65536 ≤ s.stk.keys.length then blkAckSend s h 2
    else if s.isMaster then acceptRemote s h b data
    else stageRemote s h b data

/-- A block of a read could not be had, or its envelope is wrong: the command ends with MEDIUM ERROR or HARDWARE ERROR for it,
after the blocks before it (R25, R298, R613). -/
def readFails (s : State) (t : Task) (lba : Nat) (check : Bool) : State :=
  failBlock s t.key (lba - t.lba) (.check (senseAt (if check then 4 else 3) (if check then 0x44 else 0x11) 0x00 lba))

/-- A member's die did not give a page back: its row rebuilds it (R414). -/
def rebuildRemote (s : State) (t : Task) (lba : Nat) : State :=
  match s.fieldOf t.key.plot, t.asked.find? (·.1 == lba - t.lba) with
  | some f, some x => serveReads (askRebuilds (onField s f fun fs env =>
      let place := addrPlace env.geo x.2
      beginRebuild fs env place.1 place.2.1) f)
  | _, _ => readFails s t lba false

/-- A block of a read that came over the ring is dispatched; with no engine available, R60. While every queue is full it lies in a
bank, to be received from there (R58). -/
def dispatchRead (s : State) (j : BlockJob) : State :=
  if noneAvailable s then noCipher s
  else
    let (s, ok) := dispatchJob s j
    setTask s j.key fun t => if ok then { t with received := j.idx :: t.received } else { t with ready := j.idx :: t.ready.filter (· != j.idx) }

/-- A page on another position has been read over the ring, whole with the first of its BLK pairs (DESIGN CHOICE, log 88):
rebuilds that wait for it, and what moves or merges it, go on. A page the die did not give back is rebuilt from its row where
something wants it (R414, R441). -/
def memberPage (s : State) (f : Nat) (y : BlkId) (page : Nat) (ok : Bool) : State :=
  let o := dieOp .internalRead y page 0 (s.geo f).u false
  let s := s.modField f fun fs => rebuildRead fs y page ok
  let s := if ok then pageArrived s f y page 0 (s.geo f).u true
    else if wantsPage (s.field f) (s.fenv f) o then onField s f fun fs env => beginRebuild fs env y page
    else s
  serveReads (runField (askRebuilds s f) f)

/-- A block read for a command of this device's host, or of another member's, arrives still encrypted (R613); or the page of a
stripe member (R414). -/
def readArrives (s : State) (h : FrameHdr) (b : BlkHead) (data : Block) : State :=
  if s.isMaster then
    match s.request? h.tag with
    | some ⟨_, _, _, _, _, .read key lba⟩ =>
      let s := dropRequest s h.tag
      (match s.task? key with
       | none => s
       | some t =>
         if b.medium then rebuildRemote s t lba
         else if b.check then readFails s t lba true
         else
           let j : BlockJob := ⟨key, lba - t.lba, .decrypt, .hostRead, lba, data, b.env⟩
           if key.origin.isRing then forwardBlock s t j
           else dispatchRead s j)
    | some ⟨_, _, _, _, _, .member f y page⟩ =>
      memberPage (dropRequest s h.tag) f y page (!b.medium)
    | _ => s
  else
    match s.fn.tasks.find? fun t => t.statusDue && t.kind == .read && t.key.plot == 64 + b.plot && t.horizon.isSome && decide (t.lba ≤ b.lba) &&
        decide (b.lba < t.lba + t.count) && !t.received.contains (b.lba - t.lba) with
    | none => s
    | some t =>
      let i := b.lba - t.lba
      if b.medium ∨ b.check then readFails s t b.lba b.check
      else dispatchRead s ⟨t.key, i, .decrypt, .hostRead, b.lba, data, b.env⟩

def takeBlkData (s : State) (h : FrameHdr) (data : Block) : State :=
  match s.stk.heads.find? fun x => x.1 == h.src && x.2.1 == h.tag with
  | none => s
  | some x =>
    let s := s.modStk fun k => { k with heads := k.heads.filter (· != x) }
    if h.resp then readArrives s h x.2.2 data else applyBlock s h x.2.2 data

def execBlkData (h : FrameHdr) (data : Block) (s : State) : Host.Outcome State Fault Refusal :=
  .next <| takeFrame s h 0x33 data fun s => takeBlkData s h data

/-- A block of this member's host write is acknowledged; with the last one the command ends with GOOD (R613). -/
def blockDone (s : State) (key : BlkKey) : State :=
  match s.blockTask key with
  | none => s
  | some t =>
    let t := { t with accepted := (key.lba - t.lba) :: t.accepted.filter (· != key.lba - t.lba) }
    let s := setTask s t.key fun _ => t
    if t.count ≤ t.accepted.length then settleTasks (answerTask s t .good []) else s

/-- BLK_ACK: accepted or duplicate ends the request, busy keeps it for BLK_RESEND, refused ends the command it belongs to
(R603). -/
def takeBlkAck (s : State) (tag result : Nat) : State :=
  match s.request? tag with
  | some ⟨_, dest, _, _, _, .block key page⟩ =>
    if result = 2 then s
    else
      let s := dropRequest s tag
      (match page with
       | some a =>
         (wideCfgs s).foldl (fun (s : State) f => runField s f.inst)
           (if result ≤ 1 then s else s.modStk fun k => { k with shadows := k.shadows.filter fun x => !(x.pos == dest && x.page == a && x.lba == key.lba) })
       | none =>
         if result ≤ 1 then blockDone s key
         else match s.blockTask key with
           | some t => settleTasks (answerTask s t linkLost [])
           | none => s)
  | _ => s

def execBlkAck (h : FrameHdr) (result : Nat) (s : State) : Host.Outcome State Fault Refusal :=
  .next <| takeFrame s h 0x34 (leBytes 1 result ++ [0, 0, 0]) fun s => takeBlkAck s h.tag result

def pageDoneBytes (addr : Nat) (fail : Bool) : List Byte := leBytes 6 addr ++ leBytes 1 (bitOf fail 0) ++ [0]

/-- 20 µs after a busy answer the same block goes again (R603). -/
def execBlkResend (tag : Nat) (s : State) : Host.Outcome State Fault Refusal :=
  .next <|
    match s.request? tag with
    | some ⟨_, dest, frame, some data, _, .block _ _⟩ =>
      (match routeTo s dest with
       | some l => sendOn (sendOn s l frame) l data
       | none => s)
    | _ => s

/-! ### Pages (R600, R611) -/

/-- The master has recorded a fix point, as the FIXCOUNT of a page tag shows: this member applies its dose increment and sends the
records of its blocks, 146 to a frame (R421, Table STK-7; log 112). -/
def memberFix (s : State) (f count : Nat) : State :=
  if (s.field f).fixcount = count then s
  else
    let s := onField s f fun fs env => { applyDose fs env with fixcount := count }
    (pieces 146 ((s.field f).blocks.map (·.1))).foldl (fun s bs => brecOut s f bs) s

/-- PAGE_REL at a member: the staged blocks it names are the page's, and its program is queued (R600, R611). -/
def takePageRel (s : State) (h : FrameHdr) (addr : Nat) (tagp : PageTag) (slots : List (Nat × Nat)) : State :=
  match s.stk.pageSeen.find? (·.1 == addr) with
  | some x =>
    (match x.2.2 with
     | some pass => ringSend (countCopy s) 0x36 h.src h.tag true (pageDoneBytes addr (!pass))
     | none => countCopy s)
  | none =>
    let f := tagp.fieldNo
    let q := s.geo f
    let place := addrPlace q addr
    let at_ := fun (w : WideBlk) => if w.addr.isSome then none else (List.range slots.length).find? fun k => slots[k]? == some (w.bank, w.slot)
    let s := s.modStk fun k => { k with
      pageSeen := k.pageSeen ++ [(addr, h.tag, none)]
      tags := (addr, tagp) :: k.tags.filter (·.1 != addr)
      wide := k.wide.map fun w => match at_ w with | some i => { w with addr := some (addr + i) } | none => w }
    queueOnce (memberFix s f tagp.fixcount) true (dieOp .program place.1 place.2.1 0 0 ((s.field f).blockRec place.1).slc)

def execPageRel (h : FrameHdr) (addr : Nat) (tagp : PageTag) (slots : List (Nat × Nat)) (s : State) : Host.Outcome State Fault Refusal :=
  .next <| takeFrame s h 0x35 (leBytes 6 addr ++ leBytes 1 slots.length ++ [0] ++ pageTagBytes tagp ++
      slots.flatMap fun x => leBytes 1 x.1 ++ leBytes 1 x.2) fun s =>
    if s.isMaster ∨ s.stk.state ≠ 2 then s else takePageRel s h addr tagp slots

/-- The wide Field whose channels on a position an address names. -/
def State.fieldOfAddr (s : State) (addr : Nat) : Option Nat :=
  ((wideCfgs s).find? fun f => (s.geo f.inst).chans.contains (addr / 2 ^ 34)).map (·.inst)

/-- PAGE_DONE: pass programs the page and frees its shadows, fail re-drills them (R611). -/
def takePageDone (s : State) (addr : Nat) (fail : Bool) : State :=
  let due := s.stk.requests.any fun q => q.why == .page addr
  match s.fieldOfAddr addr with
  | none => s
  | some f =>
    if !due then s
    else
      let s := s.modStk fun k => { k with
        requests := k.requests.filter fun q => !(q.why == .page addr)
        shadows := k.shadows.filter (·.page != addr) }
      let place := addrPlace (s.geo f) addr
      let s := if fail then updateHeadland (onField s f fun fs env => pageFailed fs env place.1 place.2.1) f
        else touchPage (onField s f fun fs env => pagePassed fs env place.1 place.2.1) f (dieOp .program place.1 place.2.1 0 0 false)
      runField s f

def execPageDone (h : FrameHdr) (addr : Nat) (fail : Bool) (s : State) : Host.Outcome State Fault Refusal :=
  .next <| takeFrame s h 0x36 (pageDoneBytes addr fail) fun s => if s.isMaster then takePageDone s addr fail else s

/-- READ_REQ is answered by BLK pairs once the member's die has been read (R613). -/
def execReadReq (h : FrameHdr) (addr nunit : Nat) (s : State) : Host.Outcome State Fault Refusal :=
  .next <| takeFrame s h 0x37 (leBytes 6 addr ++ leBytes 1 nunit ++ [0]) fun s =>
    if s.isMaster ∨ s.stk.state ≠ 2 then s
    else serveReads (s.modStk fun k =>
      let r : MemberRead := ⟨h.src, h.tag, addr, nunit⟩
      { k with reads := if k.reads.contains r then k.reads else k.reads ++ [r] })

/-! ### Keys (R612, R614) -/

/-- A member presents the master's Plot on its enabled ports, where an embedded port is free (R612). -/
def presentRemote (s : State) (n : Nat) : State :=
  let ports := s.member.portList.filter fun p => (s.portCfg p).enable
  if ports.all fun p => (s.embOf p n).isSome then s
  else if ports.any fun p => (s.embOf p n).isNone && (s.embChoice p 0).isNone then stackEvent s s.ringPos 9 n
  else ports.foldl (fun (s : State) p => if (s.embOf p n).isSome then s else wakeTrigger (attachPlot s p n 0) p 1) s

/-- KEY: the set is unwrapped under the transport key into the ring key store. Whether the Plot's PORTS is 0 the frame does
not say: the member presents it or not by a free value (log 20). Applied again it changes nothing (Table STK-6). -/
def takeKey (s : State) (plot gen : Nat) (old : Bool) (wrap : List Byte) : State :=
  match s.stk.transport.find? (·.1 == 0) with
  | none => s
  | some x =>
    match Config.kwUnwrap x.2 wrap with
    | none => s
    | some keys =>
      let known := s.stk.keyStore.contains ⟨plot % 64, gen, old, keys⟩
      let s := s.modStk fun k => { k with
        keyStore := ⟨plot % 64, gen, old, keys⟩ :: k.keyStore.filter fun e => !(e.plot == plot % 64 && e.old == old) }
      if old ∨ known then s
      else
        let (all, s) := s.drawBool
        if all then presentRemote s (64 + plot % 64) else s

/-- A response to a request of this device closes it; a request of the master is served and answered with the same type. -/
def reqOrRsp (s : State) (h : FrameHdr) (ty : Nat) (answer : List Byte) (serve : State → State) : State :=
  if h.resp then dropRequest s h.tag
  else if s.isMaster ∨ s.stk.state ≠ 2 then s
  else ringSend (serve s) ty h.src h.tag true answer

def keyBytes (plot gen : Nat) (old : Bool) (wrap : List Byte) : List Byte :=
  leBytes 2 plot ++ leBytes 1 gen ++ leBytes 1 (bitOf old 0) ++ leBytes 4 0 ++ padTo 0 136 wrap

def execKey (h : FrameHdr) (plot gen : Nat) (old : Bool) (wrap : List Byte) (s : State) : Host.Outcome State Fault Refusal :=
  .next <| takeFrame s h 0x40 (keyBytes plot gen old wrap) fun s =>
    reqOrRsp s h 0x40 (keyBytes plot gen old []) fun s => takeKey s plot gen old wrap

/-- KEYCLR: the entry is cleared and the Plot is no longer presented (R614). -/
def clearRing (s : State) (plot : Nat) : State :=
  let s := s.modStk fun k => { k with keyStore := k.keyStore.filter (·.plot != plot % 64) }
  let s := abortTasks s (taskOfPlot (64 + plot % 64))
  settleTasks (detachPlot s (64 + plot % 64))

def execKeyclr (h : FrameHdr) (plot : Nat) (s : State) : Host.Outcome State Fault Refusal :=
  .next <| takeFrame s h 0x41 (leBytes 2 plot ++ [0, 0]) fun s => reqOrRsp s h 0x41 (leBytes 2 plot ++ [0, 0]) fun s => clearRing s plot

/-! ### Block records and page tags (Table STK-7, R616) -/

/-- The master's copy of a member's block records. -/
def takeBrec (s : State) (recs : List (Nat × BlockRec)) : State :=
  recs.foldl (fun (s : State) x =>
    let s := s.modStk fun k => { k with brecs := x :: k.brecs.filter (·.1 != x.1) }
    match s.fieldOfAddr x.1 with
    | none => s
    | some f =>
      let b := (addrPlace (s.geo f) x.1).1
      s.modField f fun fs =>
        let fs := if x.2.state = 0 then blockErased fs b else fs
        fs.modRec b fun _ => x.2) s

def execBrec (h : FrameHdr) (recs : List (Nat × BlockRec)) (s : State) : Host.Outcome State Fault Refusal :=
  .next <| takeFrame s h 0x42 (recs.flatMap fun x => leBytes 6 x.1 ++ recBytes x.2 ++ [0, 0]) fun s =>
    if s.isMaster then (wideCfgs s).foldl (fun (s : State) f => runField (updateHeadland s f.inst) f.inst) (takeBrec s recs) else s

def scanBytes (tags : List (Nat × PageTag)) : List Byte := tags.flatMap fun x => leBytes 6 x.1 ++ [0, 0] ++ pageTagBytes x.2

/-- The page tags of the replay list a member sends: those of the fix point asked for and later (R616), 102 to a frame. -/
def scanChunks : (fuel : Nat) → List (Nat × PageTag) → List (List (Nat × PageTag))
  | 0, _ => []
  | fuel + 1, ts => if ts.length ≤ 102 then [ts] else ts.take 102 :: scanChunks fuel (ts.drop 102)

def takeScan (s : State) (h : FrameHdr) (fixcount : Nat) : State :=
  if s.isMaster ∨ s.stk.state ≠ 2 then s
  else
    let due := s.stk.tags.filter fun x => decide (fixcount ≤ x.2.fixcount)
    (scanChunks (due.length + 1) due).foldl (fun (s : State) c => ringSend s 0x43 h.src h.tag true (scanBytes c)) s

def execScan (h : FrameHdr) (fixcount : Nat) (s : State) : Host.Outcome State Fault Refusal :=
  .next <| takeFrame s h 0x43 (leBytes 4 fixcount ++ leBytes 4 0) fun s => takeScan s h fixcount

def execScanRsp (h : FrameHdr) (tags : List (Nat × PageTag)) (s : State) : Host.Outcome State Fault Refusal :=
  .next <| takeFrame s h 0x43 (scanBytes tags) fun s =>
    if !s.isMaster then s
    else (dropRequest s h.tag).modStk fun k => { k with tags := tags ++ k.tags.filter fun x => !tags.any (·.1 == x.1) }

/-! ### Events across the ring -/

/-- An event record of another device (Table FNC-9): what it says of power and links is noted, and the record goes to the hosts
(log 21). -/
def takeEventFrame (s : State) (src : Nat) (ev : List Byte) : State :=
  let kind := leNat (slice ev 4 2)
  let inst := leNat (slice ev 6 2)
  let d0 := leNat (slice ev 20 4)
  let d1 := leNat (slice ev 24 4)
  let seg := segmentOf s src (if d1 = 0 then .up else .dn)
  let s := if kind = 0x0050 then
      s.modStk fun k => { k with dark := if d0 = 3 then src :: k.dark.filter (· != src) else k.dark.filter (· != src) }
    else if kind = 0x0060 ∧ d0 = 3 then breakSegment s seg
    else if kind = 0x0060 ∧ d0 = 4 then mendSegment s seg
    else s
  queueEvents s kind inst d0 d1

def execEventFrame (h : FrameHdr) (event : List Byte) (s : State) : Host.Outcome State Fault Refusal :=
  .next <| takeFrame s h 0x50 event fun s => takeEventFrame s h.src event

end Sys2Proof.Machine
end

