-- ==== Sys2Proof/Machine/Start.lean ====
section
/-! DEFINITION. Resets (R188 to R192), the start-up of Table PWR-3, cold activation's restart (Table LAY-4), the four power
states (R202 to R218), read-out protection and provisioning (R363 to R369). -/

namespace Sys2Proof.Machine

/-! ### Reset -/

/-- What a reset leaves of one Field: what stands on the medium. Its registers and its work in progress are gone. -/
def resetField (fs : FieldState) : FieldState :=
  { dropVolatile fs with
    fixcount := (fs.recorded.map (·.count)).getD 0
    sinceFix := 0
    doseI := 0, doseISat := false
    misses := 0, victims := 0, stale := 0, replaying := false, unreadable := false, floor := 0, replayPages := 0, discarded := 0
    gaps := 0, replayMs := 0, headland := 0, roHead := false, health := 0, doseSat := 0, corrMax := 0, soft := 0, retry := 0
    parity := 0, unrecov := 0, refDose := 0, refReads := 0, refEsc := 0, hostWait := false }

/-- What a reset leaves of one Plot: its record in the Granary, and which copies on the medium are of keys that are gone. -/
def resetPlot (p : PlotState) : PlotState := { Reset.plot with record := p.record, olderCopy := p.olderCopy, eraseCut := p.eraseCut }

/-- The TAP selects BYPASS: the one-bit register, which Capture-DR loads with 0. -/
def JtagState.bypass (j : JtagState) : JtagState := { j with ir := 0xFF, dr := 0, drValue := 0, driven := none }

/-- The instructions a read-out protection level allows (Tables ELE-21 and SEC-4). -/
def tapAllows (level code : Nat) : Bool :=
  if code = 0x10 ∨ code = 0x20 then level == 0 else if code ≤ 2 then decide (level ≤ 1) else code == 0xFF

/-- Lines the board drives keep their levels. -/
def resetPins (p : PortState) : PortState := { Reset.port with vbus := p.vbus }

/-- The Z96 is reset with the cause a code of `PWR_RST_CAUSE` names (R188 to R191). Commands still waiting stay in the queue. -/
def resetChip (s : State) (cause : Nat) (dip : Bool) : State :=
  let s := grnCut s false
  let r := Reset.state s.member s.stepping
  { r with
    pending := s.pending
    free := s.free
    portA := resetPins s.portA
    portB := resetPins s.portB
    pwr := { r.pwr with cause := cause, railDip := dip, railsUp := s.pwr.railsUp }
    plots := s.plots.map resetPlot
    fields := s.fields.map resetField
    grn := s.grn
    sec := { s.sec with entropyOk := false, drbgReady := false, rootWaits := false, result := 0 }
    hold := { r.hold with ok := s.hold.ok, pwrFail := s.hold.pwrFail }
    stk := { r.stk with role := s.stk.role }
    jtag := s.jtag.bypass }

/-- A reset source other than the rails. While a rail is below its threshold the power-on reset lasts, and no other source acts
(Table PWR-2, R631). -/
def resetBy (s : State) (cause : Nat) : State := if s.pwr.railsUp then resetChip s cause false else s

/-- Rails rise above their thresholds: the first power, or the end of a dip. Without power nothing of TAMPER_SEEN stays. -/
def execPowerOn (s : State) : Host.Outcome State Fault Refusal :=
  .next <|
    let dip := !s.pwr.railsUp
    let s := (resetChip s 0 dip).modPwr fun q => { q with railsUp := true }
    { s with sec := { s.sec with tamperSeen := false }, jtag := Reset.jtag }

/-- A rail falls below its falling threshold: reset until every rail is above its rising one (R631). -/
def execRailDip (_rail : Rail) (s : State) : Host.Outcome State Fault Refusal :=
  .next <|
    let s := resetChip s 0 true
    s.modPwr fun q => { q with railsUp := false }

/-- RESET_N: below 100 ns nothing; below 1 µs fully or not at all (Table PWR-2). -/
def execResetN (lowNs : Nat) (s : State) : Host.Outcome State Fault Refusal :=
  .next <|
    if lowNs < 100 then s
    else if 1000 ≤ lowNs then resetBy s 1
    else
      let (acts, s) := s.drawBool
      if acts then resetBy s 1 else s

/-- The cause code of a register reset (`PWR_RST_CAUSE`). -/
def regCause (id : Identity) : Nat := if id = idPortA then 2 else if id = idPortB then 3 else 4

/-- `PWR_RESET` (R192). -/
def pwrReset (s : State) (id : Identity) (key : Nat) : State :=
  if key = 0x7E5A ∧ s.holdsSem id 0 then resetBy s (regCause id) else s

def execPwrReset (id : Identity) (key : BitVec 16) (s : State) : Host.Outcome State Fault Refusal :=
  .next <| csWrite s id csPwrReset false fun s => pwrReset s id key.toNat

/-- A GPIO configured as wake input becomes asserted in Off (R213). -/
def execOffWake (s : State) : Host.Outcome State Fault Refusal :=
  .next <|
    let wake : Bool := match s.layout with | some l => l.gpio.any fun g => g.toNat % 128 == 0x06 | none => false
    if s.pwr.state = .off && wake then resetBy s 6 else s

/-! ### Steps 3 and 4: calibration and Seed rows (R531, R534, R198) -/

/-- A Seed word that reads alike is used; what an undefined word reads as is open. -/
def useSeed (s : State) (w copy : Nat) : State :=
  match s.grn.seed.getD copy .blank with
  | .undefined =>
    let (erased, s) := s.drawBool
    if erased then s.modGrn fun g => { g with seedNow := g.seedNow.set w .blank }
    else
      let (b, s) := s.drawBytes 32
      s.modGrn fun g => { g with seedNow := g.seedNow.set w (.value b) }
  | x => s.modGrn fun g => { g with seedNow := g.seedNow.set w x }

/-- Table GRN-7 for one word. -/
def readSeed (s : State) (w : Nat) (m : SeedMargin) : State :=
  match m with
  | .primary => useSeed s w w
  | .copyUsed =>
    let s := (useSeed s w (w + 32)).modGrn fun g => { g with seedCopies := count 0xFF g.seedCopies }
    logFault s 0x0080 0 0xFFFF false false 0 0xFF 0xFF (w32 w) 0
  | .neither => enterDevice (s.modGrn fun g => { g with seedNow := g.seedNow.set w .blank }) 0x0081 0xFF 0xFF (w32 w) 0

/-- Steps 3 and 4; the flag says that R198 stops the start. A fuse word that no margin reads is not unprogrammed: it means level 2
(R530). -/
def readRows (s : State) (facts : StartFacts) : State × Bool :=
  let trim := facts.calRowA || facts.calRowB
  let s := s.modPwr fun q => { q with calTrim := trim }
  let s := if trim then s else enterDevice s 0x0083 0xFF 0xFF 0 0
  let words := (List.range 32).zip (facts.seed.take 32)
  let s := words.foldl (fun (s : State) x => readSeed s x.1 x.2) s
  let s := noteSeed s
  let fuse := (s.seedWord 5).isSome || words.any fun x => x.1 == 5 && x.2 == .neither
  let s := s.modSec fun q => { q with root := (s.seedWord 1).isSome, level := if fuse then 2 else q.level }
  (s, !trim || words.any fun x => x.2 == .neither)

/-! ### Lowering of read-out protection (R366, R367) -/

/-- Everything of the Granary but the Seed and calibration rows is erased; the sector map and the BAD marks stay (R513; log
22). The level-2 fuse is in the Seed row and stays. -/
def finishLowering (s : State) : State :=
  let s := s.modGrn fun g => { g with
    mem := [], undef := [], ones := [], counters := List.replicate 64 0, act := none, faults := [], queue := [], erase := none
    logs := [], released := 0, poolErased := s.member.oemFirst - 2 * s.member.slotSectors }
  let fields := s.fields.map fun _ => Reset.field
  let plots := s.plots.map fun (p : PlotState) => { p with record := Reset.record, olderCopy := false, keys := none }
  let s : State := { s with fields := fields, plots := plots }
  s.modSec fun q => { q with level := if q.level = 2 then 2 else 0, lowering := false }

/-! ### Step 5: selection (R130, R131) -/

/-- The image of one slot, if it passed and carries this epoch. -/
def slotImage (x : Slot) (v : Verdict) (epoch : Nat) : Option (Slot × Layout × List Byte) :=
  match v.image with
  | some l => if l.epoch = epoch then some (x, l, v.digest) else none
  | none => none

/-- Among two images of one epoch: slot A's, unless the activation record names slot B's digest alone. -/
def pickImage (s : State) (a b : Verdict) (epoch : Nat) : Option (Slot × Layout × List Byte) :=
  let named := s.grn.act.map fun r => r.digest
  match slotImage .a a epoch, slotImage .b b epoch with
  | some x, some y => if named = some y.2.2 ∧ named ≠ some x.2.2 then some y else some x
  | some x, none => some x
  | none, some y => some y
  | none, none => none

/-- The image R130 selects among the verdicts of slots A and B, and whether it is staged. -/
def selectImage (s : State) (a b : Verdict) : Option (Slot × Layout × List Byte × Bool) :=
  match pickImage s a b (s.counter0 + 1) with
  | some x => some (x.1, x.2.1, x.2.2, true)
  | none => (pickImage s a b s.counter0).map fun x => (x.1, x.2.1, x.2.2, false)

/-! ### Step 6: the layout applied -/

/-- A Plot of the layout: its record kept, or destroyed where R337 or R342 says so, or its destruction completed (R543). A scope
in force covers it (Table SAF-5). -/
def mountPlot (s : State) (c : PlotCfg) : State :=
  let r := (s.plot c.inst).record
  let wrong := r.keyed && (r.field != c.field || r.credential != c.credential || decide (c.retryLimit ≤ r.retry))
  let s := if wrong then (destroyRecord s c.inst).modPlot c.inst fun p => { p with trimOwed := some 0 }
    else if !r.keyed && (s.plot c.inst).olderCopy then destroyOlder s c.inst else s
  let held := s.plotHeld c.inst
  s.modPlot c.inst fun p => { p with mode := if !p.record.keyed then .erased else if held then .safelight else .closed, roCause := 0, health := 0 }

def bankOf (c : BankCfg) : BankState := { Reset.bank with owner := c.owner, role := c.role, field := c.field }

def applyLayout (s : State) (x : Slot) (l : Layout) (digest : List Byte) : State :=
  let s := s.modLay fun q => { q with active := some l, activeSlot := x, digest := digest, recipePend := [], oldRecipes := l.recipes }
  let s := s.modArb fun a => { a with
    reserved := l.tickets, tickets := [], sharedMin := s.member.pool - l.tickets.sum, wdogTime := l.wdog, readBurst := l.readBurst }
  let s := s.modSaf fun q => { q with strikeLimit := l.strikeLimit, sofCheck := l.sofCheck }
  let banks := (List.range s.member.banks).map fun i => ((l.banks[i]?).map bankOf).getD Reset.bank
  let s : State := { s with banks := banks, bankMem := [], bankBad := [] }
  let s := takePowerFrame (s.modMpu fun q => { q with regions := l.mpu })
  let s := l.plots.foldl mountPlot s
  let s := l.fields.foldl (fun (s : State) c => s.modField c.inst fun fs => { fs with seedSize := if c.seedbedFactor = 0 then 0 else c.seedbedMax }) s
  (List.range s.member.channels).foldl (fun (s : State) c =>
    if (s.chanCfg? c).isSome then s.modChan c fun k => { k with stopped := false } else s) s

/-! ### Steps 7 to 9 -/

/-- NAND discovery: every populated channel owes RESET and INIT, which its words run before anything else; one that has failed
in step 7 is fenced (R197, R487; log 98). -/
def discover (s : State) (failed : List Nat) : State :=
  (List.range s.member.channels).foldl (fun (s : State) c =>
    if (s.chanCfg? c).isNone then s
    else if failed.contains c then
      let (word, s) := s.drawNat
      recipeFence s c (word % 4096)
    else oweReset s c) s

/-- Whether the scan finds a page whose program had begun and was not reported: it reads as programmed, or as not begun (R99,
R463). One the scan does not find, no later stage of the recovery finds. -/
def scanPage (s : State) (r : PageRec) : State × PageRec :=
  if r.passed || !r.begun then (s, r)
  else
    let (found, s) := s.drawBool
    (s, { r with begun := found })

def scanPages : List PageRec → State → State × List PageRec
  | [], s => (s, [])
  | r :: rs, s =>
    let (s, r) := scanPage s r
    let (s, rs) := scanPages rs s
    (s, r :: rs)

/-- The horizon scan of every Field (step 8, Table FIX-6). -/
def horizonScan (s : State) : State :=
  (List.range s.fields.length).foldl (fun (s : State) f =>
    let (s, pages) := scanPages (s.field f).pages s
    s.modField f fun fs => { fs with pages := pages }) s

/-- The highest order number the contact sheet and the fix points of a Field give. -/
def sheetHigh (fs : FieldState) : Nat :=
  let fixes := fs.recorded.toList ++ fs.sheet.filterMap (·.fix)
  fs.sheet.foldl (fun m x => max m x.floor) (fixes.foldl (fun m r => max m (max r.high r.floor)) (fs.sealFloor.getD 0))

/-- H: the highest order number of the contact sheet, the fix points and the pages found (R46). -/
def highest (s : State) : Nat :=
  s.fields.foldl (fun a fs =>
    (fs.pages.filter fun r => r.rseq.isSome && (r.passed || r.begun)).foldl (fun a r => (r.slots.filterMap slotOrder).foldl max a)
      (max a (sheetHigh fs))) 0

/-- B: the largest number of replay-list blocks of the layout's Fields on one die of the device (R194, R200). -/
def openBlocks (s : State) : Nat :=
  s.fieldList.foldl (fun m f =>
    let wide := ((s.fieldCfg? f).map (·.wide)).getD false
    let bs := (((s.field f).recorded.map (·.list)).getD []).map (·.1) |>.filter fun b => (s.localChan wide b.chan).isSome
    bs.foldl (fun m b => max m (bs.filter fun x => onDie x b.chan b.die).length) m) 0

/-- The markers of factory-bad blocks are read at a Field's first use (R433). -/
def markFactory (s : State) (bad : List (Nat × Nat × Nat)) : State :=
  bad.foldl (fun (s : State) x => match s.fieldOfChan x.1 with
    | some f => if (s.field f).recorded.isSome then s
        else s.modField f fun fs => fs.modRec ⟨x.1, x.2.1, x.2.2⟩ fun r => { r with state := 5 }
    | none => s) s

/-- The arbiter resumes (R46, R47). A Plot destroyed at this start gets its whole-Plot trim entry when its Field is back
(R452). -/
def resumeOrder (s : State) (h : Nat) : State :=
  let n := h + 2 ^ 24
  let owed := fun (p : PlotState) => if p.trimOwed.isSome then { p with trimOwed := some (n - 1), eraseCut := n - 1 } else p
  { s with plots := s.plots.map owed }.modArb fun a => { a with ordNext := n, ordResume := n, ordEnd := decide (orderLast < n), lockstep := false, noCipher := false }

/-- The persisted records of earlier sessions go to the ring with new numbers; those of this start stand in it already (R105). -/
def copyPersisted (s : State) : State :=
  let own := if s.spareOut then 0 else (s.saf.log.filter (·.latch)).length
  (s.grn.faults.drop own).reverse.foldl (fun (s : State) r => s.modSaf fun q => { q with
    log := ({ r with seq := q.logHead + 1, persisted := true } :: q.log).take 256, logHead := q.logHead + 1 }) s

/-- The horizon scan, the resumption of ordering and the end of the start's checks (steps 8 and 9). -/
def resume (s : State) (facts : StartFacts) (cold : Bool) : State :=
  let s := markFactory s facts.factoryBad
  let s := horizonScan s
  let h := highest s
  let b := openBlocks s
  let e := s.fields.foldl (fun m fs => max m ((fs.recorded.map (·.wall)).getD 0)) s.wall.e
  let s : State := { s with wall := { s.wall with e := e } }
  let s := s.modPwr fun q => { q with b := min 0xFF b }
  let s := s.modHold fun q => { q with lastSealed := !s.fieldList.isEmpty && s.fieldList.all fun f => (s.field f).sealFloor.isSome }
  let s := s.fieldList.foldl (fun (s : State) f => beginReplay s f) s
  let s := resumeOrder s h
  let s := if cold then s else copyPersisted s
  let s := s.modSaf fun q => { q with starting := false }
  startSweep s

/-! ### The start as a whole (R193) -/

/-- The entropy source's start-up test, which is test 3 of Table SEC-3, and the instantiation of the DRBG, which needs samples
that passed it (R358, R360). -/
def startEntropy (s : State) (ok : Bool) : State :=
  let s := s.modSec fun q => { q with entropyOk := ok, drbgReady := ok }
  if ok then s else enterDevice s 0x0091 0xFF 0xFF 3 0

/-- A structure of the Granary of which neither copy reads valid: GRN_BOTH, latched (R107, Table SAF-8; log 66). -/
def lostStructs (s : State) (l : List (Nat × Nat)) : State :=
  l.foldl (fun (s : State) x => enterDevice s 0x0082 0xFF 0xFF (w32 x.1) (w32 x.2)) s

/-- A tamper seen in Off (R362). -/
def startTamper (s : State) : State :=
  if s.sec.tamperSeen then enterDevice (s.modSec fun q => { q with tamperSeen := false }) 0x0090 0xFF 0xFF 0 0 else s

/-- Step 10: ports that are enabled connect (R195, R147, R148). -/
def attach (s : State) : State :=
  let s := s.modPwr fun q => { q with step := 15 }
  s.member.portList.foldl offerConnect (s.modLay fun q => { q with starting := false })

/-- Steps 5 to 9, from the layout load; `cold` is the start that ends a cold activation. -/
def loadAndRun (s : State) (facts : StartFacts) (cold : Bool) : State :=
  let s := if s.sec.lowering then finishLowering s else s
  let a := verifySlot s .a facts.slotA
  let b := verifySlot s .b facts.slotB
  let s := noteVerdict (noteVerdict s .a a) .b b
  let s := startEntropy (startTamper (lostStructs s facts.structsLost)) facts.entropyOk
  match selectImage s a b with
  | none => s.modLay fun q => { q with result := 0x0E }
  | some (x, l, digest, staged) =>
    let s := if staged then recordActivation s x l digest else s
    let s := s.modLay fun q => { q with result := 0 }
    let s := discover (applyLayout s x l digest) facts.initFailed
    startStack (resume (takePosition s) facts cold)

/-- The reference is seen: steps 2 to 10 (R193 to R201). A clock that the 0.1 ms of listening showed keeps the oscillator
amplifier off; a crystal runs with it on (R640). -/
def startUp (s : State) (facts : StartFacts) : State :=
  let s := s.modPwr fun q => { q with refPresent := true, ampOn := !facts.clock }
  let (s, stop) := readRows s facts
  let s := if stop then startTamper (if s.sec.lowering then finishLowering s else s) else loadAndRun s facts false
  let s := attach s
  let s := s.modPwr fun q => { q with attach := min 0xFFFF (facts.attachUs / 10) }
  { s with timeUs := s.timeUs + facts.attachUs }

/-- The reference is seen in step 2; while it is absent the start waits there (R196). -/
def execReferenceDetected (facts : StartFacts) (s : State) : Host.Outcome State Fault Refusal :=
  .next <| if s.pwr.step ≤ 2 ∧ s.pwr.railsUp ∧ !s.pwr.refPresent then startUp s facts else s

/-! ### Power states -/

/-- A POWER event as it travels to the stack master, which gives it the SEQ of each port it queues it on (Table FNC-9). -/
def eventBytes (s : State) (kind inst d0 d1 : Nat) : List Byte := EventRec.bytes ⟨0, kind, inst, s.timeUs, s.lastFrame, w32 d0, w32 d1⟩

/-- `PWR_STAT`.STATE has changed: POWER events, and the master told by a member (R620). -/
def powerEvent (s : State) : State :=
  let d0 := powerCode s.pwr.state
  let d1 := bitOf s.pwr.bySuspend 0
  let s := queueEvents s 0x0050 0xFFFF d0 d1
  if s.stk.state = 2 ∧ !s.isMaster then ringSend s 0x50 0 0 false (eventBytes s 0x0050 0xFFFF d0 d1) else s

def setPower (s : State) (st : PowerState) (bySuspend : Bool) : State :=
  if s.pwr.state = st then s.modPwr fun q => { q with bySuspend := bySuspend }
  else powerEvent (s.modPwr fun q => { q with state := st, bySuspend := bySuspend })

/-- Islands restart on leaving Dark, and a full sweep cycle begins (R87, Table PWR-5). -/
def wakeIslands (s : State) : State :=
  let s := (List.range s.member.channels).foldl (fun (s : State) c =>
    if (s.chanCfg? c).isSome then s.modChan c fun k => { k with stopped := false } else s) s
  if s.hasLayout then runFields (startSweep s) else s

/-- Lit or Dim, from any state that runs or from Dark. -/
def enterRunning (s : State) (st : PowerState) (bySuspend : Bool) : State :=
  let dark := s.pwr.state = .dark
  let s := s.modPwr fun q => { q with dimNow := if st = .dim then q.dimReg else 0 }
  let s := setPower s st bySuspend
  if dark then wakeIslands s else s

/-- The entry of Dark or Off begins: access to Plots ends and every Field develops (R208, R212). -/
def beginXfer (s : State) (target : PowerState) (bySuspend : Bool) : State :=
  let from_ := s.pwr.state
  let s := s.modPwr fun q => { q with xfer := some ⟨target, bySuspend, from_⟩, bySuspend := false }
  if from_ = .dark then s else developAll s

/-- Take a granted target (Table PWR-5): Lit, Dim, Dark or Off. A suspend that finds its target in force already sets RESULT
alone: Table PWR-5 says that nothing happens, R214 names BY_SUSPEND (DESIGN CHOICE, log 99). -/
def takeTarget (s : State) (target : PowerState) (bySuspend : Bool) : State :=
  let done := fun (s : State) (r : Nat) => s.modPwr fun q => { q with result := r }
  if target = s.pwr.state ∧ target ≠ .dim then done (if bySuspend then s else s.modPwr fun q => { q with bySuspend := false }) 3
  else
    let s := done s 0
    match target with
    | .lit => enterRunning s .lit bySuspend
    | .dim => enterRunning s .dim bySuspend
    | .dark => beginXfer s .dark bySuspend
    | .off => beginXfer s .off false

/-- A power command is refused with BUSY (R205). -/
def State.powerBusy (s : State) : Bool := s.pwr.xfer.isSome || s.layBusy || s.saf.recPending.isSome

/-- A write of `PWR_CTRL`.CMD (R203 to R205, R217); a warm POWER frame takes effect at the command. -/
def powerCommand (s : State) (id : Identity) (cmd : Nat) : State :=
  let refuse := fun (r : Nat) => s.modPwr fun q => { q with result := r }
  if !s.holdsSem id 0 then refuse 1
  else if s.powerBusy then refuse 2
  else
    let s := if s.pwr.frameWaits then takePowerFrame s else s
    let s := s.modPwr fun q => { q with bySuspend := false }
    if cmd = 1 then takeTarget s .lit false
    else if cmd = 2 then takeTarget s .dim false
    else if cmd = 3 then takeTarget s .dark false
    else if cmd = 4 then takeTarget s .off false
    else s.modPwr fun q => { q with result := 4 }

def powerWrite (s : State) (id : Identity) (cmd : Nat) : State := csWrite s id csPwrCtrl true fun s => powerCommand s id cmd

def execPwrLit (id : Identity) (s : State) : Host.Outcome State Fault Refusal := .next (powerWrite s id 1)
def execPwrDim (id : Identity) (s : State) : Host.Outcome State Fault Refusal := .next (powerWrite s id 2)
def execPwrDark (id : Identity) (s : State) : Host.Outcome State Fault Refusal := .next (powerWrite s id 3)
def execPwrOff (id : Identity) (s : State) : Host.Outcome State Fault Refusal := .next (powerWrite s id 4)

/-- `PWR_CTRL`.SET_TARGET. One that is taken leaves RESULT as it was: the spec gives it no value (DESIGN CHOICE, log 99). -/
def setTarget (s : State) (id : Identity) (target : Nat) : State :=
  if !s.holdsSem id 0 then s.modPwr fun q => { q with result := 1 }
  else if target = 1 ∨ target = 2 then s.modPwr fun q => { q with target := target }
  else s

def execSetTarget (id : Identity) (target : Nat) (s : State) : Host.Outcome State Fault Refusal :=
  .next <| csWrite s id csPwrCtrl true fun s => setTarget s id target

/-! ### The end of development (R208, R212, Table LAY-4) -/

/-- Every command granted before has ended, secret checks and crypto-erases among them, and every Field outside Safelight is
developed. -/
def State.allDeveloped (s : State) : Bool :=
  (s.plots.all fun p => p.checks.isEmpty && p.sanitize.isNone) &&
  (s.fn.tasks.all fun t => !t.statusDue || t.held || t.intake || decide (64 ≤ t.key.plot)) &&
  s.fieldList.all fun f => s.fieldHeld f || !s.manages f || (s.field f).unreadable || (s.field f).replaying || developed (s.field f)

/-- Step 3 of R208: the islands of Table PWR-4 stop. -/
def stopIslands (s : State) : State :=
  let s := stopSweep s
  let chans := s.chans.map fun (k : ChanState) => { k with stopped := true }
  { s with chans := chans }

def idleLinks (s : State) : State :=
  s.modStk fun k => { k with
    up := { k.up with idle := true, up := false, lock := 0, unacked := [], waiting := [], credits := 0 }
    dn := { k.dn with idle := true, up := false, lock := 0, unacked := [], waiting := [], credits := 0 } }

def enterDark (s : State) (x : PowerXfer) : State :=
  let s := s.modPwr fun q => { q with xfer := none, before := x.from_ }
  let s := stopIslands (setPower s .dark x.bySuspend)
  if s.stackRunsDark then s else dropLinks s

/-- Off: LEAVE, keys cleared, ports detached, everything but the always-on island powered down (R212, R213, R221, R620). -/
def enterOff (s : State) : State :=
  let safe := s.safeN
  let s := if s.stk.state = 2 then ringBroadcast s 0x05 0 (leBytes 1 s.ringPos ++ [0, 0, 0]) else s
  let s := s.plotList.foldl (fun (s : State) n => if (s.plot n).mode.up then closePlot s n .closed 4 else s) s
  let s := dropRemote (s.member.portList.foldl (fun (s : State) p => detachPort s p 1) s)
  let s := idleLinks (stopIslands (grnCut s true))
  let s := s.modSaf fun q => { q with safeNHeld := safe, log := [], logHead := 0 }
  let s := s.modHold fun h => { h with holding := false, sealed := false }
  s.modPwr fun q => { q with xfer := none, state := .off, bySuspend := false, alert := false }

/-- Steps 6 to 8 of Table LAY-4: ports detached, every island but the always-on and Granary islands reset, and the start from the
layout load (R144, R664). It is no reset (R188): latched scopes with their fences, the strike counts and `MPU_CTRL`.LOCK stay
(R113, R574). A RECOVER still pending goes with it, and the faults that waited for it apply first (R116). -/
def coldRestart (s : State) (facts : StartFacts) : State :=
  let s := applyDeferred (s.modSaf fun q => { q with recPending := none, deferred := [] }) s.saf.deferred
  let s := s.member.portList.foldl (fun (s : State) p => detachPort s p 1) s
  let r := Reset.state s.member s.stepping
  let latched := s.saf.scopes.filter (·.latch)
  let chans := s.chans.map fun (k : ChanState) => { Reset.chan with strikes := k.strikes, fenced := k.fenceLatched, fenceLatched := k.fenceLatched }
  let engines := s.engines.map fun (e : CipherState) => { Reset.engine with strikes := e.strikes, fenced := e.fenceLatched, fenceLatched := e.fenceLatched }
  let t : State := { r with
    pending := s.pending
    free := s.free
    timeUs := s.timeUs
    portA := resetPins s.portA
    portB := resetPins s.portB
    pwr := { s.pwr with state := .lit, dimNow := 0, xfer := none, bySuspend := false, step := 5 }
    chans := chans
    engines := engines
    mpu := { r.mpu with lock := s.mpu.lock }
    plots := s.plots.map resetPlot
    fields := s.fields.map resetField
    grn := s.grn
    sec := s.sec
    wall := s.wall
    hold := { r.hold with ok := s.hold.ok, pwrFail := s.hold.pwrFail, holds := s.hold.holds }
    stk := { r.stk with role := s.stk.role }
    jtag := s.jtag
    saf := { r.saf with log := s.saf.log, logHead := s.saf.logHead, scopes := latched, causeCode := if latched.any (·.code == 6) then s.saf.causeCode else 0 }
    lay := { r.lay with op := 3, slots := s.lay.slots } }
  attach (loadAndRun t facts true)

/-- Development for Dark, for Off or for a cold activation has completed. -/
def execDevelopmentComplete (facts : StartFacts) (s : State) : Host.Outcome State Fault Refusal :=
  .next <|
    if !s.allDeveloped then s
    else
      match s.pwr.xfer, s.lay.run with
      | some x, _ => if x.target = .off then enterOff s else enterDark s x
      | none, some r => if r.stage = .developing then coldRestart s facts else s
      | none, none => s

/-! ### Read-out protection and provisioning -/

def secResult (s : State) (r : Nat) : State := s.modSec fun q => { q with result := r }

/-- A read-out protection level applies from its grant; an instruction it does not allow gives way to BYPASS (R364, R643). -/
def applyLevel (s : State) (level : Nat) : State :=
  let s := s.modSec fun q => { q with level := level }
  if tapAllows level s.jtag.ir then s else s.modJtag (·.bypass)

/-- Step 1 and 2 of R366: the marker is programmed and every key record destroyed. -/
def beginLowering (s : State) (id : Identity) : State :=
  let s := structWrite (s.modSec fun q => { q with lowering := true, loweredBy := id, result := 0 }) 0x501
  (List.range s.plots.length).foldl (fun (s : State) n =>
    if (s.plot n).mode = .absent then (if (s.plot n).record.keyed then destroyRecord s n else s)
    else if (s.plot n).mode = .erased then s else erasePlot s n 0) s

/-- `SEC_RDP` (R364 to R368). A spare-exhausted Granary refuses its programs (R515): nothing changes, `SEC_RESULT` included
(DESIGN CHOICE, log 109). -/
def secRdp (s : State) (id : Identity) (target key : Nat) : State :=
  let wanted := if target = 1 then 0x5E01 else if target = 2 then 0x5E02 else 0xA50F
  if !s.holdsSem id 0 then secResult s 1
  else if target = 3 ∨ key ≠ wanted then secResult s 2
  else if target = 1 then
    if s.sec.level ≠ 0 then secResult s 3
    else if s.spareOut then s
    else secResult (structWrite (applyLevel s 1) 0x500) 0
  else if target = 2 then
    if s.sec.level ≠ 1 then secResult s 3
    else if s.spareOut then s
    else
      let (b, s) := s.drawBytes 32
      secResult (applyLevel (putSeed s 5 .pair b) 2) 0
  else if s.sec.level ≠ 1 then secResult s 3
  else if s.anyPlotUp then secResult s 4
  else if s.sec.lowering || s.spareOut then s
  else beginLowering s id

def rdpWrite (s : State) (id : Identity) (target key : Nat) : State := csWrite s id csSecRdp true fun s => secRdp s id target key

def execRdpLevel1 (id : Identity) (key : BitVec 16) (s : State) : Host.Outcome State Fault Refusal := .next (rdpWrite s id 1 key.toNat)
def execRdpLevel2 (id : Identity) (key : BitVec 16) (s : State) : Host.Outcome State Fault Refusal := .next (rdpWrite s id 2 key.toNat)
def execRdpLower (id : Identity) (key : BitVec 16) (s : State) : Host.Outcome State Fault Refusal := .next (rdpWrite s id 0 key.toNat)

/-- The erasure of R366 ends and the Z96 resets itself, recorded as a register reset from the writing port. -/
def execLoweringComplete (s : State) : Host.Outcome State Fault Refusal :=
  .next <| if s.sec.lowering then resetBy (finishLowering s) (regCause s.sec.loweredBy) else s

/-- The DRK words, primary and copy, are unprogrammed (R369). -/
def State.drkBlank (s : State) : Bool := s.grn.seed.getD 1 .blank == .blank && s.grn.seed.getD 33 .blank == .blank

/-- The DRK is generated and both copies programmed (R359, R369). -/
def genRoot (s : State) : State :=
  let (b, s) := s.drawBytes 32
  secResult ((putSeed s 1 .pair b).modSec fun q => { q with root := true, rootWaits := false }) 0

/-- What waited for the DRBG goes on once it is instantiated (R358). -/
def drbgWork (s : State) : State :=
  if !s.sec.drbgReady then s
  else
    let s := if s.sec.rootWaits then (if s.drkBlank then genRoot s else secResult (s.modSec fun q => { q with rootWaits := false }) 5) else s
    s.plotList.foldl (fun (s : State) n => match (s.plot n).checks with
      | ⟨_, .provision _, _, false⟩ :: _ => runChecks n (s.plot n).checks.length s
      | _ => s) s

/-- `SEC_PROV` OP = ROOT_GEN (R369). JTAG needs no semaphore. It waits for a DRBG not yet instantiated (R358). A spare-exhausted
Granary refuses its programs (R515; log 109). -/
def secProv (s : State) (id : Identity) : State :=
  if id ≠ idJtag ∧ !s.holdsSem id 0 then secResult s 1
  else if s.sec.level ≠ 0 then secResult s 3
  else if s.sec.root || !s.drkBlank then secResult s 5
  else if s.spareOut then s
  else if !s.sec.drbgReady then s.modSec fun q => { q with rootWaits := true }
  else genRoot s

def execRootGen (id : Identity) (s : State) : Host.Outcome State Fault Refusal :=
  .next <| csWrite s id csSecProv true fun s => secProv s id

end Sys2Proof.Machine
end

