-- ==== Sys2Proof/Machine/Usb.lean ====
section
/-! DEFINITION. The USB ports and the embedded hub (chapter "USB ports and the embedded hub"): connection and speed, upstream
resets and detach, granules and endpoint buffers, SOF, remote wake, link power, the host's requests to hub and functions,
suspend and resume of the power chapter, general inputs. -/

namespace Sys2Proof.Machine

/-! ### Packets on the endpoints (R231 to R234) -/

/-- A BOT command of the Plot on embedded port k is held for a ticket, and its data phase with it (R53). -/
def State.botHeld (s : State) (p : Port) (k : Nat) : Bool :=
  match ((s.port p).emb.getD k Reset.emb).holder with
  | some n => s.fn.tasks.any fun t => t.held && t.statusDue && t.key.origin == .port p && t.key.plot == n
  | none => false

/-- A USB 2.0 bulk OUT packet: STALL while the endpoint is halted; NAK without a free granule or while the command is held
(R53); NYET at high speed when it takes the last; else ACK (R232). -/
def execBulkOutPacket (p : Port) (k ep : Nat) (s : State) : Host.Outcome State Fault Refusal :=
  .next <|
    match (s.port p).ep? k ep with
    | none => s
    | some e =>
      if !(s.port p).hasEp k ep ∨ (s.port p).super then s
      else if e.halted then answerWire s p .stall
      else if e.total ≤ e.used ∨ s.botHeld p k then answerWire s p .nak
      else
        let s := modEp s p k ep (takeGranule 2)
        answerWire s p (if (s.port p).speed = .high ∧ e.used + 1 = e.total then .nyet else .ack)

/-- PING, at high speed: ACK with a free granule, else NAK (R232). -/
def execPing (p : Port) (k ep : Nat) (s : State) : Host.Outcome State Fault Refusal :=
  .next <|
    match (s.port p).ep? k ep with
    | none => s
    | some e =>
      if !(s.port p).hasEp k ep ∨ (s.port p).speed ≠ .high then s
      else if e.halted then answerWire s p .stall
      else answerWire s p (if e.used < e.total ∧ !s.botHeld p k then .ack else .nak)

/-- A SuperSpeed bulk transaction: STALL while the endpoint is halted; NRDY without a free granule or while the command is
held, with ERDY owed (R53, R234); else ACK, or data for IN. -/
def execSsBulkTransaction (p : Port) (k ep : Nat) (isIn : Bool) (s : State) : Host.Outcome State Fault Refusal :=
  .next <|
    match (s.port p).ep? k ep with
    | none => s
    | some e =>
      if !(s.port p).hasEp k ep ∨ !(s.port p).super then s
      else if e.halted then answerWire s p .stall
      else if e.total ≤ e.used ∨ s.botHeld p k then answerWire (modEp s p k ep fun e => { e with nrdy := true }) p .nrdy
      else answerWire (modEp s p k ep (takeGranule 32)) p (if isIn then .data e.seq else .ack)

/-! ### Time: granules free, and ERDY follows (R234) -/

/-- A capsule OUT endpoint is held until the response to the request before it has been read in full. -/
def PortState.heldOut (q : PortState) (f : PortFn) (e : EpState) : Bool :=
  e.ep == 0x01 && f.caps.any fun c =>
    (c.busy || c.resp.isSome) && (match c.fn with | .management => e.k == 1 | .credential n => (q.emb.getD e.k Reset.emb).holder == some n)

/-- What the functions and the host have taken leaves the buffers, but for those of a held function or command; every endpoint
that answered NRDY sends ERDY with its NumP: the answer names port, endpoint and NumP of each. -/
def drainPort (s : State) (p : Port) : State :=
  let f := s.pfn p
  s.modPort p fun q =>
    let gone := fun (e : EpState) => (decide (e.used ≠ 0) || e.nrdy) && !q.heldOut f e && !s.botHeld p e.k
    let owed := q.eps.filter fun e => gone e && e.nrdy
    { q with
      eps := q.eps.map fun e => if gone e then { e with used := 0, nrdy := false } else e
      answer := if owed.isEmpty then q.answer else .erdy (owed.map fun e => (e.k, e.ep, min e.total (maxBurst e.total + 1))) }

/-- One microsecond passes while the queue is empty: endpoint buffers drain, what waits for the DRBG goes on (R358), reads
that an abort has released are offered to the medium (R42), the arbiter grants one request that is raised (R33, R53, R55) and,
while the always-on island sees the reference (R196), it counts (log 1). -/
def idleTick (s : State) : State :=
  let s := serveReads (drbgWork (s.member.portList.foldl drainPort s))
  let s := if s.arb.lockstep then s else arbiterTick [] ⟨true, true⟩ s
  if s.pwr.refPresent then { s with timeUs := s.timeUs + 1 } else s

/-! ### Connection and speed (R224 to R228, R251) -/

/-- VBUSDET high for 2 ms (R224); in port scope or before step 10 nothing connects (R261, Table PWR-3). -/
def execVbusDetect (p : Port) (flip : Bool) (s : State) : Host.Outcome State Fault Refusal :=
  .next <|
    if !s.member.portList.contains p then s
    else
      let was := (s.port p).connected
      let s := offerConnect (s.modPort p fun q => { q with vbus := true }) p
      if !was && (s.port p).connected then s.modPort p fun q => { q with flip := flip } else s

/-- VBUSDET low for 2 ms: an upstream detach of a connected port (R225, R230, Table SEM-4). -/
def execVbusLoss (p : Port) (s : State) : Host.Outcome State Fault Refusal :=
  .next <|
    let s := s.modPort p fun q => { q with vbus := false }
    if (s.port p).connected then serveReads (detachPort s p 1) else s

def speedOf : Nat → UsbSpeed
  | 0 => .none | 1 => .full | 2 => .high | 3 => .gen1x1 | 4 => .gen2x1 | _ => .gen2x2

/-- The rate of a trained link: the highest both partners and MAX_SPEED allow, a x2 rate with both lanes only (R227). -/
def trainedSpeed (partner : UsbSpeed) (max lanes : Nat) : UsbSpeed :=
  let r := min (speedCode partner) (max + 2)
  speedOf (if r = 5 ∧ lanes < 2 then 4 else r)

def execSsTrainingDone (p : Port) (partner : UsbSpeed) (lanes : Nat) (s : State) : Host.Outcome State Fault Refusal :=
  .next <|
    let m := min (s.portCfg p).maxSpeed s.member.usbMax
    if (s.port p).ssTerm ∧ (s.port p).speed = .none ∧ 3 ≤ speedCode partner ∧ 1 ≤ m then
      s.modPort p fun q => { q with speed := trainedSpeed partner m lanes, link := 0 }
    else s

/-- Training fails within its timeout: the D+ pull-up (R226). -/
def execSsTrainingTimeout (p : Port) (s : State) : Host.Outcome State Fault Refusal :=
  .next <|
    if (s.port p).ssTerm ∧ (s.port p).speed = .none then s.modPort p fun q => { q with ssTerm := false, dPlus := true } else s

/-- The chirp of a USB 2.0 reset: high speed with the host's chirp sequence, else full speed (R228). What else a bus reset
does is UPSTREAM_RESET (R229). -/
def execUsb2BusReset (p : Port) (hostChirps : Bool) (s : State) : Host.Outcome State Fault Refusal :=
  .next <|
    if (s.port p).dPlus then s.modPort p fun q => { q with speed := if hostChirps then .high else .full } else s

/-! ### Suspend, resume (R214 to R217) -/

def State.stackLinkUp (s : State) : Bool := s.stk.up.up || s.stk.dn.up

/-- Every attached port is suspended (R214). -/
def State.allSuspended (s : State) : Bool :=
  s.member.portList.all fun p => !(s.port p).connected || decide ((s.port p).link = 3)

/-- Enter the suspend target as if the holder of semaphore 0 had commanded it (R214, R205). -/
def enterTarget (s : State) : State :=
  if s.powerBusy then s.modPwr fun q => { q with result := 2 }
  else
    let target : PowerState := if s.pwr.target = 1 then .dim else .dark
    let s := if s.pwr.frameWaits then takePowerFrame s else s
    if target = .dark ∧ s.pwr.state = .dark then takeTarget s target true
    else takeTarget (s.modPwr fun q => { q with before := q.state, dimBefore := q.dimNow }) target true

/-- A port enters suspend: its SOF record is no longer valid (R238), a wake in the same tick comes after it (R242), and the
last attached port to suspend enters the target unless a stack link is up (R215). -/
def execUsbSuspend (p : Port) (s : State) : Host.Outcome State Fault Refusal :=
  .next <|
    if !(s.port p).live then s
    else
      let s := s.modPort p fun q => { q with link := 3, sof := { q.sof with valid := false }, wakeSignals := 0 }
      if s.allSuspended && !s.stackLinkUp then enterTarget s else s

/-- Return to the state held before the suspend entry (R216): to Dark by its entry, to Dim with the divisors then in force.
An entry of Dark still developing is given up (log 24). -/
def leaveTarget (s : State) : State :=
  match s.pwr.xfer with
  | some x => if x.bySuspend then s.modPwr fun q => { q with xfer := none, bySuspend := false } else s
  | none =>
    if !s.pwr.bySuspend then s
    else if s.pwr.before = s.pwr.state ∧ s.pwr.state ≠ .dim then s.modPwr fun q => { q with bySuspend := false }
    else match s.pwr.before with
      | .dark => beginXfer s .dark false
      | .dim => (enterRunning s .dim false).modPwr fun q => { q with dimNow := q.dimBefore }
      | st => enterRunning s st false

/-- A port resumes from suspend, or leaves U1, U2 or L1. -/
def execUsbResume (p : Port) (s : State) : Host.Outcome State Fault Refusal :=
  .next <|
    let q := s.port p
    if q.speed = .none ∨ q.link = 0 then s
    else
      let s := s.modPort p fun q => { q with link := 0 }
      if q.link = 3 then leaveTarget s else s

/-- An upstream bus, warm or hot reset of one port (R229), which releases its semaphores (Table SEM-4). A reset of a
suspended port ends the suspend as a resume does (log 24). -/
def execUpstreamReset (p : Port) (_kind : UpReset) (s : State) : Host.Outcome State Fault Refusal :=
  .next <|
    if !(s.port p).connected then s
    else
      let was := (s.port p).link
      let s := serveReads (releaseSems (resetPort s p) p.identity 2)
      if was = 3 then leaveTarget s else s

/-- No resume within 100 ms of the first signalling: the port signals again, at most three times per suspend (R241). -/
def execRemoteWakeRepeat (p : Port) (s : State) : Host.Outcome State Fault Refusal :=
  .next <|
    let q := s.port p
    if q.link = 3 ∧ 1 ≤ q.wakeSignals ∧ q.wakeSignals < 3 then
      s.modPort p fun q => { q with wakeCount := count 0xFF q.wakeCount, wakeSignals := q.wakeSignals + 1 }
    else s

/-! ### SOF and timestamps (R237, R238) -/

/-- The record a SOF or ITP makes at the port's speed. -/
def sofRecord (speed : UsbSpeed) (old : SofRec) (number : Nat) : SofRec :=
  match speed with
  | .full => ⟨number % 2048, 0, true⟩
  | .high => ⟨number % 2048, if old.valid ∧ old.frame = number % 2048 then (old.micro + 1) % 8 else 0, true⟩
  | _ => ⟨number / 8 % 2048, number % 8, true⟩

def execSofReceived (p : Port) (number : Nat) (s : State) : Host.Outcome State Fault Refusal :=
  .next <|
    if !(s.port p).live then s
    else (s.modPort p fun q => { q with sof := sofRecord q.speed q.sof number }).modSaf fun q => { q with lastSof := p }

def execSofTimeout (p : Port) (s : State) : Host.Outcome State Fault Refusal :=
  .next <| s.modPort p fun q => { q with sof := { q.sof with valid := false } }

/-! ### Link power (R243 to R245) -/

/-- A host-initiated entry is accepted into link state `to` or rejected, by LINKPM alone (R244, R245). -/
def linkEntry (s : State) (p : Port) (accept : Bool) (state : Nat) (yes no : WireAnswer) : State :=
  s.modPort p fun q =>
    if accept then { q with link := state, lpmAcc := count 0xFF q.lpmAcc, answer := yes }
    else { q with lpmRej := count 0xFF q.lpmRej, answer := no }

def execU1U2Entry (p : Port) (u2 : Bool) (s : State) : Host.Outcome State Fault Refusal :=
  .next <|
    if !(s.port p).live ∨ !(s.port p).super then s
    else linkEntry s p ((s.portCfg p).linkPm.testBit (if u2 then 1 else 0)) (if u2 then 2 else 1) .lau .lxu

def execLpmToken (p : Port) (s : State) : Host.Outcome State Fault Refusal :=
  .next <|
    if !(s.port p).live ∨ (s.port p).super then s
    else linkEntry s p ((s.portCfg p).linkPm.testBit 2) 1 .ack .stall

/-- CLEAR_FEATURE(ENDPOINT_HALT) of an endpoint: it answers again, from DATA0 or sequence number 0 (R233, R234). -/
def EpState.cleared (e : EpState) : EpState := { e with seq := 0, halted := false }

/-- A request to an endpoint of a configured function, or of the hub; STALL for one that is not there (R223). -/
def onEndpoint (s : State) (p : Port) (k ep : Nat) (f : EpState → EpState) : State :=
  if (s.port p).hasEp k ep then answerControl (modEp s p k ep f) p 0 .ack
  else if (s.port p).live then answerWire s p .stall
  else s

/-- The host enables or disables remote wake, or device-initiated U1 or U2, which the port records and never uses (R243). U1
and U2 are features of SuperSpeed (R223). A halted endpoint answers every packet with STALL. -/
def execSetFeatureDevice (p : Port) (f : DeviceFeature) (on : Bool) (s : State) : Host.Outcome State Fault Refusal :=
  .next <|
    let q := s.port p
    let feature := fun (super : Bool) (set : PortState → PortState) =>
      if !q.live then s
      else if !q.configured ∨ (super ∧ !q.super) then answerWire s p .stall
      else answerControl (s.modPort p set) p 0 .ack
    match f with
    | .remoteWake => feature false fun q => { q with wakeEn := on }
    | .u1Enable => feature true fun q => { q with u1Enable := on }
    | .u2Enable => feature true fun q => { q with u2Enable := on }
    | .endpointHalt k ep => onEndpoint s p k ep fun e => if on then { e with halted := true } else e.cleared

/-- R223: STALL on endpoint 0, and nothing changes. -/
def execUnsupportedRequest (p : Port) (_k : Nat) (s : State) : Host.Outcome State Fault Refusal :=
  .next <| if (s.port p).live then answerWire s p .stall else s

/-! ### Configuration and interfaces (R229, R233, R234, R247, R252, R281, R326) -/

/-- The function that embedded port k carries connects: the management function on port 1, or the Plot that holds k, while
it is Open or Read-only (R252, R254). -/
def connectFn (s : State) (p : Port) (k : Nat) : State :=
  let e := (s.port p).emb.getD k Reset.emb
  if e.conn ∨ !e.powered then s
  else if k = 1 then
    if e.chg then modEmb s p 1 fun e => { e with deferred := true }
    else modEmb s p 1 fun e => { e with conn := true, chg := true, reported := false, enabled := (s.port p).super, selected := false, alt := 0 }
  else match e.holder with
    | some n => if (s.plot n).mode.up ∨ 64 ≤ n then connectEmb s p k n else s
    | none => s

/-- The hub's configuration is selected: its event queue starts empty with SEQ 1 (R281), and its functions connect. -/
def configureHub (s : State) (p : Port) : State :=
  let s := s.modPort p fun q => { q with configured := true }
  let s := answerControl (selectEps s p 0 0) p 0 .ack
  let s := s.modPfn p fun q => { q with events := [], evSeq := 1, overflow := 0, gpioAcc := 0 }
  (List.range 15).foldl (fun (s : State) i => connectFn s p (i + 1)) s

/-- SET_CONFIGURATION of the hub (k = 0) or of the function on embedded port k. Value 0 takes the configuration away; the
hub's goes as in an upstream reset (log 25). -/
def execSetConfiguration (p : Port) (k : Nat) (value : Nat) (s : State) : Host.Outcome State Fault Refusal :=
  .next <|
    if !(s.port p).live then s
    else if k = 0 then
      if value = 0 then answerWire (serveReads (resetPort s p)) p .ack else configureHub s p
    else if !(s.port p).reaches k then s
    else if value = 0 then
      answerControl (modEmb (s.modPort p fun q => { q with eps := q.eps.filter (·.k != k) }) p k fun e => { e with selected := false }) p 0 .ack
    else answerControl (modEmb (selectEps s p k 0) p k fun e => { e with selected := true, alt := 0 }) p 0 .ack

/-- The highest alternate setting of the function on embedded port k: UAS on a Volume Plot (Table PRT-3). -/
def State.lastAlt (s : State) (p : Port) (k : Nat) : Nat :=
  match ((s.port p).emb.getD k Reset.emb).holder with
  | some n => if ((s.plotCfg? n).map (·.credential)).getD false then 0 else 1
  | none => 0

/-- SET_INTERFACE: the interface's buffers and toggles start afresh (R233, R247); an interface the function does not have is
answered with STALL (R223). -/
def execSetInterface (p : Port) (k : Nat) (alt : Nat) (s : State) : Host.Outcome State Fault Refusal :=
  .next <|
    if k = 0 then
      if !(s.port p).live then s
      else if !(s.port p).configured ∨ alt ≠ 0 then answerWire s p .stall
      else answerControl (selectEps s p 0 0) p 0 .ack
    else if !(s.port p).reaches k then s
    else if !(s.port p).bulk k ∨ s.lastAlt p k < alt then answerWire s p .stall
    else answerControl (modEmb (selectEps s p k alt) p k fun e => { e with alt := alt }) p 0 .ack

/-- CLEAR_FEATURE(ENDPOINT_HALT): that endpoint restarts at DATA0 or sequence number 0 (R233, R234). -/
def execClearEndpointHalt (p : Port) (k ep : Nat) (s : State) : Host.Outcome State Fault Refusal :=
  .next (onEndpoint s p k ep (·.cleared))

/-! ### The hub's status endpoint and requests on embedded ports (R254, R257 to R259) -/

/-- A change of the embedded port: its connection, the end of a reset, or the end of a suspend. -/
def EmbPort.changed (e : EmbPort) : Bool := e.chg || e.cReset || e.cSuspend

/-- Bit k: embedded port k has a change. -/
def changeBits (emb : List EmbPort) : Nat := (List.range 16).foldl (fun n k => n + bitOf (emb.getD k Reset.emb).changed k) 0

/-- The host has read the status endpoint and knows every change. Those of reset and suspend, which no row of the command table
clears, go with it (DESIGN CHOICE, log 108). -/
def reportChanges (s : State) (p : Port) (a : WireAnswer) : State :=
  s.modPort p fun q => { q with
    hubStatus := changeBits q.emb
    emb := q.emb.map fun e => { e with reported := e.reported || e.chg, cReset := false, cSuspend := false }
    answer := a }

/-- The host polls the status endpoint and learns every change. -/
def execHubStatusPoll (p : Port) (s : State) : Host.Outcome State Fault Refusal :=
  .next <|
    let q := s.port p
    if !q.live ∨ !q.configured then s
    else if changeBits q.emb = 0 then reportChanges s p (if q.super then .nrdy else .nak)
    else
      let (s, ok) := inTransfer s p 0 0x81 2
      if ok then reportChanges s p (.data 2) else s

/-- Abort what the function on embedded port k has in progress, with R43 applied, and drop its capsules (R259, R267). -/
def abortFn (s : State) (p : Port) (k : Nat) : State :=
  if k = 1 then dropCapsule s p .management
  else match ((s.port p).emb.getD k Reset.emb).holder with
    | some n => dropCapsule (abortPort s p (taskOfPlot n)) p (.credential n)
    | none => s

/-- A request on embedded port k, 1 to 15, reaches a configured hub. -/
def onEmb (s : State) (p : Port) (k : Nat) (run : State → State) : State :=
  if !(s.port p).live ∨ !(s.port p).configured ∨ k = 0 ∨ 16 ≤ k then s else answerControl (serveReads (run s)) p 0 .ack

def dropEps (s : State) (p : Port) (k : Nat) : State := s.modPort p fun q => { q with eps := q.eps.filter (·.k != k) }

/-- CLEAR_FEATURE(PORT_POWER): powered off and disconnected; no Plot state changes (R259). A connect that waits under R258
waits on. -/
def execClearPortPower (p : Port) (k : Nat) (s : State) : Host.Outcome State Fault Refusal :=
  .next <| onEmb s p k fun s => modEmb (dropEps (abortFn s p k) p k) p k fun e =>
    { e with powered := false, conn := false, enabled := false, suspended := false, resetting := false, selected := false, alt := 0
             cReset := false, cSuspend := false }

/-- SET_FEATURE(PORT_POWER): the function held there reconnects, whatever change still stands (R259). -/
def execSetPortPower (p : Port) (k : Nat) (s : State) : Host.Outcome State Fault Refusal :=
  .next <| onEmb s p k fun s =>
    let e := (s.port p).emb.getD k Reset.emb
    if e.powered then s
    else if e.deferred then modEmb s p k fun e => { e with powered := true }
    else
      let t := connectFn (modEmb s p k fun e => { e with powered := true, chg := false }) p k
      if ((t.port p).emb.getD k Reset.emb).conn then t else modEmb s p k fun e => { e with powered := true }

/-- PORT_RESET: the function's commands are aborted and its USB state returns to default; UNIT ATTENTION follows (R259, R296). -/
def resetEmb (s : State) (p : Port) (k : Nat) : State :=
  onEmb s p k fun s =>
    let e := (s.port p).emb.getD k Reset.emb
    if !e.conn then s
    else
      let s := dropEps (abortFn s p k) p k
      let s := match e.holder with | some n => if k = 1 then s else addAttention s p n | none => s
      modEmb s p k fun e => { e with resetting := true, enabled := false, suspended := false, selected := false, alt := 0 }

def execPortReset (p : Port) (k : Nat) (s : State) : Host.Outcome State Fault Refusal := .next (resetEmb s p k)

/-- BH_PORT_RESET, a request of the SuperSpeed hub (R222, R259). -/
def execBhPortReset (p : Port) (k : Nat) (s : State) : Host.Outcome State Fault Refusal :=
  .next <|
    if (s.port p).live ∧ !(s.port p).super then answerWire s p .stall else resetEmb s p k

/-- The reset ends: the port is enabled, with C_PORT_RESET set (R222). -/
def execEmbPortResetDone (p : Port) (k : Nat) (s : State) : Host.Outcome State Fault Refusal :=
  .next <| modEmb s p k fun e => if e.resetting then { e with resetting := false, enabled := true, cReset := true } else e

/-- CLEAR_FEATURE(PORT_ENABLE), a request of the USB 2.0 hub (R259). -/
def execClearPortEnable (p : Port) (k : Nat) (s : State) : Host.Outcome State Fault Refusal :=
  .next <|
    if (s.port p).live ∧ (s.port p).super then answerWire s p .stall
    else onEmb s p k fun s => modEmb (abortFn s p k) p k fun e => { e with enabled := false }

/-- PORT_SUSPEND, or U3 of the embedded link, set or cleared by the host: the function only. The end of a suspend sets
C_PORT_SUSPEND (R222, R259). -/
def execPortSuspend (p : Port) (u : SuspendChange) (s : State) : Host.Outcome State Fault Refusal :=
  .next <| onEmb s p u.k fun s => modEmb s p u.k fun e =>
    if e.conn && e.enabled then { e with suspended := u.on, cSuspend := e.cSuspend || (e.suspended && !u.on) } else e

/-- The host clears C_PORT_CONNECTION: the port is free of its change, and a deferred connect is presented (R258). -/
def execClearCPortConnection (p : Port) (k : Nat) (s : State) : Host.Outcome State Fault Refusal :=
  .next <| onEmb s p k fun s =>
    let e := (s.port p).emb.getD k Reset.emb
    let s := modEmb s p k fun e => { e with chg := false, reported := false, deferred := false }
    if e.deferred then connectFn s p k else s

/-- The transaction translator never carries traffic: accepted with no effect (R250). -/
def acceptTt (s : State) (p : Port) : State :=
  if (s.port p).live ∧ (s.port p).configured then (if (s.port p).super then answerWire s p .stall else answerControl s p 0 .ack) else s

def execClearTtBuffer (p : Port) (s : State) : Host.Outcome State Fault Refusal := .next (acceptTt s p)
def execResetTt (p : Port) (s : State) : Host.Outcome State Fault Refusal := .next (acceptTt s p)

/-! ### GPIO (Table LAY-9, Table FNC-10) -/

/-- Whether a GPIO output of function `code` is asserted. -/
def State.gpioOut (s : State) (code : Nat) : Bool :=
  match code with
  | 1 => s.fn.tasks.any (·.statusDue)
  | 2 => !s.saf.scopes.isEmpty
  | 3 => s.plots.any fun p => p.mode.up
  | 4 => decide (s.pwr.state = .dark)
  | _ => false

/-- The configuration bytes of GPIO 0 to 7 as (bit, function, active low). -/
def State.gpioCfg (s : State) : List (Nat × Nat × Bool) :=
  match s.layout with
  | none => []
  | some l => (List.range 8).map fun i => let b := (l.gpio.getD i 0).toNat; (i, b % 128, decide (128 ≤ b))

/-- The bits of `x` among the GPIOs of one function code. -/
def gpioMask (cfg : List (Nat × Nat × Bool)) (code : Nat) : Nat :=
  cfg.foldl (fun n c => if c.2.1 = code then n + 2 ^ c.1 else n) 0

/-- A sample of the inputs after polarity: 1 is asserted. -/
def gpioSampleBits (cfg : List (Nat × Nat × Bool)) (levels : Nat) : Nat :=
  cfg.foldl (fun n c => if (c.2.1 = 5 ∨ c.2.1 = 6) ∧ levels.testBit c.1 ≠ c.2.2 then n + 2 ^ c.1 else n) 0

/-- The levels driven on the output pins, after polarity (Table LAY-9). -/
def State.gpioPins (s : State) : Nat :=
  s.gpioCfg.foldl (fun n c => if 1 ≤ c.2.1 ∧ c.2.1 ≤ 4 then n + bitOf (s.gpioOut c.2.1 != c.2.2) c.1 else n) 0

/-- The asserted outputs. -/
def State.gpioOutBits (s : State) : Nat := s.gpioCfg.foldl (fun n c => n + bitOf (s.gpioOut c.2.1) c.1) 0

/-- A GPIO record on one port: at most one per millisecond, with the changes since the last. -/
def gpioRecord (s : State) (p : Port) (changed : Nat) : State :=
  let q := s.pfn p
  let acc := q.gpioAcc ||| changed
  if !(s.port p).configured then s.modPfn p fun q => { q with gpioAcc := 0 }
  else if acc = 0 then s
  else if q.gpioTime ≠ 0 ∧ s.timeUs < q.gpioTime + 1000 then s.modPfn p fun q => { q with gpioAcc := acc }
  else
    let s := queueEvent s p 0x0040 0xFFFF (s.fn.gpioLevel ||| s.gpioOutBits) acc
    s.modPfn p fun q => { q with gpioAcc := 0, gpioTime := s.timeUs }

/-- One sample of the inputs, every 100 µs: a general input changes once stable over three samples; a wake input's assertion
is a wake trigger (R239). The first sample after the start only sets the levels. -/
def execGpioSample (levels : BitVec 8) (s : State) : Host.Outcome State Fault Refusal :=
  .next <|
    let cfg := s.gpioCfg
    if cfg.isEmpty ∨ s.pwr.state = .off then s
    else
      let now := gpioSampleBits cfg levels.toNat
      match s.fn.gpioRaw with
      | [] => s.modFn fun q => { q with gpioRaw := [now, now], gpioLevel := now }
      | last :: older =>
        let prev := older.headD last
        let stable := 255 - ((now ^^^ last) ||| (now ^^^ prev))
        let level := (now &&& stable) ||| (s.fn.gpioLevel &&& (255 - stable))
        let changed := (level ^^^ s.fn.gpioLevel) &&& gpioMask cfg 5
        let woken := now &&& (255 - last) &&& gpioMask cfg 6
        let s := s.modFn fun q => { q with gpioRaw := [now, last], gpioLevel := level }
        let s := if woken = 0 then s else wakeTriggers s 0
        s.member.portList.foldl (fun (s : State) p => gpioRecord s p changed) s

end Sys2Proof.Machine
end

