-- ==== Sys2Proof/Machine/Descriptors.lean ====
section
/-! DEFINITION. What a port presents in its descriptors (R222, R223, R235, R236, R245, R246, R248 to R251; Tables PRT-1, PRT-3):
the identity of the hub and of every function, their interfaces and endpoints, the hub descriptor, the BOS capabilities, and the
two hubs of a SuperSpeed port. No row of the command table asks for a descriptor: these are functions of the state, and they change
nothing. -/

namespace Sys2Proof.Machine

/-- A USB device of a port: its hub, or the function behind an embedded port. -/
inductive UsbDevice where
  | hub | management | volume (n : Nat) | credential (n : Nat)
deriving DecidableEq, Repr

/-- An endpoint beyond endpoint 0: interrupt or bulk, its packet size, its burst and its streams. -/
structure EndpointDesc where
  ep : Nat
  interrupt : Bool
  packet : Nat
  burst : Nat
  streams : Nat
deriving DecidableEq, Repr

/-- An alternate setting of a function's one interface, with its class triple. -/
structure InterfaceDesc where
  alt : Nat
  cls : Nat
  sub : Nat
  protocol : Nat
  endpoints : List EndpointDesc
deriving DecidableEq, Repr

/-- The device and configuration descriptors of one USB device, with its strings. -/
structure DeviceDesc where
  vendor : Nat
  product : Nat
  release : Nat
  packet0 : Nat              -- bytes of endpoint 0
  interfaces : List InterfaceDesc
  selfPowered : Bool
  maxPower : Nat             -- bMaxPower, in the unit of the speed
  mfrText : List Byte
  productText : List Byte
  serialText : List Byte
deriving DecidableEq, Repr

/-- The hub descriptor (R250). -/
structure HubDesc where
  ports : Nat
  removable : List Nat       -- the ports whose device can be removed
  compound : Bool
  portPowerSwitching : Bool
  overCurrent : Bool
  translators : Nat          -- transaction translators, at USB 2.0
deriving DecidableEq, Repr

/-- The BOS capabilities: LPM at USB 2.0, and the exit latencies of U1 and U2 in microseconds at SuperSpeed. -/
inductive BosDesc where
  | usb2 (lpm : Bool)
  | superSpeed (u1Exit u2Exit : Nat)
deriving DecidableEq, Repr

/-- The USB device that stands behind embedded port k of a port, while it is connected. -/
def State.deviceOf (s : State) (p : Port) (k : Nat) : Option UsbDevice :=
  let e := (s.port p).emb.getD k Reset.emb
  if k = 0 then some .hub
  else if !e.conn then none
  else if k = 1 then some .management
  else e.holder.map fun n => if ((s.plotCfg? n).map (·.credential)).getD false then .credential n else .volume n

/-- Bytes of endpoint 0 (Table PRT-3). -/
def packet0 (speed : UsbSpeed) : Nat := if 3 ≤ speedCode speed then 512 else 64

/-- The hub class triple, which the hub class fixes for the speed: protocol 0 at full speed, 1 (one translator) at high speed
and 3 at SuperSpeed (PRESUMED from the hub class; log 74). -/
def hubProtocol : UsbSpeed → Nat
  | .none => 0 | .full => 0 | .high => 1 | _ => 3

/-- The speed at which a hub or function of a port is seen: the link's, or, for the USB 2.0 hub beside a SuperSpeed link, high
speed (R251; PRESUMED, log 74). -/
def State.speedAs (s : State) (p : Port) (super : Bool) : UsbSpeed :=
  if super = (s.port p).super then (s.port p).speed else .high

/-- The bulk endpoints of an interface, with what their buffers of Table PRT-4 advertise. -/
def State.bulkEndpoints (s : State) (p : Port) (k alt : Nat) : List EndpointDesc :=
  let q := s.port p
  (carveEps k alt ((s.portCfg p).carve.getD k 0)).map fun e =>
    let a := advertised q.super alt e
    ⟨e.ep, false, bulkPacket q.speed, a.burst, a.streams⟩

/-- The interfaces of a USB device on embedded port k: class triples and endpoints of Table PRT-3. The hub's status endpoint,
which the table gives no address, is 0x81 (DESIGN CHOICE, log 102). -/
def State.interfacesOf (s : State) (p : Port) (k : Nat) (super : Bool) : UsbDevice → List InterfaceDesc
  | .hub => [⟨0, 0x09, 0, hubProtocol (s.speedAs p super), [⟨0x81, true, 2, 0, 0⟩]⟩]
  | .management => [⟨0, 0xFF, 0x5A, 0x01, s.bulkEndpoints p k 0⟩]
  | .volume _ => [⟨0, 0x08, 0x06, 0x50, s.bulkEndpoints p k 0⟩, ⟨1, 0x08, 0x06, 0x62, s.bulkEndpoints p k 1⟩]
  | .credential _ => [⟨0, 0xFF, 0x5A, 0x02, s.bulkEndpoints p k 0⟩]

/-- The serial string of a USB device (Table PRT-3). -/
def State.deviceSerial (s : State) : UsbDevice → List Byte
  | .hub => s.serialOf []
  | .management => s.serialOf [0x2D, 0x4D]
  | .volume n => s.serialText n
  | .credential n => s.serialText n

/-- bMaxPower of the hub: halves of 2 mA at USB 2.0, at most 250, and units of 8 mA at SuperSpeed; a function draws nothing. -/
def State.maxPowerOf (s : State) (p : Port) (super : Bool) : UsbDevice → Nat
  | .hub => if super then ceilDiv (s.portCfg p).maxPower 8 else min 250 (ceilDiv (s.portCfg p).maxPower 2)
  | _ => 0

/-- What the USB device on embedded port k presents at SuperSpeed or at USB 2.0 (R249, Table PRT-3). The functions are on the
link's own hub; both hubs of a SuperSpeed port have descriptors (R251). -/
def State.descriptor (s : State) (p : Port) (k : Nat) (super : Bool) (d : UsbDevice) : DeviceDesc :=
  let c := s.portCfg p
  { vendor := c.vid, product := c.pid, release := c.bcdDevice, packet0 := packet0 (s.speedAs p super), interfaces := s.interfacesOf p k super d
    selfPowered := (if d = .hub then c.attr.testBit 0 else true), maxPower := s.maxPowerOf p super d
    mfrText := ((s.layout).map (·.mfr)).getD [], productText := ((s.layout).map (·.product)).getD [], serialText := s.deviceSerial d }

/-- The hub descriptor of either hub (R250). -/
def hubDescriptor (super : Bool) : HubDesc := ⟨15, [], true, true, false, if super then 0 else 1⟩

/-- The BOS capabilities of a port at SuperSpeed or at USB 2.0 (R245, R246). -/
def State.bos (s : State) (p : Port) (super : Bool) : BosDesc :=
  if super then .superSpeed 4 400 else .usb2 ((s.portCfg p).linkPm.testBit 2)

/-- A hub of a port at SuperSpeed, or its USB 2.0 hub: there is a SuperSpeed hub on a SuperSpeed link only (R251). -/
def State.hasHub (s : State) (p : Port) (super : Bool) : Bool := (s.port p).live && (!super || (s.port p).super)

/-- PORT_CONNECTION and C_PORT_CONNECTION of embedded port k as that hub reports them. The USB 2.0 hub beside a SuperSpeed link
reports every port empty (R251). -/
def State.hubPort (s : State) (p : Port) (super : Bool) (k : Nat) : Bool × Bool :=
  let e := (s.port p).emb.getD k Reset.emb
  if super = (s.port p).super then (e.conn, e.chg) else (false, false)

/-! ### GET_STATUS (R222; bit places PRESUMED from USB 2.0, USB 3.2 and the hub class, log 74) -/

/-- Device status of the hub: self-powered, remote wake enabled, and at SuperSpeed U1 and U2 enabled. -/
def State.hubDeviceStatus (s : State) (p : Port) : Nat :=
  let q := s.port p
  bitOf ((s.portCfg p).attr.testBit 0) 0 + bitOf (!q.super && q.wakeEn) 1 + bitOf (q.super && q.u1Enable) 2 + bitOf (q.super && q.u2Enable) 3

/-- Endpoint status: halted. -/
def State.endpointStatus (s : State) (p : Port) (k ep : Nat) : Option Nat := ((s.port p).ep? k ep).map fun e => bitOf e.halted 0

/-- Port status and port change of embedded port k on the hub of the link's speed. -/
def EmbPort.status (e : EmbPort) (speed : UsbSpeed) : Nat × Nat :=
  if 3 ≤ speedCode speed then
    (bitOf e.conn 0 + bitOf e.enabled 1 + bitOf e.resetting 4 + (if e.suspended then 3 * 2 ^ 5 else if e.conn then 0 else 5 * 2 ^ 5) + bitOf e.powered 9,
     bitOf e.chg 0 + bitOf e.cReset 4 + bitOf e.cSuspend 6)
  else
    (bitOf e.conn 0 + bitOf e.enabled 1 + bitOf e.suspended 2 + bitOf e.resetting 4 + bitOf e.powered 8 + bitOf (e.conn && speed == .high) 10,
     bitOf e.chg 0 + bitOf e.cSuspend 2 + bitOf e.cReset 4)

/-- What GET_STATUS of embedded port k answers on either hub: on the USB 2.0 hub beside a SuperSpeed link, a powered empty
port (R251). -/
def State.portStatus (s : State) (p : Port) (super : Bool) (k : Nat) : Nat × Nat :=
  let e := (s.port p).emb.getD k Reset.emb
  if super = (s.port p).super then e.status (s.port p).speed else (bitOf e.powered 8, 0)

end Sys2Proof.Machine
end

