-- ==== Sys2Proof/Machine/RegMap.lean ====
section
/-! DEFINITION. The register map of the Control space (chapter "Control space index", Tables IDX-1 and IDX-2): which register
an address names, and the value each register reads as. A register that is a view of other state is composed here. -/

namespace Sys2Proof.Machine

/-! ### Blocks (R656, R657) -/

/-- The place an address names: a block, the instance within it, and the offset. -/
inductive RegPlace where
  | glb (o : Nat) | arb (o : Nat) | saf (o : Nat) | sem (o : Nat) | plt (n o : Nat) | grn (o : Nat)
  | region (r o : Nat) | mpu (o : Nat) | bnk (b o : Nat) | win (o : Nat) | cph (e o : Nat) | prt (p o : Nat)
  | stk (o : Nat) | fld (f o : Nat) | chn (c o : Nat) | reserved
deriving DecidableEq, Repr

/-- Table IDX-1. -/
def regPlace (a : Nat) : RegPlace :=
  if a < 0x4000 then .glb a
  else if a < 0x8000 then .arb (a - 0x4000)
  else if a < 0x10000 then .saf (a - 0x8000)
  else if a < 0x14000 then .sem (a - 0x10000)
  else if a < 0x18000 then .plt ((a - 0x14000) / 0x100) (a % 0x100)
  else if a < 0x20000 then .reserved
  else if a < 0x30000 then .grn (a - 0x20000)
  else if a < 0x34000 then .region ((a - 0x30000) / 16) (a % 16)
  else if a < 0x40000 then .mpu (a - 0x34000)
  else if a < 0x4C000 then .bnk ((a - 0x40000) / 0x100) (a % 0x100)
  else if a < 0x50000 then .win (a - 0x4C000)
  else if a < 0x58000 then .cph ((a - 0x50000) / 0x400) (a % 0x400)
  else if a < 0x60000 then .reserved
  else if a < 0x70000 then .prt ((a - 0x60000) / 0x8000) (a % 0x8000)
  else if a < 0x80000 then .stk (a - 0x70000)
  else if a < 0x90000 then .fld ((a - 0x80000) / 0x1000) (a % 0x1000)
  else if a < 0x100000 then .reserved
  else if a < 0x160000 then .chn ((a - 0x100000) / 0x1000) (a % 0x1000)
  else .reserved

/-- The offset lies in one of these ranges, each a first offset and a number of words. -/
def inWords (ranges : List (Nat × Nat)) (o : Nat) : Bool := ranges.any fun r => decide (r.1 ≤ o) && decide (o < r.1 + 4 * r.2)

/-- Table IDX-2 and the member's instances (R30): whether the address names a register or a window. -/
def regKnown (m : Member) (a : Nat) : Bool :=
  match regPlace a with
  | .glb o => inWords [(0x0, 5), (0x20, 1), (0x100, 3), (0x110, 2), (0x118, 1), (0x120, 12), (0x160, 3), (0x170, 1),
      (0x200, 3), (0x210, 3), (0x220, 1), (0x240, 12), (0x300, 4), (0x400, 3), (0x500, 1)] o
  | .arb o => inWords [(0x0, 8), (0x40, 8), (0x80, 3), (0xA0, 2), (0xC0, 1)] o
  | .saf o => inWords [(0x0, 2), (0x10, 3), (0x1C, 4), (0x30, 2), (0x40, 5), (0x60, 2), (0x2000, 2048)] o
  | .sem o => inWords [(0x0, 128), (0x200, 4), (0x210, 2)] o
  | .plt n o => decide (n < m.plots) && inWords [(0x0, 7)] o
  | .grn o => inWords [(0x0, 6), (0x20, 3), (0x100, 64), (0x200, 64)] o
  | .region r o => decide (r < m.mpuRegions) && inWords [(0x0, 3)] o
  | .mpu o => inWords [(0x0, 1), (0x4000, 256), (0x4400, 2)] o
  | .bnk b o => decide (b < m.banks) && inWords [(0x0, 6)] o
  | .win o => inWords [(0x0, 8), (0x1000, 1024)] o
  | .cph e o => decide (e < m.ciphers) && inWords [(0x0, 2)] o
  | .prt p o => decide (p < m.ports) && inWords [(0x0, 6), (0x40, 16)] o
  | .stk o => m.hasStack && inWords [(0x0, 1), (0x10, 1), (0x20, 1), (0x40, 4), (0x50, 4), (0x60, 3), (0x70, 1), (0x80, 5)] o
  | .fld f o => decide (f < m.fields) && inWords [(0x0, 15), (0x100, 11), (0x200, 4)] o
  | .chn c o => decide (c < m.channels) && inWords [(0x0, 1), (0x10, 8), (0x40, 4)] o
  | .reserved => false

/-- The aperture (Table IDX-2). -/
def isAperture (a : Nat) : Bool := decide (0x4D000 ≤ a) && decide (a < 0x4E000)

/-- Registers that each of 0x80, 0x81 and 0x82 has a copy of (R659); JTAG has one of the Granary registers only. -/
def isBanked (a : Nat) : Bool :=
  match regPlace a with
  | .grn o => inWords [(0x8, 3), (0x100, 64)] o
  | .win _ => true
  | .stk o => inWords [(0x80, 4)] o
  | _ => false

/-- The identity reaches its own copy of a banked register (R659). -/
def reachesBank (id : Identity) (a : Nat) : Bool :=
  isHostId id || (id == idJtag && match regPlace a with | .grn _ => true | _ => false)

/-- Registers that can be read with no layout active (R660). -/
def readableBare (a : Nat) : Bool :=
  match regPlace a with
  | .glb _ => true | .arb _ => true | .saf _ => true | .sem _ => true | .grn _ => true | .prt _ _ => true
  | _ => false

/-! ### Values -/

/-- A register value from its fields: lowest bit, width, value; reserved bits read zero (R8). -/
def packWord (l : List (Nat × Nat × Nat)) : Word := w32 ((l.map fun x => x.2.2 % 2 ^ x.2.1 * 2 ^ x.1).sum)

def nat1 (b : Bool) : Nat := if b then 1 else 0

/-- Bits 32 × i to 32 × i + 31 of a set of numbers. -/
def wordOfSet (i : Nat) (p : Nat → Bool) : Word := w32 (bitset ((List.range 32).filter fun j => p (32 * i + j)))

/-- Word `i` of a run of bytes. -/
def wordOfBytes (b : List Byte) (i : Nat) : Word := w32 (leNat (slice b (4 * i) 4))

def slotWord (x : SlotState) : Word :=
  packWord [(0, 20, if x.epochOver then 0xFFFFF else x.epoch), (20, 1, nat1 x.epochOver), (21, 1, nat1 x.checked), (24, 8, x.reason)]

/-- `SEC_STAT`; TAMPER_N's rise comes with no command, so after a tamper its level is open (log 3). -/
def State.secStat (s : State) : Word :=
  packWord [(0, 2, s.sec.level), (2, 1, nat1 s.sec.root), (3, 1, nat1 s.sec.keyHash), (4, 1, nat1 s.sec.provId),
    (5, 1, nat1 s.sec.entropyOk), (6, 1, nat1 s.sec.drbgReady), (7, 1, nat1 (s.sec.tamperLow && Config.freeBool s.free)), (8, 1, nat1 s.sec.lowering)]

/-- `PWR_START`.STEP: step 1 takes no time once the rails are up, and the wait for the reference is step 2 (R196). -/
def State.startStep (s : State) : Nat := if s.pwr.step = 1 ∧ s.pwr.railsUp then 2 else s.pwr.step

def glbValue (s : State) (o : Nat) : Word :=
  if 0x110 ≤ o ∧ o < 0x118 then slotWord (s.lay.slots.getD ((o - 0x110) / 4) Reset.slot)
  else if 0x120 ≤ o ∧ o < 0x150 then wordOfBytes s.lay.digest ((o - 0x120) / 4)
  else if 0x160 ≤ o ∧ o < 0x16C then wordOfSet ((o - 0x160) / 4) s.lay.recipePend.contains
  else if 0x240 ≤ o ∧ o < 0x270 then
    let k := (o - 0x240) / 4
    packWord [(0, 12, signedField 12 (s.pwr.sens.getD (2 * k) 0)), (16, 12, signedField 12 (s.pwr.sens.getD (2 * k + 1) 0))]
  else match o with
  | 0x0 => glbId s.member s.stepping
  | 0x4 => s.member.param0
  | 0x8 => s.member.param1
  | 0xC => s.member.param2
  | 0x10 => s.member.param3
  | 0x20 => w32 s.glbSafe
  | 0x100 => packWord [(0, 3, s.lay.op), (3, 1, nat1 s.layBusy), (4, 1, slotIndex s.lay.activeSlot), (5, 1, nat1 s.hasLayout),
      (6, 1, nat1 (!s.lay.recipePend.isEmpty)), (8, 8, s.lay.result)]
  | 0x104 => packWord [(0, 20, s.epoch)]
  | 0x108 => packWord [(0, 20, s.counter0), (20, 1, nat1 (s.counter0 == counterMax))]
  | 0x170 => packWord [(0, 20, s.lay.errOffset), (24, 8, s.lay.errAt)]
  | 0x200 => packWord [(0, 3, s.pwr.cause), (3, 1, nat1 s.pwr.railDip)]
  | 0x204 => packWord [(0, 4, s.startStep), (4, 1, nat1 (s.fields.any (·.replaying))), (8, 16, s.pwr.attach), (24, 8, s.pwr.b)]
  | 0x214 => packWord [(0, 3, powerCode s.pwr.state), (3, 1, nat1 s.pwr.xfer.isSome), (4, 3, s.pwr.result), (7, 1, nat1 s.pwr.bySuspend),
      (8, 2, s.pwr.target), (10, 1, nat1 (s.portA.link == 3)), (11, 1, nat1 (s.portB.link == 3))]
  | 0x218 => w32 s.pwr.dimReg
  | 0x220 => packWord [(0, 12, signedField 12 s.pwr.tj), (12, 5, s.pwr.tjSensor), (17, 1, nat1 s.pwr.alert), (20, 12, signedField 12 s.pwr.peak)]
  | 0x300 => s.secStat
  | 0x30C => w32 s.sec.result
  | 0x400 => loHalf s.wall.e
  | 0x404 => hiHalf s.wall.e
  | 0x408 => packWord [(0, 8, signedField 8 s.wall.offTj), (8, 1, nat1 s.wall.set)]
  | 0x500 => packWord [(0, 1, nat1 s.hold.ok), (1, 1, nat1 s.hold.pwrFail), (2, 1, nat1 s.pwr.durable), (3, 1, nat1 s.hold.effective),
      (4, 1, nat1 s.hold.holding), (5, 1, nat1 s.hold.sealed), (6, 1, nat1 s.hold.lastSealed), (8, 8, s.hold.holds)]
  | _ => 0

/-- The cipher engine pending or withdrawn by the sweep (`ARB_DISP_OUT`). -/
def State.sweptEngine (s : State) : Option Nat := s.engines.findIdx? fun e => e.pending || e.withdrawn

/-- The arbiter's block. `ARB_DIEQ`.READ_BURST has 6 bits: a layout's READ_BURST of 64 (Table LAY-11) reads as 0 (DESIGN CHOICE,
log 63). -/
def arbValue (s : State) (o : Nat) : Word :=
  if 0x40 ≤ o ∧ o < 0x60 then
    let k := (o - 0x40) / 4
    packWord [(0, 16, s.arb.reserved.getD k 0), (16, 16, (s.arb.tickets.filter (·.cls == k)).length)]
  else match o with
  | 0x0 => loHalf s.arb.ordNext
  | 0x4 => hiHalf s.arb.ordNext
  | 0x8 => loHalf s.arb.ordResume
  | 0xC => hiHalf s.arb.ordResume
  | 0x10 => packWord [(0, 1, nat1 s.arb.lockstep), (1, 1, nat1 s.arb.ordEnd), (2, 1, nat1 (s.sharedFree == 0)), (3, 1, nat1 (noEngine s))]
  | 0x14 => packWord [(0, 16, s.member.pool - s.arb.tickets.length), (16, 16, s.sharedFree)]
  | 0x18 => packWord [(0, 16, s.arb.sharedMin)]
  | 0x1C => packWord [(0, 16, s.arb.tsfA), (16, 16, s.arb.tsfB)]
  | 0x80 => wordOfSet 0 fun e => decide (e < s.engines.length) && (s.engine e).available
  | 0x84 => packWord [(0, 5, s.sweptEngine.getD 0), (8, 1, nat1 s.sweptEngine.isSome)]
  | 0x88 => wordOfSet 0 fun e => (s.engine e).fenced
  | 0xA0 => packWord [(0, 4, s.arb.wdogTime)]
  | 0xA4 => packWord [(0, 8, s.arb.wdogReq), (8, 8, s.arb.wdogResp), (16, 16, s.arb.wdogCount)]
  | 0xC0 => packWord [(0, 6, s.arb.readBurst)]
  | _ => 0

/-- `SAF_REF`: the deviation clamped to its field, 0x8000 for no SOF. -/
def ppmField (p : Option Int) : Nat := match p with | some x => signedField 16 (max (-32767) (min 32767 x)) | none => 0x8000

/-- The time since the last passing strip of each instance that is not fenced (`SAF_SWEEP_AGE`). -/
def State.sweepAge (s : State) : Nat :=
  let age := fun (x : StripRec) => match x.lastPass with | some t => s.timeUs - t | none => 0xFFFF
  let chn := (s.saf.chnStrips.zip s.chans).filterMap fun x => if x.2.fenced then none else some (age x.1)
  let cph := (s.saf.cphStrips.zip s.engines).filterMap fun x => if x.2.fenced then none else some (age x.1)
  let str := (s.saf.strStrips.take (laneCount s.member .structural)).map age
  if s.saf.cycleDone then min 0xFFFF ((chn ++ cph ++ str).foldl max 0) else 0xFFFF

def safValue (s : State) (o : Nat) : Word :=
  if 0x10 ≤ o ∧ o < 0x1C then wordOfSet ((o - 0x10) / 4) fun c => (s.chan c).fenced
  else if 0x2000 ≤ o ∧ o < 0x4000 then
    match s.saf.log.find? fun r => r.seq % 256 == (o - 0x2000) / 32 with
    | some r => wordOfBytes r.bytes (o % 32 / 4)
    | none => 0
  else match o with
  | 0x0 => packWord [(0, 4, s.glbSafe), (4, 1, nat1 (decide (s.sweepAge ≤ 10000))), (5, 1, nat1 (s.saf.deep.state != 0))]
  | 0x4 => packWord [(0, 16, s.saf.causeCode)]
  | 0x1C => wordOfSet 0 fun f => decide (f < 16) && s.inScope 4 f
  | 0x20 => wordOfSet 0 fun n => (s.plot n).mode == .safelight
  | 0x24 => wordOfSet 1 fun n => (s.plot n).mode == .safelight
  | 0x28 => packWord [(0, 1, nat1 (s.inScope 5 0)), (1, 1, nat1 (s.inScope 5 1))]
  | 0x34 => packWord [(0, 1, nat1 s.saf.recPending.isSome), (1, 3, s.saf.recResult), (4, 8, s.saf.recCount)]
  | 0x40 => packWord [(0, 7, s.saf.chnSlot), (7, 1, nat1 s.saf.zqSlot), (8, 7, s.saf.cphSlot), (16, 7, s.saf.strSlot), (24, 8, s.saf.cycle)]
  | 0x44 => packWord [(0, 16, s.sweepAge)]
  | 0x4C => packWord [(0, 2, s.saf.deep.state), (2, 2, s.saf.deep.result), (4, 8, s.saf.deep.failed), (12, 8, s.saf.deep.refused),
      (20, 8, s.saf.deep.requester.toNat)]
  | 0x50 => w32 s.saf.logHead
  | 0x60 => packWord [(0, 16, ppmField s.saf.ppmA), (16, 16, ppmField s.saf.ppmB)]
  | 0x64 => packWord [(0, 5, s.saf.railOut)]
  | _ => 0

def semValue (s : State) (id : Identity) (o : Nat) : Word :=
  if o < 0x200 then
    let w := s.semOwner (o / 4)
    packWord [(0, 8, w.toNat), (8, 1, nat1 (w != idNone)), (9, 1, nat1 (w == id && w != idNone))]
  else if o < 0x210 then wordOfSet ((o - 0x200) / 4) fun n => s.semOwner n != idNone
  else if o = 0x210 then packWord [(0, 8, s.sem.busyA), (8, 8, s.sem.busyB), (16, 8, s.sem.busyStk), (24, 8, s.sem.locked)]
  else packWord [(0, 8, s.sem.lostId.toNat), (8, 8, s.sem.lostCount), (16, 3, s.sem.lostCause), (20, 4, s.sem.forced), (24, 8, s.sem.events)]

def pltValue (s : State) (n o : Nat) : Word :=
  let p := s.plot n
  match o with
  | 0x0 => packWord [(0, 4, p.mode.code), (4, 2, p.health), (6, 1, nat1 p.record.genBit), (7, 1, nat1 p.record.rekeying),
      (8, 8, if p.mode = .erased then 0 else p.record.retry), (16, 8, s.retryLimit n), (24, 1, nat1 p.keys.isSome)]
  | 0x4 => packWord [(0, 20, p.record.rekeys), (20, 1, nat1 (p.record.rekeys == counterMax))]
  | 0xC => packWord [(0, 4, p.pace)]
  | 0x10 => loHalf p.record.rekeyLba
  | 0x14 => packWord [(0, 8, p.record.rekeyLba / 2 ^ 32)]
  | 0x18 => packWord [(0, 3, p.result)]
  | _ => 0

def grnValue (s : State) (id : Identity) (o : Nat) : Word :=
  let b := (s.grnBank? id).getD Reset.grnBank
  let own := match s.grn.erase with | some e => e.req == id && e.suspended && e.bySuspend | none => false
  if 0x100 ≤ o ∧ o < 0x200 then b.data.getD ((o - 0x100) / 4) 0
  else if 0x200 ≤ o ∧ o < 0x300 then
    let v := s.grn.counters.getD ((o - 0x200) / 4) 0
    packWord [(0, 20, v), (20, 1, nat1 (v == counterMax))]
  else match o with
  | 0x8 => packWord [(0, 24, b.addr)]
  | 0xC => packWord [(0, 1, nat1 (b.arm == 2)), (1, 1, nat1 (s.grnPending id)), (2, 1, nat1 b.done), (3, 2, b.corr), (5, 1, nat1 b.warn),
      (6, 1, nat1 s.grn.erase.isSome), (7, 1, nat1 (match s.grn.erase with | some e => e.suspended | none => false)), (8, 1, nat1 own)]
  | 0x10 => packWord [(0, 16, b.err)]
  | 0x14 => packWord [(0, 2, s.grn.cfgWarn)]
  | 0x20 => packWord [(0, 11, s.grnSpares), (11, 11, s.grn.retired.length), (22, 5, s.grn.subs.length), (27, 1, nat1 s.spareOut)]
  | 0x24 => packWord [(0, 12, s.grn.s), (12, 12, s.grn.a % s.member.windowSectors)]
  | 0x28 => packWord [(0, 11, s.grn.poolErased), (11, 11, (s.grn.logs.map (·.sectors)).sum), (22, 8, s.grn.seedCopies)]
  | _ => 0

/-- A violation record as it stands in the window (Table MPU-1). -/
def VioRec.bytes (r : VioRec) : List Byte :=
  leBytes 4 (r.addr % 2 ^ 26 + bitOf r.space 26) ++ leBytes 1 (r.kind + bitOf r.byOwner 2 + bitOf r.part 3) ++ leBytes 1 r.requester.toNat ++
    leBytes 2 r.region ++ leBytes 4 r.time ++ leBytes 2 r.length ++ leBytes 2 r.seq

def regionValue (s : State) (r o : Nat) : Word :=
  let c := s.mpu.region r
  match o with
  | 0x0 => packWord [(0, 26, c.base)]
  | 0x4 => packWord [(0, 5, c.size), (8, 1, nat1 c.enable), (9, 1, nat1 c.space)]
  | 0x8 => packWord [(0, 9, c.read), (16, 9, c.write)]
  | _ => 0

def mpuValue (s : State) (o : Nat) : Word :=
  if 0x4000 ≤ o ∧ o < 0x4400 then
    match s.mpu.records.find? fun r => r.seq % 64 == (o - 0x4000) / 16 with
    | some r => wordOfBytes r.bytes (o % 16 / 4)
    | none => 0
  else match o with
  | 0x0 => packWord [(0, 1, nat1 s.mpu.lock), (1, 1, nat1 s.mpu.refused),
      (2, 1, nat1 (s.mpu.regions.any fun a => s.mpu.regions.any fun b => a.clash b)), (16, 11, (s.mpu.regions.filter (·.enable)).length)]
  | 0x4400 => packWord [(0, 16, s.mpu.head), (16, 7, s.mpu.unread), (24, 8, s.mpu.lost)]
  | _ => 0

def bnkValue (s : State) (b o : Nat) : Word :=
  let k := s.bank b
  match o with
  | 0x0 => packWord [(0, 8, k.owner.toNat)]
  | 0x4 => packWord [(0, 3, k.role), (8, 8, k.field)]
  | 0x8 => packWord [(0, 1, nat1 k.scrubbing), (1, 3, k.result)]
  | 0xC => packWord [(0, 16, k.ce), (16, 16, k.ue)]
  | 0x10 => packWord [(0, 15, k.ueWord), (15, 1, nat1 k.ueParity), (16, 8, k.ueReq.toNat)]
  | 0x14 => packWord [(0, 16, k.near.busy), (16, 16, k.far.busy)]
  | _ => 0

def winValue (s : State) (id : Identity) (o : Nat) : Word :=
  match winIndex id with
  | none => 0
  | some i =>
    let w := s.win i
    match o with
    | 0x0 => packWord [(12, 14, w.page)]
    | 0x4 => packWord [(2, 24, w.atomAddr / 4)]
    | 0x8 => w.opndLo
    | 0xC => w.opndHi
    | 0x14 => w.resLo
    | 0x18 => w.resHi
    | 0x1C => packWord [(0, 1, nat1 w.carry), (1, 1, nat1 w.done), (2, 1, nat1 w.denied), (3, 1, nat1 w.ue), (4, 1, nat1 w.bad)]
    | _ => 0

def cphValue (s : State) (e o : Nat) : Word :=
  let k := s.engine e
  match o with
  | 0x0 => packWord [(0, 2, if k.fenced then 3 else if k.withdrawn then 2 else if k.pending then 1 else 0), (2, 4, k.queue.length)]
  | 0x4 => packWord [(0, 16, k.echoFail), (16, 16, k.clears)]
  | _ => 0

def prtValue (s : State) (n o : Nat) : Word :=
  let p := if n = 0 then Port.a else .b
  let q := s.port p
  let emb := fun (k : Nat) => q.emb.getD k Reset.emb
  if 0x40 ≤ o ∧ o < 0x80 then
    let k := (o - 0x40) / 4
    packWord [(0, 8, if k = 0 then 0xFF else if k = 1 then 0xFE else (emb k).holder.getD 0xFF), (8, 8, (s.portCfg p).carve.getD k 0)]
  else match o with
  | 0x0 => packWord [(0, 1, nat1 q.vbus), (1, 1, nat1 q.flip), (2, 1, nat1 q.connected), (3, 3, speedCode q.speed), (6, 2, q.link),
      (8, 1, nat1 q.configured), (9, 1, nat1 (s.inScope 5 n)), (10, 1, nat1 q.wakeEn), (11, 1, nat1 (!s.hasLayout && !s.lay.starting))]
  | 0x4 => wordOfSet 0 fun k => if k < 16 then decide (1 ≤ k) && (emb k).conn else decide (17 ≤ k) && (emb (k - 16)).chg
  | 0x8 => packWord [(0, 11, q.sof.frame), (11, 3, q.sof.micro), (14, 1, nat1 q.sof.valid)]
  | 0xC => packWord [(0, 8, q.lpmAcc), (8, 8, q.lpmRej)]
  | 0x10 => packWord [(0, 4, (s.portCfg p).wake), (4, 4, q.wakeLast), (8, 8, q.wakeCount)]
  | 0x14 => packWord [(0, 16, q.aborts), (16, 16, q.detaches)]
  | _ => 0

def linkValue (k : LinkState) : Word := packWord [(0, 1, nat1 k.up), (1, 4, k.lock), (8, 8, k.replays), (16, 8, k.downs)]

def stkValue (s : State) (id : Identity) (o : Nat) : Word :=
  let k := s.stk
  let r := s.remoteBank id
  if 0x40 ≤ o ∧ o < 0x50 then wordOfSet ((o - 0x40) / 4) fun p => k.members.any (·.1 == p)
  else if 0x50 ≤ o ∧ o < 0x60 then wordOfSet ((o - 0x50) / 4) k.absent.contains
  else match o with
  | 0x0 => packWord [(0, 2, k.role), (2, 3, k.state), (5, 7, k.pos.getD 0x7F), (12, 1, nat1 (k.state != 0 && s.ringOpen)),
      (13, 8, k.count), (21, 8, k.refusal)]
  | 0x10 => linkValue k.up
  | 0x20 => linkValue k.dn
  | 0x60 => loHalf k.time
  | 0x64 => hiHalf k.time
  | 0x68 => loHalf k.timeLocal
  | 0x70 => packWord [(4, 2, k.ctrlResult)]
  | 0x80 => packWord [(0, 24, r.addr), (24, 7, r.pos)]
  | 0x84 => r.data
  | 0x8C => packWord [(0, 1, nat1 r.pending), (1, 1, nat1 r.done), (2, 3, r.result)]
  | 0x90 => packWord [(0, 16, k.copies), (16, 16, min 0x8000 (k.keys.length / 2))]
  | _ => 0

/-- `FLD_STAT`.STATE. -/
def State.fieldStateCode (s : State) (f : Nat) : Nat :=
  if (s.fieldCfg? f).isNone then 0
  else if s.fieldHeld f then 4
  else if (s.field f).roHead then 3
  else if healthOf (s.field f) (s.fenv f) = 1 ∨ !(s.absentOf f).isEmpty then 2
  else 1

/-- The largest number of a Field's blocks of one kind on one die. -/
def mostOnDie (fs : FieldState) (on : BlkId → Nat) : Nat := fs.blocks.foldl (fun m x => max m (on x.1)) 0

/-- The lowest erase count among the `n` blocks a Field counts: 0 while one of them was never erased. -/
def peMin (fs : FieldState) (n : Nat) : Nat :=
  if fs.blocks.length < n then 0 else fs.blocks.foldl (fun m x => min m x.2.pe) 0xFFFFFF

/-- A Field as its registers count it: the blocks of a fenced channel are left out (R440). -/
def FieldState.counted (fs : FieldState) (env : FEnv) : FieldState :=
  { fs with blocks := fs.blocks.filter fun x => env.usable.contains x.1.chan
            fallow := fs.fallow.filter fun x => env.usable.contains x.1.chan }

def fldValue (s : State) (f o : Nat) : Word :=
  let all := s.field f
  let fs := all.counted (s.fenv f)
  let env := s.fenv f
  let q := s.geo f
  let fenced := (q.chans.filter env.fenced.contains).length
  let states := fun (st : Nat) => fs.countState fun _ r => r.state == st
  match o with
  | 0x0 => packWord [(0, 3, s.fieldStateCode f), (3, 1, nat1 fs.gleaning), (4, 1, nat1 (fs.moves.any (·.why == .fold))),
      (5, 1, nat1 fs.replaying), (6, 1, nat1 fs.hostWait), (7, 1, nat1 fs.spaceOut), (16, 8, fenced)]
  | 0x4 => packWord [(0, 18, q.d), (18, 6, if (s.fieldCfg? f).isSome then q.w else 0), (24, 2, env.cfg.grain)]
  | 0x8 => loHalf q.capacity
  | 0xC => hiHalf q.capacity
  | 0x10 => w32 (fs.free env)
  | 0x14 => w32 fs.fallow.length
  | 0x18 => w32 (q.d * q.a)
  | 0x1C => packWord [(0, 11, fs.seedSize), (16, 11, mostOnDie fs fun b => fs.slcOn b.chan b.die)]
  | 0x20 => packWord [(0, 13, states 1), (16, 12, fs.openSets.length)]
  | 0x24 => packWord [(0, 12, q.pmax), (16, 12, if (s.fieldCfg? f).isSome then q.kmax else 0)]
  | 0x28 => packWord [(0, 24, latentBlocks fs), (24, 8, min 0xFF fs.secure.length)]
  | 0x2C => packWord [(0, 16, fs.misses), (16, 16, dirtySegs fs)]
  | 0x30 => w32 fs.fixcount
  | 0x34 => packWord [(0, 16, fs.victims), (16, 16, fs.stale)]
  | 0x38 => packWord [(0, 16, if q.d = 0 then 0 else min 0xFFFF (peMin fs (env.usable.length * q.pc * q.bd))), (16, 16, min 0xFFFF (peMax fs))]
  | 0x100 => w32 (signedField 32 fs.headland)
  | 0x104 => w32 (floorOf env)
  | 0x108 => w32 (states 5)
  | 0x10C => w32 (states 4)
  | 0x110 =>
    let worst := fs.blocks.foldl (fun m x => if x.2.state = 1 ∨ x.2.state = 2 ∨ x.2.state = 3 then max m (doseHours x.2) else m) 0
    packWord [(0, 24, min 0xFFFFFF worst), (24, 8, fs.doseSat)]
  | 0x114 => packWord [(0, 8, fs.corrMax), (16, 16, fs.soft)]
  | 0x118 => packWord [(0, 16, fs.retry), (16, 16, fs.parity)]
  | 0x11C => packWord [(0, 16, fs.unrecov), (16, 16, min 0xFFFF (fs.map.filter (·.lost)).length)]
  | 0x120 => packWord [(0, 10, fs.refDose), (10, 10, fs.refReads), (20, 10, fs.refEsc)]
  | 0x124 => packWord [(0, 24, (exposedSets all env).length)]
  | 0x128 => packWord [(0, 2, healthOf all env), (2, 1, nat1 (fenced != 0)), (3, 1, nat1 (!(exposedSets all env).isEmpty)),
      (4, 1, nat1 (!(s.absentOf f).isEmpty)), (5, 1, nat1 (decide (fs.headland < 2 * (floorOf env : Int)))), (6, 1, nat1 fs.roHead)]
  | 0x200 => loHalf fs.floor
  | 0x204 => hiHalf fs.floor
  | 0x208 => packWord [(0, 16, min 0xFFFF fs.replayPages), (16, 16, min 0xFFFF fs.discarded)]
  | 0x20C => packWord [(0, 16, fs.gaps), (16, 16, min 0xFFFF fs.replayMs)]
  | _ => 0

/-- `CHN_STAT`.STATE. -/
def State.chanStateCode (s : State) (c : Nat) : Nat :=
  let k := s.chan c
  if !s.hasLayout then 6
  else if (s.chanCfg? c).isNone then 5
  else if k.stopped then 6
  else if k.fenced then 4
  else if k.swept then 2
  else if k.zq then 3
  else if k.dies.any (fun d => d.run.isSome || d.aside.isSome) then 1
  else 0

/-- `CHN_ZQ`.NONE: the channel's set has no ZQ entry (Table LAY-14, entry 8). -/
def State.zqNone (s : State) (c : Nat) : Bool :=
  (s.chanCfg? c).isSome && ((s.recipeOf c (s.lay.recipePend.contains c)).bind (·.entry? 8)).isNone

def chnValue (s : State) (c o : Nat) : Word :=
  let k := s.chan c
  if 0x40 ≤ o ∧ o < 0x50 then
    let d := o - 0x40
    packWord ((List.range 4).map fun j => (8 * j, 8, match (k.dieAt (d + j)).step with | some v => v % 32 + 0x80 | none => 0))
  else match o with
  | 0x0 =>
    (match s.layout.bind (·.channels[c]?) with
     | some g => packWord [(0, 1, g.iface), (1, 4, g.ceMask), (5, 2, g.luns - 1), (7, 2, clog2 g.planes), (9, 3, g.bits), (12, 4, g.recipeSet),
         (16, 2, g.ldpc)]
     | none => 0)
  | 0x10 => packWord [(0, 3, s.chanStateCode c), (3, 1, nat1 (s.lay.recipePend.contains c)), (4, 2, k.ifaceNow), (8, 4, k.tmodeNow), (12, 11, k.rate)]
  | 0x14 => wordOfSet 0 fun d => if d < 16 then (k.dieAt d).run.isSome || (k.dieAt d).aside.isSome else (k.dieAt (d - 16)).susp.isSome
  | 0x18 => packWord [(0, 12, k.faultStep), (12, 4, k.faultEntry), (16, 2, k.faultLevel), (18, 1, nat1 k.faultInLoop), (19, 2, k.faultKind)]
  | 0x1C => packWord [(0, 8, k.faultIter), (8, 8, k.faultRemain), (16, 4, k.faultDie)]
  | 0x20 => packWord [(0, 16, k.progFail), (16, 16, k.eraseFail)]
  | 0x24 => packWord [(0, 16, k.suspends), (16, 16, k.aborts)]
  | 0x28 => packWord [(0, 8, k.zqCycle), (8, 8, k.zqCount), (16, 1, nat1 (s.zqNone c)), (17, 1, nat1 k.zqFail), (18, 1, nat1 k.zqSkipped)]
  | 0x2C => packWord [(0, 8, k.corrMax), (16, 16, k.soft)]
  | _ => 0

/-- What a register reads as to one identity. -/
def regValue (s : State) (id : Identity) (a : Nat) : Word :=
  match regPlace a with
  | .glb o => glbValue s o
  | .arb o => arbValue s o
  | .saf o => safValue s o
  | .sem o => semValue s id o
  | .plt n o => pltValue s n o
  | .grn o => grnValue s id o
  | .region r o => regionValue s r o
  | .mpu o => mpuValue s o
  | .bnk b o => bnkValue s b o
  | .win o => winValue s id o
  | .cph e o => cphValue s e o
  | .prt p o => prtValue s p o
  | .stk o => stkValue s id o
  | .fld f o => fldValue s f o
  | .chn c o => chnValue s c o
  | .reserved => 0

end Sys2Proof.Machine
end

