-- ==== Sys2Proof/Machine/Regs.lean ====
section
/-! DEFINITION. Control-space accesses: a read with its clear-on-read fields (R10) and its snapshots (R48), a write with the
effect of each writable register (Table IDX-3), and the commands that make them: a single access, the entries of a REG
capsule (R270 to R272) and a REG frame at a stack member (R604). -/

namespace Sys2Proof.Machine

/-! ### Reads -/

/-- The RC fields of one register clear, and take the events of the same tick (R10): `same` holds, in each field's place, what
the tick adds. A field that holds an extreme takes the present value, or the tick's. -/
def rcClear (s : State) (a : Nat) (same : Word) : State :=
  let c := fun (top lo w : Nat) => rcAfter top (field same lo w)
  match regPlace a with
  | .arb 0x18 => s.modArb fun q => { q with sharedMin := s.sharedFree }
  | .arb 0x1C => s.modArb fun q => { q with tsfA := c 0xFFFF 0 16, tsfB := c 0xFFFF 16 16 }
  | .arb 0xA4 => s.modArb fun q => { q with wdogCount := c 0xFFFF 16 16 }
  | .saf 0x4C => s.modSaf fun q => { q with deep := { q.deep with refused := c 0xFF 12 8 } }
  | .glb 0x220 => s.modPwr fun q => { q with peak := q.tj }
  | .glb 0x500 => s.modHold fun q => { q with holds := c 0xFF 8 8 }
  | .sem 0x210 => s.modSem fun q => { q with busyA := c 0xFF 0 8, busyB := c 0xFF 8 8, busyStk := c 0xFF 16 8, locked := c 0xFF 24 8 }
  | .sem 0x214 => s.modSem fun q => { q with forced := c 0xF 20 4, events := c 0xFF 24 8 }
  | .cph e 0x4 => s.modEngine e fun q => { q with echoFail := c 0xFFFF 0 16, clears := c 0xFFFF 16 16 }
  | .prt n o =>
    let p := if n = 0 then Port.a else .b
    if o = 0xC then s.modPort p fun q => { q with lpmAcc := c 0xFF 0 8, lpmRej := c 0xFF 8 8 }
    else if o = 0x10 then s.modPort p fun q => { q with wakeCount := c 0xFF 8 8 }
    else if o = 0x14 then s.modPort p fun q => { q with aborts := c 0xFFFF 0 16, detaches := c 0xFFFF 16 16 }
    else s
  | .fld f 0x2C => s.modField f fun q => { q with misses := c 0xFFFF 0 16 }
  | .fld f 0x34 => s.modField f fun q => { q with victims := c 0xFFFF 0 16, stale := c 0xFFFF 16 16 }
  | .fld f 0x110 => s.modField f fun q => { q with doseSat := c 0xFF 24 8 }
  | .fld f 0x114 => s.modField f fun q => { q with corrMax := c 0xFF 0 8, soft := c 0xFFFF 16 16 }
  | .fld f 0x118 => s.modField f fun q => { q with retry := c 0xFFFF 0 16, parity := c 0xFFFF 16 16 }
  | .fld f 0x11C => s.modField f fun q => { q with unrecov := c 0xFFFF 0 16 }
  | .fld f 0x120 => s.modField f fun q => { q with refDose := c 0x3FF 0 10, refReads := c 0x3FF 10 10, refEsc := c 0x3FF 20 10 }
  | .chn n 0x20 => s.modChan n fun q => { q with progFail := c 0xFFFF 0 16, eraseFail := c 0xFFFF 16 16 }
  | .chn n 0x24 => s.modChan n fun q => { q with suspends := c 0xFFFF 0 16, aborts := c 0xFFFF 16 16 }
  | .chn n 0x28 => s.modChan n fun q => { q with zqCount := c 0xFF 8 8 }
  | .chn n 0x2C => s.modChan n fun q => { q with corrMax := c 0xFF 0 8, soft := c 0xFFFF 16 16 }
  | .bnk b 0xC => s.modBank b fun q => { q with ce := c 0xFFFF 0 16, ue := c 0xFFFF 16 16 }
  | .bnk b 0x14 => s.modBank b fun q => 
      { q with near := { q.near with busy := c 0xFFFF 0 16 }, far := { q.far with busy := c 0xFFFF 16 16 } }
  | .mpu 0x4400 => s.modMpu fun q => { q with lost := c 0xFF 24 8 }
  | .stk 0x10 => s.modStk fun k => { k with up := { k.up with replays := c 0xFF 8 8, downs := c 0xFF 16 8 } }
  | .stk 0x20 => s.modStk fun k => { k with dn := { k.dn with replays := c 0xFF 8 8, downs := c 0xFF 16 8 } }
  | .stk 0x90 => s.modStk fun k => { k with copies := c 0xFFFF 0 16 }
  | _ => s

/-- The registers whose value a read of a LO register snapshots. -/
def snapTargets (a : Nat) : List Nat :=
  match regPlace a with
  | .arb 0x0 => [a + 4]
  | .arb 0x8 => [a + 4]
  | .plt _ 0x10 => [a + 4]
  | .fld _ 0x8 => [a + 4]
  | .fld _ 0x200 => [a + 4]
  | .glb 0x400 => [a + 4]
  | .stk 0x60 => [a + 4, a + 8]
  | _ => []

def dropSnap (s : State) (id : Identity) (a : Nat) : State :=
  { s with snaps := s.snaps.filter fun x => !(x.1 == id && x.2.1 == a) }

def takeSnaps (s : State) (id : Identity) (a : Nat) : State :=
  (snapTargets a).foldl (fun (s : State) h =>
    let t := dropSnap s id h
    { t with snaps := (id, h, regValue s id h) :: t.snaps }) s

/-- A read that every check has let through: the snapshot taken for this requester, or the present value (R48). -/
def readReg (s : State) (id : Identity) (a : Nat) (same : Word) : State × Word :=
  match s.snaps.find? fun x => x.1 == id && x.2.1 == a with
  | some x => (dropSnap s id a, x.2.2)
  | none =>
    let v := regValue s id a
    let s := if a = 0x300 ∧ s.sec.tamperLow then { s with free := s.free + 1 } else s
    (takeSnaps (rcClear s a same) id a, v)

/-- What JTAG reaches (R645). -/
def cspaceReach (a : Nat) : Bool :=
  decide (a ≤ 0x10) || a == 0x300 || a == 0x308 || a == 0x30C || (decide (0x20000 ≤ a) && decide (a < 0x30000))

/-- Status of a Control-space access (Table FNC-5). -/
def regOk : Nat := 0
def regDenied : Nat := 2
def regNotDone : Nat := 3

/-- A read by one identity: the state, the value, and the status (R9, R26, R564, R658 to R660). -/
def csRead (s : State) (id : Identity) (a : Nat) (same : Word) : State × Word × Nat :=
  if a % 4 ≠ 0 then (s, 0, regOk)
  else if id = idJtag ∧ !cspaceReach a then (s, 0, regOk)
  else if isAperture a then
    let (s, v, denied) := aperture s id (a - csAperture) false 0 true
    (s, v, if denied then regDenied else regOk)
  else
    let (s, refused) := csCheck s id a .read
    if refused then (s, 0, regDenied)
    else if !regKnown s.member a then (logRsvd s id a false, 0, regOk)
    else if (!s.hasLayout && !readableBare a) || (isBanked a && !reachesBank id a) then (s, 0, regOk)
    else
      let (s, v) := readReg s id a same
      (s, v, regOk)

/-! ### Writes -/

/-- The writes that the lock of R318 does not hold back. -/
def lockExempt (a : Nat) (v : Word) : Bool :=
  match regPlace a with
  | .sem _ => true
  | .plt _ _ => true
  | .win _ => true
  | .glb o => [0x118, 0x210, 0x304, 0x308].contains o
  | .saf o => o == 0x30 || o == 0x48
  | .stk o => o == 0x70
  | .bnk _ o => o == 0x0 && v.getLsbD 18
  | .grn o => inWords [(0x0, 3), (0x10, 1), (0x100, 64)] o
  | _ => false

/-- `MED_OFF` (Table IDX-3). -/
def writeOffTj (s : State) (id : Identity) (v : Word) : State :=
  let t := fieldSigned 8 v.toNat
  if s.holdsSem id 0 ∧ -40 ≤ t ∧ t ≤ 85 then { s with wall := { s.wall with offTj := t } } else s

def writeGlb (s : State) (id : Identity) (o : Nat) (v : Word) : State :=
  match o with
  | 0x118 => if field v 0 2 = 0 then s else layCommand s id (field v 0 2) (if v.getLsbD 2 then .b else .a)
  | 0x208 => pwrReset s id (field v 16 16)
  | 0x210 =>
    let s := if v.getLsbD 10 then setTarget s id (field v 8 2) else s
    if field v 0 3 = 0 then s else powerCommand s id (field v 0 3)
  | 0x218 => s.modPwr fun q => { q with dimReg := field v 0 10 }
  | 0x304 => secRdp s id (field v 0 2) (field v 16 16)
  | 0x308 => if field v 0 2 = 1 then secProv s id else s
  | 0x400 => { s with wall := { s.wall with wLo := v } }
  | 0x404 => writeWallHi s id v
  | 0x408 => writeOffTj s id v
  | _ => s

def writeSaf (s : State) (id : Identity) (o : Nat) (v : Word) : State :=
  match o with
  | 0x30 => if v.getLsbD 31 then recoverEvery s id else recoverScope s id (field v 0 3) (field v 8 8)
  | 0x48 => requestDeep s id (v.getLsbD 0) (field v 1 3)
  | 0x64 => s.modSaf fun q => { q with railOut := w1c q.railOut (field v 0 5) }
  | _ => s

/-- The block of one Plot (Table SEM-3). -/
def writePlt (s : State) (id : Identity) (n o : Nat) (v : Word) : State :=
  if isHostId id && !s.holdsSem id (64 + n) then s
  else
    match o with
    | 0x8 => plotControl s n (field v 0 2) (field v 16 16)
    | 0xC => s.modPlot n fun p => { p with pace := field v 0 4 }
    | _ => s

def writeGrnReg (s : State) (id : Identity) (o : Nat) (v : Word) : State :=
  if 0x100 ≤ o ∧ o < 0x200 then modGrnBank s id fun b => { b with data := b.data.set ((o - 0x100) / 4) v }
  else match o with
  | 0x0 => modGrnBank s id fun b => b.key v.toNat
  | 0x4 => grnCommand s id (field v 0 4) (field v 4 2) (field v 6 2) (field v 8 5)
  | 0x8 => modGrnBank s id fun b => { b with addr := field v 0 24 }
  | 0x10 => modGrnBank s id fun b => { b with err := w1c b.err (field v 0 16) }
  | 0x14 => if field v 0 2 = 0 then s else s.modGrn fun g => { g with cfgWarn := field v 0 2 }
  | _ => s

def writeMpu (s : State) (o : Nat) (v : Word) : State :=
  match o with
  | 0x0 => writeMpuCtrl s v
  | 0x4404 => ackVio s (field v 0 16)
  | _ => s

def writeBnk (s : State) (id : Identity) (b o : Nat) (v : Word) : State :=
  if o ≠ 0 then s
  else if v.getLsbD 18 then seize s id b
  else if v.getLsbD 17 then handover s id b (BitVec.ofNat 8 (field v 8 8)) (v.getLsbD 16)
  else s

def writeWin (s : State) (id : Identity) (o : Nat) (v : Word) : State :=
  match winIndex id with
  | none => s
  | some i =>
    match o with
    | 0x0 => modWin s i fun w => { w with page := field v 12 14 }
    | 0x4 => modWin s i fun w => { w with atomAddr := 4 * field v 2 24 }
    | 0x8 => modWin s i fun w => { w with opndLo := v }
    | 0xC => modWin s i fun w => { w with opndHi := v }
    | 0x10 => writeAtomic s id (field v 0 3)
    | _ => s

def writeStk (s : State) (id : Identity) (o : Nat) (v : Word) : State :=
  match o with
  | 0x70 => if v.getLsbD 0 then reEnumerate s id else s
  | 0x80 => modRemote s id fun b => { b with addr := field v 0 24, pos := field v 24 7 }
  | 0x84 => modRemote s id fun b => { b with data := v }
  | 0x88 => if field v 0 2 = 1 ∨ field v 0 2 = 2 then remoteOp s id (field v 0 2) else s
  | _ => s

/-- The effect of a write that every check has let through; a register without a writable field ignores it (R6). -/
def regEffect (s : State) (id : Identity) (a : Nat) (v : Word) : State :=
  match regPlace a with
  | .glb o => writeGlb s id o v
  | .saf o => writeSaf s id o v
  | .sem o => if o < 0x200 then semaphoreOp s id (o / 4) (field v 16 2) else s
  | .plt n o => writePlt s id n o v
  | .grn o => writeGrnReg s id o v
  | .region r o => writeRegion s r (o / 4) v
  | .mpu o => writeMpu s o v
  | .bnk b o => writeBnk s id b o v
  | .win o => writeWin s id o v
  | .stk o => writeStk s id o v
  | _ => s

/-- A write by one identity: the state and the status (R9, R26, R27, R318, R564, R658 to R661). -/
def csWriteWord (s : State) (id : Identity) (a : Nat) (v : Word) : State × Nat :=
  if a % 4 ≠ 0 then (s, regOk)
  else if id = idJtag ∧ !cspaceReach a then (s, regOk)
  else if isAperture a then
    let (s, _, denied) := aperture s id (a - csAperture) true v true
    (s, if denied then regDenied else regOk)
  else
    let st := if (s.mpuRefuses id false a .write).isSome then regDenied else regOk
    if !regKnown s.member a then (rsvdWrite s id a, st)
    else (csWrite s id a (lockExempt a v) fun s => if isBanked a && !reachesBank id a then s else regEffect s id a v, st)

/-! ### Single accesses -/

/-- A write of a register that has no command of its own; any register may be named. -/
def execRegisterWrite (id : Identity) (addr : CsAddr) (value : Word) (s : State) : Host.Outcome State Fault Refusal :=
  .next <|
    let (t, st) := csWriteWord s id addr.toNat value
    setReply t id value st

def execRcRead (id : Identity) (addr : CsAddr) (sameTick : Word) (s : State) : Host.Outcome State Fault Refusal :=
  .next <|
    let (t, v, st) := csRead s id addr.toNat sameTick
    setReply t id v st

def execSnapshotRead (id : Identity) (addr : CsAddr) (s : State) : Host.Outcome State Fault Refusal :=
  .next <|
    let (t, v, st) := csRead s id addr.toNat 0
    setReply t id v st

/-- An access to reserved Control space (R9). The command names no other access: with a register at the address nothing
happens. -/
def execRsvdAccess (id : Identity) (addr : CsAddr) (write : Bool) (s : State) : Host.Outcome State Fault Refusal :=
  .next <|
    if regKnown s.member addr.toNat ∨ isAperture addr.toNat then s
    else if write then
      let (t, st) := csWriteWord s id addr.toNat 0
      setReply t id 0 st
    else
      let (t, v, st) := csRead s id addr.toNat 0
      setReply t id v st

/-! ### REG capsules and REG frames -/

/-- One register entry is performed (Table FNC-5). -/
def doEntry (s : State) (id : Identity) (e : RegEntry) : State × RegDone :=
  if e.op = 0 then
    let (t, v, st) := csRead s id e.addr.toNat 0
    (setReply t id v st, ⟨e.addr, 0, st, v⟩)
  else
    let (t, st) := csWriteWord s id e.addr.toNat e.value
    (setReply t id e.value st, ⟨e.addr, 1, st, e.value⟩)

/-- An entry that is not performed: a read answers zero, a write echoes its value. -/
def skipEntry (e : RegEntry) : RegDone := ⟨e.addr, e.op, regNotDone, if e.op = 1 then e.value else 0⟩

def regDoneBytes (d : RegDone) : List Byte := leBytes 3 d.addr.toNat ++ leBytes 1 (d.op % 16 + 16 * d.st) ++ leBytes 4 d.value.toNat

/-- The response of a finished REG capsule: OK, or PARTIAL with the index of the entry refused (R271). -/
def endReg (s : State) (p : Port) (tag : Nat) (done : List RegDone) : State :=
  let (st, detail) := match done.findIdx? (·.st == regDenied) with | some i => (0x0007, i) | none => (0, 0)
  respond s p .management ⟨0x02, false, tag, 0, st, detail, done.flatMap regDoneBytes⟩

/-- The grant of the next entry of the REG capsule in progress (R270, R271). A write that resets the chip ends the capsule. -/
def execRegEntry (p : Port) (s : State) : Host.Outcome State Fault Refusal :=
  .next <|
    let c := (s.pfn p).cap .management
    if !c.busy ∨ c.opcode ≠ 0x02 then s
    else
      match c.todo with
      | [] => s
      | e :: rest =>
        let (t, d) := doEntry s p.identity e
        let now := (t.pfn p).cap .management
        if !now.busy ∨ now.todo ≠ c.todo then t
        else
          let left := if d.st = regDenied then [] else rest
          let done := c.doneR ++ d :: (if d.st = regDenied then rest.map skipEntry else [])
          if left.isEmpty then endReg t p c.tag done
          else t.modPfn p fun q => q.modCap .management fun c => { c with todo := left, doneR := done }

/-- The entries of a REG frame, performed in order; a denied one ends them (R271). -/
def doEntries (id : Identity) : List RegEntry → State → State × List RegDone
  | [], s => (s, [])
  | e :: rest, s =>
    let (s, d) := doEntry s id e
    if d.st = regDenied then (s, d :: rest.map skipEntry)
    else
      let (s, ds) := doEntries id rest s
      (s, d :: ds)

def entryBytes8 (e : RegEntry) : List Byte := leBytes 3 e.addr.toNat ++ leBytes 1 e.op ++ leBytes 4 e.value.toNat

/-- A REG frame at a member: performed with identity 0x82 when it comes from the master, a copy answered again (R600, R604,
Table STK-6). An entry that fails the pre-check of R269 leaves every entry undone. -/
def takeReg (s : State) (h : FrameHdr) (entries : List RegEntry) : State :=
  if h.src ≠ 0 ∨ s.isMaster then s
  else
    match s.stk.regSeen.find? (·.1 == h.tag) with
    | some x => ringSend (s.modStk fun k => { k with copies := count 0xFFFF k.copies }) 0x21 h.src h.tag true (x.2.flatMap regDoneBytes)
    | none =>
      let (t, done) := if entries.all regEntryOk then doEntries idStack entries s else (s, entries.map skipEntry)
      let t := t.modStk fun k => { k with regSeen := (k.regSeen ++ [(h.tag, done)]).drop (k.regSeen.length + 1 - 64) }
      ringSend t 0x21 h.src h.tag true (done.flatMap regDoneBytes)

def execRegFrame (h : FrameHdr) (entries : List RegEntry) (s : State) : Host.Outcome State Fault Refusal :=
  .next <| takeFrame s h 0x20 (entries.flatMap entryBytes8) fun s => takeReg s h entries

end Sys2Proof.Machine
end

