-- ==== Sys2Proof/Machine/Jtag.lean ====
section
/-! DEFINITION. The JTAG port (R642 to R645, Table ELE-21): the TAP's instructions, allowed by the read-out protection level,
and accesses to Control space through CSPACE. -/

namespace Sys2Proof.Machine

/-- The TAP takes an instruction: from the end of step 4 of the start, and at the levels Table ELE-21 allows (R643). -/
def State.tapTakes (s : State) (code : Nat) : Bool :=
  decide (4 < s.pwr.step) && tapAllows s.sec.level code && code != 0xFF

def tapBypass (s : State) : State := s.modJtag (·.bypass)

/-- Load an instruction; whatever the TAP does not take selects BYPASS. -/
def tapLoad (s : State) (code : Nat) (effect : State → State) : State :=
  if s.tapTakes code then effect (s.modJtag fun j => { j with ir := code, driven := none }) else tapBypass s

/-- EXTEST drives the boundary-scan cells onto the balls. -/
def execJtagExtest (cells : List Bool) (s : State) : Host.Outcome State Fault Refusal :=
  .next <| tapLoad s 0x00 fun s => s.modJtag fun j => { j with dr := 2, driven := some cells }

def execJtagIdcode (s : State) : Host.Outcome State Fault Refusal :=
  .next <| tapLoad s 0x01 fun s => s.modJtag fun j => { j with dr := 1, drValue := (idCode s.stepping).toNat }

def execJtagSamplePreload (sampled preload : List Bool) (s : State) : Host.Outcome State Fault Refusal :=
  .next <| tapLoad s 0x02 fun s => s.modJtag fun j => { j with dr := 2, sampled := sampled, preload := preload }

/-- CSPACE: at Update-DR the access is made with identity 0x8A; Capture-DR loads the last value read into bits [56:25] (R645). -/
def execJtagCspace (addr : CsAddr) (write : Bool) (data : Word) (s : State) : Host.Outcome State Fault Refusal :=
  .next <| tapLoad s 0x10 fun s =>
    let keep := fun (s : State) (v : Word) => s.modJtag fun j => { j with dr := 3, cspaceValue := v, drValue := v.toNat * 2 ^ 25 }
    if write then keep (csWriteWord s idJtag addr.toNat data).1 s.jtag.cspaceValue
    else
      let (s, v, _) := csRead s idJtag addr.toNat 0
      keep s v

/-- RESET at Update-IR (R644, Table PWR-2). -/
def execJtagReset (s : State) : Host.Outcome State Fault Refusal :=
  .next <| tapLoad s 0x20 fun s => resetBy (s.modJtag fun j => { j with dr := 0, drValue := 0 }) 5

/-- Any other code, and BYPASS itself. -/
def execJtagBypass (_code : Byte) (s : State) : Host.Outcome State Fault Refusal := .next (tapBypass s)

end Sys2Proof.Machine
end

