-- ==== Sys2Proof/Machine/Dispatch.lean ====
section
/-! DEFINITION. One arm per command: the direct call of its meaning. -/

namespace Sys2Proof.Machine

def exec (i : Instr) (s : State) : Host.Outcome State Fault Refusal :=
  match i with
  | .registerWrite id addr value => Sys2Proof.Machine.execRegisterWrite id addr value s
  | .rsvdAccess id addr write => Sys2Proof.Machine.execRsvdAccess id addr write s
  | .rcRead id addr sameTick => Sys2Proof.Machine.execRcRead id addr sameTick s
  | .snapshotRead id addr => Sys2Proof.Machine.execSnapshotRead id addr s
  | .arbiterGrant reqs tick => Sys2Proof.Machine.execArbiterGrant reqs tick s
  | .watchdogExpiry requester responder => Sys2Proof.Machine.execWatchdogExpiry requester responder s
  | .blockReceived key idx dir data env => Sys2Proof.Machine.execBlockReceived key idx dir data env s
  | .echoCheckDone engine pass => Sys2Proof.Machine.execEchoCheckDone engine pass s
  | .decryptDone engine tagOk verdict portCrcOk => Sys2Proof.Machine.execDecryptDone engine tagOk verdict portCrcOk s
  | .enter ch die tmo err => Sys2Proof.Machine.execEnter ch die tmo err s
  | .cmd ch die byte wait busy last => Sys2Proof.Machine.execCmd ch die byte wait busy last s
  | .cmdl ch die notLast lastB level none_ wait waitLast busy last => Sys2Proof.Machine.execCmdl ch die notLast lastB level none_ wait waitLast busy last s
  | .addr ch die kind last => Sys2Proof.Machine.execAddr ch die kind last s
  | .dout ch die src last => Sys2Proof.Machine.execDout ch die src last s
  | .din ch die dst colSel last => Sys2Proof.Machine.execDin ch die dst colSel last s
  | .wait ch die t last => Sys2Proof.Machine.execWait ch die t last s
  | .waitElapsed ch die status => Sys2Proof.Machine.execWaitElapsed ch die status s
  | .poll ch die byte busy lunAddr last => Sys2Proof.Machine.execPoll ch die byte busy lunAddr last s
  | .statusPoll ch die status => Sys2Proof.Machine.execStatusPoll ch die status s
  | .test ch die mask sense target last => Sys2Proof.Machine.execTest ch die mask sense target last s
  | .loop ch die src => Sys2Proof.Machine.execLoop ch die src s
  | .next ch die => Sys2Proof.Machine.execNext ch die s
  | .jump ch die target => Sys2Proof.Machine.execJump ch die target s
  | .mode ch die iface tmode last => Sys2Proof.Machine.execMode ch die iface tmode last s
  | .setv ch die k high value last => Sys2Proof.Machine.execSetv ch die k high value last s
  | .fail ch die => Sys2Proof.Machine.execFail ch die s
  | .end_ ch die => Sys2Proof.Machine.execEnd ch die s
  | .recipeTimeout ch die => Sys2Proof.Machine.execRecipeTimeout ch die s
  | .fixPointRecorded field => Sys2Proof.Machine.execFixPointRecorded field s
  | .doseTick => Sys2Proof.Machine.execDoseTick s
  | .freqMonitorWindow island count clockChanged => Sys2Proof.Machine.execFreqMonitorWindow island count clockChanged s
  | .referenceLoss => Sys2Proof.Machine.execReferenceLoss s
  | .sofWindow countA countB => Sys2Proof.Machine.execSofWindow countA countB s
  | .railFault rail millivolt => Sys2Proof.Machine.execRailFault rail millivolt s
  | .tempSample readings => Sys2Proof.Machine.execTempSample readings s
  | .sweepSlot lane => Sys2Proof.Machine.execSweepSlot lane s
  | .cipherQueueDrained engine => Sys2Proof.Machine.execCipherQueueDrained engine s
  | .testStripDone lane result comparatorFlagged => Sys2Proof.Machine.execTestStripDone lane result comparatorFlagged s
  | .sweepSlotEnd ch slot => Sys2Proof.Machine.execSweepSlotEnd ch slot s
  | .safDeep id start lanes => Sys2Proof.Machine.execSafDeep id start lanes s
  | .recover id scope inst => Sys2Proof.Machine.execRecover id scope inst s
  | .recoverAll id => Sys2Proof.Machine.execRecoverAll id s
  | .recoverDone strips startupTestOk diesOk => Sys2Proof.Machine.execRecoverDone strips startupTestOk diesOk s
  | .tamper => Sys2Proof.Machine.execTamper s
  | .testEn => Sys2Proof.Machine.execTestEn s
  | .entropy failedTest => Sys2Proof.Machine.execEntropy failedTest s
  | .layVerify id slot => Sys2Proof.Machine.execLayVerify id slot s
  | .warmActivation id slot => Sys2Proof.Machine.execWarmActivation id slot s
  | .coldActivation id slot => Sys2Proof.Machine.execColdActivation id slot s
  | .slotVerified read => Sys2Proof.Machine.execSlotVerified read s
  | .commitGrant => Sys2Proof.Machine.execCommitGrant s
  | .developmentComplete facts => Sys2Proof.Machine.execDevelopmentComplete facts s
  | .powerOn => Sys2Proof.Machine.execPowerOn s
  | .railDip rail => Sys2Proof.Machine.execRailDip rail s
  | .resetN lowNs => Sys2Proof.Machine.execResetN lowNs s
  | .pwrReset id key => Sys2Proof.Machine.execPwrReset id key s
  | .offWake => Sys2Proof.Machine.execOffWake s
  | .referenceDetected facts => Sys2Proof.Machine.execReferenceDetected facts s
  | .fieldReplayDone field facts => Sys2Proof.Machine.execFieldReplayDone field facts s
  | .pwrLit id => Sys2Proof.Machine.execPwrLit id s
  | .pwrDim id => Sys2Proof.Machine.execPwrDim id s
  | .pwrDark id => Sys2Proof.Machine.execPwrDark id s
  | .pwrOff id => Sys2Proof.Machine.execPwrOff id s
  | .setTarget id target => Sys2Proof.Machine.execSetTarget id target s
  | .usbSuspend p => Sys2Proof.Machine.execUsbSuspend p s
  | .usbResume p => Sys2Proof.Machine.execUsbResume p s
  | .remoteWakeRepeat p => Sys2Proof.Machine.execRemoteWakeRepeat p s
  | .gpioSample levels => Sys2Proof.Machine.execGpioSample levels s
  | .vbusDetect p flip => Sys2Proof.Machine.execVbusDetect p flip s
  | .vbusLoss p => Sys2Proof.Machine.execVbusLoss p s
  | .ssTrainingDone p partner lanes => Sys2Proof.Machine.execSsTrainingDone p partner lanes s
  | .ssTrainingTimeout p => Sys2Proof.Machine.execSsTrainingTimeout p s
  | .usb2BusReset p hostChirps => Sys2Proof.Machine.execUsb2BusReset p hostChirps s
  | .upstreamReset p kind => Sys2Proof.Machine.execUpstreamReset p kind s
  | .bulkOutPacket p k ep => Sys2Proof.Machine.execBulkOutPacket p k ep s
  | .ping p k ep => Sys2Proof.Machine.execPing p k ep s
  | .sofReceived p number => Sys2Proof.Machine.execSofReceived p number s
  | .sofTimeout p => Sys2Proof.Machine.execSofTimeout p s
  | .u1U2Entry p u2 => Sys2Proof.Machine.execU1U2Entry p u2 s
  | .lpmToken p => Sys2Proof.Machine.execLpmToken p s
  | .unsupportedRequest p k => Sys2Proof.Machine.execUnsupportedRequest p k s
  | .setConfiguration p k value => Sys2Proof.Machine.execSetConfiguration p k value s
  | .setInterface p k alt => Sys2Proof.Machine.execSetInterface p k alt s
  | .clearEndpointHalt p k ep => Sys2Proof.Machine.execClearEndpointHalt p k ep s
  | .hubStatusPoll p => Sys2Proof.Machine.execHubStatusPoll p s
  | .clearPortPower p k => Sys2Proof.Machine.execClearPortPower p k s
  | .setPortPower p k => Sys2Proof.Machine.execSetPortPower p k s
  | .portReset p k => Sys2Proof.Machine.execPortReset p k s
  | .bhPortReset p k => Sys2Proof.Machine.execBhPortReset p k s
  | .embPortResetDone p k => Sys2Proof.Machine.execEmbPortResetDone p k s
  | .clearPortEnable p k => Sys2Proof.Machine.execClearPortEnable p k s
  | .portSuspend p u => Sys2Proof.Machine.execPortSuspend p u s
  | .clearCPortConnection p k => Sys2Proof.Machine.execClearCPortConnection p k s
  | .clearTtBuffer p => Sys2Proof.Machine.execClearTtBuffer p s
  | .resetTt p => Sys2Proof.Machine.execResetTt p s
  | .info p tag => Sys2Proof.Machine.execInfo p tag s
  | .reg p tag entries => Sys2Proof.Machine.execReg p tag entries s
  | .regEntry p => Sys2Proof.Machine.execRegEntry p s
  | .echo p tag payload => Sys2Proof.Machine.execEcho p tag payload s
  | .unlock p tag plot mode secret => Sys2Proof.Machine.execUnlock p tag plot mode secret s
  | .retryCounted plot => Sys2Proof.Machine.execRetryCounted plot s
  | .keyRecordWritten plot => Sys2Proof.Machine.execKeyRecordWritten plot s
  | .lock p tag plot => Sys2Proof.Machine.execLock p tag plot s
  | .lockDemote p tag plot => Sys2Proof.Machine.execLockDemote p tag plot s
  | .setSecret p tag plot new => Sys2Proof.Machine.execSetSecret p tag plot new s
  | .rewrap p tag plot old new => Sys2Proof.Machine.execRewrap p tag plot old new s
  | .testUnitReady a => Sys2Proof.Machine.execTestUnitReady a s
  | .requestSense a desc alloc => Sys2Proof.Machine.execRequestSense a desc alloc s
  | .inquiry a evpd page alloc => Sys2Proof.Machine.execInquiry a evpd page alloc s
  | .reportLuns a select alloc => Sys2Proof.Machine.execReportLuns a select alloc s
  | .readCapacity10 a => Sys2Proof.Machine.execReadCapacity10 a s
  | .readCapacity16 a alloc => Sys2Proof.Machine.execReadCapacity16 a alloc s
  | .read10 key tr lba length fl => Sys2Proof.Machine.execRead10 key tr lba length fl s
  | .read16 key tr lba length fl => Sys2Proof.Machine.execRead16 key tr lba length fl s
  | .write10 key tr lba length fl => Sys2Proof.Machine.execWrite10 key tr lba length fl s
  | .write16 key tr lba length fl => Sys2Proof.Machine.execWrite16 key tr lba length fl s
  | .synchronizeCache10 key tr lba count immed fl => Sys2Proof.Machine.execSynchronizeCache10 key tr lba count immed fl s
  | .synchronizeCache16 key tr lba count immed fl => Sys2Proof.Machine.execSynchronizeCache16 key tr lba count immed fl s
  | .unmap key tr anchor paramLength fl => Sys2Proof.Machine.execUnmap key tr anchor paramLength fl s
  | .unmapParameterList key wellFormed descs => Sys2Proof.Machine.execUnmapParameterList key wellFormed descs s
  | .sanitize key tr serviceAction immed paramLength => Sys2Proof.Machine.execSanitize key tr serviceAction immed paramLength s
  | .sanitizeComplete plot => Sys2Proof.Machine.execSanitizeComplete plot s
  | .startStopUnitStop key tr powerCondition => Sys2Proof.Machine.execStartStopUnitStop key tr powerCondition s
  | .startStopUnitStart a powerCondition => Sys2Proof.Machine.execStartStopUnitStart a powerCondition s
  | .modeSense10 a pageControl page alloc => Sys2Proof.Machine.execModeSense10 a pageControl page alloc s
  | .securityProtocolIn a protocol specific alloc => Sys2Proof.Machine.execSecurityProtocolIn a protocol specific alloc s
  | .unsupportedCdb a opcode => Sys2Proof.Machine.execUnsupportedCdb a opcode s
  | .abortTask key => Sys2Proof.Machine.execAbortTask key s
  | .abortTaskSet key => Sys2Proof.Machine.execAbortTaskSet key s
  | .clearTaskSet key => Sys2Proof.Machine.execClearTaskSet key s
  | .logicalUnitReset key => Sys2Proof.Machine.execLogicalUnitReset key s
  | .iTNexusReset key => Sys2Proof.Machine.execITNexusReset key s
  | .queryTask key => Sys2Proof.Machine.execQueryTask key s
  | .massStorageReset p plot => Sys2Proof.Machine.execMassStorageReset p plot s
  | .getMaxLun p plot => Sys2Proof.Machine.execGetMaxLun p plot s
  | .put key mode name value fua => Sys2Proof.Machine.execPut key mode name value fua s
  | .get key name => Sys2Proof.Machine.execGet key name s
  | .list key after max => Sys2Proof.Machine.execList key after max s
  | .delete key name fua => Sys2Proof.Machine.execDelete key name fua s
  | .semTake id n => Sys2Proof.Machine.execSemTake id n s
  | .semRelease id n => Sys2Proof.Machine.execSemRelease id n s
  | .semForce id n => Sys2Proof.Machine.execSemForce id n s
  | .bulkRekey id plot => Sys2Proof.Machine.execBulkRekey id plot s
  | .plotErase id plot key => Sys2Proof.Machine.execPlotErase id plot key s
  | .rdpLevel1 id key => Sys2Proof.Machine.execRdpLevel1 id key s
  | .rdpLevel2 id key => Sys2Proof.Machine.execRdpLevel2 id key s
  | .rdpLower id key => Sys2Proof.Machine.execRdpLower id key s
  | .loweringComplete => Sys2Proof.Machine.execLoweringComplete s
  | .rootGen id => Sys2Proof.Machine.execRootGen id s
  | .wallTime id hi => Sys2Proof.Machine.execWallTime id hi s
  | .pwrFail => Sys2Proof.Machine.execPwrFail s
  | .holdupRelease => Sys2Proof.Machine.execHoldupRelease s
  | .holdupLost => Sys2Proof.Machine.execHoldupLost s
  | .grnKey id key => Sys2Proof.Machine.execGrnKey id key s
  | .grnRead id area margin count => Sys2Proof.Machine.execGrnRead id area margin count s
  | .grnProgram id area margin count => Sys2Proof.Machine.execGrnProgram id area margin count s
  | .grnErase id area margin count => Sys2Proof.Machine.execGrnErase id area margin count s
  | .grnSuspend id => Sys2Proof.Machine.execGrnSuspend id s
  | .grnResume id => Sys2Proof.Machine.execGrnResume id s
  | .grnInc id => Sys2Proof.Machine.execGrnInc id s
  | .grnCommandDone corrected uncorrectable failAt eraseFails => Sys2Proof.Machine.execGrnCommandDone corrected uncorrectable failAt eraseFails s
  | .eraseSuspendDue => Sys2Proof.Machine.execEraseSuspendDue s
  | .eraseAutoResume => Sys2Proof.Machine.execEraseAutoResume s
  | .windowAdvance destEraseFails => Sys2Proof.Machine.execWindowAdvance destEraseFails s
  | .apertureAccess id offset write value parityOk => Sys2Proof.Machine.execApertureAccess id offset write value parityOk s
  | .eccWriteback bank word => Sys2Proof.Machine.execEccWriteback bank word s
  | .bnkHandover id bank new scrub => Sys2Proof.Machine.execBnkHandover id bank new scrub s
  | .bnkSeize id bank => Sys2Proof.Machine.execBnkSeize id bank s
  | .scrubDone bank => Sys2Proof.Machine.execScrubDone bank s
  | .add32 id => Sys2Proof.Machine.execAdd32 id s
  | .add64 id => Sys2Proof.Machine.execAdd64 id s
  | .swap32 id => Sys2Proof.Machine.execSwap32 id s
  | .swap64 id => Sys2Proof.Machine.execSwap64 id s
  | .mpuRegionWrite id region reg value => Sys2Proof.Machine.execMpuRegionWrite id region reg value s
  | .mpuLock id => Sys2Proof.Machine.execMpuLock id s
  | .mpuVioAck id seq => Sys2Proof.Machine.execMpuVioAck id seq s
  | .linkUp l => Sys2Proof.Machine.execLinkUp l s
  | .laneLoss l lane => Sys2Proof.Machine.execLaneLoss l lane s
  | .replayTimeout l => Sys2Proof.Machine.execReplayTimeout l s
  | .linkRetrain l => Sys2Proof.Machine.execLinkRetrain l s
  | .ack h => Sys2Proof.Machine.execAck h s
  | .nak h => Sys2Proof.Machine.execNak h s
  | .hello h stackId pos role st serial => Sys2Proof.Machine.execHello h stackId pos role st serial s
  | .linkdown h pos which => Sys2Proof.Machine.execLinkdown h pos which s
  | .leave h pos => Sys2Proof.Machine.execLeave h pos s
  | .enum h entries => Sys2Proof.Machine.execEnum h entries s
  | .confirm h expect count results => Sys2Proof.Machine.execConfirm h expect count results s
  | .keyx h publicKey => Sys2Proof.Machine.execKeyx h publicKey s
  | .time h stackTime retire => Sys2Proof.Machine.execTime h stackTime retire s
  | .safe h scope cause => Sys2Proof.Machine.execSafe h scope cause s
  | .regFrame h entries => Sys2Proof.Machine.execRegFrame h entries s
  | .regRsp h status value => Sys2Proof.Machine.execRegRsp h status value s
  | .ioReq h p plot req => Sys2Proof.Machine.execIoReq h p plot req s
  | .ioRsp h status senseKey asc ascq order info => Sys2Proof.Machine.execIoRsp h status senseKey asc ascq order info s
  | .blkHead h b => Sys2Proof.Machine.execBlkHead h b s
  | .blkData h data => Sys2Proof.Machine.execBlkData h data s
  | .blkAck h result => Sys2Proof.Machine.execBlkAck h result s
  | .blkResend tag => Sys2Proof.Machine.execBlkResend tag s
  | .pageRel h addr tagp slots => Sys2Proof.Machine.execPageRel h addr tagp slots s
  | .pageDone h addr fail => Sys2Proof.Machine.execPageDone h addr fail s
  | .readReq h addr nunit => Sys2Proof.Machine.execReadReq h addr nunit s
  | .key h plot gen old wrap => Sys2Proof.Machine.execKey h plot gen old wrap s
  | .keyclr h plot => Sys2Proof.Machine.execKeyclr h plot s
  | .brec h recs => Sys2Proof.Machine.execBrec h recs s
  | .scan h fixcount => Sys2Proof.Machine.execScan h fixcount s
  | .scanRsp h tags => Sys2Proof.Machine.execScanRsp h tags s
  | .eventFrame h event => Sys2Proof.Machine.execEventFrame h event s
  | .unknownFrame h ty len => Sys2Proof.Machine.execUnknownFrame h ty len s
  | .enumResend => Sys2Proof.Machine.execEnumResend s
  | .enumWindowClose => Sys2Proof.Machine.execEnumWindowClose s
  | .loneTimeout => Sys2Proof.Machine.execLoneTimeout s
  | .requestTimeout tag => Sys2Proof.Machine.execRequestTimeout tag s
  | .absentTimeout pos => Sys2Proof.Machine.execAbsentTimeout pos s
  | .timePeriod => Sys2Proof.Machine.execTimePeriod s
  | .masterLost => Sys2Proof.Machine.execMasterLost s
  | .stkRemoteRead id => Sys2Proof.Machine.execStkRemoteRead id s
  | .stkRemoteWrite id => Sys2Proof.Machine.execStkRemoteWrite id s
  | .reEnumerate id => Sys2Proof.Machine.execReEnumerate id s
  | .jtagExtest cells => Sys2Proof.Machine.execJtagExtest cells s
  | .jtagIdcode => Sys2Proof.Machine.execJtagIdcode s
  | .jtagSamplePreload sampled preload => Sys2Proof.Machine.execJtagSamplePreload sampled preload s
  | .jtagCspace addr write data => Sys2Proof.Machine.execJtagCspace addr write data s
  | .jtagReset => Sys2Proof.Machine.execJtagReset s
  | .jtagBypass code => Sys2Proof.Machine.execJtagBypass code s
  | .holdupOkAsserted => Sys2Proof.Machine.execHoldupOkAsserted s
  | .linkFrameError l crcOk lseq => Sys2Proof.Machine.execLinkFrameError l crcOk lseq s
  | .capsuleRefused p fn raw => Sys2Proof.Machine.execCapsuleRefused p fn raw s
  | .ssBulkTransaction p k ep isIn => Sys2Proof.Machine.execSsBulkTransaction p k ep isIn s
  | .setFeatureDevice p f on => Sys2Proof.Machine.execSetFeatureDevice p f on s
  | .bulkInTransfer p fn isEvent => Sys2Proof.Machine.execBulkInTransfer p fn isEvent s

end Sys2Proof.Machine
end

