-- ==== Sys2Proof/Safety.lean ====
section
/-! DEFINITION. The words the statements use: what it takes for a command to have its effect, and what a command leaves
alone. -/

namespace Sys2Proof.Machine

/-! ### Control-space writes -/

/-- A Control-space write reaches the space, meets none of the checks of R26, R27 and R318 and is not shut out by R660;
`exempt` marks a register that R318 excepts from the lock. -/
def WritePasses (s : State) (id : Identity) (addr : Nat) (exempt : Bool) : Prop :=
  s.csOpen id = true ∧ s.mpuRefuses id false addr .write = none ∧ (exempt = true ∨ s.writeLocked id = false) ∧ (s.hasLayout = true ∨ writableBare addr = true)

/-- The answer of an identity's last Control-space access: the value and the status (Table FNC-5). -/
def State.replyTo (s : State) (id : Identity) : Option (Word × Nat) := (s.replies.find? (·.id == id)).map fun r => (r.value, r.st)

/-! ### Faults -/

/-- A fault that leads to a scope: the scope is in force for its cause, or, while a RECOVER is pending, waits for it (R97, R110,
R116). -/
def Faulted (s t : State) (cause code inst : Nat) (latch : Bool) : Prop :=
  (s.saf.recPending = none → ∃ c ∈ t.saf.scopes, c.code = code ∧ c.inst = inst ∧ c.cause = cause ∧ c.latch = latch) ∧
  (s.saf.recPending ≠ none → ∃ d ∈ t.saf.deferred, d.enters = true ∧ d.record.cause = cause ∧ d.record.scope = code)

/-- A ticket of class 6 is free for a lane's slot, once its last one has returned (Table ARB-2, R55). -/
def State.stripTicketFree (s : State) (lane : Lane) : Bool := (drawTicket (freeLane s lane) 6).isSome

/-! ### Blocks of reads -/

/-- The page a block of a read was looked up at; none for one that lay in a staging slot, or came over the ring. -/
def pageOf (t : Task) (i : Nat) : Option Nat := (t.asked.find? fun x => x.1 == i && x.2 != addrUnmapped).map (·.2)

/-! ### Recipe words -/

/-- An operation has been entered on a die, waits for nothing, no slot has stopped it, and the bus serves its die (R80, R480,
R490, R498). -/
def AtWord (s : State) (ch die : Nat) (r : RunOp) : Prop :=
  s.runOp ch die = some r ∧ s.busFor ch die = true ∧ r.entered = true ∧ r.waiting = .none ∧ r.stopped = false

/-- The words of the set an operation runs under. -/
def State.codeOf (s : State) (ch : Nat) (r : RunOp) : List Word := ((s.recipeOf ch r.oldSet).map (·.code)).getD []

/-- The operation with only the loops left whose body holds a branch's target (R490, R494). -/
def RunOp.leaves (r : RunOp) (code : List Word) (target : Nat) : RunOp := { r with loops := r.loops.filter fun l => l.holds code target }

/-- The operation after one of its words has run, with `next` its next word (R490). -/
def RunOp.moved (r : RunOp) (next : Nat) : RunOp :=
  { r with last := r.word, word := next, sinceMode := r.sinceMode - 1, waiting := .none, lastPending := false }

/-- The loop at LEVEL, 0 the outermost, is on its last iteration; so is one that is not open. -/
def LastIteration (r : RunOp) (level : Nat) : Bool :=
  match r.loops.reverse[level]? with
  | some l => decide (l.count ≤ l.index + 1)
  | none => true

/-- A word runs on a die: `after` is the operation with what the word did to it, `bus` the cycles it put on the bus. Without LAST
the operation is at the next word; with LAST it ends, with pass unless the error branch has been entered. -/
def WordRuns (s : State) (c : Instr) (ch die : Nat) (r after : RunOp) (last : Bool) (bus : List BusCycle) : Prop :=
  ∃ u, exec c s = .next (if last then endOp u ch die (!r.inError) else u) ∧
    u.runOp ch die = some (after.moved (if last then r.word else r.word + 1)) ∧ (u.chan ch).bus = bus

/-- A word goes to another word. -/
def GoesTo (s : State) (c : Instr) (ch die : Nat) (after : RunOp) (next : Nat) : Prop :=
  ∃ t, exec c s = .next t ∧ t.runOp ch die = some (after.moved next)

/-- A word that waited is over; `after` is what follows on its channel. -/
def WaitOver (s : State) (c : Instr) (ch die : Nat) (r : RunOp) (after : State → State) : Prop :=
  ∃ u, exec c s = .next (after (if r.lastPending then endOp u ch die (!r.inError) else u)) ∧
    u.runOp ch die = some { r with word := if r.lastPending then r.word else r.word + 1, sinceMode := r.sinceMode - 1, waiting := .none, lastPending := false }

/-- The operation waits for ready at its word: polling at once with BUSY index 31, else after the BUSY time (R492). -/
def RunOp.polling (r : RunOp) (busy : Nat) (byte : Byte) (lun last : Bool) : RunOp :=
  { r with
    last := r.word
    waiting := if busy = 31 then .poll else .busy
    pollByte := byte
    pollLun := lun
    lastPending := last }

/-- Whether the operation an ENTER starts, with the die after it, goes on under the old recipe set (R140, R508). -/
def RunOp.underOld (r : RunOp) (x : DieState) : Bool :=
  ((r.kind == .resume || r.kind == .suspend) && ((x.susp.map (·.oldSet)).getD false)) || r.oldSet || r.ops.any (·.oldSet)

/-- An operation right after the ENTER at word `w`. -/
def RunOp.enteredAt (r : RunOp) (w tmo err : Nat) (old : Bool) : RunOp :=
  { r with
    entered := true
    word := w + 1
    last := w
    tmo := tmo
    err := err
    oldSet := old
    sinceMode := r.sinceMode - 1
    waiting := .none
    lastPending := false }

/-- Two states differ in one channel only, apart from how many free values have been drawn. -/
def OnlyChan (ch : Nat) (s t : State) : Prop :=
  { t with chans := s.chans, free := s.free } = s ∧ ∀ k, k ≠ ch → t.chan k = s.chan k

/-! ### SCSI commands -/

/-- A command reaches its logical unit in an IU that R294 does not turn away, with a tag that is not in flight. -/
def Reaches (s : State) (key : TaskKey) (tr : Transport) : Prop :=
  s.presented key = true ∧ s.badIu key tr = false ∧ ∀ t ∈ s.fn.tasks, t.key = key → t.statusDue = false

/-- Nothing stands between a command and its own meaning: no UNIT ATTENTION owed (R296), no SANITIZE in progress (R290), not
Dark (R208, R210, R620). -/
def ScsiClear (s : State) (key : TaskKey) (tr : Transport) : Prop :=
  Reaches s key tr ∧ s.owesAttention key = false ∧ (s.plot key.plot).sanitize = none ∧ s.plotDark key.plot = false

/-- The status and the data of the last SCSI command of an origin and a Plot, when it was this one. -/
def State.resultOf (s : State) (key : TaskKey) : Option (ScsiStatus × List Byte) :=
  (s.fn.results.find? (·.key == key)).map fun r => (r.status, r.data)

/-- A command ends at once with a status and draws nothing: on a port as the unit's last status, for a member's host as an
IO_RSP on the ring (R613). Nothing changes but the kept results, sense data and UNIT ATTENTION, and at USB 2.0 the granules that
what is sent takes (R231). -/
def Answers (s : State) (c : Instr) (key : TaskKey) (st : ScsiStatus) (data : List Byte) : Prop :=
  ∃ t, exec c s = .next t ∧
    match key.origin with
    | .port _ => t.resultOf key = some (st, data) ∧ { t with fn := s.fn, free := s.free } = sendIn s key data.length ∧
        { t.fn with results := s.fn.results, sense := s.fn.sense, attention := s.fn.attention } = s.fn
    | .ring pos => ∃ u : State, { u with fn := s.fn, free := s.free } = s ∧ u.fn.tasks = s.fn.tasks ∧
        t = ringSend u 0x31 pos key.tag true (ioRspBytes st 0)

/-- The key and the transport of a SCSI command that R296, R290 and R208 may turn away. -/
def gatedKey : Instr → Option (TaskKey × Transport)
  | .testUnitReady ⟨key, tr, _⟩ => some (key, tr)
  | .readCapacity10 ⟨key, tr, _⟩ => some (key, tr)
  | .readCapacity16 ⟨key, tr, _⟩ _ => some (key, tr)
  | .read10 key tr _ _ _ => some (key, tr)
  | .read16 key tr _ _ _ => some (key, tr)
  | .write10 key tr _ _ _ => some (key, tr)
  | .write16 key tr _ _ _ => some (key, tr)
  | .synchronizeCache10 key tr _ _ _ _ => some (key, tr)
  | .synchronizeCache16 key tr _ _ _ _ => some (key, tr)
  | .unmap key tr _ _ _ => some (key, tr)
  | .sanitize key c _ _ _ => some (key, c.tr)
  | .startStopUnitStop key c _ => some (key, c.tr)
  | .startStopUnitStart ⟨key, tr, _⟩ _ => some (key, tr)
  | .modeSense10 ⟨key, tr, _⟩ _ _ _ => some (key, tr)
  | .securityProtocolIn ⟨key, tr, _⟩ _ _ _ => some (key, tr)
  | .unsupportedCdb ⟨key, tr, _⟩ _ => some (key, tr)
  | _ => none

/-! ### Request capsules -/

/-- The response a function has built and the host has not read in full. -/
def State.response (s : State) (p : Port) (fn : CapsuleFn) : Option Response := ((s.pfn p).cap fn).resp

/-- A capsule command is answered at once: the response is built, the function is no longer busy, and nothing else changes but the
capsule state of its port's functions. -/
def Responds (s : State) (c : Instr) (p : Port) (fn : CapsuleFn) (r : Response) : Prop :=
  ∃ t, exec c s = .next t ∧ t.response p fn = some r ∧ ((t.pfn p).cap fn).busy = false ∧ { t with fn := s.fn } = s ∧
    t.fn.tasks = s.fn.tasks ∧ t.fn.results = s.fn.results ∧ (t.pfn p).events = (s.pfn p).events ∧ ∀ q, q ≠ p → t.pfn q = s.pfn q

/-! ### The Granary -/

/-- A requester's bank of the protocol registers; the reset bank for an identity that has none. -/
def State.bankOf (s : State) (id : Identity) : GrnBank := (s.grnBank? id).getD Reset.grnBank

/-! ### Bank space -/

/-- An access to bank words passes the walls of R26 and finds its word intact (R553, R555, R568, R569). -/
def BankPasses (s : State) (id : Identity) (addr : Nat) (k : AccessKind) : Prop :=
  addr < s.bankLimit ∧ s.passesOwner id (addr / 0x40000) = true ∧ s.mpuRefuses id true addr k = none ∧
    (s.bank (addr / 0x40000)).scrubbing = false ∧ s.bankBad.contains (addr / 8) = false

/-- The bytes from `addr` hold a value and every other byte is as before. -/
def Stored (s t : State) (addr bytes value : Nat) : Prop :=
  (∀ j < bytes, cellAt 0 (addr + j) t.bankMem = BitVec.ofNat 8 (value / 256 ^ j)) ∧
    ∀ a, a < addr ∨ addr + bytes ≤ a → cellAt 0 a t.bankMem = cellAt 0 a s.bankMem

/-! ### USB ports -/

/-- Two states differ in the USB state of one port only. -/
def OnlyPort (p : Port) (s t : State) : Prop :=
  { t with portA := s.portA, portB := s.portB } = s ∧ ∀ q, q ≠ p → t.port q = s.port q

/-- One embedded port of a hub. -/
def State.emb (s : State) (p : Port) (k : Nat) : EmbPort := (s.port p).emb.getD k Reset.emb

/-- A request on an embedded port reaches a configured hub. -/
def HubTakes (s : State) (p : Port) (k : Nat) : Prop :=
  (s.port p).live = true ∧ (s.port p).configured = true ∧ 1 ≤ k ∧ k < 16 ∧ (s.port p).emb.length = 16

/-! ### The stack ring -/

/-- Two states differ in the two links of the ring only. -/
def OnlyLinks (s t : State) : Prop := { t with stk := { t.stk with up := s.stk.up, dn := s.stk.dn } } = s

/-- A frame is the next in order on a link that is up, with no second master found (R585, R595). -/
def InOrder (s : State) (h : FrameHdr) : Prop :=
  (s.stk.link h.link).up = true ∧ s.stk.dup = false ∧ h.lseq = ((s.stk.link h.link).rxSeq + 1) % 4096

/-- A frame that this device delivers: broadcast, or sent to its position (R598). -/
def Delivered (s : State) (h : FrameHdr) : Prop := InOrder s h ∧ (h.bcast = true ∨ s.stk.pos = some h.dest)

/-- A frame's command: the link takes the frame, `P` relates the state then to the one its effect leaves, and after it only the
links may change, where the frame goes on. -/
def Effect (s : State) (c : Instr) (h : FrameHdr) (P : State → State → Prop) : Prop :=
  OnlyLinks s (linkTake s h).1 ∧ ∃ v t, P (linkTake s h).1 v ∧ OnlyLinks v t ∧ exec c s = .next t

/-- The header of a frame that carries more than the links' own traffic, and whether R598 routes it. -/
def frameOf? : Instr → Option (FrameHdr × Bool)
  | .hello h _ _ _ _ _ => some (h, false)
  | .enum h _ => some (h, false)
  | .unknownFrame h _ _ => some (h, false)
  | .linkdown h _ _ => some (h, true)
  | .leave h _ => some (h, true)
  | .confirm h _ _ _ => some (h, true)
  | .keyx h _ => some (h, true)
  | .time h _ _ => some (h, true)
  | .safe h _ _ => some (h, true)
  | .regFrame h _ => some (h, true)
  | .regRsp h _ _ => some (h, true)
  | .ioReq h _ _ _ => some (h, true)
  | .ioRsp h _ _ _ _ _ _ => some (h, true)
  | .blkHead h _ => some (h, true)
  | .blkData h _ => some (h, true)
  | .blkAck h _ => some (h, true)
  | .pageRel h _ _ _ => some (h, true)
  | .pageDone h _ _ => some (h, true)
  | .readReq h _ _ => some (h, true)
  | .key h _ _ _ _ => some (h, true)
  | .keyclr h _ => some (h, true)
  | .brec h _ => some (h, true)
  | .scan h _ => some (h, true)
  | .scanRsp h _ => some (h, true)
  | .eventFrame h _ => some (h, true)
  | _ => none

/-- Another master has been found: a Lone master with both links idle and no request, whose wide Fields then settle (R595,
R617). -/
def DupMaster (t : State) : Prop :=
  ∃ w, t = settleWide w ∧ w.stk.dup = true ∧ w.stk.state = 3 ∧ w.stk.lone = true ∧ w.stk.window = false ∧ w.stk.members = [(0, 0)] ∧
    w.stk.requests = [] ∧ (w.stk.up.idle = true ∧ w.stk.up.up = false) ∧ (w.stk.dn.idle = true ∧ w.stk.dn.up = false)

/-- Enumeration has ended with the positions found, and the wide Fields then settle (R590, R592, R597). -/
def EnumDone (s : State) (found : List (Nat × EnumEntry)) (t : State) : Prop :=
  let adm := admission s.ownEntry s.expectOf found
  let members := (0, s.ownSerial) :: (adm.filter fun x => x.2.1 == 0).map fun x => (x.1, x.2.2.serial)
  ∃ w, t = settleWide w ∧ w.stk.window = false ∧ w.stk.members = members ∧ w.stk.count = members.length ∧ w.stk.absent = [] ∧
    w.stk.state = (if members.length = 1 ∧ s.expectOf ≠ 1 then 3 else 2) ∧ w.stk.lone = decide (members.length = 1 ∧ s.expectOf ≠ 1) ∧
    w.fields = s.fields ∧ w.arb = s.arb ∧ w.plots = s.plots ∧ w.saf = s.saf

/-- The master may declare a position absent: an admitted one other than its own that is not absent yet (R617). -/
def MayBeAbsent (s : State) (pos : Nat) : Prop :=
  s.isMaster = true ∧ pos ≠ s.ringPos ∧ s.stk.members.any (·.1 == pos) = true ∧ pos ∉ s.stk.absent

/-- A position has been declared absent: its shadows are no longer awaited, its requests have ended, and each wide Field takes
the absence in (R441, R617). -/
def DeclaredAbsent (s : State) (pos : Nat) (t : State) : Prop :=
  ∃ w, t = (wideCfgs s).foldl (fun a f => absenceIn a pos f) w ∧ w.stk.absent = s.stk.absent ++ [pos] ∧ w.stk.members = s.stk.members ∧
    w.stk.shadows = s.stk.shadows.filter (·.pos != pos) ∧ (∀ q ∈ w.stk.requests, q.dest ≠ pos) ∧ pos ∉ w.stk.dark ∧ w.fields = s.fields

/-- The last frame put on a link. -/
def State.lastSent (s : State) (l : Link) : Option OutFrame := (s.stk.link l).sent.getLast?

/-! ### What every step keeps -/

/-- The Granary's cells and bank space are in canonical form, each of the 128 semaphores is free or held by a host identity
(R310), and the fault log holds at most 256 records (R103). -/
def Inv (s : State) : Prop :=
  cellsOk 0xFF s.grn.mem = true ∧ cellsOk 0 s.bankMem = true ∧ s.sem.owner.length = 128 ∧
    (∀ o ∈ s.sem.owner, o = idNone ∨ isHostId o = true) ∧ s.saf.log.length ≤ 256

end Sys2Proof.Machine
end

