-- ==== Sys2Proof/Certificates/Slice0/Obligations.lean ====
section
/-! DEFINITION. The statements about the Z96 for the provers, family by family. -/

open Sys2Proof Sys2Proof.Machine

/-- CMD, CMDL, ADDR, DOUT and DIN put their cycles on the bus and go to the next word or end the operation. On a die whose
operation is at a word (entered, waiting for nothing, not stopped, the bus serving its die), when the command is the word its
recipe holds there, CMD without WAIT, CMDL whose wait bit does not apply, ADDR, DOUT and DIN answer a next state: the
channel's bus shows the word's cycles, DIN's status byte, V register or decode result is taken, and without LAST the
operation stands at the following word; with LAST the operation ends, with pass unless the error branch has been entered.
CMDL puts LASTB, NOTLAST or nothing on the bus by whether the loop at LEVEL is on its last iteration. -/
def Obligations.RecipeBusWords : Prop :=
  ∀ (s : State) (ch die : Nat) (r : RunOp) (last : Bool), AtWord s ch die r → (last = false → r.word + 1 < s.wordsOf ch r) →
    (∀ b busy, s.wordAt ch r = some (.cmd b false busy last) → WordRuns s (.cmd ch die b false busy last) ch die r r last [.cmd b]) ∧
    (∀ notLast lastB level none_ wait waitLast busy, s.wordAt ch r = some (.cmdl notLast lastB level none_ wait waitLast busy last) →
      (if LastIteration r level then waitLast else wait) = false →
      WordRuns s (.cmdl ch die notLast lastB level none_ wait waitLast busy last) ch die r r last
        (if LastIteration r level then (if none_ then [] else [.cmd lastB]) else [.cmd notLast])) ∧
    (∀ kind, s.wordAt ch r = some (.addr kind last) → WordRuns s (.addr ch die kind last) ch die r r last (addrCycles (chanOr s ch) (r.target (chanOr s ch) die) r kind)) ∧
    (∀ src, s.wordAt ch r = some (.dout src last) → WordRuns s (.dout ch die src last) ch die r r last
      [.dataOut (doutBytes s ch r src)]) ∧
    (∀ dst colSel, s.wordAt ch r = some (dinWord dst colSel last) → WordRuns s (.din ch die dst colSel last) ch die r
      (match dst with
        | .page dec => { r with decoded := r.decoded ++ [dec] }
        | .status b => { r with fs := b }
        | .v k x => { r with v := r.v.set k x }) last
      ((if colSel then [BusCycle.cmd 0x05] ++ (leBytes 2 (unitColumn (chanOr s ch) (placeOf r).2.2)).map BusCycle.addr ++ [.cmd 0xE0]
        else []) ++
       [.dataIn (match dst with
        | .page _ => unitBytes (chanOr s ch) (placeOf r).2.2 ((r.ops.head?.map (·.nunit)).getD 0)
        | .status _ => 1
        | .v _ _ => 4)]))

/-- WAIT, POLL and the waiting forms of CMD and CMDL wait; WAIT_ELAPSED and STATUS_POLL complete them. CMD with WAIT, CMDL with
its wait bit, POLL and WAIT, as the recipe holds them at the word reached, leave the operation at its word with the wait the
spec names (BUSY index 31 polls at once) and LAST kept for the end of the wait. WAIT_ELAPSED ends a WAIT. While the bus is
free, the status byte after BUSY, and each later STATUS_POLL, goes to FS (while it is not, the first poll comes later); with
bit 6 = 0 the poll goes on, with bit 6 = 1 the word is over, and the operation stands at the next word or, with LAST, ends. -/
def Obligations.RecipeWaitWords : Prop :=
  ∀ (s : State) (ch die : Nat) (r : RunOp),
    (AtWord s ch die r →
      (∀ b busy last, s.wordAt ch r = some (.cmd b true busy last) → ∃ t, exec (.cmd ch die b true busy last) s = .next t ∧ (t.chan ch).bus = [.cmd b] ∧
        t.runOp ch die = some (r.polling busy (if 1 < (chanOr s ch).luns then 0x78 else 0x70) (decide (1 < (chanOr s ch).luns)) last)) ∧
      (∀ notLast lastB level none_ wait waitLast busy last, s.wordAt ch r = some (.cmdl notLast lastB level none_ wait waitLast busy last) →
        (if LastIteration r level then waitLast else wait) = true →
        ∃ t, exec (.cmdl ch die notLast lastB level none_ wait waitLast busy last) s = .next t ∧
          t.runOp ch die = some (r.polling busy (if 1 < (chanOr s ch).luns then 0x78 else 0x70) (decide (1 < (chanOr s ch).luns)) last)) ∧
      (∀ byte busy lun last, s.wordAt ch r = some (.poll byte busy lun last) → ∃ t, exec (.poll ch die byte busy lun last) s = .next t ∧
        t.runOp ch die = some (r.polling busy byte lun last)) ∧
      (∀ n last, s.wordAt ch r = some (.wait n last) → ∃ t, exec (.wait ch die n last) s = .next t ∧ (t.chan ch).bus = [.wait (s.timing ch r n)] ∧
        t.runOp ch die = some { r with last := r.word, waiting := .time, lastPending := last })) ∧
    (s.runOp ch die = some r → s.awake ch = true → r.stopped = false → (r.lastPending = false → r.word + 1 < s.wordsOf ch r) →
      (∀ status, r.waiting = .time → WaitOver s (.waitElapsed ch die status) ch die r fun u => noteReady u ch) ∧
      (∀ status, r.waiting = .busy → s.busFree ch = false →
        ∃ t, exec (.waitElapsed ch die status) s = .next t ∧ t.runOp ch die = some { r with waiting := .poll }) ∧
      (∀ status c, s.busFree ch = true →
        (c = .waitElapsed ch die status ∧ r.waiting = .busy) ∨ (c = .statusPoll ch die status ∧ r.waiting = .poll) →
        (status.getLsbD 6 = false → ∃ t, exec c s = .next t ∧ t.runOp ch die = some { r with fs := status, waiting := .poll }) ∧
        (status.getLsbD 6 = true → WaitOver s c ch die { r with fs := status } id)))

/-- TEST, LOOP, NEXT, JUMP, SETV and MODE move the word pointer, the loops and the registers as the recipe says. On a die at the
word its recipe holds: TEST goes to TARGET when a bit of FS under MASK has the sensed value and to the next word (or ends,
with LAST) otherwise, and TARGET 0xFFF is a fault then; LOOP opens a loop with its count and enters the body, and a count of
0 goes to the word after the matching NEXT; NEXT repeats the innermost loop from the word after its LOOP, or leaves it after
its last iteration; JUMP goes to TARGET; a taken branch keeps the loops whose body holds its target (log 83); SETV writes one
half of VK; MODE sets the die's interface and timing mode, with the next two steps an abort window. The target word must lie
inside the recipe. -/
def Obligations.RecipeControlWords : Prop :=
  ∀ (s : State) (ch die : Nat) (r : RunOp), AtWord s ch die r →
    (∀ mask sense target last, s.wordAt ch r = some (.test mask sense target last) → ((if sense then ~~~r.fs else r.fs) &&& mask) ≠ 0 → target ≠ 0xFFF → target < s.wordsOf ch r →
      GoesTo s (.test ch die mask sense target last) ch die (r.leaves (s.codeOf ch r) target) target) ∧
    (∀ mask sense last, s.wordAt ch r = some (.test mask sense 0xFFF last) → ((if sense then ~~~r.fs else r.fs) &&& mask) ≠ 0 → r.inError = false → r.sinceMode = 0 → r.err ≠ 0xFFF →
      ∃ t, exec (.test ch die mask sense 0xFFF last) s = .next t ∧ (t.chan ch).faultKind = 1 ∧
        t.runOp ch die = some { r with last := r.word, inError := true, loops := [], word := r.err }) ∧
    (∀ mask sense target last, s.wordAt ch r = some (.test mask sense target last) → ((if sense then ~~~r.fs else r.fs) &&& mask) = 0 → (last = false → r.word + 1 < s.wordsOf ch r) →
      ∃ u, exec (.test ch die mask sense target last) s = .next (if last then endOp u ch die (!r.inError) else u) ∧
        u.runOp ch die = some (r.moved (if last then r.word else r.word + 1))) ∧
    (∀ src, s.wordAt ch r = some (.loop src) → loopCount s ch r src ≠ 0 → r.word + 1 < s.wordsOf ch r →
      GoesTo s (.loop ch die src) ch die { r with loops := ⟨r.word, loopCount s ch r src, 0, src⟩ :: r.loops } (r.word + 1)) ∧
    (∀ src rcp, s.wordAt ch r = some (.loop src) → s.recipeOf ch r.oldSet = some rcp → loopCount s ch r src = 0 →
      afterNext rcp.code rcp.code.length (r.word + 1) 0 < rcp.code.length →
      GoesTo s (.loop ch die src) ch die r (afterNext rcp.code rcp.code.length (r.word + 1) 0)) ∧
    (∀ l rest, s.wordAt ch r = some .next → r.loops = l :: rest → l.index + 1 < l.count → l.word + 1 < s.wordsOf ch r →
      GoesTo s (.next ch die) ch die { r with loops := { l with index := l.index + 1 } :: rest } (l.word + 1)) ∧
    (∀ l rest, s.wordAt ch r = some .next → r.loops = l :: rest → l.count ≤ l.index + 1 → r.word + 1 < s.wordsOf ch r →
      GoesTo s (.next ch die) ch die { r with loops := rest } (r.word + 1)) ∧
    (s.wordAt ch r = some .next → r.loops = [] → r.word + 1 < s.wordsOf ch r → GoesTo s (.next ch die) ch die r (r.word + 1)) ∧
    (∀ target, s.wordAt ch r = some (.jump target) → target < s.wordsOf ch r → GoesTo s (.jump ch die target) ch die (r.leaves (s.codeOf ch r) target) target) ∧
    (∀ k high value, s.wordAt ch r = some (.setv k high value false) → r.word + 1 < s.wordsOf ch r →
      GoesTo s (.setv ch die k high value false) ch die { r with v := r.v.set k (w32 (if high then
        value.toNat * 65536 + (r.v.getD k 0).toNat % 65536 else (r.v.getD k 0).toNat / 65536 * 65536 + value.toNat)) } (r.word + 1)) ∧
    (∀ iface tmode, s.wordAt ch r = some (.mode iface tmode false) → r.word + 1 < s.wordsOf ch r →
      ∃ t, exec (.mode ch die iface tmode false) s = .next t ∧ t.runOp ch die = some (({ r with sinceMode := 3 } : RunOp).moved (r.word + 1)) ∧
        ((t.chan ch).dieAt die).iface = ifaceCode iface ∧ ((t.chan ch).dieAt die).tmode = tmode) ∧
    (∀ k high value iface tmode,
      (s.wordAt ch r = some (.setv k high value true) → ∃ u, exec (.setv ch die k high value true) s = .next (endOp u ch die (!r.inError))) ∧
      (s.wordAt ch r = some (.mode iface tmode true) → ∃ u, exec (.mode ch die iface tmode true) s = .next (endOp u ch die (!r.inError)) ∧ ((u.chan ch).dieAt die).tmode = tmode))

/-- ENTER starts the chosen operation; FAIL goes to the error branch; END ends with pass; the time-out fences the channel. ENTER
on a die the bus serves, or whose SUSPEND is due on a free bus, starts the operation the engine chooses, when its entry point
holds that ENTER, at the word after it, with TMO and ERR noted; an operation begun under an old recipe set goes on under it.
Where the recipe holds them, FAIL records its word and kind and goes to the error branch where ENTER named one, outside an
abort window; inside the error branch it ends the operation with fail. END ends the operation, with pass unless the error
branch has been entered; a read-retry load that passes leaves its step loaded on the die. RECIPE_TIMEOUT of an entered
operation that no slot has stopped puts the channel into channel scope, and a Z1 into device scope; while a RECOVER is
pending the scope waits for it. -/
def Obligations.RecipeBeginsAndEnds : Prop :=
  ∀ (s : State) (ch die : Nat),
    (∀ tmo err rcp run x own w, ch < s.chans.length → die < (s.chan ch).dies.length →
      s.busFor ch die = true ∨ s.suspendFor ch die = true →
      s.recipeOf ch false = some rcp → nextOperation s ch die rcp = some (run, x) →
      s.recipeOf ch (run.underOld x) = some own → own.entry? run.entry = some w → (own.code[w]?).bind decodeWord = some (.enter tmo err) → w + 1 < own.code.length →
      ∃ t, exec (.enter ch die tmo err) s = .next t ∧
        t.runOp ch die = some (run.enteredAt w tmo err (run.underOld x)) ∧
        ((t.chan ch).dieAt die).queue = x.queue) ∧
    (∀ r, AtWord s ch die r →
      (s.wordAt ch r = some .fail → r.inError = false → r.sinceMode = 0 → r.err ≠ 0xFFF →
        ∃ t, exec (.fail ch die) s = .next t ∧
          t.runOp ch die = some { r with last := r.word, inError := true, loops := [], word := r.err } ∧
          (t.chan ch).faultStep = r.word ∧ (t.chan ch).faultKind = 2 ∧ (t.chan ch).faultDie = die ∧ (t.chan ch).faultEntry = r.entry) ∧
      (s.wordAt ch r = some .fail → r.inError = true → ∃ u, exec (.fail ch die) s = .next (endOp u ch die false) ∧ u.runOp ch die = some { r with last := r.word }) ∧
      (s.wordAt ch r = some .end_ → ∃ u, exec (.end_ ch die) s = .next (endOp u ch die (!r.inError)) ∧ u.runOp ch die = some { r with last := r.word }) ∧
      (s.wordAt ch r = some .end_ → r.kind = .retrySet → r.inError = false → ¬ s.lay.recipePend.contains ch →
        ∃ t, exec (.end_ ch die) s = .next t ∧ t.runOp ch die = none ∧ ((t.chan ch).dieAt die).step = some r.retryStep ∧
          ((t.chan ch).dieAt die).delta = r.retryDelta)) ∧
    (∀ r, s.runOp ch die = some r → s.awake ch = true → r.entered = true → r.stopped = false →
      ∃ t, exec (.recipeTimeout ch die) s = .next t ∧ (if s.member = .z1 then Faulted s t 0x00B0 6 0 false else Faulted s t 0x00B0 2 ch false))

/-- A word that does not end its operation changes its own channel and nothing else. Frame of CMD, CMDL, ADDR, DOUT, DIN, WAIT,
POLL, TEST, LOOP, NEXT, JUMP, SETV and MODE without LAST, with their targets inside the recipe: beside the channel the word
runs on, and the count of free values drawn, every field of the state is unchanged, and so is every other channel, and every
other die of the channel but for the channel's own bus and status fields. -/
def Obligations.RecipeWordsTouchOneChannel : Prop :=
  ∀ (s : State) (ch die : Nat) (r : RunOp), AtWord s ch die r → r.word + 1 < s.wordsOf ch r →
    ∀ c t, (∃ b w busy, c = .cmd ch die b w busy false) ∨ (∃ k, c = .addr ch die k false) ∨ (∃ src, c = .dout ch die src false) ∨
      (∃ d cs, c = .din ch die d cs false) ∨ (∃ n, c = .wait ch die n false) ∨ (∃ b busy l, c = .poll ch die b busy l false) ∨
      (∃ n, n < s.wordsOf ch r ∧ c = .jump ch die n) ∨ (∃ k h v, c = .setv ch die k h v false) ∨ (∃ i m, c = .mode ch die i m false) ∨
      (∃ a b l n w wl busy, c = .cmdl ch die a b l n w wl busy false) ∨ (∃ m se n, n < s.wordsOf ch r ∧ n ≠ 0xFFF ∧ c = .test ch die m se n false) ∨
      (∃ src, (loopCount s ch r src = 0 → afterNext (s.codeOf ch r) (s.codeOf ch r).length (r.word + 1) 0 < s.wordsOf ch r) ∧ c = .loop ch die src) ∨
      ((∀ l ∈ r.loops, l.word + 1 < s.wordsOf ch r) ∧ c = .next ch die) →
    exec c s = .next t → OnlyChan ch s t ∧ ∀ d, d ≠ die → (t.chan ch).dieAt d = (s.chan ch).dieAt d

/-- Loss of the reference, a rail fault, tamper, TEST_EN and a failed entropy test enter device-scope Safelight. In every state
(while a RECOVER is pending a scope waits for it): the loss of the reference while it is seen enters device scope with a
latched cause 0x0041; a rail out of its window outside Off (and not VDD_SRAM on a Z1) sets the rail's bit of SAF_RAIL.OUT and
enters device scope; a tamper outside Off, and TEST_EN, enter device scope with the latched cause 0x0090, and in Off a tamper
only sets TAMPER_SEEN; a failed health test withdraws ENTROPY_OK and enters device scope, and a window that passes changes
nothing. -/
def Obligations.MonitorsEnterDeviceScope : Prop :=
  ∀ s : State,
    (s.pwr.refPresent = true → ∃ t, exec .referenceLoss s = .next t ∧ Faulted s t 0x0041 6 0 true ∧ t.pwr.refPresent = false) ∧
    (s.pwr.refPresent = false → exec .referenceLoss s = .next s) ∧
    (∀ rail mv, ¬ (s.member = .z1 ∧ rail = .vddSram) → s.pwr.state ≠ .off →
      ∃ t, exec (.railFault rail mv) s = .next t ∧ Faulted s t 0x0050 6 0 false ∧ t.saf.railOut = s.saf.railOut ||| 2 ^ railBit rail) ∧
    (s.pwr.state ≠ .off → ∃ t, exec .tamper s = .next t ∧ Faulted s t 0x0090 6 0 true ∧ t.sec.tamperLow = true) ∧
    (s.pwr.state = .off → exec .tamper s = .next { s with sec := { s.sec with tamperLow := true, tamperSeen := true } }) ∧
    (∃ t, exec .testEn s = .next t ∧ Faulted s t 0x0090 6 0 true) ∧
    (∀ n, ∃ t, exec (.entropy (some n)) s = .next t ∧ Faulted s t 0x0091 6 0 false ∧ t.sec.entropyOk = false) ∧
    exec (.entropy none) s = .next s

/-- Clock, SOF, temperature and watchdog reports are taken into the registers and lead to the scopes of Table SAF-3. A clock
count outside 2 % of an island that runs, and a fired handshake watchdog, put every scope of the island's row of Table SAF-3
in force (after a pending RECOVER), and a count inside it changes nothing; the watchdog also records both islands and counts.
An SOF window stores each port's deviation (no port B on a Z1-like member), and with both ports out of bounds for a second
window in a row device scope follows while SOFCHECK is on, unless that fault stands already. A temperature sample outside Off
stores the 24 readings and the hottest one, and a sensor above 115 °C in its second consecutive sample enters device scope.
Each second adds the dose of the present temperature to every Field's increment, whose saturation is noted, and one second to
E, and nothing else; in Off nothing of this happens. -/
def Obligations.MonitorWindowsMeasure : Prop :=
  ∀ s : State,
    (∀ island cnt mult, s.islandMult island = some mult → s.islandRuns island = true → s.pwr.refPresent = true →
      let dev : Int := ((cnt * s.islandDiv island : Nat) : Int) - (256 * mult : Nat)
      (((256 * mult : Nat) : Int) < 50 * (dev.natAbs : Int) → ∃ t, exec (.freqMonitorWindow island cnt false) s = .next t ∧
        ∀ x ∈ islandScopes s island, Faulted s t 0x0040 x.1 x.2.1 x.2.2) ∧
      (50 * (dev.natAbs : Int) ≤ ((256 * mult : Nat) : Int) → exec (.freqMonitorWindow island cnt false) s = .next s)) ∧
    (∀ island cnt, exec (.freqMonitorWindow island cnt true) s = .next s) ∧
    (∀ a b, ∃ t, exec (.watchdogExpiry a b) s = .next t ∧ t.arb.wdogReq = a % 256 ∧ t.arb.wdogResp = b % 256 ∧
      t.arb.wdogCount = min 0xFFFF (s.arb.wdogCount + 1) ∧ ∀ x ∈ islandScopes s b, Faulted s t 0x0030 x.1 x.2.1 x.2.2) ∧
    (∀ a b, ∃ t, exec (.sofWindow a b) s = .next t ∧ t.saf.ppmA = a.map sofPpm ∧
      t.saf.ppmB = if s.member.ports = 1 then none else b.map sofPpm) ∧
    (∀ a b, s.saf.sofCheck = true → s.hasLayout = true → s.member.ports ≠ 1 → 1000 < (sofPpm a).natAbs → 1000 < (sofPpm b).natAbs →
      1 ≤ s.saf.devA → 1 ≤ s.saf.devB → (s.stands fun c _ => c == 0x0042) = false →
      ∃ t, exec (.sofWindow (some a) (some b)) s = .next t ∧ Faulted s t 0x0042 6 0 false) ∧
    (∀ readings, readings.length = 24 → s.pwr.state ≠ .off →
      ∃ t, exec (.tempSample readings) s = .next t ∧ t.pwr.sens = readings ∧ t.pwr.tj = (hottest readings).2 ∧
        (∀ i, i < 24 → 460 < readings.getD i 0 → s.saf.hot.getD i 0 = 1 → Faulted s t 0x0051 6 0 false)) ∧
    (s.pwr.state ≠ .off → exec .doseTick s = .next { s with
      fields := s.fields.map fun f => { f with
        doseI := doseAdd f.doseI (doseCharge (s.pwr.tj / 4))
        doseISat := f.doseISat || decide (2 ^ 40 ≤ f.doseI + doseCharge (s.pwr.tj / 4)) },
      wall := { s.wall with e := s.wall.e + 1 } }) ∧
    (s.pwr.state = .off → exec .doseTick s = .next s ∧ (∀ readings, exec (.tempSample readings) s = .next s) ∧
      ∀ rail mv, exec (.railFault rail mv) s = .next s)

/-- A sweep slot withdraws the lane's instance, and the end of its strip is recorded and returns it. While the sweep runs, a slot
of a lane advances the lane's slot number, wrapping after its last; with a ticket of class 6 free, a slot of a channel that
is not fenced takes that channel into its sweep slot, and a slot of a cipher engine marks it pending unless it is fenced. A
pending engine whose queue is empty is withdrawn for its strip. The end of a channel's slot returns the channel. A strip that
ends is no longer running; a pass stores its time and a failure its number, and a failure of an instance that no fence or
scope of its own covers puts every scope of its island in force (after a pending RECOVER); a comparator that does not flag
the injected value enters device scope. -/
def Obligations.SweepSlotsTestOneInstance : Prop :=
  ∀ s : State,
    (∀ lane, s.saf.sweepOn = true → ∃ t, exec (.sweepSlot lane) s = .next t ∧
      t.saf.slotOf lane = (if s.saf.slotOf lane + 1 < laneSlots lane then s.saf.slotOf lane + 1 else 0) ∧
      (lane = .channel → s.stripTicketFree lane = true → s.saf.chnSlot + 1 < s.member.channels → s.saf.chnSlot + 1 < s.chans.length →
        (s.chan (s.saf.chnSlot + 1)).fenced = false → (t.chan (s.saf.chnSlot + 1)).swept = true ∧
          t.saf.chnStrip = some ⟨s.saf.chnSlot + 1, s.saf.chnSlot + 1⟩) ∧
      (lane = .cipher → s.stripTicketFree lane = true → s.saf.cphSlot + 1 < s.member.ciphers → s.saf.cphSlot + 1 < s.engines.length →
        (t.engine (s.saf.cphSlot + 1)).pending = !(s.engine (s.saf.cphSlot + 1)).fenced)) ∧
    (∀ lane, s.saf.sweepOn = false → exec (.sweepSlot lane) s = .next s) ∧
    (∀ e, (s.engine e).pending = true → (s.engine e).queue = [] →
      exec (.cipherQueueDrained e) s = .next (s.modEngine e fun q => { q with pending := false, withdrawn := true })) ∧
    (∀ ch slot, (slot = .strip ∧ (s.chan ch).swept = true) ∨ (slot = .zq ∧ (s.chan ch).zq = true) →
      ∃ t, exec (.sweepSlotEnd ch slot) s = .next t ∧ (t.chan ch).swept = false ∧ (t.chan ch).zq = false) ∧
    (∀ ch, ((s.chan ch).swept = false → exec (.sweepSlotEnd ch .strip) s = .next s) ∧
      ((s.chan ch).zq = false → exec (.sweepSlotEnd ch .zq) s = .next s)) ∧
    (∀ lane x, s.saf.strip lane = some x → x.inst < (s.saf.strips lane).length →
      (∃ t, exec (.testStripDone lane .pass true) s = .next t ∧ t.saf.strip lane = none ∧
        (t.saf.strips lane)[x.inst]? = some ⟨some s.timeUs, none⟩) ∧
      (∀ n k, s.stripInForce lane x.inst = false → ∃ t, exec (.testStripDone lane (.fail n k) true) s = .next t ∧
        t.saf.strip lane = none ∧ ((t.saf.strips lane)[x.inst]?.bind (·.lastFail)) = some n ∧
        ∀ y ∈ islandScopes s (laneIsland s.member lane x.inst), Faulted s t 0x0060 y.1 y.2.1 y.2.2) ∧
      (∀ r, ∃ t, exec (.testStripDone lane r false) s = .next t ∧ Faulted s t 0x0061 6 0 true))

/-- SAF_DEEP: a START is accepted when no deep test is pending or running, ignored and counted otherwise, and LANES = 0 passes at
once. For a write of SAF_DEEP that the access checks let through: START = 1 with no deep test pending or running is accepted
from any requester, whatever semaphore 0 holds: the test is pending with the lanes asked for; with LANES = 0 it completes at
once with RESULT = PASS and a count of zero. With a test pending or running, a further START changes nothing but REFUSED,
which counts up to 255, and the grant noted. A write with START = 0 changes nothing (beside the grant that every access
notes). -/
def Obligations.DeepTestRequests : Prop :=
  ∀ (s : State) (id : Identity) (lanes : Nat), WritePasses s id csDeep true →
    (s.saf.deep.state = 0 → lanes % 8 ≠ 0 → ∃ t, exec (.safDeep id true lanes) s = .next t ∧
      t.saf.deep.state = 1 ∧ t.saf.deep.lanes = lanes % 8 ∧ t.saf.deep.requester = id ∧ t.saf.deep.refused = s.saf.deep.refused ∧
      t.saf.deep.todo = deepTodo s.member (lanes % 8)) ∧
    (s.saf.deep.state = 0 → lanes % 8 = 0 → ∃ t, exec (.safDeep id true lanes) s = .next t ∧
      t.saf.deep.state = 0 ∧ t.saf.deep.result = 1 ∧ t.saf.deep.failed = 0) ∧
    (s.saf.deep.state ≠ 0 → exec (.safDeep id true lanes) s =
      .next { noteAccess s id with saf := { s.saf with deep := { s.saf.deep with refused := min 255 (s.saf.deep.refused + 1) } } }) ∧
    exec (.safDeep id false lanes) s = .next (noteAccess s id)

/-- RECOVER: NO_SEM, BUSY, NOTHING, and PENDING for a scope that may end; its completion ends the scope. For a write of
SAF_RECOVER that the access checks let through: without semaphore 0 RESULT = NO_SEM and nothing else changes but the grant of
the access; with a RECOVER pending RESULT = BUSY, likewise; for a scope that is not active RESULT = 4 and a count of 0; for
an active scope with no latching and no present cause, and no rail out of its window, the RECOVER is pending for that scope,
and ALL is pending for every such scope. The completion ends what was pending: nothing is pending or deferred after it, an
engine scope whose strips all passed is over, the engine in service, with COUNT = 1 and RESULT = DONE unless another scope
stayed, and one whose strip failed or was not run stays with RESULT = STRIP_FAIL. -/
def Obligations.RecoverAnswers : Prop :=
  ∀ (s : State) (id : Identity), WritePasses s id csRecover true →
    (∀ c, (c = .recoverAll id ∨ ∃ sc i, c = .recover id sc i) →
      (s.mayRecover id = false → exec c s = .next { noteAccess s id with saf := { s.saf with recResult := 3 } }) ∧
      (s.mayRecover id = true → s.saf.recPending.isSome = true → exec c s = .next { noteAccess s id with saf := { s.saf with recResult := 6 } })) ∧
    (s.mayRecover id = true → s.saf.recPending = none → s.saf.railNow = [] →
      (∀ sc i, sc ≠ 6 → sc ≠ 7 → s.inScope sc i = false →
        exec (.recover id sc i) s = .next { noteAccess s id with saf := { s.saf with recResult := 4, recCount := 0 } }) ∧
      (∀ sc i, sc ≠ 6 → sc ≠ 7 → s.inScope sc i = true → s.barred (sc, i) = 0 →
        ∃ t, exec (.recover id sc i) s = .next t ∧ t.saf.recPending.map (·.targets) = some [(sc, i)] ∧ t.saf.scopes = s.saf.scopes) ∧
      (∀ sc i, (sc = 6 ∨ sc = 7) → s.inScope sc 0 = true → s.barred (sc, 0) = 0 →
        ∃ t, exec (.recover id sc i) s = .next t ∧ t.saf.recPending.map (·.targets) = some [(sc, 0)]) ∧
      (s.saf.scopes ≠ [] → (∀ c ∈ s.saf.scopes, s.barred (c.code, c.inst) = 0) →
        ∃ t, exec (.recoverAll id) s = .next t ∧
          t.saf.recPending.map (·.targets) = some ((s.saf.scopes.map fun c => (c.code, c.inst)).dedup))) ∧
    (∀ strips a d, s.saf.recPending.isSome = true →
      ∃ t, exec (.recoverDone strips a d) s = .next t ∧ t.saf.recPending = none ∧ t.saf.deferred = []) ∧
    (∀ e c n strips, s.saf.recPending = some ⟨[(1, e)], n⟩ → s.saf.deferred = [] → s.saf.scopes = [c] → c.code = 1 → c.inst = e →
      c.cause ≠ 0x0091 → e < s.engines.length →
      ((∀ i ∈ s.stripIslands (1, e), (strips.find? (·.1 == i)).map (·.2) = some StripResult.pass) →
        ∃ t, exec (.recoverDone strips true true) s = .next t ∧ t.inScope 1 e = false ∧ (t.engine e).fenced = false ∧
          t.saf.recResult = n ∧ t.saf.recCount = 1) ∧
      ((∃ i ∈ s.stripIslands (1, e), (strips.find? (·.1 == i)).map (·.2) ≠ some StripResult.pass) →
        ∃ t, exec (.recoverDone strips true true) s = .next t ∧ t.saf.scopes = s.saf.scopes ∧ (t.engine e).fenced = (s.engine e).fenced ∧
          t.saf.recResult = 5 ∧ t.saf.recCount = 0)) ∧
    (s.saf.recPending = none → ∀ strips a d, exec (.recoverDone strips a d) s = .next s)

/-- An access to reserved Control space reads zero, writes nothing and is recorded as RSVD_ACCESS. For an aligned address that
names no register and no window, and an identity other than JTAG's that reaches the space: when no MPU region refuses the
access, no semaphore of a Plot's block is lacking and no write lock holds it back, the read returns zero, the write is
ignored, the answer is OK, and one record of cause RSVD_ACCESS with the address, the direction and the requester joins the
fault log (or waits behind a pending RECOVER); nothing else of the state changes but the grant of the access, whether or not
a layout is active. When a region refuses it, the answer is DENIED, a violation record is written and no fault record. The
lock's part, that an access it ignores is not recorded, is the model's reading (log 15). -/
def Obligations.ReservedSpaceIsLoggedAndInert : Prop :=
  ∀ (s : State) (id : Identity) (addr : CsAddr) (write : Bool),
    addr.toNat % 4 = 0 → regKnown s.member addr.toNat = false → isAperture addr.toNat = false → id ≠ idJtag → s.csOpen id = true →
    (s.mpuRefuses id false addr.toNat (if write then .write else .read) = none →
      (write = false ∨ (s.lacksPlotSem id addr.toNat = false ∧
        (s.writeLocked id = false ∨ (0x10000 ≤ addr.toNat ∧ addr.toNat < 0x14000 + 0x100 * s.member.plots)))) →
      ∃ t, exec (.rsvdAccess id addr write) s = .next t ∧ t.replyTo id = some (0, 0) ∧
        { t with saf := s.saf, replies := s.replies } = noteAccess s id ∧
        (s.saf.recPending = none → ∃ r, t.saf.log = (r :: s.saf.log).take 256 ∧ r.cause = 0x0001 ∧ r.scope = 0 ∧
          r.requester = id.toNat ∧ r.detail0 = w32 addr.toNat ∧ r.detail1 = if write then 1 else 0) ∧
        (s.saf.recPending.isSome = true → ∃ r, t.saf.deferred = s.saf.deferred ++ [r] ∧ r.enters = false ∧ r.record.cause = 0x0001 ∧
          r.record.detail0 = w32 addr.toNat)) ∧
    (∀ r, s.mpuRefuses id false addr.toNat (if write then .write else .read) = some r →
      ∃ t, exec (.rsvdAccess id addr write) s = .next t ∧ t.replyTo id = some (0, 2) ∧ t.saf = s.saf ∧
        (s.mpu.unread < 64 → t.mpu.unread = s.mpu.unread + 1))

/-- A read of ARB_ORD_NEXT_LO or ARB_ORD_RESUME_LO keeps the upper half for the reader's next read of HI. A read of
ARB_ORD_NEXT_LO by an identity that the checks let through returns the low half of the number, and from then on, whatever
else of the state changes, the next read of ARB_ORD_NEXT_HI by the same identity returns the upper half as it was at that
moment, as long as the snapshots of the state are those the first read left. ARB_ORD_RESUME works in the same way. -/
def Obligations.SnapshotPairsReadTogether : Prop :=
  ∀ (s : State) (id : Identity) (lo hi : CsAddr) (n : Nat),
    (lo = 0x4000#24 ∧ hi = 0x4004#24 ∧ n = s.arb.ordNext) ∨ (lo = 0x4008#24 ∧ hi = 0x400C#24 ∧ n = s.arb.ordResume) →
    id ≠ idJtag → s.csOpen id = true → s.mpuRefuses id false lo.toNat .read = none → (∀ x ∈ s.snaps, x.2.1 ≠ lo.toNat) →
    ∃ t, exec (.snapshotRead id lo) s = .next t ∧ t.replyTo id = some (loHalf n, 0) ∧
      ∀ u : State, u.snaps = t.snaps → u.csOpen id = true → u.mpuRefuses id false hi.toNat .read = none →
        ∃ v, exec (.snapshotRead id hi) u = .next v ∧ v.replyTo id = some (hiHalf n, 0)

/-- A clearing read returns the counts and leaves the events of its own tick. A read of any register that the checks let through
and of which no snapshot is kept returns its present value; its fields that clear on a read then hold the events of the same
tick alone, and nothing else changes but the kept answer, the grant of the access and the snapshots it takes. Written out for
ARB_TSF_CNT, SEM_REFUSE and a cipher engine's CPH_CNT, whose fields saturate at their width. -/
def Obligations.RcReadClearsThenCounts : Prop :=
  ∀ (s : State) (id : Identity) (same : Word), id ≠ idJtag → s.csOpen id = true →
    let u := noteAccess s id
    (∀ a : CsAddr, a.toNat % 4 = 0 → regKnown s.member a.toNat = true → isAperture a.toNat = false →
      (s.hasLayout = true ∨ readableBare a.toNat = true) → (isBanked a.toNat = false ∨ reachesBank id a.toNat = true) →
      s.mpuRefuses id false a.toNat .read = none → (∀ x ∈ s.snaps, x.2.1 ≠ a.toNat) →
      ∀ c, c = .rcRead id a same ∨ (c = .snapshotRead id a ∧ same = 0) → ∃ t, exec c s = .next t ∧
        t.replyTo id = some (regValue u id a.toNat, 0) ∧
        { t with snaps := s.snaps, replies := s.replies, free := s.free } = rcClear u a.toNat same) ∧
    (s.mpuRefuses id false 0x401C .read = none → (∀ x ∈ s.snaps, x.2.1 ≠ 0x401C) →
      ∃ t, exec (.rcRead id 0x401C#24 same) s = .next t ∧
        t.replyTo id = some (packWord [(0, 16, s.arb.tsfA), (16, 16, s.arb.tsfB)], 0) ∧
        { t with replies := s.replies } = { u with arb := { u.arb with
          tsfA := min 0xFFFF (field same 0 16), tsfB := min 0xFFFF (field same 16 16) } }) ∧
    (s.mpuRefuses id false 0x10210 .read = none → (∀ x ∈ s.snaps, x.2.1 ≠ 0x10210) →
      ∃ t, exec (.rcRead id 0x10210#24 same) s = .next t ∧
        t.replyTo id = some (packWord [(0, 8, s.sem.busyA), (8, 8, s.sem.busyB), (16, 8, s.sem.busyStk), (24, 8, s.sem.locked)], 0) ∧
        t.sem.busyA = min 0xFF (field same 0 8) ∧ t.sem.busyB = min 0xFF (field same 8 8) ∧
        t.sem.busyStk = min 0xFF (field same 16 8) ∧ t.sem.locked = min 0xFF (field same 24 8) ∧ t.sem.owner = s.sem.owner) ∧
    (s.hasLayout = true → 2 < s.member.ciphers → 2 < s.engines.length → s.mpuRefuses id false 0x50804 .read = none →
      (∀ x ∈ s.snaps, x.2.1 ≠ 0x50804) →
      ∃ t, exec (.rcRead id 0x50804#24 same) s = .next t ∧
        t.replyTo id = some (packWord [(0, 16, (s.engine 2).echoFail), (16, 16, (s.engine 2).clears)], 0) ∧
        (t.engine 2).echoFail = min 0xFFFF (field same 0 16) ∧ (t.engine 2).clears = min 0xFFFF (field same 16 16))

/-- A register write that passes its checks changes its register alone; a refused or locked one changes no register. Writes of
PWR_DIM, MED_WALL_LO and SAF_RAIL that pass every check set their fields (SAF_RAIL.OUT by writing ones) and answer OK; a
write of PLT_PACE by the holder of semaphore 64 + n sets the Plot's pace, and by another host identity changes nothing; an
unaligned address changes nothing. A write that an MPU region refuses is DENIED with a violation record, and one that
semaphore 0 holds back is counted in LOCKED and answers OK. In each case nothing else of the state changes but the kept
answer and, for an aligned access, its grant. -/
def Obligations.RegisterWritesTakeEffect : Prop :=
  ∀ (s : State) (id : Identity) (v : Word), id ≠ idJtag → s.csOpen id = true →
    let u := noteAccess s id
    (WritePasses s id 0x218 false → exec (.registerWrite id 0x218#24 v) s =
      .next (setReply (u.modPwr fun q => { q with dimReg := field v 0 10 }) id v 0)) ∧
    (WritePasses s id 0x400 false → exec (.registerWrite id 0x400#24 v) s =
      .next (setReply { u with wall := { s.wall with wLo := v } } id v 0)) ∧
    (WritePasses s id 0x8064 false → exec (.registerWrite id 0x8064#24 v) s =
      .next (setReply (u.modSaf fun q => { q with railOut := w1c q.railOut (field v 0 5) }) id v 0)) ∧
    (∀ n, n < s.member.plots → n < 64 → WritePasses s id (0x1400C + 0x100 * n) true →
      (isHostId id = false ∨ s.holdsSem id (64 + n) = true → exec (.registerWrite id (BitVec.ofNat 24 (0x1400C + 0x100 * n)) v) s =
        .next (setReply (u.modPlot n fun p => { p with pace := field v 0 4 }) id v 0)) ∧
      (isHostId id = true → s.holdsSem id (64 + n) = false → exec (.registerWrite id (BitVec.ofNat 24 (0x1400C + 0x100 * n)) v) s =
        .next (setReply u id v 0))) ∧
    (∀ a : CsAddr, a.toNat % 4 ≠ 0 → exec (.registerWrite id a v) s = .next (setReply s id v 0)) ∧
    (∀ a : CsAddr, a.toNat % 4 = 0 → regKnown s.member a.toNat = true → isAperture a.toNat = false →
      (∀ r, s.mpuRefuses id false a.toNat .write = some r → exec (.registerWrite id a v) s =
        .next (setReply (recordVio u id false a.toNat .write false false r.index 4) id v 2)) ∧
      (s.mpuRefuses id false a.toNat .write = none → lockExempt a.toNat v = false → s.writeLocked id = true →
        exec (.registerWrite id a v) s = .next (setReply (countLocked u) id v 0)))

/-- While another identity holds semaphore 0, its register commands change nothing but the LOCKED count. For a host identity that
does not hold semaphore 0 while another does, and no MPU region in the way, PWR_RESET, a write of MED_WALL_HI, a bank
handover, an MPU region write, MPU_LOCK, the acknowledgement of a violation and a remote register access of the stack change
nothing but SEM_REFUSE.LOCKED, which counts up to 255, and the grant of the access. -/
def Obligations.WriteLockHoldsBackCommands : Prop :=
  ∀ (s : State) (id : Identity) (c : Instr) (addr : Nat),
    ((∃ k, c = .pwrReset id k ∧ addr = csPwrReset) ∨ (∃ h, c = .wallTime id h ∧ addr = csWallHi) ∨
     (∃ b n x, b < s.banks.length ∧ c = .bnkHandover id b n x ∧ addr = csBnkOwner b) ∨
     (∃ r g v, r < s.member.mpuRegions ∧ g < 3 ∧ c = .mpuRegionWrite id r g v ∧ addr = csMpu r g) ∨
     (c = .mpuLock id ∧ addr = csMpuCtrl) ∨ (∃ q, c = .mpuVioAck id q ∧ addr = csVioAck) ∨
     ((c = .stkRemoteRead id ∨ c = .stkRemoteWrite id) ∧ addr = csStkRop)) →
    s.csOpen id = true → s.mpuRefuses id false addr .write = none → s.writeLocked id = true →
    exec c s = .next { noteAccess s id with sem := { s.sem with locked := min 255 (s.sem.locked + 1) } }

/-- The TAP's instructions select their registers; one the TAP does not take selects BYPASS. From the end of step 4 of the start
and at the protection levels of Table ELE-21: EXTEST drives its cells, IDCODE loads the device code, SAMPLE/PRELOAD captures
and keeps its cells, CSPACE reads GLB_ID into bits [56:25] of its data register and writes GRN_ADDR of the JTAG bank, and
RESET resets the chip with its cause. BYPASS, and every instruction the TAP does not take, selects the one-bit register
loaded with 0 and releases driven cells, and changes nothing else. -/
def Obligations.JtagInstructions : Prop :=
  ∀ s : State,
    let bypass : State := { s with jtag := { s.jtag with ir := 0xFF, dr := 0, drValue := 0, driven := none } }
    (∀ code, exec (.jtagBypass code) s = .next bypass) ∧
    (∀ cells, (s.tapTakes 0x00 = true → exec (.jtagExtest cells) s =
        .next { s with jtag := { s.jtag with ir := 0x00, dr := 2, driven := some cells } }) ∧
      (s.tapTakes 0x00 = false → exec (.jtagExtest cells) s = .next bypass)) ∧
    (s.tapTakes 0x01 = true → exec .jtagIdcode s =
        .next { s with jtag := { s.jtag with ir := 0x01, dr := 1, drValue := (idCode s.stepping).toNat, driven := none } }) ∧
    (s.tapTakes 0x01 = false → exec .jtagIdcode s = .next bypass) ∧
    (∀ a b, (s.tapTakes 0x02 = true → exec (.jtagSamplePreload a b) s =
        .next { s with jtag := { s.jtag with ir := 0x02, dr := 2, sampled := a, preload := b, driven := none } }) ∧
      (s.tapTakes 0x02 = false → exec (.jtagSamplePreload a b) s = .next bypass)) ∧
    (s.tapTakes 0x10 = true → s.pwr.state ≠ .off → (∀ x ∈ s.snaps, x.2.1 ≠ 0) → ∃ t, exec (.jtagCspace 0x0#24 false 0) s = .next t ∧
      t.jtag.dr = 3 ∧ t.jtag.drValue = (glbId s.member s.stepping).toNat * 2 ^ 25) ∧
    (∀ v : Word, s.tapTakes 0x10 = true → s.pwr.state ≠ .off → ∃ t, exec (.jtagCspace 0x20008#24 true v) s = .next t ∧ t.grn.bankJtag.addr = field v 0 24 ∧ t.jtag.dr = 3) ∧
    (∀ a w v, s.tapTakes 0x10 = false → exec (.jtagCspace a w v) s = .next bypass) ∧
    (s.tapTakes 0x20 = true → ∃ t, exec .jtagReset s = .next t ∧ t.pwr.cause = 5 ∧ t.pwr.step = 1 ∧ t.lay.active = none ∧
      t.member = s.member ∧ t.pending = s.pending) ∧
    (s.tapTakes 0x20 = false → exec .jtagReset s = .next bypass)

/-- The arbiter grants the first requesting input at or after its pointer and moves the pointer past it. For a tick in which both
trees agree and LOCKSTEP is not set, with the tickets the command names returned first: when something is raised that takes
part - a request the command brings, a command BOT holds, or a request of a Field manager or of the safety sweep that stays
raised, for which a ticket is now free - exactly one grant is made; its input is the first at or after the rotating pointer,
in input-number order, among the inputs that something takes part on, and the pointer then names the input after it. When
only requests the command brings are raised, nothing but the arbiter and the Plots past the last order number changes. When
nothing takes part, nothing is granted. -/
def Obligations.ArbiterGrantsInTurn : Prop :=
  ∀ (s : State) (reqs : List ArbReq) (trees : TreeAgreement) (returned : List Nat),
    s.arb.lockstep = false → trees.winnerAndPointer = true → trees.orderAndTicket = true →
    let v := returnLoose s returned
    v.arb.pointer = s.arb.pointer ∧ { v with arb := s.arb } = s ∧
    (v.raised reqs = [] → exec (.arbiterGrant reqs ⟨trees, returned⟩) s = .next v) ∧
    (∀ k, k < 22 → (∃ x ∈ v.raised reqs, x.input = (s.arb.pointer + k) % 22) →
      (∀ j, j < k → ∀ x ∈ v.raised reqs, x.input ≠ (s.arb.pointer + j) % 22) →
      ∃ u g, exec (.arbiterGrant reqs ⟨trees, returned⟩) s = .next u ∧ u.arb.lastGrant = some g ∧ g.input = (s.arb.pointer + k) % 22 ∧
        u.arb.pointer = ((s.arb.pointer + k) % 22 + 1) % 22 ∧
        ((∀ x ∈ v.raised reqs, ∃ r, x = .asked r) → u.fields = s.fields ∧ u.fn.tasks = s.fn.tasks)) ∧
    (∀ r ∈ reqs, v.takesPart r = true → ∃ x ∈ v.raised reqs, x.input = r.input) ∧
    (∀ t ∈ s.fn.tasks, t.held = true → t.aborted = false → v.canDraw t.key.origin.cls = true →
      ∃ x ∈ v.raised reqs, x.input = t.key.origin.cls) ∧
    (∀ f ∈ s.fieldList, v.fieldAsks f = true → ∃ x ∈ v.raised reqs, x.input = fieldInput f) ∧
    (∀ lane : Lane, laneCode lane ∈ s.saf.stripAsked → v.canDraw 6 = true → ∃ x ∈ v.raised reqs, x.input = sweepInput)

/-- A grant gives what Table ARB-2 states; without a ticket a request ends as R53 and R54 say; disagreeing trees grant nothing
and set LOCKSTEP. For a tick with one request and nothing else raised: a numbered one gets the next order number, exactly one
above the last, and a ticket not in use; past the last number of the space a ticket only; a read the highest number issued
before as its horizon and a ticket; internal work a ticket; a Control-space access a position only. With no ticket free
internal work is not granted, and a numbered or horizon request gets nothing and ends: a member's with busy, a credential
capsule's with BUSY, a BOT command held, any other with TASK SET FULL, counted for classes 0 and 1. A ticket named as
returned is free again. When the trees disagree no grant is made, LOCKSTEP is set and device scope follows, latched. With
LOCKSTEP set a tick changes nothing but the arbiter, issues nothing, and grants Control-space accesses only, none when the
trees disagree on them. -/
def Obligations.ArbiterGivesNumbersHorizonsTickets : Prop :=
  ∀ (s : State) (trees : TreeAgreement),
    (s.raised [] = [] → s.arb.lockstep = false → trees.winnerAndPointer = true → trees.orderAndTicket = true →
      ∀ i bot cap, i < 22 →
      (∃ u, exec (.arbiterGrant [⟨i, .control, bot, cap⟩] ⟨trees, []⟩) s = .next u ∧ u.arb.lastGrant = some ⟨i, none, none, none, .granted⟩ ∧
        u.arb.ordNext = s.arb.ordNext ∧ u.arb.tickets = s.arb.tickets ∧ { u with arb := s.arb } = s) ∧
      (∀ k id v, drawTicket s k = some (id, v) →
        (∀ x ∈ s.arb.tickets, x.id ≠ id) ∧
        (∃ u, exec (.arbiterGrant [⟨i, .ticket k, bot, cap⟩] ⟨trees, []⟩) s = .next u ∧ u.arb.lastGrant = some ⟨i, none, none, some id, .granted⟩ ∧
          u.arb.tickets = v.arb.tickets ∧ { u with arb := s.arb } = s) ∧
        (∃ u, exec (.arbiterGrant [⟨i, .horizon k, bot, cap⟩] ⟨trees, []⟩) s = .next u ∧
          u.arb.lastGrant = some ⟨i, none, some (s.arb.ordNext - 1), some id, .granted⟩ ∧ u.arb.ordNext = s.arb.ordNext ∧
          u.arb.tickets = v.arb.tickets ∧ { u with arb := s.arb } = s) ∧
        (s.arb.ordEnd = false → ∃ u, exec (.arbiterGrant [⟨i, .numbered k, bot, cap⟩] ⟨trees, []⟩) s = .next u ∧
          u.arb.lastGrant = some ⟨i, some s.arb.ordNext, none, some id, .granted⟩ ∧ u.arb.ordNext = s.arb.ordNext + 1 ∧
          u.arb.tickets = v.arb.tickets) ∧
        (s.arb.ordEnd = true → ∃ u, exec (.arbiterGrant [⟨i, .numbered k, bot, cap⟩] ⟨trees, []⟩) s = .next u ∧
          u.arb.lastGrant = some ⟨i, none, none, some id, .granted⟩ ∧ u.arb.ordNext = s.arb.ordNext)) ∧
      (∀ k, drawTicket s k = none →
        exec (.arbiterGrant [⟨i, .ticket k, bot, cap⟩] ⟨trees, []⟩) s = .next s ∧
        ∀ r : ArbReq, (r = ⟨i, .numbered k, bot, cap⟩ ∨ r = ⟨i, .horizon k, bot, cap⟩) →
          ∃ u, exec (.arbiterGrant [r] ⟨trees, []⟩) s = .next u ∧
          u.arb.lastGrant = some ⟨i, none, none, none, if k = 2 then .ringBusy else if cap then .capsuleBusy else if bot then .held else .taskSetFull⟩ ∧
          u.arb.ordNext = s.arb.ordNext ∧ u.arb.tickets = s.arb.tickets ∧
          u.arb.tsfA = (if k = 0 then min 0xFFFF (s.arb.tsfA + 1) else s.arb.tsfA) ∧
          u.arb.tsfB = (if k = 1 then min 0xFFFF (s.arb.tsfB + 1) else s.arb.tsfB))) ∧
    (∀ id, s.arb.lockstep = false → trees.winnerAndPointer = true → trees.orderAndTicket = true → id ∈ s.arb.loose →
      (returnLoose s [id]).raised [] = [] →
      ∃ u, exec (.arbiterGrant [] ⟨trees, [id]⟩) s = .next u ∧ (∀ x ∈ u.arb.tickets, x.id ≠ id) ∧ id ∉ u.arb.loose) ∧
    (∀ reqs, s.arb.lockstep = false → trees.winnerAndPointer = false ∨ trees.orderAndTicket = false →
      ∃ t, exec (.arbiterGrant reqs ⟨trees, []⟩) s = .next t ∧ t.arb.lockstep = true ∧ t.arb.ordNext = s.arb.ordNext ∧
        t.arb.pointer = s.arb.pointer ∧ t.arb.lastGrant = s.arb.lastGrant ∧ Faulted s t 0x0031 6 0 true) ∧
    (∀ reqs, s.arb.lockstep = true →
      (trees.winnerAndPointer = false → exec (.arbiterGrant reqs ⟨trees, []⟩) s = .next s) ∧
      ∃ t, exec (.arbiterGrant reqs ⟨trees, []⟩) s = .next t ∧ t.arb.ordNext = s.arb.ordNext ∧ t.arb.tickets = s.arb.tickets ∧
        { t with arb := s.arb } = s ∧
        (t.arb.lastGrant = s.arb.lastGrant ∨ ∃ r ∈ reqs, r.kind = .control ∧ t.arb.lastGrant = some ⟨r.input, none, none, none, .granted⟩))

/-- A received block joins the queue of the available engine with the fewest blocks; its echo check or its envelope decides what
follows. In every clause the blocks of a bulk re-key that the engines have room for follow at the end. A block that its
command still needs goes to an available engine with the fewest queued blocks, none of them full, with its Plot, LBA and
order number, and is then received; a block of a read lies there once its page has been read, it has come over the ring, or
its lookup found it latent; a block for a member's host goes to the member still encrypted. With every queue full it waits;
with no engine available NO_CIPHER is set and device scope follows; a block no command needs changes nothing. A passed echo
check accepts the block of a command in a Field whose staging banks have a free slot, once the engine's write of the slot is
not refused: a write's version joins its Field with its slots, a PUT's with its second half; without a free slot it waits; of
a command that has ended it is dropped; of the master's Plot it goes to the master. A failed one is counted and fences the
engine, on the Z1 the device. A decrypted block whose envelope matches is returned; one that does not, as the first block the
command still lacks, ends it with HARDWARE ERROR, and where the second engine's result passes the engine is at fault. That
the engine's write draws an open stamp is the model's own free value. -/
def Obligations.BlocksPassTheEngines : Prop :=
  ∀ s : State,
    (∀ key idx dir data env, s.task? key = none → exec (.blockReceived key idx dir data env) s = .next (offerRekeys s)) ∧
    (∀ key idx dir data env t, s.task? key = some t → t.aborted = true ∨ t.held = true ∨ t.count ≤ idx ∨ idx ∈ t.received →
      exec (.blockReceived key idx dir data env) s = .next (offerRekeys s)) ∧
    (∀ i, chooseEngine s = some i → i < s.engines.length ∧ (s.engine i).available = true ∧ (s.engine i).queue.length < 8 ∧
      ∀ k, k < s.engines.length → (s.engine k).available = true → (s.engine i).queue.length ≤ (s.engine k).queue.length) ∧
    (∀ key idx dir data env t (job : BlockJob), s.task? key = some t → t.aborted = false → t.held = false → idx < t.count → idx ∉ t.received →
      ((∃ m block, dir = .encrypt ∧ (t.kind = .write ∨ t.kind = .put) ∧ t.order = some m ∧
          block = (if t.kind = .put then slice t.value (4096 * idx) 4096 else data) ∧
          job = ⟨key, idx, .encrypt, .hostWrite, t.lba + idx, block, ⟨key.plot, t.lba + idx, m, 0, crc32c block⟩⟩) ∨
       (dir = .decrypt ∧ 64 ≤ key.plot ∧ isReadTask t = true ∧ idx ∉ t.accepted ∧ idx ∈ t.ready ∧
          job = ⟨key, idx, .decrypt, .hostRead, t.lba + idx, data, env⟩) ∨
       (dir = .decrypt ∧ key.plot < 64 ∧ isReadTask t = true ∧ idx ∈ s.wanted t ∧ idx ∉ t.accepted ∧ idx ∈ t.ready ∧
          (((idx, addrUnmapped) ∉ t.asked ∧ job = ⟨key, idx, .decrypt, .hostRead, t.lba + idx, data, env⟩) ∨
           (∃ e, (idx, addrUnmapped) ∈ t.asked ∧ s.versionOf key.plot (t.lba + idx) (t.horizon.getD 0) = some e ∧
             job = ⟨key, idx, .decrypt, .hostRead, t.lba + idx, e.blockAt (t.lba + idx),
               ⟨key.plot, t.lba + idx, e.order, e.stamp, crc32c (e.blockAt (t.lba + idx))⟩⟩)))) →
      (dir = .decrypt → key.origin.isRing = true →
        exec (.blockReceived key idx dir data env) s = .next (offerRekeys (forwardBlock s t job))) ∧
      ((dir = .encrypt ∨ key.origin.isRing = false) →
        (∀ i, chooseEngine s = some i → ∃ u, exec (.blockReceived key idx dir data env) s = .next (offerRekeys u) ∧
          (u.engine i).queue = (s.engine i).queue ++ [job] ∧ (∀ k, k ≠ i → u.engine k = s.engine k) ∧
          (∃ x, u.task? key = some x ∧ x.received = idx :: t.received) ∧ { u with engines := s.engines, arb := s.arb, fn := s.fn } = s) ∧
        (chooseEngine s = none → (∃ e ∈ s.engines, e.available = true) →
          exec (.blockReceived key idx dir data env) s = .next (offerRekeys s)) ∧
        ((∀ e ∈ s.engines, e.available = false) → s.member ≠ .z1 → s.arb.noCipher = false →
          ∃ u, exec (.blockReceived key idx dir data env) s = .next (offerRekeys u) ∧ u.arb.noCipher = true ∧ Faulted s u 0x0032 6 0 false))) ∧
    (∀ i, (s.engine i).queue = [] → ∀ b tag v c,
      exec (.echoCheckDone i b) s = .next (offerRekeys s) ∧ exec (.decryptDone i tag v c) s = .next (offerRekeys s)) ∧
    (∀ i j rest, (s.engine i).queue = j :: rest → j.dir = .encrypt →
      (s.saf.recPending = none → s.inScope 1 i = false → s.member ≠ .z1 → ∃ u, exec (.echoCheckDone i false) s = .next (offerRekeys u) ∧
        (u.engine i).fenced = true ∧ (u.engine i).queue = [] ∧ (u.engine i).echoFail = min 0xFFFF ((s.engine i).echoFail + 1) ∧
        Faulted s u 0x0010 1 i false) ∧
      (s.member = .z1 → ∃ u, exec (.echoCheckDone i false) s = .next (offerRekeys u) ∧ Faulted s u 0x0010 6 0 false ∧
        (u.engine i).echoFail = min 0xFFFF ((s.engine i).echoFail + 1)) ∧
      (j.kind = .hostWrite → s.task? j.key = none → exec (.echoCheckDone i true) s = .next (offerRekeys (popEngine s i))) ∧
      (∀ t, j.kind = .hostWrite → s.task? j.key = some t →
        (t.aborted = true ∨ t.order ≠ some j.env.order →
          exec (.echoCheckDone i true) s = .next (offerRekeys (settleTasks (popEngine s i)))) ∧
        (t.aborted = false → t.order = some j.env.order →
          (s.fieldOf j.key.plot = none → exec (.echoCheckDone i true) s = .next (offerRekeys (sendToMaster (popEngine s i) t j))) ∧
          (∀ f, s.fieldOf j.key.plot = some f →
            (stagingFree s f (versionOfJob t j 0) = false → exec (.echoCheckDone i true) s = .next (offerRekeys s)) ∧
            (stagingFree s f (versionOfJob t j 0) = true → f < s.fields.length →
              let d := s.drawNat
              let w := stageVersion (popEngine d.2 i) (idCipher i) f (versionOfJob t j 0) (sealedBytes d.2 j d.1)
              (w.2.2 = false → exec (.echoCheckDone i true) s = .next (offerRekeys w.1)) ∧
              (w.2.2 = true → ∃ u, exec (.echoCheckDone i true) s = .next (offerRekeys (serveReads (finishWrite u j.key))) ∧ (u.engine i).queue = rest ∧
                (∃ x, u.task? j.key = some x ∧ x.accepted = j.idx :: t.accepted) ∧
                (t.kind = .put → t.accepted = [] → (u.field f).entries = (s.field f).entries) ∧
                (t.kind ≠ .put ∨ t.accepted ≠ [] → ∃ e, (u.field f).entries = (s.field f).entries ++ [e] ∧ e.plot = j.key.plot ∧
                  e.order = j.env.order ∧ e.stamp = d.1 ∧ e.passed = false ∧ e.rseq = none ∧ e.stage = t.staged ++ w.2.1 ∧
                  (t.kind ≠ .put → e.kind = .block ∧ e.lba = j.lba ∧ e.count = 1 ∧ e.data = j.data) ∧
                  (t.kind = .put → e.kind = .record ∧ e.lba = t.lba ∧ e.count = 2 ∧ e.data = t.value ∧ e.name = t.name)))))))) ∧
    (∀ i j rest t, (s.engine i).queue = j :: rest → j.dir = .decrypt → j.kind = .hostRead → s.task? j.key = some t → t.aborted = false →
      (∀ f e v, s.fieldOf j.key.plot = some f → j.key.plot < 64 → s.versionOf j.key.plot j.lba (t.horizon.getD 0) = some e →
        j.env.plot = j.key.plot → j.env.lba = j.lba → j.env.order = e.order → j.env.crc = crc32c j.data →
        let rd := cipherRead (popEngine s i) f i j.key.plot j.lba (some e.order) (pageOf t j.idx)
        rd.2 = true →
        exec (.decryptDone i true v true) s = .next (offerRekeys (advanceRead
          (setTask rd.1 t.key fun _ => { t with accepted := j.idx :: t.accepted })
          { t with accepted := j.idx :: t.accepted }))) ∧
      (∀ v, s.fieldOf j.key.plot = none → 64 ≤ j.key.plot → j.env.plot = j.key.plot - 64 → j.env.lba = j.lba →
        j.env.order ≤ t.horizon.getD 0 → j.env.crc = crc32c j.data →
        exec (.decryptDone i true v true) s = .next (offerRekeys (advanceRead
          (setTask (popEngine s i) t.key fun _ => { t with accepted := j.idx :: t.accepted, value := j.data ++ t.value })
          { t with accepted := j.idx :: t.accepted, value := j.data ++ t.value }))) ∧
      (∀ f p tr c, s.fieldOf j.key.plot = some f → j.key.origin = .port p → t.tr = some tr → t.kind = .read →
        ((List.range t.count).find? fun k => !t.accepted.contains k) = some j.idx → (∀ x ∈ t.fails, x.1 ≠ j.idx) →
        (cipherRead (popEngine s i) f i j.key.plot j.lba (if 64 ≤ j.key.plot then some (min j.env.order (t.horizon.getD 0))
          else (s.versionOf j.key.plot j.lba (t.horizon.getD 0)).map (·.order)) (pageOf t j.idx)).2 = true →
        ∃ u, exec (.decryptDone i false .secondPasses c) s =
            .next (offerRekeys (engineFault u 0x0011 i (0x60 + i) (w32 j.key.plot) (w32 j.lba))) ∧
          (u.resultOf j.key).map (·.1) = some (.check (senseAt 4 0x44 0x00 j.lba))))

/-- A fix point whose pages have passed is recorded and its ticket returns; the end of a replay opens the Field or finds it
unreadable. The contact-sheet write of a fix point all of whose pages have passed records its number, floor and first release
number, counts the contact sheet's SEQ and returns its ticket; then the Field's manager goes on. Without such a fix point it
changes nothing. The end of a Field's replay changes nothing for a Field that does not replay, or while the ring still
enumerates for a wide one; with no valid entry on its contact sheet, or a fix point that cannot be read, the Field is
unreadable and no longer replays, and ENV_MAP follows; otherwise the map is recovered from the newest valid entry and the fix
point that ends stage 7 is in force and replay is over, before the manager goes on; where the recovery engine's bank write is
refused, the Field stays in replay. -/
def Obligations.FixPointsAndReplayEnd : Prop :=
  ∀ (s : State) (f : Nat),
    ((s.field f).fix = none ∨ fixReady (s.field f) (s.fenv f) = false → exec (.fixPointRecorded f) s = .next s) ∧
    (∀ run, (s.field f).fix = some run → fixReady (s.field f) (s.fenv f) = true → ∃ u, exec (.fixPointRecorded f) s = .next (runField (noteRekey u f) f) ∧
      (u.field f).recorded = some run.point ∧ (u.field f).fix = none ∧ (u.field f).fixcount = run.point.count ∧
      (u.field f).floor = run.point.floor ∧ (u.field f).sheetSeq = (s.field f).sheetSeq + 1 ∧
      (u.field f).sheet = ⟨(s.field f).sheetSeq + 1, false, some run.point, run.point.floor⟩ :: (s.field f).sheet ∧
      (∀ id, run.ticket = some id → ∀ x ∈ u.arb.tickets, x.id ≠ id) ∧ ∀ k, k ≠ f → u.field k = s.field k) ∧
    (∀ facts, (s.field f).replaying = false → exec (.fieldReplayDone f facts) s = .next s) ∧
    (∀ facts c, s.fieldCfg? f = some c → c.wide = true → s.stk.window = true → exec (.fieldReplayDone f facts) s = .next s) ∧
    (∀ facts, (s.field f).replaying = true → s.stk.window = false →
      let used := usedEntry (s.field f) facts.badEntries
      ((used = none ∧ (s.field f).sheet ≠ []) ∨ (used ≠ none ∧ facts.contactReadable = false) → ∃ u, exec (.fieldReplayDone f facts) s =
          .next (fieldFault u 0x0013 f 0xFF (s.member.fmIsland (f / 4)) 0xFFFF 0) ∧ (u.field f).replaying = false ∧ (u.field f).unreadable = true ∧
          { u with fields := s.fields } = s) ∧
      ((used = none ∧ (s.field f).sheet = []) ∨ (used ≠ none ∧ facts.contactReadable = true) →
        let w := fieldTransfer s idRecovery 2 f none 0x1000 .write
        (w.2 = false → exec (.fieldReplayDone f facts) s = .next w.1) ∧
        (w.2 = true →
          let b := match used with | some x => s.modField f (fromEntry · x) | none => s
          let r := onField b f fun fs env => replayField fs env facts (fun n => (s.plot n).record.keyed) fun n => (s.plot n).eraseCut
          ∃ u, exec (.fieldReplayDone f facts) s = .next (settleTasks (trimOwed (runField (updateHealth (updateHeadland u f) f) f) f)) ∧
            u.field f = (r.fenv f).fenced.foldl markExposed
              { replayFix (r.field f) (r.fenv f) (r.segments f) s.wall.e with replaying := false } ∧
            (∀ k, k ≠ f → u.field k = s.field k) ∧
            { u with fields := s.fields, arb := s.arb, grn := s.grn, banks := s.banks, bankBad := s.bankBad, free := s.free } = s)))

/-- INFO, ECHO and REG are answered as Tables FNC-5 and FNC-6 say; a refused capsule gets the first status of Table FNC-2; a read
takes the answer. A function that takes no request leaves a capsule without effect. One that takes it: INFO returns its 64
bytes and restarts the count of lost events; ECHO returns the payload; REG with an entry that fails the pre-check ends with
BAD_FIELD and the first such entry, with no entry with OK, and otherwise waits for its entries to be granted. A capsule that
a check of Table FNC-2 refuses is answered with that status, its opcode, FUA bit and tag echoed. A bulk IN transfer whose
endpoint has a free granule takes the response in full, after which the function takes the next request, or the oldest event
record; without one it is answered NAK, while the endpoint is halted STALL, and takes nothing. -/
def Obligations.ManagementCapsules : Prop :=
  ∀ (s : State) (p : Port) (tag : Nat),
    (s.takes p .management = false → ∀ l es, exec (.info p tag) s = .next s ∧ exec (.echo p tag l) s = .next s ∧ exec (.reg p tag es) s = .next s) ∧
    (s.takes p .management = true →
      (∃ t, exec (.info p tag) s = .next t ∧ t.response p .management = some ⟨0x01, false, tag, 0, 0, 0, infoBytes s p⟩ ∧
        (t.pfn p).evLost = 0 ∧ { t with fn := s.fn } = s ∧ t.fn.tasks = s.fn.tasks) ∧
      (∀ l, l.length ≤ 65536 → Responds s (.echo p tag l) p .management ⟨0x03, false, tag, 0, 0, 0, l⟩) ∧
      (∀ l, 65536 < l.length → Responds s (.echo p tag l) p .management ⟨0x03, false, tag, 0, stBadLength, 0, []⟩) ∧
      Responds s (.reg p tag []) p .management ⟨0x02, false, tag, 0, 0, 0, []⟩ ∧
      (∀ es, 8192 < es.length → Responds s (.reg p tag es) p .management ⟨0x02, false, tag, 0, stBadLength, 0, []⟩) ∧
      (∀ es i, es.length ≤ 8192 → es.findIdx? (fun e => !regEntryOk e) = some i →
        Responds s (.reg p tag es) p .management ⟨0x02, false, tag, 0, stBadField, i, []⟩) ∧
      (∀ es, es ≠ [] → es.length ≤ 8192 → (∀ e ∈ es, regEntryOk e = true) →
        ∃ t, exec (.reg p tag es) s = .next t ∧ ((t.pfn p).cap .management).busy = true ∧ ((t.pfn p).cap .management).opcode = 0x02 ∧
          ((t.pfn p).cap .management).tag = tag ∧ ((t.pfn p).cap .management).todo = es ∧ ((t.pfn p).cap .management).doneR = [] ∧
          { t with fn := s.fn } = s)) ∧
    (∀ (fn : CapsuleFn) (raw : CapsuleRaw),
      (capsuleCheck fn raw = none ∨ s.takes p fn = false → exec (.capsuleRefused p fn raw) s = .next s) ∧
      (∀ st d, capsuleCheck fn raw = some (st, d) → s.takes p fn = true →
        Responds s (.capsuleRefused p fn raw) p fn ⟨if raw.bytes < 6 then 0 else raw.opcode.toNat, decide (8 ≤ raw.bytes) && raw.flags.toNat.testBit 0,
          if raw.bytes < 16 then 0 else raw.tag, 0, st, d, []⟩)) ∧
    (∀ fn, s.hasFn p fn = true →
      (∀ r, s.response p fn = some r →
        let x := inTransfer s p (s.fnPort p fn) 0x81 r.bytes.length
        (x.2 = true → ∃ t, exec (.bulkInTransfer p fn false) s = .next t ∧ t.response p fn = none ∧
          (t.pfn p).lastResp = some r ∧ (t.pfn p).sent = r.bytes ∧ (t.pfn p).events = (s.pfn p).events ∧
          { t with fn := s.fn } = x.1 ∧ t.fn.tasks = s.fn.tasks) ∧
        (x.2 = false → exec (.bulkInTransfer p fn false) s = .next x.1 ∧ x.1.fn = s.fn ∧
          (x.1.port p).answer = if ((s.port p).ep? (s.fnPort p fn) 0x81).any (·.halted) then .stall else .nak)) ∧
      (∀ e rest, fn = .management → (s.pfn p).events = e :: rest → (inTransfer s p 1 0x82 32).2 = true →
        ∃ t, exec (.bulkInTransfer p fn true) s = .next t ∧
        (t.pfn p).lastEvent = some e ∧ (t.pfn p).sent = e.bytes ∧ { t with fn := s.fn } = (inTransfer s p 1 0x82 32).1 ∧
        ((s.pfn p).overflow = 0 → (t.pfn p).events = rest) ∧
        (0 < (s.pfn p).overflow → ∃ o, (t.pfn p).events = rest ++ [o] ∧ o.kind = 0x00F0 ∧ o.seq = (s.pfn p).evSeq ∧
          o.data0 = w32 (s.pfn p).overflow ∧ (t.pfn p).overflow = 0)))

/-- Each entry of a REG capsule is performed with the port's identity; a denied one ends the rest as NOT_DONE with PARTIAL. A
grant of the next register entry of the REG capsule in progress performs it with the port's identity. While the capsule stays
in progress the entry's outcome joins what is done; the last one, or a denied one after which every later entry is NOT_DONE,
ends the capsule with its response; an entry that ends the capsule itself (a reset) leaves nothing more to do. Written out: a
read of GLB_ID adds its value; a write that an MPU region denies makes the response PARTIAL with the index of that entry.
With no REG capsule in progress nothing changes. -/
def Obligations.RegEntriesOneByOne : Prop :=
  ∀ (s : State) (p : Port),
    let c := (s.pfn p).cap .management
    (c.busy = false ∨ c.opcode ≠ 0x02 ∨ c.todo = [] → exec (.regEntry p) s = .next s) ∧
    (∀ e rest, c.busy = true → c.opcode = 0x02 → c.todo = e :: rest →
      let u := (doEntry s p.identity e).1
      let d := (doEntry s p.identity e).2
      let now := (u.pfn p).cap .management
      (now.busy = false ∨ now.todo ≠ c.todo → exec (.regEntry p) s = .next u) ∧
      (now.busy = true → now.todo = c.todo →
        (d.st = 2 → exec (.regEntry p) s = .next (endReg u p c.tag (c.doneR ++ d :: rest.map skipEntry))) ∧
        (d.st ≠ 2 → rest = [] → exec (.regEntry p) s = .next (endReg u p c.tag (c.doneR ++ [d]))) ∧
        (d.st ≠ 2 → rest ≠ [] → ∃ t, exec (.regEntry p) s = .next t ∧ { t with fn := s.fn } = { u with fn := s.fn } ∧
          ((t.pfn p).cap .management).todo = rest ∧ ((t.pfn p).cap .management).busy = true ∧
          ((t.pfn p).cap .management).doneR = c.doneR ++ [d]))) ∧
    (∀ rest, c.busy = true → c.opcode = 0x02 → c.todo = ({ addr := 0x0#24, op := 0, value := 0 } : RegEntry) :: rest → (∀ x ∈ s.snaps, x.2.1 ≠ 0) →
      s.csOpen p.identity = true → s.mpuRefuses p.identity false 0 .read = none →
      ∃ t, exec (.regEntry p) s = .next t ∧ t.replyTo p.identity = some (glbId s.member s.stepping, 0) ∧
        { t with fn := s.fn, replies := s.replies } = noteAccess s p.identity ∧
        (rest ≠ [] → ((t.pfn p).cap .management).todo = rest ∧ ((t.pfn p).cap .management).busy = true ∧
          ((t.pfn p).cap .management).doneR = c.doneR ++ [(⟨0x0#24, 0, 0, glbId s.member s.stepping⟩ : RegDone)]) ∧
        (rest = [] → (∀ d ∈ c.doneR, d.st ≠ 2) → t.response p .management =
          some ⟨0x02, false, c.tag, 0, 0, 0, (c.doneR ++ [(⟨0x0#24, 0, 0, glbId s.member s.stepping⟩ : RegDone)]).flatMap regDoneBytes⟩)) ∧
    (∀ e rest r, c.busy = true → c.opcode = 0x02 → c.todo = e :: rest → (∀ d ∈ c.doneR, d.st ≠ 2) → e.op = 1 → e.addr.toNat % 4 = 0 →
      regKnown s.member e.addr.toNat = true → isAperture e.addr.toNat = false →
      s.csOpen p.identity = true → s.mpuRefuses p.identity false e.addr.toNat .write = some r →
      ∃ t, exec (.regEntry p) s = .next t ∧
        t.response p .management = some ⟨0x02, false, c.tag, 0, 0x0007, c.doneR.length,
          (c.doneR ++ (⟨e.addr, 1, 2, e.value⟩ : RegDone) :: rest.map fun x => (⟨x.addr, x.op, 3, if x.op = 1 then x.value else 0⟩ : RegDone)).flatMap regDoneBytes⟩ ∧
        ((t.pfn p).cap .management).busy = false)

/-- UNLOCK, LOCK and SET_SECRET are decided in the order of R274 and R345; LOCK closes the Plot on both ports. For a Plot of this
device, with a layout, no other holder of its semaphore and fields within range. LOCK of an Open or Read-only Plot closes it:
Closed, its keys cleared, its commands aborted, answered OK; a Closed one answers OK with DETAIL 1, an Erased one ERASED, one
in Safelight SAFELIGHT. LOCK with MODE 1 makes an Open Plot Read-only and otherwise ends with WRONG_STATE. In Dark, once Dark
or Off is commanded, and in hold-up both end with NOT_READY. UNLOCK and SET_SECRET end with the first refusal of their order;
otherwise an UNLOCK and a re-wrap wait for their secret check, and a SET_SECRET of an Erased Plot whose trim entry is durable
makes it Closed with a keyed record for the new secret once the DRBG is instantiated, for which it waits. In Dark, once Dark
or Off is commanded, and in hold-up what the layout, the Plot and (for an UNLOCK) a busy Plot or Field do not refuse ends
with NOT_READY, before the other refusals. A Plot held by another's semaphore answers NO_SEM with the holder, a field out of
range BAD_FIELD, a Plot that nobody has NO_PLOT, a block without a layout NO_LAYOUT; the master's Plot is forwarded to it. -/
def Obligations.VaultOpcodesDecide : Prop :=
  ∀ (s : State) (p : Port) (tag n : Nat), s.takes p .management = true →
    (∀ mode x o, fieldFault? 0x10 (unlockPayload n mode x) = some o →
      Responds s (.unlock p tag n mode x) p .management ⟨0x10, false, tag, 0, stBadField, o, []⟩) ∧
    (∀ old new o, fieldFault? 0x12 (secretPayload n old new) = some o →
      Responds s (.rewrap p tag n old new) p .management ⟨0x12, false, tag, 0, stBadField, o, []⟩ ∧
      (old = [] → Responds s (.setSecret p tag n new) p .management ⟨0x12, false, tag, 0, stBadField, o, []⟩)) ∧
    (1024 ≤ n → n < 65536 → Responds s (.lock p tag n) p .management ⟨0x11, false, tag, 0, stBadField, 0, []⟩ ∧
      Responds s (.lockDemote p tag n) p .management ⟨0x11, false, tag, 0, stBadField, 0, []⟩) ∧
    (∀ (c : Instr) (op : Nat) (pl : List Byte), fieldFault? op pl = none →
      ((c = .lock p tag n ∧ op = 0x11 ∧ pl = leBytes 2 n ++ [0, 0]) ∨ (c = .lockDemote p tag n ∧ op = 0x11 ∧ pl = leBytes 2 n ++ [1, 0]) ∨
       (∃ mode x, c = .unlock p tag n mode x ∧ op = 0x10 ∧ pl = unlockPayload n mode x) ∨
       (∃ old new, c = .rewrap p tag n old new ∧ op = 0x12 ∧ pl = secretPayload n old new) ∨
       (∃ new, c = .setSecret p tag n new ∧ op = 0x12 ∧ pl = secretPayload n [] new)) →
      (s.hasLayout = false → Responds s c p .management ⟨op, false, tag, 0, stNoLayout, 0, []⟩) ∧
      (64 ≤ n → s.hasLayout = true →
        (128 ≤ n ∨ s.isMaster = true → Responds s c p .management ⟨op, false, tag, 0, stNoPlot, 0, []⟩) ∧
        (n < 128 → s.isMaster = false → s.stk.state = 2 →
          exec c s = .next (forwardVault (beginCapsule s p .management op tag) p op tag n pl))) ∧
      (n < 64 → s.hasLayout = true → ∀ o, s.plotSemHeld n p.identity = some o →
        Responds s c p .management ⟨op, false, tag, 0, stNoSem, o.toNat, []⟩) ∧
      (n < 64 → s.hasLayout = true → s.plotSemHeld n p.identity = none → s.plotCfg? n = none →
        Responds s c p .management ⟨op, false, tag, 0, stNoPlot, 0, []⟩)) ∧
    (n < 64 → n < s.plots.length → s.hasLayout = true → s.plotSemHeld n p.identity = none → (s.plotCfg? n).isSome = true →
      (s.vaultDark = true →
        Responds s (.lock p tag n) p .management ⟨0x11, false, tag, 0, stNotReady, 0, []⟩ ∧
        Responds s (.lockDemote p tag n) p .management ⟨0x11, false, tag, 0, stNotReady, 0, []⟩) ∧
      (s.vaultDark = false →
        ((s.plot n).mode = .closed → Responds s (.lock p tag n) p .management ⟨0x11, false, tag, 0, 0, 1, [1, 0, 0, 0]⟩) ∧
        ((s.plot n).mode = .erased → Responds s (.lock p tag n) p .management ⟨0x11, false, tag, 0, stErased, 0, []⟩) ∧
        ((s.plot n).mode = .safelight → Responds s (.lock p tag n) p .management ⟨0x11, false, tag, 0, stSafelight, 0, []⟩) ∧
        ((s.plot n).mode = .open_ ∨ (s.plot n).mode = .readOnly →
          ∃ t, exec (.lock p tag n) s = .next t ∧ t.response p .management = some ⟨0x11, false, tag, 0, 0, 0, [1, 0, 0, 0]⟩ ∧
            (t.plot n).mode = .closed ∧ (t.plot n).keys = none ∧ (∀ x ∈ t.fn.tasks, x.key.plot = n → x.statusDue = false) ∧
            (∀ e ∈ t.engines, n ∉ e.keyPlots)) ∧
        ((s.plot n).mode ≠ .open_ →
          Responds s (.lockDemote p tag n) p .management ⟨0x11, false, tag, 0, stWrongState, (s.plot n).mode.code, []⟩) ∧
        ((s.plot n).mode = .open_ → ∃ t, exec (.lockDemote p tag n) s = .next t ∧
          t.response p .management = some ⟨0x11, false, tag, 0, 0, 0, [3, 0, 0, 0]⟩ ∧ (t.plot n).mode = .readOnly ∧
          (t.plot n).roCause = 1 ∧ (t.plot n).byUnlock = true ∧ (t.plot n).keys = (s.plot n).keys)) ∧
      (∀ mode x, fieldFault? 0x10 (unlockPayload n mode x) = none →
        (s.loneMember = true → Responds s (.unlock p tag n mode x) p .management ⟨0x10, false, tag, 0, stLinkLost, 0, []⟩) ∧
        (∀ st d, s.loneMember = false → s.unlockFirst n = some (st, d) →
          Responds s (.unlock p tag n mode x) p .management ⟨0x10, false, tag, 0, st, d, []⟩) ∧
        (s.loneMember = false → s.unlockFirst n = none →
          (s.vaultDark = true →
            Responds s (.unlock p tag n mode x) p .management ⟨0x10, false, tag, 0, stNotReady, 0, []⟩) ∧
          (s.vaultDark = false → ∀ st d, s.unlockRefusal n mode = some (st, d) →
            Responds s (.unlock p tag n mode x) p .management ⟨0x10, false, tag, 0, st, d, []⟩) ∧
          (s.vaultDark = false → s.unlockRefusal n mode = none → s.spareOut = true →
            Responds s (.unlock p tag n mode x) p .management ⟨0x10, false, tag, 0, 0x0017, 0xFFFF, []⟩) ∧
          (s.vaultDark = false → s.unlockRefusal n mode = none → s.spareOut = false → (s.plot n).checks = [] →
            ∃ t, exec (.unlock p tag n mode x) s = .next t ∧ (t.plot n).checks = [⟨.port p tag, .unlock mode, x, false⟩] ∧
              ((t.pfn p).cap .management).busy = true ∧ (t.plot n).mode = (s.plot n).mode ∧ (t.plot n).record = (s.plot n).record))) ∧
      (∀ old new, fieldFault? 0x12 (secretPayload n old new) = none →
        (s.vaultDark = true →
          Responds s (.rewrap p tag n old new) p .management ⟨0x12, false, tag, 0, stNotReady, 0, []⟩) ∧
        (s.vaultDark = false →
          (∀ st d, s.secretRefusal n true = some (st, d) →
            Responds s (.rewrap p tag n old new) p .management ⟨0x12, false, tag, 0, st, d, []⟩) ∧
          (s.secretRefusal n true = none → (s.plot n).checks = [] →
            ∃ t, exec (.rewrap p tag n old new) s = .next t ∧ (t.plot n).checks = [⟨.port p tag, .rewrap new, old, false⟩] ∧
              ((t.pfn p).cap .management).busy = true ∧ (t.plot n).record = (s.plot n).record))) ∧
      (∀ new, fieldFault? 0x12 (secretPayload n [] new) = none →
        (s.vaultDark = true →
          Responds s (.setSecret p tag n new) p .management ⟨0x12, false, tag, 0, stNotReady, 0, []⟩) ∧
        (s.vaultDark = false →
          (∀ st d, s.secretRefusal n false = some (st, d) →
            Responds s (.setSecret p tag n new) p .management ⟨0x12, false, tag, 0, st, d, []⟩) ∧
          (s.secretRefusal n false = none → (s.plot n).checks = [] → s.trimDone n = true →
            (s.sec.drbgReady = true → ∃ t, exec (.setSecret p tag n new) s = .next t ∧
              t.response p .management = some ⟨0x12, false, tag, 0, 0, 0, []⟩ ∧
              (t.plot n).mode = .closed ∧ (t.plot n).record.keyed = true ∧ (t.plot n).record.retry = 0 ∧
              (t.plot n).record.vrf = s.vrf n (t.plot n).record.salt new ∧ (t.plot n).checks = []) ∧
            (s.sec.drbgReady = false → ∃ t, exec (.setSecret p tag n new) s = .next t ∧
              (t.plot n).checks = [⟨.port p tag, .provision new, [], false⟩] ∧ ((t.pfn p).cap .management).busy = true ∧
              (t.plot n).mode = .erased)))))

/-- The attempt is counted before the verifier is compared; a wrong secret costs a retry or the keys, the right one opens the
Plot. With one secret check waiting, asked through a port whose capsule is still in progress, that nothing refuses (a re-wrap
with the DRBG instantiated). The write of the counting record makes RETRY one more; then a wrong secret is answered
BAD_SECRET with what is left, or, at the limit, the Plot is Erased with no key and ERASED answered; the right secret of an
UNLOCK puts the unwrapped keys in the key store, that of a re-wrap writes a record for the new secret with RETRY 0 and one
re-key more and answers OK; where the keys do not unwrap, SAFELIGHT is answered and the Plot's scope entered. When the record
with RETRY = 0 of an unlock is written, and nothing has come to refuse it meanwhile, the Plot is Open or Read-only, nothing
waits, and OK is answered with its state, before the Field's manager goes on. A check that a state refuses is answered with
the refusal. With no check waiting nothing changes. -/
def Obligations.SecretChecksCountThenCompare : Prop :=
  ∀ (s : State) (n : Nat) (p : Port) (tag : Nat) (what : CheckFor),
    ((s.plot n).checks = [] → exec (.retryCounted n) s = .next s ∧ exec (.keyRecordWritten n) s = .next s) ∧
    (((s.pfn p).cap .management).busy = true → ((s.pfn p).cap .management).opcode = what.opcode → ((s.pfn p).cap .management).tag = tag →
      (∀ secret, (s.plot n).checks = [⟨.port p tag, what, secret, false⟩] →
        (∀ st d, s.checkRefusal n ⟨.port p tag, what, secret, false⟩ = some (st, d) →
          ∃ t, exec (.retryCounted n) s = .next t ∧ exec (.keyRecordWritten n) s = .next t ∧ (t.plot n).checks = [] ∧
            t.response p .management = some ⟨what.opcode, false, tag, 0, st, d, []⟩ ∧ (t.plot n).record = (s.plot n).record) ∧
        (s.checkRefusal n ⟨.port p tag, what, secret, false⟩ = none → (∀ new, what ≠ .provision new) →
          (∀ new, what = .rewrap new → s.sec.drbgReady = true) →
          exec (.keyRecordWritten n) s = .next s ∧
          (s.vrf n (s.plot n).record.salt secret ≠ (s.plot n).record.vrf → min 255 ((s.plot n).record.retry + 1) < s.retryLimit n →
            ∃ t, exec (.retryCounted n) s = .next t ∧ (t.plot n).record.retry = min 255 ((s.plot n).record.retry + 1) ∧
              (t.plot n).mode = (s.plot n).mode ∧ (t.plot n).checks = [] ∧ t.response p .management =
                some ⟨what.opcode, false, tag, 0, 0x000E, s.retryLimit n - min 255 ((s.plot n).record.retry + 1), []⟩) ∧
          (s.vrf n (s.plot n).record.salt secret ≠ (s.plot n).record.vrf → s.retryLimit n ≤ min 255 ((s.plot n).record.retry + 1) →
            ∃ u, (u.plot n).mode = .erased ∧ (u.plot n).keys = none ∧ (u.plot n).record.keyed = false ∧
              (u.plot n).record.rekeys = (s.plot n).record.rekeys ∧
              let v := answerCheck (emptyPlot u n (s.arb.ordNext - 1)) ⟨.port p tag, what, secret, false⟩ 0x000F 0 []
              exec (.retryCounted n) s = .next (runChecks n ((v.plot n).checks.length + 1) v)) ∧
          (∀ k, s.vrf n (s.plot n).record.salt secret = (s.plot n).record.vrf → s.unwrap n secret = some k →
            (∀ mode, what = .unlock mode → ∃ t, exec (.retryCounted n) s = .next t ∧ (t.plot n).keys = some k ∧
              (t.plot n).record.retry = min 255 ((s.plot n).record.retry + 1) ∧ (t.plot n).checks = [⟨.port p tag, what, secret, true⟩] ∧
              (t.plot n).mode = (s.plot n).mode) ∧
            (∀ new, what = .rewrap new → ∃ t, exec (.retryCounted n) s = .next t ∧ (t.plot n).record.retry = 0 ∧ (t.plot n).checks = [] ∧
              (t.plot n).record.rekeys = min counterMax ((s.plot n).record.rekeys + 1) ∧
              (t.plot n).record.vrf = s.vrf n (t.plot n).record.salt new ∧
              (t.plot n).record.wrapA = Config.kwWrap (s.kek n (t.plot n).record.salt new) k.keys ∧
              t.response p .management = some ⟨0x12, false, tag, 0, 0, 0, []⟩)) ∧
          (s.vrf n (s.plot n).record.salt secret = (s.plot n).record.vrf → s.unwrap n secret = none →
            ∃ u, u.response p .management = some ⟨what.opcode, false, tag, 0, stSafelight, 0, []⟩ ∧ (u.plot n).checks = [] ∧
              (u.plot n).record.retry = min 255 ((s.plot n).record.retry + 1) ∧
              let v := enterScope u 0x00A0 3 n false s.member.centralIsland 0xFF (w32 n) 0
              Faulted s v 0x00A0 3 n false ∧ exec (.retryCounted n) s = .next (runChecks n ((v.plot n).checks.length + 1) v)))) ∧
      (∀ mode secret, what = .unlock mode → (s.plot n).checks = [⟨.port p tag, .unlock mode, secret, true⟩] → s.openRefusal n mode = none →
        ∃ u r, (u.plot n).record.retry = 0 ∧ (u.plot n).mode.up = true ∧ (u.plot n).checks = [] ∧
          u.response p .management = some r ∧ r.opcode = 0x10 ∧ r.status = 0 ∧ r.tag = tag ∧ r.payload.length = 4 ∧
          (mode = 1 → r.payload[0]? = some 3) ∧ (mode = 0 → s.readOnlyCause n = 0 → r.payload[0]? = some 2 ∧ r.detail = 0) ∧
          (mode = 0 → s.readOnlyCause n ≠ 0 → r.payload[0]? = some 3 ∧ r.detail = 1) ∧
          let v := match s.fieldOf n with | some f => runField u f | none => u
          exec (.keyRecordWritten n) s = .next (runChecks n ((v.plot n).checks.length + 1) v)) ∧
      (∀ mode secret st d, what = .unlock mode → (s.plot n).checks = [⟨.port p tag, .unlock mode, secret, true⟩] →
        s.openRefusal n mode = some (st, d) → ∃ t, exec (.keyRecordWritten n) s = .next t ∧ (t.plot n).checks = [] ∧
          (t.plot n).mode = (s.plot n).mode ∧ ((s.plot n).mode.up = false → (t.plot n).keys = none) ∧
          t.response p .management = some ⟨0x10, false, tag, 0, st, d, []⟩))

/-- PUT and DELETE are decided at their number, GET and LIST at their horizon. A credential opcode ends with BAD_FIELD, NOT_READY
in Dark and, for PUT and DELETE, READ_ONLY at a Read-only Plot; it draws nothing then. With a ticket and a number, PUT ends
with WRONG_STATE when its MODE forbids what is there, with FULL when the Field has no space or the Plot no room, and
otherwise waits for its record under the slot the name has or the lowest free one; DELETE ends with NOT_FOUND, with FULL when
it needs space that the Field has not, or discards the record's two blocks and answers OK, with FUA, and while durable mode
asks for it, once they are durable. A grant is noted with its number or horizon. With a ticket, GET of an absent name ends
with NOT_FOUND and otherwise reads the record's blocks; LIST reads the images of the records it returns, and with no record
there is answered at once with none. With no ticket each ends with BUSY, DETAIL 1, and a PUT or DELETE without a number with
READ_ONLY, DETAIL 3. A function that takes no request leaves the capsule without effect. -/
def Obligations.CredentialOpcodesAreDecided : Prop :=
  ∀ (s : State) (p : Port) (n tag : Nat) (name value : List Byte) (mode : Nat) (fua : Bool) (limit : Nat),
    let key : TaskKey := ⟨.port p, n, tag⟩
    let fn := CapsuleFn.credential n
    let u0 := fun op => beginCapsule s p fn op tag
    let won := fun (u : State) (id : Nat) => noteGrant u ⟨p.index, (issueOrder u).map (·.1), none, some id, .granted⟩
    let wonRead := fun (u : State) (id : Nat) => noteGrant u ⟨p.index, none, some (s.arb.ordNext - 1), some id, .granted⟩
    (s.takes p fn = false → exec (.put key mode name value fua) s = .next s ∧ exec (.delete key name fua) s = .next s ∧
      exec (.get key name) s = .next s ∧ exec (.list key name limit) s = .next s) ∧
    (s.takes p fn = true →
      (∀ (c : Instr) (op : Nat) (pl : List Byte) (w fu : Bool),
        (c = .put key mode name value fua ∧ op = 0x40 ∧ pl = putPayload mode name value ∧ w = true ∧ fu = fua) ∨
        (c = .delete key name fua ∧ op = 0x43 ∧ pl = namePayload name ∧ w = true ∧ fu = fua) ∨
        (c = .get key name ∧ op = 0x41 ∧ pl = namePayload name ∧ w = false ∧ fu = false) ∨
        (c = .list key name limit ∧ op = 0x42 ∧ pl = leBytes 1 name.length ++ [0] ++ leBytes 2 limit ++ name ∧ w = false ∧ fu = false) →
        (∀ o, fieldFault? op pl = some o → Responds s c p fn ⟨op, fu, tag, 0, stBadField, o, []⟩) ∧
        (fieldFault? op pl = none →
          (s.plotDark n = true → Responds s c p fn ⟨op, fu, tag, 0, stNotReady, 0, []⟩) ∧
          (s.plotDark n = false → w = true → (s.plot n).mode = .readOnly →
            Responds s c p fn ⟨op, fu, tag, 0, stReadOnly, s.roDetail n, []⟩) ∧
          (s.plotDark n = false → (w = true → (s.plot n).mode ≠ .readOnly ∧ (s.fieldOf n).isSome = true) →
            drawTicket (u0 op) p.index = none → s.arb.lockstep = false → ∃ t, exec c s = .next t ∧
              t.response p fn = some ⟨op, fu, tag, 0, stBusy, 1, []⟩ ∧ t.arb.ordNext = s.arb.ordNext) ∧
          (s.plotDark n = false → w = true → (s.plot n).mode ≠ .readOnly → (s.fieldOf n).isSome = true →
            ∀ id u, drawTicket (u0 op) p.index = some (id, u) → issueOrder u = none →
            ∃ t, exec c s = .next t ∧ t.response p fn = some ⟨op, fu, tag, 0, stReadOnly, 3, []⟩ ∧ t.fn.tasks = s.fn.tasks))) ∧
      (fieldFault? 0x40 (putPayload mode name value) = none → s.plotDark n = false → (s.plot n).mode ≠ .readOnly → ∀ f, s.fieldOf n = some f →
          (∀ id u m v, drawTicket (u0 0x40) p.index = some (id, u) → issueOrder (won u id) = some (m, v) →
            let recs := v.recordsAt n (m - 1)
            let there := (recs.find? (·.2 == name)).map (·.1)
            let ends := fun st d => ∃ t, exec (.put key mode name value fua) s = .next t ∧ t.response p fn = some ⟨0x40, fua, tag, m, st, d, []⟩
            (mode = 1 → there.isSome = true → ends stWrongState (0x0100 + (v.plot n).mode.code)) ∧
            (mode = 2 → there = none → ends stWrongState (0x0200 + (v.plot n).mode.code)) ∧
            ((mode = 1 → there = none) → (mode = 2 → there.isSome = true) →
              ((v.field f).spaceOut = true → ends stFull 2) ∧
              ((v.field f).spaceOut = false → there = none → v.capacityOf n ≤ recs.length → ends stFull 1) ∧
              ((v.field f).spaceOut = false → (there = none → recs.length < v.capacityOf n) →
                let slot := there.getD (freeSlot (recs.map (·.1)) recs.length 0)
                exec (.put key mode name value fua) s = .next (v.modTasks fun ts => ts ++ [{ newTask key none .put (2 * slot) 2 fua with
                  name := name, mode := mode, ticket := some id, durable := s.asFua, order := some m, since := (v.field f).rseqNext
                  value := recordImage (v.keySet n) n slot m (recordPlain name value) }]))))) ∧
      (fieldFault? 0x43 (namePayload name) = none → s.plotDark n = false → (s.plot n).mode ≠ .readOnly → ∀ f, s.fieldOf n = some f →
        ∀ id u m v, drawTicket (u0 0x43) p.index = some (id, u) → issueOrder (won u id) = some (m, v) →
          let found := (v.recordsAt n (m - 1)).find? (·.2 == name)
          (found = none → ∃ t, exec (.delete key name fua) s = .next t ∧ t.response p fn = some ⟨0x43, fua, tag, m, stNotFound, 0, []⟩) ∧
          (∀ r, found = some r →
            ((v.field f).spaceOut = true → 2 < max 1 (v.geo f).g →
              ∃ t, exec (.delete key name fua) s = .next t ∧ t.response p fn = some ⟨0x43, fua, tag, m, stFull, 2, []⟩) ∧
            ((v.field f).spaceOut = false ∨ max 1 (v.geo f).g ≤ 2 →
              let x := { newTask key none .del (2 * r.1) 0 fua with
                name := name, ticket := some id, durable := s.asFua, order := some m, since := (v.field f).rseqNext, descs := [(2 * r.1, 2)] }
              let w := applyDiscard (v.modTasks fun ts => ts ++ [x]) f x
              (fua = false → s.asFua = false → ∃ t, exec (.delete key name fua) s = .next (runField t f) ∧
                t.response p fn = some ⟨0x43, false, tag, m, 0, 0, []⟩ ∧ t.fields = w.fields) ∧
              (fua = true ∨ s.asFua = true → exec (.delete key name fua) s =
                .next (develop (w.modField f fun fs => { fs with waiters := fs.waiters ++ [⟨key, m, none⟩] }) f (below (m + 1))))))) ∧
      (fieldFault? 0x41 (namePayload name) = none → s.plotDark n = false → ∀ id u, drawTicket (u0 0x41) p.index = some (id, u) →
        let t := { newTask key none .get 0 0 false with name := name, ticket := some id, durable := s.asFua, horizon := some (s.arb.ordNext - 1) }
        let found := (u.recordsAt n (s.arb.ordNext - 1)).find? (·.2 == name)
        (found = none → ∃ v, exec (.get key name) s = .next v ∧ v.response p fn = some ⟨0x41, false, tag, s.arb.ordNext - 1, stNotFound, 0, []⟩) ∧
        (∀ r, found = some r → exec (.get key name) s =
          .next (startRead ((wonRead u id).modTasks fun ts => ts ++ [{ t with lba := 2 * r.1, count := 2 }]) { t with lba := 2 * r.1, count := 2 }))) ∧
      (fieldFault? 0x42 (leBytes 1 name.length ++ [0] ++ leBytes 2 limit ++ name) = none → s.plotDark n = false →
        ∀ id u, drawTicket (u0 0x42) p.index = some (id, u) →
          let x := { newTask key none .list 0 (2 * u.capacityOf n) false with
            name := name, mode := limit, ticket := some id, durable := s.asFua, horizon := some (s.arb.ordNext - 1) }
          exec (.list key name limit) s = .next (startRead ((wonRead u id).modTasks fun ts => ts ++ [x]) x) ∧
          (u.recordsAt n (s.arb.ordNext - 1) = [] → (∀ y ∈ s.fn.tasks, y.kind ≠ .put) → s.lookupWaits n = false →
            (∀ y ∈ s.fn.tasks, y.key ≠ key) →
            ∃ v, exec (.list key name limit) s = .next v ∧ v.response p fn = some ⟨0x42, false, tag, s.arb.ordNext - 1, 0, 0, [0, 0, 0, 0]⟩)))

/-- SCSI commands that draw nothing return the data of Table FNC-11 or the sense data of Table FNC-12. A command that reaches its
logical unit, with no UNIT ATTENTION owed, no SANITIZE in progress and the Plot not in Dark: TEST UNIT READY and START STOP
UNIT with START = 1 end with GOOD; INQUIRY, REPORT LUNS, READ CAPACITY, MODE SENSE and SECURITY PROTOCOL IN return their data
up to the allocation length; a field they do not support ends with 0x24/0x00, saved mode pages with 0x39/0x00 and an
operation code not listed with 0x20/0x00. INQUIRY and REPORT LUNS also answer while a UNIT ATTENTION is owed, a SANITIZE runs
or the Plot is in Dark. A command of a member's host is answered by IO_RSP; one for the master's Plot is forwarded to it, and
what a member cannot know of that Plot (its last block, write protection, state, health and counters) is a free value (log
75). A reserved field that is set ends the command with 0x24/0x00. Bytes that the standards give and the spec does not
(headers, lengths, designators) are the model's choice of log 13. -/
def Obligations.ScsiInformationCommands : Prop :=
  ∀ (s : State) (key : TaskKey) (tr : Transport),
    (Reaches s key tr →
      (∀ c, (∃ evpd page alloc, c = .inquiry ⟨key, tr, true⟩ evpd page alloc) ∨ (∃ select alloc, c = .reportLuns ⟨key, tr, true⟩ select alloc) →
        Answers s c key (illegal 0x24 0x00) []) ∧
      (∀ alloc page, page ≠ 0 → Answers s (.inquiry ⟨key, tr, false⟩ false page alloc) key (illegal 0x24 0x00) []) ∧
      (∀ alloc, Answers s (.inquiry ⟨key, tr, false⟩ false 0 alloc) key .good
        (([0x00, 0x00, 0x06, 0x02, 31, 0, 0, 0] ++ s.vendorText ++ s.productText ++ hexText 4 (s.bcdDevice key)).take alloc)) ∧
      (∀ alloc page b, vpdBody s key page = some b → Answers s (.inquiry ⟨key, tr, false⟩ true page alloc) key .good
        (([0x00] ++ leBytes 1 page ++ beBytes 2 b.length ++ b).take alloc)) ∧
      (∀ alloc page, page ∉ [0x00, 0x80, 0x83, 0xB0, 0xB1, 0xB2] →
        Answers s (.inquiry ⟨key, tr, false⟩ true page alloc) key (illegal 0x24 0x00) []) ∧
      (∀ select alloc, (select = 0 ∨ select = 2) → 16 ≤ alloc → Answers s (.reportLuns ⟨key, tr, false⟩ select alloc) key .good
        ([0, 0, 0, 8, 0, 0, 0, 0, 0, 0, 0, 0, 0, 0, 0, 0].take alloc)) ∧
      (∀ select alloc, (select ≠ 0 ∧ select ≠ 2) ∨ alloc < 16 → Answers s (.reportLuns ⟨key, tr, false⟩ select alloc) key (illegal 0x24 0x00) [])) ∧
    (ScsiClear s key tr →
      (∀ op r, Answers s (.unsupportedCdb ⟨key, tr, r⟩ op) key (illegal 0x20 0x00) []) ∧
      (∀ c, c = .testUnitReady ⟨key, tr, true⟩ ∨ c = .readCapacity10 ⟨key, tr, true⟩ ∨ (∃ alloc, c = .readCapacity16 ⟨key, tr, true⟩ alloc) ∨
          (∃ pc, c = .startStopUnitStart ⟨key, tr, true⟩ pc) ∨ (∃ pc page alloc, c = .modeSense10 ⟨key, tr, true⟩ pc page alloc) ∨
          (∃ q w alloc, c = .securityProtocolIn ⟨key, tr, true⟩ q w alloc) →
        Answers s c key (illegal 0x24 0x00) []) ∧
      (∀ pc, pc ≠ 0 → Answers s (.startStopUnitStart ⟨key, tr, false⟩ pc) key (illegal 0x24 0x00) []) ∧
      (∀ page alloc, Answers s (.modeSense10 ⟨key, tr, false⟩ 3 page alloc) key (illegal 0x39 0x00) []) ∧
      (∀ pc page alloc, pc ≠ 3 → page ≠ 0x08 → page ≠ 0x0A → page ≠ 0x3F → Answers s (.modeSense10 ⟨key, tr, false⟩ pc page alloc) key (illegal 0x24 0x00) []) ∧
      (∀ alloc, Answers s (.securityProtocolIn ⟨key, tr, false⟩ 0x00 0 alloc) key .good ([0, 0, 0, 0, 0, 0, 0, 2, 0x00, 0xF0].take alloc)) ∧
      (∀ q w alloc, ¬(q = 0x00 ∧ w = 0) → ¬(q = 0xF0 ∧ w = 1) → Answers s (.securityProtocolIn ⟨key, tr, false⟩ q w alloc) key (illegal 0x24 0x00) []) ∧
      (isRemote key = true →
        let u := dropSense s key
        exec (.testUnitReady ⟨key, tr, false⟩) s = .next (forwardPlain u key [0x00] []) ∧
        exec (.startStopUnitStart ⟨key, tr, false⟩ 0) s = .next (forwardPlain u key [0x1B, 0, 0, 0, 1, 0] []) ∧
        exec (.readCapacity10 ⟨key, tr, false⟩) s = .next (forwardPlain (u.drawBytes 4).2 key (cdb10 0x25 0 0 0) ((u.drawBytes 4).1 ++ beBytes 4 4096)) ∧
        (∀ alloc, exec (.readCapacity16 ⟨key, tr, false⟩ alloc) s = .next (forwardPlain (u.drawBytes 8).2 key (cdb16 0x9E 0x10 0 alloc)
          (((u.drawBytes 8).1 ++ beBytes 4 4096 ++ [0x00] ++ leBytes 1 (grainExp (s.grainOf key.plot)) ++ [0xC0, 0x00] ++ List.replicate 16 0).take alloc))) ∧
        (∀ pc page alloc b, pc ≠ 3 → modePage page (pc == 1) = some b → ∃ wp ∈ [0x10#8, 0x90#8],
          exec (.modeSense10 ⟨key, tr, false⟩ pc page alloc) s = .next (forwardPlain u.drawBool.2 key
            (padTo 0 16 (leBytes 1 0x5A ++ [0] ++ leBytes 1 (64 * pc + page) ++ [0, 0, 0, 0] ++ beBytes 2 alloc))
            ((beBytes 2 (6 + b.length) ++ [0x00, wp, 0, 0, 0, 0] ++ b).take alloc))) ∧
        (∀ alloc, ∃ st he re rk, (st = PlotMode.open_.code ∨ st = PlotMode.readOnly.code) ∧ he < 3 ∧
          exec (.securityProtocolIn ⟨key, tr, false⟩ 0xF0 1 alloc) s = .next (forwardPlain u.drawBool.2.drawNat.2.drawNat.2 key
            (leBytes 1 0xA2 ++ leBytes 1 0xF0 ++ beBytes 2 1 ++ [0, 0] ++ beBytes 4 alloc) ((securityBytes st he re rk).take alloc)))) ∧
      (isRemote key = false →
        Answers s (.startStopUnitStart ⟨key, tr, false⟩ 0) key .good [] ∧
        Answers s (.testUnitReady ⟨key, tr, false⟩) key .good [] ∧
        Answers s (.readCapacity10 ⟨key, tr, false⟩) key .good (beBytes 4 (min 0xFFFFFFFF (s.capacityOf key.plot - 1)) ++ beBytes 4 4096) ∧
        (∀ alloc, Answers s (.readCapacity16 ⟨key, tr, false⟩ alloc) key .good ((beBytes 8 (s.capacityOf key.plot - 1) ++ beBytes 4 4096 ++ [0x00] ++
          leBytes 1 (grainExp (s.grainOf key.plot)) ++ [0xC0, 0x00] ++ List.replicate 16 0).take alloc)) ∧
        (∀ pc page alloc b, pc ≠ 3 → modePage page (pc == 1) = some b → Answers s (.modeSense10 ⟨key, tr, false⟩ pc page alloc) key .good
          ((beBytes 2 (6 + b.length) ++ [0x00, if (s.plot key.plot).mode = PlotMode.readOnly then 0x90 else 0x10, 0, 0, 0, 0] ++ b).take alloc)) ∧
        (∀ alloc, Answers s (.securityProtocolIn ⟨key, tr, false⟩ 0xF0 1 alloc) key .good
          (([BitVec.ofNat 8 (s.plot key.plot).mode.code, BitVec.ofNat 8 (s.plot key.plot).health,
             BitVec.ofNat 8 (s.retryLimit key.plot - (s.plot key.plot).record.retry), 0] ++ beBytes 4 (s.plot key.plot).record.rekeys).take alloc))))

/-- REQUEST SENSE returns SANITIZE progress, the kept sense data once, Dark, or no sense. REQUEST SENSE with DESC = 1 or a
reserved field set is refused with 0x24/0x00. Otherwise it returns 18 bytes of fixed-format sense data, up to the allocation
length: while a SANITIZE is in progress, NOT READY 0x04/0x1B with a progress value, which is a free value; else the sense
data kept for the origin and the Plot, which it clears; else, in Dark, NOT READY 0x04/0x12; else no sense. Fixed-format data
begins with 0x70, carries the key, ASC and ASCQ at bytes 2, 12 and 13 and a failing LBA in bytes 3 to 6 with VALID = 1. The
places of these bytes are the standard's, taken as log 13 says. -/
def Obligations.RequestSenseReports : Prop :=
  (∀ (s : State) (key : TaskKey) (tr : Transport) (alloc : Nat), Reaches s key tr →
    Answers s (.requestSense ⟨key, tr, false⟩ true alloc) key (illegal 0x24 0x00) [] ∧
    (∀ d, Answers s (.requestSense ⟨key, tr, true⟩ d alloc) key (illegal 0x24 0x00) []) ∧
    ((s.plot key.plot).sanitize.isSome = true → ∃ n < 65536,
      Answers s (.requestSense ⟨key, tr, false⟩ false alloc) key .good ((senseBytes ⟨2, 0x04, 0x1B, none, some n⟩).take alloc)) ∧
    ((s.plot key.plot).sanitize = none →
      (∀ e, s.fn.sense.find? (fun e => sameUnit key e.origin e.plot) = some e →
        Answers s (.requestSense ⟨key, tr, false⟩ false alloc) key .good ((senseBytes e.sense).take alloc) ∧
        ∀ p, key.origin = .port p → ∃ t, exec (.requestSense ⟨key, tr, false⟩ false alloc) s = .next t ∧
          t.fn.sense = s.fn.sense.filter fun e => !sameUnit key e.origin e.plot) ∧
      (s.fn.sense.find? (fun e => sameUnit key e.origin e.plot) = none →
        (s.plotDark key.plot = true →
          Answers s (.requestSense ⟨key, tr, false⟩ false alloc) key .good ((senseBytes (senseOf 2 0x04 0x12)).take alloc)) ∧
        (s.plotDark key.plot = false →
          Answers s (.requestSense ⟨key, tr, false⟩ false alloc) key .good ((senseBytes (senseOf 0 0 0)).take alloc))))) ∧
  (∀ e : Sense, (senseBytes e).length = 18 ∧ (senseBytes e)[0]? = some (if e.info.isSome then 0xF0 else 0x70) ∧
    (senseBytes e)[2]? = some (BitVec.ofNat 8 e.key) ∧ (senseBytes e)[12]? = some (BitVec.ofNat 8 e.asc) ∧
    (senseBytes e)[13]? = some (BitVec.ofNat 8 e.ascq) ∧ ((senseBytes e).drop 3).take 4 = beBytes 4 (e.info.getD 0))

/-- A bad IU, an overlapped tag, UNIT ATTENTION once, SANITIZE in progress and Dark end a command before its own meaning. At a
unit that is not presented to its origin no SCSI command changes anything. At a presented one an IU with ACA, an ADDITIONAL
CDB LENGTH or at SuperSpeed a tag that is no stream ID is answered INVALID INFO UNIT; otherwise a tag in flight aborts the
command that carries it, and the new one is answered OVERLAPPED TAG ATTEMPTED, after which reads that waited go on. For every
SCSI command but INQUIRY, REPORT LUNS and REQUEST SENSE then: the first command after a connection or reset ends with UNIT
ATTENTION 0x29/0x00, after which none is owed; during a SANITIZE with 0x04/0x1B; in Dark with 0x04/0x12. That the last two
bad IUs get ACA's response is the model's choice of log 76. -/
def Obligations.ScsiCommandsTurnedAway : Prop :=
  ∀ (s : State) (c : Instr) (key : TaskKey) (tr : Transport),
    (gatedKey c = some (key, tr) ∨ (∃ d a r, c = .requestSense ⟨key, tr, r⟩ d a) ∨ (∃ e p a r, c = .inquiry ⟨key, tr, r⟩ e p a) ∨
      (∃ x a r, c = .reportLuns ⟨key, tr, r⟩ x a) →
      (s.presented key = false → exec c s = .next s) ∧
      (s.presented key = true → s.badIu key tr = true → Answers s c key .invalidInfoUnit []) ∧
      (s.presented key = true → s.badIu key tr = false → (∃ x ∈ s.fn.tasks, x.key = key ∧ x.statusDue = true) →
        ∃ u, exec c s = .next (replyScsi (serveReads (advanceReads u)) key .overlappedTag []) ∧
          { u with fn := s.fn, arb := s.arb, engines := s.engines } = s ∧ ∀ x ∈ u.fn.tasks, x.key = key → x.statusDue = false)) ∧
    (gatedKey c = some (key, tr) → Reaches s key tr →
      (s.owesAttention key = true → Answers s c key (.check (senseOf 6 0x29 0x00)) [] ∧
        ∀ p, key.origin = .port p → ∃ t, exec c s = .next t ∧ t.owesAttention key = false) ∧
      (s.owesAttention key = false → (s.plot key.plot).sanitize.isSome = true → Answers s c key (.check (senseOf 2 0x04 0x1B)) []) ∧
      (s.owesAttention key = false → (s.plot key.plot).sanitize = none → s.plotDark key.plot = true →
        Answers s c key (.check (senseOf 2 0x04 0x12)) []))

/-- READ and WRITE draw a ticket, and a WRITE an order number; a bad field, a range beyond the capacity or no transfer draws
neither. For READ(10), READ(16), WRITE(10) and WRITE(16) with nothing in their way, one for the master's Plot is forwarded to
it; to a Plot of this device: a reserved field or more than 65,536 blocks ends with 0x24/0x00, a range beyond the capacity
with 0x21/0x00, a transfer of no block with GOOD, and a write to a Read-only Plot with DATA PROTECT; none of these draws
anything. Otherwise a ticket is drawn and the grant noted. A write then takes the next order number, and waits for its
blocks; a read takes the highest number issued before as its horizon and its page reads are queued. With no free ticket, UAS
answers TASK SET FULL, BOT holds the command and a member's host is answered BUSY. The model numbers tickets with the lowest
free number (log 10); the statement names none. -/
def Obligations.ReadsAndWritesAreGranted : Prop :=
  ∀ (s : State) (c : Instr) (key : TaskKey) (tr : Transport) (fl : CdbFlags) (lba n : Nat) (kind : TaskKind) (cdb : List Byte),
    ((∃ a l, c = .read10 key tr a l fl ∧ kind = .read ∧ lba = a.toNat ∧ n = l.toNat ∧ cdb = cdb10 0x28 0 lba n) ∨
     (∃ a l, c = .read16 key tr a l fl ∧ kind = .read ∧ lba = a.toNat ∧ n = l.toNat ∧ cdb = cdb16 0x88 0 lba n) ∨
     (∃ a l, c = .write10 key tr a l fl ∧ kind = .write ∧ lba = a.toNat ∧ n = l.toNat ∧ cdb = cdb10 0x2A (bitOf fl.fua 3) lba n) ∨
     (∃ a l, c = .write16 key tr a l fl ∧ kind = .write ∧ lba = a.toNat ∧ n = l.toNat ∧ cdb = cdb16 0x8A (bitOf fl.fua 3) lba n)) →
    ScsiClear s key tr →
    let s1 := dropSense s key
    let task : Task := newTask key (some tr) kind lba n (kind == .write && fl.fua)
    let turnedAway := fun (u : State) (i : Nat) (e : GrantEnd) => noteGrant u ⟨i, none, none, none, e⟩
    (flagsBad fl = true ∨ 65536 < n → Answers s c key (illegal 0x24 0x00) []) ∧
    (flagsBad fl = false → n ≤ 65536 → isRemote key = true →
      exec c s = .next (forwardScsi s1 cdb [] (if n = 0 then { task with kind := .flush } else task))) ∧
    (flagsBad fl = false → n ≤ 65536 → isRemote key = false →
      (s.capacityOf key.plot < lba + n → Answers s c key (illegal 0x21 0x00) []) ∧
      (lba + n ≤ s.capacityOf key.plot → n = 0 → Answers s c key .good []) ∧
      (lba + n ≤ s.capacityOf key.plot → 0 < n →
        (∀ st, kind = .write → s.protects key.plot .write = some st → Answers s c key st []) ∧
        ((kind = .write → s.protects key.plot .write = none) →
          (∀ f id u, kind = .read → s.fieldOf key.plot = some f → drawTicket s1 key.origin.cls = some (id, u) →
            let t := { task with ticket := some id, durable := s.asFua, horizon := some (s.arb.ordNext - 1) }
            exec c s = .next (startRead (tellMember ((noteGrant u (task.grant u id)).modTasks fun ts => ts ++ [t]) t (s.arb.ordNext - 1)) t)) ∧
          (∀ f id u m v, kind = .write → s.fieldOf key.plot = some f → drawTicket s1 key.origin.cls = some (id, u) →
            issueOrder (noteGrant u (task.grant u id)) = some (m, v) →
            let t := { task with ticket := some id, durable := s.asFua, order := some m, since := (v.field f).rseqNext }
            m = s.arb.ordNext ∧ v.arb.ordNext = s.arb.ordNext + 1 ∧
            (v.noSpace f t = false → exec c s = .next (tellMember (v.modTasks fun ts => ts ++ [t]) t m)) ∧
            (v.noSpace f t = true → exec c s = .next (replyScsi (releaseTicket v id) key (dataProtect 0x07) []))) ∧
          (drawTicket s1 key.origin.cls = none → s.arb.lockstep = false →
            (∀ p attr len, key.origin = .port p → tr = .uas attr len → exec c s = .next (sendScsi (turnedAway (countTsf s1 p.index) p.index .taskSetFull) key .taskSetFull [])) ∧
            (∀ p, key.origin = .port p → tr = .bot → exec c s = .next ((turnedAway (countTsf s1 p.index) p.index .held).modTasks fun ts => ts ++ [{ task with held := true }])) ∧
            (∀ pos, key.origin = .ring pos → exec c s = .next (ringSend (turnedAway s1 2 .ringBusy) 0x31 pos key.tag true (ioRspBytes .busy 0)))))))

/-- A WRITE of no block returns GOOD at once and draws no number and no data-path step, also with FUA. A WRITE(10) or WRITE(16)
of no block, FUA or not, that reaches its logical unit with nothing in its way, carries no reserved field and names a
position within the capacity of a Plot of this device, ends with GOOD. Nothing changes but the kept results, so no number, no
ticket and no command in flight is left; for a member's host the GOOD goes as an IO_RSP. One for the master's Plot is
forwarded, and draws no number, no ticket and no place in a Field here. -/
def Obligations.EmptyWritesDrawNothing : Prop :=
  ∀ (s : State) (key : TaskKey) (tr : Transport) (fl : CdbFlags) (c : Instr),
    (∃ a : BitVec 32, c = .write10 key tr a 0 fl ∧ (isRemote key = false → a.toNat ≤ s.capacityOf key.plot)) ∨
    (∃ a : BitVec 64, c = .write16 key tr a 0 fl ∧ (isRemote key = false → a.toNat ≤ s.capacityOf key.plot)) →
    ScsiClear s key tr → flagsBad fl = false →
    (isRemote key = false → Answers s c key .good []) ∧
    (isRemote key = true → ∃ t, exec c s = .next t ∧ t.arb = s.arb ∧ t.fields = s.fields)

/-- SYNCHRONIZE CACHE and START STOP UNIT with START = 0 are flushes, also at a Read-only Plot and at the order-number end.
SYNCHRONIZE CACHE(10) and (16) with IMMED or a reserved field end with 0x24/0x00 and beyond the capacity with 0x21/0x00;
START STOP UNIT with a power condition ends with 0x24/0x00. Otherwise each draws a ticket and, while numbers are issued, the
next order number, and begins a flush whatever the Plot's state is: with nothing below its number outstanding it ends with
GOOD at once, and otherwise a waiter with its number joins the Field's waiters and development of all below it is forced; at
the order-number end the waiter waits for every page released before its grant. They never end with DATA PROTECT. One for the
master's Plot is forwarded to it. -/
def Obligations.FlushesAreGranted : Prop :=
  ∀ (s : State) (c : Instr) (key : TaskKey) (tr : Transport), ScsiClear s key tr →
    ((∀ a n fl, c = .synchronizeCache10 key tr a n true fl → Answers s c key (illegal 0x24 0x00) []) ∧
     (∀ a n fl, c = .synchronizeCache16 key tr a n true fl → Answers s c key (illegal 0x24 0x00) []) ∧
     (∀ a n i fl, c = .synchronizeCache10 key tr a n i fl → flagsBad fl = true → Answers s c key (illegal 0x24 0x00) []) ∧
     (∀ a n i fl, c = .synchronizeCache16 key tr a n i fl → flagsBad fl = true → Answers s c key (illegal 0x24 0x00) []) ∧
     (∀ pc r, c = .startStopUnitStop key ⟨tr, r⟩ pc → pc ≠ 0 ∨ r = true → Answers s c key (illegal 0x24 0x00) [])) ∧
    (isRemote key = true → ∀ cdb,
      ((∃ a n fl, c = .synchronizeCache10 key tr a n false fl ∧ flagsBad fl = false ∧ cdb = cdb10 0x35 0 a.toNat n.toNat) ∨
       (∃ a n fl, c = .synchronizeCache16 key tr a n false fl ∧ flagsBad fl = false ∧ cdb = cdb16 0x91 0 a.toNat n.toNat) ∨
       (c = .startStopUnitStop key ⟨tr, false⟩ 0 ∧ cdb = [0x1B])) →
      exec c s = .next (forwardScsi (dropSense s key) cdb [] (newTask key (some tr) .flush 0 0 false))) ∧
    (isRemote key = false →
      (∀ a n fl, c = .synchronizeCache10 key tr a n false fl → flagsBad fl = false → s.capacityOf key.plot < a.toNat + n.toNat →
        Answers s c key (illegal 0x21 0x00) []) ∧
      (∀ a n fl, c = .synchronizeCache16 key tr a n false fl → flagsBad fl = false → s.capacityOf key.plot < a.toNat + n.toNat →
        Answers s c key (illegal 0x21 0x00) []) ∧
      ((∃ a n fl, c = .synchronizeCache10 key tr a n false fl ∧ flagsBad fl = false ∧ a.toNat + n.toNat ≤ s.capacityOf key.plot) ∨
       (∃ a n fl, c = .synchronizeCache16 key tr a n false fl ∧ flagsBad fl = false ∧ a.toNat + n.toNat ≤ s.capacityOf key.plot) ∨
       c = .startStopUnitStop key ⟨tr, false⟩ 0 →
       ∀ f id u, s.fieldOf key.plot = some f → drawTicket (dropSense s key) key.origin.cls = some (id, u) →
        let t0 := newTask key (some tr) .flush 0 0 false
        let w := noteGrant u (t0.grant u id)
        let t := { t0 with ticket := some id, durable := s.asFua }
        (∀ m v, issueOrder w = some (m, v) →
          let t1 := { t with order := some m, since := (v.field f).rseqNext }
          let x := v.modTasks fun ts => ts ++ [t1]
          m = s.arb.ordNext ∧ v.arb.ordNext = s.arb.ordNext + 1 ∧
          (flushIdle (x.field f) (x.fenv f) m = true → exec c s = .next (answerTask x t1 .good [])) ∧
          (flushIdle (x.field f) (x.fenv f) m = false →
            exec c s = .next (develop (x.modField f fun fs => { fs with waiters := fs.waiters ++ [⟨key, m, none⟩] }) f (below m)))) ∧
        (issueOrder w = none → exec c s = .next (beginFlush (w.modTasks fun ts => ts ++ [t]) f t))))

/-- UNMAP takes in its parameter list before it draws a number; a bad list, a range beyond the capacity or a Read-only Plot draws
none. UNMAP with ANCHOR or a reserved field ends with 0x24/0x00 and with a parameter list of no byte with GOOD; else the
command waits for its list and draws nothing. When the list is complete the command no longer waits: during a SANITIZE it
ends with 0x04/0x1B and in Dark with 0x04/0x12; else a malformed list, or more than 4,095 descriptors, ends with 0x26/0x00, a
descriptor beyond the capacity with 0x21/0x00, a list of empty descriptors with GOOD, and at a Read-only Plot with DATA
PROTECT. Otherwise the discard of its non-empty descriptors is presented to the arbiter. For the master's Plot a list with
anything to discard is forwarded to it. A list for a command that does not wait for one changes nothing. -/
def Obligations.UnmapTakesItsListFirst : Prop :=
  ∀ (s : State) (key : TaskKey),
    (∀ tr, ScsiClear s key tr → ∀ anchor n fl,
      (anchor = true ∨ flagsBad fl = true → Answers s (.unmap key tr anchor n fl) key (illegal 0x24 0x00) []) ∧
      (anchor = false → flagsBad fl = false → n = 0 → Answers s (.unmap key tr anchor n fl) key .good []) ∧
      (anchor = false → flagsBad fl = false → 0 < n → exec (.unmap key tr anchor n fl) s =
        .next ((dropSense s key).modTasks fun ts => ts ++ [{ newTask key (some tr) .discard 0 0 false with intake := true }]))) ∧
    (s.fn.tasks.find? (fun t => t.key == key && t.intake && t.statusDue) = none →
      ∀ ok ds, exec (.unmapParameterList key ok ds) s = .next s) ∧
    (∀ t, s.fn.tasks.find? (fun t => t.key == key && t.intake && t.statusDue) = some t →
      let u := s.modTasks fun ts => ts.filter fun x => !(x.key == key && x.intake)
      ∀ ok ds,
        ((s.plot key.plot).sanitize.isSome = true → exec (.unmapParameterList key ok ds) s = .next (replyScsi u key (notReady 0x04 0x1B) [])) ∧
        ((s.plot key.plot).sanitize = none → s.plotDark key.plot = true →
          exec (.unmapParameterList key ok ds) s = .next (replyScsi u key (notReady 0x04 0x12) []))) ∧
    (∀ t, s.fn.tasks.find? (fun t => t.key == key && t.intake && t.statusDue) = some t → (s.plot key.plot).sanitize = none →
      s.plotDark key.plot = false → isRemote key = false →
      let u := s.modTasks fun ts => ts.filter fun x => !(x.key == key && x.intake)
      ∀ ok ds,
        let todo := ds.filter fun d => d.count != 0
        let outside := todo.any fun d => decide (s.capacityOf key.plot < d.lba + d.count)
        (ok = false ∨ 4095 < ds.length → exec (.unmapParameterList key ok ds) s = .next (replyScsi u key (illegal 0x26 0x00) [])) ∧
        (ok = true → ds.length ≤ 4095 →
          (outside = true → exec (.unmapParameterList key ok ds) s = .next (replyScsi u key (illegal 0x21 0x00) [])) ∧
          (outside = false → todo = [] → exec (.unmapParameterList key ok ds) s = .next (replyScsi u key .good [])) ∧
          (outside = false → todo ≠ [] →
            (∀ st, s.protects key.plot .discard = some st → exec (.unmapParameterList key ok ds) s = .next (replyScsi u key st [])) ∧
            (s.protects key.plot .discard = none → exec (.unmapParameterList key ok ds) s =
              .next (startTask u { t with intake := false, descs := todo.map fun d => (d.lba, d.count) }))))) ∧
    (∀ t, s.fn.tasks.find? (fun t => t.key == key && t.intake && t.statusDue) = some t → (s.plot key.plot).sanitize = none →
      s.plotDark key.plot = false → isRemote key = true →
      let u := s.modTasks fun ts => ts.filter fun x => !(x.key == key && x.intake)
      ∀ ok ds,
        (ok = false ∨ 4095 < ds.length → exec (.unmapParameterList key ok ds) s = .next (replyScsi u key (illegal 0x26 0x00) [])) ∧
        (ok = true → ds.length ≤ 4095 →
          ((∀ d ∈ ds, d.count = 0) → exec (.unmapParameterList key ok ds) s = .next (replyScsi u key .good [])) ∧
          ((∃ d ∈ ds, d.count ≠ 0) → exec (.unmapParameterList key ok ds) s = .next (forwardScsi u (cdb10 0x42 0 0 (8 + 16 * ds.length))
            (unmapList ds) { t with intake := false, kind := .flush }))))

/-- SANITIZE is granted with a number, and completes with a new key set once every earlier command of the Plot has ended.
SANITIZE with another service action ends with 0x20/0x00, with a parameter list or a reserved field with 0x24/0x00, at a
Read-only Plot with DATA PROTECT where Table FNC-12 says so, and with the re-key counter exhausted with 0x31/0x03. Else, with
a ticket and a number, the Plot's crypto-erase is in progress from the grant, with IMMED = 1 GOOD is sent at the grant, and
the whole-Plot trim entry of its number is placed. Its completion while an earlier command of the Plot is in flight changes
nothing; otherwise the record holds one new wrapped key set, no bulk re-key and one re-key more, the new set is in the key
store, the map is emptied and older copies of the record are destroyed, the crypto-erase is over and GOOD ends a command
still waiting. One for the master's Plot is forwarded to it. Without a crypto-erase in progress the completion changes
nothing. -/
def Obligations.SanitizeErasesOnePlot : Prop :=
  ∀ (s : State) (key : TaskKey),
    (∀ tr, ScsiClear s key tr → ∀ sa immed n,
      (∀ r, sa ≠ 3 → Answers s (.sanitize key ⟨tr, r⟩ sa immed n) key (illegal 0x20 0x00) []) ∧
      (∀ r, sa = 3 → n ≠ 0 ∨ r = true → Answers s (.sanitize key ⟨tr, r⟩ sa immed n) key (illegal 0x24 0x00) []) ∧
      (sa = 3 → n = 0 → isRemote key = true → exec (.sanitize key ⟨tr, false⟩ sa immed n) s = .next (forwardScsi (dropSense s key)
        (cdb10 0x48 (3 + bitOf immed 7) 0 0) [] { newTask key (some tr) .flush 0 0 false with mode := bitOf immed 0 })) ∧
      (sa = 3 → n = 0 → isRemote key = false →
        (∀ st, s.protects key.plot .sanitize = some st → Answers s (.sanitize key ⟨tr, false⟩ sa immed n) key st []) ∧
        (s.protects key.plot .sanitize = none →
          ((s.plot key.plot).record.rekeys = counterMax ∨ s.spareOut = true →
            Answers s (.sanitize key ⟨tr, false⟩ sa immed n) key (.check (senseOf 3 0x31 0x03)) []) ∧
          ((s.plot key.plot).record.rekeys ≠ counterMax → s.spareOut = false →
            ∀ f id u m v, s.fieldOf key.plot = some f → drawTicket (dropSense s key) key.origin.cls = some (id, u) →
              issueOrder (noteGrant u ((newTask key (some tr) .sanitize 0 0 false).grant u id)) = some (m, v) → key.plot < s.plots.length →
              ∃ t, exec (.sanitize key ⟨tr, false⟩ sa immed n) s = .next (trimPlot t f key.plot m) ∧ (t.plot key.plot).sanitize = some ⟨key, immed, m⟩ ∧
                t.arb.ordNext = s.arb.ordNext + 1 ∧ m = s.arb.ordNext ∧
                (immed = true → ∀ p, key.origin = .port p → t.resultOf key = some (.good, [])))))) ∧
    (∀ n, (s.plot n).sanitize = none ∨ (s.plot n).keys = none → exec (.sanitizeComplete n) s = .next s) ∧
    (∀ n run k, (s.plot n).sanitize = some run → (s.plot n).keys = some k →
      (s.earlierEnded n run = false → exec (.sanitizeComplete n) s = .next s) ∧
      (s.earlierEnded n run = true → ∃ u : State, (u.plot n).record.rekeys = min counterMax ((s.plot n).record.rekeys + 1) ∧
        (u.plot n).record.rekeying = false ∧ (u.plot n).record.wrapB = [] ∧ (u.plot n).record.wrapA = Config.kwWrap k.kek (drawKeySet s).1 ∧
        (u.plot n).keys = some { k with keys := (drawKeySet s).1, old := none } ∧
        let v := (destroyOlder (distributeKey (clearMap (u.modPlot n fun p => { p with eraseCut := run.order }) n) n) n).modPlot n fun p => { p with sanitize := none }
        exec (.sanitizeComplete n) s = .next (settleTasks (match v.task? run.key with | some t => answerTask v t .good [] | none => v))))

/-- A task management function aborts the commands it selects and answers FUNCTION COMPLETE. At the UAS interface of a presented
Plot: ABORT TASK, ABORT TASK SET, CLEAR TASK SET, LOGICAL UNIT RESET and I_T NEXUS RESET abort the commands they select: none
of them is due a status any more, every other command that is due one stays, and nothing changes but the commands, the kept
results, the tickets and the engines' queues; then reads that waited for an aborted block go on, and FUNCTION COMPLETE is
answered. QUERY TASK answers FUNCTION SUCCEEDED for a tag in flight and FUNCTION COMPLETE otherwise. Under BOT, Bulk-Only
Mass Storage Reset aborts the function's commands in the same way and GET MAX LUN returns 0. At an interface that is not
presented, or that runs the other transport, each changes nothing. -/
def Obligations.TaskManagementEndsCommands : Prop :=
  ∀ (s : State) (key : TaskKey) (c : Instr) (sel : Task → Bool),
    ((c = .abortTask key ∧ sel = fun x => x.key == key) ∨
     ((c = .abortTaskSet key ∨ c = .clearTaskSet key ∨ c = .logicalUnitReset key ∨ c = .iTNexusReset key) ∧
       sel = fun x => x.key.origin == key.origin && x.key.plot == key.plot) →
      (s.presented key = false ∨ s.runsUas key = false → exec c s = .next s) ∧
      (s.presented key = true → s.runsUas key = true →
        ∃ u t, exec c s = .next t ∧ t.resultOf key = some (.functionComplete, []) ∧ t = sendScsi (serveReads (advanceReads u)) key .functionComplete [] ∧
        { u with fn := s.fn, arb := s.arb, engines := s.engines } = s ∧ { u.arb with tickets := s.arb.tickets } = s.arb ∧
        (∀ x ∈ u.fn.tasks, sel x = true → x.statusDue = false) ∧
        (∀ x ∈ s.fn.tasks, sel x = false → x.statusDue = true → x ∈ u.fn.tasks))) ∧
    (s.presented key = false ∨ s.runsUas key = false → exec (.queryTask key) s = .next s) ∧
    (s.presented key = true → s.runsUas key = true →
      ∃ t, exec (.queryTask key) s = .next t ∧ { t with fn := s.fn } = sendIn s key 0 ∧ t.fn.tasks = s.fn.tasks ∧
        ((∃ x ∈ s.fn.tasks, x.key = key ∧ x.statusDue = true) → t.resultOf key = some (.functionSucceeded, [])) ∧
        ((∀ x ∈ s.fn.tasks, x.key = key → x.statusDue = false) → t.resultOf key = some (.functionComplete, []))) ∧
    (∀ p n, s.runsBot p n = false → exec (.massStorageReset p n) s = .next s ∧ exec (.getMaxLun p n) s = .next s) ∧
    (∀ p n, s.runsBot p n = true →
      (∃ u, exec (.massStorageReset p n) s = .next (answerControl (serveReads (advanceReads u)) p 0 .ack) ∧
        { u with fn := s.fn, arb := s.arb, engines := s.engines } = s ∧
        (∀ x ∈ u.fn.tasks, x.key.origin = .port p → x.key.plot = n → x.statusDue = false) ∧
        (∀ x ∈ s.fn.tasks, x.key.origin ≠ .port p ∨ x.key.plot ≠ n → x.statusDue = true → x ∈ u.fn.tasks)) ∧
      exec (.getMaxLun p n) s = .next (answerControl s p 1 (.data 0)))

/-- SEM_n: who takes, releases and forces it, and that one release frees it however often it was taken. For a semaphore write
that no MPU region refuses and R660 does not shut out. The access takes its turn at the arbiter; nothing else of it but what
follows changes the machine. From any identity but 0x80, 0x81 and 0x82 it changes nothing. A take of a free semaphore makes
the writer the holder (3 to 127 only with a layout active), a take by the holder changes nothing and so one release frees it,
a take of another's semaphore is counted for port A, port B or the stack and changes nothing else. A release frees the
writer's own semaphore and changes nothing otherwise. A force by the holder is a release; a force of another's is accepted
from the holder of semaphore 0 for semaphores 1 to 127 and from 0x82 for every one, frees it and is counted in FORCED, and
from anyone else changes nothing. -/
def Obligations.SemaphoresAreTakenReleasedForced : Prop :=
  ∀ (s : State) (id : Identity) (n : Nat), n < 128 → s.sem.owner.length = 128 → WritePasses s id (csSem n) true →
    (isHostId id = false → exec (.semTake id n) s = .next (noteAccess s id) ∧ exec (.semRelease id n) s = .next (noteAccess s id) ∧ exec (.semForce id n) s = .next (noteAccess s id)) ∧
    (isHostId id = true →
      (s.semOwner n = idNone → (s.hasLayout = true ∨ n < 3) →
        exec (.semTake id n) s = .next { noteAccess s id with sem := { s.sem with owner := s.sem.owner.set n id } } ∧
        exec (.semRelease id n) s = .next (noteAccess s id) ∧ exec (.semForce id n) s = .next (noteAccess s id)) ∧
      (s.semOwner n = idNone → s.hasLayout = false → 3 ≤ n → exec (.semTake id n) s = .next (noteAccess s id)) ∧
      (s.semOwner n = id →
        exec (.semTake id n) s = .next (noteAccess s id) ∧
        (∃ t, exec (.semRelease id n) s = .next t ∧ exec (.semForce id n) s = .next t ∧ t.semOwner n = idNone ∧
          { t with sem := s.sem } = noteAccess s id ∧ ∀ k, k ≠ n → t.semOwner k = s.semOwner k)) ∧
      (s.semOwner n ≠ idNone → s.semOwner n ≠ id →
        exec (.semRelease id n) s = .next (noteAccess s id) ∧
        (s.hasLayout = true ∨ n < 3 → ∃ t, exec (.semTake id n) s = .next t ∧ { t with sem := s.sem } = noteAccess s id ∧ t.sem.owner = s.sem.owner ∧
          t.sem.busyA = (if id = 0x80 then min 255 (s.sem.busyA + 1) else s.sem.busyA) ∧
          t.sem.busyB = (if id = 0x81 then min 255 (s.sem.busyB + 1) else s.sem.busyB) ∧
          t.sem.busyStk = (if id = 0x82 then min 255 (s.sem.busyStk + 1) else s.sem.busyStk)) ∧
        ((id = 0x82 ∨ (s.semOwner 0 = id ∧ n ≠ 0)) → ∃ t, exec (.semForce id n) s = .next t ∧ { t with sem := s.sem } = noteAccess s id ∧
          t.semOwner n = idNone ∧ t.sem.forced = min 15 (s.sem.forced + 1) ∧ ∀ k, k ≠ n → t.semOwner k = s.semOwner k) ∧
        (id ≠ 0x82 → ¬(s.semOwner 0 = id ∧ n ≠ 0) → exec (.semForce id n) s = .next (noteAccess s id))))

/-- PLT_CTRL starts a bulk re-key of an Open or Read-only Plot, or destroys a Plot's keys. For a write of PLT_CTRL that passes
the checks, by a host identity that holds the Plot's semaphore or by another identity; the access takes its turn at the
arbiter. A bulk re-key of a Plot that is not Open or Read-only sets WRONG_STATE, one during a re-key or SANITIZE BUSY, one
with the counter exhausted its result, and each changes nothing else; otherwise the record holds the new key set under the
same KEK and the other generation, one re-key more, and the result is OK, before the Field's manager goes on. ERASE with
another key than 0xE2A5 sets BAD_KEY; with it the Plot is Erased, its keys are gone, and a record with KEYED = 0 keeps the
re-key count, before its map is emptied. A Plot the layout does not give is not Open, and its record is destroyed all the
same. A host identity without the semaphore changes nothing. -/
def Obligations.PlotControlRekeysAndErases : Prop :=
  ∀ (s : State) (id : Identity) (n : Nat), n < s.plots.length → WritePasses s id (csPltCtrl n) true →
    (isHostId id = true → s.holdsSem id (64 + n) = false → ∀ key, exec (.bulkRekey id n) s = .next (noteAccess s id) ∧ exec (.plotErase id n key) s = .next (noteAccess s id)) ∧
    (isHostId id = false ∨ s.holdsSem id (64 + n) = true →
      ((s.plotCfg? n).isSome = false ∨ (s.plot n).mode.up = false →
        exec (.bulkRekey id n) s = .next ((noteAccess s id).modPlot n fun p => { p with result := 2 })) ∧
      (∀ key : BitVec 16, key ≠ 0xE2A5 → exec (.plotErase id n key) s = .next ((noteAccess s id).modPlot n fun p => { p with result := 4 })) ∧
      ((s.plotCfg? n).isSome = false → ∃ t, exec (.plotErase id n 0xE2A5) s = .next t ∧ (t.plot n).record.keyed = false ∧
        (t.plot n).record.rekeys = (s.plot n).record.rekeys ∧ (t.plot n).result = 0 ∧ (t.plot n).mode = (s.plot n).mode) ∧
      ((s.plotCfg? n).isSome = true → (s.plot n).mode.up = true →
        ((s.plot n).record.rekeying = true ∨ (s.plot n).sanitize.isSome = true →
          exec (.bulkRekey id n) s = .next ((noteAccess s id).modPlot n fun p => { p with result := 3 })) ∧
        ((s.plot n).record.rekeying = false → (s.plot n).sanitize = none →
          ((s.plot n).record.rekeys = counterMax → exec (.bulkRekey id n) s = .next ((noteAccess s id).modPlot n fun p => { p with result := 1 })) ∧
          (∀ k, (s.plot n).record.rekeys ≠ counterMax → (s.plot n).keys = some k →
            ∃ u, (u.plot n).result = 0 ∧ (u.plot n).record.genBit = (!(s.plot n).record.genBit) ∧ (u.plot n).record.rekeying = true ∧
              (u.plot n).record.wrapA = Config.kwWrap k.kek (drawKeySet s).1 ∧ (u.plot n).record.wrapB = Config.kwWrap k.kek k.keys ∧
              (u.plot n).record.rekeys = min counterMax ((s.plot n).record.rekeys + 1) ∧
              (u.plot n).keys = some { k with keys := (drawKeySet s).1, old := some k.keys } ∧
              exec (.bulkRekey id n) s = .next (match s.fieldOf n with | some f => runField u f | none => u)))) ∧
      ((s.plotCfg? n).isSome = true → ∃ u, (u.plot n).mode = .erased ∧ (u.plot n).keys = none ∧ (u.plot n).record.keyed = false ∧
        (u.plot n).record.rekeys = (s.plot n).record.rekeys ∧
        let v := (emptyPlot u n (s.arb.ordNext - 1)).modPlot n fun p => { p with result := 0 }
        exec (.plotErase id n 0xE2A5) s = .next (runChecks n (v.plot n).checks.length v)))

/-- SEC_RDP raises or lowers the level only in order and with its key, and SEC_PROV generates the root key once. For writes that
pass the checks. SEC_RDP without semaphore 0 reports result 1, with a wrong key 2, from a level that does not allow it 3, a
lowering while a Plot is Open or Read-only 4, and changes nothing else but the turn the access takes at the arbiter. With the
keys 0x5E01 at level 0 and 0x5E02 at level 1 the level is raised and the result is 0, and a TAP instruction that the new
level does not allow gives way to BYPASS; in a spare-exhausted Granary, which refuses the programs, neither these nor a
lowering nor a generation changes anything, the result included (the model's choice, log entry 109). A lowering at level 1
sets its marker and then destroys every Plot's keys; when its erasure ends, with the rails up, the level is 0 unless it is 2,
as the fuse read at the start makes it, every key record is blank, the layout slots and counters are erased and the device is
reset with the cause of the writing port; without a marker that end changes nothing. ROOT_GEN by a holder of semaphore 0, or
through JTAG, at level 0 with no root and blank root words programs it, waits for a DRBG that is not instantiated yet, and
otherwise reports its result. -/
def Obligations.ReadOutProtectionAndRoot : Prop :=
  ∀ (s : State) (id : Identity),
    (WritePasses s id csSecRdp true →
      (∀ (c : Instr) (key want : BitVec 16), (c = .rdpLevel1 id key ∧ want = 0x5E01) ∨ (c = .rdpLevel2 id key ∧ want = 0x5E02) ∨
        (c = .rdpLower id key ∧ want = 0xA50F) →
        (s.holdsSem id 0 = false → exec c s = .next { noteAccess s id with sec := { s.sec with result := 1 } }) ∧
        (s.holdsSem id 0 = true → key ≠ want → exec c s = .next { noteAccess s id with sec := { s.sec with result := 2 } })) ∧
      (s.holdsSem id 0 = true →
        (s.sec.level ≠ 0 → exec (.rdpLevel1 id 0x5E01) s = .next { noteAccess s id with sec := { s.sec with result := 3 } }) ∧
        (s.sec.level = 0 → s.spareOut = true → exec (.rdpLevel1 id 0x5E01) s = .next (noteAccess s id)) ∧
        (s.sec.level = 0 → s.spareOut = false → ∃ t, exec (.rdpLevel1 id 0x5E01) s = .next t ∧ t.sec = { s.sec with level := 1, result := 0 } ∧
          t.jtag = (if tapAllows 1 s.jtag.ir then s.jtag else s.jtag.bypass) ∧
          { t with sec := s.sec, grn := s.grn, jtag := s.jtag } = noteAccess s id) ∧
        (s.sec.level ≠ 1 → exec (.rdpLevel2 id 0x5E02) s = .next { noteAccess s id with sec := { s.sec with result := 3 } } ∧
          exec (.rdpLower id 0xA50F) s = .next { noteAccess s id with sec := { s.sec with result := 3 } }) ∧
        (s.sec.level = 1 →
          (s.spareOut = true → exec (.rdpLevel2 id 0x5E02) s = .next (noteAccess s id)) ∧
          (s.spareOut = false → ∃ t, exec (.rdpLevel2 id 0x5E02) s = .next t ∧ t.sec.level = 2 ∧ t.sec.result = 0 ∧ t.sec.root = s.sec.root ∧
            t.jtag = (if tapAllows 2 s.jtag.ir then s.jtag else s.jtag.bypass) ∧
            { t with sec := s.sec, grn := s.grn, free := s.free, jtag := s.jtag } = noteAccess s id) ∧
          (s.anyPlotUp = true → exec (.rdpLower id 0xA50F) s = .next { noteAccess s id with sec := { s.sec with result := 4 } }) ∧
          (s.anyPlotUp = false → s.sec.lowering = false → s.spareOut = true → exec (.rdpLower id 0xA50F) s = .next (noteAccess s id)) ∧
          (s.anyPlotUp = false → s.sec.lowering = false → s.spareOut = false → ∃ u : State,
            u.sec = { s.sec with lowering := true, loweredBy := id, result := 0 } ∧ { u with sec := s.sec, grn := s.grn } = noteAccess s id ∧
            exec (.rdpLower id 0xA50F) s = .next ((List.range s.plots.length).foldl (fun v n =>
              if (v.plot n).mode = .absent then (if (v.plot n).record.keyed then destroyRecord v n else v)
              else if (v.plot n).mode = .erased then v else erasePlot v n 0) u))))) ∧
    (s.sec.lowering = false → exec .loweringComplete s = .next s) ∧
    (s.sec.lowering = true → s.pwr.railsUp = true → ∃ t, exec .loweringComplete s = .next t ∧ t.sec.lowering = false ∧
      t.sec.level = (if s.sec.level = 2 then 2 else 0) ∧
      t.pwr.cause = (if s.sec.loweredBy = 0x80 then 2 else if s.sec.loweredBy = 0x81 then 3 else 4) ∧ t.grn.mem = [] ∧
      t.grn.counters = List.replicate 64 0 ∧ t.grn.act = none ∧ (∀ p ∈ t.plots, p.record = Reset.record ∧ p.keys = none) ∧ t.pending = s.pending) ∧
    (WritePasses s id csSecProv true →
      (id ≠ idJtag → s.holdsSem id 0 = false → exec (.rootGen id) s = .next { noteAccess s id with sec := { s.sec with result := 1 } }) ∧
      (id = idJtag ∨ s.holdsSem id 0 = true →
        (s.sec.level ≠ 0 → exec (.rootGen id) s = .next { noteAccess s id with sec := { s.sec with result := 3 } }) ∧
        (s.sec.level = 0 → s.sec.root = true ∨ s.drkBlank = false →
          exec (.rootGen id) s = .next { noteAccess s id with sec := { s.sec with result := 5 } }) ∧
        (s.sec.level = 0 → s.sec.root = false → s.drkBlank = true → s.spareOut = true → exec (.rootGen id) s = .next (noteAccess s id)) ∧
        (s.sec.level = 0 → s.sec.root = false → s.drkBlank = true → s.spareOut = false →
          (s.sec.drbgReady = false → exec (.rootGen id) s = .next { noteAccess s id with sec := { s.sec with rootWaits := true } }) ∧
          (s.sec.drbgReady = true → ∃ t, exec (.rootGen id) s = .next t ∧ t.sec.root = true ∧ t.sec.result = 0 ∧
            t.sec.level = 0 ∧ (1 < s.grn.seed.length → t.grn.seed.getD 1 .blank = seedValue (s.drawBytes 32).1) ∧
            (33 < s.grn.seed.length → t.grn.seed.getD 33 .blank = seedValue (s.drawBytes 32).1) ∧
            { t with sec := s.sec, grn := s.grn, free := s.free } = noteAccess s id))))

/-- PWR_FAIL_N and HOLDUP_OK begin and end a hold-up; a committed wall time moves forward only and charges every Field's dose. A
power failure in Lit or Dim suspends the Granary's erase, begins a hold-up, counts it, ends the granted writes that still
lack blocks and develops and seals every Field; in Dark it stops the Granary's erase and holds the NAND lines; in Off, or
while one is already signalled, it changes nothing. The release ends the hold-up and the Fields and the erase go on; without
a failure signalled, or in Off, it changes nothing. A falling HOLDUP_OK takes the guarantee away, with DURABLE = 1 in Lit and
Dim developing everything accepted; a rising one gives it exactly when DURABLE = 1. A write of MED_WALL_HI by the holder of
semaphore 0 with a later time than E adds the elapsed time's charge to every Field's dose and sets E to that time; an earlier
time, or another writer, changes nothing. -/
def Obligations.HoldUpAndWallTime : Prop :=
  ∀ s : State,
    (s.pwr.state = .off ∨ s.hold.pwrFail = true → exec .pwrFail s = .next s) ∧
    (s.pwr.state = .dark → s.hold.pwrFail = false → exec .pwrFail s = .next { s with
      hold := { s.hold with pwrFail := true, dark := true }
      grn := { s.grn with erase := s.grn.erase.map fun e => { e with suspended := true } } }) ∧
    (s.pwr.state = .lit ∨ s.pwr.state = .dim → s.hold.pwrFail = false → exec .pwrFail s = .next (sealFields (developAll (cutWrites { s with
      hold := { s.hold with pwrFail := true, holding := true, sealed := false, holds := min 255 (s.hold.holds + 1) }
      grn := { s.grn with erase := s.grn.erase.map fun e => { e with suspended := true } } })))) ∧
    (s.pwr.state = .off ∨ s.hold.pwrFail = false → exec .holdupRelease s = .next s) ∧
    (s.pwr.state ≠ .off → s.hold.pwrFail = true → exec .holdupRelease s =
      .next (runFields (restartErase { s with hold := { s.hold with pwrFail := false, holding := false, sealed := false, dark := false } }))) ∧
    (let u : State := { s with hold := { s.hold with ok := false, effective := false } }
     (s.pwr.durable = true → s.pwr.state = .lit ∨ s.pwr.state = .dim → exec .holdupLost s = .next (developAll u)) ∧
     (s.pwr.durable = false ∨ s.pwr.state = .dark ∨ s.pwr.state = .off → exec .holdupLost s = .next u)) ∧
    exec .holdupOkAsserted s = .next { s with hold := { s.hold with ok := true, effective := s.pwr.durable } } ∧
    (∀ (id : Identity) (hi : Word), WritePasses s id csWallHi false →
      (s.holdsSem id 0 = false ∨ hi.toNat * 2 ^ 32 + s.wall.wLo.toNat ≤ s.wall.e → exec (.wallTime id hi) s = .next (noteAccess s id)) ∧
      (s.holdsSem id 0 = true → s.wall.e < hi.toNat * 2 ^ 32 + s.wall.wLo.toNat →
        ∃ t, exec (.wallTime id hi) s = .next t ∧ t.wall = { s.wall with e := hi.toNat * 2 ^ 32 + s.wall.wLo.toNat, set := true } ∧
          { t with wall := s.wall, fields := s.fields } = noteAccess s id ∧ t.fields.length = s.fields.length ∧
          ∀ f, f < s.fields.length →
            let added := (s.field f).doseI + (hi.toNat * 2 ^ 32 + s.wall.wLo.toNat - s.wall.e) * doseCharge s.wall.offTj
            (t.field f).doseI = min added (2 ^ 40 - 1) ∧
            (t.field f).doseISat = ((s.field f).doseISat || decide (2 ^ 40 ≤ added))))

/-- Two keys in order arm the Granary's bank of one requester; any other write of GRN_KEY clears the arming and sets KEY. A write
of GRN_KEY that passes its checks by an identity with a bank of its own: the first key with nothing seen before is kept, the
second key after the first arms, and any other value clears the arming and sets KEY in GRN_ERR. No other bank and nothing
else changes, but for the turn the access takes at the arbiter; from an identity without a bank that turn is all. -/
def Obligations.GranaryArming : Prop :=
  ∀ (s : State) (id : Identity) (k : Word), WritePasses s id csGrnKey true →
    (s.grnBank? id = none → exec (.grnKey id k) s = .next (noteAccess s id)) ∧
    (∀ b, s.grnBank? id = some b → ∃ t, exec (.grnKey id k) s = .next t ∧
      (∀ o, o ≠ id → t.grnBank? o = s.grnBank? o) ∧
      { t with grn := s.grn } = noteAccess s id ∧ t.grn.mem = s.grn.mem ∧ t.grn.queue = s.grn.queue ∧ t.grn.erase = s.grn.erase ∧
      (b.arm ≠ 1 → k = 0x6C3A91F4#32 → t.grnBank? id = some { b with arm := 1 }) ∧
      (b.arm = 1 → k = 0x0B5ED7A2#32 → t.grnBank? id = some { b with arm := 2 }) ∧
      ((b.arm ≠ 1 ∧ k ≠ 0x6C3A91F4#32) ∨ (b.arm = 1 ∧ k ≠ 0x0B5ED7A2#32) →
        t.grnBank? id = some { b with arm := 0, err := b.err ||| 1 }))

/-- A GRN_CMD clears the arming, fails with one bit of GRN_ERR, is over at once, or passes and waits for the array. For the six
operations of GRN_CMD, written by an identity with a bank. The arming is cleared. A command that a check of Table GRN-4 fails
sets that check's bit, and DONE unless it is SUSPEND or RESUME, returns zeros for a READ of protected words, and reaches
neither array nor queue: PROGRAM, ERASE and INC without arming set NOT_ARMED, a second command while one is pending sets
BUSY. A command of no word is done at once. A READ, PROGRAM or INC that passes waits for the array with its address and DONE
clear; an ERASE takes the idle array, behind a batch of released pool sectors when there are any; SUSPEND asks the
requester's running erase to stop and RESUME lets it run on. From an identity without a bank only the access takes its turn
at the arbiter. -/
def Obligations.GranaryCommandsAreChecked : Prop :=
  ∀ (s : State) (id : Identity) (c : Instr) (op area margin n : Nat), WritePasses s id csGrnCmd true →
    (c = .grnRead id area margin n ∧ op = 1) ∨ (c = .grnProgram id area margin n ∧ op = 2) ∨ (c = .grnErase id area margin n ∧ op = 3) ∨
    (c = .grnSuspend id ∧ op = 4 ∧ area = 0 ∧ margin = 0 ∧ n = 0) ∨ (c = .grnResume id ∧ op = 5 ∧ area = 0 ∧ margin = 0 ∧ n = 0) ∨
    (c = .grnInc id ∧ op = 6 ∧ area = 0 ∧ margin = 0 ∧ n = 0) →
    (s.grnBank? id = none → exec c s = .next (noteAccess s id)) ∧
    (∀ b, s.grnBank? id = some b →
      let u := modGrnBank (noteAccess s id) id fun b => { b with arm := 0 }
      let chk := u.grnCheck id (b.arm == 2) op area margin n b.addr
      (∀ bit, chk = .fails bit → ∃ t, exec c s = .next t ∧ { t with grn := s.grn } = noteAccess s id ∧ t.grn.mem = s.grn.mem ∧
        t.grn.queue = s.grn.queue ∧ t.grn.erase = s.grn.erase ∧ (t.bankOf id).arm = 0 ∧ (t.bankOf id).err = b.err ||| 2 ^ bit ∧
        (t.bankOf id).done = (b.done || (op != 4 && op != 5)) ∧ (t.bankOf id).addr = b.addr ∧
        (t.bankOf id).data = if op = 1 ∧ bit = 6 then List.replicate (8 * n) 0 ++ b.data.drop (8 * n) else b.data) ∧
      (chk = .nothing → exec c s = .next (modGrnBank u id fun b => { b with done := true })) ∧
      (chk = .passes → op = 1 ∨ op = 2 ∨ op = 6 → s.grn.erase.isSome = true ∨ s.grn.queue = [] → ∃ t, exec c s = .next t ∧
        t.grn.queue = s.grn.queue ++ [⟨id, if op = 1 then .read else if op = 2 then .program else .inc, area, margin, n, b.addr⟩] ∧
        (t.bankOf id).done = false ∧ (t.bankOf id).arm = 0 ∧ t.grn.mem = s.grn.mem ∧ { t with grn := s.grn } = noteAccess s id ∧
        (s.grn.erase.isSome = true ∨ s.grn.released = 0 → t.grn.erase = s.grn.erase)) ∧
      (chk = .passes → op = 3 → s.grn.erase = none → s.grn.queue = [] → s.hold.pwrFail = false → ∃ t, exec c s = .next t ∧
        (t.bankOf id).done = false ∧ t.grn.mem = s.grn.mem ∧ { t with grn := s.grn } = noteAccess s id ∧
        (s.grn.released = 0 → t.grn.erase = some ⟨id, b.addr / 4096, n, 0, false, false, 0⟩ ∧ t.grn.queue = []) ∧
        (s.grn.released ≠ 0 → t.grn.erase = some ⟨idController, 0, 0, min 16 s.grn.released, false, false, 0⟩ ∧
          t.grn.queue = [⟨id, .erase, area, margin, n, b.addr⟩])) ∧
      (chk = .passes → op = 4 → exec c s = .next (u.modGrn fun g => { g with erase := g.erase.map fun e => { e with bySuspend := true } })) ∧
      (∀ e, chk = .passes → op = 5 → s.grn.queue = [] → s.hold.pwrFail = false → s.grn.erase = some e →
        exec c s = .next (u.modGrn fun g => { g with erase := some { e with suspended := false, bySuspend := false, resumes := e.resumes + 1 } })) ∧
      (op = 2 ∨ op = 3 ∨ op = 6 → grnFieldsOk op area margin n = true → b.arm ≠ 2 → chk = .fails 1) ∧
      (op = 1 → grnFieldsOk op area margin n = true → s.grnPending id = true → chk = .fails 2) ∧
      (grnFieldsOk op area margin n = false → chk = .fails 3))

/-- At its end READ returns the words, PROGRAM writes erased words only, ERASE clears its sectors and INC raises its counter. The
end of the command in the array. A READ of window words none of which is undefined, in the pool, in the sector being erased
or uncorrectable returns their bytes, word for word. A PROGRAM of erased words of a sector that is not BAD writes them and no
other byte of the window; of a word that is not erased it writes nothing and sets PROG_TWICE; of a BAD sector it sets
BAD_SECTOR. An ERASE makes every byte of its sectors read 0xFF and changes no other, and with a BAD sector among them changes
none and sets BAD_SECTOR. INC raises the counter by one and returns it, and at its limit sets EXHAUSTED. Each sets DONE. The
end of a batch of released pool sectors changes no byte of the window. The premise that the memory is in its canonical form
is an invariant stated apart. -/
def Obligations.GranaryReadsProgramsErases : Prop :=
  ∀ (s : State) (q : GrnCmd) (rest : List GrnCmd) (corr : Nat), cellsOk 0xFF s.grn.mem = true → (s.grnBank? q.req).isSome = true →
    let d := s.bankOf q.req
    ((∀ e, s.grn.erase = some e → e.suspended = true) → s.grn.queue = q :: rest →
      (q.op = .read → q.area = 0 → q.count ≤ 8 →
        (∀ i < q.count, s.inPool ((q.addr + 32 * i) / 4096) = false ∧ s.inErase ((q.addr + 32 * i) / 4096) = false ∧
          (q.addr + 32 * i) ∉ s.grn.undef) →
        ∃ t, exec (.grnCommandDone corr [] none []) s = .next t ∧ (t.bankOf q.req).done = true ∧ (t.bankOf q.req).err = d.err ∧
          t.grn.mem = s.grn.mem ∧ ∀ j < 8 * q.count, (t.bankOf q.req).data[j]? = some (w32 (leNat (grnRun 4 (q.addr + 4 * j) s.grn.mem)))) ∧
      (q.op = .program → q.area = 0 →
        (s.grn.bad.contains (q.addr / 4096) = true → ∃ t, exec (.grnCommandDone corr [] none []) s = .next t ∧ (t.bankOf q.req).done = true ∧
          (t.bankOf q.req).err = d.err ||| 2 ^ 15 ∧ t.grn.mem = s.grn.mem) ∧
        (s.grn.bad.contains (q.addr / 4096) = false →
          (∀ i < q.count, (q.addr + 32 * i) ∉ s.grn.undef ∧ (q.addr + 32 * i) ∉ s.grn.ones) →
          ((∀ i < q.count, ∀ b ∈ grnRun 32 (q.addr + 32 * i) s.grn.mem, b = 0xFF) → d.data.length = 64 → q.count ≤ 8 →
            ∃ t, exec (.grnCommandDone corr [] none []) s = .next t ∧ (t.bankOf q.req).done = true ∧ (t.bankOf q.req).err = d.err ∧
              (∀ i < q.count, grnRun 32 (q.addr + 32 * i) t.grn.mem = dataWord d.data i) ∧
              (∀ a, a < q.addr ∨ q.addr + 32 * q.count ≤ a → cellAt 0xFF a t.grn.mem = cellAt 0xFF a s.grn.mem)) ∧
          ((∃ i < q.count, ∃ b ∈ grnRun 32 (q.addr + 32 * i) s.grn.mem, b ≠ 0xFF) →
            ∃ t, exec (.grnCommandDone corr [] none []) s = .next t ∧ (t.bankOf q.req).done = true ∧
              (t.bankOf q.req).err = d.err ||| 2 ^ 8 ∧ t.grn.mem = s.grn.mem))) ∧
      (q.op = .inc → s.grn.counters.length = 64 →
        (∀ v, s.grn.counters.getD (q.addr % 64) 0 = v → v < counterMax → ∃ t, exec (.grnCommandDone corr [] none []) s = .next t ∧
          (t.bankOf q.req).done = true ∧ t.grn.counters = s.grn.counters.set (q.addr % 64) (v + 1) ∧
          (t.bankOf q.req).data = w32 (v + 1) :: d.data.drop 1 ∧ t.grn.mem = s.grn.mem) ∧
        (counterMax ≤ s.grn.counters.getD (q.addr % 64) 0 → ∃ t, exec (.grnCommandDone corr [] none []) s = .next t ∧
          (t.bankOf q.req).done = true ∧ (t.bankOf q.req).err = d.err ||| 2 ^ 14 ∧ t.grn.counters = s.grn.counters))) ∧
    (∀ e fails, s.grn.erase = some e → e.suspended = false → e.batch = 0 → e.req = q.req →
      ((∃ i < e.count, s.grn.bad.contains (e.first + i) = true) → ∃ t, exec (.grnCommandDone corr [] none fails) s = .next t ∧
        (t.bankOf q.req).done = true ∧ (t.bankOf q.req).err = d.err ||| 2 ^ 15 ∧ t.grn.mem = s.grn.mem) ∧
      ((∀ i < e.count, s.grn.bad.contains (e.first + i) = false) → ∃ t, exec (.grnCommandDone corr [] none fails) s = .next t ∧
        (t.bankOf q.req).done = true ∧ (fails = [] → (t.bankOf q.req).err = d.err) ∧
        (∀ a, e.first * 4096 ≤ a → a < (e.first + e.count) * 4096 → cellAt 0xFF a t.grn.mem = 0xFF) ∧
        (∀ a, a < e.first * 4096 ∨ (e.first + e.count) * 4096 ≤ a → cellAt 0xFF a t.grn.mem = cellAt 0xFF a s.grn.mem))) ∧
    (∀ e fails, s.grn.erase = some e → e.suspended = false → 0 < e.batch → ∃ t, exec (.grnCommandDone corr [] none fails) s = .next t ∧
      t.grn.mem = s.grn.mem ∧ t.grn.released = s.grn.released - e.batch ∧ { t with grn := s.grn, free := s.free } = s ∧
      (s.grn.released ≤ e.batch → s.grn.queue = [] → t.grn.erase = none)) ∧
    (s.grn.erase = none → s.grn.queue = [] → exec (.grnCommandDone corr [] none []) s = .next s)

/-- A waiting command or a SUSPEND stops the running erase, which resumes by itself; after 65,536 erases the window advances by
one sector. A running erase is suspended when the first waiting command is no ERASE or its requester asked for it, and
otherwise runs on. An erase suspended by SUSPEND resumes when its time is over, at once with nothing waiting, while
PWR_FAIL_N is not asserted. The window advances only after 65,536 erases and with spares left: by one sector of logical
position, with the erase count back at 0 and no byte of the window changed. -/
def Obligations.GranaryErasesYieldAndTheWindowMoves : Prop :=
  ∀ s : State,
    (s.grn.erase = none → exec .eraseSuspendDue s = .next s ∧ exec .eraseAutoResume s = .next s) ∧
    (∀ e, s.grn.erase = some e →
      (e.suspended = false → e.bySuspend = true ∨ (∃ q rest, s.grn.queue = q :: rest ∧ q.op ≠ .erase) →
        exec .eraseSuspendDue s = .next { s with grn := { s.grn with erase := some { e with suspended := true } } }) ∧
      (e.suspended = true ∨ (e.bySuspend = false ∧ ∀ q rest, s.grn.queue = q :: rest → q.op = .erase) → exec .eraseSuspendDue s = .next s) ∧
      (e.suspended = false ∨ e.bySuspend = false → exec .eraseAutoResume s = .next s) ∧
      (e.suspended = true → e.bySuspend = true →
        (s.grn.queue = [] → s.hold.pwrFail = false → exec .eraseAutoResume s = .next { s with grn := { s.grn with
          erase := some { e with suspended := false, bySuspend := false, resumes := e.resumes + 1 } } }) ∧
        (s.grn.queue = [] → s.hold.pwrFail = true → exec .eraseAutoResume s = .next s) ∧
        (s.grn.queue ≠ [] → exec .eraseAutoResume s = .next { s with grn := { s.grn with erase := some { e with bySuspend := false } } }))) ∧
    (∀ fails, s.grn.erases < 65536 ∨ s.spareOut = true → exec (.windowAdvance fails) s = .next s) ∧
    (∀ fails, 65536 ≤ s.grn.erases → s.spareOut = false → ∃ t, exec (.windowAdvance fails) s = .next t ∧ { t with grn := s.grn } = s ∧
      t.grn.a = (s.grn.a + 1) % s.member.windowSectors ∧ t.grn.erases = 0 ∧ t.grn.mem = s.grn.mem ∧ t.grn.undef = s.grn.undef ∧
      t.grn.ledgerSeq > s.grn.ledgerSeq ∧ (fails = false → t.grn.s = (usableFrom s.member s.grn).getD 1 s.grn.s))

/-- A bank word is read and written by its owner where no MPU region refuses; a handover or a seizure changes the owner and may
zero the bank. Through the aperture, a host identity with a window reads and writes the word its page names when the bank's
owner and the MPU let it: a write changes those four bytes of bank space alone, and of the banks only their ports'
arbitration moves. An access the owner or a region refuses is DENIED with a violation record and no effect; one beyond the
banks is recorded as RSVD_ACCESS; without a window or a layout nothing is reached, nor in Off or with an identity the member
does not carry. A corrected error is counted, for the bank and for the sweep cycle, at whose end it is recorded. Each
ownership write takes its turn at the arbiter. A handover by the owner of a scratch or host bank to an identity the member
carries sets the owner, with SCRUB zeroes the bank and nothing outside it; a seizure by the holder of semaphore 0 or the
stack does the same; each refusal sets its result alone. The end of a scrub ends it. The canonical form of bank memory is an
invariant stated apart. -/
def Obligations.BanksServeTheirOwner : Prop :=
  ∀ (s : State) (id : Identity),
    (∀ off w v ok, s.csOpen id = false → exec (.apertureAccess id off w v ok) s = .next s) ∧
    (∀ off w v ok, s.csOpen id = true → winIndex id = none ∨ s.hasLayout = false →
      exec (.apertureAccess id off w v ok) s = .next (setReply s id 0 0)) ∧
    (∀ i off v, s.csOpen id = true → winIndex id = some i → s.hasLayout = true →
      let addr := (s.win i).page * 0x1000 + off % 0x1000 / 4 * 4
      (BankPasses s id addr .read → ∃ t, exec (.apertureAccess id off false v true) s = .next t ∧
        t.replyTo id = some (w32 (leNat (cellRun 0 4 addr s.bankMem)), 0) ∧ { t with banks := s.banks, replies := s.replies, free := s.free } = s ∧
        ∀ k, { t.bank k with near := (s.bank k).near, far := (s.bank k).far } = s.bank k) ∧
      (BankPasses s id addr .write → cellsOk 0 s.bankMem = true → ∃ t, exec (.apertureAccess id off true v true) s = .next t ∧
        t.replyTo id = some (0, 0) ∧ Stored s t addr 4 v.toNat ∧
        { t with banks := s.banks, bankMem := s.bankMem, replies := s.replies, free := s.free } = s ∧
        ∀ k, { t.bank k with near := (s.bank k).near, far := (s.bank k).far } = s.bank k) ∧
      (∀ w, addr < s.bankLimit → s.passesOwner id (addr / 0x40000) = false ∨
          (s.mpuRefuses id true addr (if w then .write else .read)).isSome = true →
        ∃ t, exec (.apertureAccess id off w v true) s = .next t ∧ t.replyTo id = some (0, 2) ∧ t.bankMem = s.bankMem ∧
          (s.mpu.unread < 64 → t.mpu.unread = s.mpu.unread + 1) ∧ { t with mpu := s.mpu, replies := s.replies } = s) ∧
      (∀ w, s.bankLimit ≤ addr → ∃ t, exec (.apertureAccess id off w v true) s = .next t ∧ t.replyTo id = some (0, 0) ∧
        { t with saf := s.saf, replies := s.replies } = s)) ∧
    (∀ b w, s.banks.length ≤ b → exec (.eccWriteback b w) s = .next s) ∧
    (∀ b w, b < s.banks.length → exec (.eccWriteback b w) s =
      .next (s.modBank b fun k => { k with ce := min 0xFFFF (k.ce + 1), cycleCe := min 0xFFFFFFFF (k.cycleCe + 1) })) ∧
    (∀ b new scrub, b < s.banks.length → WritePasses s id (csBnkOwner b) false →
      let fails := fun r => exec (.bnkHandover id b new scrub) s = .next ((noteAccess s id).modBank b fun k => { k with result := r })
      ((s.bank b).owner ≠ id → fails 1) ∧
      ((s.bank b).owner = id →
        ((s.bank b).role ≠ 0 → (s.bank b).role ≠ 4 → fails 2) ∧
        ((s.bank b).role = 0 ∨ (s.bank b).role = 4 →
          (s.carriesHost new = false → fails 3) ∧
          (s.carriesHost new = true → (s.bank b).scrubbing = true → fails 4) ∧
          (s.carriesHost new = true → (s.bank b).scrubbing = false → ∃ t, exec (.bnkHandover id b new scrub) s = .next t ∧
            (t.bank b).owner = new ∧ (t.bank b).result = 0 ∧ (t.bank b).scrubbing = scrub ∧
            (scrub = false → t.bankMem = s.bankMem) ∧
            (∀ a, a / 0x40000 = b → scrub = true → cellAt 0 a t.bankMem = 0) ∧
            (∀ a, a / 0x40000 ≠ b → cellAt 0 a t.bankMem = cellAt 0 a s.bankMem) ∧ ∀ k, k ≠ b → t.bank k = s.bank k)))) ∧
    (∀ b, b < s.banks.length → WritePasses s id (csBnkOwner b) true →
      let fails := fun r => exec (.bnkSeize id b) s = .next ((noteAccess s id).modBank b fun k => { k with result := r })
      (s.holdsSem id 0 = false → id ≠ idStack → fails 5) ∧
      (s.holdsSem id 0 = true ∨ id = idStack →
        (((s.bank b).role ≠ 0 ∧ (s.bank b).role ≠ 4) ∨ isHostId (s.bank b).owner = false → fails 2) ∧
        ((s.bank b).role = 0 ∨ (s.bank b).role = 4 → isHostId (s.bank b).owner = true → ∃ t, exec (.bnkSeize id b) s = .next t ∧
          (t.bank b).owner = id ∧ (t.bank b).result = 0 ∧ (t.bank b).scrubbing = true ∧
          (∀ a, a / 0x40000 = b → cellAt 0 a t.bankMem = 0) ∧
          (∀ a, a / 0x40000 ≠ b → cellAt 0 a t.bankMem = cellAt 0 a s.bankMem)))) ∧
    (∀ b, exec (.scrubDone b) s = .next (s.modBank b fun k => { k with scrubbing := false }))

/-- Atomic adds and swaps act on one word and return the old value; MPU regions are written only while unlocked and disabled. For
BNK_ATOM_OP writes that pass their checks by an identity with a window, but for the turn each access takes at the arbiter: a
64-bit operation on an address that is no multiple of 8 sets BAD; one the owner or the MPU refuses sets DENIED; otherwise the
old value is the result, the word holds the sum modulo its width or the operand, CARRY says whether the sum passed the width,
and no other byte of bank space changes. A region's registers take writes while the MPU is not locked and the region is
disabled; an enabled one can only be disabled; enabling a region that R572 does not allow sets REFUSED and leaves it
disabled; enabling one that overlaps no other enables it. The lock stays. An acknowledgement of the newest violation record
leaves none unread. An identity without a window performs no atomic operation. -/
def Obligations.AtomicsAndRegions : Prop :=
  ∀ (s : State) (id : Identity),
    (∀ (c : Instr) (bits : Nat) (add : Bool),
      (c = .add32 id ∧ bits = 32 ∧ add = true) ∨ (c = .add64 id ∧ bits = 64 ∧ add = true) ∨
      (c = .swap32 id ∧ bits = 32 ∧ add = false) ∨ (c = .swap64 id ∧ bits = 64 ∧ add = false) → WritePasses s id csAtomOp true →
      (winIndex id = none → exec c s = .next (noteAccess s id)) ∧
      (∀ i, winIndex id = some i → i < s.wins.length →
        let addr := (s.win i).atomAddr
        let opnd := if bits = 64 then (s.win i).opndLo.toNat + (s.win i).opndHi.toNat * 2 ^ 32 else (s.win i).opndLo.toNat
        let old := leNat (cellRun 0 (bits / 8) addr s.bankMem)
        (bits = 64 → addr % 8 ≠ 0 → ∃ t, exec c s = .next t ∧ (t.win i).bad = true ∧ (t.win i).done = false ∧ { t with wins := s.wins } = noteAccess s id) ∧
        (bits = 32 ∨ addr % 8 = 0 →
          (addr < s.bankLimit → s.passesOwner id (addr / 0x40000) = false ∨ (s.mpuRefuses id true addr .atomic).isSome = true →
            ∃ t, exec c s = .next t ∧ (t.win i).denied = true ∧ (t.win i).done = false ∧ t.bankMem = s.bankMem) ∧
          (BankPasses s id addr .atomic → cellsOk 0 s.bankMem = true → ∃ t, exec c s = .next t ∧ (t.win i).done = true ∧
            (t.win i).denied = false ∧ (t.win i).resLo = w32 (old % 2 ^ 32) ∧ (t.win i).resHi = w32 (if bits = 64 then old / 2 ^ 32 else 0) ∧
            (t.win i).carry = (add && decide (2 ^ bits ≤ old + opnd)) ∧
            Stored s t addr (bits / 8) (if add then (old + opnd) % 2 ^ bits else opnd) ∧
            { t with banks := s.banks, bankMem := s.bankMem, wins := s.wins, free := s.free } = noteAccess s id ∧
            ∀ k, { t.bank k with near := (s.bank k).near, far := (s.bank k).far } = s.bank k)))) ∧
    (∀ r g v, r < s.member.mpuRegions → g < 3 → WritePasses s id (csMpu r g) false →
      let c := s.mpu.region r
      (s.mpu.lock = true → exec (.mpuRegionWrite id r g v) s = .next (noteAccess s id)) ∧
      (s.mpu.lock = false → c.enable = true →
        (g = 1 → field v 8 1 = 0 → ∃ t, exec (.mpuRegionWrite id r g v) s = .next t ∧ t.mpu.region r = { c with enable := false } ∧
          { t with mpu := s.mpu } = noteAccess s id) ∧
        (g ≠ 1 ∨ field v 8 1 ≠ 0 → exec (.mpuRegionWrite id r g v) s = .next (noteAccess s id))) ∧
      (s.mpu.lock = false → c.enable = false →
        (g = 0 → ∃ t, exec (.mpuRegionWrite id r g v) s = .next t ∧ t.mpu.region r = { c with base := field v 0 26 } ∧ { t with mpu := s.mpu } = noteAccess s id) ∧
        (g = 2 → ∃ t, exec (.mpuRegionWrite id r g v) s = .next t ∧ t.mpu.region r = { c with read := field v 0 9, write := field v 16 9 } ∧
          { t with mpu := s.mpu } = noteAccess s id) ∧
        (g = 1 →
          let n := { c with size := field v 0 5, space := v.getLsbD 9 }
          (v.getLsbD 8 = false → ∃ t, exec (.mpuRegionWrite id r g v) s = .next t ∧ t.mpu.region r = n ∧ { t with mpu := s.mpu } = noteAccess s id) ∧
          (v.getLsbD 8 = true → s.regionOk n = false → ∃ t, exec (.mpuRegionWrite id r g v) s = .next t ∧ t.mpu.region r = n ∧
            t.mpu.refused = true ∧ { t with mpu := s.mpu } = noteAccess s id) ∧
          (v.getLsbD 8 = true → s.regionOk n = true → (∀ x ∈ s.mpu.regions, ({ n with enable := true } : MpuCfg).clash x = false) →
            ∃ t, exec (.mpuRegionWrite id r g v) s = .next t ∧ t.mpu.region r = { n with enable := true } ∧ { t with mpu := s.mpu } = noteAccess s id)))) ∧
    (WritePasses s id csMpuCtrl false → exec (.mpuLock id) s = .next { noteAccess s id with mpu := { s.mpu with lock := true } }) ∧
    (∀ q, WritePasses s id csVioAck false → ∃ t, exec (.mpuVioAck id q) s = .next t ∧ { t with mpu := s.mpu } = noteAccess s id ∧
      t.mpu = { s.mpu with unread := t.mpu.unread } ∧ t.mpu.unread ≤ s.mpu.unread ∧
      (1 ≤ s.mpu.head → s.mpu.head ≤ 0xFFFF → q = s.mpu.head → t.mpu.unread = 0) ∧
      (s.mpu.head ≤ 0xFFFF → s.mpu.unread ≤ 64 → q + s.mpu.unread = s.mpu.head → 1 ≤ q → 0 < s.mpu.unread → t.mpu.unread = s.mpu.unread))

/-- LAY_CTRL is refused in the order a1 to a6 or begins to verify the slot it names. For VERIFY, WARM and COLD, written through
the checks of R26; the access takes its turn at the arbiter. While an operation or a start is in progress nothing changes.
Otherwise the first refusal that holds is reported as the result and begins nothing: without semaphore 1, with channels still
on an old recipe set, and for an activation in Dark, of the active slot, and for a cold one with a latched scope or with a
Plot Open or Read-only. Else the operation is in progress and verifies the slot. -/
def Obligations.LayoutOperationsBegin : Prop :=
  ∀ (s : State) (id : Identity) (c : Instr) (op : Nat) (x : Slot), WritePasses s id csLayCtrl true →
    (c = .layVerify id x ∧ op = 1) ∨ (c = .warmActivation id x ∧ op = 2) ∨ (c = .coldActivation id x ∧ op = 3) →
    let refused := fun r => exec c s = .next { noteAccess s id with lay := { s.lay with op := op, result := r } }
    (s.lay.starting = true ∨ s.lay.run.isSome = true → exec c s = .next (noteAccess s id)) ∧
    (s.lay.starting = false → s.lay.run = none →
      (s.holdsSem id 1 = false → refused 0x10) ∧
      (s.holdsSem id 1 = true →
        (s.lay.recipePend ≠ [] → refused 0x11) ∧
        (s.lay.recipePend = [] →
          (op ≠ 1 → s.pwr.state = .dark → refused 0x12) ∧
          (op ≠ 1 → s.pwr.state ≠ .dark → s.hasLayout = true → s.lay.activeSlot = x → refused 0x13) ∧
          (op = 3 → s.pwr.state ≠ .dark → (s.hasLayout = true → s.lay.activeSlot ≠ x) →
            ((∃ e ∈ s.saf.scopes, e.latch = true) → refused 0x15) ∧
            ((∀ e ∈ s.saf.scopes, e.latch = false) → s.anyPlotUp = true → refused 0x14)) ∧
          (op = 1 ∨ (s.pwr.state ≠ .dark ∧ (s.hasLayout = true → s.lay.activeSlot ≠ x) ∧
              (op = 3 → s.anyPlotUp = false ∧ ∀ e ∈ s.saf.scopes, e.latch = false)) →
            exec c s = .next { noteAccess s id with lay := { s.lay with op := op, run := some ⟨op, x, id, .verifying, none, []⟩ } }))))

/-- A verification ends with its reason, a VERIFY, or the commit's request; the commit makes the image the active layout. The end
of the verification of the operation in progress: with a check failed the result is its reason and the operation is over; a
VERIFY that passes ends with 0; an activation of an image of the present epoch ends with 0x16 and a warm one whose changed
frames Table LAY-3 does not list with 0x17; otherwise counter 0 is raised, the activation record names the image unless the
Granary has no spare left, and the commit is requested. The commit of a warm activation makes the image active from its slot
and ends with 0; that of a cold one begins development. Without an operation at that stage each changes nothing. -/
def Obligations.LayoutsAreVerifiedAndCommitted : Prop :=
  ∀ s : State,
    (∀ read, s.lay.run = none → exec (.slotVerified read) s = .next s ∧ exec .commitGrant s = .next s) ∧
    (∀ r read, s.lay.run = some r →
      (r.stage ≠ .verifying → exec (.slotVerified read) s = .next s) ∧
      (r.stage ≠ .committing ∨ r.image = none → exec .commitGrant s = .next s) ∧
      (r.stage = .verifying →
        let v := verifySlot s r.slot read
        (v.image = none → ∃ t, exec (.slotVerified read) s = .next t ∧ t.lay.result = v.reason ∧ t.lay.run = none ∧
          { t with lay := s.lay } = s ∧ t.lay.active = s.lay.active) ∧
        (∀ l, v.image = some l →
          (r.op = 1 → ∃ t, exec (.slotVerified read) s = .next t ∧ t.lay.result = 0 ∧ t.lay.run = none ∧ { t with lay := s.lay } = s) ∧
          (r.op ≠ 1 → l.epoch = s.counter0 → ∃ t, exec (.slotVerified read) s = .next t ∧ t.lay.result = 0x16 ∧ t.lay.run = none ∧
            { t with lay := s.lay } = s) ∧
          (r.op = 2 → l.epoch ≠ s.counter0 → s.lay.active.bind (fun old => warmDiff old l) = none →
            ∃ t, exec (.slotVerified read) s = .next t ∧ t.lay.result = 0x17 ∧ t.lay.run = none ∧ { t with lay := s.lay } = s) ∧
          (r.op ≠ 1 → l.epoch ≠ s.counter0 → (r.op = 2 → (s.lay.active.bind (fun old => warmDiff old l)).isSome = true) →
            ∃ t, exec (.slotVerified read) s = .next t ∧ t.lay.run = some { r with stage := .committing, image := some l, digest := v.digest } ∧
              t.grn.counters = s.grn.counters.set 0 (s.counter0 + 1) ∧ t.lay.active = s.lay.active ∧
              (s.spareOut = false → t.grn.act = some ⟨r.slot, l.epoch, v.digest⟩) ∧ (s.spareOut = true → t.grn.act = s.grn.act) ∧
              { t with lay := s.lay, grn := s.grn } = s))) ∧
      (∀ l, r.stage = .committing → r.image = some l →
        (r.op = 3 → ∃ u, exec .commitGrant s = .next (developAll u) ∧ u.lay.run = some { r with stage := .developing } ∧
          u.lay.active = s.lay.active ∧ u.fields = s.fields ∧ u.grn = s.grn ∧ u.plots = s.plots) ∧
        (∀ old, r.op ≠ 3 → s.lay.active = some old → ∃ t, exec .commitGrant s = .next t ∧ t.lay.active = some l ∧
          t.lay.activeSlot = r.slot ∧ t.lay.digest = r.digest ∧ t.lay.result = 0 ∧ t.lay.run = none ∧ t.grn = s.grn)))

/-- A power command by the holder of semaphore 0 changes the state, or begins the entry of Dark or Off; otherwise it reports why
not. For PWR_CTRL written through the checks of R26. Without semaphore 0 the result is 1; while a transition, a layout
operation or a RECOVER is in progress it is 2; a command of the state the device is in reports 3, Dim apart. Lit and Dim take
effect at once, Dim with the divisors of PWR_DIM, and from Dark the islands restart; Dark and Off begin their entry, which
develops every Field and waits for it. A suspend target is taken by the holder of semaphore 0 when it names Dim or Dark, and
otherwise changes no target; one that is taken leaves RESULT as it was, which is the model's choice (log entry 99). The
access takes its turn at the arbiter. -/
def Obligations.PowerCommandsAreTaken : Prop :=
  ∀ (s : State) (id : Identity), WritePasses s id csPwrCtrl true →
    (∀ (c : Instr) (st : PowerState), (c = .pwrLit id ∧ st = .lit) ∨ (c = .pwrDim id ∧ st = .dim) ∨ (c = .pwrDark id ∧ st = .dark) ∨
        (c = .pwrOff id ∧ st = .off) →
      (s.holdsSem id 0 = false → exec c s = .next { noteAccess s id with pwr := { s.pwr with result := 1 } }) ∧
      (s.holdsSem id 0 = true →
        (s.powerBusy = true → exec c s = .next { noteAccess s id with pwr := { s.pwr with result := 2 } }) ∧
        (s.powerBusy = false →
          (s.pwr.state = st → st ≠ .dim → ∃ t, exec c s = .next t ∧ t.pwr.result = 3 ∧ t.pwr.state = st ∧ t.pwr.xfer = none) ∧
          (st = .lit → s.pwr.state ≠ st → ∃ u, exec c s = .next (if s.pwr.state = .dark then wakeIslands u else u) ∧
            u.pwr.result = 0 ∧ u.pwr.state = .lit ∧ u.pwr.dimNow = 0 ∧ u.pwr.bySuspend = false ∧ u.fields = s.fields ∧ u.chans = s.chans) ∧
          (st = .dim → ∃ u, exec c s = .next (if s.pwr.state = .dark then wakeIslands u else u) ∧
            u.pwr.result = 0 ∧ u.pwr.state = .dim ∧ u.pwr.dimNow = s.pwr.dimReg ∧ u.pwr.bySuspend = false ∧ u.fields = s.fields ∧ u.chans = s.chans) ∧
          (st = .dark ∨ st = .off → s.pwr.state ≠ st → ∃ u, exec c s = .next (if s.pwr.state = .dark then u else developAll u) ∧
            u.pwr.result = 0 ∧ u.pwr.state = s.pwr.state ∧ u.pwr.xfer = some ⟨st, false, s.pwr.state⟩ ∧ u.fields = s.fields)))) ∧
    (∀ target,
      (s.holdsSem id 0 = false → exec (.setTarget id target) s = .next { noteAccess s id with pwr := { s.pwr with result := 1 } }) ∧
      (s.holdsSem id 0 = true → target = 1 ∨ target = 2 → exec (.setTarget id target) s = .next { noteAccess s id with pwr := { s.pwr with target := target } }) ∧
      (s.holdsSem id 0 = true → target ≠ 1 → target ≠ 2 → exec (.setTarget id target) s = .next (noteAccess s id)))

/-- When everything is developed Dark or Off is entered, or a cold activation starts the device again. The end of development
changes nothing while something is latent or a command is in flight, and nothing without a transition or a cold activation
waiting for it. Dark is entered with every channel stopped and the state before it kept. Off is entered with every Plot that
was Open or Read-only Closed and no unread fault log. A cold activation starts the device again from the layout load: the
start is over at its last step, no layout operation is in progress, the device is Lit, its queue of waiting commands and its
medium's records are kept. -/
def Obligations.DevelopmentEndsATransition : Prop :=
  ∀ (s : State) (facts : StartFacts),
    (s.allDeveloped = false → exec (.developmentComplete facts) s = .next s) ∧
    (s.allDeveloped = true →
      (s.pwr.xfer = none → (∀ r, s.lay.run = some r → r.stage ≠ .developing) → exec (.developmentComplete facts) s = .next s) ∧
      (∀ x, s.pwr.xfer = some x →
        (x.target ≠ .off → ∃ t, exec (.developmentComplete facts) s = .next t ∧ t.pwr.state = .dark ∧ t.pwr.xfer = none ∧ t.pwr.before = x.from_ ∧
          t.pwr.bySuspend = x.bySuspend ∧ (∀ k ∈ t.chans, k.stopped = true) ∧ t.saf.sweepOn = false) ∧
        (x.target = .off → ∃ t, exec (.developmentComplete facts) s = .next t ∧ t.pwr.state = .off ∧ t.pwr.xfer = none ∧ t.saf.log = [] ∧
          t.grn.queue = [] ∧ t.grn.erase = none ∧ (∀ k ∈ t.chans, k.stopped = true) ∧
          ∀ n ∈ s.plotList, (s.plot n).mode.up = true → (t.plot n).mode = .closed)) ∧
      (∀ r, s.pwr.xfer = none → s.lay.run = some r → r.stage = .developing → ∃ t, exec (.developmentComplete facts) s = .next t ∧
        t.pwr.step = 15 ∧ t.lay.run = none ∧ t.lay.starting = false ∧ t.pwr.state = .lit ∧ t.pending = s.pending ∧ t.member = s.member))

/-- Each reset source resets the device with its cause; the start ends at its last step with order numbers resumed beyond every
number seen. Power-on, a rail dip, RESET_N of at least 1 µs, PWR_RESET with its key by the holder of semaphore 0 and a wake
from Off reset the device to step 1 with their cause, no active layout, no layout operation and the queue of waiting commands
kept. RESET_N below 100 ns does nothing, and between the two acts or does not. While a rail is below its threshold no other
source acts. Another key, but for the turn the access takes at the arbiter, and a wake input that no layout configures,
change nothing. When the reference is first seen with the rails up, the start runs to its last step, with the oscillator
amplifier on unless a clock was seen; with an erased window it ends with no layout and result 0x0E; with a layout, order
numbers resume at or above 2^24. At any other time the detection changes nothing. That commands wait across a reset is the
model's choice, as its log entry on the queue says. -/
def Obligations.ResetsAndTheStart : Prop :=
  ∀ s : State,
    let reset := fun (t : State) (cause : Nat) => t.pwr.cause = cause ∧ t.pwr.step = 1 ∧ t.lay.active = none ∧ t.lay.run = none ∧
      t.fn.tasks = [] ∧ t.sem.owner = List.replicate 128 idNone ∧ t.member = s.member ∧ t.pending = s.pending
    (∃ t, exec .powerOn s = .next t ∧ reset t 0 ∧ t.sec.tamperSeen = false ∧ t.pwr.railDip = !s.pwr.railsUp ∧ t.pwr.railsUp = true) ∧
    (∀ r, ∃ t, exec (.railDip r) s = .next t ∧ reset t 0 ∧ t.pwr.railDip = true ∧ t.pwr.railsUp = false) ∧
    (∀ n, n < 100 → exec (.resetN n) s = .next s) ∧
    (∀ n, 1000 ≤ n → s.pwr.railsUp = true → ∃ t, exec (.resetN n) s = .next t ∧ reset t 1) ∧
    (∀ n, 1000 ≤ n → s.pwr.railsUp = false → exec (.resetN n) s = .next s) ∧
    (∀ n, 100 ≤ n → n < 1000 → ∃ t, exec (.resetN n) s = .next t ∧ (reset t 1 ∨ { t with free := s.free } = s)) ∧
    (∀ id key, WritePasses s id csPwrReset false →
      (s.holdsSem id 0 = true → key = 0x7E5A#16 → s.pwr.railsUp = true → ∃ t, exec (.pwrReset id key) s = .next t ∧
        reset t (if id = 0x80 then 2 else if id = 0x81 then 3 else 4)) ∧
      (s.holdsSem id 0 = false ∨ key ≠ 0x7E5A#16 ∨ s.pwr.railsUp = false → exec (.pwrReset id key) s = .next (noteAccess s id))) ∧
    (s.pwr.state ≠ .off ∨ (∀ l, s.layout = some l → ∀ g ∈ l.gpio, g.toNat % 128 ≠ 0x06) → exec .offWake s = .next s) ∧
    (∀ l, s.pwr.state = .off → s.layout = some l → (∃ g ∈ l.gpio, g.toNat % 128 = 0x06) → s.pwr.railsUp = true → ∃ t, exec .offWake s = .next t ∧ reset t 6) ∧
    (∀ facts, 2 < s.pwr.step ∨ s.pwr.railsUp = false ∨ s.pwr.refPresent = true → exec (.referenceDetected facts) s = .next s) ∧
    (∀ facts, s.pwr.step ≤ 2 → s.pwr.railsUp = true → s.pwr.refPresent = false →
      ∃ t, exec (.referenceDetected facts) s = .next t ∧ t.pwr.step = 15 ∧ t.pwr.refPresent = true ∧ t.lay.starting = false ∧
        t.pwr.ampOn = !facts.clock ∧
        (s.lay.active = none → t.lay.active.isSome = true → 2 ^ 24 ≤ t.arb.ordNext ∧ t.arb.ordResume = t.arb.ordNext) ∧
        (s.lay.active = none → s.grn.mem = [] → s.grn.undef = [] → facts.calRowA = true → (∀ x ∈ facts.seed, x = .primary) →
          s.sec.lowering = false → t.lay.active = none ∧ t.lay.result = 0x0E))

/-- Packets take granules and are answered by what is free; SOF, link power and device requests change what their rules name
alone. A halted endpoint answers every transaction with STALL until the halt is cleared, which restarts it at toggle or
sequence number 0. At another endpoint that is there: a bulk OUT packet is answered NAK without a free granule or while its
command is held for a ticket, NYET at high speed when it takes the last, else ACK, and takes a granule and moves the toggle;
PING at high speed answers ACK or NAK; a SuperSpeed transaction without a free granule, or of a held command, answers NRDY
and owes ERDY, else ACK or data, and moves the sequence number. An endpoint that is not there leaves them without effect. SOF
is recorded at the port's speed; its absence ends the record's validity. U1, U2 and L1 entries are accepted or rejected by
LINKPM alone and counted. A device feature is recorded by a configured hub, U1 and U2 at SuperSpeed only. An unsupported
request is answered STALL, transaction translator requests are accepted without effect. Selecting an interface or a
configuration gives its endpoints fresh buffers, with the burst and the streams the speed and the setting advertise. A
request carried out takes its granules of endpoint 0 at USB 2.0. The answer kept per port is the model's own view of the
wire. -/
def Obligations.UsbPacketsAndDeviceRequests : Prop :=
  ∀ (s : State) (p : Port),
    let ans := fun (a : WireAnswer) => s.modPort p fun q => { q with answer := a }
    (∀ k ep i, (s.port p).ep? k ep = none ∨ (s.port p).hasEp k ep = false →
      exec (.bulkOutPacket p k ep) s = .next s ∧ exec (.ping p k ep) s = .next s ∧ exec (.ssBulkTransaction p k ep i) s = .next s) ∧
    (∀ k ep e, (s.port p).ep? k ep = some e → (s.port p).hasEp k ep = true → e.halted = true →
      ((s.port p).super = false → exec (.bulkOutPacket p k ep) s = .next (ans .stall)) ∧
      ((s.port p).speed = .high → exec (.ping p k ep) s = .next (ans .stall)) ∧
      ((s.port p).super = true → ∀ i, exec (.ssBulkTransaction p k ep i) s = .next (ans .stall))) ∧
    (∀ k ep e, (s.port p).ep? k ep = some e → (s.port p).hasEp k ep = true → e.halted = false →
      ((s.port p).super = false →
        (e.total ≤ e.used ∨ s.botHeld p k = true → exec (.bulkOutPacket p k ep) s = .next (ans .nak)) ∧
        (e.used < e.total → s.botHeld p k = false → ∃ t, exec (.bulkOutPacket p k ep) s = .next t ∧ OnlyPort p s t ∧
          (t.port p).ep? k ep = some { e with used := e.used + 1, seq := (e.seq + 1) % 2 } ∧
          (t.port p).answer = if (s.port p).speed = .high ∧ e.used + 1 = e.total then .nyet else .ack)) ∧
      ((s.port p).speed = .high → exec (.ping p k ep) s = .next (ans (if e.used < e.total ∧ s.botHeld p k = false then .ack else .nak))) ∧
      ((s.port p).super = true → ∀ i,
        (e.total ≤ e.used ∨ s.botHeld p k = true → ∃ t, exec (.ssBulkTransaction p k ep i) s = .next t ∧ OnlyPort p s t ∧
          (t.port p).ep? k ep = some { e with nrdy := true } ∧ (t.port p).answer = .nrdy) ∧
        (e.used < e.total → s.botHeld p k = false → ∃ t, exec (.ssBulkTransaction p k ep i) s = .next t ∧ OnlyPort p s t ∧
          (t.port p).ep? k ep = some { e with used := e.used + 1, seq := (e.seq + 1) % 32 } ∧
          (t.port p).answer = if i then .data e.seq else .ack))) ∧
    (∀ k ep e, (s.port p).ep? k ep = some e → (s.port p).hasEp k ep = true → k ≠ 0 ∨ ep ≠ 0 ∨ (s.port p).super = true →
      (∃ t, exec (.clearEndpointHalt p k ep) s = .next t ∧ exec (.setFeatureDevice p (.endpointHalt k ep) false) s = .next t ∧ OnlyPort p s t ∧
        (t.port p).ep? k ep = some { e with seq := 0, halted := false } ∧ (t.port p).answer = .ack) ∧
      (∃ t, exec (.setFeatureDevice p (.endpointHalt k ep) true) s = .next t ∧ OnlyPort p s t ∧
        (t.port p).ep? k ep = some { e with halted := true } ∧ (t.port p).answer = .ack)) ∧
    (∀ k ep, (s.port p).hasEp k ep = false → (s.port p).live = true → exec (.clearEndpointHalt p k ep) s = .next (ans .stall) ∧
      ∀ on, exec (.setFeatureDevice p (.endpointHalt k ep) on) s = .next (ans .stall)) ∧
    ((s.port p).live = false → ∀ n u f on k, exec (.sofReceived p n) s = .next s ∧ exec (.u1U2Entry p u) s = .next s ∧ exec (.lpmToken p) s = .next s ∧
      exec (.setFeatureDevice p f on) s = .next s ∧ exec (.unsupportedRequest p k) s = .next s) ∧
    (∀ n, (s.port p).live = true → exec (.sofReceived p n) s =
      .next ((s.modPort p fun q => { q with sof := sofRecord q.speed q.sof n }).modSaf fun q => { q with lastSof := p })) ∧
    (∀ old n, sofRecord .full old n = ⟨n % 2048, 0, true⟩ ∧ (sofRecord .high old n).frame = n % 2048 ∧
      (old.valid = true → old.frame = n % 2048 → (sofRecord .high old n).micro = (old.micro + 1) % 8) ∧
      sofRecord .gen1x1 old n = ⟨n / 8 % 2048, n % 8, true⟩) ∧
    exec (.sofTimeout p) s = .next (s.modPort p fun q => { q with sof := { q.sof with valid := false } }) ∧
    (∀ u2, (s.port p).live = true → (s.port p).super = true →
      ((s.portCfg p).linkPm.testBit (if u2 then 1 else 0) = true → exec (.u1U2Entry p u2) s = .next (s.modPort p fun q =>
        { q with link := if u2 then 2 else 1, lpmAcc := min 255 (q.lpmAcc + 1), answer := .lau })) ∧
      ((s.portCfg p).linkPm.testBit (if u2 then 1 else 0) = false → exec (.u1U2Entry p u2) s = .next (s.modPort p fun q =>
        { q with lpmRej := min 255 (q.lpmRej + 1), answer := .lxu }))) ∧
    ((s.port p).live = true → (s.port p).super = false →
      ((s.portCfg p).linkPm.testBit 2 = true → exec (.lpmToken p) s = .next (s.modPort p fun q =>
        { q with link := 1, lpmAcc := min 255 (q.lpmAcc + 1), answer := .ack })) ∧
      ((s.portCfg p).linkPm.testBit 2 = false → exec (.lpmToken p) s = .next (s.modPort p fun q =>
        { q with lpmRej := min 255 (q.lpmRej + 1), answer := .stall }))) ∧
    (∀ f on, (s.port p).live = true → (∀ k ep, f ≠ .endpointHalt k ep) →
      ((s.port p).configured = false ∨ (f ≠ .remoteWake ∧ (s.port p).super = false) → exec (.setFeatureDevice p f on) s = .next (ans .stall)) ∧
      ((s.port p).configured = true → (f = .remoteWake ∨ (s.port p).super = true) → exec (.setFeatureDevice p f on) s =
        .next (answerControl (s.modPort p fun q => { q with
          wakeEn := if f = .remoteWake then on else q.wakeEn
          u1Enable := if f = .u1Enable then on else q.u1Enable
          u2Enable := if f = .u2Enable then on else q.u2Enable }) p 0 .ack))) ∧
    (∀ k, (s.port p).live = true → exec (.unsupportedRequest p k) s = .next (ans .stall)) ∧
    ((s.port p).live = true → (s.port p).configured = true →
      exec (.clearTtBuffer p) s = .next (if (s.port p).super then ans .stall else answerControl s p 0 .ack) ∧
      exec (.resetTt p) s = .next (if (s.port p).super then ans .stall else answerControl s p 0 .ack)) ∧
    (∀ v, (s.port p).live = true → (v ≠ 0 → ∃ t, exec (.setConfiguration p 0 v) s = .next t ∧ (t.port p).configured = true ∧ (t.port p).answer = .ack ∧
        (t.pfn p).events = [] ∧ (t.pfn p).evSeq = 1 ∧
        ((s.port p).emb.length = 16 → (s.emb p 1).powered = true → (s.emb p 1).conn = false → (s.emb p 1).chg = false → (t.emb p 1).conn = true)) ∧
      (v = 0 → ∃ t, exec (.setConfiguration p 0 v) s = .next t ∧ (t.port p).configured = false ∧ (t.port p).eps = [] ∧ (t.port p).answer = .ack)) ∧
    (∀ alt, (s.port p).live = true →
      ((s.port p).configured = false ∨ alt ≠ 0 → exec (.setInterface p 0 alt) s = .next (ans .stall)) ∧
      ((s.port p).configured = true → alt = 0 → ∃ u, exec (.setInterface p 0 alt) s = .next (answerControl u p 0 .ack) ∧ OnlyPort p s u ∧
        (u.port p).eps = (carveEps 0 0 ((s.portCfg p).carve.getD 0 0)).map (advertised (s.port p).super 0) ++ (s.port p).eps.filter (·.k != 0))) ∧
    ((s.port p).live = false → ∀ k v alt, exec (.setConfiguration p k v) s = .next s ∧ exec (.setInterface p k alt) s = .next s) ∧
    (∀ k v alt, k ≠ 0 → (s.port p).reaches k = false → exec (.setConfiguration p k v) s = .next s ∧ exec (.setInterface p k alt) s = .next s) ∧
    (∀ k v, k ≠ 0 → (s.port p).reaches k = true →
      (v ≠ 0 → ∃ u, exec (.setConfiguration p k v) s = .next (answerControl u p 0 .ack) ∧ OnlyPort p s u ∧
        (k < (s.port p).emb.length → (u.emb p k).selected = true ∧ (u.emb p k).alt = 0) ∧
        (u.port p).eps = (carveEps k 0 ((s.portCfg p).carve.getD k 0)).map (advertised (s.port p).super 0) ++ (s.port p).eps.filter (·.k != k)) ∧
      (v = 0 → ∃ u, exec (.setConfiguration p k v) s = .next (answerControl u p 0 .ack) ∧ OnlyPort p s u ∧
        (k < (s.port p).emb.length → (u.emb p k).selected = false) ∧ (u.port p).eps = (s.port p).eps.filter (·.k != k)) ∧
      (∀ alt, (s.port p).bulk k = false ∨ s.lastAlt p k < alt → exec (.setInterface p k alt) s = .next (ans .stall)) ∧
      (∀ alt, (s.port p).bulk k = true → alt ≤ s.lastAlt p k → ∃ u, exec (.setInterface p k alt) s = .next (answerControl u p 0 .ack) ∧
        OnlyPort p s u ∧ (k < (s.port p).emb.length → (u.emb p k).alt = alt) ∧
        (u.port p).eps = (carveEps k alt ((s.portCfg p).carve.getD k 0)).map (advertised (s.port p).super alt) ++ (s.port p).eps.filter (·.k != k)))

/-- VBUS, training and resets connect a port at its speed or detach it; the last port to suspend enters the suspend target and a
resume leaves it. VBUS at an enabled port after the start, outside port scope, turns on the SuperSpeed terminations when
MAX_SPEED allows them, else the D+ pull-up. Its loss detaches a connected port: no speed, no termination, the loss counted,
its commands aborted, none of its semaphores held. Training gives the highest rate both partners and MAX_SPEED allow, a x2
rate with two lanes only; its timeout falls back to D+; a bus reset gives high or full speed. An upstream reset aborts the
port's commands, releases its semaphores and unconfigures it. Suspend ends the validity of the SOF record, and when every
attached port is suspended with no stack link up the suspend target is entered; a resume ends it. A wake signal repeats at
most three times. General inputs change once stable over three samples; the first sample after the start sets the levels,
which is the model's choice. -/
def Obligations.UsbConnectsDetachesAndSuspends : Prop :=
  ∀ (s : State) (p : Port),
    (∀ flip, p ∉ s.member.portList → exec (.vbusDetect p flip) s = .next s) ∧
    (∀ flip, p ∈ s.member.portList → (s.portCfg p).enable = true → (s.port p).connected = false → s.inScope 5 p.index = false →
      s.pwr.state ≠ .off → s.pwr.step = 15 → ∃ t, exec (.vbusDetect p flip) s = .next t ∧ (t.port p).vbus = true ∧ (t.port p).flip = flip ∧
        (t.port p).ssTerm = decide (1 ≤ min (s.portCfg p).maxSpeed s.member.usbMax) ∧
        (t.port p).dPlus = !decide (1 ≤ min (s.portCfg p).maxSpeed s.member.usbMax) ∧ ∀ q, q ≠ p → t.port q = s.port q) ∧
    (∀ flip, p ∈ s.member.portList → (s.portCfg p).enable = false ∨ (s.port p).connected = true ∨ s.inScope 5 p.index = true →
      exec (.vbusDetect p flip) s = .next (s.modPort p fun q => { q with vbus := true })) ∧
    ((s.port p).connected = false → exec (.vbusLoss p) s = .next (s.modPort p fun q => { q with vbus := false })) ∧
    ((s.port p).connected = true → ∃ t, exec (.vbusLoss p) s = .next t ∧ (t.port p).vbus = false ∧ (t.port p).connected = false ∧
      (t.port p).speed = .none ∧ (t.port p).configured = false ∧ (t.port p).detaches = min 0xFFFF ((s.port p).detaches + 1) ∧
      (∀ x ∈ t.fn.tasks, x.key.origin = .port p → x.statusDue = false) ∧ (∀ n, t.semOwner n ≠ p.identity) ∧ t.plots = s.plots) ∧
    (∀ partner lanes, exec (.ssTrainingDone p partner lanes) s = .next (
      if (s.port p).ssTerm ∧ (s.port p).speed = .none ∧ 3 ≤ speedCode partner ∧ 1 ≤ min (s.portCfg p).maxSpeed s.member.usbMax then
        s.modPort p fun q => { q with speed := trainedSpeed partner (min (s.portCfg p).maxSpeed s.member.usbMax) lanes, link := 0 }
      else s)) ∧
    (∀ partner m lanes, 3 ≤ speedCode partner → 1 ≤ m → m ≤ 3 → speedCode (trainedSpeed partner m lanes) ≤ min (speedCode partner) (m + 2) ∧
      (lanes < 2 → trainedSpeed partner m lanes ≠ .gen2x2)) ∧
    exec (.ssTrainingTimeout p) s = .next (if (s.port p).ssTerm ∧ (s.port p).speed = .none then
      s.modPort p fun q => { q with ssTerm := false, dPlus := true } else s) ∧
    (∀ ch, exec (.usb2BusReset p ch) s = .next (if (s.port p).dPlus then
      s.modPort p fun q => { q with speed := if ch then .high else .full } else s)) ∧
    (∀ kind, (s.port p).connected = false → exec (.upstreamReset p kind) s = .next s) ∧
    (∀ kind, (s.port p).connected = true → ∃ t, exec (.upstreamReset p kind) s = .next t ∧ (t.port p).configured = false ∧ (t.port p).link = 0 ∧
      (t.port p).eps = [] ∧ (∀ x ∈ t.fn.tasks, x.key.origin = .port p → x.statusDue = false) ∧ (∀ n, t.semOwner n ≠ p.identity)) ∧
    ((s.port p).live = false → exec (.usbSuspend p) s = .next s) ∧
    ((s.port p).live = true →
      ((∃ q ∈ s.member.portList, q ≠ p ∧ (s.port q).connected = true ∧ (s.port q).link ≠ 3) ∨ s.stackLinkUp = true →
        exec (.usbSuspend p) s = .next (s.modPort p fun q => { q with link := 3, sof := { q.sof with valid := false }, wakeSignals := 0 })) ∧
      ((∀ q ∈ s.member.portList, q ≠ p → (s.port q).connected = false ∨ (s.port q).link = 3) → s.stackLinkUp = false → s.powerBusy = false →
        ∃ t, exec (.usbSuspend p) s = .next t ∧ (t.port p).link = 3 ∧ (t.port p).sof.valid = false ∧
          (s.pwr.target = 1 → t.pwr.state = .dim ∧ t.pwr.before = s.pwr.state ∧ t.pwr.bySuspend = true) ∧
          (s.pwr.target ≠ 1 → s.pwr.state ≠ .dark → t.pwr.xfer = some ⟨.dark, true, s.pwr.state⟩ ∧ t.pwr.before = s.pwr.state) ∧
          (s.pwr.target ≠ 1 → s.pwr.state = .dark → t.pwr.state = .dark ∧ t.pwr.result = 3))) ∧
    ((s.port p).speed = .none ∨ (s.port p).link = 0 → exec (.usbResume p) s = .next s) ∧
    ((s.port p).speed ≠ .none → (s.port p).link ≠ 0 → ∃ t, exec (.usbResume p) s = .next t ∧ (t.port p).link = 0 ∧
      ((s.port p).link ≠ 3 → OnlyPort p s t) ∧
      (∀ x, (s.port p).link = 3 → s.pwr.xfer = some x → x.bySuspend = true → t.pwr.xfer = none ∧ t.pwr.state = s.pwr.state) ∧
      ((s.port p).link = 3 → s.pwr.xfer = none → s.pwr.bySuspend = true → s.pwr.before = .lit ∨ s.pwr.before = .dim →
        t.pwr.state = s.pwr.before ∧ t.pwr.bySuspend = false ∧ (s.pwr.before = .dim → t.pwr.dimNow = s.pwr.dimBefore)) ∧
      ((s.port p).link = 3 → s.pwr.xfer = none → s.pwr.bySuspend = true → s.pwr.before = .dark → s.pwr.state ≠ .dark →
        t.pwr.xfer = some ⟨.dark, false, s.pwr.state⟩)) ∧
    exec (.remoteWakeRepeat p) s = .next (if (s.port p).link = 3 ∧ 1 ≤ (s.port p).wakeSignals ∧ (s.port p).wakeSignals < 3 then
      s.modPort p fun q => { q with wakeCount := min 255 (q.wakeCount + 1), wakeSignals := q.wakeSignals + 1 } else s) ∧
    (∀ lv, s.gpioCfg = [] ∨ s.pwr.state = .off → exec (.gpioSample lv) s = .next s) ∧
    (∀ lv, s.gpioCfg ≠ [] → s.pwr.state ≠ .off →
      let now := gpioSampleBits s.gpioCfg lv.toNat
      (s.fn.gpioRaw = [] → ∃ t, exec (.gpioSample lv) s = .next t ∧ t.fn.gpioLevel = now ∧ t.fn.gpioRaw = [now, now] ∧ { t with fn := s.fn } = s) ∧
      (∀ last prev, s.fn.gpioRaw = [last, prev] → ∃ t, exec (.gpioSample lv) s = .next t ∧ t.fn.gpioRaw = [now, last] ∧
        (now = last → now = prev → now < 256 → s.fn.gpioLevel < 256 → t.fn.gpioLevel = now) ∧ t.fn.tasks = s.fn.tasks))

/-- Requests on an embedded port change that port of the hub; no Plot state changes with them. At a configured hub, for embedded
ports 1 to 15. The status poll sends the bitmap of the changes and marks each as reported; the changes of a reset's and a
suspend's end go with the poll, which is the model's choice (log entry 108); with no change it is answered NAK or NRDY, NAK
where the endpoint's buffer is full and STALL where it is halted. Power off disconnects the function and keeps its
reservation and its change; power on connects the management function and the function of an Open or Read-only Plot whatever
change stands, unless its connect is deferred. A port reset of a connected function puts it in reset with its default state
and owes UNIT ATTENTION; BH_PORT_RESET does the same at SuperSpeed and is answered STALL below; the end of the reset enables
the port and sets its change. PORT_ENABLE is cleared at USB 2.0 only. Suspend and its end mark an enabled connected function.
Clearing the connection change ends it and presents a deferred connect. At a hub that is not configured, or another port
number, nothing changes. None of these changes a Plot's state. -/
def Obligations.HubRequestsOnEmbeddedPorts : Prop :=
  ∀ (s : State) (p : Port) (k : Nat),
    ((s.port p).live = false ∨ (s.port p).configured = false → exec (.hubStatusPoll p) s = .next s) ∧
    ((s.port p).live = true → (s.port p).configured = true →
      (changeBits (s.port p).emb = 0 → ∃ t, exec (.hubStatusPoll p) s = .next t ∧ OnlyPort p s t ∧ (t.port p).hubStatus = 0 ∧
        (t.port p).answer = if (s.port p).super then .nrdy else .nak) ∧
      (∀ e, changeBits (s.port p).emb ≠ 0 → (s.port p).super = false → (s.port p).ep? 0 0x81 = some e → e.total ≤ e.used →
        exec (.hubStatusPoll p) s = .next (s.modPort p fun q => { q with answer := if e.halted then .stall else .nak })) ∧
      (∀ e, changeBits (s.port p).emb ≠ 0 → (s.port p).ep? 0 0x81 = some e → e.halted = true →
        exec (.hubStatusPoll p) s = .next (s.modPort p fun q => { q with answer := .stall })) ∧
      (changeBits (s.port p).emb ≠ 0 → (∀ e, (s.port p).ep? 0 0x81 = some e → e.halted = false ∧ ((s.port p).super = true ∨ e.used < e.total)) →
        ∃ t, exec (.hubStatusPoll p) s = .next t ∧ OnlyPort p s t ∧ (t.port p).hubStatus = changeBits (s.port p).emb ∧ (t.port p).answer = .data 2 ∧
        (∀ j < 16, (t.emb p j).chg = (s.emb p j).chg ∧ (t.emb p j).changed = (s.emb p j).chg ∧ ((s.emb p j).chg = true → j < (s.port p).emb.length → (t.emb p j).reported = true)))) ∧
    ((s.port p).live = false ∨ ((s.port p).live = true ∧ ((s.port p).configured = false ∨ k = 0 ∨ 16 ≤ k) ∧ (s.port p).super = false) →
      exec (.clearPortPower p k) s = .next s ∧ exec (.setPortPower p k) s = .next s ∧ exec (.portReset p k) s = .next s ∧
      (∀ on, exec (.portSuspend p ⟨k, on⟩) s = .next s) ∧ exec (.clearCPortConnection p k) s = .next s ∧ exec (.clearPortEnable p k) s = .next s) ∧
    (HubTakes s p k →
      let e := s.emb p k
      (∃ t, exec (.clearPortPower p k) s = .next t ∧ (t.emb p k).powered = false ∧ (t.emb p k).conn = false ∧ (t.emb p k).holder = e.holder ∧
        (t.emb p k).chg = e.chg ∧ (t.emb p k).deferred = e.deferred ∧ (t.port p).answer = .ack ∧ t.plots = s.plots ∧ (∀ x ∈ (t.port p).eps, x.k ≠ k)) ∧
      (e.powered = true → exec (.setPortPower p k) s = .next (answerControl (serveReads s) p 0 .ack)) ∧
      (e.powered = false → ∃ t, exec (.setPortPower p k) s = .next t ∧ (t.emb p k).powered = true ∧ (t.port p).answer = .ack ∧ t.plots = s.plots ∧
        (e.deferred = true → t.emb p k = { e with powered := true } ∧ ∃ u, OnlyPort p s u ∧ t = answerControl (serveReads u) p 0 .ack) ∧
        (k = 1 → e.deferred = false → (t.emb p k).conn = true) ∧
        (∀ n, k ≠ 1 → e.deferred = false → e.conn = false → e.holder = some n → (s.plot n).mode.up = true ∨ 64 ≤ n →
          (t.emb p k).conn = true ∧ (t.emb p k).chg = true ∧ (t.emb p k).reported = false ∧ t.owesAttention ⟨.port p, n, 0⟩ = true)) ∧
      (e.conn = false → exec (.portReset p k) s = .next (answerControl (serveReads s) p 0 .ack)) ∧
      (e.conn = true → ∃ t, exec (.portReset p k) s = .next t ∧ (t.emb p k).resetting = true ∧ (t.emb p k).selected = false ∧
        (t.emb p k).enabled = false ∧ (t.emb p k).conn = true ∧ t.plots = s.plots ∧
        (∀ n, k ≠ 1 → e.holder = some n → t.owesAttention ⟨.port p, n, 0⟩ = true ∧
          ∀ x ∈ t.fn.tasks, x.key.origin = .port p → x.key.plot = n → x.statusDue = false)) ∧
      ((s.port p).super = true → exec (.bhPortReset p k) s = exec (.portReset p k) s ∧
        exec (.clearPortEnable p k) s = .next (s.modPort p fun q => { q with answer := .stall })) ∧
      ((s.port p).super = false → exec (.bhPortReset p k) s = .next (s.modPort p fun q => { q with answer := .stall }) ∧
        ∃ t, exec (.clearPortEnable p k) s = .next t ∧ (t.emb p k).enabled = false ∧ (t.emb p k).conn = e.conn ∧ (t.port p).answer = .ack ∧
          t.plots = s.plots) ∧
      (∃ t, exec (.embPortResetDone p k) s = .next t ∧ OnlyPort p s t ∧
        t.emb p k = (if e.resetting then { e with resetting := false, enabled := true, cReset := true } else e)) ∧
      (∀ on, ∃ u, exec (.portSuspend p ⟨k, on⟩) s = .next (answerControl (serveReads u) p 0 .ack) ∧ OnlyPort p s u ∧
        u.emb p k = if e.conn = true ∧ e.enabled = true then
          { e with suspended := on, cSuspend := e.cSuspend || (e.suspended && !on) } else e) ∧
      (∃ t, exec (.clearCPortConnection p k) s = .next t ∧ t.plots = s.plots ∧ (t.port p).answer = .ack ∧
        (e.deferred = false → t.emb p k = { e with chg := false, reported := false, deferred := false } ∧
          ∃ u, OnlyPort p s u ∧ t = answerControl (serveReads u) p 0 .ack) ∧
        (∀ n, e.deferred = true → k ≠ 1 → e.conn = false → e.powered = true → e.holder = some n → (s.plot n).mode.up = true →
          (t.emb p k).conn = true ∧ (t.emb p k).chg = true)))

/-- A link that comes up starts anew and says HELLO, one that fails re-routes its requests; frames are taken in order,
acknowledged and routed by hops. Links. A link not idle comes up with full lock, no frame taken, full credits and a HELLO.
Losing a lane, or RETRY replays of one frame, takes it down: replay buffer and waiting frames dropped, counted, its segment
broken, LINKDOWN sent on the other link; a request whose path that removed goes the other way with REROUTED set. A replay
sends every unacknowledged frame again. ACK drops the frames through LACK and returns credits; NAK is an ACK and a replay. A
frame with a bad CRC or out of order draws one NAK and no more. Every frame: on a link down or with a second master found it
has no effect; out of order it changes that link only; taken and for another position it changes the links only, and goes on
with one hop less unless its hops are used up. An unknown frame is recorded and has no other effect. How many frames the
model keeps as last sent is its own choice. -/
def Obligations.LinksTrainReplayAndRoute : Prop :=
  ∀ (s : State),
    (∀ l, (s.stk.link l).idle = true ∨ (s.stk.link l).up = true ∨ s.stk.dup = true → exec (.linkUp l) s = .next s) ∧
    (∀ l, (s.stk.link l).idle = false → (s.stk.link l).up = false → s.stk.dup = false → ∃ t, exec (.linkUp l) s = .next t ∧
      (t.stk.link l).up = true ∧ (t.stk.link l).lock = 0xF ∧ (t.stk.link l).rxSeq = 0xFFF ∧
      t.stk.link (Link.other l) = s.stk.link (Link.other l) ∧ segmentOf s s.ringPos l ∉ t.stk.broken ∧ t.stk.requests = s.stk.requests ∧
      (0 < s.creditsOf → (t.stk.link l).credits = s.creditsOf - 1 ∧
        ∃ f, (t.stk.link l).unacked = [(0, f)] ∧ f.ty = 0x03 ∧ f.payload = s.ownHello) ∧ t.fields = s.fields ∧ t.arb = s.arb) ∧
    (∀ l lane, (s.stk.link l).up = false → ∃ t, exec (.laneLoss l lane) s = .next t ∧ OnlyLinks s t ∧ (t.stk.link l).lock.testBit lane = false) ∧
    (∀ l lane, (s.stk.link l).up = true → ∃ t, exec (.laneLoss l lane) s = .next t ∧ (t.stk.link l).up = false ∧
      (t.stk.link l).lock.testBit lane = false ∧ (t.stk.link l).unacked = [] ∧ (t.stk.link l).waiting = [] ∧
      (t.stk.link l).downs = min 0xFF ((s.stk.link l).downs + 1) ∧ segmentOf s s.ringPos l ∈ t.stk.broken ∧ t.fields = s.fields ∧
      (s.stk.requests = [] → (s.stk.link (Link.other l)).up = true → 0 < (s.stk.link (Link.other l)).credits →
        ∃ f, t.lastSent (Link.other l) = some f ∧ f.ty = 0x04 ∧ f.bcast = true ∧
          f.payload = leBytes 1 s.ringPos ++ leBytes 1 (linkCode l) ++ [0, 0]) ∧
      (∀ q, s.stk.requests = [q] → routeTo s q.dest = some l → s.pathOn (Link.other l) q.dest = true →
        2 < (s.stk.link (Link.other l)).credits → t.stk.requests = [{ q with resent := false }] ∧
          { q.frame with rerouted := true, hops := s.hopsTo (Link.other l) q.dest } ∈ (t.stk.link (Link.other l)).sent)) ∧
    (∀ l, (s.stk.link l).up = false ∨ (s.stk.link l).unacked = [] → exec (.replayTimeout l) s = .next s) ∧
    (∀ l, (s.stk.link l).up = true → (s.stk.link l).unacked ≠ [] →
      ((s.stk.link l).replayRun < s.retryOf → ∃ t, exec (.replayTimeout l) s = .next t ∧ OnlyLinks s t ∧
        t.stk.link (Link.other l) = s.stk.link (Link.other l) ∧ (t.stk.link l).replays = min 0xFF ((s.stk.link l).replays + 1) ∧
        (t.stk.link l).replayRun = (s.stk.link l).replayRun + 1 ∧ (t.stk.link l).unacked = (s.stk.link l).unacked ∧
        ((s.stk.link l).unacked.length ≤ 64 → (s.stk.link l).unacked.map (·.2) <:+ (t.stk.link l).sent)) ∧
      (s.retryOf ≤ (s.stk.link l).replayRun → ∃ t, exec (.replayTimeout l) s = .next t ∧ (t.stk.link l).up = false ∧
        (t.stk.link l).unacked = [] ∧ (t.stk.link l).downs = min 0xFF ((s.stk.link l).downs + 1) ∧ segmentOf s s.ringPos l ∈ t.stk.broken)) ∧
    (∀ l, ((s.stk.link l).up = true ∨ (s.stk.link l).idle = true ∨ s.stk.dup = true → exec (.linkRetrain l) s = .next s) ∧
      ((s.stk.link l).up = false → (s.stk.link l).idle = false → s.stk.dup = false → ∃ t, exec (.linkRetrain l) s = .next t ∧ OnlyLinks s t ∧
        t.stk.link l = { s.stk.link l with lock := 0 } ∧ t.stk.link (Link.other l) = s.stk.link (Link.other l))) ∧
    (∀ h : FrameHdr, (s.stk.link h.link).up = false ∨ s.stk.dup = true → exec (.ack h) s = .next s ∧ exec (.nak h) s = .next s) ∧
    (∀ h : FrameHdr, (s.stk.link h.link).up = true → s.stk.dup = false → let k := s.stk.link h.link
      ∃ t, exec (.ack h) s = .next t ∧ OnlyLinks s t ∧ t.stk.link (Link.other h.link) = s.stk.link (Link.other h.link) ∧
        exec (.nak h) s = exec (.replayTimeout h.link) t ∧
        (k.waiting = [] → (t.stk.link h.link).credits = min s.creditsOf (k.credits + h.credit)) ∧
        (∀ pre f post, k.waiting = [] → h.ackv = true → k.unacked = pre ++ (h.lack, f) :: post → (∀ x ∈ pre, x.1 ≠ h.lack) →
          (t.stk.link h.link).unacked = post ∧ (t.stk.link h.link).replayRun = 0) ∧
        (k.waiting = [] → h.ackv = false ∨ (∀ x ∈ k.unacked, x.1 ≠ h.lack) → (t.stk.link h.link).unacked = k.unacked) ∧
        (∀ f, k.waiting = [f] → 0 < s.creditsOf → 0 < k.credits + h.credit → t.lastSent h.link = some f ∧ (t.stk.link h.link).waiting = [])) ∧
    (∀ l ok q, (s.stk.link l).up = false ∨ s.stk.dup = true ∨ (ok = true ∧ q = ((s.stk.link l).rxSeq + 1) % 4096) ∨
      (s.stk.link l).nakSent = true → exec (.linkFrameError l ok q) s = .next s) ∧
    (∀ l ok q, (s.stk.link l).up = true → s.stk.dup = false → ok = false ∨ q ≠ ((s.stk.link l).rxSeq + 1) % 4096 →
      (s.stk.link l).nakSent = false → ∃ t, exec (.linkFrameError l ok q) s = .next t ∧ OnlyLinks s t ∧ (t.stk.link l).nakSent = true ∧
        (t.stk.link l).rxSeq = (s.stk.link l).rxSeq ∧ (t.stk.link l).credits = (s.stk.link l).credits ∧ (t.lastSent l).map (·.ty) = some 0x02) ∧
    (∀ c h r, frameOf? c = some (h, r) →
      ((s.stk.link h.link).up = false ∨ s.stk.dup = true → exec c s = .next s) ∧
      ((s.stk.link h.link).up = true → s.stk.dup = false → h.lseq ≠ ((s.stk.link h.link).rxSeq + 1) % 4096 →
        ∃ t, exec c s = .next t ∧ OnlyLinks s t ∧ t.stk.link (Link.other h.link) = s.stk.link (Link.other h.link) ∧
          (t.stk.link h.link).rxSeq = (s.stk.link h.link).rxSeq ∧ (t.stk.link h.link).nakSent = true) ∧
      (r = true → InOrder s h → h.bcast = false → s.stk.pos ≠ some h.dest → ∃ t, exec c s = .next t ∧ OnlyLinks s t ∧
        (t.stk.link h.link).rxSeq = h.lseq ∧
        (h.hops ≤ 1 → t.stk.link (Link.other h.link) = s.stk.link (Link.other h.link)) ∧
        (1 < h.hops → (s.stk.link (Link.other h.link)).up = true → 0 < (s.stk.link (Link.other h.link)).credits →
          ∃ f, t.lastSent (Link.other h.link) = some f ∧ f.hops = h.hops - 1 ∧ f.tag = h.tag ∧ f.dest = h.dest ∧ f.src = h.src ∧
            f.resp = h.resp ∧ f.rerouted = h.rerouted))) ∧
    (∀ h ty len, InOrder s h → Effect s (.unknownFrame h ty len) h fun u v => { v with saf := u.saf } = u ∧
      (u.saf.recPending = none → ∃ r, v.saf.log = (r :: u.saf.log).take 256 ∧ r.cause = 0x0001 ∧ r.scope = 0))

/-- Enumeration gives positions and admits by Table STK-5; absence, return, a lost master and stack time each change what their
rules name. At the master: an ENUM or CONFIRM of another master, or its HELLO, is DUP_MASTER; a closed or finished ENUM, or
the end of the window, ends enumeration with the admitted members; a break is gone around from the other link. A member takes
its position from the ENUM, starts anew if it was admitted, and sends the ENUM on with its entry, or back. CONFIRM admits it
or refuses it with its code. KEYX with a pair sets the transport key and clears the pair. TIME sets stack time and RETIRE and
drops retired keys; the master's RETIRE stays below every order number an outstanding request carries. LEAVE or a path lost
for 2 ms declares an admitted position absent; HELLO with its SERIAL ends that. A member without its master clears its ring
keys, its unreleased blocks and the stack's semaphores, and becomes Lone. A timed-out request goes again once, or ends with
LINK_LOST. STK_CTRL.ENUM needs the master, semaphore 0 and no open wide Plot; on a member without a stack island the write is
one of reserved space; either way the access takes its turn at the arbiter. What a member does with a HELLO of another
position, and a member reached upstream after EXPECT entries taking no position, are the model's choices (logs 17 and 85). -/
def Obligations.EnumerationAbsenceAndStackTime : Prop :=
  ∀ (s : State),
    (∀ own expect small twice plots pos (e : EnumEntry), admitCode own expect small twice plots pos e = 0 ↔
      e.stackId = own.stackId ∧ e.fdig = own.fdig ∧ e.role ≠ 1 ∧ pos < e.stackMax ∧ small = false ∧ pos < expect ∧ twice = false ∧
        plots + e.plots ≤ 1024) ∧
    (∀ h es, InOrder s h → s.isMaster = true →
      (es = [] → ∃ t, exec (.enum h es) s = .next t ∧ OnlyLinks s t) ∧
      (∀ e rest, es = e :: rest →
        (e.serial ≠ s.ownSerial → ∃ t, exec (.enum h es) s = .next t ∧ DupMaster t) ∧
        (e.serial = s.ownSerial → s.stk.window = false → ∃ t, exec (.enum h es) s = .next t ∧ OnlyLinks s t) ∧
        (e.serial = s.ownSerial → s.stk.window = true →
          let found := (addEntries s ((List.range es.length).zip es)).stk.entries
          let all := decide (s.expectOf ≤ (found.map (·.1)).dedup.length)
          (h.resp = false ∨ (h.link = .dn ∧ (s.isChain = true ∨ all = true)) →
            ∃ t, exec (.enum h es) s = .next t ∧ EnumDone s found t) ∧
          (h.resp = true → h.link = .dn → s.isChain = false → all = false → ∃ t, exec (.enum h es) s = .next t ∧ t.stk.window = true ∧
            es.length - 1 ∈ t.stk.broken ∧ t.stk.entries = found ∧ t.fields = s.fields ∧
            (s.stk.up.up = true → 0 < s.stk.up.credits → ∃ f, t.lastSent .up = some f ∧ f.ty = 0x10 ∧ f.payload = entryBytes s.ownEntry)) ∧
          (h.resp = true → h.link = .up →
            let seats := (((List.range es.length).zip es).filter fun x => decide (x.1 = 0 ∨ x.1 < s.expectOf)).map fun x =>
              (if x.1 = 0 then 0 else s.expectOf - x.1, x.2)
            ∃ t, exec (.enum h es) s = .next t ∧ EnumDone s (addEntries s seats).stk.entries t)))) ∧
    (∀ h es, InOrder s h → s.isMaster = false →
      (h.resp = true → ∃ t, exec (.enum h es) s = .next t ∧ OnlyLinks s t) ∧
      (h.resp = false → ∃ t, exec (.enum h es) s = .next t ∧
        t.stk.pos = (match h.link with | .up => some es.length | .dn => if es.length < s.expectOf then some (s.expectOf - es.length) else none) ∧
        t.stk.state = (if s.stk.state = 0 ∨ s.stk.state = 2 then 1 else s.stk.state) ∧
        (s.stk.state = 2 → t.stk.keyStore = [] ∧ t.stk.transport = [] ∧ t.stk.wide = [] ∧ t.stk.reads = [] ∧ t.stk.heads = [] ∧ ∀ n, t.semOwner n ≠ idStack) ∧
        (s.stk.state ≠ 2 → OnlyLinks { s with stk := { s.stk with pos := t.stk.pos, state := t.stk.state } } t) ∧
        ((s.stk.link (Link.other h.link)).up = true → 0 < (s.stk.link (Link.other h.link)).credits →
          ∃ f, t.lastSent (Link.other h.link) = some f ∧ f.ty = 0x10 ∧ f.resp = false ∧ f.payload = enumBytes (es ++ [s.ownEntry])))) ∧
    (s.isMaster = true ∧ s.stk.window = true → (∃ t, exec .enumWindowClose s = .next t ∧ EnumDone s s.stk.entries t) ∧
      ∃ t, exec .enumResend s = .next t ∧ OnlyLinks s t ∧ t.stk.up = s.stk.up ∧
        (s.stk.dn.up = true → 0 < s.stk.dn.credits → ∃ f, t.lastSent .dn = some f ∧ f.ty = 0x10 ∧ f.payload = entryBytes s.ownEntry)) ∧
    (s.isMaster = false ∨ s.stk.window = false → exec .enumWindowClose s = .next s ∧ exec .enumResend s = .next s) ∧
    (∀ h x n rs, Delivered s h → s.isMaster = true → Effect s (.confirm h x n rs) h fun _ v => DupMaster v) ∧
    (∀ h x n rs, Delivered s h → s.isMaster = false → Effect s (.confirm h x n rs) h fun u v =>
      (∀ p, s.stk.pos = some p → let code := rs.getD p 0xFF
        (code = 0xFF → v = u) ∧
        (code = 0 → v.stk.state = 2 ∧ v.stk.count = n ∧ v.stk.refusal = 0 ∧ v.stk.lone = false ∧ v.stk.masterGone = false ∧
          v.stk.transport = [] ∧ v.stk.broken = [] ∧ (∀ q, q < 128 → ((q, 0) ∈ v.stk.members ↔ rs.getD q 0xFF = 0)) ∧ (v.stk.pairs.any (·.1 == 0)) = true ∧ v.fields = s.fields ∧ v.plots = s.plots) ∧
        (code ≠ 0 → code ≠ 0xFF → v.stk.state = 4 ∧ v.stk.refusal = code ∧ v.stk.lone = true ∧ v.stk.count = n ∧ v.plots = s.plots)) ∧
      (s.stk.pos = none → v = u)) ∧
    (∀ h pub, Delivered s h → Effect s (.keyx h pub) h fun u v =>
      (s.stk.pairs.any (·.1 == h.src) = false → v = u) ∧
      (s.stk.pairs.any (·.1 == h.src) = true → (v.stk.transport.find? (·.1 == h.src)).isSome = true ∧ v.stk.pairs = s.stk.pairs.filter (·.1 != h.src) ∧
        (∀ p, p ≠ h.src → v.stk.transport.find? (·.1 == p) = s.stk.transport.find? (·.1 == p)) ∧
        { v with stk := { v.stk with transport := u.stk.transport, pairs := u.stk.pairs } } = u)) ∧
    (∀ h now ret, Delivered s h → Effect s (.time h now ret) h fun u v =>
      (s.isMaster = true ∨ s.stk.state ≠ 2 ∨ h.src ≠ 0 → v = u) ∧
      (s.isMaster = false → s.stk.state = 2 → h.src = 0 → v = u.modStk fun k => { k with
        time := now, timeLocal := s.timeUs, retire := ret, masterGone := false, keys := s.stk.keys.filter fun x => decide (ret < x.order) })) ∧
    (s.isMaster = false ∨ s.stk.state ≠ 2 ∨ s.stk.window = true → exec .timePeriod s = .next s) ∧
    (s.isMaster = true → s.stk.state = 2 → s.stk.window = false → ∃ t, exec .timePeriod s = .next t ∧ t.stk.time = s.timeUs ∧
      t.stk.timeLocal = s.timeUs ∧ (∀ q ∈ s.stk.requests, ∀ k a, q.why = .block k a → 0 < k.order → t.stk.retire < k.order) ∧
      OnlyLinks { s with stk := { s.stk with time := t.stk.time, timeLocal := t.stk.timeLocal, retire := t.stk.retire, keys := t.stk.keys } } t ∧
      (∀ x ∈ s.stk.keys, t.stk.retire < x.order → x ∈ t.stk.keys)) ∧
    (∀ pos, ¬MayBeAbsent s pos → exec (.absentTimeout pos) s = .next s) ∧
    (∀ pos, MayBeAbsent s pos → ∃ t, exec (.absentTimeout pos) s = .next t ∧ DeclaredAbsent s pos t) ∧
    (∀ h pos, Delivered s h → Effect s (.leave h pos) h fun u v => (¬MayBeAbsent s pos → v = u) ∧ (MayBeAbsent s pos → DeclaredAbsent u pos v)) ∧
    (∀ h sid pos role st ser, InOrder s h → s.isMaster = true →
      (role = 1 → ∃ t, exec (.hello h sid pos role st ser) s = .next t ∧ DupMaster t) ∧
      (role ≠ 1 → Effect s (.hello h sid pos role st ser) h fun u v =>
        (pos ∉ s.stk.absent → v = u) ∧
        (∀ m, pos ∈ s.stk.absent → s.stk.members.find? (·.1 == pos) = some m →
          (m.2 % 2 ^ 64 ≠ ser → v.stk = u.stk ∧ v.fields = u.fields) ∧
          (m.2 % 2 ^ 64 = ser → (∀ f ∈ wideCfgs s, f.devices.contains pos = false) → v.stk = { u.stk with absent := s.stk.absent.filter (· != pos) } ∧
            v.fields = u.fields)))) ∧
    (∀ h sid pos role st ser, InOrder s h → s.isMaster = false → ∃ t, exec (.hello h sid pos role st ser) s = .next t ∧ OnlyLinks s t) ∧
    (∀ h pos w, Delivered s h → Effect s (.linkdown h pos w) h fun u v => segmentOf s pos w ∈ v.stk.broken ∧ v.fields = u.fields ∧
      (s.stk.requests = [] → v = breakSegment u (segmentOf s pos w))) ∧
    (s.isMaster = true ∨ s.stk.state ≠ 2 → exec .masterLost s = .next s) ∧
    (s.isMaster = false → s.stk.state = 2 → ∃ t, exec .masterLost s = .next t ∧ t.stk.masterGone = true ∧ t.stk.keyStore = [] ∧
      t.stk.wide = s.stk.wide.filter (·.addr.isSome) ∧ t.stk.heads = [] ∧ t.stk.reads = [] ∧ (∀ n, t.semOwner n ≠ idStack) ∧ (∀ x ∈ t.fn.tasks, 64 ≤ x.key.plot → x.statusDue = false) ∧
      t.fields = s.fields ∧ t.plots = s.plots) ∧
    (let waits := (s.stk.state = 1 ∧ s.stk.pos = none) ∨ (s.stk.state = 2 ∧ s.stk.masterGone = true);
      (s.isMaster = true ∨ s.stk.role ≠ 0 ∨ ¬waits → exec .loneTimeout s = .next s) ∧
      (s.isMaster = false → s.stk.role = 0 → waits → ∃ t, exec .loneTimeout s = .next t ∧ t.stk.state = 3 ∧ t.stk.lone = true ∧
        (∀ n, t.semOwner n ≠ idStack) ∧ t.plots = s.plots ∧ t.fields = s.fields)) ∧
    (∀ tag, s.request? tag = none → exec (.requestTimeout tag) s = .next s) ∧
    (∀ tag q, s.request? tag = some q →
      (∀ l, routeTo s q.dest = some l → (q.resent = true → exec (.requestTimeout tag) s = .next s) ∧
        (q.resent = false → ∃ t, exec (.requestTimeout tag) s = .next t ∧ t.request? tag = some { q with resent := true } ∧
          OnlyLinks { s with stk := { s.stk with requests := t.stk.requests } } t ∧
          (1 < (s.stk.link l).credits → { q.frame with rerouted := true, hops := s.hopsTo l q.dest } ∈ (t.stk.link l).sent))) ∧
      (routeTo s q.dest = none → ∃ t, exec (.requestTimeout tag) s = .next t ∧ t.request? tag = none ∧
        (∀ id, q.why = .reg id → isHostId id = true →
          (t.remoteBank id).result = 2 ∧ (t.remoteBank id).done = true ∧ (t.remoteBank id).pending = false) ∧
        (∀ key x p, q.why = .task key → s.task? key = some x → key.origin = .port p → x.tr.isSome = true →
          t.resultOf key = some (linkLost, [])) ∧
        (∀ key lba x p, q.why = .read key lba → s.task? key = some x → key.origin = .port p → x.tr.isSome = true →
          t.resultOf key = some (linkLost, s.partialAnswer x)))) ∧
    (∀ id, s.member.hasStack = true → WritePasses s id csStkCtrl true →
      let ends := fun r => exec (.reEnumerate id) s = .next ((noteAccess s id).modStk fun k => { k with ctrlResult := r })
      let busy := (s.wideFields.flatMap s.plotsOf).any fun n => (s.plot n).mode.up
      (s.isMaster = false → ends 3) ∧
      (s.isMaster = true → (s.holdsSem id 0 = false → ends 2) ∧
        (s.holdsSem id 0 = true → (busy = true → ends 1) ∧
          (busy = false →
            (1 < s.expectOf → ∃ t, exec (.reEnumerate id) s = .next t ∧ t.stk.ctrlResult = 0 ∧ t.stk.window = true ∧ t.stk.state = 1 ∧
              t.stk.entries = [(0, s.ownEntry)] ∧ t.stk.members = [] ∧ t.stk.keyStore = [] ∧ t.stk.transport = [] ∧ t.fields = s.fields ∧
              t.plots = s.plots) ∧
            (s.expectOf ≤ 1 → ∃ v, EnumDone (noteAccess s id) [(0, s.ownEntry)] v ∧
              exec (.reEnumerate id) s = .next (v.modStk fun k => { k with ctrlResult := 0 })))))) ∧
    (∀ id, s.csOpen id = true → s.mpuRefuses id false csStkCtrl .write = none →
      (s.member.hasStack = true → s.hasLayout = false → exec (.reEnumerate id) s = .next (noteAccess s id)) ∧
      (s.member.hasStack = false → s.writeLocked id = false → s.saf.recPending = none → ∃ t r, exec (.reEnumerate id) s = .next t ∧
        { t with saf := s.saf } = noteAccess s id ∧ t.saf.log = (r :: s.saf.log).take 256 ∧ r.cause = 0x0001 ∧ r.requester = id.toNat ∧
        r.detail0 = w32 csStkCtrl ∧ r.detail1 = 1))

/-- The master reaches a member's registers and serves its hosts' commands once each; SAFE, keys and events of the ring act as
their rules say. SAFE puts the master and an admitted member into stack scope and no other device. A REG frame not from
position 0, or at the master, has no effect; a copy is answered again and counted; entries that fail the pre-check are none
performed (the model's reading, logged), an empty frame is answered with none, a single entry has the effect of that access
by identity 0x82. STK_ROP: busy, not the master, a position not admitted or no path set their result; otherwise one REG frame
is kept until its answer, which REG_RSP puts into the requester's bank. An IO_REQ of a position that is no member, or at a
member, has no effect; a copy is counted and runs nothing; a command for a Plot that is not wide is refused and the answer
stored; READ, WRITE, a flush with its range, a stop, a SANITIZE, an UNMAP with its list and a command without data-path work
are those of the same Plot; a vault command the Plot's semaphore refuses is answered, and LOCK closes an open one. IO_RSP
gives a write its order number, a read its horizon, and ends anything else. KEY stores a key under the transport key; KEYCLR
clears it and ends the Plot's commands. POWER and STACK events of others note what is dark or broken. -/
def Obligations.RemoteAccessAndForwardedCommands : Prop :=
  ∀ (s : State),
    (∀ h sc cause, Delivered s h → Effect s (.safe h sc cause) h fun u v =>
      let held := ∃ c ∈ s.saf.scopes, c.code = 7 ∧ c.cause = cause
      (s.isMaster = true ∨ s.stk.state = 2 → ¬held → Faulted u v cause 7 0 (latchingCause cause)) ∧
      (s.isMaster = true → held → OnlyLinks u v) ∧ (s.isMaster = false → s.stk.state ≠ 2 ∨ held → v = u)) ∧
    (∀ h es, Delivered s h → Effect s (.regFrame h es) h fun u v =>
      (h.src ≠ 0 ∨ s.isMaster = true → v = u) ∧
      (h.src = 0 → s.isMaster = false →
        (s.stk.regSeen.any (·.1 == h.tag) = true → OnlyLinks (u.modStk fun k => { k with copies := min 0xFFFF (k.copies + 1) }) v) ∧
        (s.stk.regSeen.any (·.1 == h.tag) = false →
          let noted := fun (w : State) (ds : List RegDone) =>
            w.modStk fun k => { k with regSeen := (k.regSeen ++ [(h.tag, ds)]).drop (k.regSeen.length + 1 - 64) }
          (es.all regEntryOk = false → OnlyLinks (noted u (es.map skipEntry)) v) ∧
          (es = [] → OnlyLinks (noted u []) v) ∧
          (∀ e, es = [e] → regEntryOk e = true → e.op = 1 →
            ∃ w d, exec (.registerWrite idStack e.addr e.value) u = .next w ∧ OnlyLinks (noted w [d]) v ∧ d.value = e.value) ∧
          (∀ e, es = [e] → regEntryOk e = true → e.op = 0 → ∃ w d, exec (.rcRead idStack e.addr 0) u = .next w ∧ OnlyLinks (noted w [d]) v ∧
            w.replyTo idStack = some (d.value, d.st))))) ∧
    (∀ id c op, (c = .stkRemoteRead id ∧ op = 1) ∨ (c = .stkRemoteWrite id ∧ op = 2) → s.member.hasStack = true → WritePasses s id csStkRop false →
      (isHostId id = false → exec c s = .next (noteAccess s id)) ∧
      (isHostId id = true → let b := s.remoteBank id
        let member := b.pos ≠ s.ringPos ∧ s.stk.members.any (·.1 == b.pos) = true
        (b.pending = true → exec c s = .next (modRemote (noteAccess s id) id fun b => { b with result := 5 })) ∧
        (b.pending = false →
          (s.isMaster = false → exec c s = .next (modRemote (noteAccess s id) id fun b => { b with done := true, result := 4 })) ∧
          (s.isMaster = true → (¬member → exec c s = .next (modRemote (noteAccess s id) id fun b => { b with done := true, result := 3 })) ∧
            (member → routeTo s b.pos = none → exec c s = .next (modRemote (noteAccess s id) id fun b => { b with done := true, result := 2 })) ∧
            (∀ l, member → routeTo s b.pos = some l → ∃ t, exec c s = .next t ∧ (t.remoteBank id).pending = true ∧
              (t.remoteBank id).done = false ∧ (t.remoteBank id).result = 0 ∧ (∃ q, t.stk.requests = s.stk.requests ++ [q] ∧
                q.tag = s.stk.nextTag ∧ q.dest = b.pos ∧ q.why = .reg id ∧ q.frame.ty = 0x20 ∧ q.frame.payload =
                  leBytes 3 b.addr ++ leBytes 1 (op - 1) ++ leBytes 4 (if op = 2 then b.data.toNat else 0)) ∧ { t with stk := s.stk } = noteAccess s id))))) ∧
    (∀ id c, c = .stkRemoteRead id ∨ c = .stkRemoteWrite id → s.member.hasStack = false → s.csOpen id = true →
      s.mpuRefuses id false csStkRop .write = none → s.writeLocked id = false → s.saf.recPending = none → ∃ t r, exec c s = .next t ∧
        { t with saf := s.saf } = noteAccess s id ∧ t.saf.log = (r :: s.saf.log).take 256 ∧ r.cause = 0x0001 ∧ r.requester = id.toNat ∧
        r.detail0 = w32 csStkRop ∧ r.detail1 = 1) ∧
    (∀ h st v id q, Delivered s h → s.request? h.tag = some q → q.why = .reg id → isHostId id = true →
      Effect s (.regRsp h st v) h fun u t => t.request? h.tag = none ∧ { t with stk := u.stk } = u ∧
        t.remoteBank id = { s.remoteBank id with
          pending := false, done := true, result := if st = 0 then 0 else 1,
          data := if st = 0 then v else (s.remoteBank id).data }) ∧
    (∀ h st v, Delivered s h → s.request? h.tag = none → Effect s (.regRsp h st v) h fun u t => t = u) ∧
    (∀ h p n req, Delivered s h → Effect s (.ioReq h p n req) h fun u v =>
      let member := s.stk.members.any (·.1 == h.src)
      let known := s.stk.ioSeen.any fun x => x.1 == h.src && x.2.1 == h.tag
      let key : TaskKey := ⟨.ring h.src, n, h.tag⟩
      let noted := u.modStk fun k => { k with ioSeen := k.ioSeen ++ [(h.src, h.tag, [])] }
      (s.isMaster = false ∨ member = false → v = u) ∧
      (s.isMaster = true → member = true →
        (known = true → v.stk.copies = min 0xFFFF (s.stk.copies + 1) ∧ v.fn = u.fn ∧ v.arb = u.arb ∧ v.plots = u.plots ∧ v.fields = u.fields ∧
          v.stk.ioSeen.length = s.stk.ioSeen.length) ∧
        (known = false →
          (s.widePlot n = false → v.fn.tasks = u.fn.tasks ∧ v.arb = u.arb ∧ v.plots = u.plots ∧
            v.stk.ioSeen.any (fun x => x.1 == h.src && x.2.1 == h.tag && !x.2.2.isEmpty) = true) ∧
          (s.widePlot n = true → (s.plot n).mode.up = false → isVault req = false → v.fn.tasks = u.fn.tasks ∧
            v.stk.ioSeen.any (fun x => x.1 == h.src && x.2.1 == h.tag && !x.2.2.isEmpty) = true) ∧
          (s.widePlot n = true → (s.plot n).mode.up = true →
            (∀ (a : BitVec 64) (c : BitVec 32) f, req = .write a.toNat c.toNat f → exec (.write16 key .plain a c ⟨f, 0, 0, false⟩) noted = .next v) ∧
            (∀ (a : BitVec 64) (c : BitVec 32), req = .read a.toNat c.toNat → exec (.read16 key .plain a c ⟨false, 0, 0, false⟩) noted = .next v) ∧
            (∀ (a : BitVec 64) (c : BitVec 32), req = .flush a.toNat c.toNat →
              exec (.synchronizeCache16 key .plain a c false ⟨false, 0, 0, false⟩) noted = .next v) ∧
            (req = .stop → exec (.startStopUnitStop key ⟨.plain, false⟩ 0) noted = .next v) ∧
            (∀ immed, req = .sanitize immed → exec (.sanitize key ⟨.plain, false⟩ 3 immed 0) noted = .next v) ∧
            (∀ cdb, req = .plain cdb → plainCdb cdb = true → exec (.startStopUnitStart ⟨key, .plain, false⟩ 0) noted = .next v) ∧
            (∀ ds, req = .unmap ds → ScsiClear noted key .plain → (∀ x ∈ s.fn.tasks, x.key ≠ key) → dropSense noted key = noted →
              exec (.unmapParameterList key true ds)
                (noted.modTasks fun ts => ts ++ [{ newTask key (some .plain) .discard 0 0 false with intake := true }]) = .next v)) ∧
          (s.widePlot n = true → isVault req = true →
            (∀ r, vaultRefusal s idStack n = some r → v.fn.tasks = u.fn.tasks ∧ v.plots = u.plots ∧
              v.stk.ioSeen.any (fun x => x.1 == h.src && x.2.1 == h.tag && !x.2.2.isEmpty) = true) ∧
            (vaultRefusal s idStack n = none → req = .lock 0 → (s.plot n).mode.up = true → s.vaultDark = false →
              (v.plot n).mode = .closed ∧ (v.plot n).keys = none)))) ) ∧
    (∀ h st k a q o i, Delivered s h → s.request? h.tag = none → Effect s (.ioRsp h st k a q o i) h fun u v => v = u) ∧
    (∀ h st k a q o i r key x, Delivered s h → s.request? h.tag = some r → r.why = .task key → s.task? key = some x →
      Effect s (.ioRsp h st k a q o i) h fun u v => v.request? h.tag = none ∧ v.fields = u.fields ∧ v.plots = u.plots ∧
        (st = 0 → x.kind = .write → v.task? key = some { x with order := some o }) ∧
        (st = 0 → x.kind = .read → v.task? key = some { x with horizon := some o }) ∧
        (∀ p, st ≠ 0 → key.origin = .port p → x.tr.isSome = true → v.resultOf key = some (ioStatus st k a q i, []) ∧ v.task? key = none) ∧
        (∀ p, st = 0 → x.kind ≠ .write → x.kind ≠ .read → key.origin = .port p → x.tr.isSome = true →
          v.task? key = none ∧ v.resultOf key = some (.good, x.value))) ∧
    (∀ h st k a q o i r p tag op, Delivered s h → s.request? h.tag = some r → r.why = .vault p tag op →
      (let c := (s.pfn p).cap .management; c.busy = true ∧ c.opcode = op ∧ c.tag = tag) →
      Effect s (.ioRsp h st k a q o i) h fun u v => v.request? h.tag = none ∧ ∃ y, v.response p .management = some y ∧ y.opcode = op ∧
        y.tag = tag ∧ y.status = st ∧ y.detail = i ∧ (st ≠ 0 → y.payload = []) ∧ v.plots = u.plots) ∧
    (∀ h n g old w, Delivered s h → Effect s (.key h n g old w) h fun u v =>
      (h.resp = true → v = dropRequest u h.tag) ∧
      (h.resp = false → (s.isMaster = true ∨ s.stk.state ≠ 2 → v = u) ∧
        (s.isMaster = false → s.stk.state = 2 →
          (s.stk.transport.any (·.1 == 0) = false → OnlyLinks u v) ∧
          (∀ x, s.stk.transport.find? (·.1 == 0) = some x → (Config.kwUnwrap x.2 w = none → OnlyLinks u v) ∧
            ∀ ks, Config.kwUnwrap x.2 w = some ks → v.stk.keyStore =
              ⟨n % 64, g, old, ks⟩ :: s.stk.keyStore.filter (fun e => !(e.plot == n % 64 && e.old == old)) ∧ v.fields = u.fields ∧
              v.plots = u.plots)))) ∧
    (∀ h n, Delivered s h → Effect s (.keyclr h n) h fun u v =>
      (h.resp = true → v = dropRequest u h.tag) ∧
      (h.resp = false → (s.isMaster = true ∨ s.stk.state ≠ 2 → v = u) ∧
        (s.isMaster = false → s.stk.state = 2 → v.stk.keyStore = s.stk.keyStore.filter (·.plot != n % 64) ∧
          (∀ x ∈ v.fn.tasks, x.key.plot = 64 + n % 64 → x.statusDue = false) ∧ v.plots = u.plots))) ∧
    (∀ h ev, Delivered s h → Effect s (.eventFrame h ev) h fun u v =>
      let kind := leNat (slice ev 4 2)
      let d0 := leNat (slice ev 20 4)
      let seg := segmentOf s h.src (if leNat (slice ev 24 4) = 0 then .up else .dn)
      { v with fn := u.fn, stk := u.stk } = u ∧ v.fn.tasks = u.fn.tasks ∧
      (kind = 0x0050 → (h.src ∈ v.stk.dark ↔ d0 = 3)) ∧ (kind = 0x0060 → d0 = 3 → seg ∈ v.stk.broken) ∧
      (kind = 0x0060 → d0 = 4 → seg ∉ v.stk.broken) ∧ (kind ≠ 0x0050 → kind ≠ 0x0060 → v.stk = u.stk))

/-- Blocks and pages on the ring are applied at most once, answered, and end the requests they belong to. BLK_HEAD waits for its
BLK_DATA under its source and tag; data without a head has no effect. A block whose key is known is counted and not applied,
and one that differs is STK_ORDER: stack scope. A full table answers busy and records nothing. At a member a block at or
below RETIRE is counted as a copy, one for a bank or slot that is not there is refused, any other is written into its slot as
identity 0x82 and its key recorded, unless ownership or an MPU region refuses the access (log entry 104); at the master a
block of no write in progress is refused. BLK_ACK busy keeps the request and BLK_RESEND sends it again; accepted or duplicate
ends it, and the last block of a host write ends the command with GOOD; refused ends it with LINK_LOST. PAGE_REL at an
admitted member is noted once with its tag and the blocks it names; a copy starts no second program. PAGE_DONE ends the
page's request and frees its shadows. A READ_REQ is kept until its die read answers it (log 19); SCAN is answered from a
member; SCAN_RSP adds its tags at the master, BREC its records. A block that answers a read of the master's own host ends
that request and goes to an engine, or waits in a bank. -/
def Obligations.RingBlocksAndPages : Prop :=
  ∀ (s : State),
    (∀ h (b : BlkHead), Delivered s h → Effect s (.blkHead h b) h fun u v =>
      v.stk.heads.find? (fun x => x.1 == h.src && x.2.1 == h.tag) = some (h.src, h.tag, b) ∧
      (∀ src tag, src ≠ h.src ∨ tag ≠ h.tag → v.stk.heads.find? (fun x => x.1 == src && x.2.1 == tag) =
        s.stk.heads.find? fun x => x.1 == src && x.2.1 == tag) ∧ { v with stk := { v.stk with heads := u.stk.heads } } = u) ∧
    (∀ h d, Delivered s h → s.stk.heads.any (fun x => x.1 == h.src && x.2.1 == h.tag) = false → Effect s (.blkData h d) h fun u v => v = u) ∧
    (∀ h d x, Delivered s h → s.stk.heads.find? (fun x => x.1 == h.src && x.2.1 == h.tag) = some x → h.resp = false →
      let b := x.2.2
      let old := s.stk.keys.find? fun k => k.order == b.order && k.plot == b.plot && k.lba == b.lba
      Effect s (.blkData h d) h fun u v =>
        let took := u.modStk fun k => { k with heads := k.heads.filter (· != x) }
        let counted := took.modStk fun k => { k with copies := min 0xFFFF (k.copies + 1) }
        (∀ k, old = some k → (k = BlkKey.of b d → OnlyLinks counted v) ∧
          (k ≠ BlkKey.of b d → (s.saf.recPending = none → v.stackScope = true) ∧ v.stk.copies = min 0xFFFF (s.stk.copies + 1) ∧ v.stk.keys = s.stk.keys)) ∧
        (old = none → (65536 ≤ s.stk.keys.length → s.isMaster = true ∨ s.stk.retire < b.order → OnlyLinks took v) ∧
          (s.isMaster = false → b.order ≤ s.stk.retire → OnlyLinks counted v) ∧
          (s.stk.keys.length < 65536 → s.isMaster = false →
            (s.stk.retire < b.order → s.stk.state ≠ 2 ∨ s.banks.length ≤ b.bank ∨ 62 < b.slot → OnlyLinks took v) ∧
            (∀ w ok, s.stk.retire < b.order → s.stk.state = 2 → b.bank < s.banks.length → b.slot ≤ 62 →
              writeStage took idStack (b.bank, b.slot) (d ++ envBytes b.env) = (w, ok) →
              (ok = false → OnlyLinks w v) ∧
              (ok = true → ⟨BlkKey.of b d, b.bank, b.slot, d, none, false⟩ ∈ v.stk.wide ∧ v.stk.keys = s.stk.keys ++ [BlkKey.of b d] ∧
                OnlyLinks (w.modStk fun k => { k with keys := v.stk.keys, wide := v.stk.wide }) v))) ∧
          (s.stk.keys.length < 65536 → s.isMaster = true →
            (∀ t ∈ s.fn.tasks, t.key.origin = .ring h.src → t.key.plot = b.plot → t.kind = .write → t.order = some b.order →
              t.aborted = true ∨ b.lba < t.lba ∨ t.lba + t.count ≤ b.lba) → OnlyLinks took v) ∧
          (∀ t, s.stk.keys.length < 65536 → s.isMaster = true →
            s.fn.tasks.find? (fun t => t.key.origin == .ring h.src && t.key.plot == b.plot && t.order == some b.order && t.kind == .write) = some t →
            t.aborted = false → t.lba ≤ b.lba → b.lba < t.lba + t.count →
              let f := (s.fieldOf b.plot).getD 0
              let e := versionOfJob t ⟨t.key, b.lba - t.lba, .encrypt, .hostWrite, b.lba, d, b.env⟩ b.env.stamp
              (stagingFree took f e = false → OnlyLinks took v) ∧
              (∀ w slots ok, stagingFree took f e = true → stageVersion took idStack f e (d ++ envBytes b.env) = (w, slots, ok) →
                (ok = false → OnlyLinks w v) ∧ (ok = true → v.stk.keys = s.stk.keys ++ [BlkKey.of b d]))))) ∧
    (∀ h d x, Delivered s h → s.stk.heads.find? (fun x => x.1 == h.src && x.2.1 == h.tag) = some x → h.resp = true →
      (s.isMaster = true → s.request? h.tag = none → Effect s (.blkData h d) h fun u v =>
        v = u.modStk fun k => { k with heads := k.heads.filter (· != x) }) ∧
      (s.isMaster = false → (∀ t ∈ s.fn.tasks, t.kind ≠ .read ∨ t.key.plot ≠ 64 + x.2.2.plot) → Effect s (.blkData h d) h fun u v =>
        v = u.modStk fun k => { k with heads := k.heads.filter (· != x) })) ∧
    (∀ h d x q key lba t, Delivered s h → s.stk.heads.find? (fun x => x.1 == h.src && x.2.1 == h.tag) = some x → h.resp = true →
      s.isMaster = true → s.request? h.tag = some q → q.why = .read key lba → s.task? key = some t → x.2.2.medium = false →
      Effect s (.blkData h d) h fun u v => v.request? h.tag = none ∧ v.plots = u.plots ∧
        (∀ p, x.2.2.check = true → key.origin = .port p → t.tr.isSome = true →
          v.resultOf key = some (.check (senseAt 4 0x44 0x00 lba), s.partialAnswer t)) ∧
        (∀ p, x.2.2.check = false → key.origin = .port p → noneAvailable s = false →
          ∃ t', v.task? key = some t' ∧ (lba - t.lba ∈ t'.received ∨ lba - t.lba ∈ t'.ready))) ∧
    (∀ h r, Delivered s h → s.request? h.tag = none ∨ r = 2 → Effect s (.blkAck h r) h fun u v => v = u) ∧
    (∀ h r q key t, Delivered s h → s.request? h.tag = some q → q.why = .block key none → r ≠ 2 → s.blockTask key = some t →
      Effect s (.blkAck h r) h fun u v => v.request? h.tag = none ∧ v.fields = u.fields ∧ v.plots = u.plots ∧
        let now := (key.lba - t.lba) :: t.accepted.filter (· != key.lba - t.lba)
        (r ≤ 1 → now.length < t.count → v.task? t.key = some { t with accepted := now }) ∧
        (∀ p, r ≤ 1 → t.count ≤ now.length → t.key.origin = .port p → t.tr.isSome = true → v.resultOf t.key = some (.good, [])) ∧
        (∀ p, 3 ≤ r → t.key.origin = .port p → t.tr.isSome = true → v.resultOf t.key = some (linkLost, []))) ∧
    (∀ h r q key a, Delivered s h → s.request? h.tag = some q → q.why = .block key (some a) → r ≠ 2 → Effect s (.blkAck h r) h fun _ v =>
      ∃ w, v = (wideCfgs s).foldl (fun a f => runField a f.inst) w ∧ w.request? h.tag = none ∧ (r ≤ 1 → w.stk.shadows = s.stk.shadows) ∧
        (3 ≤ r → w.stk.shadows = s.stk.shadows.filter fun x => !(x.pos == q.dest && x.page == a && x.lba == key.lba))) ∧
    (∀ tag, s.request? tag = none → exec (.blkResend tag) s = .next s) ∧
    (∀ tag q d key a, s.request? tag = some q → q.why = .block key a → q.second = some d →
      (routeTo s q.dest = none → exec (.blkResend tag) s = .next s) ∧
      (∀ l, routeTo s q.dest = some l → ∃ t, exec (.blkResend tag) s = .next t ∧ OnlyLinks s t ∧
        t.stk.link (Link.other l) = s.stk.link (Link.other l) ∧
        (1 < (s.stk.link l).credits → q.frame ∈ (t.stk.link l).sent ∧ d ∈ (t.stk.link l).sent))) ∧
    (∀ h a tg sl, Delivered s h → Effect s (.pageRel h a tg sl) h fun u v =>
      (s.isMaster = true ∨ s.stk.state ≠ 2 → v = u) ∧
      (s.isMaster = false → s.stk.state = 2 →
        (s.stk.pageSeen.any (·.1 == a) = true → OnlyLinks (u.modStk fun k => { k with copies := min 0xFFFF (k.copies + 1) }) v) ∧
        (s.stk.pageSeen.any (·.1 == a) = false → v.stk.pageSeen = s.stk.pageSeen ++ [(a, h.tag, none)] ∧
          v.stk.tags = (a, tg) :: s.stk.tags.filter (·.1 != a) ∧ v.stk.wide.length = s.stk.wide.length ∧
          (∀ w ∈ s.stk.wide, w.addr.isSome = true ∨ (w.bank, w.slot) ∉ sl → w ∈ v.stk.wide) ∧
          (∀ w ∈ s.stk.wide, w.addr = none → ∀ i, sl.findIdx? (· == (w.bank, w.slot)) = some i → { w with addr := some (a + i) } ∈ v.stk.wide) ∧
          v.fields = u.fields ∧ v.fn = u.fn))) ∧
    (∀ h a f, Delivered s h → s.isMaster = false → Effect s (.pageDone h a f) h fun u v => v = u) ∧
    (∀ h a f, Delivered s h → s.isMaster = true → Effect s (.pageDone h a f) h fun u v =>
      ((∀ q ∈ s.stk.requests, q.why ≠ .page a) → v = u) ∧ (s.fieldOfAddr a = none → v = u) ∧
      (∀ k q, s.fieldOfAddr a = some k → q ∈ s.stk.requests → q.why = .page a → ∃ w, v = runField w k ∧
        (∀ q ∈ w.stk.requests, q.why ≠ .page a) ∧ (∀ x ∈ w.stk.shadows, x.page ≠ a))) ∧
    (∀ h a n, Delivered s h → Effect s (.readReq h a n) h fun u v =>
      (s.isMaster = true ∨ s.stk.state ≠ 2 → v = u) ∧
      (s.isMaster = false → s.stk.state = 2 → let r : MemberRead := ⟨h.src, h.tag, a, n⟩
        v = serveReads (u.modStk fun k => { k with reads := if k.reads.contains r then k.reads else k.reads ++ [r] }))) ∧
    (∀ h rs, Delivered s h → Effect s (.brec h rs) h fun u v => (s.isMaster = false → v = u) ∧
      (s.isMaster = true → ∃ w, v = (wideCfgs s).foldl (fun a f => runField (updateHeadland a f.inst) f.inst) w ∧
        ∀ a r, rs = [(a, r)] → w.stk.brecs = (a, r) :: s.stk.brecs.filter (·.1 != a))) ∧
    (∀ h fc, Delivered s h → Effect s (.scan h fc) h fun u v => (s.isMaster = true ∨ s.stk.state ≠ 2 → v = u) ∧ OnlyLinks u v ∧
      (∀ l, s.isMaster = false → s.stk.state = 2 → (s.stk.tags.filter fun x => decide (fc ≤ x.2.fixcount)).length ≤ 102 →
        routeTo s h.src = some l → 0 < (u.stk.link l).credits → ∃ f, v.lastSent l = some f ∧ f.ty = 0x43 ∧ f.resp = true ∧ f.tag = h.tag ∧
          f.payload = scanBytes (s.stk.tags.filter fun x => decide (fc ≤ x.2.fixcount)))) ∧
    (∀ h ts, Delivered s h → Effect s (.scanRsp h ts) h fun u v => (s.isMaster = false → v = u) ∧
      (s.isMaster = true → v.request? h.tag = none ∧ (∀ x ∈ ts, x ∈ v.stk.tags) ∧
        (∀ x ∈ s.stk.tags, (∀ y ∈ ts, y.1 ≠ x.1) → x ∈ v.stk.tags) ∧
        { v with stk := { v.stk with requests := u.stk.requests, tags := u.stk.tags } } = u))

/-- A step runs the command at the front of the queue with the queue's rest; on an empty queue 1 µs passes. For every command and
state, a step of a state whose queue begins with the command is exec of the command on the state with the queue's rest. On an
empty queue the block idles, which is the model's choice (log 1): the reference counter advances by 1 µs while the reference
is present, endpoint buffers that nothing holds drain, what waited for the DRBG goes on, reads that wait are offered again
and the arbiter grants at most one request that is raised; where no read is in progress, nothing is raised and nothing waited
for the DRBG, nothing but the ports' USB state changes. -/
def Obligations.StepRunsTheFrontCommand : Prop :=
  ∀ (s : State),
    (∀ (c : Instr) rest, s.pending = c :: rest → step s = exec c { s with pending := rest }) ∧
    (s.pending = [] → ∃ t, step s = .next t ∧ t.timeUs = s.timeUs + (if s.pwr.refPresent then 1 else 0) ∧
      (s.sec.drbgReady = false ∨ (s.sec.rootWaits = false ∧
          ∀ n ∈ s.plotList, ∀ a b c rest, (s.plot n).checks ≠ ⟨a, .provision b, c, false⟩ :: rest) →
        (∀ x ∈ s.fn.tasks, x.kind ≠ .read ∧ x.kind ≠ .get ∧ x.kind ≠ .list) → s.stk.reads = [] →
        (∀ f ∈ s.fieldList, (s.field f).rebuilds = []) →
        s.arb.lockstep = true ∨ (∀ u : State, { u with portA := s.portA, portB := s.portB } = s → u.raised [] = []) →
        { t with timeUs := s.timeUs, portA := s.portA, portB := s.portB } = s ∧
          ∀ p ∈ s.member.portList, ∀ e ∈ (t.port p).eps, (s.port p).heldOut (s.pfn p) e = false → s.botHeld p e.k = false → e.used = 0) ∧
      (s.sec.drbgReady = true → t.sec.rootWaits = false))

/-- Every command in every state ends in a next state, and none changes the queue, the member or the stepping. For every command,
with any operands, and every state, exec answers a next state: no command of this block ends in a fault or a refusal. In that
state the queue of waiting commands is the one before, and the device is the same member with the same stepping. -/
def Obligations.EveryCommandCompletesAndLeavesTheQueue : Prop :=
  ∀ (c : Instr) (s : State), ∃ t, exec c s = .next t ∧ t.pending = s.pending ∧ t.member = s.member ∧ t.stepping = s.stepping

/-- Every step keeps the canonical memories, the 128 semaphores with their host owners, and the bound of the fault log. For every
state that satisfies Inv, a step answers a next state that satisfies Inv: the cells of the Granary and of bank space stay in
canonical form, so that equal contents are equal data; there are 128 semaphores, each free or held by port A, port B or the
stack; the fault log holds at most 256 records. Inv is stated for every state, not only for those a run from reset reaches. -/
def Obligations.StepKeepsTheInvariant : Prop :=
  ∀ (s : State), Inv s → ∃ t, step s = .next t ∧ Inv t

/-- The state right after reset satisfies Inv. Right after reset no cell is listed, all 128 semaphores are free and the fault log
is empty. -/
def Obligations.ResetSatisfiesTheInvariant : Prop :=
  Inv State.reset ∧ State.reset.grn.mem = [] ∧ State.reset.bankMem = [] ∧ (∀ o ∈ State.reset.sem.owner, o = idNone) ∧
    State.reset.saf.log = [] ∧ State.reset.pending = []
end

