-- ==== Sys2Proof/Laws/KeepsBase.lean ====
section
/-! SUPPORT. Every memory operation keeps the canonical form of the cells, and what it is for an operation to keep the
invariant: `Keeps s t` says that a step from `s` to `t` leaves the queue, the member and the stepping alone and carries `Inv`. -/

namespace Sys2Proof.Machine

theorem cellsFrom_mono {d : Byte} {lo hi : Nat} (hl : lo ≤ hi) : ∀ {m : List Host.Cell}, cellsFrom d hi m = true → cellsFrom d lo m = true
  | [], _ => rfl
  | c :: cs, h => by
    simp only [cellsFrom, Bool.and_eq_true, decide_eq_true_eq] at h ⊢
    exact ⟨⟨by omega, h.1.2⟩, h.2⟩

theorem cellsFrom_putCell {d : Byte} (a : Nat) (b : Byte) : ∀ {lo : Nat} {m : List Host.Cell}, lo ≤ a → cellsFrom d lo m = true →
    cellsFrom d lo (putCell d a b m) = true
  | lo, [], hl, _ => by
    by_cases hb : b = d <;> simp [putCell, cellsFrom, hb, hl]
  | lo, c :: cs, hl, h => by
    simp only [cellsFrom, Bool.and_eq_true, decide_eq_true_eq] at h
    unfold putCell
    split
    · have := cellsFrom_putCell a b (lo := c.1 + 1) (m := cs) (by omega) h.2
      simp [cellsFrom, h.1.1, this]; simpa using h.1.2
    · split
      · split
        · exact cellsFrom_mono (by omega) h.2
        · rename_i h1 h2 h3
          subst h2
          simp [cellsFrom, h3, h.2]; omega
      · split
        · simp only [cellsFrom, Bool.and_eq_true, decide_eq_true_eq]; exact h
        · rename_i h1 h2 h3
          simp only [cellsFrom, Bool.and_eq_true, decide_eq_true_eq]
          refine ⟨⟨hl, by simpa using h3⟩, ⟨by omega, h.1.2⟩, h.2⟩

theorem cellsOk_putCell {d : Byte} {m : List Host.Cell} (a : Nat) (b : Byte) (h : cellsOk d m = true) : cellsOk d (putCell d a b m) = true :=
  cellsFrom_putCell a b (Nat.zero_le _) h

theorem cellsOk_putCells {d : Byte} : ∀ (bs : List Byte) (a : Nat) {m : List Host.Cell}, cellsOk d m = true → cellsOk d (putCells d a bs m) = true
  | [], _, _, h => h
  | b :: bs, a, _, h => cellsOk_putCells bs (a + 1) (cellsOk_putCell a b h)

theorem cellsFrom_filter {d : Byte} (p : Host.Cell → Bool) : ∀ {m : List Host.Cell} {lo : Nat}, cellsFrom d lo m = true → cellsFrom d lo (m.filter p) = true
  | [], _, _ => rfl
  | c :: cs, lo, h => by
    simp only [cellsFrom, Bool.and_eq_true, decide_eq_true_eq] at h
    rw [List.filter_cons]
    have := cellsFrom_filter p h.2
    split
    · simp only [cellsFrom, Bool.and_eq_true, decide_eq_true_eq]
      exact ⟨h.1, this⟩
    · exact cellsFrom_mono (by omega) this

theorem cellsOk_dropRange {d : Byte} {m : List Host.Cell} (lo hi : Nat) (h : cellsOk d m = true) : cellsOk d (dropRange lo hi m) = true :=
  cellsFrom_filter _ h

/-- What a command never changes, and the invariant it keeps. -/
structure Keeps (s t : State) : Prop where
  pending : t.pending = s.pending
  member : t.member = s.member
  stepping : t.stepping = s.stepping
  inv : Inv s → Inv t

theorem Keeps.refl (s : State) : Keeps s s := ⟨rfl, rfl, rfl, id⟩

section
variable {s₀ s : State}

/-- The parts of a state that `Keeps` speaks of. -/
theorem keeps_same (h : Keeps s₀ s) (t : State) (h1 : t.pending = s.pending) (h2 : t.member = s.member) (h3 : t.stepping = s.stepping)
    (h4 : t.grn.mem = s.grn.mem) (h5 : t.bankMem = s.bankMem) (h6 : t.sem.owner = s.sem.owner) (h7 : t.saf.log = s.saf.log) : Keeps s₀ t :=
  ⟨h1.trans h.pending, h2.trans h.member, h3.trans h.stepping, fun i => by
    obtain ⟨a, b, c, d, e⟩ := h.inv i
    exact ⟨h4 ▸ a, h5 ▸ b, h6 ▸ c, h6 ▸ d, h7 ▸ e⟩⟩

theorem keeps_ite {c : Prop} [Decidable c] {a b : State} (ha : Keeps s₀ a) (hb : Keeps s₀ b) : Keeps s₀ (if c then a else b) := by
  split <;> assumption

theorem keeps_foldl {α : Type} {f : State → α → State} (hf : ∀ t x, Keeps s₀ t → Keeps s₀ (f t x)) :
    ∀ {l : List α} {a : State}, Keeps s₀ a → Keeps s₀ (l.foldl f a)
  | [], _, h => h
  | x :: xs, a, h => keeps_foldl hf (l := xs) (hf a x h)

theorem keeps_foldl_fst {α β : Type} {f : State × β → α → State × β} (hf : ∀ p x, Keeps s₀ p.1 → Keeps s₀ (f p x).1) :
    ∀ {l : List α} {a : State × β}, Keeps s₀ a.1 → Keeps s₀ (l.foldl f a).1
  | [], _, h => h
  | x :: xs, a, h => keeps_foldl_fst hf (l := xs) (hf a x h)

theorem keeps_foldl_snd {α β : Type} {f : β × State → α → β × State} (hf : ∀ p x, Keeps s₀ p.2 → Keeps s₀ (f p x).2) :
    ∀ {l : List α} {a : β × State}, Keeps s₀ a.2 → Keeps s₀ (l.foldl f a).2
  | [], _, h => h
  | x :: xs, a, h => keeps_foldl_snd hf (l := xs) (hf a x h)

theorem keeps_foldl_thd {α β γ : Type} {f : β × γ × State → α → β × γ × State} (hf : ∀ p x, Keeps s₀ p.2.2 → Keeps s₀ (f p x).2.2) :
    ∀ {l : List α} {a : β × γ × State}, Keeps s₀ a.2.2 → Keeps s₀ (l.foldl f a).2.2
  | [], _, h => h
  | x :: xs, a, h => keeps_foldl_thd hf (l := xs) (hf a x h)

theorem keeps_of_fst {α : Type} {p : State × α} {t : State} {a : α} (e : p = (t, a)) (h : Keeps s₀ p.1) : Keeps s₀ t := by subst e; exact h
theorem keeps_of_snd {α : Type} {p : α × State} {t : State} {a : α} (e : p = (a, t)) (h : Keeps s₀ p.2) : Keeps s₀ t := by subst e; exact h
theorem keeps_of_thd {α β : Type} {p : α × β × State} {t : State} {a : α} {b : β} (e : p = (a, b, t)) (h : Keeps s₀ p.2.2) : Keeps s₀ t := by
  subst e; exact h
theorem keeps_of_fst3 {α β : Type} {p : State × α × β} {t : State} {a : α} {b : β} (e : p = (t, a, b)) (h : Keeps s₀ p.1) : Keeps s₀ t := by
  subst e; exact h

theorem keeps_modPort (h : Keeps s₀ s) (p : Port) (f) : Keeps s₀ (s.modPort p f) := by cases p <;> exact keeps_same h _ rfl rfl rfl rfl rfl rfl rfl
theorem keeps_modPfn (h : Keeps s₀ s) (p : Port) (f) : Keeps s₀ (s.modPfn p f) := by cases p <;> exact keeps_same h _ rfl rfl rfl rfl rfl rfl rfl
theorem keeps_modPlot (h : Keeps s₀ s) (n f) : Keeps s₀ (s.modPlot n f) := keeps_same h _ rfl rfl rfl rfl rfl rfl rfl
theorem keeps_modField (h : Keeps s₀ s) (n f) : Keeps s₀ (s.modField n f) := keeps_same h _ rfl rfl rfl rfl rfl rfl rfl
theorem keeps_modChan (h : Keeps s₀ s) (n f) : Keeps s₀ (s.modChan n f) := keeps_same h _ rfl rfl rfl rfl rfl rfl rfl
theorem keeps_modEngine (h : Keeps s₀ s) (n f) : Keeps s₀ (s.modEngine n f) := keeps_same h _ rfl rfl rfl rfl rfl rfl rfl
theorem keeps_modBank (h : Keeps s₀ s) (n f) : Keeps s₀ (s.modBank n f) := keeps_same h _ rfl rfl rfl rfl rfl rfl rfl
theorem keeps_modArb (h : Keeps s₀ s) (f) : Keeps s₀ (s.modArb f) := keeps_same h _ rfl rfl rfl rfl rfl rfl rfl
theorem keeps_modLay (h : Keeps s₀ s) (f) : Keeps s₀ (s.modLay f) := keeps_same h _ rfl rfl rfl rfl rfl rfl rfl
theorem keeps_modPwr (h : Keeps s₀ s) (f) : Keeps s₀ (s.modPwr f) := keeps_same h _ rfl rfl rfl rfl rfl rfl rfl
theorem keeps_modFn (h : Keeps s₀ s) (f) : Keeps s₀ (s.modFn f) := keeps_same h _ rfl rfl rfl rfl rfl rfl rfl
theorem keeps_modSec (h : Keeps s₀ s) (f) : Keeps s₀ (s.modSec f) := keeps_same h _ rfl rfl rfl rfl rfl rfl rfl
theorem keeps_modHold (h : Keeps s₀ s) (f) : Keeps s₀ (s.modHold f) := keeps_same h _ rfl rfl rfl rfl rfl rfl rfl
theorem keeps_modMpu (h : Keeps s₀ s) (f) : Keeps s₀ (s.modMpu f) := keeps_same h _ rfl rfl rfl rfl rfl rfl rfl
theorem keeps_modStk (h : Keeps s₀ s) (f) : Keeps s₀ (s.modStk f) := keeps_same h _ rfl rfl rfl rfl rfl rfl rfl
theorem keeps_modJtag (h : Keeps s₀ s) (f) : Keeps s₀ (s.modJtag f) := keeps_same h _ rfl rfl rfl rfl rfl rfl rfl
theorem keeps_modSaf (h : Keeps s₀ s) {f} (hf : ∀ q, (f q).log = q.log) : Keeps s₀ (s.modSaf f) := keeps_same h _ rfl rfl rfl rfl rfl rfl (hf _)
theorem keeps_modGrn (h : Keeps s₀ s) {f} (hf : ∀ q, (f q).mem = q.mem) : Keeps s₀ (s.modGrn f) := keeps_same h _ rfl rfl rfl (hf _) rfl rfl rfl
theorem keeps_modSem (h : Keeps s₀ s) {f} (hf : ∀ q, (f q).owner = q.owner) : Keeps s₀ (s.modSem f) := keeps_same h _ rfl rfl rfl rfl rfl (hf _) rfl
theorem keeps_grnMem (h : Keeps s₀ s) {f} (hf : ∀ q, cellsOk 0xFF q.mem = true → cellsOk 0xFF (f q).mem = true) : Keeps s₀ (s.modGrn f) :=
  ⟨h.pending, h.member, h.stepping, fun i => ⟨hf _ (h.inv i).1, (h.inv i).2⟩⟩

theorem keeps_mk (h : Keeps s₀ s) {timeUs free snaps replies arb engines lay pwr portA portB fn plots sec fields wall hold chans banks bankBad wins mpu stk jtag}
    {saf : SafState} {grn : GrnState} {sem : SemState} {bankMem}
    (h4 : grn.mem = s.grn.mem) (h5 : bankMem = s.bankMem) (h6 : sem.owner = s.sem.owner) (h7 : saf.log = s.saf.log) :
    Keeps s₀ { s with timeUs := timeUs, free := free, snaps := snaps, replies := replies, arb := arb, engines := engines, saf := saf, lay := lay, pwr := pwr,
                      portA := portA, portB := portB, fn := fn, sem := sem, plots := plots, sec := sec, fields := fields, wall := wall, hold := hold,
                      chans := chans, grn := grn, banks := banks, bankMem := bankMem, bankBad := bankBad, wins := wins, mpu := mpu, stk := stk, jtag := jtag } :=
  keeps_same h _ rfl rfl rfl h4 h5 h6 h7
end
end Sys2Proof.Machine
end

