-- ==== Sys2Proof/Laws/KeepsOps.lean ====
section
/-! SUPPORT. What the operations of Machine/Ops.lean keep: the queue, the member, the stepping and the invariant `Inv`. -/

namespace Sys2Proof.Machine

set_option maxRecDepth 4000


theorem keeps_modTasks {s₀ : State} {s : State} {f : List Task → List Task} (k0 : Keeps s₀ s)  : Keeps s₀ (State.modTasks s f) := by
  unfold State.modTasks
  repeat' (first
    | (with_reducible exact k0) | (with_reducible apply keeps_modFn))

theorem keeps_drawBool {s₀ : State} {s : State} (k0 : Keeps s₀ s)  : Keeps s₀ (State.drawBool s).2 := by
  unfold State.drawBool
  repeat' (first
    | (with_reducible exact k0) | (with_reducible apply keeps_mk (s := _) <;> first | rfl | skip))

theorem keeps_drawNat {s₀ : State} {s : State} (k0 : Keeps s₀ s)  : Keeps s₀ (State.drawNat s).2 := by
  unfold State.drawNat
  repeat' (first
    | (with_reducible exact k0) | (with_reducible apply keeps_mk (s := _) <;> first | rfl | skip))

theorem keeps_drawBytes {s₀ : State} {s : State} {n : Nat} (k0 : Keeps s₀ s)  : Keeps s₀ (State.drawBytes s n).2 := by
  unfold State.drawBytes
  repeat' (first
    | (with_reducible exact k0) | (with_reducible apply keeps_mk (s := _) <;> first | rfl | skip))

theorem keeps_queueEvent {s₀ : State} {s : State} {p : Port} {kind : Nat} {inst : Nat} {d0 : Nat} {d1 : Nat} (k0 : Keeps s₀ s)  : Keeps s₀ (queueEvent s p kind inst d0 d1) := by
  unfold queueEvent
  repeat' (first
    | (with_reducible exact k0) | (with_reducible apply keeps_modPfn) | (with_reducible apply keeps_ite))

theorem keeps_queueEvents {s₀ : State} {s : State} {kind : Nat} {inst : Nat} {d0 : Nat} {d1 : Nat} (k0 : Keeps s₀ s)  : Keeps s₀ (queueEvents s kind inst d0 d1) := by
  unfold queueEvents
  repeat' (first
    | (with_reducible assumption) | intro _ | (with_reducible apply keeps_queueEvent) | (with_reducible apply keeps_foldl))

theorem keeps_wakeTrigger {s₀ : State} {s : State} {p : Port} {bit : Nat} (k0 : Keeps s₀ s)  : Keeps s₀ (wakeTrigger s p bit) := by
  unfold wakeTrigger
  repeat' (first
    | (with_reducible exact k0) | (with_reducible apply keeps_modPort) | (with_reducible apply keeps_ite))

theorem keeps_wakeTriggers {s₀ : State} {s : State} {bit : Nat} (k0 : Keeps s₀ s)  : Keeps s₀ (wakeTriggers s bit) := by
  unfold wakeTriggers
  repeat' (first
    | (with_reducible assumption) | intro _ | (with_reducible apply keeps_wakeTrigger) | (with_reducible apply keeps_foldl))

theorem countErases_mem (g : GrnState) (n) : (countErases g n).mem = g.mem := by unfold countErases; dsimp only; split <;> rfl

theorem eraseReleased_mem (g : GrnState) (n) : (eraseReleased g n).mem = g.mem := by unfold eraseReleased; dsimp only; rw [countErases_mem]

theorem batchErase_mem (g : GrnState) : (batchErase g).mem = g.mem := eraseReleased_mem g 16

theorem startBatch_mem (b : Bool) (g : GrnState) : (startBatch b g).mem = g.mem := by unfold startBatch; split <;> rfl

theorem takeSector_mem (g : GrnState) : (takeSector g).mem = g.mem := by
  unfold takeSector; dsimp only; split
  · exact batchErase_mem g
  · rfl

theorem appendEntry_mem (g : GrnState) (a b : Nat) : (appendEntry g a b).mem = g.mem := by
  unfold appendEntry; dsimp only
  repeat' (first | rfl | exact takeSector_mem g | split)

theorem keeps_structWrite {s₀ : State} {s : State} {struct : Nat} (h : Keeps s₀ s) : Keeps s₀ (structWrite s struct) :=
  keeps_modGrn h fun q => (startBatch_mem _ _).trans ((appendEntry_mem _ _ _).trans (appendEntry_mem _ _ _))

theorem keeps_addLog {s₀ : State} {s : State} (r : LogRec) (n : Nat) (h : Keeps s₀ s) :
    Keeps s₀ { s with saf := { s.saf with log := (r :: s.saf.log).take 256, logHead := n } } :=
  ⟨h.pending, h.member, h.stepping, fun i => by
    obtain ⟨a, b, c, d, _⟩ := h.inv i
    exact ⟨a, b, c, d, by simp only [List.length_take]; omega⟩⟩

theorem keeps_addFault {s₀ : State} {s : State} (r : LogRec) (h : Keeps s₀ s) :
    Keeps s₀ { s with grn := { s.grn with faults := (r :: s.grn.faults).take 64 } } := keeps_same h _ rfl rfl rfl rfl rfl rfl rfl

theorem keeps_writeLog {s₀ : State} {s : State} {r : LogRec} (h : Keeps s₀ s) : Keeps s₀ (writeLog s r) := by
  unfold writeLog
  dsimp only
  repeat' (first
    | with_reducible exact keeps_addLog _ _ h
    | with_reducible apply keeps_structWrite
    | with_reducible apply keeps_wakeTriggers
    | with_reducible apply keeps_queueEvents
    | with_reducible apply keeps_addFault
    | exact keeps_same (keeps_addLog _ _ h) _ rfl rfl rfl rfl rfl rfl rfl
    | split)

theorem keeps_deferFault {s₀ : State} {s : State} {r : LogRec} {enters : Bool} {who : Option (Nat × Nat)} (k0 : Keeps s₀ s)  : Keeps s₀ (deferFault s r enters who) := by
  unfold deferFault
  repeat' (first
    | (with_reducible exact k0) | (with_reducible apply keeps_mk (s := _) <;> first | rfl | skip))

theorem keeps_logFault {s₀ : State} {s : State} {cause : Nat} {scope : Nat} {inst : Nat} {latch : Bool} {wider : Bool} {strikes : Nat} {island : Nat} {requester : Nat} {d0 : Word} {d1 : Word} (k0 : Keeps s₀ s)  : Keeps s₀ (logFault s cause scope inst latch wider strikes island requester d0 d1) := by
  unfold logFault
  repeat' (first
    | (with_reducible exact k0) | (with_reducible apply keeps_writeLog) | (with_reducible apply keeps_deferFault)
    | (with_reducible apply keeps_ite))

theorem keeps_logRsvd {s₀ : State} {s : State} {id : Identity} {addr : Nat} {write : Bool} (k0 : Keeps s₀ s)  : Keeps s₀ (logRsvd s id addr write) := by
  unfold logRsvd
  repeat' (first
    | (with_reducible exact k0) | (with_reducible apply keeps_logFault))

theorem keeps_drawTicket {s₀ s t : State} {k n : Nat} (h : Keeps s₀ s) (e : drawTicket s k = some (n, t)) : Keeps s₀ t := by
  unfold drawTicket at e
  repeat' (split at e)
  all_goals first
    | (cases e; done)
    | (simp only [Option.some.injEq, Prod.mk.injEq] at e; obtain ⟨_, rfl⟩ := e; exact keeps_same h _ rfl rfl rfl rfl rfl rfl rfl)

theorem keeps_countTsf {s₀ : State} {s : State} {k : Nat} (k0 : Keeps s₀ s)  : Keeps s₀ (countTsf s k) := by
  unfold countTsf
  repeat' (first
    | (with_reducible exact k0) | (with_reducible apply keeps_ite)
    | (with_reducible apply keeps_mk (s := _) <;> first | rfl | skip))

theorem keeps_noteGrant {s₀ : State} {s : State} {g : Grant} (k0 : Keeps s₀ s)  : Keeps s₀ (noteGrant s g) := by
  unfold noteGrant
  repeat' (first
    | (with_reducible exact k0) | (with_reducible apply keeps_modArb))

theorem keeps_releaseTicket {s₀ : State} {s : State} {id : Nat} (k0 : Keeps s₀ s)  : Keeps s₀ (releaseTicket s id) := by
  unfold releaseTicket
  repeat' (first
    | (with_reducible exact k0) | (with_reducible apply keeps_mk (s := _) <;> first | rfl | skip))

theorem keeps_setPlotMode {s₀ : State} {s : State} {n : Nat} {m : PlotMode} {reason : Nat} (k0 : Keeps s₀ s)  : Keeps s₀ (setPlotMode s n m reason) := by
  unfold setPlotMode
  repeat' (first
    | (with_reducible exact k0) | (with_reducible apply keeps_modPlot) | (with_reducible apply keeps_queueEvents)
    | (with_reducible apply keeps_ite))

theorem keeps_demotePlots {s₀ : State} {s : State} {plots : List Nat} {cause : Nat} (k0 : Keeps s₀ s)  : Keeps s₀ (demotePlots s plots cause) := by
  unfold demotePlots
  repeat' (first
    | (with_reducible assumption) | intro _ | (with_reducible apply keeps_modPlot) | (with_reducible apply keeps_setPlotMode)
    | (with_reducible apply keeps_ite) | (with_reducible apply keeps_foldl))

theorem keeps_issueOrder {s₀ s t : State} {n : Nat} (h : Keeps s₀ s) (e : issueOrder s = some (n, t)) : Keeps s₀ t := by
  unfold issueOrder at e
  dsimp only at e
  repeat' (split at e)
  all_goals first
    | (cases e; done)
    | (simp only [Option.some.injEq, Prod.mk.injEq] at e; obtain ⟨_, rfl⟩ := e; exact keeps_same h _ rfl rfl rfl rfl rfl rfl rfl)
    | (simp only [Option.some.injEq, Prod.mk.injEq] at e; obtain ⟨_, rfl⟩ := e
       exact keeps_demotePlots (keeps_same h _ rfl rfl rfl rfl rfl rfl rfl))

theorem keeps_releaseSems {s₀ : State} {s : State} {id : Identity} {cause : Nat} (h : Keeps s₀ s) : Keeps s₀ (releaseSems s id cause) := by
  unfold releaseSems
  dsimp only
  split
  · exact h
  · refine ⟨h.pending, h.member, h.stepping, fun i => ?_⟩
    obtain ⟨a, b, c, d, e⟩ := h.inv i
    refine ⟨a, b, ?_, ?_, e⟩
    · simpa using c
    · intro o ho
      obtain ⟨x, hx, rfl⟩ := List.mem_map.mp ho
      split
      · exact Or.inl rfl
      · exact d x hx

theorem keeps_countLocked {s₀ : State} {s : State} (k0 : Keeps s₀ s)  : Keeps s₀ (countLocked s) := by
  unfold countLocked
  repeat' (first
    | (with_reducible exact k0) | (with_reducible apply keeps_mk (s := _) <;> first | rfl | skip))

theorem keeps_modEmb {s₀ : State} {s : State} {p : Port} {k : Nat} {f : EmbPort → EmbPort} (k0 : Keeps s₀ s)  : Keeps s₀ (modEmb s p k f) := by
  unfold modEmb
  repeat' (first
    | (with_reducible exact k0) | (with_reducible apply keeps_modPort))

theorem keeps_addAttention {s₀ : State} {s : State} {p : Port} {n : Nat} (k0 : Keeps s₀ s)  : Keeps s₀ (addAttention s p n) := by
  unfold addAttention
  repeat' (first
    | (with_reducible exact k0) | (with_reducible apply keeps_mk (s := _) <;> first | rfl | skip))

theorem keeps_connectEmb {s₀ : State} {s : State} {p : Port} {k : Nat} {n : Nat} (k0 : Keeps s₀ s)  : Keeps s₀ (connectEmb s p k n) := by
  unfold connectEmb
  repeat' (first
    | (with_reducible exact k0) | (with_reducible apply keeps_modEmb) | (with_reducible apply keeps_addAttention)
    | (with_reducible apply keeps_ite))

theorem keeps_attachPlot {s₀ : State} {s : State} {p : Port} {n : Nat} {fixed : Nat} (k0 : Keeps s₀ s)  : Keeps s₀ (attachPlot s p n fixed) := by
  unfold attachPlot
  repeat' (first
    | (with_reducible exact k0) | (with_reducible apply keeps_modEmb) | (with_reducible apply keeps_connectEmb) | split)

theorem keeps_orphanChecks {s₀ : State} {s : State} {p : Port} (k0 : Keeps s₀ s)  : Keeps s₀ (orphanChecks s p) := by
  unfold orphanChecks
  repeat' (first
    | (with_reducible exact k0) | (with_reducible apply keeps_mk (s := _) <;> first | rfl | skip))

theorem keeps_dropCapsule {s₀ : State} {s : State} {p : Port} {fn : CapsuleFn} (k0 : Keeps s₀ s)  : Keeps s₀ (dropCapsule s p fn) := by
  unfold dropCapsule
  repeat' (first
    | (with_reducible exact k0) | (with_reducible apply keeps_modPfn) | (with_reducible apply keeps_orphanChecks)
    | (with_reducible apply keeps_ite))

theorem keeps_detachPlot {s₀ : State} {s : State} {n : Nat} (k0 : Keeps s₀ s)  : Keeps s₀ (detachPlot s n) := by
  unfold detachPlot
  repeat' (first
    | (with_reducible assumption) | intro _ | (with_reducible apply keeps_modPort) | (with_reducible apply keeps_dropCapsule)
    | (with_reducible apply keeps_foldl) | split)

theorem keeps_modLink {s₀ : State} {s : State} {l : Link} {f : LinkState → LinkState} (k0 : Keeps s₀ s)  : Keeps s₀ (modLink s l f) := by
  unfold modLink
  repeat' (first
    | (with_reducible exact k0) | (with_reducible apply keeps_modStk))

theorem keeps_sendOn {s₀ : State} {s : State} {l : Link} {f : OutFrame} (k0 : Keeps s₀ s)  : Keeps s₀ (sendOn s l f) := by
  unfold sendOn
  repeat' (first
    | (with_reducible exact k0) | (with_reducible apply keeps_modLink))

theorem keeps_storeIoRsp {s₀ : State} {s : State} {pos : Nat} {tag : Nat} {payload : List Byte} (k0 : Keeps s₀ s)  : Keeps s₀ (storeIoRsp s pos tag payload) := by
  unfold storeIoRsp
  repeat' (first
    | (with_reducible exact k0) | (with_reducible apply keeps_modStk))

theorem keeps_ringSend {s₀ : State} {s : State} {ty : Nat} {dest : Nat} {tag : Nat} {resp : Bool} {payload : List Byte} (k0 : Keeps s₀ s)  : Keeps s₀ (ringSend s ty dest tag resp payload) := by
  unfold ringSend
  repeat' (first
    | (with_reducible exact k0) | (with_reducible apply keeps_sendOn) | (with_reducible apply keeps_storeIoRsp) | dsimp only
    | split)

theorem keeps_ringBroadcast {s₀ : State} {s : State} {ty : Nat} {tag : Nat} {payload : List Byte} (k0 : Keeps s₀ s)  : Keeps s₀ (ringBroadcast s ty tag payload) := by
  unfold ringBroadcast
  repeat' (first
    | (with_reducible exact k0) | (with_reducible apply keeps_sendOn) | (with_reducible apply keeps_ite))

theorem keeps_ringRequest {s₀ : State} {s : State} {ty : Nat} {dest : Nat} {payload : List Byte} {second : Option (Nat × List Byte)} {why : ReqWhy} (k0 : Keeps s₀ s)  : Keeps s₀ (ringRequest s ty dest payload second why).1 := by
  unfold ringRequest
  repeat' (first
    | (with_reducible exact k0) | (with_reducible apply keeps_modStk) | (with_reducible apply keeps_sendOn) | split)

theorem keeps_sendPair {s₀ : State} {s : State} {dest : Nat} {tag : Nat} {order : Nat} {lba : Nat} {flags : Nat} {plot : Nat} {bank : Nat} {env : Envelope} {data : List Byte} (k0 : Keeps s₀ s)  : Keeps s₀ (sendPair s dest tag order lba flags plot bank env data) := by
  unfold sendPair
  repeat' (first
    | (with_reducible exact k0) | (with_reducible apply keeps_ringSend))

theorem keeps_clearMembers {s₀ : State} {s : State} {n : Nat} (k0 : Keeps s₀ s)  : Keeps s₀ (clearMembers s n) := by
  unfold clearMembers
  repeat' (first
    | (with_reducible assumption) | intro _ | (with_reducible apply keeps_ringRequest) | (with_reducible apply keeps_ite)
    | (with_reducible apply keeps_foldl))

theorem keeps_abortTasks {s₀ : State} {s : State} {sel : Task → Bool} (k0 : Keeps s₀ s)  : Keeps s₀ (abortTasks s sel) := by
  unfold abortTasks
  repeat' (first
    | (with_reducible exact k0) | (with_reducible apply keeps_modTasks)
    | (with_reducible apply keeps_mk (s := _) <;> first | rfl | skip))

theorem keeps_settleTasks {s₀ : State} {s : State} (k0 : Keeps s₀ s)  : Keeps s₀ (settleTasks s) := by
  unfold settleTasks
  repeat' (first
    | (with_reducible assumption) | intro _ | (with_reducible apply keeps_modTasks) | (with_reducible apply keeps_releaseTicket)
    | (with_reducible apply keeps_foldl) | split)

theorem keeps_clearKeys {s₀ : State} {s : State} {plots : List Nat} (k0 : Keeps s₀ s)  : Keeps s₀ (clearKeys s plots) := by
  unfold clearKeys
  repeat' (first
    | (with_reducible assumption) | intro _ | (with_reducible apply keeps_modPlot) | (with_reducible apply keeps_foldl)
    | (with_reducible apply keeps_mk (s := _) <;> first | rfl | skip))

theorem keeps_dropRekey {s₀ : State} {s : State} {n : Nat} (k0 : Keeps s₀ s)  : Keeps s₀ (dropRekey s n) := by
  unfold dropRekey
  repeat' (first
    | (with_reducible exact k0) | (with_reducible apply keeps_mk (s := _) <;> first | rfl | skip))

theorem keeps_closePlot {s₀ : State} {s : State} {n : Nat} {m : PlotMode} {reason : Nat} (k0 : Keeps s₀ s)  : Keeps s₀ (closePlot s n m reason) := by
  unfold closePlot
  repeat' (first
    | (with_reducible exact k0) | (with_reducible apply keeps_modPlot) | (with_reducible apply keeps_setPlotMode)
    | (with_reducible apply keeps_detachPlot) | (with_reducible apply keeps_clearMembers)
    | (with_reducible apply keeps_abortTasks) | (with_reducible apply keeps_settleTasks) | (with_reducible apply keeps_clearKeys)
    | (with_reducible apply keeps_dropRekey))

theorem keeps_dropRemote {s₀ : State} {s : State} (k0 : Keeps s₀ s)  : Keeps s₀ (dropRemote s) := by
  unfold dropRemote
  repeat' (first
    | (with_reducible assumption) | intro _ | (with_reducible apply keeps_modStk) | (with_reducible apply keeps_detachPlot)
    | (with_reducible apply keeps_abortTasks) | (with_reducible apply keeps_settleTasks) | (with_reducible apply keeps_foldl))

end Sys2Proof.Machine
end

