-- ==== Sys2Proof/Laws/KeepsReply.lean ====
section
/-! SUPPORT. What the operations of Machine/Reply.lean keep: the queue, the member, the stepping and the invariant `Inv`. -/

namespace Sys2Proof.Machine

set_option maxRecDepth 4000


theorem keeps_modEp {s₀ : State} {s : State} {p : Port} {k : Nat} {ep : Nat} {f : EpState → EpState} (k0 : Keeps s₀ s)  : Keeps s₀ (modEp s p k ep f) := by
  unfold modEp
  repeat' (first
    | (with_reducible exact k0) | (with_reducible apply keeps_modPort))

theorem keeps_sendIn {s₀ : State} {s : State} {key : TaskKey} {bytes : Nat} (k0 : Keeps s₀ s)  : Keeps s₀ (sendIn s key bytes) := by
  unfold sendIn
  repeat' (first
    | (with_reducible exact k0) | (with_reducible apply keeps_modEp) | (with_reducible apply keeps_ite) | split)

theorem keeps_sendScsi {s₀ : State} {s : State} {key : TaskKey} {st : ScsiStatus} {data : List Byte} (k0 : Keeps s₀ s)  : Keeps s₀ (sendScsi s key st data) := by
  unfold sendScsi
  repeat' (first
    | (with_reducible exact k0) | (with_reducible apply keeps_modFn) | (with_reducible apply keeps_sendIn))

theorem keeps_respond {s₀ : State} {s : State} {p : Port} {fn : CapsuleFn} {r : Response} (k0 : Keeps s₀ s)  : Keeps s₀ (respond s p fn r) := by
  unfold respond
  repeat' (first
    | (with_reducible exact k0) | (with_reducible apply keeps_modPfn))

theorem keeps_respondStatus {s₀ : State} {s : State} {p : Port} {fn : CapsuleFn} {opcode : Nat} {fua : Bool} {tag : Nat} {status : Nat} {detail : Nat} (k0 : Keeps s₀ s)  : Keeps s₀ (respondStatus s p fn opcode fua tag status detail) := by
  unfold respondStatus
  repeat' (first
    | (with_reducible exact k0) | (with_reducible apply keeps_respond))

theorem keeps_answerVault {s₀ : State} {s : State} {a : Asker} {opcode : Nat} {status : Nat} {detail : Nat} {payload : List Byte} (k0 : Keeps s₀ s)  : Keeps s₀ (answerVault s a opcode status detail payload) := by
  unfold answerVault
  repeat' (first
    | (with_reducible exact k0) | (with_reducible apply keeps_ringSend) | (with_reducible apply keeps_respond) | split)

theorem keeps_answerCapsule {s₀ : State} {s : State} {t : Task} {status : Nat} {detail : Nat} {payload : List Byte} (k0 : Keeps s₀ s)  : Keeps s₀ (answerCapsule s t status detail payload) := by
  unfold answerCapsule
  repeat' (first
    | (with_reducible exact k0) | (with_reducible apply keeps_modTasks) | (with_reducible apply keeps_respond) | split)

theorem keeps_failPair {s₀ : State} {s : State} {pos : Nat} {t : Task} {st : ScsiStatus} (k0 : Keeps s₀ s)  : Keeps s₀ (failPair s pos t st) := by
  unfold failPair
  repeat' (first
    | (with_reducible exact k0) | (with_reducible apply keeps_sendPair))

theorem keeps_answerTask {s₀ : State} {s : State} {t : Task} {st : ScsiStatus} {data : List Byte} (k0 : Keeps s₀ s)  : Keeps s₀ (answerTask s t st data) := by
  unfold answerTask
  repeat' (first
    | (with_reducible exact k0) | (with_reducible apply keeps_modTasks) | (with_reducible apply keeps_ringSend)
    | (with_reducible apply keeps_sendScsi) | (with_reducible apply keeps_respond) | (with_reducible apply keeps_failPair) | split)

end Sys2Proof.Machine
end

