-- ==== Sys2Proof/Laws/KeepsOperands.lean ====
section
/-! SUPPORT. What the operations of Machine/Operands.lean keep: the queue, the member, the stepping and the invariant `Inv`. -/

namespace Sys2Proof.Machine

set_option maxRecDepth 4000


theorem keeps_recordVio {s₀ : State} {s : State} {id : Identity} {space : Bool} {addr : Nat} {k : AccessKind} {byOwner : Bool} {part : Bool} {region : Nat} {length : Nat} (k0 : Keeps s₀ s)  : Keeps s₀ (recordVio s id space addr k byOwner part region length) := by
  unfold recordVio
  repeat' (first
    | (with_reducible exact k0) | (with_reducible apply keeps_modMpu))

theorem keeps_noteAccess {s₀ : State} {s : State} {id : Identity} (k0 : Keeps s₀ s)  : Keeps s₀ (noteAccess s id) := by
  unfold noteAccess
  repeat' (first
    | (with_reducible exact k0) | (with_reducible apply keeps_noteGrant) | split)

theorem keeps_csCheck {s₀ : State} {s : State} {id : Identity} {addr : Nat} {k : AccessKind} (k0 : Keeps s₀ s)  : Keeps s₀ (csCheck s id addr k).1 := by
  unfold csCheck
  repeat' (first
    | (with_reducible exact k0) | (with_reducible apply keeps_recordVio) | (with_reducible apply keeps_noteAccess) | dsimp only
    | split)

theorem keeps_rsvdWrite {s₀ : State} {s : State} {id : Identity} {addr : Nat} (k0 : Keeps s₀ s)  : Keeps s₀ (rsvdWrite s id addr) := by
  unfold rsvdWrite
  repeat' (first
    | (with_reducible exact k0) | (with_reducible apply keeps_logRsvd) | (with_reducible apply keeps_countLocked)
    | (with_reducible apply keeps_csCheck) | (with_reducible apply keeps_ite))

theorem keeps_csWrite {s₀ : State} {s : State} {id : Identity} {addr : Nat} {exempt : Bool} {effect : State → State} (k0 : Keeps s₀ s) (heffect : ∀ x0, Keeps s₀ x0 → Keeps s₀ (effect x0)) : Keeps s₀ (csWrite s id addr exempt effect) := by
  unfold csWrite
  repeat' (first
    | (with_reducible exact k0) | apply heffect | (with_reducible apply keeps_countLocked) | (with_reducible apply keeps_csCheck)
    | (with_reducible apply keeps_ite))

end Sys2Proof.Machine
end

