-- ==== Sys2Proof/Laws/KeepsReads.lean ====
section
/-! SUPPORT. What the operations of Machine/Reads.lean keep: the queue, the member, the stepping and the invariant `Inv`. -/

namespace Sys2Proof.Machine

set_option maxRecDepth 4000


theorem keeps_setTask {s₀ : State} {s : State} {key : TaskKey} {f : Task → Task} (k0 : Keeps s₀ s)  : Keeps s₀ (setTask s key f) := by
  unfold setTask
  repeat' (first
    | (with_reducible exact k0) | (with_reducible apply keeps_modTasks))

theorem keeps_concludeRead {s₀ : State} {s : State} {t : Task} (k0 : Keeps s₀ s)  : Keeps s₀ (concludeRead s t) := by
  unfold concludeRead
  repeat' (first
    | (with_reducible exact k0) | (with_reducible apply keeps_answerCapsule) | (with_reducible apply keeps_answerTask) | split)

theorem keeps_forwardBlock {s₀ : State} {s : State} {t : Task} {j : BlockJob} (k0 : Keeps s₀ s)  : Keeps s₀ (forwardBlock s t j) := by
  unfold forwardBlock
  repeat' (first
    | (with_reducible exact k0) | (with_reducible apply keeps_sendPair) | (with_reducible apply keeps_settleTasks)
    | (with_reducible apply keeps_setTask) | (with_reducible apply keeps_ite) | split)

theorem keeps_forwardZero {s₀ : State} {s : State} {t : Task} {i : Nat} (k0 : Keeps s₀ s)  : Keeps s₀ (forwardZero s t i) := by
  unfold forwardZero
  repeat' (first
    | (with_reducible exact k0) | (with_reducible apply keeps_forwardBlock) | split)

theorem keeps_closeRead {s₀ : State} {s : State} {t : Task} (k0 : Keeps s₀ s)  : Keeps s₀ (closeRead s t) := by
  unfold closeRead
  repeat' (first
    | (with_reducible exact k0) | (with_reducible apply keeps_settleTasks) | (with_reducible apply keeps_answerTask)
    | (with_reducible apply keeps_concludeRead) | split)

theorem keeps_advanceRead {s₀ : State} {s : State} {t : Task} (k0 : Keeps s₀ s)  : Keeps s₀ (advanceRead s t) := by
  unfold advanceRead
  repeat' (first
    | (with_reducible assumption) | intro _ | (with_reducible apply keeps_setTask) | (with_reducible apply keeps_forwardZero)
    | (with_reducible apply keeps_closeRead) | (with_reducible apply keeps_foldl) | dsimp only | split)

theorem keeps_advanceReads {s₀ : State} {s : State} (k0 : Keeps s₀ s)  : Keeps s₀ (advanceReads s) := by
  unfold advanceReads
  repeat' (first
    | (with_reducible assumption) | intro _ | (with_reducible apply keeps_advanceRead) | (with_reducible apply keeps_foldl)
    | split)

theorem keeps_markReady {s₀ : State} {s : State} {addr : Nat} {n : Nat} {field : Nat} (k0 : Keeps s₀ s)  : Keeps s₀ (markReady s addr n field) := by
  unfold markReady
  repeat' (first
    | (with_reducible exact k0) | (with_reducible apply keeps_modTasks))

theorem keeps_failBlock {s₀ : State} {s : State} {key : TaskKey} {i : Nat} {st : ScsiStatus} (k0 : Keeps s₀ s)  : Keeps s₀ (failBlock s key i st) := by
  unfold failBlock
  repeat' (first
    | (with_reducible exact k0) | (with_reducible apply keeps_setTask) | (with_reducible apply keeps_closeRead) | dsimp only
    | split)

theorem keeps_failReads {s₀ : State} {s : State} {addr : Nat} {n : Nat} {field : Nat} (k0 : Keeps s₀ s)  : Keeps s₀ (failReads s addr n field) := by
  unfold failReads
  repeat' (first
    | (with_reducible assumption) | intro _ | (with_reducible apply keeps_failBlock) | (with_reducible apply keeps_foldl))

theorem keeps_abortAnd {s₀ : State} {s : State} {sel : Task → Bool} (k0 : Keeps s₀ s)  : Keeps s₀ (abortAnd s sel) := by
  unfold abortAnd
  repeat' (first
    | (with_reducible exact k0) | (with_reducible apply keeps_abortTasks) | (with_reducible apply keeps_settleTasks)
    | (with_reducible apply keeps_advanceReads))

theorem keeps_abortPort {s₀ : State} {s : State} {p : Port} {sel : Task → Bool} (k0 : Keeps s₀ s)  : Keeps s₀ (abortPort s p sel) := by
  unfold abortPort
  repeat' (first
    | (with_reducible exact k0) | (with_reducible apply keeps_modPort) | (with_reducible apply keeps_abortAnd))

end Sys2Proof.Machine
end

