-- ==== Sys2Proof/Laws/KeepsFieldOps.lean ====
section
/-! SUPPORT. What the operations of Machine/FieldOps.lean keep: the queue, the member, the stepping and the invariant `Inv`. -/

namespace Sys2Proof.Machine

set_option maxRecDepth 4000


theorem keeps_onField {s₀ : State} {s : State} {f : Nat} {g : FieldState → FEnv → FieldState} (k0 : Keeps s₀ s)  : Keeps s₀ (onField s f g) := by
  unfold onField
  repeat' (first
    | (with_reducible exact k0) | (with_reducible apply keeps_modField))

theorem keeps_pushDie {s₀ : State} {s : State} {c : Nat} {op : DieOp} (k0 : Keeps s₀ s)  : Keeps s₀ (pushDie s c op) := by
  unfold pushDie
  repeat' (first
    | (with_reducible exact k0) | (with_reducible apply keeps_modChan))

theorem keeps_queueOnce {s₀ : State} {s : State} {wide : Bool} {op : DieOp} (k0 : Keeps s₀ s)  : Keeps s₀ (queueOnce s wide op) := by
  unfold queueOnce
  repeat' (first
    | (with_reducible exact k0) | (with_reducible apply keeps_pushDie) | split)

theorem keeps_queuePage {s₀ : State} {s : State} {f : Nat} {b : BlkId} {page : Nat} {rekey : Option Nat} (k0 : Keeps s₀ s)  : Keeps s₀ (queuePage s f b page rekey) := by
  unfold queuePage
  repeat' (first
    | (with_reducible exact k0) | (with_reducible apply keeps_queueOnce))

theorem keeps_freeStage {s₀ : State} {s : State} {pos : Nat} (k0 : Keeps s₀ s)  : Keeps s₀ (freeStage s pos).2.2 := by
  unfold freeStage
  repeat' (first
    | (with_reducible exact k0) | (with_reducible apply keeps_drawNat))

theorem keeps_sendShadow {s₀ : State} {s : State} {f : Nat} {pos : Nat} {page : Nat} {plot : Nat} {lba : Nat} {order : Nat} (k0 : Keeps s₀ s)  : Keeps s₀ (sendShadow s f pos page plot lba order) := by
  unfold sendShadow
  repeat' (first
    | (with_reducible exact k0) | (with_reducible apply keeps_modStk) | (with_reducible apply keeps_ringRequest)
    | (with_reducible apply keeps_freeStage) | (with_reducible apply keeps_ite) | split)

theorem keeps_releaseRemote {s₀ : State} {s : State} {f : Nat} {pos : Nat} {page : Nat} {r : PageRec} (k0 : Keeps s₀ s)  : Keeps s₀ (releaseRemote s f pos page r) := by
  unfold releaseRemote
  repeat' (first
    | (with_reducible exact k0) | (with_reducible apply keeps_ringRequest) | (with_reducible apply keeps_ite))

theorem keeps_syncRemote {s₀ : State} {s : State} {f : Nat} (k0 : Keeps s₀ s)  : Keeps s₀ (syncRemote s f) := by
  unfold syncRemote
  repeat' (first
    | (with_reducible assumption) | intro _ | (with_reducible apply keeps_sendShadow) | (with_reducible apply keeps_releaseRemote)
    | (with_reducible apply keeps_foldl) | split)

theorem keeps_dropDead {s₀ : State} {s : State} {f : Nat} (k0 : Keeps s₀ s)  : Keeps s₀ (dropDead s f) := by
  unfold dropDead
  repeat' (first
    | (with_reducible assumption) | intro _ | (with_reducible apply keeps_modChan) | (with_reducible apply keeps_foldl) | split)

theorem keeps_syncQueues {s₀ : State} {s : State} {f : Nat} (k0 : Keeps s₀ s)  : Keeps s₀ (syncQueues s f) := by
  unfold syncQueues
  repeat' (first
    | (with_reducible assumption) | intro _ | (with_reducible apply keeps_queueOnce) | (with_reducible apply keeps_syncRemote)
    | (with_reducible apply keeps_dropDead) | (with_reducible apply keeps_ite) | (with_reducible apply keeps_foldl))

theorem keeps_pageArrived {s₀ : State} {s : State} {f : Nat} {b : BlkId} {page : Nat} {slot : Nat} {n : Nat} {ok : Bool} (k0 : Keeps s₀ s)  : Keeps s₀ (pageArrived s f b page slot n ok) := by
  unfold pageArrived
  repeat' (first
    | (with_reducible exact k0) | (with_reducible apply keeps_modField) | (with_reducible apply keeps_markReady)
    | (with_reducible apply keeps_failReads) | (with_reducible apply keeps_onField) | (with_reducible apply keeps_ite))

theorem keeps_settleRebuilds {s₀ : State} {s : State} {f : Nat} (k0 : Keeps s₀ s)  : Keeps s₀ (settleRebuilds s f) := by
  unfold settleRebuilds
  repeat' (first
    | (with_reducible assumption) | intro _ | (with_reducible apply keeps_onField) | (with_reducible apply keeps_pageArrived)
    | (with_reducible apply keeps_foldl))

theorem keeps_askMember {s₀ : State} {s : State} {f : Nat} {b : BlkId} {page : Nat} (k0 : Keeps s₀ s)  : Keeps s₀ (askMember s f b page).1 := by
  unfold askMember
  repeat' (first
    | (with_reducible exact k0) | (with_reducible apply keeps_ringRequest) | split)

theorem keeps_askRebuild {s₀ : State} {s : State} {f : Nat} {x : Rebuild} (k0 : Keeps s₀ s)  : Keeps s₀ (askRebuild s f x) := by
  unfold askRebuild
  repeat' (first
    | (with_reducible assumption) | intro _ | (with_reducible apply keeps_modField) | (with_reducible apply keeps_queuePage)
    | (with_reducible apply keeps_askMember) | (with_reducible apply keeps_ite) | (with_reducible apply keeps_foldl) | split)

theorem keeps_askRebuilds {s₀ : State} {s : State} {f : Nat} (k0 : Keeps s₀ s)  : Keeps s₀ (askRebuilds s f) := by
  unfold askRebuilds
  repeat' (first
    | (with_reducible assumption) | intro _ | (with_reducible apply keeps_settleRebuilds)
    | (with_reducible apply keeps_askRebuild) | (with_reducible apply keeps_foldl))

theorem keeps_wantPage {s₀ : State} {s : State} {f : Nat} {b : BlkId} {page : Nat} {rekey : Option Nat} (k0 : Keeps s₀ s)  : Keeps s₀ (wantPage s f b page rekey) := by
  unfold wantPage
  repeat' (first
    | (with_reducible exact k0) | (with_reducible apply keeps_onField) | (with_reducible apply keeps_queuePage)
    | (with_reducible apply keeps_askMember) | (with_reducible apply keeps_ite))

theorem keeps_askMerges {s₀ : State} {s : State} {f : Nat} (k0 : Keeps s₀ s)  : Keeps s₀ (askMerges s f) := by
  unfold askMerges
  repeat' (first
    | (with_reducible assumption) | intro _ | (with_reducible apply keeps_wantPage) | (with_reducible apply keeps_foldl))

theorem keeps_askSegments {s₀ : State} {s : State} {f : Nat} (k0 : Keeps s₀ s)  : Keeps s₀ (askSegments s f) := by
  unfold askSegments
  repeat' (first
    | (with_reducible assumption) | intro _ | (with_reducible apply keeps_modField) | (with_reducible apply keeps_queueOnce)
    | (with_reducible apply keeps_wantPage) | (with_reducible apply keeps_ite) | (with_reducible apply keeps_foldl) | split)

theorem keeps_beginRequest {s₀ : State} {s : State} {f : Nat} {r : FieldReq} {id : Nat} (k0 : Keeps s₀ s)  : Keeps s₀ (beginRequest s f r id) := by
  unfold beginRequest
  repeat' (first
    | (with_reducible exact k0) | (with_reducible apply keeps_modField) | (with_reducible apply keeps_onField) | split)

theorem keeps_grantRequest {s₀ : State} {s : State} {f : Nat} {r : FieldReq} (k0 : Keeps s₀ s)  : Keeps s₀ (grantRequest s f r) := by
  unfold grantRequest
  repeat' (first
    | (with_reducible exact k0) | (with_reducible apply keeps_noteGrant) | (with_reducible apply keeps_beginRequest) | split
    | (refine keeps_drawTicket ?_ (by assumption)))

theorem keeps_feedMove {s₀ : State} {s : State} {f : Nat} {m : MoveRun} (k0 : Keeps s₀ s)  : Keeps s₀ (feedMove s f m) := by
  unfold feedMove
  repeat' (first
    | (with_reducible exact k0) | (with_reducible apply keeps_onField) | (with_reducible apply keeps_wantPage) | dsimp only
    | split)

theorem keeps_endMoves {s₀ : State} {s : State} {f : Nat} (k0 : Keeps s₀ s)  : Keeps s₀ (endMoves s f) := by
  unfold endMoves
  repeat' (first
    | (with_reducible assumption) | intro _ | (with_reducible apply keeps_modField) | (with_reducible apply keeps_releaseTicket)
    | (with_reducible apply keeps_ite) | (with_reducible apply keeps_foldl) | split)

theorem keeps_sweepEmpty {s₀ : State} {s : State} {f : Nat} (k0 : Keeps s₀ s)  : Keeps s₀ (sweepEmpty s f) := by
  unfold sweepEmpty
  repeat' (first
    | (with_reducible exact k0) | (with_reducible apply keeps_onField))

theorem keeps_grantRequests {s₀ : State} {f : Nat} : ∀ {n : Nat} {s : State}, Keeps s₀ s → Keeps s₀ (grantRequests f n s)
  | 0, _, h => h
  | n + 1, s, h => by
    unfold grantRequests
    split
    · exact h
    · exact keeps_grantRequests (keeps_grantRequest h)

theorem keeps_stepFix {s₀ : State} {s : State} {f : Nat} (k0 : Keeps s₀ s)  : Keeps s₀ (stepFix s f) := by
  unfold stepFix
  repeat' (first
    | (with_reducible exact k0) | (with_reducible apply keeps_onField) | split)

theorem keeps_beginRekey {s₀ : State} {s : State} {f : Nat} {n : Nat} (k0 : Keeps s₀ s)  : Keeps s₀ (beginRekey s f n) := by
  unfold beginRekey
  repeat' (first
    | (with_reducible exact k0) | (with_reducible apply keeps_modField) | (with_reducible apply keeps_grantRequest)
    | (with_reducible apply keeps_ite) | split)

theorem keeps_pauseRekeys {s₀ : State} {s : State} {f : Nat} (k0 : Keeps s₀ s)  : Keeps s₀ (pauseRekeys s f) := by
  unfold pauseRekeys
  repeat' (first
    | (with_reducible assumption) | intro _ | (with_reducible apply keeps_modField) | (with_reducible apply keeps_releaseTicket)
    | (with_reducible apply keeps_foldl) | split)

theorem keeps_rekeyWork {s₀ : State} {s : State} {f : Nat} (k0 : Keeps s₀ s)  : Keeps s₀ (rekeyWork s f) := by
  unfold rekeyWork
  repeat' (first
    | (with_reducible assumption) | intro _ | (with_reducible apply keeps_onField) | (with_reducible apply keeps_wantPage)
    | (with_reducible apply keeps_beginRekey) | (with_reducible apply keeps_pauseRekeys) | (with_reducible apply keeps_foldl))

theorem keeps_writeRecord {s₀ : State} {s : State} {n : Nat} {f : KeyRecord → KeyRecord} (k0 : Keeps s₀ s)  : Keeps s₀ (writeRecord s n f) := by
  unfold writeRecord
  repeat' (first
    | (with_reducible exact k0) | (with_reducible apply keeps_modPlot) | (with_reducible apply keeps_structWrite))

theorem keeps_endRekeys {s₀ : State} {s : State} {f : Nat} (k0 : Keeps s₀ s)  : Keeps s₀ (endRekeys s f) := by
  unfold endRekeys
  repeat' (first
    | (with_reducible assumption) | intro _ | (with_reducible apply keeps_modPlot) | (with_reducible apply keeps_queueEvents)
    | (with_reducible apply keeps_writeRecord) | (with_reducible apply keeps_ite) | (with_reducible apply keeps_foldl))

theorem keeps_noteRekey {s₀ : State} {s : State} {f : Nat} (k0 : Keeps s₀ s)  : Keeps s₀ (noteRekey s f) := by
  unfold noteRekey
  repeat' (first
    | (with_reducible assumption) | intro _ | (with_reducible apply keeps_writeRecord) | (with_reducible apply keeps_foldl)
    | dsimp only | split)

theorem keeps_internalWork {s₀ : State} {s : State} {f : Nat} (k0 : Keeps s₀ s)  : Keeps s₀ (internalWork s f) := by
  unfold internalWork
  repeat' (first
    | (with_reducible assumption) | intro _ | (with_reducible apply keeps_onField) | (with_reducible apply keeps_feedMove)
    | (with_reducible apply keeps_endMoves) | (with_reducible apply keeps_sweepEmpty) | (with_reducible apply keeps_grantRequests)
    | (with_reducible apply keeps_stepFix) | (with_reducible apply keeps_rekeyWork) | (with_reducible apply keeps_endRekeys)
    | (with_reducible apply keeps_ite) | (with_reducible apply keeps_foldl))

theorem keeps_updateHeadland {s₀ : State} {s : State} {f : Nat} (k0 : Keeps s₀ s)  : Keeps s₀ (updateHeadland s f) := by
  unfold updateHeadland
  repeat' (first
    | (with_reducible assumption) | intro _ | (with_reducible apply keeps_modPlot) | (with_reducible apply keeps_modField)
    | (with_reducible apply keeps_setPlotMode) | (with_reducible apply keeps_demotePlots) | (with_reducible apply keeps_ite)
    | (with_reducible apply keeps_foldl) | split)

theorem keeps_updateHealth {s₀ : State} {s : State} {f : Nat} (k0 : Keeps s₀ s)  : Keeps s₀ (updateHealth s f) := by
  unfold updateHealth
  repeat' (first
    | (with_reducible assumption) | intro _ | (with_reducible apply keeps_modPlot) | (with_reducible apply keeps_modField)
    | (with_reducible apply keeps_queueEvents) | (with_reducible apply keeps_ite) | (with_reducible apply keeps_foldl) | split)

theorem keeps_runWaiters {s₀ : State} {s : State} {f : Nat} (k0 : Keeps s₀ s)  : Keeps s₀ (runWaiters s f) := by
  unfold runWaiters
  repeat' (first
    | (with_reducible assumption) | intro _ | (with_reducible apply keeps_modField) | (with_reducible apply keeps_answerTask)
    | (with_reducible apply keeps_ite) | (with_reducible apply keeps_foldl) | split)

theorem keeps_runSecure {s₀ : State} {s : State} {f : Nat} (k0 : Keeps s₀ s)  : Keeps s₀ (runSecure s f) := by
  unfold runSecure
  repeat' (first
    | (with_reducible assumption) | intro _ | (with_reducible apply keeps_modField) | (with_reducible apply keeps_answerTask)
    | (with_reducible apply keeps_foldl) | dsimp only | split)

theorem keeps_sealFields {s₀ : State} {s : State} (k0 : Keeps s₀ s)  : Keeps s₀ (sealFields s) := by
  unfold sealFields
  repeat' (first
    | (with_reducible assumption) | intro _ | (with_reducible apply keeps_modField) | (with_reducible apply keeps_modHold)
    | (with_reducible apply keeps_structWrite) | (with_reducible apply keeps_ite) | (with_reducible apply keeps_foldl))

theorem keeps_forceDue {s₀ : State} {s : State} {f : Nat} (k0 : Keeps s₀ s)  : Keeps s₀ (forceDue s f) := by
  unfold forceDue
  repeat' (first
    | (with_reducible exact k0) | (with_reducible apply keeps_onField))

theorem keeps_runField {s₀ : State} {s : State} {f : Nat} (k0 : Keeps s₀ s)  : Keeps s₀ (runField s f) := by
  unfold runField
  repeat' (first
    | (with_reducible exact k0) | (with_reducible apply keeps_settleTasks) | (with_reducible apply keeps_onField)
    | (with_reducible apply keeps_syncQueues) | (with_reducible apply keeps_askRebuilds) | (with_reducible apply keeps_askMerges)
    | (with_reducible apply keeps_askSegments) | (with_reducible apply keeps_internalWork)
    | (with_reducible apply keeps_updateHeadland) | (with_reducible apply keeps_updateHealth)
    | (with_reducible apply keeps_runWaiters) | (with_reducible apply keeps_runSecure) | (with_reducible apply keeps_sealFields)
    | (with_reducible apply keeps_forceDue) | split)

theorem keeps_runFields {s₀ : State} {s : State} (k0 : Keeps s₀ s)  : Keeps s₀ (runFields s) := by
  unfold runFields
  repeat' (first
    | (with_reducible exact k0) | (with_reducible apply keeps_runField) | (with_reducible apply keeps_foldl))

theorem keeps_develop {s₀ : State} {s : State} {f : Nat} {cover : SlotUse → Bool} (k0 : Keeps s₀ s)  : Keeps s₀ (develop s f cover) := by
  unfold develop
  repeat' (first
    | (with_reducible exact k0) | (with_reducible apply keeps_onField) | (with_reducible apply keeps_runField))

end Sys2Proof.Machine
end

