-- ==== Sys2Proof/Laws/KeepsPortCore.lean ====
section
/-! SUPPORT. What the operations of Machine/PortCore.lean keep: the queue, the member, the stepping and the invariant `Inv`. -/

namespace Sys2Proof.Machine

set_option maxRecDepth 4000


theorem keeps_dropCapsules {s₀ : State} {s : State} {p : Port} (k0 : Keeps s₀ s)  : Keeps s₀ (dropCapsules s p) := by
  unfold dropCapsules
  repeat' (first
    | (with_reducible exact k0) | (with_reducible apply keeps_modPfn) | (with_reducible apply keeps_orphanChecks))

theorem keeps_resetPort {s₀ : State} {s : State} {p : Port} (k0 : Keeps s₀ s)  : Keeps s₀ (resetPort s p) := by
  unfold resetPort
  repeat' (first
    | (with_reducible exact k0) | (with_reducible apply keeps_modPort) | (with_reducible apply keeps_abortPort)
    | (with_reducible apply keeps_dropCapsules))

theorem keeps_detachPort {s₀ : State} {s : State} {p : Port} {cause : Nat} (k0 : Keeps s₀ s)  : Keeps s₀ (detachPort s p cause) := by
  unfold detachPort
  repeat' (first
    | (with_reducible exact k0) | (with_reducible apply keeps_modPort) | (with_reducible apply keeps_releaseSems)
    | (with_reducible apply keeps_resetPort))

theorem keeps_offerConnect {s₀ : State} {s : State} {p : Port} (k0 : Keeps s₀ s)  : Keeps s₀ (offerConnect s p) := by
  unfold offerConnect
  repeat' (first
    | (with_reducible exact k0) | (with_reducible apply keeps_modPort) | (with_reducible apply keeps_drawBool)
    | (with_reducible apply keeps_ite))

theorem keeps_answerWire {s₀ : State} {s : State} {p : Port} {a : WireAnswer} (k0 : Keeps s₀ s)  : Keeps s₀ (answerWire s p a) := by
  unfold answerWire
  repeat' (first
    | (with_reducible exact k0) | (with_reducible apply keeps_modPort))

theorem keeps_selectEps {s₀ : State} {s : State} {p : Port} {k : Nat} {alt : Nat} (k0 : Keeps s₀ s)  : Keeps s₀ (selectEps s p k alt) := by
  unfold selectEps
  repeat' (first
    | (with_reducible exact k0) | (with_reducible apply keeps_modPort))

theorem keeps_inTransfer {s₀ : State} {s : State} {p : Port} {k : Nat} {ep : Nat} {bytes : Nat} (k0 : Keeps s₀ s)  : Keeps s₀ (inTransfer s p k ep bytes).1 := by
  unfold inTransfer
  repeat' (first
    | (with_reducible exact k0) | (with_reducible apply keeps_modEp) | (with_reducible apply keeps_answerWire) | split)

theorem keeps_answerControl {s₀ : State} {s : State} {p : Port} {data : Nat} {a : WireAnswer} (k0 : Keeps s₀ s)  : Keeps s₀ (answerControl s p data a) := by
  unfold answerControl
  repeat' (first
    | (with_reducible exact k0) | (with_reducible apply keeps_modEp) | (with_reducible apply keeps_answerWire)
    | (with_reducible apply keeps_ite))

end Sys2Proof.Machine
end

