-- ==== Sys2Proof/Laws/KeepsScope.lean ====
section
/-! SUPPORT. What the operations of Machine/Scope.lean keep: the queue, the member, the stepping and the invariant `Inv`. -/

namespace Sys2Proof.Machine

set_option maxRecDepth 4000


theorem keeps_settleRecipe {s₀ : State} {s : State} {c : Nat} (k0 : Keeps s₀ s)  : Keeps s₀ (settleRecipe s c) := by
  unfold settleRecipe
  repeat' (first
    | (with_reducible exact k0) | (with_reducible apply keeps_modChan) | (with_reducible apply keeps_modLay)
    | (with_reducible apply keeps_ite))

theorem keeps_stopChannel {s₀ : State} {s : State} {c : Nat} (k0 : Keeps s₀ s)  : Keeps s₀ (stopChannel s c) := by
  unfold stopChannel
  repeat' (first
    | (with_reducible exact k0) | (with_reducible apply keeps_modField) | (with_reducible apply keeps_modChan)
    | (with_reducible apply keeps_settleRecipe) | split)

theorem keeps_rebuildAsked {s₀ : State} {s : State} {f : Nat} {c : Nat} (k0 : Keeps s₀ s)  : Keeps s₀ (rebuildAsked s f c) := by
  unfold rebuildAsked
  repeat' (first
    | (with_reducible exact k0) | (with_reducible apply keeps_onField))

theorem keeps_loseChannel {s₀ : State} {s : State} {f : Nat} {chan : Nat} (k0 : Keeps s₀ s)  : Keeps s₀ (loseChannel s f chan) := by
  unfold loseChannel
  repeat' (first
    | (with_reducible exact k0) | (with_reducible apply keeps_modField) | (with_reducible apply keeps_onField)
    | (with_reducible apply keeps_updateHeadland) | (with_reducible apply keeps_updateHealth)
    | (with_reducible apply keeps_runField) | (with_reducible apply keeps_rebuildAsked) | (with_reducible apply keeps_ite))

theorem keeps_fenceChannel {s₀ : State} {s : State} {c : Nat} {latch : Bool} (k0 : Keeps s₀ s)  : Keeps s₀ (fenceChannel s c latch) := by
  unfold fenceChannel
  repeat' (first
    | (with_reducible exact k0) | (with_reducible apply keeps_modChan) | (with_reducible apply keeps_settleRecipe)
    | (with_reducible apply keeps_stopChannel) | (with_reducible apply keeps_loseChannel) | dsimp only | split)

theorem keeps_dispatchJob {s₀ : State} {s : State} {j : BlockJob} (k0 : Keeps s₀ s)  : Keeps s₀ (dispatchJob s j).1 := by
  unfold dispatchJob
  repeat' (first
    | (with_reducible exact k0) | (with_reducible apply keeps_modEngine) | (with_reducible apply keeps_modArb) | split)

theorem keeps_redispatch {s₀ : State} {s : State} {j : BlockJob} (k0 : Keeps s₀ s)  : Keeps s₀ (redispatch s j) := by
  unfold redispatch
  repeat' (first
    | (with_reducible exact k0) | (with_reducible apply keeps_modTasks) | (with_reducible apply keeps_dispatchJob)
    | (with_reducible apply keeps_ite))

theorem keeps_darkenPlots {s₀ : State} {s : State} {plots : List Nat} (k0 : Keeps s₀ s)  : Keeps s₀ (darkenPlots s plots) := by
  unfold darkenPlots
  repeat' (first
    | (with_reducible assumption) | intro _ | (with_reducible apply keeps_modPlot) | (with_reducible apply keeps_clearKeys)
    | (with_reducible apply keeps_closePlot) | (with_reducible apply keeps_answerVault) | (with_reducible apply keeps_ite)
    | (with_reducible apply keeps_foldl))

theorem keeps_stopField {s₀ : State} {s : State} {f : Nat} (k0 : Keeps s₀ s)  : Keeps s₀ (stopField s f) := by
  unfold stopField
  repeat' (first
    | (with_reducible exact k0) | (with_reducible apply keeps_stopChannel) | (with_reducible apply keeps_foldl) | split)

theorem keeps_applyScope {s₀ : State} {s : State} {code : Nat} {inst : Nat} {latch : Bool} (k0 : Keeps s₀ s)  : Keeps s₀ (applyScope s code inst latch) := by
  unfold applyScope
  repeat' (first
    | (with_reducible assumption) | intro _ | (with_reducible apply keeps_modEngine) | (with_reducible apply keeps_dropRemote)
    | (with_reducible apply keeps_develop) | (with_reducible apply keeps_detachPort) | (with_reducible apply keeps_stopChannel)
    | (with_reducible apply keeps_fenceChannel) | (with_reducible apply keeps_redispatch)
    | (with_reducible apply keeps_darkenPlots) | (with_reducible apply keeps_stopField) | (with_reducible apply keeps_foldl)
    | split | (with_reducible apply keeps_mk (s := _) <;> first | rfl | skip))

theorem keeps_addStrike {s₀ : State} {s : State} {code : Nat} {inst : Nat} (k0 : Keeps s₀ s)  : Keeps s₀ (addStrike s code inst) := by
  unfold addStrike
  repeat' (first
    | (with_reducible exact k0) | (with_reducible apply keeps_modChan) | (with_reducible apply keeps_modEngine)
    | (with_reducible apply keeps_ite))

theorem keeps_addStackScope {s₀ : State} {s : State} {cause : Nat} {latch : Bool} {island : Nat} {d0 : Word} {d1 : Word} (k0 : Keeps s₀ s)  : Keeps s₀ (addStackScope s cause latch island d0 d1) := by
  unfold addStackScope
  repeat' (first
    | (with_reducible exact k0) | (with_reducible assumption) | (intro q; with_reducible rfl)
    | (intro q; dsimp only; split <;> rfl) | intro _ | (with_reducible apply keeps_modSaf) | (with_reducible apply keeps_logFault)
    | (with_reducible apply keeps_applyScope) | (with_reducible apply keeps_ite))

theorem keeps_tellRing {s₀ : State} {s : State} {code : Nat} {cause : Nat} {latch : Bool} {island : Nat} {d0 : Word} {d1 : Word} (k0 : Keeps s₀ s)  : Keeps s₀ (tellRing s code cause latch island d0 d1) := by
  unfold tellRing
  repeat' (first
    | (with_reducible exact k0) | (with_reducible apply keeps_ringBroadcast) | (with_reducible apply keeps_addStackScope)
    | (with_reducible apply keeps_ite))

theorem keeps_enterOneScope {s₀ : State} {s : State} {cause : Nat} {code : Nat} {inst : Nat} {latch : Bool} {island : Nat} {requester : Nat} {d0 : Word} {d1 : Word} {who : Option (Nat × Nat)} (k0 : Keeps s₀ s)  : Keeps s₀ (enterOneScope s cause code inst latch island requester d0 d1 who) := by
  unfold enterOneScope
  repeat' (first
    | (with_reducible exact k0) | (intro q; with_reducible rfl) | (intro q; dsimp only; split <;> rfl) | intro _
    | (with_reducible apply keeps_modChan) | (with_reducible apply keeps_modEngine) | (with_reducible apply keeps_modSaf)
    | (with_reducible apply keeps_deferFault) | (with_reducible apply keeps_logFault) | (with_reducible apply keeps_applyScope)
    | (with_reducible apply keeps_addStrike) | (with_reducible apply keeps_tellRing) | (with_reducible apply keeps_ite))

theorem keeps_noCipher {s₀ : State} {s : State} (k0 : Keeps s₀ s)  : Keeps s₀ (noCipher s) := by
  unfold noCipher
  repeat' (first
    | (with_reducible exact k0) | (with_reducible apply keeps_modArb) | (with_reducible apply keeps_enterOneScope)
    | (with_reducible apply keeps_ite))

theorem keeps_enterScope {s₀ : State} {s : State} {cause : Nat} {code : Nat} {inst : Nat} {latch : Bool} {island : Nat} {requester : Nat} {d0 : Word} {d1 : Word} {who : Option (Nat × Nat)} (k0 : Keeps s₀ s)  : Keeps s₀ (enterScope s cause code inst latch island requester d0 d1 who) := by
  unfold enterScope
  repeat' (first
    | (with_reducible exact k0) | (with_reducible apply keeps_enterOneScope) | (with_reducible apply keeps_noCipher)
    | (with_reducible apply keeps_ite))

theorem keeps_enterDevice {s₀ : State} {s : State} {cause : Nat} {island : Nat} {requester : Nat} {d0 : Word} {d1 : Word} (k0 : Keeps s₀ s)  : Keeps s₀ (enterDevice s cause island requester d0 d1) := by
  unfold enterDevice
  repeat' (first
    | (with_reducible exact k0) | (with_reducible apply keeps_enterScope))

theorem keeps_dropLinks {s₀ : State} {s : State} (k0 : Keeps s₀ s)  : Keeps s₀ (dropLinks s) := by
  unfold dropLinks
  repeat' (first
    | (with_reducible exact k0) | (with_reducible apply keeps_modStk))

theorem keeps_islandFault {s₀ : State} {s : State} {cause : Nat} {island : Nat} {requester : Nat} {d0 : Word} {d1 : Word} {who : Option (Nat × Nat)} (k0 : Keeps s₀ s)  : Keeps s₀ (islandFault s cause island requester d0 d1 who) := by
  unfold islandFault
  repeat' (first
    | (with_reducible assumption) | intro _ | (with_reducible apply keeps_logFault) | (with_reducible apply keeps_enterScope)
    | (with_reducible apply keeps_dropLinks) | (with_reducible apply keeps_ite) | (with_reducible apply keeps_foldl) | split)

theorem keeps_engineFault {s₀ : State} {s : State} {cause : Nat} {e : Nat} {requester : Nat} {d0 : Word} {d1 : Word} (k0 : Keeps s₀ s)  : Keeps s₀ (engineFault s cause e requester d0 d1) := by
  unfold engineFault
  repeat' (first
    | (with_reducible exact k0) | (with_reducible apply keeps_enterScope) | (with_reducible apply keeps_ite))

theorem keeps_channelFault {s₀ : State} {s : State} {cause : Nat} {c : Nat} {requester : Nat} {d0 : Word} {d1 : Word} (k0 : Keeps s₀ s)  : Keeps s₀ (channelFault s cause c requester d0 d1) := by
  unfold channelFault
  repeat' (first
    | (with_reducible exact k0) | (with_reducible apply keeps_enterScope) | (with_reducible apply keeps_ite))

theorem keeps_fieldFault {s₀ : State} {s : State} {cause : Nat} {f : Nat} {requester : Nat} {island : Nat} {d0 : Word} {d1 : Word} (k0 : Keeps s₀ s)  : Keeps s₀ (fieldFault s cause f requester island d0 d1) := by
  unfold fieldFault
  repeat' (first
    | (with_reducible exact k0) | (with_reducible apply keeps_enterScope))

end Sys2Proof.Machine
end

