-- ==== Sys2Proof/Laws/KeepsBankCore.lean ====
section
/-! SUPPORT. What the operations of Machine/BankCore.lean keep: the queue, the member, the stepping and the invariant `Inv`. -/

namespace Sys2Proof.Machine

set_option maxRecDepth 4000


theorem keeps_portServe {s₀ : State} {s : State} {id : Identity} {b : Nat} {word : Nat} {read : Bool} (k0 : Keeps s₀ s)  : Keeps s₀ (portServe s id b word read) := by
  unfold portServe
  repeat' (first
    | (with_reducible exact k0) | (with_reducible apply keeps_modBank) | (with_reducible apply keeps_drawBool)
    | (with_reducible apply keeps_drawNat))

theorem keeps_bankError {s₀ : State} {s : State} {id : Identity} {addr : Nat} {parity : Bool} (k0 : Keeps s₀ s)  : Keeps s₀ (bankError s id addr parity) := by
  unfold bankError
  repeat' (first
    | (with_reducible exact k0) | (with_reducible apply keeps_modBank) | (with_reducible apply keeps_islandFault))

theorem keeps_refuseWord {s₀ : State} {s : State} {id : Identity} {addr : Nat} (k0 : Keeps s₀ s)  : Keeps s₀ (refuseWord s id addr) := by
  unfold refuseWord
  repeat' (first
    | (with_reducible exact k0) | (with_reducible apply keeps_islandFault) | (with_reducible apply keeps_ite))

theorem keeps_bankCheck {s₀ : State} {s : State} {id : Identity} {addr : Nat} {k : AccessKind} {bytes : Nat} {parityOk : Bool} (k0 : Keeps s₀ s)  : Keeps s₀ (bankCheck s id addr k bytes parityOk).1 := by
  unfold bankCheck
  repeat' (first
    | (with_reducible exact k0) | (with_reducible apply keeps_modBank) | (with_reducible apply keeps_drawBool)
    | (with_reducible apply keeps_drawNat) | (with_reducible apply keeps_logRsvd) | (with_reducible apply keeps_recordVio)
    | (with_reducible apply keeps_portServe) | (with_reducible apply keeps_bankError) | (with_reducible apply keeps_refuseWord)
    | dsimp only | split)

theorem keeps_bankStore {s₀ : State} {s : State} {addr bytes value : Nat} (h : Keeps s₀ s) : Keeps s₀ (bankStore s addr bytes value) :=
  ⟨h.pending, h.member, h.stepping, fun i => ⟨(h.inv i).1, cellsOk_putCells _ _ (h.inv i).2.1, (h.inv i).2.2⟩⟩

theorem keeps_zeroBank {s₀ : State} {s : State} {b : Nat} (h : Keeps s₀ s) : Keeps s₀ (zeroBank s b) :=
  ⟨h.pending, h.member, h.stepping, fun i => ⟨(h.inv i).1, cellsOk_dropRange _ _ (h.inv i).2.1, (h.inv i).2.2⟩⟩

theorem keeps_bankTransfer {s₀ : State} {s : State} {id : Identity} {lo : Nat} {bytes : Nat} {k : AccessKind} (k0 : Keeps s₀ s)  : Keeps s₀ (bankTransfer s id lo bytes k).1 := by
  unfold bankTransfer
  repeat' (first
    | (with_reducible assumption) | intro _ | (with_reducible apply keeps_drawBool) | (with_reducible apply keeps_recordVio)
    | (with_reducible apply keeps_portServe) | (with_reducible apply keeps_bankError) | (with_reducible apply keeps_refuseWord)
    | (with_reducible apply keeps_foldl) | dsimp only | split | (with_reducible apply keeps_mk (s := _) <;> first | rfl | skip))

theorem keeps_fieldTransfer {s₀ : State} {s : State} {id : Identity} {role : Nat} {f : Nat} {island : Option Nat} {bytes : Nat} {k : AccessKind} (k0 : Keeps s₀ s)  : Keeps s₀ (fieldTransfer s id role f island bytes k).1 := by
  unfold fieldTransfer
  repeat' (first
    | (with_reducible assumption) | (intro q; with_reducible rfl) | (intro q; dsimp only; split <;> rfl) | intro _
    | (with_reducible apply keeps_drawNat) | (with_reducible apply keeps_bankTransfer) | (with_reducible apply keeps_ite)
    | (with_reducible rfl) | dsimp only | split)

theorem keeps_freeStagingSlot {s₀ : State} {s : State} {f : Nat} {island : Option Nat} (k0 : Keeps s₀ s)  : Keeps s₀ (freeStagingSlot s f island).2 := by
  unfold freeStagingSlot
  repeat' (first
    | (with_reducible exact k0) | (with_reducible apply keeps_drawNat) | dsimp only | split)

theorem keeps_stageBlock {s₀ : State} {s : State} {x : Nat × Nat} {bytes : List Byte} (h : Keeps s₀ s) : Keeps s₀ (stageBlock s x bytes) :=
  ⟨h.pending, h.member, h.stepping, fun i => ⟨(h.inv i).1, cellsOk_putCells _ _ (h.inv i).2.1, (h.inv i).2.2⟩⟩

theorem cellsOk_foldl {α : Type} {f : List Host.Cell → α → List Host.Cell} (hf : ∀ m a, cellsOk 0 m = true → cellsOk 0 (f m a) = true) :
    ∀ (l : List α) {m : List Host.Cell}, cellsOk 0 m = true → cellsOk 0 (l.foldl f m) = true
  | [], _, h => h
  | a :: l, m, h => cellsOk_foldl hf l (hf m a h)

theorem keeps_writeStage {s₀ : State} {s : State} {id : Identity} {x : Nat × Nat} {bytes : List Byte} (h : Keeps s₀ s) :
    Keeps s₀ (writeStage s id x bytes).1 := by
  have k : Keeps s₀ (bankTransfer s id (stageAddr x) stagedBytes .write).1 := keeps_bankTransfer h
  unfold writeStage
  dsimp only
  split
  · exact ⟨k.pending, k.member, k.stepping, fun i => ⟨(k.inv i).1,
      cellsOk_foldl (fun _ _ => cellsOk_putCells _ _) _ (cellsOk_putCells _ _ (h.inv i).2.1), (k.inv i).2.2⟩⟩
  · exact k

theorem keeps_zeroStage {s₀ : State} {s : State} {x : Nat × Nat} (h : Keeps s₀ s) : Keeps s₀ (zeroStage s x) :=
  ⟨h.pending, h.member, h.stepping, fun i => ⟨(h.inv i).1, cellsOk_dropRange _ _ (h.inv i).2.1, (h.inv i).2.2⟩⟩

theorem keeps_mapTransfer {s₀ : State} {s : State} {f : Nat} {k : AccessKind} (k0 : Keeps s₀ s)  : Keeps s₀ (mapTransfer s f k).1 := by
  unfold mapTransfer
  repeat' (first
    | (with_reducible exact k0) | (with_reducible apply keeps_fieldTransfer))

end Sys2Proof.Machine
end

