-- ==== Sys2Proof/Laws/KeepsReadStart.lean ====
section
/-! SUPPORT. What the operations of Machine/ReadStart.lean keep: the queue, the member, the stepping and the invariant `Inv`. -/

namespace Sys2Proof.Machine

set_option maxRecDepth 4000


theorem keeps_touchSegment {s₀ : State} {s : State} {f : Nat} {plot : Nat} {unit : Nat} {dirty : Bool} (k0 : Keeps s₀ s)  : Keeps s₀ (touchSegment s f plot unit dirty).1 := by
  unfold touchSegment
  repeat' (first
    | (with_reducible exact k0) | (with_reducible apply keeps_onField) | (with_reducible apply keeps_askSegments)
    | (with_reducible apply keeps_mapTransfer) | dsimp only | split)

theorem keeps_touchPage {s₀ : State} {s : State} {f : Nat} {o : DieOp} (k0 : Keeps s₀ s)  : Keeps s₀ (touchPage s f o) := by
  unfold touchPage
  repeat' (first
    | (with_reducible assumption) | intro _ | (with_reducible apply keeps_touchSegment) | (with_reducible apply keeps_foldl)
    | split)

theorem keeps_readRemote {s₀ : State} {s : State} {t : Task} {lba : Nat} {pos : Nat} {addr : Nat} (k0 : Keeps s₀ s)  : Keeps s₀ (readRemote s t lba pos addr) := by
  unfold readRemote
  repeat' (first
    | (with_reducible exact k0) | (with_reducible apply keeps_ringRequest) | (with_reducible apply keeps_settleTasks)
    | (with_reducible apply keeps_answerTask) | (with_reducible apply keeps_ite) | split)

theorem keeps_offerBlock {s₀ : State} {s : State} {f : Nat} {t : Task} {i : Nat} {addr : Nat} {first : Bool} (k0 : Keeps s₀ s)  : Keeps s₀ (offerBlock s f t i addr first) := by
  unfold offerBlock
  repeat' (first
    | (with_reducible exact k0) | (with_reducible apply keeps_onField) | (with_reducible apply keeps_queueOnce)
    | (with_reducible apply keeps_readRemote) | dsimp only | split)

theorem keeps_lookupBlock {s₀ : State} {s : State} {f : Nat} {t : Task} {i : Nat} (k0 : Keeps s₀ s)  : Keeps s₀ (lookupBlock s f t i).1 := by
  unfold lookupBlock
  repeat' (first
    | (with_reducible exact k0) | (with_reducible apply keeps_setTask) | (with_reducible apply keeps_touchSegment) | dsimp only
    | split)

theorem keeps_offerRead {s₀ : State} {s : State} {t : Task} (k0 : Keeps s₀ s)  : Keeps s₀ (offerRead s t) := by
  unfold offerRead
  repeat' (first
    | (with_reducible assumption) | intro _ | (with_reducible apply keeps_offerBlock) | (with_reducible apply keeps_lookupBlock)
    | (with_reducible apply keeps_foldl) | split | (refine keeps_of_fst (by assumption) ?_))

theorem keeps_sendUnit {s₀ : State} {s : State} {r : MemberRead} {medium : Bool} {a : Nat} (k0 : Keeps s₀ s)  : Keeps s₀ (sendUnit s r medium a) := by
  unfold sendUnit
  repeat' (first
    | (with_reducible exact k0) | (with_reducible apply keeps_drawNat) | (with_reducible apply keeps_drawBytes)
    | (with_reducible apply keeps_sendPair) | split)

theorem keeps_answerRead {s₀ : State} {s : State} {medium : Bool} {r : MemberRead} (k0 : Keeps s₀ s)  : Keeps s₀ (answerRead s medium r) := by
  unfold answerRead
  repeat' (first
    | (with_reducible assumption) | intro _ | (with_reducible apply keeps_modStk) | (with_reducible apply keeps_sendUnit)
    | (with_reducible apply keeps_foldl))

theorem keeps_offerMemberRead {s₀ : State} {s : State} {r : MemberRead} (k0 : Keeps s₀ s)  : Keeps s₀ (offerMemberRead s r) := by
  unfold offerMemberRead
  repeat' (first
    | (with_reducible exact k0) | (with_reducible apply keeps_queueOnce) | (with_reducible apply keeps_answerRead) | split)

theorem keeps_answerReads {s₀ : State} {s : State} {f : Nat} {b : BlkId} {page : Nat} {ok : Bool} (k0 : Keeps s₀ s)  : Keeps s₀ (answerReads s f b page ok) := by
  unfold answerReads
  repeat' (first
    | (with_reducible assumption) | intro _ | (with_reducible apply keeps_answerRead) | (with_reducible apply keeps_foldl))

theorem keeps_offerReads {s₀ : State} {s : State} (k0 : Keeps s₀ s)  : Keeps s₀ (offerReads s) := by
  unfold offerReads
  repeat' (first
    | (with_reducible assumption) | intro _ | (with_reducible apply keeps_askRebuilds) | (with_reducible apply keeps_offerRead)
    | (with_reducible apply keeps_offerMemberRead) | (with_reducible apply keeps_ite) | (with_reducible apply keeps_foldl))

theorem keeps_serveReads {s₀ : State} {s : State} (k0 : Keeps s₀ s)  : Keeps s₀ (serveReads s) := by
  unfold serveReads
  repeat' (first
    | (with_reducible exact k0) | (with_reducible apply keeps_advanceReads) | (with_reducible apply keeps_offerReads))

theorem keeps_startRead {s₀ : State} {s : State} {t : Task} (k0 : Keeps s₀ s)  : Keeps s₀ (startRead s t) := by
  unfold startRead
  repeat' (first
    | (with_reducible exact k0) | (with_reducible apply keeps_advanceRead) | (with_reducible apply keeps_askRebuilds)
    | (with_reducible apply keeps_offerRead) | dsimp only | split)

end Sys2Proof.Machine
end

