-- ==== Sys2Proof/Laws/KeepsRecipe.lean ====
section
/-! SUPPORT. What the operations of Machine/Recipe.lean keep: the queue, the member, the stepping and the invariant `Inv`. -/

namespace Sys2Proof.Machine

set_option maxRecDepth 4000


theorem keeps_modRun {s₀ : State} {s : State} {c : Nat} {d : Nat} {f : RunOp → RunOp} (k0 : Keeps s₀ s)  : Keeps s₀ (modRun s c d f) := by
  unfold modRun
  repeat' (first
    | (with_reducible exact k0) | (with_reducible apply keeps_modChan))

theorem keeps_noteReady {s₀ : State} {s : State} {c : Nat} (k0 : Keeps s₀ s)  : Keeps s₀ (noteReady s c) := by
  unfold noteReady
  repeat' (first
    | (with_reducible exact k0) | (with_reducible apply keeps_modChan))

theorem keeps_takeBus {s₀ : State} {s : State} {c : Nat} {d : Nat} (k0 : Keeps s₀ s)  : Keeps s₀ (takeBus s c d) := by
  unfold takeBus
  repeat' (first
    | (with_reducible exact k0) | (with_reducible apply keeps_modChan))

theorem keeps_freeBus {s₀ : State} {s : State} {c : Nat} {d : Nat} (k0 : Keeps s₀ s)  : Keeps s₀ (freeBus s c d) := by
  unfold freeBus
  repeat' (first
    | (with_reducible exact k0) | (with_reducible apply keeps_modChan) | (with_reducible apply keeps_noteReady))

theorem keeps_recipeFence {s₀ : State} {s : State} {c : Nat} {word : Nat} (k0 : Keeps s₀ s)  : Keeps s₀ (recipeFence s c word) := by
  unfold recipeFence
  repeat' (first
    | (with_reducible exact k0) | (with_reducible apply keeps_channelFault))

theorem keeps_rekeyDispatch {s₀ : State} {s : State} {f : Nat} (k0 : Keeps s₀ s)  : Keeps s₀ (rekeyDispatch s f) := by
  unfold rekeyDispatch
  repeat' (first
    | (with_reducible assumption) | intro _ | (with_reducible apply keeps_dispatchJob) | (with_reducible apply keeps_noCipher)
    | (with_reducible apply keeps_foldl) | dsimp only | split)

theorem keeps_endRead {s₀ : State} {s : State} {c : Nat} {r : RunOp} {pass : Bool} (k0 : Keeps s₀ s)  : Keeps s₀ (endRead s c r pass) := by
  unfold endRead
  repeat' (first
    | (with_reducible exact k0) | (with_reducible apply keeps_modField) | (with_reducible apply keeps_modChan)
    | (with_reducible apply keeps_onField) | (with_reducible apply keeps_pageArrived) | (with_reducible apply keeps_runField)
    | (with_reducible apply keeps_answerReads) | (with_reducible apply keeps_serveReads)
    | (with_reducible apply keeps_rekeyDispatch) | (with_reducible apply keeps_ite) | dsimp only | split)

theorem keeps_pageDoneOf {s₀ : State} {s : State} {f : Nat} {pass : Bool} {o : DieOp} (k0 : Keeps s₀ s)  : Keeps s₀ (pageDoneOf s f pass o) := by
  unfold pageDoneOf
  repeat' (first
    | (with_reducible exact k0) | (with_reducible apply keeps_modStk) | (with_reducible apply keeps_ringSend) | dsimp only | split)

theorem keeps_brecOut {s₀ : State} {s : State} {f : Nat} {bs : List BlkId} (k0 : Keeps s₀ s)  : Keeps s₀ (brecOut s f bs) := by
  unfold brecOut
  exact keeps_ringSend k0

theorem keeps_memberPassed {s₀ : State} {s : State} {f : Nat} {o : DieOp} (k0 : Keeps s₀ s)  : Keeps s₀ (memberPassed s f o) := by
  unfold memberPassed
  repeat' (first
    | (with_reducible exact k0) | (with_reducible apply keeps_brecOut) | (with_reducible apply keeps_modField) | dsimp only | split)

theorem keeps_sendBrec {s₀ : State} {s : State} {f : Nat} {b : BlkId} (k0 : Keeps s₀ s)  : Keeps s₀ (sendBrec s f b) := by
  unfold sendBrec
  repeat' (first
    | (with_reducible exact k0) | (with_reducible apply keeps_modStk) | (with_reducible apply keeps_brecOut))

theorem keeps_endProgram {s₀ : State} {s : State} {c : Nat} {r : RunOp} {pass : Bool} (k0 : Keeps s₀ s)  : Keeps s₀ (endProgram s c r pass) := by
  unfold endProgram
  repeat' (first
    | (with_reducible assumption) | intro _ | (with_reducible apply keeps_modChan) | (with_reducible apply keeps_onField)
    | (with_reducible apply keeps_updateHeadland) | (with_reducible apply keeps_runField) | (with_reducible apply keeps_touchPage)
    | (with_reducible apply keeps_serveReads) | (with_reducible apply keeps_pageDoneOf)
    | (with_reducible apply keeps_memberPassed) | (with_reducible apply keeps_brecOut) | (with_reducible apply keeps_ite)
    | (with_reducible apply keeps_foldl) | split)

theorem keeps_endErase {s₀ : State} {s : State} {c : Nat} {r : RunOp} {pass : Bool} (k0 : Keeps s₀ s)  : Keeps s₀ (endErase s c r pass) := by
  unfold endErase
  repeat' (first
    | (with_reducible assumption) | intro _ | (with_reducible apply keeps_modField) | (with_reducible apply keeps_modChan)
    | (with_reducible apply keeps_updateHeadland) | (with_reducible apply keeps_runField)
    | (with_reducible apply keeps_serveReads) | (with_reducible apply keeps_sendBrec) | (with_reducible apply keeps_ite)
    | (with_reducible apply keeps_foldl) | split)

theorem keeps_endOp {s₀ : State} {s : State} {c : Nat} {d : Nat} {pass : Bool} (k0 : Keeps s₀ s)  : Keeps s₀ (endOp s c d pass) := by
  unfold endOp
  repeat' (first
    | (with_reducible exact k0) | (with_reducible apply keeps_modChan) | (with_reducible apply keeps_settleRecipe)
    | (with_reducible apply keeps_freeBus) | (with_reducible apply keeps_recipeFence) | (with_reducible apply keeps_endRead)
    | (with_reducible apply keeps_endProgram) | (with_reducible apply keeps_endErase) | (with_reducible apply keeps_step)
    | (with_reducible apply keeps_ite) | split)

theorem keeps_oweReset {s₀ : State} {s : State} {c : Nat} (k0 : Keeps s₀ s)  : Keeps s₀ (oweReset s c) := by
  unfold oweReset
  repeat' (first
    | (with_reducible exact k0) | (with_reducible apply keeps_modChan))

theorem keeps_modeAbort {s₀ : State} {s : State} {c : Nat} {d : Nat} {r : RunOp} (k0 : Keeps s₀ s)  : Keeps s₀ (modeAbort s c d r) := by
  unfold modeAbort
  repeat' (first
    | (with_reducible exact k0) | (with_reducible apply keeps_modChan) | (with_reducible apply keeps_recipeFence)
    | (with_reducible apply keeps_ite))

theorem keeps_seqFault {s₀ : State} {s : State} {c : Nat} {d : Nat} {kind : Nat} (k0 : Keeps s₀ s)  : Keeps s₀ (seqFault s c d kind) := by
  unfold seqFault
  repeat' (first
    | (with_reducible exact k0) | (with_reducible apply keeps_modChan) | (with_reducible apply keeps_modRun)
    | (with_reducible apply keeps_endOp) | (with_reducible apply keeps_modeAbort) | split)

theorem keeps_stepTo {s₀ : State} {s : State} {c : Nat} {d : Nat} {next : Nat} {last : Bool} (k0 : Keeps s₀ s)  : Keeps s₀ (stepTo s c d next last) := by
  unfold stepTo
  repeat' (first
    | (with_reducible exact k0) | (with_reducible apply keeps_modRun) | (with_reducible apply keeps_endOp)
    | (with_reducible apply keeps_seqFault) | (with_reducible apply keeps_ite) | split)

theorem keeps_onStep {s₀ : State} {s : State} {c : Nat} {d : Nat} {w : RecWord} {f : State → RunOp → State} (k0 : Keeps s₀ s) (hf : ∀ x0 x1, Keeps s₀ x0 → Keeps s₀ (f x0 x1)) : Keeps s₀ (onStep s c d w f) := by
  unfold onStep
  repeat' (first
    | (with_reducible exact k0) | apply hf | (with_reducible apply keeps_modRun) | (with_reducible apply keeps_takeBus) | split)

theorem keeps_notePhase {s₀ : State} {s : State} {c : Nat} {d : Nat} {bus : List BusCycle} {transfer : Bool} (k0 : Keeps s₀ s)  : Keeps s₀ (notePhase s c d bus transfer) := by
  unfold notePhase
  repeat' (first
    | (with_reducible exact k0) | (with_reducible apply keeps_modChan))

theorem keeps_beginPoll {s₀ : State} {s : State} {c : Nat} {d : Nat} {busy : Nat} {byte : Byte} {lun : Bool} {last : Bool} (k0 : Keeps s₀ s)  : Keeps s₀ (beginPoll s c d busy byte lun last) := by
  unfold beginPoll
  repeat' (first
    | (with_reducible exact k0) | (with_reducible apply keeps_modRun) | (with_reducible apply keeps_freeBus))

theorem keeps_noteBegun {s₀ : State} {s : State} {c : Nat} {r : RunOp} (k0 : Keeps s₀ s)  : Keeps s₀ (noteBegun s c r) := by
  unfold noteBegun
  repeat' (first
    | (with_reducible exact k0) | (with_reducible apply keeps_modField) | split)

theorem keeps_execEnter {s₀ : State} {ch : Nat} {die : Nat} {tmo : Nat} {err : Nat} {s : State} (k0 : Keeps s₀ s) :
    ∃ t', execEnter ch die tmo err s = .next t' ∧ Keeps s₀ t' := by
  unfold execEnter
  refine ⟨_, rfl, ?_⟩
  repeat' (first
    | (with_reducible exact k0) | (with_reducible apply keeps_modChan) | (with_reducible apply keeps_takeBus)
    | (with_reducible apply keeps_stepTo) | (with_reducible apply keeps_noteBegun) | dsimp only | split)

theorem keeps_execCmd {s₀ : State} {ch : Nat} {die : Nat} {byte : Byte} {wait : Bool} {busy : Nat} {last : Bool} {s : State} (k0 : Keeps s₀ s) :
    ∃ t', execCmd ch die byte wait busy last s = .next t' ∧ Keeps s₀ t' := by
  unfold execCmd
  refine ⟨_, rfl, ?_⟩
  repeat' (first
    | (with_reducible assumption) | intro _ | (with_reducible apply keeps_stepTo) | (with_reducible apply keeps_onStep)
    | (with_reducible apply keeps_notePhase) | (with_reducible apply keeps_beginPoll) | (with_reducible apply keeps_ite))

theorem keeps_execCmdl {s₀ : State} {ch : Nat} {die : Nat} {notLast : Byte} {lastB : Byte} {level : Nat} {none : Bool} {wait : Bool} {waitLast : Bool} {busy : Nat} {last : Bool} {s : State} (k0 : Keeps s₀ s) :
    ∃ t', execCmdl ch die notLast lastB level none wait waitLast busy last s = .next t' ∧ Keeps s₀ t' := by
  unfold execCmdl
  refine ⟨_, rfl, ?_⟩
  repeat' (first
    | (with_reducible assumption) | intro _ | (with_reducible apply keeps_stepTo) | (with_reducible apply keeps_onStep)
    | (with_reducible apply keeps_notePhase) | (with_reducible apply keeps_beginPoll) | (with_reducible apply keeps_ite))

theorem keeps_execAddr {s₀ : State} {ch : Nat} {die : Nat} {kind : AddrKind} {last : Bool} {s : State} (k0 : Keeps s₀ s) :
    ∃ t', execAddr ch die kind last s = .next t' ∧ Keeps s₀ t' := by
  unfold execAddr
  refine ⟨_, rfl, ?_⟩
  repeat' (first
    | (with_reducible assumption) | intro _ | (with_reducible apply keeps_stepTo) | (with_reducible apply keeps_onStep)
    | (with_reducible apply keeps_notePhase))

theorem keeps_execDout {s₀ : State} {ch : Nat} {die : Nat} {src : DoutSrc} {last : Bool} {s : State} (k0 : Keeps s₀ s) :
    ∃ t', execDout ch die src last s = .next t' ∧ Keeps s₀ t' := by
  unfold execDout
  refine ⟨_, rfl, ?_⟩
  repeat' (first
    | (with_reducible assumption) | intro _ | (with_reducible apply keeps_stepTo) | (with_reducible apply keeps_onStep)
    | (with_reducible apply keeps_notePhase))

theorem keeps_execDin {s₀ : State} {ch : Nat} {die : Nat} {dst : DinDst} {colSel : Bool} {last : Bool} {s : State} (k0 : Keeps s₀ s) :
    ∃ t', execDin ch die dst colSel last s = .next t' ∧ Keeps s₀ t' := by
  unfold execDin
  refine ⟨_, rfl, ?_⟩
  repeat' (first
    | (with_reducible assumption) | intro _ | (with_reducible apply keeps_modRun) | (with_reducible apply keeps_stepTo)
    | (with_reducible apply keeps_onStep) | (with_reducible apply keeps_notePhase))

theorem keeps_execWait {s₀ : State} {ch : Nat} {die : Nat} {t : Nat} {last : Bool} {s : State} (k0 : Keeps s₀ s) :
    ∃ t', execWait ch die t last s = .next t' ∧ Keeps s₀ t' := by
  unfold execWait
  refine ⟨_, rfl, ?_⟩
  repeat' (first
    | (with_reducible assumption) | intro _ | (with_reducible apply keeps_modChan) | (with_reducible apply keeps_modRun)
    | (with_reducible apply keeps_freeBus) | (with_reducible apply keeps_onStep))

theorem keeps_takeStatus {s₀ : State} {s : State} {ch : Nat} {die : Nat} {r : RunOp} {status : Byte} (k0 : Keeps s₀ s)  : Keeps s₀ (takeStatus s ch die r status) := by
  unfold takeStatus
  repeat' (first
    | (with_reducible exact k0) | (with_reducible apply keeps_modChan) | (with_reducible apply keeps_modRun)
    | (with_reducible apply keeps_takeBus) | (with_reducible apply keeps_freeBus) | (with_reducible apply keeps_stepTo)
    | (with_reducible apply keeps_ite))

theorem keeps_execWaitElapsed {s₀ : State} {ch : Nat} {die : Nat} {status : Byte} {s : State} (k0 : Keeps s₀ s) :
    ∃ t', execWaitElapsed ch die status s = .next t' ∧ Keeps s₀ t' := by
  unfold execWaitElapsed
  refine ⟨_, rfl, ?_⟩
  repeat' (first
    | (with_reducible exact k0) | (with_reducible apply keeps_modRun) | (with_reducible apply keeps_noteReady)
    | (with_reducible apply keeps_stepTo) | (with_reducible apply keeps_takeStatus) | split)

theorem keeps_execPoll {s₀ : State} {ch : Nat} {die : Nat} {byte : Byte} {busy : Nat} {lunAddr : Bool} {last : Bool} {s : State} (k0 : Keeps s₀ s) :
    ∃ t', execPoll ch die byte busy lunAddr last s = .next t' ∧ Keeps s₀ t' := by
  unfold execPoll
  refine ⟨_, rfl, ?_⟩
  repeat' (first
    | (with_reducible assumption) | intro _ | (with_reducible apply keeps_modChan) | (with_reducible apply keeps_onStep)
    | (with_reducible apply keeps_beginPoll))

theorem keeps_execStatusPoll {s₀ : State} {ch : Nat} {die : Nat} {status : Byte} {s : State} (k0 : Keeps s₀ s) :
    ∃ t', execStatusPoll ch die status s = .next t' ∧ Keeps s₀ t' := by
  unfold execStatusPoll
  refine ⟨_, rfl, ?_⟩
  repeat' (first
    | (with_reducible exact k0) | (with_reducible apply keeps_takeStatus) | split)

theorem keeps_branchTo {s₀ : State} {s : State} {c : Nat} {d : Nat} {target : Nat} (k0 : Keeps s₀ s)  : Keeps s₀ (branchTo s c d target) := by
  unfold branchTo
  repeat' (first
    | (with_reducible exact k0) | (with_reducible apply keeps_modRun) | (with_reducible apply keeps_stepTo) | split)

theorem keeps_execTest {s₀ : State} {ch : Nat} {die : Nat} {mask : Byte} {sense : Bool} {target : Nat} {last : Bool} {s : State} (k0 : Keeps s₀ s) :
    ∃ t', execTest ch die mask sense target last s = .next t' ∧ Keeps s₀ t' := by
  unfold execTest
  refine ⟨_, rfl, ?_⟩
  repeat' (first
    | (with_reducible assumption) | intro _ | (with_reducible apply keeps_seqFault) | (with_reducible apply keeps_stepTo)
    | (with_reducible apply keeps_onStep) | (with_reducible apply keeps_branchTo) | (with_reducible apply keeps_ite))

theorem keeps_execLoop {s₀ : State} {ch : Nat} {die : Nat} {src : LoopSrc} {s : State} (k0 : Keeps s₀ s) :
    ∃ t', execLoop ch die src s = .next t' ∧ Keeps s₀ t' := by
  unfold execLoop
  refine ⟨_, rfl, ?_⟩
  repeat' (first
    | (with_reducible assumption) | intro _ | (with_reducible apply keeps_modRun) | (with_reducible apply keeps_stepTo)
    | (with_reducible apply keeps_onStep) | (with_reducible apply keeps_ite))

theorem keeps_execNext {s₀ : State} {ch : Nat} {die : Nat} {s : State} (k0 : Keeps s₀ s) :
    ∃ t', execNext ch die s = .next t' ∧ Keeps s₀ t' := by
  unfold execNext
  refine ⟨_, rfl, ?_⟩
  repeat' (first
    | (with_reducible assumption) | intro _ | (with_reducible apply keeps_modRun) | (with_reducible apply keeps_stepTo)
    | (with_reducible apply keeps_onStep) | split)

theorem keeps_execJump {s₀ : State} {ch : Nat} {die : Nat} {target : Nat} {s : State} (k0 : Keeps s₀ s) :
    ∃ t', execJump ch die target s = .next t' ∧ Keeps s₀ t' := by
  unfold execJump
  refine ⟨_, rfl, ?_⟩
  repeat' (first
    | (with_reducible assumption) | intro _ | (with_reducible apply keeps_onStep) | (with_reducible apply keeps_branchTo))

theorem keeps_execMode {s₀ : State} {ch : Nat} {die : Nat} {iface : IfaceKind} {tmode : Nat} {last : Bool} {s : State} (k0 : Keeps s₀ s) :
    ∃ t', execMode ch die iface tmode last s = .next t' ∧ Keeps s₀ t' := by
  unfold execMode
  refine ⟨_, rfl, ?_⟩
  repeat' (first
    | (with_reducible assumption) | intro _ | (with_reducible apply keeps_modChan) | (with_reducible apply keeps_modRun)
    | (with_reducible apply keeps_stepTo) | (with_reducible apply keeps_onStep))

theorem keeps_execSetv {s₀ : State} {ch : Nat} {die : Nat} {k : Nat} {high : Bool} {value : BitVec 16} {last : Bool} {s : State} (k0 : Keeps s₀ s) :
    ∃ t', execSetv ch die k high value last s = .next t' ∧ Keeps s₀ t' := by
  unfold execSetv
  refine ⟨_, rfl, ?_⟩
  repeat' (first
    | (with_reducible assumption) | intro _ | (with_reducible apply keeps_modRun) | (with_reducible apply keeps_stepTo)
    | (with_reducible apply keeps_onStep))

theorem keeps_execFail {s₀ : State} {ch : Nat} {die : Nat} {s : State} (k0 : Keeps s₀ s) :
    ∃ t', execFail ch die s = .next t' ∧ Keeps s₀ t' := by
  unfold execFail
  refine ⟨_, rfl, ?_⟩
  repeat' (first
    | (with_reducible assumption) | intro _ | (with_reducible apply keeps_seqFault) | (with_reducible apply keeps_onStep))

theorem keeps_execEnd {s₀ : State} {ch : Nat} {die : Nat} {s : State} (k0 : Keeps s₀ s) :
    ∃ t', execEnd ch die s = .next t' ∧ Keeps s₀ t' := by
  unfold execEnd
  refine ⟨_, rfl, ?_⟩
  repeat' (first
    | (with_reducible assumption) | intro _ | (with_reducible apply keeps_endOp) | (with_reducible apply keeps_onStep))

theorem keeps_execRecipeTimeout {s₀ : State} {ch : Nat} {die : Nat} {s : State} (k0 : Keeps s₀ s) :
    ∃ t', execRecipeTimeout ch die s = .next t' ∧ Keeps s₀ t' := by
  unfold execRecipeTimeout
  refine ⟨_, rfl, ?_⟩
  repeat' (first
    | (with_reducible exact k0) | (with_reducible apply keeps_recipeFence) | split)

end Sys2Proof.Machine
end

