-- ==== Sys2Proof/Laws/KeepsTasks.lean ====
section
/-! SUPPORT. What the operations of Machine/Tasks.lean keep: the queue, the member, the stepping and the invariant `Inv`. -/

namespace Sys2Proof.Machine

set_option maxRecDepth 4000


theorem keeps_replyScsi {s₀ : State} {s : State} {key : TaskKey} {st : ScsiStatus} {data : List Byte} (k0 : Keeps s₀ s)  : Keeps s₀ (replyScsi s key st data) := by
  unfold replyScsi
  repeat' (first
    | (with_reducible exact k0) | (with_reducible apply keeps_ringSend) | (with_reducible apply keeps_sendScsi) | split)

theorem keeps_unmapTrim {s₀ : State} {s : State} {f : Nat} {e : Entry} (k0 : Keeps s₀ s)  : Keeps s₀ (unmapTrim s f e) := by
  unfold unmapTrim
  repeat' (first
    | (with_reducible exact k0) | (with_reducible apply keeps_onField) | (with_reducible apply keeps_askSegments)
    | (with_reducible apply keeps_mapTransfer) | (with_reducible apply keeps_ite))

theorem keeps_applyDiscard {s₀ : State} {s : State} {f : Nat} {t : Task} (k0 : Keeps s₀ s)  : Keeps s₀ (applyDiscard s f t) := by
  unfold applyDiscard
  repeat' (first
    | (with_reducible assumption) | intro _ | (with_reducible apply keeps_drawNat) | (with_reducible apply keeps_onField)
    | (with_reducible apply keeps_zeroStage) | (with_reducible apply keeps_unmapTrim) | (with_reducible apply keeps_ite)
    | (with_reducible apply keeps_foldl))

theorem keeps_secureMoves {s₀ : State} {s : State} {f : Nat} {t : Task} {blocks : List BlkId} (k0 : Keeps s₀ s)  : Keeps s₀ (secureMoves s f t blocks) := by
  unfold secureMoves
  repeat' (first
    | (with_reducible exact k0) | (with_reducible apply keeps_onField))

theorem keeps_beginDiscard {s₀ : State} {s : State} {f : Nat} {t : Task} (k0 : Keeps s₀ s)  : Keeps s₀ (beginDiscard s f t) := by
  unfold beginDiscard
  repeat' (first
    | (with_reducible exact k0) | (with_reducible apply keeps_modField) | (with_reducible apply keeps_answerTask)
    | (with_reducible apply keeps_runField) | (with_reducible apply keeps_develop) | (with_reducible apply keeps_applyDiscard)
    | (with_reducible apply keeps_secureMoves) | (with_reducible apply keeps_ite))

theorem keeps_beginFlush {s₀ : State} {s : State} {f : Nat} {t : Task} (k0 : Keeps s₀ s)  : Keeps s₀ (beginFlush s f t) := by
  unfold beginFlush
  repeat' (first
    | (with_reducible exact k0) | (with_reducible apply keeps_modField) | (with_reducible apply keeps_answerTask)
    | (with_reducible apply keeps_onField) | (with_reducible apply keeps_runField) | (with_reducible apply keeps_develop) | split)

theorem keeps_trimPlot {s₀ : State} {s : State} {f : Nat} {n : Nat} {order : Nat} (k0 : Keeps s₀ s)  : Keeps s₀ (trimPlot s f n order) := by
  unfold trimPlot
  repeat' (first
    | (with_reducible exact k0) | (with_reducible apply keeps_modPlot) | (with_reducible apply keeps_modField)
    | (with_reducible apply keeps_runField) | (with_reducible apply keeps_ite))

theorem keeps_trimOwed {s₀ : State} {s : State} {f : Nat} (k0 : Keeps s₀ s)  : Keeps s₀ (trimOwed s f) := by
  unfold trimOwed
  repeat' (first
    | (with_reducible assumption) | intro _ | (with_reducible apply keeps_modPlot) | (with_reducible apply keeps_trimPlot)
    | (with_reducible apply keeps_foldl) | split)

theorem keeps_clearMap {s₀ : State} {s : State} {n : Nat} (k0 : Keeps s₀ s)  : Keeps s₀ (clearMap s n) := by
  unfold clearMap
  repeat' (first
    | (with_reducible exact k0) | (with_reducible apply keeps_modField) | (with_reducible apply keeps_runField) | split)

theorem keeps_emptyPlot {s₀ : State} {s : State} {n : Nat} {order : Nat} (k0 : Keeps s₀ s)  : Keeps s₀ (emptyPlot s n order) := by
  unfold emptyPlot
  repeat' (first
    | (with_reducible exact k0) | (with_reducible apply keeps_modPlot) | (with_reducible apply keeps_trimPlot)
    | (with_reducible apply keeps_clearMap) | split)

theorem keeps_tellMember {s₀ : State} {s : State} {t : Task} {number : Nat} (k0 : Keeps s₀ s)  : Keeps s₀ (tellMember s t number) := by
  unfold tellMember
  repeat' (first
    | (with_reducible exact k0) | (with_reducible apply keeps_ringSend) | split)

theorem keeps_endGranted {s₀ : State} {s : State} {t : Task} {st : ScsiStatus} (k0 : Keeps s₀ s)  : Keeps s₀ (endGranted s t st) := by
  unfold endGranted
  repeat' (first
    | (with_reducible exact k0) | (with_reducible apply keeps_releaseTicket) | (with_reducible apply keeps_replyScsi) | split)

theorem keeps_beginTask {s₀ : State} {s : State} {t : Task} (k0 : Keeps s₀ s)  : Keeps s₀ (beginTask s t) := by
  unfold beginTask
  repeat' (first
    | (with_reducible exact k0) | (with_reducible apply keeps_modPlot) | (with_reducible apply keeps_modTasks)
    | (with_reducible apply keeps_answerTask) | (with_reducible apply keeps_startRead) | (with_reducible apply keeps_beginDiscard)
    | (with_reducible apply keeps_beginFlush) | (with_reducible apply keeps_trimPlot) | (with_reducible apply keeps_tellMember)
    | (with_reducible apply keeps_endGranted) | dsimp only | split | (refine keeps_issueOrder ?_ (by assumption)))

theorem keeps_noTicket {s₀ : State} {s : State} {t : Task} (k0 : Keeps s₀ s)  : Keeps s₀ (noTicket s t) := by
  unfold noTicket
  repeat' (first
    | (with_reducible exact k0) | (with_reducible apply keeps_modTasks) | (with_reducible apply keeps_ringSend)
    | (with_reducible apply keeps_sendScsi) | (with_reducible apply keeps_respond) | split)

theorem keeps_grantTask {s₀ : State} {s : State} {t : Task} {id : Nat} (k0 : Keeps s₀ s)  : Keeps s₀ (grantTask s t id) := by
  unfold grantTask
  repeat' (first
    | (with_reducible exact k0) | (with_reducible apply keeps_noteGrant) | (with_reducible apply keeps_beginTask))

theorem keeps_startTask {s₀ : State} {s : State} {t : Task} (k0 : Keeps s₀ s)  : Keeps s₀ (startTask s t) := by
  unfold startTask
  repeat' (first
    | (with_reducible exact k0) | (with_reducible apply keeps_countTsf) | (with_reducible apply keeps_noteGrant)
    | (with_reducible apply keeps_noTicket) | (with_reducible apply keeps_grantTask) | split
    | (refine keeps_drawTicket ?_ (by assumption)))

end Sys2Proof.Machine
end

