-- ==== Sys2Proof/Laws/KeepsData.lean ====
section
/-! SUPPORT. What the operations of Machine/Data.lean keep: the queue, the member, the stepping and the invariant `Inv`. -/

namespace Sys2Proof.Machine

set_option maxRecDepth 4000


theorem keeps_popEngine {s₀ : State} {s : State} {e : Nat} (k0 : Keeps s₀ s)  : Keeps s₀ (popEngine s e) := by
  unfold popEngine
  repeat' (first
    | (with_reducible exact k0) | (with_reducible apply keeps_modEngine))

theorem keeps_offerRekeys {s₀ : State} {s : State} (k0 : Keeps s₀ s)  : Keeps s₀ (offerRekeys s) := by
  unfold offerRekeys
  repeat' (first
    | (with_reducible assumption) | intro _ | (with_reducible apply keeps_rekeyDispatch) | (with_reducible apply keeps_ite)
    | (with_reducible apply keeps_foldl))

theorem keeps_dropTransfer {s₀ : State} {s : State} {island : Nat} (k0 : Keeps s₀ s)  : Keeps s₀ (dropTransfer s island) := by
  unfold dropTransfer
  repeat' (first
    | (with_reducible exact k0) | (with_reducible apply keeps_modChan) | (with_reducible apply keeps_setTask)
    | (with_reducible apply keeps_freeBus) | (with_reducible apply keeps_popEngine) | split)

theorem keeps_execWatchdogExpiry {s₀ : State} {requester : Nat} {responder : Nat} {s : State} (k0 : Keeps s₀ s) :
    ∃ t', execWatchdogExpiry requester responder s = .next t' ∧ Keeps s₀ t' := by
  unfold execWatchdogExpiry
  refine ⟨_, rfl, ?_⟩
  repeat' (first
    | (with_reducible exact k0) | (with_reducible apply keeps_modArb) | (with_reducible apply keeps_islandFault)
    | (with_reducible apply keeps_offerRekeys) | (with_reducible apply keeps_dropTransfer))

theorem keeps_sendToMaster {s₀ : State} {s : State} {t : Task} {j : BlockJob} (k0 : Keeps s₀ s)  : Keeps s₀ (sendToMaster s t j) := by
  unfold sendToMaster
  repeat' (first
    | (with_reducible exact k0) | (with_reducible apply keeps_ringRequest) | (with_reducible apply keeps_settleTasks)
    | (with_reducible apply keeps_answerTask) | (with_reducible apply keeps_ite))

theorem keeps_execBlockReceived {s₀ : State} {key : TaskKey} {idx : Nat} {dir : CipherDir} {data : Block} {env : Envelope} {s : State} (k0 : Keeps s₀ s) :
    ∃ t', execBlockReceived key idx dir data env s = .next t' ∧ Keeps s₀ t' := by
  unfold execBlockReceived
  refine ⟨_, rfl, ?_⟩
  repeat' (first
    | (with_reducible exact k0) | (with_reducible apply keeps_setTask) | (with_reducible apply keeps_forwardBlock)
    | (with_reducible apply keeps_dispatchJob) | (with_reducible apply keeps_noCipher) | (with_reducible apply keeps_offerRekeys)
    | dsimp only | split)

theorem keeps_acceptBlock {s₀ : State} {s : State} {t : Task} {j : BlockJob} {stamp : Nat} {slots : List (Nat × Nat)} (k0 : Keeps s₀ s)  : Keeps s₀ (acceptBlock s t j stamp slots) := by
  unfold acceptBlock
  repeat' (first
    | (with_reducible exact k0) | (with_reducible apply keeps_modField) | (with_reducible apply keeps_setTask)
    | (with_reducible apply keeps_ite) | split)

theorem keeps_finishWrite {s₀ : State} {s : State} {key : TaskKey} (k0 : Keeps s₀ s)  : Keeps s₀ (finishWrite s key) := by
  unfold finishWrite
  repeat' (first
    | (with_reducible exact k0) | (with_reducible apply keeps_modField) | (with_reducible apply keeps_answerTask)
    | (with_reducible apply keeps_runField) | (with_reducible apply keeps_develop) | split)

theorem keeps_stageVersion {s₀ : State} {s : State} {id : Identity} {f : Nat} {e : Entry} {bytes : List Byte} (k0 : Keeps s₀ s)  : Keeps s₀ (stageVersion s id f e bytes).1 := by
  unfold stageVersion
  repeat' (first
    | (with_reducible exact k0) | (with_reducible apply keeps_freeStagingSlot) | (with_reducible apply keeps_writeStage) | split
    | (refine keeps_of_snd (by assumption) ?_))

theorem keeps_cipherRead {s₀ : State} {s : State} {f : Nat} {engine : Nat} {plot : Nat} {lba : Nat} {order : Option Nat} {addr : Option Nat} (k0 : Keeps s₀ s)  : Keeps s₀ (cipherRead s f engine plot lba order addr).1 := by
  unfold cipherRead
  repeat' (first
    | (with_reducible exact k0) | (with_reducible apply keeps_bankTransfer) | (with_reducible apply keeps_fieldTransfer)
    | dsimp only | split)

theorem keeps_modRekey {s₀ : State} {s : State} {f : Nat} {n : Nat} {g : RekeyUnit → RekeyUnit} (k0 : Keeps s₀ s)  : Keeps s₀ (modRekey s f n g) := by
  unfold modRekey
  repeat' (first
    | (with_reducible exact k0) | (with_reducible apply keeps_modField))

theorem keeps_retag {s₀ : State} {s : State} {f : Nat} {n : Nat} {lbas : List Nat} (k0 : Keeps s₀ s)  : Keeps s₀ (retag s f n lbas) := by
  unfold retag
  repeat' (first
    | (with_reducible exact k0) | (with_reducible apply keeps_modField))

theorem keeps_placeRekeyed {s₀ : State} {s : State} {f : Nat} {n : Nat} (k0 : Keeps s₀ s)  : Keeps s₀ (placeRekeyed s f n) := by
  unfold placeRekeyed
  repeat' (first
    | (with_reducible exact k0) | (with_reducible apply keeps_onField) | (with_reducible apply keeps_runField)
    | (with_reducible apply keeps_serveReads) | (with_reducible apply keeps_retag) | split)

theorem keeps_envelopeFault {s₀ : State} {s : State} {engine : Nat} {j : BlockJob} {f : Option Nat} {page : Option Nat} {v : EnvVerdict} (k0 : Keeps s₀ s)  : Keeps s₀ (envelopeFault s engine j f page v) := by
  unfold envelopeFault
  repeat' (first
    | (with_reducible exact k0) | (with_reducible apply keeps_logFault) | (with_reducible apply keeps_engineFault)
    | (with_reducible apply keeps_channelFault) | (with_reducible apply keeps_fieldFault) | dsimp only | split)

theorem keeps_execEchoCheckDone {s₀ : State} {engine : Nat} {pass : Bool} {s : State} (k0 : Keeps s₀ s) :
    ∃ t', execEchoCheckDone engine pass s = .next t' ∧ Keeps s₀ t' := by
  unfold execEchoCheckDone
  refine ⟨_, rfl, ?_⟩
  repeat' (first
    | (with_reducible exact k0) | (with_reducible apply keeps_modEngine) | (with_reducible apply keeps_drawNat)
    | (with_reducible apply keeps_settleTasks) | (with_reducible apply keeps_engineFault)
    | (with_reducible apply keeps_fieldTransfer) | (with_reducible apply keeps_serveReads)
    | (with_reducible apply keeps_popEngine) | (with_reducible apply keeps_offerRekeys)
    | (with_reducible apply keeps_sendToMaster) | (with_reducible apply keeps_acceptBlock)
    | (with_reducible apply keeps_finishWrite) | (with_reducible apply keeps_stageVersion) | (with_reducible apply keeps_modRekey)
    | (with_reducible apply keeps_placeRekeyed) | (with_reducible apply keeps_ite) | split)

theorem keeps_rekeyDecrypted {s₀ : State} {s : State} {f : Nat} {engine : Nat} {j : BlockJob} {ok : Bool} {verdict : EnvVerdict} (k0 : Keeps s₀ s)  : Keeps s₀ (rekeyDecrypted s f engine j ok verdict) := by
  unfold rekeyDecrypted
  repeat' (first
    | (with_reducible exact k0) | (with_reducible apply keeps_modField) | (with_reducible apply keeps_rekeyDispatch)
    | (with_reducible apply keeps_modRekey) | (with_reducible apply keeps_envelopeFault) | split)

theorem keeps_execDecryptDone {s₀ : State} {engine : Nat} {tagOk : Bool} {verdict : EnvVerdict} {portCrcOk : Bool} {s : State} (k0 : Keeps s₀ s) :
    ∃ t', execDecryptDone engine tagOk verdict portCrcOk s = .next t' ∧ Keeps s₀ t' := by
  unfold execDecryptDone
  refine ⟨_, rfl, ?_⟩
  repeat' (first
    | (with_reducible exact k0) | (with_reducible apply keeps_settleTasks) | (with_reducible apply keeps_setTask)
    | (with_reducible apply keeps_advanceRead) | (with_reducible apply keeps_failBlock) | (with_reducible apply keeps_enterScope)
    | (with_reducible apply keeps_serveReads) | (with_reducible apply keeps_popEngine) | (with_reducible apply keeps_offerRekeys)
    | (with_reducible apply keeps_cipherRead) | (with_reducible apply keeps_envelopeFault)
    | (with_reducible apply keeps_rekeyDecrypted) | dsimp only | split)

theorem keeps_execFixPointRecorded {s₀ : State} {field : Nat} {s : State} (k0 : Keeps s₀ s) :
    ∃ t', execFixPointRecorded field s = .next t' ∧ Keeps s₀ t' := by
  unfold execFixPointRecorded
  refine ⟨_, rfl, ?_⟩
  repeat' (first
    | (with_reducible exact k0) | (with_reducible apply keeps_modField) | (with_reducible apply keeps_structWrite)
    | (with_reducible apply keeps_releaseTicket) | (with_reducible apply keeps_noteRekey) | (with_reducible apply keeps_runField)
    | split)

theorem keeps_execDoseTick {s₀ : State} {s : State} (k0 : Keeps s₀ s) :
    ∃ t', execDoseTick s = .next t' ∧ Keeps s₀ t' := by
  unfold execDoseTick
  refine ⟨_, rfl, ?_⟩
  repeat' (first
    | (with_reducible exact k0) | (with_reducible apply keeps_ite)
    | (with_reducible apply keeps_mk (s := _) <;> first | rfl | skip))

end Sys2Proof.Machine
end

