-- ==== Sys2Proof/Laws/KeepsRecovery.lean ====
section
/-! SUPPORT. What the operations of Machine/Recovery.lean keep: the queue, the member, the stepping and the invariant `Inv`. -/

namespace Sys2Proof.Machine

set_option maxRecDepth 4000


theorem keeps_scanField {s₀ : State} {s : State} {f : Nat} (k0 : Keeps s₀ s)  : Keeps s₀ (scanField s f) := by
  unfold scanField
  repeat' (first
    | (with_reducible assumption) | intro _ | (with_reducible apply keeps_ringRequest) | (with_reducible apply keeps_foldl)
    | split)

theorem keeps_beginReplay {s₀ : State} {s : State} {f : Nat} (k0 : Keeps s₀ s)  : Keeps s₀ (beginReplay s f) := by
  unfold beginReplay
  repeat' (first
    | (with_reducible assumption) | intro _ | (with_reducible apply keeps_modField) | (with_reducible apply keeps_modChan)
    | (with_reducible apply keeps_releaseTicket) | (with_reducible apply keeps_settleRecipe)
    | (with_reducible apply keeps_scanField) | (with_reducible apply keeps_foldl) | split)

theorem keeps_recoverField {s₀ : State} {s : State} {f : Nat} {facts : ReplayFacts} (k0 : Keeps s₀ s)  : Keeps s₀ (recoverField s f facts) := by
  unfold recoverField
  repeat' (first
    | (with_reducible exact k0) | (with_reducible apply keeps_structWrite) | (with_reducible apply keeps_noteGrant)
    | (with_reducible apply keeps_releaseTicket) | (with_reducible apply keeps_settleTasks) | (with_reducible apply keeps_onField)
    | (with_reducible apply keeps_updateHeadland) | (with_reducible apply keeps_updateHealth)
    | (with_reducible apply keeps_runField) | (with_reducible apply keeps_trimOwed) | split
    | (refine keeps_drawTicket ?_ (by assumption)))

theorem keeps_unreadableField {s₀ : State} {field : Nat} {s : State} (k0 : Keeps s₀ s) :
    Keeps s₀ (execFieldReplayDone.unreadableField field s) :=
  keeps_fieldFault (keeps_modField k0 _ _)

theorem keeps_execFieldReplayDone {s₀ : State} {field : Nat} {facts : ReplayFacts} {s : State} (k0 : Keeps s₀ s) :
    ∃ t', execFieldReplayDone field facts s = .next t' ∧ Keeps s₀ t' := by
  unfold execFieldReplayDone
  refine ⟨_, rfl, ?_⟩
  repeat' (first
    | (with_reducible exact k0) | (with_reducible apply keeps_unreadableField) | (with_reducible apply keeps_modField)
    | (with_reducible apply keeps_fieldTransfer) | (with_reducible apply keeps_recoverField) | (with_reducible apply keeps_ite)
    | split)

end Sys2Proof.Machine
end

