-- ==== Sys2Proof/Laws/KeepsMonitors.lean ====
section
/-! SUPPORT. What the operations of Machine/Monitors.lean keep: the queue, the member, the stepping and the invariant `Inv`. -/

namespace Sys2Proof.Machine

set_option maxRecDepth 4000


theorem keeps_execFreqMonitorWindow {s₀ : State} {island : Nat} {count : Nat} {clockChanged : Bool} {s : State} (k0 : Keeps s₀ s) :
    ∃ t', execFreqMonitorWindow island count clockChanged s = .next t' ∧ Keeps s₀ t' := by
  unfold execFreqMonitorWindow
  refine ⟨_, rfl, ?_⟩
  repeat' (first
    | (with_reducible exact k0) | (with_reducible apply keeps_islandFault) | (with_reducible apply keeps_ite) | split)

theorem keeps_execReferenceLoss {s₀ : State} {s : State} (k0 : Keeps s₀ s) :
    ∃ t', execReferenceLoss s = .next t' ∧ Keeps s₀ t' := by
  unfold execReferenceLoss
  refine ⟨_, rfl, ?_⟩
  repeat' (first
    | (with_reducible exact k0) | (with_reducible apply keeps_enterDevice) | (with_reducible apply keeps_ite)
    | (with_reducible apply keeps_mk (s := _) <;> first | rfl | skip))

theorem keeps_execSofWindow {s₀ : State} {countA : Option Nat} {countB : Option Nat} {s : State} (k0 : Keeps s₀ s) :
    ∃ t', execSofWindow countA countB s = .next t' ∧ Keeps s₀ t' := by
  unfold execSofWindow
  refine ⟨_, rfl, ?_⟩
  repeat' (first
    | (with_reducible exact k0) | (intro q; with_reducible rfl) | (with_reducible apply keeps_modSaf)
    | (with_reducible apply keeps_logFault) | (with_reducible apply keeps_enterDevice) | (with_reducible apply keeps_ite))

theorem keeps_execRailFault {s₀ : State} {rail : Rail} {millivolt : Nat} {s : State} (k0 : Keeps s₀ s) :
    ∃ t', execRailFault rail millivolt s = .next t' ∧ Keeps s₀ t' := by
  unfold execRailFault
  refine ⟨_, rfl, ?_⟩
  repeat' (first
    | (with_reducible exact k0) | (intro q; with_reducible rfl) | (with_reducible apply keeps_modSaf)
    | (with_reducible apply keeps_enterDevice) | (with_reducible apply keeps_ite))

theorem keeps_tempAlert {s₀ : State} {s : State} (k0 : Keeps s₀ s)  : Keeps s₀ (tempAlert s) := by
  unfold tempAlert
  repeat' (first
    | (with_reducible exact k0) | (with_reducible apply keeps_modPwr) | (with_reducible apply keeps_queueEvents)
    | (with_reducible apply keeps_wakeTriggers) | (with_reducible apply keeps_ite))

theorem keeps_execTempSample {s₀ : State} {readings : List Int} {s : State} (k0 : Keeps s₀ s) :
    ∃ t', execTempSample readings s = .next t' ∧ Keeps s₀ t' := by
  unfold execTempSample
  refine ⟨_, rfl, ?_⟩
  repeat' (first
    | (with_reducible assumption) | (intro q; with_reducible rfl) | intro _ | (with_reducible apply keeps_modSaf)
    | (with_reducible apply keeps_modPwr) | (with_reducible apply keeps_enterDevice) | (with_reducible apply keeps_tempAlert)
    | (with_reducible apply keeps_ite) | (with_reducible apply keeps_foldl))

theorem keeps_execTamper {s₀ : State} {s : State} (k0 : Keeps s₀ s) :
    ∃ t', execTamper s = .next t' ∧ Keeps s₀ t' := by
  unfold execTamper
  refine ⟨_, rfl, ?_⟩
  repeat' (first
    | (with_reducible exact k0) | (with_reducible apply keeps_modSec) | (with_reducible apply keeps_enterDevice)
    | (with_reducible apply keeps_ite))

theorem keeps_execTestEn {s₀ : State} {s : State} (k0 : Keeps s₀ s) :
    ∃ t', execTestEn s = .next t' ∧ Keeps s₀ t' := by
  unfold execTestEn
  refine ⟨_, rfl, ?_⟩
  repeat' (first
    | (with_reducible exact k0) | (with_reducible apply keeps_enterDevice))

theorem keeps_execEntropy {s₀ : State} {failedTest : Option Nat} {s : State} (k0 : Keeps s₀ s) :
    ∃ t', execEntropy failedTest s = .next t' ∧ Keeps s₀ t' := by
  unfold execEntropy
  refine ⟨_, rfl, ?_⟩
  repeat' (first
    | (with_reducible exact k0) | (with_reducible apply keeps_modSec) | (with_reducible apply keeps_enterDevice) | split)

end Sys2Proof.Machine
end

