-- ==== Sys2Proof/Laws/KeepsSweep.lean ====
section
/-! SUPPORT. What the operations of Machine/Sweep.lean keep: the queue, the member, the stepping and the invariant `Inv`. -/

namespace Sys2Proof.Machine

set_option maxRecDepth 4000


theorem setStrips_log (q : SafState) (lane l) : (q.setStrips lane l).log = q.log := by cases lane <;> rfl

theorem setStrip_log (q : SafState) (lane x) : (q.setStrip lane x).log = q.log := by cases lane <;> rfl

theorem setSlot_log (q : SafState) (lane n) : (q.setSlot lane n).log = q.log := by cases lane <;> rfl

theorem nextSlot_log (q : SafState) (lane) : (nextSlot q lane).log = q.log := by
  unfold nextSlot; dsimp only
  split
  · exact setSlot_log _ _ _
  · cases lane <;> rfl

theorem keeps_endZq {s₀ : State} {s : State} {c : Nat} (k0 : Keeps s₀ s)  : Keeps s₀ (endZq s c) := by
  unfold endZq
  repeat' (first
    | (with_reducible exact k0) | (with_reducible apply keeps_modChan) | (with_reducible apply keeps_ite))

theorem keeps_leaveSlot {s₀ : State} {s : State} {c : Nat} (k0 : Keeps s₀ s)  : Keeps s₀ (leaveSlot s c) := by
  unfold leaveSlot
  repeat' (first
    | (with_reducible exact k0) | (with_reducible apply keeps_modChan) | (with_reducible apply keeps_noteReady)
    | (with_reducible apply keeps_endZq))

theorem keeps_withdrawChannel {s₀ : State} {s : State} {c : Nat} {zq : Bool} (k0 : Keeps s₀ s)  : Keeps s₀ (withdrawChannel s c zq) := by
  unfold withdrawChannel
  repeat' (first
    | (with_reducible exact k0) | (with_reducible apply keeps_modChan))

theorem keeps_returnEngines {s₀ : State} {s : State} (k0 : Keeps s₀ s)  : Keeps s₀ (returnEngines s) := by
  unfold returnEngines
  repeat' (first
    | (with_reducible exact k0) | (with_reducible apply keeps_mk (s := _) <;> first | rfl | skip))

theorem keeps_requestDeep {s₀ : State} {s : State} {id : Identity} {start : Bool} {lanes : Nat} (k0 : Keeps s₀ s)  : Keeps s₀ (requestDeep s id start lanes) := by
  unfold requestDeep
  repeat' (first
    | (with_reducible exact k0) | intro _ | (with_reducible apply keeps_modSaf) | dsimp only | split)

theorem keeps_execSafDeep {s₀ : State} {id : Identity} {start : Bool} {lanes : Nat} {s : State} (k0 : Keeps s₀ s) :
    ∃ t', execSafDeep id start lanes s = .next t' ∧ Keeps s₀ t' := by
  unfold execSafDeep
  refine ⟨_, rfl, ?_⟩
  repeat' (first
    | (with_reducible assumption) | intro _ | (with_reducible apply keeps_csWrite) | (with_reducible apply keeps_requestDeep))

theorem keeps_deepSlot {s₀ : State} {s : State} {lane : Lane} {slot : Nat} (k0 : Keeps s₀ s)  : Keeps s₀ (deepSlot s lane slot) := by
  unfold deepSlot
  repeat' (first
    | (with_reducible exact k0) | intro _ | (with_reducible apply keeps_modSaf) | dsimp only | split)

theorem keeps_recordCe {s₀ : State} {s : State} (k0 : Keeps s₀ s)  : Keeps s₀ (recordCe s) := by
  unfold recordCe
  repeat' (first
    | (with_reducible assumption) | intro _ | (with_reducible apply keeps_logFault) | (with_reducible apply keeps_ite)
    | (with_reducible apply keeps_foldl) | (with_reducible apply keeps_mk (s := _) <;> first | rfl | skip))

theorem keeps_freeLane {s₀ : State} {s : State} {lane : Lane} (k0 : Keeps s₀ s)  : Keeps s₀ (freeLane s lane) := by
  unfold freeLane
  repeat' (first
    | (with_reducible exact k0) | (intro q; with_reducible rfl) | (with_reducible apply keeps_modSaf)
    | (with_reducible apply keeps_releaseTicket) | split)

theorem keeps_drawLane {s₀ : State} {s : State} {lane : Lane} (k0 : Keeps s₀ s)  : Keeps s₀ (drawLane s lane).1 := by
  unfold drawLane
  repeat' (first
    | (with_reducible exact k0) | (intro q; with_reducible rfl) | (with_reducible apply keeps_modSaf)
    | (with_reducible apply keeps_noteGrant) | split | (refine keeps_drawTicket ?_ (by assumption)))

theorem keeps_returnLane {s₀ : State} {s : State} {lane : Lane} (k0 : Keeps s₀ s)  : Keeps s₀ (returnLane s lane) := by
  unfold returnLane
  repeat' (first
    | (with_reducible assumption) | intro _ | (with_reducible apply keeps_leaveSlot) | (with_reducible apply keeps_returnEngines)
    | (with_reducible apply keeps_freeLane) | (with_reducible apply keeps_foldl) | split)

theorem keeps_withdrawFor {s₀ : State} {s : State} {lane : Lane} {slot : Nat} (k0 : Keeps s₀ s)  : Keeps s₀ (withdrawFor s lane slot) := by
  unfold withdrawFor
  repeat' (first
    | (with_reducible exact k0) | (with_reducible apply keeps_modEngine) | (with_reducible apply keeps_withdrawChannel) | split)

theorem keeps_useSlot {s₀ : State} {s : State} {lane : Lane} (k0 : Keeps s₀ s)  : Keeps s₀ (useSlot s lane) := by
  unfold useSlot
  repeat' (first
    | (with_reducible exact k0) | (intro q; simp only [setStrips_log, setStrip_log, setSlot_log, nextSlot_log]; done)
    | (with_reducible apply keeps_modSaf) | (with_reducible apply keeps_withdrawChannel) | (with_reducible apply keeps_deepSlot)
    | (with_reducible apply keeps_drawLane) | (with_reducible apply keeps_withdrawFor) | split
    | (refine keeps_of_fst (by assumption) ?_))

theorem keeps_beginSlot {s₀ : State} {s : State} {lane : Lane} (k0 : Keeps s₀ s)  : Keeps s₀ (beginSlot s lane) := by
  unfold beginSlot
  repeat' (first
    | (with_reducible exact k0) | (intro q; simp only [setStrips_log, setStrip_log, setSlot_log, nextSlot_log]; done)
    | (with_reducible apply keeps_modSaf) | (with_reducible apply keeps_recordCe) | (with_reducible apply keeps_returnLane)
    | (with_reducible apply keeps_useSlot) | split)

theorem keeps_resumeFields {s₀ : State} {s : State} {lane : Lane} (k0 : Keeps s₀ s)  : Keeps s₀ (resumeFields s lane) := by
  unfold resumeFields
  repeat' (first
    | (with_reducible exact k0) | (with_reducible apply keeps_runFields) | (with_reducible apply keeps_serveReads)
    | (with_reducible apply keeps_ite))

theorem keeps_execSweepSlot {s₀ : State} {lane : Lane} {s : State} (k0 : Keeps s₀ s) :
    ∃ t', execSweepSlot lane s = .next t' ∧ Keeps s₀ t' := by
  unfold execSweepSlot
  refine ⟨_, rfl, ?_⟩
  repeat' (first
    | (with_reducible exact k0) | (intro q; simp only [setStrips_log, setStrip_log, setSlot_log, nextSlot_log]; done)
    | (with_reducible apply keeps_modSaf) | (with_reducible apply keeps_beginSlot) | (with_reducible apply keeps_resumeFields)
    | (with_reducible apply keeps_ite))

theorem keeps_startSweep {s₀ : State} {s : State} (k0 : Keeps s₀ s)  : Keeps s₀ (startSweep s) := by
  unfold startSweep
  repeat' (first
    | (with_reducible exact k0) | (intro q; with_reducible rfl) | (with_reducible apply keeps_modSaf)
    | (with_reducible apply keeps_beginSlot))

theorem keeps_stopSweep {s₀ : State} {s : State} (k0 : Keeps s₀ s)  : Keeps s₀ (stopSweep s) := by
  unfold stopSweep
  repeat' (first
    | (with_reducible exact k0) | (intro q; with_reducible rfl) | (with_reducible apply keeps_modSaf)
    | (with_reducible apply keeps_leaveSlot) | (with_reducible apply keeps_returnEngines) | (with_reducible apply keeps_freeLane)
    | (with_reducible apply keeps_foldl))

theorem keeps_execCipherQueueDrained {s₀ : State} {engine : Nat} {s : State} (k0 : Keeps s₀ s) :
    ∃ t', execCipherQueueDrained engine s = .next t' ∧ Keeps s₀ t' := by
  unfold execCipherQueueDrained
  refine ⟨_, rfl, ?_⟩
  repeat' (first
    | (with_reducible exact k0) | (with_reducible apply keeps_modEngine) | (with_reducible apply keeps_ite))

theorem keeps_execSweepSlotEnd {s₀ : State} {ch : Nat} {slot : SlotKind} {s : State} (k0 : Keeps s₀ s) :
    ∃ t', execSweepSlotEnd ch slot s = .next t' ∧ Keeps s₀ t' := by
  unfold execSweepSlotEnd
  refine ⟨_, rfl, ?_⟩
  repeat' (first
    | (with_reducible exact k0) | (with_reducible apply keeps_runField) | (with_reducible apply keeps_serveReads)
    | (with_reducible apply keeps_leaveSlot) | (with_reducible apply keeps_freeLane) | dsimp only | split)

theorem keeps_endStrip {s₀ : State} {s : State} {lane : Lane} {x : Strip} {result : StripResult} (k0 : Keeps s₀ s)  : Keeps s₀ (endStrip s lane x result) := by
  unfold endStrip
  repeat' (first
    | (with_reducible exact k0) | (intro q; simp only [setStrips_log, setStrip_log, setSlot_log, nextSlot_log]; done)
    | (with_reducible apply keeps_modEngine) | (with_reducible apply keeps_modSaf) | (with_reducible apply keeps_logFault)
    | (with_reducible apply keeps_islandFault) | (with_reducible apply keeps_freeLane) | dsimp only | split)

theorem keeps_endDeepStrip {s₀ : State} {s : State} {lane : Lane} {result : StripResult} (k0 : Keeps s₀ s)  : Keeps s₀ (endDeepStrip s lane result) := by
  unfold endDeepStrip
  repeat' (first
    | (with_reducible exact k0) | (intro q; with_reducible rfl) | (with_reducible apply keeps_modSaf)
    | (with_reducible apply keeps_islandFault) | dsimp only | split)

theorem keeps_execTestStripDone {s₀ : State} {lane : Lane} {result : StripResult} {comparatorFlagged : Bool} {s : State} (k0 : Keeps s₀ s) :
    ∃ t', execTestStripDone lane result comparatorFlagged s = .next t' ∧ Keeps s₀ t' := by
  unfold execTestStripDone
  refine ⟨_, rfl, ?_⟩
  repeat' (first
    | (with_reducible exact k0) | (with_reducible apply keeps_enterDevice) | (with_reducible apply keeps_resumeFields)
    | (with_reducible apply keeps_endStrip) | (with_reducible apply keeps_endDeepStrip) | split)

end Sys2Proof.Machine
end

