-- ==== Sys2Proof/Laws/KeepsArbiter.lean ====
section
/-! SUPPORT. What the operations of Machine/Arbiter.lean keep: the queue, the member, the stepping and the invariant `Inv`. -/

namespace Sys2Proof.Machine

set_option maxRecDepth 4000


theorem keeps_noteLoose {s₀ : State} {s : State} {id : Nat} (k0 : Keeps s₀ s)  : Keeps s₀ (noteLoose s id) := by
  unfold noteLoose
  repeat' (first
    | (with_reducible exact k0) | (with_reducible apply keeps_modArb))

theorem keeps_giveGrant {s₀ : State} {s : State} {r : ArbReq} (k0 : Keeps s₀ s)  : Keeps s₀ (giveGrant s r).1 := by
  unfold giveGrant
  repeat' (first
    | (with_reducible exact k0) | (with_reducible apply keeps_countTsf) | (with_reducible apply keeps_noteLoose) | split
    | (refine keeps_drawTicket ?_ (by assumption)) | (refine keeps_issueOrder ?_ (by assumption)))

theorem keeps_giveHeld {s₀ : State} {s : State} {t : Task} (k0 : Keeps s₀ s)  : Keeps s₀ (giveHeld s t).1 := by
  unfold giveHeld
  repeat' (first
    | (with_reducible exact k0) | (with_reducible apply keeps_modTasks) | (with_reducible apply keeps_grantTask) | split
    | (refine keeps_drawTicket ?_ (by assumption)))

theorem keeps_giveField {s₀ : State} {s : State} {f : Nat} (k0 : Keeps s₀ s)  : Keeps s₀ (giveField s f).1 := by
  unfold giveField
  repeat' (first
    | (with_reducible exact k0) | (with_reducible apply keeps_grantRequest) | (with_reducible apply keeps_runField) | split)

theorem keeps_giveStrip {s₀ : State} {s : State} {lane : Lane} (k0 : Keeps s₀ s)  : Keeps s₀ (giveStrip s lane).1 := by
  unfold giveStrip
  repeat' (first
    | (with_reducible exact k0) | (with_reducible apply keeps_useSlot))

theorem keeps_give {s₀ : State} {s : State} {r : Raised} (k0 : Keeps s₀ s) : Keeps s₀ (give s r).1 := by
  cases r with
  | asked r => exact keeps_giveGrant k0
  | waiting t => exact keeps_giveHeld k0
  | field f => exact keeps_giveField k0
  | strip l => exact keeps_giveStrip k0

theorem keeps_lockstepFault {s₀ : State} {s : State} (k0 : Keeps s₀ s)  : Keeps s₀ (lockstepFault s) := by
  unfold lockstepFault
  repeat' (first
    | (with_reducible exact k0) | (with_reducible apply keeps_modArb) | (with_reducible apply keeps_enterDevice))

theorem keeps_arbiterTick {s₀ : State} {reqs : List ArbReq} {trees : TreeAgreement} {s : State} (k0 : Keeps s₀ s)  : Keeps s₀ (arbiterTick reqs trees s) := by
  unfold arbiterTick
  repeat' (first
    | (with_reducible exact k0) | (with_reducible apply keeps_give) | (with_reducible apply keeps_noteGrant)
    | (with_reducible apply keeps_lockstepFault) | split)

theorem keeps_returnLoose {s₀ : State} {s : State} {ids : List Nat} (k0 : Keeps s₀ s)  : Keeps s₀ (returnLoose s ids) := by
  unfold returnLoose
  repeat' (first
    | (with_reducible assumption) | intro _ | (with_reducible apply keeps_modArb) | (with_reducible apply keeps_releaseTicket)
    | (with_reducible apply keeps_foldl))

theorem keeps_execArbiterGrant {s₀ : State} {reqs : List ArbReq} {tick : ArbTick} {s : State} (k0 : Keeps s₀ s) :
    ∃ t', execArbiterGrant reqs tick s = .next t' ∧ Keeps s₀ t' := by
  unfold execArbiterGrant
  refine ⟨_, rfl, ?_⟩
  repeat' (first
    | (with_reducible exact k0) | (with_reducible apply keeps_arbiterTick) | (with_reducible apply keeps_returnLoose))

end Sys2Proof.Machine
end

