-- ==== Sys2Proof/Laws/KeepsRecover.lean ====
section
/-! SUPPORT. What the operations of Machine/Recover.lean keep: the queue, the member, the stepping and the invariant `Inv`. -/

namespace Sys2Proof.Machine

set_option maxRecDepth 4000


theorem keeps_closeFreed {s₀ : State} {s : State} {plots : List Nat} (k0 : Keeps s₀ s)  : Keeps s₀ (closeFreed s plots) := by
  unfold closeFreed
  repeat' (first
    | (with_reducible assumption) | intro _ | (with_reducible apply keeps_setPlotMode) | (with_reducible apply keeps_ite)
    | (with_reducible apply keeps_foldl))

theorem keeps_bringBack {s₀ : State} {s : State} {fields : List Nat} (k0 : Keeps s₀ s)  : Keeps s₀ (bringBack s fields) := by
  unfold bringBack
  repeat' (first
    | (with_reducible assumption) | intro _ | (with_reducible apply keeps_beginReplay) | (with_reducible apply keeps_ite)
    | (with_reducible apply keeps_foldl))

theorem keeps_endScope {s₀ : State} {s : State} {code : Nat} {inst : Nat} (k0 : Keeps s₀ s)  : Keeps s₀ (endScope s code inst) := by
  unfold endScope
  repeat' (first
    | (with_reducible exact k0) | (intro q; with_reducible rfl) | (with_reducible apply keeps_modChan)
    | (with_reducible apply keeps_modEngine) | (with_reducible apply keeps_modArb) | (with_reducible apply keeps_modSaf)
    | (with_reducible apply keeps_onField) | (with_reducible apply keeps_updateHeadland)
    | (with_reducible apply keeps_updateHealth) | (with_reducible apply keeps_runField)
    | (with_reducible apply keeps_offerConnect) | (with_reducible apply keeps_settleRecipe)
    | (with_reducible apply keeps_closeFreed) | (with_reducible apply keeps_bringBack) | dsimp only | split)

theorem keeps_pollRails {s₀ : State} {s : State} (k0 : Keeps s₀ s)  : Keeps s₀ (pollRails s) := by
  unfold pollRails
  repeat' (first
    | (with_reducible assumption) | (intro q; with_reducible rfl) | intro _ | (with_reducible apply keeps_modSaf)
    | (with_reducible apply keeps_drawBool) | (with_reducible apply keeps_ite) | (with_reducible apply keeps_foldl))

theorem keeps_setRecover {s₀ : State} {s : State} {result : Nat} {count : Nat} (k0 : Keeps s₀ s)  : Keeps s₀ (setRecover s result count) := by
  unfold setRecover
  repeat' (first
    | (with_reducible exact k0) | (intro q; with_reducible rfl) | (with_reducible apply keeps_modSaf))

theorem keeps_startRecover {s₀ : State} {s : State} {keys : List (Nat × Nat)} (k0 : Keeps s₀ s)  : Keeps s₀ (startRecover s keys) := by
  unfold startRecover
  repeat' (first
    | (with_reducible assumption) | (intro q; with_reducible rfl) | intro _ | (with_reducible apply keeps_modSaf)
    | (with_reducible apply keeps_oweReset) | (with_reducible apply keeps_pollRails) | (with_reducible apply keeps_setRecover)
    | (with_reducible apply keeps_ite) | (with_reducible apply keeps_foldl))

theorem keeps_recoverScope {s₀ : State} {s : State} {id : Identity} {scope : Nat} {inst : Nat} (k0 : Keeps s₀ s)  : Keeps s₀ (recoverScope s id scope inst) := by
  unfold recoverScope
  repeat' (first
    | (with_reducible exact k0) | (intro q; with_reducible rfl) | (with_reducible apply keeps_modSaf)
    | (with_reducible apply keeps_setRecover) | (with_reducible apply keeps_startRecover) | (with_reducible apply keeps_ite))

theorem keeps_execRecover {s₀ : State} {id : Identity} {scope : Nat} {inst : Nat} {s : State} (k0 : Keeps s₀ s) :
    ∃ t', execRecover id scope inst s = .next t' ∧ Keeps s₀ t' := by
  unfold execRecover
  refine ⟨_, rfl, ?_⟩
  repeat' (first
    | (with_reducible assumption) | intro _ | (with_reducible apply keeps_csWrite) | (with_reducible apply keeps_recoverScope))

theorem keeps_recoverEvery {s₀ : State} {s : State} {id : Identity} (k0 : Keeps s₀ s)  : Keeps s₀ (recoverEvery s id) := by
  unfold recoverEvery
  repeat' (first
    | (with_reducible exact k0) | (intro q; with_reducible rfl) | (with_reducible apply keeps_modSaf)
    | (with_reducible apply keeps_setRecover) | (with_reducible apply keeps_startRecover) | (with_reducible apply keeps_ite))

theorem keeps_execRecoverAll {s₀ : State} {id : Identity} {s : State} (k0 : Keeps s₀ s) :
    ∃ t', execRecoverAll id s = .next t' ∧ Keeps s₀ t' := by
  unfold execRecoverAll
  refine ⟨_, rfl, ?_⟩
  repeat' (first
    | (with_reducible assumption) | intro _ | (with_reducible apply keeps_csWrite) | (with_reducible apply keeps_recoverEvery))

theorem keeps_recoverOne {s₀ : State} {strips a b} {p : State × Nat × Nat} {x} (h : Keeps s₀ p.1) : Keeps s₀ (recoverOne strips a b p x).1 := by
  obtain ⟨s, m, n⟩ := p
  unfold recoverOne
  repeat' (first
    | with_reducible exact h
    | with_reducible apply keeps_drawNat
    | (with_reducible apply keeps_modSaf <;> [skip; (intro q; rfl)])
    | with_reducible apply keeps_modSec
    | with_reducible apply keeps_recipeFence
    | with_reducible apply keeps_endScope
    | with_reducible apply keeps_writeLog
    | dsimp only
    | split
    | (refine keeps_of_snd (by assumption) ?_))

theorem keeps_applyDeferred {s₀ : State} {s : State} {ds : List Deferred} (k0 : Keeps s₀ s)  : Keeps s₀ (applyDeferred s ds) := by
  unfold applyDeferred
  repeat' (first
    | (with_reducible assumption) | intro _ | (with_reducible apply keeps_writeLog) | (with_reducible apply keeps_enterScope)
    | (with_reducible apply keeps_ite) | (with_reducible apply keeps_foldl))

theorem keeps_execRecoverDone {s₀ : State} {strips : List (Nat × StripResult)} {startupTestOk : Bool} {diesOk : Bool} {s : State} (k0 : Keeps s₀ s) :
    ∃ t', execRecoverDone strips startupTestOk diesOk s = .next t' ∧ Keeps s₀ t' := by
  unfold execRecoverDone
  refine ⟨_, rfl, ?_⟩
  repeat' (first
    | (with_reducible exact k0) | (intro q; with_reducible rfl) | (with_reducible apply keeps_modSaf)
    | (with_reducible apply keeps_serveReads) | (with_reducible apply keeps_recoverOne)
    | (with_reducible apply keeps_applyDeferred) | (with_reducible apply keeps_foldl_fst) | split)

end Sys2Proof.Machine
end

