-- ==== Sys2Proof/Laws/KeepsLayoutCmd.lean ====
section
/-! SUPPORT. What the operations of Machine/LayoutCmd.lean keep: the queue, the member, the stepping and the invariant `Inv`. -/

namespace Sys2Proof.Machine

set_option maxRecDepth 4000


theorem keeps_noteVerdict {s₀ : State} {s : State} {x : Slot} {v : Verdict} (k0 : Keeps s₀ s)  : Keeps s₀ (noteVerdict s x v) := by
  unfold noteVerdict
  repeat' (first
    | (with_reducible exact k0) | (with_reducible apply keeps_modLay))

theorem keeps_layCommand {s₀ : State} {s : State} {id : Identity} {op : Nat} {x : Slot} (k0 : Keeps s₀ s)  : Keeps s₀ (layCommand s id op x) := by
  unfold layCommand
  repeat' (first
    | (with_reducible exact k0) | (with_reducible apply keeps_modLay) | (with_reducible apply keeps_ite))

theorem keeps_execLayVerify {s₀ : State} {id : Identity} {slot : Slot} {s : State} (k0 : Keeps s₀ s) :
    ∃ t', execLayVerify id slot s = .next t' ∧ Keeps s₀ t' := by
  unfold execLayVerify
  refine ⟨_, rfl, ?_⟩
  repeat' (first
    | (with_reducible assumption) | intro _ | (with_reducible apply keeps_csWrite) | (with_reducible apply keeps_layCommand))

theorem keeps_execWarmActivation {s₀ : State} {id : Identity} {slot : Slot} {s : State} (k0 : Keeps s₀ s) :
    ∃ t', execWarmActivation id slot s = .next t' ∧ Keeps s₀ t' := by
  unfold execWarmActivation
  refine ⟨_, rfl, ?_⟩
  repeat' (first
    | (with_reducible assumption) | intro _ | (with_reducible apply keeps_csWrite) | (with_reducible apply keeps_layCommand))

theorem keeps_execColdActivation {s₀ : State} {id : Identity} {slot : Slot} {s : State} (k0 : Keeps s₀ s) :
    ∃ t', execColdActivation id slot s = .next t' ∧ Keeps s₀ t' := by
  unfold execColdActivation
  refine ⟨_, rfl, ?_⟩
  repeat' (first
    | (with_reducible assumption) | intro _ | (with_reducible apply keeps_csWrite) | (with_reducible apply keeps_layCommand))

theorem keeps_endLayOp {s₀ : State} {s : State} {reason : Nat} (k0 : Keeps s₀ s)  : Keeps s₀ (endLayOp s reason) := by
  unfold endLayOp
  repeat' (first
    | (with_reducible exact k0) | (with_reducible apply keeps_modLay))

theorem keeps_recordActivation {s₀ : State} {s : State} {x : Slot} {l : Layout} {digest : List Byte} (k0 : Keeps s₀ s)  : Keeps s₀ (recordActivation s x l digest) := by
  unfold recordActivation
  repeat' (first
    | (with_reducible exact k0) | (intro q; with_reducible rfl) | (with_reducible apply keeps_modGrn)
    | (with_reducible apply keeps_structWrite) | (with_reducible apply keeps_ite))

theorem keeps_execSlotVerified {s₀ : State} {read : SlotRead} {s : State} (k0 : Keeps s₀ s) :
    ∃ t', execSlotVerified read s = .next t' ∧ Keeps s₀ t' := by
  unfold execSlotVerified
  refine ⟨_, rfl, ?_⟩
  repeat' (first
    | (with_reducible exact k0) | (with_reducible apply keeps_modLay) | (with_reducible apply keeps_noteVerdict)
    | (with_reducible apply keeps_endLayOp) | (with_reducible apply keeps_recordActivation) | dsimp only | split)

theorem keeps_applyTickets {s₀ : State} {s : State} {reserved : List Nat} (k0 : Keeps s₀ s)  : Keeps s₀ (applyTickets s reserved) := by
  unfold applyTickets
  repeat' (first
    | (with_reducible exact k0) | (with_reducible apply keeps_modArb))

theorem keeps_applyRecipe {s₀ : State} {s : State} {changed : List Nat} {c : Nat} (k0 : Keeps s₀ s)  : Keeps s₀ (applyRecipe s changed c) := by
  unfold applyRecipe
  repeat' (first
    | (with_reducible exact k0) | (with_reducible apply keeps_modChan) | (with_reducible apply keeps_modLay)
    | (with_reducible apply keeps_ite) | split)

theorem keeps_applyWarm {s₀ : State} {s : State} {old : Layout} {new : Layout} {changed : List RawFrame} (k0 : Keeps s₀ s)  : Keeps s₀ (applyWarm s old new changed) := by
  unfold applyWarm
  repeat' (first
    | (with_reducible assumption) | (intro q; with_reducible rfl) | intro _ | (with_reducible apply keeps_modSaf)
    | (with_reducible apply keeps_modLay) | (with_reducible apply keeps_modPwr) | (with_reducible apply keeps_modMpu)
    | (with_reducible apply keeps_applyTickets) | (with_reducible apply keeps_applyRecipe) | (with_reducible apply keeps_ite)
    | (with_reducible apply keeps_foldl))

theorem keeps_takePowerFrame {s₀ : State} {s : State} (k0 : Keeps s₀ s)  : Keeps s₀ (takePowerFrame s) := by
  unfold takePowerFrame
  repeat' (first
    | (with_reducible exact k0) | (with_reducible apply keeps_modPwr) | (with_reducible apply keeps_modHold) | split)

theorem keeps_developAll {s₀ : State} {s : State} (k0 : Keeps s₀ s)  : Keeps s₀ (developAll s) := by
  unfold developAll
  repeat' (first
    | (with_reducible assumption) | intro _ | (with_reducible apply keeps_develop) | (with_reducible apply keeps_ite)
    | (with_reducible apply keeps_foldl))

theorem keeps_execCommitGrant {s₀ : State} {s : State} (k0 : Keeps s₀ s) :
    ∃ t', execCommitGrant s = .next t' ∧ Keeps s₀ t' := by
  unfold execCommitGrant
  refine ⟨_, rfl, ?_⟩
  repeat' (first
    | (with_reducible exact k0) | (with_reducible apply keeps_modLay) | (with_reducible apply keeps_queueEvents)
    | (with_reducible apply keeps_endLayOp) | (with_reducible apply keeps_applyWarm) | (with_reducible apply keeps_developAll)
    | (with_reducible apply keeps_ite) | split)

end Sys2Proof.Machine
end

