-- ==== Sys2Proof/Laws/KeepsGranary.lean ====
section
/-! SUPPORT. What the operations of Machine/Granary.lean keep: the queue, the member, the stepping and the invariant `Inv`. -/

namespace Sys2Proof.Machine

set_option maxRecDepth 4000


theorem writeLedger_mem (g : GrnState) : (writeLedger g).mem = g.mem := rfl

theorem markWeak_mem (m) (g : GrnState) (l) : (markWeak m g l).mem = g.mem := by unfold markWeak; dsimp only; split <;> rfl

theorem spoilSectors_mem (g : GrnState) (a n) : (spoilSectors g a n).mem = g.mem := rfl

theorem spoilWord_mem (g : GrnState) (a) : (spoilWord g a).mem = g.mem := rfl

theorem putWord_ok (g : GrnState) (a b) (h : cellsOk 0xFF g.mem = true) : cellsOk 0xFF (putWord g a b).mem = true := cellsOk_putCells _ _ h

theorem clearSectors_ok (g : GrnState) (a n) (h : cellsOk 0xFF g.mem = true) : cellsOk 0xFF (clearSectors g a n).mem = true :=
  cellsOk_dropRange _ _ h

theorem advance_mem (m) (g : GrnState) (d) : (advance m g d).mem = g.mem := by
  unfold advance; dsimp only; rw [writeLedger_mem]; dsimp only; split <;> rfl

theorem keeps_modGrnBank {s₀ : State} {s : State} {id : Identity} {f : GrnBank → GrnBank} (k0 : Keeps s₀ s)  : Keeps s₀ (modGrnBank s id f) := by
  unfold modGrnBank
  repeat' (first
    | (with_reducible exact k0) | (intro q; with_reducible rfl) | (with_reducible apply keeps_modGrn) | (with_reducible rfl)
    | split)

theorem keeps_execGrnKey {s₀ : State} {id : Identity} {key : Word} {s : State} (k0 : Keeps s₀ s) :
    ∃ t', execGrnKey id key s = .next t' ∧ Keeps s₀ t' := by
  unfold execGrnKey
  refine ⟨_, rfl, ?_⟩
  repeat' (first
    | (with_reducible assumption) | intro _ | (with_reducible apply keeps_csWrite) | (with_reducible apply keeps_modGrnBank))

theorem keeps_uncheckSlots {s₀ : State} {s : State} {first : Nat} {n : Nat} (k0 : Keeps s₀ s)  : Keeps s₀ (uncheckSlots s first n) := by
  unfold uncheckSlots
  repeat' (first
    | (with_reducible assumption) | intro _ | (with_reducible apply keeps_modLay) | (with_reducible apply keeps_foldl) | split)

theorem keeps_startErase {s₀ : State} {s : State} (k0 : Keeps s₀ s)  : Keeps s₀ (startErase s) := by
  unfold startErase
  repeat' (first
    | (with_reducible exact k0)
    | (intro q; simp only [startBatch_mem, eraseReleased_mem, batchErase_mem, takeSector_mem, appendEntry_mem, writeLedger_mem, countErases_mem, markWeak_mem, spoilSectors_mem, spoilWord_mem, advance_mem]; done)
    | (with_reducible apply keeps_modGrn) | dsimp only | split)

theorem keeps_resumeErase {s₀ : State} {s : State} (k0 : Keeps s₀ s)  : Keeps s₀ (resumeErase s) := by
  unfold resumeErase
  repeat' (first
    | (with_reducible exact k0) | (intro q; with_reducible rfl) | (with_reducible apply keeps_modGrn) | split)

theorem keeps_endSuspend {s₀ : State} {s : State} (k0 : Keeps s₀ s)  : Keeps s₀ (endSuspend s) := by
  unfold endSuspend
  repeat' (first
    | (with_reducible exact k0) | (intro q; with_reducible rfl) | (with_reducible apply keeps_modGrn)
    | (with_reducible apply keeps_resumeErase) | (with_reducible apply keeps_ite))

theorem keeps_grnCommand {s₀ : State} {s : State} {id : Identity} {op : Nat} {area : Nat} {margin : Nat} {count : Nat} (k0 : Keeps s₀ s)  : Keeps s₀ (grnCommand s id op area margin count) := by
  unfold grnCommand
  repeat' (first
    | (with_reducible exact k0) | (intro q; with_reducible rfl) | (with_reducible apply keeps_modGrn)
    | (with_reducible apply keeps_modGrnBank) | (with_reducible apply keeps_startErase) | (with_reducible apply keeps_endSuspend)
    | (with_reducible apply keeps_ite) | split)

theorem keeps_grnWrite {s₀ : State} {s : State} {id : Identity} {op : Nat} {area : Nat} {margin : Nat} {count : Nat} (k0 : Keeps s₀ s)  : Keeps s₀ (grnWrite s id op area margin count) := by
  unfold grnWrite
  repeat' (first
    | (with_reducible assumption) | intro _ | (with_reducible apply keeps_csWrite) | (with_reducible apply keeps_grnCommand))

theorem keeps_execGrnRead {s₀ : State} {id : Identity} {area : Nat} {margin : Nat} {count : Nat} {s : State} (k0 : Keeps s₀ s) :
    ∃ t', execGrnRead id area margin count s = .next t' ∧ Keeps s₀ t' := by
  unfold execGrnRead
  refine ⟨_, rfl, ?_⟩
  repeat' (first
    | (with_reducible exact k0) | (with_reducible apply keeps_grnWrite))

theorem keeps_execGrnProgram {s₀ : State} {id : Identity} {area : Nat} {margin : Nat} {count : Nat} {s : State} (k0 : Keeps s₀ s) :
    ∃ t', execGrnProgram id area margin count s = .next t' ∧ Keeps s₀ t' := by
  unfold execGrnProgram
  refine ⟨_, rfl, ?_⟩
  repeat' (first
    | (with_reducible exact k0) | (with_reducible apply keeps_grnWrite))

theorem keeps_execGrnErase {s₀ : State} {id : Identity} {area : Nat} {margin : Nat} {count : Nat} {s : State} (k0 : Keeps s₀ s) :
    ∃ t', execGrnErase id area margin count s = .next t' ∧ Keeps s₀ t' := by
  unfold execGrnErase
  refine ⟨_, rfl, ?_⟩
  repeat' (first
    | (with_reducible exact k0) | (with_reducible apply keeps_grnWrite))

theorem keeps_execGrnSuspend {s₀ : State} {id : Identity} {s : State} (k0 : Keeps s₀ s) :
    ∃ t', execGrnSuspend id s = .next t' ∧ Keeps s₀ t' := by
  unfold execGrnSuspend
  refine ⟨_, rfl, ?_⟩
  repeat' (first
    | (with_reducible exact k0) | (with_reducible apply keeps_grnWrite))

theorem keeps_execGrnResume {s₀ : State} {id : Identity} {s : State} (k0 : Keeps s₀ s) :
    ∃ t', execGrnResume id s = .next t' ∧ Keeps s₀ t' := by
  unfold execGrnResume
  refine ⟨_, rfl, ?_⟩
  repeat' (first
    | (with_reducible exact k0) | (with_reducible apply keeps_grnWrite))

theorem keeps_execGrnInc {s₀ : State} {id : Identity} {s : State} (k0 : Keeps s₀ s) :
    ∃ t', execGrnInc id s = .next t' ∧ Keeps s₀ t' := by
  unfold execGrnInc
  refine ⟨_, rfl, ?_⟩
  repeat' (first
    | (with_reducible exact k0) | (with_reducible apply keeps_grnWrite))

theorem keeps_execEraseSuspendDue {s₀ : State} {s : State} (k0 : Keeps s₀ s) :
    ∃ t', execEraseSuspendDue s = .next t' ∧ Keeps s₀ t' := by
  unfold execEraseSuspendDue
  refine ⟨_, rfl, ?_⟩
  repeat' (first
    | (with_reducible exact k0) | (intro q; with_reducible rfl) | (with_reducible apply keeps_modGrn)
    | (with_reducible apply keeps_ite) | split)

theorem keeps_execEraseAutoResume {s₀ : State} {s : State} (k0 : Keeps s₀ s) :
    ∃ t', execEraseAutoResume s = .next t' ∧ Keeps s₀ t' := by
  unfold execEraseAutoResume
  refine ⟨_, rfl, ?_⟩
  repeat' (first
    | (with_reducible exact k0) | (with_reducible apply keeps_endSuspend) | split)

theorem keeps_drawWord {s₀ : State} {s : State} (k0 : Keeps s₀ s)  : Keeps s₀ (drawWord s).2 := by
  unfold drawWord
  repeat' (first
    | (with_reducible exact k0) | (with_reducible apply keeps_drawNat))

theorem keeps_readWord {s₀ : State} {s : State} {area : Nat} {addr : Nat} (k0 : Keeps s₀ s)  : Keeps s₀ (readWord s area addr).2 := by
  unfold readWord
  repeat' (first
    | (with_reducible exact k0) | (with_reducible apply keeps_drawWord) | dsimp only | split)

theorem keeps_finishRead {s₀ : State} {s : State} {c : GrnCmd} {corrected : Nat} {uncorrectable : List Nat} (k0 : Keeps s₀ s)  : Keeps s₀ (finishRead s c corrected uncorrectable) := by
  unfold finishRead
  repeat' (first
    | (with_reducible assumption)
    | (intro q; simp only [startBatch_mem, eraseReleased_mem, batchErase_mem, takeSector_mem, appendEntry_mem, writeLedger_mem, countErases_mem, markWeak_mem, spoilSectors_mem, spoilWord_mem, advance_mem]; done)
    | intro _ | (with_reducible apply keeps_modGrn) | (with_reducible apply keeps_modGrnBank)
    | (with_reducible apply keeps_readWord) | (with_reducible apply keeps_ite) | (with_reducible apply keeps_foldl_snd) | split)

theorem keeps_erasedTight {s₀ : State} {s : State} {addr : Nat} (k0 : Keeps s₀ s)  : Keeps s₀ (erasedTight s addr).2 := by
  unfold erasedTight
  repeat' (first
    | (with_reducible exact k0) | (with_reducible apply keeps_drawBool) | split)

theorem keeps_seedErased {s₀ : State} {s : State} {w : Nat} (k0 : Keeps s₀ s)  : Keeps s₀ (seedErased s w).2 := by
  unfold seedErased
  repeat' (first
    | (with_reducible exact k0) | (with_reducible apply keeps_drawBool) | split)

theorem keeps_seedPlan {s₀ : State} {s : State} {w : Nat} {data : List Byte} (k0 : Keeps s₀ s)  : Keeps s₀ (seedPlan s w data).2 := by
  unfold seedPlan
  repeat' (first
    | (with_reducible exact k0) | (with_reducible apply keeps_drawBool) | (with_reducible apply keeps_seedErased) | dsimp only
    | split)

theorem keeps_noteSeed {s₀ : State} {s : State} (k0 : Keeps s₀ s)  : Keeps s₀ (noteSeed s) := by
  unfold noteSeed
  repeat' (first
    | (with_reducible exact k0) | (with_reducible apply keeps_modSec))

theorem keeps_putSeed {s₀ : State} {s : State} {w : Nat} {plan : SeedPlan} {b : List Byte} (k0 : Keeps s₀ s)  : Keeps s₀ (putSeed s w plan b) := by
  unfold putSeed
  repeat' (first
    | (with_reducible exact k0) | (intro q; with_reducible rfl) | (with_reducible apply keeps_modGrn)
    | (with_reducible apply keeps_noteSeed))

theorem keeps_spoilSeed {s₀ : State} {s : State} {w : Nat} {plan : SeedPlan} {b : List Byte} (k0 : Keeps s₀ s)  : Keeps s₀ (spoilSeed s w plan b) := by
  unfold spoilSeed
  repeat' (first
    | (with_reducible exact k0) | (intro q; dsimp only; split <;> rfl) | (with_reducible apply keeps_modGrn)
    | (with_reducible apply keeps_drawBool))

theorem keeps_progSeed {s₀ : State} {s : State} {c : GrnCmd} {plans : List SeedPlan} {data : List Word} {n : Nat} (k0 : Keeps s₀ s)  : Keeps s₀ (progSeed s c plans data n) := by
  unfold progSeed
  repeat' (first
    | (with_reducible assumption) | intro _ | (with_reducible apply keeps_putSeed) | (with_reducible apply keeps_foldl))

theorem keeps_progWords {s₀ : State} {s : State} {c : GrnCmd} {data : List Word} {n : Nat} (h : Keeps s₀ s) :
    Keeps s₀ (progWords s c data n) := by
  have k : ∀ (l : List Nat) (g : GrnState), cellsOk 0xFF g.mem = true →
      cellsOk 0xFF (l.foldl (fun (g : GrnState) i => putWord g (c.addr + 32 * i) (dataWord data i)) g).mem = true := by
    intro l
    induction l with
    | nil => exact fun _ hg => hg
    | cons x xs ih => exact fun g hg => ih _ (putWord_ok _ _ _ hg)
  exact keeps_grnMem h fun q hq => k _ q hq

theorem keeps_progCheck {s₀ : State} {s : State} {c : GrnCmd} {data : List Word} (h : Keeps s₀ s) : Keeps s₀ (progCheck s c data).2.2 := by
  unfold progCheck
  refine keeps_foldl_thd (fun p x hp => ?_) h
  split
  · exact keeps_seedPlan hp
  · exact keeps_erasedTight hp

theorem keeps_finishProgram {s₀ : State} {s : State} {c : GrnCmd} {failAt : Option Nat} (k0 : Keeps s₀ s)  : Keeps s₀ (finishProgram s c failAt) := by
  unfold finishProgram
  repeat' (first
    | (with_reducible exact k0)
    | (intro q; simp only [startBatch_mem, eraseReleased_mem, batchErase_mem, takeSector_mem, appendEntry_mem, writeLedger_mem, countErases_mem, markWeak_mem, spoilSectors_mem, spoilWord_mem, advance_mem]; done)
    | (with_reducible apply keeps_modGrn) | (with_reducible apply keeps_modGrnBank) | (with_reducible apply keeps_uncheckSlots)
    | (with_reducible apply keeps_spoilSeed) | (with_reducible apply keeps_progSeed) | (with_reducible apply keeps_progWords)
    | (with_reducible apply keeps_progCheck) | (with_reducible apply keeps_ite))

theorem retireSpares_mem (m : Member) : ∀ (n : Nat) (g : GrnState), (retireSpares m g n).mem = g.mem
  | 0, _ => rfl
  | n + 1, g => by
    unfold retireSpares
    split
    · exact (retireSpares_mem m n _).trans (writeLedger_mem _)
    · rfl

theorem substitute_mem (m : Member) (g : GrnState) (l n : Nat) : (substitute m g l n).1.mem = g.mem := by
  have h : (if 16 ≤ g.subs.length then g else retireSpares m g n).mem = g.mem := by
    split
    · rfl
    · exact retireSpares_mem m n g
  unfold substitute
  dsimp only
  split
  · exact h
  · exact (writeLedger_mem _).trans h

theorem substituteAll_mem (m : Member) (g : GrnState) (fails : List Nat) (sector : Nat → Nat) : (substituteAll m g fails sector).1.mem = g.mem := by
  unfold substituteAll
  generalize true = b
  induction fails.dedup generalizing g b with
  | nil => rfl
  | cons x xs ih => exact (ih _ _).trans (substitute_mem _ _ _ _)

theorem keeps_finishErase {s₀ : State} {s : State} {e : GrnErase} {fails : List Nat} (h : Keeps s₀ s) : Keeps s₀ (finishErase s e fails) := by
  have h1 : Keeps s₀ (s.modGrn fun g => { g with erase := none }) := keeps_modGrn h fun _ => rfl
  unfold finishErase
  dsimp only
  split
  · exact keeps_modGrnBank h1
  · refine keeps_modGrnBank ?_
    refine keeps_same (s := (uncheckSlots (s.modGrn fun g => { g with erase := none }) e.first e.count).modGrn
      fun g => countErases (clearSectors g e.first e.count) e.count) ?_ _ rfl rfl rfl (substituteAll_mem _ _ _ _) rfl rfl rfl
    exact keeps_grnMem (keeps_uncheckSlots h1) fun q hq => (countErases_mem _ _).symm ▸ clearSectors_ok _ _ _ hq

theorem keeps_finishInc {s₀ : State} {s : State} {c : GrnCmd} (k0 : Keeps s₀ s)  : Keeps s₀ (finishInc s c) := by
  unfold finishInc
  repeat' (first
    | (with_reducible exact k0) | (intro q; with_reducible rfl) | (with_reducible apply keeps_modGrn)
    | (with_reducible apply keeps_structWrite) | (with_reducible apply keeps_modGrnBank) | (with_reducible apply keeps_ite))

theorem keeps_finishBatch {s₀ : State} {s : State} {e : GrnErase} {fails : List Nat} (k0 : Keeps s₀ s) : Keeps s₀ (finishBatch s e fails) := by
  unfold finishBatch
  refine keeps_modGrn (keeps_drawNat k0) fun q => ?_
  dsimp only
  rw [substituteAll_mem]
  exact eraseReleased_mem q _

theorem keeps_execGrnCommandDone {s₀ : State} {corrected : Nat} {uncorrectable : List Nat} {failAt : Option Nat} {eraseFails : List Nat} {s : State} (k0 : Keeps s₀ s) :
    ∃ t', execGrnCommandDone corrected uncorrectable failAt eraseFails s = .next t' ∧ Keeps s₀ t' := by
  unfold execGrnCommandDone
  refine ⟨_, rfl, ?_⟩
  repeat' (first
    | (with_reducible exact k0) | (intro q; with_reducible rfl) | (with_reducible apply keeps_modGrn)
    | (with_reducible apply keeps_modGrnBank) | (with_reducible apply keeps_startErase) | (with_reducible apply keeps_resumeErase)
    | (with_reducible apply keeps_finishRead) | (with_reducible apply keeps_finishProgram)
    | (with_reducible apply keeps_finishErase) | (with_reducible apply keeps_finishInc) | (with_reducible apply keeps_finishBatch)
    | dsimp only | split)

theorem keeps_execWindowAdvance {s₀ : State} {destEraseFails : Bool} {s : State} (k0 : Keeps s₀ s) :
    ∃ t', execWindowAdvance destEraseFails s = .next t' ∧ Keeps s₀ t' := by
  unfold execWindowAdvance
  refine ⟨_, rfl, ?_⟩
  repeat' (first
    | (with_reducible exact k0)
    | (intro q; simp only [startBatch_mem, eraseReleased_mem, batchErase_mem, takeSector_mem, appendEntry_mem, writeLedger_mem, countErases_mem, markWeak_mem, spoilSectors_mem, spoilWord_mem, advance_mem]; done)
    | (with_reducible apply keeps_modGrn) | (with_reducible apply keeps_ite))

theorem keeps_cutCommand {s₀ : State} {s : State} {c : GrnCmd} {finish : Bool} (k0 : Keeps s₀ s)  : Keeps s₀ (cutCommand s c finish) := by
  unfold cutCommand
  repeat' (first
    | (with_reducible exact k0)
    | (intro q; simp only [startBatch_mem, eraseReleased_mem, batchErase_mem, takeSector_mem, appendEntry_mem, writeLedger_mem, countErases_mem, markWeak_mem, spoilSectors_mem, spoilWord_mem, advance_mem]; done)
    | (with_reducible apply keeps_modGrn) | (with_reducible apply keeps_drawBool) | (with_reducible apply keeps_drawNat)
    | (with_reducible apply keeps_spoilSeed) | (with_reducible apply keeps_progSeed) | (with_reducible apply keeps_progWords)
    | (with_reducible apply keeps_progCheck) | (with_reducible apply keeps_finishInc) | (with_reducible apply keeps_ite) | split)

theorem keeps_grnCut {s₀ : State} {s : State} {finish : Bool} (k0 : Keeps s₀ s)  : Keeps s₀ (grnCut s finish) := by
  unfold grnCut
  repeat' (first
    | (with_reducible exact k0)
    | (intro q; simp only [startBatch_mem, eraseReleased_mem, batchErase_mem, takeSector_mem, appendEntry_mem, writeLedger_mem, countErases_mem, markWeak_mem, spoilSectors_mem, spoilWord_mem, advance_mem]; done)
    | (with_reducible apply keeps_modGrn) | (with_reducible apply keeps_cutCommand) | split)

end Sys2Proof.Machine
end

