-- ==== Sys2Proof/Laws/KeepsKeys.lean ====
section
/-! SUPPORT. What the operations of Machine/Keys.lean keep: the queue, the member, the stepping and the invariant `Inv`. -/

namespace Sys2Proof.Machine

set_option maxRecDepth 4000


theorem freshEntry_mem (g : GrnState) (a b : Nat) : (freshEntry g a b).mem = g.mem := by
  unfold freshEntry; dsimp only; exact takeSector_mem g

theorem keeps_drawKeySet {s₀ : State} {s : State} (k0 : Keeps s₀ s)  : Keeps s₀ (drawKeySet s).2 := by
  unfold drawKeySet
  repeat' (first
    | (with_reducible exact k0) | (with_reducible apply keeps_drawBytes))

theorem keeps_drawSalt {s₀ : State} {s : State} (k0 : Keeps s₀ s)  : Keeps s₀ (drawSalt s).2 := by
  unfold drawSalt
  repeat' (first
    | (with_reducible exact k0) | (with_reducible apply keeps_drawBytes))

theorem keeps_destroyOlder {s₀ : State} {s : State} {n : Nat} (k0 : Keeps s₀ s)  : Keeps s₀ (destroyOlder s n) := by
  unfold destroyOlder
  repeat' (first
    | (with_reducible exact k0)
    | (intro q; simp only [startBatch_mem, eraseReleased_mem, batchErase_mem, takeSector_mem, appendEntry_mem, writeLedger_mem, countErases_mem, markWeak_mem, spoilSectors_mem, spoilWord_mem, advance_mem, freshEntry_mem]; done)
    | (with_reducible apply keeps_modPlot) | (with_reducible apply keeps_modGrn))

theorem keeps_destroyRecord {s₀ : State} {s : State} {n : Nat} (k0 : Keeps s₀ s)  : Keeps s₀ (destroyRecord s n) := by
  unfold destroyRecord
  repeat' (first
    | (with_reducible exact k0) | (with_reducible apply keeps_modPlot) | (with_reducible apply keeps_destroyOlder))

theorem keeps_erasePlot {s₀ : State} {s : State} {n : Nat} {reason : Nat} (k0 : Keeps s₀ s)  : Keeps s₀ (erasePlot s n reason) := by
  unfold erasePlot
  repeat' (first
    | (with_reducible exact k0) | (with_reducible apply keeps_closePlot) | (with_reducible apply keeps_emptyPlot)
    | (with_reducible apply keeps_destroyRecord))

theorem keeps_answerCheck {s₀ : State} {s : State} {c : SecretCheck} {status : Nat} {detail : Nat} {payload : List Byte} (k0 : Keeps s₀ s)  : Keeps s₀ (answerCheck s c status detail payload) := by
  unfold answerCheck
  repeat' (first
    | (with_reducible exact k0) | (with_reducible apply keeps_answerVault))

theorem keeps_popCheck {s₀ : State} {s : State} {n : Nat} (k0 : Keeps s₀ s)  : Keeps s₀ (popCheck s n) := by
  unfold popCheck
  repeat' (first
    | (with_reducible exact k0) | (with_reducible apply keeps_modPlot))

theorem keeps_provision {s₀ : State} {s : State} {n : Nat} {new : List Byte} (k0 : Keeps s₀ s)  : Keeps s₀ (provision s n new) := by
  unfold provision
  repeat' (first
    | (with_reducible exact k0) | (with_reducible apply keeps_setPlotMode) | (with_reducible apply keeps_writeRecord)
    | (with_reducible apply keeps_drawKeySet) | (with_reducible apply keeps_drawSalt))

theorem keeps_runChecks {s₀ : State} {n : Nat} : ∀ {fuel : Nat} {s : State}, Keeps s₀ s → Keeps s₀ (runChecks n fuel s)
  | 0, _, h => h
  | fuel + 1, s, h => by
    unfold runChecks
    repeat' (first
      | with_reducible exact h
      | with_reducible apply keeps_runChecks
      | with_reducible apply keeps_popCheck
      | with_reducible apply keeps_answerCheck
      | with_reducible apply keeps_provision
      | dsimp only
      | split)

theorem keeps_askCheck {s₀ : State} {s : State} {n : Nat} {a : Asker} {what : CheckFor} {secret : List Byte} (k0 : Keeps s₀ s)  : Keeps s₀ (askCheck s n a what secret) := by
  unfold askCheck
  repeat' (first
    | (with_reducible exact k0) | (with_reducible apply keeps_modPlot) | (with_reducible apply keeps_answerVault)
    | (with_reducible apply keeps_develop) | (with_reducible apply keeps_runChecks) | split)

theorem keeps_compareSecret {s₀ : State} {s : State} {n : Nat} {c : SecretCheck} (k0 : Keeps s₀ s)  : Keeps s₀ (compareSecret s n c) := by
  unfold compareSecret
  repeat' (first
    | (with_reducible exact k0) | (with_reducible apply keeps_modPlot) | (with_reducible apply keeps_writeRecord)
    | (with_reducible apply keeps_enterScope) | (with_reducible apply keeps_drawSalt) | (with_reducible apply keeps_erasePlot)
    | (with_reducible apply keeps_answerCheck) | (with_reducible apply keeps_popCheck) | (with_reducible apply keeps_ite) | split)

theorem keeps_execRetryCounted {s₀ : State} {plot : Nat} {s : State} (k0 : Keeps s₀ s) :
    ∃ t', execRetryCounted plot s = .next t' ∧ Keeps s₀ t' := by
  unfold execRetryCounted
  refine ⟨_, rfl, ?_⟩
  repeat' (first
    | (with_reducible exact k0) | (with_reducible apply keeps_writeRecord) | (with_reducible apply keeps_answerCheck)
    | (with_reducible apply keeps_popCheck) | (with_reducible apply keeps_runChecks) | (with_reducible apply keeps_compareSecret)
    | split)

theorem keeps_distributeKey {s₀ : State} {s : State} {n : Nat} (k0 : Keeps s₀ s)  : Keeps s₀ (distributeKey s n) := by
  unfold distributeKey
  repeat' (first
    | (with_reducible assumption) | intro _ | (with_reducible apply keeps_ringRequest) | (with_reducible apply keeps_foldl)
    | split)

theorem keeps_refuseOpen {s₀ : State} {s : State} {n : Nat} {c : SecretCheck} {status : Nat} {detail : Nat} (k0 : Keeps s₀ s)  : Keeps s₀ (refuseOpen s n c status detail) := by
  unfold refuseOpen
  repeat' (first
    | (with_reducible exact k0) | (with_reducible apply keeps_clearKeys) | (with_reducible apply keeps_answerCheck)
    | (with_reducible apply keeps_popCheck) | (with_reducible apply keeps_ite))

theorem keeps_execKeyRecordWritten {s₀ : State} {plot : Nat} {s : State} (k0 : Keeps s₀ s) :
    ∃ t', execKeyRecordWritten plot s = .next t' ∧ Keeps s₀ t' := by
  unfold execKeyRecordWritten
  refine ⟨_, rfl, ?_⟩
  repeat' (first
    | (with_reducible assumption) | intro _ | (with_reducible apply keeps_modPlot) | (with_reducible apply keeps_wakeTrigger)
    | (with_reducible apply keeps_setPlotMode) | (with_reducible apply keeps_attachPlot)
    | (with_reducible apply keeps_writeRecord) | (with_reducible apply keeps_runField) | (with_reducible apply keeps_answerCheck)
    | (with_reducible apply keeps_popCheck) | (with_reducible apply keeps_runChecks) | (with_reducible apply keeps_distributeKey)
    | (with_reducible apply keeps_refuseOpen) | (with_reducible apply keeps_foldl) | split)

theorem keeps_plotWrite {s₀ : State} {s : State} {id : Identity} {n : Nat} {addr : Nat} {effect : State → State} (k0 : Keeps s₀ s) (heffect : ∀ x0, Keeps s₀ x0 → Keeps s₀ (effect x0)) : Keeps s₀ (plotWrite s id n addr effect) := by
  unfold plotWrite
  repeat' (first
    | (with_reducible assumption) | apply heffect | intro _ | (with_reducible apply keeps_rsvdWrite)
    | (with_reducible apply keeps_csWrite) | (with_reducible apply keeps_ite))

theorem keeps_setPlotResult {s₀ : State} {s : State} {n : Nat} {result : Nat} (k0 : Keeps s₀ s)  : Keeps s₀ (setPlotResult s n result) := by
  unfold setPlotResult
  repeat' (first
    | (with_reducible exact k0) | (with_reducible apply keeps_modPlot))

theorem keeps_retagPuts {s₀ : State} {s : State} {n : Nat} (k0 : Keeps s₀ s)  : Keeps s₀ (retagPuts s n) := by
  unfold retagPuts
  repeat' (first
    | (with_reducible exact k0) | (with_reducible apply keeps_modField) | (with_reducible apply keeps_modTasks) | dsimp only
    | split)

theorem keeps_startRekey {s₀ : State} {s : State} {n : Nat} (k0 : Keeps s₀ s)  : Keeps s₀ (startRekey s n) := by
  unfold startRekey
  repeat' (first
    | (with_reducible exact k0) | (with_reducible apply keeps_modPlot) | (with_reducible apply keeps_writeRecord)
    | (with_reducible apply keeps_runField) | (with_reducible apply keeps_drawKeySet) | (with_reducible apply keeps_distributeKey)
    | (with_reducible apply keeps_setPlotResult) | (with_reducible apply keeps_retagPuts) | dsimp only | split)

theorem keeps_plotErase {s₀ : State} {s : State} {n : Nat} {key : Nat} (k0 : Keeps s₀ s)  : Keeps s₀ (plotErase s n key) := by
  unfold plotErase
  repeat' (first
    | (with_reducible exact k0) | (with_reducible apply keeps_erasePlot) | (with_reducible apply keeps_runChecks)
    | (with_reducible apply keeps_setPlotResult) | (with_reducible apply keeps_ite))

theorem keeps_plotControl {s₀ : State} {s : State} {n : Nat} {op : Nat} {key : Nat} (k0 : Keeps s₀ s)  : Keeps s₀ (plotControl s n op key) := by
  unfold plotControl
  repeat' (first
    | (with_reducible exact k0) | (with_reducible apply keeps_queueEvents) | (with_reducible apply keeps_destroyRecord)
    | (with_reducible apply keeps_setPlotResult) | (with_reducible apply keeps_startRekey)
    | (with_reducible apply keeps_plotErase) | (with_reducible apply keeps_ite))

theorem keeps_execBulkRekey {s₀ : State} {id : Identity} {plot : Nat} {s : State} (k0 : Keeps s₀ s) :
    ∃ t', execBulkRekey id plot s = .next t' ∧ Keeps s₀ t' := by
  unfold execBulkRekey
  refine ⟨_, rfl, ?_⟩
  repeat' (first
    | (with_reducible assumption) | intro _ | (with_reducible apply keeps_plotWrite) | (with_reducible apply keeps_plotControl))

theorem keeps_execPlotErase {s₀ : State} {id : Identity} {plot : Nat} {key : BitVec 16} {s : State} (k0 : Keeps s₀ s) :
    ∃ t', execPlotErase id plot key s = .next t' ∧ Keeps s₀ t' := by
  unfold execPlotErase
  refine ⟨_, rfl, ?_⟩
  repeat' (first
    | (with_reducible assumption) | intro _ | (with_reducible apply keeps_plotWrite) | (with_reducible apply keeps_plotControl))

end Sys2Proof.Machine
end

