-- ==== Sys2Proof/Laws/KeepsVault.lean ====
section
/-! SUPPORT. What the operations of Machine/Vault.lean keep: the queue, the member, the stepping and the invariant `Inv`. -/

namespace Sys2Proof.Machine

set_option maxRecDepth 4000


theorem keeps_beginCapsule {s₀ : State} {s : State} {p : Port} {fn : CapsuleFn} {opcode : Nat} {tag : Nat} (k0 : Keeps s₀ s)  : Keeps s₀ (beginCapsule s p fn opcode tag) := by
  unfold beginCapsule
  repeat' (first
    | (with_reducible exact k0) | (with_reducible apply keeps_modPfn))

theorem keeps_withCapsule {s₀ : State} {s : State} {p : Port} {fn : CapsuleFn} {opcode : Nat} {tag : Nat} {run : State → State} (k0 : Keeps s₀ s) (hrun : ∀ x0, Keeps s₀ x0 → Keeps s₀ (run x0)) : Keeps s₀ (withCapsule s p fn opcode tag run) := by
  unfold withCapsule
  repeat' (first
    | (with_reducible exact k0) | apply hrun | (with_reducible apply keeps_beginCapsule) | (with_reducible apply keeps_ite))

theorem keeps_mgmtStatus {s₀ : State} {s : State} {p : Port} {opcode : Nat} {tag : Nat} {status : Nat} {detail : Nat} (k0 : Keeps s₀ s)  : Keeps s₀ (mgmtStatus s p opcode tag status detail) := by
  unfold mgmtStatus
  repeat' (first
    | (with_reducible exact k0) | (with_reducible apply keeps_respondStatus))

theorem keeps_execCapsuleRefused {s₀ : State} {p : Port} {fn : CapsuleFn} {raw : CapsuleRaw} {s : State} (k0 : Keeps s₀ s) :
    ∃ t', execCapsuleRefused p fn raw s = .next t' ∧ Keeps s₀ t' := by
  unfold execCapsuleRefused
  refine ⟨_, rfl, ?_⟩
  repeat' (first
    | (with_reducible assumption) | intro _ | (with_reducible apply keeps_respond) | (with_reducible apply keeps_withCapsule)
    | split)

theorem keeps_execInfo {s₀ : State} {p : Port} {tag : Nat} {s : State} (k0 : Keeps s₀ s) :
    ∃ t', execInfo p tag s = .next t' ∧ Keeps s₀ t' := by
  unfold execInfo
  refine ⟨_, rfl, ?_⟩
  repeat' (first
    | (with_reducible assumption) | intro _ | (with_reducible apply keeps_modPfn) | (with_reducible apply keeps_respond)
    | (with_reducible apply keeps_withCapsule))

theorem keeps_execEcho {s₀ : State} {p : Port} {tag : Nat} {payload : List Byte} {s : State} (k0 : Keeps s₀ s) :
    ∃ t', execEcho p tag payload s = .next t' ∧ Keeps s₀ t' := by
  unfold execEcho
  refine ⟨_, rfl, ?_⟩
  repeat' (first
    | (with_reducible assumption) | intro _ | (with_reducible apply keeps_respond) | (with_reducible apply keeps_withCapsule)
    | (with_reducible apply keeps_mgmtStatus) | (with_reducible apply keeps_ite))

theorem keeps_execReg {s₀ : State} {p : Port} {tag : Nat} {entries : List RegEntry} {s : State} (k0 : Keeps s₀ s) :
    ∃ t', execReg p tag entries s = .next t' ∧ Keeps s₀ t' := by
  unfold execReg
  refine ⟨_, rfl, ?_⟩
  repeat' (first
    | (with_reducible assumption) | intro _ | (with_reducible apply keeps_modPfn) | (with_reducible apply keeps_withCapsule)
    | (with_reducible apply keeps_mgmtStatus) | split)

theorem keeps_forwardVault {s₀ : State} {s : State} {p : Port} {opcode : Nat} {tag : Nat} {plot : Nat} {payload : List Byte} (k0 : Keeps s₀ s)  : Keeps s₀ (forwardVault s p opcode tag plot payload) := by
  unfold forwardVault
  repeat' (first
    | (with_reducible exact k0) | (with_reducible apply keeps_ringRequest) | (with_reducible apply keeps_mgmtStatus)
    | (with_reducible apply keeps_ite))

theorem keeps_unlockPlot {s₀ : State} {s : State} {a : Asker} {id : Identity} {n : Nat} {mode : Nat} {secret : List Byte} (k0 : Keeps s₀ s)  : Keeps s₀ (unlockPlot s a id n mode secret) := by
  unfold unlockPlot
  repeat' (first
    | (with_reducible exact k0) | (with_reducible apply keeps_answerVault) | (with_reducible apply keeps_askCheck) | split)

theorem keeps_lockPlot {s₀ : State} {s : State} {a : Asker} {id : Identity} {n : Nat} (k0 : Keeps s₀ s)  : Keeps s₀ (lockPlot s a id n) := by
  unfold lockPlot
  repeat' (first
    | (with_reducible exact k0) | (with_reducible apply keeps_closePlot) | (with_reducible apply keeps_answerVault) | split)

theorem keeps_demotePlot {s₀ : State} {s : State} {a : Asker} {id : Identity} {n : Nat} (k0 : Keeps s₀ s)  : Keeps s₀ (demotePlot s a id n) := by
  unfold demotePlot
  repeat' (first
    | (with_reducible exact k0) | (with_reducible apply keeps_modPlot) | (with_reducible apply keeps_setPlotMode)
    | (with_reducible apply keeps_answerVault) | split)

theorem keeps_secretPlot {s₀ : State} {s : State} {a : Asker} {id : Identity} {n : Nat} {old : Option (List Byte)} {new : List Byte} (k0 : Keeps s₀ s)  : Keeps s₀ (secretPlot s a id n old new) := by
  unfold secretPlot
  repeat' (first
    | (with_reducible exact k0) | (with_reducible apply keeps_answerVault) | (with_reducible apply keeps_askCheck) | split)

theorem keeps_vaultOp {s₀ : State} {s : State} {p : Port} {opcode : Nat} {tag : Nat} {plot : Nat} {payload : List Byte} {decide_ : State → State} (k0 : Keeps s₀ s) (hdecide_ : ∀ x0, Keeps s₀ x0 → Keeps s₀ (decide_ x0)) : Keeps s₀ (vaultOp s p opcode tag plot payload decide_) := by
  unfold vaultOp
  repeat' (first
    | (with_reducible assumption) | apply hdecide_ | intro _ | (with_reducible apply keeps_withCapsule)
    | (with_reducible apply keeps_mgmtStatus) | (with_reducible apply keeps_forwardVault) | split)

theorem keeps_execUnlock {s₀ : State} {p : Port} {tag : Nat} {plot : Nat} {mode : Nat} {secret : List Byte} {s : State} (k0 : Keeps s₀ s) :
    ∃ t', execUnlock p tag plot mode secret s = .next t' ∧ Keeps s₀ t' := by
  unfold execUnlock
  refine ⟨_, rfl, ?_⟩
  repeat' (first
    | (with_reducible assumption) | intro _ | (with_reducible apply keeps_unlockPlot) | (with_reducible apply keeps_vaultOp))

theorem keeps_execLock {s₀ : State} {p : Port} {tag : Nat} {plot : Nat} {s : State} (k0 : Keeps s₀ s) :
    ∃ t', execLock p tag plot s = .next t' ∧ Keeps s₀ t' := by
  unfold execLock
  refine ⟨_, rfl, ?_⟩
  repeat' (first
    | (with_reducible assumption) | intro _ | (with_reducible apply keeps_lockPlot) | (with_reducible apply keeps_vaultOp))

theorem keeps_execLockDemote {s₀ : State} {p : Port} {tag : Nat} {plot : Nat} {s : State} (k0 : Keeps s₀ s) :
    ∃ t', execLockDemote p tag plot s = .next t' ∧ Keeps s₀ t' := by
  unfold execLockDemote
  refine ⟨_, rfl, ?_⟩
  repeat' (first
    | (with_reducible assumption) | intro _ | (with_reducible apply keeps_demotePlot) | (with_reducible apply keeps_vaultOp))

theorem keeps_execSetSecret {s₀ : State} {p : Port} {tag : Nat} {plot : Nat} {new : List Byte} {s : State} (k0 : Keeps s₀ s) :
    ∃ t', execSetSecret p tag plot new s = .next t' ∧ Keeps s₀ t' := by
  unfold execSetSecret
  refine ⟨_, rfl, ?_⟩
  repeat' (first
    | (with_reducible assumption) | intro _ | (with_reducible apply keeps_secretPlot) | (with_reducible apply keeps_vaultOp))

theorem keeps_execRewrap {s₀ : State} {p : Port} {tag : Nat} {plot : Nat} {old : List Byte} {new : List Byte} {s : State} (k0 : Keeps s₀ s) :
    ∃ t', execRewrap p tag plot old new s = .next t' ∧ Keeps s₀ t' := by
  unfold execRewrap
  refine ⟨_, rfl, ?_⟩
  repeat' (first
    | (with_reducible assumption) | intro _ | (with_reducible apply keeps_secretPlot) | (with_reducible apply keeps_vaultOp))

theorem keeps_takeEvent {s₀ : State} {s : State} {p : Port} (k0 : Keeps s₀ s)  : Keeps s₀ (takeEvent s p) := by
  unfold takeEvent
  repeat' (first
    | (with_reducible exact k0) | (with_reducible apply keeps_modPfn))

theorem keeps_takeResponse {s₀ : State} {s : State} {p : Port} {fn : CapsuleFn} {r : Response} (k0 : Keeps s₀ s)  : Keeps s₀ (takeResponse s p fn r) := by
  unfold takeResponse
  repeat' (first
    | (with_reducible exact k0) | (with_reducible apply keeps_modPfn))

theorem keeps_execBulkInTransfer {s₀ : State} {p : Port} {fn : CapsuleFn} {isEvent : Bool} {s : State} (k0 : Keeps s₀ s) :
    ∃ t', execBulkInTransfer p fn isEvent s = .next t' ∧ Keeps s₀ t' := by
  unfold execBulkInTransfer
  refine ⟨_, rfl, ?_⟩
  repeat' (first
    | (with_reducible exact k0) | (with_reducible apply keeps_inTransfer) | (with_reducible apply keeps_takeEvent)
    | (with_reducible apply keeps_takeResponse) | (with_reducible apply keeps_ite) | split)

end Sys2Proof.Machine
end

