-- ==== Sys2Proof/Laws/KeepsScsi.lean ====
section
/-! SUPPORT. What the operations of Machine/Scsi.lean keep: the queue, the member, the stepping and the invariant `Inv`. -/

namespace Sys2Proof.Machine

set_option maxRecDepth 4000


theorem keeps_dropSense {s₀ : State} {s : State} {key : TaskKey} (k0 : Keeps s₀ s)  : Keeps s₀ (dropSense s key) := by
  unfold dropSense
  repeat' (first
    | (with_reducible exact k0) | (with_reducible apply keeps_modFn))

theorem keeps_dropAttention {s₀ : State} {s : State} {key : TaskKey} (k0 : Keeps s₀ s)  : Keeps s₀ (dropAttention s key) := by
  unfold dropAttention
  repeat' (first
    | (with_reducible exact k0) | (with_reducible apply keeps_modFn))

theorem keeps_overlapTag {s₀ : State} {s : State} {key : TaskKey} (k0 : Keeps s₀ s)  : Keeps s₀ (overlapTag s key) := by
  unfold overlapTag
  repeat' (first
    | (with_reducible exact k0) | (with_reducible apply keeps_abortAnd) | (with_reducible apply keeps_serveReads)
    | (with_reducible apply keeps_replyScsi))

theorem keeps_scsiGate {s₀ : State} {s : State} {key : TaskKey} {tr : Transport} {exempt : Bool} {keepsSense : Bool} {run : State → State} (k0 : Keeps s₀ s) (hrun : ∀ x0, Keeps s₀ x0 → Keeps s₀ (run x0)) : Keeps s₀ (scsiGate s key tr exempt keepsSense run) := by
  unfold scsiGate
  repeat' (first
    | (with_reducible exact k0) | apply hrun | (with_reducible apply keeps_replyScsi) | (with_reducible apply keeps_dropSense)
    | (with_reducible apply keeps_dropAttention) | (with_reducible apply keeps_overlapTag) | (with_reducible apply keeps_ite))

theorem keeps_arrived {s₀ : State} {s : State} {a : Arrival} {exempt : Bool} {keepsSense : Bool} {run : State → State} (k0 : Keeps s₀ s) (hrun : ∀ x0, Keeps s₀ x0 → Keeps s₀ (run x0)) : Keeps s₀ (arrived s a exempt keepsSense run) := by
  unfold arrived
  repeat' (first
    | (with_reducible assumption) | apply hrun | intro _ | (with_reducible apply keeps_replyScsi)
    | (with_reducible apply keeps_scsiGate) | (with_reducible apply keeps_ite))

theorem keeps_forwardScsi {s₀ : State} {s : State} {cdb : List Byte} {list : List Byte} {t : Task} (k0 : Keeps s₀ s)  : Keeps s₀ (forwardScsi s cdb list t) := by
  unfold forwardScsi
  repeat' (first
    | (with_reducible exact k0) | (with_reducible apply keeps_modTasks) | (with_reducible apply keeps_ringRequest)
    | (with_reducible apply keeps_replyScsi) | (with_reducible apply keeps_ite))

theorem keeps_forwardPlain {s₀ : State} {s : State} {key : TaskKey} {cdb : List Byte} {data : List Byte} (k0 : Keeps s₀ s)  : Keeps s₀ (forwardPlain s key cdb data) := by
  unfold forwardPlain
  repeat' (first
    | (with_reducible exact k0) | (with_reducible apply keeps_forwardScsi))

theorem keeps_good {s₀ : State} {s : State} {key : TaskKey} (k0 : Keeps s₀ s)  : Keeps s₀ (good s key) := by
  unfold good
  repeat' (first
    | (with_reducible exact k0) | (with_reducible apply keeps_replyScsi))

theorem keeps_goodData {s₀ : State} {s : State} {key : TaskKey} {data : List Byte} {alloc : Nat} (k0 : Keeps s₀ s)  : Keeps s₀ (goodData s key data alloc) := by
  unfold goodData
  repeat' (first
    | (with_reducible exact k0) | (with_reducible apply keeps_replyScsi))

theorem keeps_execTestUnitReady {s₀ : State} {a : Arrival} {s : State} (k0 : Keeps s₀ s) :
    ∃ t', execTestUnitReady a s = .next t' ∧ Keeps s₀ t' := by
  unfold execTestUnitReady
  refine ⟨_, rfl, ?_⟩
  repeat' (first
    | (with_reducible assumption) | intro _ | (with_reducible apply keeps_arrived) | (with_reducible apply keeps_forwardPlain)
    | (with_reducible apply keeps_good) | (with_reducible apply keeps_ite))

theorem keeps_execRequestSense {s₀ : State} {a : Arrival} {desc : Bool} {alloc : Nat} {s : State} (k0 : Keeps s₀ s) :
    ∃ t', execRequestSense a desc alloc s = .next t' ∧ Keeps s₀ t' := by
  unfold execRequestSense
  refine ⟨_, rfl, ?_⟩
  repeat' (first
    | (with_reducible assumption) | intro _ | (with_reducible apply keeps_drawNat) | (with_reducible apply keeps_replyScsi)
    | (with_reducible apply keeps_dropSense) | (with_reducible apply keeps_arrived) | (with_reducible apply keeps_goodData)
    | split)

theorem keeps_execInquiry {s₀ : State} {a : Arrival} {evpd : Bool} {page : Nat} {alloc : Nat} {s : State} (k0 : Keeps s₀ s) :
    ∃ t', execInquiry a evpd page alloc s = .next t' ∧ Keeps s₀ t' := by
  unfold execInquiry
  refine ⟨_, rfl, ?_⟩
  repeat' (first
    | (with_reducible assumption) | intro _ | (with_reducible apply keeps_replyScsi) | (with_reducible apply keeps_arrived)
    | (with_reducible apply keeps_goodData) | split)

theorem keeps_execReportLuns {s₀ : State} {a : Arrival} {select : Nat} {alloc : Nat} {s : State} (k0 : Keeps s₀ s) :
    ∃ t', execReportLuns a select alloc s = .next t' ∧ Keeps s₀ t' := by
  unfold execReportLuns
  refine ⟨_, rfl, ?_⟩
  repeat' (first
    | (with_reducible assumption) | intro _ | (with_reducible apply keeps_replyScsi) | (with_reducible apply keeps_arrived)
    | (with_reducible apply keeps_goodData) | (with_reducible apply keeps_ite))

theorem keeps_execReadCapacity10 {s₀ : State} {a : Arrival} {s : State} (k0 : Keeps s₀ s) :
    ∃ t', execReadCapacity10 a s = .next t' ∧ Keeps s₀ t' := by
  unfold execReadCapacity10
  refine ⟨_, rfl, ?_⟩
  repeat' (first
    | (with_reducible assumption) | intro _ | (with_reducible apply keeps_drawBytes) | (with_reducible apply keeps_arrived)
    | (with_reducible apply keeps_forwardPlain) | (with_reducible apply keeps_goodData) | (with_reducible apply keeps_ite))

theorem keeps_execReadCapacity16 {s₀ : State} {a : Arrival} {alloc : Nat} {s : State} (k0 : Keeps s₀ s) :
    ∃ t', execReadCapacity16 a alloc s = .next t' ∧ Keeps s₀ t' := by
  unfold execReadCapacity16
  refine ⟨_, rfl, ?_⟩
  repeat' (first
    | (with_reducible assumption) | intro _ | (with_reducible apply keeps_drawBytes) | (with_reducible apply keeps_arrived)
    | (with_reducible apply keeps_forwardPlain) | (with_reducible apply keeps_goodData) | (with_reducible apply keeps_ite))

theorem keeps_execModeSense10 {s₀ : State} {a : Arrival} {pageControl : Nat} {page : Nat} {alloc : Nat} {s : State} (k0 : Keeps s₀ s) :
    ∃ t', execModeSense10 a pageControl page alloc s = .next t' ∧ Keeps s₀ t' := by
  unfold execModeSense10
  refine ⟨_, rfl, ?_⟩
  repeat' (first
    | (with_reducible assumption) | intro _ | (with_reducible apply keeps_drawBool) | (with_reducible apply keeps_replyScsi)
    | (with_reducible apply keeps_arrived) | (with_reducible apply keeps_forwardPlain) | (with_reducible apply keeps_goodData)
    | split)

theorem keeps_execSecurityProtocolIn {s₀ : State} {a : Arrival} {protocol : Nat} {specific : Nat} {alloc : Nat} {s : State} (k0 : Keeps s₀ s) :
    ∃ t', execSecurityProtocolIn a protocol specific alloc s = .next t' ∧ Keeps s₀ t' := by
  unfold execSecurityProtocolIn
  refine ⟨_, rfl, ?_⟩
  repeat' (first
    | (with_reducible assumption) | intro _ | (with_reducible apply keeps_drawBool) | (with_reducible apply keeps_drawNat)
    | (with_reducible apply keeps_replyScsi) | (with_reducible apply keeps_arrived) | (with_reducible apply keeps_forwardPlain)
    | (with_reducible apply keeps_goodData) | (with_reducible apply keeps_ite))

theorem keeps_execUnsupportedCdb {s₀ : State} {a : Arrival} {_opcode : Nat} {s : State} (k0 : Keeps s₀ s) :
    ∃ t', execUnsupportedCdb a _opcode s = .next t' ∧ Keeps s₀ t' := by
  unfold execUnsupportedCdb
  refine ⟨_, rfl, ?_⟩
  repeat' (first
    | (with_reducible assumption) | intro _ | (with_reducible apply keeps_replyScsi) | (with_reducible apply keeps_scsiGate))

theorem keeps_transfer {s₀ : State} {s : State} {t : Task} {f : CdbFlags} {cdb : List Byte} (k0 : Keeps s₀ s)  : Keeps s₀ (transfer s t f cdb) := by
  unfold transfer
  repeat' (first
    | (with_reducible assumption) | intro _ | (with_reducible apply keeps_replyScsi) | (with_reducible apply keeps_startTask)
    | (with_reducible apply keeps_scsiGate) | (with_reducible apply keeps_forwardScsi) | (with_reducible apply keeps_good) | split)

theorem keeps_execRead10 {s₀ : State} {key : TaskKey} {tr : Transport} {lba : BitVec 32} {length : BitVec 16} {fl : CdbFlags} {s : State} (k0 : Keeps s₀ s) :
    ∃ t', execRead10 key tr lba length fl s = .next t' ∧ Keeps s₀ t' := by
  unfold execRead10
  refine ⟨_, rfl, ?_⟩
  repeat' (first
    | (with_reducible exact k0) | (with_reducible apply keeps_transfer))

theorem keeps_execRead16 {s₀ : State} {key : TaskKey} {tr : Transport} {lba : BitVec 64} {length : BitVec 32} {fl : CdbFlags} {s : State} (k0 : Keeps s₀ s) :
    ∃ t', execRead16 key tr lba length fl s = .next t' ∧ Keeps s₀ t' := by
  unfold execRead16
  refine ⟨_, rfl, ?_⟩
  repeat' (first
    | (with_reducible exact k0) | (with_reducible apply keeps_transfer))

theorem keeps_execWrite10 {s₀ : State} {key : TaskKey} {tr : Transport} {lba : BitVec 32} {length : BitVec 16} {fl : CdbFlags} {s : State} (k0 : Keeps s₀ s) :
    ∃ t', execWrite10 key tr lba length fl s = .next t' ∧ Keeps s₀ t' := by
  unfold execWrite10
  refine ⟨_, rfl, ?_⟩
  repeat' (first
    | (with_reducible exact k0) | (with_reducible apply keeps_transfer))

theorem keeps_execWrite16 {s₀ : State} {key : TaskKey} {tr : Transport} {lba : BitVec 64} {length : BitVec 32} {fl : CdbFlags} {s : State} (k0 : Keeps s₀ s) :
    ∃ t', execWrite16 key tr lba length fl s = .next t' ∧ Keeps s₀ t' := by
  unfold execWrite16
  refine ⟨_, rfl, ?_⟩
  repeat' (first
    | (with_reducible exact k0) | (with_reducible apply keeps_transfer))

theorem keeps_flushPlot {s₀ : State} {s : State} {key : TaskKey} {tr : Transport} {cdb : List Byte} (k0 : Keeps s₀ s)  : Keeps s₀ (flushPlot s key tr cdb) := by
  unfold flushPlot
  repeat' (first
    | (with_reducible exact k0) | (with_reducible apply keeps_startTask) | (with_reducible apply keeps_forwardScsi)
    | (with_reducible apply keeps_ite))

theorem keeps_syncCache {s₀ : State} {s : State} {key : TaskKey} {tr : Transport} {lba : Nat} {count : Nat} {immed : Bool} {fl : CdbFlags} {cdb : List Byte} (k0 : Keeps s₀ s)  : Keeps s₀ (syncCache s key tr lba count immed fl cdb) := by
  unfold syncCache
  repeat' (first
    | (with_reducible assumption) | intro _ | (with_reducible apply keeps_replyScsi) | (with_reducible apply keeps_scsiGate)
    | (with_reducible apply keeps_flushPlot) | (with_reducible apply keeps_ite))

theorem keeps_execSynchronizeCache10 {s₀ : State} {key : TaskKey} {tr : Transport} {lba : BitVec 32} {count : BitVec 16} {immed : Bool} {fl : CdbFlags} {s : State} (k0 : Keeps s₀ s) :
    ∃ t', execSynchronizeCache10 key tr lba count immed fl s = .next t' ∧ Keeps s₀ t' := by
  unfold execSynchronizeCache10
  refine ⟨_, rfl, ?_⟩
  repeat' (first
    | (with_reducible exact k0) | (with_reducible apply keeps_syncCache))

theorem keeps_execSynchronizeCache16 {s₀ : State} {key : TaskKey} {tr : Transport} {lba : BitVec 64} {count : BitVec 32} {immed : Bool} {fl : CdbFlags} {s : State} (k0 : Keeps s₀ s) :
    ∃ t', execSynchronizeCache16 key tr lba count immed fl s = .next t' ∧ Keeps s₀ t' := by
  unfold execSynchronizeCache16
  refine ⟨_, rfl, ?_⟩
  repeat' (first
    | (with_reducible exact k0) | (with_reducible apply keeps_syncCache))

theorem keeps_execStartStopUnitStop {s₀ : State} {key : TaskKey} {c : Carried} {powerCondition : Nat} {s : State} (k0 : Keeps s₀ s) :
    ∃ t', execStartStopUnitStop key c powerCondition s = .next t' ∧ Keeps s₀ t' := by
  unfold execStartStopUnitStop
  refine ⟨_, rfl, ?_⟩
  repeat' (first
    | (with_reducible assumption) | intro _ | (with_reducible apply keeps_replyScsi) | (with_reducible apply keeps_arrived)
    | (with_reducible apply keeps_flushPlot) | (with_reducible apply keeps_ite))

theorem keeps_execStartStopUnitStart {s₀ : State} {a : Arrival} {powerCondition : Nat} {s : State} (k0 : Keeps s₀ s) :
    ∃ t', execStartStopUnitStart a powerCondition s = .next t' ∧ Keeps s₀ t' := by
  unfold execStartStopUnitStart
  refine ⟨_, rfl, ?_⟩
  repeat' (first
    | (with_reducible assumption) | intro _ | (with_reducible apply keeps_replyScsi) | (with_reducible apply keeps_arrived)
    | (with_reducible apply keeps_forwardPlain) | (with_reducible apply keeps_good) | (with_reducible apply keeps_ite))

theorem keeps_execUnmap {s₀ : State} {key : TaskKey} {tr : Transport} {anchor : Bool} {paramLength : Nat} {fl : CdbFlags} {s : State} (k0 : Keeps s₀ s) :
    ∃ t', execUnmap key tr anchor paramLength fl s = .next t' ∧ Keeps s₀ t' := by
  unfold execUnmap
  refine ⟨_, rfl, ?_⟩
  repeat' (first
    | (with_reducible assumption) | intro _ | (with_reducible apply keeps_modTasks) | (with_reducible apply keeps_replyScsi)
    | (with_reducible apply keeps_scsiGate) | (with_reducible apply keeps_good) | (with_reducible apply keeps_ite))

theorem keeps_unmapDecide {s₀ : State} {s : State} {t : Task} {wellFormed : Bool} {descs : List UnmapDesc} (k0 : Keeps s₀ s)  : Keeps s₀ (unmapDecide s t wellFormed descs) := by
  unfold unmapDecide
  repeat' (first
    | (with_reducible exact k0) | (with_reducible apply keeps_replyScsi) | (with_reducible apply keeps_startTask)
    | (with_reducible apply keeps_forwardScsi) | (with_reducible apply keeps_good) | (with_reducible apply keeps_ite) | split)

theorem keeps_execUnmapParameterList {s₀ : State} {key : TaskKey} {wellFormed : Bool} {descs : List UnmapDesc} {s : State} (k0 : Keeps s₀ s) :
    ∃ t', execUnmapParameterList key wellFormed descs s = .next t' ∧ Keeps s₀ t' := by
  unfold execUnmapParameterList
  refine ⟨_, rfl, ?_⟩
  repeat' (first
    | (with_reducible exact k0) | (with_reducible apply keeps_modTasks) | (with_reducible apply keeps_unmapDecide) | split)

theorem keeps_sanitizePlot {s₀ : State} {s : State} {key : TaskKey} {tr : Transport} {immed : Bool} (k0 : Keeps s₀ s)  : Keeps s₀ (sanitizePlot s key tr immed) := by
  unfold sanitizePlot
  repeat' (first
    | (with_reducible exact k0) | (with_reducible apply keeps_replyScsi) | (with_reducible apply keeps_startTask)
    | (with_reducible apply keeps_forwardScsi) | split)

theorem keeps_execSanitize {s₀ : State} {key : TaskKey} {c : Carried} {serviceAction : Nat} {immed : Bool} {paramLength : Nat} {s : State} (k0 : Keeps s₀ s) :
    ∃ t', execSanitize key c serviceAction immed paramLength s = .next t' ∧ Keeps s₀ t' := by
  unfold execSanitize
  refine ⟨_, rfl, ?_⟩
  repeat' (first
    | (with_reducible assumption) | intro _ | (with_reducible apply keeps_replyScsi) | (with_reducible apply keeps_scsiGate)
    | (with_reducible apply keeps_sanitizePlot) | (with_reducible apply keeps_ite))

theorem keeps_cryptoErase {s₀ : State} {s : State} {n : Nat} {run : SanitizeRun} {k : KeyEntry} (k0 : Keeps s₀ s)  : Keeps s₀ (cryptoErase s n run k) := by
  unfold cryptoErase
  repeat' (first
    | (with_reducible exact k0) | (with_reducible apply keeps_modPlot) | (with_reducible apply keeps_writeRecord)
    | (with_reducible apply keeps_clearMap) | (with_reducible apply keeps_drawKeySet) | (with_reducible apply keeps_destroyOlder)
    | (with_reducible apply keeps_distributeKey))

theorem keeps_execSanitizeComplete {s₀ : State} {plot : Nat} {s : State} (k0 : Keeps s₀ s) :
    ∃ t', execSanitizeComplete plot s = .next t' ∧ Keeps s₀ t' := by
  unfold execSanitizeComplete
  refine ⟨_, rfl, ?_⟩
  repeat' (first
    | (with_reducible exact k0) | (with_reducible apply keeps_modPlot) | (with_reducible apply keeps_settleTasks)
    | (with_reducible apply keeps_answerTask) | (with_reducible apply keeps_cryptoErase) | split)

theorem keeps_taskManagement {s₀ : State} {s : State} {key : TaskKey} {sel : Task → Bool} (k0 : Keeps s₀ s)  : Keeps s₀ (taskManagement s key sel) := by
  unfold taskManagement
  repeat' (first
    | (with_reducible exact k0) | (with_reducible apply keeps_sendScsi) | (with_reducible apply keeps_abortAnd)
    | (with_reducible apply keeps_serveReads) | (with_reducible apply keeps_ite))

theorem keeps_execAbortTask {s₀ : State} {key : TaskKey} {s : State} (k0 : Keeps s₀ s) :
    ∃ t', execAbortTask key s = .next t' ∧ Keeps s₀ t' := by
  unfold execAbortTask
  refine ⟨_, rfl, ?_⟩
  repeat' (first
    | (with_reducible exact k0) | (with_reducible apply keeps_taskManagement))

theorem keeps_execAbortTaskSet {s₀ : State} {key : TaskKey} {s : State} (k0 : Keeps s₀ s) :
    ∃ t', execAbortTaskSet key s = .next t' ∧ Keeps s₀ t' := by
  unfold execAbortTaskSet
  refine ⟨_, rfl, ?_⟩
  repeat' (first
    | (with_reducible exact k0) | (with_reducible apply keeps_taskManagement))

theorem keeps_execClearTaskSet {s₀ : State} {key : TaskKey} {s : State} (k0 : Keeps s₀ s) :
    ∃ t', execClearTaskSet key s = .next t' ∧ Keeps s₀ t' := by
  unfold execClearTaskSet
  refine ⟨_, rfl, ?_⟩
  repeat' (first
    | (with_reducible exact k0) | (with_reducible apply keeps_taskManagement))

theorem keeps_execLogicalUnitReset {s₀ : State} {key : TaskKey} {s : State} (k0 : Keeps s₀ s) :
    ∃ t', execLogicalUnitReset key s = .next t' ∧ Keeps s₀ t' := by
  unfold execLogicalUnitReset
  refine ⟨_, rfl, ?_⟩
  repeat' (first
    | (with_reducible exact k0) | (with_reducible apply keeps_taskManagement))

theorem keeps_execITNexusReset {s₀ : State} {key : TaskKey} {s : State} (k0 : Keeps s₀ s) :
    ∃ t', execITNexusReset key s = .next t' ∧ Keeps s₀ t' := by
  unfold execITNexusReset
  refine ⟨_, rfl, ?_⟩
  repeat' (first
    | (with_reducible exact k0) | (with_reducible apply keeps_taskManagement))

theorem keeps_execQueryTask {s₀ : State} {key : TaskKey} {s : State} (k0 : Keeps s₀ s) :
    ∃ t', execQueryTask key s = .next t' ∧ Keeps s₀ t' := by
  unfold execQueryTask
  refine ⟨_, rfl, ?_⟩
  repeat' (first
    | (with_reducible exact k0) | (with_reducible apply keeps_sendScsi) | (with_reducible apply keeps_ite))

theorem keeps_execMassStorageReset {s₀ : State} {p : Port} {plot : Nat} {s : State} (k0 : Keeps s₀ s) :
    ∃ t', execMassStorageReset p plot s = .next t' ∧ Keeps s₀ t' := by
  unfold execMassStorageReset
  refine ⟨_, rfl, ?_⟩
  repeat' (first
    | (with_reducible exact k0) | (with_reducible apply keeps_answerControl) | (with_reducible apply keeps_abortAnd) | (with_reducible apply keeps_serveReads)
    | (with_reducible apply keeps_ite))

theorem keeps_execGetMaxLun {s₀ : State} {p : Port} {plot : Nat} {s : State} (k0 : Keeps s₀ s) :
    ∃ t', execGetMaxLun p plot s = .next t' ∧ Keeps s₀ t' := by
  unfold execGetMaxLun
  refine ⟨_, rfl, ?_⟩
  repeat' (first
    | (with_reducible exact k0) | (with_reducible apply keeps_answerControl) | (with_reducible apply keeps_ite))

end Sys2Proof.Machine
end

