-- ==== Sys2Proof/Laws/KeepsCred.lean ====
section
/-! SUPPORT. What the operations of Machine/Cred.lean keep: the queue, the member, the stepping and the invariant `Inv`. -/

namespace Sys2Proof.Machine

set_option maxRecDepth 4000


theorem keeps_credGate {s₀ : State} {s : State} {key : TaskKey} {opcode : Nat} {payload : List Byte} {mutates : Bool} {fua : Bool} {run : State → Port → State} (k0 : Keeps s₀ s) (hrun : ∀ x0 x1, Keeps s₀ x0 → Keeps s₀ (run x0 x1)) : Keeps s₀ (credGate s key opcode payload mutates fua run) := by
  unfold credGate
  repeat' (first
    | (with_reducible assumption) | apply hrun | intro _ | (with_reducible apply keeps_respondStatus)
    | (with_reducible apply keeps_withCapsule) | split)

theorem keeps_credTicket {s₀ : State} {s : State} {t : Task} {run : State → Task → State} (k0 : Keeps s₀ s) (hrun : ∀ x0 x1, Keeps s₀ x0 → Keeps s₀ (run x0 x1)) : Keeps s₀ (credTicket s t run) := by
  unfold credTicket
  repeat' (first
    | (with_reducible exact k0) | apply hrun | (with_reducible apply keeps_countTsf) | (with_reducible apply keeps_noteGrant)
    | (with_reducible apply keeps_noTicket) | split | (refine keeps_drawTicket ?_ (by assumption)))

theorem keeps_endNumbered {s₀ : State} {s : State} {t : Task} {status : Nat} {detail : Nat} (k0 : Keeps s₀ s)  : Keeps s₀ (endNumbered s t status detail) := by
  unfold endNumbered
  repeat' (first
    | (with_reducible exact k0) | (with_reducible apply keeps_modTasks) | (with_reducible apply keeps_settleTasks)
    | (with_reducible apply keeps_answerCapsule))

theorem keeps_putAt {s₀ : State} {s : State} {t : Task} {f : Nat} {mode : Nat} {value : List Byte} {n : Nat} (k0 : Keeps s₀ s)  : Keeps s₀ (putAt s t f mode value n) := by
  unfold putAt
  repeat' (first
    | (with_reducible exact k0) | (with_reducible apply keeps_modTasks) | (with_reducible apply keeps_endNumbered)
    | (with_reducible apply keeps_ite))

theorem keeps_deleteAt {s₀ : State} {s : State} {t : Task} {f : Nat} {n : Nat} (k0 : Keeps s₀ s)  : Keeps s₀ (deleteAt s t f n) := by
  unfold deleteAt
  repeat' (first
    | (with_reducible exact k0) | (with_reducible apply keeps_modField) | (with_reducible apply keeps_modTasks)
    | (with_reducible apply keeps_answerTask) | (with_reducible apply keeps_runField) | (with_reducible apply keeps_develop)
    | (with_reducible apply keeps_applyDiscard) | (with_reducible apply keeps_endNumbered) | dsimp only | split)

theorem keeps_numbered {s₀ : State} {s : State} {t : Task} {p : Port} {run : State → Nat → State} (k0 : Keeps s₀ s) (hrun : ∀ x0 x1, Keeps s₀ x0 → Keeps s₀ (run x0 x1)) : Keeps s₀ (numbered s t p run) := by
  unfold numbered
  repeat' (first
    | (with_reducible exact k0) | apply hrun | (with_reducible apply keeps_releaseTicket)
    | (with_reducible apply keeps_respondStatus) | split | (refine keeps_issueOrder ?_ (by assumption)))

theorem keeps_execPut {s₀ : State} {key : TaskKey} {mode : Nat} {name : List Byte} {value : List Byte} {fua : Bool} {s : State} (k0 : Keeps s₀ s) :
    ∃ t', execPut key mode name value fua s = .next t' ∧ Keeps s₀ t' := by
  unfold execPut
  refine ⟨_, rfl, ?_⟩
  repeat' (first
    | (with_reducible assumption) | intro _ | (with_reducible apply keeps_credGate) | (with_reducible apply keeps_credTicket)
    | (with_reducible apply keeps_putAt) | (with_reducible apply keeps_numbered) | split)

theorem keeps_execDelete {s₀ : State} {key : TaskKey} {name : List Byte} {fua : Bool} {s : State} (k0 : Keeps s₀ s) :
    ∃ t', execDelete key name fua s = .next t' ∧ Keeps s₀ t' := by
  unfold execDelete
  refine ⟨_, rfl, ?_⟩
  repeat' (first
    | (with_reducible assumption) | intro _ | (with_reducible apply keeps_credGate) | (with_reducible apply keeps_credTicket)
    | (with_reducible apply keeps_deleteAt) | (with_reducible apply keeps_numbered) | split)

theorem keeps_execGet {s₀ : State} {key : TaskKey} {name : List Byte} {s : State} (k0 : Keeps s₀ s) :
    ∃ t', execGet key name s = .next t' ∧ Keeps s₀ t' := by
  unfold execGet
  refine ⟨_, rfl, ?_⟩
  repeat' (first
    | (with_reducible assumption) | intro _ | (with_reducible apply keeps_modTasks) | (with_reducible apply keeps_startRead)
    | (with_reducible apply keeps_credGate) | (with_reducible apply keeps_credTicket) | (with_reducible apply keeps_endNumbered)
    | split)

theorem keeps_execList {s₀ : State} {key : TaskKey} {after : List Byte} {max : Nat} {s : State} (k0 : Keeps s₀ s) :
    ∃ t', execList key after max s = .next t' ∧ Keeps s₀ t' := by
  unfold execList
  refine ⟨_, rfl, ?_⟩
  repeat' (first
    | (with_reducible assumption) | intro _ | (with_reducible apply keeps_modTasks) | (with_reducible apply keeps_startRead)
    | (with_reducible apply keeps_credGate) | (with_reducible apply keeps_credTicket))

end Sys2Proof.Machine
end

