-- ==== Sys2Proof/Laws/KeepsBanks.lean ====
section
/-! SUPPORT. What the operations of Machine/Banks.lean keep: the queue, the member, the stepping and the invariant `Inv`. -/

namespace Sys2Proof.Machine

set_option maxRecDepth 4000


theorem keeps_modWin {s₀ : State} {s : State} {i : Nat} {f : WinState → WinState} (k0 : Keeps s₀ s)  : Keeps s₀ (modWin s i f) := by
  unfold modWin
  repeat' (first
    | (with_reducible exact k0) | (with_reducible apply keeps_mk (s := _) <;> first | rfl | skip))

theorem keeps_setReply {s₀ : State} {s : State} {id : Identity} {value : Word} {st : Nat} (k0 : Keeps s₀ s)  : Keeps s₀ (setReply s id value st) := by
  unfold setReply
  repeat' (first
    | (with_reducible exact k0) | (with_reducible apply keeps_ite)
    | (with_reducible apply keeps_mk (s := _) <;> first | rfl | skip))

theorem keeps_aperture {s₀ : State} {s : State} {id : Identity} {offset : Nat} {write : Bool} {value : Word} {parityOk : Bool} (k0 : Keeps s₀ s)  : Keeps s₀ (aperture s id offset write value parityOk).1 := by
  unfold aperture
  repeat' (first
    | (with_reducible exact k0) | (with_reducible apply keeps_bankCheck) | (with_reducible apply keeps_bankStore) | dsimp only
    | split | (refine keeps_of_fst (by assumption) ?_))

theorem keeps_execApertureAccess {s₀ : State} {id : Identity} {offset : Nat} {write : Bool} {value : Word} {parityOk : Bool} {s : State} (k0 : Keeps s₀ s) :
    ∃ t', execApertureAccess id offset write value parityOk s = .next t' ∧ Keeps s₀ t' := by
  unfold execApertureAccess
  refine ⟨_, rfl, ?_⟩
  repeat' (first
    | (with_reducible exact k0) | (with_reducible apply keeps_setReply) | (with_reducible apply keeps_aperture))

theorem keeps_execEccWriteback {s₀ : State} {bank : Nat} {_word : Nat} {s : State} (k0 : Keeps s₀ s) :
    ∃ t', execEccWriteback bank _word s = .next t' ∧ Keeps s₀ t' := by
  unfold execEccWriteback
  refine ⟨_, rfl, ?_⟩
  repeat' (first
    | (with_reducible exact k0) | (with_reducible apply keeps_modBank) | (with_reducible apply keeps_ite))

theorem keeps_atomicOp {s₀ : State} {s : State} {id : Identity} {bits : Nat} {add : Bool} (k0 : Keeps s₀ s)  : Keeps s₀ (atomicOp s id bits add) := by
  unfold atomicOp
  repeat' (first
    | (with_reducible exact k0) | (with_reducible apply keeps_bankCheck) | (with_reducible apply keeps_bankStore)
    | (with_reducible apply keeps_modWin) | (with_reducible apply keeps_ite) | split | (refine keeps_of_fst (by assumption) ?_))

theorem keeps_atomicWrite {s₀ : State} {s : State} {id : Identity} {bits : Nat} {add : Bool} (k0 : Keeps s₀ s)  : Keeps s₀ (atomicWrite s id bits add) := by
  unfold atomicWrite
  repeat' (first
    | (with_reducible assumption) | intro _ | (with_reducible apply keeps_csWrite) | (with_reducible apply keeps_atomicOp))

theorem keeps_execAdd32 {s₀ : State} {id : Identity} {s : State} (k0 : Keeps s₀ s) :
    ∃ t', execAdd32 id s = .next t' ∧ Keeps s₀ t' := by
  unfold execAdd32
  refine ⟨_, rfl, ?_⟩
  repeat' (first
    | (with_reducible exact k0) | (with_reducible apply keeps_atomicWrite))

theorem keeps_execAdd64 {s₀ : State} {id : Identity} {s : State} (k0 : Keeps s₀ s) :
    ∃ t', execAdd64 id s = .next t' ∧ Keeps s₀ t' := by
  unfold execAdd64
  refine ⟨_, rfl, ?_⟩
  repeat' (first
    | (with_reducible exact k0) | (with_reducible apply keeps_atomicWrite))

theorem keeps_execSwap32 {s₀ : State} {id : Identity} {s : State} (k0 : Keeps s₀ s) :
    ∃ t', execSwap32 id s = .next t' ∧ Keeps s₀ t' := by
  unfold execSwap32
  refine ⟨_, rfl, ?_⟩
  repeat' (first
    | (with_reducible exact k0) | (with_reducible apply keeps_atomicWrite))

theorem keeps_execSwap64 {s₀ : State} {id : Identity} {s : State} (k0 : Keeps s₀ s) :
    ∃ t', execSwap64 id s = .next t' ∧ Keeps s₀ t' := by
  unfold execSwap64
  refine ⟨_, rfl, ?_⟩
  repeat' (first
    | (with_reducible exact k0) | (with_reducible apply keeps_atomicWrite))

theorem keeps_badAtomic {s₀ : State} {s : State} {id : Identity} (k0 : Keeps s₀ s)  : Keeps s₀ (badAtomic s id) := by
  unfold badAtomic
  repeat' (first
    | (with_reducible exact k0) | (with_reducible apply keeps_modWin) | split)

theorem keeps_writeAtomic {s₀ : State} {s : State} {id : Identity} {op : Nat} (k0 : Keeps s₀ s)  : Keeps s₀ (writeAtomic s id op) := by
  unfold writeAtomic
  repeat' (first
    | (with_reducible exact k0) | (with_reducible apply keeps_atomicOp) | (with_reducible apply keeps_badAtomic)
    | (with_reducible apply keeps_ite))

theorem keeps_setBankResult {s₀ : State} {s : State} {b : Nat} {r : Nat} (k0 : Keeps s₀ s)  : Keeps s₀ (setBankResult s b r) := by
  unfold setBankResult
  repeat' (first
    | (with_reducible exact k0) | (with_reducible apply keeps_modBank))

theorem keeps_scrubBank {s₀ : State} {s : State} {b : Nat} (k0 : Keeps s₀ s)  : Keeps s₀ (scrubBank s b) := by
  unfold scrubBank
  repeat' (first
    | (with_reducible exact k0) | (with_reducible apply keeps_modBank) | (with_reducible apply keeps_zeroBank))

theorem keeps_handover {s₀ : State} {s : State} {id : Identity} {b : Nat} {new : Identity} {scrub : Bool} (k0 : Keeps s₀ s)  : Keeps s₀ (handover s id b new scrub) := by
  unfold handover
  repeat' (first
    | (with_reducible exact k0) | (with_reducible apply keeps_modBank) | (with_reducible apply keeps_setBankResult)
    | (with_reducible apply keeps_scrubBank) | (with_reducible apply keeps_ite))

theorem keeps_seize {s₀ : State} {s : State} {id : Identity} {b : Nat} (k0 : Keeps s₀ s)  : Keeps s₀ (seize s id b) := by
  unfold seize
  repeat' (first
    | (with_reducible exact k0) | (with_reducible apply keeps_modBank) | (with_reducible apply keeps_setBankResult)
    | (with_reducible apply keeps_scrubBank) | (with_reducible apply keeps_ite))

theorem keeps_execBnkHandover {s₀ : State} {id : Identity} {bank : Nat} {new : Identity} {scrub : Bool} {s : State} (k0 : Keeps s₀ s) :
    ∃ t', execBnkHandover id bank new scrub s = .next t' ∧ Keeps s₀ t' := by
  unfold execBnkHandover
  refine ⟨_, rfl, ?_⟩
  repeat' (first
    | (with_reducible assumption) | intro _ | (with_reducible apply keeps_rsvdWrite) | (with_reducible apply keeps_csWrite)
    | (with_reducible apply keeps_handover) | (with_reducible apply keeps_ite))

theorem keeps_execBnkSeize {s₀ : State} {id : Identity} {bank : Nat} {s : State} (k0 : Keeps s₀ s) :
    ∃ t', execBnkSeize id bank s = .next t' ∧ Keeps s₀ t' := by
  unfold execBnkSeize
  refine ⟨_, rfl, ?_⟩
  repeat' (first
    | (with_reducible assumption) | intro _ | (with_reducible apply keeps_rsvdWrite) | (with_reducible apply keeps_csWrite)
    | (with_reducible apply keeps_seize) | (with_reducible apply keeps_ite))

theorem keeps_execScrubDone {s₀ : State} {bank : Nat} {s : State} (k0 : Keeps s₀ s) :
    ∃ t', execScrubDone bank s = .next t' ∧ Keeps s₀ t' := by
  unfold execScrubDone
  refine ⟨_, rfl, ?_⟩
  repeat' (first
    | (with_reducible exact k0) | (with_reducible apply keeps_modBank))

theorem keeps_overlapFault {s₀ : State} {s : State} {new : MpuCfg} {old : MpuCfg} (k0 : Keeps s₀ s)  : Keeps s₀ (overlapFault s new old) := by
  unfold overlapFault
  repeat' (first
    | (with_reducible assumption) | intro _ | (with_reducible apply keeps_logFault) | (with_reducible apply keeps_enterScope)
    | (with_reducible apply keeps_ite) | (with_reducible apply keeps_foldl))

theorem keeps_enableRegion {s₀ : State} {s : State} {c : MpuCfg} (k0 : Keeps s₀ s)  : Keeps s₀ (enableRegion s c) := by
  unfold enableRegion
  repeat' (first
    | (with_reducible assumption) | intro _ | (with_reducible apply keeps_modMpu) | (with_reducible apply keeps_overlapFault)
    | (with_reducible apply keeps_ite) | (with_reducible apply keeps_foldl))

theorem keeps_writeRegion {s₀ : State} {s : State} {r : Nat} {reg : Nat} {v : Word} (k0 : Keeps s₀ s)  : Keeps s₀ (writeRegion s r reg v) := by
  unfold writeRegion
  repeat' (first
    | (with_reducible exact k0) | (with_reducible apply keeps_modMpu) | (with_reducible apply keeps_enableRegion)
    | (with_reducible apply keeps_ite))

theorem keeps_execMpuRegionWrite {s₀ : State} {id : Identity} {region : Nat} {reg : Nat} {value : Word} {s : State} (k0 : Keeps s₀ s) :
    ∃ t', execMpuRegionWrite id region reg value s = .next t' ∧ Keeps s₀ t' := by
  unfold execMpuRegionWrite
  refine ⟨_, rfl, ?_⟩
  repeat' (first
    | (with_reducible assumption) | intro _ | (with_reducible apply keeps_rsvdWrite) | (with_reducible apply keeps_csWrite)
    | (with_reducible apply keeps_writeRegion) | (with_reducible apply keeps_ite))

theorem keeps_writeMpuCtrl {s₀ : State} {s : State} {v : Word} (k0 : Keeps s₀ s)  : Keeps s₀ (writeMpuCtrl s v) := by
  unfold writeMpuCtrl
  repeat' (first
    | (with_reducible exact k0) | (with_reducible apply keeps_modMpu))

theorem keeps_execMpuLock {s₀ : State} {id : Identity} {s : State} (k0 : Keeps s₀ s) :
    ∃ t', execMpuLock id s = .next t' ∧ Keeps s₀ t' := by
  unfold execMpuLock
  refine ⟨_, rfl, ?_⟩
  repeat' (first
    | (with_reducible assumption) | intro _ | (with_reducible apply keeps_csWrite) | (with_reducible apply keeps_writeMpuCtrl))

theorem keeps_ackVio {s₀ : State} {s : State} {n : Nat} (k0 : Keeps s₀ s)  : Keeps s₀ (ackVio s n) := by
  unfold ackVio
  repeat' (first
    | (with_reducible exact k0) | (with_reducible apply keeps_modMpu))

theorem keeps_execMpuVioAck {s₀ : State} {id : Identity} {seq : Nat} {s : State} (k0 : Keeps s₀ s) :
    ∃ t', execMpuVioAck id seq s = .next t' ∧ Keeps s₀ t' := by
  unfold execMpuVioAck
  refine ⟨_, rfl, ?_⟩
  repeat' (first
    | (with_reducible assumption) | intro _ | (with_reducible apply keeps_csWrite) | (with_reducible apply keeps_ackVio))

end Sys2Proof.Machine
end

