-- ==== Sys2Proof/Laws/KeepsSem.lean ====
section
/-! SUPPORT. What the operations of Machine/Sem.lean keep: the queue, the member, the stepping and the invariant `Inv`. -/

namespace Sys2Proof.Machine

set_option maxRecDepth 4000


theorem keeps_setOwner {s₀ : State} {s : State} {n : Nat} {id : Identity} (h : Keeps s₀ s) (hid : id = idNone ∨ isHostId id = true) :
    Keeps s₀ (setOwner s n id) := by
  refine ⟨h.pending, h.member, h.stepping, fun i => ?_⟩
  obtain ⟨a, b, c, d, e⟩ := h.inv i
  refine ⟨a, b, ?_, ?_, e⟩
  · exact (List.length_set ..).trans c
  · intro o ho
    rcases List.mem_or_eq_of_mem_set ho with ho | rfl
    · exact d o ho
    · exact hid

theorem keeps_countBusy {s₀ : State} {s : State} {id : Identity} (k0 : Keeps s₀ s)  : Keeps s₀ (countBusy s id) := by
  unfold countBusy
  repeat' (first
    | (with_reducible exact k0) | (intro q; with_reducible rfl) | (with_reducible apply keeps_modSem) | (with_reducible rfl)
    | split)

theorem keeps_semaphoreOp {s₀ : State} {s : State} {id : Identity} {n op : Nat} (h : Keeps s₀ s) : Keeps s₀ (semaphoreOp s id n op) := by
  unfold semaphoreOp
  split
  · exact h
  · rename_i hc
    have hid : isHostId id = true := by
      cases hh : isHostId id
      · simp [hh] at hc
      · rfl
    dsimp only
    repeat' (first
      | with_reducible exact h
      | exact keeps_setOwner h (Or.inr hid)
      | exact keeps_setOwner h (Or.inl rfl)
      | with_reducible exact keeps_countBusy h
      | exact keeps_modSem (keeps_setOwner h (Or.inl rfl)) fun _ => rfl
      | split)

theorem keeps_semWrite {s₀ : State} {s : State} {id : Identity} {n : Nat} {op : Nat} (k0 : Keeps s₀ s)  : Keeps s₀ (semWrite s id n op) := by
  unfold semWrite
  repeat' (first
    | (with_reducible assumption) | intro _ | (with_reducible apply keeps_csWrite) | (with_reducible apply keeps_semaphoreOp))

theorem keeps_execSemTake {s₀ : State} {id : Identity} {n : Nat} {s : State} (k0 : Keeps s₀ s) :
    ∃ t', execSemTake id n s = .next t' ∧ Keeps s₀ t' := by
  unfold execSemTake
  refine ⟨_, rfl, ?_⟩
  repeat' (first
    | (with_reducible exact k0) | (with_reducible apply keeps_semWrite))

theorem keeps_execSemRelease {s₀ : State} {id : Identity} {n : Nat} {s : State} (k0 : Keeps s₀ s) :
    ∃ t', execSemRelease id n s = .next t' ∧ Keeps s₀ t' := by
  unfold execSemRelease
  refine ⟨_, rfl, ?_⟩
  repeat' (first
    | (with_reducible exact k0) | (with_reducible apply keeps_semWrite))

theorem keeps_execSemForce {s₀ : State} {id : Identity} {n : Nat} {s : State} (k0 : Keeps s₀ s) :
    ∃ t', execSemForce id n s = .next t' ∧ Keeps s₀ t' := by
  unfold execSemForce
  refine ⟨_, rfl, ?_⟩
  repeat' (first
    | (with_reducible exact k0) | (with_reducible apply keeps_semWrite))

end Sys2Proof.Machine
end

