-- ==== Sys2Proof/Laws/KeepsHoldUp.lean ====
section
/-! SUPPORT. What the operations of Machine/HoldUp.lean keep: the queue, the member, the stepping and the invariant `Inv`. -/

namespace Sys2Proof.Machine

set_option maxRecDepth 4000


theorem keeps_stopErase {s₀ : State} {s : State} (k0 : Keeps s₀ s)  : Keeps s₀ (stopErase s) := by
  unfold stopErase
  repeat' (first
    | (with_reducible exact k0) | (intro q; with_reducible rfl) | (with_reducible apply keeps_modGrn))

theorem keeps_cutShort {s₀ : State} {s : State} {t : Task} (k0 : Keeps s₀ s)  : Keeps s₀ (cutShort s t) := by
  unfold cutShort
  repeat' (first
    | (with_reducible exact k0) | (with_reducible apply keeps_answerCapsule) | (with_reducible apply keeps_answerTask)
    | (with_reducible apply keeps_ite))

theorem keeps_cutWrites {s₀ : State} {s : State} (k0 : Keeps s₀ s)  : Keeps s₀ (cutWrites s) := by
  unfold cutWrites
  repeat' (first
    | (with_reducible exact k0) | (with_reducible apply keeps_abortTasks) | (with_reducible apply keeps_settleTasks)
    | (with_reducible apply keeps_serveReads) | (with_reducible apply keeps_cutShort) | (with_reducible apply keeps_foldl))

theorem keeps_beginHold {s₀ : State} {s : State} (k0 : Keeps s₀ s)  : Keeps s₀ (beginHold s) := by
  unfold beginHold
  repeat' (first
    | (with_reducible exact k0) | (with_reducible apply keeps_modHold) | (with_reducible apply keeps_sealFields)
    | (with_reducible apply keeps_developAll) | (with_reducible apply keeps_cutWrites))

theorem keeps_execPwrFail {s₀ : State} {s : State} (k0 : Keeps s₀ s) :
    ∃ t', execPwrFail s = .next t' ∧ Keeps s₀ t' := by
  unfold execPwrFail
  refine ⟨_, rfl, ?_⟩
  repeat' (first
    | (with_reducible exact k0) | (with_reducible apply keeps_modHold) | (with_reducible apply keeps_stopErase)
    | (with_reducible apply keeps_beginHold) | (with_reducible apply keeps_ite))

theorem keeps_restartErase {s₀ : State} {s : State} (k0 : Keeps s₀ s)  : Keeps s₀ (restartErase s) := by
  unfold restartErase
  repeat' (first
    | (with_reducible exact k0) | (with_reducible apply keeps_startErase) | (with_reducible apply keeps_resumeErase) | split)

theorem keeps_execHoldupRelease {s₀ : State} {s : State} (k0 : Keeps s₀ s) :
    ∃ t', execHoldupRelease s = .next t' ∧ Keeps s₀ t' := by
  unfold execHoldupRelease
  refine ⟨_, rfl, ?_⟩
  repeat' (first
    | (with_reducible exact k0) | (with_reducible apply keeps_modHold) | (with_reducible apply keeps_runFields)
    | (with_reducible apply keeps_restartErase) | (with_reducible apply keeps_ite))

theorem keeps_execHoldupLost {s₀ : State} {s : State} (k0 : Keeps s₀ s) :
    ∃ t', execHoldupLost s = .next t' ∧ Keeps s₀ t' := by
  unfold execHoldupLost
  refine ⟨_, rfl, ?_⟩
  repeat' (first
    | (with_reducible exact k0) | (with_reducible apply keeps_modHold) | (with_reducible apply keeps_developAll)
    | (with_reducible apply keeps_ite))

theorem keeps_execHoldupOkAsserted {s₀ : State} {s : State} (k0 : Keeps s₀ s) :
    ∃ t', execHoldupOkAsserted s = .next t' ∧ Keeps s₀ t' := by
  unfold execHoldupOkAsserted
  refine ⟨_, rfl, ?_⟩
  repeat' (first
    | (with_reducible exact k0) | (with_reducible apply keeps_modHold))

theorem keeps_commitWall {s₀ : State} {s : State} {hi : Word} (k0 : Keeps s₀ s)  : Keeps s₀ (commitWall s hi) := by
  unfold commitWall
  repeat' (first
    | (with_reducible exact k0) | (with_reducible apply keeps_ite)
    | (with_reducible apply keeps_mk (s := _) <;> first | rfl | skip))

theorem keeps_writeWallHi {s₀ : State} {s : State} {id : Identity} {hi : Word} (k0 : Keeps s₀ s)  : Keeps s₀ (writeWallHi s id hi) := by
  unfold writeWallHi
  repeat' (first
    | (with_reducible exact k0) | (with_reducible apply keeps_commitWall) | (with_reducible apply keeps_ite))

theorem keeps_execWallTime {s₀ : State} {id : Identity} {hi : Word} {s : State} (k0 : Keeps s₀ s) :
    ∃ t', execWallTime id hi s = .next t' ∧ Keeps s₀ t' := by
  unfold execWallTime
  refine ⟨_, rfl, ?_⟩
  repeat' (first
    | (with_reducible assumption) | intro _ | (with_reducible apply keeps_csWrite) | (with_reducible apply keeps_writeWallHi))

end Sys2Proof.Machine
end

