-- ==== Sys2Proof/Laws/KeepsStack.lean ====
section
/-! SUPPORT. What the operations of Machine/Stack.lean keep: the queue, the member, the stepping and the invariant `Inv`. -/

namespace Sys2Proof.Machine

set_option maxRecDepth 4000


theorem keeps_stackEvent {s₀ : State} {s : State} {pos : Nat} {code : Nat} {data : Nat} (k0 : Keeps s₀ s)  : Keeps s₀ (stackEvent s pos code data) := by
  unfold stackEvent
  repeat' (first
    | (with_reducible exact k0) | (with_reducible apply keeps_queueEvents))

theorem keeps_breakSegment {s₀ : State} {s : State} {g : Nat} (k0 : Keeps s₀ s)  : Keeps s₀ (breakSegment s g) := by
  unfold breakSegment
  repeat' (first
    | (with_reducible exact k0) | (with_reducible apply keeps_modStk))

theorem keeps_mendSegment {s₀ : State} {s : State} {g : Nat} (k0 : Keeps s₀ s)  : Keeps s₀ (mendSegment s g) := by
  unfold mendSegment
  repeat' (first
    | (with_reducible exact k0) | (with_reducible apply keeps_modStk))

theorem keeps_sendNak {s₀ : State} {s : State} {l : Link} (k0 : Keeps s₀ s)  : Keeps s₀ (sendNak s l) := by
  unfold sendNak
  repeat' (first
    | (with_reducible exact k0) | (with_reducible apply keeps_modLink) | (with_reducible apply keeps_sendOn)
    | (with_reducible apply keeps_ite))

theorem keeps_linkTake {s₀ : State} {s : State} {h : FrameHdr} (k0 : Keeps s₀ s)  : Keeps s₀ (linkTake s h).1 := by
  unfold linkTake
  repeat' (first
    | (with_reducible exact k0) | (with_reducible apply keeps_modLink) | (with_reducible apply keeps_sendOn)
    | (with_reducible apply keeps_sendNak) | dsimp only | split)

theorem keeps_passOn {s₀ : State} {s : State} {h : FrameHdr} {ty : Nat} {payload : List Byte} (k0 : Keeps s₀ s)  : Keeps s₀ (passOn s h ty payload) := by
  unfold passOn
  repeat' (first
    | (with_reducible exact k0) | (with_reducible apply keeps_sendOn) | (with_reducible apply keeps_ite))

theorem keeps_takeFrame {s₀ : State} {s : State} {h : FrameHdr} {ty : Nat} {payload : List Byte} {deliver : State → State} (k0 : Keeps s₀ s) (hdeliver : ∀ x0, Keeps s₀ x0 → Keeps s₀ (deliver x0)) : Keeps s₀ (takeFrame s h ty payload deliver) := by
  unfold takeFrame
  repeat' (first
    | (with_reducible exact k0) | apply hdeliver | (with_reducible apply keeps_linkTake) | (with_reducible apply keeps_passOn)
    | split | (refine keeps_of_fst (by assumption) ?_))

theorem keeps_takeLocal {s₀ : State} {s : State} {h : FrameHdr} {deliver : State → State} (k0 : Keeps s₀ s) (hdeliver : ∀ x0, Keeps s₀ x0 → Keeps s₀ (deliver x0)) : Keeps s₀ (takeLocal s h deliver) := by
  unfold takeLocal
  repeat' (first
    | (with_reducible exact k0) | apply hdeliver | (with_reducible apply keeps_linkTake) | split
    | (refine keeps_of_fst (by assumption) ?_))

theorem keeps_dropRequest {s₀ : State} {s : State} {tag : Nat} (k0 : Keeps s₀ s)  : Keeps s₀ (dropRequest s tag) := by
  unfold dropRequest
  repeat' (first
    | (with_reducible exact k0) | (with_reducible apply keeps_modStk))

theorem keeps_modRemote {s₀ : State} {s : State} {id : Identity} {f : RemoteBank → RemoteBank} (k0 : Keeps s₀ s)  : Keeps s₀ (modRemote s id f) := by
  unfold modRemote
  repeat' (first
    | (with_reducible exact k0) | (with_reducible apply keeps_modStk))

theorem keeps_completeLost {s₀ : State} {s : State} {q : RingReq} (k0 : Keeps s₀ s)  : Keeps s₀ (completeLost s q) := by
  unfold completeLost
  repeat' (first
    | (with_reducible exact k0) | (with_reducible apply keeps_settleTasks) | (with_reducible apply keeps_answerTask)
    | (with_reducible apply keeps_mgmtStatus) | (with_reducible apply keeps_dropRequest) | (with_reducible apply keeps_modRemote)
    | dsimp only | split)

theorem keeps_resendOn {s₀ : State} {s : State} {l : Link} {q : RingReq} (k0 : Keeps s₀ s)  : Keeps s₀ (resendOn s l q) := by
  unfold resendOn
  repeat' (first
    | (with_reducible exact k0) | (with_reducible apply keeps_sendOn) | split)

theorem keeps_modRequest {s₀ : State} {s : State} {tag : Nat} {f : RingReq → RingReq} (k0 : Keeps s₀ s)  : Keeps s₀ (modRequest s tag f) := by
  unfold modRequest
  repeat' (first
    | (with_reducible exact k0) | (with_reducible apply keeps_modStk))

theorem keeps_reroute {s₀ : State} {before : State} {s : State} (k0 : Keeps s₀ s)  : Keeps s₀ (reroute before s) := by
  unfold reroute
  repeat' (first
    | (with_reducible assumption) | intro _ | (with_reducible apply keeps_stackEvent) | (with_reducible apply keeps_completeLost)
    | (with_reducible apply keeps_resendOn) | (with_reducible apply keeps_modRequest) | (with_reducible apply keeps_ite)
    | (with_reducible apply keeps_foldl_fst) | split)

theorem keeps_linkDown {s₀ : State} {s : State} {l : Link} (k0 : Keeps s₀ s)  : Keeps s₀ (linkDown s l) := by
  unfold linkDown
  repeat' (first
    | (with_reducible exact k0) | (with_reducible apply keeps_modLink) | (with_reducible apply keeps_sendOn)
    | (with_reducible apply keeps_stackEvent) | (with_reducible apply keeps_breakSegment) | (with_reducible apply keeps_reroute)
    | (with_reducible apply keeps_ite))

theorem keeps_execLinkUp {s₀ : State} {l : Link} {s : State} (k0 : Keeps s₀ s) :
    ∃ t', execLinkUp l s = .next t' ∧ Keeps s₀ t' := by
  unfold execLinkUp
  refine ⟨_, rfl, ?_⟩
  repeat' (first
    | (with_reducible exact k0) | (with_reducible apply keeps_modLink) | (with_reducible apply keeps_sendOn)
    | (with_reducible apply keeps_stackEvent) | (with_reducible apply keeps_mendSegment) | (with_reducible apply keeps_ite))

theorem keeps_execLaneLoss {s₀ : State} {l : Link} {lane : Nat} {s : State} (k0 : Keeps s₀ s) :
    ∃ t', execLaneLoss l lane s = .next t' ∧ Keeps s₀ t' := by
  unfold execLaneLoss
  refine ⟨_, rfl, ?_⟩
  repeat' (first
    | (with_reducible exact k0) | (with_reducible apply keeps_modLink) | (with_reducible apply keeps_linkDown))

theorem keeps_replayLink {s₀ : State} {s : State} {l : Link} (k0 : Keeps s₀ s)  : Keeps s₀ (replayLink s l) := by
  unfold replayLink
  repeat' (first
    | (with_reducible exact k0) | (with_reducible apply keeps_modLink) | (with_reducible apply keeps_linkDown)
    | (with_reducible apply keeps_ite))

theorem keeps_execReplayTimeout {s₀ : State} {l : Link} {s : State} (k0 : Keeps s₀ s) :
    ∃ t', execReplayTimeout l s = .next t' ∧ Keeps s₀ t' := by
  unfold execReplayTimeout
  refine ⟨_, rfl, ?_⟩
  repeat' (first
    | (with_reducible exact k0) | (with_reducible apply keeps_replayLink))

theorem keeps_execLinkRetrain {s₀ : State} {l : Link} {s : State} (k0 : Keeps s₀ s) :
    ∃ t', execLinkRetrain l s = .next t' ∧ Keeps s₀ t' := by
  unfold execLinkRetrain
  refine ⟨_, rfl, ?_⟩
  repeat' (first
    | (with_reducible exact k0) | (with_reducible apply keeps_modLink) | (with_reducible apply keeps_ite))

theorem keeps_execAck {s₀ : State} {h : FrameHdr} {s : State} (k0 : Keeps s₀ s) :
    ∃ t', execAck h s = .next t' ∧ Keeps s₀ t' := by
  unfold execAck
  refine ⟨_, rfl, ?_⟩
  repeat' (first
    | (with_reducible exact k0) | (with_reducible apply keeps_modLink) | (with_reducible apply keeps_ite))

theorem keeps_execNak {s₀ : State} {h : FrameHdr} {s : State} (k0 : Keeps s₀ s) :
    ∃ t', execNak h s = .next t' ∧ Keeps s₀ t' := by
  unfold execNak
  refine ⟨_, rfl, ?_⟩
  repeat' (first
    | (with_reducible exact k0) | (with_reducible apply keeps_modLink) | (with_reducible apply keeps_replayLink)
    | (with_reducible apply keeps_ite))

theorem keeps_execLinkFrameError {s₀ : State} {l : Link} {crcOk : Bool} {lseq : Nat} {s : State} (k0 : Keeps s₀ s) :
    ∃ t', execLinkFrameError l crcOk lseq s = .next t' ∧ Keeps s₀ t' := by
  unfold execLinkFrameError
  refine ⟨_, rfl, ?_⟩
  repeat' (first
    | (with_reducible exact k0) | (with_reducible apply keeps_sendNak) | (with_reducible apply keeps_ite))

theorem keeps_execUnknownFrame {s₀ : State} {h : FrameHdr} {_ty : Nat} {_len : Nat} {s : State} (k0 : Keeps s₀ s) :
    ∃ t', execUnknownFrame h _ty _len s = .next t' ∧ Keeps s₀ t' := by
  unfold execUnknownFrame
  refine ⟨_, rfl, ?_⟩
  repeat' (first
    | (with_reducible assumption) | intro _ | (with_reducible apply keeps_logFault) | (with_reducible apply keeps_takeLocal))

theorem keeps_hidePlots {s₀ : State} {s : State} (k0 : Keeps s₀ s)  : Keeps s₀ (hidePlots s) := by
  unfold hidePlots
  repeat' (first
    | (with_reducible assumption) | intro _ | (with_reducible apply keeps_detachPlot) | (with_reducible apply keeps_abortTasks)
    | (with_reducible apply keeps_settleTasks) | (with_reducible apply keeps_foldl))

theorem keeps_showPlots {s₀ : State} {s : State} (k0 : Keeps s₀ s)  : Keeps s₀ (showPlots s) := by
  unfold showPlots
  repeat' (first
    | (with_reducible assumption) | intro _ | (with_reducible apply keeps_attachPlot) | (with_reducible apply keeps_ite)
    | (with_reducible apply keeps_foldl))

theorem keeps_loseDies {s₀ : State} {s : State} {f : Nat} {pos : Nat} (k0 : Keeps s₀ s)  : Keeps s₀ (loseDies s f pos) := by
  unfold loseDies
  repeat' (first
    | (with_reducible assumption) | intro _ | (with_reducible apply keeps_loseChannel) | (with_reducible apply keeps_foldl)
    | split)

theorem keeps_absenceIn {s₀ : State} {s : State} {pos : Nat} {f : FieldCfg} (k0 : Keeps s₀ s)  : Keeps s₀ (absenceIn s pos f) := by
  unfold absenceIn
  repeat' (first
    | (with_reducible assumption) | intro _ | (with_reducible apply keeps_modField) | (with_reducible apply keeps_enterScope)
    | (with_reducible apply keeps_fieldFault) | (with_reducible apply keeps_loseDies) | (with_reducible apply keeps_ite)
    | (with_reducible apply keeps_foldl))

theorem keeps_declareAbsent {s₀ : State} {s : State} {pos : Nat} {why : Nat} (k0 : Keeps s₀ s)  : Keeps s₀ (declareAbsent s pos why) := by
  unfold declareAbsent
  repeat' (first
    | (with_reducible assumption) | intro _ | (with_reducible apply keeps_modStk) | (with_reducible apply keeps_stackEvent)
    | (with_reducible apply keeps_completeLost) | (with_reducible apply keeps_absenceIn) | (with_reducible apply keeps_ite)
    | (with_reducible apply keeps_foldl))

theorem keeps_execAbsentTimeout {s₀ : State} {pos : Nat} {s : State} (k0 : Keeps s₀ s) :
    ∃ t', execAbsentTimeout pos s = .next t' ∧ Keeps s₀ t' := by
  unfold execAbsentTimeout
  refine ⟨_, rfl, ?_⟩
  repeat' (first
    | (with_reducible exact k0) | (with_reducible apply keeps_declareAbsent))

theorem keeps_execLeave {s₀ : State} {h : FrameHdr} {pos : Nat} {s : State} (k0 : Keeps s₀ s) :
    ∃ t', execLeave h pos s = .next t' ∧ Keeps s₀ t' := by
  unfold execLeave
  refine ⟨_, rfl, ?_⟩
  repeat' (first
    | (with_reducible assumption) | intro _ | (with_reducible apply keeps_takeFrame) | (with_reducible apply keeps_declareAbsent))

theorem keeps_rejoin {s₀ : State} {s : State} {pos : Nat} (k0 : Keeps s₀ s)  : Keeps s₀ (rejoin s pos) := by
  unfold rejoin
  repeat' (first
    | (with_reducible assumption) | intro _ | (with_reducible apply keeps_modStk) | (with_reducible apply keeps_onField)
    | (with_reducible apply keeps_updateHeadland) | (with_reducible apply keeps_updateHealth)
    | (with_reducible apply keeps_runField) | (with_reducible apply keeps_stackEvent) | (with_reducible apply keeps_ite)
    | (with_reducible apply keeps_foldl))

theorem keeps_sendKeyx {s₀ : State} {s : State} {pos : Nat} (k0 : Keeps s₀ s)  : Keeps s₀ (sendKeyx s pos) := by
  unfold sendKeyx
  repeat' (first
    | (with_reducible exact k0) | (with_reducible apply keeps_modStk) | (with_reducible apply keeps_drawBytes)
    | (with_reducible apply keeps_ringSend))

theorem keeps_settleWide {s₀ : State} {s : State} (k0 : Keeps s₀ s)  : Keeps s₀ (settleWide s) := by
  unfold settleWide
  repeat' (first
    | (with_reducible assumption) | intro _ | (with_reducible apply keeps_modStk) | (with_reducible apply keeps_scanField)
    | (with_reducible apply keeps_absenceIn) | (with_reducible apply keeps_ite) | (with_reducible apply keeps_foldl))

theorem keeps_declareDup {s₀ : State} {s : State} (k0 : Keeps s₀ s)  : Keeps s₀ (declareDup s) := by
  unfold declareDup
  repeat' (first
    | (with_reducible exact k0) | (with_reducible apply keeps_modStk) | (with_reducible apply keeps_stackEvent)
    | (with_reducible apply keeps_completeLost) | (with_reducible apply keeps_settleWide) | (with_reducible apply keeps_foldl))

theorem keeps_finishEnum {s₀ : State} {s : State} (k0 : Keeps s₀ s)  : Keeps s₀ (finishEnum s) := by
  unfold finishEnum
  repeat' (first
    | (with_reducible assumption) | intro _ | (with_reducible apply keeps_modStk) | (with_reducible apply keeps_ringBroadcast)
    | (with_reducible apply keeps_stackEvent) | (with_reducible apply keeps_sendKeyx) | (with_reducible apply keeps_settleWide)
    | (with_reducible apply keeps_ite) | (with_reducible apply keeps_foldl))

theorem keeps_sendEnum {s₀ : State} {s : State} {l : Link} (k0 : Keeps s₀ s)  : Keeps s₀ (sendEnum s l) := by
  unfold sendEnum
  repeat' (first
    | (with_reducible exact k0) | (with_reducible apply keeps_sendOn))

theorem keeps_openWindow {s₀ : State} {s : State} (k0 : Keeps s₀ s)  : Keeps s₀ (openWindow s) := by
  unfold openWindow
  repeat' (first
    | (with_reducible exact k0) | (with_reducible apply keeps_modStk) | (with_reducible apply keeps_finishEnum)
    | (with_reducible apply keeps_sendEnum) | (with_reducible apply keeps_ite))

theorem keeps_addEntries {s₀ : State} {s : State} {es : List (Nat × EnumEntry)} (k0 : Keeps s₀ s)  : Keeps s₀ (addEntries s es) := by
  unfold addEntries
  repeat' (first
    | (with_reducible exact k0) | (with_reducible apply keeps_modStk))

theorem keeps_enumAtMaster {s₀ : State} {s : State} {h : FrameHdr} {es : List EnumEntry} (k0 : Keeps s₀ s)  : Keeps s₀ (enumAtMaster s h es) := by
  unfold enumAtMaster
  repeat' (first
    | (with_reducible exact k0) | (with_reducible apply keeps_breakSegment) | (with_reducible apply keeps_declareDup)
    | (with_reducible apply keeps_finishEnum) | (with_reducible apply keeps_sendEnum) | (with_reducible apply keeps_addEntries)
    | (with_reducible apply keeps_ite) | split)

theorem keeps_enumAtMember {s₀ : State} {s : State} {h : FrameHdr} {es : List EnumEntry} (k0 : Keeps s₀ s)  : Keeps s₀ (enumAtMember s h es) := by
  unfold enumAtMember
  repeat' (first
    | (with_reducible exact k0) | (with_reducible apply keeps_modStk) | (with_reducible apply keeps_releaseSems)
    | (with_reducible apply keeps_sendOn) | (with_reducible apply keeps_dropRemote) | (with_reducible apply keeps_passOn)
    | (with_reducible apply keeps_ite))

theorem keeps_execEnum {s₀ : State} {h : FrameHdr} {entries : List EnumEntry} {s : State} (k0 : Keeps s₀ s) :
    ∃ t', execEnum h entries s = .next t' ∧ Keeps s₀ t' := by
  unfold execEnum
  refine ⟨_, rfl, ?_⟩
  repeat' (first
    | (with_reducible assumption) | intro _ | (with_reducible apply keeps_takeLocal) | (with_reducible apply keeps_enumAtMaster)
    | (with_reducible apply keeps_enumAtMember) | (with_reducible apply keeps_ite))

theorem keeps_takeConfirm {s₀ : State} {s : State} {count : Nat} {results : List Nat} (k0 : Keeps s₀ s)  : Keeps s₀ (takeConfirm s count results) := by
  unfold takeConfirm
  repeat' (first
    | (with_reducible exact k0) | (with_reducible apply keeps_modStk) | (with_reducible apply keeps_hidePlots)
    | (with_reducible apply keeps_showPlots) | (with_reducible apply keeps_sendKeyx) | (with_reducible apply keeps_ite) | split)

theorem keeps_execConfirm {s₀ : State} {h : FrameHdr} {expect : Nat} {count : Nat} {results : List Nat} {s : State} (k0 : Keeps s₀ s) :
    ∃ t', execConfirm h expect count results s = .next t' ∧ Keeps s₀ t' := by
  unfold execConfirm
  refine ⟨_, rfl, ?_⟩
  repeat' (first
    | (with_reducible assumption) | intro _ | (with_reducible apply keeps_takeFrame) | (with_reducible apply keeps_declareDup)
    | (with_reducible apply keeps_takeConfirm) | (with_reducible apply keeps_ite))

theorem keeps_execEnumResend {s₀ : State} {s : State} (k0 : Keeps s₀ s) :
    ∃ t', execEnumResend s = .next t' ∧ Keeps s₀ t' := by
  unfold execEnumResend
  refine ⟨_, rfl, ?_⟩
  repeat' (first
    | (with_reducible exact k0) | (with_reducible apply keeps_sendEnum) | (with_reducible apply keeps_ite))

theorem keeps_execEnumWindowClose {s₀ : State} {s : State} (k0 : Keeps s₀ s) :
    ∃ t', execEnumWindowClose s = .next t' ∧ Keeps s₀ t' := by
  unfold execEnumWindowClose
  refine ⟨_, rfl, ?_⟩
  repeat' (first
    | (with_reducible exact k0) | (with_reducible apply keeps_finishEnum) | (with_reducible apply keeps_ite))

theorem keeps_takePosition {s₀ : State} {s : State} (k0 : Keeps s₀ s)  : Keeps s₀ (takePosition s) := by
  unfold takePosition
  repeat' (first
    | (with_reducible exact k0) | (with_reducible apply keeps_modStk) | (with_reducible apply keeps_ite))

theorem keeps_startStack {s₀ : State} {s : State} (k0 : Keeps s₀ s)  : Keeps s₀ (startStack s) := by
  unfold startStack
  repeat' (first
    | (with_reducible exact k0) | (with_reducible apply keeps_modStk) | (with_reducible apply keeps_finishEnum)
    | (with_reducible apply keeps_openWindow) | (with_reducible apply keeps_takePosition) | (with_reducible apply keeps_ite))

theorem keeps_takeHello {s₀ : State} {s : State} {stackId : Nat} {pos : Nat} {role : Nat} {st : Nat} {serial : Nat} (k0 : Keeps s₀ s)  : Keeps s₀ (takeHello s stackId pos role st serial) := by
  unfold takeHello
  repeat' (first
    | (with_reducible exact k0) | (with_reducible apply keeps_ringSend) | (with_reducible apply keeps_stackEvent)
    | (with_reducible apply keeps_rejoin) | (with_reducible apply keeps_declareDup) | split)

theorem keeps_execHello {s₀ : State} {h : FrameHdr} {stackId : Nat} {pos : Nat} {role : Nat} {st : Nat} {serial : Nat} {s : State} (k0 : Keeps s₀ s) :
    ∃ t', execHello h stackId pos role st serial s = .next t' ∧ Keeps s₀ t' := by
  unfold execHello
  refine ⟨_, rfl, ?_⟩
  repeat' (first
    | (with_reducible assumption) | intro _ | (with_reducible apply keeps_takeLocal) | (with_reducible apply keeps_takeHello))

theorem keeps_execLinkdown {s₀ : State} {h : FrameHdr} {pos : Nat} {which : Link} {s : State} (k0 : Keeps s₀ s) :
    ∃ t', execLinkdown h pos which s = .next t' ∧ Keeps s₀ t' := by
  unfold execLinkdown
  refine ⟨_, rfl, ?_⟩
  repeat' (first
    | (with_reducible assumption) | intro _ | (with_reducible apply keeps_breakSegment) | (with_reducible apply keeps_takeFrame)
    | (with_reducible apply keeps_reroute))

theorem keeps_takeKeyx {s₀ : State} {s : State} {pos : Nat} {other : List Byte} (k0 : Keeps s₀ s)  : Keeps s₀ (takeKeyx s pos other) := by
  unfold takeKeyx
  repeat' (first
    | (with_reducible exact k0) | (with_reducible apply keeps_modStk) | split)

theorem keeps_execKeyx {s₀ : State} {h : FrameHdr} {publicKey : List Byte} {s : State} (k0 : Keeps s₀ s) :
    ∃ t', execKeyx h publicKey s = .next t' ∧ Keeps s₀ t' := by
  unfold execKeyx
  refine ⟨_, rfl, ?_⟩
  repeat' (first
    | (with_reducible assumption) | intro _ | (with_reducible apply keeps_takeFrame) | (with_reducible apply keeps_takeKeyx))

theorem keeps_execTime {s₀ : State} {h : FrameHdr} {stackTime : Nat} {retire : Nat} {s : State} (k0 : Keeps s₀ s) :
    ∃ t', execTime h stackTime retire s = .next t' ∧ Keeps s₀ t' := by
  unfold execTime
  refine ⟨_, rfl, ?_⟩
  repeat' (first
    | (with_reducible assumption) | intro _ | (with_reducible apply keeps_modStk) | (with_reducible apply keeps_takeFrame)
    | (with_reducible apply keeps_ite))

theorem keeps_execTimePeriod {s₀ : State} {s : State} (k0 : Keeps s₀ s) :
    ∃ t', execTimePeriod s = .next t' ∧ Keeps s₀ t' := by
  unfold execTimePeriod
  refine ⟨_, rfl, ?_⟩
  repeat' (first
    | (with_reducible exact k0) | (with_reducible apply keeps_modStk) | (with_reducible apply keeps_ringBroadcast)
    | (with_reducible apply keeps_ite))

theorem keeps_execMasterLost {s₀ : State} {s : State} (k0 : Keeps s₀ s) :
    ∃ t', execMasterLost s = .next t' ∧ Keeps s₀ t' := by
  unfold execMasterLost
  refine ⟨_, rfl, ?_⟩
  repeat' (first
    | (with_reducible exact k0) | (with_reducible apply keeps_modStk) | (with_reducible apply keeps_releaseSems)
    | (with_reducible apply keeps_dropRemote) | (with_reducible apply keeps_ite))

theorem keeps_execLoneTimeout {s₀ : State} {s : State} (k0 : Keeps s₀ s) :
    ∃ t', execLoneTimeout s = .next t' ∧ Keeps s₀ t' := by
  unfold execLoneTimeout
  refine ⟨_, rfl, ?_⟩
  repeat' (first
    | (with_reducible exact k0) | (with_reducible apply keeps_modStk) | (with_reducible apply keeps_releaseSems)
    | (with_reducible apply keeps_stackEvent) | (with_reducible apply keeps_hidePlots) | (with_reducible apply keeps_ite))

theorem keeps_execRequestTimeout {s₀ : State} {tag : Nat} {s : State} (k0 : Keeps s₀ s) :
    ∃ t', execRequestTimeout tag s = .next t' ∧ Keeps s₀ t' := by
  unfold execRequestTimeout
  refine ⟨_, rfl, ?_⟩
  repeat' (first
    | (with_reducible exact k0) | (with_reducible apply keeps_completeLost) | (with_reducible apply keeps_resendOn)
    | (with_reducible apply keeps_modRequest) | split)

theorem keeps_reEnumerate {s₀ : State} {s : State} {id : Identity} (k0 : Keeps s₀ s)  : Keeps s₀ (reEnumerate s id) := by
  unfold reEnumerate
  repeat' (first
    | (with_reducible exact k0) | (with_reducible apply keeps_modStk) | (with_reducible apply keeps_openWindow)
    | (with_reducible apply keeps_ite))

theorem keeps_execReEnumerate {s₀ : State} {id : Identity} {s : State} (k0 : Keeps s₀ s) :
    ∃ t', execReEnumerate id s = .next t' ∧ Keeps s₀ t' := by
  unfold execReEnumerate
  refine ⟨_, rfl, ?_⟩
  repeat' (first
    | (with_reducible assumption) | intro _ | (with_reducible apply keeps_rsvdWrite) | (with_reducible apply keeps_csWrite)
    | (with_reducible apply keeps_reEnumerate) | (with_reducible apply keeps_ite))

end Sys2Proof.Machine
end

