-- ==== Sys2Proof/Laws/KeepsStackIo.lean ====
section
/-! SUPPORT. What the operations of Machine/StackIo.lean keep: the queue, the member, the stepping and the invariant `Inv`. -/

namespace Sys2Proof.Machine

set_option maxRecDepth 4000


theorem keeps_stackFault {s₀ : State} {s : State} {cause : Nat} {d0 : Word} {d1 : Word} (k0 : Keeps s₀ s)  : Keeps s₀ (stackFault s cause d0 d1) := by
  unfold stackFault
  repeat' (first
    | (with_reducible exact k0) | (with_reducible apply keeps_enterScope) | (with_reducible apply keeps_ite))

theorem keeps_sendSafe {s₀ : State} {s : State} {scope : Nat} {cause : Nat} (k0 : Keeps s₀ s)  : Keeps s₀ (sendSafe s scope cause) := by
  unfold sendSafe
  repeat' (first
    | (with_reducible exact k0) | (with_reducible apply keeps_ringSend) | (with_reducible apply keeps_ringBroadcast)
    | (with_reducible apply keeps_ite))

theorem keeps_takeSafe {s₀ : State} {s : State} {scope : Nat} {cause : Nat} (k0 : Keeps s₀ s)  : Keeps s₀ (takeSafe s scope cause) := by
  unfold takeSafe
  repeat' (first
    | (with_reducible exact k0) | (with_reducible apply keeps_stackFault) | (with_reducible apply keeps_sendSafe)
    | (with_reducible apply keeps_ite))

theorem keeps_execSafe {s₀ : State} {h : FrameHdr} {scope : Nat} {cause : Nat} {s : State} (k0 : Keeps s₀ s) :
    ∃ t', execSafe h scope cause s = .next t' ∧ Keeps s₀ t' := by
  unfold execSafe
  refine ⟨_, rfl, ?_⟩
  repeat' (first
    | (with_reducible assumption) | intro _ | (with_reducible apply keeps_takeFrame) | (with_reducible apply keeps_takeSafe))

theorem keeps_stkOrder {s₀ : State} {s : State} {b : BlkHead} (k0 : Keeps s₀ s)  : Keeps s₀ (stkOrder s b) := by
  unfold stkOrder
  repeat' (first
    | (with_reducible exact k0) | (with_reducible apply keeps_stackFault) | (with_reducible apply keeps_sendSafe))

theorem keeps_remoteOp {s₀ : State} {s : State} {id : Identity} {op : Nat} (k0 : Keeps s₀ s)  : Keeps s₀ (remoteOp s id op) := by
  unfold remoteOp
  repeat' (first
    | (with_reducible exact k0) | (with_reducible apply keeps_ringRequest) | (with_reducible apply keeps_modRemote)
    | (with_reducible apply keeps_ite))

theorem keeps_remoteWrite {s₀ : State} {s : State} {id : Identity} {op : Nat} (k0 : Keeps s₀ s)  : Keeps s₀ (remoteWrite s id op) := by
  unfold remoteWrite
  repeat' (first
    | (with_reducible assumption) | intro _ | (with_reducible apply keeps_rsvdWrite) | (with_reducible apply keeps_csWrite)
    | (with_reducible apply keeps_remoteOp) | (with_reducible apply keeps_ite))

theorem keeps_execStkRemoteRead {s₀ : State} {id : Identity} {s : State} (k0 : Keeps s₀ s) :
    ∃ t', execStkRemoteRead id s = .next t' ∧ Keeps s₀ t' := by
  unfold execStkRemoteRead
  refine ⟨_, rfl, ?_⟩
  repeat' (first
    | (with_reducible exact k0) | (with_reducible apply keeps_remoteWrite))

theorem keeps_execStkRemoteWrite {s₀ : State} {id : Identity} {s : State} (k0 : Keeps s₀ s) :
    ∃ t', execStkRemoteWrite id s = .next t' ∧ Keeps s₀ t' := by
  unfold execStkRemoteWrite
  refine ⟨_, rfl, ?_⟩
  repeat' (first
    | (with_reducible exact k0) | (with_reducible apply keeps_remoteWrite))

theorem keeps_takeRegRsp {s₀ : State} {s : State} {tag : Nat} {status : Nat} {value : Word} (k0 : Keeps s₀ s)  : Keeps s₀ (takeRegRsp s tag status value) := by
  unfold takeRegRsp
  repeat' (first
    | (with_reducible exact k0) | (with_reducible apply keeps_dropRequest) | (with_reducible apply keeps_modRemote) | split)

theorem keeps_execRegRsp {s₀ : State} {h : FrameHdr} {status : Nat} {value : Word} {s : State} (k0 : Keeps s₀ s) :
    ∃ t', execRegRsp h status value s = .next t' ∧ Keeps s₀ t' := by
  unfold execRegRsp
  refine ⟨_, rfl, ?_⟩
  repeat' (first
    | (with_reducible assumption) | intro _ | (with_reducible apply keeps_takeFrame) | (with_reducible apply keeps_takeRegRsp))

theorem keeps_serveIo {s₀ : State} {s : State} {src : Nat} {tag : Nat} {plot : Nat} {req : IoRequest} (k0 : Keeps s₀ s)  : Keeps s₀ (serveIo s src tag plot req) := by
  unfold serveIo
  repeat' (first
    | (with_reducible assumption) | intro _ | (with_reducible apply keeps_answerVault) | (with_reducible apply keeps_replyScsi)
    | (with_reducible apply keeps_unlockPlot) | (with_reducible apply keeps_lockPlot) | (with_reducible apply keeps_demotePlot)
    | (with_reducible apply keeps_secretPlot) | (with_reducible apply keeps_scsiGate) | (with_reducible apply keeps_good)
    | (with_reducible apply keeps_transfer) | (with_reducible apply keeps_flushPlot) | (with_reducible apply keeps_syncCache)
    | (with_reducible apply keeps_unmapDecide) | (with_reducible apply keeps_sanitizePlot) | split)

theorem keeps_countCopy {s₀ : State} {s : State} (k0 : Keeps s₀ s)  : Keeps s₀ (countCopy s) := by
  unfold countCopy
  repeat' (first
    | (with_reducible exact k0) | (with_reducible apply keeps_modStk))

theorem keeps_takeIoReq {s₀ : State} {s : State} {src : Nat} {tag : Nat} {plot : Nat} {req : IoRequest} (k0 : Keeps s₀ s)  : Keeps s₀ (takeIoReq s src tag plot req) := by
  unfold takeIoReq
  repeat' (first
    | (with_reducible exact k0) | (with_reducible apply keeps_modStk) | (with_reducible apply keeps_ringSend)
    | (with_reducible apply keeps_serveIo) | (with_reducible apply keeps_countCopy) | split)

theorem keeps_execIoReq {s₀ : State} {h : FrameHdr} {p : Port} {plot : Nat} {req : IoRequest} {s : State} (k0 : Keeps s₀ s) :
    ∃ t', execIoReq h p plot req s = .next t' ∧ Keeps s₀ t' := by
  unfold execIoReq
  refine ⟨_, rfl, ?_⟩
  repeat' (first
    | (with_reducible assumption) | intro _ | (with_reducible apply keeps_takeFrame) | (with_reducible apply keeps_takeIoReq))

theorem keeps_vaultReply {s₀ : State} {s : State} {p : Port} {tag : Nat} {opcode : Nat} {status : Nat} {detail : Nat} {mode : Nat} {plot : Nat} (k0 : Keeps s₀ s)  : Keeps s₀ (vaultReply s p tag opcode status detail mode plot) := by
  unfold vaultReply
  repeat' (first
    | (with_reducible exact k0) | (with_reducible apply keeps_respond))

theorem keeps_takeIoRsp {s₀ : State} {s : State} {tag : Nat} {status : Nat} {senseKey : Nat} {asc : Nat} {ascq : Nat} {order : Nat} {info : Nat} (k0 : Keeps s₀ s)  : Keeps s₀ (takeIoRsp s tag status senseKey asc ascq order info) := by
  unfold takeIoRsp
  repeat' (first
    | (with_reducible exact k0) | (with_reducible apply keeps_settleTasks) | (with_reducible apply keeps_answerTask)
    | (with_reducible apply keeps_setTask) | (with_reducible apply keeps_dropRequest) | (with_reducible apply keeps_vaultReply)
    | dsimp only | split)

theorem keeps_execIoRsp {s₀ : State} {h : FrameHdr} {status : Nat} {senseKey : Nat} {asc : Nat} {ascq : Nat} {order : Nat} {info : Nat} {s : State} (k0 : Keeps s₀ s) :
    ∃ t', execIoRsp h status senseKey asc ascq order info s = .next t' ∧ Keeps s₀ t' := by
  unfold execIoRsp
  refine ⟨_, rfl, ?_⟩
  repeat' (first
    | (with_reducible assumption) | intro _ | (with_reducible apply keeps_takeFrame) | (with_reducible apply keeps_takeIoRsp))

theorem keeps_execBlkHead {s₀ : State} {h : FrameHdr} {b : BlkHead} {s : State} (k0 : Keeps s₀ s) :
    ∃ t', execBlkHead h b s = .next t' ∧ Keeps s₀ t' := by
  unfold execBlkHead
  refine ⟨_, rfl, ?_⟩
  repeat' (first
    | (with_reducible assumption) | intro _ | (with_reducible apply keeps_modStk) | (with_reducible apply keeps_takeFrame))

theorem keeps_blkAckSend {s₀ : State} {s : State} {h : FrameHdr} {result : Nat} (k0 : Keeps s₀ s)  : Keeps s₀ (blkAckSend s h result) := by
  unfold blkAckSend
  repeat' (first
    | (with_reducible exact k0) | (with_reducible apply keeps_ringSend))

theorem keeps_noteKey {s₀ : State} {s : State} {k : BlkKey} (k0 : Keeps s₀ s)  : Keeps s₀ (noteKey s k) := by
  unfold noteKey
  repeat' (first
    | (with_reducible exact k0) | (with_reducible apply keeps_modStk))

theorem keeps_acceptRemote {s₀ : State} {s : State} {h : FrameHdr} {b : BlkHead} {data : Block} (k0 : Keeps s₀ s)  : Keeps s₀ (acceptRemote s h b data) := by
  unfold acceptRemote
  repeat' (first
    | (with_reducible exact k0) | (with_reducible apply keeps_serveReads) | (with_reducible apply keeps_acceptBlock)
    | (with_reducible apply keeps_finishWrite) | (with_reducible apply keeps_stageVersion)
    | (with_reducible apply keeps_blkAckSend) | (with_reducible apply keeps_noteKey) | (with_reducible apply keeps_ite) | split)

theorem keeps_stageRemote {s₀ : State} {s : State} {h : FrameHdr} {b : BlkHead} {data : Block} (k0 : Keeps s₀ s)  : Keeps s₀ (stageRemote s h b data) := by
  unfold stageRemote
  repeat' (first
    | (with_reducible exact k0) | (with_reducible apply keeps_modStk) | (with_reducible apply keeps_writeStage)
    | (with_reducible apply keeps_blkAckSend) | (with_reducible apply keeps_noteKey) | dsimp only | split
    | (refine keeps_of_fst (by assumption) ?_))

theorem keeps_applyBlock {s₀ : State} {s : State} {h : FrameHdr} {b : BlkHead} {data : Block} (k0 : Keeps s₀ s)  : Keeps s₀ (applyBlock s h b data) := by
  unfold applyBlock
  repeat' (first
    | (with_reducible exact k0) | (with_reducible apply keeps_stkOrder) | (with_reducible apply keeps_countCopy)
    | (with_reducible apply keeps_blkAckSend) | (with_reducible apply keeps_acceptRemote)
    | (with_reducible apply keeps_stageRemote) | split)

theorem keeps_readFails {s₀ : State} {s : State} {t : Task} {lba : Nat} {check : Bool} (k0 : Keeps s₀ s)  : Keeps s₀ (readFails s t lba check) := by
  unfold readFails
  exact keeps_failBlock k0

theorem keeps_rebuildRemote {s₀ : State} {s : State} {t : Task} {lba : Nat} (k0 : Keeps s₀ s)  : Keeps s₀ (rebuildRemote s t lba) := by
  unfold rebuildRemote
  repeat' (first
    | (with_reducible exact k0) | (with_reducible apply keeps_onField) | (with_reducible apply keeps_askRebuilds)
    | (with_reducible apply keeps_serveReads) | (with_reducible apply keeps_readFails) | split)

theorem keeps_dispatchRead {s₀ : State} {s : State} {j : BlockJob} (k0 : Keeps s₀ s)  : Keeps s₀ (dispatchRead s j) := by
  unfold dispatchRead
  repeat' (first
    | (with_reducible exact k0) | (with_reducible apply keeps_setTask) | (with_reducible apply keeps_dispatchJob)
    | (with_reducible apply keeps_noCipher) | (with_reducible apply keeps_ite))

theorem keeps_memberPage {s₀ : State} {s : State} {f : Nat} {y : BlkId} {page : Nat} {ok : Bool} (k0 : Keeps s₀ s)  : Keeps s₀ (memberPage s f y page ok) := by
  unfold memberPage
  repeat' (first
    | (with_reducible exact k0) | (with_reducible apply keeps_modField) | (with_reducible apply keeps_onField)
    | (with_reducible apply keeps_pageArrived) | (with_reducible apply keeps_askRebuilds) | (with_reducible apply keeps_runField)
    | (with_reducible apply keeps_serveReads) | (with_reducible apply keeps_ite))

theorem keeps_readArrives {s₀ : State} {s : State} {h : FrameHdr} {b : BlkHead} {data : Block} (k0 : Keeps s₀ s)  : Keeps s₀ (readArrives s h b data) := by
  unfold readArrives
  repeat' (first
    | (with_reducible exact k0) | (with_reducible apply keeps_forwardBlock) | (with_reducible apply keeps_dropRequest)
    | (with_reducible apply keeps_readFails) | (with_reducible apply keeps_rebuildRemote)
    | (with_reducible apply keeps_dispatchRead) | (with_reducible apply keeps_memberPage) | dsimp only | split)

theorem keeps_takeBlkData {s₀ : State} {s : State} {h : FrameHdr} {data : Block} (k0 : Keeps s₀ s)  : Keeps s₀ (takeBlkData s h data) := by
  unfold takeBlkData
  repeat' (first
    | (with_reducible exact k0) | (with_reducible apply keeps_modStk) | (with_reducible apply keeps_applyBlock)
    | (with_reducible apply keeps_readArrives) | split)

theorem keeps_execBlkData {s₀ : State} {h : FrameHdr} {data : Block} {s : State} (k0 : Keeps s₀ s) :
    ∃ t', execBlkData h data s = .next t' ∧ Keeps s₀ t' := by
  unfold execBlkData
  refine ⟨_, rfl, ?_⟩
  repeat' (first
    | (with_reducible assumption) | intro _ | (with_reducible apply keeps_takeFrame) | (with_reducible apply keeps_takeBlkData))

theorem keeps_blockDone {s₀ : State} {s : State} {key : BlkKey} (k0 : Keeps s₀ s)  : Keeps s₀ (blockDone s key) := by
  unfold blockDone
  repeat' (first
    | (with_reducible exact k0) | (with_reducible apply keeps_settleTasks) | (with_reducible apply keeps_answerTask)
    | (with_reducible apply keeps_setTask) | (with_reducible apply keeps_ite) | split)

theorem keeps_takeBlkAck {s₀ : State} {s : State} {tag : Nat} {result : Nat} (k0 : Keeps s₀ s)  : Keeps s₀ (takeBlkAck s tag result) := by
  unfold takeBlkAck
  repeat' (first
    | (with_reducible assumption) | intro _ | (with_reducible apply keeps_modStk) | (with_reducible apply keeps_settleTasks)
    | (with_reducible apply keeps_answerTask) | (with_reducible apply keeps_runField) | (with_reducible apply keeps_dropRequest)
    | (with_reducible apply keeps_blockDone) | (with_reducible apply keeps_ite) | (with_reducible apply keeps_foldl) | split)

theorem keeps_execBlkAck {s₀ : State} {h : FrameHdr} {result : Nat} {s : State} (k0 : Keeps s₀ s) :
    ∃ t', execBlkAck h result s = .next t' ∧ Keeps s₀ t' := by
  unfold execBlkAck
  refine ⟨_, rfl, ?_⟩
  repeat' (first
    | (with_reducible assumption) | intro _ | (with_reducible apply keeps_takeFrame) | (with_reducible apply keeps_takeBlkAck))

theorem keeps_execBlkResend {s₀ : State} {tag : Nat} {s : State} (k0 : Keeps s₀ s) :
    ∃ t', execBlkResend tag s = .next t' ∧ Keeps s₀ t' := by
  unfold execBlkResend
  refine ⟨_, rfl, ?_⟩
  repeat' (first
    | (with_reducible exact k0) | (with_reducible apply keeps_sendOn) | split)

theorem keeps_memberFix {s₀ : State} {s : State} {f : Nat} {count : Nat} (k0 : Keeps s₀ s)  : Keeps s₀ (memberFix s f count) := by
  unfold memberFix
  repeat' (first
    | (with_reducible assumption) | intro _ | (with_reducible apply keeps_brecOut) | (with_reducible apply keeps_onField)
    | (with_reducible apply keeps_foldl) | dsimp only | split)

theorem keeps_takePageRel {s₀ : State} {s : State} {h : FrameHdr} {addr : Nat} {tagp : PageTag} {slots : List (Nat × Nat)} (k0 : Keeps s₀ s)  : Keeps s₀ (takePageRel s h addr tagp slots) := by
  unfold takePageRel
  repeat' (first
    | (with_reducible exact k0) | (with_reducible apply keeps_modStk) | (with_reducible apply keeps_ringSend)
    | (with_reducible apply keeps_queueOnce) | (with_reducible apply keeps_memberFix) | (with_reducible apply keeps_countCopy) | split)

theorem keeps_execPageRel {s₀ : State} {h : FrameHdr} {addr : Nat} {tagp : PageTag} {slots : List (Nat × Nat)} {s : State} (k0 : Keeps s₀ s) :
    ∃ t', execPageRel h addr tagp slots s = .next t' ∧ Keeps s₀ t' := by
  unfold execPageRel
  refine ⟨_, rfl, ?_⟩
  repeat' (first
    | (with_reducible assumption) | intro _ | (with_reducible apply keeps_takeFrame) | (with_reducible apply keeps_takePageRel)
    | (with_reducible apply keeps_ite))

theorem keeps_takePageDone {s₀ : State} {s : State} {addr : Nat} {fail : Bool} (k0 : Keeps s₀ s)  : Keeps s₀ (takePageDone s addr fail) := by
  unfold takePageDone
  repeat' (first
    | (with_reducible exact k0) | (with_reducible apply keeps_modStk) | (with_reducible apply keeps_onField)
    | (with_reducible apply keeps_updateHeadland) | (with_reducible apply keeps_runField) | (with_reducible apply keeps_touchPage)
    | (with_reducible apply keeps_ite) | split)

theorem keeps_execPageDone {s₀ : State} {h : FrameHdr} {addr : Nat} {fail : Bool} {s : State} (k0 : Keeps s₀ s) :
    ∃ t', execPageDone h addr fail s = .next t' ∧ Keeps s₀ t' := by
  unfold execPageDone
  refine ⟨_, rfl, ?_⟩
  repeat' (first
    | (with_reducible assumption) | intro _ | (with_reducible apply keeps_takeFrame) | (with_reducible apply keeps_takePageDone)
    | (with_reducible apply keeps_ite))

theorem keeps_execReadReq {s₀ : State} {h : FrameHdr} {addr : Nat} {nunit : Nat} {s : State} (k0 : Keeps s₀ s) :
    ∃ t', execReadReq h addr nunit s = .next t' ∧ Keeps s₀ t' := by
  unfold execReadReq
  refine ⟨_, rfl, ?_⟩
  repeat' (first
    | (with_reducible assumption) | intro _ | (with_reducible apply keeps_modStk) | (with_reducible apply keeps_serveReads)
    | (with_reducible apply keeps_takeFrame) | (with_reducible apply keeps_ite))

theorem keeps_presentRemote {s₀ : State} {s : State} {n : Nat} (k0 : Keeps s₀ s)  : Keeps s₀ (presentRemote s n) := by
  unfold presentRemote
  repeat' (first
    | (with_reducible assumption) | intro _ | (with_reducible apply keeps_wakeTrigger) | (with_reducible apply keeps_attachPlot)
    | (with_reducible apply keeps_stackEvent) | (with_reducible apply keeps_ite) | (with_reducible apply keeps_foldl))

theorem keeps_takeKey {s₀ : State} {s : State} {plot : Nat} {gen : Nat} {old : Bool} {wrap : List Byte} (k0 : Keeps s₀ s)  : Keeps s₀ (takeKey s plot gen old wrap) := by
  unfold takeKey
  repeat' (first
    | (with_reducible exact k0) | (with_reducible apply keeps_modStk) | (with_reducible apply keeps_drawBool)
    | (with_reducible apply keeps_presentRemote) | (with_reducible apply keeps_ite) | split)

theorem keeps_reqOrRsp {s₀ : State} {s : State} {h : FrameHdr} {ty : Nat} {answer : List Byte} {serve : State → State} (k0 : Keeps s₀ s) (hserve : ∀ x0, Keeps s₀ x0 → Keeps s₀ (serve x0)) : Keeps s₀ (reqOrRsp s h ty answer serve) := by
  unfold reqOrRsp
  repeat' (first
    | (with_reducible exact k0) | apply hserve | (with_reducible apply keeps_ringSend) | (with_reducible apply keeps_dropRequest)
    | (with_reducible apply keeps_ite))

theorem keeps_execKey {s₀ : State} {h : FrameHdr} {plot : Nat} {gen : Nat} {old : Bool} {wrap : List Byte} {s : State} (k0 : Keeps s₀ s) :
    ∃ t', execKey h plot gen old wrap s = .next t' ∧ Keeps s₀ t' := by
  unfold execKey
  refine ⟨_, rfl, ?_⟩
  repeat' (first
    | (with_reducible assumption) | intro _ | (with_reducible apply keeps_takeFrame) | (with_reducible apply keeps_takeKey)
    | (with_reducible apply keeps_reqOrRsp))

theorem keeps_clearRing {s₀ : State} {s : State} {plot : Nat} (k0 : Keeps s₀ s)  : Keeps s₀ (clearRing s plot) := by
  unfold clearRing
  repeat' (first
    | (with_reducible exact k0) | (with_reducible apply keeps_modStk) | (with_reducible apply keeps_detachPlot)
    | (with_reducible apply keeps_abortTasks) | (with_reducible apply keeps_settleTasks))

theorem keeps_execKeyclr {s₀ : State} {h : FrameHdr} {plot : Nat} {s : State} (k0 : Keeps s₀ s) :
    ∃ t', execKeyclr h plot s = .next t' ∧ Keeps s₀ t' := by
  unfold execKeyclr
  refine ⟨_, rfl, ?_⟩
  repeat' (first
    | (with_reducible assumption) | intro _ | (with_reducible apply keeps_takeFrame) | (with_reducible apply keeps_reqOrRsp)
    | (with_reducible apply keeps_clearRing))

theorem keeps_takeBrec {s₀ : State} {s : State} {recs : List (Nat × BlockRec)} (k0 : Keeps s₀ s)  : Keeps s₀ (takeBrec s recs) := by
  unfold takeBrec
  repeat' (first
    | (with_reducible assumption) | intro _ | (with_reducible apply keeps_modField) | (with_reducible apply keeps_modStk)
    | (with_reducible apply keeps_foldl) | dsimp only | split)

theorem keeps_execBrec {s₀ : State} {h : FrameHdr} {recs : List (Nat × BlockRec)} {s : State} (k0 : Keeps s₀ s) :
    ∃ t', execBrec h recs s = .next t' ∧ Keeps s₀ t' := by
  unfold execBrec
  refine ⟨_, rfl, ?_⟩
  repeat' (first
    | (with_reducible assumption) | intro _ | (with_reducible apply keeps_updateHeadland) | (with_reducible apply keeps_runField)
    | (with_reducible apply keeps_takeFrame) | (with_reducible apply keeps_takeBrec) | (with_reducible apply keeps_ite)
    | (with_reducible apply keeps_foldl))

theorem keeps_takeScan {s₀ : State} {s : State} {h : FrameHdr} {fixcount : Nat} (k0 : Keeps s₀ s)  : Keeps s₀ (takeScan s h fixcount) := by
  unfold takeScan
  repeat' (first
    | (with_reducible assumption) | intro _ | (with_reducible apply keeps_ringSend) | (with_reducible apply keeps_ite)
    | (with_reducible apply keeps_foldl))

theorem keeps_execScan {s₀ : State} {h : FrameHdr} {fixcount : Nat} {s : State} (k0 : Keeps s₀ s) :
    ∃ t', execScan h fixcount s = .next t' ∧ Keeps s₀ t' := by
  unfold execScan
  refine ⟨_, rfl, ?_⟩
  repeat' (first
    | (with_reducible assumption) | intro _ | (with_reducible apply keeps_takeFrame) | (with_reducible apply keeps_takeScan))

theorem keeps_execScanRsp {s₀ : State} {h : FrameHdr} {tags : List (Nat × PageTag)} {s : State} (k0 : Keeps s₀ s) :
    ∃ t', execScanRsp h tags s = .next t' ∧ Keeps s₀ t' := by
  unfold execScanRsp
  refine ⟨_, rfl, ?_⟩
  repeat' (first
    | (with_reducible assumption) | intro _ | (with_reducible apply keeps_modStk) | (with_reducible apply keeps_takeFrame)
    | (with_reducible apply keeps_dropRequest) | (with_reducible apply keeps_ite))

theorem keeps_takeEventFrame {s₀ : State} {s : State} {src : Nat} {ev : List Byte} (k0 : Keeps s₀ s)  : Keeps s₀ (takeEventFrame s src ev) := by
  unfold takeEventFrame
  repeat' (first
    | (with_reducible exact k0) | (with_reducible apply keeps_modStk) | (with_reducible apply keeps_queueEvents)
    | (with_reducible apply keeps_breakSegment) | (with_reducible apply keeps_mendSegment) | (with_reducible apply keeps_ite))

theorem keeps_execEventFrame {s₀ : State} {h : FrameHdr} {event : List Byte} {s : State} (k0 : Keeps s₀ s) :
    ∃ t', execEventFrame h event s = .next t' ∧ Keeps s₀ t' := by
  unfold execEventFrame
  refine ⟨_, rfl, ?_⟩
  repeat' (first
    | (with_reducible assumption) | intro _ | (with_reducible apply keeps_takeFrame) | (with_reducible apply keeps_takeEventFrame))

end Sys2Proof.Machine
end

