-- ==== Sys2Proof/Laws/KeepsStart.lean ====
section
/-! SUPPORT. What the operations of Machine/Start.lean keep: the queue, the member, the stepping and the invariant `Inv`. -/

namespace Sys2Proof.Machine

set_option maxRecDepth 4000


theorem keeps_reset {s₀ s : State} (k0 : Keeps s₀ s) (t : State) (h1 : t.pending = s.pending) (h2 : t.member = s.member)
    (h3 : t.stepping = s.stepping) (h4 : t.grn.mem = s.grn.mem) (h5 : t.bankMem = []) (h6 : t.sem.owner = List.replicate 128 idNone)
    (h7 : t.saf.log = [] ∨ t.saf.log = s.saf.log) : Keeps s₀ t := by
  refine ⟨h1.trans k0.pending, h2.trans k0.member, h3.trans k0.stepping, fun i => ?_⟩
  obtain ⟨a, b, c, d, e⟩ := k0.inv i
  refine ⟨h4 ▸ a, h5 ▸ rfl, h6 ▸ rfl, ?_, ?_⟩
  · intro o ho
    rw [h6] at ho
    exact Or.inl (List.eq_of_mem_replicate ho)
  · rcases h7 with h | h <;> rw [h]
    · exact Nat.zero_le _
    · exact e

theorem keeps_resetChip {s₀ : State} {s : State} {cause : Nat} {dip : Bool} (k0 : Keeps s₀ s) : Keeps s₀ (resetChip s cause dip) :=
  keeps_reset (keeps_grnCut k0) _ rfl rfl rfl rfl rfl rfl (Or.inl rfl)

theorem keeps_resetBy {s₀ : State} {s : State} {cause : Nat} (k0 : Keeps s₀ s)  : Keeps s₀ (resetBy s cause) := by
  unfold resetBy
  repeat' (first
    | (with_reducible exact k0) | (with_reducible apply keeps_resetChip) | (with_reducible apply keeps_ite))

theorem keeps_execPowerOn {s₀ : State} {s : State} (k0 : Keeps s₀ s) :
    ∃ t', execPowerOn s = .next t' ∧ Keeps s₀ t' := by
  unfold execPowerOn
  refine ⟨_, rfl, ?_⟩
  repeat' (first
    | (with_reducible exact k0) | (with_reducible apply keeps_modPwr) | (with_reducible apply keeps_resetChip)
    | (with_reducible apply keeps_mk (s := _) <;> first | rfl | skip))

theorem keeps_execRailDip {s₀ : State} {_rail : Rail} {s : State} (k0 : Keeps s₀ s) :
    ∃ t', execRailDip _rail s = .next t' ∧ Keeps s₀ t' := by
  unfold execRailDip
  refine ⟨_, rfl, ?_⟩
  repeat' (first
    | (with_reducible exact k0) | (with_reducible apply keeps_modPwr) | (with_reducible apply keeps_resetChip))

theorem keeps_execResetN {s₀ : State} {lowNs : Nat} {s : State} (k0 : Keeps s₀ s) :
    ∃ t', execResetN lowNs s = .next t' ∧ Keeps s₀ t' := by
  unfold execResetN
  refine ⟨_, rfl, ?_⟩
  repeat' (first
    | (with_reducible exact k0) | (with_reducible apply keeps_drawBool) | (with_reducible apply keeps_resetBy)
    | (with_reducible apply keeps_ite))

theorem keeps_pwrReset {s₀ : State} {s : State} {id : Identity} {key : Nat} (k0 : Keeps s₀ s)  : Keeps s₀ (pwrReset s id key) := by
  unfold pwrReset
  repeat' (first
    | (with_reducible exact k0) | (with_reducible apply keeps_resetBy) | (with_reducible apply keeps_ite))

theorem keeps_execPwrReset {s₀ : State} {id : Identity} {key : BitVec 16} {s : State} (k0 : Keeps s₀ s) :
    ∃ t', execPwrReset id key s = .next t' ∧ Keeps s₀ t' := by
  unfold execPwrReset
  refine ⟨_, rfl, ?_⟩
  repeat' (first
    | (with_reducible assumption) | intro _ | (with_reducible apply keeps_csWrite) | (with_reducible apply keeps_pwrReset))

theorem keeps_execOffWake {s₀ : State} {s : State} (k0 : Keeps s₀ s) :
    ∃ t', execOffWake s = .next t' ∧ Keeps s₀ t' := by
  unfold execOffWake
  refine ⟨_, rfl, ?_⟩
  repeat' (first
    | (with_reducible exact k0) | (with_reducible apply keeps_resetBy) | (with_reducible apply keeps_ite))

theorem keeps_useSeed {s₀ : State} {s : State} {w : Nat} {copy : Nat} (k0 : Keeps s₀ s)  : Keeps s₀ (useSeed s w copy) := by
  unfold useSeed
  repeat' (first
    | (with_reducible exact k0) | (intro q; with_reducible rfl) | (with_reducible apply keeps_modGrn)
    | (with_reducible apply keeps_drawBool) | (with_reducible apply keeps_drawBytes) | (with_reducible apply keeps_ite) | split)

theorem keeps_readSeed {s₀ : State} {s : State} {w : Nat} {m : SeedMargin} (k0 : Keeps s₀ s)  : Keeps s₀ (readSeed s w m) := by
  unfold readSeed
  repeat' (first
    | (with_reducible exact k0) | (intro q; with_reducible rfl) | (with_reducible apply keeps_modGrn)
    | (with_reducible apply keeps_logFault) | (with_reducible apply keeps_enterDevice) | (with_reducible apply keeps_useSeed)
    | split)

theorem keeps_readRows {s₀ : State} {s : State} {facts : StartFacts} (k0 : Keeps s₀ s)  : Keeps s₀ (readRows s facts).1 := by
  unfold readRows
  repeat' (first
    | (with_reducible assumption) | intro _ | (with_reducible apply keeps_modPwr) | (with_reducible apply keeps_modSec)
    | (with_reducible apply keeps_enterDevice) | (with_reducible apply keeps_noteSeed) | (with_reducible apply keeps_readSeed)
    | (with_reducible apply keeps_ite) | (with_reducible apply keeps_foldl))

theorem keeps_finishLowering {s₀ : State} {s : State} (k0 : Keeps s₀ s) : Keeps s₀ (finishLowering s) :=
  ⟨k0.pending, k0.member, k0.stepping, fun i => ⟨rfl, (k0.inv i).2⟩⟩

theorem keeps_mountPlot {s₀ : State} {s : State} {c : PlotCfg} (k0 : Keeps s₀ s)  : Keeps s₀ (mountPlot s c) := by
  unfold mountPlot
  repeat' (first
    | (with_reducible exact k0) | (with_reducible apply keeps_modPlot) | (with_reducible apply keeps_destroyOlder)
    | (with_reducible apply keeps_destroyRecord) | (with_reducible apply keeps_ite))

theorem keeps_noBanks {s₀ s : State} (k0 : Keeps s₀ s) (banks bad) : Keeps s₀ { s with banks := banks, bankMem := [], bankBad := bad } :=
  ⟨k0.pending, k0.member, k0.stepping, fun i => ⟨(k0.inv i).1, rfl, (k0.inv i).2.2⟩⟩

theorem keeps_applyLayout {s₀ : State} {s : State} {x : Slot} {l : Layout} {digest : List Byte} (k0 : Keeps s₀ s) :
    Keeps s₀ (applyLayout s x l digest) := by
  unfold applyLayout
  refine keeps_foldl (fun t c ht => keeps_ite (keeps_modChan ht _ _) ht) ?_
  refine keeps_foldl (fun t c ht => keeps_modField ht _ _) ?_
  refine keeps_foldl (fun t c ht => keeps_mountPlot ht) ?_
  refine keeps_takePowerFrame (keeps_modMpu (keeps_noBanks ?_ _ _) _)
  exact keeps_modSaf (keeps_modArb (keeps_modLay k0 _) _) fun _ => rfl

theorem keeps_discover {s₀ : State} {s : State} {failed : List Nat} (k0 : Keeps s₀ s)  : Keeps s₀ (discover s failed) := by
  unfold discover
  repeat' (first
    | (with_reducible assumption) | intro _ | (with_reducible apply keeps_drawNat) | (with_reducible apply keeps_recipeFence)
    | (with_reducible apply keeps_oweReset) | (with_reducible apply keeps_ite) | (with_reducible apply keeps_foldl))

theorem keeps_scanPage {s₀ : State} {s : State} {r : PageRec} (k0 : Keeps s₀ s)  : Keeps s₀ (scanPage s r).1 := by
  unfold scanPage
  repeat' (first
    | (with_reducible exact k0) | (with_reducible apply keeps_drawBool) | split)

theorem keeps_scanPages {s₀ : State} : ∀ (l : List PageRec) {s : State}, Keeps s₀ s → Keeps s₀ (scanPages l s).1
  | [], _, h => h
  | _ :: rs, _, h => keeps_scanPages rs (keeps_scanPage h)

theorem keeps_horizonScan {s₀ : State} {s : State} (k0 : Keeps s₀ s)  : Keeps s₀ (horizonScan s) := by
  unfold horizonScan
  repeat' (first
    | (with_reducible assumption) | intro _ | (with_reducible apply keeps_modField) | (with_reducible apply keeps_scanPages)
    | (with_reducible apply keeps_foldl))

theorem keeps_markFactory {s₀ : State} {s : State} {bad : List (Nat × Nat × Nat)} (k0 : Keeps s₀ s)  : Keeps s₀ (markFactory s bad) := by
  unfold markFactory
  repeat' (first
    | (with_reducible assumption) | intro _ | (with_reducible apply keeps_modField) | (with_reducible apply keeps_foldl) | split)

theorem keeps_resumeOrder {s₀ : State} {s : State} {h : Nat} (k0 : Keeps s₀ s)  : Keeps s₀ (resumeOrder s h) := by
  unfold resumeOrder
  repeat' (first
    | (with_reducible exact k0) | (with_reducible apply keeps_modArb)
    | (with_reducible apply keeps_mk (s := _) <;> first | rfl | skip))

theorem keeps_copyPersisted {s₀ : State} {s : State} (k0 : Keeps s₀ s) : Keeps s₀ (copyPersisted s) :=
  keeps_foldl (fun _ _ ht => keeps_addLog _ _ ht) k0

theorem keeps_resume {s₀ : State} {s : State} {facts : StartFacts} {cold : Bool} (k0 : Keeps s₀ s)  : Keeps s₀ (resume s facts cold) := by
  unfold resume
  repeat' (first
    | (with_reducible exact k0) | (intro q; with_reducible rfl) | (with_reducible apply keeps_modSaf)
    | (with_reducible apply keeps_modPwr) | (with_reducible apply keeps_modHold) | (with_reducible apply keeps_beginReplay)
    | (with_reducible apply keeps_startSweep) | (with_reducible apply keeps_horizonScan)
    | (with_reducible apply keeps_markFactory) | (with_reducible apply keeps_resumeOrder)
    | (with_reducible apply keeps_copyPersisted) | (with_reducible apply keeps_ite) | (with_reducible apply keeps_foldl)
    | (with_reducible apply keeps_mk (s := _) <;> first | rfl | skip))

theorem keeps_startEntropy {s₀ : State} {s : State} {ok : Bool} (k0 : Keeps s₀ s)  : Keeps s₀ (startEntropy s ok) := by
  unfold startEntropy
  repeat' (first
    | (with_reducible exact k0) | (with_reducible apply keeps_modSec) | (with_reducible apply keeps_enterDevice)
    | (with_reducible apply keeps_ite))

theorem keeps_lostStructs {s₀ : State} {s : State} {l : List (Nat × Nat)} (k0 : Keeps s₀ s)  : Keeps s₀ (lostStructs s l) := by
  unfold lostStructs
  repeat' (first
    | (with_reducible assumption) | intro _ | (with_reducible apply keeps_enterDevice) | (with_reducible apply keeps_foldl))

theorem keeps_startTamper {s₀ : State} {s : State} (k0 : Keeps s₀ s)  : Keeps s₀ (startTamper s) := by
  unfold startTamper
  repeat' (first
    | (with_reducible exact k0) | (with_reducible apply keeps_modSec) | (with_reducible apply keeps_enterDevice)
    | (with_reducible apply keeps_ite))

theorem keeps_attach {s₀ : State} {s : State} (k0 : Keeps s₀ s)  : Keeps s₀ (attach s) := by
  unfold attach
  repeat' (first
    | (with_reducible exact k0) | (with_reducible apply keeps_modLay) | (with_reducible apply keeps_modPwr)
    | (with_reducible apply keeps_offerConnect) | (with_reducible apply keeps_foldl))

theorem keeps_loadAndRun {s₀ : State} {s : State} {facts : StartFacts} {cold : Bool} (k0 : Keeps s₀ s)  : Keeps s₀ (loadAndRun s facts cold) := by
  unfold loadAndRun
  repeat' (first
    | (with_reducible exact k0) | (with_reducible apply keeps_modLay) | (with_reducible apply keeps_noteVerdict)
    | (with_reducible apply keeps_recordActivation) | (with_reducible apply keeps_takePosition)
    | (with_reducible apply keeps_startStack) | (with_reducible apply keeps_finishLowering)
    | (with_reducible apply keeps_applyLayout) | (with_reducible apply keeps_discover) | (with_reducible apply keeps_resume)
    | (with_reducible apply keeps_startEntropy) | (with_reducible apply keeps_lostStructs)
    | (with_reducible apply keeps_startTamper) | dsimp only | split)

theorem keeps_startUp {s₀ : State} {s : State} {facts : StartFacts} (k0 : Keeps s₀ s)  : Keeps s₀ (startUp s facts) := by
  unfold startUp
  repeat' (first
    | (with_reducible exact k0) | (with_reducible apply keeps_modPwr) | (with_reducible apply keeps_readRows)
    | (with_reducible apply keeps_finishLowering) | (with_reducible apply keeps_startTamper) | (with_reducible apply keeps_attach)
    | (with_reducible apply keeps_loadAndRun) | (with_reducible apply keeps_ite)
    | (with_reducible apply keeps_mk (s := _) <;> first | rfl | skip))

theorem keeps_execReferenceDetected {s₀ : State} {facts : StartFacts} {s : State} (k0 : Keeps s₀ s) :
    ∃ t', execReferenceDetected facts s = .next t' ∧ Keeps s₀ t' := by
  unfold execReferenceDetected
  refine ⟨_, rfl, ?_⟩
  repeat' (first
    | (with_reducible exact k0) | (with_reducible apply keeps_startUp) | (with_reducible apply keeps_ite))

theorem keeps_powerEvent {s₀ : State} {s : State} (k0 : Keeps s₀ s)  : Keeps s₀ (powerEvent s) := by
  unfold powerEvent
  repeat' (first
    | (with_reducible exact k0) | (with_reducible apply keeps_queueEvents) | (with_reducible apply keeps_ringSend)
    | (with_reducible apply keeps_ite))

theorem keeps_setPower {s₀ : State} {s : State} {st : PowerState} {bySuspend : Bool} (k0 : Keeps s₀ s)  : Keeps s₀ (setPower s st bySuspend) := by
  unfold setPower
  repeat' (first
    | (with_reducible exact k0) | (with_reducible apply keeps_modPwr) | (with_reducible apply keeps_powerEvent)
    | (with_reducible apply keeps_ite))

theorem keeps_wakeIslands {s₀ : State} {s : State} (k0 : Keeps s₀ s)  : Keeps s₀ (wakeIslands s) := by
  unfold wakeIslands
  repeat' (first
    | (with_reducible assumption) | intro _ | (with_reducible apply keeps_modChan) | (with_reducible apply keeps_runFields)
    | (with_reducible apply keeps_startSweep) | (with_reducible apply keeps_ite) | (with_reducible apply keeps_foldl))

theorem keeps_enterRunning {s₀ : State} {s : State} {st : PowerState} {bySuspend : Bool} (k0 : Keeps s₀ s)  : Keeps s₀ (enterRunning s st bySuspend) := by
  unfold enterRunning
  repeat' (first
    | (with_reducible exact k0) | (with_reducible apply keeps_modPwr) | (with_reducible apply keeps_setPower)
    | (with_reducible apply keeps_wakeIslands) | (with_reducible apply keeps_ite))

theorem keeps_beginXfer {s₀ : State} {s : State} {target : PowerState} {bySuspend : Bool} (k0 : Keeps s₀ s)  : Keeps s₀ (beginXfer s target bySuspend) := by
  unfold beginXfer
  repeat' (first
    | (with_reducible exact k0) | (with_reducible apply keeps_modPwr) | (with_reducible apply keeps_developAll)
    | (with_reducible apply keeps_ite))

theorem keeps_takeTarget {s₀ : State} {s : State} {target : PowerState} {bySuspend : Bool} (k0 : Keeps s₀ s)  : Keeps s₀ (takeTarget s target bySuspend) := by
  unfold takeTarget
  repeat' (first
    | (with_reducible exact k0) | (with_reducible apply keeps_modPwr) | (with_reducible apply keeps_enterRunning)
    | (with_reducible apply keeps_beginXfer) | split)

theorem keeps_powerCommand {s₀ : State} {s : State} {id : Identity} {cmd : Nat} (k0 : Keeps s₀ s)  : Keeps s₀ (powerCommand s id cmd) := by
  unfold powerCommand
  repeat' (first
    | (with_reducible exact k0) | (with_reducible apply keeps_modPwr) | (with_reducible apply keeps_takePowerFrame)
    | (with_reducible apply keeps_takeTarget) | (with_reducible apply keeps_ite))

theorem keeps_powerWrite {s₀ : State} {s : State} {id : Identity} {cmd : Nat} (k0 : Keeps s₀ s)  : Keeps s₀ (powerWrite s id cmd) := by
  unfold powerWrite
  repeat' (first
    | (with_reducible assumption) | intro _ | (with_reducible apply keeps_csWrite) | (with_reducible apply keeps_powerCommand))

theorem keeps_execPwrLit {s₀ : State} {id : Identity} {s : State} (k0 : Keeps s₀ s) :
    ∃ t', execPwrLit id s = .next t' ∧ Keeps s₀ t' := by
  unfold execPwrLit
  refine ⟨_, rfl, ?_⟩
  repeat' (first
    | (with_reducible exact k0) | (with_reducible apply keeps_powerWrite))

theorem keeps_execPwrDim {s₀ : State} {id : Identity} {s : State} (k0 : Keeps s₀ s) :
    ∃ t', execPwrDim id s = .next t' ∧ Keeps s₀ t' := by
  unfold execPwrDim
  refine ⟨_, rfl, ?_⟩
  repeat' (first
    | (with_reducible exact k0) | (with_reducible apply keeps_powerWrite))

theorem keeps_execPwrDark {s₀ : State} {id : Identity} {s : State} (k0 : Keeps s₀ s) :
    ∃ t', execPwrDark id s = .next t' ∧ Keeps s₀ t' := by
  unfold execPwrDark
  refine ⟨_, rfl, ?_⟩
  repeat' (first
    | (with_reducible exact k0) | (with_reducible apply keeps_powerWrite))

theorem keeps_execPwrOff {s₀ : State} {id : Identity} {s : State} (k0 : Keeps s₀ s) :
    ∃ t', execPwrOff id s = .next t' ∧ Keeps s₀ t' := by
  unfold execPwrOff
  refine ⟨_, rfl, ?_⟩
  repeat' (first
    | (with_reducible exact k0) | (with_reducible apply keeps_powerWrite))

theorem keeps_setTarget {s₀ : State} {s : State} {id : Identity} {target : Nat} (k0 : Keeps s₀ s)  : Keeps s₀ (setTarget s id target) := by
  unfold setTarget
  repeat' (first
    | (with_reducible exact k0) | (with_reducible apply keeps_modPwr) | (with_reducible apply keeps_ite))

theorem keeps_execSetTarget {s₀ : State} {id : Identity} {target : Nat} {s : State} (k0 : Keeps s₀ s) :
    ∃ t', execSetTarget id target s = .next t' ∧ Keeps s₀ t' := by
  unfold execSetTarget
  refine ⟨_, rfl, ?_⟩
  repeat' (first
    | (with_reducible assumption) | intro _ | (with_reducible apply keeps_csWrite) | (with_reducible apply keeps_setTarget))

theorem keeps_stopIslands {s₀ : State} {s : State} (k0 : Keeps s₀ s)  : Keeps s₀ (stopIslands s) := by
  unfold stopIslands
  repeat' (first
    | (with_reducible exact k0) | (with_reducible apply keeps_stopSweep)
    | (with_reducible apply keeps_mk (s := _) <;> first | rfl | skip))

theorem keeps_idleLinks {s₀ : State} {s : State} (k0 : Keeps s₀ s)  : Keeps s₀ (idleLinks s) := by
  unfold idleLinks
  repeat' (first
    | (with_reducible exact k0) | (with_reducible apply keeps_modStk))

theorem keeps_enterDark {s₀ : State} {s : State} {x : PowerXfer} (k0 : Keeps s₀ s)  : Keeps s₀ (enterDark s x) := by
  unfold enterDark
  repeat' (first
    | (with_reducible exact k0) | (with_reducible apply keeps_modPwr) | (with_reducible apply keeps_dropLinks)
    | (with_reducible apply keeps_setPower) | (with_reducible apply keeps_stopIslands) | (with_reducible apply keeps_ite))

theorem keeps_clearLog {s₀ s : State} (k0 : Keeps s₀ s) (safe : Bool) :
    Keeps s₀ (s.modSaf fun q => { q with safeNHeld := safe, log := [], logHead := 0 }) :=
  ⟨k0.pending, k0.member, k0.stepping, fun i => by
    obtain ⟨a, b, c, d, _⟩ := k0.inv i
    exact ⟨a, b, c, d, Nat.zero_le _⟩⟩

theorem keeps_enterOff {s₀ : State} {s : State} (k0 : Keeps s₀ s) : Keeps s₀ (enterOff s) := by
  unfold enterOff
  refine keeps_modPwr (keeps_modHold (keeps_clearLog (keeps_idleLinks (keeps_stopIslands (keeps_grnCut (keeps_dropRemote ?_)))) _) _) _
  refine keeps_foldl (fun t p ht => keeps_detachPort ht) ?_
  refine keeps_foldl (fun t n ht => keeps_ite (keeps_closePlot ht) ht) ?_
  exact keeps_ite (keeps_ringBroadcast k0) k0

theorem keeps_coldRestart {s₀ : State} {s : State} {facts : StartFacts} (k0 : Keeps s₀ s) : Keeps s₀ (coldRestart s facts) := by
  have k : Keeps s₀ (applyDeferred (s.modSaf fun q => { q with recPending := none, deferred := [] }) s.saf.deferred) :=
    keeps_applyDeferred (keeps_modSaf k0 fun _ => rfl)
  unfold coldRestart
  generalize applyDeferred _ _ = u at k
  exact keeps_attach (keeps_loadAndRun (keeps_reset (keeps_foldl (fun _ _ ht => keeps_detachPort ht) k) _ rfl rfl rfl rfl rfl rfl (Or.inr rfl)))

theorem keeps_execDevelopmentComplete {s₀ : State} {facts : StartFacts} {s : State} (k0 : Keeps s₀ s) :
    ∃ t', execDevelopmentComplete facts s = .next t' ∧ Keeps s₀ t' := by
  unfold execDevelopmentComplete
  refine ⟨_, rfl, ?_⟩
  repeat' (first
    | (with_reducible exact k0) | (with_reducible apply keeps_enterDark) | (with_reducible apply keeps_enterOff)
    | (with_reducible apply keeps_coldRestart) | split)

theorem keeps_secResult {s₀ : State} {s : State} {r : Nat} (k0 : Keeps s₀ s)  : Keeps s₀ (secResult s r) := by
  unfold secResult
  repeat' (first
    | (with_reducible exact k0) | (with_reducible apply keeps_modSec))

theorem keeps_applyLevel {s₀ : State} {s : State} {level : Nat} (k0 : Keeps s₀ s)  : Keeps s₀ (applyLevel s level) := by
  unfold applyLevel
  repeat' (first
    | (with_reducible exact k0) | (with_reducible apply keeps_modSec) | (with_reducible apply keeps_modJtag)
    | (with_reducible apply keeps_ite))

theorem keeps_beginLowering {s₀ : State} {s : State} {id : Identity} (k0 : Keeps s₀ s)  : Keeps s₀ (beginLowering s id) := by
  unfold beginLowering
  repeat' (first
    | (with_reducible assumption) | intro _ | (with_reducible apply keeps_modSec) | (with_reducible apply keeps_structWrite)
    | (with_reducible apply keeps_destroyRecord) | (with_reducible apply keeps_erasePlot) | (with_reducible apply keeps_ite)
    | (with_reducible apply keeps_foldl))

theorem keeps_secRdp {s₀ : State} {s : State} {id : Identity} {target : Nat} {key : Nat} (k0 : Keeps s₀ s)  : Keeps s₀ (secRdp s id target key) := by
  unfold secRdp
  repeat' (first
    | (with_reducible exact k0) | (with_reducible apply keeps_drawBytes) | (with_reducible apply keeps_structWrite)
    | (with_reducible apply keeps_putSeed) | (with_reducible apply keeps_secResult) | (with_reducible apply keeps_applyLevel)
    | (with_reducible apply keeps_beginLowering) | (with_reducible apply keeps_ite))

theorem keeps_rdpWrite {s₀ : State} {s : State} {id : Identity} {target : Nat} {key : Nat} (k0 : Keeps s₀ s)  : Keeps s₀ (rdpWrite s id target key) := by
  unfold rdpWrite
  repeat' (first
    | (with_reducible assumption) | intro _ | (with_reducible apply keeps_csWrite) | (with_reducible apply keeps_secRdp))

theorem keeps_execRdpLevel1 {s₀ : State} {id : Identity} {key : BitVec 16} {s : State} (k0 : Keeps s₀ s) :
    ∃ t', execRdpLevel1 id key s = .next t' ∧ Keeps s₀ t' := by
  unfold execRdpLevel1
  refine ⟨_, rfl, ?_⟩
  repeat' (first
    | (with_reducible exact k0) | (with_reducible apply keeps_rdpWrite))

theorem keeps_execRdpLevel2 {s₀ : State} {id : Identity} {key : BitVec 16} {s : State} (k0 : Keeps s₀ s) :
    ∃ t', execRdpLevel2 id key s = .next t' ∧ Keeps s₀ t' := by
  unfold execRdpLevel2
  refine ⟨_, rfl, ?_⟩
  repeat' (first
    | (with_reducible exact k0) | (with_reducible apply keeps_rdpWrite))

theorem keeps_execRdpLower {s₀ : State} {id : Identity} {key : BitVec 16} {s : State} (k0 : Keeps s₀ s) :
    ∃ t', execRdpLower id key s = .next t' ∧ Keeps s₀ t' := by
  unfold execRdpLower
  refine ⟨_, rfl, ?_⟩
  repeat' (first
    | (with_reducible exact k0) | (with_reducible apply keeps_rdpWrite))

theorem keeps_execLoweringComplete {s₀ : State} {s : State} (k0 : Keeps s₀ s) :
    ∃ t', execLoweringComplete s = .next t' ∧ Keeps s₀ t' := by
  unfold execLoweringComplete
  refine ⟨_, rfl, ?_⟩
  repeat' (first
    | (with_reducible exact k0) | (with_reducible apply keeps_resetBy) | (with_reducible apply keeps_finishLowering)
    | (with_reducible apply keeps_ite))

theorem keeps_genRoot {s₀ : State} {s : State} (k0 : Keeps s₀ s)  : Keeps s₀ (genRoot s) := by
  unfold genRoot
  repeat' (first
    | (with_reducible exact k0) | (with_reducible apply keeps_modSec) | (with_reducible apply keeps_drawBytes)
    | (with_reducible apply keeps_putSeed) | (with_reducible apply keeps_secResult))

theorem keeps_drbgWork {s₀ : State} {s : State} (k0 : Keeps s₀ s)  : Keeps s₀ (drbgWork s) := by
  unfold drbgWork
  repeat' (first
    | (with_reducible assumption) | intro _ | (with_reducible apply keeps_modSec) | (with_reducible apply keeps_runChecks)
    | (with_reducible apply keeps_secResult) | (with_reducible apply keeps_genRoot) | (with_reducible apply keeps_foldl) | split)

theorem keeps_secProv {s₀ : State} {s : State} {id : Identity} (k0 : Keeps s₀ s)  : Keeps s₀ (secProv s id) := by
  unfold secProv
  repeat' (first
    | (with_reducible exact k0) | (with_reducible apply keeps_modSec) | (with_reducible apply keeps_secResult)
    | (with_reducible apply keeps_genRoot) | (with_reducible apply keeps_ite))

theorem keeps_execRootGen {s₀ : State} {id : Identity} {s : State} (k0 : Keeps s₀ s) :
    ∃ t', execRootGen id s = .next t' ∧ Keeps s₀ t' := by
  unfold execRootGen
  refine ⟨_, rfl, ?_⟩
  repeat' (first
    | (with_reducible assumption) | intro _ | (with_reducible apply keeps_csWrite) | (with_reducible apply keeps_secProv))

end Sys2Proof.Machine
end

