-- ==== Sys2Proof/Laws/KeepsUsb.lean ====
section
/-! SUPPORT. What the operations of Machine/Usb.lean keep: the queue, the member, the stepping and the invariant `Inv`. -/

namespace Sys2Proof.Machine

set_option maxRecDepth 4000


theorem keeps_execBulkOutPacket {s₀ : State} {p : Port} {k : Nat} {ep : Nat} {s : State} (k0 : Keeps s₀ s) :
    ∃ t', execBulkOutPacket p k ep s = .next t' ∧ Keeps s₀ t' := by
  unfold execBulkOutPacket
  refine ⟨_, rfl, ?_⟩
  repeat' (first
    | (with_reducible exact k0) | (with_reducible apply keeps_modEp) | (with_reducible apply keeps_answerWire) | split)

theorem keeps_execPing {s₀ : State} {p : Port} {k : Nat} {ep : Nat} {s : State} (k0 : Keeps s₀ s) :
    ∃ t', execPing p k ep s = .next t' ∧ Keeps s₀ t' := by
  unfold execPing
  refine ⟨_, rfl, ?_⟩
  repeat' (first
    | (with_reducible exact k0) | (with_reducible apply keeps_answerWire) | split)

theorem keeps_execSsBulkTransaction {s₀ : State} {p : Port} {k : Nat} {ep : Nat} {isIn : Bool} {s : State} (k0 : Keeps s₀ s) :
    ∃ t', execSsBulkTransaction p k ep isIn s = .next t' ∧ Keeps s₀ t' := by
  unfold execSsBulkTransaction
  refine ⟨_, rfl, ?_⟩
  repeat' (first
    | (with_reducible exact k0) | (with_reducible apply keeps_modEp) | (with_reducible apply keeps_answerWire) | split)

theorem keeps_drainPort {s₀ : State} {s : State} {p : Port} (k0 : Keeps s₀ s)  : Keeps s₀ (drainPort s p) := by
  unfold drainPort
  repeat' (first
    | (with_reducible exact k0) | (with_reducible apply keeps_modPort))

theorem keeps_idleTick {s₀ : State} {s : State} (k0 : Keeps s₀ s)  : Keeps s₀ (idleTick s) := by
  unfold idleTick
  repeat' (first
    | (with_reducible exact k0) | (with_reducible apply keeps_serveReads) | (with_reducible apply keeps_arbiterTick)
    | (with_reducible apply keeps_drbgWork) | (with_reducible apply keeps_drainPort) | (with_reducible apply keeps_ite)
    | (with_reducible apply keeps_foldl) | (with_reducible apply keeps_mk (s := _) <;> first | rfl | skip))

theorem keeps_execVbusDetect {s₀ : State} {p : Port} {flip : Bool} {s : State} (k0 : Keeps s₀ s) :
    ∃ t', execVbusDetect p flip s = .next t' ∧ Keeps s₀ t' := by
  unfold execVbusDetect
  refine ⟨_, rfl, ?_⟩
  repeat' (first
    | (with_reducible exact k0) | (with_reducible apply keeps_modPort) | (with_reducible apply keeps_offerConnect)
    | (with_reducible apply keeps_ite))

theorem keeps_execVbusLoss {s₀ : State} {p : Port} {s : State} (k0 : Keeps s₀ s) :
    ∃ t', execVbusLoss p s = .next t' ∧ Keeps s₀ t' := by
  unfold execVbusLoss
  refine ⟨_, rfl, ?_⟩
  repeat' (first
    | (with_reducible exact k0) | (with_reducible apply keeps_modPort) | (with_reducible apply keeps_detachPort)
    | (with_reducible apply keeps_serveReads) | (with_reducible apply keeps_ite))

theorem keeps_execSsTrainingDone {s₀ : State} {p : Port} {partner : UsbSpeed} {lanes : Nat} {s : State} (k0 : Keeps s₀ s) :
    ∃ t', execSsTrainingDone p partner lanes s = .next t' ∧ Keeps s₀ t' := by
  unfold execSsTrainingDone
  refine ⟨_, rfl, ?_⟩
  repeat' (first
    | (with_reducible exact k0) | (with_reducible apply keeps_modPort) | (with_reducible apply keeps_ite))

theorem keeps_execSsTrainingTimeout {s₀ : State} {p : Port} {s : State} (k0 : Keeps s₀ s) :
    ∃ t', execSsTrainingTimeout p s = .next t' ∧ Keeps s₀ t' := by
  unfold execSsTrainingTimeout
  refine ⟨_, rfl, ?_⟩
  repeat' (first
    | (with_reducible exact k0) | (with_reducible apply keeps_modPort) | (with_reducible apply keeps_ite))

theorem keeps_execUsb2BusReset {s₀ : State} {p : Port} {hostChirps : Bool} {s : State} (k0 : Keeps s₀ s) :
    ∃ t', execUsb2BusReset p hostChirps s = .next t' ∧ Keeps s₀ t' := by
  unfold execUsb2BusReset
  refine ⟨_, rfl, ?_⟩
  repeat' (first
    | (with_reducible exact k0) | (with_reducible apply keeps_modPort) | (with_reducible apply keeps_ite))

theorem keeps_enterTarget {s₀ : State} {s : State} (k0 : Keeps s₀ s)  : Keeps s₀ (enterTarget s) := by
  unfold enterTarget
  repeat' (first
    | (with_reducible exact k0) | (with_reducible apply keeps_modPwr) | (with_reducible apply keeps_takePowerFrame)
    | (with_reducible apply keeps_takeTarget) | (with_reducible apply keeps_ite))

theorem keeps_execUsbSuspend {s₀ : State} {p : Port} {s : State} (k0 : Keeps s₀ s) :
    ∃ t', execUsbSuspend p s = .next t' ∧ Keeps s₀ t' := by
  unfold execUsbSuspend
  refine ⟨_, rfl, ?_⟩
  repeat' (first
    | (with_reducible exact k0) | (with_reducible apply keeps_modPort) | (with_reducible apply keeps_enterTarget)
    | (with_reducible apply keeps_ite))

theorem keeps_leaveTarget {s₀ : State} {s : State} (k0 : Keeps s₀ s)  : Keeps s₀ (leaveTarget s) := by
  unfold leaveTarget
  repeat' (first
    | (with_reducible exact k0) | (with_reducible apply keeps_modPwr) | (with_reducible apply keeps_enterRunning)
    | (with_reducible apply keeps_beginXfer) | split)

theorem keeps_execUsbResume {s₀ : State} {p : Port} {s : State} (k0 : Keeps s₀ s) :
    ∃ t', execUsbResume p s = .next t' ∧ Keeps s₀ t' := by
  unfold execUsbResume
  refine ⟨_, rfl, ?_⟩
  repeat' (first
    | (with_reducible exact k0) | (with_reducible apply keeps_modPort) | (with_reducible apply keeps_leaveTarget)
    | (with_reducible apply keeps_ite))

theorem keeps_execUpstreamReset {s₀ : State} {p : Port} {_kind : UpReset} {s : State} (k0 : Keeps s₀ s) :
    ∃ t', execUpstreamReset p _kind s = .next t' ∧ Keeps s₀ t' := by
  unfold execUpstreamReset
  refine ⟨_, rfl, ?_⟩
  repeat' (first
    | (with_reducible exact k0) | (with_reducible apply keeps_releaseSems) | (with_reducible apply keeps_resetPort)
    | (with_reducible apply keeps_serveReads) | (with_reducible apply keeps_leaveTarget) | (with_reducible apply keeps_ite))

theorem keeps_execRemoteWakeRepeat {s₀ : State} {p : Port} {s : State} (k0 : Keeps s₀ s) :
    ∃ t', execRemoteWakeRepeat p s = .next t' ∧ Keeps s₀ t' := by
  unfold execRemoteWakeRepeat
  refine ⟨_, rfl, ?_⟩
  repeat' (first
    | (with_reducible exact k0) | (with_reducible apply keeps_modPort) | (with_reducible apply keeps_ite))

theorem keeps_execSofReceived {s₀ : State} {p : Port} {number : Nat} {s : State} (k0 : Keeps s₀ s) :
    ∃ t', execSofReceived p number s = .next t' ∧ Keeps s₀ t' := by
  unfold execSofReceived
  refine ⟨_, rfl, ?_⟩
  repeat' (first
    | (with_reducible exact k0) | (intro q; with_reducible rfl) | (with_reducible apply keeps_modPort)
    | (with_reducible apply keeps_modSaf) | (with_reducible apply keeps_ite))

theorem keeps_execSofTimeout {s₀ : State} {p : Port} {s : State} (k0 : Keeps s₀ s) :
    ∃ t', execSofTimeout p s = .next t' ∧ Keeps s₀ t' := by
  unfold execSofTimeout
  refine ⟨_, rfl, ?_⟩
  repeat' (first
    | (with_reducible exact k0) | (with_reducible apply keeps_modPort))

theorem keeps_linkEntry {s₀ : State} {s : State} {p : Port} {accept : Bool} {state : Nat} {yes : WireAnswer} {no : WireAnswer} (k0 : Keeps s₀ s)  : Keeps s₀ (linkEntry s p accept state yes no) := by
  unfold linkEntry
  repeat' (first
    | (with_reducible exact k0) | (with_reducible apply keeps_modPort))

theorem keeps_execU1U2Entry {s₀ : State} {p : Port} {u2 : Bool} {s : State} (k0 : Keeps s₀ s) :
    ∃ t', execU1U2Entry p u2 s = .next t' ∧ Keeps s₀ t' := by
  unfold execU1U2Entry
  refine ⟨_, rfl, ?_⟩
  repeat' (first
    | (with_reducible exact k0) | (with_reducible apply keeps_linkEntry) | (with_reducible apply keeps_ite))

theorem keeps_execLpmToken {s₀ : State} {p : Port} {s : State} (k0 : Keeps s₀ s) :
    ∃ t', execLpmToken p s = .next t' ∧ Keeps s₀ t' := by
  unfold execLpmToken
  refine ⟨_, rfl, ?_⟩
  repeat' (first
    | (with_reducible exact k0) | (with_reducible apply keeps_linkEntry) | (with_reducible apply keeps_ite))

theorem keeps_onEndpoint {s₀ : State} {s : State} {p : Port} {k : Nat} {ep : Nat} {f : EpState → EpState} (k0 : Keeps s₀ s)  : Keeps s₀ (onEndpoint s p k ep f) := by
  unfold onEndpoint
  repeat' (first
    | (with_reducible exact k0) | (with_reducible apply keeps_modEp) | (with_reducible apply keeps_answerWire)
    | (with_reducible apply keeps_answerControl) | (with_reducible apply keeps_ite))

theorem keeps_execSetFeatureDevice {s₀ : State} {p : Port} {f : DeviceFeature} {on : Bool} {s : State} (k0 : Keeps s₀ s) :
    ∃ t', execSetFeatureDevice p f on s = .next t' ∧ Keeps s₀ t' := by
  unfold execSetFeatureDevice
  refine ⟨_, rfl, ?_⟩
  repeat' (first
    | (with_reducible exact k0) | (with_reducible apply keeps_modPort) | (with_reducible apply keeps_answerWire)
    | (with_reducible apply keeps_answerControl) | (with_reducible apply keeps_onEndpoint) | (with_reducible apply keeps_ite)
    | split)

theorem keeps_execUnsupportedRequest {s₀ : State} {p : Port} {_k : Nat} {s : State} (k0 : Keeps s₀ s) :
    ∃ t', execUnsupportedRequest p _k s = .next t' ∧ Keeps s₀ t' := by
  unfold execUnsupportedRequest
  refine ⟨_, rfl, ?_⟩
  repeat' (first
    | (with_reducible exact k0) | (with_reducible apply keeps_answerWire) | (with_reducible apply keeps_ite))

theorem keeps_connectFn {s₀ : State} {s : State} {p : Port} {k : Nat} (k0 : Keeps s₀ s)  : Keeps s₀ (connectFn s p k) := by
  unfold connectFn
  repeat' (first
    | (with_reducible exact k0) | (with_reducible apply keeps_modEmb) | (with_reducible apply keeps_connectEmb)
    | (with_reducible apply keeps_ite) | split)

theorem keeps_configureHub {s₀ : State} {s : State} {p : Port} (k0 : Keeps s₀ s)  : Keeps s₀ (configureHub s p) := by
  unfold configureHub
  repeat' (first
    | (with_reducible assumption) | intro _ | (with_reducible apply keeps_modPort) | (with_reducible apply keeps_modPfn)
    | (with_reducible apply keeps_selectEps) | (with_reducible apply keeps_answerControl) | (with_reducible apply keeps_connectFn)
    | (with_reducible apply keeps_foldl))

theorem keeps_execSetConfiguration {s₀ : State} {p : Port} {k : Nat} {value : Nat} {s : State} (k0 : Keeps s₀ s) :
    ∃ t', execSetConfiguration p k value s = .next t' ∧ Keeps s₀ t' := by
  unfold execSetConfiguration
  refine ⟨_, rfl, ?_⟩
  repeat' (first
    | (with_reducible exact k0) | (with_reducible apply keeps_modPort) | (with_reducible apply keeps_modEmb)
    | (with_reducible apply keeps_resetPort) | (with_reducible apply keeps_answerWire) | (with_reducible apply keeps_selectEps)
    | (with_reducible apply keeps_answerControl) | (with_reducible apply keeps_serveReads)
    | (with_reducible apply keeps_configureHub) | (with_reducible apply keeps_ite))

theorem keeps_execSetInterface {s₀ : State} {p : Port} {k : Nat} {alt : Nat} {s : State} (k0 : Keeps s₀ s) :
    ∃ t', execSetInterface p k alt s = .next t' ∧ Keeps s₀ t' := by
  unfold execSetInterface
  refine ⟨_, rfl, ?_⟩
  repeat' (first
    | (with_reducible exact k0) | (with_reducible apply keeps_modEmb) | (with_reducible apply keeps_answerWire)
    | (with_reducible apply keeps_selectEps) | (with_reducible apply keeps_answerControl) | (with_reducible apply keeps_ite))

theorem keeps_execClearEndpointHalt {s₀ : State} {p : Port} {k : Nat} {ep : Nat} {s : State} (k0 : Keeps s₀ s) :
    ∃ t', execClearEndpointHalt p k ep s = .next t' ∧ Keeps s₀ t' := by
  unfold execClearEndpointHalt
  refine ⟨_, rfl, ?_⟩
  repeat' (first
    | (with_reducible exact k0) | (with_reducible apply keeps_onEndpoint))

theorem keeps_reportChanges {s₀ : State} {s : State} {p : Port} {a : WireAnswer} (k0 : Keeps s₀ s)  : Keeps s₀ (reportChanges s p a) := by
  unfold reportChanges
  repeat' (first
    | (with_reducible exact k0) | (with_reducible apply keeps_modPort))

theorem keeps_execHubStatusPoll {s₀ : State} {p : Port} {s : State} (k0 : Keeps s₀ s) :
    ∃ t', execHubStatusPoll p s = .next t' ∧ Keeps s₀ t' := by
  unfold execHubStatusPoll
  refine ⟨_, rfl, ?_⟩
  repeat' (first
    | (with_reducible exact k0) | (with_reducible apply keeps_inTransfer) | (with_reducible apply keeps_reportChanges)
    | (with_reducible apply keeps_ite))

theorem keeps_abortFn {s₀ : State} {s : State} {p : Port} {k : Nat} (k0 : Keeps s₀ s)  : Keeps s₀ (abortFn s p k) := by
  unfold abortFn
  repeat' (first
    | (with_reducible exact k0) | (with_reducible apply keeps_dropCapsule) | (with_reducible apply keeps_abortPort) | split)

theorem keeps_onEmb {s₀ : State} {s : State} {p : Port} {k : Nat} {run : State → State} (k0 : Keeps s₀ s) (hrun : ∀ x0, Keeps s₀ x0 → Keeps s₀ (run x0)) : Keeps s₀ (onEmb s p k run) := by
  unfold onEmb
  repeat' (first
    | (with_reducible exact k0) | apply hrun | (with_reducible apply keeps_answerControl)
    | (with_reducible apply keeps_serveReads) | (with_reducible apply keeps_ite))

theorem keeps_dropEps {s₀ : State} {s : State} {p : Port} {k : Nat} (k0 : Keeps s₀ s)  : Keeps s₀ (dropEps s p k) := by
  unfold dropEps
  repeat' (first
    | (with_reducible exact k0) | (with_reducible apply keeps_modPort))

theorem keeps_execClearPortPower {s₀ : State} {p : Port} {k : Nat} {s : State} (k0 : Keeps s₀ s) :
    ∃ t', execClearPortPower p k s = .next t' ∧ Keeps s₀ t' := by
  unfold execClearPortPower
  refine ⟨_, rfl, ?_⟩
  repeat' (first
    | (with_reducible assumption) | intro _ | (with_reducible apply keeps_modEmb) | (with_reducible apply keeps_abortFn)
    | (with_reducible apply keeps_onEmb) | (with_reducible apply keeps_dropEps))

theorem keeps_execSetPortPower {s₀ : State} {p : Port} {k : Nat} {s : State} (k0 : Keeps s₀ s) :
    ∃ t', execSetPortPower p k s = .next t' ∧ Keeps s₀ t' := by
  unfold execSetPortPower
  refine ⟨_, rfl, ?_⟩
  repeat' (first
    | (with_reducible assumption) | intro _ | (with_reducible apply keeps_modEmb) | (with_reducible apply keeps_connectFn)
    | (with_reducible apply keeps_onEmb) | (with_reducible apply keeps_ite))

theorem keeps_resetEmb {s₀ : State} {s : State} {p : Port} {k : Nat} (k0 : Keeps s₀ s)  : Keeps s₀ (resetEmb s p k) := by
  unfold resetEmb
  repeat' (first
    | (with_reducible assumption) | intro _ | (with_reducible apply keeps_modEmb) | (with_reducible apply keeps_addAttention)
    | (with_reducible apply keeps_abortFn) | (with_reducible apply keeps_onEmb) | (with_reducible apply keeps_dropEps)
    | (with_reducible apply keeps_ite) | split)

theorem keeps_execPortReset {s₀ : State} {p : Port} {k : Nat} {s : State} (k0 : Keeps s₀ s) :
    ∃ t', execPortReset p k s = .next t' ∧ Keeps s₀ t' := by
  unfold execPortReset
  refine ⟨_, rfl, ?_⟩
  repeat' (first
    | (with_reducible exact k0) | (with_reducible apply keeps_resetEmb))

theorem keeps_execBhPortReset {s₀ : State} {p : Port} {k : Nat} {s : State} (k0 : Keeps s₀ s) :
    ∃ t', execBhPortReset p k s = .next t' ∧ Keeps s₀ t' := by
  unfold execBhPortReset
  refine ⟨_, rfl, ?_⟩
  repeat' (first
    | (with_reducible exact k0) | (with_reducible apply keeps_answerWire) | (with_reducible apply keeps_resetEmb)
    | (with_reducible apply keeps_ite))

theorem keeps_execEmbPortResetDone {s₀ : State} {p : Port} {k : Nat} {s : State} (k0 : Keeps s₀ s) :
    ∃ t', execEmbPortResetDone p k s = .next t' ∧ Keeps s₀ t' := by
  unfold execEmbPortResetDone
  refine ⟨_, rfl, ?_⟩
  repeat' (first
    | (with_reducible exact k0) | (with_reducible apply keeps_modEmb))

theorem keeps_execClearPortEnable {s₀ : State} {p : Port} {k : Nat} {s : State} (k0 : Keeps s₀ s) :
    ∃ t', execClearPortEnable p k s = .next t' ∧ Keeps s₀ t' := by
  unfold execClearPortEnable
  refine ⟨_, rfl, ?_⟩
  repeat' (first
    | (with_reducible assumption) | intro _ | (with_reducible apply keeps_modEmb) | (with_reducible apply keeps_answerWire)
    | (with_reducible apply keeps_abortFn) | (with_reducible apply keeps_onEmb) | (with_reducible apply keeps_ite))

theorem keeps_execPortSuspend {s₀ : State} {p : Port} {u : SuspendChange} {s : State} (k0 : Keeps s₀ s) :
    ∃ t', execPortSuspend p u s = .next t' ∧ Keeps s₀ t' := by
  unfold execPortSuspend
  refine ⟨_, rfl, ?_⟩
  repeat' (first
    | (with_reducible assumption) | intro _ | (with_reducible apply keeps_modEmb) | (with_reducible apply keeps_onEmb))

theorem keeps_execClearCPortConnection {s₀ : State} {p : Port} {k : Nat} {s : State} (k0 : Keeps s₀ s) :
    ∃ t', execClearCPortConnection p k s = .next t' ∧ Keeps s₀ t' := by
  unfold execClearCPortConnection
  refine ⟨_, rfl, ?_⟩
  repeat' (first
    | (with_reducible assumption) | intro _ | (with_reducible apply keeps_modEmb) | (with_reducible apply keeps_connectFn)
    | (with_reducible apply keeps_onEmb) | (with_reducible apply keeps_ite))

theorem keeps_acceptTt {s₀ : State} {s : State} {p : Port} (k0 : Keeps s₀ s)  : Keeps s₀ (acceptTt s p) := by
  unfold acceptTt
  repeat' (first
    | (with_reducible exact k0) | (with_reducible apply keeps_answerWire) | (with_reducible apply keeps_answerControl)
    | (with_reducible apply keeps_ite))

theorem keeps_execClearTtBuffer {s₀ : State} {p : Port} {s : State} (k0 : Keeps s₀ s) :
    ∃ t', execClearTtBuffer p s = .next t' ∧ Keeps s₀ t' := by
  unfold execClearTtBuffer
  refine ⟨_, rfl, ?_⟩
  repeat' (first
    | (with_reducible exact k0) | (with_reducible apply keeps_acceptTt))

theorem keeps_execResetTt {s₀ : State} {p : Port} {s : State} (k0 : Keeps s₀ s) :
    ∃ t', execResetTt p s = .next t' ∧ Keeps s₀ t' := by
  unfold execResetTt
  refine ⟨_, rfl, ?_⟩
  repeat' (first
    | (with_reducible exact k0) | (with_reducible apply keeps_acceptTt))

theorem keeps_gpioRecord {s₀ : State} {s : State} {p : Port} {changed : Nat} (k0 : Keeps s₀ s)  : Keeps s₀ (gpioRecord s p changed) := by
  unfold gpioRecord
  repeat' (first
    | (with_reducible exact k0) | (with_reducible apply keeps_modPfn) | (with_reducible apply keeps_queueEvent)
    | (with_reducible apply keeps_ite))

theorem keeps_execGpioSample {s₀ : State} {levels : BitVec 8} {s : State} (k0 : Keeps s₀ s) :
    ∃ t', execGpioSample levels s = .next t' ∧ Keeps s₀ t' := by
  unfold execGpioSample
  refine ⟨_, rfl, ?_⟩
  repeat' (first
    | (with_reducible assumption) | intro _ | (with_reducible apply keeps_modFn) | (with_reducible apply keeps_wakeTriggers)
    | (with_reducible apply keeps_gpioRecord) | (with_reducible apply keeps_ite) | (with_reducible apply keeps_foldl) | split)

end Sys2Proof.Machine
end

