-- ==== Sys2Proof/Laws/KeepsRegs.lean ====
section
/-! SUPPORT. What the operations of Machine/Regs.lean keep: the queue, the member, the stepping and the invariant `Inv`. -/

namespace Sys2Proof.Machine

set_option maxRecDepth 4000


theorem keeps_rcClear {s₀ : State} {s : State} {a : Nat} {same : Word} (k0 : Keeps s₀ s)  : Keeps s₀ (rcClear s a same) := by
  unfold rcClear
  repeat' (first
    | with_reducible exact k0
    | with_reducible assumption
    | (intro q; with_reducible rfl)
    | (intro q; dsimp only; split <;> rfl)
    | intro _
    | with_reducible apply keeps_modPort
    | with_reducible apply keeps_modField
    | with_reducible apply keeps_modChan
    | with_reducible apply keeps_modEngine
    | with_reducible apply keeps_modBank
    | with_reducible apply keeps_modArb
    | with_reducible apply keeps_modSaf
    | with_reducible apply keeps_modPwr
    | with_reducible apply keeps_modSem
    | with_reducible apply keeps_modHold
    | with_reducible apply keeps_modMpu
    | with_reducible apply keeps_modStk
    | with_reducible apply keeps_ite
    | with_reducible apply keeps_foldl
    | with_reducible apply keeps_foldl_fst
    | with_reducible apply keeps_foldl_snd
    | with_reducible rfl
    | dsimp only
    | split
    | (refine keeps_of_fst (by assumption) ?_)
    | (refine keeps_of_snd (by assumption) ?_)
    | (refine keeps_of_thd (by assumption) ?_)
    | (refine keeps_of_fst3 (by assumption) ?_))

theorem keeps_dropSnap {s₀ : State} {s : State} {id : Identity} {a : Nat} (k0 : Keeps s₀ s)  : Keeps s₀ (dropSnap s id a) := by
  unfold dropSnap
  repeat' (first
    | with_reducible exact k0
    | with_reducible assumption
    | (intro q; with_reducible rfl)
    | (intro q; dsimp only; split <;> rfl)
    | intro _
    | with_reducible apply keeps_ite
    | with_reducible apply keeps_foldl
    | with_reducible apply keeps_foldl_fst
    | with_reducible apply keeps_foldl_snd
    | with_reducible rfl
    | dsimp only
    | split
    | (refine keeps_of_fst (by assumption) ?_)
    | (refine keeps_of_snd (by assumption) ?_)
    | (refine keeps_of_thd (by assumption) ?_)
    | (refine keeps_of_fst3 (by assumption) ?_)
    | (with_reducible apply keeps_mk (s := _) <;> first | rfl | skip))

theorem keeps_takeSnaps {s₀ : State} {s : State} {id : Identity} {a : Nat} (k0 : Keeps s₀ s)  : Keeps s₀ (takeSnaps s id a) := by
  unfold takeSnaps
  repeat' (first
    | with_reducible exact k0
    | with_reducible assumption
    | (intro q; with_reducible rfl)
    | (intro q; dsimp only; split <;> rfl)
    | intro _
    | with_reducible apply keeps_dropSnap
    | with_reducible apply keeps_ite
    | with_reducible apply keeps_foldl
    | with_reducible apply keeps_foldl_fst
    | with_reducible apply keeps_foldl_snd
    | with_reducible rfl
    | dsimp only
    | split
    | (refine keeps_of_fst (by assumption) ?_)
    | (refine keeps_of_snd (by assumption) ?_)
    | (refine keeps_of_thd (by assumption) ?_)
    | (refine keeps_of_fst3 (by assumption) ?_)
    | (with_reducible apply keeps_mk (s := _) <;> first | rfl | skip))

theorem keeps_readReg {s₀ : State} {s : State} {id : Identity} {a : Nat} {same : Word} (k0 : Keeps s₀ s)  : Keeps s₀ (readReg s id a same).1 := by
  unfold readReg
  repeat' (first
    | with_reducible exact k0
    | with_reducible assumption
    | (intro q; with_reducible rfl)
    | (intro q; dsimp only; split <;> rfl)
    | intro _
    | with_reducible apply keeps_rcClear
    | with_reducible apply keeps_dropSnap
    | with_reducible apply keeps_takeSnaps
    | with_reducible apply keeps_ite
    | with_reducible apply keeps_foldl
    | with_reducible apply keeps_foldl_fst
    | with_reducible apply keeps_foldl_snd
    | with_reducible rfl
    | dsimp only
    | split
    | (refine keeps_of_fst (by assumption) ?_)
    | (refine keeps_of_snd (by assumption) ?_)
    | (refine keeps_of_thd (by assumption) ?_)
    | (refine keeps_of_fst3 (by assumption) ?_)
    | (with_reducible apply keeps_mk (s := _) <;> first | rfl | skip))

theorem keeps_csRead {s₀ : State} {s : State} {id : Identity} {a : Nat} {same : Word} (k0 : Keeps s₀ s)  : Keeps s₀ (csRead s id a same).1 := by
  unfold csRead
  repeat' (first
    | with_reducible exact k0
    | with_reducible assumption
    | (intro q; with_reducible rfl)
    | (intro q; dsimp only; split <;> rfl)
    | intro _
    | with_reducible apply keeps_logRsvd
    | with_reducible apply keeps_csCheck
    | with_reducible apply keeps_aperture
    | with_reducible apply keeps_readReg
    | with_reducible apply keeps_ite
    | with_reducible apply keeps_foldl
    | with_reducible apply keeps_foldl_fst
    | with_reducible apply keeps_foldl_snd
    | with_reducible rfl
    | dsimp only
    | split
    | (refine keeps_of_fst (by assumption) ?_)
    | (refine keeps_of_snd (by assumption) ?_)
    | (refine keeps_of_thd (by assumption) ?_)
    | (refine keeps_of_fst3 (by assumption) ?_))

theorem keeps_writeOffTj {s₀ : State} {s : State} {id : Identity} {v : Word} (k0 : Keeps s₀ s)  : Keeps s₀ (writeOffTj s id v) := by
  unfold writeOffTj
  repeat' (first
    | with_reducible exact k0
    | with_reducible assumption
    | (intro q; with_reducible rfl)
    | (intro q; dsimp only; split <;> rfl)
    | intro _
    | with_reducible apply keeps_ite
    | with_reducible apply keeps_foldl
    | with_reducible apply keeps_foldl_fst
    | with_reducible apply keeps_foldl_snd
    | with_reducible rfl
    | dsimp only
    | split
    | (refine keeps_of_fst (by assumption) ?_)
    | (refine keeps_of_snd (by assumption) ?_)
    | (refine keeps_of_thd (by assumption) ?_)
    | (refine keeps_of_fst3 (by assumption) ?_)
    | (with_reducible apply keeps_mk (s := _) <;> first | rfl | skip))

theorem keeps_writeGlb {s₀ : State} {s : State} {id : Identity} {o : Nat} {v : Word} (k0 : Keeps s₀ s)  : Keeps s₀ (writeGlb s id o v) := by
  unfold writeGlb
  repeat' (first
    | with_reducible exact k0
    | with_reducible assumption
    | (intro q; with_reducible rfl)
    | (intro q; dsimp only; split <;> rfl)
    | intro _
    | with_reducible apply keeps_modPwr
    | with_reducible apply keeps_layCommand
    | with_reducible apply keeps_writeWallHi
    | with_reducible apply keeps_pwrReset
    | with_reducible apply keeps_powerCommand
    | with_reducible apply keeps_setTarget
    | with_reducible apply keeps_secRdp
    | with_reducible apply keeps_secProv
    | with_reducible apply keeps_writeOffTj
    | with_reducible apply keeps_ite
    | with_reducible apply keeps_foldl
    | with_reducible apply keeps_foldl_fst
    | with_reducible apply keeps_foldl_snd
    | with_reducible rfl
    | dsimp only
    | split
    | (refine keeps_of_fst (by assumption) ?_)
    | (refine keeps_of_snd (by assumption) ?_)
    | (refine keeps_of_thd (by assumption) ?_)
    | (refine keeps_of_fst3 (by assumption) ?_)
    | (with_reducible apply keeps_mk (s := _) <;> first | rfl | skip))

theorem keeps_writeSaf {s₀ : State} {s : State} {id : Identity} {o : Nat} {v : Word} (k0 : Keeps s₀ s)  : Keeps s₀ (writeSaf s id o v) := by
  unfold writeSaf
  repeat' (first
    | with_reducible exact k0
    | with_reducible assumption
    | (intro q; with_reducible rfl)
    | (intro q; dsimp only; split <;> rfl)
    | intro _
    | with_reducible apply keeps_modSaf
    | with_reducible apply keeps_requestDeep
    | with_reducible apply keeps_recoverScope
    | with_reducible apply keeps_recoverEvery
    | with_reducible apply keeps_ite
    | with_reducible apply keeps_foldl
    | with_reducible apply keeps_foldl_fst
    | with_reducible apply keeps_foldl_snd
    | with_reducible rfl
    | dsimp only
    | split
    | (refine keeps_of_fst (by assumption) ?_)
    | (refine keeps_of_snd (by assumption) ?_)
    | (refine keeps_of_thd (by assumption) ?_)
    | (refine keeps_of_fst3 (by assumption) ?_))

theorem keeps_writePlt {s₀ : State} {s : State} {id : Identity} {n : Nat} {o : Nat} {v : Word} (k0 : Keeps s₀ s)  : Keeps s₀ (writePlt s id n o v) := by
  unfold writePlt
  repeat' (first
    | with_reducible exact k0
    | with_reducible assumption
    | (intro q; with_reducible rfl)
    | (intro q; dsimp only; split <;> rfl)
    | intro _
    | with_reducible apply keeps_modPlot
    | with_reducible apply keeps_plotControl
    | with_reducible apply keeps_ite
    | with_reducible apply keeps_foldl
    | with_reducible apply keeps_foldl_fst
    | with_reducible apply keeps_foldl_snd
    | with_reducible rfl
    | dsimp only
    | split
    | (refine keeps_of_fst (by assumption) ?_)
    | (refine keeps_of_snd (by assumption) ?_)
    | (refine keeps_of_thd (by assumption) ?_)
    | (refine keeps_of_fst3 (by assumption) ?_))

theorem keeps_writeGrnReg {s₀ : State} {s : State} {id : Identity} {o : Nat} {v : Word} (k0 : Keeps s₀ s)  : Keeps s₀ (writeGrnReg s id o v) := by
  unfold writeGrnReg
  repeat' (first
    | with_reducible exact k0
    | with_reducible assumption
    | (intro q; with_reducible rfl)
    | (intro q; dsimp only; split <;> rfl)
    | intro _
    | with_reducible apply keeps_modGrn
    | with_reducible apply keeps_modGrnBank
    | with_reducible apply keeps_grnCommand
    | with_reducible apply keeps_ite
    | with_reducible apply keeps_foldl
    | with_reducible apply keeps_foldl_fst
    | with_reducible apply keeps_foldl_snd
    | with_reducible rfl
    | dsimp only
    | split
    | (refine keeps_of_fst (by assumption) ?_)
    | (refine keeps_of_snd (by assumption) ?_)
    | (refine keeps_of_thd (by assumption) ?_)
    | (refine keeps_of_fst3 (by assumption) ?_))

theorem keeps_writeMpu {s₀ : State} {s : State} {o : Nat} {v : Word} (k0 : Keeps s₀ s)  : Keeps s₀ (writeMpu s o v) := by
  unfold writeMpu
  repeat' (first
    | with_reducible exact k0
    | with_reducible assumption
    | (intro q; with_reducible rfl)
    | (intro q; dsimp only; split <;> rfl)
    | intro _
    | with_reducible apply keeps_writeMpuCtrl
    | with_reducible apply keeps_ackVio
    | with_reducible apply keeps_ite
    | with_reducible apply keeps_foldl
    | with_reducible apply keeps_foldl_fst
    | with_reducible apply keeps_foldl_snd
    | with_reducible rfl
    | dsimp only
    | split
    | (refine keeps_of_fst (by assumption) ?_)
    | (refine keeps_of_snd (by assumption) ?_)
    | (refine keeps_of_thd (by assumption) ?_)
    | (refine keeps_of_fst3 (by assumption) ?_))

theorem keeps_writeBnk {s₀ : State} {s : State} {id : Identity} {b : Nat} {o : Nat} {v : Word} (k0 : Keeps s₀ s)  : Keeps s₀ (writeBnk s id b o v) := by
  unfold writeBnk
  repeat' (first
    | with_reducible exact k0
    | with_reducible assumption
    | (intro q; with_reducible rfl)
    | (intro q; dsimp only; split <;> rfl)
    | intro _
    | with_reducible apply keeps_handover
    | with_reducible apply keeps_seize
    | with_reducible apply keeps_ite
    | with_reducible apply keeps_foldl
    | with_reducible apply keeps_foldl_fst
    | with_reducible apply keeps_foldl_snd
    | with_reducible rfl
    | dsimp only
    | split
    | (refine keeps_of_fst (by assumption) ?_)
    | (refine keeps_of_snd (by assumption) ?_)
    | (refine keeps_of_thd (by assumption) ?_)
    | (refine keeps_of_fst3 (by assumption) ?_))

theorem keeps_writeWin {s₀ : State} {s : State} {id : Identity} {o : Nat} {v : Word} (k0 : Keeps s₀ s)  : Keeps s₀ (writeWin s id o v) := by
  unfold writeWin
  repeat' (first
    | with_reducible exact k0
    | with_reducible assumption
    | (intro q; with_reducible rfl)
    | (intro q; dsimp only; split <;> rfl)
    | intro _
    | with_reducible apply keeps_modWin
    | with_reducible apply keeps_writeAtomic
    | with_reducible apply keeps_ite
    | with_reducible apply keeps_foldl
    | with_reducible apply keeps_foldl_fst
    | with_reducible apply keeps_foldl_snd
    | with_reducible rfl
    | dsimp only
    | split
    | (refine keeps_of_fst (by assumption) ?_)
    | (refine keeps_of_snd (by assumption) ?_)
    | (refine keeps_of_thd (by assumption) ?_)
    | (refine keeps_of_fst3 (by assumption) ?_))

theorem keeps_writeStk {s₀ : State} {s : State} {id : Identity} {o : Nat} {v : Word} (k0 : Keeps s₀ s)  : Keeps s₀ (writeStk s id o v) := by
  unfold writeStk
  repeat' (first
    | with_reducible exact k0
    | with_reducible assumption
    | (intro q; with_reducible rfl)
    | (intro q; dsimp only; split <;> rfl)
    | intro _
    | with_reducible apply keeps_modRemote
    | with_reducible apply keeps_reEnumerate
    | with_reducible apply keeps_remoteOp
    | with_reducible apply keeps_ite
    | with_reducible apply keeps_foldl
    | with_reducible apply keeps_foldl_fst
    | with_reducible apply keeps_foldl_snd
    | with_reducible rfl
    | dsimp only
    | split
    | (refine keeps_of_fst (by assumption) ?_)
    | (refine keeps_of_snd (by assumption) ?_)
    | (refine keeps_of_thd (by assumption) ?_)
    | (refine keeps_of_fst3 (by assumption) ?_))

theorem keeps_regEffect {s₀ : State} {s : State} {id : Identity} {a : Nat} {v : Word} (k0 : Keeps s₀ s)  : Keeps s₀ (regEffect s id a v) := by
  unfold regEffect
  repeat' (first
    | with_reducible exact k0
    | with_reducible assumption
    | (intro q; with_reducible rfl)
    | (intro q; dsimp only; split <;> rfl)
    | intro _
    | with_reducible apply keeps_writeRegion
    | with_reducible apply keeps_semaphoreOp
    | with_reducible apply keeps_writeGlb
    | with_reducible apply keeps_writeSaf
    | with_reducible apply keeps_writePlt
    | with_reducible apply keeps_writeGrnReg
    | with_reducible apply keeps_writeMpu
    | with_reducible apply keeps_writeBnk
    | with_reducible apply keeps_writeWin
    | with_reducible apply keeps_writeStk
    | with_reducible apply keeps_ite
    | with_reducible apply keeps_foldl
    | with_reducible apply keeps_foldl_fst
    | with_reducible apply keeps_foldl_snd
    | with_reducible rfl
    | dsimp only
    | split
    | (refine keeps_of_fst (by assumption) ?_)
    | (refine keeps_of_snd (by assumption) ?_)
    | (refine keeps_of_thd (by assumption) ?_)
    | (refine keeps_of_fst3 (by assumption) ?_))

theorem keeps_csWriteWord {s₀ : State} {s : State} {id : Identity} {a : Nat} {v : Word} (k0 : Keeps s₀ s)  : Keeps s₀ (csWriteWord s id a v).1 := by
  unfold csWriteWord
  repeat' (first
    | with_reducible exact k0
    | with_reducible assumption
    | (intro q; with_reducible rfl)
    | (intro q; dsimp only; split <;> rfl)
    | intro _
    | with_reducible apply keeps_rsvdWrite
    | with_reducible apply keeps_csWrite
    | with_reducible apply keeps_aperture
    | with_reducible apply keeps_regEffect
    | with_reducible apply keeps_ite
    | with_reducible apply keeps_foldl
    | with_reducible apply keeps_foldl_fst
    | with_reducible apply keeps_foldl_snd
    | with_reducible rfl
    | dsimp only
    | split
    | (refine keeps_of_fst (by assumption) ?_)
    | (refine keeps_of_snd (by assumption) ?_)
    | (refine keeps_of_thd (by assumption) ?_)
    | (refine keeps_of_fst3 (by assumption) ?_))

theorem keeps_execRegisterWrite {s₀ : State} {id : Identity} {addr : CsAddr} {value : Word} {s : State} (k0 : Keeps s₀ s) :
    ∃ t', execRegisterWrite id addr value s = .next t' ∧ Keeps s₀ t' := by
  unfold execRegisterWrite
  refine ⟨_, rfl, ?_⟩
  repeat' (first
    | with_reducible exact k0
    | with_reducible assumption
    | (intro q; with_reducible rfl)
    | (intro q; dsimp only; split <;> rfl)
    | intro _
    | with_reducible apply keeps_setReply
    | with_reducible apply keeps_csWriteWord
    | with_reducible apply keeps_ite
    | with_reducible apply keeps_foldl
    | with_reducible apply keeps_foldl_fst
    | with_reducible apply keeps_foldl_snd
    | with_reducible rfl
    | dsimp only
    | split
    | (refine keeps_of_fst (by assumption) ?_)
    | (refine keeps_of_snd (by assumption) ?_)
    | (refine keeps_of_thd (by assumption) ?_)
    | (refine keeps_of_fst3 (by assumption) ?_))

theorem keeps_execRcRead {s₀ : State} {id : Identity} {addr : CsAddr} {sameTick : Word} {s : State} (k0 : Keeps s₀ s) :
    ∃ t', execRcRead id addr sameTick s = .next t' ∧ Keeps s₀ t' := by
  unfold execRcRead
  refine ⟨_, rfl, ?_⟩
  repeat' (first
    | with_reducible exact k0
    | with_reducible assumption
    | (intro q; with_reducible rfl)
    | (intro q; dsimp only; split <;> rfl)
    | intro _
    | with_reducible apply keeps_setReply
    | with_reducible apply keeps_csRead
    | with_reducible apply keeps_ite
    | with_reducible apply keeps_foldl
    | with_reducible apply keeps_foldl_fst
    | with_reducible apply keeps_foldl_snd
    | with_reducible rfl
    | dsimp only
    | split
    | (refine keeps_of_fst (by assumption) ?_)
    | (refine keeps_of_snd (by assumption) ?_)
    | (refine keeps_of_thd (by assumption) ?_)
    | (refine keeps_of_fst3 (by assumption) ?_))

theorem keeps_execSnapshotRead {s₀ : State} {id : Identity} {addr : CsAddr} {s : State} (k0 : Keeps s₀ s) :
    ∃ t', execSnapshotRead id addr s = .next t' ∧ Keeps s₀ t' := by
  unfold execSnapshotRead
  refine ⟨_, rfl, ?_⟩
  repeat' (first
    | with_reducible exact k0
    | with_reducible assumption
    | (intro q; with_reducible rfl)
    | (intro q; dsimp only; split <;> rfl)
    | intro _
    | with_reducible apply keeps_setReply
    | with_reducible apply keeps_csRead
    | with_reducible apply keeps_ite
    | with_reducible apply keeps_foldl
    | with_reducible apply keeps_foldl_fst
    | with_reducible apply keeps_foldl_snd
    | with_reducible rfl
    | dsimp only
    | split
    | (refine keeps_of_fst (by assumption) ?_)
    | (refine keeps_of_snd (by assumption) ?_)
    | (refine keeps_of_thd (by assumption) ?_)
    | (refine keeps_of_fst3 (by assumption) ?_))

theorem keeps_execRsvdAccess {s₀ : State} {id : Identity} {addr : CsAddr} {write : Bool} {s : State} (k0 : Keeps s₀ s) :
    ∃ t', execRsvdAccess id addr write s = .next t' ∧ Keeps s₀ t' := by
  unfold execRsvdAccess
  refine ⟨_, rfl, ?_⟩
  repeat' (first
    | with_reducible exact k0
    | with_reducible assumption
    | (intro q; with_reducible rfl)
    | (intro q; dsimp only; split <;> rfl)
    | intro _
    | with_reducible apply keeps_setReply
    | with_reducible apply keeps_csRead
    | with_reducible apply keeps_csWriteWord
    | with_reducible apply keeps_ite
    | with_reducible apply keeps_foldl
    | with_reducible apply keeps_foldl_fst
    | with_reducible apply keeps_foldl_snd
    | with_reducible rfl
    | dsimp only
    | split
    | (refine keeps_of_fst (by assumption) ?_)
    | (refine keeps_of_snd (by assumption) ?_)
    | (refine keeps_of_thd (by assumption) ?_)
    | (refine keeps_of_fst3 (by assumption) ?_))

theorem keeps_doEntry {s₀ : State} {s : State} {id : Identity} {e : RegEntry} (k0 : Keeps s₀ s)  : Keeps s₀ (doEntry s id e).1 := by
  unfold doEntry
  repeat' (first
    | with_reducible exact k0
    | with_reducible assumption
    | (intro q; with_reducible rfl)
    | (intro q; dsimp only; split <;> rfl)
    | intro _
    | with_reducible apply keeps_setReply
    | with_reducible apply keeps_csRead
    | with_reducible apply keeps_csWriteWord
    | with_reducible apply keeps_ite
    | with_reducible apply keeps_foldl
    | with_reducible apply keeps_foldl_fst
    | with_reducible apply keeps_foldl_snd
    | with_reducible rfl
    | dsimp only
    | split
    | (refine keeps_of_fst (by assumption) ?_)
    | (refine keeps_of_snd (by assumption) ?_)
    | (refine keeps_of_thd (by assumption) ?_)
    | (refine keeps_of_fst3 (by assumption) ?_))

theorem keeps_endReg {s₀ : State} {s : State} {p : Port} {tag : Nat} {done : List RegDone} (k0 : Keeps s₀ s)  : Keeps s₀ (endReg s p tag done) := by
  unfold endReg
  repeat' (first
    | with_reducible exact k0
    | with_reducible assumption
    | (intro q; with_reducible rfl)
    | (intro q; dsimp only; split <;> rfl)
    | intro _
    | with_reducible apply keeps_respond
    | with_reducible apply keeps_ite
    | with_reducible apply keeps_foldl
    | with_reducible apply keeps_foldl_fst
    | with_reducible apply keeps_foldl_snd
    | with_reducible rfl
    | dsimp only
    | split
    | (refine keeps_of_fst (by assumption) ?_)
    | (refine keeps_of_snd (by assumption) ?_)
    | (refine keeps_of_thd (by assumption) ?_)
    | (refine keeps_of_fst3 (by assumption) ?_))

theorem keeps_execRegEntry {s₀ : State} {p : Port} {s : State} (k0 : Keeps s₀ s) :
    ∃ t', execRegEntry p s = .next t' ∧ Keeps s₀ t' := by
  unfold execRegEntry
  refine ⟨_, rfl, ?_⟩
  repeat' (first
    | with_reducible exact k0
    | with_reducible assumption
    | (intro q; with_reducible rfl)
    | (intro q; dsimp only; split <;> rfl)
    | intro _
    | with_reducible apply keeps_modPfn
    | with_reducible apply keeps_doEntry
    | with_reducible apply keeps_endReg
    | with_reducible apply keeps_ite
    | with_reducible apply keeps_foldl
    | with_reducible apply keeps_foldl_fst
    | with_reducible apply keeps_foldl_snd
    | with_reducible rfl
    | dsimp only
    | split
    | (refine keeps_of_fst (by assumption) ?_)
    | (refine keeps_of_snd (by assumption) ?_)
    | (refine keeps_of_thd (by assumption) ?_)
    | (refine keeps_of_fst3 (by assumption) ?_))

theorem keeps_doEntries {s₀ : State} {id : Identity} : ∀ {es : List RegEntry} {s : State}, Keeps s₀ s → Keeps s₀ (doEntries id es s).1
  | [], _, h => h
  | e :: es, s, h => by
    have k : Keeps s₀ (doEntry s id e).1 := keeps_doEntry h
    unfold doEntries
    dsimp only
    split
    · exact k
    · exact keeps_doEntries k

theorem keeps_takeReg {s₀ : State} {s : State} {h : FrameHdr} {entries : List RegEntry} (k0 : Keeps s₀ s)  : Keeps s₀ (takeReg s h entries) := by
  unfold takeReg
  repeat' (first
    | with_reducible exact k0
    | with_reducible assumption
    | (intro q; with_reducible rfl)
    | (intro q; dsimp only; split <;> rfl)
    | intro _
    | with_reducible apply keeps_modStk
    | with_reducible apply keeps_ringSend
    | with_reducible apply keeps_doEntries
    | with_reducible apply keeps_ite
    | with_reducible apply keeps_foldl
    | with_reducible apply keeps_foldl_fst
    | with_reducible apply keeps_foldl_snd
    | with_reducible rfl
    | dsimp only
    | split
    | (refine keeps_of_fst (by assumption) ?_)
    | (refine keeps_of_snd (by assumption) ?_)
    | (refine keeps_of_thd (by assumption) ?_)
    | (refine keeps_of_fst3 (by assumption) ?_))

theorem keeps_execRegFrame {s₀ : State} {h : FrameHdr} {entries : List RegEntry} {s : State} (k0 : Keeps s₀ s) :
    ∃ t', execRegFrame h entries s = .next t' ∧ Keeps s₀ t' := by
  unfold execRegFrame
  refine ⟨_, rfl, ?_⟩
  repeat' (first
    | with_reducible exact k0
    | with_reducible assumption
    | (intro q; with_reducible rfl)
    | (intro q; dsimp only; split <;> rfl)
    | intro _
    | with_reducible apply keeps_takeFrame
    | with_reducible apply keeps_takeReg
    | with_reducible apply keeps_ite
    | with_reducible apply keeps_foldl
    | with_reducible apply keeps_foldl_fst
    | with_reducible apply keeps_foldl_snd
    | with_reducible rfl
    | dsimp only
    | split
    | (refine keeps_of_fst (by assumption) ?_)
    | (refine keeps_of_snd (by assumption) ?_)
    | (refine keeps_of_thd (by assumption) ?_)
    | (refine keeps_of_fst3 (by assumption) ?_))

end Sys2Proof.Machine
end

