-- ==== Sys2Proof/Laws/KeepsJtag.lean ====
section
/-! SUPPORT. What the operations of Machine/Jtag.lean keep: the queue, the member, the stepping and the invariant `Inv`. -/

namespace Sys2Proof.Machine

set_option maxRecDepth 4000


theorem keeps_tapBypass {s₀ : State} {s : State} (k0 : Keeps s₀ s)  : Keeps s₀ (tapBypass s) := by
  unfold tapBypass
  repeat' (first
    | (with_reducible exact k0) | (with_reducible apply keeps_modJtag))

theorem keeps_tapLoad {s₀ : State} {s : State} {code : Nat} {effect : State → State} (k0 : Keeps s₀ s) (heffect : ∀ x0, Keeps s₀ x0 → Keeps s₀ (effect x0)) : Keeps s₀ (tapLoad s code effect) := by
  unfold tapLoad
  repeat' (first
    | (with_reducible exact k0) | apply heffect | (with_reducible apply keeps_modJtag) | (with_reducible apply keeps_tapBypass)
    | (with_reducible apply keeps_ite))

theorem keeps_execJtagExtest {s₀ : State} {cells : List Bool} {s : State} (k0 : Keeps s₀ s) :
    ∃ t', execJtagExtest cells s = .next t' ∧ Keeps s₀ t' := by
  unfold execJtagExtest
  refine ⟨_, rfl, ?_⟩
  repeat' (first
    | (with_reducible assumption) | intro _ | (with_reducible apply keeps_modJtag) | (with_reducible apply keeps_tapLoad))

theorem keeps_execJtagIdcode {s₀ : State} {s : State} (k0 : Keeps s₀ s) :
    ∃ t', execJtagIdcode s = .next t' ∧ Keeps s₀ t' := by
  unfold execJtagIdcode
  refine ⟨_, rfl, ?_⟩
  repeat' (first
    | (with_reducible assumption) | intro _ | (with_reducible apply keeps_modJtag) | (with_reducible apply keeps_tapLoad))

theorem keeps_execJtagSamplePreload {s₀ : State} {sampled : List Bool} {preload : List Bool} {s : State} (k0 : Keeps s₀ s) :
    ∃ t', execJtagSamplePreload sampled preload s = .next t' ∧ Keeps s₀ t' := by
  unfold execJtagSamplePreload
  refine ⟨_, rfl, ?_⟩
  repeat' (first
    | (with_reducible assumption) | intro _ | (with_reducible apply keeps_modJtag) | (with_reducible apply keeps_tapLoad))

theorem keeps_execJtagCspace {s₀ : State} {addr : CsAddr} {write : Bool} {data : Word} {s : State} (k0 : Keeps s₀ s) :
    ∃ t', execJtagCspace addr write data s = .next t' ∧ Keeps s₀ t' := by
  unfold execJtagCspace
  refine ⟨_, rfl, ?_⟩
  repeat' (first
    | (with_reducible assumption) | intro _ | (with_reducible apply keeps_modJtag) | (with_reducible apply keeps_csRead)
    | (with_reducible apply keeps_csWriteWord) | (with_reducible apply keeps_tapLoad) | (with_reducible apply keeps_ite))

theorem keeps_execJtagReset {s₀ : State} {s : State} (k0 : Keeps s₀ s) :
    ∃ t', execJtagReset s = .next t' ∧ Keeps s₀ t' := by
  unfold execJtagReset
  refine ⟨_, rfl, ?_⟩
  repeat' (first
    | (with_reducible assumption) | intro _ | (with_reducible apply keeps_modJtag) | (with_reducible apply keeps_resetBy)
    | (with_reducible apply keeps_tapLoad))

theorem keeps_execJtagBypass {s₀ : State} {_code : Byte} {s : State} (k0 : Keeps s₀ s) :
    ∃ t', execJtagBypass _code s = .next t' ∧ Keeps s₀ t' := by
  unfold execJtagBypass
  refine ⟨_, rfl, ?_⟩
  repeat' (first
    | (with_reducible exact k0) | (with_reducible apply keeps_tapBypass))

end Sys2Proof.Machine
end

