-- ==== Sys2Proof/WellFormed.lean ====
section
/-! DEFINITION. When a command is one the block's surroundings can send: its instance numbers exist on the member
(R30, Table GLB-9) and its fields fit the widths the spec gives them. `exec` does not need it: an instance that does
not exist has no effect there. -/

namespace Sys2Proof

/-- The recipe words name a channel and one of its 16 dies (Table LAY-12). -/
def wfDie (m : Member) (ch die : Nat) : Bool := decide (ch < m.channels) && decide (die < 16)

/-- An endpoint address of Table PRT-3 on an embedded port of the hub (R250). -/
def wfEp (k ep : Nat) : Bool := decide (k < 16) && decide (ep < 256)

/-- A task of a Volume or Credential Plot: 0 to 63 locally, 64 to 127 for the master's wide Plots (R612). -/
def wfKey (m : Member) (k : TaskKey) : Bool :=
  (decide (k.plot < m.plots) || (decide (64 ≤ k.plot) && decide (k.plot < 128))) &&
  (match k.origin with | .port p => decide (p.index < m.ports) | .ring pos => decide (pos < m.stackMax))

def wfPort (m : Member) (p : Port) : Bool := decide (p.index < m.ports)

/-- A frame header's fields fit Table STK-2. -/
def wfHdr (h : FrameHdr) : Bool :=
  decide (h.dest < 128) && decide (h.src < 128) && decide (h.lseq < 4096) && decide (h.lack < 4096) &&
  decide (h.hops < 256) && decide (h.credit ≤ 64) && decide (h.tag < 2 ^ 32)

def Instr.wf (m : Member) : Instr → Bool
  | .arbiterGrant reqs _ => reqs.all fun r => decide (r.input < 22)
  | .watchdogExpiry a b => decide (a < m.islands) && decide (b < m.islands)
  | .blockReceived k _ _ d _ => wfKey m k && decide (d.length = 4096)
  | .echoCheckDone e _ => decide (e < m.ciphers)
  | .decryptDone e _ _ _ => decide (e < m.ciphers)
  | .enter ch die t e => wfDie m ch die && decide (t < 32) && decide (e < 4096)
  | .cmd ch die _ _ b _ => wfDie m ch die && decide (b < 32)
  | .cmdl ch die _ _ l _ _ _ b _ => wfDie m ch die && decide (l < 4) && decide (b < 32)
  | .addr ch die _ _ => wfDie m ch die
  | .dout ch die _ _ => wfDie m ch die
  | .din ch die _ _ _ => wfDie m ch die
  | .wait ch die t _ => wfDie m ch die && decide (t < 32)
  | .waitElapsed ch die _ => wfDie m ch die
  | .poll ch die _ b _ _ => wfDie m ch die && decide (b < 32)
  | .statusPoll ch die _ => wfDie m ch die
  | .test ch die _ _ t _ => wfDie m ch die && decide (t < 4096)
  | .loop ch die _ => wfDie m ch die
  | .next ch die => wfDie m ch die
  | .jump ch die t => wfDie m ch die && decide (t < 4096)
  | .mode ch die _ t _ => wfDie m ch die && decide (t < 16)
  | .setv ch die k _ _ _ => wfDie m ch die && decide (k < 4)
  | .fail ch die => wfDie m ch die
  | .end_ ch die => wfDie m ch die
  | .recipeTimeout ch die => wfDie m ch die
  | .fixPointRecorded f => decide (f < m.fields)
  | .fieldReplayDone f _ => decide (f < m.fields)
  | .tempSample r => decide (r.length = 24)
  | .cipherQueueDrained e => decide (e < m.ciphers)
  | .semTake id n => m.carriesId id && decide (n < 128)
  | .semRelease id n => m.carriesId id && decide (n < 128)
  | .semForce id n => m.carriesId id && decide (n < 128)
  | .bulkRekey id n => m.carriesId id && decide (n < m.plots)
  | .plotErase id n _ => m.carriesId id && decide (n < m.plots)
  | .bnkHandover id b _ _ => m.carriesId id && decide (b < m.banks)
  | .bnkSeize id b => m.carriesId id && decide (b < m.banks)
  | .scrubDone b => decide (b < m.banks)
  | .eccWriteback b w => decide (b < m.banks) && decide (w < 32768)
  | .apertureAccess id o _ _ _ => m.carriesId id && decide (o < 4096) && decide (o % 4 = 0)
  | .mpuRegionWrite id r g _ => m.carriesId id && decide (r < m.mpuRegions) && decide (g < 3)
  | .bulkOutPacket p k ep => wfPort m p && wfEp k ep
  | .ping p k ep => wfPort m p && wfEp k ep
  | .clearEndpointHalt p k ep => wfPort m p && wfEp k ep
  | .ssBulkTransaction p k ep _ => wfPort m p && wfEp k ep
  | .sofReceived p n => wfPort m p && decide (n < 2 ^ 14)
  | .write10 k _ _ _ _ => wfKey m k
  | .write16 k _ _ _ _ => wfKey m k
  | .read10 k _ _ _ _ => wfKey m k
  | .read16 k _ _ _ _ => wfKey m k
  | .put k _ n v _ => wfKey m k && decide (n.length ≤ 64) && decide (v.length ≤ 4096)
  | .ack h => wfHdr h
  | .nak h => wfHdr h
  | .blkHead h _ => wfHdr h
  | .blkData h d => wfHdr h && decide (d.length = 4096)
  | .brec h r => wfHdr h && decide (r.length ≤ 146)
  | .regFrame h e => wfHdr h && decide (e.length ≤ 512)
  | .registerWrite id _ _ => m.carriesId id
  | .rsvdAccess id _ _ => m.carriesId id
  | .rcRead id _ _ => m.carriesId id
  | .snapshotRead id _ => m.carriesId id
  | .safDeep id _ _ => m.carriesId id
  | .recover id _ _ => m.carriesId id
  | .recoverAll id => m.carriesId id
  | .layVerify id _ => m.carriesId id
  | .warmActivation id _ => m.carriesId id
  | .coldActivation id _ => m.carriesId id
  | .pwrReset id _ => m.carriesId id
  | .pwrLit id => m.carriesId id
  | .pwrDim id => m.carriesId id
  | .pwrDark id => m.carriesId id
  | .pwrOff id => m.carriesId id
  | .setTarget id _ => m.carriesId id
  | .rdpLevel1 id _ => m.carriesId id
  | .rdpLevel2 id _ => m.carriesId id
  | .rdpLower id _ => m.carriesId id
  | .rootGen id => m.carriesId id
  | .wallTime id _ => m.carriesId id
  | .grnKey id _ => m.carriesId id
  | .grnRead id _ _ _ => m.carriesId id
  | .grnProgram id _ _ _ => m.carriesId id
  | .grnErase id _ _ _ => m.carriesId id
  | .grnSuspend id => m.carriesId id
  | .grnResume id => m.carriesId id
  | .grnInc id => m.carriesId id
  | .add32 id => m.carriesId id
  | .add64 id => m.carriesId id
  | .swap32 id => m.carriesId id
  | .swap64 id => m.carriesId id
  | .mpuLock id => m.carriesId id
  | .mpuVioAck id _ => m.carriesId id
  | .stkRemoteRead id => m.carriesId id
  | .stkRemoteWrite id => m.carriesId id
  | .reEnumerate id => m.carriesId id
  | _ => true

end Sys2Proof
end

