-- ==== Sys2Proof/Laws/PerInstr.lean ====
section
/-! SUPPORT. Per command: one that is well formed on the smallest member is well formed on every member, since
Table GLB-9 only grows (R29, R30). -/

set_option Elab.async false

namespace Sys2Proof.Laws

def Family.Statement (i : Instr) : Prop := i.wf .z1 = true → ∀ m : Member, i.wf m = true

theorem channels_mono (m : Member) : Member.z1.channels ≤ m.channels := by cases m <;> decide
theorem ciphers_mono (m : Member) : Member.z1.ciphers ≤ m.ciphers := by cases m <;> decide
theorem islands_mono (m : Member) : Member.z1.islands ≤ m.islands := by cases m <;> decide
theorem plots_mono (m : Member) : Member.z1.plots ≤ m.plots := by cases m <;> decide
theorem fields_mono (m : Member) : Member.z1.fields ≤ m.fields := by cases m <;> decide
theorem banks_mono (m : Member) : Member.z1.banks ≤ m.banks := by cases m <;> decide
theorem mpuRegions_mono (m : Member) : Member.z1.mpuRegions ≤ m.mpuRegions := by cases m <;> decide
theorem ports_mono (m : Member) : Member.z1.ports ≤ m.ports := by cases m <;> decide
theorem stackMax_mono (m : Member) : Member.z1.stackMax ≤ m.stackMax := by cases m <;> decide

theorem wfDie_mono {ch die : Nat} (m : Member) (h : wfDie .z1 ch die = true) : wfDie m ch die = true := by
  have := channels_mono m
  simp only [wfDie, Bool.and_eq_true, decide_eq_true_eq] at h ⊢
  omega

theorem wfPort_mono {p : Port} (m : Member) (h : wfPort .z1 p = true) : wfPort m p = true := by
  have := ports_mono m
  simp only [wfPort, decide_eq_true_eq] at h ⊢
  omega

theorem wfKey_mono {k : TaskKey} (m : Member) (h : wfKey .z1 k = true) : wfKey m k = true := by
  have := plots_mono m
  have := ports_mono m
  have := stackMax_mono m
  obtain ⟨o, n, t⟩ := k
  cases o <;> simp only [wfKey, Bool.and_eq_true, Bool.or_eq_true, decide_eq_true_eq] at h ⊢ <;> omega

theorem carriesId_mono {i : Identity} (m : Member) (h : Member.z1.carriesId i = true) : m.carriesId i = true := by
  cases m <;> revert i <;> decide

theorem Family.registerWrite : ∀ a0 a1 a2, Family.Statement (.registerWrite a0 a1 a2) := by
  intros; intro h m
  exact carriesId_mono m h

theorem Family.rsvdAccess : ∀ a0 a1 a2, Family.Statement (.rsvdAccess a0 a1 a2) := by
  intros; intro h m
  exact carriesId_mono m h

theorem Family.rcRead : ∀ a0 a1 a2, Family.Statement (.rcRead a0 a1 a2) := by
  intros; intro h m
  exact carriesId_mono m h

theorem Family.snapshotRead : ∀ a0 a1, Family.Statement (.snapshotRead a0 a1) := by
  intros; intro h m
  exact carriesId_mono m h

theorem Family.arbiterGrant : ∀ a0 a1, Family.Statement (.arbiterGrant a0 a1) := by
  intros; intro h m; exact h

theorem Family.watchdogExpiry : ∀ a0 a1, Family.Statement (.watchdogExpiry a0 a1) := by
  intros; intro h m
  have := islands_mono m
  simp only [Instr.wf, Bool.and_eq_true, decide_eq_true_eq] at h ⊢
  omega

theorem Family.blockReceived : ∀ a0 a1 a2 a3 a4, Family.Statement (.blockReceived a0 a1 a2 a3 a4) := by
  intros; intro h m
  simp only [Instr.wf, Bool.and_eq_true] at h ⊢
  exact ⟨wfKey_mono m h.1, h.2⟩

theorem Family.echoCheckDone : ∀ a0 a1, Family.Statement (.echoCheckDone a0 a1) := by
  intros; intro h m
  have := ciphers_mono m
  simp only [Instr.wf, decide_eq_true_eq] at h ⊢
  omega

theorem Family.decryptDone : ∀ a0 a1 a2 a3, Family.Statement (.decryptDone a0 a1 a2 a3) := by
  intros; intro h m
  have := ciphers_mono m
  simp only [Instr.wf, decide_eq_true_eq] at h ⊢
  omega

theorem Family.enter : ∀ a0 a1 a2 a3, Family.Statement (.enter a0 a1 a2 a3) := by
  intros; intro h m
  simp only [Instr.wf, Bool.and_eq_true] at h ⊢
  exact ⟨⟨wfDie_mono m h.1.1, h.1.2⟩, h.2⟩

theorem Family.cmd : ∀ a0 a1 a2 a3 a4 a5, Family.Statement (.cmd a0 a1 a2 a3 a4 a5) := by
  intros; intro h m
  simp only [Instr.wf, Bool.and_eq_true] at h ⊢
  exact ⟨wfDie_mono m h.1, h.2⟩

theorem Family.cmdl : ∀ a0 a1 a2 a3 a4 a5 a6 a7 a8 a9, Family.Statement (.cmdl a0 a1 a2 a3 a4 a5 a6 a7 a8 a9) := by
  intros; intro h m
  simp only [Instr.wf, Bool.and_eq_true] at h ⊢
  exact ⟨⟨wfDie_mono m h.1.1, h.1.2⟩, h.2⟩

theorem Family.addr : ∀ a0 a1 a2 a3, Family.Statement (.addr a0 a1 a2 a3) := by
  intros; intro h m; exact wfDie_mono m h

theorem Family.dout : ∀ a0 a1 a2 a3, Family.Statement (.dout a0 a1 a2 a3) := by
  intros; intro h m; exact wfDie_mono m h

theorem Family.din : ∀ a0 a1 a2 a3 a4, Family.Statement (.din a0 a1 a2 a3 a4) := by
  intros; intro h m; exact wfDie_mono m h

theorem Family.wait : ∀ a0 a1 a2 a3, Family.Statement (.wait a0 a1 a2 a3) := by
  intros; intro h m
  simp only [Instr.wf, Bool.and_eq_true] at h ⊢
  exact ⟨wfDie_mono m h.1, h.2⟩

theorem Family.waitElapsed : ∀ a0 a1 a2, Family.Statement (.waitElapsed a0 a1 a2) := by
  intros; intro h m; exact wfDie_mono m h

theorem Family.poll : ∀ a0 a1 a2 a3 a4 a5, Family.Statement (.poll a0 a1 a2 a3 a4 a5) := by
  intros; intro h m
  simp only [Instr.wf, Bool.and_eq_true] at h ⊢
  exact ⟨wfDie_mono m h.1, h.2⟩

theorem Family.statusPoll : ∀ a0 a1 a2, Family.Statement (.statusPoll a0 a1 a2) := by
  intros; intro h m; exact wfDie_mono m h

theorem Family.test : ∀ a0 a1 a2 a3 a4 a5, Family.Statement (.test a0 a1 a2 a3 a4 a5) := by
  intros; intro h m
  simp only [Instr.wf, Bool.and_eq_true] at h ⊢
  exact ⟨wfDie_mono m h.1, h.2⟩

theorem Family.loop : ∀ a0 a1 a2, Family.Statement (.loop a0 a1 a2) := by
  intros; intro h m; exact wfDie_mono m h

theorem Family.next : ∀ a0 a1, Family.Statement (.next a0 a1) := by
  intros; intro h m; exact wfDie_mono m h

theorem Family.jump : ∀ a0 a1 a2, Family.Statement (.jump a0 a1 a2) := by
  intros; intro h m
  simp only [Instr.wf, Bool.and_eq_true] at h ⊢
  exact ⟨wfDie_mono m h.1, h.2⟩

theorem Family.mode : ∀ a0 a1 a2 a3 a4, Family.Statement (.mode a0 a1 a2 a3 a4) := by
  intros; intro h m
  simp only [Instr.wf, Bool.and_eq_true] at h ⊢
  exact ⟨wfDie_mono m h.1, h.2⟩

theorem Family.setv : ∀ a0 a1 a2 a3 a4 a5, Family.Statement (.setv a0 a1 a2 a3 a4 a5) := by
  intros; intro h m
  simp only [Instr.wf, Bool.and_eq_true] at h ⊢
  exact ⟨wfDie_mono m h.1, h.2⟩

theorem Family.fail : ∀ a0 a1, Family.Statement (.fail a0 a1) := by
  intros; intro h m; exact wfDie_mono m h

theorem Family.end_ : ∀ a0 a1, Family.Statement (.end_ a0 a1) := by
  intros; intro h m; exact wfDie_mono m h

theorem Family.recipeTimeout : ∀ a0 a1, Family.Statement (.recipeTimeout a0 a1) := by
  intros; intro h m; exact wfDie_mono m h

theorem Family.fixPointRecorded : ∀ a0, Family.Statement (.fixPointRecorded a0) := by
  intros; intro h m
  have := fields_mono m
  simp only [Instr.wf, decide_eq_true_eq] at h ⊢
  omega

theorem Family.doseTick : Family.Statement .doseTick := by
  intro _ _; rfl

theorem Family.freqMonitorWindow : ∀ a0 a1 a2, Family.Statement (.freqMonitorWindow a0 a1 a2) := by
  intros; intro _ _; rfl

theorem Family.referenceLoss : Family.Statement .referenceLoss := by
  intro _ _; rfl

theorem Family.sofWindow : ∀ a0 a1, Family.Statement (.sofWindow a0 a1) := by
  intros; intro _ _; rfl

theorem Family.railFault : ∀ a0 a1, Family.Statement (.railFault a0 a1) := by
  intros; intro _ _; rfl

theorem Family.tempSample : ∀ a0, Family.Statement (.tempSample a0) := by
  intros; intro h m; exact h

theorem Family.sweepSlot : ∀ a0, Family.Statement (.sweepSlot a0) := by
  intros; intro _ _; rfl

theorem Family.cipherQueueDrained : ∀ a0, Family.Statement (.cipherQueueDrained a0) := by
  intros; intro h m
  have := ciphers_mono m
  simp only [Instr.wf, decide_eq_true_eq] at h ⊢
  omega

theorem Family.testStripDone : ∀ a0 a1 a2, Family.Statement (.testStripDone a0 a1 a2) := by
  intros; intro _ _; rfl

theorem Family.sweepSlotEnd : ∀ a0 a1, Family.Statement (.sweepSlotEnd a0 a1) := by
  intros; intro _ _; rfl

theorem Family.safDeep : ∀ a0 a1 a2, Family.Statement (.safDeep a0 a1 a2) := by
  intros; intro h m
  exact carriesId_mono m h

theorem Family.recover : ∀ a0 a1 a2, Family.Statement (.recover a0 a1 a2) := by
  intros; intro h m
  exact carriesId_mono m h

theorem Family.recoverAll : ∀ a0, Family.Statement (.recoverAll a0) := by
  intros; intro h m
  exact carriesId_mono m h

theorem Family.recoverDone : ∀ a0 a1 a2, Family.Statement (.recoverDone a0 a1 a2) := by
  intros; intro _ _; rfl

theorem Family.tamper : Family.Statement .tamper := by
  intro _ _; rfl

theorem Family.testEn : Family.Statement .testEn := by
  intro _ _; rfl

theorem Family.entropy : ∀ a0, Family.Statement (.entropy a0) := by
  intros; intro _ _; rfl

theorem Family.layVerify : ∀ a0 a1, Family.Statement (.layVerify a0 a1) := by
  intros; intro h m
  exact carriesId_mono m h

theorem Family.warmActivation : ∀ a0 a1, Family.Statement (.warmActivation a0 a1) := by
  intros; intro h m
  exact carriesId_mono m h

theorem Family.coldActivation : ∀ a0 a1, Family.Statement (.coldActivation a0 a1) := by
  intros; intro h m
  exact carriesId_mono m h

theorem Family.slotVerified : ∀ a0, Family.Statement (.slotVerified a0) := by
  intros; intro _ _; rfl

theorem Family.commitGrant : Family.Statement .commitGrant := by
  intro _ _; rfl

theorem Family.developmentComplete : ∀ a0, Family.Statement (.developmentComplete a0) := by
  intros; intro _ _; rfl

theorem Family.powerOn : Family.Statement .powerOn := by
  intro _ _; rfl

theorem Family.railDip : ∀ a0, Family.Statement (.railDip a0) := by
  intros; intro _ _; rfl

theorem Family.resetN : ∀ a0, Family.Statement (.resetN a0) := by
  intros; intro _ _; rfl

theorem Family.pwrReset : ∀ a0 a1, Family.Statement (.pwrReset a0 a1) := by
  intros; intro h m
  exact carriesId_mono m h

theorem Family.offWake : Family.Statement .offWake := by
  intro _ _; rfl

theorem Family.referenceDetected : ∀ a0, Family.Statement (.referenceDetected a0) := by
  intros; intro _ _; rfl

theorem Family.fieldReplayDone : ∀ a0 a1, Family.Statement (.fieldReplayDone a0 a1) := by
  intros; intro h m
  have := fields_mono m
  simp only [Instr.wf, decide_eq_true_eq] at h ⊢
  omega

theorem Family.pwrLit : ∀ a0, Family.Statement (.pwrLit a0) := by
  intros; intro h m
  exact carriesId_mono m h

theorem Family.pwrDim : ∀ a0, Family.Statement (.pwrDim a0) := by
  intros; intro h m
  exact carriesId_mono m h

theorem Family.pwrDark : ∀ a0, Family.Statement (.pwrDark a0) := by
  intros; intro h m
  exact carriesId_mono m h

theorem Family.pwrOff : ∀ a0, Family.Statement (.pwrOff a0) := by
  intros; intro h m
  exact carriesId_mono m h

theorem Family.setTarget : ∀ a0 a1, Family.Statement (.setTarget a0 a1) := by
  intros; intro h m
  exact carriesId_mono m h

theorem Family.usbSuspend : ∀ a0, Family.Statement (.usbSuspend a0) := by
  intros; intro _ _; rfl

theorem Family.usbResume : ∀ a0, Family.Statement (.usbResume a0) := by
  intros; intro _ _; rfl

theorem Family.remoteWakeRepeat : ∀ a0, Family.Statement (.remoteWakeRepeat a0) := by
  intros; intro _ _; rfl

theorem Family.gpioSample : ∀ a0, Family.Statement (.gpioSample a0) := by
  intros; intro _ _; rfl

theorem Family.vbusDetect : ∀ a0 a1, Family.Statement (.vbusDetect a0 a1) := by
  intros; intro _ _; rfl

theorem Family.vbusLoss : ∀ a0, Family.Statement (.vbusLoss a0) := by
  intros; intro _ _; rfl

theorem Family.ssTrainingDone : ∀ a0 a1 a2, Family.Statement (.ssTrainingDone a0 a1 a2) := by
  intros; intro _ _; rfl

theorem Family.ssTrainingTimeout : ∀ a0, Family.Statement (.ssTrainingTimeout a0) := by
  intros; intro _ _; rfl

theorem Family.usb2BusReset : ∀ a0 a1, Family.Statement (.usb2BusReset a0 a1) := by
  intros; intro _ _; rfl

theorem Family.upstreamReset : ∀ a0 a1, Family.Statement (.upstreamReset a0 a1) := by
  intros; intro _ _; rfl

theorem Family.bulkOutPacket : ∀ a0 a1 a2, Family.Statement (.bulkOutPacket a0 a1 a2) := by
  intros; intro h m
  simp only [Instr.wf, Bool.and_eq_true] at h ⊢
  exact ⟨wfPort_mono m h.1, h.2⟩

theorem Family.ping : ∀ a0 a1 a2, Family.Statement (.ping a0 a1 a2) := by
  intros; intro h m
  simp only [Instr.wf, Bool.and_eq_true] at h ⊢
  exact ⟨wfPort_mono m h.1, h.2⟩

theorem Family.sofReceived : ∀ a0 a1, Family.Statement (.sofReceived a0 a1) := by
  intros; intro h m
  simp only [Instr.wf, Bool.and_eq_true] at h ⊢
  exact ⟨wfPort_mono m h.1, h.2⟩

theorem Family.sofTimeout : ∀ a0, Family.Statement (.sofTimeout a0) := by
  intros; intro _ _; rfl

theorem Family.u1U2Entry : ∀ a0 a1, Family.Statement (.u1U2Entry a0 a1) := by
  intros; intro _ _; rfl

theorem Family.lpmToken : ∀ a0, Family.Statement (.lpmToken a0) := by
  intros; intro _ _; rfl

theorem Family.unsupportedRequest : ∀ a0 a1, Family.Statement (.unsupportedRequest a0 a1) := by
  intros; intro _ _; rfl

theorem Family.setConfiguration : ∀ a0 a1 a2, Family.Statement (.setConfiguration a0 a1 a2) := by
  intros; intro _ _; rfl

theorem Family.setInterface : ∀ a0 a1 a2, Family.Statement (.setInterface a0 a1 a2) := by
  intros; intro _ _; rfl

theorem Family.clearEndpointHalt : ∀ a0 a1 a2, Family.Statement (.clearEndpointHalt a0 a1 a2) := by
  intros; intro h m
  simp only [Instr.wf, Bool.and_eq_true] at h ⊢
  exact ⟨wfPort_mono m h.1, h.2⟩

theorem Family.hubStatusPoll : ∀ a0, Family.Statement (.hubStatusPoll a0) := by
  intros; intro _ _; rfl

theorem Family.clearPortPower : ∀ a0 a1, Family.Statement (.clearPortPower a0 a1) := by
  intros; intro _ _; rfl

theorem Family.setPortPower : ∀ a0 a1, Family.Statement (.setPortPower a0 a1) := by
  intros; intro _ _; rfl

theorem Family.portReset : ∀ a0 a1, Family.Statement (.portReset a0 a1) := by
  intros; intro _ _; rfl

theorem Family.bhPortReset : ∀ a0 a1, Family.Statement (.bhPortReset a0 a1) := by
  intros; intro _ _; rfl

theorem Family.embPortResetDone : ∀ a0 a1, Family.Statement (.embPortResetDone a0 a1) := by
  intros; intro _ _; rfl

theorem Family.clearPortEnable : ∀ a0 a1, Family.Statement (.clearPortEnable a0 a1) := by
  intros; intro _ _; rfl

theorem Family.portSuspend : ∀ a0 a1, Family.Statement (.portSuspend a0 a1) := by
  intros; intro _ _; rfl

theorem Family.clearCPortConnection : ∀ a0 a1, Family.Statement (.clearCPortConnection a0 a1) := by
  intros; intro _ _; rfl

theorem Family.clearTtBuffer : ∀ a0, Family.Statement (.clearTtBuffer a0) := by
  intros; intro _ _; rfl

theorem Family.resetTt : ∀ a0, Family.Statement (.resetTt a0) := by
  intros; intro _ _; rfl

theorem Family.info : ∀ a0 a1, Family.Statement (.info a0 a1) := by
  intros; intro _ _; rfl

theorem Family.reg : ∀ a0 a1 a2, Family.Statement (.reg a0 a1 a2) := by
  intros; intro _ _; rfl

theorem Family.regEntry : ∀ a0, Family.Statement (.regEntry a0) := by
  intros; intro _ _; rfl

theorem Family.echo : ∀ a0 a1 a2, Family.Statement (.echo a0 a1 a2) := by
  intros; intro _ _; rfl

theorem Family.unlock : ∀ a0 a1 a2 a3 a4, Family.Statement (.unlock a0 a1 a2 a3 a4) := by
  intros; intro _ _; rfl

theorem Family.retryCounted : ∀ a0, Family.Statement (.retryCounted a0) := by
  intros; intro _ _; rfl

theorem Family.keyRecordWritten : ∀ a0, Family.Statement (.keyRecordWritten a0) := by
  intros; intro _ _; rfl

theorem Family.lock : ∀ a0 a1 a2, Family.Statement (.lock a0 a1 a2) := by
  intros; intro _ _; rfl

theorem Family.lockDemote : ∀ a0 a1 a2, Family.Statement (.lockDemote a0 a1 a2) := by
  intros; intro _ _; rfl

theorem Family.setSecret : ∀ a0 a1 a2 a3, Family.Statement (.setSecret a0 a1 a2 a3) := by
  intros; intro _ _; rfl

theorem Family.rewrap : ∀ a0 a1 a2 a3 a4, Family.Statement (.rewrap a0 a1 a2 a3 a4) := by
  intros; intro _ _; rfl

theorem Family.testUnitReady : ∀ a0, Family.Statement (.testUnitReady a0) := by
  intros; intro _ _; rfl

theorem Family.requestSense : ∀ a0 a1 a2, Family.Statement (.requestSense a0 a1 a2) := by
  intros; intro _ _; rfl

theorem Family.inquiry : ∀ a0 a1 a2 a3, Family.Statement (.inquiry a0 a1 a2 a3) := by
  intros; intro _ _; rfl

theorem Family.reportLuns : ∀ a0 a1 a2, Family.Statement (.reportLuns a0 a1 a2) := by
  intros; intro _ _; rfl

theorem Family.readCapacity10 : ∀ a0, Family.Statement (.readCapacity10 a0) := by
  intros; intro _ _; rfl

theorem Family.readCapacity16 : ∀ a0 a1, Family.Statement (.readCapacity16 a0 a1) := by
  intros; intro _ _; rfl

theorem Family.read10 : ∀ a0 a1 a2 a3 a4, Family.Statement (.read10 a0 a1 a2 a3 a4) := by
  intros; intro h m; exact wfKey_mono m h

theorem Family.read16 : ∀ a0 a1 a2 a3 a4, Family.Statement (.read16 a0 a1 a2 a3 a4) := by
  intros; intro h m; exact wfKey_mono m h

theorem Family.write10 : ∀ a0 a1 a2 a3 a4, Family.Statement (.write10 a0 a1 a2 a3 a4) := by
  intros; intro h m; exact wfKey_mono m h

theorem Family.write16 : ∀ a0 a1 a2 a3 a4, Family.Statement (.write16 a0 a1 a2 a3 a4) := by
  intros; intro h m; exact wfKey_mono m h

theorem Family.synchronizeCache10 : ∀ a0 a1 a2 a3 a4 a5, Family.Statement (.synchronizeCache10 a0 a1 a2 a3 a4 a5) := by
  intros; intro _ _; rfl

theorem Family.synchronizeCache16 : ∀ a0 a1 a2 a3 a4 a5, Family.Statement (.synchronizeCache16 a0 a1 a2 a3 a4 a5) := by
  intros; intro _ _; rfl

theorem Family.unmap : ∀ a0 a1 a2 a3 a4, Family.Statement (.unmap a0 a1 a2 a3 a4) := by
  intros; intro _ _; rfl

theorem Family.unmapParameterList : ∀ a0 a1 a2, Family.Statement (.unmapParameterList a0 a1 a2) := by
  intros; intro _ _; rfl

theorem Family.sanitize : ∀ a0 a1 a2 a3 a4, Family.Statement (.sanitize a0 a1 a2 a3 a4) := by
  intros; intro _ _; rfl

theorem Family.sanitizeComplete : ∀ a0, Family.Statement (.sanitizeComplete a0) := by
  intros; intro _ _; rfl

theorem Family.startStopUnitStop : ∀ a0 a1 a2, Family.Statement (.startStopUnitStop a0 a1 a2) := by
  intros; intro _ _; rfl

theorem Family.startStopUnitStart : ∀ a0 a1, Family.Statement (.startStopUnitStart a0 a1) := by
  intros; intro _ _; rfl

theorem Family.modeSense10 : ∀ a0 a1 a2 a3, Family.Statement (.modeSense10 a0 a1 a2 a3) := by
  intros; intro _ _; rfl

theorem Family.securityProtocolIn : ∀ a0 a1 a2 a3, Family.Statement (.securityProtocolIn a0 a1 a2 a3) := by
  intros; intro _ _; rfl

theorem Family.unsupportedCdb : ∀ a0 a1, Family.Statement (.unsupportedCdb a0 a1) := by
  intros; intro _ _; rfl

theorem Family.abortTask : ∀ a0, Family.Statement (.abortTask a0) := by
  intros; intro _ _; rfl

theorem Family.abortTaskSet : ∀ a0, Family.Statement (.abortTaskSet a0) := by
  intros; intro _ _; rfl

theorem Family.clearTaskSet : ∀ a0, Family.Statement (.clearTaskSet a0) := by
  intros; intro _ _; rfl

theorem Family.logicalUnitReset : ∀ a0, Family.Statement (.logicalUnitReset a0) := by
  intros; intro _ _; rfl

theorem Family.iTNexusReset : ∀ a0, Family.Statement (.iTNexusReset a0) := by
  intros; intro _ _; rfl

theorem Family.queryTask : ∀ a0, Family.Statement (.queryTask a0) := by
  intros; intro _ _; rfl

theorem Family.massStorageReset : ∀ a0 a1, Family.Statement (.massStorageReset a0 a1) := by
  intros; intro _ _; rfl

theorem Family.getMaxLun : ∀ a0 a1, Family.Statement (.getMaxLun a0 a1) := by
  intros; intro _ _; rfl

theorem Family.put : ∀ a0 a1 a2 a3 a4, Family.Statement (.put a0 a1 a2 a3 a4) := by
  intros; intro h m
  simp only [Instr.wf, Bool.and_eq_true] at h ⊢
  exact ⟨⟨wfKey_mono m h.1.1, h.1.2⟩, h.2⟩

theorem Family.get : ∀ a0 a1, Family.Statement (.get a0 a1) := by
  intros; intro _ _; rfl

theorem Family.list : ∀ a0 a1 a2, Family.Statement (.list a0 a1 a2) := by
  intros; intro _ _; rfl

theorem Family.delete : ∀ a0 a1 a2, Family.Statement (.delete a0 a1 a2) := by
  intros; intro _ _; rfl

theorem Family.semTake : ∀ a0 a1, Family.Statement (.semTake a0 a1) := by
  intros; intro h m
  simp only [Instr.wf, Bool.and_eq_true, decide_eq_true_eq] at h ⊢
  have := carriesId_mono m h.1
  simp_all

theorem Family.semRelease : ∀ a0 a1, Family.Statement (.semRelease a0 a1) := by
  intros; intro h m
  simp only [Instr.wf, Bool.and_eq_true, decide_eq_true_eq] at h ⊢
  have := carriesId_mono m h.1
  simp_all

theorem Family.semForce : ∀ a0 a1, Family.Statement (.semForce a0 a1) := by
  intros; intro h m
  simp only [Instr.wf, Bool.and_eq_true, decide_eq_true_eq] at h ⊢
  have := carriesId_mono m h.1
  simp_all

theorem Family.bulkRekey : ∀ a0 a1, Family.Statement (.bulkRekey a0 a1) := by
  intros; intro h m
  have := plots_mono m
  simp only [Instr.wf, Bool.and_eq_true, decide_eq_true_eq] at h ⊢
  have := carriesId_mono m h.1
  simp only [this, true_and]; omega

theorem Family.plotErase : ∀ a0 a1 a2, Family.Statement (.plotErase a0 a1 a2) := by
  intros; intro h m
  have := plots_mono m
  simp only [Instr.wf, Bool.and_eq_true, decide_eq_true_eq] at h ⊢
  have := carriesId_mono m h.1
  simp only [this, true_and]; omega

theorem Family.rdpLevel1 : ∀ a0 a1, Family.Statement (.rdpLevel1 a0 a1) := by
  intros; intro h m
  exact carriesId_mono m h

theorem Family.rdpLevel2 : ∀ a0 a1, Family.Statement (.rdpLevel2 a0 a1) := by
  intros; intro h m
  exact carriesId_mono m h

theorem Family.rdpLower : ∀ a0 a1, Family.Statement (.rdpLower a0 a1) := by
  intros; intro h m
  exact carriesId_mono m h

theorem Family.loweringComplete : Family.Statement .loweringComplete := by
  intro _ _; rfl

theorem Family.rootGen : ∀ a0, Family.Statement (.rootGen a0) := by
  intros; intro h m
  exact carriesId_mono m h

theorem Family.wallTime : ∀ a0 a1, Family.Statement (.wallTime a0 a1) := by
  intros; intro h m
  exact carriesId_mono m h

theorem Family.pwrFail : Family.Statement .pwrFail := by
  intro _ _; rfl

theorem Family.holdupRelease : Family.Statement .holdupRelease := by
  intro _ _; rfl

theorem Family.holdupLost : Family.Statement .holdupLost := by
  intro _ _; rfl

theorem Family.grnKey : ∀ a0 a1, Family.Statement (.grnKey a0 a1) := by
  intros; intro h m
  exact carriesId_mono m h

theorem Family.grnRead : ∀ a0 a1 a2 a3, Family.Statement (.grnRead a0 a1 a2 a3) := by
  intros; intro h m
  exact carriesId_mono m h

theorem Family.grnProgram : ∀ a0 a1 a2 a3, Family.Statement (.grnProgram a0 a1 a2 a3) := by
  intros; intro h m
  exact carriesId_mono m h

theorem Family.grnErase : ∀ a0 a1 a2 a3, Family.Statement (.grnErase a0 a1 a2 a3) := by
  intros; intro h m
  exact carriesId_mono m h

theorem Family.grnSuspend : ∀ a0, Family.Statement (.grnSuspend a0) := by
  intros; intro h m
  exact carriesId_mono m h

theorem Family.grnResume : ∀ a0, Family.Statement (.grnResume a0) := by
  intros; intro h m
  exact carriesId_mono m h

theorem Family.grnInc : ∀ a0, Family.Statement (.grnInc a0) := by
  intros; intro h m
  exact carriesId_mono m h

theorem Family.grnCommandDone : ∀ a0 a1 a2 a3, Family.Statement (.grnCommandDone a0 a1 a2 a3) := by
  intros; intro _ _; rfl

theorem Family.eraseSuspendDue : Family.Statement .eraseSuspendDue := by
  intro _ _; rfl

theorem Family.eraseAutoResume : Family.Statement .eraseAutoResume := by
  intro _ _; rfl

theorem Family.windowAdvance : ∀ a0, Family.Statement (.windowAdvance a0) := by
  intros; intro _ _; rfl

theorem Family.apertureAccess : ∀ a0 a1 a2 a3 a4, Family.Statement (.apertureAccess a0 a1 a2 a3 a4) := by
  intros; intro h m
  simp only [Instr.wf, Bool.and_eq_true, decide_eq_true_eq] at h ⊢
  have := carriesId_mono m h.1.1
  simp_all

theorem Family.eccWriteback : ∀ a0 a1, Family.Statement (.eccWriteback a0 a1) := by
  intros; intro h m
  have := banks_mono m
  simp only [Instr.wf, Bool.and_eq_true, decide_eq_true_eq] at h ⊢
  omega

theorem Family.bnkHandover : ∀ a0 a1 a2 a3, Family.Statement (.bnkHandover a0 a1 a2 a3) := by
  intros; intro h m
  have := banks_mono m
  simp only [Instr.wf, Bool.and_eq_true, decide_eq_true_eq] at h ⊢
  have := carriesId_mono m h.1
  simp only [this, true_and]; omega

theorem Family.bnkSeize : ∀ a0 a1, Family.Statement (.bnkSeize a0 a1) := by
  intros; intro h m
  have := banks_mono m
  simp only [Instr.wf, Bool.and_eq_true, decide_eq_true_eq] at h ⊢
  have := carriesId_mono m h.1
  simp only [this, true_and]; omega

theorem Family.scrubDone : ∀ a0, Family.Statement (.scrubDone a0) := by
  intros; intro h m
  have := banks_mono m
  simp only [Instr.wf, decide_eq_true_eq] at h ⊢
  omega

theorem Family.add32 : ∀ a0, Family.Statement (.add32 a0) := by
  intros; intro h m
  exact carriesId_mono m h

theorem Family.add64 : ∀ a0, Family.Statement (.add64 a0) := by
  intros; intro h m
  exact carriesId_mono m h

theorem Family.swap32 : ∀ a0, Family.Statement (.swap32 a0) := by
  intros; intro h m
  exact carriesId_mono m h

theorem Family.swap64 : ∀ a0, Family.Statement (.swap64 a0) := by
  intros; intro h m
  exact carriesId_mono m h

theorem Family.mpuRegionWrite : ∀ a0 a1 a2 a3, Family.Statement (.mpuRegionWrite a0 a1 a2 a3) := by
  intros; intro h m
  have := mpuRegions_mono m
  simp only [Instr.wf, Bool.and_eq_true, decide_eq_true_eq] at h ⊢
  have := carriesId_mono m h.1.1
  simp only [this, true_and]; omega

theorem Family.mpuLock : ∀ a0, Family.Statement (.mpuLock a0) := by
  intros; intro h m
  exact carriesId_mono m h

theorem Family.mpuVioAck : ∀ a0 a1, Family.Statement (.mpuVioAck a0 a1) := by
  intros; intro h m
  exact carriesId_mono m h

theorem Family.linkUp : ∀ a0, Family.Statement (.linkUp a0) := by
  intros; intro _ _; rfl

theorem Family.laneLoss : ∀ a0 a1, Family.Statement (.laneLoss a0 a1) := by
  intros; intro _ _; rfl

theorem Family.replayTimeout : ∀ a0, Family.Statement (.replayTimeout a0) := by
  intros; intro _ _; rfl

theorem Family.linkRetrain : ∀ a0, Family.Statement (.linkRetrain a0) := by
  intros; intro _ _; rfl

theorem Family.ack : ∀ a0, Family.Statement (.ack a0) := by
  intros; intro h m; exact h

theorem Family.nak : ∀ a0, Family.Statement (.nak a0) := by
  intros; intro h m; exact h

theorem Family.hello : ∀ a0 a1 a2 a3 a4 a5, Family.Statement (.hello a0 a1 a2 a3 a4 a5) := by
  intros; intro _ _; rfl

theorem Family.linkdown : ∀ a0 a1 a2, Family.Statement (.linkdown a0 a1 a2) := by
  intros; intro _ _; rfl

theorem Family.leave : ∀ a0 a1, Family.Statement (.leave a0 a1) := by
  intros; intro _ _; rfl

theorem Family.enum : ∀ a0 a1, Family.Statement (.enum a0 a1) := by
  intros; intro _ _; rfl

theorem Family.confirm : ∀ a0 a1 a2 a3, Family.Statement (.confirm a0 a1 a2 a3) := by
  intros; intro _ _; rfl

theorem Family.keyx : ∀ a0 a1, Family.Statement (.keyx a0 a1) := by
  intros; intro _ _; rfl

theorem Family.time : ∀ a0 a1 a2, Family.Statement (.time a0 a1 a2) := by
  intros; intro _ _; rfl

theorem Family.safe : ∀ a0 a1 a2, Family.Statement (.safe a0 a1 a2) := by
  intros; intro _ _; rfl

theorem Family.regFrame : ∀ a0 a1, Family.Statement (.regFrame a0 a1) := by
  intros; intro h m; exact h

theorem Family.regRsp : ∀ a0 a1 a2, Family.Statement (.regRsp a0 a1 a2) := by
  intros; intro _ _; rfl

theorem Family.ioReq : ∀ a0 a1 a2 a3, Family.Statement (.ioReq a0 a1 a2 a3) := by
  intros; intro _ _; rfl

theorem Family.ioRsp : ∀ a0 a1 a2 a3 a4 a5 a6, Family.Statement (.ioRsp a0 a1 a2 a3 a4 a5 a6) := by
  intros; intro _ _; rfl

theorem Family.blkHead : ∀ a0 a1, Family.Statement (.blkHead a0 a1) := by
  intros; intro h m; exact h

theorem Family.blkData : ∀ a0 a1, Family.Statement (.blkData a0 a1) := by
  intros; intro h m; exact h

theorem Family.blkAck : ∀ a0 a1, Family.Statement (.blkAck a0 a1) := by
  intros; intro _ _; rfl

theorem Family.blkResend : ∀ a0, Family.Statement (.blkResend a0) := by
  intros; intro _ _; rfl

theorem Family.pageRel : ∀ a0 a1 a2 a3, Family.Statement (.pageRel a0 a1 a2 a3) := by
  intros; intro _ _; rfl

theorem Family.pageDone : ∀ a0 a1 a2, Family.Statement (.pageDone a0 a1 a2) := by
  intros; intro _ _; rfl

theorem Family.readReq : ∀ a0 a1 a2, Family.Statement (.readReq a0 a1 a2) := by
  intros; intro _ _; rfl

theorem Family.key : ∀ a0 a1 a2 a3 a4, Family.Statement (.key a0 a1 a2 a3 a4) := by
  intros; intro _ _; rfl

theorem Family.keyclr : ∀ a0 a1, Family.Statement (.keyclr a0 a1) := by
  intros; intro _ _; rfl

theorem Family.brec : ∀ a0 a1, Family.Statement (.brec a0 a1) := by
  intros; intro h m; exact h

theorem Family.scan : ∀ a0 a1, Family.Statement (.scan a0 a1) := by
  intros; intro _ _; rfl

theorem Family.scanRsp : ∀ a0 a1, Family.Statement (.scanRsp a0 a1) := by
  intros; intro _ _; rfl

theorem Family.eventFrame : ∀ a0 a1, Family.Statement (.eventFrame a0 a1) := by
  intros; intro _ _; rfl

theorem Family.unknownFrame : ∀ a0 a1 a2, Family.Statement (.unknownFrame a0 a1 a2) := by
  intros; intro _ _; rfl

theorem Family.enumResend : Family.Statement .enumResend := by
  intro _ _; rfl

theorem Family.enumWindowClose : Family.Statement .enumWindowClose := by
  intro _ _; rfl

theorem Family.loneTimeout : Family.Statement .loneTimeout := by
  intro _ _; rfl

theorem Family.requestTimeout : ∀ a0, Family.Statement (.requestTimeout a0) := by
  intros; intro _ _; rfl

theorem Family.absentTimeout : ∀ a0, Family.Statement (.absentTimeout a0) := by
  intros; intro _ _; rfl

theorem Family.timePeriod : Family.Statement .timePeriod := by
  intro _ _; rfl

theorem Family.masterLost : Family.Statement .masterLost := by
  intro _ _; rfl

theorem Family.stkRemoteRead : ∀ a0, Family.Statement (.stkRemoteRead a0) := by
  intros; intro h m
  exact carriesId_mono m h

theorem Family.stkRemoteWrite : ∀ a0, Family.Statement (.stkRemoteWrite a0) := by
  intros; intro h m
  exact carriesId_mono m h

theorem Family.reEnumerate : ∀ a0, Family.Statement (.reEnumerate a0) := by
  intros; intro h m
  exact carriesId_mono m h

theorem Family.jtagExtest : ∀ a0, Family.Statement (.jtagExtest a0) := by
  intros; intro _ _; rfl

theorem Family.jtagIdcode : Family.Statement .jtagIdcode := by
  intro _ _; rfl

theorem Family.jtagSamplePreload : ∀ a0 a1, Family.Statement (.jtagSamplePreload a0 a1) := by
  intros; intro _ _; rfl

theorem Family.jtagCspace : ∀ a0 a1 a2, Family.Statement (.jtagCspace a0 a1 a2) := by
  intros; intro _ _; rfl

theorem Family.jtagReset : Family.Statement .jtagReset := by
  intro _ _; rfl

theorem Family.jtagBypass : ∀ a0, Family.Statement (.jtagBypass a0) := by
  intros; intro _ _; rfl

theorem Family.holdupOkAsserted : Family.Statement .holdupOkAsserted := by
  intro _ _; rfl

theorem Family.linkFrameError : ∀ a0 a1 a2, Family.Statement (.linkFrameError a0 a1 a2) := by
  intros; intro _ _; rfl

theorem Family.capsuleRefused : ∀ a0 a1 a2, Family.Statement (.capsuleRefused a0 a1 a2) := by
  intros; intro _ _; rfl

theorem Family.ssBulkTransaction : ∀ a0 a1 a2 a3, Family.Statement (.ssBulkTransaction a0 a1 a2 a3) := by
  intros; intro h m
  simp only [Instr.wf, Bool.and_eq_true] at h ⊢
  exact ⟨wfPort_mono m h.1, h.2⟩

theorem Family.setFeatureDevice : ∀ a0 a1 a2, Family.Statement (.setFeatureDevice a0 a1 a2) := by
  intros; intro _ _; rfl

theorem Family.bulkInTransfer : ∀ a0 a1 a2, Family.Statement (.bulkInTransfer a0 a1 a2) := by
  intros; intro _ _; rfl

end Sys2Proof.Laws
end

