-- ==== Sys2Proof/Laws/State.lean ====
section
/-! SUPPORT. What each update of one part of the state leaves in every part, so that no later proof unfolds a record update. -/

namespace Sys2Proof.Machine

variable (s : State)

/-! `modArb` -/

@[simp] theorem State.modArb_member (f : ArbState → ArbState) : (s.modArb f).member = s.member := rfl
@[simp] theorem State.modArb_stepping (f : ArbState → ArbState) : (s.modArb f).stepping = s.stepping := rfl
@[simp] theorem State.modArb_timeUs (f : ArbState → ArbState) : (s.modArb f).timeUs = s.timeUs := rfl
@[simp] theorem State.modArb_free (f : ArbState → ArbState) : (s.modArb f).free = s.free := rfl
@[simp] theorem State.modArb_pending (f : ArbState → ArbState) : (s.modArb f).pending = s.pending := rfl
@[simp] theorem State.modArb_snaps (f : ArbState → ArbState) : (s.modArb f).snaps = s.snaps := rfl
@[simp] theorem State.modArb_replies (f : ArbState → ArbState) : (s.modArb f).replies = s.replies := rfl
@[simp] theorem State.modArb_arb (f : ArbState → ArbState) : (s.modArb f).arb = f s.arb := rfl
@[simp] theorem State.modArb_engines (f : ArbState → ArbState) : (s.modArb f).engines = s.engines := rfl
@[simp] theorem State.modArb_saf (f : ArbState → ArbState) : (s.modArb f).saf = s.saf := rfl
@[simp] theorem State.modArb_lay (f : ArbState → ArbState) : (s.modArb f).lay = s.lay := rfl
@[simp] theorem State.modArb_pwr (f : ArbState → ArbState) : (s.modArb f).pwr = s.pwr := rfl
@[simp] theorem State.modArb_portA (f : ArbState → ArbState) : (s.modArb f).portA = s.portA := rfl
@[simp] theorem State.modArb_portB (f : ArbState → ArbState) : (s.modArb f).portB = s.portB := rfl
@[simp] theorem State.modArb_fn (f : ArbState → ArbState) : (s.modArb f).fn = s.fn := rfl
@[simp] theorem State.modArb_sem (f : ArbState → ArbState) : (s.modArb f).sem = s.sem := rfl
@[simp] theorem State.modArb_plots (f : ArbState → ArbState) : (s.modArb f).plots = s.plots := rfl
@[simp] theorem State.modArb_sec (f : ArbState → ArbState) : (s.modArb f).sec = s.sec := rfl
@[simp] theorem State.modArb_fields (f : ArbState → ArbState) : (s.modArb f).fields = s.fields := rfl
@[simp] theorem State.modArb_wall (f : ArbState → ArbState) : (s.modArb f).wall = s.wall := rfl
@[simp] theorem State.modArb_hold (f : ArbState → ArbState) : (s.modArb f).hold = s.hold := rfl
@[simp] theorem State.modArb_chans (f : ArbState → ArbState) : (s.modArb f).chans = s.chans := rfl
@[simp] theorem State.modArb_grn (f : ArbState → ArbState) : (s.modArb f).grn = s.grn := rfl
@[simp] theorem State.modArb_banks (f : ArbState → ArbState) : (s.modArb f).banks = s.banks := rfl
@[simp] theorem State.modArb_bankMem (f : ArbState → ArbState) : (s.modArb f).bankMem = s.bankMem := rfl
@[simp] theorem State.modArb_bankBad (f : ArbState → ArbState) : (s.modArb f).bankBad = s.bankBad := rfl
@[simp] theorem State.modArb_wins (f : ArbState → ArbState) : (s.modArb f).wins = s.wins := rfl
@[simp] theorem State.modArb_mpu (f : ArbState → ArbState) : (s.modArb f).mpu = s.mpu := rfl
@[simp] theorem State.modArb_stk (f : ArbState → ArbState) : (s.modArb f).stk = s.stk := rfl
@[simp] theorem State.modArb_jtag (f : ArbState → ArbState) : (s.modArb f).jtag = s.jtag := rfl
@[simp] theorem State.modArb_port (f : ArbState → ArbState) (q : Port) : (s.modArb f).port q = s.port q := rfl
@[simp] theorem State.modArb_pfn (f : ArbState → ArbState) (q : Port) : (s.modArb f).pfn q = s.pfn q := rfl
@[simp] theorem State.modArb_plot (f : ArbState → ArbState) (k : Nat) : (s.modArb f).plot k = s.plot k := rfl
@[simp] theorem State.modArb_field (f : ArbState → ArbState) (k : Nat) : (s.modArb f).field k = s.field k := rfl
@[simp] theorem State.modArb_chan (f : ArbState → ArbState) (k : Nat) : (s.modArb f).chan k = s.chan k := rfl
@[simp] theorem State.modArb_engine (f : ArbState → ArbState) (k : Nat) : (s.modArb f).engine k = s.engine k := rfl
@[simp] theorem State.modArb_bank (f : ArbState → ArbState) (k : Nat) : (s.modArb f).bank k = s.bank k := rfl
@[simp] theorem State.modArb_layout (f : ArbState → ArbState) : (s.modArb f).layout = s.layout := rfl
@[simp] theorem State.modArb_hasLayout (f : ArbState → ArbState) : (s.modArb f).hasLayout = s.hasLayout := rfl
@[simp] theorem State.modArb_chanCfg? (f : ArbState → ArbState) (k : Nat) : (s.modArb f).chanCfg? k = s.chanCfg? k := rfl
@[simp] theorem State.modArb_fieldCfg? (f : ArbState → ArbState) (k : Nat) : (s.modArb f).fieldCfg? k = s.fieldCfg? k := rfl
@[simp] theorem State.modArb_plotCfg? (f : ArbState → ArbState) (k : Nat) : (s.modArb f).plotCfg? k = s.plotCfg? k := rfl
@[simp] theorem State.modArb_plotList (f : ArbState → ArbState) : (s.modArb f).plotList = s.plotList := rfl
@[simp] theorem State.modArb_fieldList (f : ArbState → ArbState) : (s.modArb f).fieldList = s.fieldList := rfl
@[simp] theorem State.modArb_semOwner (f : ArbState → ArbState) (k : Nat) : (s.modArb f).semOwner k = s.semOwner k := rfl
@[simp] theorem State.modArb_holdsSem (f : ArbState → ArbState) (i : Identity) (k : Nat) : (s.modArb f).holdsSem i k = s.holdsSem i k := rfl
@[simp] theorem State.modArb_writeLocked (f : ArbState → ArbState) (i : Identity) : (s.modArb f).writeLocked i = s.writeLocked i := rfl
@[simp] theorem State.modArb_deviceScope (f : ArbState → ArbState) : (s.modArb f).deviceScope = s.deviceScope := rfl
@[simp] theorem State.modArb_stackScope (f : ArbState → ArbState) : (s.modArb f).stackScope = s.stackScope := rfl
@[simp] theorem State.modArb_inScope (f : ArbState → ArbState) (k i : Nat) : (s.modArb f).inScope k i = s.inScope k i := rfl

/-! `modSaf` -/

@[simp] theorem State.modSaf_member (f : SafState → SafState) : (s.modSaf f).member = s.member := rfl
@[simp] theorem State.modSaf_stepping (f : SafState → SafState) : (s.modSaf f).stepping = s.stepping := rfl
@[simp] theorem State.modSaf_timeUs (f : SafState → SafState) : (s.modSaf f).timeUs = s.timeUs := rfl
@[simp] theorem State.modSaf_free (f : SafState → SafState) : (s.modSaf f).free = s.free := rfl
@[simp] theorem State.modSaf_pending (f : SafState → SafState) : (s.modSaf f).pending = s.pending := rfl
@[simp] theorem State.modSaf_snaps (f : SafState → SafState) : (s.modSaf f).snaps = s.snaps := rfl
@[simp] theorem State.modSaf_replies (f : SafState → SafState) : (s.modSaf f).replies = s.replies := rfl
@[simp] theorem State.modSaf_arb (f : SafState → SafState) : (s.modSaf f).arb = s.arb := rfl
@[simp] theorem State.modSaf_engines (f : SafState → SafState) : (s.modSaf f).engines = s.engines := rfl
@[simp] theorem State.modSaf_saf (f : SafState → SafState) : (s.modSaf f).saf = f s.saf := rfl
@[simp] theorem State.modSaf_lay (f : SafState → SafState) : (s.modSaf f).lay = s.lay := rfl
@[simp] theorem State.modSaf_pwr (f : SafState → SafState) : (s.modSaf f).pwr = s.pwr := rfl
@[simp] theorem State.modSaf_portA (f : SafState → SafState) : (s.modSaf f).portA = s.portA := rfl
@[simp] theorem State.modSaf_portB (f : SafState → SafState) : (s.modSaf f).portB = s.portB := rfl
@[simp] theorem State.modSaf_fn (f : SafState → SafState) : (s.modSaf f).fn = s.fn := rfl
@[simp] theorem State.modSaf_sem (f : SafState → SafState) : (s.modSaf f).sem = s.sem := rfl
@[simp] theorem State.modSaf_plots (f : SafState → SafState) : (s.modSaf f).plots = s.plots := rfl
@[simp] theorem State.modSaf_sec (f : SafState → SafState) : (s.modSaf f).sec = s.sec := rfl
@[simp] theorem State.modSaf_fields (f : SafState → SafState) : (s.modSaf f).fields = s.fields := rfl
@[simp] theorem State.modSaf_wall (f : SafState → SafState) : (s.modSaf f).wall = s.wall := rfl
@[simp] theorem State.modSaf_hold (f : SafState → SafState) : (s.modSaf f).hold = s.hold := rfl
@[simp] theorem State.modSaf_chans (f : SafState → SafState) : (s.modSaf f).chans = s.chans := rfl
@[simp] theorem State.modSaf_grn (f : SafState → SafState) : (s.modSaf f).grn = s.grn := rfl
@[simp] theorem State.modSaf_banks (f : SafState → SafState) : (s.modSaf f).banks = s.banks := rfl
@[simp] theorem State.modSaf_bankMem (f : SafState → SafState) : (s.modSaf f).bankMem = s.bankMem := rfl
@[simp] theorem State.modSaf_bankBad (f : SafState → SafState) : (s.modSaf f).bankBad = s.bankBad := rfl
@[simp] theorem State.modSaf_wins (f : SafState → SafState) : (s.modSaf f).wins = s.wins := rfl
@[simp] theorem State.modSaf_mpu (f : SafState → SafState) : (s.modSaf f).mpu = s.mpu := rfl
@[simp] theorem State.modSaf_stk (f : SafState → SafState) : (s.modSaf f).stk = s.stk := rfl
@[simp] theorem State.modSaf_jtag (f : SafState → SafState) : (s.modSaf f).jtag = s.jtag := rfl
@[simp] theorem State.modSaf_port (f : SafState → SafState) (q : Port) : (s.modSaf f).port q = s.port q := rfl
@[simp] theorem State.modSaf_pfn (f : SafState → SafState) (q : Port) : (s.modSaf f).pfn q = s.pfn q := rfl
@[simp] theorem State.modSaf_plot (f : SafState → SafState) (k : Nat) : (s.modSaf f).plot k = s.plot k := rfl
@[simp] theorem State.modSaf_field (f : SafState → SafState) (k : Nat) : (s.modSaf f).field k = s.field k := rfl
@[simp] theorem State.modSaf_chan (f : SafState → SafState) (k : Nat) : (s.modSaf f).chan k = s.chan k := rfl
@[simp] theorem State.modSaf_engine (f : SafState → SafState) (k : Nat) : (s.modSaf f).engine k = s.engine k := rfl
@[simp] theorem State.modSaf_bank (f : SafState → SafState) (k : Nat) : (s.modSaf f).bank k = s.bank k := rfl
@[simp] theorem State.modSaf_layout (f : SafState → SafState) : (s.modSaf f).layout = s.layout := rfl
@[simp] theorem State.modSaf_hasLayout (f : SafState → SafState) : (s.modSaf f).hasLayout = s.hasLayout := rfl
@[simp] theorem State.modSaf_chanCfg? (f : SafState → SafState) (k : Nat) : (s.modSaf f).chanCfg? k = s.chanCfg? k := rfl
@[simp] theorem State.modSaf_fieldCfg? (f : SafState → SafState) (k : Nat) : (s.modSaf f).fieldCfg? k = s.fieldCfg? k := rfl
@[simp] theorem State.modSaf_plotCfg? (f : SafState → SafState) (k : Nat) : (s.modSaf f).plotCfg? k = s.plotCfg? k := rfl
@[simp] theorem State.modSaf_plotList (f : SafState → SafState) : (s.modSaf f).plotList = s.plotList := rfl
@[simp] theorem State.modSaf_fieldList (f : SafState → SafState) : (s.modSaf f).fieldList = s.fieldList := rfl
@[simp] theorem State.modSaf_semOwner (f : SafState → SafState) (k : Nat) : (s.modSaf f).semOwner k = s.semOwner k := rfl
@[simp] theorem State.modSaf_holdsSem (f : SafState → SafState) (i : Identity) (k : Nat) : (s.modSaf f).holdsSem i k = s.holdsSem i k := rfl
@[simp] theorem State.modSaf_writeLocked (f : SafState → SafState) (i : Identity) : (s.modSaf f).writeLocked i = s.writeLocked i := rfl

/-! `modLay` -/

@[simp] theorem State.modLay_member (f : LayState → LayState) : (s.modLay f).member = s.member := rfl
@[simp] theorem State.modLay_stepping (f : LayState → LayState) : (s.modLay f).stepping = s.stepping := rfl
@[simp] theorem State.modLay_timeUs (f : LayState → LayState) : (s.modLay f).timeUs = s.timeUs := rfl
@[simp] theorem State.modLay_free (f : LayState → LayState) : (s.modLay f).free = s.free := rfl
@[simp] theorem State.modLay_pending (f : LayState → LayState) : (s.modLay f).pending = s.pending := rfl
@[simp] theorem State.modLay_snaps (f : LayState → LayState) : (s.modLay f).snaps = s.snaps := rfl
@[simp] theorem State.modLay_replies (f : LayState → LayState) : (s.modLay f).replies = s.replies := rfl
@[simp] theorem State.modLay_arb (f : LayState → LayState) : (s.modLay f).arb = s.arb := rfl
@[simp] theorem State.modLay_engines (f : LayState → LayState) : (s.modLay f).engines = s.engines := rfl
@[simp] theorem State.modLay_saf (f : LayState → LayState) : (s.modLay f).saf = s.saf := rfl
@[simp] theorem State.modLay_lay (f : LayState → LayState) : (s.modLay f).lay = f s.lay := rfl
@[simp] theorem State.modLay_pwr (f : LayState → LayState) : (s.modLay f).pwr = s.pwr := rfl
@[simp] theorem State.modLay_portA (f : LayState → LayState) : (s.modLay f).portA = s.portA := rfl
@[simp] theorem State.modLay_portB (f : LayState → LayState) : (s.modLay f).portB = s.portB := rfl
@[simp] theorem State.modLay_fn (f : LayState → LayState) : (s.modLay f).fn = s.fn := rfl
@[simp] theorem State.modLay_sem (f : LayState → LayState) : (s.modLay f).sem = s.sem := rfl
@[simp] theorem State.modLay_plots (f : LayState → LayState) : (s.modLay f).plots = s.plots := rfl
@[simp] theorem State.modLay_sec (f : LayState → LayState) : (s.modLay f).sec = s.sec := rfl
@[simp] theorem State.modLay_fields (f : LayState → LayState) : (s.modLay f).fields = s.fields := rfl
@[simp] theorem State.modLay_wall (f : LayState → LayState) : (s.modLay f).wall = s.wall := rfl
@[simp] theorem State.modLay_hold (f : LayState → LayState) : (s.modLay f).hold = s.hold := rfl
@[simp] theorem State.modLay_chans (f : LayState → LayState) : (s.modLay f).chans = s.chans := rfl
@[simp] theorem State.modLay_grn (f : LayState → LayState) : (s.modLay f).grn = s.grn := rfl
@[simp] theorem State.modLay_banks (f : LayState → LayState) : (s.modLay f).banks = s.banks := rfl
@[simp] theorem State.modLay_bankMem (f : LayState → LayState) : (s.modLay f).bankMem = s.bankMem := rfl
@[simp] theorem State.modLay_bankBad (f : LayState → LayState) : (s.modLay f).bankBad = s.bankBad := rfl
@[simp] theorem State.modLay_wins (f : LayState → LayState) : (s.modLay f).wins = s.wins := rfl
@[simp] theorem State.modLay_mpu (f : LayState → LayState) : (s.modLay f).mpu = s.mpu := rfl
@[simp] theorem State.modLay_stk (f : LayState → LayState) : (s.modLay f).stk = s.stk := rfl
@[simp] theorem State.modLay_jtag (f : LayState → LayState) : (s.modLay f).jtag = s.jtag := rfl
@[simp] theorem State.modLay_port (f : LayState → LayState) (q : Port) : (s.modLay f).port q = s.port q := rfl
@[simp] theorem State.modLay_pfn (f : LayState → LayState) (q : Port) : (s.modLay f).pfn q = s.pfn q := rfl
@[simp] theorem State.modLay_plot (f : LayState → LayState) (k : Nat) : (s.modLay f).plot k = s.plot k := rfl
@[simp] theorem State.modLay_field (f : LayState → LayState) (k : Nat) : (s.modLay f).field k = s.field k := rfl
@[simp] theorem State.modLay_chan (f : LayState → LayState) (k : Nat) : (s.modLay f).chan k = s.chan k := rfl
@[simp] theorem State.modLay_engine (f : LayState → LayState) (k : Nat) : (s.modLay f).engine k = s.engine k := rfl
@[simp] theorem State.modLay_bank (f : LayState → LayState) (k : Nat) : (s.modLay f).bank k = s.bank k := rfl
@[simp] theorem State.modLay_semOwner (f : LayState → LayState) (k : Nat) : (s.modLay f).semOwner k = s.semOwner k := rfl
@[simp] theorem State.modLay_holdsSem (f : LayState → LayState) (i : Identity) (k : Nat) : (s.modLay f).holdsSem i k = s.holdsSem i k := rfl
@[simp] theorem State.modLay_writeLocked (f : LayState → LayState) (i : Identity) : (s.modLay f).writeLocked i = s.writeLocked i := rfl
@[simp] theorem State.modLay_deviceScope (f : LayState → LayState) : (s.modLay f).deviceScope = s.deviceScope := rfl
@[simp] theorem State.modLay_stackScope (f : LayState → LayState) : (s.modLay f).stackScope = s.stackScope := rfl
@[simp] theorem State.modLay_inScope (f : LayState → LayState) (k i : Nat) : (s.modLay f).inScope k i = s.inScope k i := rfl

/-! `modPwr` -/

@[simp] theorem State.modPwr_member (f : PwrState → PwrState) : (s.modPwr f).member = s.member := rfl
@[simp] theorem State.modPwr_stepping (f : PwrState → PwrState) : (s.modPwr f).stepping = s.stepping := rfl
@[simp] theorem State.modPwr_timeUs (f : PwrState → PwrState) : (s.modPwr f).timeUs = s.timeUs := rfl
@[simp] theorem State.modPwr_free (f : PwrState → PwrState) : (s.modPwr f).free = s.free := rfl
@[simp] theorem State.modPwr_pending (f : PwrState → PwrState) : (s.modPwr f).pending = s.pending := rfl
@[simp] theorem State.modPwr_snaps (f : PwrState → PwrState) : (s.modPwr f).snaps = s.snaps := rfl
@[simp] theorem State.modPwr_replies (f : PwrState → PwrState) : (s.modPwr f).replies = s.replies := rfl
@[simp] theorem State.modPwr_arb (f : PwrState → PwrState) : (s.modPwr f).arb = s.arb := rfl
@[simp] theorem State.modPwr_engines (f : PwrState → PwrState) : (s.modPwr f).engines = s.engines := rfl
@[simp] theorem State.modPwr_saf (f : PwrState → PwrState) : (s.modPwr f).saf = s.saf := rfl
@[simp] theorem State.modPwr_lay (f : PwrState → PwrState) : (s.modPwr f).lay = s.lay := rfl
@[simp] theorem State.modPwr_pwr (f : PwrState → PwrState) : (s.modPwr f).pwr = f s.pwr := rfl
@[simp] theorem State.modPwr_portA (f : PwrState → PwrState) : (s.modPwr f).portA = s.portA := rfl
@[simp] theorem State.modPwr_portB (f : PwrState → PwrState) : (s.modPwr f).portB = s.portB := rfl
@[simp] theorem State.modPwr_fn (f : PwrState → PwrState) : (s.modPwr f).fn = s.fn := rfl
@[simp] theorem State.modPwr_sem (f : PwrState → PwrState) : (s.modPwr f).sem = s.sem := rfl
@[simp] theorem State.modPwr_plots (f : PwrState → PwrState) : (s.modPwr f).plots = s.plots := rfl
@[simp] theorem State.modPwr_sec (f : PwrState → PwrState) : (s.modPwr f).sec = s.sec := rfl
@[simp] theorem State.modPwr_fields (f : PwrState → PwrState) : (s.modPwr f).fields = s.fields := rfl
@[simp] theorem State.modPwr_wall (f : PwrState → PwrState) : (s.modPwr f).wall = s.wall := rfl
@[simp] theorem State.modPwr_hold (f : PwrState → PwrState) : (s.modPwr f).hold = s.hold := rfl
@[simp] theorem State.modPwr_chans (f : PwrState → PwrState) : (s.modPwr f).chans = s.chans := rfl
@[simp] theorem State.modPwr_grn (f : PwrState → PwrState) : (s.modPwr f).grn = s.grn := rfl
@[simp] theorem State.modPwr_banks (f : PwrState → PwrState) : (s.modPwr f).banks = s.banks := rfl
@[simp] theorem State.modPwr_bankMem (f : PwrState → PwrState) : (s.modPwr f).bankMem = s.bankMem := rfl
@[simp] theorem State.modPwr_bankBad (f : PwrState → PwrState) : (s.modPwr f).bankBad = s.bankBad := rfl
@[simp] theorem State.modPwr_wins (f : PwrState → PwrState) : (s.modPwr f).wins = s.wins := rfl
@[simp] theorem State.modPwr_mpu (f : PwrState → PwrState) : (s.modPwr f).mpu = s.mpu := rfl
@[simp] theorem State.modPwr_stk (f : PwrState → PwrState) : (s.modPwr f).stk = s.stk := rfl
@[simp] theorem State.modPwr_jtag (f : PwrState → PwrState) : (s.modPwr f).jtag = s.jtag := rfl
@[simp] theorem State.modPwr_port (f : PwrState → PwrState) (q : Port) : (s.modPwr f).port q = s.port q := rfl
@[simp] theorem State.modPwr_pfn (f : PwrState → PwrState) (q : Port) : (s.modPwr f).pfn q = s.pfn q := rfl
@[simp] theorem State.modPwr_plot (f : PwrState → PwrState) (k : Nat) : (s.modPwr f).plot k = s.plot k := rfl
@[simp] theorem State.modPwr_field (f : PwrState → PwrState) (k : Nat) : (s.modPwr f).field k = s.field k := rfl
@[simp] theorem State.modPwr_chan (f : PwrState → PwrState) (k : Nat) : (s.modPwr f).chan k = s.chan k := rfl
@[simp] theorem State.modPwr_engine (f : PwrState → PwrState) (k : Nat) : (s.modPwr f).engine k = s.engine k := rfl
@[simp] theorem State.modPwr_bank (f : PwrState → PwrState) (k : Nat) : (s.modPwr f).bank k = s.bank k := rfl
@[simp] theorem State.modPwr_layout (f : PwrState → PwrState) : (s.modPwr f).layout = s.layout := rfl
@[simp] theorem State.modPwr_hasLayout (f : PwrState → PwrState) : (s.modPwr f).hasLayout = s.hasLayout := rfl
@[simp] theorem State.modPwr_chanCfg? (f : PwrState → PwrState) (k : Nat) : (s.modPwr f).chanCfg? k = s.chanCfg? k := rfl
@[simp] theorem State.modPwr_fieldCfg? (f : PwrState → PwrState) (k : Nat) : (s.modPwr f).fieldCfg? k = s.fieldCfg? k := rfl
@[simp] theorem State.modPwr_plotCfg? (f : PwrState → PwrState) (k : Nat) : (s.modPwr f).plotCfg? k = s.plotCfg? k := rfl
@[simp] theorem State.modPwr_plotList (f : PwrState → PwrState) : (s.modPwr f).plotList = s.plotList := rfl
@[simp] theorem State.modPwr_fieldList (f : PwrState → PwrState) : (s.modPwr f).fieldList = s.fieldList := rfl
@[simp] theorem State.modPwr_semOwner (f : PwrState → PwrState) (k : Nat) : (s.modPwr f).semOwner k = s.semOwner k := rfl
@[simp] theorem State.modPwr_holdsSem (f : PwrState → PwrState) (i : Identity) (k : Nat) : (s.modPwr f).holdsSem i k = s.holdsSem i k := rfl
@[simp] theorem State.modPwr_writeLocked (f : PwrState → PwrState) (i : Identity) : (s.modPwr f).writeLocked i = s.writeLocked i := rfl
@[simp] theorem State.modPwr_deviceScope (f : PwrState → PwrState) : (s.modPwr f).deviceScope = s.deviceScope := rfl
@[simp] theorem State.modPwr_stackScope (f : PwrState → PwrState) : (s.modPwr f).stackScope = s.stackScope := rfl
@[simp] theorem State.modPwr_inScope (f : PwrState → PwrState) (k i : Nat) : (s.modPwr f).inScope k i = s.inScope k i := rfl

/-! `modFn` -/

@[simp] theorem State.modFn_member (f : FnState → FnState) : (s.modFn f).member = s.member := rfl
@[simp] theorem State.modFn_stepping (f : FnState → FnState) : (s.modFn f).stepping = s.stepping := rfl
@[simp] theorem State.modFn_timeUs (f : FnState → FnState) : (s.modFn f).timeUs = s.timeUs := rfl
@[simp] theorem State.modFn_free (f : FnState → FnState) : (s.modFn f).free = s.free := rfl
@[simp] theorem State.modFn_pending (f : FnState → FnState) : (s.modFn f).pending = s.pending := rfl
@[simp] theorem State.modFn_snaps (f : FnState → FnState) : (s.modFn f).snaps = s.snaps := rfl
@[simp] theorem State.modFn_replies (f : FnState → FnState) : (s.modFn f).replies = s.replies := rfl
@[simp] theorem State.modFn_arb (f : FnState → FnState) : (s.modFn f).arb = s.arb := rfl
@[simp] theorem State.modFn_engines (f : FnState → FnState) : (s.modFn f).engines = s.engines := rfl
@[simp] theorem State.modFn_saf (f : FnState → FnState) : (s.modFn f).saf = s.saf := rfl
@[simp] theorem State.modFn_lay (f : FnState → FnState) : (s.modFn f).lay = s.lay := rfl
@[simp] theorem State.modFn_pwr (f : FnState → FnState) : (s.modFn f).pwr = s.pwr := rfl
@[simp] theorem State.modFn_portA (f : FnState → FnState) : (s.modFn f).portA = s.portA := rfl
@[simp] theorem State.modFn_portB (f : FnState → FnState) : (s.modFn f).portB = s.portB := rfl
@[simp] theorem State.modFn_fn (f : FnState → FnState) : (s.modFn f).fn = f s.fn := rfl
@[simp] theorem State.modFn_sem (f : FnState → FnState) : (s.modFn f).sem = s.sem := rfl
@[simp] theorem State.modFn_plots (f : FnState → FnState) : (s.modFn f).plots = s.plots := rfl
@[simp] theorem State.modFn_sec (f : FnState → FnState) : (s.modFn f).sec = s.sec := rfl
@[simp] theorem State.modFn_fields (f : FnState → FnState) : (s.modFn f).fields = s.fields := rfl
@[simp] theorem State.modFn_wall (f : FnState → FnState) : (s.modFn f).wall = s.wall := rfl
@[simp] theorem State.modFn_hold (f : FnState → FnState) : (s.modFn f).hold = s.hold := rfl
@[simp] theorem State.modFn_chans (f : FnState → FnState) : (s.modFn f).chans = s.chans := rfl
@[simp] theorem State.modFn_grn (f : FnState → FnState) : (s.modFn f).grn = s.grn := rfl
@[simp] theorem State.modFn_banks (f : FnState → FnState) : (s.modFn f).banks = s.banks := rfl
@[simp] theorem State.modFn_bankMem (f : FnState → FnState) : (s.modFn f).bankMem = s.bankMem := rfl
@[simp] theorem State.modFn_bankBad (f : FnState → FnState) : (s.modFn f).bankBad = s.bankBad := rfl
@[simp] theorem State.modFn_wins (f : FnState → FnState) : (s.modFn f).wins = s.wins := rfl
@[simp] theorem State.modFn_mpu (f : FnState → FnState) : (s.modFn f).mpu = s.mpu := rfl
@[simp] theorem State.modFn_stk (f : FnState → FnState) : (s.modFn f).stk = s.stk := rfl
@[simp] theorem State.modFn_jtag (f : FnState → FnState) : (s.modFn f).jtag = s.jtag := rfl
@[simp] theorem State.modFn_port (f : FnState → FnState) (q : Port) : (s.modFn f).port q = s.port q := rfl
@[simp] theorem State.modFn_plot (f : FnState → FnState) (k : Nat) : (s.modFn f).plot k = s.plot k := rfl
@[simp] theorem State.modFn_field (f : FnState → FnState) (k : Nat) : (s.modFn f).field k = s.field k := rfl
@[simp] theorem State.modFn_chan (f : FnState → FnState) (k : Nat) : (s.modFn f).chan k = s.chan k := rfl
@[simp] theorem State.modFn_engine (f : FnState → FnState) (k : Nat) : (s.modFn f).engine k = s.engine k := rfl
@[simp] theorem State.modFn_bank (f : FnState → FnState) (k : Nat) : (s.modFn f).bank k = s.bank k := rfl
@[simp] theorem State.modFn_layout (f : FnState → FnState) : (s.modFn f).layout = s.layout := rfl
@[simp] theorem State.modFn_hasLayout (f : FnState → FnState) : (s.modFn f).hasLayout = s.hasLayout := rfl
@[simp] theorem State.modFn_chanCfg? (f : FnState → FnState) (k : Nat) : (s.modFn f).chanCfg? k = s.chanCfg? k := rfl
@[simp] theorem State.modFn_fieldCfg? (f : FnState → FnState) (k : Nat) : (s.modFn f).fieldCfg? k = s.fieldCfg? k := rfl
@[simp] theorem State.modFn_plotCfg? (f : FnState → FnState) (k : Nat) : (s.modFn f).plotCfg? k = s.plotCfg? k := rfl
@[simp] theorem State.modFn_plotList (f : FnState → FnState) : (s.modFn f).plotList = s.plotList := rfl
@[simp] theorem State.modFn_fieldList (f : FnState → FnState) : (s.modFn f).fieldList = s.fieldList := rfl
@[simp] theorem State.modFn_semOwner (f : FnState → FnState) (k : Nat) : (s.modFn f).semOwner k = s.semOwner k := rfl
@[simp] theorem State.modFn_holdsSem (f : FnState → FnState) (i : Identity) (k : Nat) : (s.modFn f).holdsSem i k = s.holdsSem i k := rfl
@[simp] theorem State.modFn_writeLocked (f : FnState → FnState) (i : Identity) : (s.modFn f).writeLocked i = s.writeLocked i := rfl
@[simp] theorem State.modFn_deviceScope (f : FnState → FnState) : (s.modFn f).deviceScope = s.deviceScope := rfl
@[simp] theorem State.modFn_stackScope (f : FnState → FnState) : (s.modFn f).stackScope = s.stackScope := rfl
@[simp] theorem State.modFn_inScope (f : FnState → FnState) (k i : Nat) : (s.modFn f).inScope k i = s.inScope k i := rfl

/-! `modSem` -/

@[simp] theorem State.modSem_member (f : SemState → SemState) : (s.modSem f).member = s.member := rfl
@[simp] theorem State.modSem_stepping (f : SemState → SemState) : (s.modSem f).stepping = s.stepping := rfl
@[simp] theorem State.modSem_timeUs (f : SemState → SemState) : (s.modSem f).timeUs = s.timeUs := rfl
@[simp] theorem State.modSem_free (f : SemState → SemState) : (s.modSem f).free = s.free := rfl
@[simp] theorem State.modSem_pending (f : SemState → SemState) : (s.modSem f).pending = s.pending := rfl
@[simp] theorem State.modSem_snaps (f : SemState → SemState) : (s.modSem f).snaps = s.snaps := rfl
@[simp] theorem State.modSem_replies (f : SemState → SemState) : (s.modSem f).replies = s.replies := rfl
@[simp] theorem State.modSem_arb (f : SemState → SemState) : (s.modSem f).arb = s.arb := rfl
@[simp] theorem State.modSem_engines (f : SemState → SemState) : (s.modSem f).engines = s.engines := rfl
@[simp] theorem State.modSem_saf (f : SemState → SemState) : (s.modSem f).saf = s.saf := rfl
@[simp] theorem State.modSem_lay (f : SemState → SemState) : (s.modSem f).lay = s.lay := rfl
@[simp] theorem State.modSem_pwr (f : SemState → SemState) : (s.modSem f).pwr = s.pwr := rfl
@[simp] theorem State.modSem_portA (f : SemState → SemState) : (s.modSem f).portA = s.portA := rfl
@[simp] theorem State.modSem_portB (f : SemState → SemState) : (s.modSem f).portB = s.portB := rfl
@[simp] theorem State.modSem_fn (f : SemState → SemState) : (s.modSem f).fn = s.fn := rfl
@[simp] theorem State.modSem_sem (f : SemState → SemState) : (s.modSem f).sem = f s.sem := rfl
@[simp] theorem State.modSem_plots (f : SemState → SemState) : (s.modSem f).plots = s.plots := rfl
@[simp] theorem State.modSem_sec (f : SemState → SemState) : (s.modSem f).sec = s.sec := rfl
@[simp] theorem State.modSem_fields (f : SemState → SemState) : (s.modSem f).fields = s.fields := rfl
@[simp] theorem State.modSem_wall (f : SemState → SemState) : (s.modSem f).wall = s.wall := rfl
@[simp] theorem State.modSem_hold (f : SemState → SemState) : (s.modSem f).hold = s.hold := rfl
@[simp] theorem State.modSem_chans (f : SemState → SemState) : (s.modSem f).chans = s.chans := rfl
@[simp] theorem State.modSem_grn (f : SemState → SemState) : (s.modSem f).grn = s.grn := rfl
@[simp] theorem State.modSem_banks (f : SemState → SemState) : (s.modSem f).banks = s.banks := rfl
@[simp] theorem State.modSem_bankMem (f : SemState → SemState) : (s.modSem f).bankMem = s.bankMem := rfl
@[simp] theorem State.modSem_bankBad (f : SemState → SemState) : (s.modSem f).bankBad = s.bankBad := rfl
@[simp] theorem State.modSem_wins (f : SemState → SemState) : (s.modSem f).wins = s.wins := rfl
@[simp] theorem State.modSem_mpu (f : SemState → SemState) : (s.modSem f).mpu = s.mpu := rfl
@[simp] theorem State.modSem_stk (f : SemState → SemState) : (s.modSem f).stk = s.stk := rfl
@[simp] theorem State.modSem_jtag (f : SemState → SemState) : (s.modSem f).jtag = s.jtag := rfl
@[simp] theorem State.modSem_port (f : SemState → SemState) (q : Port) : (s.modSem f).port q = s.port q := rfl
@[simp] theorem State.modSem_pfn (f : SemState → SemState) (q : Port) : (s.modSem f).pfn q = s.pfn q := rfl
@[simp] theorem State.modSem_plot (f : SemState → SemState) (k : Nat) : (s.modSem f).plot k = s.plot k := rfl
@[simp] theorem State.modSem_field (f : SemState → SemState) (k : Nat) : (s.modSem f).field k = s.field k := rfl
@[simp] theorem State.modSem_chan (f : SemState → SemState) (k : Nat) : (s.modSem f).chan k = s.chan k := rfl
@[simp] theorem State.modSem_engine (f : SemState → SemState) (k : Nat) : (s.modSem f).engine k = s.engine k := rfl
@[simp] theorem State.modSem_bank (f : SemState → SemState) (k : Nat) : (s.modSem f).bank k = s.bank k := rfl
@[simp] theorem State.modSem_layout (f : SemState → SemState) : (s.modSem f).layout = s.layout := rfl
@[simp] theorem State.modSem_hasLayout (f : SemState → SemState) : (s.modSem f).hasLayout = s.hasLayout := rfl
@[simp] theorem State.modSem_chanCfg? (f : SemState → SemState) (k : Nat) : (s.modSem f).chanCfg? k = s.chanCfg? k := rfl
@[simp] theorem State.modSem_fieldCfg? (f : SemState → SemState) (k : Nat) : (s.modSem f).fieldCfg? k = s.fieldCfg? k := rfl
@[simp] theorem State.modSem_plotCfg? (f : SemState → SemState) (k : Nat) : (s.modSem f).plotCfg? k = s.plotCfg? k := rfl
@[simp] theorem State.modSem_plotList (f : SemState → SemState) : (s.modSem f).plotList = s.plotList := rfl
@[simp] theorem State.modSem_fieldList (f : SemState → SemState) : (s.modSem f).fieldList = s.fieldList := rfl
@[simp] theorem State.modSem_deviceScope (f : SemState → SemState) : (s.modSem f).deviceScope = s.deviceScope := rfl
@[simp] theorem State.modSem_stackScope (f : SemState → SemState) : (s.modSem f).stackScope = s.stackScope := rfl
@[simp] theorem State.modSem_inScope (f : SemState → SemState) (k i : Nat) : (s.modSem f).inScope k i = s.inScope k i := rfl

/-! `modSec` -/

@[simp] theorem State.modSec_member (f : SecState → SecState) : (s.modSec f).member = s.member := rfl
@[simp] theorem State.modSec_stepping (f : SecState → SecState) : (s.modSec f).stepping = s.stepping := rfl
@[simp] theorem State.modSec_timeUs (f : SecState → SecState) : (s.modSec f).timeUs = s.timeUs := rfl
@[simp] theorem State.modSec_free (f : SecState → SecState) : (s.modSec f).free = s.free := rfl
@[simp] theorem State.modSec_pending (f : SecState → SecState) : (s.modSec f).pending = s.pending := rfl
@[simp] theorem State.modSec_snaps (f : SecState → SecState) : (s.modSec f).snaps = s.snaps := rfl
@[simp] theorem State.modSec_replies (f : SecState → SecState) : (s.modSec f).replies = s.replies := rfl
@[simp] theorem State.modSec_arb (f : SecState → SecState) : (s.modSec f).arb = s.arb := rfl
@[simp] theorem State.modSec_engines (f : SecState → SecState) : (s.modSec f).engines = s.engines := rfl
@[simp] theorem State.modSec_saf (f : SecState → SecState) : (s.modSec f).saf = s.saf := rfl
@[simp] theorem State.modSec_lay (f : SecState → SecState) : (s.modSec f).lay = s.lay := rfl
@[simp] theorem State.modSec_pwr (f : SecState → SecState) : (s.modSec f).pwr = s.pwr := rfl
@[simp] theorem State.modSec_portA (f : SecState → SecState) : (s.modSec f).portA = s.portA := rfl
@[simp] theorem State.modSec_portB (f : SecState → SecState) : (s.modSec f).portB = s.portB := rfl
@[simp] theorem State.modSec_fn (f : SecState → SecState) : (s.modSec f).fn = s.fn := rfl
@[simp] theorem State.modSec_sem (f : SecState → SecState) : (s.modSec f).sem = s.sem := rfl
@[simp] theorem State.modSec_plots (f : SecState → SecState) : (s.modSec f).plots = s.plots := rfl
@[simp] theorem State.modSec_sec (f : SecState → SecState) : (s.modSec f).sec = f s.sec := rfl
@[simp] theorem State.modSec_fields (f : SecState → SecState) : (s.modSec f).fields = s.fields := rfl
@[simp] theorem State.modSec_wall (f : SecState → SecState) : (s.modSec f).wall = s.wall := rfl
@[simp] theorem State.modSec_hold (f : SecState → SecState) : (s.modSec f).hold = s.hold := rfl
@[simp] theorem State.modSec_chans (f : SecState → SecState) : (s.modSec f).chans = s.chans := rfl
@[simp] theorem State.modSec_grn (f : SecState → SecState) : (s.modSec f).grn = s.grn := rfl
@[simp] theorem State.modSec_banks (f : SecState → SecState) : (s.modSec f).banks = s.banks := rfl
@[simp] theorem State.modSec_bankMem (f : SecState → SecState) : (s.modSec f).bankMem = s.bankMem := rfl
@[simp] theorem State.modSec_bankBad (f : SecState → SecState) : (s.modSec f).bankBad = s.bankBad := rfl
@[simp] theorem State.modSec_wins (f : SecState → SecState) : (s.modSec f).wins = s.wins := rfl
@[simp] theorem State.modSec_mpu (f : SecState → SecState) : (s.modSec f).mpu = s.mpu := rfl
@[simp] theorem State.modSec_stk (f : SecState → SecState) : (s.modSec f).stk = s.stk := rfl
@[simp] theorem State.modSec_jtag (f : SecState → SecState) : (s.modSec f).jtag = s.jtag := rfl
@[simp] theorem State.modSec_port (f : SecState → SecState) (q : Port) : (s.modSec f).port q = s.port q := rfl
@[simp] theorem State.modSec_pfn (f : SecState → SecState) (q : Port) : (s.modSec f).pfn q = s.pfn q := rfl
@[simp] theorem State.modSec_plot (f : SecState → SecState) (k : Nat) : (s.modSec f).plot k = s.plot k := rfl
@[simp] theorem State.modSec_field (f : SecState → SecState) (k : Nat) : (s.modSec f).field k = s.field k := rfl
@[simp] theorem State.modSec_chan (f : SecState → SecState) (k : Nat) : (s.modSec f).chan k = s.chan k := rfl
@[simp] theorem State.modSec_engine (f : SecState → SecState) (k : Nat) : (s.modSec f).engine k = s.engine k := rfl
@[simp] theorem State.modSec_bank (f : SecState → SecState) (k : Nat) : (s.modSec f).bank k = s.bank k := rfl
@[simp] theorem State.modSec_layout (f : SecState → SecState) : (s.modSec f).layout = s.layout := rfl
@[simp] theorem State.modSec_hasLayout (f : SecState → SecState) : (s.modSec f).hasLayout = s.hasLayout := rfl
@[simp] theorem State.modSec_chanCfg? (f : SecState → SecState) (k : Nat) : (s.modSec f).chanCfg? k = s.chanCfg? k := rfl
@[simp] theorem State.modSec_fieldCfg? (f : SecState → SecState) (k : Nat) : (s.modSec f).fieldCfg? k = s.fieldCfg? k := rfl
@[simp] theorem State.modSec_plotCfg? (f : SecState → SecState) (k : Nat) : (s.modSec f).plotCfg? k = s.plotCfg? k := rfl
@[simp] theorem State.modSec_plotList (f : SecState → SecState) : (s.modSec f).plotList = s.plotList := rfl
@[simp] theorem State.modSec_fieldList (f : SecState → SecState) : (s.modSec f).fieldList = s.fieldList := rfl
@[simp] theorem State.modSec_semOwner (f : SecState → SecState) (k : Nat) : (s.modSec f).semOwner k = s.semOwner k := rfl
@[simp] theorem State.modSec_holdsSem (f : SecState → SecState) (i : Identity) (k : Nat) : (s.modSec f).holdsSem i k = s.holdsSem i k := rfl
@[simp] theorem State.modSec_writeLocked (f : SecState → SecState) (i : Identity) : (s.modSec f).writeLocked i = s.writeLocked i := rfl
@[simp] theorem State.modSec_deviceScope (f : SecState → SecState) : (s.modSec f).deviceScope = s.deviceScope := rfl
@[simp] theorem State.modSec_stackScope (f : SecState → SecState) : (s.modSec f).stackScope = s.stackScope := rfl
@[simp] theorem State.modSec_inScope (f : SecState → SecState) (k i : Nat) : (s.modSec f).inScope k i = s.inScope k i := rfl

/-! `modHold` -/

@[simp] theorem State.modHold_member (f : HoldState → HoldState) : (s.modHold f).member = s.member := rfl
@[simp] theorem State.modHold_stepping (f : HoldState → HoldState) : (s.modHold f).stepping = s.stepping := rfl
@[simp] theorem State.modHold_timeUs (f : HoldState → HoldState) : (s.modHold f).timeUs = s.timeUs := rfl
@[simp] theorem State.modHold_free (f : HoldState → HoldState) : (s.modHold f).free = s.free := rfl
@[simp] theorem State.modHold_pending (f : HoldState → HoldState) : (s.modHold f).pending = s.pending := rfl
@[simp] theorem State.modHold_snaps (f : HoldState → HoldState) : (s.modHold f).snaps = s.snaps := rfl
@[simp] theorem State.modHold_replies (f : HoldState → HoldState) : (s.modHold f).replies = s.replies := rfl
@[simp] theorem State.modHold_arb (f : HoldState → HoldState) : (s.modHold f).arb = s.arb := rfl
@[simp] theorem State.modHold_engines (f : HoldState → HoldState) : (s.modHold f).engines = s.engines := rfl
@[simp] theorem State.modHold_saf (f : HoldState → HoldState) : (s.modHold f).saf = s.saf := rfl
@[simp] theorem State.modHold_lay (f : HoldState → HoldState) : (s.modHold f).lay = s.lay := rfl
@[simp] theorem State.modHold_pwr (f : HoldState → HoldState) : (s.modHold f).pwr = s.pwr := rfl
@[simp] theorem State.modHold_portA (f : HoldState → HoldState) : (s.modHold f).portA = s.portA := rfl
@[simp] theorem State.modHold_portB (f : HoldState → HoldState) : (s.modHold f).portB = s.portB := rfl
@[simp] theorem State.modHold_fn (f : HoldState → HoldState) : (s.modHold f).fn = s.fn := rfl
@[simp] theorem State.modHold_sem (f : HoldState → HoldState) : (s.modHold f).sem = s.sem := rfl
@[simp] theorem State.modHold_plots (f : HoldState → HoldState) : (s.modHold f).plots = s.plots := rfl
@[simp] theorem State.modHold_sec (f : HoldState → HoldState) : (s.modHold f).sec = s.sec := rfl
@[simp] theorem State.modHold_fields (f : HoldState → HoldState) : (s.modHold f).fields = s.fields := rfl
@[simp] theorem State.modHold_wall (f : HoldState → HoldState) : (s.modHold f).wall = s.wall := rfl
@[simp] theorem State.modHold_hold (f : HoldState → HoldState) : (s.modHold f).hold = f s.hold := rfl
@[simp] theorem State.modHold_chans (f : HoldState → HoldState) : (s.modHold f).chans = s.chans := rfl
@[simp] theorem State.modHold_grn (f : HoldState → HoldState) : (s.modHold f).grn = s.grn := rfl
@[simp] theorem State.modHold_banks (f : HoldState → HoldState) : (s.modHold f).banks = s.banks := rfl
@[simp] theorem State.modHold_bankMem (f : HoldState → HoldState) : (s.modHold f).bankMem = s.bankMem := rfl
@[simp] theorem State.modHold_bankBad (f : HoldState → HoldState) : (s.modHold f).bankBad = s.bankBad := rfl
@[simp] theorem State.modHold_wins (f : HoldState → HoldState) : (s.modHold f).wins = s.wins := rfl
@[simp] theorem State.modHold_mpu (f : HoldState → HoldState) : (s.modHold f).mpu = s.mpu := rfl
@[simp] theorem State.modHold_stk (f : HoldState → HoldState) : (s.modHold f).stk = s.stk := rfl
@[simp] theorem State.modHold_jtag (f : HoldState → HoldState) : (s.modHold f).jtag = s.jtag := rfl
@[simp] theorem State.modHold_port (f : HoldState → HoldState) (q : Port) : (s.modHold f).port q = s.port q := rfl
@[simp] theorem State.modHold_pfn (f : HoldState → HoldState) (q : Port) : (s.modHold f).pfn q = s.pfn q := rfl
@[simp] theorem State.modHold_plot (f : HoldState → HoldState) (k : Nat) : (s.modHold f).plot k = s.plot k := rfl
@[simp] theorem State.modHold_field (f : HoldState → HoldState) (k : Nat) : (s.modHold f).field k = s.field k := rfl
@[simp] theorem State.modHold_chan (f : HoldState → HoldState) (k : Nat) : (s.modHold f).chan k = s.chan k := rfl
@[simp] theorem State.modHold_engine (f : HoldState → HoldState) (k : Nat) : (s.modHold f).engine k = s.engine k := rfl
@[simp] theorem State.modHold_bank (f : HoldState → HoldState) (k : Nat) : (s.modHold f).bank k = s.bank k := rfl
@[simp] theorem State.modHold_layout (f : HoldState → HoldState) : (s.modHold f).layout = s.layout := rfl
@[simp] theorem State.modHold_hasLayout (f : HoldState → HoldState) : (s.modHold f).hasLayout = s.hasLayout := rfl
@[simp] theorem State.modHold_chanCfg? (f : HoldState → HoldState) (k : Nat) : (s.modHold f).chanCfg? k = s.chanCfg? k := rfl
@[simp] theorem State.modHold_fieldCfg? (f : HoldState → HoldState) (k : Nat) : (s.modHold f).fieldCfg? k = s.fieldCfg? k := rfl
@[simp] theorem State.modHold_plotCfg? (f : HoldState → HoldState) (k : Nat) : (s.modHold f).plotCfg? k = s.plotCfg? k := rfl
@[simp] theorem State.modHold_plotList (f : HoldState → HoldState) : (s.modHold f).plotList = s.plotList := rfl
@[simp] theorem State.modHold_fieldList (f : HoldState → HoldState) : (s.modHold f).fieldList = s.fieldList := rfl
@[simp] theorem State.modHold_semOwner (f : HoldState → HoldState) (k : Nat) : (s.modHold f).semOwner k = s.semOwner k := rfl
@[simp] theorem State.modHold_holdsSem (f : HoldState → HoldState) (i : Identity) (k : Nat) : (s.modHold f).holdsSem i k = s.holdsSem i k := rfl
@[simp] theorem State.modHold_writeLocked (f : HoldState → HoldState) (i : Identity) : (s.modHold f).writeLocked i = s.writeLocked i := rfl
@[simp] theorem State.modHold_deviceScope (f : HoldState → HoldState) : (s.modHold f).deviceScope = s.deviceScope := rfl
@[simp] theorem State.modHold_stackScope (f : HoldState → HoldState) : (s.modHold f).stackScope = s.stackScope := rfl
@[simp] theorem State.modHold_inScope (f : HoldState → HoldState) (k i : Nat) : (s.modHold f).inScope k i = s.inScope k i := rfl

/-! `modGrn` -/

@[simp] theorem State.modGrn_member (f : GrnState → GrnState) : (s.modGrn f).member = s.member := rfl
@[simp] theorem State.modGrn_stepping (f : GrnState → GrnState) : (s.modGrn f).stepping = s.stepping := rfl
@[simp] theorem State.modGrn_timeUs (f : GrnState → GrnState) : (s.modGrn f).timeUs = s.timeUs := rfl
@[simp] theorem State.modGrn_free (f : GrnState → GrnState) : (s.modGrn f).free = s.free := rfl
@[simp] theorem State.modGrn_pending (f : GrnState → GrnState) : (s.modGrn f).pending = s.pending := rfl
@[simp] theorem State.modGrn_snaps (f : GrnState → GrnState) : (s.modGrn f).snaps = s.snaps := rfl
@[simp] theorem State.modGrn_replies (f : GrnState → GrnState) : (s.modGrn f).replies = s.replies := rfl
@[simp] theorem State.modGrn_arb (f : GrnState → GrnState) : (s.modGrn f).arb = s.arb := rfl
@[simp] theorem State.modGrn_engines (f : GrnState → GrnState) : (s.modGrn f).engines = s.engines := rfl
@[simp] theorem State.modGrn_saf (f : GrnState → GrnState) : (s.modGrn f).saf = s.saf := rfl
@[simp] theorem State.modGrn_lay (f : GrnState → GrnState) : (s.modGrn f).lay = s.lay := rfl
@[simp] theorem State.modGrn_pwr (f : GrnState → GrnState) : (s.modGrn f).pwr = s.pwr := rfl
@[simp] theorem State.modGrn_portA (f : GrnState → GrnState) : (s.modGrn f).portA = s.portA := rfl
@[simp] theorem State.modGrn_portB (f : GrnState → GrnState) : (s.modGrn f).portB = s.portB := rfl
@[simp] theorem State.modGrn_fn (f : GrnState → GrnState) : (s.modGrn f).fn = s.fn := rfl
@[simp] theorem State.modGrn_sem (f : GrnState → GrnState) : (s.modGrn f).sem = s.sem := rfl
@[simp] theorem State.modGrn_plots (f : GrnState → GrnState) : (s.modGrn f).plots = s.plots := rfl
@[simp] theorem State.modGrn_sec (f : GrnState → GrnState) : (s.modGrn f).sec = s.sec := rfl
@[simp] theorem State.modGrn_fields (f : GrnState → GrnState) : (s.modGrn f).fields = s.fields := rfl
@[simp] theorem State.modGrn_wall (f : GrnState → GrnState) : (s.modGrn f).wall = s.wall := rfl
@[simp] theorem State.modGrn_hold (f : GrnState → GrnState) : (s.modGrn f).hold = s.hold := rfl
@[simp] theorem State.modGrn_chans (f : GrnState → GrnState) : (s.modGrn f).chans = s.chans := rfl
@[simp] theorem State.modGrn_grn (f : GrnState → GrnState) : (s.modGrn f).grn = f s.grn := rfl
@[simp] theorem State.modGrn_banks (f : GrnState → GrnState) : (s.modGrn f).banks = s.banks := rfl
@[simp] theorem State.modGrn_bankMem (f : GrnState → GrnState) : (s.modGrn f).bankMem = s.bankMem := rfl
@[simp] theorem State.modGrn_bankBad (f : GrnState → GrnState) : (s.modGrn f).bankBad = s.bankBad := rfl
@[simp] theorem State.modGrn_wins (f : GrnState → GrnState) : (s.modGrn f).wins = s.wins := rfl
@[simp] theorem State.modGrn_mpu (f : GrnState → GrnState) : (s.modGrn f).mpu = s.mpu := rfl
@[simp] theorem State.modGrn_stk (f : GrnState → GrnState) : (s.modGrn f).stk = s.stk := rfl
@[simp] theorem State.modGrn_jtag (f : GrnState → GrnState) : (s.modGrn f).jtag = s.jtag := rfl
@[simp] theorem State.modGrn_port (f : GrnState → GrnState) (q : Port) : (s.modGrn f).port q = s.port q := rfl
@[simp] theorem State.modGrn_pfn (f : GrnState → GrnState) (q : Port) : (s.modGrn f).pfn q = s.pfn q := rfl
@[simp] theorem State.modGrn_plot (f : GrnState → GrnState) (k : Nat) : (s.modGrn f).plot k = s.plot k := rfl
@[simp] theorem State.modGrn_field (f : GrnState → GrnState) (k : Nat) : (s.modGrn f).field k = s.field k := rfl
@[simp] theorem State.modGrn_chan (f : GrnState → GrnState) (k : Nat) : (s.modGrn f).chan k = s.chan k := rfl
@[simp] theorem State.modGrn_engine (f : GrnState → GrnState) (k : Nat) : (s.modGrn f).engine k = s.engine k := rfl
@[simp] theorem State.modGrn_bank (f : GrnState → GrnState) (k : Nat) : (s.modGrn f).bank k = s.bank k := rfl
@[simp] theorem State.modGrn_layout (f : GrnState → GrnState) : (s.modGrn f).layout = s.layout := rfl
@[simp] theorem State.modGrn_hasLayout (f : GrnState → GrnState) : (s.modGrn f).hasLayout = s.hasLayout := rfl
@[simp] theorem State.modGrn_chanCfg? (f : GrnState → GrnState) (k : Nat) : (s.modGrn f).chanCfg? k = s.chanCfg? k := rfl
@[simp] theorem State.modGrn_fieldCfg? (f : GrnState → GrnState) (k : Nat) : (s.modGrn f).fieldCfg? k = s.fieldCfg? k := rfl
@[simp] theorem State.modGrn_plotCfg? (f : GrnState → GrnState) (k : Nat) : (s.modGrn f).plotCfg? k = s.plotCfg? k := rfl
@[simp] theorem State.modGrn_plotList (f : GrnState → GrnState) : (s.modGrn f).plotList = s.plotList := rfl
@[simp] theorem State.modGrn_fieldList (f : GrnState → GrnState) : (s.modGrn f).fieldList = s.fieldList := rfl
@[simp] theorem State.modGrn_semOwner (f : GrnState → GrnState) (k : Nat) : (s.modGrn f).semOwner k = s.semOwner k := rfl
@[simp] theorem State.modGrn_holdsSem (f : GrnState → GrnState) (i : Identity) (k : Nat) : (s.modGrn f).holdsSem i k = s.holdsSem i k := rfl
@[simp] theorem State.modGrn_writeLocked (f : GrnState → GrnState) (i : Identity) : (s.modGrn f).writeLocked i = s.writeLocked i := rfl
@[simp] theorem State.modGrn_deviceScope (f : GrnState → GrnState) : (s.modGrn f).deviceScope = s.deviceScope := rfl
@[simp] theorem State.modGrn_stackScope (f : GrnState → GrnState) : (s.modGrn f).stackScope = s.stackScope := rfl
@[simp] theorem State.modGrn_inScope (f : GrnState → GrnState) (k i : Nat) : (s.modGrn f).inScope k i = s.inScope k i := rfl

/-! `modMpu` -/

@[simp] theorem State.modMpu_member (f : MpuState → MpuState) : (s.modMpu f).member = s.member := rfl
@[simp] theorem State.modMpu_stepping (f : MpuState → MpuState) : (s.modMpu f).stepping = s.stepping := rfl
@[simp] theorem State.modMpu_timeUs (f : MpuState → MpuState) : (s.modMpu f).timeUs = s.timeUs := rfl
@[simp] theorem State.modMpu_free (f : MpuState → MpuState) : (s.modMpu f).free = s.free := rfl
@[simp] theorem State.modMpu_pending (f : MpuState → MpuState) : (s.modMpu f).pending = s.pending := rfl
@[simp] theorem State.modMpu_snaps (f : MpuState → MpuState) : (s.modMpu f).snaps = s.snaps := rfl
@[simp] theorem State.modMpu_replies (f : MpuState → MpuState) : (s.modMpu f).replies = s.replies := rfl
@[simp] theorem State.modMpu_arb (f : MpuState → MpuState) : (s.modMpu f).arb = s.arb := rfl
@[simp] theorem State.modMpu_engines (f : MpuState → MpuState) : (s.modMpu f).engines = s.engines := rfl
@[simp] theorem State.modMpu_saf (f : MpuState → MpuState) : (s.modMpu f).saf = s.saf := rfl
@[simp] theorem State.modMpu_lay (f : MpuState → MpuState) : (s.modMpu f).lay = s.lay := rfl
@[simp] theorem State.modMpu_pwr (f : MpuState → MpuState) : (s.modMpu f).pwr = s.pwr := rfl
@[simp] theorem State.modMpu_portA (f : MpuState → MpuState) : (s.modMpu f).portA = s.portA := rfl
@[simp] theorem State.modMpu_portB (f : MpuState → MpuState) : (s.modMpu f).portB = s.portB := rfl
@[simp] theorem State.modMpu_fn (f : MpuState → MpuState) : (s.modMpu f).fn = s.fn := rfl
@[simp] theorem State.modMpu_sem (f : MpuState → MpuState) : (s.modMpu f).sem = s.sem := rfl
@[simp] theorem State.modMpu_plots (f : MpuState → MpuState) : (s.modMpu f).plots = s.plots := rfl
@[simp] theorem State.modMpu_sec (f : MpuState → MpuState) : (s.modMpu f).sec = s.sec := rfl
@[simp] theorem State.modMpu_fields (f : MpuState → MpuState) : (s.modMpu f).fields = s.fields := rfl
@[simp] theorem State.modMpu_wall (f : MpuState → MpuState) : (s.modMpu f).wall = s.wall := rfl
@[simp] theorem State.modMpu_hold (f : MpuState → MpuState) : (s.modMpu f).hold = s.hold := rfl
@[simp] theorem State.modMpu_chans (f : MpuState → MpuState) : (s.modMpu f).chans = s.chans := rfl
@[simp] theorem State.modMpu_grn (f : MpuState → MpuState) : (s.modMpu f).grn = s.grn := rfl
@[simp] theorem State.modMpu_banks (f : MpuState → MpuState) : (s.modMpu f).banks = s.banks := rfl
@[simp] theorem State.modMpu_bankMem (f : MpuState → MpuState) : (s.modMpu f).bankMem = s.bankMem := rfl
@[simp] theorem State.modMpu_bankBad (f : MpuState → MpuState) : (s.modMpu f).bankBad = s.bankBad := rfl
@[simp] theorem State.modMpu_wins (f : MpuState → MpuState) : (s.modMpu f).wins = s.wins := rfl
@[simp] theorem State.modMpu_mpu (f : MpuState → MpuState) : (s.modMpu f).mpu = f s.mpu := rfl
@[simp] theorem State.modMpu_stk (f : MpuState → MpuState) : (s.modMpu f).stk = s.stk := rfl
@[simp] theorem State.modMpu_jtag (f : MpuState → MpuState) : (s.modMpu f).jtag = s.jtag := rfl
@[simp] theorem State.modMpu_port (f : MpuState → MpuState) (q : Port) : (s.modMpu f).port q = s.port q := rfl
@[simp] theorem State.modMpu_pfn (f : MpuState → MpuState) (q : Port) : (s.modMpu f).pfn q = s.pfn q := rfl
@[simp] theorem State.modMpu_plot (f : MpuState → MpuState) (k : Nat) : (s.modMpu f).plot k = s.plot k := rfl
@[simp] theorem State.modMpu_field (f : MpuState → MpuState) (k : Nat) : (s.modMpu f).field k = s.field k := rfl
@[simp] theorem State.modMpu_chan (f : MpuState → MpuState) (k : Nat) : (s.modMpu f).chan k = s.chan k := rfl
@[simp] theorem State.modMpu_engine (f : MpuState → MpuState) (k : Nat) : (s.modMpu f).engine k = s.engine k := rfl
@[simp] theorem State.modMpu_bank (f : MpuState → MpuState) (k : Nat) : (s.modMpu f).bank k = s.bank k := rfl
@[simp] theorem State.modMpu_layout (f : MpuState → MpuState) : (s.modMpu f).layout = s.layout := rfl
@[simp] theorem State.modMpu_hasLayout (f : MpuState → MpuState) : (s.modMpu f).hasLayout = s.hasLayout := rfl
@[simp] theorem State.modMpu_chanCfg? (f : MpuState → MpuState) (k : Nat) : (s.modMpu f).chanCfg? k = s.chanCfg? k := rfl
@[simp] theorem State.modMpu_fieldCfg? (f : MpuState → MpuState) (k : Nat) : (s.modMpu f).fieldCfg? k = s.fieldCfg? k := rfl
@[simp] theorem State.modMpu_plotCfg? (f : MpuState → MpuState) (k : Nat) : (s.modMpu f).plotCfg? k = s.plotCfg? k := rfl
@[simp] theorem State.modMpu_plotList (f : MpuState → MpuState) : (s.modMpu f).plotList = s.plotList := rfl
@[simp] theorem State.modMpu_fieldList (f : MpuState → MpuState) : (s.modMpu f).fieldList = s.fieldList := rfl
@[simp] theorem State.modMpu_semOwner (f : MpuState → MpuState) (k : Nat) : (s.modMpu f).semOwner k = s.semOwner k := rfl
@[simp] theorem State.modMpu_holdsSem (f : MpuState → MpuState) (i : Identity) (k : Nat) : (s.modMpu f).holdsSem i k = s.holdsSem i k := rfl
@[simp] theorem State.modMpu_writeLocked (f : MpuState → MpuState) (i : Identity) : (s.modMpu f).writeLocked i = s.writeLocked i := rfl
@[simp] theorem State.modMpu_deviceScope (f : MpuState → MpuState) : (s.modMpu f).deviceScope = s.deviceScope := rfl
@[simp] theorem State.modMpu_stackScope (f : MpuState → MpuState) : (s.modMpu f).stackScope = s.stackScope := rfl
@[simp] theorem State.modMpu_inScope (f : MpuState → MpuState) (k i : Nat) : (s.modMpu f).inScope k i = s.inScope k i := rfl

/-! `modStk` -/

@[simp] theorem State.modStk_member (f : StkState → StkState) : (s.modStk f).member = s.member := rfl
@[simp] theorem State.modStk_stepping (f : StkState → StkState) : (s.modStk f).stepping = s.stepping := rfl
@[simp] theorem State.modStk_timeUs (f : StkState → StkState) : (s.modStk f).timeUs = s.timeUs := rfl
@[simp] theorem State.modStk_free (f : StkState → StkState) : (s.modStk f).free = s.free := rfl
@[simp] theorem State.modStk_pending (f : StkState → StkState) : (s.modStk f).pending = s.pending := rfl
@[simp] theorem State.modStk_snaps (f : StkState → StkState) : (s.modStk f).snaps = s.snaps := rfl
@[simp] theorem State.modStk_replies (f : StkState → StkState) : (s.modStk f).replies = s.replies := rfl
@[simp] theorem State.modStk_arb (f : StkState → StkState) : (s.modStk f).arb = s.arb := rfl
@[simp] theorem State.modStk_engines (f : StkState → StkState) : (s.modStk f).engines = s.engines := rfl
@[simp] theorem State.modStk_saf (f : StkState → StkState) : (s.modStk f).saf = s.saf := rfl
@[simp] theorem State.modStk_lay (f : StkState → StkState) : (s.modStk f).lay = s.lay := rfl
@[simp] theorem State.modStk_pwr (f : StkState → StkState) : (s.modStk f).pwr = s.pwr := rfl
@[simp] theorem State.modStk_portA (f : StkState → StkState) : (s.modStk f).portA = s.portA := rfl
@[simp] theorem State.modStk_portB (f : StkState → StkState) : (s.modStk f).portB = s.portB := rfl
@[simp] theorem State.modStk_fn (f : StkState → StkState) : (s.modStk f).fn = s.fn := rfl
@[simp] theorem State.modStk_sem (f : StkState → StkState) : (s.modStk f).sem = s.sem := rfl
@[simp] theorem State.modStk_plots (f : StkState → StkState) : (s.modStk f).plots = s.plots := rfl
@[simp] theorem State.modStk_sec (f : StkState → StkState) : (s.modStk f).sec = s.sec := rfl
@[simp] theorem State.modStk_fields (f : StkState → StkState) : (s.modStk f).fields = s.fields := rfl
@[simp] theorem State.modStk_wall (f : StkState → StkState) : (s.modStk f).wall = s.wall := rfl
@[simp] theorem State.modStk_hold (f : StkState → StkState) : (s.modStk f).hold = s.hold := rfl
@[simp] theorem State.modStk_chans (f : StkState → StkState) : (s.modStk f).chans = s.chans := rfl
@[simp] theorem State.modStk_grn (f : StkState → StkState) : (s.modStk f).grn = s.grn := rfl
@[simp] theorem State.modStk_banks (f : StkState → StkState) : (s.modStk f).banks = s.banks := rfl
@[simp] theorem State.modStk_bankMem (f : StkState → StkState) : (s.modStk f).bankMem = s.bankMem := rfl
@[simp] theorem State.modStk_bankBad (f : StkState → StkState) : (s.modStk f).bankBad = s.bankBad := rfl
@[simp] theorem State.modStk_wins (f : StkState → StkState) : (s.modStk f).wins = s.wins := rfl
@[simp] theorem State.modStk_mpu (f : StkState → StkState) : (s.modStk f).mpu = s.mpu := rfl
@[simp] theorem State.modStk_stk (f : StkState → StkState) : (s.modStk f).stk = f s.stk := rfl
@[simp] theorem State.modStk_jtag (f : StkState → StkState) : (s.modStk f).jtag = s.jtag := rfl
@[simp] theorem State.modStk_port (f : StkState → StkState) (q : Port) : (s.modStk f).port q = s.port q := rfl
@[simp] theorem State.modStk_pfn (f : StkState → StkState) (q : Port) : (s.modStk f).pfn q = s.pfn q := rfl
@[simp] theorem State.modStk_plot (f : StkState → StkState) (k : Nat) : (s.modStk f).plot k = s.plot k := rfl
@[simp] theorem State.modStk_field (f : StkState → StkState) (k : Nat) : (s.modStk f).field k = s.field k := rfl
@[simp] theorem State.modStk_chan (f : StkState → StkState) (k : Nat) : (s.modStk f).chan k = s.chan k := rfl
@[simp] theorem State.modStk_engine (f : StkState → StkState) (k : Nat) : (s.modStk f).engine k = s.engine k := rfl
@[simp] theorem State.modStk_bank (f : StkState → StkState) (k : Nat) : (s.modStk f).bank k = s.bank k := rfl
@[simp] theorem State.modStk_layout (f : StkState → StkState) : (s.modStk f).layout = s.layout := rfl
@[simp] theorem State.modStk_hasLayout (f : StkState → StkState) : (s.modStk f).hasLayout = s.hasLayout := rfl
@[simp] theorem State.modStk_chanCfg? (f : StkState → StkState) (k : Nat) : (s.modStk f).chanCfg? k = s.chanCfg? k := rfl
@[simp] theorem State.modStk_fieldCfg? (f : StkState → StkState) (k : Nat) : (s.modStk f).fieldCfg? k = s.fieldCfg? k := rfl
@[simp] theorem State.modStk_plotCfg? (f : StkState → StkState) (k : Nat) : (s.modStk f).plotCfg? k = s.plotCfg? k := rfl
@[simp] theorem State.modStk_plotList (f : StkState → StkState) : (s.modStk f).plotList = s.plotList := rfl
@[simp] theorem State.modStk_fieldList (f : StkState → StkState) : (s.modStk f).fieldList = s.fieldList := rfl
@[simp] theorem State.modStk_semOwner (f : StkState → StkState) (k : Nat) : (s.modStk f).semOwner k = s.semOwner k := rfl
@[simp] theorem State.modStk_holdsSem (f : StkState → StkState) (i : Identity) (k : Nat) : (s.modStk f).holdsSem i k = s.holdsSem i k := rfl
@[simp] theorem State.modStk_writeLocked (f : StkState → StkState) (i : Identity) : (s.modStk f).writeLocked i = s.writeLocked i := rfl
@[simp] theorem State.modStk_deviceScope (f : StkState → StkState) : (s.modStk f).deviceScope = s.deviceScope := rfl
@[simp] theorem State.modStk_stackScope (f : StkState → StkState) : (s.modStk f).stackScope = s.stackScope := rfl
@[simp] theorem State.modStk_inScope (f : StkState → StkState) (k i : Nat) : (s.modStk f).inScope k i = s.inScope k i := rfl

/-! `modJtag` -/

@[simp] theorem State.modJtag_member (f : JtagState → JtagState) : (s.modJtag f).member = s.member := rfl
@[simp] theorem State.modJtag_stepping (f : JtagState → JtagState) : (s.modJtag f).stepping = s.stepping := rfl
@[simp] theorem State.modJtag_timeUs (f : JtagState → JtagState) : (s.modJtag f).timeUs = s.timeUs := rfl
@[simp] theorem State.modJtag_free (f : JtagState → JtagState) : (s.modJtag f).free = s.free := rfl
@[simp] theorem State.modJtag_pending (f : JtagState → JtagState) : (s.modJtag f).pending = s.pending := rfl
@[simp] theorem State.modJtag_snaps (f : JtagState → JtagState) : (s.modJtag f).snaps = s.snaps := rfl
@[simp] theorem State.modJtag_replies (f : JtagState → JtagState) : (s.modJtag f).replies = s.replies := rfl
@[simp] theorem State.modJtag_arb (f : JtagState → JtagState) : (s.modJtag f).arb = s.arb := rfl
@[simp] theorem State.modJtag_engines (f : JtagState → JtagState) : (s.modJtag f).engines = s.engines := rfl
@[simp] theorem State.modJtag_saf (f : JtagState → JtagState) : (s.modJtag f).saf = s.saf := rfl
@[simp] theorem State.modJtag_lay (f : JtagState → JtagState) : (s.modJtag f).lay = s.lay := rfl
@[simp] theorem State.modJtag_pwr (f : JtagState → JtagState) : (s.modJtag f).pwr = s.pwr := rfl
@[simp] theorem State.modJtag_portA (f : JtagState → JtagState) : (s.modJtag f).portA = s.portA := rfl
@[simp] theorem State.modJtag_portB (f : JtagState → JtagState) : (s.modJtag f).portB = s.portB := rfl
@[simp] theorem State.modJtag_fn (f : JtagState → JtagState) : (s.modJtag f).fn = s.fn := rfl
@[simp] theorem State.modJtag_sem (f : JtagState → JtagState) : (s.modJtag f).sem = s.sem := rfl
@[simp] theorem State.modJtag_plots (f : JtagState → JtagState) : (s.modJtag f).plots = s.plots := rfl
@[simp] theorem State.modJtag_sec (f : JtagState → JtagState) : (s.modJtag f).sec = s.sec := rfl
@[simp] theorem State.modJtag_fields (f : JtagState → JtagState) : (s.modJtag f).fields = s.fields := rfl
@[simp] theorem State.modJtag_wall (f : JtagState → JtagState) : (s.modJtag f).wall = s.wall := rfl
@[simp] theorem State.modJtag_hold (f : JtagState → JtagState) : (s.modJtag f).hold = s.hold := rfl
@[simp] theorem State.modJtag_chans (f : JtagState → JtagState) : (s.modJtag f).chans = s.chans := rfl
@[simp] theorem State.modJtag_grn (f : JtagState → JtagState) : (s.modJtag f).grn = s.grn := rfl
@[simp] theorem State.modJtag_banks (f : JtagState → JtagState) : (s.modJtag f).banks = s.banks := rfl
@[simp] theorem State.modJtag_bankMem (f : JtagState → JtagState) : (s.modJtag f).bankMem = s.bankMem := rfl
@[simp] theorem State.modJtag_bankBad (f : JtagState → JtagState) : (s.modJtag f).bankBad = s.bankBad := rfl
@[simp] theorem State.modJtag_wins (f : JtagState → JtagState) : (s.modJtag f).wins = s.wins := rfl
@[simp] theorem State.modJtag_mpu (f : JtagState → JtagState) : (s.modJtag f).mpu = s.mpu := rfl
@[simp] theorem State.modJtag_stk (f : JtagState → JtagState) : (s.modJtag f).stk = s.stk := rfl
@[simp] theorem State.modJtag_jtag (f : JtagState → JtagState) : (s.modJtag f).jtag = f s.jtag := rfl
@[simp] theorem State.modJtag_port (f : JtagState → JtagState) (q : Port) : (s.modJtag f).port q = s.port q := rfl
@[simp] theorem State.modJtag_pfn (f : JtagState → JtagState) (q : Port) : (s.modJtag f).pfn q = s.pfn q := rfl
@[simp] theorem State.modJtag_plot (f : JtagState → JtagState) (k : Nat) : (s.modJtag f).plot k = s.plot k := rfl
@[simp] theorem State.modJtag_field (f : JtagState → JtagState) (k : Nat) : (s.modJtag f).field k = s.field k := rfl
@[simp] theorem State.modJtag_chan (f : JtagState → JtagState) (k : Nat) : (s.modJtag f).chan k = s.chan k := rfl
@[simp] theorem State.modJtag_engine (f : JtagState → JtagState) (k : Nat) : (s.modJtag f).engine k = s.engine k := rfl
@[simp] theorem State.modJtag_bank (f : JtagState → JtagState) (k : Nat) : (s.modJtag f).bank k = s.bank k := rfl
@[simp] theorem State.modJtag_layout (f : JtagState → JtagState) : (s.modJtag f).layout = s.layout := rfl
@[simp] theorem State.modJtag_hasLayout (f : JtagState → JtagState) : (s.modJtag f).hasLayout = s.hasLayout := rfl
@[simp] theorem State.modJtag_chanCfg? (f : JtagState → JtagState) (k : Nat) : (s.modJtag f).chanCfg? k = s.chanCfg? k := rfl
@[simp] theorem State.modJtag_fieldCfg? (f : JtagState → JtagState) (k : Nat) : (s.modJtag f).fieldCfg? k = s.fieldCfg? k := rfl
@[simp] theorem State.modJtag_plotCfg? (f : JtagState → JtagState) (k : Nat) : (s.modJtag f).plotCfg? k = s.plotCfg? k := rfl
@[simp] theorem State.modJtag_plotList (f : JtagState → JtagState) : (s.modJtag f).plotList = s.plotList := rfl
@[simp] theorem State.modJtag_fieldList (f : JtagState → JtagState) : (s.modJtag f).fieldList = s.fieldList := rfl
@[simp] theorem State.modJtag_semOwner (f : JtagState → JtagState) (k : Nat) : (s.modJtag f).semOwner k = s.semOwner k := rfl
@[simp] theorem State.modJtag_holdsSem (f : JtagState → JtagState) (i : Identity) (k : Nat) : (s.modJtag f).holdsSem i k = s.holdsSem i k := rfl
@[simp] theorem State.modJtag_writeLocked (f : JtagState → JtagState) (i : Identity) : (s.modJtag f).writeLocked i = s.writeLocked i := rfl
@[simp] theorem State.modJtag_deviceScope (f : JtagState → JtagState) : (s.modJtag f).deviceScope = s.deviceScope := rfl
@[simp] theorem State.modJtag_stackScope (f : JtagState → JtagState) : (s.modJtag f).stackScope = s.stackScope := rfl
@[simp] theorem State.modJtag_inScope (f : JtagState → JtagState) (k i : Nat) : (s.modJtag f).inScope k i = s.inScope k i := rfl

/-! `modTasks` -/

@[simp] theorem State.modTasks_member (f : List Task → List Task) : (s.modTasks f).member = s.member := rfl
@[simp] theorem State.modTasks_stepping (f : List Task → List Task) : (s.modTasks f).stepping = s.stepping := rfl
@[simp] theorem State.modTasks_timeUs (f : List Task → List Task) : (s.modTasks f).timeUs = s.timeUs := rfl
@[simp] theorem State.modTasks_free (f : List Task → List Task) : (s.modTasks f).free = s.free := rfl
@[simp] theorem State.modTasks_pending (f : List Task → List Task) : (s.modTasks f).pending = s.pending := rfl
@[simp] theorem State.modTasks_snaps (f : List Task → List Task) : (s.modTasks f).snaps = s.snaps := rfl
@[simp] theorem State.modTasks_replies (f : List Task → List Task) : (s.modTasks f).replies = s.replies := rfl
@[simp] theorem State.modTasks_arb (f : List Task → List Task) : (s.modTasks f).arb = s.arb := rfl
@[simp] theorem State.modTasks_engines (f : List Task → List Task) : (s.modTasks f).engines = s.engines := rfl
@[simp] theorem State.modTasks_saf (f : List Task → List Task) : (s.modTasks f).saf = s.saf := rfl
@[simp] theorem State.modTasks_lay (f : List Task → List Task) : (s.modTasks f).lay = s.lay := rfl
@[simp] theorem State.modTasks_pwr (f : List Task → List Task) : (s.modTasks f).pwr = s.pwr := rfl
@[simp] theorem State.modTasks_portA (f : List Task → List Task) : (s.modTasks f).portA = s.portA := rfl
@[simp] theorem State.modTasks_portB (f : List Task → List Task) : (s.modTasks f).portB = s.portB := rfl
@[simp] theorem State.modTasks_fn (f : List Task → List Task) : (s.modTasks f).fn = { s.fn with tasks := f s.fn.tasks } := rfl
@[simp] theorem State.modTasks_sem (f : List Task → List Task) : (s.modTasks f).sem = s.sem := rfl
@[simp] theorem State.modTasks_plots (f : List Task → List Task) : (s.modTasks f).plots = s.plots := rfl
@[simp] theorem State.modTasks_sec (f : List Task → List Task) : (s.modTasks f).sec = s.sec := rfl
@[simp] theorem State.modTasks_fields (f : List Task → List Task) : (s.modTasks f).fields = s.fields := rfl
@[simp] theorem State.modTasks_wall (f : List Task → List Task) : (s.modTasks f).wall = s.wall := rfl
@[simp] theorem State.modTasks_hold (f : List Task → List Task) : (s.modTasks f).hold = s.hold := rfl
@[simp] theorem State.modTasks_chans (f : List Task → List Task) : (s.modTasks f).chans = s.chans := rfl
@[simp] theorem State.modTasks_grn (f : List Task → List Task) : (s.modTasks f).grn = s.grn := rfl
@[simp] theorem State.modTasks_banks (f : List Task → List Task) : (s.modTasks f).banks = s.banks := rfl
@[simp] theorem State.modTasks_bankMem (f : List Task → List Task) : (s.modTasks f).bankMem = s.bankMem := rfl
@[simp] theorem State.modTasks_bankBad (f : List Task → List Task) : (s.modTasks f).bankBad = s.bankBad := rfl
@[simp] theorem State.modTasks_wins (f : List Task → List Task) : (s.modTasks f).wins = s.wins := rfl
@[simp] theorem State.modTasks_mpu (f : List Task → List Task) : (s.modTasks f).mpu = s.mpu := rfl
@[simp] theorem State.modTasks_stk (f : List Task → List Task) : (s.modTasks f).stk = s.stk := rfl
@[simp] theorem State.modTasks_jtag (f : List Task → List Task) : (s.modTasks f).jtag = s.jtag := rfl
@[simp] theorem State.modTasks_port (f : List Task → List Task) (q : Port) : (s.modTasks f).port q = s.port q := rfl
@[simp] theorem State.modTasks_plot (f : List Task → List Task) (k : Nat) : (s.modTasks f).plot k = s.plot k := rfl
@[simp] theorem State.modTasks_field (f : List Task → List Task) (k : Nat) : (s.modTasks f).field k = s.field k := rfl
@[simp] theorem State.modTasks_chan (f : List Task → List Task) (k : Nat) : (s.modTasks f).chan k = s.chan k := rfl
@[simp] theorem State.modTasks_engine (f : List Task → List Task) (k : Nat) : (s.modTasks f).engine k = s.engine k := rfl
@[simp] theorem State.modTasks_bank (f : List Task → List Task) (k : Nat) : (s.modTasks f).bank k = s.bank k := rfl
@[simp] theorem State.modTasks_layout (f : List Task → List Task) : (s.modTasks f).layout = s.layout := rfl
@[simp] theorem State.modTasks_hasLayout (f : List Task → List Task) : (s.modTasks f).hasLayout = s.hasLayout := rfl
@[simp] theorem State.modTasks_chanCfg? (f : List Task → List Task) (k : Nat) : (s.modTasks f).chanCfg? k = s.chanCfg? k := rfl
@[simp] theorem State.modTasks_fieldCfg? (f : List Task → List Task) (k : Nat) : (s.modTasks f).fieldCfg? k = s.fieldCfg? k := rfl
@[simp] theorem State.modTasks_plotCfg? (f : List Task → List Task) (k : Nat) : (s.modTasks f).plotCfg? k = s.plotCfg? k := rfl
@[simp] theorem State.modTasks_plotList (f : List Task → List Task) : (s.modTasks f).plotList = s.plotList := rfl
@[simp] theorem State.modTasks_fieldList (f : List Task → List Task) : (s.modTasks f).fieldList = s.fieldList := rfl
@[simp] theorem State.modTasks_semOwner (f : List Task → List Task) (k : Nat) : (s.modTasks f).semOwner k = s.semOwner k := rfl
@[simp] theorem State.modTasks_holdsSem (f : List Task → List Task) (i : Identity) (k : Nat) : (s.modTasks f).holdsSem i k = s.holdsSem i k := rfl
@[simp] theorem State.modTasks_writeLocked (f : List Task → List Task) (i : Identity) : (s.modTasks f).writeLocked i = s.writeLocked i := rfl
@[simp] theorem State.modTasks_deviceScope (f : List Task → List Task) : (s.modTasks f).deviceScope = s.deviceScope := rfl
@[simp] theorem State.modTasks_stackScope (f : List Task → List Task) : (s.modTasks f).stackScope = s.stackScope := rfl
@[simp] theorem State.modTasks_inScope (f : List Task → List Task) (k i : Nat) : (s.modTasks f).inScope k i = s.inScope k i := rfl

/-! `modPlot` -/

@[simp] theorem State.modPlot_member (n : Nat) (f : PlotState → PlotState) : (s.modPlot n f).member = s.member := rfl
@[simp] theorem State.modPlot_stepping (n : Nat) (f : PlotState → PlotState) : (s.modPlot n f).stepping = s.stepping := rfl
@[simp] theorem State.modPlot_timeUs (n : Nat) (f : PlotState → PlotState) : (s.modPlot n f).timeUs = s.timeUs := rfl
@[simp] theorem State.modPlot_free (n : Nat) (f : PlotState → PlotState) : (s.modPlot n f).free = s.free := rfl
@[simp] theorem State.modPlot_pending (n : Nat) (f : PlotState → PlotState) : (s.modPlot n f).pending = s.pending := rfl
@[simp] theorem State.modPlot_snaps (n : Nat) (f : PlotState → PlotState) : (s.modPlot n f).snaps = s.snaps := rfl
@[simp] theorem State.modPlot_replies (n : Nat) (f : PlotState → PlotState) : (s.modPlot n f).replies = s.replies := rfl
@[simp] theorem State.modPlot_arb (n : Nat) (f : PlotState → PlotState) : (s.modPlot n f).arb = s.arb := rfl
@[simp] theorem State.modPlot_engines (n : Nat) (f : PlotState → PlotState) : (s.modPlot n f).engines = s.engines := rfl
@[simp] theorem State.modPlot_saf (n : Nat) (f : PlotState → PlotState) : (s.modPlot n f).saf = s.saf := rfl
@[simp] theorem State.modPlot_lay (n : Nat) (f : PlotState → PlotState) : (s.modPlot n f).lay = s.lay := rfl
@[simp] theorem State.modPlot_pwr (n : Nat) (f : PlotState → PlotState) : (s.modPlot n f).pwr = s.pwr := rfl
@[simp] theorem State.modPlot_portA (n : Nat) (f : PlotState → PlotState) : (s.modPlot n f).portA = s.portA := rfl
@[simp] theorem State.modPlot_portB (n : Nat) (f : PlotState → PlotState) : (s.modPlot n f).portB = s.portB := rfl
@[simp] theorem State.modPlot_fn (n : Nat) (f : PlotState → PlotState) : (s.modPlot n f).fn = s.fn := rfl
@[simp] theorem State.modPlot_sem (n : Nat) (f : PlotState → PlotState) : (s.modPlot n f).sem = s.sem := rfl
@[simp] theorem State.modPlot_plots (n : Nat) (f : PlotState → PlotState) : (s.modPlot n f).plots = s.plots.modify n f := rfl
@[simp] theorem State.modPlot_sec (n : Nat) (f : PlotState → PlotState) : (s.modPlot n f).sec = s.sec := rfl
@[simp] theorem State.modPlot_fields (n : Nat) (f : PlotState → PlotState) : (s.modPlot n f).fields = s.fields := rfl
@[simp] theorem State.modPlot_wall (n : Nat) (f : PlotState → PlotState) : (s.modPlot n f).wall = s.wall := rfl
@[simp] theorem State.modPlot_hold (n : Nat) (f : PlotState → PlotState) : (s.modPlot n f).hold = s.hold := rfl
@[simp] theorem State.modPlot_chans (n : Nat) (f : PlotState → PlotState) : (s.modPlot n f).chans = s.chans := rfl
@[simp] theorem State.modPlot_grn (n : Nat) (f : PlotState → PlotState) : (s.modPlot n f).grn = s.grn := rfl
@[simp] theorem State.modPlot_banks (n : Nat) (f : PlotState → PlotState) : (s.modPlot n f).banks = s.banks := rfl
@[simp] theorem State.modPlot_bankMem (n : Nat) (f : PlotState → PlotState) : (s.modPlot n f).bankMem = s.bankMem := rfl
@[simp] theorem State.modPlot_bankBad (n : Nat) (f : PlotState → PlotState) : (s.modPlot n f).bankBad = s.bankBad := rfl
@[simp] theorem State.modPlot_wins (n : Nat) (f : PlotState → PlotState) : (s.modPlot n f).wins = s.wins := rfl
@[simp] theorem State.modPlot_mpu (n : Nat) (f : PlotState → PlotState) : (s.modPlot n f).mpu = s.mpu := rfl
@[simp] theorem State.modPlot_stk (n : Nat) (f : PlotState → PlotState) : (s.modPlot n f).stk = s.stk := rfl
@[simp] theorem State.modPlot_jtag (n : Nat) (f : PlotState → PlotState) : (s.modPlot n f).jtag = s.jtag := rfl
@[simp] theorem State.modPlot_port (n : Nat) (f : PlotState → PlotState) (q : Port) : (s.modPlot n f).port q = s.port q := rfl
@[simp] theorem State.modPlot_pfn (n : Nat) (f : PlotState → PlotState) (q : Port) : (s.modPlot n f).pfn q = s.pfn q := rfl
@[simp] theorem State.modPlot_field (n : Nat) (f : PlotState → PlotState) (k : Nat) : (s.modPlot n f).field k = s.field k := rfl
@[simp] theorem State.modPlot_chan (n : Nat) (f : PlotState → PlotState) (k : Nat) : (s.modPlot n f).chan k = s.chan k := rfl
@[simp] theorem State.modPlot_engine (n : Nat) (f : PlotState → PlotState) (k : Nat) : (s.modPlot n f).engine k = s.engine k := rfl
@[simp] theorem State.modPlot_bank (n : Nat) (f : PlotState → PlotState) (k : Nat) : (s.modPlot n f).bank k = s.bank k := rfl
@[simp] theorem State.modPlot_layout (n : Nat) (f : PlotState → PlotState) : (s.modPlot n f).layout = s.layout := rfl
@[simp] theorem State.modPlot_hasLayout (n : Nat) (f : PlotState → PlotState) : (s.modPlot n f).hasLayout = s.hasLayout := rfl
@[simp] theorem State.modPlot_chanCfg? (n : Nat) (f : PlotState → PlotState) (k : Nat) : (s.modPlot n f).chanCfg? k = s.chanCfg? k := rfl
@[simp] theorem State.modPlot_fieldCfg? (n : Nat) (f : PlotState → PlotState) (k : Nat) : (s.modPlot n f).fieldCfg? k = s.fieldCfg? k := rfl
@[simp] theorem State.modPlot_plotCfg? (n : Nat) (f : PlotState → PlotState) (k : Nat) : (s.modPlot n f).plotCfg? k = s.plotCfg? k := rfl
@[simp] theorem State.modPlot_plotList (n : Nat) (f : PlotState → PlotState) : (s.modPlot n f).plotList = s.plotList := rfl
@[simp] theorem State.modPlot_fieldList (n : Nat) (f : PlotState → PlotState) : (s.modPlot n f).fieldList = s.fieldList := rfl
@[simp] theorem State.modPlot_semOwner (n : Nat) (f : PlotState → PlotState) (k : Nat) : (s.modPlot n f).semOwner k = s.semOwner k := rfl
@[simp] theorem State.modPlot_holdsSem (n : Nat) (f : PlotState → PlotState) (i : Identity) (k : Nat) : (s.modPlot n f).holdsSem i k = s.holdsSem i k := rfl
@[simp] theorem State.modPlot_writeLocked (n : Nat) (f : PlotState → PlotState) (i : Identity) : (s.modPlot n f).writeLocked i = s.writeLocked i := rfl
@[simp] theorem State.modPlot_deviceScope (n : Nat) (f : PlotState → PlotState) : (s.modPlot n f).deviceScope = s.deviceScope := rfl
@[simp] theorem State.modPlot_stackScope (n : Nat) (f : PlotState → PlotState) : (s.modPlot n f).stackScope = s.stackScope := rfl
@[simp] theorem State.modPlot_inScope (n : Nat) (f : PlotState → PlotState) (k i : Nat) : (s.modPlot n f).inScope k i = s.inScope k i := rfl
theorem State.modPlot_plot (n : Nat) (f : PlotState → PlotState) (h : n < s.plots.length) : (s.modPlot n f).plot n = f (s.plot n) := by
  simp [State.modPlot, State.plot, List.getD, h]
theorem State.modPlot_plot_ne (n : Nat) (f : PlotState → PlotState) (k : Nat) (h : n ≠ k) : (s.modPlot n f).plot k = s.plot k := by
  simp [State.modPlot, State.plot, List.getD, h]

/-! `modField` -/

@[simp] theorem State.modField_member (n : Nat) (f : FieldState → FieldState) : (s.modField n f).member = s.member := rfl
@[simp] theorem State.modField_stepping (n : Nat) (f : FieldState → FieldState) : (s.modField n f).stepping = s.stepping := rfl
@[simp] theorem State.modField_timeUs (n : Nat) (f : FieldState → FieldState) : (s.modField n f).timeUs = s.timeUs := rfl
@[simp] theorem State.modField_free (n : Nat) (f : FieldState → FieldState) : (s.modField n f).free = s.free := rfl
@[simp] theorem State.modField_pending (n : Nat) (f : FieldState → FieldState) : (s.modField n f).pending = s.pending := rfl
@[simp] theorem State.modField_snaps (n : Nat) (f : FieldState → FieldState) : (s.modField n f).snaps = s.snaps := rfl
@[simp] theorem State.modField_replies (n : Nat) (f : FieldState → FieldState) : (s.modField n f).replies = s.replies := rfl
@[simp] theorem State.modField_arb (n : Nat) (f : FieldState → FieldState) : (s.modField n f).arb = s.arb := rfl
@[simp] theorem State.modField_engines (n : Nat) (f : FieldState → FieldState) : (s.modField n f).engines = s.engines := rfl
@[simp] theorem State.modField_saf (n : Nat) (f : FieldState → FieldState) : (s.modField n f).saf = s.saf := rfl
@[simp] theorem State.modField_lay (n : Nat) (f : FieldState → FieldState) : (s.modField n f).lay = s.lay := rfl
@[simp] theorem State.modField_pwr (n : Nat) (f : FieldState → FieldState) : (s.modField n f).pwr = s.pwr := rfl
@[simp] theorem State.modField_portA (n : Nat) (f : FieldState → FieldState) : (s.modField n f).portA = s.portA := rfl
@[simp] theorem State.modField_portB (n : Nat) (f : FieldState → FieldState) : (s.modField n f).portB = s.portB := rfl
@[simp] theorem State.modField_fn (n : Nat) (f : FieldState → FieldState) : (s.modField n f).fn = s.fn := rfl
@[simp] theorem State.modField_sem (n : Nat) (f : FieldState → FieldState) : (s.modField n f).sem = s.sem := rfl
@[simp] theorem State.modField_plots (n : Nat) (f : FieldState → FieldState) : (s.modField n f).plots = s.plots := rfl
@[simp] theorem State.modField_sec (n : Nat) (f : FieldState → FieldState) : (s.modField n f).sec = s.sec := rfl
@[simp] theorem State.modField_fields (n : Nat) (f : FieldState → FieldState) : (s.modField n f).fields = s.fields.modify n f := rfl
@[simp] theorem State.modField_wall (n : Nat) (f : FieldState → FieldState) : (s.modField n f).wall = s.wall := rfl
@[simp] theorem State.modField_hold (n : Nat) (f : FieldState → FieldState) : (s.modField n f).hold = s.hold := rfl
@[simp] theorem State.modField_chans (n : Nat) (f : FieldState → FieldState) : (s.modField n f).chans = s.chans := rfl
@[simp] theorem State.modField_grn (n : Nat) (f : FieldState → FieldState) : (s.modField n f).grn = s.grn := rfl
@[simp] theorem State.modField_banks (n : Nat) (f : FieldState → FieldState) : (s.modField n f).banks = s.banks := rfl
@[simp] theorem State.modField_bankMem (n : Nat) (f : FieldState → FieldState) : (s.modField n f).bankMem = s.bankMem := rfl
@[simp] theorem State.modField_bankBad (n : Nat) (f : FieldState → FieldState) : (s.modField n f).bankBad = s.bankBad := rfl
@[simp] theorem State.modField_wins (n : Nat) (f : FieldState → FieldState) : (s.modField n f).wins = s.wins := rfl
@[simp] theorem State.modField_mpu (n : Nat) (f : FieldState → FieldState) : (s.modField n f).mpu = s.mpu := rfl
@[simp] theorem State.modField_stk (n : Nat) (f : FieldState → FieldState) : (s.modField n f).stk = s.stk := rfl
@[simp] theorem State.modField_jtag (n : Nat) (f : FieldState → FieldState) : (s.modField n f).jtag = s.jtag := rfl
@[simp] theorem State.modField_port (n : Nat) (f : FieldState → FieldState) (q : Port) : (s.modField n f).port q = s.port q := rfl
@[simp] theorem State.modField_pfn (n : Nat) (f : FieldState → FieldState) (q : Port) : (s.modField n f).pfn q = s.pfn q := rfl
@[simp] theorem State.modField_plot (n : Nat) (f : FieldState → FieldState) (k : Nat) : (s.modField n f).plot k = s.plot k := rfl
@[simp] theorem State.modField_chan (n : Nat) (f : FieldState → FieldState) (k : Nat) : (s.modField n f).chan k = s.chan k := rfl
@[simp] theorem State.modField_engine (n : Nat) (f : FieldState → FieldState) (k : Nat) : (s.modField n f).engine k = s.engine k := rfl
@[simp] theorem State.modField_bank (n : Nat) (f : FieldState → FieldState) (k : Nat) : (s.modField n f).bank k = s.bank k := rfl
@[simp] theorem State.modField_layout (n : Nat) (f : FieldState → FieldState) : (s.modField n f).layout = s.layout := rfl
@[simp] theorem State.modField_hasLayout (n : Nat) (f : FieldState → FieldState) : (s.modField n f).hasLayout = s.hasLayout := rfl
@[simp] theorem State.modField_chanCfg? (n : Nat) (f : FieldState → FieldState) (k : Nat) : (s.modField n f).chanCfg? k = s.chanCfg? k := rfl
@[simp] theorem State.modField_fieldCfg? (n : Nat) (f : FieldState → FieldState) (k : Nat) : (s.modField n f).fieldCfg? k = s.fieldCfg? k := rfl
@[simp] theorem State.modField_plotCfg? (n : Nat) (f : FieldState → FieldState) (k : Nat) : (s.modField n f).plotCfg? k = s.plotCfg? k := rfl
@[simp] theorem State.modField_plotList (n : Nat) (f : FieldState → FieldState) : (s.modField n f).plotList = s.plotList := rfl
@[simp] theorem State.modField_fieldList (n : Nat) (f : FieldState → FieldState) : (s.modField n f).fieldList = s.fieldList := rfl
@[simp] theorem State.modField_semOwner (n : Nat) (f : FieldState → FieldState) (k : Nat) : (s.modField n f).semOwner k = s.semOwner k := rfl
@[simp] theorem State.modField_holdsSem (n : Nat) (f : FieldState → FieldState) (i : Identity) (k : Nat) : (s.modField n f).holdsSem i k = s.holdsSem i k := rfl
@[simp] theorem State.modField_writeLocked (n : Nat) (f : FieldState → FieldState) (i : Identity) : (s.modField n f).writeLocked i = s.writeLocked i := rfl
@[simp] theorem State.modField_deviceScope (n : Nat) (f : FieldState → FieldState) : (s.modField n f).deviceScope = s.deviceScope := rfl
@[simp] theorem State.modField_stackScope (n : Nat) (f : FieldState → FieldState) : (s.modField n f).stackScope = s.stackScope := rfl
@[simp] theorem State.modField_inScope (n : Nat) (f : FieldState → FieldState) (k i : Nat) : (s.modField n f).inScope k i = s.inScope k i := rfl
theorem State.modField_field (n : Nat) (f : FieldState → FieldState) (h : n < s.fields.length) : (s.modField n f).field n = f (s.field n) := by
  simp [State.modField, State.field, List.getD, h]
theorem State.modField_field_ne (n : Nat) (f : FieldState → FieldState) (k : Nat) (h : n ≠ k) : (s.modField n f).field k = s.field k := by
  simp [State.modField, State.field, List.getD, h]

/-! `modChan` -/

@[simp] theorem State.modChan_member (n : Nat) (f : ChanState → ChanState) : (s.modChan n f).member = s.member := rfl
@[simp] theorem State.modChan_stepping (n : Nat) (f : ChanState → ChanState) : (s.modChan n f).stepping = s.stepping := rfl
@[simp] theorem State.modChan_timeUs (n : Nat) (f : ChanState → ChanState) : (s.modChan n f).timeUs = s.timeUs := rfl
@[simp] theorem State.modChan_free (n : Nat) (f : ChanState → ChanState) : (s.modChan n f).free = s.free := rfl
@[simp] theorem State.modChan_pending (n : Nat) (f : ChanState → ChanState) : (s.modChan n f).pending = s.pending := rfl
@[simp] theorem State.modChan_snaps (n : Nat) (f : ChanState → ChanState) : (s.modChan n f).snaps = s.snaps := rfl
@[simp] theorem State.modChan_replies (n : Nat) (f : ChanState → ChanState) : (s.modChan n f).replies = s.replies := rfl
@[simp] theorem State.modChan_arb (n : Nat) (f : ChanState → ChanState) : (s.modChan n f).arb = s.arb := rfl
@[simp] theorem State.modChan_engines (n : Nat) (f : ChanState → ChanState) : (s.modChan n f).engines = s.engines := rfl
@[simp] theorem State.modChan_saf (n : Nat) (f : ChanState → ChanState) : (s.modChan n f).saf = s.saf := rfl
@[simp] theorem State.modChan_lay (n : Nat) (f : ChanState → ChanState) : (s.modChan n f).lay = s.lay := rfl
@[simp] theorem State.modChan_pwr (n : Nat) (f : ChanState → ChanState) : (s.modChan n f).pwr = s.pwr := rfl
@[simp] theorem State.modChan_portA (n : Nat) (f : ChanState → ChanState) : (s.modChan n f).portA = s.portA := rfl
@[simp] theorem State.modChan_portB (n : Nat) (f : ChanState → ChanState) : (s.modChan n f).portB = s.portB := rfl
@[simp] theorem State.modChan_fn (n : Nat) (f : ChanState → ChanState) : (s.modChan n f).fn = s.fn := rfl
@[simp] theorem State.modChan_sem (n : Nat) (f : ChanState → ChanState) : (s.modChan n f).sem = s.sem := rfl
@[simp] theorem State.modChan_plots (n : Nat) (f : ChanState → ChanState) : (s.modChan n f).plots = s.plots := rfl
@[simp] theorem State.modChan_sec (n : Nat) (f : ChanState → ChanState) : (s.modChan n f).sec = s.sec := rfl
@[simp] theorem State.modChan_fields (n : Nat) (f : ChanState → ChanState) : (s.modChan n f).fields = s.fields := rfl
@[simp] theorem State.modChan_wall (n : Nat) (f : ChanState → ChanState) : (s.modChan n f).wall = s.wall := rfl
@[simp] theorem State.modChan_hold (n : Nat) (f : ChanState → ChanState) : (s.modChan n f).hold = s.hold := rfl
@[simp] theorem State.modChan_chans (n : Nat) (f : ChanState → ChanState) : (s.modChan n f).chans = s.chans.modify n f := rfl
@[simp] theorem State.modChan_grn (n : Nat) (f : ChanState → ChanState) : (s.modChan n f).grn = s.grn := rfl
@[simp] theorem State.modChan_banks (n : Nat) (f : ChanState → ChanState) : (s.modChan n f).banks = s.banks := rfl
@[simp] theorem State.modChan_bankMem (n : Nat) (f : ChanState → ChanState) : (s.modChan n f).bankMem = s.bankMem := rfl
@[simp] theorem State.modChan_bankBad (n : Nat) (f : ChanState → ChanState) : (s.modChan n f).bankBad = s.bankBad := rfl
@[simp] theorem State.modChan_wins (n : Nat) (f : ChanState → ChanState) : (s.modChan n f).wins = s.wins := rfl
@[simp] theorem State.modChan_mpu (n : Nat) (f : ChanState → ChanState) : (s.modChan n f).mpu = s.mpu := rfl
@[simp] theorem State.modChan_stk (n : Nat) (f : ChanState → ChanState) : (s.modChan n f).stk = s.stk := rfl
@[simp] theorem State.modChan_jtag (n : Nat) (f : ChanState → ChanState) : (s.modChan n f).jtag = s.jtag := rfl
@[simp] theorem State.modChan_port (n : Nat) (f : ChanState → ChanState) (q : Port) : (s.modChan n f).port q = s.port q := rfl
@[simp] theorem State.modChan_pfn (n : Nat) (f : ChanState → ChanState) (q : Port) : (s.modChan n f).pfn q = s.pfn q := rfl
@[simp] theorem State.modChan_plot (n : Nat) (f : ChanState → ChanState) (k : Nat) : (s.modChan n f).plot k = s.plot k := rfl
@[simp] theorem State.modChan_field (n : Nat) (f : ChanState → ChanState) (k : Nat) : (s.modChan n f).field k = s.field k := rfl
@[simp] theorem State.modChan_engine (n : Nat) (f : ChanState → ChanState) (k : Nat) : (s.modChan n f).engine k = s.engine k := rfl
@[simp] theorem State.modChan_bank (n : Nat) (f : ChanState → ChanState) (k : Nat) : (s.modChan n f).bank k = s.bank k := rfl
@[simp] theorem State.modChan_layout (n : Nat) (f : ChanState → ChanState) : (s.modChan n f).layout = s.layout := rfl
@[simp] theorem State.modChan_hasLayout (n : Nat) (f : ChanState → ChanState) : (s.modChan n f).hasLayout = s.hasLayout := rfl
@[simp] theorem State.modChan_chanCfg? (n : Nat) (f : ChanState → ChanState) (k : Nat) : (s.modChan n f).chanCfg? k = s.chanCfg? k := rfl
@[simp] theorem State.modChan_fieldCfg? (n : Nat) (f : ChanState → ChanState) (k : Nat) : (s.modChan n f).fieldCfg? k = s.fieldCfg? k := rfl
@[simp] theorem State.modChan_plotCfg? (n : Nat) (f : ChanState → ChanState) (k : Nat) : (s.modChan n f).plotCfg? k = s.plotCfg? k := rfl
@[simp] theorem State.modChan_plotList (n : Nat) (f : ChanState → ChanState) : (s.modChan n f).plotList = s.plotList := rfl
@[simp] theorem State.modChan_fieldList (n : Nat) (f : ChanState → ChanState) : (s.modChan n f).fieldList = s.fieldList := rfl
@[simp] theorem State.modChan_semOwner (n : Nat) (f : ChanState → ChanState) (k : Nat) : (s.modChan n f).semOwner k = s.semOwner k := rfl
@[simp] theorem State.modChan_holdsSem (n : Nat) (f : ChanState → ChanState) (i : Identity) (k : Nat) : (s.modChan n f).holdsSem i k = s.holdsSem i k := rfl
@[simp] theorem State.modChan_writeLocked (n : Nat) (f : ChanState → ChanState) (i : Identity) : (s.modChan n f).writeLocked i = s.writeLocked i := rfl
@[simp] theorem State.modChan_deviceScope (n : Nat) (f : ChanState → ChanState) : (s.modChan n f).deviceScope = s.deviceScope := rfl
@[simp] theorem State.modChan_stackScope (n : Nat) (f : ChanState → ChanState) : (s.modChan n f).stackScope = s.stackScope := rfl
@[simp] theorem State.modChan_inScope (n : Nat) (f : ChanState → ChanState) (k i : Nat) : (s.modChan n f).inScope k i = s.inScope k i := rfl
theorem State.modChan_chan (n : Nat) (f : ChanState → ChanState) (h : n < s.chans.length) : (s.modChan n f).chan n = f (s.chan n) := by
  simp [State.modChan, State.chan, List.getD, h]
theorem State.modChan_chan_ne (n : Nat) (f : ChanState → ChanState) (k : Nat) (h : n ≠ k) : (s.modChan n f).chan k = s.chan k := by
  simp [State.modChan, State.chan, List.getD, h]

/-! `modEngine` -/

@[simp] theorem State.modEngine_member (n : Nat) (f : CipherState → CipherState) : (s.modEngine n f).member = s.member := rfl
@[simp] theorem State.modEngine_stepping (n : Nat) (f : CipherState → CipherState) : (s.modEngine n f).stepping = s.stepping := rfl
@[simp] theorem State.modEngine_timeUs (n : Nat) (f : CipherState → CipherState) : (s.modEngine n f).timeUs = s.timeUs := rfl
@[simp] theorem State.modEngine_free (n : Nat) (f : CipherState → CipherState) : (s.modEngine n f).free = s.free := rfl
@[simp] theorem State.modEngine_pending (n : Nat) (f : CipherState → CipherState) : (s.modEngine n f).pending = s.pending := rfl
@[simp] theorem State.modEngine_snaps (n : Nat) (f : CipherState → CipherState) : (s.modEngine n f).snaps = s.snaps := rfl
@[simp] theorem State.modEngine_replies (n : Nat) (f : CipherState → CipherState) : (s.modEngine n f).replies = s.replies := rfl
@[simp] theorem State.modEngine_arb (n : Nat) (f : CipherState → CipherState) : (s.modEngine n f).arb = s.arb := rfl
@[simp] theorem State.modEngine_engines (n : Nat) (f : CipherState → CipherState) : (s.modEngine n f).engines = s.engines.modify n f := rfl
@[simp] theorem State.modEngine_saf (n : Nat) (f : CipherState → CipherState) : (s.modEngine n f).saf = s.saf := rfl
@[simp] theorem State.modEngine_lay (n : Nat) (f : CipherState → CipherState) : (s.modEngine n f).lay = s.lay := rfl
@[simp] theorem State.modEngine_pwr (n : Nat) (f : CipherState → CipherState) : (s.modEngine n f).pwr = s.pwr := rfl
@[simp] theorem State.modEngine_portA (n : Nat) (f : CipherState → CipherState) : (s.modEngine n f).portA = s.portA := rfl
@[simp] theorem State.modEngine_portB (n : Nat) (f : CipherState → CipherState) : (s.modEngine n f).portB = s.portB := rfl
@[simp] theorem State.modEngine_fn (n : Nat) (f : CipherState → CipherState) : (s.modEngine n f).fn = s.fn := rfl
@[simp] theorem State.modEngine_sem (n : Nat) (f : CipherState → CipherState) : (s.modEngine n f).sem = s.sem := rfl
@[simp] theorem State.modEngine_plots (n : Nat) (f : CipherState → CipherState) : (s.modEngine n f).plots = s.plots := rfl
@[simp] theorem State.modEngine_sec (n : Nat) (f : CipherState → CipherState) : (s.modEngine n f).sec = s.sec := rfl
@[simp] theorem State.modEngine_fields (n : Nat) (f : CipherState → CipherState) : (s.modEngine n f).fields = s.fields := rfl
@[simp] theorem State.modEngine_wall (n : Nat) (f : CipherState → CipherState) : (s.modEngine n f).wall = s.wall := rfl
@[simp] theorem State.modEngine_hold (n : Nat) (f : CipherState → CipherState) : (s.modEngine n f).hold = s.hold := rfl
@[simp] theorem State.modEngine_chans (n : Nat) (f : CipherState → CipherState) : (s.modEngine n f).chans = s.chans := rfl
@[simp] theorem State.modEngine_grn (n : Nat) (f : CipherState → CipherState) : (s.modEngine n f).grn = s.grn := rfl
@[simp] theorem State.modEngine_banks (n : Nat) (f : CipherState → CipherState) : (s.modEngine n f).banks = s.banks := rfl
@[simp] theorem State.modEngine_bankMem (n : Nat) (f : CipherState → CipherState) : (s.modEngine n f).bankMem = s.bankMem := rfl
@[simp] theorem State.modEngine_bankBad (n : Nat) (f : CipherState → CipherState) : (s.modEngine n f).bankBad = s.bankBad := rfl
@[simp] theorem State.modEngine_wins (n : Nat) (f : CipherState → CipherState) : (s.modEngine n f).wins = s.wins := rfl
@[simp] theorem State.modEngine_mpu (n : Nat) (f : CipherState → CipherState) : (s.modEngine n f).mpu = s.mpu := rfl
@[simp] theorem State.modEngine_stk (n : Nat) (f : CipherState → CipherState) : (s.modEngine n f).stk = s.stk := rfl
@[simp] theorem State.modEngine_jtag (n : Nat) (f : CipherState → CipherState) : (s.modEngine n f).jtag = s.jtag := rfl
@[simp] theorem State.modEngine_port (n : Nat) (f : CipherState → CipherState) (q : Port) : (s.modEngine n f).port q = s.port q := rfl
@[simp] theorem State.modEngine_pfn (n : Nat) (f : CipherState → CipherState) (q : Port) : (s.modEngine n f).pfn q = s.pfn q := rfl
@[simp] theorem State.modEngine_plot (n : Nat) (f : CipherState → CipherState) (k : Nat) : (s.modEngine n f).plot k = s.plot k := rfl
@[simp] theorem State.modEngine_field (n : Nat) (f : CipherState → CipherState) (k : Nat) : (s.modEngine n f).field k = s.field k := rfl
@[simp] theorem State.modEngine_chan (n : Nat) (f : CipherState → CipherState) (k : Nat) : (s.modEngine n f).chan k = s.chan k := rfl
@[simp] theorem State.modEngine_bank (n : Nat) (f : CipherState → CipherState) (k : Nat) : (s.modEngine n f).bank k = s.bank k := rfl
@[simp] theorem State.modEngine_layout (n : Nat) (f : CipherState → CipherState) : (s.modEngine n f).layout = s.layout := rfl
@[simp] theorem State.modEngine_hasLayout (n : Nat) (f : CipherState → CipherState) : (s.modEngine n f).hasLayout = s.hasLayout := rfl
@[simp] theorem State.modEngine_chanCfg? (n : Nat) (f : CipherState → CipherState) (k : Nat) : (s.modEngine n f).chanCfg? k = s.chanCfg? k := rfl
@[simp] theorem State.modEngine_fieldCfg? (n : Nat) (f : CipherState → CipherState) (k : Nat) : (s.modEngine n f).fieldCfg? k = s.fieldCfg? k := rfl
@[simp] theorem State.modEngine_plotCfg? (n : Nat) (f : CipherState → CipherState) (k : Nat) : (s.modEngine n f).plotCfg? k = s.plotCfg? k := rfl
@[simp] theorem State.modEngine_plotList (n : Nat) (f : CipherState → CipherState) : (s.modEngine n f).plotList = s.plotList := rfl
@[simp] theorem State.modEngine_fieldList (n : Nat) (f : CipherState → CipherState) : (s.modEngine n f).fieldList = s.fieldList := rfl
@[simp] theorem State.modEngine_semOwner (n : Nat) (f : CipherState → CipherState) (k : Nat) : (s.modEngine n f).semOwner k = s.semOwner k := rfl
@[simp] theorem State.modEngine_holdsSem (n : Nat) (f : CipherState → CipherState) (i : Identity) (k : Nat) : (s.modEngine n f).holdsSem i k = s.holdsSem i k := rfl
@[simp] theorem State.modEngine_writeLocked (n : Nat) (f : CipherState → CipherState) (i : Identity) : (s.modEngine n f).writeLocked i = s.writeLocked i := rfl
@[simp] theorem State.modEngine_deviceScope (n : Nat) (f : CipherState → CipherState) : (s.modEngine n f).deviceScope = s.deviceScope := rfl
@[simp] theorem State.modEngine_stackScope (n : Nat) (f : CipherState → CipherState) : (s.modEngine n f).stackScope = s.stackScope := rfl
@[simp] theorem State.modEngine_inScope (n : Nat) (f : CipherState → CipherState) (k i : Nat) : (s.modEngine n f).inScope k i = s.inScope k i := rfl
theorem State.modEngine_engine (n : Nat) (f : CipherState → CipherState) (h : n < s.engines.length) : (s.modEngine n f).engine n = f (s.engine n) := by
  simp [State.modEngine, State.engine, List.getD, h]
theorem State.modEngine_engine_ne (n : Nat) (f : CipherState → CipherState) (k : Nat) (h : n ≠ k) : (s.modEngine n f).engine k = s.engine k := by
  simp [State.modEngine, State.engine, List.getD, h]

/-! `modBank` -/

@[simp] theorem State.modBank_member (n : Nat) (f : BankState → BankState) : (s.modBank n f).member = s.member := rfl
@[simp] theorem State.modBank_stepping (n : Nat) (f : BankState → BankState) : (s.modBank n f).stepping = s.stepping := rfl
@[simp] theorem State.modBank_timeUs (n : Nat) (f : BankState → BankState) : (s.modBank n f).timeUs = s.timeUs := rfl
@[simp] theorem State.modBank_free (n : Nat) (f : BankState → BankState) : (s.modBank n f).free = s.free := rfl
@[simp] theorem State.modBank_pending (n : Nat) (f : BankState → BankState) : (s.modBank n f).pending = s.pending := rfl
@[simp] theorem State.modBank_snaps (n : Nat) (f : BankState → BankState) : (s.modBank n f).snaps = s.snaps := rfl
@[simp] theorem State.modBank_replies (n : Nat) (f : BankState → BankState) : (s.modBank n f).replies = s.replies := rfl
@[simp] theorem State.modBank_arb (n : Nat) (f : BankState → BankState) : (s.modBank n f).arb = s.arb := rfl
@[simp] theorem State.modBank_engines (n : Nat) (f : BankState → BankState) : (s.modBank n f).engines = s.engines := rfl
@[simp] theorem State.modBank_saf (n : Nat) (f : BankState → BankState) : (s.modBank n f).saf = s.saf := rfl
@[simp] theorem State.modBank_lay (n : Nat) (f : BankState → BankState) : (s.modBank n f).lay = s.lay := rfl
@[simp] theorem State.modBank_pwr (n : Nat) (f : BankState → BankState) : (s.modBank n f).pwr = s.pwr := rfl
@[simp] theorem State.modBank_portA (n : Nat) (f : BankState → BankState) : (s.modBank n f).portA = s.portA := rfl
@[simp] theorem State.modBank_portB (n : Nat) (f : BankState → BankState) : (s.modBank n f).portB = s.portB := rfl
@[simp] theorem State.modBank_fn (n : Nat) (f : BankState → BankState) : (s.modBank n f).fn = s.fn := rfl
@[simp] theorem State.modBank_sem (n : Nat) (f : BankState → BankState) : (s.modBank n f).sem = s.sem := rfl
@[simp] theorem State.modBank_plots (n : Nat) (f : BankState → BankState) : (s.modBank n f).plots = s.plots := rfl
@[simp] theorem State.modBank_sec (n : Nat) (f : BankState → BankState) : (s.modBank n f).sec = s.sec := rfl
@[simp] theorem State.modBank_fields (n : Nat) (f : BankState → BankState) : (s.modBank n f).fields = s.fields := rfl
@[simp] theorem State.modBank_wall (n : Nat) (f : BankState → BankState) : (s.modBank n f).wall = s.wall := rfl
@[simp] theorem State.modBank_hold (n : Nat) (f : BankState → BankState) : (s.modBank n f).hold = s.hold := rfl
@[simp] theorem State.modBank_chans (n : Nat) (f : BankState → BankState) : (s.modBank n f).chans = s.chans := rfl
@[simp] theorem State.modBank_grn (n : Nat) (f : BankState → BankState) : (s.modBank n f).grn = s.grn := rfl
@[simp] theorem State.modBank_banks (n : Nat) (f : BankState → BankState) : (s.modBank n f).banks = s.banks.modify n f := rfl
@[simp] theorem State.modBank_bankMem (n : Nat) (f : BankState → BankState) : (s.modBank n f).bankMem = s.bankMem := rfl
@[simp] theorem State.modBank_bankBad (n : Nat) (f : BankState → BankState) : (s.modBank n f).bankBad = s.bankBad := rfl
@[simp] theorem State.modBank_wins (n : Nat) (f : BankState → BankState) : (s.modBank n f).wins = s.wins := rfl
@[simp] theorem State.modBank_mpu (n : Nat) (f : BankState → BankState) : (s.modBank n f).mpu = s.mpu := rfl
@[simp] theorem State.modBank_stk (n : Nat) (f : BankState → BankState) : (s.modBank n f).stk = s.stk := rfl
@[simp] theorem State.modBank_jtag (n : Nat) (f : BankState → BankState) : (s.modBank n f).jtag = s.jtag := rfl
@[simp] theorem State.modBank_port (n : Nat) (f : BankState → BankState) (q : Port) : (s.modBank n f).port q = s.port q := rfl
@[simp] theorem State.modBank_pfn (n : Nat) (f : BankState → BankState) (q : Port) : (s.modBank n f).pfn q = s.pfn q := rfl
@[simp] theorem State.modBank_plot (n : Nat) (f : BankState → BankState) (k : Nat) : (s.modBank n f).plot k = s.plot k := rfl
@[simp] theorem State.modBank_field (n : Nat) (f : BankState → BankState) (k : Nat) : (s.modBank n f).field k = s.field k := rfl
@[simp] theorem State.modBank_chan (n : Nat) (f : BankState → BankState) (k : Nat) : (s.modBank n f).chan k = s.chan k := rfl
@[simp] theorem State.modBank_engine (n : Nat) (f : BankState → BankState) (k : Nat) : (s.modBank n f).engine k = s.engine k := rfl
@[simp] theorem State.modBank_layout (n : Nat) (f : BankState → BankState) : (s.modBank n f).layout = s.layout := rfl
@[simp] theorem State.modBank_hasLayout (n : Nat) (f : BankState → BankState) : (s.modBank n f).hasLayout = s.hasLayout := rfl
@[simp] theorem State.modBank_chanCfg? (n : Nat) (f : BankState → BankState) (k : Nat) : (s.modBank n f).chanCfg? k = s.chanCfg? k := rfl
@[simp] theorem State.modBank_fieldCfg? (n : Nat) (f : BankState → BankState) (k : Nat) : (s.modBank n f).fieldCfg? k = s.fieldCfg? k := rfl
@[simp] theorem State.modBank_plotCfg? (n : Nat) (f : BankState → BankState) (k : Nat) : (s.modBank n f).plotCfg? k = s.plotCfg? k := rfl
@[simp] theorem State.modBank_plotList (n : Nat) (f : BankState → BankState) : (s.modBank n f).plotList = s.plotList := rfl
@[simp] theorem State.modBank_fieldList (n : Nat) (f : BankState → BankState) : (s.modBank n f).fieldList = s.fieldList := rfl
@[simp] theorem State.modBank_semOwner (n : Nat) (f : BankState → BankState) (k : Nat) : (s.modBank n f).semOwner k = s.semOwner k := rfl
@[simp] theorem State.modBank_holdsSem (n : Nat) (f : BankState → BankState) (i : Identity) (k : Nat) : (s.modBank n f).holdsSem i k = s.holdsSem i k := rfl
@[simp] theorem State.modBank_writeLocked (n : Nat) (f : BankState → BankState) (i : Identity) : (s.modBank n f).writeLocked i = s.writeLocked i := rfl
@[simp] theorem State.modBank_deviceScope (n : Nat) (f : BankState → BankState) : (s.modBank n f).deviceScope = s.deviceScope := rfl
@[simp] theorem State.modBank_stackScope (n : Nat) (f : BankState → BankState) : (s.modBank n f).stackScope = s.stackScope := rfl
@[simp] theorem State.modBank_inScope (n : Nat) (f : BankState → BankState) (k i : Nat) : (s.modBank n f).inScope k i = s.inScope k i := rfl
theorem State.modBank_bank (n : Nat) (f : BankState → BankState) (h : n < s.banks.length) : (s.modBank n f).bank n = f (s.bank n) := by
  simp [State.modBank, State.bank, List.getD, h]
theorem State.modBank_bank_ne (n : Nat) (f : BankState → BankState) (k : Nat) (h : n ≠ k) : (s.modBank n f).bank k = s.bank k := by
  simp [State.modBank, State.bank, List.getD, h]

/-! `modPort` and `modPfn` -/

@[simp] theorem State.modPort_member (p : Port) (f : PortState → PortState) : (s.modPort p f).member = s.member := by cases p <;> rfl
@[simp] theorem State.modPort_stepping (p : Port) (f : PortState → PortState) : (s.modPort p f).stepping = s.stepping := by cases p <;> rfl
@[simp] theorem State.modPort_timeUs (p : Port) (f : PortState → PortState) : (s.modPort p f).timeUs = s.timeUs := by cases p <;> rfl
@[simp] theorem State.modPort_free (p : Port) (f : PortState → PortState) : (s.modPort p f).free = s.free := by cases p <;> rfl
@[simp] theorem State.modPort_pending (p : Port) (f : PortState → PortState) : (s.modPort p f).pending = s.pending := by cases p <;> rfl
@[simp] theorem State.modPort_snaps (p : Port) (f : PortState → PortState) : (s.modPort p f).snaps = s.snaps := by cases p <;> rfl
@[simp] theorem State.modPort_replies (p : Port) (f : PortState → PortState) : (s.modPort p f).replies = s.replies := by cases p <;> rfl
@[simp] theorem State.modPort_arb (p : Port) (f : PortState → PortState) : (s.modPort p f).arb = s.arb := by cases p <;> rfl
@[simp] theorem State.modPort_engines (p : Port) (f : PortState → PortState) : (s.modPort p f).engines = s.engines := by cases p <;> rfl
@[simp] theorem State.modPort_saf (p : Port) (f : PortState → PortState) : (s.modPort p f).saf = s.saf := by cases p <;> rfl
@[simp] theorem State.modPort_lay (p : Port) (f : PortState → PortState) : (s.modPort p f).lay = s.lay := by cases p <;> rfl
@[simp] theorem State.modPort_pwr (p : Port) (f : PortState → PortState) : (s.modPort p f).pwr = s.pwr := by cases p <;> rfl
@[simp] theorem State.modPort_fn (p : Port) (f : PortState → PortState) : (s.modPort p f).fn = s.fn := by cases p <;> rfl
@[simp] theorem State.modPort_sem (p : Port) (f : PortState → PortState) : (s.modPort p f).sem = s.sem := by cases p <;> rfl
@[simp] theorem State.modPort_plots (p : Port) (f : PortState → PortState) : (s.modPort p f).plots = s.plots := by cases p <;> rfl
@[simp] theorem State.modPort_sec (p : Port) (f : PortState → PortState) : (s.modPort p f).sec = s.sec := by cases p <;> rfl
@[simp] theorem State.modPort_fields (p : Port) (f : PortState → PortState) : (s.modPort p f).fields = s.fields := by cases p <;> rfl
@[simp] theorem State.modPort_wall (p : Port) (f : PortState → PortState) : (s.modPort p f).wall = s.wall := by cases p <;> rfl
@[simp] theorem State.modPort_hold (p : Port) (f : PortState → PortState) : (s.modPort p f).hold = s.hold := by cases p <;> rfl
@[simp] theorem State.modPort_chans (p : Port) (f : PortState → PortState) : (s.modPort p f).chans = s.chans := by cases p <;> rfl
@[simp] theorem State.modPort_grn (p : Port) (f : PortState → PortState) : (s.modPort p f).grn = s.grn := by cases p <;> rfl
@[simp] theorem State.modPort_banks (p : Port) (f : PortState → PortState) : (s.modPort p f).banks = s.banks := by cases p <;> rfl
@[simp] theorem State.modPort_bankMem (p : Port) (f : PortState → PortState) : (s.modPort p f).bankMem = s.bankMem := by cases p <;> rfl
@[simp] theorem State.modPort_bankBad (p : Port) (f : PortState → PortState) : (s.modPort p f).bankBad = s.bankBad := by cases p <;> rfl
@[simp] theorem State.modPort_wins (p : Port) (f : PortState → PortState) : (s.modPort p f).wins = s.wins := by cases p <;> rfl
@[simp] theorem State.modPort_mpu (p : Port) (f : PortState → PortState) : (s.modPort p f).mpu = s.mpu := by cases p <;> rfl
@[simp] theorem State.modPort_stk (p : Port) (f : PortState → PortState) : (s.modPort p f).stk = s.stk := by cases p <;> rfl
@[simp] theorem State.modPort_jtag (p : Port) (f : PortState → PortState) : (s.modPort p f).jtag = s.jtag := by cases p <;> rfl
@[simp] theorem State.modPort_plot (p : Port) (f : PortState → PortState) (k : Nat) : (s.modPort p f).plot k = s.plot k := by cases p <;> rfl
@[simp] theorem State.modPort_field (p : Port) (f : PortState → PortState) (k : Nat) : (s.modPort p f).field k = s.field k := by cases p <;> rfl
@[simp] theorem State.modPort_chan (p : Port) (f : PortState → PortState) (k : Nat) : (s.modPort p f).chan k = s.chan k := by cases p <;> rfl
@[simp] theorem State.modPort_engine (p : Port) (f : PortState → PortState) (k : Nat) : (s.modPort p f).engine k = s.engine k := by cases p <;> rfl
@[simp] theorem State.modPort_bank (p : Port) (f : PortState → PortState) (k : Nat) : (s.modPort p f).bank k = s.bank k := by cases p <;> rfl
@[simp] theorem State.modPort_layout (p : Port) (f : PortState → PortState) : (s.modPort p f).layout = s.layout := by cases p <;> rfl
@[simp] theorem State.modPort_hasLayout (p : Port) (f : PortState → PortState) : (s.modPort p f).hasLayout = s.hasLayout := by cases p <;> rfl
@[simp] theorem State.modPort_chanCfg? (p : Port) (f : PortState → PortState) (k : Nat) : (s.modPort p f).chanCfg? k = s.chanCfg? k := by cases p <;> rfl
@[simp] theorem State.modPort_fieldCfg? (p : Port) (f : PortState → PortState) (k : Nat) : (s.modPort p f).fieldCfg? k = s.fieldCfg? k := by cases p <;> rfl
@[simp] theorem State.modPort_plotCfg? (p : Port) (f : PortState → PortState) (k : Nat) : (s.modPort p f).plotCfg? k = s.plotCfg? k := by cases p <;> rfl
@[simp] theorem State.modPort_plotList (p : Port) (f : PortState → PortState) : (s.modPort p f).plotList = s.plotList := by cases p <;> rfl
@[simp] theorem State.modPort_fieldList (p : Port) (f : PortState → PortState) : (s.modPort p f).fieldList = s.fieldList := by cases p <;> rfl
@[simp] theorem State.modPort_semOwner (p : Port) (f : PortState → PortState) (k : Nat) : (s.modPort p f).semOwner k = s.semOwner k := by cases p <;> rfl
@[simp] theorem State.modPort_holdsSem (p : Port) (f : PortState → PortState) (i : Identity) (k : Nat) : (s.modPort p f).holdsSem i k = s.holdsSem i k := by cases p <;> rfl
@[simp] theorem State.modPort_writeLocked (p : Port) (f : PortState → PortState) (i : Identity) : (s.modPort p f).writeLocked i = s.writeLocked i := by cases p <;> rfl
@[simp] theorem State.modPort_deviceScope (p : Port) (f : PortState → PortState) : (s.modPort p f).deviceScope = s.deviceScope := by cases p <;> rfl
@[simp] theorem State.modPort_stackScope (p : Port) (f : PortState → PortState) : (s.modPort p f).stackScope = s.stackScope := by cases p <;> rfl
@[simp] theorem State.modPort_inScope (p : Port) (f : PortState → PortState) (k i : Nat) : (s.modPort p f).inScope k i = s.inScope k i := by cases p <;> rfl
@[simp] theorem State.modPort_port (p : Port) (f : PortState → PortState) : (s.modPort p f).port p = f (s.port p) := by cases p <;> rfl
theorem State.modPort_port_ne (p q : Port) (f : PortState → PortState) (h : p ≠ q) : (s.modPort p f).port q = s.port q := by cases p <;> cases q <;> simp_all <;> rfl
@[simp] theorem State.modPfn_member (p : Port) (f : PortFn → PortFn) : (s.modPfn p f).member = s.member := by cases p <;> rfl
@[simp] theorem State.modPfn_stepping (p : Port) (f : PortFn → PortFn) : (s.modPfn p f).stepping = s.stepping := by cases p <;> rfl
@[simp] theorem State.modPfn_timeUs (p : Port) (f : PortFn → PortFn) : (s.modPfn p f).timeUs = s.timeUs := by cases p <;> rfl
@[simp] theorem State.modPfn_free (p : Port) (f : PortFn → PortFn) : (s.modPfn p f).free = s.free := by cases p <;> rfl
@[simp] theorem State.modPfn_pending (p : Port) (f : PortFn → PortFn) : (s.modPfn p f).pending = s.pending := by cases p <;> rfl
@[simp] theorem State.modPfn_snaps (p : Port) (f : PortFn → PortFn) : (s.modPfn p f).snaps = s.snaps := by cases p <;> rfl
@[simp] theorem State.modPfn_replies (p : Port) (f : PortFn → PortFn) : (s.modPfn p f).replies = s.replies := by cases p <;> rfl
@[simp] theorem State.modPfn_arb (p : Port) (f : PortFn → PortFn) : (s.modPfn p f).arb = s.arb := by cases p <;> rfl
@[simp] theorem State.modPfn_engines (p : Port) (f : PortFn → PortFn) : (s.modPfn p f).engines = s.engines := by cases p <;> rfl
@[simp] theorem State.modPfn_saf (p : Port) (f : PortFn → PortFn) : (s.modPfn p f).saf = s.saf := by cases p <;> rfl
@[simp] theorem State.modPfn_lay (p : Port) (f : PortFn → PortFn) : (s.modPfn p f).lay = s.lay := by cases p <;> rfl
@[simp] theorem State.modPfn_pwr (p : Port) (f : PortFn → PortFn) : (s.modPfn p f).pwr = s.pwr := by cases p <;> rfl
@[simp] theorem State.modPfn_portA (p : Port) (f : PortFn → PortFn) : (s.modPfn p f).portA = s.portA := by cases p <;> rfl
@[simp] theorem State.modPfn_portB (p : Port) (f : PortFn → PortFn) : (s.modPfn p f).portB = s.portB := by cases p <;> rfl
@[simp] theorem State.modPfn_sem (p : Port) (f : PortFn → PortFn) : (s.modPfn p f).sem = s.sem := by cases p <;> rfl
@[simp] theorem State.modPfn_plots (p : Port) (f : PortFn → PortFn) : (s.modPfn p f).plots = s.plots := by cases p <;> rfl
@[simp] theorem State.modPfn_sec (p : Port) (f : PortFn → PortFn) : (s.modPfn p f).sec = s.sec := by cases p <;> rfl
@[simp] theorem State.modPfn_fields (p : Port) (f : PortFn → PortFn) : (s.modPfn p f).fields = s.fields := by cases p <;> rfl
@[simp] theorem State.modPfn_wall (p : Port) (f : PortFn → PortFn) : (s.modPfn p f).wall = s.wall := by cases p <;> rfl
@[simp] theorem State.modPfn_hold (p : Port) (f : PortFn → PortFn) : (s.modPfn p f).hold = s.hold := by cases p <;> rfl
@[simp] theorem State.modPfn_chans (p : Port) (f : PortFn → PortFn) : (s.modPfn p f).chans = s.chans := by cases p <;> rfl
@[simp] theorem State.modPfn_grn (p : Port) (f : PortFn → PortFn) : (s.modPfn p f).grn = s.grn := by cases p <;> rfl
@[simp] theorem State.modPfn_banks (p : Port) (f : PortFn → PortFn) : (s.modPfn p f).banks = s.banks := by cases p <;> rfl
@[simp] theorem State.modPfn_bankMem (p : Port) (f : PortFn → PortFn) : (s.modPfn p f).bankMem = s.bankMem := by cases p <;> rfl
@[simp] theorem State.modPfn_bankBad (p : Port) (f : PortFn → PortFn) : (s.modPfn p f).bankBad = s.bankBad := by cases p <;> rfl
@[simp] theorem State.modPfn_wins (p : Port) (f : PortFn → PortFn) : (s.modPfn p f).wins = s.wins := by cases p <;> rfl
@[simp] theorem State.modPfn_mpu (p : Port) (f : PortFn → PortFn) : (s.modPfn p f).mpu = s.mpu := by cases p <;> rfl
@[simp] theorem State.modPfn_stk (p : Port) (f : PortFn → PortFn) : (s.modPfn p f).stk = s.stk := by cases p <;> rfl
@[simp] theorem State.modPfn_jtag (p : Port) (f : PortFn → PortFn) : (s.modPfn p f).jtag = s.jtag := by cases p <;> rfl
@[simp] theorem State.modPfn_plot (p : Port) (f : PortFn → PortFn) (k : Nat) : (s.modPfn p f).plot k = s.plot k := by cases p <;> rfl
@[simp] theorem State.modPfn_field (p : Port) (f : PortFn → PortFn) (k : Nat) : (s.modPfn p f).field k = s.field k := by cases p <;> rfl
@[simp] theorem State.modPfn_chan (p : Port) (f : PortFn → PortFn) (k : Nat) : (s.modPfn p f).chan k = s.chan k := by cases p <;> rfl
@[simp] theorem State.modPfn_engine (p : Port) (f : PortFn → PortFn) (k : Nat) : (s.modPfn p f).engine k = s.engine k := by cases p <;> rfl
@[simp] theorem State.modPfn_bank (p : Port) (f : PortFn → PortFn) (k : Nat) : (s.modPfn p f).bank k = s.bank k := by cases p <;> rfl
@[simp] theorem State.modPfn_layout (p : Port) (f : PortFn → PortFn) : (s.modPfn p f).layout = s.layout := by cases p <;> rfl
@[simp] theorem State.modPfn_hasLayout (p : Port) (f : PortFn → PortFn) : (s.modPfn p f).hasLayout = s.hasLayout := by cases p <;> rfl
@[simp] theorem State.modPfn_chanCfg? (p : Port) (f : PortFn → PortFn) (k : Nat) : (s.modPfn p f).chanCfg? k = s.chanCfg? k := by cases p <;> rfl
@[simp] theorem State.modPfn_fieldCfg? (p : Port) (f : PortFn → PortFn) (k : Nat) : (s.modPfn p f).fieldCfg? k = s.fieldCfg? k := by cases p <;> rfl
@[simp] theorem State.modPfn_plotCfg? (p : Port) (f : PortFn → PortFn) (k : Nat) : (s.modPfn p f).plotCfg? k = s.plotCfg? k := by cases p <;> rfl
@[simp] theorem State.modPfn_plotList (p : Port) (f : PortFn → PortFn) : (s.modPfn p f).plotList = s.plotList := by cases p <;> rfl
@[simp] theorem State.modPfn_fieldList (p : Port) (f : PortFn → PortFn) : (s.modPfn p f).fieldList = s.fieldList := by cases p <;> rfl
@[simp] theorem State.modPfn_semOwner (p : Port) (f : PortFn → PortFn) (k : Nat) : (s.modPfn p f).semOwner k = s.semOwner k := by cases p <;> rfl
@[simp] theorem State.modPfn_holdsSem (p : Port) (f : PortFn → PortFn) (i : Identity) (k : Nat) : (s.modPfn p f).holdsSem i k = s.holdsSem i k := by cases p <;> rfl
@[simp] theorem State.modPfn_writeLocked (p : Port) (f : PortFn → PortFn) (i : Identity) : (s.modPfn p f).writeLocked i = s.writeLocked i := by cases p <;> rfl
@[simp] theorem State.modPfn_deviceScope (p : Port) (f : PortFn → PortFn) : (s.modPfn p f).deviceScope = s.deviceScope := by cases p <;> rfl
@[simp] theorem State.modPfn_stackScope (p : Port) (f : PortFn → PortFn) : (s.modPfn p f).stackScope = s.stackScope := by cases p <;> rfl
@[simp] theorem State.modPfn_inScope (p : Port) (f : PortFn → PortFn) (k i : Nat) : (s.modPfn p f).inScope k i = s.inScope k i := by cases p <;> rfl
@[simp] theorem State.modPfn_pfn (p : Port) (f : PortFn → PortFn) : (s.modPfn p f).pfn p = f (s.pfn p) := by cases p <;> rfl
theorem State.modPfn_pfn_ne (p q : Port) (f : PortFn → PortFn) (h : p ≠ q) : (s.modPfn p f).pfn q = s.pfn q := by cases p <;> cases q <;> simp_all <;> rfl
@[simp] theorem State.modPort_pfn (p q : Port) (f : PortState → PortState) : (s.modPort p f).pfn q = s.pfn q := by cases p <;> cases q <;> rfl
@[simp] theorem State.modPfn_port (p q : Port) (f : PortFn → PortFn) : (s.modPfn p f).port q = s.port q := by cases p <;> cases q <;> rfl
@[simp] theorem State.modPfn_tasks (p : Port) (f : PortFn → PortFn) : (s.modPfn p f).fn.tasks = s.fn.tasks := by cases p <;> rfl
@[simp] theorem State.modPfn_results (p : Port) (f : PortFn → PortFn) : (s.modPfn p f).fn.results = s.fn.results := by cases p <;> rfl

/-! `modDie` -/

theorem ChanState.modDie_dieAt (c : ChanState) (d : Nat) (f : DieState → DieState) (h : d < c.dies.length) : (c.modDie d f).dieAt d = f (c.dieAt d) := by
  simp [ChanState.modDie, ChanState.dieAt, List.getD, h]
theorem ChanState.modDie_dieAt_ne (c : ChanState) (d : Nat) (f : DieState → DieState) (k : Nat) (h : d ≠ k) : (c.modDie d f).dieAt k = c.dieAt k := by
  simp [ChanState.modDie, ChanState.dieAt, List.getD, h]

end Sys2Proof.Machine
end

