-- ==== Sys2Proof/Laws/Recipe.lean ====
section
/-! SUPPORT. Laws of the recipe sequencer: what a word that drives the bus leaves, and where the next word is found. -/

namespace Sys2Proof.Machine

/-- An operation of a die that exists names a channel and a die of it. -/
theorem runOp_lt {s : State} {ch die r} (h : s.runOp ch die = some r) : ch < s.chans.length ∧ die < (s.chan ch).dies.length := by
  have h2 : die < (s.chan ch).dies.length := by
    by_contra hc
    have e : (s.chan ch).dieAt die = Reset.die := by
      simp only [ChanState.dieAt]
      exact List.getD_eq_default _ _ (Nat.not_lt.mp hc)
    simp [State.runOp, e, Reset.die] at h
  refine ⟨?_, h2⟩
  by_contra hc
  have e : s.chan ch = Reset.chan := List.getD_eq_default _ _ (Nat.not_lt.mp hc)
  rw [State.runOp, e] at h
  have h3 : die < 16 := by simpa [e, Reset.chan] using h2
  simp only [ChanState.dieAt, Reset.chan, List.getD] at h
  rw [List.getElem?_replicate] at h
  simp [h3, Reset.die] at h

/-- Changing the running operation changes exactly it. -/
theorem modRun_runOp {s : State} {ch die r} (h : s.runOp ch die = some r) (f) : (modRun s ch die f).runOp ch die = some (f r) := by
  obtain ⟨h1, h2⟩ := runOp_lt h
  simp only [State.runOp, modRun] at *
  rw [State.modChan_chan _ _ _ h1, ChanState.modDie_dieAt _ _ _ h2]
  simp [h]

/-- The channel after the running operation of one die has changed. -/
theorem modRun_chan {s : State} {ch die r} (h : s.runOp ch die = some r) (f) : (modRun s ch die f).chan ch = (s.chan ch).modDie die (fun x => { x with run := x.run.map f }) := by
  obtain ⟨h1, h2⟩ := runOp_lt h
  simp only [modRun]
  rw [State.modChan_chan _ _ _ h1]

/-- A die that stands at the word its recipe holds runs it. -/
theorem onStep_eq {s : State} {ch die r w} (h : AtWord s ch die r) (hw : s.wordAt ch r = some w) (f) :
    onStep s ch die w f = f (modRun (takeBus s ch die) ch die fun r => { r with last := r.word }) { r with last := r.word } := by
  obtain ⟨h1, h2, h3, h4⟩ := h
  simp [onStep, h1, h2, h3, h4, hw]

/-- Taking the bus leaves the running operation alone. -/
theorem takeBus_runOp {s : State} {ch die r} (h : s.runOp ch die = some r) : (takeBus s ch die).runOp ch die = some r :=
  (congrArg (fun k => (ChanState.dieAt k die).run) (State.modChan_chan s ch _ (runOp_lt h).1)).trans h

theorem takeBus_lay {s : State} {ch die} : (takeBus s ch die).lay = s.lay := rfl

/-- Noting a bus phase leaves the running operation alone. -/
theorem notePhase_runOp {s : State} {ch die} {r} (h : s.runOp ch die = some r) (bus tr) : (notePhase s ch die bus tr).runOp ch die = some r :=
  (congrArg (fun k => (ChanState.dieAt k die).run) (State.modChan_chan s ch _ (runOp_lt h).1)).trans h

/-- Noting a bus phase holds its cycles. -/
theorem notePhase_bus {s : State} {ch die} {r} (h : s.runOp ch die = some r) (bus tr) : ((notePhase s ch die bus tr).chan ch).bus = bus :=
  congrArg ChanState.bus (State.modChan_chan s ch _ (runOp_lt h).1)

theorem notePhase_lay {s : State} {ch die} (bus tr) : (notePhase s ch die bus tr).lay = s.lay := rfl

theorem wordsOf_lay {s t : State} {c r} (h : t.lay = s.lay) (r' : RunOp) (ho : r'.oldSet = r.oldSet) : t.wordsOf c r' = s.wordsOf c r := by
  simp [State.wordsOf, State.recipeOf, State.chanCfg?, State.layout, h, ho]

theorem modRun_lay {s : State} {ch die f} : (modRun s ch die f).lay = s.lay := rfl

/-- A word with LAST ends the operation. -/
theorem stepTo_last {s : State} {ch die r} (h : s.runOp ch die = some r) (next) :
  stepTo s ch die next true = endOp (modRun s ch die fun r => { r with sinceMode := r.sinceMode - 1, waiting := .none, lastPending := false }) ch die (!r.inError) := by
  simp [stepTo, h]

/-- A word without LAST goes on at the next word. -/
theorem stepTo_next {s : State} {ch die r} (h : s.runOp ch die = some r) (next) (hw : next < s.wordsOf ch r) :
  stepTo s ch die next false = modRun (modRun s ch die fun r => { r with sinceMode := r.sinceMode - 1, waiting := .none, lastPending := false }) ch die fun r => { r with word := next } := by
  simp only [stepTo, h]
  rw [wordsOf_lay (s := s) (r := r) (by rfl) _ (by rfl)]
  simp [Nat.not_le.mpr hw]

/-- A bus word that needs no wait: the operation goes on at the next word, or ends with LAST, and the bus holds its cycles. -/
theorem word_done {s : State} {ch die r} (h : AtWord s ch die r) (bus tr last) (hw : last = false → r.word + 1 < s.wordsOf ch r) :
   let r' : RunOp := { r with last := r.word }
   let s' := notePhase (modRun (takeBus s ch die) ch die fun r => { r with last := r.word }) ch die bus tr
   ∃ u, stepTo s' ch die (r'.word + 1) last = (if last then endOp u ch die (!r.inError) else u) ∧
     u.runOp ch die = some (r.moved (if last then r.word else r.word + 1)) ∧ (u.chan ch).bus = bus := by
  intro r' s'
  have hr : s'.runOp ch die = some r' := notePhase_runOp (modRun_runOp (takeBus_runOp h.1) _) _ _
  cases last
  · refine ⟨modRun (modRun s' ch die fun r => { r with sinceMode := r.sinceMode - 1, waiting := .none, lastPending := false }) ch die fun r => { r with word := r'.word + 1 }, stepTo_next hr (r'.word + 1) (by rw [wordsOf_lay (s := s) (r := r) (by rfl) _ (by rfl)]; exact hw rfl), ?_, ?_⟩
    · rw [modRun_runOp (modRun_runOp hr _)]; rfl
    · rw [modRun_chan (modRun_runOp hr _)]
      show ((modRun s' ch die _).chan ch).bus = bus
      rw [modRun_chan hr]
      exact notePhase_bus (modRun_runOp (takeBus_runOp h.1) _) _ _
  · refine ⟨modRun s' ch die fun r => { r with sinceMode := r.sinceMode - 1, waiting := .none, lastPending := false }, stepTo_last hr _, ?_, ?_⟩
    · rw [modRun_runOp hr]; rfl
    · rw [modRun_chan hr]
      exact notePhase_bus (modRun_runOp (takeBus_runOp h.1) _) _ _

end Sys2Proof.Machine
end

