-- ==== Sys2Proof/Machine/Balls.lean ====
section
/-! DEFINITION. The balls of the package (chapter "Balls, signals and electrical limits", R623 to R625, R652, R653) and the
boundary-scan register that lies over them (R643). Functions of the member; no command changes them. -/

namespace Sys2Proof.Machine

/-- A pin of one channel (Table ELE-3). -/
inductive ChanPin where
  | dq (n : Nat) | dqsT | dqsC | reT | reC | weN | cle | ale | wpN | ceN (k : Nat)
deriving DecidableEq, Repr

/-- The signals outside the channel groups (Table ELE-12); a differential pair has a P line and an N line. -/
inductive Signal where
  | chan (c : Nat) (pin : ChanPin)
  | ssTx (p : Port) (set : Nat) (neg : Bool) | ssRx (p : Port) (set : Nat) (neg : Bool)
  | dp (p : Port) | dm (p : Port) | flip (p : Port) | vbusDet (p : Port) | usbRref (p : Port)
  | stkTx (l : Link) (lane : Nat) (neg : Bool) | stkRx (l : Link) (lane : Nat) (neg : Bool)
  | xtalIn | xtalOut | resetN | safeN | tamperN | pwrFailN | holdupOk | stkRole (k : Nat) | tempAlertN | testEn | stkRext
  | gpio (k : Nat) | tck | tms | tdi | tdo | trstN | nzq (q : Nat)
deriving DecidableEq, Repr

/-- What a ball of the grid is. -/
inductive Ball where
  | vss
  | vccq
  | rail (r : Rail)
  | signal (x : Signal)
deriving DecidableEq, Repr

/-- Table ELE-3: one channel group, 4 rows by 6 columns. -/
def groupBall (c i j : Nat) : Ball :=
  let pin := fun (p : ChanPin) => Ball.signal (.chan c p)
  if j = 5 then pin (.ceN i)
  else match i with
    | 0 => if j < 4 then pin (.dq j) else .vss
    | 1 => if j < 4 then pin (.dq (4 + j)) else .vccq
    | 2 => if j = 0 then pin .dqsT else if j = 1 then pin .dqsC else if j = 2 then .vss else if j = 3 then pin .reT else pin .reC
    | _ => if j = 0 then pin .weN else if j = 1 then pin .cle else if j = 2 then pin .ale else if j = 3 then pin .wpN else .vccq

/-- The first row and the first column of a quadrant (R624). -/
def quadrantBase (q : Nat) : Nat × Nat := (if q = 1 ∨ q = 2 then 35 else 1, if q = 2 ∨ q = 3 then 35 else 1)

/-- The row and column of channel c at offset (i, j) of its group (R624). -/
def chanBall (c i j : Nat) : Nat × Nat :=
  let (row, col) := quadrantBase (c / 24)
  let k := c % 24
  (row + 4 * (k % 6) + i, col + 6 * (k / 6) + j)

/-- The ball at a row and column of a corner: the channel group it falls in, read back from R624. -/
def cornerBall (row col : Nat) : Ball :=
  let q := if row < 25 then (if col < 25 then 0 else 3) else (if col < 25 then 1 else 2)
  let (r0, c0) := quadrantBase q
  groupBall (24 * q + 6 * ((col - c0) / 6) + (row - r0) / 4) ((row - r0) % 4) ((col - c0) % 6)

/-- Table ELE-8: rows A to D, five columns of one port. -/
def usbBall (p : Port) (row o : Nat) : Ball :=
  let x := fun (y : Signal) => Ball.signal y
  let pairs := fun (set : Nat) =>
    match o with
    | 0 => x (.ssTx p set false) | 1 => x (.ssTx p set true) | 3 => x (.ssRx p set false) | 4 => x (.ssRx p set true) | _ => .vss
  match row, o with
  | 1, _ => pairs 1
  | 3, _ => pairs 2
  | 2, 1 => x (.dp p)
  | 2, 2 => x (.dm p)
  | 2, 4 => .rail .vdd3v3
  | 4, 1 => x (.flip p)
  | 4, 2 => x (.vbusDet p)
  | 4, 3 => x (.usbRref p)
  | _, _ => .vss

/-- Table ELE-9: columns 58 to 55, five rows of one link. -/
def stackBall (l : Link) (col o : Nat) : Ball :=
  let lane := if col % 2 = 0 then 0 else 2
  let pair := fun (k : Nat) (neg : Bool) => Ball.signal (if 57 ≤ col then .stkTx l k neg else .stkRx l k neg)
  match o with
  | 0 => pair lane false
  | 1 => pair lane true
  | 3 => pair (lane + 1) false
  | 4 => pair (lane + 1) true
  | _ => .vss

/-- Table ELE-10: rows BV to CA, columns 25 to 34. -/
def southBall (row o : Nat) : Ball :=
  let x := fun (y : Signal) => Ball.signal y
  let line : List Ball :=
    if row = 58 then [.vss, x .xtalIn, x .xtalOut, .vss, x .resetN, x .safeN, x .tamperN, x .pwrFailN, x .holdupOk, .vss]
    else if row = 57 then [.vss, .vss, .vss, x (.stkRole 0), x (.stkRole 1), x .tempAlertN, x .testEn, x .stkRext, .rail .vdd1v8, .vss]
    else if row = 56 then ((List.range 8).map fun k => x (.gpio k)) ++ [.rail .vdd1v8, .vss]
    else [x .tck, x .tms, x .tdi, x .tdo, x .trstN, .vss, .vss, .vss, .rail .vdd1v8, .vss]
  line.getD o .vss

/-- The west edge zone: column 1 by its list, columns 2 to 4 by parity. -/
def westBall (row col : Nat) : Ball :=
  if col = 1 then (if row < 29 then .signal (.nzq (row - 25)) else if row % 2 = 0 then .rail .vdd3v3 else .vss)
  else if (row + col) % 2 = 0 then .vss else .rail .vdd1v8

/-- The cross (R625): its edge zones by their tables, every other ball by parity and arm depth. -/
def crossBall (row col : Nat) : Ball :=
  let centre := decide (25 ≤ row ∧ row ≤ 34 ∧ 25 ≤ col ∧ col ≤ 34)
  let depth := if row < 25 then row else if 34 < row then 59 - row else if col < 25 then col else 59 - col
  if !centre && decide (depth ≤ 4) then
    if row < 25 then usbBall (if col < 30 then .a else .b) row ((col - 25) % 5)
    else if 34 < row then southBall row (col - 25)
    else if col < 25 then westBall row col
    else stackBall (if row < 30 then .up else .dn) col ((row - 25) % 5)
  else if (row + col) % 2 = 0 then .vss
  else if centre then .rail .vddCore
  else if depth ≤ 8 then .rail .vdd1v8
  else if depth ≤ 14 then .rail .vddSram
  else .rail .vddCore

/-- The ball at a row and column of the 58 × 58 grid of the Z96, the Z24 and the Z8 (R623 to R625, R652). -/
def gridBall (row col : Nat) : Ball :=
  if (row < 25 ∨ 34 < row) ∧ (col < 25 ∨ 34 < col) then cornerBall row col else crossBall row col

/-- The ball at a row and column of the Z1 (R653, Table ELE-26). -/
def z1Ball (row col : Nat) : Ball :=
  let x := fun (y : Signal) => Ball.signal y
  let pin := fun (p : ChanPin) => x (.chan 0 p)
  let core := Ball.rail .vddCore
  let io := Ball.rail .vdd1v8
  let usb := Ball.rail .vdd3v3
  let line : List Ball :=
    match row with
    | 1 => [.vccq, pin (.dq 0), pin (.dq 1), pin (.dq 2), pin (.dq 3), .vss, pin (.dq 4), pin (.dq 5), pin (.dq 6), pin (.dq 7)]
    | 2 => [.vccq, pin .dqsT, pin .dqsC, .vss, pin .reT, pin .reC, .vccq, pin .weN, pin .cle, pin .ale]
    | 3 => [pin (.ceN 0), pin (.ceN 1), pin (.ceN 2), pin (.ceN 3), pin .wpN, .vccq, .vss, .vccq, x (.nzq 0), .vss]
    | 4 => [.vccq, .vss, core, .vss, core, .vss, core, .vss, .vccq, .vss]
    | 5 => [.vss, core, .vss, core, .vss, core, .vss, core, .vss, .vccq]
    | 6 => [io, .vss, core, .vss, core, .vss, core, .vss, core, .vss]
    | 7 => [x (.gpio 0), x (.gpio 1), x (.gpio 2), x (.gpio 3), io, core, .vss, usb, x (.dp .a), x (.dm .a)]
    | 8 => [x (.gpio 4), x (.gpio 5), x (.gpio 6), x (.gpio 7), io, .vss, usb, x (.vbusDet .a), x (.usbRref .a), io]
    | 9 => [x .tck, x .tms, x .tdi, x .tdo, x .trstN, x .testEn, io, .vss, usb, .vss]
    | _ => [x .xtalIn, x .xtalOut, .vss, x .resetN, x .safeN, x .tamperN, x .pwrFailN, x .holdupOk, x .tempAlertN, io]
  line.getD (col - 1) .vss

/-- The signals with boundary-scan cells (R643). -/
def Signal.scanned : Signal → Bool
  | .chan _ _ | .flip _ | .resetN | .safeN | .tamperN | .pwrFailN | .holdupOk | .stkRole _ | .tempAlertN | .gpio _ => true
  | _ => false

/-- A signal whose ball is connected inside the part: channels at or above the member's count are not (R652). -/
def bonded (m : Member) : Signal → Bool
  | .chan c _ => decide (c < m.channels)
  | _ => true

/-- The scanned balls of a member in the order of the cells from TDI to TDO: ascending row, then ascending column (R643). -/
def scanOrder (m : Member) : List Signal :=
  let n := if m = .z1 then 10 else 58
  (List.range n).flatMap fun r => (List.range n).filterMap fun c =>
    match (if m = .z1 then z1Ball (r + 1) (c + 1) else gridBall (r + 1) (c + 1)) with
    | .signal x => if x.scanned && bonded m x then some x else none
    | _ => none

/-- What EXTEST drives onto a signal's ball: the output cell's value when its output-enable cell is set. -/
def State.extestLevel (s : State) (x : Signal) : Option Bool :=
  match s.jtag.driven, (scanOrder s.member).findIdx? (· == x) with
  | some cells, some k => if cells.getD (3 * k + 2) false then some (cells.getD (3 * k + 1) false) else none
  | _, _ => none

end Sys2Proof.Machine
end

