-- ==== Sys2Proof/Tests/Slice0.lean ====
section
/-! SUPPORT. Tests of the model on small states: a witness for the hypotheses of every statement, ill-formed commands that
`Instr.wf` refuses, and single steps with results taken from the spec. -/

namespace Sys2Proof.Tests

open Sys2Proof Sys2Proof.Machine

set_option Elab.async false

/-! ### Small states -/

/-- Word `op` of a recipe: OPCODE in bits 31 to 27 (Table CHN-3), every other field zero. -/
def recipeWord (op : Nat) : Word := bitsAt 27 5 op

/-- A recipe whose code is ENTER, CMD, LOOP, CMD, NEXT, FAIL, CMD and END at words 0 to 7. -/
def recipe : RecipeCfg where
  set := 0
  entries := [0, 0, 0, 0, 0, 0, 0, 0, 0, 0, 0, 0, 0xFFFF, 0xFFFF, 0xFFFF, 0xFFFF]
  timing := [5, 0x4003]
  retry := [[1, 2, 3, 4, 5, 6, 7, 8]]
  code := [0x01, 0x02, 0x0A, 0x02, 0x0B, 0x0F, 0x02, 0x00].map recipeWord

def chanCfg : ChanCfg where
  iface := 2
  ceMask := 1
  luns := 2
  planes := 1
  pageKib := 16
  bits := 3
  recipeSet := 0
  ldpc := 0
  spare := 2048
  ppb := 96
  bpp := 200

def fieldCfg (inst : Nat) (chans : List Nat) (wide : Bool) : FieldCfg where
  inst := inst
  chans := chans
  grain := 0
  stripeW := 2
  wear := 0
  glean := 0
  streams := 1
  discard := 0
  retention := 0
  wide := wide
  seedbedMax := 4
  seedbedFactor := 0
  headlandMin := 8
  openBudget := 64
  fixCadence := 1000
  gleanLow := 4
  gleanHigh := 8
  weights := [1]
  readRefresh := 100000
  doseRefresh := 1000
  devices := if wide then [0, 1] else []

def plotCfg (inst field : Nat) (credential : Bool) : PlotCfg := ⟨inst, field, credential, 3, 0, 3, false, if credential then 8 else 1000⟩

def portCfg : PortCfg := ⟨true, 3, 7, 0xFF, 0x1209, 0x5A4B, 0x0100, 1, 0, 4 :: 16 :: List.replicate 14 8⟩

/-- A layout of the Z8: Field 0 with Volume Plot 0 and Credential Plot 1 on channels 0 and 1, wide Field 1 with Plot 2 on
channels 2 and 3. -/
def layout : Layout where
  member := 8
  epoch := 1
  length := 0
  frames := []
  mfr := []
  product := []
  langId := 0x0409
  noSerial := false
  gpio := [0x06]
  wdog := 3
  fmMult := 40
  portMult := 40
  stkMult := 40
  grnMult := 40
  chnMult := List.replicate 8 32
  readBurst := 8
  zqCycles := 1
  channels := List.replicate 4 chanCfg
  recipes := [recipe]
  fields := [fieldCfg 0 [0, 1] false, fieldCfg 1 [2, 3] true]
  plots := [plotCfg 0 0 false, plotCfg 1 0 true, plotCfg 2 1 false]
  banks := []
  mpu := []
  ports := [portCfg, portCfg]
  stack := ⟨true, false, 3, 64, 3, 1000, 0x77⟩
  strikeLimit := 3
  sofCheck := true
  durable := false
  tempAlert := 100
  suspendTarget := 2
  tickets := []

/-- The Z8 after its start under that layout, with every part not named as reset leaves it. -/
def base : State :=
  let r := Reset.state .z8 .b0
  { r with
    lay := { r.lay with active := some layout, op := 0, starting := false }
    pwr := { r.pwr with step := 15, refPresent := true }
    saf := { r.saf with starting := false }
    chans := r.chans.map fun k => { k with stopped := false } }

/-- The Z8 before its start, with no layout. -/
def bare : State := Reset.state .z8 .b0

/-- The Z1, whose single channel and lack of a stack and a second port make the exceptions of Table GLB-10. -/
def bareZ1 : State := Reset.state .z1 .b0

/-- The Z1 after its start, with one local Field on its channel. -/
def baseZ1 : State :=
  let l : Layout := { layout with member := 1, channels := [chanCfg], fields := [fieldCfg 0 [0] false], plots := [plotCfg 0 0 false], ports := [portCfg] }
  { bareZ1 with
    lay := { bareZ1.lay with active := some l, op := 0, starting := false }
    pwr := { bareZ1.pwr with step := 15, refPresent := true }
    chans := bareZ1.chans.map fun k => { k with stopped := false } }

/-- `base` with an operation on die 0 of channel 0, whose bus phase runs. -/
def onDie (r : RunOp) : State :=
  base.modChan 0 fun k => { k.modDie 0 (fun x => { x with run := some r }) with phase := some 0 }

/-- A program operation at word 2. -/
def run : RunOp := { newRun .program false [dieOp .program ⟨0, 0, 3⟩ 0 0 0 false] 1 3 [] 0 with entered := true, word := 2, last := 1 }

/-- `base` with one port configured at a speed, its management function selected and Plot 0 on embedded port 2. -/
def plugged (sp : UsbSpeed) : State :=
  let e : EmbPort := { Reset.emb with conn := true, powered := true, enabled := true, selected := true }
  let q : PortState := { Reset.port with
    vbus := true, speed := sp, configured := true
    ssTerm := decide (3 ≤ speedCode sp), dPlus := decide (speedCode sp ≤ 2)
    emb := [Reset.emb, e, { e with holder := some 0, alt := 1 }, { e with holder := some 1 }] ++ List.replicate 12 Reset.emb
    eps := [freshEp 1 0x01 2, { freshEp 1 0x81 1 with used := 1 }] }
  { base with
    portA := q
    plots := base.plots.mapIdx fun i p => if i < 3 then { p with mode := .open_, record := { p.record with keyed := true }, keys := some ⟨[], none, []⟩ } else p }

def live : State := plugged .gen1x1

/-! ### Witnesses: concrete states and operands that meet the hypotheses of each statement together -/

/-- The operation `r` on die 0 of channel 0, its recipe holding the word `w` where `r` stands. -/
def holding (w : Word) (r : RunOp) : State :=
  let l := { layout with recipes := [{ recipe with code := recipe.code.set r.word w }] }
  { onDie r with lay := { base.lay with active := some l } }

/-- The operation is at the word given by its bits, and that word reads as Table CHN-4 says. -/
def stands (r : RunOp) (x : Word × RecWord) : Bool :=
  let s := holding x.1 r
  (s.runOp 0 0 == some r) && s.busFor 0 0 && r.entered && (r.waiting == .none) && !r.stopped && (s.wordAt 0 r == some x.2) &&
    decide (r.word + 1 < s.wordsOf 0 r)

theorem atWord_of_stands {r : RunOp} {x : Word × RecWord} (h : stands r x = true) : AtWord (holding x.1 r) 0 0 r := by
  simp only [stands, Bool.and_eq_true, beq_iff_eq, Bool.not_eq_true'] at h
  exact ⟨h.1.1.1.1.1.1, h.1.1.1.1.1.2, h.1.1.1.1.2, h.1.1.1.2, h.1.1.2⟩

/-- CMD, CMDL, ADDR, DOUT and the three forms of DIN by their bits, CMD with LAST; CMDL with no loop open, with a loop on an inner
iteration and on its last; the last word but one for LAST = 0. -/
theorem wit_RecipeBusWords :
    (∀ x ∈ [((0x10000080, .cmd 0x80 false 0 false) : Word × RecWord), (0x14000080, .cmd 0x80 false 0 true),
        (0x18003032, .cmdl 0x32 0x30 0 false false false 0 false), (0x20000003, .addr .lun false), (0x28000000, .dout .page false),
        (0x30000008, dinWord (.page ⟨some 0, 0, false, 0⟩) true false), (0x30000001, dinWord (.status 0xE0) false false),
        (0x30000022, dinWord (.v 2 0) false false)], stands run x = true) ∧
    LastIteration run 0 = true ∧
    (let r := { run with word := 6, loops := [⟨2, 3, 1, .imm 3⟩] }
     stands r (0x18003032, .cmdl 0x32 0x30 0 false false false 0 false) = true ∧ LastIteration r 0 = false) ∧
    (let r := { run with word := 6, loops := [⟨2, 3, 2, .imm 3⟩] }
     stands r (0x18003032, .cmdl 0x32 0x30 0 false false false 0 false) = true ∧ LastIteration r 0 = true) := by
  decide +kernel

/-- CMD and CMDL with their wait bits, POLL at a BUSY index and at 31, WAIT; each kind of wait, at an inner word and, with LAST, at
the last word. -/
theorem wit_RecipeWaitWords :
    (∀ x ∈ [((0x10000110, .cmd 0x10 true 0 false) : Word × RecWord), (0x18103032, .cmdl 0x32 0x30 0 false false true 0 false),
        (0x40000070, .poll 0x70 0 false false), (0x40001F70, .poll 0x70 31 false false), (0x38000005, .wait 5 false)], stands run x = true) ∧
    LastIteration run 0 = true ∧
    (∀ w ∈ [SeqWait.time, .busy, .poll],
      let r := { run with waiting := w }
      let s := (onDie r).modChan 0 fun k => { k with phase := none }
      s.runOp 0 0 = some r ∧ s.awake 0 = true ∧ s.busFree 0 = true ∧ r.word + 1 < s.wordsOf 0 r) ∧
    (let r := { run with waiting := .poll, word := 7, lastPending := true }
     (onDie r).runOp 0 0 = some r ∧ (onDie r).awake 0 = true) ∧
    (onDie { run with waiting := .busy }).busFree 0 = false ∧ run.stopped = false ∧
    (0x40#8).getLsbD 6 = true ∧ (0xBF#8).getLsbD 6 = false := by
  decide +kernel

/-- TEST taken, taken to 0xFFF and not taken, LOOP entered and skipped, NEXT with iterations left, on the last one and with no loop,
JUMP, SETV and MODE with and without LAST; targets at word 7. -/
theorem wit_RecipeControlWords :
    (∀ x ∈ [((0x48000F01, .test 0x01 true 7 false) : Word × RecWord), (0x48000E01, .test 0x01 false 7 false), (0x50000002, .loop .nbit),
        (0x50000000, .loop (.imm 0)), (0x58000000, .next), (0x60000007, .jump 7), (0x70000028, .setv 0 false 5 false),
        (0x74000028, .setv 0 false 5 true), (0x68000052, .mode .toggle 5 false), (0x6C000052, .mode .toggle 5 true)], stands run x = true) ∧
    (let r := { run with err := 5 }
     stands r (0x481FFF01, .test 0x01 true 0xFFF false) = true ∧ r.inError = false ∧ r.sinceMode = 0 ∧ r.err ≠ 0xFFF) ∧
    7 < (holding 0x60000007 run).wordsOf 0 run ∧ ((~~~run.fs) &&& 0x01#8) ≠ 0 ∧ (run.fs &&& 0x01#8) = 0 ∧ run.loops = [] ∧
    loopCount (holding 0x50000002 run) 0 run .nbit ≠ 0 ∧ loopCount (holding 0x50000000 run) 0 run (.imm 0) = 0 ∧
    (holding 0x50000000 run).recipeOf 0 run.oldSet = some recipe ∧
    afterNext recipe.code recipe.code.length (run.word + 1) 0 < recipe.code.length ∧
    (let r := { run with word := 4, loops := [⟨2, 3, 1, .imm 3⟩] }
     stands r (0x58000000, .next) = true ∧ 1 + 1 < 3 ∧ 2 + 1 < (onDie r).wordsOf 0 r) ∧
    (let r := { run with word := 4, loops := [⟨2, 3, 2, .imm 3⟩] }
     stands r (0x58000000, .next) = true ∧ 3 ≤ 2 + 1) := by
  decide +kernel

/-- `base` with one program queued on die 0 of channel 0. -/
def queued : State :=
  base.modChan 0 fun k => { k with phase := some 0 }.modDie 0 fun x => { x with queue := [dieOp .program ⟨0, 0, 3⟩ 0 0 0 false] }

/-- ENTER of a queued program; FAIL with an error branch, in it, and outside an abort window; END, also of a loaded read step; the
time-out on a Z1 too. -/
theorem wit_RecipeBeginsAndEnds :
    (0 < queued.chans.length ∧ 0 < (queued.chan 0).dies.length ∧ queued.busFor 0 0 = true ∧ queued.recipeOf 0 false = some recipe ∧
      (nextOperation queued 0 0 recipe).isSome = true ∧
      (∀ x ∈ nextOperation queued 0 0 recipe, queued.recipeOf 0 (x.1.underOld x.2) = some recipe ∧ recipe.entry? x.1.entry = some 0) ∧
      (recipe.code[0]?).bind decodeWord = some (.enter 0 0) ∧ 0 + 1 < recipe.code.length) ∧
    (let r := { run with err := 5 }
     stands r (0x78000000, .fail) = true ∧ r.inError = false ∧ r.sinceMode = 0 ∧ r.err ≠ 0xFFF) ∧
    (let r := { run with inError := true }
     stands r (0x78000000, .fail) = true ∧ r.inError = true) ∧
    stands run (0, .end_) = true ∧
    (let r := { run with kind := .retrySet }
     stands r (0, .end_) = true ∧ r.kind = .retrySet ∧ r.inError = false ∧ ¬ (holding 0 r).lay.recipePend.contains 0) ∧
    (let s := baseZ1.modChan 0 fun k => k.modDie 0 fun x => { x with run := some run }
     s.runOp 0 0 = some run ∧ s.awake 0 = true ∧ run.entered = true ∧ run.stopped = false ∧ s.member = .z1) := by
  decide +kernel

theorem wit_RecipeWordsTouchOneChannel :
    stands run (0x20000003, .addr .lun false) = true ∧ run.word + 1 < (holding 0x20000003 run).wordsOf 0 run ∧
    ∃ t, exec (.addr 0 0 .lun false) (holding 0x20000003 run) = .next t ∧ t ≠ holding 0x20000003 run := by
  exact ⟨by decide +kernel, by decide +kernel, _, rfl, by decide +kernel⟩

/-- Power states Lit and Off, the reference seen, VDD_SRAM on a Z8. -/
theorem wit_MonitorsEnterDeviceScope :
    base.pwr.refPresent = true ∧ ¬ (base.member = .z1 ∧ Rail.vddSram = .vddSram) ∧ base.pwr.state ≠ .off ∧
    ({ base with pwr := { base.pwr with state := .off } } : State).pwr.state = .off := by
  decide +kernel

/-- An island's count at, and just past, 2 %; a sensor one step above 115 °C in its second sample. -/
theorem wit_MonitorWindowsMeasure :
    (∃ mult, base.islandMult base.member.centralIsland = some mult ∧ base.islandRuns base.member.centralIsland = true ∧
      base.pwr.refPresent = true ∧ 0 < mult) ∧
    (let mult : Int := 40; let ok : Int := 256 * 40 + 204 - 256 * 40; let bad : Int := 256 * 40 + 205 - 256 * 40
     50 * (ok.natAbs : Int) ≤ 256 * mult ∧ 256 * mult < 50 * (bad.natAbs : Int)) ∧
    (let rs : List Int := 461 :: List.replicate 23 460
     rs.length = 24 ∧ base.pwr.state ≠ .off ∧ 460 < rs.getD 0 0 ∧
     ({ base with saf := { base.saf with hot := 1 :: List.replicate 23 0 } } : State).saf.hot.getD 0 0 = 1) ∧
    (let s : State := { base with saf := { base.saf with devA := 1, devB := 1 } }
     s.saf.sofCheck = true ∧ s.hasLayout = true ∧ s.member.ports ≠ 1 ∧ 1000 < (sofPpm 25026).natAbs ∧ 1000 < (sofPpm 24974).natAbs ∧
     1 ≤ s.saf.devA ∧ 1 ≤ s.saf.devB ∧ (s.stands fun c _ => c == 0x0042) = false) ∧
    ({ base with pwr := { base.pwr with state := .off } } : State).pwr.state = .off := by
  decide +kernel


/-- `s` with semaphore `n` held. -/
def held (s : State) (n : Nat) (id : Identity) : State := { s with sem := { s.sem with owner := s.sem.owner.set n id } }

/-- The sweep running, with the lanes' slots just before channel 7, the last cipher engine and the wrap. -/
theorem wit_SweepSlotsTestOneInstance :
    (let s : State := { base with saf := { base.saf with sweepOn := true, chnSlot := 6, cphSlot := 1, strSlot := 124 } }
     s.saf.sweepOn = true ∧ s.saf.chnSlot + 1 < s.member.channels ∧ s.saf.chnSlot + 1 < s.chans.length ∧ (s.chan 7).fenced = false ∧
     s.saf.cphSlot + 1 < s.member.ciphers ∧ s.saf.cphSlot + 1 < s.engines.length ∧ laneSlots .structural ≤ s.saf.slotOf .structural + 1) ∧
    base.saf.sweepOn = false ∧
    (let s := base.modEngine 2 fun e => { e with pending := true }
     (s.engine 2).pending = true ∧ (s.engine 2).queue = []) ∧
    ((base.modChan 7 fun k => { k with swept := true }).chan 7).swept = true ∧
    ((base.modChan 0 fun k => { k with zq := true }).chan 0).zq = true ∧
    (let s : State := { base with saf := { base.saf with chnStrip := some ⟨7, 3⟩ } }
     s.saf.strip .channel = some ⟨7, 3⟩ ∧ 7 < (s.saf.strips .channel).length ∧ s.stripInForce .channel 7 = false) := by
  decide +kernel

/-- A write of SAF_DEEP by port A, with semaphore 0 held by port B, idle and running, with lanes 8 (LANES = 0) and 7. -/
theorem wit_DeepTestRequests :
    let s := held base 0 0x81
    WritePasses s 0x80 csDeep true ∧ s.saf.deep.state = 0 ∧ 7 % 8 ≠ 0 ∧ 8 % 8 = 0 ∧
    (let t : State := { s with saf := { s.saf with deep := { s.saf.deep with state := 2 } } }
     WritePasses t 0x80 csDeep true ∧ t.saf.deep.state ≠ 0) := by
  unfold WritePasses; decide +kernel

/-- A RECOVER with and without semaphore 0, with one pending, of no scope, of engine scope 2, of device scope, and its end. -/
theorem wit_RecoverAnswers :
    let scope := fun (code inst : Nat) => (⟨code, inst, 0x0030, false, false, 0, none⟩ : Scope)
    let inForce := fun (code inst : Nat) => ({ held base 0 0x80 with saf := { base.saf with scopes := [scope code inst] } } : State)
    WritePasses base 0x80 csRecover true ∧ base.mayRecover 0x80 = false ∧ (held base 0 0x80).mayRecover 0x80 = true ∧
    (held base 0 0x80).saf.recPending = none ∧ (held base 0 0x80).saf.railNow = [] ∧ (held base 0 0x80).inScope 1 2 = false ∧
    (let s := inForce 1 2
     WritePasses s 0x80 csRecover true ∧ s.mayRecover 0x80 = true ∧ s.saf.recPending = none ∧ s.saf.railNow = [] ∧
     s.inScope 1 2 = true ∧ s.barred (1, 2) = 0 ∧ s.saf.scopes ≠ [] ∧ ∀ c ∈ s.saf.scopes, s.barred (c.code, c.inst) = 0) ∧
    (let s := inForce 6 0
     WritePasses s 0x80 csRecover true ∧ s.mayRecover 0x80 = true ∧ s.inScope 6 0 = true ∧ s.barred (6, 0) = 0) ∧
    (let s : State := { inForce 1 2 with saf := { base.saf with scopes := [scope 1 2], recPending := some ⟨[(1, 2)], 4⟩ } }
     WritePasses s 0x80 csRecover true ∧ s.saf.recPending.isSome = true ∧ s.saf.recPending = some ⟨[(1, 2)], 4⟩ ∧ s.saf.deferred = [] ∧
     s.saf.scopes = [scope 1 2] ∧ 2 < s.engines.length) := by
  unfold WritePasses; decide +kernel

/-- A region that lets only requester class 0 write the first 256 bytes of reserved space at 0x3000. -/
def region : MpuCfg := ⟨0, 0, true, false, 0x3000, 0x1FF, 1⟩

/-- A reserved address just past the last hold-up register: read and written freely, refused by a region, and under the lock in
the semaphore block. -/
theorem wit_ReservedSpaceIsLoggedAndInert :
    (0x3000#24).toNat % 4 = 0 ∧ regKnown base.member (0x3000#24).toNat = false ∧ isAperture (0x3000#24).toNat = false ∧
    (0x80#8 : Identity) ≠ idJtag ∧ base.mpuRefuses 0x80 false 0x3000 .read = none ∧ base.mpuRefuses 0x80 false 0x3000 .write = none ∧
    base.writeLocked 0x80 = false ∧ base.saf.recPending = none ∧
    (let s : State := { held base 0 0x81 with saf := { base.saf with recPending := some ⟨[], 4⟩ } }
     regKnown s.member 0x13FFC = false ∧ s.writeLocked 0x80 = true ∧ s.mpuRefuses 0x80 false 0x13FFC .write = none ∧
     s.saf.recPending.isSome = true) ∧
    (let s : State := { base with mpu := { base.mpu with regions := [region] } }
     s.mpuRefuses 0x80 false 0x3000 .write = some region ∧ s.mpu.unread < 64) := by
  decide +kernel

theorem wit_SnapshotPairsReadTogether :
    (0x81#8 : Identity) ≠ idJtag ∧ base.mpuRefuses 0x81 false 0x4000 .read = none ∧ (∀ x ∈ base.snaps, x.2.1 ≠ 0x4000) ∧
    base.mpuRefuses 0x81 false 0x4004 .read = none ∧ base.mpuRefuses 0x81 false 0x4008 .read = none ∧
    (∀ x ∈ base.snaps, x.2.1 ≠ 0x4008) ∧ base.mpuRefuses 0x81 false 0x400C .read = none := by
  decide +kernel

theorem wit_RcReadClearsThenCounts :
    (0x80#8 : Identity) ≠ idJtag ∧ base.mpuRefuses 0x80 false 0x401C .read = none ∧ (∀ x ∈ base.snaps, x.2.1 ≠ 0x401C) ∧
    base.mpuRefuses 0x80 false 0x10210 .read = none ∧ (∀ x ∈ base.snaps, x.2.1 ≠ 0x10210) ∧ base.hasLayout = true ∧
    2 < base.member.ciphers ∧ 2 < base.engines.length ∧ base.mpuRefuses 0x80 false 0x50804 .read = none ∧
    (∀ x ∈ base.snaps, x.2.1 ≠ 0x50804) := by
  decide +kernel

/-- Plain writes, PLT_PACE of Plot 15 with and without its semaphore, an unaligned address, a refused and a locked write. -/
theorem wit_RegisterWritesTakeEffect :
    WritePasses base 0x80 0x218 false ∧ WritePasses base 0x80 0x400 false ∧ WritePasses base 0x80 0x8064 false ∧
    (0x80#8 : Identity) ≠ idJtag ∧ 15 < base.member.plots ∧ WritePasses (held base 79 0x80) 0x80 (0x1400C + 0x100 * 15) true ∧
    (held base 79 0x80).holdsSem 0x80 79 = true ∧ WritePasses base 0x80 (0x1400C + 0x100 * 15) true ∧ isHostId 0x80 = true ∧
    base.holdsSem 0x80 79 = false ∧ (0x219#24).toNat % 4 ≠ 0 ∧
    (let s : State := { base with mpu := { base.mpu with regions := [{ region with base := 0x200 }] } }
     (0x218#24).toNat % 4 = 0 ∧ regKnown s.member 0x218 = true ∧ isAperture 0x218 = false ∧
     s.mpuRefuses 0x80 false 0x218 .write = some { region with base := 0x200 }) ∧
    (let s := held base 0 0x81
     s.mpuRefuses 0x80 false 0x218 .write = none ∧ lockExempt 0x218 0 = false ∧ s.writeLocked 0x80 = true) := by
  unfold WritePasses; decide +kernel

theorem wit_WriteLockHoldsBackCommands :
    let s := held base 0 0x81
    s.writeLocked 0x80 = true ∧ 15 < s.banks.length ∧ 255 < s.member.mpuRegions ∧
    (∀ a ∈ [csPwrReset, csWallHi, csBnkOwner 15, csMpu 255 2, csMpuCtrl, csVioAck, csStkRop], s.mpuRefuses 0x80 false a .write = none) := by
  decide +kernel

/-- Levels 0, 1 and 2 after step 4, and step 4 itself. -/
theorem wit_JtagInstructions :
    let at_ := fun (level step : Nat) => ({ base with sec := { base.sec with level := level }, pwr := { base.pwr with step := step } } : State)
    (at_ 0 5).tapTakes 0x00 = true ∧ (at_ 0 5).tapTakes 0x10 = true ∧ (at_ 0 5).tapTakes 0x20 = true ∧ (at_ 1 15).tapTakes 0x02 = true ∧
    (at_ 1 15).tapTakes 0x01 = true ∧ (at_ 1 15).tapTakes 0x10 = false ∧ (at_ 1 15).tapTakes 0x20 = false ∧ (at_ 2 15).tapTakes 0x00 = false ∧
    (at_ 2 15).tapTakes 0x01 = false ∧ (at_ 0 4).tapTakes 0x02 = false ∧ (∀ x ∈ (at_ 0 5).snaps, x.2.1 ≠ 0) := by
  decide +kernel

def keyA : TaskKey := ⟨.port .a, 0, 7⟩

/-- A write of two blocks in flight under number 5. -/
def writeTask : Task := { newTask keyA (some .plain) .write 10 2 false with order := some 5, ticket := some 0 }

/-- A read of one block in flight at horizon 9. -/
def readTask : Task := { newTask keyA (some .plain) .read 10 1 false with horizon := some 9, ticket := some 0 }

def withTask (s : State) (t : Task) : State := s.modTasks fun _ => [t]

/-- Three inputs raised: the pointer at 20, so that 21 is next and 0 follows; a BOT command held with a free ticket, a fix point that is due, a strip asked for; none. -/
theorem wit_ArbiterGrantsInTurn :
    let s : State := returnLoose { base with arb := { base.arb with pointer := 20 } } []
    let r := fun (i : Nat) => (⟨i, .control, false, false⟩ : ArbReq)
    (⟨true, true⟩ : TreeAgreement).winnerAndPointer = true ∧ (⟨true, true⟩ : TreeAgreement).orderAndTicket = true ∧
    s.arb.lockstep = false ∧ s.raised [] = [] ∧ s.takesPart (r 5) = true ∧
    (s.raised [r 0, r 21, r 5]).all (fun x => match x with | .asked _ => true | _ => false) = true ∧
    ((∃ x ∈ s.raised [r 0, r 21, r 5], x.input = (20 + 1) % 22) ∧ ∀ j, j < 1 → ∀ x ∈ s.raised [r 0, r 21, r 5], x.input ≠ (20 + j) % 22) ∧
    ((∃ x ∈ s.raised [r 19], x.input = (20 + 21) % 22) ∧ ∀ j, j < 21 → ∀ x ∈ s.raised [r 19], x.input ≠ (20 + j) % 22) ∧
    (let u := withTask s { writeTask with held := true, ticket := none, order := none }
     ∃ t ∈ u.fn.tasks, t.held = true ∧ t.aborted = false ∧ u.canDraw t.key.origin.cls = true) ∧
    (let u := s.modField 0 fun f => { f with sinceFix := 256000 }
     0 ∈ u.fieldList ∧ u.fieldAsks 0 = true) ∧
    (let u : State := { s with saf := { s.saf with stripAsked := [laneCode .cipher] } }
     laneCode .cipher ∈ u.saf.stripAsked ∧ u.canDraw 6 = true) := by
  decide +kernel

/-- `base` with the pool of tickets exhausted. -/
def noTickets : State := { base with arb := { base.arb with reserved := [0, 0, 0, 4096, 0, 0, 0, 0] } }

theorem wit_ArbiterGivesNumbersHorizonsTickets :
    base.raised [] = [] ∧ base.arb.lockstep = false ∧ (drawTicket base 0).isSome = true ∧ base.arb.ordEnd = false ∧
    (let s : State := { base with arb := { base.arb with ordEnd := true } }
     s.raised [] = [] ∧ s.arb.ordEnd = true ∧ (drawTicket s 0).isSome = true) ∧
    drawTicket noTickets 0 = none ∧ drawTicket noTickets 2 = none ∧ noTickets.arb.lockstep = false ∧ noTickets.raised [] = [] ∧
    (let s : State := { base with arb := { base.arb with tickets := [⟨7, 6, true⟩], loose := [7] } }
     7 ∈ s.arb.loose ∧ s.arb.lockstep = false ∧ (returnLoose s [7]).raised [] = []) ∧
    ({ base with arb := { base.arb with lockstep := true } } : State).arb.lockstep = true ∧
    (⟨false, true⟩ : TreeAgreement).winnerAndPointer = false ∧ (⟨true, false⟩ : TreeAgreement).orderAndTicket = false := by
  decide +kernel

/-- A state once a ticket drawn from it has been granted to port A. -/
def won (x : Nat × State) : State := noteGrant x.2 ⟨0, (issueOrder x.2).map (·.1), none, some x.1, .granted⟩

/-- An accepted version of LBA 10 of Plot 0 under number 4, programmed. -/
def version : Entry := ⟨0, 10, 1, .block, 4, 0, crc32c [1, 2, 3], [1, 2, 3], [], false, 0, none, some 0, true, [], false⟩

def withVersion (s : State) : State := s.modField 0 fun f => { f with entries := [version] }

def encJob (idx : Nat) : BlockJob := ⟨keyA, idx, .encrypt, .hostWrite, 10 + idx, [9], ⟨0, 10 + idx, 5, 0, crc32c [9]⟩⟩
def decJob : BlockJob := ⟨keyA, 0, .decrypt, .hostRead, 10, [1, 2, 3], ⟨0, 10, 4, 0, crc32c [1, 2, 3]⟩⟩

def queuedJob (s : State) (j : BlockJob) : State := s.modEngine 1 fun e => { e with queue := [j] }

/-- A Field whose one staging bank holds 63 blocks of a page that is not programmed. -/
def stagedOut : State :=
  let b : BlkId := ⟨0, 0, 3⟩
  { base with
    banks := base.banks.modify 0 fun k => { k with role := 1, field := 0 }
    fields := base.fields.modify 0 fun f => { f with
      sets := [⟨0, 0, [b, ⟨1, 0, 3⟩], true, false, false, 0, 0, 0, 0⟩]
      pages := [⟨b, 0, 0, List.replicate 63 (.unit 0 0 1 none), none, 0, 0, false, false, false, []⟩] } }

def wideKey : TaskKey := ⟨.port .a, 66, 7⟩

/-- The key of a command of a member's host. -/
def ringKey : TaskKey := ⟨.ring 3, 0, 7⟩

/-- Tasks that take no block for one reason each; a write, a PUT, reads of a programmed, of a latent and of a ring block, one for
a member's host; full queues; no engine available. -/
theorem wit_BlocksReceived :
    (let s := withTask live writeTask
     live.task? keyA = none ∧ s.task? keyA = some writeTask ∧ 2 ≤ 2 ∧
     (withTask live { writeTask with received := [1] }).task? keyA = some { writeTask with received := [1] } ∧
     writeTask.aborted = false ∧ writeTask.held = false ∧ 1 < writeTask.count ∧ 1 ∉ writeTask.received ∧ writeTask.order = some 5 ∧
     chooseEngine s = some 0 ∧
     (let u : State := { s with engines := s.engines.map fun e => { e with queue := List.replicate 8 (encJob 0) } }
      u.task? keyA = some writeTask ∧ chooseEngine u = none ∧ ∃ e ∈ u.engines, e.available = true) ∧
     (let u : State := { s with engines := s.engines.map fun e => { e with fenced := true } }
      u.task? keyA = some writeTask ∧ (∀ e ∈ u.engines, e.available = false) ∧ u.member ≠ .z1 ∧ u.arb.noCipher = false)) ∧
    (let task : Task := { newTask ⟨.port .a, 1, 7⟩ none .put 0 2 false with order := some 5, value := [1] }
     (withTask live task).task? ⟨.port .a, 1, 7⟩ = some task ∧ task.kind = .put ∧ task.order = some 5 ∧ 1 < task.count) ∧
    (let task := { readTask with ready := [0] }
     let s := withVersion (withTask live task)
     s.task? keyA = some task ∧ 0 ∈ s.wanted task ∧ 0 ∉ task.accepted ∧ s.readHeld 0 10 9 = false ∧ s.versionOf 0 10 9 = some version ∧
     version.passed = true ∧ 0 ∈ task.ready ∧ 0 ∉ task.received ∧ chooseEngine s = some 0) ∧
    (let task := { readTask with ready := [0], asked := [(0, addrUnmapped)] }
     let s := (withTask live task).modField 0 fun f => { f with entries := [{ version with passed := false, rseq := none }] }
     s.task? keyA = some task ∧ 0 ∈ s.wanted task ∧ 0 ∉ task.accepted ∧ (0, addrUnmapped) ∈ task.asked ∧
     s.versionOf 0 10 9 = some { version with passed := false, rseq := none } ∧ isReadTask task = true) ∧
    (let task := { readTask with key := wideKey, ready := [0] }
     let s := withTask live task
     s.task? wideKey = some task ∧ 64 ≤ wideKey.plot ∧ task.kind = .read ∧ 0 ∈ task.ready ∧ 0 ∉ task.accepted ∧ wideKey.origin.isRing = false) ∧
    (let task := { readTask with key := ringKey, ready := [0] }
     (withVersion (withTask live task)).task? ringKey = some task ∧ ringKey.origin.isRing = true) := by
  and_intros <;> decide +kernel

/-- Echo checks and envelopes with a free and with a full staging bank, on a Z1, for a Plot of the master's, and of a command
that has ended. -/
theorem wit_BlocksPassTheEngines :
    (live.engine 1).queue = [] ∧
    (let s := queuedJob (withTask live writeTask) (encJob 1)
     (s.engine 1).queue = [encJob 1] ∧ (encJob 1).dir = .encrypt ∧ (encJob 1).kind = .hostWrite ∧ s.saf.recPending = none ∧
     s.inScope 1 1 = false ∧ s.member ≠ .z1 ∧ s.task? keyA = some writeTask ∧ writeTask.order = some (encJob 1).env.order ∧
     s.fieldOf 0 = some 0 ∧ stagingFree s 0 (versionOfJob writeTask (encJob 1) 0) = true ∧
     (stageVersion (popEngine s.drawNat.2 1) (idCipher 1) 0 (versionOfJob writeTask (encJob 1) 0) (sealedBytes s.drawNat.2 (encJob 1) s.drawNat.1)).2.2 = true ∧
     0 < s.fields.length) ∧
    (let s := queuedJob (withTask stagedOut writeTask) (encJob 1)
     s.task? keyA = some writeTask ∧ s.fieldOf 0 = some 0 ∧ stagingFree s 0 (versionOfJob writeTask (encJob 1) 0) = false) ∧
    (queuedJob live (encJob 1)).task? keyA = none ∧
    (let s := queuedJob (withTask live { writeTask with key := wideKey }) { encJob 1 with key := wideKey }
     s.task? wideKey = some { writeTask with key := wideKey } ∧ s.fieldOf 66 = none) ∧
    (let s : State := { bareZ1 with engines := [{ Reset.engine with queue := [encJob 0] }] }
     s.member = .z1 ∧ (s.engine 0).queue = [encJob 0]) ∧
    (let s := queuedJob (withVersion (withTask live readTask)) decJob
     (s.engine 1).queue = [decJob] ∧ decJob.dir = .decrypt ∧ decJob.kind = .hostRead ∧ s.task? keyA = some readTask ∧
     readTask.aborted = false ∧ s.fieldOf 0 = some 0 ∧ s.versionOf 0 10 9 = some version ∧ decJob.env.plot = 0 ∧ decJob.env.lba = decJob.lba ∧
     decJob.env.order = version.order ∧ decJob.env.crc = crc32c decJob.data ∧ (cipherRead (popEngine s 1) 0 1 0 10 (some version.order) (pageOf readTask 0)).2 = true ∧
     readTask.tr = some .plain) ∧
    (let task := { readTask with key := wideKey }
     let s := queuedJob (withTask live task) { decJob with key := wideKey, env := { decJob.env with plot := 2 } }
     s.task? wideKey = some task ∧ s.fieldOf 66 = none ∧ decJob.env.order ≤ task.horizon.getD 0) := by
  and_intros <;> decide +kernel

/-- A fix point with no page outstanding; a replaying Field with its contact sheet readable and not, recorded and not; a wide
Field during enumeration. -/
theorem wit_FixPointsAndReplayEnd :
    (base.field 0).fix = none ∧
    (let run : FixRun := ⟨⟨3, 20, 40, 0, 0, 0, [], [], [], 0⟩, true, some 5⟩
     let s := base.modField 0 fun f => { f with fix := some run }
     (s.field 0).fix = some run ∧ fixReady (s.field 0) (s.fenv 0) = true) ∧
    (let s := base.modField 0 fun f => { f with
       fix := some ⟨⟨3, 20, 40, 0, 0, 0, [], [], [unitAddr (base.geo 0) ⟨0, 0, 3⟩ 0 0], 0⟩, true, some 5⟩
       pages := [⟨⟨0, 0, 3⟩, 0, 3, [.fixPage 3 0 []], some 1, 0, 3, true, false, false, []⟩] }
     fixReady (s.field 0) (s.fenv 0) = false) ∧
    (base.field 0).replaying = false ∧
    (let s : State := { base with stk := { base.stk with window := true } }
     ∃ c, s.fieldCfg? 1 = some c ∧ c.wide = true ∧ s.stk.window = true) ∧
    (let s := base.modField 0 fun f => { f with replaying := true, sheet := [⟨1, false, some ⟨3, 20, 40, 0, 0, 0, [], [], [], 0⟩, 40⟩] }
     (s.field 0).replaying = true ∧ s.stk.window = false ∧ usedEntry (s.field 0) [1] = none ∧ (s.field 0).sheet ≠ [] ∧ usedEntry (s.field 0) [] ≠ none) ∧
    (let s := base.modField 0 fun f => { f with replaying := true }
     (s.field 0).replaying = true ∧ s.stk.window = false ∧ usedEntry (s.field 0) [] = none ∧ (s.field 0).sheet = [] ∧
     (fieldTransfer s idRecovery 2 0 none 0x1000 .write).2 = true) := by
  decide +kernel

def badCapsule : CapsuleRaw := ⟨32, false, 1, 0x01, 0, 0, 3, 0, 0, 0, true, []⟩

/-- A port whose hub is not configured; a configured one; ECHO at and past 65,536 bytes; REG with none, one bad and one good
entry; a refused capsule; a response and events to read, with and without an overflow. -/
theorem wit_ManagementCapsules :
    ((List.replicate 65536 (0 : Byte)).length ≤ 65536 ∧ 65536 < (List.replicate 65537 (0 : Byte)).length ∧
      8192 < (List.replicate 8193 (⟨0, 0, 0⟩ : RegEntry)).length) ∧
    base.takes .a .management = false ∧ live.takes .a .management = true ∧
    ([⟨0, 0, 0⟩, ⟨0, 2, 0⟩] : List RegEntry).findIdx? (fun e => !regEntryOk e) = some 1 ∧
    (∀ e ∈ ([⟨0, 0, 0⟩] : List RegEntry), regEntryOk e = true) ∧
    capsuleCheck .management { badCapsule with magicOk := true } = none ∧ capsuleCheck .management badCapsule = some (stBadMagic, 0) ∧
    live.hasFn .a .management = true ∧
    (let s := respondStatus live .a .management 0x03 false 4 0 0
     s.hasFn .a .management = true ∧ (inTransfer s .a 1 0x81 24).2 = true) ∧
    (inTransfer (plugged .high) .a (live.fnPort .a .management) 0x81 24).2 = false ∧ (inTransfer live .a 1 0x82 32).2 = true ∧
    (∀ n ∈ [0, 3],
      let s := live.modPfn .a fun q => { q with events := [⟨1, 1, 0, 0, 0, 0, 0⟩], overflow := n }
      s.hasFn .a .management = true ∧ (s.pfn .a).events = [⟨1, 1, 0, 0, 0, 0, 0⟩] ∧ (s.pfn .a).overflow = n) := by
  refine ⟨by simp only [List.length_replicate]; decide, ?_⟩; decide +kernel

/-- `live` with a REG capsule in progress. -/
def regInProgress (es : List RegEntry) : State :=
  live.modPfn .a fun q => q.modCap .management fun c => { c with busy := true, opcode := 0x02, tag := 6, todo := es }

theorem wit_RegEntriesOneByOne :
    ((live.pfn .a).cap .management).busy = false ∧
    (∀ rest ∈ [[], [(⟨4, 0, 0⟩ : RegEntry)]],
      let s := regInProgress ({ addr := 0x0#24, op := 0, value := 0 } :: rest)
      let c := (s.pfn .a).cap .management
      c.busy = true ∧ c.opcode = 0x02 ∧ c.todo = { addr := 0x0#24, op := 0, value := 0 } :: rest ∧ (∀ x ∈ s.snaps, x.2.1 ≠ 0) ∧
      s.csOpen Port.a.identity = true ∧ s.mpuRefuses Port.a.identity false 0 .read = none ∧ ∀ d ∈ c.doneR, d.st ≠ 2) ∧
    (let s : State := { regInProgress [⟨0x218#24, 1, 9⟩, ⟨0#24, 0, 0⟩] with mpu := { base.mpu with regions := [{ region with base := 0x200 }] } }
     let c := (s.pfn .a).cap .management
     c.busy = true ∧ s.csOpen Port.a.identity = true ∧ c.todo = [⟨0x218#24, 1, 9⟩, ⟨0#24, 0, 0⟩] ∧ (∀ d ∈ c.doneR, d.st ≠ 2) ∧ (0x218#24).toNat % 4 = 0 ∧
     regKnown s.member 0x218 = true ∧ isAperture 0x218 = false ∧ (s.mpuRefuses Port.a.identity false 0x218 .write).isSome = true) := by
  decide +kernel

def secret : List Byte := List.replicate 16 0x41

def inMode (s : State) (n : Nat) (m : PlotMode) : State := s.modPlot n fun p => { p with mode := m }

/-- Secrets of 15, 16 and 512 bytes; Plot numbers 64, 128 and 1,023; another's semaphore; a Plot that is not configured; Dark;
each Plot state; the conditions under which an UNLOCK, a re-wrap and a SET_SECRET go on. -/
theorem wit_VaultOpcodesDecide :
    live.takes .a .management = true ∧ fieldFault? 0x10 (unlockPayload 0 0 (List.replicate 15 0)) = some 4 ∧
    fieldFault? 0x10 (unlockPayload 0 0 secret) = none ∧ fieldFault? 0x10 (unlockPayload 0 1 (List.replicate 512 0)) = none ∧
    fieldFault? 0x12 (secretPayload 0 secret secret) = none ∧ fieldFault? 0x12 (secretPayload 0 [] secret) = none ∧
    live.hasLayout = true ∧ 128 ≤ 1023 ∧ ({ live with stk := { live.stk with pos := some 0 } } : State).isMaster = true ∧
    (let s := held live 64 0x81
     s.takes .a .management = true ∧ s.plotSemHeld 0 Port.a.identity = some 0x81) ∧
    (live.plotSemHeld 63 Port.a.identity = none ∧ live.plotCfg? 63 = none) ∧
    (0 < live.plots.length ∧ live.plotSemHeld 0 Port.a.identity = none ∧ (live.plotCfg? 0).isSome = true ∧ live.vaultDark = false ∧
      (live.plot 0).mode = .open_ ∧ live.loneMember = false ∧ live.unlockFirst 0 = none ∧ live.unlockRefusal 0 0 = some (stWrongState, 2)) ∧
    live.unlockFirst 63 = some (0x000C, 0) ∧
    (live.modField 0 fun f => { f with replaying := true }).unlockFirst 0 = some (0x0008, 3) ∧
    (∀ m ∈ [PlotMode.closed, .erased, .safelight, .readOnly], ((inMode live 0 m).plot 0).mode = m ∧ (inMode live 0 m).takes .a .management = true) ∧
    (∀ s ∈ [({ live with pwr := { live.pwr with state := .dark } } : State), { live with pwr := { live.pwr with xfer := some ⟨.dark, false, .lit⟩ } },
      { live with hold := { live.hold with holding := true } }], s.vaultDark = true ∧ s.unlockFirst 0 = none) ∧
    (let s := inMode live 0 .closed
     s.unlockRefusal 0 0 = none ∧ s.spareOut = false ∧ (s.plot 0).checks = [] ∧ s.secretRefusal 0 true = none) ∧
    (let s : State := { inMode live 0 .erased with sec := { live.sec with root := true } }
     s.secretRefusal 0 false = none ∧ (s.plot 0).checks = [] ∧ s.trimDone 0 = true ∧ s.secretRefusal 0 true = some (stErased, 0) ∧
     s.sec.drbgReady = false ∧ ({ s with sec := { s.sec with drbgReady := true } } : State).sec.drbgReady = true) ∧
    (let s : State := { live with stk := { live.stk with pos := some 1, state := 2, masterGone := false } }
     s.takes .a .management = true ∧ s.isMaster = false ∧ s.stk.state = 2) ∧
    (let s : State := { inMode live 0 .closed with stk := { live.stk with state := 4 } }
     s.loneMember = true) ∧
    (inMode live 0 .erased).secretRefusal 0 false = some (stWrongState, 0x0300 + 5) := by
  decide +kernel

/-- A Closed Plot with one secret check; `retry` attempts already counted. -/
def checking (what : CheckFor) (matched : Bool) (retry : Nat) (vrf : List Byte) : State :=
  let s := (inMode { live with sec := { live.sec with drbgReady := true } } 0 .closed).modPfn .a fun q =>
    q.modCap .management fun c => { c with busy := true, opcode := what.opcode, tag := 6 }
  s.modPlot 0 fun p => { p with
    checks := [⟨.port .a 6, what, secret, matched⟩]
    record := { p.record with retry := retry, vrf := vrf } }

/-- A wrong secret before and at the limit of 3, for an unlock and a re-wrap; the right one, whose unwrapping the opaque AES key
wrap decides one way or the other; the record of a matched unlock. -/
theorem wit_SecretChecksCountThenCompare :
    (live.plot 0).checks = [] ∧
    (∀ what ∈ [CheckFor.unlock 0, .unlock 1, .rewrap secret],
      let s := checking what false 0 []
      (s.plot 0).checks = [⟨.port .a 6, what, secret, false⟩] ∧ s.checkRefusal 0 ⟨.port .a 6, what, secret, false⟩ = none ∧
      ((s.pfn .a).cap .management).busy = true ∧ ((s.pfn .a).cap .management).opcode = what.opcode ∧ ((s.pfn .a).cap .management).tag = 6 ∧
      s.sec.drbgReady = true ∧ (∀ new ∈ [[], secret], what ≠ .provision new) ∧
      ((inMode s 0 .open_).checkRefusal 0 ⟨.port .a 6, what, secret, false⟩).isSome = (match what with | .unlock _ => true | _ => false)) ∧
    (∀ retry ∈ [0, 1], min 255 (retry + 1) < (checking (.unlock 0) false retry []).retryLimit 0) ∧
    (checking (.unlock 0) false 2 []).retryLimit 0 ≤ min 255 (2 + 1) ∧
    (let v := live.vrf 0 [] secret
     let wrong := checking (.unlock 0) false 0 (0 :: v)
     let right := checking (.unlock 0) false 0 v
     wrong.vrf 0 (wrong.plot 0).record.salt secret ≠ (wrong.plot 0).record.vrf ∧
     right.vrf 0 (right.plot 0).record.salt secret = (right.plot 0).record.vrf ∧
     (right.unwrap 0 secret = none ∨ ∃ k, right.unwrap 0 secret = some k)) ∧
    ((checking (.unlock 1) true 1 []).plot 0).checks = [⟨.port .a 6, .unlock 1, secret, true⟩] ∧
    (checking (.unlock 0) true 1 []).readOnlyCause 0 = 0 ∧ (∀ m ∈ [0, 1], (checking (.unlock m) true 1 []).openRefusal 0 m = none) ∧
    ((inMode (checking (.unlock 0) true 1 []) 0 .safelight).openRefusal 0 0).isSome = true ∧
    ((checking (.unlock 0) true 1 []).modField 0 fun f => { f with roHead := true }).readOnlyCause 0 ≠ 0 := by
  refine ⟨by decide +kernel, by decide +kernel, by decide +kernel, by decide +kernel, ⟨fun h => ?_, rfl, ?_⟩, ?_⟩
  · have h' : live.vrf 0 [] secret = 0 :: live.vrf 0 [] secret := h
    exact absurd (congrArg List.length h') (by simp)
  · cases h : (checking (.unlock 0) false 0 (live.vrf 0 [] secret)).unwrap 0 secret
    · exact .inl rfl
    · exact .inr ⟨_, rfl⟩
  · decide +kernel


/-- A record of Plot 1 under the name "k" in slot 0, its two blocks programmed under number 4. -/
def credRecord : Entry := ⟨1, 0, 2, .record, 4, 0, 0, recordPlain [0x6B] [1], [0x6B], true, 0, none, some 0, true, [], false⟩

def withRecord (s : State) : State := s.modField 0 fun f => { f with entries := [credRecord] }

/-- No function on port B; fields out of range; Dark and Read-only; no ticket; the three cases of a name that is there and
one that is not, for each opcode; a full Plot and a Field without space. -/
theorem wit_CredentialOpcodesAreDecided :
    let fn := CapsuleFn.credential 1
    live.takes .b fn = false ∧ live.takes .a fn = true ∧ fieldFault? 0x40 (putPayload 0 [] []) = some 0 ∧
    fieldFault? 0x40 (putPayload 3 [0x6B] []) = some 1 ∧ fieldFault? 0x42 (leBytes 1 1 ++ [0] ++ leBytes 2 1025 ++ [0x6B]) = some 2 ∧
    (∀ m ∈ [0, 1, 2], fieldFault? 0x40 (putPayload m [0x6B] [1]) = none) ∧ fieldFault? 0x41 (namePayload [0x6B]) = none ∧
    fieldFault? 0x43 (namePayload (List.replicate 64 0x6B)) = none ∧ fieldFault? 0x42 (leBytes 1 0 ++ [0] ++ leBytes 2 1024 ++ []) = none ∧
    (let s : State := { live with pwr := { live.pwr with state := .dark } }
     s.takes .a fn = true ∧ s.plotDark 1 = true) ∧
    live.plotDark 1 = false ∧ ((inMode live 1 .readOnly).plot 1).mode = .readOnly ∧ (live.plot 1).mode ≠ .readOnly ∧ live.fieldOf 1 = some 0 ∧
    (let s : State := { live with arb := noTickets.arb }
     s.takes .a fn = true ∧ drawTicket (beginCapsule s .a fn 0x40 7) 0 = none ∧ s.arb.lockstep = false) ∧
    (∀ op ∈ [0x40, 0x41, 0x42, 0x43],
      (drawTicket (beginCapsule (withRecord live) .a fn op 7) 0).isSome = true ∧
      ((drawTicket (beginCapsule (withRecord live) .a fn op 7) 0).bind fun x => issueOrder (won x)).isSome = true) ∧
    (∀ x ∈ (drawTicket (beginCapsule (withRecord live) .a fn 0x40 7) 0).bind fun x => issueOrder (won x),
      (x.2.recordsAt 1 (x.1 - 1)).find? (·.2 == [0x6B]) = some (0, [0x6B]) ∧ (x.2.recordsAt 1 (x.1 - 1)).find? (·.2 == [0x6C]) = none ∧
      (x.2.field 0).spaceOut = false ∧ (x.2.recordsAt 1 (x.1 - 1)).length < x.2.capacityOf 1 ∧ x.2.asFua = false) ∧
    (let s : State := { withRecord live with lay := { live.lay with active := some { layout with plots := [plotCfg 0 0 false, { plotCfg 1 0 true with capacity := 1 }] } } }
     s.takes .a fn = true ∧ ∀ x ∈ (drawTicket (beginCapsule s .a fn 0x40 7) 0).bind fun x => issueOrder (won x),
       (x.2.recordsAt 1 (x.1 - 1)).find? (·.2 == [0x6C]) = none ∧ x.2.capacityOf 1 ≤ (x.2.recordsAt 1 (x.1 - 1)).length) ∧
    ((live.modField 0 fun f => { f with spaceOut := true }).field 0).spaceOut = true ∧ (∀ op ∈ [0x41, 0x42], ∀ x ∈ drawTicket (beginCapsule live .a fn op 7) 0, x.2.recordsAt 1 (live.arb.ordNext - 1) = []) ∧
    (∀ x ∈ live.fn.tasks, x.kind ≠ .put ∧ x.key ≠ ⟨.port .a, 1, 7⟩) ∧ live.lookupWaits 1 = false ∧
    (let s : State := { live with arb := { live.arb with ordEnd := true } }
     ∀ op ∈ [0x40, 0x43], ∀ x ∈ drawTicket (beginCapsule s .a fn op 7) 0, issueOrder (won x) = none) ∧
    (let s : State := { live with lay := { live.lay with active := some { layout with fields := [{ fieldCfg 0 [0, 1] false with grain := 3 }] } } }
     2 < max 1 (s.geo 0).g ∧ max 1 (live.geo 0).g ≤ 2) := by
  decide +kernel

/-- `live` with the master's Plot 2 on embedded port 3. -/
def remote : State := modEmb live .a 3 fun e => { e with holder := some 66, alt := 1 }

/-- Every page of Table FNC-11 and one outside it, allocation lengths 0, 15 and 16, from a port and from the ring. -/
theorem wit_ScsiInformationCommands :
    Reaches live keyA .plain ∧ ScsiClear live keyA .plain ∧ isRemote keyA = false ∧ ScsiClear live ⟨.ring 3, 0, 7⟩ .plain ∧ isRemote ⟨.ring 3, 0, 7⟩ = false ∧
    ScsiClear remote wideKey .plain ∧ isRemote wideKey = true ∧
    (∀ page ∈ [0x00, 0x80, 0x83, 0xB0, 0xB1, 0xB2], (vpdBody live keyA page).isSome = true) ∧ 0x81 ∉ [0x00, 0x80, 0x83, 0xB0, 0xB1, 0xB2] ∧
    (∀ pc ∈ [0, 1, 2], ∀ page ∈ [0x08, 0x0A, 0x3F], (modePage page (pc == 1)).isSome = true ∧ pc ≠ 3) ∧
    (16 ≤ 16 ∧ 15 < 16 ∧ ¬(0xF0 = 0x00 ∧ 0 = 0) ∧ ¬(0xF0 = 0xF0 ∧ 0 = 1)) := by
  unfold ScsiClear Reaches; decide +kernel

/-- Plot 0 while a SANITIZE is in progress. -/
def sanitizing : State := live.modPlot 0 fun p => { p with sanitize := some ⟨⟨.port .a, 0, 3⟩, true, 5⟩ }

def dark : State := { live with pwr := { live.pwr with state := .dark } }

theorem wit_RequestSenseReports :
    Reaches live keyA .plain ∧
    (let s : State := { live with fn := { live.fn with sense := [⟨.port .a, 0, senseAt 3 0x11 0x00 10⟩] } }
     Reaches s keyA .plain ∧ (s.fn.sense.find? (fun e => sameUnit keyA e.origin e.plot)).isSome = true) ∧
    live.fn.sense.find? (fun e => sameUnit keyA e.origin e.plot) = none ∧
    (Reaches sanitizing keyA .plain ∧ (sanitizing.plot 0).sanitize.isSome = true) ∧
    (Reaches dark keyA .plain ∧ (dark.plot 0).sanitize = none ∧ dark.plotDark 0 = true) ∧
    (live.plot 0).sanitize = none ∧ live.plotDark 0 = false := by
  unfold Reaches; decide +kernel

theorem wit_ScsiCommandsTurnedAway :
    gatedKey (.testUnitReady ⟨keyA, .plain, false⟩) = some (keyA, .plain) ∧ base.presented keyA = false ∧ live.presented keyA = true ∧
    (∀ tr ∈ [Transport.uas .aca 0, .uas .simple 4], live.badIu keyA tr = true) ∧ live.badIu { keyA with tag := 16385 } .plain = true ∧
    (let s := addAttention live .a 0
     Reaches s keyA .plain ∧ s.owesAttention keyA = true) ∧
    (Reaches sanitizing keyA .plain ∧ sanitizing.owesAttention keyA = false ∧ (sanitizing.plot 0).sanitize.isSome = true) ∧
    (Reaches dark keyA .plain ∧ dark.owesAttention keyA = false ∧ (dark.plot 0).sanitize = none ∧ dark.plotDark 0 = true) ∧
    (let s := withTask live writeTask
     s.presented keyA = true ∧ s.badIu keyA .plain = false ∧ ∃ x ∈ s.fn.tasks, x.key = keyA ∧ x.statusDue = true) := by
  unfold Reaches; decide +kernel

def plain : CdbFlags := ⟨false, 0, 0, false⟩

/-- 65,536 and 65,537 blocks, the last LBA and one past it, no block; a Read-only Plot; tickets and numbers, a Field without
space; no ticket on UAS, BOT and the ring. -/
theorem wit_ReadsAndWritesAreGranted :
    ScsiClear live keyA .plain ∧ isRemote keyA = false ∧ flagsBad { plain with group := 1 } = true ∧ flagsBad plain = false ∧
    live.capacityOf 0 = 1000 ∧ 1000 < 1000 + 1 ∧ 999 + 1 ≤ 1000 ∧
    (let s := (inMode live 0 .readOnly).modPlot 0 fun p => { p with roCause := 1 }
     ScsiClear s keyA .plain ∧ (s.protects 0 .write).isSome = true) ∧
    live.protects 0 .write = none ∧ live.fieldOf 0 = some 0 ∧ (drawTicket (dropSense live keyA) 0).isSome = true ∧
    (∀ x ∈ (drawTicket (dropSense live keyA) 0).bind fun x => issueOrder (won x), x.2.noSpace 0 writeTask = false) ∧
    ((drawTicket (dropSense live keyA) 0).bind fun x => issueOrder (won x)).isSome = true ∧
    (live.modField 0 fun f => { f with spaceOut := true }).noSpace 0 writeTask = true ∧
    (let s : State := { live with arb := noTickets.arb }
     ScsiClear s keyA .plain ∧ ScsiClear s keyA .bot ∧ ScsiClear remote wideKey .plain ∧ isRemote wideKey = true ∧ drawTicket (dropSense s keyA) 0 = none ∧ s.arb.lockstep = false ∧ ScsiClear s ⟨.ring 3, 0, 7⟩ .plain ∧
     drawTicket (dropSense s ⟨.ring 3, 0, 7⟩) 2 = none) := by
  unfold ScsiClear Reaches; decide +kernel

/-- At LBA 0 and at the position just past the last block, from a port and from the ring. -/
theorem wit_EmptyWritesDrawNothing :
    ScsiClear live keyA .plain ∧ flagsBad { plain with fua := true } = false ∧ (1000#32).toNat ≤ live.capacityOf keyA.plot ∧
    (0#64).toNat ≤ live.capacityOf keyA.plot ∧ ScsiClear live ⟨.ring 3, 0, 7⟩ .plain ∧ ScsiClear remote wideKey .plain ∧
    isRemote keyA = false ∧ isRemote wideKey = true := by
  unfold ScsiClear Reaches; decide +kernel

theorem wit_FlushesAreGranted :
    ScsiClear live keyA .plain ∧ isRemote keyA = false ∧ ScsiClear remote wideKey .plain ∧ isRemote wideKey = true ∧ flagsBad plain = false ∧
    flagsBad { plain with reserved := true } = true ∧
    live.capacityOf keyA.plot < (1000#32).toNat + (1#16).toNat ∧ (999#32).toNat + (1#16).toNat ≤ live.capacityOf keyA.plot ∧
    live.fieldOf 0 = some 0 ∧ ((drawTicket (dropSense live keyA) 0).bind fun x => issueOrder (won x)).isSome = true ∧
    (let s : State := { live with arb := { live.arb with ordEnd := true } }
     ScsiClear s keyA .plain ∧ (drawTicket (dropSense s keyA) 0).isSome = true ∧ ∀ x ∈ drawTicket (dropSense s keyA) 0, issueOrder (won x) = none) := by
  unfold ScsiClear Reaches; decide +kernel

/-- A list for a waiting UNMAP: malformed, of 4,095 and 4,096 descriptors, past the capacity, empty, in Dark and Read-only. -/
theorem wit_UnmapTakesItsListFirst :
    ScsiClear live keyA .plain ∧ live.fn.tasks.find? (fun t => t.key == keyA && t.intake && t.statusDue) = none ∧
    (let w := { newTask keyA (some .plain) .discard 0 0 false with intake := true }
     let s := withTask live w
     s.fn.tasks.find? (fun t => t.key == keyA && t.intake && t.statusDue) = some w ∧ isRemote keyA = false ∧
     ([⟨999, 2⟩].any fun (d : UnmapDesc) => decide (s.capacityOf 0 < d.lba + d.count)) = true ∧
     ([⟨999, 1⟩].any fun (d : UnmapDesc) => decide (s.capacityOf 0 < d.lba + d.count)) = false ∧
     ([⟨2000, 0⟩] : List UnmapDesc).filter (fun d => d.count != 0) = [] ∧ (s.plot 0).sanitize = none ∧ s.plotDark 0 = false ∧
     s.protects 0 .discard = none) ∧
    (let w := { newTask keyA (some .plain) .discard 0 0 false with intake := true }
     let s := withTask sanitizing w
     s.fn.tasks.find? (fun t => t.key == keyA && t.intake && t.statusDue) = some w ∧ (s.plot 0).sanitize.isSome = true) ∧
    (let w := { newTask wideKey (some .plain) .discard 0 0 false with intake := true }
     (withTask remote w).fn.tasks.find? (fun t => t.key == wideKey && t.intake && t.statusDue) = some w ∧ isRemote wideKey = true ∧ (remote.plot 66).sanitize = none ∧ remote.plotDark 66 = false) ∧
    ((List.replicate 4095 (⟨0, 1⟩ : UnmapDesc)).length ≤ 4095 ∧ 4095 < (List.replicate 4096 (⟨0, 1⟩ : UnmapDesc)).length) ∧
    dark.plotDark 0 = true ∧ (((inMode live 0 .readOnly).modPlot 0 fun p => { p with roCause := 1 }).protects 0 .discard).isSome = true := by
  unfold ScsiClear Reaches
  and_intros <;> first | (rw [List.length_replicate]; decide) | decide +kernel

/-- Service actions 2 and 3, a parameter list, a protected Plot, the counter at its end, a grant; a completion with nothing in
progress, with an earlier command in flight, and free to end. -/
theorem wit_SanitizeErasesOnePlot :
    ScsiClear live keyA .plain ∧ isRemote keyA = false ∧ ScsiClear remote wideKey .plain ∧ isRemote wideKey = true ∧ 2 ≠ 3 ∧
    (((inMode live 0 .readOnly).modPlot 0 fun p => { p with roCause := 1 }).protects 0 .sanitize).isSome = true ∧
    live.protects 0 .sanitize = none ∧
    (let s := live.modPlot 0 fun p => { p with record := { p.record with rekeys := counterMax } }
     ScsiClear s keyA .plain ∧ (s.plot 0).record.rekeys = counterMax) ∧
    (live.modGrn fun g => { g with retired := List.range 255 }).spareOut = true ∧ (live.plot 0).record.rekeys ≠ counterMax ∧ live.spareOut = false ∧ live.fieldOf 0 = some 0 ∧
    ((drawTicket (dropSense live keyA) 0).bind fun x => issueOrder (won x)).isSome = true ∧ 0 < live.plots.length ∧
    (live.plot 0).sanitize = none ∧ (sanitizing.plot 0).keys.isSome = true ∧
    sanitizing.earlierEnded 0 ⟨⟨.port .a, 0, 3⟩, true, 5⟩ = true ∧
    (withTask sanitizing writeTask).earlierEnded 0 ⟨⟨.port .a, 0, 3⟩, true, 5⟩ = false := by
  unfold ScsiClear Reaches; decide +kernel

theorem wit_TaskManagementEndsCommands :
    base.presented keyA = false ∧ live.presented keyA = true ∧ live.runsUas keyA = true ∧ live.runsBot .a 0 = false ∧
    (let s := withTask live writeTask
     s.presented keyA = true ∧ s.runsUas keyA = true ∧ ∃ x ∈ s.fn.tasks, x.key = keyA ∧ x.statusDue = true) ∧
    (∀ x ∈ live.fn.tasks, x.key = keyA → x.statusDue = false) ∧
    (let s := modEmb live .a 2 fun e => { e with alt := 0 }
     s.runsUas keyA = false ∧ s.runsBot .a 0 = true) := by
  decide +kernel

/-- Semaphore 127 free, held and another's, semaphores 2 and 3 with no layout, forces by the holder of semaphore 0 and by the
stack, of semaphore 0 too, and a writer that is no host. -/
theorem wit_SemaphoresAreTakenReleasedForced :
    (∀ id ∈ [(0x80 : Identity), 0x81, 0x82], WritePasses base id (csSem 127) true ∧ isHostId id = true) ∧
    base.sem.owner.length = 128 ∧ isHostId 0x87 = false ∧ WritePasses base 0x87 (csSem 0) true ∧
    base.semOwner 127 = idNone ∧ base.hasLayout = true ∧ bare.hasLayout = false ∧ WritePasses bare 0x80 (csSem 2) true ∧
    WritePasses bare 0x80 (csSem 3) true ∧ bare.semOwner 3 = idNone ∧
    (held base 127 0x80).semOwner 127 = 0x80 ∧ (held base 127 0x80).sem.owner.length = 128 ∧
    (let s := held (held base 127 0x80) 0 0x81
     s.semOwner 127 ≠ idNone ∧ s.semOwner 127 ≠ 0x81 ∧ s.semOwner 0 = 0x81 ∧ WritePasses s 0x81 (csSem 127) true) ∧
    (let s := held base 0 0x80
     s.semOwner 0 ≠ idNone ∧ s.semOwner 0 ≠ 0x82 ∧ (0x81 : Identity) ≠ 0x82 ∧ ¬(s.semOwner 0 = 0x81 ∧ 0 ≠ 0)) := by
  unfold WritePasses; and_intros <;> decide +kernel


/-- A host without the semaphore, a host with it, and JTAG; each result of PLT_CTRL in turn on Plot 0. -/
theorem wit_PlotControlRekeysAndErases :
    0 < live.plots.length ∧ WritePasses live 0x80 (csPltCtrl 0) true ∧ isHostId 0x80 = true ∧ live.holdsSem 0x80 64 = false ∧
    isHostId 0x8A = false ∧ WritePasses live 0x8A (csPltCtrl 15) true ∧ 15 < live.plots.length ∧
    (let s := held live 64 0x80
     WritePasses s 0x80 (csPltCtrl 0) true ∧ s.holdsSem 0x80 64 = true ∧ (s.plotCfg? 0).isSome = true ∧ (s.plot 0).mode.up = true ∧
     (s.plot 0).record.rekeying = false ∧ (s.plot 0).sanitize = none ∧ (s.plot 0).record.rekeys ≠ counterMax ∧
     (s.plot 0).keys.isSome = true ∧ (s.plot 0).checks = [] ∧ (0xE2A4#16) ≠ 0xE2A5) ∧
    ((inMode live 0 .closed).plot 0).mode.up = false ∧
    ((live.modPlot 0 fun p => { p with record := { p.record with rekeying := true } }).plot 0).record.rekeying = true ∧
    (sanitizing.plot 0).sanitize.isSome = true ∧ (live.plotCfg? 15).isSome = false ∧
    ((live.modPlot 0 fun p => { p with record := { p.record with rekeys := counterMax } }).plot 0).record.rekeys = counterMax := by
  unfold WritePasses; decide +kernel

/-- Levels 0, 1 and 2, with and without semaphore 0, a Plot up and none, the root present and absent, a lowering to end. -/
theorem wit_ReadOutProtectionAndRoot :
    let h := held base 0 0x80
    let at_ := fun (s : State) (level : Nat) => ({ s with sec := { s.sec with level := level } } : State)
    WritePasses base 0x80 csSecRdp true ∧ WritePasses base 0x80 csSecProv true ∧ base.holdsSem 0x80 0 = false ∧ h.holdsSem 0x80 0 = true ∧
    WritePasses h 0x80 csSecRdp true ∧ (0x5E00#16) ≠ 0x5E01 ∧ (at_ h 0).sec.level = 0 ∧ (at_ h 1).sec.level = 1 ∧ (at_ h 2).sec.level ≠ 1 ∧
    (at_ h 2).sec.level ≠ 0 ∧ (at_ (held live 0 0x80) 1).anyPlotUp = true ∧ (at_ h 1).anyPlotUp = false ∧ (at_ h 1).sec.lowering = false ∧
    ({ h with sec := { h.sec with lowering := true } } : State).sec.lowering = true ∧ (0x80 : Identity) ≠ idJtag ∧
    h.sec.root = false ∧ h.drkBlank = true ∧ h.pwr.railsUp = true ∧ h.sec.drbgReady = false ∧
    h.spareOut = false ∧ (h.modGrn fun g => { g with retired := List.range 255 }).spareOut = true ∧ tapAllows 1 0x10 = false ∧ tapAllows 1 0x02 = true ∧
    ({ h with sec := { h.sec with drbgReady := true } } : State).sec.drbgReady = true ∧
    1 < h.grn.seed.length ∧ 33 < h.grn.seed.length ∧ ({ h with sec := { h.sec with root := true } } : State).sec.root = true := by
  unfold WritePasses; decide +kernel

/-- Each power state; a wall time of one second more than E, the same, and without semaphore 0. -/
theorem wit_HoldUpAndWallTime :
    let in_ := fun (st : PowerState) (fail : Bool) =>
      ({ base with pwr := { base.pwr with state := st }, hold := { base.hold with pwrFail := fail } } : State)
    (in_ .off false).pwr.state = .off ∧ (in_ .lit true).hold.pwrFail = true ∧ (in_ .dark false).pwr.state = .dark ∧
    (in_ .dark false).hold.pwrFail = false ∧ (in_ .dim false).pwr.state = .dim ∧ (in_ .dim true).pwr.state ≠ .off ∧
    WritePasses base 0x80 csWallHi false ∧ base.holdsSem 0x80 0 = false ∧
    (let s : State := { held base 0 0x80 with wall := { base.wall with e := 2 ^ 32 - 1 } }
     WritePasses s 0x80 csWallHi false ∧ s.holdsSem 0x80 0 = true ∧ s.wall.e < (1#32).toNat * 2 ^ 32 + s.wall.wLo.toNat ∧
     (0#32).toNat * 2 ^ 32 + s.wall.wLo.toNat ≤ s.wall.e ∧ 0 < s.fields.length) := by
  unfold WritePasses; decide +kernel

theorem wit_GranaryArming :
    WritePasses base 0x80 csGrnKey true ∧ WritePasses base 0x87 csGrnKey true ∧ base.grnBank? 0x87 = none ∧
    (∀ arm ∈ [0, 1, 2],
      let s := modGrnBank base 0x80 fun b => { b with arm := arm }
      WritePasses s 0x80 csGrnKey true ∧ (s.grnBank? 0x80).map (·.arm) = some arm) ∧
    (0x6C3A91F5#32) ≠ 0x6C3A91F4#32 := by
  unfold WritePasses; decide +kernel

/-- `base` with semaphore 2 held by port A, so that it may program, its bank armed and addressed. -/
def grn (arm addr : Nat) : State := modGrnBank (held base 2 0x80) 0x80 fun b => { b with arm := arm, addr := addr }

def erasing (suspended : Bool) : State := (grn 2 0).modGrn fun g => { g with erase := some ⟨0x80, 768, 1, 0, suspended, suspended, 0⟩ }

/-- No bank; each check that fails; no word; READ of 8 words, PROGRAM, INC and ERASE that pass; SUSPEND and RESUME of the
requester's own erase. -/
theorem wit_GranaryCommandsAreChecked :
    WritePasses base 0x87 csGrnCmd true ∧ base.grnBank? 0x87 = none ∧ WritePasses (grn 2 0) 0x80 csGrnCmd true ∧
    ((grn 2 0).grnBank? 0x80).isSome = true ∧
    (grn 2 0).grnCheck 0x80 true 1 0 0 9 0 = .fails 3 ∧ grnFieldsOk 1 0 0 9 = false ∧ (grn 2 0).grnCheck 0x80 false 2 0 0 1 0 = .fails 1 ∧
    grnFieldsOk 2 0 0 1 = true ∧ (grn 0 0).grnCheck 0x80 false 1 0 0 0 0 = .nothing ∧ (grn 0 0).grnCheck 0x80 false 1 0 0 8 (768 * 4096 - 224) = .fails 3 ∧
    (grn 0 0).grnCheck 0x80 false 1 0 0 8 (768 * 4096 - 256) = .passes ∧
    (grn 0 0).grnCheck 0x80 false 1 0 0 8 (512 * 4096) = .passes ∧ (grn 2 0).grnCheck 0x80 true 2 0 0 8 (512 * 4096) = .passes ∧
    (grn 2 0).grnCheck 0x80 true 6 0 0 0 63 = .passes ∧ (grn 2 0).grnCheck 0x80 true 3 0 0 16 (512 * 4096) = .passes ∧
    (grn 2 0).grn.erase = none ∧ (grn 2 0).grn.queue = [] ∧ (grn 2 0).grn.released = 0 ∧
    ((grn 2 0).modGrn fun g => { g with released := 17 }).grn.released ≠ 0 ∧ (grn 2 0).hold.pwrFail = false ∧
    (erasing false).grnPending 0x80 = true ∧ (erasing false).grnCheck 0x80 true 4 0 0 0 0 = .passes ∧
    (erasing true).grnCheck 0x80 true 5 0 0 0 0 = .passes ∧ (erasing true).grn.erase.isSome = true := by
  unfold WritePasses; decide +kernel

def ended (op : GrnOp) (addr count : Nat) : State := base.modGrn fun g => { g with queue := [⟨0x80, op, 0, 0, count, addr⟩] }

/-- READ and PROGRAM of 8 words at the end of the OEM area, a BAD sector, a word that is not erased, counters at and below
their limit, an erase of the last sector. -/
theorem wit_GranaryReadsProgramsErases :
    let last : Nat := 767 * 4096 + 4096 - 256
    cellsOk 0xFF base.grn.mem = true ∧ (base.grnBank? 0x80).isSome = true ∧ (∀ e ∈ base.grn.erase, e.suspended = true) ∧
    (ended .read last 8).grn.queue = [⟨0x80, .read, 0, 0, 8, last⟩] ∧
    (∀ i < 8, base.inPool ((last + 32 * i) / 4096) = false ∧ base.inErase ((last + 32 * i) / 4096) = false ∧ (last + 32 * i) ∉ base.grn.undef ∧
      (last + 32 * i) ∉ base.grn.ones ∧ ∀ b ∈ grnRun 32 (last + 32 * i) base.grn.mem, b = 0xFF) ∧
    (base.bankOf 0x80).data.length = 64 ∧ base.grn.bad.contains 767 = false ∧
    (base.modGrn fun g => { g with bad := [767] }).grn.bad.contains (last / 4096) = true ∧
    (let s := base.modGrn fun g => { g with mem := [⟨last + 31, 0⟩] }
     cellsOk 0xFF s.grn.mem = true ∧ ∃ b ∈ grnRun 32 (last + 32 * 0) s.grn.mem, b ≠ 0xFF) ∧
    (base.grn.counters.length = 64 ∧ base.grn.counters.getD (63 % 64) 0 < counterMax) ∧
    counterMax ≤ (base.modGrn fun g => { g with counters := List.replicate 64 counterMax }).grn.counters.getD (63 % 64) 0 ∧
    (let s := base.modGrn fun g => { g with erase := some ⟨0x80, 767, 1, 0, false, false, 0⟩ }
     s.grn.erase = some ⟨0x80, 767, 1, 0, false, false, 0⟩ ∧ (∀ i < 1, s.grn.bad.contains (767 + i) = false)) ∧
    (let s := base.modGrn fun g => { g with erase := some ⟨idController, 0, 0, 16, false, false, 0⟩, released := 17 }
     s.grn.erase = some ⟨idController, 0, 0, 16, false, false, 0⟩ ∧ 0 < 16) ∧
    base.grn.erase = none ∧ base.grn.queue = [] := by
  decide +kernel

theorem wit_GranaryErasesYieldAndTheWindowMoves :
    base.grn.erase = none ∧ (erasing false).grn.erase.isSome = true ∧
    (let s := (erasing false).modGrn fun g => { g with queue := [⟨0x81, .read, 0, 0, 1, 0⟩] }
     s.grn.queue = [⟨0x81, .read, 0, 0, 1, 0⟩] ∧ GrnOp.read ≠ .erase) ∧
    (erasing true).grn.queue = [] ∧ (erasing true).hold.pwrFail = false ∧ base.grn.erases < 65536 ∧
    (let s := base.modGrn fun g => { g with erases := 65536 }
     65536 ≤ s.grn.erases ∧ s.spareOut = false) ∧
    (base.modGrn fun g => { g with retired := List.range 255 }).spareOut = true := by
  decide +kernel

def ownedBy (b role : Nat) (id : Identity) : State := base.modBank b fun k => { k with owner := id, role := role }

/-- The last bank: its owner, another identity, a refusing region, an address past the end, an identity without a window. -/
theorem wit_BanksServeTheirOwner :
    winIndex 0x87 = none ∧ bare.hasLayout = false ∧ winIndex 0x80 = some 0 ∧ base.hasLayout = true ∧
    (let s : State := { ownedBy 15 4 0x80 with wins := [{ Reset.win with page := 1023 }, Reset.win, Reset.win] }
     let addr := (s.win 0).page * 0x1000 + 0xFFC % 0x1000 / 4 * 4
     BankPasses s 0x80 addr .read ∧ BankPasses s 0x80 addr .write ∧ cellsOk 0 s.bankMem = true) ∧
    (0 < base.bankLimit ∧ base.passesOwner 0x80 0 = false ∧ base.mpu.unread < 64) ∧ base.bankLimit ≤ 1024 * 0x1000 ∧
    15 < base.banks.length ∧ base.banks.length ≤ 16 ∧ base.csOpen 0x80 = true ∧ bare.csOpen 0x85 = false ∧
    WritePasses base 0x80 (csBnkOwner 15) false ∧ (base.bank 15).owner ≠ 0x80 ∧
    (let s := ownedBy 15 1 0x80
     (s.bank 15).owner = 0x80 ∧ (s.bank 15).role ≠ 0 ∧ (s.bank 15).role ≠ 4) ∧
    (let s := ownedBy 15 4 0x80
     (s.bank 15).owner = 0x80 ∧ (s.bank 15).role = 4 ∧ s.carriesHost 0x87 = false ∧ s.carriesHost 0x82 = true ∧ (s.bank 15).scrubbing = false ∧
     WritePasses s 0x81 (csBnkOwner 15) true ∧ s.holdsSem 0x81 0 = false ∧ (0x81 : Identity) ≠ idStack) ∧
    ((ownedBy 15 4 0x80).modBank 15 fun k => { k with scrubbing := true }).bank 15 ≠ Reset.bank ∧
    (let s := held (ownedBy 15 4 0x80) 0 0x81
     s.holdsSem 0x81 0 = true ∧ isHostId (s.bank 15).owner = true) ∧
    isHostId (base.bank 15).owner = false := by
  unfold WritePasses BankPasses; decide +kernel

/-- An add and a swap of 32 and 64 bits at a multiple of 4 only, at a multiple of 8, and refused; the last region in each of its
states. -/
theorem wit_AtomicsAndRegions :
    WritePasses base 0x80 csAtomOp true ∧ winIndex 0x80 = some 0 ∧ 0 < base.wins.length ∧ winIndex 0x87 = none ∧
    WritePasses base 0x87 csAtomOp true ∧ 0xC % 8 ≠ 0 ∧
    (let s : State := { ownedBy 15 4 0x80 with wins := [{ Reset.win with atomAddr := 15 * 0x40000 + 0x3FFF8 }, Reset.win, Reset.win] }
     (s.win 0).atomAddr % 8 = 0 ∧ BankPasses s 0x80 (s.win 0).atomAddr .atomic ∧ cellsOk 0 s.bankMem = true ∧ WritePasses s 0x80 csAtomOp true) ∧
    ((base.win 0).atomAddr < base.bankLimit ∧ base.passesOwner 0x80 0 = false) ∧
    (255 < base.member.mpuRegions ∧ WritePasses base 0x80 (csMpu 255 2) false ∧ base.mpu.lock = false ∧ (base.mpu.region 255).enable = false) ∧
    ({ base with mpu := { base.mpu with lock := true } } : State).mpu.lock = true ∧
    (let s : State := { base with mpu := { base.mpu with regions := [{ region with index := 255 }] } }
     (s.mpu.region 255).enable = true ∧ s.mpu.lock = false ∧ field 0x000#32 8 1 = 0 ∧ field 0x100#32 8 1 ≠ 0) ∧
    (let n := { base.mpu.region 255 with size := field 0x118#32 0 5, space := (0x118#32).getLsbD 9 }
     (0x118#32).getLsbD 8 = true ∧ base.regionOk { n with space := true } = false) ∧
    (let n := { base.mpu.region 255 with size := field 0x105#32 0 5, space := (0x105#32).getLsbD 9 }
     (0x105#32).getLsbD 8 = true ∧ base.regionOk n = true ∧ ∀ x ∈ base.mpu.regions, ({ n with enable := true } : MpuCfg).clash x = false) ∧
    WritePasses base 0x80 csMpuCtrl false ∧ WritePasses base 0x80 csVioAck false ∧
    (let q : MpuState := { base.mpu with head := 0xFFFF, unread := 64 }
     1 ≤ q.head ∧ q.head ≤ 0xFFFF ∧ q.unread ≤ 64 ∧ (0xFFFF - 64) + q.unread = q.head ∧ 1 ≤ 0xFFFF - 64 ∧ 0 < q.unread) := by
  unfold WritePasses BankPasses
  and_intros <;> decide +kernel


theorem wit_LayoutOperationsBegin :
    let free := held base 1 0x80
    (∀ s ∈ [base, bare, free, dark], WritePasses s 0x80 csLayCtrl true) ∧ bare.lay.starting = true ∧
    (base.lay.starting = false ∧ base.lay.run = none ∧ base.holdsSem 0x80 1 = false) ∧
    (free.holdsSem 0x80 1 = true ∧ free.lay.recipePend = [] ∧ free.pwr.state ≠ .dark ∧ free.hasLayout = true ∧ free.lay.activeSlot = .a ∧
      free.anyPlotUp = false ∧ ∀ e ∈ free.saf.scopes, e.latch = false) ∧
    ({ free with lay := { free.lay with recipePend := [1] } } : State).lay.recipePend ≠ [] ∧
    (held dark 1 0x80).pwr.state = .dark ∧ (held dark 1 0x80).holdsSem 0x80 1 = true ∧ (held live 1 0x80).anyPlotUp = true ∧
    (∃ e ∈ ({ free with saf := { free.saf with scopes := [⟨6, 0, 0x0090, true, false, 0, none⟩] } } : State).saf.scopes, e.latch = true) := by
  unfold WritePasses; decide +kernel

def layoutRun (op : Nat) (stage : LayStage) (image : Option Layout) : State :=
  { base with lay := { base.lay with run := some ⟨op, .b, 0x80, stage, image, []⟩ } }

/-- An erased slot, which check v1 fails; an image that passes needs the opaque SHA-384 and ECDSA to say so, so the second case
of a verification is shown by the epochs and differences it compares; the commit at its stage. -/
theorem wit_LayoutsAreVerifiedAndCommitted :
    base.lay.run = none ∧ (layoutRun 1 .verifying none).lay.run = some ⟨1, .b, 0x80, .verifying, none, []⟩ ∧
    (verifySlot (layoutRun 1 .verifying none) .b ⟨true, true⟩).image = none ∧
    ({ layout with epoch := 0 } : Layout).epoch = base.counter0 ∧ layout.epoch ≠ base.counter0 ∧
    (base.lay.active.bind fun old => warmDiff old layout).isSome = true ∧
    base.lay.active.bind (fun old => warmDiff old { layout with frames := [⟨0, 0x05, 0, [1]⟩] }) = none ∧
    (layoutRun 3 .committing (some layout)).lay.run = some ⟨3, .b, 0x80, .committing, some layout, []⟩ ∧
    (layoutRun 2 .committing (some layout)).lay.active = some layout := by
  decide +kernel

theorem wit_PowerCommandsAreTaken :
    let s := held base 0 0x80
    WritePasses base 0x80 csPwrCtrl true ∧ base.holdsSem 0x80 0 = false ∧ WritePasses s 0x80 csPwrCtrl true ∧ s.holdsSem 0x80 0 = true ∧
    s.powerBusy = false ∧ s.pwr.state = .lit ∧ s.pwr.state ≠ .dark ∧ s.pwr.state ≠ .off ∧
    ({ s with pwr := { s.pwr with state := .dim } } : State).pwr.state ≠ .lit ∧
    ({ s with pwr := { s.pwr with xfer := some ⟨.dark, false, .lit⟩ } } : State).powerBusy = true ∧ 3 ≠ 1 ∧ 3 ≠ 2 := by
  unfold WritePasses; decide +kernel

theorem wit_DevelopmentEndsATransition :
    base.allDeveloped = true ∧ (withTask live writeTask).allDeveloped = false ∧ base.pwr.xfer = none ∧ base.lay.run = none ∧
    (let s : State := { live with pwr := { live.pwr with xfer := some ⟨.off, false, .lit⟩ } }
     s.allDeveloped = true ∧ s.pwr.xfer = some ⟨.off, false, .lit⟩ ∧ 0 ∈ s.plotList ∧ (s.plot 0).mode.up = true) ∧
    (let s : State := { live with pwr := { live.pwr with xfer := some ⟨.dark, true, .lit⟩ } }
     s.allDeveloped = true ∧ PowerState.dark ≠ .off) ∧
    ((layoutRun 3 .developing (some layout)).allDeveloped = true ∧ (layoutRun 3 .developing (some layout)).pwr.xfer = none ∧
      (layoutRun 3 .developing (some layout)).lay.run = some ⟨3, .b, 0x80, .developing, some layout, []⟩) := by
  decide +kernel

def facts : StartFacts := ⟨true, true, List.replicate 32 .primary, ⟨true, true⟩, ⟨true, true⟩, [], [], [], true, false, 1000⟩

/-- RESET_N of 99, 100, 999 and 1,000 ns; the key of PWR_RESET and another; a wake from Off with GPIO code 6 and with none; the
first sight of the reference at step 2, and at step 3. -/
theorem wit_ResetsAndTheStart :
    (99 < 100 ∧ 100 ≤ 100 ∧ 999 < 1000 ∧ 1000 ≤ 1000) ∧ WritePasses base 0x80 csPwrReset false ∧ base.holdsSem 0x80 0 = false ∧
    (held base 0 0x80).holdsSem 0x80 0 = true ∧ WritePasses (held base 0 0x80) 0x80 csPwrReset false ∧ 0x7E5B#16 ≠ 0x7E5A#16 ∧ base.pwr.state ≠ .off ∧
    (let s : State := { base with pwr := { base.pwr with state := .off } }
     s.pwr.state = .off ∧ s.layout = some layout ∧ ∃ g ∈ layout.gpio, g.toNat % 128 = 0x06) ∧
    ({ bare with pwr := { bare.pwr with state := .off } } : State).layout = none ∧
    (bare.pwr.step ≤ 2 ∧ bare.pwr.railsUp = true ∧ bare.pwr.refPresent = false ∧ bare.lay.active = none ∧ bare.grn.mem = [] ∧ bare.grn.undef = [] ∧
      facts.calRowA = true ∧ (∀ x ∈ facts.seed, x = .primary) ∧ bare.sec.lowering = false) ∧
    2 < base.pwr.step ∧ ({ bare with pwr := { bare.pwr with railsUp := false } } : State).pwr.railsUp = false ∧ base.pwr.refPresent = true := by
  unfold WritePasses; decide +kernel

def slow : State := plugged .high

/-- Endpoints with and without a free granule and halted, a held BOT command, at high speed and SuperSpeed, absent ones, LINKPM with its bits set and clear, the
hub configured or not, functions reached and not, the last alternate setting and the one past it. -/
theorem wit_UsbPacketsAndDeviceRequests :
    (live.portA.ep? 1 0x02 = none ∧ live.portA.hasEp 1 0x02 = false ∧ live.portA.live = true ∧ live.portB.live = false) ∧
    (∀ s ∈ [live, slow], ∃ e, s.portA.ep? 1 0x01 = some e ∧ s.portA.hasEp 1 0x01 = true ∧ e.halted = false ∧ e.used < e.total ∧ s.botHeld .a 1 = false) ∧
    (∀ s ∈ [live, slow], ∃ e, s.portA.ep? 1 0x81 = some e ∧ s.portA.hasEp 1 0x81 = true ∧ e.halted = false ∧ e.total ≤ e.used) ∧
    (∀ s ∈ [live, slow], let t := modEp s .a 1 0x01 fun e => { e with halted := true }
      ∃ e, t.portA.ep? 1 0x01 = some e ∧ t.portA.hasEp 1 0x01 = true ∧ e.halted = true) ∧
    (withTask live { writeTask with held := true }).botHeld .a 2 = true ∧
    (live.portA.super = true ∧ slow.portA.super = false ∧ slow.portA.speed = .high) ∧
    ((live.portCfg .a).linkPm.testBit 1 = true ∧ (slow.portCfg .a).linkPm.testBit 2 = true) ∧
    (let l := { layout with ports := [{ portCfg with linkPm := 0 }, portCfg] }
     ∀ s ∈ [live, slow], let t : State := { s with lay := { s.lay with active := some l } }
       (t.portCfg .a).linkPm.testBit 0 = false ∧ (t.portCfg .a).linkPm.testBit 2 = false ∧ t.portA.live = true) ∧
    (live.portA.configured = true ∧ ({ live.portA with configured := false } : PortState).configured = false) ∧
    (let s := live.modPort .a fun q => { q with emb := q.emb.modify 1 fun e => { e with powered := true, conn := false, chg := false } }
     s.portA.emb.length = 16 ∧ (s.emb .a 1).powered = true ∧ (s.emb .a 1).conn = false ∧ (s.emb .a 1).chg = false) ∧
    (live.portA.reaches 2 = true ∧ live.portA.reaches 4 = false ∧ live.portA.bulk 2 = true ∧ live.lastAlt .a 2 = 1 ∧ 1 < 2 ∧ live.portA.bulk 4 = false) := by
  and_intros <;> decide +kernel

def suspended : State := live.modPort .a fun q => { q with link := 3, wakeSignals := 2 }

/-- Port B of a Z1 and of a Z8; a connected, a free and a covered port; suspend of the last port and of one of two; resume of a
suspend entry that develops, of a suspend that Dim ended, and from U1; samples of the inputs. -/
theorem wit_UsbConnectsDetachesAndSuspends :
    (Port.b ∉ bareZ1.member.portList ∧ Port.b ∈ base.member.portList) ∧
    ((base.portCfg .b).enable = true ∧ (base.port .b).connected = false ∧ base.inScope 5 1 = false ∧ base.pwr.state ≠ .off ∧ base.pwr.step = 15) ∧
    ((live.port .a).connected = true ∧ (live.port .a).live = true ∧ (live.port .b).connected = false) ∧
    ({ base with saf := { base.saf with scopes := [⟨5, 1, 0, false, false, 0, none⟩] } } : State).inScope 5 1 = true ∧
    (3 ≤ speedCode .gen1x1 ∧ 1 ≤ 1 ∧ 3 ≤ 3) ∧
    (let s : State := { live with portB := live.portA }
     ∃ q ∈ s.member.portList, q ≠ Port.a ∧ (s.port q).connected = true ∧ (s.port q).link ≠ 3) ∧
    ((∀ q ∈ live.member.portList, q ≠ Port.a → (live.port q).connected = false ∨ (live.port q).link = 3) ∧ live.stackLinkUp = false ∧
      live.powerBusy = false ∧ live.pwr.target = 2 ∧ live.pwr.state ≠ .dark) ∧
    ({ live with pwr := { live.pwr with target := 1 } } : State).pwr.target = 1 ∧ (live.port .b).speed = .none ∧ (live.port .a).link = 0 ∧
    ((suspended.port .a).speed ≠ .none ∧ (suspended.port .a).link = 3 ∧ 1 ≤ (suspended.port .a).wakeSignals ∧ (suspended.port .a).wakeSignals < 3) ∧
    (let s : State := { suspended with pwr := { live.pwr with xfer := some ⟨.dark, true, .lit⟩ } }
     s.pwr.xfer = some ⟨.dark, true, .lit⟩) ∧
    (let s : State := { suspended with pwr := { live.pwr with state := .dim, bySuspend := true } }
     s.pwr.xfer = none ∧ s.pwr.bySuspend = true ∧ s.pwr.before = .lit) ∧
    ((live.modPort .a fun q => { q with link := 1 }).port .a).link ≠ 3 ∧ bare.gpioCfg = [] ∧ base.gpioCfg ≠ [] ∧ base.fn.gpioRaw = [] ∧
    base.pwr.state ≠ .off ∧ (let s : State := { suspended with pwr := { live.pwr with state := .dim, bySuspend := true, before := .dark } }
     s.pwr.before = .dark ∧ s.pwr.state ≠ .dark) ∧
    (let s : State := { base with fn := { base.fn with gpioRaw := [1, 1] } }
     s.fn.gpioRaw = [1, 1] ∧ gpioSampleBits s.gpioCfg 1 = 1 ∧ s.fn.gpioLevel < 256) := by
  and_intros <;> decide +kernel

/-- A hub that is not live, not configured, and one that takes requests at each speed; ports 0, 15 and 16; a port powered off, one
with a function connected, one whose connect was deferred. -/
theorem wit_HubRequestsOnEmbeddedPorts :
    ((base.port .a).live = false ∧ (live.port .a).live = true ∧ (live.port .a).configured = true) ∧ (slow.port .a).super = false ∧ 16 ≤ 16 ∧
    (HubTakes live .a 2 ∧ HubTakes slow .a 2 ∧ HubTakes live .a 15) ∧
    ((live.emb .a 2).powered = true ∧ (live.emb .a 2).conn = true ∧ (live.emb .a 2).holder = some 0 ∧ (live.emb .a 15).conn = false) ∧
    (let s := modEmb live .a 2 fun e => { e with powered := false, conn := false }
     (s.emb .a 2).powered = false ∧ (s.emb .a 2).conn = false ∧ (s.emb .a 2).holder = some 0 ∧ (s.plot 0).mode.up = true ∧ (s.emb .a 2).chg = false) ∧
    ((live.port .a).ep? 0 0x81 = none ∧ changeBits (live.port .a).emb = 0 ∧
      changeBits ((modEmb live .a 2 fun e => { e with cReset := true }).port .a).emb ≠ 0 ∧
      (let q := ((live.modPort .a fun q => { q with eps := freshEp 0 0x81 1 :: q.eps }).port .a).ep? 0 0x81
       ∃ e, q = some e ∧ e.halted = false ∧ e.used < e.total)) ∧
    (let s := modEmb live .a 2 fun e => { e with deferred := true, conn := false, chg := true }
     (s.emb .a 2).deferred = true ∧ (s.emb .a 2).conn = false ∧ (s.emb .a 2).powered = true ∧ HubTakes s .a 2) := by
  unfold HubTakes
  and_intros <;> decide +kernel


def linkOn : LinkState := { Reset.link with idle := false, up := true, lock := 0xF, credits := 8 }

/-- Position 0 of a ring of three, its members admitted and both links up. -/
def master : State :=
  { live with stk := { live.stk with
      role := 1, state := 2, pos := some 0, count := 3, size := 3, up := linkOn, dn := linkOn, members := [(0, 0), (1, 11), (2, 22)] } }

/-- An admitted member at position 1. -/
def member : State :=
  { live with stk := { live.stk with role := 0, state := 2, pos := some 1, count := 3, size := 3, up := linkOn, dn := linkOn } }

/-- A header in order on link UP, to position `dest`. -/
def hdr (dest hops : Nat) (resp : Bool) : FrameHdr := ⟨.up, false, resp, false, false, dest, 2, 0, 0, false, hops, 0, 9⟩

def outFrame (ty : Nat) : OutFrame := ⟨ty, false, false, false, 2, 0, 1, 9, []⟩

def request (why : ReqWhy) (second : Option OutFrame) : RingReq := ⟨9, 2, outFrame 0x20, second, false, why⟩

def withRequest (s : State) (why : ReqWhy) : State :=
  s.modStk fun k => { k with requests := [request why (some (outFrame 0x33))] }

def withLink (s : State) (f : LinkState → LinkState) : State := modLink s .up f

/-- Links idle, down and up; a lane lost with a request on the path and without; replays below and at RETRY; credits; frames in
order, out of order, for this and another position with hops left and used up. -/
theorem wit_LinksTrainReplayAndRoute :
    ((base.stk.link .up).idle = true ∧ (master.stk.link .up).up = true ∧ master.stk.dup = false) ∧
    (let s := withLink master fun k => { k with up := false }
     (s.stk.link .up).idle = false ∧ (s.stk.link .up).up = false ∧ 0 < s.creditsOf) ∧
    (master.stk.requests = [] ∧ (master.stk.link (Link.other .up)).up = true ∧ 2 < (master.stk.link (Link.other .up)).credits) ∧
    (let s := withRequest master .other
     s.stk.requests = [request .other (some (outFrame 0x33))] ∧ routeTo s 2 = some .up ∧ s.pathOn (Link.other .up) 2 = true) ∧
    (let s := fun (n : Nat) => withLink master fun k => { k with unacked := [(0, outFrame 0x20)], replayRun := n }
     ((s 2).stk.link .up).unacked ≠ [] ∧ ((s 2).stk.link .up).replayRun < (s 2).retryOf ∧ (s 3).retryOf ≤ ((s 3).stk.link .up).replayRun) ∧
    (let s := withLink master fun k => { k with waiting := [outFrame 0x20], credits := 0 }
     (s.stk.link .up).waiting = [outFrame 0x20] ∧ 0 < s.creditsOf ∧ 0 < (s.stk.link .up).credits + 1) ∧
    ((withLink master fun k => { k with nakSent := true }).stk.link .up).nakSent = true ∧
    (1 ≠ ((master.stk.link .up).rxSeq + 1) % 4096 ∧ 0 = ((master.stk.link .up).rxSeq + 1) % 4096) ∧
    (InOrder master (hdr 2 1 false) ∧ InOrder master (hdr 2 2 false) ∧ (hdr 2 1 false).bcast = false ∧ master.stk.pos ≠ some (hdr 2 1 false).dest) ∧
    master.saf.recPending = none ∧ frameOf? (.leave (hdr 2 1 false) 2) = some (hdr 2 1 false, true) := by
  unfold InOrder
  and_intros <;> decide +kernel

/-- The master with its window open and closed, an ENUM of its own and of another; a member, admitted and not; CONFIRM, KEYX, TIME
and HELLO for it; absence; the conditions of a Lone member; a request to send again and one with no path; STK_CTRL.ENUM. -/
theorem wit_EnumerationAbsenceAndStackTime :
    (InOrder master (hdr 0 1 false) ∧ master.isMaster = true ∧ master.ownEntry.serial = master.ownSerial ∧ master.stk.window = false ∧
      ({ master.ownEntry with serial := 1 } : EnumEntry).serial ≠ master.ownSerial) ∧
    (let s := master.modStk fun k => { k with window := true }
     InOrder s (hdr 0 1 true) ∧ s.stk.window = true ∧ (hdr 0 1 true).resp = true ∧ (hdr 0 1 true).link = .up ∧ s.isChain = false ∧
     (s.stk.dn.up = true ∧ 0 < s.stk.dn.credits)) ∧
    (InOrder member (hdr 1 1 false) ∧ member.isMaster = false ∧ member.stk.state = 2 ∧
      (member.stk.link (Link.other .up)).up = true ∧ 0 < (member.stk.link (Link.other .up)).credits) ∧
    (Delivered master (hdr 0 1 false) ∧ Delivered member (hdr 1 1 false) ∧ member.stk.pos = some 1) ∧
    ([0xFF, 0, 3].getD 1 0xFF = 0 ∧ [0xFF, 0, 3].getD 0 0 = 0xFF ∧ [0xFF, 3].getD 1 0xFF ≠ 0) ∧
    (let s := member.modStk fun k => { k with pairs := [(2, [], [])] }
     Delivered s (hdr 1 1 false) ∧ s.stk.pairs.any (·.1 == (hdr 1 1 false).src) = true ∧ member.stk.pairs.any (·.1 == (hdr 1 1 false).src) = false) ∧
    ({ hdr 1 1 false with src := 0 } : FrameHdr).src = 0 ∧ master.stk.state = 2 ∧
    (MayBeAbsent master 2 ∧ ¬MayBeAbsent master 0 ∧ ¬MayBeAbsent master 3) ∧
    (let s := master.modStk fun k => { k with absent := [2] }
     InOrder s (hdr 0 1 false) ∧ ¬MayBeAbsent s 2 ∧ 2 ∈ s.stk.absent ∧ s.stk.members.find? (·.1 == 2) = some (2, 22) ∧ 22 % 2 ^ 64 = 22 ∧
     ∀ f ∈ wideCfgs s, f.devices.contains 2 = false) ∧
    (let s := member.modStk fun k => { k with masterGone := true }
     s.isMaster = false ∧ s.stk.role = 0 ∧ s.stk.state = 2 ∧ s.stk.masterGone = true) ∧
    (let s := member.modStk fun k => { k with state := 1, pos := none }
     s.stk.state = 1 ∧ s.stk.pos = none) ∧
    (let s := withRequest master (.reg 0x80)
     s.request? 9 = some (request (.reg 0x80) (some (outFrame 0x33))) ∧ routeTo s 2 = some .up ∧ 1 < (s.stk.link .up).credits ∧ s.request? 8 = none) ∧
    (let s := (withRequest master (.reg 0x80)).modStk fun k => { k with up := Reset.link, dn := Reset.link }
     s.request? 9 = some (request (.reg 0x80) (some (outFrame 0x33))) ∧ routeTo s 2 = none ∧ isHostId 0x80 = true) ∧
    (let s := held master 0 0x80
     WritePasses s 0x80 csStkCtrl true ∧ s.holdsSem 0x80 0 = true ∧ ((s.wideFields.flatMap s.plotsOf).any fun n => (s.plot n).mode.up) = true ∧
     1 < s.expectOf ∧ ((inMode s 2 .closed).wideFields.flatMap s.plotsOf).any (fun n => ((inMode s 2 .closed).plot n).mode.up) = false) ∧
    (bare.mpuRefuses 0x80 false csStkCtrl .write = none ∧ bare.csOpen 0x80 = true ∧ bare.hasLayout = false ∧ writableBare csStkCtrl = false) ∧
    (base.member.hasStack = true ∧ baseZ1.member.hasStack = false ∧ baseZ1.csOpen 0x80 = true ∧ baseZ1.writeLocked 0x80 = false ∧
      baseZ1.mpuRefuses 0x80 false csStkCtrl .write = none ∧ baseZ1.saf.recPending = none) ∧
    (let s := withRequest (withTask master { readTask with key := ringKey }) (.read ringKey 9)
     s.request? 9 = some (request (.read ringKey 9) (some (outFrame 0x33))) ∧ (s.task? ringKey).isSome = true) := by
  unfold InOrder Delivered MayBeAbsent InOrder WritePasses
  and_intros <;> decide +kernel

/-- SAFE at a member; a REG frame from position 0, a copy of it, a bad, an empty and single ones; STK_ROP by a host and by
JTAG, pending, at a member, to its own position, with no path; the answers; an IO_REQ known, of a wide Plot Open and Closed;
KEY with and without a transport key. -/
theorem wit_RemoteAccessAndForwardedCommands :
    let h0 : FrameHdr := { hdr 1 1 false with src := 0 }
    (Delivered member h0 ∧ member.stk.state = 2 ∧ member.stackScope = false ∧ h0.src = 0 ∧ member.isMaster = false) ∧
    (member.stk.regSeen.any (·.1 == h0.tag) = false ∧ (member.modStk fun k => { k with regSeen := [(9, [])] }).stk.regSeen.any (·.1 == h0.tag) = true ∧
      ([⟨2, 0, 0⟩] : List RegEntry).all regEntryOk = false ∧ regEntryOk ⟨0x218, 1, 5⟩ = true ∧ regEntryOk ⟨0x218, 0, 0⟩ = true) ∧
    (baseZ1.member.hasStack = false ∧ baseZ1.csOpen 0x80 = true ∧ baseZ1.mpuRefuses 0x80 false csStkRop .write = none ∧
      baseZ1.writeLocked 0x80 = false ∧ baseZ1.saf.recPending = none) ∧
    (master.member.hasStack = true ∧ WritePasses master 0x80 csStkRop false ∧ isHostId 0x80 = true ∧ WritePasses master 0x8A csStkRop false ∧ isHostId 0x8A = false ∧
      (master.remoteBank 0x80).pending = false ∧ (master.remoteBank 0x80).pos = master.ringPos) ∧
    (let s := modRemote master 0x80 fun b => { b with pos := 2 }
     (s.remoteBank 0x80).pos ≠ s.ringPos ∧ s.stk.members.any (·.1 == (s.remoteBank 0x80).pos) = true ∧ routeTo s (s.remoteBank 0x80).pos = some .up ∧
     routeTo (s.modStk fun k => { k with up := Reset.link, dn := Reset.link }) 2 = none) ∧
    ((modRemote master 0x80 fun b => { b with pending := true }).remoteBank 0x80).pending = true ∧
    (let s := withRequest master (.reg 0x80)
     Delivered s (hdr 0 1 true) ∧ (s.request? (hdr 0 1 true).tag).map (·.why) = some (.reg 0x80) ∧ master.request? 9 = none) ∧
    (Delivered master (hdr 0 1 false) ∧ master.stk.members.any (·.1 == (hdr 0 1 false).src) = true ∧
      (master.stk.ioSeen.any fun x => x.1 == 2 && x.2.1 == 9) = false ∧ master.widePlot 2 = true ∧ (master.plot 2).mode.up = true ∧
      master.widePlot 0 = false ∧ ((inMode master 2 .closed).plot 2).mode.up = false ∧ isVault (.flush 0 0) = false ∧ plainCdb [0x00, 0, 0, 0, 0, 0] = true ∧ master.vaultDark = false) ∧
    ((master.modStk fun k => { k with ioSeen := [(2, 9, [])] }).stk.ioSeen.any fun x => x.1 == 2 && x.2.1 == 9) = true ∧
    (let key : TaskKey := ⟨.port .a, 66, 4⟩
     let s := withRequest (withTask member { writeTask with key := key, order := none }) (.task key)
     Delivered s (hdr 1 1 true) ∧ (s.request? 9).map (·.why) = some (.task key) ∧ (s.task? key).isSome = true) ∧
    (let s := withRequest member (.vault .a 6 0x11)
     Delivered s (hdr 1 1 true) ∧ (s.request? 9).map (·.why) = some (.vault .a 6 0x11)) ∧
    ((hdr 1 1 true).resp = true ∧ (hdr 1 1 false).resp = false ∧ member.stk.transport.any (·.1 == 0) = false ∧
      (member.modStk fun k => { k with transport := [(0, [1])] }).stk.transport.find? (·.1 == 0) = some (0, [1])) := by
  unfold Delivered InOrder WritePasses
  and_intros <;> decide +kernel

def env : Envelope := ⟨2, 5, 7, 0, 0⟩
def blkHead (bank slot : Nat) : BlkHead := ⟨7, 5, false, false, 2, bank, slot, env⟩

/-- A head waiting and none; the same key with the same and with other data; a full table; a block above RETIRE and at it; bank 15
and 16, slot 62 and 63; data-in at master and member; BLK_ACK of a host write; requests to send again; PAGE_REL new and a copy;
PAGE_DONE of a page that is asked for; a read of a staged block; SCAN. -/
theorem wit_RingBlocksAndPages :
    let head := fun (s : State) (b : BlkHead) => s.modStk fun k => { k with heads := [(2, 9, b)] }
    (Delivered member (hdr 1 1 false) ∧ member.stk.heads.any (fun x => x.1 == 2 && x.2.1 == 9) = false) ∧
    (let s := head member (blkHead 15 62)
     Delivered s (hdr 1 1 false) ∧ s.stk.heads.find? (fun x => x.1 == 2 && x.2.1 == 9) = some (2, 9, blkHead 15 62) ∧
     (s.stk.keys.find? fun k => k.order == 7 && k.plot == 2 && k.lba == 5) = none ∧ s.stk.keys.length < 65536 ∧ s.stk.retire < 7 ∧
     15 < s.banks.length ∧ s.banks.length ≤ 16 ∧ 62 < 63 ∧ s.isMaster = false ∧ s.stk.state = 2 ∧
     (writeStage s idStack (15, 62) (List.replicate 4096 0 ++ envBytes env)).2 = false ∧
     (let k := s.modBank 15 fun k => { k with owner := idStack }
      (writeStage k idStack (15, 62) (List.replicate 4096 0 ++ envBytes env)).2 = true)) ∧
    (let s := (head member (blkHead 15 62)).modStk fun k => { k with keys := [BlkKey.of (blkHead 15 62) [1]], retire := 7 }
     (s.stk.keys.find? fun k => k.order == 7 && k.plot == 2 && k.lba == 5) = some (BlkKey.of (blkHead 15 62) [1]) ∧ 7 ≤ s.stk.retire) ∧
    65536 ≤ (List.replicate 65536 (BlkKey.of (blkHead 0 0) [])).length ∧
    (let s := head master (blkHead 0 0)
     Delivered s (hdr 0 1 false) ∧ Delivered s (hdr 0 1 true) ∧ s.request? 9 = none ∧ s.fn.tasks = []) ∧
    (let key : BlkKey := ⟨5, 2, 11, env, 0⟩
     let t := { writeTask with key := ⟨.port .a, 66, 7⟩ }
     let s := withRequest (withTask member t) (.block key none)
     Delivered s (hdr 1 1 true) ∧ (s.request? 9).map (·.why) = some (.block key none) ∧ s.blockTask key = some t ∧ 1 < t.count ∧
     (s.request? 9).bind (·.second) = some (outFrame 0x33) ∧ routeTo s 2 = some .dn ∧ 1 < (s.stk.link .dn).credits ∧ t.tr.isSome = true) ∧
    (member.stk.pageSeen.any (·.1 == 96) = false ∧ (member.modStk fun k => { k with pageSeen := [(96, 9, none)] }).stk.pageSeen.any (·.1 == 96) = true) ∧
    (let s := withRequest master (.page (2 * 2 ^ 34))
     Delivered s (hdr 0 1 false) ∧ s.fieldOfAddr (2 * 2 ^ 34) = some 1 ∧ (∃ q ∈ s.stk.requests, q.why = .page (2 * 2 ^ 34)) ∧ s.fieldOfAddr 0 = none) ∧
    (let w : WideBlk := ⟨BlkKey.of (blkHead 0 0) [], 0, 0, [], some 96, true⟩
     let s := member.modStk fun k => { k with wide := [w] }
     Delivered s (hdr 1 1 false) ∧ s.stk.wide.find? (fun w => w.addr == some 96) = some w ∧ routeTo s 2 = some .dn ∧ 1 < (s.stk.link .dn).credits) ∧
    (let s := withRequest (head (withTask master readTask) (blkHead 0 0)) (.read keyA 9)
     Delivered s (hdr 0 1 true) ∧ (s.request? 9).map (·.why) = some (.read keyA 9) ∧ s.task? keyA = some readTask ∧ (blkHead 0 0).medium = false ∧
     noneAvailable s = false) ∧
    (let key : BlkKey := ⟨5, 2, 11, env, 0⟩
     let s := withRequest master (.block key (some 96))
     Delivered s (hdr 0 1 true) ∧ (s.request? 9).map (·.why) = some (.block key (some 96)) ∧ s.isMaster = true) ∧
    (let t := { writeTask with key := ⟨.ring 2, 2, 9⟩, order := some 7 }
     let s := head (withTask master t) (blkHead 0 0)
     s.fn.tasks.find? (fun t => t.key.origin == .ring 2 && t.key.plot == 2 && t.order == some 7 && t.kind == .write) = some t ∧ t.aborted = false ∧
     stagingFree s ((s.fieldOf 2).getD 0) (versionOfJob t ⟨t.key, 5 - t.lba, .encrypt, .hostWrite, 5, [], env⟩ env.stamp) = true) ∧
    ((member.stk.tags.filter fun x => decide (3 ≤ x.2.fixcount)).length ≤ 102 ∧ 0 < (member.stk.link .dn).credits) := by
  unfold Delivered InOrder
  and_intros <;> first | rw [List.length_replicate] | decide +kernel

/-- A queue of one command and an empty one. -/
theorem wit_StepRunsTheFrontCommand :
    ({ base with pending := [.powerOn] } : State).pending = [.powerOn] ∧ base.pending = [] ∧
    (live.port .a).eps.any (fun e => !(live.port .a).heldOut (live.pfn .a) e && !live.botHeld .a e.k) = true ∧
    live.fn.tasks = [] ∧ live.stk.reads = [] ∧ (∀ f ∈ live.fieldList, (live.field f).rebuilds = []) ∧
    ({ live with arb := { live.arb with lockstep := true } } : State).arb.lockstep = true := by
  decide +kernel

/-- A state that meets Inv with a byte in each memory and a semaphore held. -/
theorem wit_StepKeepsTheInvariant :
    Machine.Inv { held base 127 0x82 with bankMem := [⟨5, 1⟩], grn := { base.grn with mem := [⟨3, 0⟩, ⟨4, 0⟩] } } := by
  unfold Machine.Inv; decide +kernel


/-! ### Commands that `Instr.wf` refuses: one past each bound of the Z8 -/

def goodHdr : FrameHdr := ⟨.up, false, false, false, false, 127, 127, 4095, 4095, false, 255, 64, 2 ^ 32 - 1⟩
def flags : CdbFlags := ⟨false, 0, 0, false⟩
def env0 : Envelope := ⟨0, 0, 0, 0, 0⟩

/-- Tasks: Plots 16 and 128, a stack position past the Z8's largest stack, port B of a Z1. -/
theorem test_wf_keys :
    wfKey .z8 ⟨.port .b, 15, 0⟩ = true ∧ wfKey .z8 ⟨.port .b, 16, 0⟩ = false ∧ wfKey .z8 ⟨.port .b, 127, 0⟩ = true ∧
    wfKey .z8 ⟨.port .b, 128, 0⟩ = false ∧ wfKey .z8 ⟨.ring 15, 0, 0⟩ = true ∧ wfKey .z8 ⟨.ring 16, 0, 0⟩ = false ∧
    wfKey .z1 ⟨.port .b, 0, 0⟩ = false := by decide

/-- Each field of a frame header (Table STK-2). -/
theorem test_wf_headers :
    wfHdr goodHdr = true ∧
    ∀ h ∈ [{ goodHdr with dest := 128 }, { goodHdr with src := 128 }, { goodHdr with lseq := 4096 }, { goodHdr with lack := 4096 },
      { goodHdr with hops := 256 }, { goodHdr with credit := 65 }, { goodHdr with tag := 2 ^ 32 }], wfHdr h = false := by decide

/-- Arbiter, engines, recipe words and monitors. -/
theorem test_wf_refuses_core :
    ∀ i ∈ ([.arbiterGrant [⟨22, .control, false, false⟩] ⟨⟨true, true⟩, []⟩, .watchdogExpiry 64 0, .watchdogExpiry 0 64,
      .blockReceived ⟨.port .a, 16, 0⟩ 0 .encrypt (List.replicate 4096 0) env0, .blockReceived ⟨.port .a, 0, 0⟩ 0 .encrypt [] env0,
      .echoCheckDone 3 true, .decryptDone 3 true .secondPasses true, .enter 8 0 0 0, .enter 0 16 0 0, .enter 0 0 32 0, .enter 0 0 0 4096,
      .cmd 8 0 0 false 0 false, .cmd 0 0 0 false 32 false, .cmdl 8 0 0 0 0 false false false 0 false,
      .cmdl 0 0 0 0 4 false false false 0 false, .cmdl 0 0 0 0 0 false false false 32 false, .addr 8 0 .col false, .dout 0 16 .page false,
      .din 8 0 (.status 0) false false, .wait 8 0 0 false, .wait 0 0 32 false, .waitElapsed 0 16 0, .poll 8 0 0 0 false false,
      .poll 0 0 0 32 false false, .statusPoll 8 0 0, .test 8 0 0 false 0 false, .test 0 0 0 false 4096 false, .loop 8 0 .npl, .next 0 16,
      .jump 8 0 0, .jump 0 0 4096, .mode 8 0 .sdr 0 false, .mode 0 0 .sdr 16 false, .setv 8 0 0 false 0 false, .setv 0 0 4 false 0 false,
      .fail 8 0, .end_ 0 16, .recipeTimeout 8 0, .fixPointRecorded 4, .fieldReplayDone 4 ⟨true, [], [], 0, 0⟩, .tempSample [],
      .cipherQueueDrained 3] : List Instr), i.wf .z8 = false := by decide +kernel

/-- Semaphores, Plots, banks, regions, ports, SCSI and credential commands, and frames. -/
theorem test_wf_refuses_hosts :
    ∀ i ∈ ([.semTake 0x80 128, .semRelease 0x80 128, .semForce 0x80 128, .bulkRekey 0x80 16, .plotErase 0x80 16 0, .bnkHandover 0x80 16 0x80 false,
      .bnkSeize 0x80 16, .scrubDone 16, .eccWriteback 16 0, .eccWriteback 0 32768, .apertureAccess 0x80 4096 false 0 true,
      .apertureAccess 0x80 2 false 0 true, .mpuRegionWrite 0x80 256 0 0, .mpuRegionWrite 0x80 0 3 0, .bulkOutPacket .a 16 0, .bulkOutPacket .a 0 256,
      .ping .a 16 0, .clearEndpointHalt .a 16 0, .ssBulkTransaction .a 16 0 false, .sofReceived .a (2 ^ 14),
      .write10 ⟨.port .a, 16, 0⟩ .plain 0 0 flags, .write16 ⟨.port .a, 16, 0⟩ .plain 0 0 flags, .read10 ⟨.port .a, 16, 0⟩ .plain 0 0 flags,
      .read16 ⟨.port .a, 16, 0⟩ .plain 0 0 flags, .put ⟨.port .a, 16, 0⟩ 0 [] [] false, .put ⟨.port .a, 0, 0⟩ 0 (List.replicate 65 0) [] false,
      .put ⟨.port .a, 0, 0⟩ 0 [] (List.replicate 4097 0) false, .ack { goodHdr with tag := 2 ^ 32 }, .nak { goodHdr with dest := 128 },
      .blkHead { goodHdr with src := 128 } ⟨0, 0, false, false, 0, 0, 0, env0⟩, .blkData { goodHdr with src := 128 } (List.replicate 4096 0),
      .blkData goodHdr [], .brec { goodHdr with src := 128 } [],
      .brec goodHdr (List.replicate 147 (0, ⟨0, 0, false, false, false, false, false, 0, 0, 0, 0, none, 0⟩)),
      .regFrame { goodHdr with src := 128 } [], .regFrame goodHdr (List.replicate 513 ⟨0, 0, 0⟩)] : List Instr), i.wf .z8 = false := by decide +kernel

/-- Port B does not exist on a Z1. -/
theorem test_wf_refuses_port_b :
    ∀ i ∈ ([.bulkOutPacket .b 0 0, .ping .b 0 0, .clearEndpointHalt .b 0 0, .ssBulkTransaction .b 0 0 true, .sofReceived .b 0] : List Instr),
      i.wf .z1 = false := by decide

/-- The table gives no row any bits, so no word spells a command and nothing is put in front of a queue. -/
theorem test_no_word_spells_a_command : decodeTableWord 32 0x0801FFE0 = none ∧ base.withFetchWord 32 0 = base := by
  constructor <;> rfl


/-! ### Steps and values with results taken from the spec

Each result below is one that a worked example or a table of the spec prints; the comment names it. -/

/-- The state `exec` answers. -/
def after (i : Instr) (s : State) : State := match exec i s with | .next t => t | .fault _ => s | .refused _ => s

/-- The word a read of a register gives. -/
def rd (s : State) (id : Identity) (a : Nat) : Word := (readReg s id a 0).2

/-- The Z96 after its start, with a layout that places nothing it names here. -/
def large : State :=
  let r := Reset.state .z96 .b0
  { r with
    lay := { r.lay with active := some { layout with member := 96, channels := List.replicate 96 chanCfg, chnMult := List.replicate 96 32 }, op := 0, starting := false }
    pwr := { r.pwr with step := 15, refPresent := true }
    saf := { r.saf with starting := false } }

/-- The identification words of the Z96 at stepping B0 (Table GLB-2, Table ELE-25). -/
theorem test_identification : glbId .z96 .b0 = 0x5A4B6010 ∧ rd large idPortA 0 = 0x5A4B6010 := by decide +kernel

theorem test_jtag_idcode : (after .jtagIdcode large).jtag.drValue = (idCode .b0).toNat := by decide +kernel

/-- Worked example of chapter 00: bit fields and bytes of 0x0000_0A35. -/
theorem test_little_endian : leBytes 4 0x00000A35 = [0x35, 0x0A, 0x00, 0x00] ∧ (0x00000A35 >>> 8) % 16 = 0xA := by decide +kernel

/-- Chapter 02, "a contended pool": one shared ticket is left and the pointer stands at input 1. -/
def contended : State :=
  { large with arb := { large.arb with pointer := 1, ordNext := 0x02003A7D, tickets := [], reserved := [0, 0, 0, 32767, 0, 0, 0, 0] } }

def reqA : ArbReq := ⟨0, .numbered 0, false, false⟩
def reqB : ArbReq := ⟨1, .numbered 1, false, false⟩
def reqGlean : ArbReq := ⟨5, .ticket 3, false, false⟩

def tick1 : State := after (.arbiterGrant [reqA, reqB, reqGlean] ⟨⟨true, true⟩, []⟩) contended
def tick2 : State := after (.arbiterGrant [reqA, reqGlean] ⟨⟨true, true⟩, []⟩) tick1
def tick3 : State := after (.arbiterGrant [reqA] ⟨⟨true, true⟩, []⟩) tick2

/-- Steps 2 to 4 of that example: port B gets the number and the last shared ticket, input 5 draws on its reservation, and
port A ends with TASK SET FULL. -/
theorem test_contended_pool :
    (tick1.arb.lastGrant.map fun g => (g.input, g.order)) = some (1, some 0x02003A7D) ∧ tick1.arb.pointer = 2 ∧ tick1.sharedFree = 0 ∧
    (tick2.arb.lastGrant.map fun g => (g.input, g.order)) = some (5, none) ∧ tick2.arb.pointer = 6 ∧ (tick2.arb.tickets.map (·.shared)).count false = 1 ∧
    (tick3.arb.lastGrant.map fun g => (g.input, g.order, g.ticket)) = some (0, none, none) ∧ tick3.arb.tsfA = 1 ∧ tick3.arb.ordNext = 0x02003A7E := by
  decide +kernel

/-- Chapter 03, "a channel engine fails its strip": the 32 bytes of the record with SEQ 0x142. -/
theorem test_fault_record :
    (⟨0x142, 0x0060, 2, false, false, false, 1, 0x0B2D05C8, 0x25, 0x87, 37, 0x00110003, 0x00002500, 0x9A2F⟩ : LogRec).bytes =
      [0x42, 0x01, 0x00, 0x00, 0x60, 0x00, 0x02, 0x01, 0xC8, 0x05, 0x2D, 0x0B, 0x00, 0x00, 0x00, 0x00,
       0x25, 0x87, 0x25, 0x00, 0x03, 0x00, 0x11, 0x00, 0x00, 0x25, 0x00, 0x00, 0x2F, 0x9A, 0xF8, 0x36] := by
  decide +kernel

/-- Chapter 09, "two hosts, one lock": port A's take is granted, port B's refused, port B's write ignored under the lock. -/
def locked2 : State :=
  let s := { live with portB := live.portA }
  after (.registerWrite idPortB 0x000218 0x55) (after (.semTake idPortB 0) (after (.semTake idPortA 0) s))

theorem test_two_hosts :
    rd locked2 idPortA 0x010000 = 0x380 ∧ rd locked2 idPortB 0x010000 = 0x180 ∧ rd locked2 idPortB 0x000218 = rd live idPortB 0x000218 ∧
    rd locked2 idPortB 0x010210 = 0x01000100 ∧ rd (after (.registerWrite idPortA 0x000218 0x55) locked2) idPortB 0x000218 = 0x55 := by
  decide +kernel

/-- Chapter 09, steps 8 to 10: the detach of port A, holding semaphore 0 and that of Plot 0, releases both. -/
theorem test_semaphores_lost :
    (let s := after (.vbusLoss .a) (after (.semTake idPortA 64) (after (.semTake idPortA 0) live))
     rd s idPortB 0x010214 = 0x01010280 ∧ rd s idPortB 0x010200 = 0) := by
  decide +kernel

/-- Chapter 16, "a host counter in a shared bank": ADD32 of 0x10 to 0xFFFF_FFF8 gives 0x0000_0008 with CARRY and DONE. -/
def counter : State :=
  let r180 : MpuCfg := ⟨900, 10, true, true, 0x2D00000, 0x000C, 0x0004⟩
  let s := { large with
    mpu := { large.mpu with regions := [r180] }
    banks := large.banks.mapIdx fun i k => if i = 180 then { k with owner := idPortA, role := 4, field := 0xFF } else k
    bankMem := putCells 0 0x2D12340 [0xF8, 0xFF, 0xFF, 0xFF] [] }
  after (.registerWrite idPortA 0x04C008 0x10) (after (.registerWrite idPortA 0x04C004 0x02D12340) s)

def counted : State := after (.add32 idPortA) counter

theorem test_shared_counter : rd counted idPortA 0x04C014 = 0xFFFFFFF8 ∧ rd counted idPortA 0x04C01C = 3 ∧ bankNat counted 0x2D12340 8 = 8 := by
  decide +kernel

/-- The same example: after the hand-over port B reads the counter, and its write is DENIED and recorded. -/
def handed : State :=
  let s := after (.bnkHandover idPortA 180 idPortB false) counted
  let s := { s with timeUs := 0x1A2B3C40, mpu := { s.mpu with head := 6 } }
  after (.registerWrite idPortB 0x04C000 0x02D12000) s

theorem test_bank_handed_over :
    (handed.bank 180).owner = idPortB ∧
    ((after (.apertureAccess idPortB 0x340 false 0 true) handed).replies.head?.map fun r => (r.value, r.st)) = some (8, 0) ∧
    ((after (.apertureAccess idPortB 0x344 true 1 true) handed).replies.head?.map (·.st)) = some 2 ∧
    ((after (.apertureAccess idPortB 0x344 true 1 true) handed).mpu.records.head?.map VioRec.bytes) =
      some [0x44, 0x23, 0xD1, 0x06, 0x01, 0x81, 0x84, 0x03, 0x40, 0x3C, 0x2B, 0x1A, 0x04, 0x00, 0x07, 0x00] ∧
    rd (after (.apertureAccess idPortB 0x344 true 1 true) handed) idPortB 0x038400 = 0x00010007 := by
  decide +kernel

/-- Chapter 08, "a register capsule that meets the MPU": entry 3 DENIED, entry 4 NOT_DONE, PARTIAL with DETAIL 2. -/
def guarded : State :=
  { live with mpu := { live.mpu with regions := [⟨5, 4, true, false, 0x080000, 0x0004, 0⟩] } }

def capsuled : State :=
  after (.regEntry .a) <| after (.regEntry .a) <| after (.regEntry .a) <|
    after (.reg .a 7 [⟨0x000000, 0, 0⟩, ⟨0x004014, 0, 0⟩, ⟨0x080100, 1, 0xF⟩, ⟨0x000020, 0, 0⟩]) guarded

theorem test_register_capsule :
    (((capsuled.pfn .a).cap .management).resp.map fun r => (r.status, r.detail, slice r.bytes 5 11, slice r.bytes 16 12)) =
      some (7, 2, [0x02, 0x00, 0x80, 0x20, 0, 0, 0, 0x07, 0, 0, 0], [0, 0, 0, 0, 0, 0, 0, 0, 0x07, 0, 0x02, 0]) ∧
    (((capsuled.pfn .a).cap .management).resp.map fun r => slice r.payload 16 16) =
      some [0x00, 0x01, 0x08, 0x21, 0x0F, 0, 0, 0, 0x20, 0, 0, 0x30, 0, 0, 0, 0] := by
  decide +kernel

/-- Chapter 08, "an empty credential": the payload of PUT and its LENGTH of 13. -/
theorem test_put_payload :
    putPayload 0 [0x77, 0x69, 0x66, 0x69, 0x2F, 0x68, 0x6F, 0x6D, 0x65] [] =
      [0x09, 0, 0, 0, 0x77, 0x69, 0x66, 0x69, 0x2F, 0x68, 0x6F, 0x6D, 0x65] := by decide +kernel

/-- Chapter 10: the retry count and the retry limit in `PLT_STAT`. -/
theorem test_plot_status :
    (let s := large.modPlot 12 fun p => { p with mode := .closed, record := { p.record with keyed := true, retry := 1 } }
     (rd { s with lay := { s.lay with active := s.lay.active.map fun l => { l with plots := [plotCfg 12 0 true] } } } idPortA 0x014C00) &&& 0xFF0F = 0x0101) := by
  decide +kernel

/-- Chapter 10: the label and Plot number of the derivation input. -/
theorem test_derivation_label : labelVrf = [0x5A, 0x4B, 0x2D, 0x56, 0x52, 0x46] ∧ beBytes 2 12 = [0x00, 0x0C] := by decide +kernel

/-- Chapter 11, "sizing a Field": the Field of the example. -/
def field4 : FieldCfg :=
  { fieldCfg 4 [32, 33, 34, 35, 36, 37, 38, 39] false with
    grain := 1, stripeW := 8, wear := 1, streams := 4, discard := 1, seedbedMax := 32, seedbedFactor := 160
    headlandMin := 24, openBudget := 256, gleanLow := 12, gleanHigh := 20, weights := [8, 2, 4, 2], doseRefresh := 2000 }

def chan4 : ChanCfg := { chanCfg with ceMask := 3, luns := 2, planes := 2, pageKib := 16, ppb := 1152, bpp := 1024, ldpc := 1, spare := 2048 }

def geo4 : Geo := geoOf { layout with channels := List.replicate 96 chan4, fields := [field4] } field4

theorem test_field_geometry :
    geo4.chans.length = 8 ∧ geo4.pc = 4 ∧ geo4.d = 32 ∧ geo4.bd = 2048 ∧ geo4.u = 4 ∧ geo4.g = 4 ∧ geo4.n = 4608 ∧ geo4.m = 16 ∧
    geo4.pmax = 8 ∧ geo4.a = 1968 ∧ geo4.kmax = 32 ∧ geo4.capacity = 238049280 := by
  decide +kernel

/-- The same example: the address of channel 35, die 2, block 1,031, page 517, slot 0, and its row and column (chapter 14). -/
theorem test_unit_address :
    unitAddr geo4 ⟨35, 2, 1031⟩ 517 0 = 0x008C80488614 ∧ leBytes 6 (unitAddr geo4 ⟨35, 2, 1031⟩ 517 0) = [0x14, 0x86, 0x48, 0x80, 0x8C, 0x00] ∧
    addrPlace geo4 0x008C80488614 = (⟨35, 2, 1031⟩, 517, 0) ∧ rowAddr chan4 0 1031 517 = 0x203A05 ∧ rowCycles chan4 = 3 ∧ unitColumn chan4 2 = 0x2380 := by
  decide +kernel

/-- The same example: F = 9,446 gives 23 Seedbed blocks (R385). -/
theorem test_seedbed_size : min field4.seedbedMax (9446 * field4.seedbedFactor / (geo4.d * geo4.a)) = 23 := by decide +kernel

/-- Chapter 12: the charge at 55 °C and at 40 °C, and DOSE in hours. -/
theorem test_dose : doseCharge 55 = 45 ∧ doseCharge 40 = 16 ∧ doseHours { freshRec with dose := 27216000 } = 472 ∧
    doseHours { freshRec with dose := 54864000 } = 952 := by decide +kernel

/-- Chapter 14: the timing entries of the example. -/
theorem test_timing_entries :
    timingNs 0x800A = 100000 ∧ timingNs 0x8096 = 1500000 ∧ timingNs 0xC00A = 10000000 ∧ timingNs 0x8004 = 40000 ∧ timingNs 0x400A = 1000 := by
  decide +kernel

/-- Chapter 14: the words of the example keep the rules of Table CHN-3, and one with a reserved bit set does not. -/
def exampleCode : List Word :=
  [0x0801FFE0, 0x10000000, 0x20000002, 0x10000730, 0x34000008, 0x08000221, 0x50000001, 0x50000002, 0x10000080, 0x20000002,
   0x28000000, 0x18AD001A, 0x58000000, 0x18A81011, 0x58000000, 0x40002478, 0x4C1FFE01, 0x00000000]

theorem test_example_recipe : exampleCode.all (wordOk 6 18) = true ∧ wordOk 6 18 0x00000001 = false := by decide +kernel

/-- Chapter 17: seen from the master of six devices, position 2 is two hops away downstream and four
upstream. -/
theorem test_ring_hops :
    (let s : State := { live with stk := { live.stk with size := 6, pos := some 0 } }
     s.hopsTo .dn 2 = 2 ∧ s.hopsTo .up 2 = 4) := by decide +kernel

/-- Chapter 05, "a one-channel wallet image": the frames of the example up to the CHANNEL frame, parsed. -/
def channelPayload : List Byte :=
  [0x08, 0, 0x64] ++ List.replicate 6 0 ++ leBytes 4 0x10020203 ++ [3, 0, 1] ++ leBytes 3 0x800800 ++ [4, 0, 4, 0, 0]

theorem test_channel_frame :
    rangeChannels .z1 channelPayload = [] ∧
    (let c := parseChan (slice channelPayload 8 16)
     c.ceMask = 3 ∧ c.luns = 2 ∧ c.planes = 2 ∧ c.pageKib = 16 ∧ c.bits = 3 ∧ c.ldpc = 1 ∧ c.spare = 2048 ∧ c.ppb = 1152 ∧ c.bpp = 1024) := by
  decide +kernel

def plotPayload : List Byte := [0x00, 0x01, 0x01, 0x02, 0x0A, 0, 0, 0, 0, 0, 1, 0, 0, 0, 0, 0]

theorem test_plot_frame :
    rangePlot plotPayload = [] ∧
    (let p := parsePlot ⟨6, 0, 0x1A4, plotPayload⟩
     p.credential = true ∧ p.retryLimit = 10 ∧ p.capacity = 65536) := by
  decide +kernel

/-- The same image: RETENTION at payload offset 18 of the FIELD frame, 0 instead of 3, fails its range. -/
def fieldPayload (retention : Byte) : List Byte :=
  [0x01, 0, 0, 0, 0, 0, 0, 0, 0, 0, 0, 0, 0x00, 0x04, 0x01, 0x00, 0x01, 0x01, retention, 0x00,
   0, 0, 0, 0, 0x10, 0, 0x20, 0, 0x40, 0, 0x0A, 0x14, 0x08, 0x02, 0x04, 0x02,
   0xA0, 0x86, 0x01, 0, 0xD0, 0x07, 0, 0] ++ List.replicate 16 0

theorem test_field_frame : rangeField .z1 (fieldPayload 3) = [] ∧ rangeField .z1 (fieldPayload 0) = [18] := by decide +kernel

/-- Chapter 15: the byte address and the physical sector of logical sector 1,300, code word 10. -/
theorem test_ring_sector :
    1300 * 4096 + 10 * 32 = 0x514140 ∧
    (let s := { large with grn := { large.grn with s := 2000, a := 700, retired := [500, 2100, 3000] } }
     rd s idPortA 0x020024 = 0x002BC7D0 ∧ s.grnSpares = 1013) := by
  decide +kernel

/-- Chapter 19: the same addresses on a Z96 and on a Z24. -/
theorem test_address_map :
    regKnown .z96 0x132010 = true ∧ regKnown .z24 0x132010 = false ∧ regKnown .z96 0x052404 = true ∧ regKnown .z24 0x052404 = false ∧
    regKnown .z96 0x089128 = true ∧ regKnown .z24 0x089128 = false ∧ regKnown .z24 0x042B08 = true ∧ regKnown .z24 0x068004 = true := by
  decide +kernel

/-- Chapter 19: a read of one the member lacks returns zero and writes an RSVD_ACCESS record with the address in DETAIL0. -/
theorem test_reserved_read :
    (let t := after (.rsvdAccess idPortA 0x132010 false) base
     (t.saf.log.head?.map fun r => (r.cause, r.detail0, r.requester)) = some (1, 0x132010, 0x80)) := by
  decide +kernel

/-- Chapter 18, "checking a cartridge board": channel 37 begins at BA13, row 39, and these are four balls of its group. -/
theorem test_channel_balls :
    chanBall 37 0 0 = (39, 13) ∧ gridBall 39 13 = .signal (.chan 37 (.dq 0)) ∧ gridBall 40 17 = .vccq ∧
    gridBall 41 16 = .signal (.chan 37 .reT) ∧ gridBall 42 18 = .signal (.chan 37 (.ceN 3)) := by decide +kernel

/-- Each channel's balls lie where R624 puts them (Tables ELE-4 to ELE-7). -/
theorem test_groups_tile_the_corners :
    ∀ c < 96, cornerBall (chanBall c 3 0).1 (chanBall c 3 0).2 = .signal (.chan c .weN) := by decide +kernel

/-- An idle block with an empty queue only lets one microsecond pass (log 1). -/
theorem test_idle : (match step large with
    | .next t => decide (t.timeUs = large.timeUs + 1 ∧ t.pending = [])
    | .fault _ => false
    | .refused _ => false) = true := by decide +kernel

end Sys2Proof.Tests
end

section
/-! Single accesses to the Control space: what the checks of R26, the record of a reserved access (R9) and a read with its
clearing fields (R10) and snapshots (R48) do to the state; O11 and O13. -/

namespace Sys2Proof.Machine

section Accesses

variable {s : State} {id : Identity}

/-! ### The grant of an access -/

/-- The grant of an access changes the arbiter alone. -/
theorem noteAccess_eq (s : State) (id : Identity) : noteAccess s id = { s with arb := (noteAccess s id).arb } := by
  unfold noteAccess
  split <;> rfl

/-- The grant of an access moves the pointer and notes the grant: the counts of the arbiter stay. -/
theorem noteAccess_tsf (s : State) (id : Identity) :
    (noteAccess s id).arb.tsfA = s.arb.tsfA ∧ (noteAccess s id).arb.tsfB = s.arb.tsfB := by
  unfold noteAccess
  split <;> exact ⟨rfl, rfl⟩

@[simp] theorem noteAccess_member (s : State) (id : Identity) : (noteAccess s id).member = s.member := by rw [noteAccess_eq]
@[simp] theorem noteAccess_free (s : State) (id : Identity) : (noteAccess s id).free = s.free := by rw [noteAccess_eq]
@[simp] theorem noteAccess_snaps (s : State) (id : Identity) : (noteAccess s id).snaps = s.snaps := by rw [noteAccess_eq]
@[simp] theorem noteAccess_replies (s : State) (id : Identity) : (noteAccess s id).replies = s.replies := by rw [noteAccess_eq]
@[simp] theorem noteAccess_saf (s : State) (id : Identity) : (noteAccess s id).saf = s.saf := by rw [noteAccess_eq]
@[simp] theorem noteAccess_sem (s : State) (id : Identity) : (noteAccess s id).sem = s.sem := by rw [noteAccess_eq]
@[simp] theorem noteAccess_mpu (s : State) (id : Identity) : (noteAccess s id).mpu = s.mpu := by rw [noteAccess_eq]
@[simp] theorem noteAccess_engines (s : State) (id : Identity) : (noteAccess s id).engines = s.engines := by rw [noteAccess_eq]
@[simp] theorem noteAccess_engine (s : State) (id : Identity) (e : Nat) : (noteAccess s id).engine e = s.engine e := by
  rw [noteAccess_eq]; rfl
@[simp] theorem noteAccess_csOpen (s : State) (id i : Identity) : (noteAccess s id).csOpen i = s.csOpen i := by
  rw [noteAccess_eq]; rfl
@[simp] theorem noteAccess_hasLayout (s : State) (id : Identity) : (noteAccess s id).hasLayout = s.hasLayout := by
  rw [noteAccess_eq]; rfl
@[simp] theorem noteAccess_lacksPlotSem (s : State) (id i : Identity) (a : Nat) :
    (noteAccess s id).lacksPlotSem i a = s.lacksPlotSem i a := by
  rw [noteAccess_eq]; rfl
@[simp] theorem noteAccess_writeLocked (s : State) (id i : Identity) : (noteAccess s id).writeLocked i = s.writeLocked i := by
  rw [noteAccess_eq]; rfl
@[simp] theorem noteAccess_mpuRefuses (s : State) (id i : Identity) (sp : Bool) (a : Nat) (k : AccessKind) :
    (noteAccess s id).mpuRefuses i sp a k = s.mpuRefuses i sp a k := by
  rw [noteAccess_eq]; rfl

/-! ### The MPU's answer (R569, R575) -/

theorem csCheck_allowed {a : Nat} {k : AccessKind} (ho : s.csOpen id = true) (hm : s.mpuRefuses id false a k = none) :
    csCheck s id a k = (noteAccess s id, false) := by
  simp [csCheck, ho, hm]

theorem csCheck_refused {a : Nat} {k : AccessKind} {r : MpuCfg} (ho : s.csOpen id = true)
    (hm : s.mpuRefuses id false a k = some r) :
    csCheck s id a k = (recordVio (noteAccess s id) id false a k false false r.index 4, true) := by
  simp [csCheck, ho, hm]

/-- A violation record changes the MPU's state alone, so it leaves the space open. -/
@[simp] theorem recordVio_csOpen (i : Identity) (sp : Bool) (a : Nat) (k : AccessKind) (o p : Bool) (r n : Nat) :
    (recordVio s id sp a k o p r n).csOpen i = s.csOpen i := rfl
@[simp] theorem recordVio_saf (sp : Bool) (a : Nat) (k : AccessKind) (o p : Bool) (r n : Nat) :
    (recordVio s id sp a k o p r n).saf = s.saf := rfl

theorem recordVio_unread (sp : Bool) (a : Nat) (k : AccessKind) (o p : Bool) (r n : Nat) (h : s.mpu.unread < 64) :
    (recordVio s id sp a k o p r n).mpu.unread = s.mpu.unread + 1 := by
  simp [recordVio, Nat.not_le.mpr h]

/-! ### The kept answer -/

theorem setReply_eq {v : Word} {st : Nat} (ho : s.csOpen id = true) :
    setReply s id v st = { s with replies := ⟨id, v, st⟩ :: s.replies.filter fun r => r.id != id } := by
  simp [setReply, ho]

theorem setReply_replyTo {v : Word} {st : Nat} (ho : s.csOpen id = true) :
    (setReply s id v st).replyTo id = some (v, st) := by
  simp [setReply_eq ho, State.replyTo]

/-! ### The record of an access to reserved space (R9, R116) -/

/-- The record that an access to reserved space writes, before its number and times are filled in. -/
def rsvdRecord (id : Identity) (a : Nat) (write : Bool) : LogRec :=
  ⟨0, 0x0001, 0, false, false, false, 0, 0, 0xFF, id.toNat, 0xFFFF, w32 a, if write then 1 else 0, 0⟩

theorem logRsvd_deferred {a : Nat} {write : Bool} (h : s.saf.recPending.isSome = true) :
    logRsvd s id a write = s.modSaf fun q => { q with deferred := q.deferred ++ [⟨rsvdRecord id a write, false, none⟩] } := by
  simp only [logRsvd, logFault, h, if_true]
  rfl

theorem logRsvd_written {a : Nat} {write : Bool} (h : s.saf.recPending = none) :
    logRsvd s id a write = s.modSaf fun q => { q with
      log := ({ rsvdRecord id a write with seq := q.logHead + 1, time := s.timeUs, frame := s.lastFrame } :: q.log).take 256
      logHead := q.logHead + 1 } := by
  simp only [logRsvd, logFault, h, Option.isSome_none, Bool.false_eq_true, if_false]
  rfl

/-- The record of a reserved access, written or waiting, changes the Safelight state alone. -/
theorem logRsvd_eq (a : Nat) (write : Bool) : logRsvd s id a write = { s with saf := (logRsvd s id a write).saf } := by
  cases h : s.saf.recPending with
  | none => rw [logRsvd_written h]; rfl
  | some p => rw [logRsvd_deferred (by simp [h])]; rfl

@[simp] theorem logRsvd_csOpen (i : Identity) (a : Nat) (write : Bool) : (logRsvd s id a write).csOpen i = s.csOpen i := by
  rw [logRsvd_eq]; rfl

/-! ### An access to reserved space (R9) -/

/-- An aligned access, by an identity other than JTAG's that reaches the space, to an address that names nothing. -/
structure ReservedAccess (s : State) (id : Identity) (a : Nat) : Prop where
  aligned : a % 4 = 0
  unknown : regKnown s.member a = false
  noWindow : isAperture a = false
  notJtag : id ≠ idJtag
  reaches : s.csOpen id = true

/-- What a reserved write needs beside the MPU's consent to be recorded: a Plot block's semaphore, and no lock on it. -/
def RsvdWriteRecorded (s : State) (id : Identity) (a : Nat) : Prop :=
  s.lacksPlotSem id a = false ∧ (s.writeLocked id = false ∨ (0x10000 ≤ a ∧ a < 0x14000 + 0x100 * s.member.plots))

theorem csRead_reserved_allowed {a : Nat} (h : ReservedAccess s id a) (hm : s.mpuRefuses id false a .read = none) (same : Word) :
    csRead s id a same = (logRsvd (noteAccess s id) id a false, 0, regOk) := by
  simp [csRead, h.aligned, h.notJtag, h.noWindow, csCheck_allowed h.reaches hm, h.unknown]

theorem csRead_reserved_refused {a : Nat} {r : MpuCfg} (h : ReservedAccess s id a) (hm : s.mpuRefuses id false a .read = some r)
    (same : Word) :
    csRead s id a same = (recordVio (noteAccess s id) id false a .read false false r.index 4, 0, regDenied) := by
  simp [csRead, h.aligned, h.notJtag, h.noWindow, csCheck_refused h.reaches hm]

theorem rsvdWrite_allowed {a : Nat} (ho : s.csOpen id = true) (hm : s.mpuRefuses id false a .write = none)
    (hr : RsvdWriteRecorded s id a) : rsvdWrite s id a = logRsvd (noteAccess s id) id a true := by
  obtain ⟨hsem, hlock | ⟨hlo, hhi⟩⟩ := hr
  · simp [rsvdWrite, csCheck_allowed ho hm, hsem, hlock]
  · simp [rsvdWrite, csCheck_allowed ho hm, hsem, hlo, Nat.not_le.mpr hhi]

theorem rsvdWrite_refused {a : Nat} {r : MpuCfg} (ho : s.csOpen id = true) (hm : s.mpuRefuses id false a .write = some r) :
    rsvdWrite s id a = recordVio (noteAccess s id) id false a .write false false r.index 4 := by
  simp [rsvdWrite, csCheck_refused ho hm]

theorem csWriteWord_reserved {a : Nat} (h : ReservedAccess s id a) (v : Word) :
    csWriteWord s id a v = (rsvdWrite s id a, if (s.mpuRefuses id false a .write).isSome then regDenied else regOk) := by
  simp [csWriteWord, h.aligned, h.notJtag, h.noWindow, h.unknown]

/-- The MPU's kind of a plain access. -/
abbrev plainKind (write : Bool) : AccessKind := if write then .write else .read

theorem exec_rsvdAccess_allowed {addr : CsAddr} {write : Bool} (h : ReservedAccess s id addr.toNat)
    (hm : s.mpuRefuses id false addr.toNat (plainKind write) = none)
    (hw : write = false ∨ RsvdWriteRecorded s id addr.toNat) :
    exec (.rsvdAccess id addr write) s = .next (setReply (logRsvd (noteAccess s id) id addr.toNat write) id 0 0) := by
  show execRsvdAccess id addr write s = _
  cases write with
  | false => simp [execRsvdAccess, h.unknown, h.noWindow, csRead_reserved_allowed h hm, regOk]
  | true =>
    have hr := hw.resolve_left Bool.noConfusion
    simp [execRsvdAccess, h.unknown, h.noWindow, csWriteWord_reserved h, show s.mpuRefuses id false addr.toNat .write = none from hm,
      rsvdWrite_allowed h.reaches hm hr, regOk]

theorem exec_rsvdAccess_refused {addr : CsAddr} {write : Bool} {r : MpuCfg} (h : ReservedAccess s id addr.toNat)
    (hm : s.mpuRefuses id false addr.toNat (plainKind write) = some r) :
    exec (.rsvdAccess id addr write) s =
      .next (setReply (recordVio (noteAccess s id) id false addr.toNat (plainKind write) false false r.index 4) id 0 2) := by
  show execRsvdAccess id addr write s = _
  cases write with
  | false => simp [execRsvdAccess, h.unknown, h.noWindow, csRead_reserved_refused h hm, regDenied, plainKind]
  | true =>
    simp [execRsvdAccess, h.unknown, h.noWindow, csWriteWord_reserved h, show s.mpuRefuses id false addr.toNat .write = some r from hm,
      rsvdWrite_refused h.reaches hm, regDenied, plainKind]

/-! ### The clearing fields and the snapshots of a read (R10, R48) -/

/-- The clearing fields of a register know nothing of the kept snapshots and answers or of the free values drawn. -/
theorem rcClear_with (s : State) (a : Nat) (same : Word) (l : List (Identity × Nat × Word)) (p : List RegReply) (n : Nat) :
    rcClear { s with snaps := l, replies := p, free := n } a same =
      { rcClear s a same with snaps := l, replies := p, free := n } := by
  unfold rcClear
  split
  -- the port block, which chooses the port and the register by conditions
  case h_10 n o =>
    dsimp only
    by_cases hn : n = 0
    all_goals simp only [hn, State.modPort]; split_ifs <;> rfl
  all_goals rfl

/-- Clearing a register's fields keeps the snapshots, the answers kept and the count of free values. -/
theorem rcClear_frame (s : State) (a : Nat) (same : Word) :
    (rcClear s a same).snaps = s.snaps ∧ (rcClear s a same).replies = s.replies ∧ (rcClear s a same).free = s.free := by
  have h : rcClear s a same = { rcClear s a same with snaps := s.snaps, replies := s.replies, free := s.free } :=
    rcClear_with s a same s.snaps s.replies s.free
  exact ⟨(congrArg State.snaps h :), (congrArg State.replies h :), (congrArg State.free h :)⟩

theorem rcClear_csOpen (s : State) (a : Nat) (same : Word) (i : Identity) : (rcClear s a same).csOpen i = s.csOpen i := by
  have hm : (rcClear s a same).member = s.member := (keeps_rcClear (Keeps.refl s)).member
  have hp : (rcClear s a same).pwr.state = s.pwr.state := by
    unfold rcClear
    split
    case h_10 => dsimp only; split_ifs <;> simp
    all_goals rfl
  simp [State.csOpen, hm, hp]

/-- Taking snapshots changes the snapshots alone. -/
theorem takeSnaps_eq (s : State) (id : Identity) (a : Nat) :
    takeSnaps s id a = { s with snaps := (takeSnaps s id a).snaps } := by
  unfold takeSnaps
  induction snapTargets a generalizing s with
  | nil => rfl
  | cons h hs ih => exact ih _

theorem takeSnaps_of_no_targets (s : State) (id : Identity) {a : Nat} (h : snapTargets a = []) : takeSnaps s id a = s := by
  simp [takeSnaps, h]

/-- No snapshot of the register at `a` is kept, for any reader. -/
def NoSnapOf (s : State) (a : Nat) : Prop := ∀ x ∈ s.snaps, x.2.1 ≠ a

theorem NoSnapOf.find?_eq_none {a : Nat} (h : NoSnapOf s a) (id : Identity) :
    (s.snaps.find? fun x => x.1 == id && x.2.1 == a) = none := by
  rw [List.find?_eq_none]
  intro x hx
  simp [h x hx]

/-- With no snapshot kept a read returns the present value, clears the register's clearing fields and takes snapshots where it
is a LO register; only SEC_STAT draws a free value. -/
theorem readReg_fresh {a : Nat} (h : NoSnapOf s a) (id : Identity) (same : Word) :
    ∃ n l, (a ≠ 0x300 → n = s.free) ∧ (snapTargets a = [] → l = s.snaps) ∧
      readReg s id a same = ({ rcClear s a same with snaps := l, free := n }, regValue s id a) := by
  obtain ⟨-, hreplies, -⟩ := rcClear_frame s a same
  have key : ∀ n, ∃ l, (snapTargets a = [] → l = s.snaps) ∧
      takeSnaps (rcClear { s with free := n } a same) id a = { rcClear s a same with snaps := l, free := n } := by
    intro n
    have hclear : rcClear { s with free := n } a same = { rcClear s a same with snaps := s.snaps, free := n } :=
      (rcClear_with s a same s.snaps s.replies n).trans (by rw [← hreplies])
    rw [hclear]
    exact ⟨(takeSnaps { rcClear s a same with snaps := s.snaps, free := n } id a).snaps,
      fun hl => by rw [takeSnaps_of_no_targets _ id hl], takeSnaps_eq _ id a⟩
  unfold readReg
  rw [h.find?_eq_none id]
  dsimp only
  split
  case isTrue hc =>
    obtain ⟨l, hl, heq⟩ := key (s.free + 1)
    exact ⟨s.free + 1, l, fun hne => absurd hc.1 hne, hl, by rw [heq]⟩
  case isFalse =>
    obtain ⟨l, hl, heq⟩ := key s.free
    exact ⟨s.free, l, fun _ => rfl, hl, by rw [heq]⟩

/-! ### A read of a register (R9, R10, R48, R658 to R660) -/

/-- A read of the register at `a` that every check lets through and that no kept snapshot answers. -/
structure FreshRead (s : State) (id : Identity) (a : Nat) : Prop where
  notJtag : id ≠ idJtag
  reaches : s.csOpen id = true
  aligned : a % 4 = 0
  known : regKnown s.member a = true
  noWindow : isAperture a = false
  readable : s.hasLayout = true ∨ readableBare a = true
  banked : isBanked a = false ∨ reachesBank id a = true
  allowed : s.mpuRefuses id false a .read = none
  noSnap : NoSnapOf s a

theorem FreshRead.noSnap_noteAccess {a : Nat} (h : FreshRead s id a) : NoSnapOf (noteAccess s id) a := by
  simpa [NoSnapOf] using h.noSnap

theorem csRead_fresh {a : Nat} (h : FreshRead s id a) (same : Word) :
    csRead s id a same =
      ((readReg (noteAccess s id) id a same).1, (readReg (noteAccess s id) id a same).2, regOk) := by
  have hshut : ¬ ((!s.hasLayout && !readableBare a) || (isBanked a && !reachesBank id a)) = true := by
    have := h.readable
    have := h.banked
    grind
  simp only [csRead, h.aligned, h.notJtag, h.noWindow, csCheck_allowed h.reaches h.allowed, h.known, noteAccess_member,
    noteAccess_hasLayout, if_neg hshut, ne_eq, not_true_eq_false, false_and, Bool.not_true, Bool.false_eq_true, if_false]

/-- A read answers the register's present value; beside the grant and its clearing fields it changes the answer kept, the
snapshots and the count of free values. -/
theorem exec_rcRead_fresh {a : CsAddr} (h : FreshRead s id a.toNat) (same : Word) :
    ∃ n l, (a.toNat ≠ 0x300 → n = s.free) ∧ (snapTargets a.toNat = [] → l = s.snaps) ∧
      exec (.rcRead id a same) s = .next (setReply { rcClear (noteAccess s id) a.toNat same with snaps := l, free := n } id
        (regValue (noteAccess s id) id a.toNat) 0) := by
  obtain ⟨n, l, hn, hl, hread⟩ := readReg_fresh h.noSnap_noteAccess id same
  refine ⟨n, l, fun ha => (hn ha).trans (noteAccess_free s id), fun ha => (hl ha).trans (noteAccess_snaps s id), ?_⟩
  show execRcRead id a same s = _
  simp [execRcRead, csRead_fresh h, hread, regOk]

/-- SNAPSHOT_READ is the read with no event in its tick. -/
theorem exec_snapshotRead_eq (a : CsAddr) : exec (.snapshotRead id a) s = exec (.rcRead id a 0) s := rfl

/-- What every read that no snapshot answers leaves: the register's cleared fields under the grant, and the answer kept. -/
theorem exec_rcRead_clears {a : CsAddr} (h : FreshRead s id a.toNat) (same : Word) :
    ∃ t, exec (.rcRead id a same) s = .next t ∧ t.replyTo id = some (regValue (noteAccess s id) id a.toNat, 0) ∧
      { t with snaps := s.snaps, replies := s.replies, free := s.free } = rcClear (noteAccess s id) a.toNat same := by
  obtain ⟨n, l, -, -, hread⟩ := exec_rcRead_fresh h same
  have ho : ({ rcClear (noteAccess s id) a.toNat same with snaps := l, free := n } : State).csOpen id = true :=
    (rcClear_csOpen _ _ _ id).trans ((noteAccess_csOpen s id id).trans h.reaches)
  obtain ⟨hs, hp, hf⟩ := rcClear_frame (noteAccess s id) a.toNat same
  refine ⟨_, hread, setReply_replyTo ho, ?_⟩
  rw [setReply_eq ho, ← noteAccess_snaps s id, ← noteAccess_replies s id, ← noteAccess_free s id, ← hs, ← hp, ← hf]

/-- A read of a register that is neither SEC_STAT nor a LO register leaves the grant, the cleared fields and the answer. -/
theorem exec_rcRead_plain {a : CsAddr} (h : FreshRead s id a.toNat) (ha : a.toNat ≠ 0x300) (hl : snapTargets a.toNat = [])
    (same : Word) : exec (.rcRead id a same) s = .next (setReply (rcClear (noteAccess s id) a.toNat same) id
      (regValue (noteAccess s id) id a.toNat) 0) := by
  obtain ⟨n, l, hn, hsnaps, hexec⟩ := exec_rcRead_fresh h same
  obtain ⟨hs, -, hf⟩ := rcClear_frame (noteAccess s id) a.toNat same
  rw [hexec, hn ha, hsnaps hl, ← noteAccess_free s id, ← noteAccess_snaps s id, ← hs, ← hf]

/-- The state after such a read: the cleared register under the grant, and the answer kept. -/
theorem exec_rcRead_plain_reply {a : CsAddr} (h : FreshRead s id a.toNat) (ha : a.toNat ≠ 0x300)
    (hl : snapTargets a.toNat = []) (same : Word) :
    ∃ t p, exec (.rcRead id a same) s = .next t ∧ t.replyTo id = some (regValue (noteAccess s id) id a.toNat, 0) ∧
      t = { rcClear (noteAccess s id) a.toNat same with replies := p } := by
  have ho : (rcClear (noteAccess s id) a.toNat same).csOpen id = true := by simpa [rcClear_csOpen] using h.reaches
  exact ⟨_, _, exec_rcRead_plain h ha hl same, setReply_replyTo ho, setReply_eq ho⟩

/-! ### Three counting registers (Table IDX-2) -/

theorem rcAfter_eq_min (top events : Nat) : rcAfter top events = min top events := by
  simp [rcAfter, satAdd]

/-- ARB_TSF_CNT. -/
theorem regValue_tsfCnt (s : State) (id : Identity) :
    regValue s id 0x401C = packWord [(0, 16, s.arb.tsfA), (16, 16, s.arb.tsfB)] := rfl

theorem rcClear_tsfCnt (s : State) (same : Word) :
    rcClear s 0x401C same = s.modArb fun q => { q with
      tsfA := min 0xFFFF (field same 0 16), tsfB := min 0xFFFF (field same 16 16) } := by
  simp only [← rcAfter_eq_min]; rfl

/-- SEM_REFUSE. -/
theorem regValue_semRefuse (s : State) (id : Identity) :
    regValue s id 0x10210 = packWord [(0, 8, s.sem.busyA), (8, 8, s.sem.busyB), (16, 8, s.sem.busyStk), (24, 8, s.sem.locked)] := rfl

theorem rcClear_semRefuse (s : State) (same : Word) :
    rcClear s 0x10210 same = s.modSem fun q => { q with
      busyA := min 0xFF (field same 0 8), busyB := min 0xFF (field same 8 8)
      busyStk := min 0xFF (field same 16 8), locked := min 0xFF (field same 24 8) } := by
  simp only [← rcAfter_eq_min]; rfl

/-- CPH_CNT of cipher engine 2. -/
theorem regValue_cphCnt (s : State) (id : Identity) :
    regValue s id 0x50804 = packWord [(0, 16, (s.engine 2).echoFail), (16, 16, (s.engine 2).clears)] := rfl

theorem rcClear_cphCnt (s : State) (same : Word) :
    rcClear s 0x50804 same = s.modEngine 2 fun q => { q with
      echoFail := min 0xFFFF (field same 0 16), clears := min 0xFFFF (field same 16 16) } := by
  simp only [← rcAfter_eq_min]; rfl

theorem regKnown_cphCnt {m : Member} (h : 2 < m.ciphers) : regKnown m 0x50804 = true := by
  show (decide (2 < m.ciphers) && inWords [(0x0, 2)] 4) = true
  simp [h, inWords]

/-- A clearing read of ARB_TSF_CNT. -/
theorem exec_rcRead_tsfCnt (hjtag : id ≠ idJtag) (hopen : s.csOpen id = true) (hmpu : s.mpuRefuses id false 0x401C .read = none)
    (hsnap : NoSnapOf s 0x401C) (same : Word) :
    ∃ t, exec (.rcRead id 0x401C#24 same) s = .next t ∧
      t.replyTo id = some (packWord [(0, 16, s.arb.tsfA), (16, 16, s.arb.tsfB)], 0) ∧
      { t with replies := s.replies } = (noteAccess s id).modArb fun q => { q with
        tsfA := min 0xFFFF (field same 0 16), tsfB := min 0xFFFF (field same 16 16) } := by
  have h : FreshRead s id 0x401C := ⟨hjtag, hopen, rfl, rfl, rfl, .inr rfl, .inl rfl, hmpu, hsnap⟩
  obtain ⟨t, p, hexec, hreply, rfl⟩ := exec_rcRead_plain_reply (a := 0x401C#24) h (by decide) rfl same
  obtain ⟨htsfA, htsfB⟩ := noteAccess_tsf s id
  obtain ⟨-, hreplies, -⟩ := rcClear_frame (noteAccess s id) 0x401C same
  refine ⟨_, hexec, hreply.trans ?_, ?_⟩
  · exact congrArg (fun v => some (v, 0)) ((regValue_tsfCnt _ id).trans (by rw [htsfA, htsfB]))
  · rw [← rcClear_tsfCnt, ← noteAccess_replies s id, ← hreplies]
    rfl

/-- A clearing read of SEM_REFUSE. -/
theorem exec_rcRead_semRefuse (hjtag : id ≠ idJtag) (hopen : s.csOpen id = true)
    (hmpu : s.mpuRefuses id false 0x10210 .read = none) (hsnap : NoSnapOf s 0x10210) (same : Word) :
    ∃ t, exec (.rcRead id 0x10210#24 same) s = .next t ∧
      t.replyTo id = some (packWord [(0, 8, s.sem.busyA), (8, 8, s.sem.busyB), (16, 8, s.sem.busyStk), (24, 8, s.sem.locked)], 0) ∧
      t.sem = { s.sem with busyA := min 0xFF (field same 0 8), busyB := min 0xFF (field same 8 8)
                           busyStk := min 0xFF (field same 16 8), locked := min 0xFF (field same 24 8) } := by
  have h : FreshRead s id 0x10210 := ⟨hjtag, hopen, rfl, rfl, rfl, .inr rfl, .inl rfl, hmpu, hsnap⟩
  obtain ⟨t, p, hexec, hreply, rfl⟩ := exec_rcRead_plain_reply (a := 0x10210#24) h (by decide) rfl same
  refine ⟨_, hexec, hreply.trans ?_, ?_⟩
  · exact congrArg (fun v => some (v, 0)) ((regValue_semRefuse _ id).trans (by rw [noteAccess_sem]))
  · exact (congrArg State.sem (rcClear_semRefuse (noteAccess s id) same)).trans (by simp)

/-- A clearing read of CPH_CNT of cipher engine 2. -/
theorem exec_rcRead_cphCnt (hjtag : id ≠ idJtag) (hopen : s.csOpen id = true) (hlayout : s.hasLayout = true)
    (hciphers : 2 < s.member.ciphers) (hengines : 2 < s.engines.length) (hmpu : s.mpuRefuses id false 0x50804 .read = none)
    (hsnap : NoSnapOf s 0x50804) (same : Word) :
    ∃ t, exec (.rcRead id 0x50804#24 same) s = .next t ∧
      t.replyTo id = some (packWord [(0, 16, (s.engine 2).echoFail), (16, 16, (s.engine 2).clears)], 0) ∧
      t.engine 2 = { s.engine 2 with echoFail := min 0xFFFF (field same 0 16), clears := min 0xFFFF (field same 16 16) } := by
  have h : FreshRead s id 0x50804 :=
    ⟨hjtag, hopen, rfl, regKnown_cphCnt hciphers, rfl, .inl hlayout, .inl rfl, hmpu, hsnap⟩
  obtain ⟨t, p, hexec, hreply, rfl⟩ := exec_rcRead_plain_reply (a := 0x50804#24) h (by decide) rfl same
  refine ⟨_, hexec, hreply.trans ?_, ?_⟩
  · exact congrArg (fun v => some (v, 0)) ((regValue_cphCnt _ id).trans (by rw [noteAccess_engine]))
  · show (rcClear (noteAccess s id) 0x50804 same).engine 2 = _
    rw [rcClear_cphCnt, State.modEngine_engine _ _ _ (by simpa using hengines), noteAccess_engine]

end Accesses

/-- Settles O11: an access that passes is a grant, one record and the kept answer; a refused one a grant, a violation record
and the kept answer. -/
theorem reservedSpaceIsLoggedAndInert : Obligations.ReservedSpaceIsLoggedAndInert := by
  intro s id addr write haligned hunknown hwindow hjtag hopen
  have h : ReservedAccess s id addr.toNat := ⟨haligned, hunknown, hwindow, hjtag, hopen⟩
  constructor
  · intro hm hw
    have hl : (logRsvd (noteAccess s id) id addr.toNat write).csOpen id = true := by simpa using hopen
    refine ⟨_, exec_rsvdAccess_allowed h hm hw, setReply_replyTo hl, ?_, fun hp => ?_, fun hp => ?_⟩
    · rw [setReply_eq hl, logRsvd_eq, ← noteAccess_saf s id, ← noteAccess_replies s id]
    · rw [setReply_eq hl, logRsvd_written (by simpa using hp)]
      exact ⟨_, by rw [← noteAccess_saf s id]; rfl, rfl, rfl, rfl, rfl, rfl⟩
    · rw [setReply_eq hl, logRsvd_deferred (by simpa using hp)]
      exact ⟨_, by rw [← noteAccess_saf s id]; rfl, rfl, rfl, rfl⟩
  · intro r hm
    refine ⟨_, exec_rsvdAccess_refused h hm, setReply_replyTo (by simpa using hopen), ?_, fun hn => ?_⟩
    · simp [setReply_eq, hopen]
    · rw [setReply_eq (by simpa using hopen)]
      exact (recordVio_unread _ _ _ _ _ _ _ (by simpa using hn)).trans (by simp)

/-- Settles O13: a read that every check lets through leaves the cleared register under its grant; the three registers written
out are cases of it. -/
theorem rcReadClearsThenCounts : Obligations.RcReadClearsThenCounts := by
  intro s id same hjtag hopen u
  refine ⟨?_, fun hmpu hsnap => exec_rcRead_tsfCnt hjtag hopen hmpu hsnap same, ?_, ?_⟩
  · intro a haligned hknown hwindow hlayout hbank hmpu hsnap c hc
    have h : FreshRead s id a.toNat := ⟨hjtag, hopen, haligned, hknown, hwindow, hlayout, hbank, hmpu, hsnap⟩
    obtain rfl | ⟨rfl, rfl⟩ := hc
    · exact exec_rcRead_clears h same
    · rw [exec_snapshotRead_eq]
      exact exec_rcRead_clears h 0
  · intro hmpu hsnap
    obtain ⟨t, hexec, hreply, hsem⟩ := exec_rcRead_semRefuse hjtag hopen hmpu hsnap same
    exact ⟨t, hexec, hreply, by simp [hsem]⟩
  · intro hlayout hciphers hengines hmpu hsnap
    obtain ⟨t, hexec, hreply, heng⟩ := exec_rcRead_cphCnt hjtag hopen hlayout hciphers hengines hmpu hsnap same
    exact ⟨t, hexec, hreply, by simp [heng]⟩

end Sys2Proof.Machine
end

section
/-! Writes of Control-space registers: the checks of R26, R27 and R318 a write meets, and the fields the registers of Table IDX-3
take; O14. -/

namespace Sys2Proof.Machine

section RegisterWrites

variable {s : State} {id : Identity}

/-! ### The checks of a write (R26, R27, R318, R660) -/

theorem csWrite_refused {a : Nat} {exempt : Bool} {effect : State → State} {r : MpuCfg} (ho : s.csOpen id = true)
    (hm : s.mpuRefuses id false a .write = some r) :
    csWrite s id a exempt effect = recordVio (noteAccess s id) id false a .write false false r.index 4 := by
  simp [csWrite, csCheck_refused ho hm]

theorem csWrite_locked {a : Nat} {exempt : Bool} {effect : State → State} (ho : s.csOpen id = true)
    (hm : s.mpuRefuses id false a .write = none) (he : exempt = false) (hl : s.writeLocked id = true) :
    csWrite s id a exempt effect = countLocked (noteAccess s id) := by
  simp [csWrite, csCheck_allowed ho hm, he, hl]

/-- A write that passes every check has its effect under the grant of its access. -/
theorem csWrite_passes {a : Nat} {exempt : Bool} {effect : State → State} (h : WritePasses s id a exempt) :
    csWrite s id a exempt effect = effect (noteAccess s id) := by
  obtain ⟨ho, hm, hlock, hbare⟩ := h
  have hunlocked : (!exempt && s.writeLocked id) = false := by obtain rfl | hl := hlock <;> simp [*]
  have hserved : (!s.hasLayout && !writableBare a) = false := by obtain hl | hb := hbare <;> simp [*]
  simp [csWrite, csCheck_allowed ho hm, hunlocked, hserved]

/-! ### A write of one register -/

/-- An aligned write to a register, not a window, by an identity other than JTAG's. -/
structure NamesRegister (s : State) (id : Identity) (a : Nat) : Prop where
  aligned : a % 4 = 0
  known : regKnown s.member a = true
  noWindow : isAperture a = false
  notJtag : id ≠ idJtag

theorem csWriteWord_register {a : Nat} (h : NamesRegister s id a) (v : Word) :
    csWriteWord s id a v = (csWrite s id a (lockExempt a v) (fun u => if isBanked a && !reachesBank id a then u else regEffect u id a v),
      if (s.mpuRefuses id false a .write).isSome then regDenied else regOk) := by
  simp [csWriteWord, h.aligned, h.known, h.noWindow, h.notJtag]

theorem exec_registerWrite_unaligned {a : CsAddr} (h : a.toNat % 4 ≠ 0) (v : Word) :
    exec (.registerWrite id a v) s = .next (setReply s id v 0) := by
  show execRegisterWrite id a v s = _
  simp [execRegisterWrite, csWriteWord, h, regOk]

theorem exec_registerWrite_refused {a : CsAddr} {r : MpuCfg} (h : NamesRegister s id a.toNat) (ho : s.csOpen id = true)
    (hm : s.mpuRefuses id false a.toNat .write = some r) (v : Word) : exec (.registerWrite id a v) s =
      .next (setReply (recordVio (noteAccess s id) id false a.toNat .write false false r.index 4) id v 2) := by
  show execRegisterWrite id a v s = _
  simp [execRegisterWrite, csWriteWord_register h, csWrite_refused ho hm, hm, regDenied]

theorem exec_registerWrite_locked {a : CsAddr} {v : Word} (h : NamesRegister s id a.toNat) (ho : s.csOpen id = true)
    (hm : s.mpuRefuses id false a.toNat .write = none) (he : lockExempt a.toNat v = false) (hl : s.writeLocked id = true) :
    exec (.registerWrite id a v) s = .next (setReply (countLocked (noteAccess s id)) id v 0) := by
  show execRegisterWrite id a v s = _
  simp [execRegisterWrite, csWriteWord_register h, csWrite_locked ho hm he hl, hm, regOk]

/-- A write that passes every check answers OK and leaves the register's effect under the grant. -/
theorem exec_registerWrite_passes {a : CsAddr} {v : Word} (h : NamesRegister s id a.toNat) (hb : isBanked a.toNat = false)
    (hp : WritePasses s id a.toNat (lockExempt a.toNat v)) :
    exec (.registerWrite id a v) s = .next (setReply (regEffect (noteAccess s id) id a.toNat v) id v 0) := by
  have ⟨_, hm, _⟩ := hp
  show execRegisterWrite id a v s = _
  simp [execRegisterWrite, csWriteWord_register h, csWrite_passes hp, hb, hm, regOk]

/-- PWR_DIM, MED_WALL_LO and SAF_RAIL stand under the lock of R318, and every member has them. -/
theorem lockedRegister_facts (m : Member) (v : Word) {a : Nat} (ha : a = 0x218 ∨ a = 0x400 ∨ a = 0x8064) :
    a % 4 = 0 ∧ regKnown m a = true ∧ isAperture a = false ∧ isBanked a = false ∧ lockExempt a v = false := by
  obtain rfl | rfl | rfl := ha <;> exact ⟨rfl, rfl, rfl, rfl, rfl⟩

/-- The fields these three registers take (Table IDX-3). -/
theorem regEffect_pwrDim (v : Word) : regEffect s id 0x218 v = s.modPwr fun q => { q with dimReg := field v 0 10 } := rfl
theorem regEffect_medWallLo (v : Word) : regEffect s id 0x400 v = { s with wall := { s.wall with wLo := v } } := rfl
theorem regEffect_safRail (v : Word) :
    regEffect s id 0x8064 v = s.modSaf fun q => { q with railOut := w1c q.railOut (field v 0 5) } := rfl

theorem exec_registerWrite_lockedRegister {a : CsAddr} (hjtag : id ≠ idJtag)
    (ha : a.toNat = 0x218 ∨ a.toNat = 0x400 ∨ a.toNat = 0x8064) (hp : WritePasses s id a.toNat false) (v : Word) :
    exec (.registerWrite id a v) s = .next (setReply (regEffect (noteAccess s id) id a.toNat v) id v 0) := by
  obtain ⟨haligned, hknown, hwindow, hbank, hexempt⟩ := lockedRegister_facts s.member v ha
  exact exec_registerWrite_passes ⟨haligned, hknown, hwindow, hjtag⟩ hbank (hexempt ▸ hp)

/-! ### PLT_PACE -/

/-- The address of PLT_PACE of Plot n. -/
def csPltPace (n : Nat) : Nat := 0x1400C + 0x100 * n

theorem csPltPace_toNat {n : Nat} (hn : n < 64) : (BitVec.ofNat 24 (csPltPace n)).toNat = csPltPace n := by
  simp only [BitVec.toNat_ofNat, csPltPace]; omega

theorem regPlace_csPltPace {n : Nat} (hn : n < 64) : regPlace (csPltPace n) = .plt n 0xC := by
  unfold regPlace csPltPace
  iterate 4 rw [if_neg (by omega)]
  rw [if_pos (by omega)]
  congr 1 <;> omega

theorem namesRegister_csPltPace {n : Nat} (hn : n < 64) (hplot : n < s.member.plots) (hjtag : id ≠ idJtag) :
    NamesRegister s id (csPltPace n) where
  aligned := by unfold csPltPace; omega
  known := by simp [regKnown, regPlace_csPltPace hn, hplot, inWords]
  noWindow := by simp only [isAperture, csPltPace]; grind
  notJtag := hjtag

/-- R318 excepts a Plot's block, so its write has the effect of Table SEM-3. -/
theorem exec_registerWrite_pltPace {n : Nat} {a : CsAddr} (ha : a.toNat = csPltPace n) (hn : n < 64) (hplot : n < s.member.plots)
    (hjtag : id ≠ idJtag) (hp : WritePasses s id (csPltPace n) true) (v : Word) :
    exec (.registerWrite id a v) s = .next (setReply (writePlt (noteAccess s id) id n 0xC v) id v 0) := by
  have hplace := regPlace_csPltPace hn
  rw [exec_registerWrite_passes (by rw [ha]; exact namesRegister_csPltPace hn hplot hjtag)
    (by rw [ha, isBanked, hplace]) (by rw [ha, lockExempt, hplace]; exact hp), ha, regEffect, hplace]

@[simp] theorem noteAccess_wall (s : State) (id : Identity) : (noteAccess s id).wall = s.wall := by rw [noteAccess_eq]
@[simp] theorem noteAccess_holdsSem (s : State) (id i : Identity) (n : Nat) : (noteAccess s id).holdsSem i n = s.holdsSem i n := by
  simp [State.holdsSem, State.semOwner]

theorem writePlt_pace {n : Nat} {v : Word} (h : isHostId id = false ∨ s.holdsSem id (64 + n) = true) :
    writePlt s id n 0xC v = s.modPlot n fun p => { p with pace := field v 0 4 } := by
  have hmay : (isHostId id && !s.holdsSem id (64 + n)) = false := by obtain h | h := h <;> simp [h]
  simp [writePlt, hmay]

theorem writePlt_without_semaphore {n o : Nat} {v : Word} (hid : isHostId id = true) (hsem : s.holdsSem id (64 + n) = false) :
    writePlt s id n o v = s := by
  simp [writePlt, hid, hsem]

end RegisterWrites

/-- Settles O14: a write meets the checks of the Control space, and one that passes them all has the effect of its register under
the grant of its access. -/
theorem registerWritesTakeEffect : Obligations.RegisterWritesTakeEffect := by
  intro s id v hjtag hopen u
  refine ⟨fun hp => ?_, fun hp => ?_, fun hp => ?_, ?_, fun a ha => exec_registerWrite_unaligned ha v, ?_⟩
  · rw [exec_registerWrite_lockedRegister (a := 0x218#24) hjtag (.inl rfl) hp, ← regEffect_pwrDim]
    rfl
  · rw [exec_registerWrite_lockedRegister (a := 0x400#24) hjtag (.inr (.inl rfl)) hp, ← noteAccess_wall, ← regEffect_medWallLo]
    rfl
  · rw [exec_registerWrite_lockedRegister (a := 0x8064#24) hjtag (.inr (.inr rfl)) hp, ← regEffect_safRail]
    rfl
  · intro n hplot hn hp
    have hexec := exec_registerWrite_pltPace (csPltPace_toNat hn) hn hplot hjtag hp v
    refine ⟨fun hmay => hexec.trans ?_, fun hid hsem => hexec.trans ?_⟩
    · rw [writePlt_pace (by simpa using hmay)]
    · rw [writePlt_without_semaphore hid (by simpa using hsem)]
  · intro a haligned hknown hwindow
    have h : NamesRegister s id a.toNat := ⟨haligned, hknown, hwindow, hjtag⟩
    exact ⟨fun r hm => exec_registerWrite_refused h hopen hm v, fun hm he hl => exec_registerWrite_locked h hopen hm he hl⟩

end Sys2Proof.Machine
end

section
/-! READ and WRITE from their arrival to their grant (R23, R38, R41, R53, R54, R284, R285): the gate they pass, what draws
nothing, and what a drawn ticket begins; O29 and O30. -/

namespace Sys2Proof.Machine

section Transfers

variable {s : State} {key : TaskKey} {tr : Transport}

/-! ### The gate before a command's own meaning (R290, R294, R296) -/

theorem Reaches.no_overlap (h : Reaches s key tr) : (s.fn.tasks.any fun t => t.key == key && t.statusDue) = false := by
  obtain ⟨-, -, hover⟩ := h
  rw [List.any_eq_false]
  intro t ht
  by_cases hk : t.key = key
  · simp [hk, hover t ht hk]
  · simp [hk]

/-- A command with nothing in its way runs on the state without its unit's kept sense data. -/
theorem scsiGate_clear (h : ScsiClear s key tr) (run : State → State) :
    scsiGate s key tr false false run = run (dropSense s key) := by
  obtain ⟨hreach, howes, hsanitize, hdark⟩ := h
  have ⟨hpresented, hiu, _⟩ := hreach
  have howes' : (dropSense s key).owesAttention key = false := howes
  have hsanitize' : ((dropSense s key).plot key.plot).sanitize = none := hsanitize
  have hdark' : (dropSense s key).plotDark key.plot = false := hdark
  simp [scsiGate, hpresented, hiu, hreach.no_overlap, howes', hsanitize', hdark']

theorem drawTicket_eq {k id : Nat} {u : State} (h : drawTicket s k = some (id, u)) :
    ∃ a : ArbState, u = { s with arb := a } ∧ a.ordNext = s.arb.ordNext ∧ a.ordEnd = s.arb.ordEnd := by
  unfold drawTicket at h
  split at h
  · cases h
  · dsimp only at h
    split_ifs at h <;> cases h <;> exact ⟨_, rfl, rfl, rfl⟩

/-! ### Commands that end at once (R53, R294) -/

theorem modEp_modFn (p : Port) (k ep : Nat) (f : EpState → EpState) (g : FnState → FnState) :
    modEp (s.modFn g) p k ep f = (modEp s p k ep f).modFn g := by
  cases p <;> rfl

@[simp] theorem modFn_embOf (g : FnState → FnState) (p : Port) (n : Nat) : (s.modFn g).embOf p n = s.embOf p n := rfl

/-- What is sent takes granules of a port's endpoints, whatever the functions behind the port keep. -/
theorem sendIn_modFn (n : Nat) (g : FnState → FnState) : sendIn (s.modFn g) key n = (sendIn s key n).modFn g := by
  unfold sendIn
  cases key.origin with
  | ring _ => rfl
  | port p =>
    simp only [modFn_embOf, State.modFn_port, modEp_modFn]
    cases s.embOf p key.plot with
    | none => rfl
    | some k => dsimp only; split_ifs <;> rfl

/-- What is sent changes the port it is sent on. -/
theorem sendIn_eq (n : Nat) :
    sendIn s key n = { s with portA := (sendIn s key n).portA, portB := (sendIn s key n).portB } := by
  have hep : ∀ (u : State) p k ep f, modEp u p k ep f = { u with portA := (modEp u p k ep f).portA, portB := (modEp u p k ep f).portB } := by
    intro u p k ep f
    cases p <;> rfl
  unfold sendIn
  split
  · rfl
  · split
    · rfl
    · dsimp only
      split_ifs
      · rfl
      · rw [hep (modEp _ _ _ _ _), hep s]
      · exact hep _ _ _ _ _

theorem sendIn_frame (n : Nat) : (sendIn s key n).fn = s.fn ∧ (sendIn s key n).free = s.free := by
  rw [sendIn_eq]
  exact ⟨rfl, rfl⟩

/-- A command that is replied to without its unit's kept sense data ends at once and draws nothing. -/
theorem answers_of_replyScsi {c : Instr} {st : ScsiStatus} {data : List Byte}
    (h : exec c s = .next (replyScsi (dropSense s key) key st data)) : Answers s c key st data := by
  refine ⟨_, h, ?_⟩
  cases ho : key.origin with
  | ring pos => exact ⟨dropSense s key, rfl, rfl, by simp [replyScsi, ho]⟩
  | port p =>
    obtain ⟨hfn, hfree⟩ := sendIn_frame (s := s) (key := key) data.length
    simp only [replyScsi, ho, sendScsi, dropSense, sendIn_modFn]
    refine ⟨by simp [State.resultOf], ?_, by simp [hfn]⟩
    rw [← hfn, ← hfree]
    rfl

/-! ### What READ and WRITE check before they ask the arbiter (R284, R285) -/

@[simp] theorem dropSense_capacityOf (n : Nat) : (dropSense s key).capacityOf n = s.capacityOf n := rfl
@[simp] theorem dropSense_protects (n : Nat) (k : TaskKind) : (dropSense s key).protects n k = s.protects n k := rfl

/-- A command is a READ or a WRITE of `t`'s blocks, forwarded as `cdb` when it is for the master's Plot. -/
def IsTransfer (c : Instr) (t : Task) (fl : CdbFlags) (cdb : List Byte) : Prop :=
  ∀ s, exec c s = .next (transfer s t fl cdb)

theorem isTransfer_read10 (a : BitVec 32) (l : BitVec 16) (fl : CdbFlags) :
    IsTransfer (.read10 key tr a l fl) (newTask key (some tr) .read a.toNat l.toNat false) fl (cdb10 0x28 0 a.toNat l.toNat) :=
  fun _ => rfl

theorem isTransfer_read16 (a : BitVec 64) (l : BitVec 32) (fl : CdbFlags) :
    IsTransfer (.read16 key tr a l fl) (newTask key (some tr) .read a.toNat l.toNat false) fl (cdb16 0x88 0 a.toNat l.toNat) :=
  fun _ => rfl

theorem isTransfer_write10 (a : BitVec 32) (l : BitVec 16) (fl : CdbFlags) :
    IsTransfer (.write10 key tr a l fl) (newTask key (some tr) .write a.toNat l.toNat fl.fua) fl
      (cdb10 0x2A (bitOf fl.fua 3) a.toNat l.toNat) :=
  fun _ => rfl

theorem isTransfer_write16 (a : BitVec 64) (l : BitVec 32) (fl : CdbFlags) :
    IsTransfer (.write16 key tr a l fl) (newTask key (some tr) .write a.toNat l.toNat fl.fua) fl
      (cdb16 0x8A (bitOf fl.fua 3) a.toNat l.toNat) :=
  fun _ => rfl

section Checked

variable {c : Instr} {t : Task} {fl : CdbFlags} {cdb : List Byte}

/-- A READ or WRITE that has nothing in its way, and whose own fields pass. -/
structure PassesFields (s : State) (c : Instr) (t : Task) (fl : CdbFlags) (cdb : List Byte) : Prop where
  isTransfer : IsTransfer c t fl cdb
  clear : ScsiClear s t.key (t.tr.getD .plain)
  flags : flagsBad fl = false
  count : t.count ≤ 65536

/-- Such a command for a Plot of this device, within its capacity, with a block to transfer. -/
structure AsksArbiter (s : State) (c : Instr) (t : Task) (fl : CdbFlags) (cdb : List Byte) : Prop extends
    PassesFields s c t fl cdb where
  here : isRemote t.key = false
  range : t.lba + t.count ≤ s.capacityOf t.key.plot
  nonempty : 0 < t.count

theorem exec_transfer_badField (hc : IsTransfer c t fl cdb) (h : ScsiClear s t.key (t.tr.getD .plain))
    (hbad : flagsBad fl = true ∨ 65536 < t.count) : Answers s c t.key (illegal 0x24 0x00) [] :=
  answers_of_replyScsi (by rw [hc s, transfer, scsiGate_clear h, if_pos hbad])

theorem PassesFields.noBadField (h : PassesFields s c t fl cdb) : ¬ (flagsBad fl = true ∨ 65536 < t.count) := by
  simp [h.flags, h.count]

theorem PassesFields.forwards (h : PassesFields s c t fl cdb) (hr : isRemote t.key = true) :
    exec c s = .next (forwardScsi (dropSense s t.key) cdb [] (if t.count = 0 then { t with kind := .flush } else t)) := by
  rw [h.isTransfer s, transfer, scsiGate_clear h.clear, if_neg h.noBadField, if_pos hr]

theorem PassesFields.beyond (h : PassesFields s c t fl cdb) (hr : isRemote t.key = false)
    (hrange : s.capacityOf t.key.plot < t.lba + t.count) : Answers s c t.key (illegal 0x21 0x00) [] := by
  refine answers_of_replyScsi ?_
  rw [h.isTransfer s, transfer, scsiGate_clear h.clear, if_neg h.noBadField]
  simp [hr, hrange]

theorem PassesFields.empty (h : PassesFields s c t fl cdb) (hr : isRemote t.key = false)
    (hrange : t.lba + t.count ≤ s.capacityOf t.key.plot) (hn : t.count = 0) : Answers s c t.key .good [] := by
  refine answers_of_replyScsi ?_
  rw [h.isTransfer s, transfer, scsiGate_clear h.clear, if_neg h.noBadField]
  rw [if_neg (by simp [hr]), if_neg (by simpa using hrange), if_pos hn]
  rfl

theorem AsksArbiter.protected (h : AsksArbiter s c t fl cdb) {st : ScsiStatus} (hk : t.kind = .write)
    (hst : s.protects t.key.plot .write = some st) : Answers s c t.key st [] := by
  refine answers_of_replyScsi ?_
  rw [h.isTransfer s, transfer, scsiGate_clear h.clear, if_neg h.noBadField]
  simp [h.here, Nat.not_lt.mpr h.range, Nat.ne_of_gt h.nonempty, hk, hst]

/-- No protection of its Plot stands against the command (Table FNC-12). -/
def MayWrite (s : State) (t : Task) : Prop := t.kind = .write → s.protects t.key.plot .write = none

theorem AsksArbiter.starts (h : AsksArbiter s c t fl cdb) (hw : MayWrite s t) :
    exec c s = .next (startTask (dropSense s t.key) t) := by
  have hnone : (if t.kind = .write then s.protects t.key.plot .write else none) = none := by
    split
    case isTrue hk => exact hw hk
    case isFalse => rfl
  rw [h.isTransfer s, transfer, scsiGate_clear h.clear, if_neg h.noBadField]
  simp [h.here, Nat.not_lt.mpr h.range, Nat.ne_of_gt h.nonempty, hnone]

end Checked

/-! ### The grant of a READ or WRITE (R33, R38, R41, R53, R54) -/

section Grants

variable {t : Task}

theorem startTask_drawn {id : Nat} {u : State} (h : drawTicket s t.key.origin.cls = some (id, u)) :
    startTask s t = beginTask (noteGrant u (t.grant u id)) { t with ticket := some id } := by
  rw [startTask, h]
  rfl

theorem startTask_noTicket (h : drawTicket s t.key.origin.cls = none) (hl : s.arb.lockstep = false) :
    startTask s t =
      noTicket (noteGrant (countTsf s t.key.origin.cls) ⟨t.key.origin.cls, none, none, none, t.noTicketEnd⟩) t := by
  rw [startTask, h]
  simp [hl]

theorem grantRefusal_none (hs : (s.plot t.key.plot).sanitize = none) (hd : s.plotDark t.key.plot = false)
    (hk : t.kind = .read ∨ t.kind = .write) (hw : MayWrite s t) : s.grantRefusal t = none := by
  obtain hk | hk := hk
  · simp [State.grantRefusal, hs, hd, hk]
  · simp [State.grantRefusal, hs, hd, hk, hw hk]

/-- A READ at its grant takes its horizon, and its page reads are queued. -/
theorem beginTask_read {f : Nat} (hk : t.kind = .read) (hf : s.fieldOf t.key.plot = some f) (hr : s.grantRefusal t = none) :
    beginTask s t =
      startRead (tellMember (s.modTasks fun ts => ts ++ [{ t with held := false, durable := s.asFua, horizon := some s.horizon }])
        { t with held := false, durable := s.asFua, horizon := some s.horizon } s.horizon)
        { t with held := false, durable := s.asFua, horizon := some s.horizon } := by
  have hr' : s.grantRefusal { t with held := false, durable := s.asFua } = none := hr
  simp only [beginTask, hf, hr']
  rw [if_pos hk]

/-- A WRITE at its grant, as it joins the commands in flight. -/
def writeGranted (s v : State) (t : Task) (f m : Nat) : Task :=
  { t with held := false, durable := s.asFua, order := some m, since := (v.field f).rseqNext }

theorem beginTask_write {f m : Nat} {v : State} (hk : t.kind = .write) (hf : s.fieldOf t.key.plot = some f)
    (hr : s.grantRefusal t = none) (hm : issueOrder s = some (m, v)) :
    beginTask s t =
      if v.noSpace f (writeGranted s v t f m) then endGranted v (writeGranted s v t f m) (dataProtect 0x07)
      else tellMember (v.modTasks fun ts => ts ++ [writeGranted s v t f m]) (writeGranted s v t f m) m := by
  have hr' : s.grantRefusal { t with held := false, durable := s.asFua } = none := hr
  simp only [beginTask, hf, hr', hm]
  rw [if_neg (by simp [hk])]
  simp only [hk, writeGranted]

/-- A part of the state that no round of a fold changes. -/
theorem foldl_unchanged {α β : Type} (part : State → β) (step : State → α → State) (h : ∀ s x, part (step s x) = part s)
    (l : List α) (s : State) : part (l.foldl step s) = part s :=
  List.foldlRecOn l step (motive := fun t => part t = part s) rfl fun t ht x _ => (h t x).trans ht

theorem queueEvent_arb (p : Port) (kind inst d0 d1 : Nat) : (queueEvent s p kind inst d0 d1).arb = s.arb := by
  unfold queueEvent
  split <;> simp

theorem setPlotMode_arb (n : Nat) (m : PlotMode) (reason : Nat) : (setPlotMode s n m reason).arb = s.arb := by
  simp only [setPlotMode]
  split
  · rfl
  · exact foldl_unchanged State.arb _ (fun _ _ => queueEvent_arb _ _ _ _ _) _ _

theorem demotePlots_arb (plots : List Nat) (cause : Nat) : (demotePlots s plots cause).arb = s.arb := by
  refine foldl_unchanged State.arb _ (fun s n => ?_) plots s
  split
  · exact setPlotMode_arb _ _ _
  · rfl

/-- The next order number is issued: exactly one above the last (R39); the Plots it may demote leave the arbiter alone. -/
theorem issueOrder_next {m : Nat} {v : State} (h : issueOrder s = some (m, v)) :
    m = s.arb.ordNext ∧ v.arb.ordNext = s.arb.ordNext + 1 := by
  unfold issueOrder at h
  split at h
  · cases h
  · dsimp only at h
    split at h <;> cases h
    · exact ⟨rfl, congrArg ArbState.ordNext (demotePlots_arb _ _)⟩
    · exact ⟨rfl, rfl⟩

/-- A command in its grant finds the state it arrived in: of what R53 and R290 ask, only the order-number end stands in the
arbiter, and no draw moves it. -/
theorem grantRefusal_drawn {id k : Nat} {u : State} {g : Grant} (h : ScsiClear s t.key tr) (hk : t.kind = .read ∨ t.kind = .write)
    (hw : MayWrite s t) (hd : drawTicket (dropSense s t.key) k = some (id, u)) : (noteGrant u g).grantRefusal t = none := by
  obtain ⟨-, -, hsanitize, hdark⟩ := h
  obtain ⟨a, rfl, -, hend⟩ := drawTicket_eq hd
  refine grantRefusal_none hsanitize hdark hk fun hwrite => ?_
  have hmay := hw hwrite
  simp only [State.protects] at hmay ⊢
  rwa [show (noteGrant { dropSense s t.key with arb := a } g).arb.ordEnd = s.arb.ordEnd from hend]

/-- A drawn ticket and its grant change the arbiter alone, and issue no number. -/
theorem granted_facts {id k : Nat} {u : State} (hd : drawTicket (dropSense s key) k = some (id, u)) (g : Grant) :
    (noteGrant u g).asFua = s.asFua ∧ (∀ n, (noteGrant u g).fieldOf n = s.fieldOf n) ∧
      (noteGrant u g).arb.ordNext = s.arb.ordNext := by
  obtain ⟨a, rfl, hnext, -⟩ := drawTicket_eq hd
  exact ⟨rfl, fun _ => rfl, hnext⟩

/-- A READ that draws a ticket. -/
theorem startTask_read {f id : Nat} {u : State} (h : ScsiClear s t.key tr) (hk : t.kind = .read)
    (hf : s.fieldOf t.key.plot = some f) (hd : drawTicket (dropSense s t.key) t.key.origin.cls = some (id, u)) :
    let r := { t with ticket := some id, held := false, durable := s.asFua, horizon := some (s.arb.ordNext - 1) }
    startTask (dropSense s t.key) t =
      startRead (tellMember ((noteGrant u (t.grant u id)).modTasks fun ts => ts ++ [r]) r (s.arb.ordNext - 1)) r := by
  have hrefusal := grantRefusal_drawn (g := t.grant u id) h (.inl hk) (fun hw => by simp [hk] at hw) hd
  obtain ⟨hfua, hfield, hnext⟩ := granted_facts hd (t.grant u id)
  rw [startTask_drawn hd, beginTask_read (t := { t with ticket := some id }) hk ((hfield _).trans hf) hrefusal, hfua, State.horizon, hnext]

/-- A WRITE that draws a ticket and an order number. -/
theorem startTask_write {f id m : Nat} {u v : State} (h : ScsiClear s t.key tr) (hk : t.kind = .write) (hw : MayWrite s t)
    (hf : s.fieldOf t.key.plot = some f) (hd : drawTicket (dropSense s t.key) t.key.origin.cls = some (id, u))
    (hm : issueOrder (noteGrant u (t.grant u id)) = some (m, v)) :
    let r := { t with ticket := some id, held := false, durable := s.asFua, order := some m, since := (v.field f).rseqNext }
    m = s.arb.ordNext ∧ v.arb.ordNext = s.arb.ordNext + 1 ∧
    (v.noSpace f r = false → startTask (dropSense s t.key) t = tellMember (v.modTasks fun ts => ts ++ [r]) r m) ∧
    (v.noSpace f r = true → startTask (dropSense s t.key) t = replyScsi (releaseTicket v id) t.key (dataProtect 0x07) []) := by
  have hrefusal := grantRefusal_drawn (g := t.grant u id) h (.inr hk) hw hd
  obtain ⟨hnumber, hafter⟩ := issueOrder_next hm
  obtain ⟨hfua, hfield, hnext⟩ := granted_facts hd (t.grant u id)
  refine ⟨hnumber.trans hnext, hafter.trans (congrArg (· + 1) hnext), ?_⟩
  rw [startTask_drawn hd, beginTask_write (t := { t with ticket := some id }) hk ((hfield _).trans hf) hrefusal hm, writeGranted, hfua]
  exact ⟨fun hspace => if_neg (by simp [hspace]), fun hspace => if_pos hspace⟩

/-! ### No ticket (R53, R54) -/

/-- The count of requests that found no ticket, and the grant's end, in the state a command finds. -/
def turnAway (s : State) (i : Nat) (e : GrantEnd) : State := noteGrant s ⟨i, none, none, none, e⟩

theorem startTask_uas {p : Port} {attr : TaskAttribute} {n : Nat} (ho : t.key.origin = .port p) (ht : t.tr = some (.uas attr n))
    (hd : drawTicket s t.key.origin.cls = none) (hl : s.arb.lockstep = false) :
    startTask s t = sendScsi (turnAway (countTsf s p.index) p.index .taskSetFull) t.key .taskSetFull [] := by
  rw [startTask_noTicket hd hl]
  cases p <;> simp [noTicket, Task.noTicketEnd, ho, ht, turnAway, Origin.cls, Port.index]

theorem startTask_bot {p : Port} (ho : t.key.origin = .port p) (ht : t.tr = some .bot)
    (hd : drawTicket s t.key.origin.cls = none) (hl : s.arb.lockstep = false) :
    startTask s t = (turnAway (countTsf s p.index) p.index .held).modTasks fun ts => ts ++ [{ t with held := true }] := by
  rw [startTask_noTicket hd hl]
  cases p <;> simp [noTicket, Task.noTicketEnd, ho, ht, turnAway, Origin.cls, Port.index]

theorem startTask_ring {pos : Nat} (ho : t.key.origin = .ring pos)
    (hd : drawTicket s t.key.origin.cls = none) (hl : s.arb.lockstep = false) :
    startTask s t = ringSend (turnAway s 2 .ringBusy) 0x31 pos t.key.tag true (ioRspBytes .busy 0) := by
  rw [startTask_noTicket hd hl]
  simp [noTicket, Task.noTicketEnd, ho, turnAway, Origin.cls, countTsf]

end Grants

/-! ### Commands for the master's Plots (R599, R613) -/

/-- A frame put on the ring changes the ring's state alone. -/
theorem ringSend_eq (ty dest tag : Nat) (resp : Bool) (payload : List Byte) :
    ringSend s ty dest tag resp payload = { s with stk := (ringSend s ty dest tag resp payload).stk } := by
  simp only [ringSend]
  split_ifs <;> split <;> rfl

theorem ringRequest_eq (ty dest : Nat) (payload : List Byte) (second : Option (Nat × List Byte)) (why : ReqWhy) :
    (ringRequest s ty dest payload second why).1 = { s with stk := (ringRequest s ty dest payload second why).1.stk } := by
  unfold ringRequest
  split
  · rfl
  · cases second <;> rfl

theorem replyScsi_draws_nothing (st : ScsiStatus) (data : List Byte) :
    (replyScsi s key st data).arb = s.arb ∧ (replyScsi s key st data).fields = s.fields := by
  unfold replyScsi
  split
  · unfold sendScsi
    rw [sendIn_eq]
    exact ⟨rfl, rfl⟩
  · rw [ringSend_eq]
    exact ⟨rfl, rfl⟩

/-- A command forwarded to the master draws nothing here, nor does one that the lack of a path ends. -/
theorem forwardScsi_draws_nothing (cdb list : List Byte) (t : Task) :
    (forwardScsi s cdb list t).arb = s.arb ∧ (forwardScsi s cdb list t).fields = s.fields := by
  simp only [forwardScsi]
  split_ifs
  · rw [ringRequest_eq]
    exact ⟨rfl, rfl⟩
  · obtain ⟨harb, hfields⟩ := replyScsi_draws_nothing (s := (ringRequest s 0x30 0 _ none (.task t.key)).1) (key := t.key)
      (.check (senseOf 0xB 0x08 0x00)) []
    rw [harb, hfields, ringRequest_eq]
    exact ⟨rfl, rfl⟩

end Transfers

/-- The four commands are transfers; FUA is a field of a WRITE alone. -/
theorem isTransfer_of_command {c : Instr} {key : TaskKey} {tr : Transport} {fl : CdbFlags} {lba n : Nat} {kind : TaskKind} {cdb : List Byte}
    (h : (∃ a l, c = .read10 key tr a l fl ∧ kind = .read ∧ lba = a.toNat ∧ n = l.toNat ∧ cdb = cdb10 0x28 0 lba n) ∨
      (∃ a l, c = .read16 key tr a l fl ∧ kind = .read ∧ lba = a.toNat ∧ n = l.toNat ∧ cdb = cdb16 0x88 0 lba n) ∨
      (∃ a l, c = .write10 key tr a l fl ∧ kind = .write ∧ lba = a.toNat ∧ n = l.toNat ∧ cdb = cdb10 0x2A (bitOf fl.fua 3) lba n) ∨
      (∃ a l, c = .write16 key tr a l fl ∧ kind = .write ∧ lba = a.toNat ∧ n = l.toNat ∧ cdb = cdb16 0x8A (bitOf fl.fua 3) lba n)) :
    IsTransfer c (newTask key (some tr) kind lba n (kind == .write && fl.fua)) fl cdb := by
  obtain ⟨a, l, rfl, rfl, rfl, rfl, rfl⟩ | ⟨a, l, rfl, rfl, rfl, rfl, rfl⟩ | ⟨a, l, rfl, rfl, rfl, rfl, rfl⟩ |
    ⟨a, l, rfl, rfl, rfl, rfl, rfl⟩ := h
  · exact isTransfer_read10 a l fl
  · exact isTransfer_read16 a l fl
  · exact isTransfer_write10 a l fl
  · exact isTransfer_write16 a l fl

/-- Settles O29: each of the four commands is a transfer, and each clause one branch of its way to the grant. -/
theorem readsAndWritesAreGranted : Obligations.ReadsAndWritesAreGranted := by
  intro s c key tr fl lba n kind cdb hcmd hclear s1 task turnedAway
  have htask : IsTransfer c task fl cdb := isTransfer_of_command hcmd
  refine ⟨fun hbad => exec_transfer_badField htask hclear hbad, fun hflags hn hremote => ?_, fun hflags hn hhere => ?_⟩
  · have hpass : PassesFields s c task fl cdb := ⟨htask, hclear, hflags, hn⟩
    exact hpass.forwards hremote
  have hpass : PassesFields s c task fl cdb := ⟨htask, hclear, hflags, hn⟩
  refine ⟨fun hrange => hpass.beyond hhere hrange, fun hrange hzero => hpass.empty hhere hrange hzero, fun hrange hpos => ?_⟩
  have hasks : AsksArbiter s c task fl cdb := ⟨hpass, hhere, hrange, hpos⟩
  refine ⟨fun st hk hst => hasks.protected hk hst, fun hw => ?_⟩
  have hmay : MayWrite s task := hw
  have hexec := hasks.starts hmay
  refine ⟨fun f id u hk hf hd => ?_, fun f id u m v hk hf hd hm => ?_, fun hd hl => ⟨fun p attr len ho ht => ?_, fun p ho ht => ?_, fun pos ho => ?_⟩⟩
  · exact hexec.trans (congrArg Host.Outcome.next (startTask_read hclear hk hf hd))
  · obtain ⟨hnumber, hnext, hroom, hfull⟩ := startTask_write hclear hk hmay hf hd hm
    exact ⟨hnumber, hnext, fun hspace => hexec.trans (congrArg Host.Outcome.next (hroom hspace)),
      fun hspace => hexec.trans (congrArg Host.Outcome.next (hfull hspace))⟩
  · exact hexec.trans (congrArg Host.Outcome.next (startTask_uas ho (congrArg some ht) hd hl))
  · exact hexec.trans (congrArg Host.Outcome.next (startTask_bot ho (congrArg some ht) hd hl))
  · exact hexec.trans (congrArg Host.Outcome.next (startTask_ring ho hd hl))

/-- Settles O30: a WRITE of no block is a transfer that ends before the arbiter is asked. -/
theorem emptyWritesDrawNothing : Obligations.EmptyWritesDrawNothing := by
  intro s key tr fl c hcmd hclear hflags
  obtain ⟨lba, cdb, hpass, hrange⟩ : ∃ lba cdb, PassesFields s c (newTask key (some tr) .write lba 0 fl.fua) fl cdb ∧
      (isRemote key = false → lba ≤ s.capacityOf key.plot) := by
    obtain ⟨a, rfl, hrange⟩ | ⟨a, rfl, hrange⟩ := hcmd
    · exact ⟨_, _, ⟨isTransfer_write10 a 0 fl, hclear, hflags, Nat.zero_le _⟩, hrange⟩
    · exact ⟨_, _, ⟨isTransfer_write16 a 0 fl, hclear, hflags, Nat.zero_le _⟩, hrange⟩
  exact ⟨fun hhere => hpass.empty hhere (hrange hhere) rfl,
    fun hremote => ⟨_, hpass.forwards hremote, forwardScsi_draws_nothing _ _ _⟩⟩

end Sys2Proof.Machine
end

section
/-! What a fault brings about stays (R59, R60, R97, R110): scopes in force, faults that wait, NO_CIPHER, fenced engines with their
empty queues and echo counts outlast everything that entering a scope does. -/

namespace Sys2Proof.Machine

section Faults

variable {s t u : State}

/-! ### Steps that touch neither the Safelight state, nor the arbiter, nor an engine -/

/-- The parts of the state that the record of a fault and its scope stand in. -/
def faultPart (s : State) : SafState × ArbState × List CipherState := (s.saf, s.arb, s.engines)

@[simp] theorem faultPart_modPlot (n : Nat) (f : PlotState → PlotState) : faultPart (s.modPlot n f) = faultPart s := rfl
@[simp] theorem faultPart_modField (n : Nat) (f : FieldState → FieldState) : faultPart (s.modField n f) = faultPart s := rfl
@[simp] theorem faultPart_modChan (n : Nat) (f : ChanState → ChanState) : faultPart (s.modChan n f) = faultPart s := rfl
@[simp] theorem faultPart_modTasks (f : List Task → List Task) : faultPart (s.modTasks f) = faultPart s := rfl
@[simp] theorem faultPart_modGrn (f : GrnState → GrnState) : faultPart (s.modGrn f) = faultPart s := rfl
@[simp] theorem faultPart_modLay (f : LayState → LayState) : faultPart (s.modLay f) = faultPart s := rfl
@[simp] theorem faultPart_modStk (f : StkState → StkState) : faultPart (s.modStk f) = faultPart s := rfl
@[simp] theorem faultPart_modPort (p : Port) (f : PortState → PortState) : faultPart (s.modPort p f) = faultPart s := by
  cases p <;> rfl
@[simp] theorem faultPart_modPfn (p : Port) (f : PortFn → PortFn) : faultPart (s.modPfn p f) = faultPart s := by
  cases p <;> rfl

@[simp] theorem faultPart_queueEvents (kind inst d0 d1 : Nat) : faultPart (queueEvents s kind inst d0 d1) = faultPart s := by
  refine foldl_unchanged faultPart _ (fun u p => ?_) _ _
  unfold queueEvent
  split <;> simp

@[simp] theorem faultPart_wakeTriggers (bit : Nat) : faultPart (wakeTriggers s bit) = faultPart s := by
  refine foldl_unchanged faultPart _ (fun u p => ?_) _ _
  simp only [wakeTrigger]
  split <;> simp

@[simp] theorem faultPart_structWrite (n : Nat) : faultPart (structWrite s n) = faultPart s := faultPart_modGrn _

@[simp] theorem faultPart_setPlotMode (n : Nat) (m : PlotMode) (reason : Nat) :
    faultPart (setPlotMode s n m reason) = faultPart s := by
  simp only [setPlotMode]
  split <;> simp

@[simp] theorem faultPart_detachPlot (n : Nat) : faultPart (detachPlot s n) = faultPart s := by
  refine foldl_unchanged faultPart _ (fun u p => ?_) _ _
  split
  · rfl
  · rw [faultPart_modPort, dropCapsule, faultPart_modPfn]
    rfl

@[simp] theorem faultPart_ringSend (ty dest tag : Nat) (resp : Bool) (payload : List Byte) :
    faultPart (ringSend s ty dest tag resp payload) = faultPart s := by
  rw [ringSend_eq]; rfl

@[simp] theorem faultPart_ringRequest (ty dest : Nat) (payload : List Byte) (second : Option (Nat × List Byte)) (why : ReqWhy) :
    faultPart (ringRequest s ty dest payload second why).1 = faultPart s := by
  rw [ringRequest_eq]; rfl

@[simp] theorem faultPart_ringBroadcast (ty tag : Nat) (payload : List Byte) :
    faultPart (ringBroadcast s ty tag payload) = faultPart s := by
  simp only [ringBroadcast]
  split_ifs <;> rfl

@[simp] theorem faultPart_clearMembers (n : Nat) : faultPart (clearMembers s n) = faultPart s := by
  unfold clearMembers
  split
  · exact foldl_unchanged faultPart _ (fun _ _ => faultPart_ringRequest _ _ _ _ _) _ _
  · rfl

@[simp] theorem faultPart_answerVault (a : Asker) (opcode status detail : Nat) (payload : List Byte) :
    faultPart (answerVault s a opcode status detail payload) = faultPart s := by
  cases a <;> simp [answerVault, respond]

@[simp] theorem faultPart_stopChannel (c : Nat) : faultPart (stopChannel s c) = faultPart s := by
  have hsettle : ∀ v : State, faultPart (settleRecipe v c) = faultPart v := by
    intro v
    unfold settleRecipe
    split <;> simp
  simp only [stopChannel, hsettle]
  split <;> simp

@[simp] theorem faultPart_stopField (f : Nat) : faultPart (stopField s f) = faultPart s := by
  unfold stopField
  split
  · rfl
  · exact foldl_unchanged faultPart _ (fun _ _ => faultPart_stopChannel _) _ _

/-! ### What stands -/

/-- From one state to another every scope in force, every waiting fault, NO_CIPHER and every fence stays, no echo check is counted,
and a fenced engine without a block gets none. -/
structure FaultsStand (s t : State) : Prop where
  scopes : ∀ c ∈ s.saf.scopes, c ∈ t.saf.scopes
  deferred : ∀ d ∈ s.saf.deferred, d ∈ t.saf.deferred
  noCipher : s.arb.noCipher = true → t.arb.noCipher = true
  fenced : ∀ i, (s.engine i).fenced = true → (t.engine i).fenced = true
  echoFail : ∀ i, (t.engine i).echoFail = (s.engine i).echoFail
  idle : ∀ i, (s.engine i).fenced = true → (s.engine i).queue = [] → (t.engine i).queue = []
  engineCount : t.engines.length = s.engines.length

theorem FaultsStand.refl (s : State) : FaultsStand s s :=
  ⟨fun _ h => h, fun _ h => h, id, fun _ => id, fun _ => rfl, fun _ _ => id, rfl⟩

theorem FaultsStand.trans (h : FaultsStand s t) (k : FaultsStand t u) : FaultsStand s u where
  scopes c hc := k.scopes c (h.scopes c hc)
  deferred d hd := k.deferred d (h.deferred d hd)
  noCipher hn := k.noCipher (h.noCipher hn)
  fenced i hi := k.fenced i (h.fenced i hi)
  echoFail i := (k.echoFail i).trans (h.echoFail i)
  idle i hi hq := k.idle i (h.fenced i hi) (h.idle i hi hq)
  engineCount := k.engineCount.trans h.engineCount

theorem FaultsStand.of_part (h : faultPart t = faultPart s) : FaultsStand s t := by
  obtain ⟨hsaf, harb, hengines⟩ : t.saf = s.saf ∧ t.arb = s.arb ∧ t.engines = s.engines := by simpa [faultPart] using h
  constructor <;> simp +contextual [hsaf, harb, hengines, State.engine]

theorem FaultsStand.foldl {α : Type} {step : State → α → State} (h : ∀ s x, FaultsStand s (step s x)) (l : List α) (s : State) :
    FaultsStand s (l.foldl step s) :=
  List.foldlRecOn l step (motive := fun t => FaultsStand s t) (.refl s) fun _ ht x _ => ht.trans (h _ x)

/-- An arbiter that keeps NO_CIPHER. -/
theorem FaultsStand.of_arb {a : ArbState} (h : a.noCipher = s.arb.noCipher) : FaultsStand s { s with arb := a } :=
  ⟨fun _ h => h, fun _ h => h, h.trans, fun _ => id, fun _ => rfl, fun _ _ => id, rfl⟩

/-- Engines changed one by one, in nothing but blocks taken from their queues, their keys and their strikes. -/
theorem FaultsStand.mapEngines (g : CipherState → CipherState) (hengines : t.engines = s.engines.map g) (hsaf : t.saf = s.saf)
    (harb : t.arb = s.arb)
    (h : ∀ e, (g e).fenced = e.fenced ∧ (g e).echoFail = e.echoFail ∧ (e.queue = [] → (g e).queue = [])) : FaultsStand s t := by
  have hengine : ∀ i, t.engine i = g (s.engine i) ∨ t.engine i = s.engine i := by
    intro i
    by_cases hi : i < s.engines.length
    · exact .inl (by simp [State.engine, List.getD, hengines, hi])
    · exact .inr (by simp [State.engine, List.getD, hengines, hi])
  refine ⟨fun _ h => hsaf ▸ h, fun _ h => hsaf ▸ h, fun h => harb ▸ h, fun i hf => ?_, fun i => ?_, fun i hf hq => ?_,
    by simp [hengines]⟩
  all_goals
    obtain ⟨hfenced, hecho, hqueue⟩ := h (s.engine i)
    obtain he | he := hengine i <;> rw [he]
  · exact hfenced.trans hf
  · exact hf
  · exact hecho
  · exact hqueue hq
  · exact hq

theorem modEngine_engine_cases (i k : Nat) (g : CipherState → CipherState) :
    (s.modEngine i g).engine k = s.engine k ∨ (k = i ∧ (s.modEngine i g).engine k = g (s.engine k)) := by
  by_cases hk : i = k
  · subst hk
    by_cases hi : i < s.engines.length
    · exact .inr ⟨rfl, State.modEngine_engine _ _ _ hi⟩
    · exact .inl (by simp [State.engine, State.modEngine, List.getD, hi])
  · exact .inl (State.modEngine_engine_ne _ _ _ _ hk)

/-- One engine changed; a block is given to none that is fenced. -/
theorem FaultsStand.modEngine (i : Nat) (g : CipherState → CipherState)
    (hf : (s.engine i).fenced = true → (g (s.engine i)).fenced = true) (he : (g (s.engine i)).echoFail = (s.engine i).echoFail)
    (hq : (s.engine i).fenced = true → (s.engine i).queue = [] → (g (s.engine i)).queue = []) :
    FaultsStand s (s.modEngine i g) := by
  refine ⟨fun _ h => h, fun _ h => h, id, fun k hk => ?_, fun k => ?_, fun k hk hkq => ?_, List.length_modify _ _ _⟩
  all_goals obtain h | ⟨rfl, h⟩ := modEngine_engine_cases (s := s) i k g <;> rw [h]
  · exact hk
  · exact hf hk
  · exact he
  · exact hkq
  · exact hq hk hkq

/-! ### Keys, commands and Plots -/

theorem clearKeys_stands (plots : List Nat) : FaultsStand s (clearKeys s plots) := by
  dsimp only [clearKeys]
  refine .trans ?_ (.foldl (fun v n => ?_) plots _)
  · refine .mapEngines _ rfl rfl rfl fun e => ?_
    split <;> simp
  · exact .of_part (faultPart_modPlot n _)

theorem abortTasks_stands (sel : Task → Bool) : FaultsStand s (abortTasks s sel) :=
  .mapEngines _ rfl rfl rfl fun e => ⟨rfl, rfl, fun h => by simp [h]⟩

theorem dropRekey_stands (n : Nat) : FaultsStand s (dropRekey s n) :=
  .mapEngines _ rfl rfl rfl fun e => ⟨rfl, rfl, fun h => by simp [h]⟩

theorem settleTasks_stands : FaultsStand s (settleTasks s) := by
  refine .trans (.of_part ?_) (.foldl (fun v x => ?_) _ _)
  · rfl
  · split
    · exact .of_arb rfl
    · exact .refl v

theorem closePlot_stands (n : Nat) (m : PlotMode) (reason : Nat) : FaultsStand s (closePlot s n m reason) :=
  abortTasks_stands (taskOfPlot n) |>.trans (dropRekey_stands n) |>.trans (clearKeys_stands [n])
    |>.trans (.of_part (by simp)) |>.trans settleTasks_stands

theorem darkenPlots_stands (plots : List Nat) : FaultsStand s (darkenPlots s plots) := by
  refine .foldl (fun v n => ?_) _ _
  split
  · exact clearKeys_stands [n]
  · refine .trans (.of_part ?_) (closePlot_stands n .safelight 1)
    exact foldl_unchanged faultPart _ (fun _ _ => faultPart_answerVault _ _ _ _ _) _ _

theorem dropRemote_stands : FaultsStand s (dropRemote s) := by
  dsimp only [dropRemote]
  refine .trans (.trans ?_ (abortTasks_stands _)) (.trans (.foldl (fun v n => ?_) (List.range 64) _) settleTasks_stands)
  · exact .of_part rfl
  · exact .of_part (faultPart_detachPlot _)

/-! ### Records, engines and scopes -/

theorem writeLog_stands (r : LogRec) : FaultsStand s (writeLog s r) := by
  have hlog : ∀ l n, FaultsStand s { s with saf := { s.saf with log := l, logHead := n } } :=
    fun _ _ => ⟨fun _ h => h, fun _ h => h, id, fun _ => id, fun _ => rfl, fun _ _ => id, rfl⟩
  let numbered : LogRec := { r with seq := s.saf.logHead + 1, time := s.timeUs, frame := s.lastFrame }
  refine (hlog ((numbered :: s.saf.log).take 256) (s.saf.logHead + 1)).trans (.of_part ?_)
  dsimp only [writeLog]
  split_ifs <;> simp <;> rfl

theorem logFault_stands (cause scope inst : Nat) (latch wider : Bool) (strikes island requester : Nat) (d0 d1 : Word) :
    FaultsStand s (logFault s cause scope inst latch wider strikes island requester d0 d1) := by
  simp only [logFault]
  split
  · exact ⟨fun _ h => h, fun _ h => List.mem_append_left _ h, id, fun _ => id, fun _ => rfl, fun _ _ => id, rfl⟩
  · exact writeLog_stands _

/-! ### The engine that takes a block (R57, R58) -/

/-- One round of the choice of R57. -/
def chooseStep (s : State) (best : Option Nat) (i : Nat) : Option Nat :=
  let e := s.engine i
  if e.available && decide (e.queue.length < 8) then
    match best with
    | none => some i
    | some b => if e.queue.length < (s.engine b).queue.length then some i else best
  else best

/-- The engines in the order of the choice, the pointer's first. -/
def chooseOrder (s : State) : List Nat := (List.range s.engines.length).map fun k => (s.arb.dispPtr + k) % s.engines.length

theorem chooseEngine_eq : chooseEngine s = (chooseOrder s).foldl (chooseStep s) none := rfl

theorem mem_chooseOrder {k : Nat} : k ∈ chooseOrder s ↔ k < s.engines.length := by
  simp only [chooseOrder, List.mem_map, List.mem_range]
  generalize s.engines.length = n
  generalize s.arb.dispPtr = p
  constructor
  · rintro ⟨j, hj, rfl⟩
    exact Nat.mod_lt _ (by omega)
  · intro hk
    have hp : p + (k + (n - p % n)) = k + n * (p / n + 1) := by
      have := Nat.div_add_mod p n
      have := Nat.mod_lt p (show 0 < n by omega)
      rw [Nat.mul_add]
      omega
    exact ⟨(k + (n - p % n)) % n, Nat.mod_lt _ (by omega), by rw [Nat.add_mod_mod, hp, Nat.add_mul_mod_self_left, Nat.mod_eq_of_lt hk]⟩

/-- Among the engines seen, the best is an available one with room and the fewest blocks; with none, all are full. -/
structure BestOf (s : State) (best : Option Nat) (seen : List Nat) : Prop where
  isSeen : ∀ i, best = some i → i ∈ seen ∧ (s.engine i).available = true ∧ (s.engine i).queue.length < 8
  least : ∀ i, best = some i → ∀ k ∈ seen, (s.engine k).available = true → (s.engine i).queue.length ≤ (s.engine k).queue.length
  full : best = none → ∀ k ∈ seen, (s.engine k).available = true → 8 ≤ (s.engine k).queue.length

theorem BestOf.step {best : Option Nat} {seen : List Nat} (h : BestOf s best seen) (k : Nat) :
    BestOf s (chooseStep s best k) (seen ++ [k]) := by
  obtain ⟨hseen, hleast, hfull⟩ := h
  unfold chooseStep
  cases best with
  | none => constructor <;> grind
  | some b =>
    have := hseen b rfl
    have := hleast b rfl
    constructor <;> grind

theorem BestOf.foldl {best : Option Nat} {seen : List Nat} (h : BestOf s best seen) (l : List Nat) :
    BestOf s (l.foldl (chooseStep s) best) (seen ++ l) := by
  induction l generalizing best seen with
  | nil => simpa using h
  | cons k l ih => simpa using ih (h.step k)

/-- The engine R57 chooses. -/
structure Chosen (s : State) (i : Nat) : Prop where
  inRange : i < s.engines.length
  available : (s.engine i).available = true
  room : (s.engine i).queue.length < 8
  least : ∀ k, k < s.engines.length → (s.engine k).available = true → (s.engine i).queue.length ≤ (s.engine k).queue.length

theorem chooseEngine_chosen {i : Nat} (h : chooseEngine s = some i) : Chosen s i := by
  have hbest : BestOf s (chooseEngine s) ([] ++ chooseOrder s) := BestOf.foldl ⟨by simp, by simp, by simp⟩ _
  obtain ⟨hi, havailable, hroom⟩ := hbest.isSeen i h
  exact ⟨mem_chooseOrder.mp hi, havailable, hroom, fun k hk => hbest.least i h k (mem_chooseOrder.mpr hk)⟩

theorem not_available_of_fenced {e : CipherState} (h : e.fenced = true) : e.available = false := by
  simp [CipherState.available, h]

theorem dispatchJob_stands (j : BlockJob) : FaultsStand s (dispatchJob s j).1 := by
  unfold dispatchJob
  split
  · exact .refl s
  case h_2 i hi =>
    have hopen : (s.engine i).fenced = false := by
      by_contra hf
      simpa [not_available_of_fenced (by simpa using hf)] using (chooseEngine_chosen hi).available
    refine .trans (.modEngine i _ ?_ ?_ ?_) (.of_arb ?_) <;> simp [hopen]

theorem redispatch_stands (j : BlockJob) : FaultsStand s (redispatch s j) := by
  simp only [redispatch]
  split
  · exact dispatchJob_stands j
  · exact .of_part rfl

theorem clearEngines_stands : FaultsStand s { s with engines := s.engines.map clearEngine } := by
  refine .mapEngines clearEngine rfl rfl rfl fun e => ?_
  unfold clearEngine
  split <;> simp

/-- Engine scope gives a fenced engine's blocks to the others; device and stack scope take keys, commands and channels out of
service (Table SAF-5). -/
theorem applyScope_stands {code inst : Nat} (latch : Bool) (hcode : code = 1 ∨ code = 6 ∨ code = 7) :
    FaultsStand s (applyScope s code inst latch) := by
  have hremote : FaultsStand s (dropRemote s) := dropRemote_stands
  unfold applyScope
  -- stack scope looks at what `dropRemote` leaves, which must not be computed: it runs through the master's 64 Plots
  generalize dropRemote s = v at hremote
  split
  case h_1 => exact .trans (.modEngine inst _ (fun _ => rfl) rfl (fun _ _ => rfl)) (.foldl (fun _ j => redispatch_stands j) _ _)
  case h_6 =>
    refine .trans ?_ (.foldl (fun w c => .of_part (faultPart_stopChannel c)) _ _)
    refine .trans ?_ dropRemote_stands
    exact (darkenPlots_stands s.plotList).trans clearEngines_stands
  case h_7 =>
    refine hremote.trans ?_
    dsimp only
    split
    · refine .foldl (fun w c => ?_) _ _
      exact (darkenPlots_stands _).trans (.of_part (faultPart_stopField _))
    · exact .refl _
  all_goals simp_all

/-- After engine scope its engine is fenced and holds no block. -/
theorem applyScope_fences {i : Nat} (latch : Bool) (hi : i < s.engines.length) :
    ((applyScope s 1 i latch).engine i).fenced = true ∧ ((applyScope s 1 i latch).engine i).queue = [] := by
  have hfence : ∀ g : CipherState → CipherState, (∀ e, (g e).fenced = true ∧ (g e).queue = []) →
      ∀ l : List BlockJob, ((l.foldl redispatch (s.modEngine i g)).engine i).fenced = true ∧
        ((l.foldl redispatch (s.modEngine i g)).engine i).queue = [] := by
    intro g hg l
    obtain ⟨hfenced, hqueue⟩ := hg (s.engine i)
    have hstand : FaultsStand (s.modEngine i g) (l.foldl redispatch (s.modEngine i g)) :=
      .foldl (fun _ j => redispatch_stands j) l _
    have hengine := State.modEngine_engine s i g hi
    exact ⟨hstand.fenced i (by rw [hengine, hfenced]), hstand.idle i (by rw [hengine, hfenced]) (by rw [hengine, hqueue])⟩
  exact hfence _ (fun e => ⟨rfl, rfl⟩) _

/-- A scope joins those in force. -/
theorem FaultsStand.addScope {q : SafState} (hs : ∃ l, q.scopes = s.saf.scopes ++ l) (hd : q.deferred = s.saf.deferred) :
    FaultsStand s { s with saf := q } := by
  obtain ⟨l, hl⟩ := hs
  exact ⟨fun c h => by rw [hl]; exact List.mem_append_left l h, fun d h => by rw [hd]; exact h, id, fun _ => id, fun _ => rfl,
    fun _ _ => id, rfl⟩

theorem addStackScope_stands (cause island : Nat) (latch : Bool) (d0 d1 : Word) :
    FaultsStand s (addStackScope s cause latch island d0 d1) := by
  have hscope : ∀ c, FaultsStand s (s.modSaf fun q => { q with scopes := q.scopes ++ [c] }) := fun c => .addScope ⟨[c], rfl⟩ rfl
  dsimp only [addStackScope]
  split
  · exact (hscope _).trans (logFault_stands _ _ _ _ _ _ _ _ _ _)
  · exact (hscope _).trans ((logFault_stands _ _ _ _ _ _ _ _ _ _).trans (applyScope_stands latch (.inr (.inr rfl))))

theorem tellRing_stands (code cause island : Nat) (latch : Bool) (d0 d1 : Word) :
    FaultsStand s (tellRing s code cause latch island d0 d1) := by
  unfold tellRing
  split
  · exact (FaultsStand.of_part (faultPart_ringBroadcast _ _ _)).trans (addStackScope_stands _ _ _ _ _)
  · exact .refl s

/-! ### A scope entered for a cause (R97, R110, R116) -/

theorem addStrike_stands (code inst : Nat) : FaultsStand s (addStrike s code inst) := by
  unfold addStrike
  split_ifs
  · exact .modEngine inst _ id rfl fun _ => id
  · exact .of_part (faultPart_modChan _ _)
  · exact .refl s

section Scope

variable {cause code inst island requester : Nat} {latch : Bool} {d0 d1 : Word} {who : Option (Nat × Nat)}

/-- The number of the part a scope is in force for: 0 where it is the whole device. -/
def scopeKey (code inst : Nat) : Nat := if code = 6 ∨ code = 7 then 0 else inst

/-- While a RECOVER is pending the fault waits for it. -/
theorem enterOneScope_pending (h : s.saf.recPending.isSome = true) :
    enterOneScope s cause code inst latch island requester d0 d1 who =
      deferFault s ⟨0, cause, code, latch, false, false, 0, 0, island, requester, inst, d0, d1, 0⟩ true who := by
  simp [enterOneScope, h]

/-- With no RECOVER pending: the scope joins those in force at `u`, takes its effect at `v` when it was not in force, and what
follows (the word to the ring, the strike limit) leaves all that standing. -/
theorem enterOneScope_entered (h : s.saf.recPending = none) (hcode : code = 1 ∨ code = 6) :
    ∃ u v, FaultsStand s u ∧
      (∃ c ∈ u.saf.scopes, c.code = code ∧ c.inst = scopeKey code inst ∧ c.cause = cause ∧ c.latch = latch) ∧
      (s.inScope code (scopeKey code inst) = false → v = applyScope u code (scopeKey code inst) latch) ∧ FaultsStand u v ∧
      FaultsStand v (enterOneScope s cause code inst latch island requester d0 d1 who) := by
  dsimp only [enterOneScope]
  rw [if_neg (by simp [h])]
  simp only [← scopeKey.eq_1]
  generalize hstruck : (if (code = 1 ∨ code = 2) ∧ (!s.inScope code (scopeKey code inst)) = true then addStrike s code inst else s) = s0
  generalize (if (code = 1 ∨ code = 2) ∧ (!s.inScope code (scopeKey code inst)) = true then strikesAfter s code inst else 0) = strikes
  generalize hu : logFault _ cause code _ latch _ _ island requester d0 d1 = u
  have hs0 : FaultsStand s s0 := by
    rw [← hstruck]
    split
    · exact addStrike_stands code inst
    · exact .refl s
  generalize hw : (if s.inScope code (scopeKey code inst) = true then u
    else tellRing (applyScope u code (scopeKey code inst) latch) code cause latch island d0 d1) = w
  refine ⟨u, if s.inScope code (scopeKey code inst) then u else applyScope u code (scopeKey code inst) latch, ?_,
    ⟨⟨code, scopeKey code inst, cause, latch, s.widerThan code inst, island, who⟩, ?_, rfl, rfl, rfl, rfl⟩, ?_, ?_, ?_⟩
  · rw [← hu]
    refine .trans (hs0.trans ?_) (logFault_stands _ _ _ _ _ _ _ _ _ _)
    exact .addScope ⟨[_], rfl⟩ rfl
  · rw [← hu]
    exact (logFault_stands _ _ _ _ _ _ _ _ _ _).scopes _ (List.mem_append_right _ (List.mem_singleton.mpr rfl))
  · intro hnew
    simp [hnew]
  · split
    · exact .refl u
    · exact applyScope_stands latch (hcode.imp_right .inl)
  · refine .trans (t := w) ?_ ?_
    · rw [← hw]
      split
      · exact .refl u
      · exact tellRing_stands _ _ _ _ _ _
    · split
      · refine .trans ?_ (logFault_stands _ _ _ _ _ _ _ _ _ _)
        split
        · refine .trans ?_ (.modEngine inst _ id rfl fun _ => id)
          exact .addScope ⟨[_], rfl⟩ rfl
        · refine .trans ?_ (.of_part (faultPart_modChan _ _))
          exact .addScope ⟨[_], rfl⟩ rfl
      · exact .refl w

theorem enterOneScope_stands (hcode : code = 1 ∨ code = 6) :
    FaultsStand s (enterOneScope s cause code inst latch island requester d0 d1 who) := by
  cases h : s.saf.recPending with
  | none =>
    obtain ⟨u, v, hu, -, -, hv, hafter⟩ := enterOneScope_entered (s := s) h hcode
    exact hu.trans (hv.trans hafter)
  | some r =>
    rw [enterOneScope_pending (by simp [h])]
    exact ⟨fun _ h => h, fun _ h => List.mem_append_left _ h, id, fun _ => id, fun _ => rfl, fun _ _ => id, rfl⟩

theorem enterOneScope_faulted (hcode : code = 1 ∨ code = 6) :
    Faulted s (enterOneScope s cause code inst latch island requester d0 d1 who) cause code (scopeKey code inst) latch := by
  refine ⟨fun h => ?_, fun h => ?_⟩
  · obtain ⟨u, v, -, ⟨c, hc, hsame⟩, -, hv, hafter⟩ := enterOneScope_entered (s := s) h hcode
    exact ⟨c, hafter.scopes c (hv.scopes c hc), hsame⟩
  · rw [enterOneScope_pending (Option.isSome_iff_ne_none.mpr h)]
    exact ⟨_, List.mem_append_right _ (List.mem_singleton.mpr rfl), rfl, rfl, rfl⟩

/-- Engine scope that was not in force fences its engine and empties its queue (R59). -/
theorem enterOneScope_fences (h : s.saf.recPending = none) (hnew : s.inScope 1 inst = false) (hi : inst < s.engines.length) :
    ((enterOneScope s cause 1 inst latch island requester d0 d1 who).engine inst).fenced = true ∧
      ((enterOneScope s cause 1 inst latch island requester d0 d1 who).engine inst).queue = [] := by
  obtain ⟨u, v, hu, -, hv, -, hafter⟩ := enterOneScope_entered (s := s) h (.inl rfl)
  obtain rfl := hv hnew
  obtain ⟨hfenced, hqueue⟩ := applyScope_fences (s := u) latch (hu.engineCount.symm ▸ hi)
  exact ⟨hafter.fenced inst hfenced, hafter.idle inst hfenced hqueue⟩

theorem noCipher_stands : FaultsStand s (noCipher s) := by
  unfold noCipher
  split
  · exact .refl s
  · refine .trans ?_ (enterOneScope_stands (.inr rfl))
    exact ⟨fun _ h => h, fun _ h => h, fun _ => rfl, fun _ => id, fun _ => rfl, fun _ _ => id, rfl⟩

/-- With no engine left NO_CIPHER is set and device scope follows (R60). -/
theorem noCipher_faulted (h : s.arb.noCipher = false) :
    (noCipher s).arb.noCipher = true ∧ Faulted s (noCipher s) 0x0032 6 0 false := by
  let told := s.modArb fun a => { a with noCipher := true }
  have henter : noCipher s = enterOneScope told 0x0032 6 0 false 0xFF 0xFF 0 0 := by
    simp [noCipher, h, latchingCause, told]
  have hstands : FaultsStand told (enterOneScope told 0x0032 6 0 false 0xFF 0xFF 0 0) := enterOneScope_stands (.inr rfl)
  have hfault : Faulted told (enterOneScope told 0x0032 6 0 false 0xFF 0xFF 0 0) 0x0032 6 0 false := enterOneScope_faulted (.inr rfl)
  rw [henter]
  exact ⟨hstands.noCipher rfl, hfault⟩

/-- The scope's blocks may find no engine left, which leaves all that stands standing. -/
theorem enterScope_after : FaultsStand (enterOneScope s cause code inst latch island requester d0 d1 who)
    (enterScope s cause code inst latch island requester d0 d1 who) := by
  simp only [enterScope]
  split
  · exact noCipher_stands
  · exact .refl _

end Scope

theorem Faulted.mono {cause code inst : Nat} {latch : Bool} (h : Faulted s t cause code inst latch) (k : FaultsStand t u) :
    Faulted s u cause code inst latch := by
  obtain ⟨hnow, hlater⟩ := h
  refine ⟨fun hr => ?_, fun hr => ?_⟩
  · obtain ⟨c, hc, hsame⟩ := hnow hr
    exact ⟨c, k.scopes c hc, hsame⟩
  · obtain ⟨d, hd, hsame⟩ := hlater hr
    exact ⟨d, k.deferred d hd, hsame⟩

/-! ### The fault of a cipher engine (R59, Table GLB-10) -/

section EngineFault

variable {cause i requester : Nat} {d0 d1 : Word}

theorem engineFault_stands : FaultsStand s (engineFault s cause i requester d0 d1) := by
  unfold engineFault
  split
  · exact (enterOneScope_stands (.inr rfl)).trans enterScope_after
  · exact (enterOneScope_stands (.inl rfl)).trans enterScope_after

/-- On the Z1 device scope follows. -/
theorem engineFault_faulted_z1 (h : s.member = .z1) : Faulted s (engineFault s cause i requester d0 d1) cause 6 0 false := by
  rw [engineFault, if_pos h]
  exact (enterOneScope_faulted (.inr rfl)).mono enterScope_after

/-- On the other members engine scope follows. -/
theorem engineFault_faulted (h : s.member ≠ .z1) : Faulted s (engineFault s cause i requester d0 d1) cause 1 i false := by
  rw [engineFault, if_neg h]
  exact (enterOneScope_faulted (.inl rfl)).mono enterScope_after

theorem engineFault_fences (h : s.member ≠ .z1) (hrec : s.saf.recPending = none) (hnew : s.inScope 1 i = false)
    (hi : i < s.engines.length) : ((engineFault s cause i requester d0 d1).engine i).fenced = true ∧
      ((engineFault s cause i requester d0 d1).engine i).queue = [] := by
  rw [engineFault, if_neg h]
  have hafter : FaultsStand (enterOneScope s cause 1 i false (s.member.cipherIsland i) requester d0 d1)
    (enterScope s cause 1 i false (s.member.cipherIsland i) requester d0 d1) := enterScope_after
  obtain ⟨hfenced, hqueue⟩ := enterOneScope_fences (cause := cause) (latch := false) (island := s.member.cipherIsland i)
    (requester := requester) (d0 := d0) (d1 := d1) (who := none) hrec hnew hi
  exact ⟨hafter.fenced i hfenced, hafter.idle i hfenced hqueue⟩

end EngineFault

end Faults

end Sys2Proof.Machine
end

section
/-! Blocks through the cipher engines (R19, R21, R24, R57 to R60, R70): how a block is handed to an engine; O19. -/

namespace Sys2Proof.Machine

section Blocks

variable {s : State} {key : TaskKey} {t : Task}

/-! ### The command of a block -/

theorem task?_facts (h : s.task? key = some t) : t.key = key ∧ t.statusDue = true := by
  have := List.find?_some h
  simpa using this

/-- The command in flight after a change that leaves its key and that its status is due. -/
theorem task?_setTask {f : Task → Task} (h : s.task? key = some t) (hf : ∀ x, x.key = key → x.statusDue = true →
    (f x).key = key ∧ (f x).statusDue = true) : (setTask s key f).task? key = some (f t) := by
  have hmatch : ((fun x : Task => x.key == key && x.statusDue) ∘ fun x => if x.key == key && x.statusDue then f x else x) =
      fun x => x.key == key && x.statusDue := by
    funext x
    by_cases hx : x.key = key ∧ x.statusDue = true
    · simp [hx, hf x hx.1 hx.2]
    · simp only [Function.comp, Bool.and_eq_true, beq_iff_eq, hx, if_false]
  obtain ⟨hkey, hdue⟩ := task?_facts h
  simp only [State.task?, setTask, State.modTasks_fn, List.find?_map, hmatch]
  rw [show s.fn.tasks.find? (fun x => x.key == key && x.statusDue) = some t from h]
  simp [hkey, hdue]

/-! ### A block is handed to an engine (R57, R58, R60) -/

theorem noneAvailable_of_available {e : CipherState} (he : e ∈ s.engines) (h : e.available = true) : noneAvailable s = false := by
  have : noEngine s = false := by
    rw [noEngine, List.all_eq_false]
    exact ⟨e, he, by simp [h]⟩
  simp [noneAvailable, this]

theorem noneAvailable_of_none (h : ∀ e ∈ s.engines, e.available = false) (hz : s.member ≠ .z1) : noneAvailable s = true := by
  have : noEngine s = true := by
    rw [noEngine, List.all_eq_true]
    exact fun e he => by simp [h e he]
  simp [noneAvailable, this, hz]

theorem engine_mem {i : Nat} (h : i < s.engines.length) : s.engine i ∈ s.engines := by
  simp [State.engine, List.getD, h]

/-- The chosen engine takes the block at the end of its queue; of the rest only the arbiter's pointer moves. -/
theorem dispatchJob_chosen {i : Nat} (h : chooseEngine s = some i) (j : BlockJob) :
    (dispatchJob s j).2 = true ∧ ((dispatchJob s j).1.engine i).queue = (s.engine i).queue ++ [j] ∧
      (∀ k, k ≠ i → (dispatchJob s j).1.engine k = s.engine k) ∧
      (dispatchJob s j).1 = { s with engines := (dispatchJob s j).1.engines, arb := (dispatchJob s j).1.arb } := by
  have hi := (chooseEngine_chosen h).inRange
  simp only [dispatchJob, h]
  refine ⟨trivial, ?_, fun k hk => ?_, rfl⟩
  · simp [State.modEngine_engine _ _ _ hi]
  · simp [State.modEngine_engine_ne _ _ _ _ (Ne.symm hk)]

theorem dispatchJob_full (h : chooseEngine s = none) (j : BlockJob) : dispatchJob s j = (s, false) := by
  simp [dispatchJob, h]

/-- What the dispatcher does with a block its command still needs. -/
def handOver (s : State) (t : Task) (dir : CipherDir) (job : BlockJob) : State :=
  if t.key.origin.isRing ∧ dir = .decrypt then forwardBlock s t job
  else if noneAvailable s then noCipher s
  else if (dispatchJob s job).2 then setTask (dispatchJob s job).1 t.key fun x => { x with received := job.idx :: x.received }
  else (dispatchJob s job).1

/-- A block that its command still needs. -/
structure Needed (s : State) (key : TaskKey) (idx : Nat) (t : Task) : Prop where
  inFlight : s.task? key = some t
  live : t.aborted = false
  granted : t.held = false
  inRange : idx < t.count
  new : idx ∉ t.received

section Received

variable {idx : Nat} {dir : CipherDir} {data : Block} {env : Envelope}

theorem exec_blockReceived_noTask (h : s.task? key = none) :
    exec (.blockReceived key idx dir data env) s = .next (offerRekeys s) := by
  show execBlockReceived key idx dir data env s = _
  simp [execBlockReceived, h]

theorem exec_blockReceived_unneeded (h : s.task? key = some t)
    (hn : t.aborted = true ∨ t.held = true ∨ t.count ≤ idx ∨ idx ∈ t.received) :
    exec (.blockReceived key idx dir data env) s = .next (offerRekeys s) := by
  have hno : t.aborted = true ∨ (!t.statusDue) = true ∨ t.held = true ∨ t.count ≤ idx ∨ t.received.contains idx = true := by
    simpa using hn.imp_right .inr
  show execBlockReceived key idx dir data env s = _
  simp only [execBlockReceived, h]
  rw [if_pos hno]

theorem Needed.passes (h : Needed s key idx t) :
    ¬ (t.aborted = true ∨ (!t.statusDue) = true ∨ t.held = true ∨ t.count ≤ idx ∨ t.received.contains idx = true) := by
  obtain ⟨ht, hlive, hgranted, hrange, hnew⟩ := h
  simp [hlive, hgranted, hrange, hnew, (task?_facts ht).2]

/-- A block of a WRITE or PUT, from endpoint memory. -/
theorem exec_blockReceived_encrypt {m : Nat} {block : Block} (h : Needed s key idx t) (hk : t.kind = .write ∨ t.kind = .put)
    (hm : t.order = some m) (hb : block = if t.kind = .put then slice t.value (4096 * idx) 4096 else data) :
    exec (.blockReceived key idx .encrypt data env) s = .next (offerRekeys (handOver s t .encrypt
      ⟨key, idx, .encrypt, .hostWrite, t.lba + idx, block, ⟨key.plot, t.lba + idx, m, 0, crc32c block⟩⟩)) := by
  obtain ⟨hkey, -⟩ := task?_facts h.inFlight
  show execBlockReceived key idx .encrypt data env s = _
  simp only [execBlockReceived, h.inFlight]
  rw [if_neg h.passes]
  simp [hk, hm, handOver, hkey, ← hb]

/-- A block of the master's Plot, which its lookup at the master has brought to a bank here. -/
theorem exec_blockReceived_wide (h : Needed s key idx t) (hwide : 64 ≤ key.plot) (hread : isReadTask t = true)
    (hacc : idx ∉ t.accepted) (hready : idx ∈ t.ready) :
    exec (.blockReceived key idx .decrypt data env) s =
      .next (offerRekeys (handOver s t .decrypt ⟨key, idx, .decrypt, .hostRead, t.lba + idx, data, env⟩)) := by
  obtain ⟨hkey, -⟩ := task?_facts h.inFlight
  show execBlockReceived key idx .decrypt data env s = _
  simp only [execBlockReceived, h.inFlight]
  rw [if_neg h.passes]
  simp [hwide, hread, hacc, hready, handOver, hkey]

/-- A block of a read whose page has been read. -/
theorem exec_blockReceived_page (h : Needed s key idx t) (hhere : key.plot < 64) (hread : isReadTask t = true)
    (hwanted : idx ∈ s.wanted t) (hacc : idx ∉ t.accepted) (hready : idx ∈ t.ready) (hasked : (idx, addrUnmapped) ∉ t.asked) :
    exec (.blockReceived key idx .decrypt data env) s =
      .next (offerRekeys (handOver s t .decrypt ⟨key, idx, .decrypt, .hostRead, t.lba + idx, data, env⟩)) := by
  obtain ⟨hkey, -⟩ := task?_facts h.inFlight
  show execBlockReceived key idx .decrypt data env s = _
  simp only [execBlockReceived, h.inFlight]
  rw [if_neg h.passes]
  simp [Nat.not_le.mpr hhere, hread, hwanted, hacc, hready, hasked, handOver, hkey]

/-- A block of a read that its lookup found latent. -/
theorem exec_blockReceived_latent {e : Entry} (h : Needed s key idx t) (hhere : key.plot < 64) (hread : isReadTask t = true)
    (hwanted : idx ∈ s.wanted t) (hacc : idx ∉ t.accepted) (hready : idx ∈ t.ready) (hasked : (idx, addrUnmapped) ∈ t.asked)
    (he : s.versionOf key.plot (t.lba + idx) (t.horizon.getD 0) = some e) :
    exec (.blockReceived key idx .decrypt data env) s = .next (offerRekeys (handOver s t .decrypt
      ⟨key, idx, .decrypt, .hostRead, t.lba + idx, e.blockAt (t.lba + idx),
        ⟨key.plot, t.lba + idx, e.order, e.stamp, crc32c (e.blockAt (t.lba + idx))⟩⟩)) := by
  obtain ⟨hkey, -⟩ := task?_facts h.inFlight
  show execBlockReceived key idx .decrypt data env s = _
  simp only [execBlockReceived, h.inFlight]
  rw [if_neg h.passes]
  simp [Nat.not_le.mpr hhere, hread, hwanted, hacc, hready, hasked, he, handOver, hkey]

end Received

/-! ### Where a block goes (R57, R58, R60, R613) -/

section HandedOver

variable {idx : Nat} {dir : CipherDir} {job : BlockJob}

theorem handOver_ring (hd : dir = .decrypt) (hr : t.key.origin.isRing = true) : handOver s t dir job = forwardBlock s t job := by
  simp [handOver, hd, hr]

/-- A block for this device's engines: it is to be encrypted, or no member's host asked for it. -/
def StaysHere (t : Task) (dir : CipherDir) : Prop := dir = .encrypt ∨ t.key.origin.isRing = false

theorem StaysHere.not_forwarded (h : StaysHere t dir) : ¬ (t.key.origin.isRing = true ∧ dir = .decrypt) := by
  obtain rfl | h := h <;> simp [*]

/-- The chosen engine takes the block, and the command has handed it in. -/
theorem handOver_chosen {i : Nat} (h : StaysHere t dir) (ht : s.task? t.key = some t) (hi : chooseEngine s = some i) :
    ((handOver s t dir job).engine i).queue = (s.engine i).queue ++ [job] ∧
      (∀ k, k ≠ i → (handOver s t dir job).engine k = s.engine k) ∧
      (∃ x, (handOver s t dir job).task? t.key = some x ∧ x.received = job.idx :: t.received) ∧
      { handOver s t dir job with engines := s.engines, arb := s.arb, fn := s.fn } = s := by
  have hchosen := chooseEngine_chosen hi
  obtain ⟨hok, hqueue, hothers, hframe⟩ := dispatchJob_chosen hi job
  have hover : handOver s t dir job = setTask (dispatchJob s job).1 t.key fun x => { x with received := job.idx :: x.received } := by
    rw [handOver, if_neg h.not_forwarded, noneAvailable_of_available (engine_mem hchosen.inRange) hchosen.available,
      if_neg Bool.false_ne_true, if_pos hok]
  have htask : (dispatchJob s job).1.task? t.key = some t := by
    have hfn : (dispatchJob s job).1.fn = s.fn := by rw [hframe]
    rw [State.task?, hfn]
    exact ht
  rw [hover]
  exact ⟨hqueue, hothers, ⟨_, task?_setTask htask fun x hk hd => ⟨hk, hd⟩, rfl⟩, by rw [hframe]; rfl⟩

/-- With every available engine's queue full the block waits. -/
theorem handOver_full {e : CipherState} (h : StaysHere t dir) (hi : chooseEngine s = none) (he : e ∈ s.engines)
    (ha : e.available = true) : handOver s t dir job = s := by
  rw [handOver, if_neg h.not_forwarded, noneAvailable_of_available he ha, if_neg Bool.false_ne_true, dispatchJob_full hi]
  rfl

/-- With no engine available R60 applies. -/
theorem handOver_none (h : StaysHere t dir) (hn : ∀ e ∈ s.engines, e.available = false) (hz : s.member ≠ .z1) :
    handOver s t dir job = noCipher s := by
  rw [handOver, if_neg h.not_forwarded, if_pos (noneAvailable_of_none hn hz)]

end HandedOver

end Blocks
end Sys2Proof.Machine
end

section
/-! What the echo check and the envelope of a block decide (R19, R21, R24, R59, R70, R298), and transfers that are not refused
(R17, R26, R557); O19. -/

namespace Sys2Proof.Machine

section Staging

variable {s : State} {key : TaskKey} {t : Task} {id : Identity}

/-! ### Transfers of the data path that are not refused (R17, R26, R557) -/

/-- The state with its banks and its count of free values blanked out: the rest, which a transfer that is not refused leaves
alone. -/
def besideBanks (s : State) : State := { s with free := 0, banks := [], bankMem := [], bankBad := [] }

theorem besideBanks_bankTransfer {lo bytes : Nat} {k : AccessKind} :
    (bankTransfer s id lo bytes k).2 = true → besideBanks (bankTransfer s id lo bytes k).1 = besideBanks s := by
  unfold bankTransfer
  dsimp only
  split
  · exact fun h => nomatch h
  · split
    · exact fun h => nomatch h
    · split
      · exact fun _ => rfl
      · split
        · exact fun _ => rfl
        · split
          · exact fun h => nomatch h
          · exact fun _ => rfl

theorem besideBanks_fieldTransfer {role f bytes : Nat} {island : Option Nat} {k : AccessKind} :
    (fieldTransfer s id role f island bytes k).2 = true →
      besideBanks (fieldTransfer s id role f island bytes k).1 = besideBanks s := by
  unfold fieldTransfer
  dsimp only
  split
  · exact fun _ => rfl
  · exact fun h => besideBanks_bankTransfer h

theorem besideBanks_cipherRead {f engine plot lba : Nat} {order addr : Option Nat} :
    (cipherRead s f engine plot lba order addr).2 = true →
      besideBanks (cipherRead s f engine plot lba order addr).1 = besideBanks s := by
  unfold cipherRead
  dsimp only
  split
  · exact besideBanks_bankTransfer
  · exact besideBanks_fieldTransfer

theorem besideBanks_writeStage {x : Nat × Nat} {bytes : List Byte} :
    (writeStage s id x bytes).2 = true → besideBanks (writeStage s id x bytes).1 = besideBanks s := by
  unfold writeStage
  dsimp only
  intro h
  split
  · exact besideBanks_bankTransfer h
  · exact besideBanks_bankTransfer h

theorem besideBanks_freeStagingSlot (f : Nat) (island : Option Nat) :
    besideBanks (freeStagingSlot s f island).2 = besideBanks s := by
  unfold freeStagingSlot
  dsimp only
  split <;> rfl

theorem besideBanks_stageVersion {f : Nat} {e : Entry} {bytes : List Byte} :
    (stageVersion s id f e bytes).2.2 = true → besideBanks (stageVersion s id f e bytes).1 = besideBanks s := by
  have hslot := besideBanks_freeStagingSlot (s := s) f (s.stageIsland f e)
  unfold stageVersion
  split
  next u hu =>
    rw [hu] at hslot
    exact fun _ => hslot
  next x u hu =>
    rw [hu] at hslot
    exact fun h => (besideBanks_writeStage h).trans hslot

/-- Of what the engines' steps look at, such a transfer leaves the Fields, the commands, the engines and the layout. -/
theorem sameData_of_besideBanks {u : State} (h : besideBanks u = besideBanks s) :
    u.fields = s.fields ∧ u.fn = s.fn ∧ u.engines = s.engines ∧ ∀ n, u.fieldOf n = s.fieldOf n :=
  ⟨(congrArg State.fields h :), (congrArg State.fn h :), (congrArg State.engines h :), fun n => (congrArg (·.fieldOf n) h :)⟩

end Staging

section EchoCheck

variable {s : State} {t : Task} {i : Nat} {j : BlockJob} {rest : List BlockJob}

/-! ### The head of an engine's queue -/

theorem engine_inRange (h : (s.engine i).queue = j :: rest) : i < s.engines.length := by
  by_contra hi
  simp [State.engine, List.getD, hi, Reset.engine] at h

theorem popEngine_queue (h : (s.engine i).queue = j :: rest) : ((popEngine s i).engine i).queue = rest := by
  simp [popEngine, State.modEngine_engine _ _ _ (engine_inRange h), h]

theorem exec_engineDone_empty (h : (s.engine i).queue = []) (b tag c : Bool) (v : EnvVerdict) :
    exec (.echoCheckDone i b) s = .next (offerRekeys s) ∧ exec (.decryptDone i tag v c) s = .next (offerRekeys s) := by
  refine ⟨?_, ?_⟩
  · show execEchoCheckDone i b s = _
    simp [execEchoCheckDone, h]
  · show execDecryptDone i tag v c s = _
    simp [execDecryptDone, h]

/-! ### The echo check (R19, R21, R59) -/

/-- The engine that failed an echo check, counted. -/
def countEchoFail (s : State) (i : Nat) : State := s.modEngine i fun e => { e with echoFail := count 0xFFFF e.echoFail }

theorem exec_echoCheckDone_failed (h : (s.engine i).queue = j :: rest) (hd : j.dir = .encrypt) :
    exec (.echoCheckDone i false) s = .next (offerRekeys
      (engineFault (countEchoFail s i) 0x0010 i (0x60 + i) (w32 j.key.plot) (w32 j.lba))) := by
  show execEchoCheckDone i false s = _
  simp [execEchoCheckDone, h, hd, countEchoFail]

theorem countEchoFail_engine (hi : i < s.engines.length) :
    (countEchoFail s i).engine i = { s.engine i with echoFail := min 0xFFFF ((s.engine i).echoFail + 1) } :=
  State.modEngine_engine _ _ _ hi

/-- A failed echo check is counted, whatever fault follows. -/
theorem echoFail_counted {cause requester : Nat} {d0 d1 : Word} (hi : i < s.engines.length) :
    ((engineFault (countEchoFail s i) cause i requester d0 d1).engine i).echoFail = min 0xFFFF ((s.engine i).echoFail + 1) := by
  rw [engineFault_stands.echoFail i, countEchoFail_engine hi]

/-- A block of a command of this device, or of the master's Plot, whose echo check has passed. -/
structure Passed (s : State) (i : Nat) (j : BlockJob) (rest : List BlockJob) : Prop where
  head : (s.engine i).queue = j :: rest
  dir : j.dir = .encrypt
  kind : j.kind = .hostWrite

theorem exec_echoCheckDone_noTask (h : Passed s i j rest) (ht : s.task? j.key = none) :
    exec (.echoCheckDone i true) s = .next (offerRekeys (popEngine s i)) := by
  show execEchoCheckDone i true s = _
  simp [execEchoCheckDone, h.head, h.dir, h.kind, ht]

theorem exec_echoCheckDone_ended (h : Passed s i j rest) (ht : s.task? j.key = some t)
    (he : t.aborted = true ∨ t.order ≠ some j.env.order) :
    exec (.echoCheckDone i true) s = .next (offerRekeys (settleTasks (popEngine s i))) := by
  show execEchoCheckDone i true s = _
  simp [execEchoCheckDone, h.head, h.dir, h.kind, ht, he]

/-- Such a block whose command still runs under the order number it was sealed with. -/
structure Acceptable (s : State) (i : Nat) (j : BlockJob) (rest : List BlockJob) (t : Task) : Prop extends Passed s i j rest where
  task : s.task? j.key = some t
  live : t.aborted = false
  order : t.order = some j.env.order

theorem exec_echoCheckDone_remote (h : Acceptable s i j rest t) (hf : s.fieldOf j.key.plot = none) :
    exec (.echoCheckDone i true) s = .next (offerRekeys (sendToMaster (popEngine s i) t j)) := by
  show execEchoCheckDone i true s = _
  simp [execEchoCheckDone, h.head, h.dir, h.kind, h.task, h.live, h.order, hf]

theorem exec_echoCheckDone_waits {f : Nat} (h : Acceptable s i j rest t) (hf : s.fieldOf j.key.plot = some f)
    (hfull : stagingFree s f (versionOfJob t j 0) = false) : exec (.echoCheckDone i true) s = .next (offerRekeys s) := by
  show execEchoCheckDone i true s = _
  simp [execEchoCheckDone, h.head, h.dir, h.kind, h.task, h.live, h.order, hf, hfull]

/-- The engine's write of a passed block to a staging slot, with the stamp drawn for it. -/
def stagedBlock (s : State) (i f : Nat) (t : Task) (j : BlockJob) : State × List (Nat × Nat) × Bool :=
  stageVersion (popEngine s.drawNat.2 i) (idCipher i) f (versionOfJob t j 0) (sealedBytes s.drawNat.2 j s.drawNat.1)

theorem exec_echoCheckDone_refused {f : Nat} (h : Acceptable s i j rest t) (hf : s.fieldOf j.key.plot = some f)
    (hfree : stagingFree s f (versionOfJob t j 0) = true) (hw : (stagedBlock s i f t j).2.2 = false) :
    exec (.echoCheckDone i true) s = .next (offerRekeys (stagedBlock s i f t j).1) := by
  unfold stagedBlock at hw ⊢
  show execEchoCheckDone i true s = _
  simp [execEchoCheckDone, h.head, h.dir, h.kind, h.task, hf, hfree, h.live, h.order, hw]

theorem exec_echoCheckDone_staged {f : Nat} (h : Acceptable s i j rest t) (hf : s.fieldOf j.key.plot = some f)
    (hfree : stagingFree s f (versionOfJob t j 0) = true) (hw : (stagedBlock s i f t j).2.2 = true) :
    exec (.echoCheckDone i true) s = .next (offerRekeys (serveReads (finishWrite
      (acceptBlock (stagedBlock s i f t j).1 t j s.drawNat.1 (stagedBlock s i f t j).2.1) j.key))) := by
  unfold stagedBlock at hw ⊢
  show execEchoCheckDone i true s = _
  simp [execEchoCheckDone, h.head, h.dir, h.kind, h.task, hf, hfree, h.live, h.order, hw]

/-! ### The version of an accepted block (R41, R332) -/

section Version

variable {stamp : Nat}

theorem versionOfJob_block (h : t.kind ≠ .put) : versionOfJob t j stamp =
    { plot := t.key.plot, lba := j.lba, count := 1, kind := .block, order := t.order.getD 0, stamp := stamp, crc := j.env.crc
      data := j.data, name := [], present := true, part := 0, freed := none, rseq := none, passed := false } := if_neg h

theorem versionOfJob_record (h : t.kind = .put) : versionOfJob t j stamp =
    { plot := t.key.plot, lba := t.lba, count := 2, kind := .record, order := t.order.getD 0, stamp := stamp, crc := j.env.crc
      data := t.value, name := t.name, present := true, part := 0, freed := none, rseq := none, passed := false } := if_pos h

/-- Of a block as of a record: the command's Plot and order number and the stamp drawn; not yet programmed. -/
theorem versionOfJob_common : (versionOfJob t j stamp).plot = t.key.plot ∧ (versionOfJob t j stamp).order = t.order.getD 0 ∧
    (versionOfJob t j stamp).stamp = stamp ∧ (versionOfJob t j stamp).passed = false ∧ (versionOfJob t j stamp).rseq = none := by
  by_cases h : t.kind = .put
  · rw [versionOfJob_record h]
    exact ⟨rfl, rfl, rfl, rfl, rfl⟩
  · rw [versionOfJob_block h]
    exact ⟨rfl, rfl, rfl, rfl, rfl⟩

end Version

/-! ### A block is accepted (R19, R41, R332) -/

/-- The first half of a PUT's record. -/
abbrev FirstHalf (t : Task) : Prop := t.kind = .put ∧ t.accepted.isEmpty = true

/-- What the acceptance of a block of `t` does to the command in flight. -/
def noteAccepted (t : Task) (j : BlockJob) (slots : List (Nat × Nat)) (x : Task) : Task :=
  { x with
    accepted := j.idx :: x.accepted
    staged := if FirstHalf t then x.staged ++ slots else []
    value := if x.kind = .put then x.value else [] }

section Accepted

variable {u : State} {f stamp : Nat} {slots : List (Nat × Nat)}

theorem acceptBlock_firstHalf (hf : u.fieldOf t.key.plot = some f) (h : FirstHalf t) :
    acceptBlock u t j stamp slots = setTask u t.key (noteAccepted t j slots) := by
  simp only [acceptBlock, hf]
  rw [if_pos h]
  rfl

theorem acceptBlock_version (hf : u.fieldOf t.key.plot = some f) (h : ¬ FirstHalf t) :
    acceptBlock u t j stamp slots = (setTask u t.key (noteAccepted t j slots)).modField f fun fs =>
      { fs with entries := fs.entries ++ [{ versionOfJob t j stamp with stage := t.staged ++ slots }] } := by
  simp only [acceptBlock, hf]
  rw [if_neg h]
  rfl

theorem acceptBlock_engines (hf : u.fieldOf t.key.plot = some f) : (acceptBlock u t j stamp slots).engines = u.engines := by
  by_cases h : FirstHalf t
  · rw [acceptBlock_firstHalf hf h]; rfl
  · rw [acceptBlock_version hf h]; rfl

theorem acceptBlock_task (hf : u.fieldOf t.key.plot = some f) (ht : u.task? t.key = some t) :
    (acceptBlock u t j stamp slots).task? t.key = some (noteAccepted t j slots t) := by
  have hset := task?_setTask (f := noteAccepted t j slots) ht fun x hk hd => ⟨hk, hd⟩
  by_cases h : FirstHalf t
  · rw [acceptBlock_firstHalf hf h, hset]
  · rw [acceptBlock_version hf h]; exact hset

theorem acceptBlock_entries_firstHalf (hf : u.fieldOf t.key.plot = some f) (h : FirstHalf t) :
    ((acceptBlock u t j stamp slots).field f).entries = (u.field f).entries := by
  rw [acceptBlock_firstHalf hf h]; rfl

theorem acceptBlock_entries_version (hf : u.fieldOf t.key.plot = some f) (hlt : f < u.fields.length) (h : ¬ FirstHalf t) :
    ((acceptBlock u t j stamp slots).field f).entries =
      (u.field f).entries ++ [{ versionOfJob t j stamp with stage := t.staged ++ slots }] := by
  rw [acceptBlock_version hf h, State.modField_field (setTask u t.key (noteAccepted t j slots)) f _ hlt]
  rfl

end Accepted

/-- The engine's write, when it is not refused, leaves the Fields, the commands and, but for the head of the engine's queue, the
engines as they were. -/
theorem stagedBlock_frame {f : Nat} (h : (stagedBlock s i f t j).2.2 = true) :
    (stagedBlock s i f t j).1.fields = s.fields ∧ (stagedBlock s i f t j).1.fn = s.fn ∧
      (stagedBlock s i f t j).1.engines = (popEngine s i).engines ∧ ∀ n, (stagedBlock s i f t j).1.fieldOf n = s.fieldOf n :=
  sameData_of_besideBanks (s := popEngine s i) ((besideBanks_stageVersion h).trans rfl)

/-- What becomes of a passed block of a Field of this device when the engine's write is not refused. -/
theorem staged_accepts {f : Nat} (h : Acceptable s i j rest t) (hf : s.fieldOf j.key.plot = some f) (hlt : f < s.fields.length)
    (hw : (stagedBlock s i f t j).2.2 = true) {u : State}
    (hu : u = acceptBlock (stagedBlock s i f t j).1 t j s.drawNat.1 (stagedBlock s i f t j).2.1) :
    (u.engine i).queue = rest ∧ u.task? t.key = some (noteAccepted t j (stagedBlock s i f t j).2.1 t) ∧
      (FirstHalf t → (u.field f).entries = (s.field f).entries) ∧
      (¬ FirstHalf t → (u.field f).entries = (s.field f).entries ++
        [{ versionOfJob t j s.drawNat.1 with stage := t.staged ++ (stagedBlock s i f t j).2.1 }]) := by
  subst hu
  obtain ⟨hfields, hfn, hengines, hfieldOf⟩ := stagedBlock_frame hw
  obtain ⟨hkey, -⟩ := task?_facts h.task
  have hplot : (stagedBlock s i f t j).1.fieldOf t.key.plot = some f := by rw [hfieldOf, hkey, hf]
  have htask : (stagedBlock s i f t j).1.task? t.key = some t := by
    rw [State.task?, hfn, hkey]
    exact h.task
  have hfield : (stagedBlock s i f t j).1.field f = s.field f := by simp [State.field, hfields]
  refine ⟨?_, acceptBlock_task hplot htask, fun hp => ?_, fun hp => ?_⟩
  · rw [State.engine, acceptBlock_engines hplot, hengines]
    exact popEngine_queue h.head
  · rw [acceptBlock_entries_firstHalf hplot hp, hfield]
  · rw [acceptBlock_entries_version hplot (hfields ▸ hlt) hp, hfield]

/-! ### The envelope (R24, R70, R298) -/

/-- A decrypted block of a command in flight. -/
structure Decrypted (s : State) (i : Nat) (j : BlockJob) (rest : List BlockJob) (t : Task) : Prop where
  head : (s.engine i).queue = j :: rest
  dir : j.dir = .decrypt
  kind : j.kind = .hostRead
  task : s.task? j.key = some t
  live : t.aborted = false

theorem popEngine_task? (e : Nat) (key : TaskKey) : (popEngine s e).task? key = s.task? key := rfl
theorem popEngine_fieldOf (e n : Nat) : (popEngine s e).fieldOf n = s.fieldOf n := rfl
theorem popEngine_versionOf (e plot lba h : Nat) : (popEngine s e).versionOf plot lba h = s.versionOf plot lba h := rfl

/-- A block of this device's Plot whose envelope matches is returned. -/
theorem exec_decryptDone_returned {f : Nat} {e : Entry} (v : EnvVerdict) (h : Decrypted s i j rest t)
    (hf : s.fieldOf j.key.plot = some f) (hhere : j.key.plot < 64) (he : s.versionOf j.key.plot j.lba (t.horizon.getD 0) = some e)
    (hplot : j.env.plot = j.key.plot) (hlba : j.env.lba = j.lba) (horder : j.env.order = e.order) (hcrc : j.env.crc = crc32c j.data)
    (hread : (cipherRead (popEngine s i) f i j.key.plot j.lba (some e.order) (pageOf t j.idx)).2 = true) :
    exec (.decryptDone i true v true) s = .next (offerRekeys (advanceRead
      (setTask (cipherRead (popEngine s i) f i j.key.plot j.lba (some e.order) (pageOf t j.idx)).1 t.key
        fun _ => { t with accepted := j.idx :: t.accepted }) { t with accepted := j.idx :: t.accepted })) := by
  obtain ⟨-, hdue⟩ := task?_facts h.task
  have hwide : decide (64 ≤ j.key.plot) = false := by simpa using hhere
  unfold pageOf at hread ⊢
  show execDecryptDone i true v true s = _
  simp [execDecryptDone, h.head, h.dir, h.kind, h.live, hdue, hwide, popEngine_task?, h.task, popEngine_fieldOf, hf,
    popEngine_versionOf, he, hplot, hlba, horder, hcrc, hread]

/-- A block of the master's Plot whose envelope matches is returned, and kept for the answer. -/
theorem exec_decryptDone_returnedWide (v : EnvVerdict) (h : Decrypted s i j rest t)
    (hf : s.fieldOf j.key.plot = none) (hwide : 64 ≤ j.key.plot)
    (hplot : j.env.plot = j.key.plot - 64) (hlba : j.env.lba = j.lba) (horder : j.env.order ≤ t.horizon.getD 0)
    (hcrc : j.env.crc = crc32c j.data) :
    exec (.decryptDone i true v true) s = .next (offerRekeys (advanceRead
      (setTask (popEngine s i) t.key fun _ => { t with accepted := j.idx :: t.accepted, value := j.data ++ t.value })
      { t with accepted := j.idx :: t.accepted, value := j.data ++ t.value })) := by
  obtain ⟨-, hdue⟩ := task?_facts h.task
  show execDecryptDone i true v true s = _
  simp [execDecryptDone, h.head, h.dir, h.kind, h.live, hdue, hwide, popEngine_task?, h.task, popEngine_fieldOf, hf,
    hplot, hlba, horder, hcrc]

/-- The read of a block on its way back that the engine makes. -/
def blockRead (s : State) (i f : Nat) (t : Task) (j : BlockJob) : State × Bool :=
  cipherRead (popEngine s i) f i j.key.plot j.lba
    (if 64 ≤ j.key.plot then some (min j.env.order (t.horizon.getD 0))
      else (s.versionOf j.key.plot j.lba (t.horizon.getD 0)).map (·.order)) (pageOf t j.idx)

/-- A block whose envelope does not match, though the second engine's result does: the engine is at fault. -/
theorem exec_decryptDone_failed {f : Nat} (c : Bool) (h : Decrypted s i j rest t) (hf : s.fieldOf j.key.plot = some f)
    (hread : (blockRead s i f t j).2 = true) :
    exec (.decryptDone i false .secondPasses c) s = .next (offerRekeys (engineFault
      (settleTasks (failBlock (blockRead s i f t j).1 t.key j.idx (.check (senseAt 4 0x44 0x00 j.lba))))
      0x0011 i (0x60 + i) (w32 j.key.plot) (w32 j.lba))) := by
  obtain ⟨-, hdue⟩ := task?_facts h.task
  unfold blockRead pageOf at hread ⊢
  show execDecryptDone i false .secondPasses c s = _
  simp [execDecryptDone, h.head, h.dir, h.kind, h.live, hdue, popEngine_task?, h.task, popEngine_fieldOf, hf, popEngine_versionOf,
    envelopeFault, hread]

end EchoCheck
end Sys2Proof.Machine
end

section
/-! The read that an envelope which does not match ends with HARDWARE ERROR (R298); settles O19. -/

namespace Sys2Proof.Machine

section FailedRead

variable {s : State} {t : Task} {st : ScsiStatus} {data : List Byte}

theorem settleTasks_results : (settleTasks s).fn.results = s.fn.results := by
  refine (foldl_unchanged (·.fn.results) _ (fun u x => ?_) _ _).trans rfl
  split <;> rfl

theorem resultOf_settleTasks (key : TaskKey) : (settleTasks s).resultOf key = s.resultOf key := by
  rw [State.resultOf, State.resultOf, settleTasks_results]

theorem resultOf_sendScsi {key : TaskKey} : (sendScsi s key st data).resultOf key = some (st, data) := by
  simp [State.resultOf, sendScsi]

/-- A SCSI command of a port that is due its status gets it. -/
theorem resultOf_answerTask {p : Port} {tr : Transport} (hdue : t.statusDue = true) (ho : t.key.origin = .port p) (htr : t.tr = some tr) :
    (answerTask s t st data).resultOf t.key = some (st, data) := by
  simp only [answerTask, hdue, ho, htr, Bool.not_true, Bool.false_eq_true, if_false]
  exact resultOf_sendScsi

/-- A command whose block `i` has failed with a status. -/
def noteFailed (i : Nat) (st : ScsiStatus) (t : Task) : Task := { t with fails := t.fails ++ [(i, st)] }

/-- A read whose first block not yet returned has failed, and had not failed before, is to end with that block's status. -/
theorem readFailed_noteFailed {i : Nat} (hk : t.kind = .read)
    (hfirst : ((List.range t.count).find? fun k => !t.accepted.contains k) = some i) (hnew : ∀ x ∈ t.fails, x.1 ≠ i) :
    s.readFailed (noteFailed i st t) = some st := by
  have hwanted : s.wanted (noteFailed i st t) = List.range t.count := by simp [State.wanted, noteFailed, hk]
  have hfail : (noteFailed i st t).fails.find? (·.1 == i) = some (i, st) := by
    rw [noteFailed, List.find?_append, List.find?_eq_none.mpr (by simpa using hnew)]
    simp
  have hblock : ((List.range t.count).find? fun k => !(noteFailed i st t).accepted.contains k) = some i := hfirst
  simp only [State.readFailed, hwanted, hblock, hfail]
  rfl

theorem resultOf_failBlock {i : Nat} {p : Port} {tr : Transport} (ht : s.task? t.key = some t) (ho : t.key.origin = .port p)
    (htr : t.tr = some tr) (hk : t.kind = .read) (hfirst : ((List.range t.count).find? fun k => !t.accepted.contains k) = some i)
    (hnew : ∀ x ∈ t.fails, x.1 ≠ i) : ((failBlock s t.key i st).resultOf t.key).map (·.1) = some st := by
  have htask : (setTask s t.key (noteFailed i st)).task? t.key = some (noteFailed i st t) :=
    task?_setTask ht fun x hkey hdue => ⟨hkey, hdue⟩
  have hclose : failBlock s t.key i st = closeRead (setTask s t.key (noteFailed i st)) (noteFailed i st t) := by
    simp only [failBlock, ← noteFailed.eq_1, htask]
  simp only [hclose, closeRead, readFailed_noteFailed hk hfirst hnew, resultOf_settleTasks]
  rw [show t.key = (noteFailed i st t).key from rfl, resultOf_answerTask (t := noteFailed i st t) (task?_facts ht).2 ho htr]
  rfl

/-- The engine's read leaves the commands in flight. -/
theorem blockRead_task? {i f : Nat} {j : BlockJob} (h : (blockRead s i f t j).2 = true) (key : TaskKey) :
    (blockRead s i f t j).1.task? key = s.task? key := by
  obtain ⟨-, hfn, -⟩ := sameData_of_besideBanks (s := popEngine s i) (besideBanks_cipherRead h)
  unfold State.task? blockRead
  rw [hfn]
  rfl

end FailedRead

/-- Settles O19. The dispatcher's choice keeps the best of the engines seen; a block its command needs is handed over in one way,
wherever it comes from; what a fault brings about outlasts everything that entering its scope does; and an engine's transfer that
is not refused leaves the Fields, the commands and the other engines, so that what follows is read off the acceptance itself. -/
theorem blocksPassTheEngines : Obligations.BlocksPassTheEngines := by
  intro s
  refine ⟨fun key idx dir data env => exec_blockReceived_noTask, fun key idx dir data env t => exec_blockReceived_unneeded,
    fun i hi => ?_, ?_, ?_, ?_, ?_⟩
  · obtain ⟨hrange, havailable, hroom, hleast⟩ := chooseEngine_chosen hi
    exact ⟨hrange, havailable, hroom, hleast⟩
  · intro key idx dir data env t job ht hlive hgranted hrange hnew hjob
    have hneeded : Needed s key idx t := ⟨ht, hlive, hgranted, hrange, hnew⟩
    obtain ⟨rfl, -⟩ := task?_facts ht
    have hexec : exec (.blockReceived t.key idx dir data env) s = .next (offerRekeys (handOver s t dir job)) ∧ job.idx = idx := by
      obtain ⟨m, block, rfl, hk, hm, hb, rfl⟩ | ⟨rfl, hwide, hread, hacc, hready, rfl⟩ |
        ⟨rfl, hhere, hread, hwanted, hacc, hready, ⟨hasked, rfl⟩ | ⟨e, hasked, he, rfl⟩⟩ := hjob
      · exact ⟨exec_blockReceived_encrypt hneeded hk hm hb, rfl⟩
      · exact ⟨exec_blockReceived_wide hneeded hwide hread hacc hready, rfl⟩
      · exact ⟨exec_blockReceived_page hneeded hhere hread hwanted hacc hready hasked, rfl⟩
      · exact ⟨exec_blockReceived_latent hneeded hhere hread hwanted hacc hready hasked he, rfl⟩
    obtain ⟨hexec, rfl⟩ := hexec
    rw [hexec]
    refine ⟨fun hd hr => by rw [handOver_ring hd hr],
      fun hstays => ⟨fun i hi => ⟨_, rfl, handOver_chosen hstays ht hi⟩, ?_, ?_⟩⟩
    · rintro hi ⟨e, he, ha⟩
      rw [handOver_full hstays hi he ha]
    · intro hn hz hc
      rw [handOver_none hstays hn hz]
      exact ⟨_, rfl, noCipher_faulted hc⟩
  · exact fun i hq b tag v c => exec_engineDone_empty hq b tag c v
  · intro i j rest hq hd
    have hi := engine_inRange hq
    refine ⟨fun hrec hnew hz => ⟨_, exec_echoCheckDone_failed hq hd, ?_⟩,
      fun hz => ⟨_, exec_echoCheckDone_failed hq hd, engineFault_faulted_z1 (s := countEchoFail s i) hz, echoFail_counted hi⟩,
      fun hk => exec_echoCheckDone_noTask ⟨hq, hd, hk⟩, fun t hk ht => ⟨exec_echoCheckDone_ended ⟨hq, hd, hk⟩ ht, ?_⟩⟩
    · obtain ⟨hfenced, hqueue⟩ := engineFault_fences (s := countEchoFail s i) (cause := 0x0010) (requester := 0x60 + i)
        (d0 := w32 j.key.plot) (d1 := w32 j.lba) hz hrec hnew ((List.length_modify _ _ _).symm ▸ hi)
      exact ⟨hfenced, hqueue, echoFail_counted hi, engineFault_faulted (s := countEchoFail s i) hz⟩
    · intro hlive horder
      have h : Acceptable s i j rest t := ⟨⟨hq, hd, hk⟩, ht, hlive, horder⟩
      refine ⟨exec_echoCheckDone_remote h, fun f hf => ⟨exec_echoCheckDone_waits h hf, fun hfree hlt =>
        ⟨exec_echoCheckDone_refused h hf hfree, fun hw => ⟨_, exec_echoCheckDone_staged h hf hfree hw, ?_⟩⟩⟩⟩
      obtain ⟨hqueue, htask, hfirst, hversion⟩ := staged_accepts h hf hlt hw rfl
      obtain ⟨hkey, -⟩ := task?_facts ht
      rw [hkey] at htask
      refine ⟨hqueue, ⟨_, htask, rfl⟩, fun hput hnone => hfirst ⟨hput, by simp [hnone]⟩, fun hsecond => ?_⟩
      have hsecond : ¬ FirstHalf t := by simpa [imp_iff_not_or] using hsecond
      obtain ⟨hplot, hord, hstamp, hpassed, hrseq⟩ := versionOfJob_common (t := t) (j := j) (stamp := s.drawNat.1)
      refine ⟨_, hversion hsecond, hplot.trans (congrArg TaskKey.plot hkey), hord.trans (by simp [horder]), hstamp, hpassed, hrseq,
        rfl, fun hblock => ?_, fun hrecord => ?_⟩
      · rw [versionOfJob_block hblock]
        exact ⟨rfl, rfl, rfl, rfl⟩
      · rw [versionOfJob_record hrecord]
        exact ⟨rfl, rfl, rfl, rfl, rfl⟩
  · intro i j rest t hq hd hk ht hlive
    have h : Decrypted s i j rest t := ⟨hq, hd, hk, ht, hlive⟩
    obtain ⟨hkey, -⟩ := task?_facts ht
    refine ⟨fun f e v hf hhere he hplot hlba horder hcrc hread =>
        exec_decryptDone_returned v h hf hhere he hplot hlba horder hcrc hread,
      fun v hf hwide hplot hlba horder hcrc => exec_decryptDone_returnedWide v h hf hwide hplot hlba horder hcrc,
      fun f p tr c hf ho htr hread hfirst hnew hrd => ⟨_, exec_decryptDone_failed c h hf hrd, ?_⟩⟩
    have htask : (blockRead s i f t j).1.task? t.key = some t := by rw [blockRead_task? hrd, hkey, ht]
    rw [resultOf_settleTasks, ← hkey]
    exact resultOf_failBlock htask (hkey ▸ ho) htr hread hfirst hnew

end Sys2Proof.Machine
end

section
/-! The snapshot pairs of the arbiter's order numbers (R48): a read of LO keeps HI for its reader's next read of it; settles O12. -/

namespace Sys2Proof.Machine

section Pairs

variable {s u : State} {id : Identity}

/-- A register that stands on every member, at an address of its own, and can be read with no layout by every identity but
JTAG's (R9, R658 to R660). -/
structure BareRegister (a : Nat) : Prop where
  aligned : a % 4 = 0
  noWindow : isAperture a = false
  known : ∀ m, regKnown m a = true
  readable : readableBare a = true
  notBanked : isBanked a = false

/-- An identity other than JTAG's reaches the register at `a`, and the MPU lets it read. -/
structure MayRead (s : State) (id : Identity) (a : Nat) : Prop where
  notJtag : id ≠ idJtag
  reaches : s.csOpen id = true
  allowed : s.mpuRefuses id false a .read = none

/-- Such a read answers from the register or from the snapshot kept of it, under the grant of the access. -/
theorem exec_snapshotRead_bare {a : CsAddr} (hreg : BareRegister a.toNat) (h : MayRead s id a.toNat) :
    exec (.snapshotRead id a) s =
      .next (setReply (readReg (noteAccess s id) id a.toNat 0).1 id (readReg (noteAccess s id) id a.toNat 0).2 0) := by
  show execSnapshotRead id a s = _
  simp [execSnapshotRead, csRead, hreg.aligned, hreg.noWindow, hreg.known, hreg.readable, hreg.notBanked, h.notJtag,
    csCheck_allowed h.reaches h.allowed, regOk]

/-- Two registers that hold the halves of one number of the arbiter, a read of the first taking a snapshot of the second. -/
structure SnapshotPair (lo hi : Nat) (number : ArbState → Nat) : Prop where
  loBare : BareRegister lo
  hiBare : BareRegister hi
  noFreeValue : lo ≠ 0x300
  snapsHi : snapTargets lo = [hi]
  clearsNothing : ∀ s same, rcClear s lo same = s
  loValue : ∀ s id, regValue s id lo = loHalf (number s.arb)
  hiValue : ∀ s id, regValue s id hi = hiHalf (number s.arb)
  outlastsGrant : ∀ s id, number (noteAccess s id).arb = number s.arb

/-- The grant of an access issues no order number. -/
theorem noteAccess_numbers (s : State) (id : Identity) :
    (noteAccess s id).arb.ordNext = s.arb.ordNext ∧ (noteAccess s id).arb.ordResume = s.arb.ordResume := by
  unfold noteAccess
  split <;> exact ⟨rfl, rfl⟩

theorem bareRegister_ordNextLo : BareRegister 0x4000 := ⟨rfl, rfl, fun _ => rfl, rfl, rfl⟩
theorem bareRegister_ordNextHi : BareRegister 0x4004 := ⟨rfl, rfl, fun _ => rfl, rfl, rfl⟩
theorem bareRegister_ordResumeLo : BareRegister 0x4008 := ⟨rfl, rfl, fun _ => rfl, rfl, rfl⟩
theorem bareRegister_ordResumeHi : BareRegister 0x400C := ⟨rfl, rfl, fun _ => rfl, rfl, rfl⟩

theorem snapshotPair_ordNext : SnapshotPair 0x4000 0x4004 ArbState.ordNext :=
  ⟨bareRegister_ordNextLo, bareRegister_ordNextHi, by decide, rfl, fun _ _ => rfl, fun _ _ => rfl, fun _ _ => rfl,
    fun s id => (noteAccess_numbers s id).1⟩

theorem snapshotPair_ordResume : SnapshotPair 0x4008 0x400C ArbState.ordResume :=
  ⟨bareRegister_ordResumeLo, bareRegister_ordResumeHi, by decide, rfl, fun _ _ => rfl, fun _ _ => rfl, fun _ _ => rfl,
    fun s id => (noteAccess_numbers s id).2⟩

/-- The snapshot a reader keeps of the register at `a`, if any. -/
def State.snapOf (s : State) (id : Identity) (a : Nat) : Option Word :=
  (s.snaps.find? fun x => x.1 == id && x.2.1 == a).map (·.2.2)

theorem takeSnaps_snapOf {a hi : Nat} (h : snapTargets a = [hi]) : (takeSnaps s id a).snapOf id hi = some (regValue s id hi) := by
  simp [takeSnaps, h, State.snapOf]

/-- A read of LO with no snapshot of it kept takes the snapshot of HI and answers the low half. -/
theorem readReg_lo {lo hi : Nat} {number : ArbState → Nat} (hp : SnapshotPair lo hi number) (h : NoSnapOf s lo) (same : Word) :
    readReg s id lo same = (takeSnaps s id lo, loHalf (number s.arb)) := by
  simp [readReg, h.find?_eq_none, hp.noFreeValue, hp.clearsNothing, hp.loValue]

/-- A read of a register of which the reader keeps a snapshot answers the snapshot and drops it. -/
theorem readReg_kept {a : Nat} {v : Word} (h : s.snapOf id a = some v) (same : Word) :
    readReg s id a same = (dropSnap s id a, v) := by
  obtain ⟨x, hx, rfl⟩ := Option.map_eq_some_iff.mp h
  simp only [readReg, hx]

@[simp] theorem takeSnaps_csOpen (a : Nat) (i : Identity) : (takeSnaps s id a).csOpen i = s.csOpen i := by
  rw [takeSnaps_eq]; rfl

/-- A read of LO, then, whatever else has changed, a read of HI by the same reader: the two halves of the number as it was. -/
theorem SnapshotPair.read_together {lo hi : CsAddr} {number : ArbState → Nat} (hp : SnapshotPair lo.toNat hi.toNat number)
    (h : MayRead s id lo.toNat) (hsnap : NoSnapOf s lo.toNat) :
    ∃ t, exec (.snapshotRead id lo) s = .next t ∧ t.replyTo id = some (loHalf (number s.arb), 0) ∧
      ∀ u : State, u.snaps = t.snaps → MayRead u id hi.toNat →
        ∃ v, exec (.snapshotRead id hi) u = .next v ∧ v.replyTo id = some (hiHalf (number s.arb), 0) := by
  have hread := readReg_lo (id := id) hp (show NoSnapOf (noteAccess s id) lo.toNat by simpa [NoSnapOf] using hsnap) 0
  have hopen : (takeSnaps (noteAccess s id) id lo.toNat).csOpen id = true := by simpa using h.reaches
  refine ⟨_, exec_snapshotRead_bare hp.loBare h, ?_, fun u hsnaps hu => ⟨_, exec_snapshotRead_bare hp.hiBare hu, ?_⟩⟩
  · rw [hread, setReply_replyTo hopen, hp.outlastsGrant]
  · rw [hread, setReply_eq hopen] at hsnaps
    have hkept : (noteAccess u id).snapOf id hi.toNat = some (hiHalf (number s.arb)) := by
      rw [State.snapOf, noteAccess_snaps, hsnaps, ← hp.outlastsGrant s id, ← hp.hiValue]
      exact takeSnaps_snapOf hp.snapsHi
    have hopen' : (dropSnap (noteAccess u id) id hi.toNat).csOpen id = true := (noteAccess_csOpen u id id).trans hu.reaches
    rw [readReg_kept hkept, setReply_replyTo hopen']

end Pairs

/-- Settles O12: both pairs are snapshot pairs of the arbiter. -/
theorem snapshotPairsReadTogether : Obligations.SnapshotPairsReadTogether := by
  intro s id lo hi n hpair hjtag hopen hmpu hsnap
  have htogether : ∃ number, SnapshotPair lo.toNat hi.toNat number ∧ n = number s.arb := by
    obtain ⟨rfl, rfl, rfl⟩ | ⟨rfl, rfl, rfl⟩ := hpair
    · exact ⟨_, snapshotPair_ordNext, rfl⟩
    · exact ⟨_, snapshotPair_ordResume, rfl⟩
  obtain ⟨number, hp, rfl⟩ := htogether
  obtain ⟨t, hexec, hreply, hlater⟩ := hp.read_together ⟨hjtag, hopen, hmpu⟩ hsnap
  exact ⟨t, hexec, hreply, fun u hsnaps ho hm => hlater u hsnaps ⟨hjtag, ho, hm⟩⟩

end Sys2Proof.Machine
end

section
/-! A tick of the order arbiter (R33): what is raised, which of it wins, and what a grant leaves unchanged; settles O17. -/

namespace Sys2Proof.Machine

section Tick

variable {s v : State} {reqs : List ArbReq} {trees : TreeAgreement} {returned : List Nat}

/-! ### The tickets that return (R22, R52) -/

/-- One ticket of an earlier tick returns. -/
def returnOne (s : State) (id : Nat) : State := releaseTicket (s.modArb fun a => { a with loose := a.loose.filter (· != id) }) id

theorem returnLoose_eq (s : State) (ids : List Nat) :
    returnLoose s ids = (ids.filter s.arb.loose.contains).foldl returnOne s := rfl

/-- Tickets that return change the arbiter alone, and neither its pointer nor LOCKSTEP. -/
theorem returnLoose_frame (s : State) (ids : List Nat) :
    { returnLoose s ids with arb := s.arb } = s ∧ (returnLoose s ids).arb.pointer = s.arb.pointer ∧
      (returnLoose s ids).arb.lockstep = s.arb.lockstep := by
  rw [returnLoose_eq]
  exact ⟨foldl_unchanged (fun u => { u with arb := s.arb }) returnOne (fun _ _ => rfl) _ s,
    foldl_unchanged (·.arb.pointer) returnOne (fun _ _ => rfl) _ s, foldl_unchanged (·.arb.lockstep) returnOne (fun _ _ => rfl) _ s⟩

theorem returnLoose_nil (s : State) : returnLoose s [] = s := rfl

/-! ### What is raised -/

@[simp] theorem asked_mem_raised {r : ArbReq} : .asked r ∈ s.raised reqs ↔ r ∈ reqs ∧ s.takesPart r = true := by
  simp [State.raised]

@[simp] theorem waiting_mem_raised {t : Task} : .waiting t ∈ s.raised reqs ↔
    t ∈ s.fn.tasks ∧ t.held = true ∧ t.aborted = false ∧ s.arb.lockstep = false ∧ s.canDraw t.key.origin.cls = true := by
  simp [State.raised, and_assoc]

@[simp] theorem field_mem_raised {f : Nat} : .field f ∈ s.raised reqs ↔ f ∈ s.fieldList ∧ s.fieldAsks f = true := by
  simp [State.raised]

@[simp] theorem strip_mem_raised {lane : Lane} : .strip lane ∈ s.raised reqs ↔
    laneCode lane ∈ s.saf.stripAsked ∧ s.arb.lockstep = false ∧ s.canDraw 6 = true := by
  cases lane <;> simp [State.raised, and_assoc]

/-! ### The winner (R33) -/

/-- The inputs in the order in which a tick looks at them. -/
def inputOrder (pointer : Nat) : List Nat := (List.range 22).map fun k => (pointer + k) % 22

/-- The input the next grant is made to: the first in that order that something takes part on. -/
def State.nextInput (s : State) (reqs : List ArbReq) : Option Nat :=
  (inputOrder s.arb.pointer).find? fun i => (s.raised reqs).any (·.input == i)

theorem winner_eq_none (h : s.nextInput reqs = none) : s.winner reqs = none := by
  simp only [State.nextInput, inputOrder] at h
  simp only [State.winner, h]

theorem winner_on_input {i : Nat} (h : s.nextInput reqs = some i) :
    ∃ w ∈ s.raised reqs, w.input = i ∧ s.winner reqs = some w := by
  obtain ⟨x, hx, hxi⟩ := List.any_eq_true.mp (List.find?_some (p := fun i => (s.raised reqs).any (·.input == i)) h)
  simp only [State.nextInput, inputOrder] at h
  simp only [State.winner, h]
  generalize hhere : (s.raised reqs).filter (·.input == i) = here
  have hmem : ∀ w ∈ here, w ∈ s.raised reqs ∧ w.input = i := by simp [← hhere]
  have hne : here ≠ [] := List.ne_nil_of_mem (hhere ▸ List.mem_filter.mpr ⟨hx, hxi⟩)
  split
  · obtain ⟨hraised, hinput⟩ := hmem _ (here.getLast_mem hne)
    exact ⟨_, hraised, hinput, List.getLast?_eq_some_getLast hne⟩
  · obtain ⟨hraised, hinput⟩ := hmem _ (here.head_mem hne)
    exact ⟨_, hraised, hinput, List.head?_eq_some_head hne⟩

theorem winner_mem {w : Raised} (h : s.winner reqs = some w) : w ∈ s.raised reqs := by
  cases hi : s.nextInput reqs with
  | none => simp [winner_eq_none hi] at h
  | some i =>
    obtain ⟨w', hw', -, hwin⟩ := winner_on_input hi
    simp_all

theorem winner_of_raised_nil (h : s.raised reqs = []) : s.winner reqs = none :=
  winner_eq_none (by simp [State.nextInput, h])

/-- The first input at or after the pointer that something takes part on. -/
theorem nextInput_eq {k : Nat} (hk : k < 22) (hasks : ∃ x ∈ s.raised reqs, x.input = (s.arb.pointer + k) % 22)
    (hfirst : ∀ j, j < k → ∀ x ∈ s.raised reqs, x.input ≠ (s.arb.pointer + j) % 22) :
    s.nextInput reqs = some ((s.arb.pointer + k) % 22) := by
  rw [State.nextInput, inputOrder, List.find?_map, List.find?_range_eq_some.mpr]
  · rfl
  · obtain ⟨x, hx, hxi⟩ := hasks
    refine ⟨List.any_eq_true.mpr ⟨x, hx, by simp [hxi]⟩, by simpa using hk, fun j hj => ?_⟩
    simpa using hfirst j hj

/-! ### What the winner is given (Table ARB-2) -/

theorem giveGrant_input (r : ArbReq) : (giveGrant s r).2.input = r.input := by
  unfold giveGrant
  repeat' split
  all_goals rfl

theorem give_input (w : Raised) : (give s w).2.input = w.input := by
  cases w with
  | asked r => exact giveGrant_input r
  | waiting t => simp only [give, giveHeld]; split <;> rfl
  | field f => simp only [give, giveField]; split <;> rfl
  | strip lane => rfl

/-- The Fields and the commands in flight. -/
def workPart (s : State) : List FieldState × List Task := (s.fields, s.fn.tasks)

theorem workPart_queueEvent (p : Port) (kind inst d0 d1 : Nat) : workPart (queueEvent s p kind inst d0 d1) = workPart s := by
  unfold queueEvent
  split
  · rfl
  · cases p <;> rfl

theorem workPart_setPlotMode (n : Nat) (m : PlotMode) (reason : Nat) : workPart (setPlotMode s n m reason) = workPart s := by
  simp only [setPlotMode]
  split
  · rfl
  · exact foldl_unchanged workPart _ (fun _ _ => workPart_queueEvent _ _ _ _ _) _ _

theorem workPart_demotePlots (plots : List Nat) (cause : Nat) : workPart (demotePlots s plots cause) = workPart s := by
  refine foldl_unchanged workPart _ (fun s n => ?_) plots s
  split
  · exact workPart_setPlotMode _ _ _
  · rfl

/-- An order number issued starts no work; the last one of the space makes the Plots Read-only (R47). -/
theorem workPart_issueOrder {m : Nat} (h : issueOrder s = some (m, v)) : workPart v = workPart s := by
  unfold issueOrder at h
  split at h
  · cases h
  · dsimp only at h
    split at h <;> cases h
    · exact workPart_demotePlots _ _
    · rfl

theorem workPart_drawTicket {k id : Nat} (h : drawTicket s k = some (id, v)) : workPart v = workPart s := by
  obtain ⟨a, rfl, -, -⟩ := drawTicket_eq h
  rfl

theorem workPart_countTsf (k : Nat) : workPart (countTsf s k) = workPart s := by
  unfold countTsf
  split_ifs <;> rfl

/-- A request that a command brings is given what it asks for; nothing begins with it. -/
theorem workPart_giveGrant (r : ArbReq) : workPart (giveGrant s r).1 = workPart s := by
  have hdrawn : ∀ {k id v}, drawTicket s k = some (id, v) → workPart (noteLoose v id) = workPart s := workPart_drawTicket
  unfold giveGrant
  split
  · rfl
  all_goals split
  · exact hdrawn ‹_›
  · rfl
  · exact hdrawn ‹_›
  · exact workPart_countTsf _
  · split
    · exact (workPart_issueOrder ‹_›).trans (hdrawn ‹_›)
    · exact hdrawn ‹_›
  · exact workPart_countTsf _

/-! ### A tick in which both trees agree (R33, R36) -/

/-- LOCKSTEP is not set, and the trees agree on everything. -/
structure TreesAgree (s : State) (trees : TreeAgreement) : Prop where
  running : s.arb.lockstep = false
  winner : trees.winnerAndPointer = true
  order : trees.orderAndTicket = true

theorem exec_arbiterGrant_none (h : TreesAgree s trees) (hw : (returnLoose s returned).winner reqs = none) :
    exec (.arbiterGrant reqs ⟨trees, returned⟩) s = .next (returnLoose s returned) := by
  obtain ⟨-, -, hlock⟩ := returnLoose_frame s returned
  show execArbiterGrant reqs ⟨trees, returned⟩ s = _
  simp [execArbiterGrant, arbiterTick, hlock, h.running, h.winner, h.order, hw]

/-- The one grant of a tick: the winner is given what it asks for, and the grant is noted. -/
theorem exec_arbiterGrant_winner {w : Raised} (h : TreesAgree s trees) (hw : (returnLoose s returned).winner reqs = some w) :
    exec (.arbiterGrant reqs ⟨trees, returned⟩) s =
      .next (noteGrant (give (returnLoose s returned) w).1 (give (returnLoose s returned) w).2) := by
  obtain ⟨-, -, hlock⟩ := returnLoose_frame s returned
  show execArbiterGrant reqs ⟨trees, returned⟩ s = _
  simp [execArbiterGrant, arbiterTick, hlock, h.running, h.winner, h.order, hw]

/-- What is granted is what won; where only requests of the command are raised, no work begins. -/
theorem exec_arbiterGrant_first {k : Nat} (h : TreesAgree s trees) (hk : k < 22) (hv : v = returnLoose s returned)
    (hasks : ∃ x ∈ v.raised reqs, x.input = (s.arb.pointer + k) % 22)
    (hfirst : ∀ j, j < k → ∀ x ∈ v.raised reqs, x.input ≠ (s.arb.pointer + j) % 22) :
    ∃ u g, exec (.arbiterGrant reqs ⟨trees, returned⟩) s = .next u ∧ u.arb.lastGrant = some g ∧
      g.input = (s.arb.pointer + k) % 22 ∧ u.arb.pointer = ((s.arb.pointer + k) % 22 + 1) % 22 ∧
      ((∀ x ∈ v.raised reqs, ∃ r, x = .asked r) → workPart u = workPart s) := by
  subst hv
  obtain ⟨hrest, hpointer, -⟩ := returnLoose_frame s returned
  rw [← hpointer] at hasks hfirst ⊢
  obtain ⟨w, hw, hinput, hwin⟩ := winner_on_input (nextInput_eq hk hasks hfirst)
  have hgiven : (give (returnLoose s returned) w).2.input = _ := (give_input w).trans hinput
  refine ⟨_, _, exec_arbiterGrant_winner h hwin, rfl, hgiven, congrArg (fun i => (i + 1) % 22) hgiven, fun hall => ?_⟩
  obtain ⟨r, rfl⟩ := hall w hw
  calc workPart (giveGrant (returnLoose s returned) r).1
    _ = workPart (returnLoose s returned) := workPart_giveGrant r
    _ = workPart { returnLoose s returned with arb := s.arb } := rfl
    _ = workPart s := by rw [hrest]

end Tick

/-- Settles O17: the winner is the first raised input from the pointer on, and everything that takes part is raised. -/
theorem arbiterGrantsInTurn : Obligations.ArbiterGrantsInTurn := by
  intro s reqs trees returned hlock hwin hord v
  have hagree : TreesAgree s trees := ⟨hlock, hwin, hord⟩
  obtain ⟨hrest, hpointer, hlock'⟩ := returnLoose_frame s returned
  have hrunning : v.arb.lockstep = false := hlock'.trans hlock
  refine ⟨hpointer, hrest, fun hnone => exec_arbiterGrant_none hagree (winner_of_raised_nil hnone), ?_, ?_, ?_, ?_, ?_⟩
  · intro k hk hasks hfirst
    obtain ⟨u, g, hexec, hgrant, hinput, hnext, hwork⟩ := exec_arbiterGrant_first hagree hk rfl hasks hfirst
    refine ⟨u, g, hexec, hgrant, hinput, hnext, fun hall => ?_⟩
    simpa [workPart] using hwork hall
  · exact fun r hr hpart => ⟨.asked r, asked_mem_raised.mpr ⟨hr, hpart⟩, rfl⟩
  · intro t ht hheld hlive hdraw
    have ht' : t ∈ v.fn.tasks := by rwa [← hrest] at ht
    exact ⟨.waiting t, waiting_mem_raised.mpr ⟨ht', hheld, hlive, hrunning, hdraw⟩, rfl⟩
  · intro f hf hasks
    have hf' : f ∈ v.fieldList := by rwa [← hrest] at hf
    exact ⟨.field f, field_mem_raised.mpr ⟨hf', hasks⟩, rfl⟩
  · intro lane hlane hdraw
    have hlane' : laneCode lane ∈ v.saf.stripAsked := by rwa [← hrest] at hlane
    exact ⟨.strip lane, strip_mem_raised.mpr ⟨hlane', hrunning, hdraw⟩, rfl⟩

end Sys2Proof.Machine
end

section
/-! Device scope and the arbiter (R36, R97, Table SAF-5): entering it returns tickets of commands that have ended, and changes
nothing else of the arbiter. -/

namespace Sys2Proof.Machine

section DeviceScope

variable {s t : State}

/-- The arbiter but for the tickets in use. -/
def arbRest (s : State) : ArbState := { s.arb with tickets := [] }

/-- What leaves the part a fault stands in leaves the arbiter. -/
theorem arbRest_of_faultPart (h : faultPart t = faultPart s) : arbRest t = arbRest s := by
  simp only [faultPart, Prod.mk.injEq] at h
  rw [arbRest, arbRest, h.2.1]

theorem arbRest_foldl {α : Type} {step : State → α → State} (h : ∀ s x, arbRest (step s x) = arbRest s) (l : List α) (s : State) :
    arbRest (l.foldl step s) = arbRest s := foldl_unchanged arbRest step h l s

@[simp] theorem arbRest_settleTasks : arbRest (settleTasks s) = arbRest s := by
  refine (arbRest_foldl (fun v t => ?_) _ _).trans rfl
  split <;> rfl

@[simp] theorem arbRest_clearKeys (plots : List Nat) : arbRest (clearKeys s plots) = arbRest s :=
  foldl_unchanged arbRest (fun v n => v.modPlot n fun p => { p with keys := none }) (fun _ _ => rfl) plots _

@[simp] theorem arbRest_closePlot (n : Nat) (m : PlotMode) (reason : Nat) : arbRest (closePlot s n m reason) = arbRest s := by
  simp only [closePlot, arbRest_settleTasks]
  rw [arbRest_of_faultPart (faultPart_setPlotMode _ _ _), arbRest_of_faultPart (faultPart_detachPlot _),
    arbRest_of_faultPart (faultPart_modPlot _ _), arbRest_of_faultPart (faultPart_clearMembers _), arbRest_clearKeys]
  rfl

@[simp] theorem arbRest_darkenPlots (plots : List Nat) : arbRest (darkenPlots s plots) = arbRest s := by
  refine arbRest_foldl (fun v n => ?_) _ _
  split
  · exact arbRest_clearKeys _
  · rw [arbRest_closePlot, arbRest_of_faultPart (faultPart_modPlot _ _)]
    exact arbRest_foldl (fun _ _ => arbRest_of_faultPart (faultPart_answerVault _ _ _ _ _)) _ _

@[simp] theorem arbRest_dropRemote : arbRest (dropRemote s) = arbRest s := by
  simp only [dropRemote, arbRest_settleTasks]
  exact arbRest_foldl (fun _ _ => arbRest_of_faultPart (faultPart_detachPlot _)) (List.range 64) _

@[simp] theorem arbRest_queueEvents (kind inst d0 d1 : Nat) : arbRest (queueEvents s kind inst d0 d1) = arbRest s :=
  arbRest_of_faultPart (faultPart_queueEvents _ _ _ _)
@[simp] theorem arbRest_wakeTriggers (bit : Nat) : arbRest (wakeTriggers s bit) = arbRest s :=
  arbRest_of_faultPart (faultPart_wakeTriggers _)
@[simp] theorem arbRest_structWrite (n : Nat) : arbRest (structWrite s n) = arbRest s :=
  arbRest_of_faultPart (faultPart_structWrite _)

@[simp] theorem arbRest_writeLog (r : LogRec) : arbRest (writeLog s r) = arbRest s := by
  dsimp only [writeLog]
  split_ifs <;> simp <;> rfl

@[simp] theorem arbRest_logFault (cause scope inst : Nat) (latch wider : Bool) (strikes island requester : Nat) (d0 d1 : Word) :
    arbRest (logFault s cause scope inst latch wider strikes island requester d0 d1) = arbRest s := by
  simp only [logFault]
  split
  · rfl
  · exact arbRest_writeLog _

/-- Device scope, and stack scope, which follows it in a stack (R621). -/
theorem arbRest_applyScope {code inst : Nat} (latch : Bool) (hcode : code = 6 ∨ code = 7) :
    arbRest (applyScope s code inst latch) = arbRest s := by
  have hremote : arbRest (dropRemote s) = arbRest s := arbRest_dropRemote
  unfold applyScope
  -- stack scope looks at what `dropRemote` leaves, which must not be computed: it runs through the master's 64 Plots
  generalize dropRemote s = v at hremote
  split
  case h_6 =>
    refine (arbRest_foldl (fun _ _ => arbRest_of_faultPart (faultPart_stopChannel _)) _ _).trans ?_
    rw [arbRest_dropRemote]
    exact arbRest_darkenPlots s.plotList
  case h_7 =>
    refine Eq.trans ?_ hremote
    dsimp only
    split
    · refine arbRest_foldl (fun w f => ?_) _ _
      rw [arbRest_of_faultPart (faultPart_stopField _), arbRest_darkenPlots]
    · rfl
  all_goals simp_all

theorem arbRest_tellRing (code cause island : Nat) (latch : Bool) (d0 d1 : Word) :
    arbRest (tellRing s code cause latch island d0 d1) = arbRest s := by
  have hstack : ∀ v : State, arbRest (addStackScope v cause latch island d0 d1) = arbRest v := by
    intro v
    dsimp only [addStackScope]
    split
    · exact arbRest_logFault _ _ _ _ _ _ _ _ _ _
    · rw [arbRest_applyScope latch (.inr rfl)]
      exact arbRest_logFault _ _ _ _ _ _ _ _ _ _
  unfold tellRing
  split
  · rw [hstack, arbRest_of_faultPart (faultPart_ringBroadcast _ _ _)]
  · rfl

/-- Device scope fences no engine, so no block is left without one (R60). -/
theorem enterDevice_eq (cause island requester : Nat) (d0 d1 : Word) :
    enterDevice s cause island requester d0 d1 = enterOneScope s cause 6 0 (latchingCause cause) island requester d0 d1 := by
  simp [enterDevice, enterScope]

/-- A device scope entered, or waiting for the RECOVER that is pending, leaves the arbiter but for its tickets. -/
theorem arbRest_enterDevice (cause island requester : Nat) (d0 d1 : Word) :
    arbRest (enterDevice s cause island requester d0 d1) = arbRest s := by
  rw [enterDevice_eq]
  simp only [enterOneScope, show ¬ (6 = 1 ∨ 6 = 2) by decide, false_and, true_or, if_true, if_false]
  split
  case isTrue => rfl
  case isFalse =>
    generalize hu : logFault _ _ _ _ _ _ _ _ _ _ _ = u
    have hrest : arbRest u = arbRest s := hu ▸ arbRest_logFault _ _ _ _ _ _ _ _ _ _
    split_ifs
    · exact hrest
    · rw [arbRest_tellRing, arbRest_applyScope _ (.inl rfl), hrest]

end DeviceScope
end Sys2Proof.Machine
end

section
/-! What a tick with one request gives (Table ARB-2, R38, R39, R41, R51, R53, R54), and the ticks in which the trees disagree or
LOCKSTEP is set (R36, R662); settles O18. -/

namespace Sys2Proof.Machine

section OneRequest

variable {s v : State} {r : ArbReq} {reqs : List ArbReq} {trees : TreeAgreement} {k id : Nat}

/-! ### The ticket drawn (R51) -/

/-- The search for a number finds a free one when it is long enough for every number in use. -/
theorem firstFree_not_mem {used : List Nat} (fuel n : Nat) (hbelow : ∀ m, m < n → m ∈ used) (hfuel : used.length ≤ fuel + n) :
    firstFree used fuel n ∉ used := by
  induction fuel generalizing n with
  | zero =>
    intro hn
    have hall : List.range (n + 1) ⊆ used := by
      intro m hm
      obtain hlt | rfl := Nat.lt_succ_iff_lt_or_eq.mp (List.mem_range.mp hm)
      · exact hbelow m hlt
      · exact hn
    have := (List.nodup_range.subperm hall).length_le
    simp only [List.length_range] at this
    omega
  | succ fuel ih =>
    rw [firstFree]
    split
    case isTrue hn =>
      refine ih (n + 1) (fun m hm => ?_) (by omega)
      obtain hlt | rfl := Nat.lt_succ_iff_lt_or_eq.mp hm
      · exact hbelow m hlt
      · simpa using hn
    case isFalse hn => simpa using hn

/-- A ticket is drawn where R51 finds one free, and only with LOCKSTEP not set; its number is in use by no other. -/
theorem drawTicket_some (h : drawTicket s k = some (id, v)) :
    s.canDraw k = true ∧ v.arb.lockstep = false ∧ ∀ x ∈ s.arb.tickets, x.id ≠ id := by
  have hfresh : firstFree (s.arb.tickets.map (·.id)) s.arb.tickets.length 0 ∉ s.arb.tickets.map (·.id) :=
    firstFree_not_mem _ 0 (by simp) (by simp)
  have hne : ∀ x ∈ s.arb.tickets, x.id ≠ firstFree (s.arb.tickets.map (·.id)) s.arb.tickets.length 0 :=
    fun x hx heq => hfresh (List.mem_map.mpr ⟨x, hx, heq⟩)
  simp only [drawTicket] at h
  split_ifs at h with hlock hown hshared <;> cases h
  · exact ⟨by rw [State.canDraw, decide_eq_true hown, Bool.true_or], by simpa using hlock, hne⟩
  · exact ⟨by rw [State.canDraw, decide_eq_true hshared, Bool.or_true], by simpa using hlock, hne⟩

theorem drawTicket_none (hl : s.arb.lockstep = false) (h : drawTicket s k = none) : s.canDraw k = false := by
  simp only [drawTicket, hl, Bool.false_eq_true, if_false] at h
  split_ifs at h
  simp_all [State.canDraw]

/-! ### The number issued (R39, R47) -/

/-- Before the end of the space a number is issued, one above the last, and no ticket with it. -/
theorem issueOrder_running (hl : s.arb.lockstep = false) (he : s.arb.ordEnd = false) :
    ∃ u, issueOrder s = some (s.arb.ordNext, u) ∧ u.arb.ordNext = s.arb.ordNext + 1 ∧ u.arb.tickets = s.arb.tickets := by
  simp only [issueOrder, hl, he, Bool.or_self, Bool.false_eq_true, if_false]
  split
  · exact ⟨_, rfl, by rw [demotePlots_arb], by rw [demotePlots_arb]⟩
  · exact ⟨_, rfl, rfl, rfl⟩

theorem issueOrder_ended (he : s.arb.ordEnd = true) : issueOrder s = none := by
  simp [issueOrder, he]

/-! ### The only request of a tick -/

/-- A tick in which nothing is raised but what the command brings, and the trees agree. -/
structure QuietTick (s : State) (trees : TreeAgreement) : Prop where
  quiet : s.raised [] = []
  agree : TreesAgree s trees

theorem raised_only (h : s.raised [] = []) (hr : s.takesPart r = true) : s.raised [r] = [.asked r] := by
  simp only [State.raised, List.append_eq_nil_iff] at h
  obtain ⟨⟨⟨hheld, -⟩, hfields⟩, hstrips⟩ := h
  have hasked : [r].filter s.takesPart = [r] := by simp [hr]
  rw [State.raised, hheld, hfields, hstrips, hasked]
  rfl

theorem raised_without (h : s.raised [] = []) (hr : s.takesPart r = false) : s.raised [r] = [] := by
  have hasked : [r].filter s.takesPart = [] := by simp [hr]
  rw [← h, State.raised, hasked]
  rfl

/-- The only thing raised wins, whatever the pointer. -/
theorem winner_only {w : Raised} (h : s.raised reqs = [w]) (hw : w.input < 22) : s.winner reqs = some w := by
  cases hi : s.nextInput reqs with
  | none =>
    have hnone := List.find?_eq_none.mp hi
    have hin : w.input ∈ inputOrder s.arb.pointer := by
      refine List.mem_map.mpr ⟨(w.input + (22 - s.arb.pointer % 22)) % 22, List.mem_range.mpr (Nat.mod_lt _ (by decide)), ?_⟩
      omega
    exact absurd (hnone _ hin) (by simp [h])
  | some i =>
    obtain ⟨w', hw', -, hwin⟩ := winner_on_input hi
    rw [h, List.mem_singleton] at hw'
    rw [hwin, hw']

/-- The only request of a tick, where it takes part, is given what Table ARB-2 states. -/
theorem QuietTick.grants (h : QuietTick s trees) (hr : s.takesPart r = true) (hi : r.input < 22) :
    exec (.arbiterGrant [r] ⟨trees, []⟩) s = .next (noteGrant (giveGrant s r).1 (giveGrant s r).2) := by
  have hwin : s.winner [r] = some (.asked r) := winner_only (raised_only h.quiet hr) hi
  rw [exec_arbiterGrant_winner (returned := []) h.agree (by rw [returnLoose_nil, hwin]), returnLoose_nil]
  rfl

theorem QuietTick.grants_nothing (h : QuietTick s trees) (hr : s.takesPart r = false) :
    exec (.arbiterGrant [r] ⟨trees, []⟩) s = .next s := by
  have hwin : s.winner [r] = none := winner_of_raised_nil (raised_without h.quiet hr)
  rw [exec_arbiterGrant_none (returned := []) h.agree (by rw [returnLoose_nil, hwin]), returnLoose_nil]

theorem takesPart_host (hl : s.arb.lockstep = false) (hr : r.kind = .numbered k ∨ r.kind = .horizon k) : s.takesPart r = true := by
  obtain hr | hr := hr <;> simp [State.takesPart, hr, hl]

theorem takesPart_ticket (hl : s.arb.lockstep = false) (hr : r.kind = .ticket k) : s.takesPart r = s.canDraw k := by
  simp [State.takesPart, hr, hl]

/-! ### What each kind of request is given (Table ARB-2) -/

theorem giveGrant_control (hr : r.kind = .control) : giveGrant s r = (s, ⟨r.input, none, none, none, .granted⟩) := by
  simp [giveGrant, hr]

theorem giveGrant_ticket (hr : r.kind = .ticket k) (hd : drawTicket s k = some (id, v)) :
    giveGrant s r = (noteLoose v id, ⟨r.input, none, none, some id, .granted⟩) := by
  simp [giveGrant, hr, hd]

/-- A read's horizon is the highest number issued before: the ticket it draws issues none (R41). -/
theorem giveGrant_horizon (hr : r.kind = .horizon k) (hd : drawTicket s k = some (id, v)) :
    giveGrant s r = (noteLoose v id, ⟨r.input, none, some s.horizon, some id, .granted⟩) := by
  obtain ⟨a, rfl, hnext, -⟩ := drawTicket_eq hd
  simp [giveGrant, hr, hd, State.horizon, hnext]

theorem giveGrant_numbered (hr : r.kind = .numbered k) (hd : drawTicket s k = some (id, v)) (he : s.arb.ordEnd = false) :
    ∃ u, giveGrant s r = (u, ⟨r.input, some s.arb.ordNext, none, some id, .granted⟩) ∧ u.arb.ordNext = s.arb.ordNext + 1 ∧
      u.arb.tickets = v.arb.tickets := by
  obtain ⟨-, hl, -⟩ := drawTicket_some hd
  obtain ⟨a, rfl, hnext, hend⟩ := drawTicket_eq hd
  obtain ⟨u, hissue, hafter, htickets⟩ := issueOrder_running (s := noteLoose { s with arb := a } id) hl (hend.trans he)
  refine ⟨u, ?_, hafter.trans (congrArg (· + 1) hnext), htickets⟩
  simp only [giveGrant, hr, hd, hissue]
  rw [← hnext]
  rfl

/-- Past the last number of the space a ticket is given alone (R47). -/
theorem giveGrant_ended (hr : r.kind = .numbered k) (hd : drawTicket s k = some (id, v)) (he : s.arb.ordEnd = true) :
    giveGrant s r = (noteLoose v id, ⟨r.input, none, none, some id, .granted⟩) := by
  obtain ⟨a, rfl, -, hend⟩ := drawTicket_eq hd
  simp [giveGrant, hr, hd, issueOrder_ended (s := noteLoose { s with arb := a } id) (hend.trans he)]

theorem giveGrant_noTicket (hr : r.kind = .numbered k ∨ r.kind = .horizon k) (hd : drawTicket s k = none) :
    giveGrant s r = (countTsf s k, ⟨r.input, none, none, none, noTicketEnd r k⟩) := by
  obtain hr | hr := hr <;> simp [giveGrant, hr, hd]

/-- A request that found no ticket is counted for classes 0 and 1 (R54). -/
theorem countTsf_counts (k : Nat) : (countTsf s k).arb.ordNext = s.arb.ordNext ∧ (countTsf s k).arb.tickets = s.arb.tickets ∧
    (countTsf s k).arb.tsfA = (if k = 0 then min 0xFFFF (s.arb.tsfA + 1) else s.arb.tsfA) ∧
    (countTsf s k).arb.tsfB = (if k = 1 then min 0xFFFF (s.arb.tsfB + 1) else s.arb.tsfB) := by
  have hcount : ∀ n, count 0xFFFF n = min 0xFFFF (n + 1) := fun _ => rfl
  unfold countTsf
  split_ifs with h0 h1 <;> simp_all

/-! ### The trees disagree (R36), and after it (R662) -/

theorem exec_arbiterGrant_disagree (hl : s.arb.lockstep = false)
    (htrees : trees.winnerAndPointer = false ∨ trees.orderAndTicket = false) :
    exec (.arbiterGrant reqs ⟨trees, []⟩) s = .next (lockstepFault s) := by
  show execArbiterGrant reqs ⟨trees, []⟩ s = _
  obtain h | h := htrees <;> simp [execArbiterGrant, arbiterTick, returnLoose_nil, hl, h]

/-- LOCKSTEP is set, the arbiter keeps its place, and device scope follows, latched. -/
theorem lockstepFault_faulted : (lockstepFault s).arb.lockstep = true ∧ (lockstepFault s).arb.ordNext = s.arb.ordNext ∧
    (lockstepFault s).arb.pointer = s.arb.pointer ∧ (lockstepFault s).arb.lastGrant = s.arb.lastGrant ∧
    Faulted s (lockstepFault s) 0x0031 6 0 true := by
  have hrest : arbRest (lockstepFault s) = arbRest (s.modArb fun a => { a with lockstep := true }) := arbRest_enterDevice _ _ _ _ _
  refine ⟨(congrArg ArbState.lockstep hrest :), (congrArg ArbState.ordNext hrest :), (congrArg ArbState.pointer hrest :),
    (congrArg ArbState.lastGrant hrest :), ?_⟩
  rw [lockstepFault, enterDevice_eq]
  exact enterOneScope_faulted (s := s.modArb fun a => { a with lockstep := true }) (.inr rfl)

/-- With LOCKSTEP set only accesses of the Control space are raised: nothing else draws a ticket or a number any more. -/
theorem raised_lockstep {x : Raised} (hl : s.arb.lockstep = true) (hx : x ∈ s.raised reqs) :
    ∃ r ∈ reqs, x = .asked r ∧ r.kind = .control := by
  cases x with
  | asked r =>
    obtain ⟨hr, hpart⟩ := asked_mem_raised.mp hx
    refine ⟨r, hr, rfl, ?_⟩
    cases hk : r.kind <;> simp_all [State.takesPart]
  | waiting t => simp [hl] at hx
  | field f => simp [State.fieldAsks, nextRequest, hl] at hx
  | strip lane => simp [hl] at hx

theorem exec_arbiterGrant_lockstep (hl : s.arb.lockstep = true) :
    (trees.winnerAndPointer = false → exec (.arbiterGrant reqs ⟨trees, []⟩) s = .next s) ∧
    (exec (.arbiterGrant reqs ⟨trees, []⟩) s = .next s ∨ ∃ r ∈ reqs, r.kind = .control ∧
      exec (.arbiterGrant reqs ⟨trees, []⟩) s = .next (noteGrant s ⟨r.input, none, none, none, .granted⟩)) := by
  have htick : exec (.arbiterGrant reqs ⟨trees, []⟩) s = .next (arbiterTick reqs trees s) := rfl
  refine ⟨fun h => by simp [htick, arbiterTick, hl, h], ?_⟩
  cases hwin : s.winner reqs with
  | none => exact .inl (by simp [htick, arbiterTick, hl, hwin])
  | some w =>
    obtain ⟨r, hr, rfl, hk⟩ := raised_lockstep hl (winner_mem hwin)
    cases htrees : trees.winnerAndPointer with
    | false => exact .inl (by simp [htick, arbiterTick, hl, htrees])
    | true => exact .inr ⟨r, hr, hk, by simp [htick, arbiterTick, hl, htrees, hwin, Raised.input]⟩

/-! ### The tick of the only request -/

theorem QuietTick.running (h : QuietTick s trees) : s.arb.lockstep = false := h.agree.running

/-- A Control-space access gets a position, and the grant moves the pointer alone. -/
theorem QuietTick.control (h : QuietTick s trees) (hr : r.kind = .control) (hi : r.input < 22) :
    exec (.arbiterGrant [r] ⟨trees, []⟩) s = .next (noteGrant s ⟨r.input, none, none, none, .granted⟩) := by
  rw [h.grants (by simp [State.takesPart, hr]) hi, giveGrant_control hr]

/-- A ticket drawn, with what it is granted with, changes the arbiter alone. -/
theorem granted_arb_alone (hd : drawTicket s k = some (id, v)) (g : Grant) :
    (noteGrant (noteLoose v id) g).arb.ordNext = s.arb.ordNext ∧ (noteGrant (noteLoose v id) g).arb.tickets = v.arb.tickets ∧
      { noteGrant (noteLoose v id) g with arb := s.arb } = s := by
  obtain ⟨a, rfl, hnext, -⟩ := drawTicket_eq hd
  exact ⟨hnext, rfl, rfl⟩

theorem QuietTick.ticket (h : QuietTick s trees) (hr : r.kind = .ticket k) (hi : r.input < 22) (hd : drawTicket s k = some (id, v)) :
    exec (.arbiterGrant [r] ⟨trees, []⟩) s = .next (noteGrant (noteLoose v id) ⟨r.input, none, none, some id, .granted⟩) := by
  obtain ⟨hdraw, -, -⟩ := drawTicket_some hd
  rw [h.grants ((takesPart_ticket h.running hr).trans hdraw) hi, giveGrant_ticket hr hd]

theorem QuietTick.horizon (h : QuietTick s trees) (hr : r.kind = .horizon k) (hi : r.input < 22) (hd : drawTicket s k = some (id, v)) :
    exec (.arbiterGrant [r] ⟨trees, []⟩) s =
      .next (noteGrant (noteLoose v id) ⟨r.input, none, some s.horizon, some id, .granted⟩) := by
  rw [h.grants (takesPart_host h.running (.inr hr)) hi, giveGrant_horizon hr hd]

theorem QuietTick.numbered (h : QuietTick s trees) (hr : r.kind = .numbered k) (hi : r.input < 22)
    (hd : drawTicket s k = some (id, v)) (he : s.arb.ordEnd = false) :
    ∃ u, exec (.arbiterGrant [r] ⟨trees, []⟩) s = .next u ∧
      u.arb.lastGrant = some ⟨r.input, some s.arb.ordNext, none, some id, .granted⟩ ∧ u.arb.ordNext = s.arb.ordNext + 1 ∧
      u.arb.tickets = v.arb.tickets := by
  obtain ⟨u, hgive, hnext, htickets⟩ := giveGrant_numbered hr hd he
  refine ⟨_, h.grants (takesPart_host h.running (.inl hr)) hi, ?_⟩
  rw [hgive]
  exact ⟨rfl, hnext, htickets⟩

theorem QuietTick.ended (h : QuietTick s trees) (hr : r.kind = .numbered k) (hi : r.input < 22)
    (hd : drawTicket s k = some (id, v)) (he : s.arb.ordEnd = true) :
    exec (.arbiterGrant [r] ⟨trees, []⟩) s = .next (noteGrant (noteLoose v id) ⟨r.input, none, none, some id, .granted⟩) := by
  rw [h.grants (takesPart_host h.running (.inl hr)) hi, giveGrant_ended hr hd he]

/-- Internal work without a ticket is not granted: its request stays raised (R55). -/
theorem QuietTick.ticket_refused (h : QuietTick s trees) (hr : r.kind = .ticket k) (hd : drawTicket s k = none) :
    exec (.arbiterGrant [r] ⟨trees, []⟩) s = .next s :=
  h.grants_nothing ((takesPart_ticket h.running hr).trans (drawTicket_none h.running hd))

/-- A host's request without a ticket gets nothing, and ends (R53, R54). -/
theorem QuietTick.noTicket (h : QuietTick s trees) (hr : r.kind = .numbered k ∨ r.kind = .horizon k) (hi : r.input < 22)
    (hd : drawTicket s k = none) : exec (.arbiterGrant [r] ⟨trees, []⟩) s =
      .next (noteGrant (countTsf s k) ⟨r.input, none, none, none, noTicketEnd r k⟩) := by
  rw [h.grants (takesPart_host h.running hr) hi, giveGrant_noTicket hr hd]

/-! ### A ticket that returns (R22, R52) -/

theorem returnLoose_single (h : id ∈ s.arb.loose) : returnLoose s [id] = returnOne s id := by
  simp [returnLoose_eq, h]

theorem returnOne_frees (s : State) (id : Nat) : (∀ x ∈ (returnOne s id).arb.tickets, x.id ≠ id) ∧ id ∉ (returnOne s id).arb.loose := by
  simp [returnOne, releaseTicket]

end OneRequest

/-- Settles O18: the only request of a tick is the winner and gets what its kind is given; the ticks of disagreeing trees and
those after them grant no number and no ticket. -/
theorem arbiterGivesNumbersHorizonsTickets : Obligations.ArbiterGivesNumbersHorizonsTickets := by
  intro s trees
  refine ⟨fun hquiet hl hwin hord i bot cap hi => ?_, fun id hl hwin hord hloose hnone => ?_, fun reqs hl htrees => ?_,
    fun reqs hl => ?_⟩
  · have h : QuietTick s trees := ⟨hquiet, hl, hwin, hord⟩
    refine ⟨⟨_, h.control rfl hi, rfl, rfl, rfl, rfl⟩, fun k id v hd => ?_, fun k hd => ⟨h.ticket_refused rfl hd, fun r hr => ?_⟩⟩
    · obtain ⟨-, -, hfresh⟩ := drawTicket_some hd
      have harb := granted_arb_alone hd
      refine ⟨hfresh, ⟨_, h.ticket rfl hi hd, rfl, (harb _).2⟩, ⟨_, h.horizon rfl hi hd, rfl, harb _⟩,
        fun he => h.numbered rfl hi hd he, fun he => ⟨_, h.ended rfl hi hd he, rfl, (harb _).1⟩⟩
    · obtain ⟨hnext, htickets, hcounts⟩ := countTsf_counts (s := s) k
      obtain rfl | rfl := hr
      · exact ⟨_, h.noTicket (.inl rfl) hi hd, rfl, hnext, htickets, hcounts⟩
      · exact ⟨_, h.noTicket (.inr rfl) hi hd, rfl, hnext, htickets, hcounts⟩
  · obtain ⟨htickets, hgone⟩ := returnOne_frees s id
    rw [← returnLoose_single hloose] at htickets hgone
    exact ⟨_, exec_arbiterGrant_none ⟨hl, hwin, hord⟩ (winner_of_raised_nil hnone), htickets, hgone⟩
  · exact ⟨_, exec_arbiterGrant_disagree hl htrees, lockstepFault_faulted⟩
  · obtain ⟨hrefused, hexec | ⟨r, hr, hk, hexec⟩⟩ := exec_arbiterGrant_lockstep (reqs := reqs) (trees := trees) hl
    · exact ⟨hrefused, s, hexec, rfl, rfl, rfl, .inl rfl⟩
    · exact ⟨hrefused, _, hexec, rfl, rfl, rfl, .inr ⟨r, hr, hk, rfl⟩⟩

end Sys2Proof.Machine
end

section
/-! What Field work, the ends of commands and the detach of a port leave alone (Table SAF-5, R24, R61 to R64, R230): the Safelight
state, power, security, the watchdog's registers and the slots of the channels. -/

namespace Sys2Proof.Machine

section MonitorPart

variable {s : State}

/-- The two slots a channel may be withdrawn for (R80, R502). -/
def ChanState.slots (k : ChanState) : Bool × Bool := (k.swept, k.zq)

/-- The parts of the state that the monitors, the sweep and RECOVER keep for themselves. -/
def monitorPart (s : State) : SafState × PwrState × SecState × (Nat × Nat × Nat) × List (Bool × Bool) :=
  (s.saf, s.pwr, s.sec, (s.arb.wdogReq, s.arb.wdogResp, s.arb.wdogCount), s.chans.map ChanState.slots)

/-! ### Updates of other parts -/

@[simp] theorem monitorPart_modPlot (n : Nat) (f : PlotState → PlotState) : monitorPart (s.modPlot n f) = monitorPart s := rfl
@[simp] theorem monitorPart_modField (n : Nat) (f : FieldState → FieldState) : monitorPart (s.modField n f) = monitorPart s := rfl
@[simp] theorem monitorPart_modEngine (n : Nat) (f : CipherState → CipherState) : monitorPart (s.modEngine n f) = monitorPart s := rfl
@[simp] theorem monitorPart_modBank (n : Nat) (f : BankState → BankState) : monitorPart (s.modBank n f) = monitorPart s := rfl
@[simp] theorem monitorPart_modTasks (f : List Task → List Task) : monitorPart (s.modTasks f) = monitorPart s := rfl
@[simp] theorem monitorPart_modFn (f : FnState → FnState) : monitorPart (s.modFn f) = monitorPart s := rfl
@[simp] theorem monitorPart_modGrn (f : GrnState → GrnState) : monitorPart (s.modGrn f) = monitorPart s := rfl
@[simp] theorem monitorPart_modLay (f : LayState → LayState) : monitorPart (s.modLay f) = monitorPart s := rfl
@[simp] theorem monitorPart_modStk (f : StkState → StkState) : monitorPart (s.modStk f) = monitorPart s := rfl
@[simp] theorem monitorPart_modMpu (f : MpuState → MpuState) : monitorPart (s.modMpu f) = monitorPart s := rfl
@[simp] theorem monitorPart_modHold (f : HoldState → HoldState) : monitorPart (s.modHold f) = monitorPart s := rfl
@[simp] theorem monitorPart_onField (n : Nat) (f : FieldState → FEnv → FieldState) : monitorPart (onField s n f) = monitorPart s := rfl
@[simp] theorem monitorPart_setTask (key : TaskKey) (f : Task → Task) : monitorPart (setTask s key f) = monitorPart s := rfl
@[simp] theorem monitorPart_markReady (addr n field : Nat) : monitorPart (markReady s addr n field) = monitorPart s := rfl
@[simp] theorem monitorPart_drawNat : monitorPart s.drawNat.2 = monitorPart s := rfl
@[simp] theorem monitorPart_noteGrant (g : Grant) : monitorPart (noteGrant s g) = monitorPart s := rfl
@[simp] theorem monitorPart_releaseTicket (id : Nat) : monitorPart (releaseTicket s id) = monitorPart s := rfl
@[simp] theorem monitorPart_abortTasks (sel : Task → Bool) : monitorPart (abortTasks s sel) = monitorPart s := rfl
@[simp] theorem monitorPart_dropRekey (n : Nat) : monitorPart (dropRekey s n) = monitorPart s := rfl
@[simp] theorem monitorPart_orphanChecks (p : Port) : monitorPart (orphanChecks s p) = monitorPart s := rfl
@[simp] theorem monitorPart_modPort (p : Port) (f : PortState → PortState) : monitorPart (s.modPort p f) = monitorPart s := by
  cases p <;> rfl
@[simp] theorem monitorPart_modPfn (p : Port) (f : PortFn → PortFn) : monitorPart (s.modPfn p f) = monitorPart s := by
  cases p <;> rfl

/-- A channel changed in anything but its slots. -/
theorem monitorPart_modChan (n : Nat) {f : ChanState → ChanState} (h : ∀ k, (f k).slots = k.slots) :
    monitorPart (s.modChan n f) = monitorPart s := by
  have hmap : (s.chans.modify n f).map ChanState.slots = s.chans.map ChanState.slots := by
    refine List.ext_getElem? fun i => ?_
    rw [List.getElem?_map, List.getElem?_map, List.getElem?_modify]
    cases s.chans[i]? with
    | none => rfl
    | some k =>
      by_cases hi : n = i
      · simp [hi, h]
      · simp [hi]
  simp [monitorPart, hmap]

theorem monitorPart_drawTicket {k id : Nat} {t : State} (h : drawTicket s k = some (id, t)) : monitorPart t = monitorPart s := by
  unfold drawTicket at h
  split at h
  · cases h
  · dsimp only at h
    split_ifs at h <;> cases h <;> rfl

@[simp] theorem monitorPart_foldl {α : Type} {step : State → α → State} (h : ∀ s x, monitorPart (step s x) = monitorPart s) (l : List α)
    (s : State) : monitorPart (l.foldl step s) = monitorPart s :=
  foldl_unchanged monitorPart step h l s

@[simp] theorem monitorPart_ite {c : Prop} [Decidable c] {t u : State} :
    monitorPart (if c then t else u) = if c then monitorPart t else monitorPart u := apply_ite monitorPart c t u

/-! ### Events, frames and answers -/

@[simp] theorem monitorPart_queueEvents (kind inst d0 d1 : Nat) : monitorPart (queueEvents s kind inst d0 d1) = monitorPart s := by
  refine monitorPart_foldl (fun u p => ?_) _ _
  unfold queueEvent
  split <;> simp

@[simp] theorem monitorPart_wakeTriggers (bit : Nat) : monitorPart (wakeTriggers s bit) = monitorPart s := by
  refine monitorPart_foldl (fun u p => ?_) _ _
  simp only [wakeTrigger]
  split <;> simp

@[simp] theorem monitorPart_structWrite (n : Nat) : monitorPart (structWrite s n) = monitorPart s := monitorPart_modGrn _

@[simp] theorem monitorPart_setPlotMode (n : Nat) (m : PlotMode) (reason : Nat) :
    monitorPart (setPlotMode s n m reason) = monitorPart s := by
  simp only [setPlotMode]
  split <;> simp

@[simp] theorem monitorPart_demotePlots (plots : List Nat) (cause : Nat) : monitorPart (demotePlots s plots cause) = monitorPart s := by
  refine monitorPart_foldl (fun u n => ?_) _ _
  split <;> simp

@[simp] theorem monitorPart_releaseSems (id : Identity) (cause : Nat) : monitorPart (releaseSems s id cause) = monitorPart s := by
  simp only [releaseSems]
  split <;> rfl

@[simp] theorem monitorPart_dropCapsule (p : Port) (fn : CapsuleFn) : monitorPart (dropCapsule s p fn) = monitorPart s := by
  simp only [dropCapsule]
  split <;> simp

@[simp] theorem monitorPart_detachPlot (n : Nat) : monitorPart (detachPlot s n) = monitorPart s := by
  refine monitorPart_foldl (fun u p => ?_) _ _
  split <;> simp

@[simp] theorem monitorPart_ringSend (ty dest tag : Nat) (resp : Bool) (payload : List Byte) :
    monitorPart (ringSend s ty dest tag resp payload) = monitorPart s := by
  rw [ringSend_eq]; rfl

@[simp] theorem monitorPart_ringRequest (ty dest : Nat) (payload : List Byte) (second : Option (Nat × List Byte)) (why : ReqWhy) :
    monitorPart (ringRequest s ty dest payload second why).1 = monitorPart s := by
  rw [ringRequest_eq]; rfl

@[simp] theorem monitorPart_ringBroadcast (ty tag : Nat) (payload : List Byte) :
    monitorPart (ringBroadcast s ty tag payload) = monitorPart s := by
  simp only [ringBroadcast]
  split_ifs <;> rfl

@[simp] theorem monitorPart_sendPair (dest tag order lba flags plot bank : Nat) (env : Envelope) (data : List Byte) :
    monitorPart (sendPair s dest tag order lba flags plot bank env data) = monitorPart s := by
  simp [sendPair]

@[simp] theorem monitorPart_clearMembers (n : Nat) : monitorPart (clearMembers s n) = monitorPart s := by
  unfold clearMembers
  split
  · exact monitorPart_foldl (fun _ _ => monitorPart_ringRequest _ _ _ _ _) _ _
  · rfl

@[simp] theorem monitorPart_settleTasks : monitorPart (settleTasks s) = monitorPart s := by
  refine (monitorPart_foldl (fun u t => ?_) _ _).trans rfl
  split <;> simp

@[simp] theorem monitorPart_clearKeys (plots : List Nat) : monitorPart (clearKeys s plots) = monitorPart s :=
  (monitorPart_foldl (fun _ n => monitorPart_modPlot n _) plots _).trans rfl

@[simp] theorem monitorPart_closePlot (n : Nat) (m : PlotMode) (reason : Nat) : monitorPart (closePlot s n m reason) = monitorPart s := by
  simp [closePlot]

@[simp] theorem monitorPart_dropRemote : monitorPart (dropRemote s) = monitorPart s := by
  simp [dropRemote]

@[simp] theorem monitorPart_modEp (p : Port) (k ep : Nat) (f : EpState → EpState) : monitorPart (modEp s p k ep f) = monitorPart s :=
  monitorPart_modPort _ _

@[simp] theorem monitorPart_sendIn (key : TaskKey) (bytes : Nat) : monitorPart (sendIn s key bytes) = monitorPart s := by
  unfold sendIn
  split
  · rfl
  · split
    · rfl
    · dsimp only
      split_ifs <;> simp

@[simp] theorem monitorPart_sendScsi (key : TaskKey) (st : ScsiStatus) (data : List Byte) :
    monitorPart (sendScsi s key st data) = monitorPart s := by
  simp [sendScsi]

@[simp] theorem monitorPart_respond (p : Port) (fn : CapsuleFn) (r : Response) : monitorPart (respond s p fn r) = monitorPart s :=
  monitorPart_modPfn _ _

@[simp] theorem monitorPart_answerVault (a : Asker) (opcode status detail : Nat) (payload : List Byte) :
    monitorPart (answerVault s a opcode status detail payload) = monitorPart s := by
  cases a <;> simp [answerVault]

@[simp] theorem monitorPart_answerCapsule (t : Task) (status detail : Nat) (payload : List Byte) :
    monitorPart (answerCapsule s t status detail payload) = monitorPart s := by
  simp only [answerCapsule]
  split
  · rfl
  · split <;> simp

@[simp] theorem monitorPart_failPair (pos : Nat) (t : Task) (st : ScsiStatus) : monitorPart (failPair s pos t st) = monitorPart s :=
  monitorPart_sendPair _ _ _ _ _ _ _ _ _

@[simp] theorem monitorPart_answerTask (t : Task) (st : ScsiStatus) (data : List Byte) :
    monitorPart (answerTask s t st data) = monitorPart s := by
  simp only [answerTask]
  split
  · rfl
  · split <;> simp

/-! ### Reads and aborts -/

@[simp] theorem monitorPart_concludeRead (t : Task) : monitorPart (concludeRead s t) = monitorPart s := by
  unfold concludeRead
  split
  · simp
  · split
    · split
      · split <;> simp
      · simp
    · simp

@[simp] theorem monitorPart_forwardBlock (t : Task) (j : BlockJob) : monitorPart (forwardBlock s t j) = monitorPart s := by
  unfold forwardBlock
  split
  · rfl
  · dsimp only
    split <;> simp

@[simp] theorem monitorPart_forwardZero (t : Task) (i : Nat) : monitorPart (forwardZero s t i) = monitorPart s := by
  simp only [forwardZero]
  split <;> simp

@[simp] theorem monitorPart_closeRead (t : Task) : monitorPart (closeRead s t) = monitorPart s := by
  unfold closeRead
  split
  · simp
  · split <;> simp

@[simp] theorem monitorPart_advanceRead (t : Task) : monitorPart (advanceRead s t) = monitorPart s := by
  simp only [advanceRead]
  split
  · rfl
  · split <;> split_ifs <;> simp

@[simp] theorem monitorPart_advanceReads : monitorPart (advanceReads s) = monitorPart s := by
  refine monitorPart_foldl (fun u t => ?_) _ _
  split <;> simp

@[simp] theorem monitorPart_failReads (addr n field : Nat) : monitorPart (failReads s addr n field) = monitorPart s := by
  refine monitorPart_foldl (fun u t => monitorPart_foldl (fun v x => ?_) _ _) _ _
  simp only [failBlock]
  split <;> simp

@[simp] theorem monitorPart_abortPort (p : Port) (sel : Task → Bool) : monitorPart (abortPort s p sel) = monitorPart s := by
  simp [abortPort, abortAnd]

/-- The detach of a port (R230). -/
@[simp] theorem monitorPart_detachPort (p : Port) (cause : Nat) : monitorPart (detachPort s p cause) = monitorPart s := by
  simp [detachPort, resetPort, dropCapsules]

/-! ### Die queues and pages -/

@[simp] theorem monitorPart_queueOnce (wide : Bool) (op : DieOp) : monitorPart (queueOnce s wide op) = monitorPart s := by
  unfold queueOnce
  split
  · rfl
  · split
    · rfl
    · refine monitorPart_modChan _ fun k => ?_
      dsimp only
      split <;> rfl

@[simp] theorem monitorPart_queuePage (f : Nat) (b : BlkId) (page : Nat) (rekey : Option Nat) :
    monitorPart (queuePage s f b page rekey) = monitorPart s := monitorPart_queueOnce _ _

@[simp] theorem monitorPart_sendShadow (f pos page plot lba order : Nat) :
    monitorPart (sendShadow s f pos page plot lba order) = monitorPart s := by
  unfold sendShadow
  split
  · rfl
  · split
    · rfl
    · dsimp only
      split <;> simp [freeStage]

@[simp] theorem monitorPart_releaseRemote (f pos page : Nat) (r : PageRec) :
    monitorPart (releaseRemote s f pos page r) = monitorPart s := by
  simp only [releaseRemote]
  split <;> simp

@[simp] theorem monitorPart_syncRemote (f : Nat) : monitorPart (syncRemote s f) = monitorPart s := by
  refine monitorPart_foldl (fun u r => (monitorPart_releaseRemote _ _ _ _).trans (monitorPart_foldl (fun v x => ?_) _ _)) _ _
  split <;> simp

@[simp] theorem monitorPart_dropDead (f : Nat) : monitorPart (dropDead s f) = monitorPart s := by
  simp only [dropDead]
  split
  · rfl
  · refine monitorPart_foldl (fun u c => ?_) _ _
    exact monitorPart_modChan c fun _ => rfl

@[simp] theorem monitorPart_syncQueues (f : Nat) : monitorPart (syncQueues s f) = monitorPart s := by
  simp only [syncQueues]
  split_ifs <;> simp

@[simp] theorem monitorPart_pageArrived (f : Nat) (b : BlkId) (page slot n : Nat) (ok : Bool) :
    monitorPart (pageArrived s f b page slot n ok) = monitorPart s := by
  simp only [pageArrived]
  split_ifs <;> simp

@[simp] theorem monitorPart_settleRebuilds (f : Nat) : monitorPart (settleRebuilds s f) = monitorPart s :=
  monitorPart_foldl (fun _ _ => by simp) _ _

@[simp] theorem monitorPart_askMember (f : Nat) (b : BlkId) (page : Nat) : monitorPart (askMember s f b page).1 = monitorPart s := by
  unfold askMember
  split <;> simp

@[simp] theorem monitorPart_askRebuild (f : Nat) (x : Rebuild) : monitorPart (askRebuild s f x) = monitorPart s := by
  refine monitorPart_foldl (fun u y => ?_) _ _
  split
  · simp
  · split
    · split <;> simp
    · dsimp only
      split <;> simp

@[simp] theorem monitorPart_askRebuilds (f : Nat) : monitorPart (askRebuilds s f) = monitorPart s :=
  (monitorPart_settleRebuilds f).trans (monitorPart_foldl (fun _ _ => monitorPart_askRebuild _ _) _ _)

@[simp] theorem monitorPart_wantPage (f : Nat) (b : BlkId) (page : Nat) (rekey : Option Nat) :
    monitorPart (wantPage s f b page rekey) = monitorPart s := by
  simp only [wantPage]
  split_ifs <;> simp

@[simp] theorem monitorPart_askMerges (f : Nat) : monitorPart (askMerges s f) = monitorPart s :=
  monitorPart_foldl (fun _ _ => monitorPart_wantPage _ _ _ _) _ _

@[simp] theorem monitorPart_askSegments (f : Nat) : monitorPart (askSegments s f) = monitorPart s := by
  refine (monitorPart_foldl (fun u x => ?_) _ _).trans (monitorPart_modField _ _)
  split
  · dsimp only
    split <;> simp
  · rfl

/-! ### Internal work -/

@[simp] theorem monitorPart_grantRequest (f : Nat) (r : FieldReq) : monitorPart (grantRequest s f r) = monitorPart s := by
  unfold grantRequest
  split
  · rfl
  case h_2 id u hdraw =>
    refine Eq.trans ?_ (monitorPart_drawTicket hdraw)
    cases r <;> simp [beginRequest]

@[simp] theorem monitorPart_grantRequests (f fuel : Nat) : monitorPart (grantRequests f fuel s) = monitorPart s := by
  induction fuel generalizing s with
  | zero => rfl
  | succ fuel ih =>
    unfold grantRequests
    split
    · rfl
    · rw [ih, monitorPart_grantRequest]

@[simp] theorem monitorPart_feedMove (f : Nat) (m : MoveRun) : monitorPart (feedMove s f m) = monitorPart s := by
  simp only [feedMove]
  split
  · simp
  · split <;> simp

@[simp] theorem monitorPart_endMoves (f : Nat) : monitorPart (endMoves s f) = monitorPart s := by
  refine monitorPart_foldl (fun u m => ?_) _ _
  dsimp only
  split_ifs
  · rfl
  all_goals split <;> simp

@[simp] theorem monitorPart_stepFix (f : Nat) : monitorPart (stepFix s f) = monitorPart s := by
  unfold stepFix
  split
  · split_ifs <;> simp
  · rfl

@[simp] theorem monitorPart_beginRekey (f n : Nat) : monitorPart (beginRekey s f n) = monitorPart s := by
  simp only [beginRekey]
  split
  · rfl
  · split
    · rfl
    · split_ifs <;> simp

@[simp] theorem monitorPart_rekeyWork (f : Nat) : monitorPart (rekeyWork s f) = monitorPart s := by
  have hpause : monitorPart (pauseRekeys s f) = monitorPart s := by
    refine (monitorPart_foldl (fun u m => ?_) _ _).trans (monitorPart_modField _ _)
    split <;> simp
  refine (monitorPart_foldl (fun _ _ => monitorPart_foldl (fun _ _ => monitorPart_wantPage _ _ _ _) _ _) _ _).trans ?_
  exact (monitorPart_foldl (fun _ _ => monitorPart_beginRekey _ _) _ _).trans (by simp [hpause])

@[simp] theorem monitorPart_writeRecord (n : Nat) (f : KeyRecord → KeyRecord) : monitorPart (writeRecord s n f) = monitorPart s := by
  simp [writeRecord]

@[simp] theorem monitorPart_endRekeys (f : Nat) : monitorPart (endRekeys s f) = monitorPart s := by
  refine monitorPart_foldl (fun u n => ?_) _ _
  dsimp only
  split <;> simp

@[simp] theorem monitorPart_internalWork (f : Nat) : monitorPart (internalWork s f) = monitorPart s := by
  have hfeed : ∀ (l : List MoveRun) (u : State), monitorPart (l.foldl (fun s m => feedMove s f m) u) = monitorPart u :=
    fun l u => monitorPart_foldl (fun _ _ => monitorPart_feedMove _ _) l u
  simp only [internalWork]
  split
  · rfl
  · simp [hfeed, sweepEmpty]

/-! ### A Field's Read-only state, its health and its commands -/

@[simp] theorem monitorPart_updateHeadland (f : Nat) : monitorPart (updateHeadland s f) = monitorPart s := by
  unfold updateHeadland
  split
  · rfl
  · simp

@[simp] theorem monitorPart_updateHealth (f : Nat) : monitorPart (updateHealth s f) = monitorPart s := by
  unfold updateHealth
  split
  · rfl
  · refine (monitorPart_foldl (fun u n => ?_) _ _).trans (monitorPart_modField _ _)
    dsimp only
    split <;> simp

@[simp] theorem monitorPart_runWaiters (f : Nat) : monitorPart (runWaiters s f) = monitorPart s := by
  refine monitorPart_foldl (fun u w => ?_) _ _
  dsimp only
  split_ifs
  · split <;> simp
  · rfl

@[simp] theorem monitorPart_runSecure (f : Nat) : monitorPart (runSecure s f) = monitorPart s := by
  refine monitorPart_foldl (fun u r => ?_) _ _
  dsimp only
  split
  · split <;> simp
  · simp

@[simp] theorem monitorPart_sealFields : monitorPart (sealFields s) = monitorPart s := by
  simp only [sealFields]
  split
  · rw [monitorPart_modHold]
    refine monitorPart_foldl (fun u f => ?_) _ _
    split <;> simp
  · rfl

/-- Everything a Field manager does at one moment. -/
@[simp] theorem monitorPart_runField (f : Nat) : monitorPart (runField s f) = monitorPart s := by
  unfold runField
  split
  · rfl
  · split
    · rfl
    · dsimp only
      split <;> simp [forceDue]

@[simp] theorem monitorPart_runFields : monitorPart (runFields s) = monitorPart s :=
  monitorPart_foldl (fun _ _ => monitorPart_runField _) _ _

@[simp] theorem monitorPart_develop (f : Nat) (cover : SlotUse → Bool) : monitorPart (develop s f cover) = monitorPart s := by
  simp [develop]

/-! ### Channels stopped, lost and returned -/

@[simp] theorem monitorPart_settleRecipe (c : Nat) : monitorPart (settleRecipe s c) = monitorPart s := by
  unfold settleRecipe
  split
  · exact (monitorPart_modChan _ fun _ => by simp [ChanState.slots]).trans (monitorPart_modLay _)
  · rfl

@[simp] theorem monitorPart_stopChannel (c : Nat) : monitorPart (stopChannel s c) = monitorPart s := by
  have hstop : ∀ u : State, monitorPart (u.modChan c stopDies) = monitorPart u := fun u => monitorPart_modChan _ fun _ => rfl
  simp only [stopChannel, monitorPart_settleRecipe, hstop]
  split <;> simp

@[simp] theorem monitorPart_stopField (f : Nat) : monitorPart (stopField s f) = monitorPart s := by
  unfold stopField
  split
  · rfl
  · exact monitorPart_foldl (fun _ _ => monitorPart_stopChannel _) _ _

@[simp] theorem monitorPart_loseChannel (f chan : Nat) : monitorPart (loseChannel s f chan) = monitorPart s := by
  simp only [loseChannel]
  split <;> simp [rebuildAsked]

@[simp] theorem monitorPart_darkenPlots (plots : List Nat) : monitorPart (darkenPlots s plots) = monitorPart s := by
  refine monitorPart_foldl (fun u n => ?_) _ _
  split
  · simp
  · simp only [monitorPart_closePlot, monitorPart_modPlot]
    exact monitorPart_foldl (fun _ _ => monitorPart_answerVault _ _ _ _ _) _ _

@[simp] theorem monitorPart_redispatch (j : BlockJob) : monitorPart (redispatch s j) = monitorPart s := by
  have hdispatch : monitorPart (dispatchJob s j).1 = monitorPart s := by
    unfold dispatchJob
    split <;> rfl
  simp only [redispatch]
  split <;> simp [hdispatch]

end MonitorPart

end Sys2Proof.Machine
end

section
/-! Faults join what stands (R97, R110, R116): whatever scope is entered, and in whatever bank access or read it happens, the
scopes in force and the waiting faults stay, and the rest of the Safelight state, power, security, the watchdog's registers and
the channels in no slot are left alone. -/

namespace Sys2Proof.Machine

section FaultsJoin

variable {s t u : State}

/-- The Safelight state but for what a fault adds to. -/
def SafState.settings (q : SafState) : SafState := { q with scopes := [], causeCode := 0, log := [], logHead := 0, deferred := [] }

/-- From one state to another nothing but faults has been added to what the monitors, the sweep and RECOVER keep. -/
structure FaultsJoin (s t : State) : Prop where
  scopes : ∀ c ∈ s.saf.scopes, c ∈ t.saf.scopes
  deferred : ∀ d ∈ s.saf.deferred, d ∈ t.saf.deferred
  noneWaits : s.saf.recPending = none → t.saf.deferred = s.saf.deferred
  settings : t.saf.settings = s.saf.settings
  pwr : t.pwr = s.pwr
  sec : t.sec = s.sec
  wdog : (t.arb.wdogReq, t.arb.wdogResp, t.arb.wdogCount) = (s.arb.wdogReq, s.arb.wdogResp, s.arb.wdogCount)
  swept : ∀ ch, (s.chan ch).swept = false → (t.chan ch).swept = false
  zq : ∀ ch, (s.chan ch).zq = false → (t.chan ch).zq = false

/-- What is read of the Safelight state and no fault adds to. -/
theorem FaultsJoin.setting {α : Type} (h : FaultsJoin s t) (read : SafState → α) (hread : ∀ q : SafState, read q.settings = read q) :
    read t.saf = read s.saf := by
  rw [← hread, h.settings, hread]

theorem FaultsJoin.recPending (h : FaultsJoin s t) : t.saf.recPending = s.saf.recPending :=
  h.setting SafState.recPending fun _ => rfl

theorem FaultsJoin.refl (s : State) : FaultsJoin s s :=
  ⟨fun _ h => h, fun _ h => h, fun _ => rfl, rfl, rfl, rfl, rfl, fun _ h => h, fun _ h => h⟩

theorem FaultsJoin.trans (h : FaultsJoin s t) (k : FaultsJoin t u) : FaultsJoin s u where
  scopes c hc := k.scopes c (h.scopes c hc)
  deferred d hd := k.deferred d (h.deferred d hd)
  noneWaits hn := (k.noneWaits (h.recPending.trans hn)).trans (h.noneWaits hn)
  settings := k.settings.trans h.settings
  pwr := k.pwr.trans h.pwr
  sec := k.sec.trans h.sec
  wdog := k.wdog.trans h.wdog
  swept ch hc := k.swept ch (h.swept ch hc)
  zq ch hc := k.zq ch (h.zq ch hc)

theorem FaultsJoin.foldl {α : Type} {step : State → α → State} (h : ∀ s x, FaultsJoin s (step s x)) (l : List α) (s : State) :
    FaultsJoin s (l.foldl step s) :=
  List.foldlRecOn l step (motive := fun t => FaultsJoin s t) (.refl s) fun _ ht x _ => ht.trans (h _ x)

theorem chan_slots (s : State) (ch : Nat) : (s.chan ch).slots = (s.chans.map ChanState.slots).getD ch (false, false) := by
  simp only [State.chan, List.getD, List.getElem?_map]
  cases s.chans[ch]? <;> rfl

theorem FaultsJoin.of_part (h : monitorPart t = monitorPart s) : FaultsJoin s t := by
  simp only [monitorPart, Prod.mk.injEq] at h
  obtain ⟨hsaf, hpwr, hsec, ⟨hreq, hresp, hcount⟩, hslots⟩ := h
  have hchan : ∀ ch, (t.chan ch).slots = (s.chan ch).slots := fun ch => by rw [chan_slots, chan_slots, hslots]
  refine ⟨fun _ => hsaf ▸ id, fun _ => hsaf ▸ id, fun _ => by rw [hsaf], by rw [hsaf], hpwr, hsec, by rw [hreq, hresp, hcount],
    fun ch => ?_, fun ch => ?_⟩
  · exact (congrArg Prod.fst (hchan ch)).trans
  · exact (congrArg Prod.snd (hchan ch)).trans

/-- The Safelight state alone changed, in what a fault adds to. -/
theorem FaultsJoin.of_saf {q : SafState} (hs : ∀ c ∈ s.saf.scopes, c ∈ q.scopes) (hd : q.deferred = s.saf.deferred)
    (hq : q.settings = s.saf.settings) : FaultsJoin s { s with saf := q } :=
  ⟨hs, fun _ h => hd ▸ h, fun _ => hd, hq, rfl, rfl, rfl, fun _ h => h, fun _ h => h⟩

theorem FaultsJoin.addScope {q : SafState} (c : Scope) (hs : q.scopes = s.saf.scopes ++ [c]) (hd : q.deferred = s.saf.deferred)
    (hq : q.settings = s.saf.settings) : FaultsJoin s { s with saf := q } :=
  .of_saf (fun x hx => by rw [hs]; exact List.mem_append_left _ hx) hd hq

/-- A channel changed, put into no slot. -/
theorem FaultsJoin.modChan (n : Nat) {f : ChanState → ChanState} (hswept : ∀ k, k.swept = false → (f k).swept = false)
    (hzq : ∀ k, k.zq = false → (f k).zq = false) : FaultsJoin s (s.modChan n f) := by
  have hchan : ∀ ch, (s.modChan n f).chan ch = s.chan ch ∨ (s.modChan n f).chan ch = f (s.chan ch) := by
    intro ch
    by_cases hn : n = ch
    · subst hn
      by_cases hlen : n < s.chans.length
      · exact .inr (State.modChan_chan _ _ _ hlen)
      · exact .inl (by simp [State.chan, State.modChan, List.getD, hlen])
    · exact .inl (State.modChan_chan_ne _ _ _ _ hn)
  refine ⟨fun _ h => h, fun _ h => h, fun _ => rfl, rfl, rfl, rfl, rfl, fun ch => ?_, fun ch => ?_⟩
  all_goals obtain h | h := hchan ch <;> rw [h]
  · exact id
  · exact hswept _
  · exact id
  · exact hzq _

/-! ### Records and scopes -/

theorem writeLog_joins (r : LogRec) : FaultsJoin s (writeLog s r) := by
  let numbered : LogRec := { r with seq := s.saf.logHead + 1, time := s.timeUs, frame := s.lastFrame }
  let told : State := { s with saf := { s.saf with log := (numbered :: s.saf.log).take 256, logHead := s.saf.logHead + 1 } }
  have htold : FaultsJoin s told := .of_saf (fun _ h => h) rfl rfl
  refine htold.trans (.of_part ?_)
  dsimp only [writeLog]
  split_ifs <;> simp <;> rfl

theorem deferFault_joins (h : s.saf.recPending ≠ none) (r : LogRec) (enters : Bool) (who : Option (Nat × Nat)) :
    FaultsJoin s (deferFault s r enters who) :=
  ⟨fun _ h => h, fun _ h => List.mem_append_left _ h, fun hn => absurd hn h, rfl, rfl, rfl, rfl, fun _ h => h, fun _ h => h⟩

theorem logFault_joins (cause scope inst : Nat) (latch wider : Bool) (strikes island requester : Nat) (d0 d1 : Word) :
    FaultsJoin s (logFault s cause scope inst latch wider strikes island requester d0 d1) := by
  simp only [logFault]
  split
  case isTrue h => exact deferFault_joins (Option.isSome_iff_ne_none.mp h) _ _ _
  case isFalse h => exact writeLog_joins _

theorem fenceChannel_joins (c : Nat) (latch : Bool) : FaultsJoin s (fenceChannel s c latch) := by
  simp only [fenceChannel]
  generalize hfenced : (stopChannel s c).modChan c _ = fenced
  have hstop : FaultsJoin s fenced := by
    rw [← hfenced]
    exact .trans (.of_part (monitorPart_stopChannel c)) (.modChan c (fun _ _ => rfl) (fun _ _ => rfl))
  refine hstop.trans (.of_part ?_)
  split <;> simp

/-- What a scope does when it is entered (Table SAF-5). -/
theorem applyScope_joins (code inst : Nat) (latch : Bool) : FaultsJoin s (applyScope s code inst latch) := by
  have hremote : monitorPart (dropRemote s) = monitorPart s := monitorPart_dropRemote
  unfold applyScope
  -- stack scope looks at what `dropRemote` leaves, which must not be computed: it runs through the master's 64 Plots
  generalize dropRemote s = v at hremote
  split
  case h_2 => exact fenceChannel_joins inst latch
  case h_3 => exact .of_part (by dsimp only; split <;> simp)
  case h_6 => exact .of_part (by simp; exact monitorPart_darkenPlots s.plotList)
  case h_7 => exact .of_part (Eq.trans (by dsimp only; split <;> simp) hremote)
  all_goals exact .of_part (by simp)

theorem addStackScope_joins (cause island : Nat) (latch : Bool) (d0 d1 : Word) :
    FaultsJoin s (addStackScope s cause latch island d0 d1) := by
  have hscope : ∀ c, FaultsJoin s (s.modSaf fun q => { q with scopes := q.scopes ++ [c] }) := fun c => .addScope c rfl rfl rfl
  dsimp only [addStackScope]
  split
  · exact (hscope _).trans (logFault_joins _ _ _ _ _ _ _ _ _ _)
  · exact (hscope _).trans ((logFault_joins _ _ _ _ _ _ _ _ _ _).trans (applyScope_joins _ _ _))

theorem tellRing_joins (code cause island : Nat) (latch : Bool) (d0 d1 : Word) :
    FaultsJoin s (tellRing s code cause latch island d0 d1) := by
  unfold tellRing
  split
  · exact (FaultsJoin.of_part (monitorPart_ringBroadcast _ _ _)).trans (addStackScope_joins _ _ _ _ _)
  · exact .refl s

theorem addStrike_joins (code inst : Nat) : FaultsJoin s (addStrike s code inst) := by
  unfold addStrike
  split_ifs
  · exact .of_part (by simp)
  · exact .modChan inst (fun _ => id) (fun _ => id)
  · exact .refl s

section Scope

variable {cause code inst island requester : Nat} {latch : Bool} {d0 d1 : Word} {who : Option (Nat × Nat)}

/-- With no RECOVER pending the scope joins those in force, and what follows leaves it standing. -/
theorem enterOneScope_inForce (h : s.saf.recPending = none) :
    ∃ v, FaultsJoin s v ∧
      (∃ c ∈ v.saf.scopes, c.code = code ∧ c.inst = scopeKey code inst ∧ c.cause = cause ∧ c.latch = latch) ∧
      FaultsJoin v (enterOneScope s cause code inst latch island requester d0 d1 who) := by
  dsimp only [enterOneScope]
  rw [if_neg (by simp [h])]
  simp only [← scopeKey.eq_1]
  generalize hstruck : (if (code = 1 ∨ code = 2) ∧ (!s.inScope code (scopeKey code inst)) = true then addStrike s code inst else s) = s0
  generalize (if (code = 1 ∨ code = 2) ∧ (!s.inScope code (scopeKey code inst)) = true then strikesAfter s code inst else 0) = strikes
  generalize hu : logFault _ cause code _ latch _ _ island requester d0 d1 = u
  have hs0 : FaultsJoin s s0 := by
    rw [← hstruck]
    split
    · exact addStrike_joins code inst
    · exact .refl s
  refine ⟨u, ?_, ⟨⟨code, scopeKey code inst, cause, latch, s.widerThan code inst, island, who⟩, ?_, rfl, rfl, rfl, rfl⟩, ?_⟩
  · rw [← hu]
    refine .trans (hs0.trans ?_) (logFault_joins _ _ _ _ _ _ _ _ _ _)
    exact .addScope _ rfl rfl rfl
  · rw [← hu]
    exact (logFault_joins _ _ _ _ _ _ _ _ _ _).scopes _ (List.mem_append_right _ (List.mem_singleton.mpr rfl))
  · generalize hw : (if s.inScope code (scopeKey code inst) = true then u
      else tellRing (applyScope u code (scopeKey code inst) latch) code cause latch island d0 d1) = w
    refine .trans (t := w) ?_ ?_
    · rw [← hw]
      split
      · exact .refl _
      · exact (applyScope_joins _ _ _).trans (tellRing_joins _ _ _ _ _ _)
    · split
      · refine .trans ?_ (logFault_joins _ _ _ _ _ _ _ _ _ _)
        split
        · refine .trans ?_ (.of_part (monitorPart_modEngine inst _))
          exact .addScope _ rfl rfl rfl
        · refine .trans ?_ (.modChan inst (fun _ => id) (fun _ => id))
          exact .addScope _ rfl rfl rfl
      · exact .refl w

theorem enterOneScope_joins : FaultsJoin s (enterOneScope s cause code inst latch island requester d0 d1 who) := by
  cases h : s.saf.recPending with
  | none =>
    obtain ⟨v, hv, -, hafter⟩ := enterOneScope_inForce (s := s) h
    exact hv.trans hafter
  | some r =>
    rw [enterOneScope_pending (by simp [h])]
    exact deferFault_joins (by simp [h]) _ _ _

theorem noCipher_joins : FaultsJoin s (noCipher s) := by
  unfold noCipher
  split
  · exact .refl s
  · refine .trans ?_ enterOneScope_joins
    exact .of_part rfl

theorem enterScope_follows : FaultsJoin (enterOneScope s cause code inst latch island requester d0 d1 who)
    (enterScope s cause code inst latch island requester d0 d1 who) := by
  simp only [enterScope]
  split
  · exact noCipher_joins
  · exact .refl _

theorem enterScope_joins : FaultsJoin s (enterScope s cause code inst latch island requester d0 d1 who) :=
  enterOneScope_joins.trans enterScope_follows

theorem enterDevice_joins : FaultsJoin s (enterDevice s cause island requester d0 d1) := enterScope_joins

/-! ### A fault that leads to a scope (R97, R116) -/

/-- A fault that was met stays met. -/
theorem Faulted.joined (h : Faulted s t cause code inst latch) (k : FaultsJoin t u) : Faulted s u cause code inst latch := by
  obtain ⟨hnow, hlater⟩ := h
  refine ⟨fun hr => ?_, fun hr => ?_⟩
  · obtain ⟨c, hc, hsame⟩ := hnow hr
    exact ⟨c, k.scopes c hc, hsame⟩
  · obtain ⟨d, hd, hsame⟩ := hlater hr
    exact ⟨d, k.deferred d hd, hsame⟩

/-- What comes before a fault leaves a pending RECOVER pending, so the fault is one of the state before. -/
theorem Faulted.before (h : Faulted t u cause code inst latch) (k : t.saf.recPending = s.saf.recPending) :
    Faulted s u cause code inst latch := by
  unfold Faulted at h
  rwa [k] at h

/-- Every scope is entered, or waits. -/
theorem enterScope_faulted :
    Faulted s (enterScope s cause code inst latch island requester d0 d1 who) cause code (scopeKey code inst) latch := by
  refine Faulted.joined ⟨fun h => ?_, fun h => ?_⟩ enterScope_follows
  · obtain ⟨v, -, ⟨c, hc, hsame⟩, hafter⟩ := enterOneScope_inForce (s := s) h
    exact ⟨c, hafter.scopes c hc, hsame⟩
  · rw [enterOneScope_pending (Option.isSome_iff_ne_none.mpr h)]
    exact ⟨_, List.mem_append_right _ (List.mem_singleton.mpr rfl), rfl, rfl, rfl⟩

theorem enterDevice_faulted : Faulted s (enterDevice s cause island requester d0 d1) cause 6 0 (latchingCause cause) :=
  enterScope_faulted

/-! ### The fault of an island (R78, Table SAF-3) -/

theorem mem_bankScope {b : BankState} {x : Nat × Nat} (h : x ∈ bankScope s b) : x = (6, 0) ∨ x.1 = 4 := by
  unfold bankScope at h
  dsimp only at h
  split_ifs at h
  · exact .inl (List.mem_singleton.mp h)
  · exact .inr (by rw [List.mem_singleton.mp h])
  · obtain ⟨f, -, rfl⟩ := List.mem_map.mp h
    exact .inr rfl
  · cases h

/-- Device scope in Table SAF-3 names no number. -/
theorem islandScopes_key {x : Nat × Nat × Bool} (h : x ∈ islandScopes s island) : scopeKey x.1 x.2.1 = x.2.1 := by
  unfold islandScopes at h
  split at h
  case h_3 =>
    obtain ⟨y, hy, rfl⟩ := List.mem_map.mp h
    obtain ⟨b, -, hb⟩ := List.mem_flatMap.mp (List.mem_dedup.mp hy)
    obtain rfl | hcode := mem_bankScope hb
    · rfl
    · simp [scopeKey, hcode]
  case h_4 =>
    obtain ⟨y, -, rfl⟩ := List.mem_map.mp h
    rfl
  case h_1 =>
    split at h <;> obtain rfl := List.mem_singleton.mp h <;> rfl
  case h_10 => cases h
  all_goals obtain rfl := List.mem_singleton.mp h; rfl

theorem islandScopes_congr (hm : t.member = s.member) (hb : t.banks = s.banks) (hl : t.layout = s.layout) (island : Nat) :
    islandScopes t island = islandScopes s island := by
  have hfields : t.fieldList = s.fieldList := by rw [State.fieldList, State.fieldList, hl]
  have hbank : bankScope t = bankScope s := funext fun b => by simp only [bankScope, fieldsOfIsland, hfields]
  simp only [islandScopes, bankScopes, fieldsOfIsland, hm, hb, hfields, hbank]

theorem islandFault_joins : FaultsJoin s (islandFault s cause island requester d0 d1 who) := by
  have hscopes : ∀ v, FaultsJoin s v → FaultsJoin s (if (islandScopes s island).isEmpty then
      logFault v cause 0 0xFFFF false false 0 island requester d0 d1
      else (islandScopes s island).foldl (fun s x => enterScope s cause x.1 x.2.1 x.2.2 island requester d0 d1 who) v) := by
    intro v hv
    refine hv.trans ?_
    split
    · exact logFault_joins _ _ _ _ _ _ _ _ _ _
    · exact .foldl (fun _ _ => enterScope_joins) _ _
  refine hscopes _ ?_
  split
  · exact .of_part (monitorPart_modStk _)
  · exact .refl s

/-- One round of a fold meets a fault, and the others leave it met. -/
theorem foldl_faulted {α : Type} {step : State → α → State} (hjoin : ∀ s x, FaultsJoin s (step s x)) {l : List α} {x : α}
    (hx : x ∈ l) (hmeet : ∀ s, Faulted s (step s x) cause code inst latch) (s : State) :
    Faulted s (l.foldl step s) cause code inst latch := by
  induction l generalizing s with
  | nil => cases hx
  | cons y l ih =>
    obtain rfl | hl := List.mem_cons.mp hx
    · exact (hmeet s).joined (.foldl hjoin l _)
    · exact (ih hl _).before (hjoin s y).recPending

/-- A fault of an island puts every scope of its row of Table SAF-3 in force, or all of them wait. -/
theorem islandFault_faulted {x : Nat × Nat × Bool} (hx : x ∈ islandScopes s island) :
    Faulted s (islandFault s cause island requester d0 d1 who) cause x.1 x.2.1 x.2.2 := by
  have hsome : (islandScopes s island).isEmpty = false := List.isEmpty_eq_false_iff.mpr (List.ne_nil_of_mem hx)
  have hscopes : ∀ v : State, v.saf.recPending = s.saf.recPending → Faulted s ((islandScopes s island).foldl
      (fun s x => enterScope s cause x.1 x.2.1 x.2.2 island requester d0 d1 who) v) cause x.1 x.2.1 x.2.2 := by
    intro v hv
    refine (foldl_faulted (fun _ _ => enterScope_joins) hx (fun w => ?_) v).before hv
    simpa only [islandScopes_key hx] using enterScope_faulted (s := w) (code := x.1) (inst := x.2.1) (latch := x.2.2)
  simp only [islandFault, hsome, Bool.false_eq_true, if_false]
  refine hscopes _ ?_
  split <;> rfl

end Scope

/-! ### Transfers and reads (R26, R547, R554, R558) -/

theorem refuseWord_joins (id : Identity) (addr : Nat) : FaultsJoin s (refuseWord s id addr) := by
  unfold refuseWord
  split
  · exact islandFault_joins
  · exact .refl s

theorem bankError_joins (id : Identity) (addr : Nat) (parity : Bool) : FaultsJoin s (bankError s id addr parity) :=
  .trans (.of_part (monitorPart_modBank _ _)) islandFault_joins

theorem portServe_joins (id : Identity) (b word : Nat) (read : Bool) : FaultsJoin s (portServe s id b word read) :=
  .of_part rfl

theorem bankTransfer_joins (id : Identity) (lo bytes : Nat) (k : AccessKind) : FaultsJoin s (bankTransfer s id lo bytes k).1 := by
  unfold bankTransfer
  dsimp only
  split
  · exact .trans (.of_part (monitorPart_modMpu _)) (refuseWord_joins _ _)
  · split
    · exact .trans (.foldl (fun _ _ => .of_part (monitorPart_modMpu _)) _ _) (refuseWord_joins _ _)
    · refine (portServe_joins id (lo / bankBytes) (lo % bankBytes / 8) (k == .read)).trans ?_
      split
      · exact .of_part rfl
      · split
        · exact .refl _
        · refine .trans (t := (portServe s id (lo / bankBytes) (lo % bankBytes / 8) (k == .read)).drawBool.2) (.of_part rfl) ?_
          split
          · exact bankError_joins _ _ _
          · exact .refl _

theorem mapTransfer_joins (f : Nat) (k : AccessKind) : FaultsJoin s (mapTransfer s f k).1 := by
  simp only [mapTransfer, fieldTransfer]
  split
  · exact .refl s
  · exact .trans (.of_part monitorPart_drawNat) (bankTransfer_joins _ _ _ _)

theorem touchSegment_joins (f plot unit : Nat) (dirty : Bool) : FaultsJoin s (touchSegment s f plot unit dirty).1 := by
  have htransfer := mapTransfer_joins (s := s) f (if dirty then .write else .read)
  unfold touchSegment
  generalize mapTransfer s f (if dirty then .write else .read) = p at htransfer ⊢
  obtain ⟨v, ok⟩ := p
  cases ok
  · exact htransfer
  · exact htransfer.trans (.of_part (by simp))

@[simp] theorem monitorPart_readRemote (t : Task) (lba pos addr : Nat) : monitorPart (readRemote s t lba pos addr) = monitorPart s := by
  simp only [readRemote]
  split
  · simp
  · split <;> simp

@[simp] theorem monitorPart_offerBlock (f : Nat) (t : Task) (i addr : Nat) (first : Bool) :
    monitorPart (offerBlock s f t i addr first) = monitorPart s := by
  simp only [offerBlock]
  split <;> simp

theorem lookupBlock_joins (f : Nat) (t : Task) (i : Nat) : FaultsJoin s (lookupBlock s f t i).1 := by
  simp only [lookupBlock]
  split
  · exact .refl s
  · split
    · exact touchSegment_joins _ _ _ _
    · exact (touchSegment_joins _ _ _ _).trans (.of_part (monitorPart_setTask _ _))

theorem offerRead_joins (t : Task) : FaultsJoin s (offerRead s t) := by
  unfold offerRead
  split
  · exact .refl s
  case h_2 f hf =>
    split
    · exact .refl s
    · refine .foldl (fun v i => ?_) _ _
      split
      · exact .refl v
      case h_2 t' ht =>
        split
        · exact .refl v
        · split
          · split
            · exact .refl v
            · exact .of_part (monitorPart_offerBlock _ _ _ _ _)
          · have hlook : FaultsJoin v (lookupBlock v f t' i).1 := lookupBlock_joins f t' i
            split
            case h_1 w a h =>
              rw [h] at hlook
              exact hlook.trans (.of_part (monitorPart_offerBlock _ _ _ _ _))
            case h_2 w h =>
              rw [h] at hlook
              exact hlook

@[simp] theorem monitorPart_answerRead (medium : Bool) (r : MemberRead) : monitorPart (answerRead s medium r) = monitorPart s := by
  refine (monitorPart_foldl (fun u i => ?_) _ _).trans (monitorPart_modStk _)
  unfold sendUnit
  split
  · simp
  · exact (monitorPart_sendPair _ _ _ _ _ _ _ _ _).trans rfl

@[simp] theorem monitorPart_offerMemberRead (r : MemberRead) : monitorPart (offerMemberRead s r) = monitorPart s := by
  unfold offerMemberRead
  split
  · simp
  · split
    · simp
    · simp

theorem offerReads_joins : FaultsJoin s (offerReads s) := by
  unfold offerReads
  generalize hv : (s.fn.tasks.filter fun t => isReadTask t && t.statusDue && !t.held).foldl _ s = v
  have hoffered : FaultsJoin s v := hv ▸ .foldl (fun _ t => offerRead_joins t) _ _
  exact hoffered.trans (.of_part (by simp))

/-- What reads do when they go on (R42, R64, R377). -/
theorem serveReads_joins : FaultsJoin s (serveReads s) :=
  offerReads_joins.trans (.of_part monitorPart_advanceReads)

/-- The blocks of bulk re-keys are handed to the engines, or find none (R60, R350). -/
theorem offerRekeys_joins : FaultsJoin s (offerRekeys s) := by
  have hdispatch : ∀ (u : State) (j : BlockJob), FaultsJoin u (dispatchJob u j).1 := by
    intro u j
    refine .of_part ?_
    unfold dispatchJob
    split <;> rfl
  refine .foldl (fun v f => ?_) _ _
  split
  · exact .refl v
  · refine .foldl (fun w x => ?_) _ _
    extract_lets todo
    split
    · exact .refl w
    · split
      · exact noCipher_joins
      · refine .foldl (fun y lba => ?_) _ _
        dsimp only
        split
        · exact .refl y
        · split <;> exact hdispatch _ _

end FaultsJoin

end Sys2Proof.Machine
end

section
/-! The continuous monitors (R66, R72 to R77, R360 to R362, R420, R628, Table SAF-3): what each report stores, and the scope it leads
to; O6 and O7. -/

namespace Sys2Proof.Machine

section Monitors

variable {s u : State}

/-! ### Reports that lead to device scope at once (R73, R76, R360, R361, R628) -/

/-- Device scope entered from a state that differs in no pending RECOVER: the scope is in force or waits, and power, security and
the Safelight settings are those of that state. -/
theorem enterDevice_from {cause island requester : Nat} {d0 d1 : Word} (h : u.saf.recPending = s.saf.recPending) :
    Faulted s (enterDevice u cause island requester d0 d1) cause 6 0 (latchingCause cause) :=
  enterDevice_faulted.before h

theorem exec_referenceLoss_seen (h : s.pwr.refPresent = true) : exec .referenceLoss s =
    .next (enterDevice { s with pwr := { s.pwr with refPresent := false } } 0x0041 0xFF 0xFF 0 0) :=
  congrArg Host.Outcome.next (if_pos h)

theorem exec_referenceLoss_unseen (h : s.pwr.refPresent = false) : exec .referenceLoss s = .next s :=
  congrArg Host.Outcome.next (if_neg (by simp [h]))

/-- The registers of a rail out of its window (R76). -/
def railOut (s : State) (rail : Rail) : State := s.modSaf fun q => { q with
  railOut := q.railOut ||| 2 ^ railBit rail
  railNow := rail :: q.railNow.filter (· != rail) }

theorem exec_railFault_out {rail : Rail} (mv : Nat) (hrail : ¬ (s.member = .z1 ∧ rail = .vddSram)) (hoff : s.pwr.state ≠ .off) :
    exec (.railFault rail mv) s = .next (enterDevice (railOut s rail) 0x0050 0xFF 0xFF (w32 (railBit rail)) (w32 mv)) :=
  congrArg Host.Outcome.next (if_neg (by simp [hrail, hoff]))

theorem exec_railFault_off (rail : Rail) (mv : Nat) (hoff : s.pwr.state = .off) : exec (.railFault rail mv) s = .next s :=
  congrArg Host.Outcome.next (if_pos (.inr hoff))

theorem exec_tamper_on (hoff : s.pwr.state ≠ .off) :
    exec .tamper s = .next (enterDevice (s.modSec fun q => { q with tamperLow := true }) 0x0090 0xFF 0xFF 0 0) :=
  congrArg Host.Outcome.next (if_neg hoff)

theorem exec_tamper_off (hoff : s.pwr.state = .off) :
    exec .tamper s = .next { s with sec := { s.sec with tamperLow := true, tamperSeen := true } } :=
  congrArg Host.Outcome.next (if_pos hoff)

theorem exec_entropy_failed (n : Nat) : exec (.entropy (some n)) s =
    .next (enterDevice (s.modSec fun q => { q with entropyOk := false }) 0x0091 0xFF 0xFF (w32 n) 0) := rfl

/-! ### Islands (R65, R66, R72, R78) -/

/-- The deviation of an island's count from the count its multiplier asks for (R72). -/
def clockDev (s : State) (island cnt mult : Nat) : Int := ((cnt * s.islandDiv island : Nat) : Int) - (256 * mult : Nat)

section Clock

variable {island cnt mult : Nat} (hmult : s.islandMult island = some mult) (hruns : s.islandRuns island = true)
  (href : s.pwr.refPresent = true)

include hmult hruns href

theorem exec_freqMonitorWindow_off (h : ((256 * mult : Nat) : Int) < 50 * ((clockDev s island cnt mult).natAbs : Int)) :
    ∃ d1, exec (.freqMonitorWindow island cnt false) s = .next (islandFault s 0x0040 island 0xFF (w32 island) d1) := by
  refine ⟨w32 (signedField 32 (clockDev s island cnt mult * 1000000 / (256 * mult : Nat))), ?_⟩
  show execFreqMonitorWindow island cnt false s = _
  rw [clockDev] at h ⊢
  simp only [execFreqMonitorWindow, hmult, hruns, href]
  rw [if_neg (by simp), if_pos h]

theorem exec_freqMonitorWindow_in (h : 50 * ((clockDev s island cnt mult).natAbs : Int) ≤ ((256 * mult : Nat) : Int)) :
    exec (.freqMonitorWindow island cnt false) s = .next s := by
  show execFreqMonitorWindow island cnt false s = _
  rw [clockDev] at h
  simp only [execFreqMonitorWindow, hmult, hruns, href]
  rw [if_neg (by simp), if_neg (not_lt.mpr h)]

end Clock

/-- A window with a clock change in it is not evaluated (R187). -/
theorem exec_freqMonitorWindow_changed (island cnt : Nat) : exec (.freqMonitorWindow island cnt true) s = .next s := by
  show execFreqMonitorWindow island cnt true s = _
  unfold execFreqMonitorWindow
  split
  · rfl
  · simp

/-- A transfer dropped by its watchdog changes engines, commands and dies alone (R65). -/
theorem dropTransfer_parts (island : Nat) : monitorPart (dropTransfer s island) = monitorPart s ∧
    (dropTransfer s island).member = s.member ∧ (dropTransfer s island).banks = s.banks ∧ (dropTransfer s island).lay = s.lay := by
  have hbus : ∀ (v : State) (c d : Nat), monitorPart (freeBus v c d) = monitorPart v := by
    intro v c d
    refine Eq.trans ?_ (monitorPart_modChan c (f := fun k => if k.phase == some d then { k with phase := none } else k) fun k => ?_)
    · exact monitorPart_modChan c fun _ => rfl
    · split <;> rfl
  unfold dropTransfer
  split
  · split
    · exact ⟨rfl, rfl, rfl, rfl⟩
    · dsimp only
      split <;> exact ⟨rfl, rfl, rfl, rfl⟩
  · split
    · exact ⟨rfl, rfl, rfl, rfl⟩
    · split
      · exact ⟨rfl, rfl, rfl, rfl⟩
      · split
        · exact ⟨rfl, rfl, rfl, rfl⟩
        · exact ⟨(hbus _ _ _).trans (monitorPart_modChan _ fun _ => rfl), rfl, rfl, rfl⟩
  · exact ⟨rfl, rfl, rfl, rfl⟩

/-- The registers of a fired watchdog (R66). -/
def wdogNoted (s : State) (a b : Nat) : State :=
  s.modArb fun q => { q with wdogReq := a % 256, wdogResp := b % 256, wdogCount := count 0xFFFF q.wdogCount }

theorem exec_watchdogExpiry (a b : Nat) : exec (.watchdogExpiry a b) s =
    .next (offerRekeys (islandFault (dropTransfer (wdogNoted s a b) a) 0x0030 b 0xFF (w32 b) (w32 a))) := rfl

theorem dropTransfer_joins (island : Nat) : FaultsJoin s (dropTransfer s island) := .of_part (dropTransfer_parts island).1

theorem islandScopes_watchdog (a b : Nat) : islandScopes (dropTransfer (wdogNoted s a b) a) b = islandScopes s b := by
  obtain ⟨-, hmember, hbanks, hlay⟩ := dropTransfer_parts (s := wdogNoted s a b) a
  exact islandScopes_congr hmember hbanks (congrArg LayState.active hlay) b

/-! ### SOF windows (R74, R75) -/

/-- What an SOF window stores. -/
def sofNoted (s : State) (a b : Option Int) : State :=
  let check := s.saf.sofCheck && s.hasLayout
  s.modSaf fun q => { q with ppmA := a, ppmB := b, devA := sofRun a check q.devA, devB := sofRun b check q.devB }

/-- The deviation of port B, which a Z1 has not. -/
def ppmOfB (s : State) (countB : Option Nat) : Option Int := if s.member.ports = 1 then none else countB.map sofPpm

/-- What follows from the windows stored at `u` (R74, R75). -/
def sofJudged (s u : State) (a b : Option Int) : State :=
  if !(s.saf.sofCheck && s.hasLayout) then u
  else if (a.isSome || b.isSome) && (a.isNone || u.saf.devA == 2) && (b.isNone || u.saf.devB == 2) then
    if u.stands fun c _ => c == 0x0042 then u else enterDevice u 0x0042 0xFF 0xFF (ppmWord a) (ppmWord b)
  else
    let v := if sofAlone a b u.saf.devA u.saf.devB && !sofAlone s.saf.ppmA s.saf.ppmB s.saf.devA s.saf.devB then
      logFault u 0x0043 0 0 false false 0 0xFF 0xFF 0 (ppmWord a) else u
    if sofAlone b a v.saf.devB v.saf.devA && !sofAlone s.saf.ppmB s.saf.ppmA s.saf.devB s.saf.devA then
      logFault v 0x0043 0 1 false false 0 0xFF 0xFF 1 (ppmWord b) else v

theorem exec_sofWindow (countA countB : Option Nat) : exec (.sofWindow countA countB) s =
    .next (sofJudged s (sofNoted s (countA.map sofPpm) (ppmOfB s countB)) (countA.map sofPpm) (ppmOfB s countB)) := rfl

theorem sofJudged_joins (a b : Option Int) : FaultsJoin u (sofJudged s u a b) := by
  have hlog : ∀ (v : State) (c : Bool) (i p : Nat) (d : Word),
      FaultsJoin v (if c then logFault v 0x0043 0 i false false 0 0xFF 0xFF (w32 p) d else v) := by
    intro v c i p d
    split
    · exact logFault_joins _ _ _ _ _ _ _ _ _ _
    · exact .refl v
  unfold sofJudged
  split
  · exact .refl u
  · split
    · split
      · exact .refl u
      · exact enterDevice_joins
    · exact (hlog u _ 0 0 _).trans (hlog _ _ 1 1 _)

/-- A port whose window is the second in a row to deviate. -/
theorem sofRun_deviates {x : Int} {run : Nat} (hx : 1000 < x.natAbs) (hrun : 1 ≤ run) : sofRun (some x) true run = 2 := by
  simp only [sofRun, if_pos hx, if_true]
  omega

theorem sofNoted_deviates {x y : Int} (hcheck : (s.saf.sofCheck && s.hasLayout) = true) (hx : 1000 < x.natAbs)
    (hy : 1000 < y.natAbs) (hrunA : 1 ≤ s.saf.devA) (hrunB : 1 ≤ s.saf.devB) :
    (sofNoted s (some x) (some y)).saf.devA = 2 ∧ (sofNoted s (some x) (some y)).saf.devB = 2 := by
  simp only [sofNoted, hcheck]
  exact ⟨sofRun_deviates hx hrunA, sofRun_deviates hy hrunB⟩

/-- Both ports have deviated for a second window in a row, and the fault does not stand. -/
theorem sofJudged_both {x y : Int} (hcheck : (s.saf.sofCheck && s.hasLayout) = true) (hA : u.saf.devA = 2) (hB : u.saf.devB = 2)
    (hnew : (u.stands fun c _ => c == 0x0042) = false) :
    sofJudged s u (some x) (some y) = enterDevice u 0x0042 0xFF 0xFF (ppmWord (some x)) (ppmWord (some y)) := by
  simp [sofJudged, hcheck, hA, hB, hnew]

/-! ### Temperature (R77, R219, R220) and the dose (R420) -/

/-- The alert is no reading: the Safelight state, the sensors and Tj stay. -/
theorem tempAlert_keeps : (tempAlert s).saf = s.saf ∧ (tempAlert s).pwr.sens = s.pwr.sens ∧ (tempAlert s).pwr.tj = s.pwr.tj := by
  have hpart : ∀ (v : State) (alert : Bool), monitorPart v = monitorPart (s.modPwr fun q => { q with alert := alert }) →
      v.saf = s.saf ∧ v.pwr.sens = s.pwr.sens ∧ v.pwr.tj = s.pwr.tj := by
    intro v alert h
    have hpwr : v.pwr = _ := congrArg (fun p => p.2.1) h
    exact ⟨congrArg Prod.fst h, by rw [hpwr]; rfl, by rw [hpwr]; rfl⟩
  unfold tempAlert
  dsimp only
  split_ifs
  · exact hpart _ true (by simp)
  · exact hpart _ false (by simp)
  · exact ⟨rfl, rfl, rfl⟩

/-- Consecutive samples above 115 °C (R77). -/
def hotCounts (sens : List Int) (old : List Nat) : List Nat :=
  (List.range 24).map fun i => if 460 < sens.getD i 0 then min 3 (old.getD i 0 + 1) else 0

/-- What a temperature sample stores. -/
def sampled (s : State) (sens : List Int) : State :=
  (s.modPwr fun q => { q with
    sens := sens, tj := (hottest sens).2, tjSensor := (hottest sens).1, peak := max q.peak (hottest sens).2 }).modSaf fun q =>
    { q with hot := hotCounts sens s.saf.hot }

/-- Device scope for each sensor in its second hot sample. -/
def hotFaults (s : State) (sens : List Int) (hot : List Nat) : State :=
  ((List.range 24).filter fun i => hot.getD i 0 == 2).foldl (fun s i =>
    enterDevice s 0x0051 0xFF 0xFF (w32 i) (w32 (signedField 32 (sens.getD i 0)))) s

theorem exec_tempSample {readings : List Int} (hlen : readings.length = 24) (hoff : s.pwr.state ≠ .off) :
    exec (.tempSample readings) s =
      .next (hotFaults (tempAlert (sampled s readings)) readings (hotCounts readings s.saf.hot)) := by
  have hsens : (readings ++ s.pwr.sens.drop readings.length).take 24 = readings := by simp [← hlen]
  have hsome : readings ≠ [] := by rintro rfl; simp at hlen
  show execTempSample readings s = _
  simp only [execTempSample, hsens, hoff, hsome, or_self, if_false]
  rfl

theorem exec_tempSample_off (readings : List Int) (hoff : s.pwr.state = .off) : exec (.tempSample readings) s = .next s :=
  congrArg Host.Outcome.next (if_pos (.inl hoff))

theorem hotFaults_joins (sens : List Int) (hot : List Nat) : FaultsJoin s (hotFaults s sens hot) :=
  .foldl (fun _ _ => enterDevice_joins) _ _

theorem hotFaults_faulted {sens : List Int} {hot : List Nat} {i : Nat} (hi : i < 24) (hhot : hot.getD i 0 = 2) :
    Faulted s (hotFaults s sens hot) 0x0051 6 0 false :=
  foldl_faulted (x := i) (fun _ _ => enterDevice_joins) (List.mem_filter.mpr ⟨List.mem_range.mpr hi, by rw [hhot]; rfl⟩)
    (fun _ => enterDevice_faulted) s

theorem hotCounts_second {sens : List Int} {old : List Nat} {i : Nat} (hi : i < 24) (hhot : 460 < sens.getD i 0)
    (hold : old.getD i 0 = 1) : (hotCounts sens old).getD i 0 = 2 := by
  rw [hotCounts, List.getD_eq_getElem?_getD, List.getElem?_map, List.getElem?_range hi, Option.map_some, Option.getD_some, if_pos hhot, hold]
  rfl

theorem exec_doseTick_on (hoff : s.pwr.state ≠ .off) : exec .doseTick s = .next { s with
    fields := s.fields.map fun f => addIncrement f (doseCharge (s.pwr.tj / 4)), wall := { s.wall with e := s.wall.e + 1 } } :=
  congrArg Host.Outcome.next (if_neg hoff)

theorem exec_doseTick_off (hoff : s.pwr.state = .off) : exec .doseTick s = .next s :=
  congrArg Host.Outcome.next (if_pos hoff)

end Monitors

/-- Settles O6: each of the five reports enters device scope from a state that differs from the one before in its own registers. -/
theorem monitorsEnterDeviceScope : Obligations.MonitorsEnterDeviceScope := by
  intro s
  refine ⟨fun h => ?_, exec_referenceLoss_unseen, fun rail mv hrail hoff => ?_, fun hoff => ?_, exec_tamper_off, ?_, fun n => ?_, rfl⟩
  · refine ⟨_, exec_referenceLoss_seen h, enterDevice_from rfl, ?_⟩
    rw [(enterDevice_joins).pwr]
  · refine ⟨_, exec_railFault_out mv hrail hoff, enterDevice_from rfl, ?_⟩
    exact enterDevice_joins.setting SafState.railOut fun _ => rfl
  · refine ⟨_, exec_tamper_on hoff, enterDevice_from rfl, ?_⟩
    rw [(enterDevice_joins).sec]
    rfl
  · exact ⟨_, rfl, enterDevice_faulted⟩
  · refine ⟨_, exec_entropy_failed n, enterDevice_from rfl, ?_⟩
    rw [(enterDevice_joins).sec]
    rfl

/-- Settles O7: each report stores its readings, and the scopes it leads to join those in force without touching them. -/
theorem monitorWindowsMeasure : Obligations.MonitorWindowsMeasure := by
  intro s
  refine ⟨fun island cnt mult hmult hruns href => ?_, exec_freqMonitorWindow_changed, fun a b => ?_, fun a b => ?_, ?_, ?_,
    exec_doseTick_on, fun hoff => ⟨exec_doseTick_off hoff, (exec_tempSample_off · hoff), (exec_railFault_off · · hoff)⟩⟩
  · refine ⟨fun h => ?_, exec_freqMonitorWindow_in hmult hruns href⟩
    obtain ⟨d1, hexec⟩ := exec_freqMonitorWindow_off hmult hruns href h
    exact ⟨_, hexec, fun x hx => islandFault_faulted hx⟩
  · have hdrop : FaultsJoin (wdogNoted s a b) (dropTransfer (wdogNoted s a b) a) := dropTransfer_joins a
    have hall := (hdrop.trans (islandFault_joins (cause := 0x0030) (island := b) (requester := 0xFF) (d0 := w32 b) (d1 := w32 a)
      (who := none))).trans offerRekeys_joins
    obtain ⟨hreq, hresp, hcount⟩ : _ ∧ _ ∧ _ := by simpa only [Prod.mk.injEq] using hall.wdog
    refine ⟨_, exec_watchdogExpiry a b, hreq, hresp, hcount, fun x hx => ?_⟩
    rw [← islandScopes_watchdog a b] at hx
    exact ((islandFault_faulted hx).joined offerRekeys_joins).before hdrop.recPending
  · refine ⟨_, exec_sofWindow a b, ?_, ?_⟩
    · exact (sofJudged_joins _ _).setting SafState.ppmA fun _ => rfl
    · exact (sofJudged_joins _ _).setting SafState.ppmB fun _ => rfl
  · intro a b hcheck hlayout hports ha hb hrunA hrunB hnew
    have hon : (s.saf.sofCheck && s.hasLayout) = true := by simp [hcheck, hlayout]
    have hB : ppmOfB s (some b) = some (sofPpm b) := if_neg hports
    have hstands : ((sofNoted s (some (sofPpm a)) (some (sofPpm b))).stands fun c _ => c == 0x0042) = false := hnew
    obtain ⟨hdevA, hdevB⟩ := sofNoted_deviates hon ha hb hrunA hrunB
    refine ⟨_, exec_sofWindow _ _, ?_⟩
    rw [hB, Option.map_some, sofJudged_both hon hdevA hdevB hstands]
    exact enterDevice_from rfl
  · intro readings hlen hoff
    obtain ⟨hsaf, hsens, htj⟩ := tempAlert_keeps (s := sampled s readings)
    have hjoin : FaultsJoin (tempAlert (sampled s readings)) _ := hotFaults_joins readings (hotCounts readings s.saf.hot)
    refine ⟨_, exec_tempSample hlen hoff, ?_, ?_, fun i hi hhot hold => ?_⟩
    · rw [hjoin.pwr, hsens]; rfl
    · rw [hjoin.pwr, htj]; rfl
    · exact (hotFaults_faulted hi (hotCounts_second hi hhot hold)).before (by rw [hsaf]; rfl)

end Sys2Proof.Machine
end

section
/-! Requests of a deep test (R89, R90, R94). -/

namespace Sys2Proof.Machine

section DeepRequest

variable {s : State} {id : Identity} {lanes : Nat}

theorem exec_safDeep_passes (h : WritePasses s id csDeep true) (start : Bool) :
    exec (.safDeep id start lanes) s = .next (requestDeep (noteAccess s id) id start lanes) :=
  congrArg Host.Outcome.next (csWrite_passes h)

theorem requestDeep_busy (h : s.saf.deep.state ≠ 0) : requestDeep s id true lanes =
    s.modSaf fun q => { q with deep := { q.deep with refused := count 0xFF q.deep.refused } } := by
  simp [requestDeep, State.modSaf, h]

/-- With a lane asked for the test is pending. -/
theorem requestDeep_pending (h : s.saf.deep.state = 0) (hlanes : lanes % 8 ≠ 0) :
    (requestDeep s id true lanes).saf.deep = { s.saf.deep with
      state := 1
      failed := 0
      requester := id
      lanes := lanes % 8
      todo := deepTodo s.member (lanes % 8)
      given := [0, 0, 0]
      firstSlot := [0, 0, 0] } := by
  simp [requestDeep, h, hlanes]

theorem requestDeep_noLane (h : s.saf.deep.state = 0) (hlanes : lanes % 8 = 0) :
    (requestDeep s id true lanes).saf.deep = { s.saf.deep with result := 1, failed := 0, requester := id } := by
  simp [requestDeep, h, hlanes]

end DeepRequest

/-- Settles O9: a write that passes the checks is the request itself, which looks at the state of the deep test and at LANES. -/
theorem deepTestRequests : Obligations.DeepTestRequests := by
  intro s id lanes hpass
  have hsaf : (noteAccess s id).saf = s.saf := noteAccess_saf s id
  have hexec := exec_safDeep_passes (lanes := lanes) hpass
  refine ⟨fun hidle hlanes => ⟨_, hexec true, ?_⟩, fun hidle hlanes => ⟨_, hexec true, ?_⟩, fun hbusy => ?_, hexec false⟩
  · rw [requestDeep_pending (by rwa [hsaf]) hlanes, hsaf, noteAccess_member]
    exact ⟨rfl, rfl, rfl, rfl, rfl⟩
  · rw [requestDeep_noLane (by rwa [hsaf]) hlanes, hsaf]
    exact ⟨hidle, rfl, rfl⟩
  · rw [hexec true, requestDeep_busy (by rwa [hsaf])]
    simp only [State.modSaf, hsaf]
    rfl

end Sys2Proof.Machine
end

section
/-! The sweep's slots and strips (R79 to R85, R88, R502). -/

namespace Sys2Proof.Machine

section Sweep

variable {s t u : State} {lane : Lane} {ch e : Nat}

/-! ### What a lane's ticket changes (R52, R55) -/

theorem freeLane_eq (s : State) (lane : Lane) : freeLane s lane = { s with
    arb := (freeLane s lane).arb, saf := { s.saf with stripTickets := (freeLane s lane).saf.stripTickets } } := by
  unfold freeLane
  split <;> rfl

@[simp] theorem freeLane_chans : (freeLane s lane).chans = s.chans := by rw [freeLane_eq]
@[simp] theorem freeLane_chan : (freeLane s lane).chan ch = s.chan ch := by rw [State.chan, freeLane_chans]; rfl
@[simp] theorem freeLane_engines : (freeLane s lane).engines = s.engines := by rw [freeLane_eq]
@[simp] theorem freeLane_member : (freeLane s lane).member = s.member := by rw [freeLane_eq]
@[simp] theorem freeLane_banks : (freeLane s lane).banks = s.banks := by rw [freeLane_eq]
@[simp] theorem freeLane_layout : (freeLane s lane).layout = s.layout := by rw [freeLane_eq]; rfl

/-- What is read of the Safelight state and does not look at the tickets of the lanes. -/
theorem freeLane_saf {α : Type} (read : SafState → α) (hread : ∀ (q : SafState) l, read { q with stripTickets := l } = read q) :
    read (freeLane s lane).saf = read s.saf := by
  rw [freeLane_eq]
  exact hread _ _

/-- The ticket freed is the one the lane holds. -/
theorem freeLane_arb_congr (harb : t.arb = s.arb) (htickets : t.saf.stripTickets = s.saf.stripTickets) :
    (freeLane t lane).arb = (freeLane s lane).arb := by
  unfold freeLane
  rw [htickets]
  split
  · simp [releaseTicket, harb]
  · exact harb

theorem drawTicket_isSome_congr (harb : t.arb = s.arb) (hmember : t.member = s.member) (k : Nat) :
    (drawTicket t k).isSome = (drawTicket s k).isSome := by
  have hfree : t.sharedFree = s.sharedFree := by simp only [State.sharedFree, State.sharedPool, harb, hmember]
  simp only [drawTicket, harb, hfree]
  split_ifs <;> rfl

/-- Drawing the ticket of a slot changes the arbiter and the lane's own requests. -/
theorem drawLane_eq (s : State) (lane : Lane) : (drawLane s lane).1 = { s with
    arb := (drawLane s lane).1.arb
    saf := { s.saf with
      stripTickets := (drawLane s lane).1.saf.stripTickets
      stripAsked := (drawLane s lane).1.saf.stripAsked } } := by
  unfold drawLane
  split
  next id v h =>
    obtain ⟨a, rfl, -⟩ := drawTicket_eq h
    rfl
  · rfl

theorem drawLane_granted (h : (drawTicket s 6).isSome = true) : (drawLane s lane).2 = true := by
  obtain ⟨x, hx⟩ := Option.isSome_iff_exists.mp h
  simp [drawLane, hx]

/-! ### Lane registers -/

@[simp] theorem setStrip_slotOf (q : SafState) (x : Option Strip) : (q.setStrip lane x).slotOf = q.slotOf := by
  cases lane <;> rfl

/-- A slot follows the one before it, and the first follows the last (R79). -/
theorem nextSlot_slotOf (q : SafState) :
    (nextSlot q lane).slotOf lane = if q.slotOf lane + 1 < laneSlots lane then q.slotOf lane + 1 else 0 := by
  unfold nextSlot
  dsimp only
  split <;> cases lane <;> rfl

theorem nextSlot_stripTickets (q : SafState) : (nextSlot q lane).stripTickets = q.stripTickets := by
  unfold nextSlot
  dsimp only
  split <;> cases lane <;> rfl

/-- A member has fewer channels and cipher engines than their lanes have slots (Table SAF-4). -/
theorem channels_lt_laneSlots (m : Member) : m.channels < laneSlots .channel := by cases m <;> decide

theorem ciphers_lt_laneSlots (m : Member) : m.ciphers < laneSlots .cipher := by cases m <;> decide

/-! ### Channels that return -/

/-- Channels alone changed, and none is fenced or released. -/
structure ChansReturn (s t : State) : Prop where
  rest : t = { s with chans := t.chans }
  length : t.chans.length = s.chans.length
  fenced : ∀ ch, (t.chan ch).fenced = (s.chan ch).fenced

theorem ChansReturn.refl (s : State) : ChansReturn s s := ⟨rfl, rfl, fun _ => rfl⟩

theorem ChansReturn.trans (h : ChansReturn s t) (k : ChansReturn t u) : ChansReturn s u where
  rest := by rw [k.rest, h.rest]
  length := k.length.trans h.length
  fenced ch := (k.fenced ch).trans (h.fenced ch)

theorem ChansReturn.modChan {f : ChanState → ChanState} (n : Nat) (h : ∀ k, (f k).fenced = k.fenced) :
    ChansReturn s (s.modChan n f) where
  rest := rfl
  length := by simp
  fenced ch := by
    by_cases hn : n = ch
    · subst hn
      by_cases hlen : n < s.chans.length
      · rw [State.modChan_chan _ _ _ hlen, h]
      · simp [State.chan, List.getD, hlen]
    · rw [State.modChan_chan_ne _ _ _ _ hn]

theorem endZq_return (c : Nat) : ChansReturn s (endZq s c) := by
  unfold endZq
  split
  · exact .modChan c fun _ => rfl
  · exact .refl s

theorem noteReady_return (c : Nat) : ChansReturn s (noteReady s c) := .modChan c fun _ => rfl

theorem leaveSlot_return (c : Nat) : ChansReturn s (leaveSlot s c) :=
  ((endZq_return c).trans (.modChan (f := wakeChannel) c fun _ => rfl)).trans (noteReady_return c)

/-- A channel that returns is in neither slot. -/
theorem leaveSlot_slots : ((leaveSlot s ch).chan ch).slots = (false, false) := by
  by_cases hlen : ch < (endZq s ch).chans.length
  · rw [leaveSlot, noteReady, State.modChan_chan _ _ _ (by simpa using hlen), ChanState.slots,
      State.modChan_chan _ _ _ hlen]
    rfl
  · have hnone : ¬ ch < (leaveSlot s ch).chans.length := by
      rwa [(leaveSlot_return ch).length, ← (endZq_return ch).length]
    rw [State.chan, List.getD_eq_default _ _ (not_lt.mp hnone)]
    rfl

theorem returnLane_channel : ChansReturn (freeLane s .channel) (returnLane s .channel) := by
  refine List.foldlRecOn _ _ (motive := fun t => ChansReturn (freeLane s .channel) t) (.refl _) fun t ht c _ => ?_
  split
  · exact ht.trans (leaveSlot_return c)
  · exact ht

theorem returnLane_slotOf : (returnLane s lane).saf.slotOf = s.saf.slotOf := by
  have hfree : (freeLane s lane).saf.slotOf = s.saf.slotOf := freeLane_saf SafState.slotOf fun _ _ => rfl
  cases lane
  case channel => rw [returnLane_channel.rest]; exact hfree
  all_goals exact hfree

/-! ### A slot begins (R79 to R82) -/

theorem recordCe_joins : FaultsJoin s (recordCe s) := by
  refine .trans (.foldl (fun v b => ?_) _ _) (.of_part rfl)
  split
  · exact .refl v
  · exact logFault_joins _ _ _ _ _ _ _ _ _ _

/-- What a lane withdrew has returned, and its new slot is not used yet. -/
def slotFreed (s : State) (lane : Lane) : State :=
  (returnLane s lane).modSaf fun q => { q.setStrip lane none with stripAsked := q.stripAsked.filter (· != laneCode lane) }

/-- The state in which a lane's present slot is used. -/
def slotOpened (s : State) (lane : Lane) : State :=
  match lane with
  | .channel => (if s.saf.slotOf .channel = 0 then recordCe (slotFreed s .channel) else slotFreed s .channel).modSaf fun q =>
      { q with zqSlot := false }
  | lane => slotFreed s lane

theorem beginSlot_eq : beginSlot s lane = useSlot (slotOpened s lane) lane := by cases lane <;> rfl

theorem slotFreed_parts : (slotFreed s lane).arb = (returnLane s lane).arb ∧ (slotFreed s lane).member = (returnLane s lane).member ∧
    (slotFreed s lane).chans = (returnLane s lane).chans ∧ (slotFreed s lane).engines = (returnLane s lane).engines :=
  ⟨rfl, rfl, rfl, rfl⟩

theorem slotFreed_slotOf : (slotFreed s lane).saf.slotOf = s.saf.slotOf := by
  refine Eq.trans ?_ (returnLane_slotOf (s := s) (lane := lane))
  cases lane <;> rfl

theorem slotOpened_slotOf : (slotOpened s lane).saf.slotOf = s.saf.slotOf := by
  have hce : (recordCe (slotFreed s .channel)).saf.slotOf = (slotFreed s .channel).saf.slotOf :=
    recordCe_joins.setting SafState.slotOf fun _ => rfl
  cases lane
  case channel =>
    refine Eq.trans ?_ (slotFreed_slotOf (s := s) (lane := .channel))
    simp only [slotOpened]
    split
    · exact hce
    · rfl
  all_goals exact slotFreed_slotOf

theorem withdrawFor_saf (slot : Nat) : (withdrawFor s lane slot).saf = s.saf := by cases lane <;> rfl

theorem deepSlot_slotOf (slot : Nat) : (deepSlot s lane slot).saf.slotOf = s.saf.slotOf := by
  simp only [deepSlot, State.modSaf_saf]
  split_ifs <;> rfl

theorem useSlot_slotOf : (useSlot s lane).saf.slotOf = s.saf.slotOf := by
  have hdraw : (drawLane s lane).1.saf.slotOf = s.saf.slotOf := by rw [drawLane_eq]; rfl
  unfold useSlot
  dsimp only
  split
  · rfl
  · split
    next h => rwa [h] at hdraw
    next h =>
      rw [h] at hdraw
      refine Eq.trans ?_ hdraw
      split
      · rw [withdrawFor_saf, State.modSaf_saf, setStrip_slotOf]
      · rfl
      · exact deepSlot_slotOf _

theorem resumeFields_joins : FaultsJoin s (resumeFields s lane) := by
  unfold resumeFields
  split
  · exact .trans (.of_part monitorPart_runFields) serveReads_joins
  · exact .refl s

/-- A ticket is at hand, and the slot is one of a part under test: its strip is the lane's, and it is withdrawn. -/
theorem useSlot_strip (hslot : s.saf.slotOf lane < laneCount s.member lane) (hfree : (drawTicket s 6).isSome = true) :
    useSlot s lane = withdrawFor ((drawLane s lane).1.modSaf fun q => q.setStrip lane (some ⟨s.saf.slotOf lane, s.saf.slotOf lane⟩))
      lane (s.saf.slotOf lane) := by
  have hfor : s.slotFor lane = .strip := if_pos hslot
  have hgranted : (drawLane s lane).2 = true := drawLane_granted hfree
  unfold useSlot
  dsimp only
  rw [hfor]
  generalize drawLane s lane = p at hgranted
  obtain ⟨v, granted⟩ := p
  obtain rfl : granted = true := hgranted
  rfl

theorem exec_sweepSlot_on (h : s.saf.sweepOn = true) :
    exec (.sweepSlot lane) s = .next (resumeFields (useSlot (slotOpened (s.modSaf (nextSlot · lane)) lane) lane) lane) := by
  rw [← beginSlot_eq]
  exact congrArg Host.Outcome.next (if_neg (by simp [h]))

theorem exec_sweepSlot_off (h : s.saf.sweepOn = false) : exec (.sweepSlot lane) s = .next s :=
  congrArg Host.Outcome.next (if_pos (by simp [h]))

/-- The state in which the next slot of a lane is used. -/
abbrev nextOpened (s : State) (lane : Lane) : State := slotOpened (s.modSaf (nextSlot · lane)) lane

theorem returnLane_arb : (returnLane s lane).arb = (freeLane s lane).arb := by
  cases lane
  case channel => rw [returnLane_channel.rest]
  all_goals rfl

theorem returnLane_member : (returnLane s lane).member = s.member := by
  cases lane
  case channel => exact (congrArg State.member returnLane_channel.rest).trans freeLane_member
  all_goals exact freeLane_member

/-- With a ticket free before the slot, its request finds one. -/
theorem ticketFree_next (hfree : s.stripTicketFree lane = true) (harb : u.arb = (returnLane (s.modSaf (nextSlot · lane)) lane).arb)
    (hmember : u.member = s.member) : (drawTicket u 6).isSome = true := by
  have hlane : u.arb = (freeLane s lane).arb :=
    (harb.trans returnLane_arb).trans (freeLane_arb_congr rfl (nextSlot_stripTickets _))
  rw [drawTicket_isSome_congr hlane (hmember.trans freeLane_member.symm)]
  exact hfree

theorem nextOpened_slotOf (h : s.saf.slotOf lane + 1 < laneSlots lane) :
    (nextOpened s lane).saf.slotOf lane = s.saf.slotOf lane + 1 := by
  rw [slotOpened_slotOf, State.modSaf_saf, nextSlot_slotOf, if_pos h]

/-- No cycle ends before a slot other than its first. -/
theorem slotOpened_channel (h : s.saf.slotOf .channel ≠ 0) :
    slotOpened s .channel = (slotFreed s .channel).modSaf fun q => { q with zqSlot := false } := by
  simp only [slotOpened, if_neg h]

theorem withdrawChannel_swept (h : ch < s.chans.length) (hfenced : (s.chan ch).fenced = false) :
    ((withdrawChannel s ch false).chan ch).swept = true := by
  rw [withdrawChannel, State.modChan_chan _ _ _ h, if_neg (by simp [hfenced])]
  rfl

theorem drawLane_chans : (drawLane s lane).1.chans = s.chans := by rw [drawLane_eq]

theorem drawLane_engines : (drawLane s lane).1.engines = s.engines := by rw [drawLane_eq]

/-- The slot of a channel, with a ticket free: the channel is in its sweep slot, and its strip runs. -/
theorem useSlot_channel {slot : Nat} (hslot : s.saf.chnSlot + 1 = slot) (hfree : s.stripTicketFree .channel = true)
    (hcount : slot < s.member.channels) (hlen : slot < s.chans.length) (hfenced : (s.chan slot).fenced = false) :
    ((useSlot (nextOpened s .channel) .channel).chan slot).swept = true ∧
      (useSlot (nextOpened s .channel) .channel).saf.chnStrip = some ⟨slot, slot⟩ := by
  have hnext : s.saf.slotOf .channel + 1 < laneSlots .channel := hslot ▸ hcount.trans (channels_lt_laneSlots _)
  have hat : (nextOpened s .channel).saf.slotOf .channel = slot := (nextOpened_slotOf hnext).trans hslot
  obtain ⟨harb, hmember, hchans, -⟩ := slotFreed_parts (s := s.modSaf (nextSlot · .channel)) (lane := .channel)
  have hreturn := returnLane_channel (s := s.modSaf (nextSlot · .channel))
  have hmember' := hmember.trans returnLane_member
  have hlater : slotOpened (s.modSaf (nextSlot · .channel)) .channel = _ :=
    slotOpened_channel (by rw [← slotOpened_slotOf, hat]; omega)
  generalize slotFreed (s.modSaf (nextSlot · .channel)) .channel = v at *
  rw [nextOpened, hlater] at hat ⊢
  rw [useSlot_strip (by rw [hat, State.modSaf_member, hmember']; exact hcount)
    (ticketFree_next (u := v.modSaf _) hfree harb hmember'), hat]
  refine ⟨withdrawChannel_swept ?_ ?_, by rw [withdrawFor_saf]; rfl⟩
  · rw [State.modSaf_chans, drawLane_chans, State.modSaf_chans, hchans, hreturn.length, freeLane_chans]
    exact hlen
  · rw [State.chan, State.modSaf_chans, drawLane_chans, State.modSaf_chans, hchans]
    exact (hreturn.fenced slot).trans (by rw [freeLane_chan]; exact hfenced)

theorem returnEngines_engine_fenced (e : Nat) : ((returnEngines s).engine e).fenced = (s.engine e).fenced := by
  simp only [returnEngines, State.engine, List.getD, List.getElem?_map]
  cases s.engines[e]? <;> rfl

/-- The slot of a cipher engine, with a ticket free: it is pending unless it is fenced. -/
theorem useSlot_cipher {slot : Nat} (hslot : s.saf.cphSlot + 1 = slot) (hfree : s.stripTicketFree .cipher = true)
    (hcount : slot < s.member.ciphers) (hlen : slot < s.engines.length) :
    ((useSlot (nextOpened s .cipher) .cipher).engine slot).pending = !(s.engine slot).fenced := by
  have hnext : s.saf.slotOf .cipher + 1 < laneSlots .cipher := hslot ▸ hcount.trans (ciphers_lt_laneSlots _)
  have hat : (nextOpened s .cipher).saf.slotOf .cipher = slot := (nextOpened_slotOf hnext).trans hslot
  obtain ⟨harb, hmember, -, hengines⟩ := slotFreed_parts (s := s.modSaf (nextSlot · .cipher)) (lane := .cipher)
  have hmember' := hmember.trans returnLane_member
  have hopened : nextOpened s .cipher = slotFreed (s.modSaf (nextSlot · .cipher)) .cipher := rfl
  have hfenced : ((returnLane (s.modSaf (nextSlot · .cipher)) .cipher).engine slot).fenced = (s.engine slot).fenced := by
    refine (returnEngines_engine_fenced slot).trans ?_
    rw [State.engine, freeLane_engines]
    rfl
  have hlength : (returnLane (s.modSaf (nextSlot · .cipher)) .cipher).engines.length = s.engines.length := by
    simp [returnLane, returnEngines]
  rw [hopened] at hat ⊢
  generalize slotFreed (s.modSaf (nextSlot · .cipher)) .cipher = v at *
  rw [useSlot_strip (by rw [hat, hmember']; exact hcount) (ticketFree_next hfree harb hmember'), hat, withdrawFor,
    State.modEngine_engine]
  · rw [State.engine, State.modSaf_engines, drawLane_engines, hengines]
    exact congrArg not hfenced
  · rw [State.modSaf_engines, drawLane_engines, hengines, hlength]
    exact hlen

/-! ### A slot ends (R81, R502) -/

theorem exec_cipherQueueDrained_pending (h : (s.engine e).pending = true) (hqueue : (s.engine e).queue = []) :
    exec (.cipherQueueDrained e) s = .next (s.modEngine e fun q => { q with pending := false, withdrawn := true }) :=
  congrArg Host.Outcome.next (if_pos ⟨h, by rw [hqueue]; rfl⟩)

/-- A channel is in the slot named. -/
def ChanState.inSlot (k : ChanState) : SlotKind → Bool
  | .strip => k.swept
  | .zq => k.zq

/-- Field work goes on after a slot of a channel has ended (R502). -/
def slotEnded (s : State) (ch : Nat) : State :=
  match s.fieldOfChan ch with
  | some f => serveReads (runField s f)
  | none => s

theorem slotEnded_joins : FaultsJoin s (slotEnded s ch) := by
  unfold slotEnded
  split
  · exact .trans (.of_part (monitorPart_runField _)) serveReads_joins
  · exact .refl s

theorem exec_sweepSlotEnd_in {slot : SlotKind} (h : (s.chan ch).inSlot slot = true) :
    exec (.sweepSlotEnd ch slot) s = .next (slotEnded (freeLane (leaveSlot s ch) .channel) ch) := by
  cases slot <;> exact congrArg Host.Outcome.next (if_neg (by simpa [ChanState.inSlot] using h))

theorem exec_sweepSlotEnd_out {slot : SlotKind} (h : (s.chan ch).inSlot slot = false) :
    exec (.sweepSlotEnd ch slot) s = .next s := by
  cases slot <;> exact congrArg Host.Outcome.next (if_pos (by simpa [ChanState.inSlot] using h))

/-! ### A strip ends (R84, R85, R88) -/

/-- What a strip that ends leaves of the record of the part tested. -/
def stripRecord (s : State) (lane : Lane) (i : Nat) : StripResult → StripRec
  | .pass => ⟨some s.timeUs, none⟩
  | .fail strip _ => { (s.saf.strips lane).getD i Reset.strip with lastFail := some strip }

/-- A strip that ends is recorded, and the part tested returns with its ticket. -/
def stripClosed (s : State) (lane : Lane) (i : Nat) (result : StripResult) : State :=
  let u := s.modSaf fun q => (q.setStrips lane ((q.strips lane).set i (stripRecord s lane i result))).setStrip lane none
  match lane with
  | .channel => u
  | .cipher => (freeLane u .cipher).modEngine i fun e => { e with pending := false, withdrawn := false }
  | .structural => freeLane u .structural

section Strip

variable {i : Nat} {result : StripResult}

/-- What is read of the state after a strip and does not look at tickets, engines or the arbiter. -/
theorem stripClosed_saf {α : Type} (read : SafState → α) (hread : ∀ (q : SafState) l, read { q with stripTickets := l } = read q) :
    read (stripClosed s lane i result).saf =
      read ((s.saf.setStrips lane ((s.saf.strips lane).set i (stripRecord s lane i result))).setStrip lane none) := by
  cases lane
  case channel => rfl
  all_goals exact freeLane_saf read hread

theorem stripClosed_strip : (stripClosed s lane i result).saf.strip lane = none := by
  refine (stripClosed_saf (·.strip lane) fun q l => ?_).trans ?_ <;> cases lane <;> rfl

theorem stripClosed_strips : (stripClosed s lane i result).saf.strips lane =
    (s.saf.strips lane).set i (stripRecord s lane i result) := by
  refine (stripClosed_saf (·.strips lane) fun q l => ?_).trans ?_ <;> cases lane <;> rfl

theorem stripClosed_recPending : (stripClosed s lane i result).saf.recPending = s.saf.recPending := by
  refine (stripClosed_saf SafState.recPending fun _ _ => rfl).trans ?_
  cases lane <;> rfl

theorem islandScopes_stripClosed (island : Nat) : islandScopes (stripClosed s lane i result) island = islandScopes s island := by
  cases lane
  case channel => rfl
  all_goals exact islandScopes_congr freeLane_member freeLane_banks freeLane_layout island

/-- The failure that a part's record holds from before. -/
abbrev lastFailure (s : State) (lane : Lane) (i : Nat) : Option Nat := ((s.saf.strips lane).getD i Reset.strip).lastFail

section Results

variable {x : Strip}

theorem endStrip_fail (n k : Nat) : endStrip s lane x (.fail n k) =
    if s.stripInForce lane x.inst then
      if (lastFailure s lane x.inst).isSome then stripClosed s lane x.inst (.fail n k)
      else logFault (stripClosed s lane x.inst (.fail n k)) 0x0060 0 (laneInst lane x.inst) false false 0
        (laneIsland s.member lane x.inst) 0x87 (stripDetail0 n k) (stripDetail1 lane x.slot)
    else islandFault (stripClosed s lane x.inst (.fail n k)) 0x0060 (laneIsland s.member lane x.inst) 0x87 (stripDetail0 n k)
      (stripDetail1 lane x.slot) (some (laneCode lane, x.inst)) := by
  cases lane <;> rfl

theorem endStrip_pass (h : lastFailure s lane x.inst = none) : endStrip s lane x .pass = stripClosed s lane x.inst .pass := by
  rw [lastFailure] at h
  cases lane <;> simp only [endStrip, h] <;> rfl

theorem endStrip_passAfter {n : Nat} (h : lastFailure s lane x.inst = some n) : endStrip s lane x .pass =
    if s.stripInForce lane x.inst then logFault (stripClosed s lane x.inst .pass) 0x0063 0 (laneInst lane x.inst) false false 0
      (laneIsland s.member lane x.inst) 0x87 (stripDetail0 n 0) (stripDetail1 lane x.slot)
    else stripClosed s lane x.inst .pass := by
  rw [lastFailure] at h
  cases lane <;> simp only [endStrip, h] <;> rfl

/-- The end of a strip is recorded, and then told. -/
theorem endStrip_joins : FaultsJoin (stripClosed s lane x.inst result) (endStrip s lane x result) := by
  cases result with
  | pass =>
    cases h : lastFailure s lane x.inst with
    | none => rw [endStrip_pass h]; exact .refl _
    | some n =>
      rw [endStrip_passAfter h]
      split
      · exact logFault_joins _ _ _ _ _ _ _ _ _ _
      · exact .refl _
  | fail n k =>
    rw [endStrip_fail]
    split
    · split
      · exact .refl _
      · exact logFault_joins _ _ _ _ _ _ _ _ _ _
    · exact islandFault_joins

/-- A failure that no fence and no scope of its own covers is a fault of the island of the part tested. -/
theorem endStrip_faulted {n k : Nat} {y : Nat × Nat × Bool} (h : s.stripInForce lane x.inst = false)
    (hy : y ∈ islandScopes s (laneIsland s.member lane x.inst)) :
    Faulted s (endStrip s lane x (.fail n k)) 0x0060 y.1 y.2.1 y.2.2 := by
  rw [← islandScopes_stripClosed (i := x.inst) (result := .fail n k)] at hy
  rw [endStrip_fail, h, if_neg Bool.false_ne_true]
  exact (islandFault_faulted hy).before stripClosed_recPending

theorem exec_testStripDone_flagged (h : s.saf.strip lane = some x) :
    exec (.testStripDone lane result true) s = .next (resumeFields (endStrip s lane x result) lane) := by
  show execTestStripDone lane result true s = _
  simp only [execTestStripDone, h]
  rfl

theorem exec_testStripDone_unflagged (h : s.saf.strip lane = some x) :
    exec (.testStripDone lane result false) s = .next (resumeFields (enterDevice (endStrip s lane x result) 0x0061
      (endStrip s lane x result).member.centralIsland 0x87 (w32 (laneCode lane)) (w32 x.slot)) lane) := by
  show execTestStripDone lane result false s = _
  simp only [execTestStripDone, h]
  rfl

/-- Whatever follows the end of a strip, its record and its lane's register stay. -/
theorem stripEnded_registers (h : FaultsJoin (endStrip s lane x result) t) : t.saf.strip lane = none ∧
    t.saf.strips lane = (s.saf.strips lane).set x.inst (stripRecord s lane x.inst result) := by
  have hjoin := endStrip_joins.trans h
  exact ⟨(hjoin.setting (·.strip lane) fun _ => by cases lane <;> rfl).trans stripClosed_strip,
    (hjoin.setting (·.strips lane) fun _ => by cases lane <;> rfl).trans stripClosed_strips⟩

end Results

end Strip

end Sweep

/-- Settles O8: what a slot withdraws is read off the state in which it is used, and what a strip's end records outlives the faults
it tells. -/
theorem sweepSlotsTestOneInstance : Obligations.SweepSlotsTestOneInstance := by
  intro s
  refine ⟨fun lane hon => ⟨_, exec_sweepSlot_on hon, ?_, ?_, ?_⟩, fun lane => exec_sweepSlot_off,
    fun e => exec_cipherQueueDrained_pending, fun ch slot hin => ?_, fun ch =>
      ⟨exec_sweepSlotEnd_out (slot := .strip), exec_sweepSlotEnd_out (slot := .zq)⟩,
    fun lane x hx hlen => ⟨?_, fun n k hfree => ?_, fun r => ?_⟩⟩
  · have hjoin := resumeFields_joins (s := useSlot (nextOpened s lane) lane) (lane := lane)
    rw [hjoin.setting (·.slotOf lane) fun _ => by cases lane <;> rfl, useSlot_slotOf, slotOpened_slotOf]
    exact nextSlot_slotOf _
  · rintro rfl hfree hcount hlen hfenced
    exact useSlot_channel rfl hfree hcount hlen hfenced
  · rintro rfl hfree hcount hlen
    exact useSlot_cipher rfl hfree hcount hlen
  · have hslot : (s.chan ch).inSlot slot = true := by
      obtain ⟨rfl, h⟩ | ⟨rfl, h⟩ := hin <;> exact h
    have hleft : ((freeLane (leaveSlot s ch) .channel).chan ch).slots = (false, false) := by
      rw [freeLane_chan]; exact leaveSlot_slots
    have hend := slotEnded_joins (s := freeLane (leaveSlot s ch) .channel) (ch := ch)
    exact ⟨_, exec_sweepSlotEnd_in hslot, hend.swept ch (congrArg Prod.fst hleft), hend.zq ch (congrArg Prod.snd hleft)⟩
  · obtain ⟨hstrip, hstrips⟩ := stripEnded_registers (x := x) (result := .pass) (resumeFields_joins (lane := lane))
    refine ⟨_, exec_testStripDone_flagged hx, hstrip, ?_⟩
    rw [hstrips, List.getElem?_set_self hlen]
    rfl
  · obtain ⟨hstrip, hstrips⟩ := stripEnded_registers (x := x) (result := .fail n k) (resumeFields_joins (lane := lane))
    refine ⟨_, exec_testStripDone_flagged hx, hstrip, ?_, fun y hy => (endStrip_faulted hfree hy).joined resumeFields_joins⟩
    rw [hstrips, List.getElem?_set_self hlen]
    rfl
  · refine ⟨_, exec_testStripDone_unflagged hx, Faulted.joined ?_ resumeFields_joins⟩
    exact enterDevice_from (endStrip_joins.recPending.trans stripClosed_recPending)

end Sys2Proof.Machine
end

section
/-! The end of a RECOVER lets the reads go on (R111, R112), and a Field manager that owns no bank of its map cache meets a refusal
there, with the scope of R558. -/

namespace Sys2Proof.Machine

section CacheRefused

variable {s : State} {id : Identity} {lo bytes addr f plot unit i b : Nat} {k : AccessKind} {t : Task} {y : Nat × Nat × Bool}

/-- An internal requester's refused word is a fault of the bank's island (R558). -/
theorem refuseWord_faulted (hid : isInternal id = true) (hy : y ∈ islandScopes s (s.member.bankIsland (addr / bankBytes / 16))) :
    Faulted s (refuseWord s id addr) 0x0021 y.1 y.2.1 y.2.2 := by
  rw [refuseWord, if_pos hid]
  exact islandFault_faulted hy

/-- A transfer from a bank that its requester does not pass is refused (R26, R558). -/
theorem bankTransfer_refused (hid : isInternal id = true) (howner : s.passesOwner id (lo / bankBytes) = false)
    (hy : y ∈ islandScopes s (s.member.bankIsland (lo / bankBytes / 16))) :
    ∃ v, bankTransfer s id lo bytes k = (v, false) ∧ Faulted s v 0x0021 y.1 y.2.1 y.2.2 :=
  ⟨refuseWord (recordVio s id true lo k true false 0xFFFF bytes) id lo, if_pos (by simp [howner]),
    (refuseWord_faulted (s := recordVio s id true lo k true false 0xFFFF bytes) hid hy).before rfl⟩

/-- The manager of a Field passes none of the banks of its map cache, and a fault of their islands leads to a scope. -/
structure CacheRefused (s : State) (f : Nat) (y : Nat × Nat × Bool) : Prop where
  internal : isInternal (idFm (f / 4)) = true
  banks : s.banksFor 2 f none ≠ []
  owner : ∀ b ∈ s.banksFor 2 f none, s.passesOwner (idFm (f / 4)) b = false
  scope : ∀ b ∈ s.banksFor 2 f none, y ∈ islandScopes s (s.member.bankIsland (b / 16))

/-- A segment of the map cache lies in one bank. -/
theorem segment_bank (b n : Nat) : (bankBytes * b + 0x1000 * (n % (bankBytes / 0x1000))) / bankBytes = b := by
  have hsize : bankBytes = 0x1000 * (bankBytes / 0x1000) := by decide
  have hlt : 0x1000 * (n % (bankBytes / 0x1000)) < bankBytes := by
    have hslot : n % (bankBytes / 0x1000) < bankBytes / 0x1000 := Nat.mod_lt _ (by decide)
    omega
  rw [Nat.mul_add_div (by decide), Nat.div_eq_of_lt hlt, Nat.add_zero]

theorem mapTransfer_refused (h : CacheRefused s f y) :
    ∃ v, mapTransfer s f k = (v, false) ∧ Faulted s v 0x0021 y.1 y.2.1 y.2.2 := by
  obtain ⟨hinternal, hbanks, howner, hscope⟩ := h
  have hmem : (s.banksFor 2 f none).getD (s.drawNat.1 % (s.banksFor 2 f none).length) 0 ∈ s.banksFor 2 f none := by
    have hlt := Nat.mod_lt s.drawNat.1 (List.length_pos_iff.mpr hbanks)
    rw [List.getD_eq_getElem _ _ hlt]
    exact List.getElem_mem hlt
  simp only [mapTransfer, fieldTransfer, List.isEmpty_iff, hbanks, if_false]
  refine (bankTransfer_refused (s := s.drawNat.2) (y := y) hinternal ?_ ?_).imp fun _ hv => hv.imp_right (·.before rfl) <;>
    rw [segment_bank]
  · exact howner _ hmem
  · exact hscope _ hmem

/-- A lookup that the map cache refuses finds no segment (R18, R377). -/
theorem touchSegment_refused (h : CacheRefused s f y) :
    ∃ v, touchSegment s f plot unit false = (v, false) ∧ Faulted s v 0x0021 y.1 y.2.1 y.2.2 := by
  obtain ⟨v, hv, hfaulted⟩ := mapTransfer_refused (k := .read) h
  refine ⟨v, ?_, hfaulted⟩
  simp only [touchSegment, Bool.false_eq_true, if_false, hv]

theorem lookupBlock_refused (h : CacheRefused s f y) (hseg : (s.field f).segReads = []) :
    ∃ v, lookupBlock s f t i = (v, none) ∧ Faulted s v 0x0021 y.1 y.2.1 y.2.2 := by
  obtain ⟨v, hv, hfaulted⟩ := touchSegment_refused (plot := t.key.plot) (unit := (t.lba + i) / max 1 (s.geo f).g) h
  have hpending : ∀ seg, segPending (s.field f) t.key.plot seg = false := by simp [segPending, hseg]
  refine ⟨v, ?_, hfaulted⟩
  simp [lookupBlock, hpending, hv]

/-- A command of one block that is in flight and has not looked its block up yet. -/
structure ReadsOne (s : State) (t : Task) (f : Nat) : Prop where
  field : s.fieldOf t.key.plot = some f
  running : s.fmPaused f = false
  one : s.wanted t = [0]
  inFlight : s.task? t.key = some t
  accepted : t.accepted = []
  ready : t.ready = []
  fails : t.fails = []
  asked : t.asked = []
  free : s.readHeld t.key.plot t.lba (t.horizon.getD 0) = false
  segments : (s.field f).segReads = []

theorem offerRead_refused (h : CacheRefused s f y) (hread : ReadsOne s t f) : Faulted s (offerRead s t) 0x0021 y.1 y.2.1 y.2.2 := by
  obtain ⟨hfield, hrunning, hone, htask, haccepted, hready, hfails, hasked, hfree, hsegments⟩ := hread
  obtain ⟨v, hlookup, hfaulted⟩ := lookupBlock_refused (t := t) (i := 0) h hsegments
  have hoffer : offerRead s t = v := by
    simp [offerRead, hfield, hrunning, hone, htask, haccepted, hready, hfails, hasked, hfree, hlookup]
  rwa [hoffer]

/-- What follows the page reads of the commands adds faults alone. -/
theorem serveReads_follows :
    FaultsJoin ((s.fn.tasks.filter fun t => isReadTask t && t.statusDue && !t.held).foldl offerRead s) (serveReads s) := by
  refine .of_part (monitorPart_advanceReads.trans ?_)
  unfold offerReads
  generalize (s.fn.tasks.filter _).foldl _ s = v
  simp

theorem serveReads_refused (h : CacheRefused s f y) (hread : ReadsOne s t f)
    (honly : (s.fn.tasks.filter fun t => isReadTask t && t.statusDue && !t.held) = [t]) :
    Faulted s (serveReads s) 0x0021 y.1 y.2.1 y.2.2 := by
  have hfollows := serveReads_follows (s := s)
  rw [honly] at hfollows
  exact (offerRead_refused h hread).joined hfollows

end CacheRefused

/-! ### An engine's RECOVER whose strip was not run (R112) -/

section StripMissing

variable {s : State} {e n : Nat} {c : Scope} {strips : List (Nat × StripResult)}

/-- The engine scope stays, and the reads go on. -/
theorem exec_recoverDone_stays (hpend : s.saf.recPending = some ⟨[(1, e)], n⟩) (hnone : s.saf.deferred = [])
    (hscope : s.scopesAt (1, e) ≠ [])
    (hbad : ((s.stripIslands (1, e)).all fun i => (strips.find? (·.1 == i)).any (·.2 == .pass)) = false) :
    exec (.recoverDone strips true true) s = .next (serveReads (s.modSaf fun q =>
      { q with recPending := none, deferred := [], recResult := 5, recCount := 0 })) := by
  have hone : recoverOne strips true true (s, 0, 0) (1, e) = (s, 0, 5) := by
    simp only [recoverOne, List.isEmpty_iff, hscope, if_false, hbad]
    simp
  show execRecoverDone strips true true s = _
  simp only [execRecoverDone, hpend, List.foldl_cons, List.foldl_nil, hone]
  simp [hnone, applyDeferred]

end StripMissing

/-! ### A member whose Field manager lost its map cache -/

namespace LostCache

/-- One Volume Plot in Field 0, on channel 0. -/
def layout : Layout := {
  member := 8, epoch := 1, length := 0, frames := [], mfr := [], product := [], langId := 0x0409, noSerial := true, gpio := [], wdog := 3,
  fmMult := 40, portMult := 40, stkMult := 40, grnMult := 40, chnMult := [32], readBurst := 8, zqCycles := 1,
  channels := [⟨2, 1, 1, 1, 16, 3, 0, 0, 2048, 96, 200⟩],
  recipes := [],
  fields := [⟨0, [0], 0, 1, 0, 0, 1, 0, 0, false, 4, 0, 8, 64, 1000, 4, 8, [1], 100000, 1000, []⟩],
  plots := [⟨0, 0, false, 3, 0, 3, false, 1000⟩],
  banks := [], mpu := [], ports := [],
  stack := ⟨false, false, 1, 64, 3, 1000, 0⟩,
  strikeLimit := 3, sofCheck := true, durable := false, tempAlert := 100, suspendTarget := 2, tickets := [] }

/-- A granted READ of block 0 of Plot 0, which has looked nothing up yet. -/
def read : Task := {
  key := ⟨.port .a, 0, 1⟩, tr := some .bot, kind := .read, lba := 0, count := 1, fua := false, order := none, horizon := some 0,
  ticket := none, held := false, intake := false, durable := false, statusDue := true, aborted := false, asked := [], ready := [],
  received := [], accepted := [], staged := [], descs := [], name := [], value := [], mode := 0, fails := [], since := 0 }

/-- Engine 2 is in engine scope for a clock fault. -/
def engineScope : Scope := ⟨1, 2, 0x0040, false, false, Member.z8.cipherIsland 2, none⟩

/-- A Z8 whose bank 0 is the map cache of Field 0 and has no owner, with a RECOVER of engine 2 pending and a READ in flight. -/
def state : State :=
  let r := Reset.state .z8 .b0
  { r with
    lay := { r.lay with active := some layout, op := 0, starting := false }
    saf := { r.saf with starting := false, scopes := [engineScope], recPending := some ⟨[(1, 2)], 0⟩ }
    banks := r.banks.modify 0 fun b => { b with role := 2, field := 0 }
    fn := { r.fn with tasks := [read] } }

/-- The state once RECOVER has left the engine scope in place, for the strip was not run. -/
def answered : State := state.modSaf fun q => { q with recPending := none, deferred := [], recResult := 5, recCount := 0 }

theorem banksFor_cache : answered.banksFor 2 0 none = [0] := by decide +kernel

theorem cacheRefused : CacheRefused answered 0 (4, 0, false) where
  internal := by decide
  banks := by rw [banksFor_cache]; simp
  owner := by rw [banksFor_cache]; decide +kernel
  scope := by rw [banksFor_cache]; decide +kernel

theorem readsOne : ReadsOne answered read 0 where
  field := by decide +kernel
  running := by decide +kernel
  one := by decide +kernel
  inFlight := by decide +kernel
  accepted := rfl
  ready := rfl
  fails := rfl
  asked := rfl
  free := by decide +kernel
  segments := by decide +kernel

theorem writePasses : WritePasses state idPortA csRecover true := by
  unfold WritePasses
  decide +kernel

end LostCache

/-- Refutes O10: the clause that a strip not run leaves the scopes as they were. The reads that go on at the completion meet the
map cache that Field 0's manager lost, and Field scope joins the engine scope. -/
theorem not_recoverAnswers : ¬ Obligations.RecoverAnswers := by
  intro h
  obtain ⟨-, -, -, hengine, -⟩ := h LostCache.state idPortA LostCache.writePasses
  obtain ⟨-, hstays⟩ := hengine 2 LostCache.engineScope 0 [] rfl rfl rfl rfl rfl (by decide) (by decide +kernel)
  obtain ⟨t, ht, hscopes, -⟩ := hstays ⟨Member.z8.cipherIsland 2, by decide +kernel, by decide⟩
  have hserved := exec_recoverDone_stays (s := LostCache.state) (strips := []) rfl rfl (by decide +kernel) (by decide +kernel)
  obtain rfl : serveReads LostCache.answered = t := by
    rw [hserved] at ht
    exact Host.Outcome.next.inj ht
  obtain ⟨c, hc, hcode, -⟩ := (serveReads_refused LostCache.cacheRefused LostCache.readsOne (by decide +kernel)).1 rfl
  rw [hscopes] at hc
  obtain rfl : c = LostCache.engineScope := List.mem_singleton.mp hc
  exact absurd hcode (by decide)

end Sys2Proof.Machine
end

section
/-! LAY_CTRL from its grant to the operation it begins (R151, Table LAY-2, a1 to a6); O45. -/

namespace Sys2Proof.Machine

section LayoutCommands

variable {s : State} {id : Identity} {op : Nat} {x : Slot} {c : Instr}

@[simp] theorem noteAccess_lay (s : State) (id : Identity) : (noteAccess s id).lay = s.lay := by rw [noteAccess_eq]
@[simp] theorem noteAccess_layBusy (s : State) (id : Identity) : (noteAccess s id).layBusy = s.layBusy := by
  simp [State.layBusy]
@[simp] theorem noteAccess_layRefusal (s : State) (id i : Identity) (op : Nat) (x : Slot) :
    layRefusal (noteAccess s id) i op x = layRefusal s i op x := by
  rw [noteAccess_eq]; rfl

/-! ### The refusals a1 to a6 -/

/-- Refusals a1 and a2 do not hold, and no operation or start is in progress. -/
structure LayReady (s : State) (id : Identity) : Prop where
  idle : s.layBusy = false
  holds : s.holdsSem id 1 = true
  settled : s.lay.recipePend = []

theorem layRefusal_noSemaphore (h : s.holdsSem id 1 = false) : layRefusal s id op x = 0x10 := by
  simp [layRefusal, h]

theorem layRefusal_oldRecipes (hsem : s.holdsSem id 1 = true) (h : s.lay.recipePend ≠ []) : layRefusal s id op x = 0x11 := by
  simp [layRefusal, hsem, h]

theorem layRefusal_dark (hready : LayReady s id) (hop : op ≠ 1) (h : s.pwr.state = .dark) : layRefusal s id op x = 0x12 := by
  obtain ⟨hidle, hsem, hsettled⟩ := hready
  simp [layRefusal, hidle, hsem, hsettled, hop, h]

theorem layRefusal_activeSlot (hready : LayReady s id) (hop : op ≠ 1) (hdark : s.pwr.state ≠ .dark) (hlayout : s.hasLayout = true)
    (h : s.lay.activeSlot = x) : layRefusal s id op x = 0x13 := by
  obtain ⟨hidle, hsem, hsettled⟩ := hready
  simp [layRefusal, hidle, hsem, hsettled, hop, hdark, hlayout, h]

/-- A verification passes a1 and a2 alone. -/
theorem layRefusal_verify (hready : LayReady s id) : layRefusal s id 1 x = 0 := by
  obtain ⟨hidle, hsem, hsettled⟩ := hready
  simp [layRefusal, hidle, hsem, hsettled]

/-- An activation that passes a1 to a4 meets the refusals of a cold one alone. -/
theorem layRefusal_activation (hready : LayReady s id) (hop : op ≠ 1) (hdark : s.pwr.state ≠ .dark)
    (hslot : s.hasLayout = true → s.lay.activeSlot ≠ x) : layRefusal s id op x =
      if op = 3 ∧ s.saf.scopes.any (·.latch) = true then 0x15 else if op = 3 ∧ s.anyPlotUp = true then 0x14 else 0 := by
  obtain ⟨hidle, hsem, hsettled⟩ := hready
  have hother : (s.hasLayout && s.lay.activeSlot == x) = false := by simpa using hslot
  simp only [layRefusal, hidle, hsem, hsettled, if_neg hop, if_neg hdark, hother]
  rfl

/-! ### The command at its grant -/

theorem layCommand_busy (h : s.layBusy = true) : layCommand s id op x = s := by
  simp [layCommand, h]

theorem layCommand_refused (h : s.layBusy = false) {r : Nat} (hreason : layRefusal s id op x = r) (hr : r ≠ 0) :
    layCommand s id op x = { s with lay := { s.lay with op := op, result := r } } := by
  simp [layCommand, h, hreason, hr, State.modLay]

theorem layCommand_begins (h : s.layBusy = false) (hreason : layRefusal s id op x = 0) :
    layCommand s id op x = { s with lay := { s.lay with op := op, run := some ⟨op, x, id, .verifying, none, []⟩ } } := by
  simp [layCommand, h, hreason, State.modLay]

/-- The instruction that writes LAY_CTRL for an operation. -/
def WritesLayCtrl (c : Instr) (id : Identity) (op : Nat) (x : Slot) : Prop :=
  (c = .layVerify id x ∧ op = 1) ∨ (c = .warmActivation id x ∧ op = 2) ∨ (c = .coldActivation id x ∧ op = 3)

theorem exec_layCtrl (hpass : WritePasses s id csLayCtrl true) (hc : WritesLayCtrl c id op x) :
    exec c s = .next (layCommand (noteAccess s id) id op x) := by
  obtain ⟨rfl, rfl⟩ | ⟨rfl, rfl⟩ | ⟨rfl, rfl⟩ := hc <;> exact congrArg Host.Outcome.next (csWrite_passes hpass)

theorem exec_layCtrl_busy (hpass : WritePasses s id csLayCtrl true) (hc : WritesLayCtrl c id op x) (h : s.layBusy = true) :
    exec c s = .next (noteAccess s id) := by
  rw [exec_layCtrl hpass hc, layCommand_busy (by simpa using h)]

theorem exec_layCtrl_refused (hpass : WritePasses s id csLayCtrl true) (hc : WritesLayCtrl c id op x) (h : s.layBusy = false)
    {r : Nat} (hreason : layRefusal s id op x = r) (hr : r ≠ 0) :
    exec c s = .next { noteAccess s id with lay := { s.lay with op := op, result := r } } := by
  rw [exec_layCtrl hpass hc, layCommand_refused (by simpa using h) (by simpa using hreason) hr, noteAccess_lay]

theorem exec_layCtrl_begins (hpass : WritePasses s id csLayCtrl true) (hc : WritesLayCtrl c id op x) (h : s.layBusy = false)
    (hreason : layRefusal s id op x = 0) : exec c s =
      .next { noteAccess s id with lay := { s.lay with op := op, run := some ⟨op, x, id, .verifying, none, []⟩ } } := by
  rw [exec_layCtrl hpass hc, layCommand_begins (by simpa using h) (by simpa using hreason), noteAccess_lay]

end LayoutCommands

/-- Settles O45: a write of LAY_CTRL finds an operation in progress, meets the first of the refusals a1 to a6, or begins. -/
theorem layoutOperationsBegin : Obligations.LayoutOperationsBegin := by
  intro s id c op x hpass hc
  refine ⟨fun hbusy => exec_layCtrl_busy hpass hc (by simpa [State.layBusy] using hbusy), fun hstart hrun => ?_⟩
  have hidle : s.layBusy = false := by simp [State.layBusy, hstart, hrun]
  refine ⟨fun hsem => exec_layCtrl_refused hpass hc hidle (layRefusal_noSemaphore hsem) (by decide), fun hsem => ?_⟩
  refine ⟨fun hpend => exec_layCtrl_refused hpass hc hidle (layRefusal_oldRecipes hsem hpend) (by decide), fun hpend => ?_⟩
  have hready : LayReady s id := ⟨hidle, hsem, hpend⟩
  refine ⟨fun hop hdark => ?_, fun hop hdark hlayout hactive => ?_, ?_, fun hmay => ?_⟩
  · exact exec_layCtrl_refused hpass hc hidle (layRefusal_dark hready hop hdark) (by decide)
  · exact exec_layCtrl_refused hpass hc hidle (layRefusal_activeSlot hready hop hdark hlayout hactive) (by decide)
  · intro hop hdark hslot
    have hreason := layRefusal_activation (op := op) hready (by simp [hop]) hdark hslot
    refine ⟨fun hlatch => ?_, fun hclear hup => ?_⟩
    · exact exec_layCtrl_refused hpass hc hidle (hreason.trans (if_pos ⟨hop, by simpa using hlatch⟩)) (by decide)
    · refine exec_layCtrl_refused hpass hc hidle (hreason.trans ((if_neg ?_).trans (if_pos ⟨hop, hup⟩))) (by decide)
      simpa [hop] using hclear
  · refine exec_layCtrl_begins hpass hc hidle ?_
    by_cases hop : op = 1
    · subst hop
      exact layRefusal_verify hready
    · obtain ⟨hdark, hslot, hcold⟩ := hmay.resolve_left hop
      rw [layRefusal_activation hready hop hdark hslot, if_neg, if_neg]
      · rintro ⟨h3, hup⟩
        simp [(hcold h3).1] at hup
      · rintro ⟨h3, hlatch⟩
        obtain ⟨e, he, hset⟩ := List.any_eq_true.mp hlatch
        simp [(hcold h3).2 e he] at hset

end Sys2Proof.Machine
end

section
/-! The end of a slot's verification and the commit grant (R127, R128, R132 to R135, R515): what the Granary keeps when the
activation is recorded, and the image that becomes the active layout; O46. -/

namespace Sys2Proof.Machine

/-! ### What a write of a structure leaves in the Granary (R510, R540 to R542) -/

/-- The counters, the activation record, and the sectors that the usable spares are counted from. -/
def recordPart (g : GrnState) : List Nat × Option ActRecord × List Nat × List (Nat × Nat) := (g.counters, g.act, g.retired, g.subs)

theorem countErases_recordPart (g : GrnState) (n : Nat) : recordPart (countErases g n) = recordPart g := by
  unfold countErases
  dsimp only
  split <;> rfl

theorem batchErase_recordPart (g : GrnState) : recordPart (batchErase g) = recordPart g := countErases_recordPart _ _

theorem takeSector_recordPart (g : GrnState) : recordPart (takeSector g) = recordPart g := by
  unfold takeSector
  dsimp only
  split
  · exact batchErase_recordPart g
  · rfl

theorem appendEntry_recordPart (g : GrnState) (struct copy : Nat) : recordPart (appendEntry g struct copy) = recordPart g := by
  unfold appendEntry
  dsimp only
  split_ifs
  · rfl
  · rfl
  · exact takeSector_recordPart g
  · exact takeSector_recordPart g

theorem startBatch_recordPart (pwrFail : Bool) (g : GrnState) : recordPart (startBatch pwrFail g) = recordPart g := by
  unfold startBatch
  split <;> rfl

@[simp] theorem structWrite_recordPart (s : State) (struct : Nat) : recordPart (structWrite s struct).grn = recordPart s.grn :=
  (startBatch_recordPart _ _).trans ((appendEntry_recordPart _ _ _).trans (appendEntry_recordPart _ _ _))

section Activations

variable {s : State} {x : Slot} {l : Layout} {d : List Byte}

@[simp] theorem structWrite_counters (s : State) (n : Nat) : (structWrite s n).grn.counters = s.grn.counters :=
  congrArg Prod.fst (structWrite_recordPart s n)
@[simp] theorem structWrite_act (s : State) (n : Nat) : (structWrite s n).grn.act = s.grn.act :=
  congrArg (fun p => p.2.1) (structWrite_recordPart s n)

theorem spareOut_congr {t : State} (hmember : t.member = s.member) (hretired : t.grn.retired = s.grn.retired)
    (hsubs : t.grn.subs = s.grn.subs) : t.spareOut = s.spareOut := by
  rw [State.spareOut, State.grnSpares, hmember, hretired, hsubs]; rfl

/-- Writing a structure makes no sector a substitute and retires none (R510). -/
@[simp] theorem structWrite_spareOut (s : State) (n : Nat) : (structWrite s n).spareOut = s.spareOut :=
  have hpart := structWrite_recordPart s n
  spareOut_congr rfl (congrArg (fun p => p.2.2.1) hpart) (congrArg (fun p => p.2.2.2) hpart)

/-! ### The activation record (R127, R128, R515) -/

/-- Counter 0 raised and written to the pool. -/
def raisedCounter (s : State) : State := structWrite (s.modGrn fun g => { g with counters := g.counters.set 0 (g.counters.getD 0 0 + 1) }) 0

theorem raisedCounter_spareOut : (raisedCounter s).spareOut = s.spareOut := structWrite_spareOut _ 0

theorem recordActivation_spareOut (h : s.spareOut = true) : recordActivation s x l d = raisedCounter s :=
  if_pos (raisedCounter_spareOut.trans h)

theorem recordActivation_written (h : s.spareOut = false) : recordActivation s x l d =
    structWrite ((raisedCounter s).modGrn fun g => { g with act := some ⟨x, l.epoch, d⟩ }) 0x100 :=
  if_neg (show ¬ (raisedCounter s).spareOut = true by simp [raisedCounter_spareOut, h])

/-- The record changes the Granary alone. -/
theorem recordActivation_eq : recordActivation s x l d = { s with grn := (recordActivation s x l d).grn } := by
  obtain ⟨raised, hraised⟩ : ∃ g, raisedCounter s = { s with grn := g } := ⟨_, rfl⟩
  cases h : s.spareOut with
  | true => rw [recordActivation_spareOut h, hraised]
  | false => rw [recordActivation_written h, hraised]; rfl

theorem recordActivation_counters : (recordActivation s x l d).grn.counters = s.grn.counters.set 0 (s.counter0 + 1) := by
  have hraised : (raisedCounter s).grn.counters = s.grn.counters.set 0 (s.counter0 + 1) := structWrite_counters _ 0
  cases h : s.spareOut with
  | true => rw [recordActivation_spareOut h, hraised]
  | false => rw [recordActivation_written h, structWrite_counters]; exact hraised

theorem recordActivation_act : (recordActivation s x l d).grn.act = if s.spareOut then s.grn.act else some ⟨x, l.epoch, d⟩ := by
  cases h : s.spareOut with
  | true => rw [recordActivation_spareOut h]; exact structWrite_act _ 0
  | false => rw [recordActivation_written h]; exact structWrite_act _ 0x100

end Activations

/-! ### The end of a verification -/

section Verified

variable {s : State} {read : SlotRead} {r : LayOp} {l : Layout}

theorem exec_slotVerified_idle (read : SlotRead) (h : s.lay.run = none) : exec (.slotVerified read) s = .next s := by
  show execSlotVerified read s = _
  simp [execSlotVerified, h]

theorem exec_slotVerified_later (h : s.lay.run = some r) (hstage : r.stage ≠ .verifying) :
    exec (.slotVerified read) s = .next s := by
  show execSlotVerified read s = _
  simp [execSlotVerified, h, hstage]

theorem exec_slotVerified_failed (h : s.lay.run = some r) (hstage : r.stage = .verifying)
    (himage : (verifySlot s r.slot read).image = none) : exec (.slotVerified read) s =
      .next (endLayOp (noteVerdict s r.slot (verifySlot s r.slot read)) (verifySlot s r.slot read).reason) := by
  show execSlotVerified read s = _
  simp [execSlotVerified, h, hstage, himage]

/-! An image that passes ends a VERIFY, meets the epoch and Table LAY-3 (a7, a8), or asks for its commit. -/

section Passed

variable (h : s.lay.run = some r) (hstage : r.stage = .verifying) (himage : (verifySlot s r.slot read).image = some l)
include h hstage himage

theorem exec_slotVerified_verify (hop : r.op = 1) : exec (.slotVerified read) s =
    .next (endLayOp (noteVerdict s r.slot (verifySlot s r.slot read)) 0) := by
  show execSlotVerified read s = _
  simp [execSlotVerified, h, hstage, himage, hop]

theorem exec_slotVerified_presentEpoch (hop : r.op ≠ 1) (hepoch : l.epoch = s.counter0) : exec (.slotVerified read) s =
    .next (endLayOp (noteVerdict s r.slot (verifySlot s r.slot read)) 0x16) := by
  show execSlotVerified read s = _
  simp only [execSlotVerified, h, hstage, himage, if_neg hop]
  exact congrArg Host.Outcome.next (if_pos hepoch)

theorem exec_slotVerified_notWarm (hop : r.op = 2) (hepoch : l.epoch ≠ s.counter0)
    (hdiff : s.lay.active.bind (fun old => warmDiff old l) = none) : exec (.slotVerified read) s =
      .next (endLayOp (noteVerdict s r.slot (verifySlot s r.slot read)) 0x17) := by
  show execSlotVerified read s = _
  simp only [execSlotVerified, h, hstage, himage, hop]
  exact congrArg Host.Outcome.next ((if_neg hepoch).trans (if_pos ⟨trivial, Option.isNone_iff_eq_none.mpr hdiff⟩))

/-- Counter 0 and the record are written, and the commit is requested (R127, R128). -/
theorem exec_slotVerified_commits (hop : r.op ≠ 1) (hepoch : l.epoch ≠ s.counter0)
    (hdiff : r.op = 2 → (s.lay.active.bind (fun old => warmDiff old l)).isSome = true) : exec (.slotVerified read) s =
      .next ((recordActivation (noteVerdict s r.slot (verifySlot s r.slot read)) r.slot l (verifySlot s r.slot read).digest).modLay
        fun q => { q with run := some { r with stage := .committing, image := some l, digest := (verifySlot s r.slot read).digest } }) := by
  have hwarm : ¬ (r.op = 2 ∧ (s.lay.active.bind (fun old => warmDiff old l)).isNone = true) := fun ⟨h2, hnone⟩ => by
    simpa [Option.isNone_iff_eq_none.mp hnone] using hdiff h2
  show execSlotVerified read s = _
  simp only [execSlotVerified, h, hstage, himage, if_neg hop]
  exact congrArg Host.Outcome.next ((if_neg hepoch).trans (if_neg hwarm))

end Passed

end Verified

/-! ### The commit grant (R132, R134) -/

section Commit

variable {s : State} {r : LayOp} {l old : Layout}

/-- Queueing an event changes the functions' part alone. -/
theorem queueEvents_eq (s : State) (kind inst d0 d1 : Nat) :
    queueEvents s kind inst d0 d1 = { s with fn := (queueEvents s kind inst d0 d1).fn } := by
  have hrest : ({ queueEvents s kind inst d0 d1 with fn := s.fn } : State) = s := by
    refine foldl_unchanged (fun u : State => ({ u with fn := s.fn } : State)) _ (fun u p => ?_) _ _
    unfold queueEvent
    split
    · rfl
    · cases p <;> rfl
  generalize queueEvents s kind inst d0 d1 = t at hrest ⊢
  rw [← hrest]

/-- The active layout and the Granary. -/
def layoutPart (s : State) : Option Layout × GrnState := (s.lay.active, s.grn)

theorem layoutPart_ite {c : Prop} [Decidable c] {t u : State} :
    layoutPart (if c then t else u) = if c then layoutPart t else layoutPart u := apply_ite layoutPart c t u
@[simp] theorem layoutPart_modMpu (f : MpuState → MpuState) : layoutPart (s.modMpu f) = layoutPart s := rfl
@[simp] theorem layoutPart_modSaf (f : SafState → SafState) : layoutPart (s.modSaf f) = layoutPart s := rfl
@[simp] theorem layoutPart_modPwr (f : PwrState → PwrState) : layoutPart (s.modPwr f) = layoutPart s := rfl
@[simp] theorem layoutPart_applyTickets (reserved : List Nat) : layoutPart (applyTickets s reserved) = layoutPart s := rfl

/-- A channel's change to its new recipe set leaves both. -/
theorem applyRecipe_layoutPart (s : State) (changed : List Nat) (c : Nat) :
    layoutPart (applyRecipe s changed c) = layoutPart s := by
  unfold applyRecipe
  split
  · rfl
  · dsimp only
    split_ifs <;> rfl

/-- A warm image becomes the active layout, and the Granary stays (Table LAY-3). -/
theorem applyWarm_layoutPart (s : State) (old new : Layout) (changed : List RawFrame) :
    layoutPart (applyWarm s old new changed) = (some new, s.grn) := by
  simp only [applyWarm, layoutPart_ite, layoutPart_modMpu, layoutPart_applyTickets, layoutPart_modSaf, layoutPart_modPwr, ite_self]
  exact foldl_unchanged layoutPart _ (fun u c => applyRecipe_layoutPart u _ c) _ _

theorem exec_commitGrant_idle (h : s.lay.run = none) : exec .commitGrant s = .next s := by
  show execCommitGrant s = _
  simp [execCommitGrant, h]

theorem exec_commitGrant_otherStage (h : s.lay.run = some r) (hstage : r.stage ≠ .committing ∨ r.image = none) :
    exec .commitGrant s = .next s := by
  show execCommitGrant s = _
  obtain hstage | himage := hstage
  · simp [execCommitGrant, h, hstage]
  · simp [execCommitGrant, h, himage]

/-- The state once the LAYOUT event of a commit is queued (R132). -/
def layoutEvent (s : State) (r : LayOp) (l : Layout) : State := queueEvents s 0x0020 0xFFFF l.epoch (r.op + bitOf (r.slot == .b) 4)

theorem layoutEvent_eq (s : State) (r : LayOp) (l : Layout) : layoutEvent s r l = { s with fn := (layoutEvent s r l).fn } :=
  queueEvents_eq _ _ _ _ _

section Requested

variable (h : s.lay.run = some r) (hstage : r.stage = .committing) (himage : r.image = some l)
include h hstage himage

theorem exec_commitGrant_cold (hop : r.op = 3) : exec .commitGrant s =
    .next (developAll ((layoutEvent s r l).modLay fun q => { q with run := some { r with stage := .developing } })) := by
  show execCommitGrant s = _
  simp [execCommitGrant, h, hstage, himage, hop, layoutEvent]

theorem exec_commitGrant_warm (hop : r.op ≠ 3) (hactive : s.lay.active = some old) : exec .commitGrant s =
    .next (endLayOp ((applyWarm (layoutEvent s r l) old l ((warmDiff old l).getD [])).modLay fun q =>
      { q with activeSlot := r.slot, digest := r.digest }) 0) := by
  have hevent : (layoutEvent s r l).lay.active = some old := by rw [layoutEvent_eq]; exact hactive
  rw [layoutEvent] at hevent ⊢
  show execCommitGrant s = _
  simp [execCommitGrant, h, hstage, himage, hop, hevent]

end Requested

end Commit

/-- Settles O46: the verdict of the slot decides how a verification ends, and the commit makes the image active or begins
development. -/
theorem layoutsAreVerifiedAndCommitted : Obligations.LayoutsAreVerifiedAndCommitted := by
  intro s
  refine ⟨fun read hrun => ⟨exec_slotVerified_idle read hrun, exec_commitGrant_idle hrun⟩, fun r read hrun => ?_⟩
  refine ⟨exec_slotVerified_later hrun, exec_commitGrant_otherStage hrun, fun hstage => ⟨fun himage => ?_, fun l himage => ?_⟩,
    fun l hstage himage => ⟨fun hop => ?_, fun old hop hactive => ?_⟩⟩
  · exact ⟨_, exec_slotVerified_failed hrun hstage himage, rfl, rfl, rfl, rfl⟩
  · refine ⟨fun hop => ?_, fun hop hepoch => ?_, fun hop hepoch hdiff => ?_, fun hop hepoch hdiff => ?_⟩
    · exact ⟨_, exec_slotVerified_verify hrun hstage himage hop, rfl, rfl, rfl⟩
    · exact ⟨_, exec_slotVerified_presentEpoch hrun hstage himage hop hepoch, rfl, rfl, rfl⟩
    · exact ⟨_, exec_slotVerified_notWarm hrun hstage himage hop hepoch hdiff, rfl, rfl, rfl⟩
    · refine ⟨_, exec_slotVerified_commits hrun hstage himage hop hepoch hdiff, rfl, recordActivation_counters, ?_,
        fun hspare => recordActivation_act.trans (if_neg ?_), fun hspare => recordActivation_act.trans (if_pos hspare), ?_⟩
      · rw [recordActivation_eq]; rfl
      · exact Bool.not_eq_true _ ▸ hspare
      · rw [recordActivation_eq]; rfl
  · refine ⟨_, exec_commitGrant_cold hrun hstage himage hop, rfl, ?_⟩
    rw [layoutEvent_eq]
    exact ⟨rfl, rfl, rfl, rfl⟩
  · obtain ⟨hnew, hgrn⟩ := Prod.mk.inj (applyWarm_layoutPart (layoutEvent s r l) old l ((warmDiff old l).getD []))
    refine ⟨_, exec_commitGrant_warm hrun hstage himage hop hactive, hnew, rfl, rfl, rfl, rfl, hgrn.trans ?_⟩
    rw [layoutEvent_eq]

end Sys2Proof.Machine
end

section
/-! Every command answers a next state and keeps the queue, the member, the stepping and the invariant; O58. -/

namespace Sys2Proof.Machine

/-- What `exec` does, command by command: each completes and keeps what `Keeps` names, since its meaning does. -/
theorem keeps_exec (c : Instr) (s : State) : ∃ t, exec c s = .next t ∧ Keeps s t := by
  have hs : Keeps s s := .refl s
  cases c with
  | registerWrite => exact keeps_execRegisterWrite hs
  | rsvdAccess => exact keeps_execRsvdAccess hs
  | rcRead => exact keeps_execRcRead hs
  | snapshotRead => exact keeps_execSnapshotRead hs
  | arbiterGrant => exact keeps_execArbiterGrant hs
  | watchdogExpiry => exact keeps_execWatchdogExpiry hs
  | blockReceived => exact keeps_execBlockReceived hs
  | echoCheckDone => exact keeps_execEchoCheckDone hs
  | decryptDone => exact keeps_execDecryptDone hs
  | enter => exact keeps_execEnter hs
  | cmd => exact keeps_execCmd hs
  | cmdl => exact keeps_execCmdl hs
  | addr => exact keeps_execAddr hs
  | dout => exact keeps_execDout hs
  | din => exact keeps_execDin hs
  | wait => exact keeps_execWait hs
  | waitElapsed => exact keeps_execWaitElapsed hs
  | poll => exact keeps_execPoll hs
  | statusPoll => exact keeps_execStatusPoll hs
  | test => exact keeps_execTest hs
  | loop => exact keeps_execLoop hs
  | next => exact keeps_execNext hs
  | jump => exact keeps_execJump hs
  | mode => exact keeps_execMode hs
  | setv => exact keeps_execSetv hs
  | fail => exact keeps_execFail hs
  | end_ => exact keeps_execEnd hs
  | recipeTimeout => exact keeps_execRecipeTimeout hs
  | fixPointRecorded => exact keeps_execFixPointRecorded hs
  | doseTick => exact keeps_execDoseTick hs
  | freqMonitorWindow => exact keeps_execFreqMonitorWindow hs
  | referenceLoss => exact keeps_execReferenceLoss hs
  | sofWindow => exact keeps_execSofWindow hs
  | railFault => exact keeps_execRailFault hs
  | tempSample => exact keeps_execTempSample hs
  | sweepSlot => exact keeps_execSweepSlot hs
  | cipherQueueDrained => exact keeps_execCipherQueueDrained hs
  | testStripDone => exact keeps_execTestStripDone hs
  | sweepSlotEnd => exact keeps_execSweepSlotEnd hs
  | safDeep => exact keeps_execSafDeep hs
  | recover => exact keeps_execRecover hs
  | recoverAll => exact keeps_execRecoverAll hs
  | recoverDone => exact keeps_execRecoverDone hs
  | tamper => exact keeps_execTamper hs
  | testEn => exact keeps_execTestEn hs
  | entropy => exact keeps_execEntropy hs
  | layVerify => exact keeps_execLayVerify hs
  | warmActivation => exact keeps_execWarmActivation hs
  | coldActivation => exact keeps_execColdActivation hs
  | slotVerified => exact keeps_execSlotVerified hs
  | commitGrant => exact keeps_execCommitGrant hs
  | developmentComplete => exact keeps_execDevelopmentComplete hs
  | powerOn => exact keeps_execPowerOn hs
  | railDip rail => exact keeps_execRailDip (_rail := rail) hs
  | resetN => exact keeps_execResetN hs
  | pwrReset => exact keeps_execPwrReset hs
  | offWake => exact keeps_execOffWake hs
  | referenceDetected => exact keeps_execReferenceDetected hs
  | fieldReplayDone => exact keeps_execFieldReplayDone hs
  | pwrLit => exact keeps_execPwrLit hs
  | pwrDim => exact keeps_execPwrDim hs
  | pwrDark => exact keeps_execPwrDark hs
  | pwrOff => exact keeps_execPwrOff hs
  | setTarget => exact keeps_execSetTarget hs
  | usbSuspend => exact keeps_execUsbSuspend hs
  | usbResume => exact keeps_execUsbResume hs
  | remoteWakeRepeat => exact keeps_execRemoteWakeRepeat hs
  | gpioSample => exact keeps_execGpioSample hs
  | vbusDetect => exact keeps_execVbusDetect hs
  | vbusLoss => exact keeps_execVbusLoss hs
  | ssTrainingDone => exact keeps_execSsTrainingDone hs
  | ssTrainingTimeout => exact keeps_execSsTrainingTimeout hs
  | usb2BusReset => exact keeps_execUsb2BusReset hs
  | upstreamReset _ kind => exact keeps_execUpstreamReset (_kind := kind) hs
  | bulkOutPacket => exact keeps_execBulkOutPacket hs
  | ping => exact keeps_execPing hs
  | sofReceived => exact keeps_execSofReceived hs
  | sofTimeout => exact keeps_execSofTimeout hs
  | u1U2Entry => exact keeps_execU1U2Entry hs
  | lpmToken => exact keeps_execLpmToken hs
  | unsupportedRequest _ k => exact keeps_execUnsupportedRequest (_k := k) hs
  | setConfiguration => exact keeps_execSetConfiguration hs
  | setInterface => exact keeps_execSetInterface hs
  | clearEndpointHalt => exact keeps_execClearEndpointHalt hs
  | hubStatusPoll => exact keeps_execHubStatusPoll hs
  | clearPortPower => exact keeps_execClearPortPower hs
  | setPortPower => exact keeps_execSetPortPower hs
  | portReset => exact keeps_execPortReset hs
  | bhPortReset => exact keeps_execBhPortReset hs
  | embPortResetDone => exact keeps_execEmbPortResetDone hs
  | clearPortEnable => exact keeps_execClearPortEnable hs
  | portSuspend => exact keeps_execPortSuspend hs
  | clearCPortConnection => exact keeps_execClearCPortConnection hs
  | clearTtBuffer => exact keeps_execClearTtBuffer hs
  | resetTt => exact keeps_execResetTt hs
  | info => exact keeps_execInfo hs
  | reg => exact keeps_execReg hs
  | regEntry => exact keeps_execRegEntry hs
  | echo => exact keeps_execEcho hs
  | unlock => exact keeps_execUnlock hs
  | retryCounted => exact keeps_execRetryCounted hs
  | keyRecordWritten => exact keeps_execKeyRecordWritten hs
  | lock => exact keeps_execLock hs
  | lockDemote => exact keeps_execLockDemote hs
  | setSecret => exact keeps_execSetSecret hs
  | rewrap => exact keeps_execRewrap hs
  | testUnitReady => exact keeps_execTestUnitReady hs
  | requestSense => exact keeps_execRequestSense hs
  | inquiry => exact keeps_execInquiry hs
  | reportLuns => exact keeps_execReportLuns hs
  | readCapacity10 => exact keeps_execReadCapacity10 hs
  | readCapacity16 => exact keeps_execReadCapacity16 hs
  | read10 => exact keeps_execRead10 hs
  | read16 => exact keeps_execRead16 hs
  | write10 => exact keeps_execWrite10 hs
  | write16 => exact keeps_execWrite16 hs
  | synchronizeCache10 => exact keeps_execSynchronizeCache10 hs
  | synchronizeCache16 => exact keeps_execSynchronizeCache16 hs
  | unmap => exact keeps_execUnmap hs
  | unmapParameterList => exact keeps_execUnmapParameterList hs
  | sanitize => exact keeps_execSanitize hs
  | sanitizeComplete => exact keeps_execSanitizeComplete hs
  | startStopUnitStop => exact keeps_execStartStopUnitStop hs
  | startStopUnitStart => exact keeps_execStartStopUnitStart hs
  | modeSense10 => exact keeps_execModeSense10 hs
  | securityProtocolIn => exact keeps_execSecurityProtocolIn hs
  | unsupportedCdb _ opcode => exact keeps_execUnsupportedCdb (_opcode := opcode) hs
  | abortTask => exact keeps_execAbortTask hs
  | abortTaskSet => exact keeps_execAbortTaskSet hs
  | clearTaskSet => exact keeps_execClearTaskSet hs
  | logicalUnitReset => exact keeps_execLogicalUnitReset hs
  | iTNexusReset => exact keeps_execITNexusReset hs
  | queryTask => exact keeps_execQueryTask hs
  | massStorageReset => exact keeps_execMassStorageReset hs
  | getMaxLun => exact keeps_execGetMaxLun hs
  | put => exact keeps_execPut hs
  | get => exact keeps_execGet hs
  | list => exact keeps_execList hs
  | delete => exact keeps_execDelete hs
  | semTake => exact keeps_execSemTake hs
  | semRelease => exact keeps_execSemRelease hs
  | semForce => exact keeps_execSemForce hs
  | bulkRekey => exact keeps_execBulkRekey hs
  | plotErase => exact keeps_execPlotErase hs
  | rdpLevel1 => exact keeps_execRdpLevel1 hs
  | rdpLevel2 => exact keeps_execRdpLevel2 hs
  | rdpLower => exact keeps_execRdpLower hs
  | loweringComplete => exact keeps_execLoweringComplete hs
  | rootGen => exact keeps_execRootGen hs
  | wallTime => exact keeps_execWallTime hs
  | pwrFail => exact keeps_execPwrFail hs
  | holdupRelease => exact keeps_execHoldupRelease hs
  | holdupLost => exact keeps_execHoldupLost hs
  | grnKey => exact keeps_execGrnKey hs
  | grnRead => exact keeps_execGrnRead hs
  | grnProgram => exact keeps_execGrnProgram hs
  | grnErase => exact keeps_execGrnErase hs
  | grnSuspend => exact keeps_execGrnSuspend hs
  | grnResume => exact keeps_execGrnResume hs
  | grnInc => exact keeps_execGrnInc hs
  | grnCommandDone => exact keeps_execGrnCommandDone hs
  | eraseSuspendDue => exact keeps_execEraseSuspendDue hs
  | eraseAutoResume => exact keeps_execEraseAutoResume hs
  | windowAdvance => exact keeps_execWindowAdvance hs
  | apertureAccess => exact keeps_execApertureAccess hs
  | eccWriteback _ word => exact keeps_execEccWriteback (_word := word) hs
  | bnkHandover => exact keeps_execBnkHandover hs
  | bnkSeize => exact keeps_execBnkSeize hs
  | scrubDone => exact keeps_execScrubDone hs
  | add32 => exact keeps_execAdd32 hs
  | add64 => exact keeps_execAdd64 hs
  | swap32 => exact keeps_execSwap32 hs
  | swap64 => exact keeps_execSwap64 hs
  | mpuRegionWrite => exact keeps_execMpuRegionWrite hs
  | mpuLock => exact keeps_execMpuLock hs
  | mpuVioAck => exact keeps_execMpuVioAck hs
  | linkUp => exact keeps_execLinkUp hs
  | laneLoss => exact keeps_execLaneLoss hs
  | replayTimeout => exact keeps_execReplayTimeout hs
  | linkRetrain => exact keeps_execLinkRetrain hs
  | ack => exact keeps_execAck hs
  | nak => exact keeps_execNak hs
  | hello => exact keeps_execHello hs
  | linkdown => exact keeps_execLinkdown hs
  | leave => exact keeps_execLeave hs
  | enum => exact keeps_execEnum hs
  | confirm => exact keeps_execConfirm hs
  | keyx => exact keeps_execKeyx hs
  | time => exact keeps_execTime hs
  | safe => exact keeps_execSafe hs
  | regFrame => exact keeps_execRegFrame hs
  | regRsp => exact keeps_execRegRsp hs
  | ioReq => exact keeps_execIoReq hs
  | ioRsp => exact keeps_execIoRsp hs
  | blkHead => exact keeps_execBlkHead hs
  | blkData => exact keeps_execBlkData hs
  | blkAck => exact keeps_execBlkAck hs
  | blkResend => exact keeps_execBlkResend hs
  | pageRel => exact keeps_execPageRel hs
  | pageDone => exact keeps_execPageDone hs
  | readReq => exact keeps_execReadReq hs
  | key => exact keeps_execKey hs
  | keyclr => exact keeps_execKeyclr hs
  | brec => exact keeps_execBrec hs
  | scan => exact keeps_execScan hs
  | scanRsp => exact keeps_execScanRsp hs
  | eventFrame => exact keeps_execEventFrame hs
  | unknownFrame _ ty len => exact keeps_execUnknownFrame (_ty := ty) (_len := len) hs
  | enumResend => exact keeps_execEnumResend hs
  | enumWindowClose => exact keeps_execEnumWindowClose hs
  | loneTimeout => exact keeps_execLoneTimeout hs
  | requestTimeout => exact keeps_execRequestTimeout hs
  | absentTimeout => exact keeps_execAbsentTimeout hs
  | timePeriod => exact keeps_execTimePeriod hs
  | masterLost => exact keeps_execMasterLost hs
  | stkRemoteRead => exact keeps_execStkRemoteRead hs
  | stkRemoteWrite => exact keeps_execStkRemoteWrite hs
  | reEnumerate => exact keeps_execReEnumerate hs
  | jtagExtest => exact keeps_execJtagExtest hs
  | jtagIdcode => exact keeps_execJtagIdcode hs
  | jtagSamplePreload => exact keeps_execJtagSamplePreload hs
  | jtagCspace => exact keeps_execJtagCspace hs
  | jtagReset => exact keeps_execJtagReset hs
  | jtagBypass code => exact keeps_execJtagBypass (_code := code) hs
  | holdupOkAsserted => exact keeps_execHoldupOkAsserted hs
  | linkFrameError => exact keeps_execLinkFrameError hs
  | capsuleRefused => exact keeps_execCapsuleRefused hs
  | ssBulkTransaction => exact keeps_execSsBulkTransaction hs
  | setFeatureDevice => exact keeps_execSetFeatureDevice hs
  | bulkInTransfer => exact keeps_execBulkInTransfer hs

/-- Settles O58: what `Keeps` says of the queue, the member and the stepping, for every command. -/
theorem everyCommandCompletesAndLeavesTheQueue : Obligations.EveryCommandCompletesAndLeavesTheQueue := by
  intro c s
  obtain ⟨t, hexec, hkeeps⟩ := keeps_exec c s
  exact ⟨t, hexec, hkeeps.pending, hkeeps.member, hkeeps.stepping⟩

end Sys2Proof.Machine
end

section
/-! PWR_CTRL and the suspend target from their grant to the state they leave (R203 to R205, R208, R212, R217, Table PWR-5);
O47. -/

namespace Sys2Proof.Machine

section PowerCommands

variable {s : State} {id : Identity} {st : PowerState}

@[simp] theorem noteAccess_pwr (s : State) (id : Identity) : (noteAccess s id).pwr = s.pwr := by rw [noteAccess_eq]
@[simp] theorem noteAccess_fields (s : State) (id : Identity) : (noteAccess s id).fields = s.fields := by rw [noteAccess_eq]
@[simp] theorem noteAccess_chans (s : State) (id : Identity) : (noteAccess s id).chans = s.chans := by rw [noteAccess_eq]
@[simp] theorem noteAccess_powerBusy (s : State) (id : Identity) : (noteAccess s id).powerBusy = s.powerBusy := by
  simp [State.powerBusy]

/-! ### A change of PWR_STAT.STATE -/

/-- The POWER event and its frame to the master change the functions' part and the ring's alone. -/
theorem powerEvent_eq (s : State) :
    powerEvent s = { s with fn := (powerEvent s).fn, stk := (powerEvent s).stk } := by
  simp only [powerEvent]
  split
  · rw [ringSend_eq, queueEvents_eq]
  · rw [queueEvents_eq]

theorem setPower_eq (s : State) (st : PowerState) (bySuspend : Bool) : setPower s st bySuspend =
    { s with
      pwr := { s.pwr with state := st, bySuspend := bySuspend }
      fn := (setPower s st bySuspend).fn
      stk := (setPower s st bySuspend).stk } := by
  unfold setPower
  split
  case isTrue h => subst h; rfl
  case isFalse => rw [powerEvent_eq]; rfl

/-! ### The target of a command that is granted -/

/-- The state a command's target is taken from: a warm POWER frame has taken effect, and the command is no suspend's. -/
def powerReady (s : State) : State :=
  (if s.pwr.frameWaits then takePowerFrame s else s).modPwr fun q => { q with bySuspend := false }

theorem takePowerFrame_parts (s : State) :
    (takePowerFrame s).pwr.state = s.pwr.state ∧ (takePowerFrame s).pwr.xfer = s.pwr.xfer ∧
      (takePowerFrame s).pwr.dimReg = s.pwr.dimReg ∧ (takePowerFrame s).fields = s.fields ∧ (takePowerFrame s).chans = s.chans := by
  unfold takePowerFrame
  split <;> exact ⟨rfl, rfl, rfl, rfl, rfl⟩

theorem powerReady_parts (s : State) :
    (powerReady s).pwr.state = s.pwr.state ∧ (powerReady s).pwr.xfer = s.pwr.xfer ∧
      (powerReady s).pwr.dimReg = s.pwr.dimReg ∧ (powerReady s).fields = s.fields ∧ (powerReady s).chans = s.chans := by
  unfold powerReady
  split
  · exact takePowerFrame_parts s
  · exact ⟨rfl, rfl, rfl, rfl, rfl⟩

theorem takeTarget_same (h : st = s.pwr.state) (hdim : st ≠ .dim) : takeTarget s st false =
    (s.modPwr fun q => { q with bySuspend := false }).modPwr fun q => { q with result := 3 } := by
  rw [takeTarget, if_pos ⟨h, hdim⟩]
  rfl

/-- A target that is taken sets RESULT to 0. -/
theorem takeTarget_running (hst : st = .dim ∨ st = .lit ∧ st ≠ s.pwr.state) :
    takeTarget s st false = enterRunning (s.modPwr fun q => { q with result := 0 }) st false := by
  rw [takeTarget, if_neg (by obtain rfl | ⟨-, h⟩ := hst <;> simp [*])]
  obtain rfl | ⟨rfl, -⟩ := hst <;> rfl

theorem takeTarget_entry (hst : st = .dark ∨ st = .off) (h : st ≠ s.pwr.state) :
    takeTarget s st false = beginXfer (s.modPwr fun q => { q with result := 0 }) st false := by
  rw [takeTarget, if_neg fun hsame => h hsame.1]
  obtain rfl | rfl := hst <;> rfl

/-- Lit or Dim is in force at once; from Dark the islands restart on the state it leaves (Table PWR-5). -/
theorem enterRunning_eq (s : State) (st : PowerState) : ∃ u,
    enterRunning s st false = (if s.pwr.state = .dark then wakeIslands u else u) ∧
      u.pwr = { s.pwr with state := st, dimNow := if st = .dim then s.pwr.dimReg else 0, bySuspend := false } ∧
      u.fields = s.fields ∧ u.chans = s.chans := by
  refine ⟨_, rfl, ?_⟩
  rw [setPower_eq]
  exact ⟨rfl, rfl, rfl⟩

/-- The entry of Dark or Off waits for development, which it forces unless the device is Dark (R208, R212). -/
theorem beginXfer_eq (s : State) (st : PowerState) : ∃ u,
    beginXfer s st false = (if s.pwr.state = .dark then u else developAll u) ∧
      u.pwr = { s.pwr with xfer := some ⟨st, false, s.pwr.state⟩, bySuspend := false } ∧ u.fields = s.fields :=
  ⟨_, rfl, rfl, rfl⟩

/-! ### The command at its grant (R203 to R205) -/

/-- `PWR_CTRL`.CMD of the command for a state (Table PWR-5). -/
def cmdOf : PowerState → Nat
  | .lit => 1
  | .dim => 2
  | .dark => 3
  | .off => 4

theorem powerCommand_noSemaphore {cmd : Nat} (h : s.holdsSem id 0 = false) :
    powerCommand s id cmd = s.modPwr fun q => { q with result := 1 } := by
  simp [powerCommand, h]

theorem powerCommand_busy {cmd : Nat} (h : s.holdsSem id 0 = true) (hbusy : s.powerBusy = true) :
    powerCommand s id cmd = s.modPwr fun q => { q with result := 2 } := by
  simp [powerCommand, h, hbusy]

theorem powerCommand_granted (h : s.holdsSem id 0 = true) (hidle : s.powerBusy = false) :
    powerCommand s id (cmdOf st) = takeTarget (powerReady s) st false := by
  rw [powerCommand, if_neg (by simp [h]), if_neg (by simp [hidle])]
  cases st <;> rfl

/-- The instruction that writes `PWR_CTRL` for a state. -/
def WritesPwrCtrl (c : Instr) (id : Identity) (st : PowerState) : Prop :=
  (c = .pwrLit id ∧ st = .lit) ∨ (c = .pwrDim id ∧ st = .dim) ∨ (c = .pwrDark id ∧ st = .dark) ∨ (c = .pwrOff id ∧ st = .off)

variable {c : Instr} (hpass : WritePasses s id csPwrCtrl true) (hc : WritesPwrCtrl c id st)
include hpass hc

theorem exec_pwrCtrl : exec c s = .next (powerCommand (noteAccess s id) id (cmdOf st)) := by
  obtain ⟨rfl, rfl⟩ | ⟨rfl, rfl⟩ | ⟨rfl, rfl⟩ | ⟨rfl, rfl⟩ := hc <;> exact congrArg Host.Outcome.next (csWrite_passes hpass)

theorem exec_pwrCtrl_noSemaphore (h : s.holdsSem id 0 = false) :
    exec c s = .next { noteAccess s id with pwr := { s.pwr with result := 1 } } := by
  rw [exec_pwrCtrl hpass hc, powerCommand_noSemaphore (by simpa using h), State.modPwr, noteAccess_pwr]

theorem exec_pwrCtrl_busy (h : s.holdsSem id 0 = true) (hbusy : s.powerBusy = true) :
    exec c s = .next { noteAccess s id with pwr := { s.pwr with result := 2 } } := by
  rw [exec_pwrCtrl hpass hc, powerCommand_busy (by simpa using h) (by simpa using hbusy), State.modPwr, noteAccess_pwr]

variable (h : s.holdsSem id 0 = true) (hidle : s.powerBusy = false)
include h hidle

theorem exec_pwrCtrl_granted : exec c s = .next (takeTarget (powerReady (noteAccess s id)) st false) := by
  rw [exec_pwrCtrl hpass hc, powerCommand_granted (by simpa using h) (by simpa using hidle)]

theorem exec_pwrCtrl_same (hstate : s.pwr.state = st) (hdim : st ≠ .dim) : ∃ t, exec c s = .next t ∧
    t.pwr.result = 3 ∧ t.pwr.state = st ∧ t.pwr.xfer = none := by
  obtain ⟨hready, hxfer, -, -, -⟩ := powerReady_parts (noteAccess s id)
  simp only [noteAccess_pwr] at hready hxfer
  refine ⟨_, exec_pwrCtrl_granted hpass hc h hidle, ?_⟩
  rw [takeTarget_same (hstate.symm.trans hready.symm) hdim]
  refine ⟨rfl, hready.trans hstate, hxfer.trans ?_⟩
  simp only [State.powerBusy, Bool.or_eq_false_iff, Option.isSome_eq_false_iff, Option.isNone_iff_eq_none] at hidle
  exact hidle.1.1

/-- A command for Lit or Dim that takes effect. -/
theorem exec_pwrCtrl_running (hst : st = .dim ∨ st = .lit ∧ st ≠ s.pwr.state) : ∃ u,
    exec c s = .next (if s.pwr.state = .dark then wakeIslands u else u) ∧ u.pwr.result = 0 ∧ u.pwr.state = st ∧
      u.pwr.dimNow = (if st = .dim then s.pwr.dimReg else 0) ∧ u.pwr.bySuspend = false ∧ u.fields = s.fields ∧ u.chans = s.chans := by
  obtain ⟨hready, -, hdim, hfields, hchans⟩ := powerReady_parts (noteAccess s id)
  simp only [noteAccess_pwr, noteAccess_fields, noteAccess_chans] at hready hdim hfields hchans
  obtain ⟨u, hu, hpwr, hf, hk⟩ := enterRunning_eq ((powerReady (noteAccess s id)).modPwr fun q => { q with result := 0 }) st
  refine ⟨u, ?_, by rw [hpwr]; rfl, by rw [hpwr], by rw [hpwr]; simp [hdim], by rw [hpwr], hf.trans hfields, hk.trans hchans⟩
  rw [exec_pwrCtrl_granted hpass hc h hidle, takeTarget_running (by rwa [hready]), hu]
  simp only [State.modPwr_pwr, hready]

/-- A command for Dark or Off that begins its entry. -/
theorem exec_pwrCtrl_entry (hst : st = .dark ∨ st = .off) (hstate : s.pwr.state ≠ st) : ∃ u,
    exec c s = .next (if s.pwr.state = .dark then u else developAll u) ∧ u.pwr.result = 0 ∧ u.pwr.state = s.pwr.state ∧
      u.pwr.xfer = some ⟨st, false, s.pwr.state⟩ ∧ u.fields = s.fields := by
  obtain ⟨hready, -, -, hfields, -⟩ := powerReady_parts (noteAccess s id)
  simp only [noteAccess_pwr, noteAccess_fields] at hready hfields
  obtain ⟨u, hu, hpwr, hf⟩ := beginXfer_eq ((powerReady (noteAccess s id)).modPwr fun q => { q with result := 0 }) st
  refine ⟨u, ?_, by rw [hpwr]; rfl, by rw [hpwr]; exact hready, by rw [hpwr, ← hready]; rfl, hf.trans hfields⟩
  rw [exec_pwrCtrl_granted hpass hc h hidle, takeTarget_entry hst (by rw [hready]; exact hstate.symm), hu]
  simp only [State.modPwr_pwr, hready]

end PowerCommands

/-! ### The suspend target (R217) -/

theorem exec_setTarget {s : State} {id : Identity} (target : Nat) (hpass : WritePasses s id csPwrCtrl true) :
    exec (.setTarget id target) s = .next (setTarget (noteAccess s id) id target) :=
  congrArg Host.Outcome.next (csWrite_passes hpass)

/-- Settles O47: a write of PWR_CTRL is refused with its reason, finds its state in force, takes effect or begins an entry, and one
of the suspend target takes Dim or Dark. -/
theorem powerCommandsAreTaken : Obligations.PowerCommandsAreTaken := by
  intro s id hpass
  refine ⟨fun c st hc => ⟨exec_pwrCtrl_noSemaphore hpass hc, fun hsem => ⟨exec_pwrCtrl_busy hpass hc hsem, fun hidle => ?_⟩⟩,
    fun target => ?_⟩
  · refine ⟨exec_pwrCtrl_same hpass hc hsem hidle, ?_, ?_, exec_pwrCtrl_entry hpass hc hsem hidle⟩
    · rintro rfl hstate
      exact exec_pwrCtrl_running hpass hc hsem hidle (.inr ⟨rfl, hstate.symm⟩)
    · rintro rfl
      exact exec_pwrCtrl_running hpass hc hsem hidle (.inl rfl)
  · rw [exec_setTarget target hpass]
    refine ⟨fun hsem => ?_, fun hsem htarget => ?_, fun hsem hdim hdark => ?_⟩
    · simp [setTarget, hsem, State.modPwr]
    · simp [setTarget, hsem, htarget, State.modPwr]
    · simp [setTarget, hsem, hdim, hdark]

end Sys2Proof.Machine
end

section
/-! What the answers to commands, the ring's frames and the detach of a port leave (R22, R43, R229, R230, R256, R267, R614): power,
the layout and its operation, the order numbers, and the state of every Plot. -/

namespace Sys2Proof.Machine

section QuietPart

variable {s : State}

/-- Power, the layout with its operation and its start, the order numbers, and the states of the Plots. -/
def quietPart (s : State) : (PwrState × Option Layout × Option LayOp × Bool × Nat × Nat) × List PlotMode :=
  ((s.pwr, s.lay.active, s.lay.run, s.lay.starting, s.arb.ordNext, s.arb.ordResume), s.plots.map PlotState.mode)

theorem pwr_of_quietPart {t : State} (h : quietPart t = quietPart s) : t.pwr = s.pwr := congrArg (fun q => q.1.1) h
theorem active_of_quietPart {t : State} (h : quietPart t = quietPart s) : t.lay.active = s.lay.active :=
  congrArg (fun q => q.1.2.1) h

/-! ### Updates of one part -/

@[simp] theorem quietPart_modFn (f : FnState → FnState) : quietPart (s.modFn f) = quietPart s := rfl
@[simp] theorem quietPart_modTasks (f : List Task → List Task) : quietPart (s.modTasks f) = quietPart s := rfl
@[simp] theorem quietPart_modSaf (f : SafState → SafState) : quietPart (s.modSaf f) = quietPart s := rfl
@[simp] theorem quietPart_modGrn (f : GrnState → GrnState) : quietPart (s.modGrn f) = quietPart s := rfl
@[simp] theorem quietPart_setTask (key : TaskKey) (f : Task → Task) : quietPart (setTask s key f) = quietPart s := rfl
@[simp] theorem quietPart_releaseTicket (id : Nat) : quietPart (releaseTicket s id) = quietPart s := rfl
@[simp] theorem quietPart_abortTasks (sel : Task → Bool) : quietPart (abortTasks s sel) = quietPart s := rfl
@[simp] theorem quietPart_dropRekey (n : Nat) : quietPart (dropRekey s n) = quietPart s := rfl
@[simp] theorem quietPart_structWrite (n : Nat) : quietPart (structWrite s n) = quietPart s := quietPart_modGrn _
@[simp] theorem quietPart_drawBool : quietPart s.drawBool.2 = quietPart s := rfl
@[simp] theorem quietPart_drawNat : quietPart s.drawNat.2 = quietPart s := rfl
@[simp] theorem quietPart_modPort (p : Port) (f : PortState → PortState) : quietPart (s.modPort p f) = quietPart s := by
  cases p <;> rfl
@[simp] theorem quietPart_modPfn (p : Port) (f : PortFn → PortFn) : quietPart (s.modPfn p f) = quietPart s := by
  cases p <;> rfl

/-- A list of values in which one was changed, but not in what is read of it. -/
theorem map_modify_of_eq {α β : Type} {read : α → β} {f : α → α} (h : ∀ x, read (f x) = read x) (l : List α) (n : Nat) :
    (l.modify n f).map read = l.map read := by
  refine List.ext_getElem? fun i => ?_
  rw [List.getElem?_map, List.getElem?_map, List.getElem?_modify]
  cases l[i]? with
  | none => rfl
  | some x => by_cases hi : n = i <;> simp [hi, h]

/-- A Plot changed in anything but its state. -/
theorem quietPart_modPlot (n : Nat) {f : PlotState → PlotState} (h : ∀ p, (f p).mode = p.mode) :
    quietPart (s.modPlot n f) = quietPart s := by
  simp [quietPart, map_modify_of_eq h]

theorem quietPart_foldl {α : Type} {step : State → α → State} (h : ∀ s x, quietPart (step s x) = quietPart s) (l : List α)
    (s : State) : quietPart (l.foldl step s) = quietPart s :=
  foldl_unchanged quietPart step h l s

@[simp] theorem quietPart_ite {c : Prop} [Decidable c] {t u : State} :
    quietPart (if c then t else u) = if c then quietPart t else quietPart u := apply_ite quietPart c t u

/-! ### Events, frames and answers -/

@[simp] theorem quietPart_queueEvents (kind inst d0 d1 : Nat) : quietPart (queueEvents s kind inst d0 d1) = quietPart s := by
  rw [queueEvents_eq]; rfl

@[simp] theorem quietPart_ringSend (ty dest tag : Nat) (resp : Bool) (payload : List Byte) :
    quietPart (ringSend s ty dest tag resp payload) = quietPart s := by
  rw [ringSend_eq]; rfl

@[simp] theorem quietPart_ringRequest (ty dest : Nat) (payload : List Byte) (second : Option (Nat × List Byte)) (why : ReqWhy) :
    quietPart (ringRequest s ty dest payload second why).1 = quietPart s := by
  rw [ringRequest_eq]; rfl

@[simp] theorem quietPart_ringBroadcast (ty tag : Nat) (payload : List Byte) :
    quietPart (ringBroadcast s ty tag payload) = quietPart s := by
  simp only [ringBroadcast]
  split_ifs <;> rfl

@[simp] theorem quietPart_sendPair (dest tag order lba flags plot bank : Nat) (env : Envelope) (data : List Byte) :
    quietPart (sendPair s dest tag order lba flags plot bank env data) = quietPart s := by
  simp [sendPair]

@[simp] theorem quietPart_clearMembers (n : Nat) : quietPart (clearMembers s n) = quietPart s := by
  unfold clearMembers
  split
  · exact quietPart_foldl (fun _ _ => quietPart_ringRequest _ _ _ _ _) _ _
  · rfl

@[simp] theorem quietPart_settleTasks : quietPart (settleTasks s) = quietPart s := by
  refine (quietPart_foldl (fun u t => ?_) _ _).trans rfl
  split <;> simp

@[simp] theorem quietPart_clearKeys (plots : List Nat) : quietPart (clearKeys s plots) = quietPart s :=
  (quietPart_foldl (fun _ n => quietPart_modPlot (f := fun p => { p with keys := none }) n fun _ => rfl) plots _).trans rfl

@[simp] theorem quietPart_orphanChecks (p : Port) : quietPart (orphanChecks s p) = quietPart s := by
  simp [quietPart, orphanChecks, Function.comp_def]

@[simp] theorem quietPart_dropCapsule (p : Port) (fn : CapsuleFn) : quietPart (dropCapsule s p fn) = quietPart s := by
  simp only [dropCapsule]
  split <;> simp

@[simp] theorem quietPart_detachPlot (n : Nat) : quietPart (detachPlot s n) = quietPart s := by
  refine quietPart_foldl (fun u p => ?_) _ _
  split <;> simp

@[simp] theorem quietPart_dropRemote : quietPart (dropRemote s) = quietPart s := by
  simp only [dropRemote, quietPart_settleTasks]
  exact quietPart_foldl (fun _ _ => quietPart_detachPlot _) (List.range 64) _

@[simp] theorem quietPart_releaseSems (id : Identity) (cause : Nat) : quietPart (releaseSems s id cause) = quietPart s := by
  simp only [releaseSems]
  split <;> rfl

@[simp] theorem quietPart_sendIn (key : TaskKey) (bytes : Nat) : quietPart (sendIn s key bytes) = quietPart s := by
  unfold sendIn
  split
  · rfl
  · split
    · rfl
    · dsimp only
      split_ifs <;> simp [modEp]

@[simp] theorem quietPart_sendScsi (key : TaskKey) (st : ScsiStatus) (data : List Byte) :
    quietPart (sendScsi s key st data) = quietPart s := by
  simp [sendScsi]

@[simp] theorem quietPart_respond (p : Port) (fn : CapsuleFn) (r : Response) : quietPart (respond s p fn r) = quietPart s :=
  quietPart_modPfn _ _

@[simp] theorem quietPart_answerVault (a : Asker) (opcode status detail : Nat) (payload : List Byte) :
    quietPart (answerVault s a opcode status detail payload) = quietPart s := by
  cases a <;> simp [answerVault]

@[simp] theorem quietPart_answerCapsule (t : Task) (status detail : Nat) (payload : List Byte) :
    quietPart (answerCapsule s t status detail payload) = quietPart s := by
  simp only [answerCapsule]
  split
  · rfl
  · split <;> simp

@[simp] theorem quietPart_failPair (pos : Nat) (t : Task) (st : ScsiStatus) : quietPart (failPair s pos t st) = quietPart s :=
  quietPart_sendPair _ _ _ _ _ _ _ _ _

@[simp] theorem quietPart_answerTask (t : Task) (st : ScsiStatus) (data : List Byte) :
    quietPart (answerTask s t st data) = quietPart s := by
  simp only [answerTask]
  split
  · rfl
  · split <;> simp

/-! ### Reads and aborts -/

@[simp] theorem quietPart_concludeRead (t : Task) : quietPart (concludeRead s t) = quietPart s := by
  unfold concludeRead
  split
  · simp
  · split
    · split
      · split <;> simp
      · simp
    · simp

@[simp] theorem quietPart_forwardZero (t : Task) (i : Nat) : quietPart (forwardZero s t i) = quietPart s := by
  have hblock : ∀ x j, quietPart (forwardBlock s x j) = quietPart s := by
    intro x j
    unfold forwardBlock
    split
    · rfl
    · dsimp only
      split <;> simp
  simp only [forwardZero]
  split <;> simp [hblock]

@[simp] theorem quietPart_closeRead (t : Task) : quietPart (closeRead s t) = quietPart s := by
  unfold closeRead
  split
  · simp
  · split <;> simp

@[simp] theorem quietPart_advanceReads : quietPart (advanceReads s) = quietPart s := by
  have hzero : ∀ (t : Task) (l : List Nat) (u : State), quietPart (l.foldl (fun s i => forwardZero s t i) u) = quietPart u :=
    fun t => quietPart_foldl fun _ i => quietPart_forwardZero t i
  refine quietPart_foldl (fun u t => ?_) _ _
  split
  · simp only [advanceRead]
    split
    · rfl
    · split <;> split_ifs <;> simp [hzero]
  · rfl

/-- The detach of a port (R230). -/
@[simp] theorem quietPart_detachPort (p : Port) (cause : Nat) : quietPart (detachPort s p cause) = quietPart s := by
  simp [detachPort, resetPort, dropCapsules, abortPort, abortAnd]

end QuietPart

end Sys2Proof.Machine
end

section
/-! The entries of Dark and Off (R208, R212, R213, R221, R620, Table PWR-4): the islands that stop, the Granary that is cut off, and the
Plots that close. -/

namespace Sys2Proof.Machine

section PowerEntries

variable {s : State}

/-! ### The islands stop (R93, R208) -/

theorem leaveSlots_return (l : List Nat) (s : State) : ChansReturn s (l.foldl (fun s c => leaveSlot s c) s) :=
  List.foldlRecOn l _ (motive := fun t => ChansReturn s t) (.refl s) fun _ ht c _ => ht.trans (leaveSlot_return c)

@[simp] theorem quietPart_returnEngines : quietPart (returnEngines s) = quietPart s := rfl
@[simp] theorem returnEngines_grn : (returnEngines s).grn = s.grn := rfl

@[simp] theorem quietPart_freeLane (lane : Lane) : quietPart (freeLane s lane) = quietPart s := by
  unfold freeLane
  split <;> simp

@[simp] theorem freeLane_grn (lane : Lane) : (freeLane s lane).grn = s.grn := by
  unfold freeLane
  split <;> rfl

@[simp] theorem quietPart_stopSweep : quietPart (stopSweep s) = quietPart s := by
  simp only [stopSweep, quietPart_modSaf, quietPart_returnEngines, quietPart_freeLane]
  rw [(leaveSlots_return _ s).rest]
  rfl

@[simp] theorem stopSweep_grn : (stopSweep s).grn = s.grn := by
  simp only [stopSweep, State.modSaf_grn, returnEngines_grn, freeLane_grn]
  rw [(leaveSlots_return _ s).rest]

/-- Channels alone are stopped after the sweep. -/
theorem setChans_parts (u : State) (chans : List ChanState) :
    quietPart { u with chans := chans } = quietPart u ∧ ({ u with chans := chans } : State).grn = u.grn := ⟨rfl, rfl⟩

@[simp] theorem quietPart_stopIslands : quietPart (stopIslands s) = quietPart s :=
  (setChans_parts (stopSweep s) _).1.trans quietPart_stopSweep

theorem stopIslands_grn : (stopIslands s).grn = s.grn := (setChans_parts (stopSweep s) _).2.trans stopSweep_grn

theorem stopIslands_stopped : ∀ k ∈ (stopIslands s).chans, k.stopped = true := by
  intro k hk
  obtain ⟨c, -, rfl⟩ := List.mem_map.mp hk
  rfl

theorem stopIslands_sweepOn : (stopIslands s).saf.sweepOn = false := rfl

/-! ### The Granary is cut off (Table GRN-10) -/

@[simp] theorem quietPart_modGrnBank (id : Identity) (f : GrnBank → GrnBank) : quietPart (modGrnBank s id f) = quietPart s := rfl

@[simp] theorem quietPart_progCheck (c : GrnCmd) (data : List Word) : quietPart (progCheck s c data).2.2 = quietPart s := by
  have hseed : ∀ (u : State) (w : Nat), quietPart (seedErased u w).2 = quietPart u := by
    intro u w
    unfold seedErased
    split <;> rfl
  have hplan : ∀ (u : State) (w : Nat) (b : List Byte), quietPart (seedPlan u w b).2 = quietPart u := by
    intro u w b
    have hboth : quietPart (seedErased (seedErased u w).2 (w + 32)).2 = quietPart u := (hseed _ _).trans (hseed u w)
    simp only [seedPlan]
    split
    · exact hboth
    · split
      · exact hboth
      · split <;> exact hboth
  have hword : ∀ (u : State) (a : Nat), quietPart (erasedTight u a).2 = quietPart u := by
    intro u a
    unfold erasedTight
    split_ifs <;> rfl
  refine List.foldlRecOn _ _ (motive := fun a : Bool × List SeedPlan × State => quietPart a.2.2 = quietPart s) rfl fun a ha i _ => ?_
  dsimp only
  split
  · exact (hplan _ _ _).trans ha
  · exact (hword _ _).trans ha

@[simp] theorem quietPart_cutCommand (c : GrnCmd) (finish : Bool) : quietPart (cutCommand s c finish) = quietPart s := by
  have hseed : ∀ (plans : List SeedPlan) (data : List Word) (n : Nat) (u : State), quietPart (progSeed u c plans data n) = quietPart u :=
    fun _ _ n => quietPart_foldl (fun _ _ => by rfl) (List.range n)
  have hspoil : ∀ (u : State) (w : Nat) (plan : SeedPlan) (b : List Byte), quietPart (spoilSeed u w plan b) = quietPart u :=
    fun _ _ _ _ => rfl
  simp only [cutCommand]
  split
  · rfl
  · rfl
  · simp [finishInc]
  · simp [hseed, hspoil, progWords]

@[simp] theorem quietPart_grnCut (finish : Bool) : quietPart (grnCut s finish) = quietPart s := by
  simp only [grnCut, quietPart_modGrn]
  split
  on_goal 1 => rw [quietPart_modGrn]
  all_goals
    split
    · split <;> simp
    · simp
    · rfl

theorem grnCut_idle (finish : Bool) : (grnCut s finish).grn.queue = [] ∧ (grnCut s finish).grn.erase = none := ⟨rfl, rfl⟩

/-! ### The Plots close (R212, R256) -/

theorem plot_mode (s : State) (n : Nat) : (s.plot n).mode = (quietPart s).2.getD n .absent := by
  simp only [State.plot, quietPart, List.getD, List.getElem?_map]
  cases s.plots[n]? <;> rfl

theorem set_getD_self {α : Type} (l : List α) (n : Nat) (d : α) : l.set n (l.getD n d) = l := by
  by_cases hlen : n < l.length
  · simp [List.getD, hlen]
  · exact List.set_eq_of_length_le (not_lt.mp hlen)

/-- A list of values in which one was changed, to a known value of what is read of it. -/
theorem map_modify_to {α β : Type} {read : α → β} {f : α → α} {y : β} (h : ∀ x, read (f x) = y) (l : List α) (n : Nat) :
    (l.modify n f).map read = (l.map read).set n y := by
  refine List.ext_getElem? fun i => ?_
  rw [List.getElem?_map, List.getElem?_modify, List.getElem?_set, List.length_map, List.getElem?_map]
  by_cases hi : n = i
  · subst hi
    by_cases hlen : n < l.length <;> simp [hlen, h]
  · simp [hi]

/-- A Plot's new state is its own alone. -/
theorem quietPart_setPlotMode (n : Nat) (m : PlotMode) (reason : Nat) :
    quietPart (setPlotMode s n m reason) = ((quietPart s).1, (quietPart s).2.set n m) := by
  simp only [setPlotMode]
  split
  case isTrue h => rw [← h, plot_mode, set_getD_self]
  case isFalse =>
    exact (quietPart_queueEvents _ _ _ _).trans
      (Prod.ext rfl (map_modify_to (read := PlotState.mode) (f := fun p => { p with mode := m }) (fun _ => rfl) _ _))

theorem quietPart_closePlot (n : Nat) (m : PlotMode) (reason : Nat) :
    quietPart (closePlot s n m reason) = ((quietPart s).1, (quietPart s).2.set n m) := by
  have hshut : ∀ u : State, quietPart (u.modPlot n fun p => { p with sanitize := none }) = quietPart u :=
    fun u => quietPart_modPlot n fun _ => rfl
  simp [closePlot, quietPart_setPlotMode, hshut]

/-- A Plot that is Open or Read-only closes; any other stays as it is. -/
def shutPlot (s : State) (n : Nat) : State := if (s.plot n).mode.up then closePlot s n .closed 4 else s

theorem shutPlot_mode (s : State) (k n : Nat) : ((shutPlot s k).plot n).mode =
    if k = n ∧ (s.plot n).mode.up = true then .closed else (s.plot n).mode := by
  unfold shutPlot
  by_cases hup : (s.plot k).mode.up = true
  · rw [if_pos hup, plot_mode, quietPart_closePlot]
    by_cases hk : k = n
    · subst hk
      have hlen : k < (quietPart s).2.length := by
        by_contra hout
        rw [plot_mode, List.getD_eq_default _ _ (not_lt.mp hout)] at hup
        exact absurd hup (by decide)
      simp [hup, List.getD, hlen]
    · simp [hk, plot_mode, List.getD]
  · rw [if_neg hup]
    by_cases hk : k = n
    · subst hk
      simp [hup]
    · simp [hk]

/-- Once every listed Plot has been shut, one of them that was Open or Read-only is Closed. -/
theorem shutPlots_mode {n : Nat} : ∀ (l : List Nat) (s : State), (s.plot n).mode.up = true ∧ n ∈ l ∨ (s.plot n).mode = .closed →
    ((l.foldl shutPlot s).plot n).mode = .closed
  | [], _, h => h.elim (fun h => absurd h.2 List.not_mem_nil) id
  | k :: l, s, h => by
    refine shutPlots_mode l _ ?_
    rw [shutPlot_mode]
    obtain ⟨hup, hmem⟩ | hclosed := h
    · by_cases hk : k = n
      · exact .inr (if_pos ⟨hk, hup⟩)
      · rw [if_neg fun h => hk h.1]
        exact .inl ⟨hup, (List.mem_cons.mp hmem).resolve_left (Ne.symm hk)⟩
    · right
      split
      · rfl
      · exact hclosed

/-- What Off leaves of the device before its islands stop: its LEAVE sent, its Plots shut, its ports and the master's Plots gone. -/
def departed (s : State) : State :=
  let left := if s.stk.state = 2 then ringBroadcast s 0x05 0 (leBytes 1 s.ringPos ++ [0, 0, 0]) else s
  let shut := left.plotList.foldl (fun s n => shutPlot s n) left
  dropRemote (shut.member.portList.foldl (fun s p => detachPort s p 1) shut)

theorem departed_mode {n : Nat} (hn : n ∈ s.plotList) (hup : (s.plot n).mode.up = true) : ((departed s).plot n).mode = .closed := by
  simp only [departed]
  generalize hleft : (if s.stk.state = 2 then ringBroadcast s 0x05 0 _ else s) = left
  have hquiet : quietPart left = quietPart s := by
    rw [← hleft]
    simp
  have hlist : left.plotList = s.plotList := by
    have hactive : left.lay.active = s.lay.active := active_of_quietPart hquiet
    simp only [State.plotList, State.layout, hactive]
  have hports : ∀ (l : List Port) (u : State), quietPart (l.foldl (fun s p => detachPort s p 1) u) = quietPart u :=
    quietPart_foldl fun _ p => quietPart_detachPort p 1
  rw [plot_mode, quietPart_dropRemote, hports, ← plot_mode, hlist]
  exact shutPlots_mode _ _ (.inl ⟨by rwa [plot_mode, hquiet, ← plot_mode], hn⟩)

theorem enterOff_eq (s : State) : enterOff s =
    (((idleLinks (stopIslands (grnCut (departed s) true))).modSaf fun q => { q with safeNHeld := s.safeN, log := [], logHead := 0 }).modHold
      fun h => { h with holding := false, sealed := false }).modPwr
      fun q => { q with xfer := none, state := .off, bySuspend := false, alert := false } := by
  simp only [enterOff, departed, shutPlot]

theorem enterOff_mode {n : Nat} (hn : n ∈ s.plotList) (hup : (s.plot n).mode.up = true) : ((enterOff s).plot n).mode = .closed := by
  rw [enterOff_eq]
  have hquiet : quietPart (stopIslands (grnCut (departed s) true)) = quietPart (departed s) := by simp
  refine Eq.trans ?_ (departed_mode hn hup)
  rw [plot_mode (departed s), ← hquiet, ← plot_mode]
  generalize stopIslands _ = stopped
  rfl

theorem enterOff_granary : (enterOff s).grn.queue = [] ∧ (enterOff s).grn.erase = none := by
  rw [enterOff_eq]
  obtain ⟨hqueue, herase⟩ := grnCut_idle (s := departed s) true
  rw [← stopIslands_grn] at hqueue herase
  generalize stopIslands _ = stopped at hqueue herase ⊢
  exact ⟨hqueue, herase⟩

theorem enterOff_stopped : ∀ k ∈ (enterOff s).chans, k.stopped = true := by
  rw [enterOff_eq]
  have hstopped := stopIslands_stopped (s := grnCut (departed s) true)
  generalize stopIslands _ = stopped at hstopped ⊢
  exact hstopped

theorem enterOff_parts : (enterOff s).pwr.state = .off ∧ (enterOff s).pwr.xfer = none ∧ (enterOff s).saf.log = [] := by
  rw [enterOff_eq]
  generalize stopIslands _ = stopped
  exact ⟨rfl, rfl, rfl⟩

/-! ### Dark (R208) -/

/-- The state in which the islands of Table PWR-4 stop. -/
def darkened (s : State) (x : PowerXfer) : State :=
  setPower (s.modPwr fun q => { q with xfer := none, before := x.from_ }) .dark x.bySuspend

theorem enterDark_parts (s : State) (x : PowerXfer) : (enterDark s x).pwr = (darkened s x).pwr ∧
    (enterDark s x).chans = (stopIslands (darkened s x)).chans ∧ (enterDark s x).saf = (stopIslands (darkened s x)).saf := by
  have hpwr : (stopIslands (darkened s x)).pwr = (darkened s x).pwr := pwr_of_quietPart quietPart_stopIslands
  have hdark : enterDark s x =
      if (stopIslands (darkened s x)).stackRunsDark then stopIslands (darkened s x) else dropLinks (stopIslands (darkened s x)) := by
    unfold enterDark darkened
    rfl
  rw [hdark]
  generalize stopIslands (darkened s x) = stopped at hpwr
  split <;> exact ⟨hpwr, rfl, rfl⟩

theorem darkened_pwr (s : State) (x : PowerXfer) : (darkened s x).pwr =
    { s.pwr with xfer := none, before := x.from_, state := .dark, bySuspend := x.bySuspend } := by
  rw [darkened, setPower_eq]
  rfl

end PowerEntries

end Sys2Proof.Machine
end

section
/-! What a Field manager's work, a Safelight scope and the record of a fault leave (R61, R97 to R100, R414, R506): power, the layout
and its operation, and the order numbers. -/

namespace Sys2Proof.Machine

section StartPart

variable {s t : State}

/-- Power, the layout with its operation and its start, and the order numbers. -/
def startPart (s : State) : PwrState × Option Layout × Option LayOp × Bool × Nat × Nat := (quietPart s).1

theorem startPart_of_quietPart (h : quietPart t = quietPart s) : startPart t = startPart s := congrArg Prod.fst h

/-! ### Updates of one part, answers and frames -/

@[simp] theorem startPart_modEngine (n : Nat) (f : CipherState → CipherState) : startPart (s.modEngine n f) = startPart s := rfl
@[simp] theorem startPart_modField (n : Nat) (f : FieldState → FieldState) : startPart (s.modField n f) = startPart s := rfl
@[simp] theorem startPart_modChan (n : Nat) (f : ChanState → ChanState) : startPart (s.modChan n f) = startPart s := rfl
@[simp] theorem startPart_modTasks (f : List Task → List Task) : startPart (s.modTasks f) = startPart s := rfl
@[simp] theorem startPart_modSaf (f : SafState → SafState) : startPart (s.modSaf f) = startPart s := rfl
@[simp] theorem startPart_modHold (f : HoldState → HoldState) : startPart (s.modHold f) = startPart s := rfl
@[simp] theorem startPart_modStk (f : StkState → StkState) : startPart (s.modStk f) = startPart s := rfl
@[simp] theorem startPart_setTask (key : TaskKey) (f : Task → Task) : startPart (setTask s key f) = startPart s := rfl
@[simp] theorem startPart_releaseTicket (id : Nat) : startPart (releaseTicket s id) = startPart s := rfl
@[simp] theorem startPart_structWrite (n : Nat) : startPart (structWrite s n) = startPart s := rfl
@[simp] theorem startPart_queueEvents (kind inst d0 d1 : Nat) : startPart (queueEvents s kind inst d0 d1) = startPart s :=
  startPart_of_quietPart (quietPart_queueEvents _ _ _ _)
@[simp] theorem startPart_settleTasks : startPart (settleTasks s) = startPart s := startPart_of_quietPart quietPart_settleTasks
@[simp] theorem startPart_clearKeys (plots : List Nat) : startPart (clearKeys s plots) = startPart s :=
  startPart_of_quietPart (quietPart_clearKeys _)
@[simp] theorem startPart_dropRemote : startPart (dropRemote s) = startPart s := startPart_of_quietPart quietPart_dropRemote
@[simp] theorem startPart_closeRead (t : Task) : startPart (closeRead s t) = startPart s :=
  startPart_of_quietPart (quietPart_closeRead _)
@[simp] theorem startPart_detachPort (p : Port) (cause : Nat) : startPart (detachPort s p cause) = startPart s :=
  startPart_of_quietPart (quietPart_detachPort _ _)
@[simp] theorem startPart_answerTask (t : Task) (st : ScsiStatus) (data : List Byte) :
    startPart (answerTask s t st data) = startPart s :=
  startPart_of_quietPart (quietPart_answerTask _ _ _)
@[simp] theorem startPart_answerVault (a : Asker) (opcode status detail : Nat) (payload : List Byte) :
    startPart (answerVault s a opcode status detail payload) = startPart s :=
  startPart_of_quietPart (quietPart_answerVault _ _ _ _ _)
@[simp] theorem startPart_ringSend (ty dest tag : Nat) (resp : Bool) (payload : List Byte) :
    startPart (ringSend s ty dest tag resp payload) = startPart s :=
  startPart_of_quietPart (quietPart_ringSend _ _ _ _ _)
@[simp] theorem startPart_ringBroadcast (ty tag : Nat) (payload : List Byte) :
    startPart (ringBroadcast s ty tag payload) = startPart s :=
  startPart_of_quietPart (quietPart_ringBroadcast _ _ _)
@[simp] theorem startPart_ringRequest (ty dest : Nat) (payload : List Byte) (second : Option (Nat × List Byte)) (why : ReqWhy) :
    startPart (ringRequest s ty dest payload second why).1 = startPart s := startPart_of_quietPart (quietPart_ringRequest _ _ _ _ _)
@[simp] theorem startPart_modPlot (n : Nat) (f : PlotState → PlotState) : startPart (s.modPlot n f) = startPart s := rfl
@[simp] theorem startPart_onField (n : Nat) (f : FieldState → FEnv → FieldState) : startPart (onField s n f) = startPart s := rfl
@[simp] theorem startPart_markReady (addr n field : Nat) : startPart (markReady s addr n field) = startPart s := rfl
@[simp] theorem startPart_noteGrant (g : Grant) : startPart (noteGrant s g) = startPart s := rfl
@[simp] theorem startPart_setPlotMode (n : Nat) (m : PlotMode) (reason : Nat) :
    startPart (setPlotMode s n m reason) = startPart s := by
  rw [startPart, quietPart_setPlotMode]; rfl
@[simp] theorem startPart_closePlot (n : Nat) (m : PlotMode) (reason : Nat) : startPart (closePlot s n m reason) = startPart s := by
  rw [startPart, quietPart_closePlot]; rfl

theorem startPart_drawTicket {k id : Nat} (h : drawTicket s k = some (id, t)) : startPart t = startPart s := by
  unfold drawTicket at h
  split at h
  · cases h
  · dsimp only at h
    split_ifs at h <;> cases h <;> rfl

@[simp] theorem startPart_foldl {α : Type} {step : State → α → State} (h : ∀ s x, startPart (step s x) = startPart s) (l : List α)
    (s : State) : startPart (l.foldl step s) = startPart s :=
  foldl_unchanged startPart step h l s

@[simp] theorem startPart_ite {c : Prop} [Decidable c] {t u : State} :
    startPart (if c then t else u) = if c then startPart t else startPart u := apply_ite startPart c t u

@[simp] theorem startPart_demotePlots (plots : List Nat) (cause : Nat) : startPart (demotePlots s plots cause) = startPart s := by
  refine startPart_foldl (fun u n => ?_) _ _
  split <;> simp

@[simp] theorem startPart_failReads (addr n field : Nat) : startPart (failReads s addr n field) = startPart s := by
  refine startPart_foldl (fun u t => startPart_foldl (fun v x => ?_) _ _) _ _
  simp only [failBlock]
  split <;> simp

/-! ### Die queues and pages -/

@[simp] theorem startPart_queueOnce (wide : Bool) (op : DieOp) : startPart (queueOnce s wide op) = startPart s := by
  unfold queueOnce
  split
  · rfl
  · split
    · rfl
    · rfl

@[simp] theorem startPart_queuePage (f : Nat) (b : BlkId) (page : Nat) (rekey : Option Nat) :
    startPart (queuePage s f b page rekey) = startPart s := startPart_queueOnce _ _

@[simp] theorem startPart_sendShadow (f pos page plot lba order : Nat) :
    startPart (sendShadow s f pos page plot lba order) = startPart s := by
  have hfree : startPart (freeStage s pos).2.2 = startPart s := rfl
  unfold sendShadow
  split
  · rfl
  · split
    · rfl
    · dsimp only
      split <;> simp [hfree]

@[simp] theorem startPart_releaseRemote (f pos page : Nat) (r : PageRec) :
    startPart (releaseRemote s f pos page r) = startPart s := by
  simp only [releaseRemote]
  split <;> simp

@[simp] theorem startPart_syncRemote (f : Nat) : startPart (syncRemote s f) = startPart s := by
  refine startPart_foldl (fun u r => (startPart_releaseRemote _ _ _ _).trans (startPart_foldl (fun v x => ?_) _ _)) _ _
  split <;> simp

@[simp] theorem startPart_dropDead (f : Nat) : startPart (dropDead s f) = startPart s := by
  simp only [dropDead]
  split
  · rfl
  · refine startPart_foldl (fun u c => ?_) _ _
    rfl

@[simp] theorem startPart_syncQueues (f : Nat) : startPart (syncQueues s f) = startPart s := by
  simp only [syncQueues]
  split_ifs <;> simp

@[simp] theorem startPart_pageArrived (f : Nat) (b : BlkId) (page slot n : Nat) (ok : Bool) :
    startPart (pageArrived s f b page slot n ok) = startPart s := by
  simp only [pageArrived]
  split_ifs <;> simp

@[simp] theorem startPart_settleRebuilds (f : Nat) : startPart (settleRebuilds s f) = startPart s :=
  startPart_foldl (fun _ _ => by simp) _ _

@[simp] theorem startPart_askMember (f : Nat) (b : BlkId) (page : Nat) : startPart (askMember s f b page).1 = startPart s := by
  unfold askMember
  split <;> simp

@[simp] theorem startPart_askRebuild (f : Nat) (x : Rebuild) : startPart (askRebuild s f x) = startPart s := by
  refine startPart_foldl (fun u y => ?_) _ _
  split
  · simp
  · split
    · split <;> simp
    · dsimp only
      split <;> simp

@[simp] theorem startPart_askRebuilds (f : Nat) : startPart (askRebuilds s f) = startPart s :=
  (startPart_settleRebuilds f).trans (startPart_foldl (fun _ _ => startPart_askRebuild _ _) _ _)

@[simp] theorem startPart_wantPage (f : Nat) (b : BlkId) (page : Nat) (rekey : Option Nat) :
    startPart (wantPage s f b page rekey) = startPart s := by
  simp only [wantPage]
  split_ifs <;> simp

@[simp] theorem startPart_askMerges (f : Nat) : startPart (askMerges s f) = startPart s :=
  startPart_foldl (fun _ _ => startPart_wantPage _ _ _ _) _ _

@[simp] theorem startPart_askSegments (f : Nat) : startPart (askSegments s f) = startPart s := by
  refine (startPart_foldl (fun u x => ?_) _ _).trans (startPart_modField _ _)
  split
  · dsimp only
    split <;> simp
  · rfl

/-! ### Internal work -/

@[simp] theorem startPart_grantRequest (f : Nat) (r : FieldReq) : startPart (grantRequest s f r) = startPart s := by
  unfold grantRequest
  split
  · rfl
  case h_2 id u hdraw =>
    refine Eq.trans ?_ (startPart_drawTicket hdraw)
    cases r <;> simp [beginRequest]

@[simp] theorem startPart_grantRequests (f fuel : Nat) : startPart (grantRequests f fuel s) = startPart s := by
  induction fuel generalizing s with
  | zero => rfl
  | succ fuel ih =>
    unfold grantRequests
    split
    · rfl
    · rw [ih, startPart_grantRequest]

@[simp] theorem startPart_feedMove (f : Nat) (m : MoveRun) : startPart (feedMove s f m) = startPart s := by
  simp only [feedMove]
  split
  · simp
  · split <;> simp

@[simp] theorem startPart_endMoves (f : Nat) : startPart (endMoves s f) = startPart s := by
  refine startPart_foldl (fun u m => ?_) _ _
  dsimp only
  split_ifs
  · rfl
  all_goals split <;> simp

@[simp] theorem startPart_stepFix (f : Nat) : startPart (stepFix s f) = startPart s := by
  unfold stepFix
  split
  · split_ifs <;> simp
  · rfl

@[simp] theorem startPart_beginRekey (f n : Nat) : startPart (beginRekey s f n) = startPart s := by
  simp only [beginRekey]
  split
  · rfl
  · split
    · rfl
    · split_ifs <;> simp

@[simp] theorem startPart_rekeyWork (f : Nat) : startPart (rekeyWork s f) = startPart s := by
  have hpause : startPart (pauseRekeys s f) = startPart s := by
    refine (startPart_foldl (fun u m => ?_) _ _).trans (startPart_modField _ _)
    split <;> simp
  refine (startPart_foldl (fun _ _ => startPart_foldl (fun _ _ => startPart_wantPage _ _ _ _) _ _) _ _).trans ?_
  exact (startPart_foldl (fun _ _ => startPart_beginRekey _ _) _ _).trans (by simp [hpause])

@[simp] theorem startPart_writeRecord (n : Nat) (f : KeyRecord → KeyRecord) : startPart (writeRecord s n f) = startPart s := by
  simp [writeRecord]

@[simp] theorem startPart_endRekeys (f : Nat) : startPart (endRekeys s f) = startPart s := by
  refine startPart_foldl (fun u n => ?_) _ _
  dsimp only
  split <;> simp

@[simp] theorem startPart_internalWork (f : Nat) : startPart (internalWork s f) = startPart s := by
  have hfeed : ∀ (l : List MoveRun) (u : State), startPart (l.foldl (fun s m => feedMove s f m) u) = startPart u :=
    fun l u => startPart_foldl (fun _ _ => startPart_feedMove _ _) l u
  simp only [internalWork]
  split
  · rfl
  · simp [hfeed, sweepEmpty]

/-! ### A Field's Read-only state, its health and its commands -/

@[simp] theorem startPart_updateHeadland (f : Nat) : startPart (updateHeadland s f) = startPart s := by
  unfold updateHeadland
  split
  · rfl
  · simp

@[simp] theorem startPart_updateHealth (f : Nat) : startPart (updateHealth s f) = startPart s := by
  unfold updateHealth
  split
  · rfl
  · refine (startPart_foldl (fun u n => ?_) _ _).trans (startPart_modField _ _)
    dsimp only
    split <;> simp

@[simp] theorem startPart_runWaiters (f : Nat) : startPart (runWaiters s f) = startPart s := by
  refine startPart_foldl (fun u w => ?_) _ _
  dsimp only
  split_ifs
  · split <;> simp
  · rfl

@[simp] theorem startPart_runSecure (f : Nat) : startPart (runSecure s f) = startPart s := by
  refine startPart_foldl (fun u r => ?_) _ _
  dsimp only
  split
  · split <;> simp
  · simp

@[simp] theorem startPart_sealFields : startPart (sealFields s) = startPart s := by
  simp only [sealFields]
  split
  · rw [startPart_modHold]
    refine startPart_foldl (fun u f => ?_) _ _
    split <;> simp
  · rfl

/-- Everything a Field manager does at one moment. -/
@[simp] theorem startPart_runField (f : Nat) : startPart (runField s f) = startPart s := by
  unfold runField
  split
  · rfl
  · split
    · rfl
    · dsimp only
      split <;> simp [forceDue]

@[simp] theorem startPart_develop (f : Nat) (cover : SlotUse → Bool) : startPart (develop s f cover) = startPart s := by
  simp [develop]

/-! ### Channels stopped, lost and returned -/

@[simp] theorem startPart_settleRecipe (c : Nat) : startPart (settleRecipe s c) = startPart s := by
  unfold settleRecipe
  split <;> rfl

@[simp] theorem startPart_stopChannel (c : Nat) : startPart (stopChannel s c) = startPart s := by
  simp only [stopChannel, startPart_settleRecipe, startPart_modChan]
  split <;> simp

@[simp] theorem startPart_stopField (f : Nat) : startPart (stopField s f) = startPart s := by
  unfold stopField
  split
  · rfl
  · exact startPart_foldl (fun _ _ => startPart_stopChannel _) _ _

@[simp] theorem startPart_loseChannel (f chan : Nat) : startPart (loseChannel s f chan) = startPart s := by
  simp only [loseChannel]
  split <;> simp [rebuildAsked]

@[simp] theorem startPart_darkenPlots (plots : List Nat) : startPart (darkenPlots s plots) = startPart s := by
  refine startPart_foldl (fun u n => ?_) _ _
  split
  · simp
  · simp only [startPart_closePlot, startPart_modPlot]
    exact startPart_foldl (fun _ _ => startPart_answerVault _ _ _ _ _) _ _

@[simp] theorem startPart_redispatch (j : BlockJob) : startPart (redispatch s j) = startPart s := by
  have hdispatch : startPart (dispatchJob s j).1 = startPart s := by
    unfold dispatchJob
    split <;> rfl
  simp only [redispatch]
  split <;> simp [hdispatch]
/-! ### Faults and their scopes (R97 to R100, R116, Table SAF-5) -/

@[simp] theorem startPart_writeLog (r : LogRec) : startPart (writeLog s r) = startPart s := by
  have hwake : ∀ (u : State) (bit : Nat), startPart (wakeTriggers u bit) = startPart u := by
    refine fun u bit => startPart_foldl (fun v p => ?_) _ _
    simp only [wakeTrigger]
    split
    · exact startPart_of_quietPart (quietPart_modPort _ _)
    · rfl
  dsimp only [writeLog]
  split_ifs <;> simp [hwake] <;> rfl

@[simp] theorem startPart_logFault (cause scope inst : Nat) (latch wider : Bool) (strikes island requester : Nat) (d0 d1 : Word) :
    startPart (logFault s cause scope inst latch wider strikes island requester d0 d1) = startPart s := by
  simp only [logFault]
  split
  · rfl
  · exact startPart_writeLog _

theorem startPart_fenceChannel (c : Nat) (latch : Bool) : startPart (fenceChannel s c latch) = startPart s := by
  simp only [fenceChannel]
  split <;> simp

@[simp] theorem startPart_applyScope (code inst : Nat) (latch : Bool) : startPart (applyScope s code inst latch) = startPart s := by
  have hremote : startPart (dropRemote s) = startPart s := startPart_dropRemote
  unfold applyScope
  -- stack scope looks at what `dropRemote` leaves, which must not be computed: it runs through the master's 64 Plots
  generalize dropRemote s = v at hremote
  split
  case h_1 => simp
  case h_2 => exact startPart_fenceChannel inst latch
  case h_3 => dsimp only; split <;> simp
  case h_4 => simp
  case h_5 => exact startPart_detachPort _ _
  case h_6 => exact (startPart_foldl (fun _ _ => startPart_stopChannel _) _ _).trans (startPart_dropRemote.trans (startPart_darkenPlots s.plotList))
  case h_7 => exact Eq.trans (by dsimp only; split <;> simp) hremote
  case h_8 => rfl

@[simp] theorem startPart_tellRing (code cause island : Nat) (latch : Bool) (d0 d1 : Word) :
    startPart (tellRing s code cause latch island d0 d1) = startPart s := by
  have hstack : ∀ v : State, startPart (addStackScope v cause latch island d0 d1) = startPart v := by
    intro v
    dsimp only [addStackScope]
    split
    · simp
    · simp
  unfold tellRing
  split
  · rw [hstack, startPart_ringBroadcast]
  · rfl

@[simp] theorem startPart_enterOneScope (cause code inst : Nat) (latch : Bool) (island requester : Nat) (d0 d1 : Word)
    (who : Option (Nat × Nat)) : startPart (enterOneScope s cause code inst latch island requester d0 d1 who) = startPart s := by
  have hstrike : ∀ u : State, startPart (addStrike u code inst) = startPart u := by
    intro u
    unfold addStrike
    split_ifs <;> rfl
  simp only [enterOneScope]
  split
  · rfl
  · simp [hstrike]

@[simp] theorem startPart_enterScope (cause code inst : Nat) (latch : Bool) (island requester : Nat) (d0 d1 : Word)
    (who : Option (Nat × Nat)) : startPart (enterScope s cause code inst latch island requester d0 d1 who) = startPart s := by
  have hcipher : ∀ u : State, startPart (noCipher u) = startPart u := by
    intro u
    unfold noCipher
    split
    · rfl
    · exact startPart_enterOneScope _ _ _ _ _ _ _ _ _
  simp [enterScope, hcipher]

@[simp] theorem startPart_enterDevice (cause island requester : Nat) (d0 d1 : Word) :
    startPart (enterDevice s cause island requester d0 d1) = startPart s := startPart_enterScope _ _ _ _ _ _ _ _ _

end StartPart

end Sys2Proof.Machine
end

section
/-! What the sweep's start, the discovery of the channels, recovery's beginning and a stack's enumeration leave (R46, R87, R197, R578,
R590): power, the layout and its operation, and the order numbers. -/

namespace Sys2Proof.Machine

section StartSteps

variable {s : State}

/-! ### The sweep begins (R79 to R87) -/

@[simp] theorem startPart_freeLane (lane : Lane) : startPart (freeLane s lane) = startPart s :=
  startPart_of_quietPart (quietPart_freeLane lane)

@[simp] theorem startPart_returnLane (lane : Lane) : startPart (returnLane s lane) = startPart s := by
  cases lane with
  | channel => rw [returnLane_channel.rest]; exact startPart_freeLane _
  | cipher => exact startPart_freeLane (s := s) .cipher
  | structural => exact startPart_freeLane _

theorem startPart_setBanks (u : State) (banks : List BankState) : startPart { u with banks := banks } = startPart u := rfl

@[simp] theorem startPart_recordCe : startPart (recordCe s) = startPart s := by
  refine (startPart_setBanks _ _).trans (startPart_foldl (fun u b => ?_) _ _)
  split
  · rfl
  · exact startPart_logFault _ _ _ _ _ _ _ _ _ _

@[simp] theorem startPart_drawLane (lane : Lane) : startPart (drawLane s lane).1 = startPart s := by
  simp only [drawLane]
  split
  case h_1 id u hdraw =>
    rw [startPart_modSaf, startPart_noteGrant]
    exact startPart_drawTicket hdraw
  case h_2 => rfl

theorem startPart_useSlot (lane : Lane) : startPart (useSlot s lane) = startPart s := by
  have hfor : ∀ (u : State) (n : Nat), startPart (withdrawFor u lane n) = startPart u := fun _ _ => by cases lane <;> rfl
  have hdrawn : ∀ (u : State) (b : Bool), drawLane s lane = (u, b) → startPart u = startPart s := by
    intro u b h
    have hlane := startPart_drawLane (s := s) lane
    rwa [h] at hlane
  unfold useSlot
  dsimp only
  split
  · rfl
  · split
    case h_1 u hdraw => exact hdrawn u false hdraw
    case h_2 u hdraw =>
      split
      · exact (hfor _ _).trans (hdrawn u true hdraw)
      · exact hdrawn u true hdraw
      · exact hdrawn u true hdraw

@[simp] theorem startPart_beginSlot (lane : Lane) : startPart (beginSlot s lane) = startPart s := by
  have hfreed : startPart (slotFreed s lane) = startPart s := startPart_returnLane lane
  rw [beginSlot_eq, startPart_useSlot]
  cases lane with
  | channel =>
    simp only [slotOpened, startPart_modSaf]
    split
    · exact startPart_recordCe.trans hfreed
    · exact hfreed
  | cipher => exact hfreed
  | structural => exact hfreed

@[simp] theorem startPart_startSweep : startPart (startSweep s) = startPart s := by
  simp [startSweep]

/-! ### Channels and Fields (R197, R433, R454, R463, R616) -/

@[simp] theorem startPart_discover (failed : List Nat) : startPart (discover s failed) = startPart s := by
  refine startPart_foldl (fun u c => ?_) _ _
  dsimp only
  split_ifs
  · rfl
  · unfold recipeFence channelFault
    split
    · exact startPart_enterScope _ _ _ _ _ _ _ _ _
    · exact startPart_enterScope _ _ _ _ _ _ _ _ _
  · rfl

@[simp] theorem startPart_markFactory (bad : List (Nat × Nat × Nat)) : startPart (markFactory s bad) = startPart s := by
  refine startPart_foldl (fun u x => ?_) _ _
  split
  · split <;> rfl
  · rfl

@[simp] theorem startPart_horizonScan : startPart (horizonScan s) = startPart s := by
  have hpage : ∀ (u : State) (r : PageRec), startPart (scanPage u r).1 = startPart u := by
    intro u r
    simp only [scanPage]
    split <;> rfl
  have hpages : ∀ (l : List PageRec) (u : State), startPart (scanPages l u).1 = startPart u := by
    intro l
    induction l with
    | nil => exact fun _ => rfl
    | cons r rs ih => exact fun u => (ih _).trans (hpage u r)
  exact startPart_foldl (fun u f => (startPart_modField _ _).trans (hpages _ u)) _ _

@[simp] theorem startPart_scanField (f : Nat) : startPart (scanField s f) = startPart s := by
  unfold scanField
  split
  · rfl
  · split
    · rfl
    · exact startPart_foldl (fun _ _ => startPart_ringRequest _ _ _ _ _) _ _

@[simp] theorem startPart_beginReplay (f : Nat) : startPart (beginReplay s f) = startPart s := by
  have htickets : ∀ (ids : List Nat) (u : State), startPart (ids.foldl releaseTicket u) = startPart u :=
    startPart_foldl fun _ _ => startPart_releaseTicket _
  simp only [beginReplay]
  split
  · rfl
  · rw [startPart_scanField, startPart_modField]
    split
    · refine (startPart_foldl (fun u c => ?_) _ _).trans (htickets _ _)
      simp
    · exact htickets _ _

@[simp] theorem startPart_copyPersisted : startPart (copyPersisted s) = startPart s :=
  startPart_foldl (fun _ _ => startPart_modSaf _) _ _

/-! ### The stack (R578, R579, R590, R597, R616) -/

@[simp] theorem startPart_takePosition : startPart (takePosition s) = startPart s := by
  unfold takePosition
  split <;> rfl

@[simp] theorem startPart_stackEvent (pos code data : Nat) : startPart (stackEvent s pos code data) = startPart s :=
  startPart_queueEvents _ _ _ _

theorem startPart_absenceIn (pos : Nat) (f : FieldCfg) : startPart (absenceIn s pos f) = startPart s := by
  have hdies : startPart (loseDies s f.inst pos) = startPart s := by
    unfold loseDies
    split
    · rfl
    · exact startPart_foldl (fun _ _ => startPart_loseChannel _ _) _ _
  simp only [absenceIn]
  split_ifs
  · rfl
  · exact hdies
  · exact (startPart_enterScope _ _ _ _ _ _ _ _ _).trans hdies
  · exact (startPart_foldl (fun _ _ => startPart_enterScope _ _ _ _ _ _ _ _ _) _ _).trans hdies

@[simp] theorem startPart_settleWide : startPart (settleWide s) = startPart s := by
  simp only [settleWide]
  refine (startPart_foldl (fun u f => ?_) _ _).trans (startPart_foldl (fun u pos => ?_) _ _)
  · split <;> simp
  · exact startPart_foldl (fun _ _ => startPart_absenceIn _ _) _ _

@[simp] theorem startPart_finishEnum : startPart (finishEnum s) = startPart s := by
  simp only [finishEnum, startPart_settleWide]
  refine (startPart_foldl (fun u x => ?_) _ _).trans ?_
  · split <;> simp
  · rw [startPart_stackEvent]
    exact (startPart_foldl (fun u m => by split; exacts [rfl, startPart_ringSend _ _ _ _ _]) _ _).trans
      (startPart_ringBroadcast _ _ _)

@[simp] theorem startPart_startStack : startPart (startStack s) = startPart s := by
  have hwindow : ∀ u : State, startPart (openWindow u) = startPart u := by
    intro u
    simp only [openWindow]
    split
    · exact startPart_finishEnum
    · rfl
  simp only [startStack]
  split_ifs
  · rfl
  · rfl
  · exact (hwindow _).trans startPart_takePosition
  · exact startPart_finishEnum.trans startPart_takePosition

end StartSteps

end Sys2Proof.Machine
end

section
/-! The end of development (R144, R208, R212, Table LAY-4), the resets (R188 to R192, R213, Table PWR-2) and the start from the
reference to its last step (R46, R130, R193 to R201, R640); O48 and O49. -/

namespace Sys2Proof.Machine

section Start

variable {s t u : State} {facts : StartFacts}

/-! ### The steps before a layout is chosen (R198, R358, R362, R366, R531) -/

@[simp] theorem startPart_finishLowering : startPart (finishLowering s) = startPart s := rfl
@[simp] theorem startPart_noteVerdict (x : Slot) (v : Verdict) : startPart (noteVerdict s x v) = startPart s := rfl

@[simp] theorem startPart_lostStructs (l : List (Nat × Nat)) : startPart (lostStructs s l) = startPart s :=
  startPart_foldl (fun _ _ => startPart_enterDevice _ _ _ _ _) _ _

@[simp] theorem startPart_startTamper : startPart (startTamper s) = startPart s := by
  unfold startTamper
  split
  · exact startPart_enterDevice _ _ _ _ _
  · rfl

@[simp] theorem startPart_startEntropy (ok : Bool) : startPart (startEntropy s ok) = startPart s := by
  simp only [startEntropy]
  split
  · rfl
  · exact startPart_enterDevice _ _ _ _ _

theorem startPart_useSeed (w copy : Nat) : startPart (useSeed s w copy) = startPart s := by
  unfold useSeed
  split
  · dsimp only
    split <;> rfl
  · rfl

theorem startPart_readSeed (w : Nat) (m : SeedMargin) : startPart (readSeed s w m) = startPart s := by
  cases m with
  | primary => exact startPart_useSeed w w
  | copyUsed => exact (startPart_logFault _ _ _ _ _ _ _ _ _ _).trans (startPart_useSeed w (w + 32))
  | neither => exact startPart_enterDevice _ _ _ _ _

/-- The rows read set the trim and what the Seed words decide of security; their faults are recorded. -/
theorem startPart_readRows : startPart (readRows s facts).1 =
    startPart (s.modPwr fun q => { q with calTrim := facts.calRowA || facts.calRowB }) := by
  have hseeds : ∀ (l : List (Nat × SeedMargin)) (v : State), startPart (l.foldl (fun (s : State) x => readSeed s x.1 x.2) v) = startPart v :=
    startPart_foldl fun _ x => startPart_readSeed x.1 x.2
  refine Eq.trans (Eq.trans rfl (hseeds _ _)) ?_
  split
  · rfl
  · exact startPart_enterDevice _ _ _ _ _

/-! ### From the layout load (Table PWR-3, steps 5 to 9) -/

/-- What a start settles before its layout and leaves alone from there on. -/
def steadyPart (s : State) : PowerState × Bool × Bool × Option LayOp := (s.pwr.state, s.pwr.refPresent, s.pwr.ampOn, s.lay.run)

/-- Order numbers resumed at or above 2^24 (R46). -/
def Resumed (t : State) : Prop := 2 ^ 24 ≤ t.arb.ordNext ∧ t.arb.ordResume = t.arb.ordNext

/-- From one state to another the start has gone on: no power state, reference or layout operation has changed, and a layout that was
activated has its order numbers resumed. -/
structure Loaded (s t : State) : Prop where
  steady : steadyPart t = steadyPart s
  order : t.lay.active = s.lay.active ∨ Resumed t

theorem steadyPart_of_startPart (h : startPart t = startPart s) : steadyPart t = steadyPart s :=
  congrArg (fun q => (q.1.state, q.1.refPresent, q.1.ampOn, q.2.2.1)) h

theorem active_of_startPart (h : startPart t = startPart s) : t.lay.active = s.lay.active := congrArg (fun q => q.2.1) h

theorem Resumed.of_startPart (h : Resumed s) (k : startPart t = startPart s) : Resumed t := by
  have hnext : t.arb.ordNext = s.arb.ordNext := congrArg (fun q => q.2.2.2.2.1) k
  have hresume : t.arb.ordResume = s.arb.ordResume := congrArg (fun q => q.2.2.2.2.2) k
  rw [Resumed, hnext, hresume]
  exact h

theorem Loaded.of_startPart (h : startPart t = startPart s) : Loaded s t :=
  ⟨steadyPart_of_startPart h, .inl (active_of_startPart h)⟩

theorem Loaded.after (h : Loaded t u) (k : startPart t = startPart s) : Loaded s u :=
  ⟨h.steady.trans (steadyPart_of_startPart k), h.order.imp_left fun ha => ha.trans (active_of_startPart k)⟩

/-- The state in which a start chooses its layout. -/
def checkedStart (s : State) (facts : StartFacts) : State :=
  let s := if s.sec.lowering then finishLowering s else s
  startEntropy (startTamper (lostStructs (noteVerdict (noteVerdict s .a (verifySlot s .a facts.slotA)) .b (verifySlot s .b facts.slotB))
    facts.structsLost)) facts.entropyOk

/-- The image a start chooses, with its slot, its digest and whether it is staged (R130). -/
def chosenImage (s : State) (facts : StartFacts) : Option (Slot × Layout × List Byte × Bool) :=
  let v := if s.sec.lowering then finishLowering s else s
  selectImage (checkedStart s facts) (verifySlot v .a facts.slotA) (verifySlot v .b facts.slotB)

theorem startPart_checkedStart : startPart (checkedStart s facts) = startPart s := by
  simp [checkedStart]

theorem loadAndRun_none {cold : Bool} (h : chosenImage s facts = none) :
    loadAndRun s facts cold = (checkedStart s facts).modLay fun q => { q with result := 0x0E } := by
  unfold chosenImage checkedStart at h
  unfold loadAndRun checkedStart
  dsimp only at h ⊢
  rw [h]

theorem loadAndRun_some {cold : Bool} {x : Slot} {l : Layout} {digest : List Byte} {staged : Bool}
    (h : chosenImage s facts = some (x, l, digest, staged)) : loadAndRun s facts cold =
      startStack (resume (takePosition (discover (applyLayout ((if staged then recordActivation (checkedStart s facts) x l digest
        else checkedStart s facts).modLay fun q => { q with result := 0 }) x l digest) facts.initFailed)) facts cold) := by
  unfold chosenImage checkedStart at h
  unfold loadAndRun checkedStart
  dsimp only at h ⊢
  rw [h]

/-- The layout applied changes the frame of power in force and the active layout, no operation of either. -/
theorem steadyPart_applyLayout (x : Slot) (l : Layout) (digest : List Byte) : steadyPart (applyLayout s x l digest) = steadyPart s := by
  have hframe : ∀ v : State, steadyPart (takePowerFrame v) = steadyPart v := by
    intro v
    unfold takePowerFrame
    split <;> rfl
  have hmount : ∀ (v : State) (c : PlotCfg), startPart (mountPlot v c) = startPart v := by
    intro v c
    simp only [mountPlot, startPart_modPlot]
    split_ifs <;> rfl
  simp only [applyLayout]
  refine (steadyPart_of_startPart (startPart_foldl (fun v c => ?_) _ _)).trans ?_
  · split <;> rfl
  · refine (steadyPart_of_startPart (startPart_foldl (fun _ _ => startPart_modField _ _) _ _)).trans ?_
    exact (steadyPart_of_startPart (startPart_foldl hmount _ _)).trans (hframe _)

/-- Recovery is begun, and order numbers resume above every one that was seen (R46, steps 8 and 9). -/
theorem resume_ends (s : State) (facts : StartFacts) (cold : Bool) : ∃ v h, steadyPart v = steadyPart s ∧
    startPart (resume s facts cold) = startPart (resumeOrder v h) := by
  have hscanned : steadyPart (horizonScan (markFactory s facts.factoryBad)) = steadyPart s :=
    steadyPart_of_startPart (startPart_horizonScan.trans (startPart_markFactory _))
  have hends : ∀ (v : State) (h : Nat) (f : SafState → SafState), startPart (startSweep
      ((if cold then resumeOrder v h else copyPersisted (resumeOrder v h)).modSaf f)) = startPart (resumeOrder v h) := by
    intro v h f
    rw [startPart_startSweep, startPart_modSaf]
    split
    · rfl
    · exact startPart_copyPersisted
  dsimp only [resume]
  refine ⟨_, _, ?_, hends _ _ _⟩
  refine (steadyPart_of_startPart (startPart_foldl (fun _ _ => startPart_beginReplay _) _ _)).trans ?_
  exact hscanned

theorem resumeOrder_resumed (s : State) (h : Nat) : Resumed (resumeOrder s h) := ⟨Nat.le_add_left _ _, rfl⟩

theorem loadAndRun_loaded (cold : Bool) : Loaded s (loadAndRun s facts cold) := by
  cases hchosen : chosenImage s facts with
  | none =>
    rw [loadAndRun_none hchosen]
    exact .of_startPart startPart_checkedStart
  | some image =>
    obtain ⟨x, l, digest, staged⟩ := image
    rw [loadAndRun_some hchosen]
    generalize hnoted : State.modLay _ _ = noted
    have hsame : startPart noted = startPart s := by
      refine Eq.trans ?_ (startPart_checkedStart (facts := facts))
      rw [← hnoted]
      cases staged
      · rfl
      · rw [if_pos rfl, recordActivation_eq]; rfl
    obtain ⟨v, h, hv, hresume⟩ := resume_ends (takePosition (discover (applyLayout noted x l digest) facts.initFailed)) facts cold
    have hend := startPart_startStack.trans hresume
    refine ⟨?_, .inr ((resumeOrder_resumed v h).of_startPart hend)⟩
    calc steadyPart (startStack _) = steadyPart (resumeOrder v h) := steadyPart_of_startPart hend
      _ = steadyPart v := rfl
      _ = _ := hv
      _ = steadyPart (applyLayout noted x l digest) := steadyPart_of_startPart (by simp)
      _ = steadyPart noted := steadyPart_applyLayout _ _ _
      _ = steadyPart s := steadyPart_of_startPart hsame

/-! ### Step 10 (R195) -/

theorem attach_eq (s : State) :
    startPart (attach s) =
        startPart ((s.modPwr fun q => { q with step := 15 }).modLay fun q => { q with starting := false }) ∧
      (attach s).lay = { s.lay with starting := false } := by
  have hoffer : ∀ (v : State) (p : Port), startPart (offerConnect v p) = startPart v ∧ (offerConnect v p).lay = v.lay := by
    intro v p
    simp only [offerConnect]
    split
    · exact ⟨startPart_of_quietPart (quietPart_modPort _ _), State.modPort_lay _ _ _⟩
    · exact ⟨rfl, rfl⟩
  exact ⟨startPart_foldl (fun v p => (hoffer v p).1) _ _, foldl_unchanged State.lay _ (fun v p => (hoffer v p).2) _ _⟩

/-! ### The end of development (R144, R208, R212, Table LAY-4) -/

/-- A cold activation starts the device again from the layout load, in a state that is Lit and runs no layout operation. -/
theorem coldRestart_eq (s : State) (facts : StartFacts) : ∃ v, coldRestart s facts = attach (loadAndRun v facts true) ∧
    v.pwr.state = .lit ∧ v.lay.run = none :=
  ⟨_, rfl, rfl, rfl⟩

theorem coldRestart_parts (s : State) (facts : StartFacts) : (coldRestart s facts).pwr.step = 15 ∧
    (coldRestart s facts).pwr.state = .lit ∧ (coldRestart s facts).lay.run = none ∧ (coldRestart s facts).lay.starting = false := by
  obtain ⟨v, hcold, hlit, hidle⟩ := coldRestart_eq s facts
  obtain ⟨hattach, hlay⟩ := attach_eq (loadAndRun v facts true)
  have hsteady := (loadAndRun_loaded (s := v) (facts := facts) true).steady
  have hpwr : (attach (loadAndRun v facts true)).pwr = { (loadAndRun v facts true).pwr with step := 15 } := congrArg Prod.fst hattach
  simp only [steadyPart, Prod.mk.injEq] at hsteady
  obtain ⟨hstate, -, -, hrun⟩ := hsteady
  rw [hcold, hpwr, hlay]
  exact ⟨rfl, hstate.trans hlit, hrun.trans hidle, rfl⟩

theorem exec_developmentComplete_latent (h : s.allDeveloped = false) : exec (.developmentComplete facts) s = .next s := by
  show execDevelopmentComplete facts s = _
  simp [execDevelopmentComplete, h]

section Developed

variable (h : s.allDeveloped = true)
include h

theorem exec_developmentComplete_idle (hxfer : s.pwr.xfer = none) (hrun : ∀ r, s.lay.run = some r → r.stage ≠ .developing) :
    exec (.developmentComplete facts) s = .next s := by
  show execDevelopmentComplete facts s = _
  cases hr : s.lay.run with
  | none => simp [execDevelopmentComplete, h, hxfer, hr]
  | some r => simp [execDevelopmentComplete, h, hxfer, hr, hrun r hr]

theorem exec_developmentComplete_xfer {x : PowerXfer} (hxfer : s.pwr.xfer = some x) :
    exec (.developmentComplete facts) s = .next (if x.target = .off then enterOff s else enterDark s x) := by
  show execDevelopmentComplete facts s = _
  simp [execDevelopmentComplete, h, hxfer]

theorem exec_developmentComplete_cold {r : LayOp} (hxfer : s.pwr.xfer = none) (hrun : s.lay.run = some r) (hstage : r.stage = .developing) :
    exec (.developmentComplete facts) s = .next (coldRestart s facts) := by
  show execDevelopmentComplete facts s = _
  simp [execDevelopmentComplete, h, hxfer, hrun, hstage]

end Developed

end Start

/-- Settles O48: what waits for development to end is entered once it has ended, and a cold activation starts the device again. -/
theorem developmentEndsATransition : Obligations.DevelopmentEndsATransition := by
  intro s facts
  refine ⟨exec_developmentComplete_latent, fun h => ⟨exec_developmentComplete_idle h, fun x hxfer => ⟨fun htarget => ?_, fun htarget => ?_⟩,
    fun r hxfer hrun hstage => ?_⟩⟩
  · refine ⟨_, (exec_developmentComplete_xfer h hxfer).trans (by rw [if_neg htarget]), ?_⟩
    obtain ⟨hpwr, hchans, hsaf⟩ := enterDark_parts s x
    rw [hpwr, hchans, hsaf, darkened_pwr]
    exact ⟨rfl, rfl, rfl, rfl, stopIslands_stopped, stopIslands_sweepOn⟩
  · refine ⟨_, (exec_developmentComplete_xfer h hxfer).trans (by rw [if_pos htarget]), ?_⟩
    obtain ⟨hoff, hnone, hlog⟩ := enterOff_parts (s := s)
    obtain ⟨hqueue, herase⟩ := enterOff_granary (s := s)
    exact ⟨hoff, hnone, hlog, hqueue, herase, enterOff_stopped, fun n hn hup => enterOff_mode hn hup⟩
  · obtain ⟨hstep, hlit, hidle, hstarted⟩ := coldRestart_parts s facts
    have hkeeps : Keeps s (coldRestart s facts) := keeps_coldRestart (.refl s)
    exact ⟨_, exec_developmentComplete_cold h hxfer hrun hstage, hstep, hidle, hstarted, hlit, hkeeps.pending, hkeeps.member⟩

end Sys2Proof.Machine
end

section
/-! The resets and the start from the reference (R188 to R192, R195, R196, R213, R631, R640, Table PWR-2); O49. -/

namespace Sys2Proof.Machine

section Resets

variable {s t : State} {facts : StartFacts} {id : Identity}

/-! ### Reset (R188, Table PWR-2) -/

/-- A reset has a cause and leaves the device at step 1, without a layout, an operation or a command, with every semaphore free and
the queue kept. -/
def ResetTo (s t : State) (cause : Nat) : Prop :=
  t.pwr.cause = cause ∧ t.pwr.step = 1 ∧ t.lay.active = none ∧ t.lay.run = none ∧
    t.fn.tasks = [] ∧ t.sem.owner = List.replicate 128 idNone ∧ t.member = s.member ∧ t.pending = s.pending

theorem resetChip_resets (s : State) (cause : Nat) (dip : Bool) : ResetTo s (resetChip s cause dip) cause := by
  have hkeeps : Keeps s (resetChip s cause dip) := keeps_resetChip (.refl s)
  exact ⟨rfl, rfl, rfl, rfl, rfl, rfl, hkeeps.member, hkeeps.pending⟩

theorem resetBy_railsUp {cause : Nat} (h : s.pwr.railsUp = true) : resetBy s cause = resetChip s cause false := if_pos h

theorem resetBy_railsDown {cause : Nat} (h : s.pwr.railsUp = false) : resetBy s cause = s := if_neg (by simp [h])

/-! ### The sources -/

theorem exec_powerOn_resets (s : State) : ∃ t, exec .powerOn s = .next t ∧ ResetTo s t 0 ∧ t.sec.tamperSeen = false ∧
    t.pwr.railDip = !s.pwr.railsUp ∧ t.pwr.railsUp = true :=
  ⟨_, rfl, resetChip_resets s 0 (!s.pwr.railsUp), rfl, rfl, rfl⟩

theorem exec_railDip_resets (s : State) (r : Rail) : ∃ t, exec (.railDip r) s = .next t ∧ ResetTo s t 0 ∧ t.pwr.railDip = true ∧
    t.pwr.railsUp = false :=
  ⟨_, rfl, resetChip_resets s 0 true, rfl, rfl⟩

theorem exec_resetN_short {n : Nat} (h : n < 100) : exec (.resetN n) s = .next s := by
  show execResetN n s = _
  rw [execResetN, if_pos h]

theorem exec_resetN_long {n : Nat} (h : 1000 ≤ n) : exec (.resetN n) s = .next (resetBy s 1) := by
  show execResetN n s = _
  rw [execResetN, if_neg (by omega), if_pos h]

/-- Between its two lengths RESET_N acts or does not. -/
theorem exec_resetN_open {n : Nat} (h : 100 ≤ n) (h' : n < 1000) : ∃ t, exec (.resetN n) s = .next t ∧
    (ResetTo s t 1 ∨ { t with free := s.free } = s) := by
  have hexec : exec (.resetN n) s = .next (if s.drawBool.1 then resetBy s.drawBool.2 1 else s.drawBool.2) := by
    show execResetN n s = _
    rw [execResetN, if_neg (by omega), if_neg (by omega)]
  refine ⟨_, hexec, ?_⟩
  split
  · cases hrails : s.pwr.railsUp with
    | true =>
      rw [resetBy_railsUp (s := s.drawBool.2) hrails]
      exact .inl (resetChip_resets s.drawBool.2 1 false)
    | false =>
      rw [resetBy_railsDown (s := s.drawBool.2) hrails]
      exact .inr rfl
  · exact .inr rfl

/-- The cause a register reset records for its identity. -/
theorem exec_pwrReset_eq {key : BitVec 16} (hpass : WritePasses s id csPwrReset false) :
    exec (.pwrReset id key) s = .next (pwrReset (noteAccess s id) id key.toNat) :=
  congrArg Host.Outcome.next (csWrite_passes hpass)

theorem exec_pwrReset_resets {key : BitVec 16} (hpass : WritePasses s id csPwrReset false) (hsem : s.holdsSem id 0 = true)
    (hkey : key = 0x7E5A#16) (hrails : s.pwr.railsUp = true) : ∃ t, exec (.pwrReset id key) s = .next t ∧ ResetTo s t (regCause id) := by
  refine ⟨_, exec_pwrReset_eq hpass, ?_⟩
  rw [pwrReset, if_pos ⟨by rw [hkey]; rfl, by simpa using hsem⟩, resetBy_railsUp (by simpa using hrails)]
  have hkeeps : Keeps s (noteAccess s id) := keeps_noteAccess (.refl s)
  have hreset := resetChip_resets (noteAccess s id) (regCause id) false
  rwa [ResetTo, hkeeps.member, hkeeps.pending] at hreset

theorem exec_pwrReset_ignored {key : BitVec 16} (hpass : WritePasses s id csPwrReset false)
    (h : s.holdsSem id 0 = false ∨ key ≠ 0x7E5A#16 ∨ s.pwr.railsUp = false) :
    exec (.pwrReset id key) s = .next (noteAccess s id) := by
  rw [exec_pwrReset_eq hpass, pwrReset]
  split
  case isFalse => rfl
  case isTrue hgranted =>
    obtain ⟨hkey, hsem⟩ := hgranted
    rw [noteAccess_holdsSem] at hsem
    have hrails : s.pwr.railsUp = false := by
      obtain hnone | hother | hrails := h
      · simp [hsem] at hnone
      · exact absurd (BitVec.eq_of_toNat_eq hkey) hother
      · exact hrails
    rw [resetBy_railsDown (by simpa using hrails)]

/-- A wake input is configured in the active layout. -/
def HasWake (s : State) : Prop := ∃ l, s.layout = some l ∧ ∃ g ∈ l.gpio, g.toNat % 128 = 0x06

theorem exec_offWake_asleep (h : s.pwr.state ≠ .off ∨ ¬ HasWake s) : exec .offWake s = .next s := by
  show execOffWake s = _
  simp only [execOffWake]
  rw [if_neg]
  intro hwake
  simp only [Bool.and_eq_true, decide_eq_true_eq] at hwake
  obtain ⟨hoff, hwake⟩ := hwake
  refine h.elim (absurd hoff) fun hnone => hnone ?_
  cases hlayout : s.layout with
  | none => simp [hlayout] at hwake
  | some l =>
    simp only [hlayout, List.any_eq_true, beq_iff_eq] at hwake
    exact ⟨l, hlayout, hwake⟩

theorem exec_offWake_resets (hoff : s.pwr.state = .off) (hwake : HasWake s) (hrails : s.pwr.railsUp = true) :
    ∃ t, exec .offWake s = .next t ∧ ResetTo s t 6 := by
  obtain ⟨l, hlayout, hinput⟩ := hwake
  refine ⟨_, ?_, resetChip_resets s 6 false⟩
  rw [← resetBy_railsUp hrails]
  show execOffWake s = _
  simpa [execOffWake, hoff, hlayout] using fun hnone => absurd hinput (by simpa using hnone)

/-! ### The start from the reference (R193 to R201, R640) -/

/-- The state in which a start has seen the reference. -/
def referenced (s : State) (facts : StartFacts) : State := s.modPwr fun q => { q with refPresent := true, ampOn := !facts.clock }

/-- A start up to its last step. -/
def started (s : State) (facts : StartFacts) : State :=
  let rows := readRows (referenced s facts) facts
  if rows.2 then startTamper (if rows.1.sec.lowering then finishLowering rows.1 else rows.1) else loadAndRun rows.1 facts false

theorem startUp_eq (s : State) (facts : StartFacts) : startUp s facts =
    { (attach (started s facts)).modPwr fun q => { q with attach := min 0xFFFF (facts.attachUs / 10) } with
      timeUs := (attach (started s facts)).timeUs + facts.attachUs } := by
  unfold startUp started referenced
  rfl

/-- The calibration row's trim is recorded with the reference. -/
def trimmed (s : State) (facts : StartFacts) : State :=
  (referenced s facts).modPwr fun q => { q with calTrim := facts.calRowA || facts.calRowB }

theorem started_loaded : Loaded (trimmed s facts) (started s facts) := by
  have hrows : startPart (readRows (referenced s facts) facts).1 = startPart (trimmed s facts) := startPart_readRows
  unfold started
  generalize readRows (referenced s facts) facts = rows at hrows ⊢
  obtain ⟨v, stop⟩ := rows
  cases stop with
  | true =>
    refine .of_startPart (startPart_startTamper.trans (Eq.trans ?_ hrows))
    split <;> rfl
  | false => exact (loadAndRun_loaded false).after hrows

theorem startUp_parts (s : State) (facts : StartFacts) : (startUp s facts).pwr.step = 15 ∧ (startUp s facts).pwr.refPresent = true ∧
    (startUp s facts).lay.starting = false ∧ (startUp s facts).pwr.ampOn = !facts.clock ∧
    (s.lay.active = none → (startUp s facts).lay.active.isSome = true → Resumed (startUp s facts)) := by
  obtain ⟨hattach, hlay⟩ := attach_eq (started s facts)
  have hpwr : (attach (started s facts)).pwr = { (started s facts).pwr with step := 15 } := congrArg Prod.fst hattach
  have hnext : (attach (started s facts)).arb.ordNext = (started s facts).arb.ordNext := congrArg (fun q => q.2.2.2.2.1) hattach
  have hresume : (attach (started s facts)).arb.ordResume = (started s facts).arb.ordResume := congrArg (fun q => q.2.2.2.2.2) hattach
  obtain ⟨hsteady, horder⟩ := started_loaded (s := s) (facts := facts)
  simp only [steadyPart, Prod.mk.injEq] at hsteady
  obtain ⟨-, hreference, hamp, -⟩ := hsteady
  rw [startUp_eq]
  generalize started s facts = v at *
  generalize attach v = w at *
  refine ⟨congrArg PwrState.step hpwr, (congrArg PwrState.refPresent hpwr).trans hreference, congrArg LayState.starting hlay,
    (congrArg PwrState.ampOn hpwr).trans hamp, fun hnone hsome => ?_⟩
  have hactive : w.lay.active = v.lay.active := by rw [hlay]
  have hresumed : Resumed v := horder.resolve_left fun hsame => by
    have hloaded : w.lay.active ≠ none := Option.isSome_iff_ne_none.mp hsome
    exact hloaded (hactive.trans (hsame.trans hnone))
  show Resumed w
  rw [Resumed, hnext, hresume]
  exact hresumed

/-! ### An erased window (R130, R182) -/

/-- The window is erased throughout, and no lowering of the read-out protection is in progress. -/
structure Erased (s : State) : Prop where
  mem : s.grn.mem = []
  undef : s.grn.undef = []
  lowering : s.sec.lowering = false

/-- No slot of an erased window has MAGIC. -/
theorem verifySlot_erased (h : Erased s) (x : Slot) (read : SlotRead) : (verifySlot s x read).image = none := by
  have hhead : s.slotRun x 32 = List.replicate 32 0xFF := by
    simp [State.slotRun, overlayUndef, h.mem, h.undef, grnRun, cellRun]
  have hmagic : (s.slotRun x 32).take 4 ≠ magic := by
    rw [hhead]
    decide
  unfold verifySlot
  dsimp only
  rw [if_pos hmagic]

theorem chosenImage_erased (h : Erased s) : chosenImage s facts = none := by
  simp [chosenImage, h.lowering, selectImage, pickImage, slotImage, verifySlot_erased h]

theorem useSeed_erased (h : Erased s) (w copy : Nat) : Erased (useSeed s w copy) := by
  unfold useSeed
  split
  · dsimp only
    split <;> exact ⟨h.mem, h.undef, h.lowering⟩
  · exact ⟨h.mem, h.undef, h.lowering⟩

/-- With a calibration copy and every Seed word read by its primary, the rows read leave the window as it is and do not stop the
start. -/
theorem readRows_erased (h : Erased s) (hcal : facts.calRowA = true) (hseed : ∀ x ∈ facts.seed, x = .primary) :
    Erased (readRows s facts).1 ∧ (readRows s facts).2 = false := by
  have hwords : ∀ x ∈ (List.range 32).zip (facts.seed.take 32), x.2 = .primary := fun x hx =>
    hseed _ (List.mem_of_mem_take (List.of_mem_zip hx).2)
  have hread : ∀ v : State, Erased v → Erased (((List.range 32).zip (facts.seed.take 32)).foldl (fun (s : State) x => readSeed s x.1 x.2) v) :=
    fun v hv => List.foldlRecOn _ _ (motive := Erased) hv fun u hu x hx => by
      rw [hwords x hx]
      exact useSeed_erased hu _ _
  refine ⟨?_, ?_⟩
  · have hrows := hread (s.modPwr fun q => { q with calTrim := true }) ⟨h.mem, h.undef, h.lowering⟩
    simp only [readRows, hcal, Bool.true_or, if_true]
    exact ⟨hrows.mem, hrows.undef, hrows.lowering⟩
  · simp only [readRows, hcal, Bool.true_or, Bool.not_true, Bool.false_or, List.any_eq_false]
    intro x hx
    rw [hwords x hx]
    decide

theorem startUp_erased (hactive : s.lay.active = none) (h : Erased s) (hcal : facts.calRowA = true)
    (hseed : ∀ x ∈ facts.seed, x = .primary) : (startUp s facts).lay.active = none ∧ (startUp s facts).lay.result = 0x0E := by
  obtain ⟨hrows, hgoes⟩ := readRows_erased (s := referenced s facts) ⟨h.mem, h.undef, h.lowering⟩ hcal hseed
  have hlast : started s facts = (checkedStart (readRows (referenced s facts) facts).1 facts).modLay fun q => { q with result := 0x0E } := by
    simp only [started, hgoes]
    exact loadAndRun_none (chosenImage_erased hrows)
  have hnone : (checkedStart (readRows (referenced s facts) facts).1 facts).lay.active = s.lay.active :=
    (active_of_startPart startPart_checkedStart).trans
      (active_of_startPart (s := (referenced s facts).modPwr _) startPart_readRows)
  rw [startUp_eq]
  have hlay := (attach_eq (started s facts)).2
  generalize attach (started s facts) = w at hlay ⊢
  simp only [State.modPwr_lay, hlay, hlast, State.modLay_lay]
  exact ⟨hnone.trans hactive, trivial⟩

end Resets

/-- Settles O49: each source resets the device or leaves it alone, and the start ends at its last step. -/
theorem resetsAndTheStart : Obligations.ResetsAndTheStart := by
  intro s
  refine ⟨exec_powerOn_resets s, exec_railDip_resets s, fun n => exec_resetN_short, fun n hn hrails => ?_, fun n hn hrails => ?_,
    fun n => exec_resetN_open, fun id key hpass => ⟨exec_pwrReset_resets hpass, exec_pwrReset_ignored hpass⟩, fun h => ?_,
    fun l hoff hlayout hinput => exec_offWake_resets hoff ⟨l, hlayout, hinput⟩, fun facts h => ?_, fun facts hstep hrails hreference => ?_⟩
  · exact ⟨_, exec_resetN_long hn, resetBy_railsUp hrails ▸ resetChip_resets s 1 false⟩
  · rw [exec_resetN_long hn, resetBy_railsDown hrails]
  · refine exec_offWake_asleep (h.imp_right ?_)
    rintro hnone ⟨l, hlayout, g, hg, hcode⟩
    exact hnone l hlayout g hg hcode
  · show execReferenceDetected facts s = _
    rw [execReferenceDetected, if_neg]
    rintro ⟨hstep, hrails, hreference⟩
    obtain hlate | hdown | hseen := h
    · omega
    · simp [hdown] at hrails
    · simp [hseen] at hreference
  · obtain ⟨hlast, hseen, hstarted, hamp, horder⟩ := startUp_parts s facts
    refine ⟨startUp s facts, ?_, hlast, hseen, hstarted, hamp, horder, fun hactive hmem hundef hcal hseed hlowering =>
      startUp_erased hactive ⟨hmem, hundef, hlowering⟩ hcal hseed⟩
    show execReferenceDetected facts s = _
    rw [execReferenceDetected, if_pos ⟨hstep, hrails, by simp [hreference]⟩]

end Sys2Proof.Machine
end

section
/-! Secret checks that a port's capsules asked for lose their asker when the port is detached, and when the management function's
port is powered off (R230, R259, R267): the Plots are not left as they were. O51 and O52 are refuted. -/

namespace Sys2Proof.Machine

namespace CheckOrphaned

/-- An UNLOCK of Plot 0 that the capsule with tag 1 on port A asked for. -/
def check : SecretCheck := ⟨.port .a 1, .unlock 2, [], false⟩

/-- A Z8 whose port A runs a configured hub at high speed, with `check` waiting and nothing else in progress. -/
def state : State :=
  let r := Reset.state .z8 .b0
  { r with
    portA := { r.portA with dPlus := true, speed := .high, configured := true }
    plots := r.plots.modify 0 fun q => { q with checks := [check] } }

/-- The first thing asked of Plot 0 and not yet answered. -/
def asker (s : State) : Option Asker := ((s.plot 0).checks.head?).map (·.asker)

theorem asker_state : asker state = some (.port .a 1) := by decide +kernel

theorem asker_of_plots {t : State} (h : t.plots = state.plots) : asker t = some (.port .a 1) := by
  rw [← asker_state, asker, asker, State.plot, State.plot, h]

theorem vbusLoss_asker {t : State} (h : exec (.vbusLoss .a) state = .next t) : asker t = some .gone := by
  obtain rfl := Host.Outcome.next.inj h
  decide +kernel

theorem clearPortPower_asker {t : State} (h : exec (.clearPortPower .a 1) state = .next t) : asker t = some .gone := by
  obtain rfl := Host.Outcome.next.inj h
  decide +kernel

theorem hubTakes : HubTakes state .a 1 := by
  unfold HubTakes
  decide +kernel

end CheckOrphaned

open CheckOrphaned

/-- Refutes O51: the clause that the loss of VBUS leaves every Plot as it was. The detach discards the port's capsules, and the
secret check that one of them asked for, which stands with its Plot, answers nobody from then on (R267). -/
theorem not_usbConnectsDetachesAndSuspends : ¬ Obligations.UsbConnectsDetachesAndSuspends := by
  intro h
  obtain ⟨-, -, -, -, hloss, -⟩ := h state .a
  obtain ⟨t, ht, -, -, -, -, -, -, -, hplots⟩ := hloss (by decide +kernel)
  have hgone := vbusLoss_asker ht
  rw [asker_of_plots hplots] at hgone
  cases hgone

/-- Refutes O52: the clause that powering a port off leaves every Plot as it was. On embedded port 1 the management capsule is
discarded, and the secret check it asked for, which stands with its Plot, answers nobody from then on (R267). -/
theorem not_hubRequestsOnEmbeddedPorts : ¬ Obligations.HubRequestsOnEmbeddedPorts := by
  intro h
  obtain ⟨-, -, -, htakes⟩ := h state .a 1
  obtain ⟨⟨t, ht, -, -, -, -, -, -, hplots, -⟩, -⟩ := htakes hubTakes
  have hgone := clearPortPower_asker ht
  rw [asker_of_plots hplots] at hgone
  cases hgone

end Sys2Proof.Machine
end

section
/-! One port's endpoints and its embedded ports (R223, R231 to R234, R247): what a change of one endpoint, an answer, a request on
endpoint 0 and the selection of an interface leave; packets and requests to endpoints. -/

namespace Sys2Proof.Machine

section PortAlone

variable {s t u : State} {p : Port}

/-! ### Changes of one port -/

theorem onlyPort_modPort (f : PortState → PortState) : OnlyPort p s (s.modPort p f) :=
  ⟨by cases p <;> rfl, fun _ hq => State.modPort_port_ne _ _ _ _ hq.symm⟩

theorem OnlyPort.trans (h : OnlyPort p s t) (k : OnlyPort p t u) : OnlyPort p s u := by
  obtain ⟨hs, hport⟩ := h
  obtain ⟨ht, kport⟩ := k
  refine ⟨?_, fun q hq => (kport q hq).trans (hport q hq)⟩
  calc { u with portA := s.portA, portB := s.portB }
      = { ({ u with portA := t.portA, portB := t.portB } : State) with portA := s.portA, portB := s.portB } := rfl
    _ = s := by rw [ht, hs]

theorem onlyPort_answerWire (a : WireAnswer) : OnlyPort p s (answerWire s p a) := onlyPort_modPort _

theorem onlyPort_modEp (k ep : Nat) (f : EpState → EpState) : OnlyPort p s (modEp s p k ep f) := onlyPort_modPort _

theorem onlyPort_modEmb (k : Nat) (f : EmbPort → EmbPort) : OnlyPort p s (modEmb s p k f) := onlyPort_modPort _

theorem onlyPort_selectEps (k alt : Nat) : OnlyPort p s (selectEps s p k alt) := onlyPort_modPort _

theorem onlyPort_answerControl (data : Nat) (a : WireAnswer) : OnlyPort p s (answerControl s p data a) := by
  unfold answerControl
  split
  · exact onlyPort_answerWire a
  · exact (onlyPort_modEp 0 0x00 _).trans (onlyPort_answerWire a)

/-! ### What an answer and a change of one endpoint leave -/

@[simp] theorem answerWire_answer (a : WireAnswer) : ((answerWire s p a).port p).answer = a := by simp [answerWire]

@[simp] theorem answerWire_eps (a : WireAnswer) : ((answerWire s p a).port p).eps = (s.port p).eps := by simp [answerWire]

@[simp] theorem answerWire_emb (a : WireAnswer) : ((answerWire s p a).port p).emb = (s.port p).emb := by simp [answerWire]

@[simp] theorem answerWire_configured (a : WireAnswer) : ((answerWire s p a).port p).configured = (s.port p).configured := by
  simp [answerWire]

@[simp] theorem modEp_emb (k ep : Nat) (f : EpState → EpState) : ((modEp s p k ep f).port p).emb = (s.port p).emb := by simp [modEp]

@[simp] theorem modEp_configured (k ep : Nat) (f : EpState → EpState) :
    ((modEp s p k ep f).port p).configured = (s.port p).configured := by
  simp [modEp]

@[simp] theorem answerControl_answer (data : Nat) (a : WireAnswer) : ((answerControl s p data a).port p).answer = a := by
  simp [answerControl]

@[simp] theorem answerControl_emb (data : Nat) (a : WireAnswer) : ((answerControl s p data a).port p).emb = (s.port p).emb := by
  unfold answerControl
  split <;> simp

@[simp] theorem answerControl_configured (data : Nat) (a : WireAnswer) :
    ((answerControl s p data a).port p).configured = (s.port p).configured := by
  unfold answerControl
  split <;> simp

@[simp] theorem answerControl_pfn (data : Nat) (a : WireAnswer) (q : Port) : (answerControl s p data a).pfn q = s.pfn q := by
  unfold answerControl
  split <;> simp [answerWire, modEp]

/-! ### One endpoint of a port -/

theorem isEp_iff {k ep : Nat} {e : EpState} : isEp k ep e = true ↔ e.k = k ∧ e.ep = ep := by simp [isEp]

/-- An endpoint that is changed keeps its name. -/
def KeepsName (f : EpState → EpState) : Prop := ∀ e, (f e).k = e.k ∧ (f e).ep = e.ep

theorem keepsName_sendPackets (n : Nat) : KeepsName (sendPackets n) := fun _ => ⟨rfl, rfl⟩

theorem keepsName_takeGranule (n : Nat) : KeepsName (takeGranule n) := fun _ => ⟨rfl, rfl⟩

theorem isEp_changed {f : EpState → EpState} (hf : KeepsName f) (c : EpState → Bool) (k ep : Nat) :
    (isEp k ep ∘ fun e => if c e then f e else e) = isEp k ep := by
  funext e
  obtain ⟨hk, hep⟩ := hf e
  by_cases h : c e <;> simp [isEp, h, hk, hep]

theorem modEp_ep? {f : EpState → EpState} (hf : KeepsName f) (k ep : Nat) :
    ((modEp s p k ep f).port p).ep? k ep = ((s.port p).ep? k ep).map f := by
  simp only [modEp, State.modPort_port, PortState.ep?, List.find?_map, isEp_changed hf]
  cases h : (s.port p).eps.find? (isEp k ep) with
  | none => rfl
  | some e => simp [List.find?_some h]

theorem modEp_ep?_ne {f : EpState → EpState} (hf : KeepsName f) {k ep k' ep' : Nat} (h : k ≠ k' ∨ ep ≠ ep') :
    ((modEp s p k' ep' f).port p).ep? k ep = (s.port p).ep? k ep := by
  simp only [modEp, State.modPort_port, PortState.ep?, List.find?_map, isEp_changed hf]
  cases hfind : (s.port p).eps.find? (isEp k ep) with
  | none => rfl
  | some e =>
    obtain ⟨rfl, rfl⟩ := isEp_iff.mp (List.find?_some hfind)
    have hother : isEp k' ep' e = false := by simpa [isEp] using fun hk => h.resolve_left (by simp [hk])
    simp [hother]

@[simp] theorem answerWire_ep? (a : WireAnswer) (k ep : Nat) : ((answerWire s p a).port p).ep? k ep = (s.port p).ep? k ep := by
  simp [PortState.ep?]

/-- A request on endpoint 0 takes granules of that endpoint alone, and of none at SuperSpeed (R231, R234). -/
theorem answerControl_ep? {k ep : Nat} (h : k ≠ 0 ∨ ep ≠ 0 ∨ (s.port p).super = true) (data : Nat) (a : WireAnswer) :
    ((answerControl s p data a).port p).ep? k ep = (s.port p).ep? k ep := by
  unfold answerControl
  split
  case isTrue => simp
  case isFalse hslow =>
    rw [answerWire_ep?, modEp_ep?_ne (keepsName_sendPackets _)]
    exact h.imp_right fun h => h.resolve_right hslow

end PortAlone

end Sys2Proof.Machine
end

section
/-! Packets on a port's bulk endpoints, and a halt set and cleared (R53, R223, R231 to R234). -/

namespace Sys2Proof.Machine

section Packets

variable {s : State} {p : Port} {k ep : Nat} {e : EpState}

/-! ### Endpoints that are not there, and halted ones -/

theorem exec_packet_absent (h : (s.port p).ep? k ep = none ∨ (s.port p).hasEp k ep = false) (i : Bool) :
    exec (.bulkOutPacket p k ep) s = .next s ∧ exec (.ping p k ep) s = .next s ∧ exec (.ssBulkTransaction p k ep i) s = .next s := by
  have hgone : (s.port p).hasEp k ep = false := h.elim (fun h => by simp [PortState.hasEp, h]) id
  simp only [exec, execBulkOutPacket, execPing, execSsBulkTransaction]
  cases (s.port p).ep? k ep with
  | none => exact ⟨rfl, rfl, rfl⟩
  | some e => simp [hgone]

theorem exec_bulkOutPacket_there (he : (s.port p).ep? k ep = some e) (hthere : (s.port p).hasEp k ep = true)
    (hslow : (s.port p).super = false) : exec (.bulkOutPacket p k ep) s = .next (
      if e.halted then answerWire s p .stall
      else if e.total ≤ e.used ∨ s.botHeld p k then answerWire s p .nak
      else answerWire (modEp s p k ep (takeGranule 2)) p (if (s.port p).speed = .high ∧ e.used + 1 = e.total then .nyet else .ack)) := by
  have hspeed : ((modEp s p k ep (takeGranule 2)).port p).speed = (s.port p).speed := by simp [modEp]
  simp only [exec, execBulkOutPacket, he, hthere, hslow, hspeed]
  simp

theorem exec_ping_there (he : (s.port p).ep? k ep = some e) (hthere : (s.port p).hasEp k ep = true)
    (hhigh : (s.port p).speed = .high) : exec (.ping p k ep) s = .next (
      if e.halted then answerWire s p .stall
      else answerWire s p (if e.used < e.total ∧ s.botHeld p k = false then .ack else .nak)) := by
  simp only [exec, execPing, he, hthere, hhigh]
  simp

theorem exec_ssBulkTransaction_there (he : (s.port p).ep? k ep = some e) (hthere : (s.port p).hasEp k ep = true)
    (hsuper : (s.port p).super = true) (i : Bool) : exec (.ssBulkTransaction p k ep i) s = .next (
      if e.halted then answerWire s p .stall
      else if e.total ≤ e.used ∨ s.botHeld p k then answerWire (modEp s p k ep fun e => { e with nrdy := true }) p .nrdy
      else answerWire (modEp s p k ep (takeGranule 32)) p (if i then .data e.seq else .ack)) := by
  simp only [exec, execSsBulkTransaction, he, hthere, hsuper]
  simp

/-- An endpoint changed, and what the wire carries then. -/
theorem answered_endpoint {f : EpState → EpState} (hf : KeepsName f) (he : (s.port p).ep? k ep = some e) (a : WireAnswer) :
    OnlyPort p s (answerWire (modEp s p k ep f) p a) ∧
      ((answerWire (modEp s p k ep f) p a).port p).ep? k ep = some (f e) ∧ ((answerWire (modEp s p k ep f) p a).port p).answer = a :=
  ⟨(onlyPort_modEp k ep f).trans (onlyPort_answerWire a), by rw [answerWire_ep?, modEp_ep? hf, he]; rfl, answerWire_answer a⟩

/-! ### A halt (R233, R234) -/

theorem onEndpoint_there {f : EpState → EpState} (hf : KeepsName f) (he : (s.port p).ep? k ep = some e)
    (hthere : (s.port p).hasEp k ep = true) (hother : k ≠ 0 ∨ ep ≠ 0 ∨ (s.port p).super = true) :
    OnlyPort p s (onEndpoint s p k ep f) ∧ ((onEndpoint s p k ep f).port p).ep? k ep = some (f e) ∧
      ((onEndpoint s p k ep f).port p).answer = .ack := by
  have hsuper : ((modEp s p k ep f).port p).super = (s.port p).super := by simp [modEp, PortState.super]
  rw [onEndpoint, if_pos hthere]
  refine ⟨(onlyPort_modEp k ep f).trans (onlyPort_answerControl 0 .ack), ?_, answerControl_answer 0 .ack⟩
  rw [answerControl_ep? (by rwa [hsuper]), modEp_ep? hf, he]
  rfl

theorem onEndpoint_absent (h : (s.port p).hasEp k ep = false) (f : EpState → EpState) :
    onEndpoint s p k ep f = if (s.port p).live then answerWire s p .stall else s := by
  simp [onEndpoint, h]

theorem not_hasEp_of_not_live (h : (s.port p).live = false) : (s.port p).hasEp k ep = false := by
  simp only [PortState.hasEp, PortState.bulk, PortState.reaches, h]
  split <;> simp

theorem exec_clearEndpointHalt : exec (.clearEndpointHalt p k ep) s = .next (onEndpoint s p k ep EpState.cleared) := rfl

theorem exec_endpointHalt_cleared :
    exec (.setFeatureDevice p (.endpointHalt k ep) false) s = .next (onEndpoint s p k ep EpState.cleared) := rfl

theorem exec_endpointHalt_set : exec (.setFeatureDevice p (.endpointHalt k ep) true) s =
    .next (onEndpoint s p k ep fun e => { e with halted := true }) := rfl

end Packets

end Sys2Proof.Machine
end

section
/-! SOF, link power, device features and requests that are not carried out (R223, R237, R238, R243 to R245, R250). -/

namespace Sys2Proof.Machine

section Requests

variable {s : State} {p : Port}

/-! ### A port that carries no traffic -/

theorem exec_dead (h : (s.port p).live = false) (n : Nat) (u : Bool) (f : DeviceFeature) (on : Bool) (k : Nat) :
    exec (.sofReceived p n) s = .next s ∧ exec (.u1U2Entry p u) s = .next s ∧ exec (.lpmToken p) s = .next s ∧
      exec (.setFeatureDevice p f on) s = .next s ∧ exec (.unsupportedRequest p k) s = .next s := by
  refine ⟨?_, ?_, ?_, ?_, ?_⟩
  · simp [exec, execSofReceived, h]
  · simp [exec, execU1U2Entry, h]
  · simp [exec, execLpmToken, h]
  · cases f <;> simp [exec, execSetFeatureDevice, h, onEndpoint_absent (not_hasEp_of_not_live h)]
  · simp [exec, execUnsupportedRequest, h]

/-! ### SOF (R237, R238) -/

theorem exec_sofReceived_live (h : (s.port p).live = true) (n : Nat) : exec (.sofReceived p n) s =
    .next ((s.modPort p fun q => { q with sof := sofRecord q.speed q.sof n }).modSaf fun q => { q with lastSof := p }) := by
  simp [exec, execSofReceived, h]

/-- A record made at high speed counts the microframes of one frame. -/
theorem sofRecord_high_micro {old : SofRec} {n : Nat} (hvalid : old.valid = true) (hframe : old.frame = n % 2048) :
    (sofRecord .high old n).micro = (old.micro + 1) % 8 := by
  simp [sofRecord, hvalid, hframe]

/-! ### Link power (R243 to R245) -/

theorem linkEntry_accepted (state : Nat) (yes no : WireAnswer) : linkEntry s p true state yes no =
    s.modPort p fun q => { q with link := state, lpmAcc := min 255 (q.lpmAcc + 1), answer := yes } := rfl

theorem linkEntry_rejected (state : Nat) (yes no : WireAnswer) : linkEntry s p false state yes no =
    s.modPort p fun q => { q with lpmRej := min 255 (q.lpmRej + 1), answer := no } := rfl

theorem exec_u1U2Entry_live (hlive : (s.port p).live = true) (hsuper : (s.port p).super = true) (u2 : Bool) :
    exec (.u1U2Entry p u2) s = .next (linkEntry s p ((s.portCfg p).linkPm.testBit (if u2 then 1 else 0)) (if u2 then 2 else 1) .lau .lxu) := by
  simp [exec, execU1U2Entry, hlive, hsuper]

theorem exec_lpmToken_live (hlive : (s.port p).live = true) (hslow : (s.port p).super = false) :
    exec (.lpmToken p) s = .next (linkEntry s p ((s.portCfg p).linkPm.testBit 2) 1 .ack .stall) := by
  simp [exec, execLpmToken, hlive, hslow]

/-! ### Features of the device (R223, R243) -/

/-- What the port records of a device feature. -/
def PortState.withFeature (q : PortState) (f : DeviceFeature) (on : Bool) : PortState :=
  { q with
    wakeEn := if f = .remoteWake then on else q.wakeEn
    u1Enable := if f = .u1Enable then on else q.u1Enable
    u2Enable := if f = .u2Enable then on else q.u2Enable }

section Feature

variable {f : DeviceFeature} (hdevice : ∀ k ep, f ≠ .endpointHalt k ep) (hlive : (s.port p).live = true)

include hdevice hlive

theorem exec_setFeatureDevice_refused (h : (s.port p).configured = false ∨ (f ≠ .remoteWake ∧ (s.port p).super = false)) (on : Bool) :
    exec (.setFeatureDevice p f on) s = .next (answerWire s p .stall) := by
  cases f with
  | endpointHalt k ep => exact absurd rfl (hdevice k ep)
  | remoteWake => simp_all [exec, execSetFeatureDevice]
  | u1Enable => simp_all [exec, execSetFeatureDevice]
  | u2Enable => simp_all [exec, execSetFeatureDevice]

theorem exec_setFeatureDevice_recorded (hconf : (s.port p).configured = true) (h : f = .remoteWake ∨ (s.port p).super = true)
    (on : Bool) : exec (.setFeatureDevice p f on) s = .next (answerControl (s.modPort p fun q => q.withFeature f on) p 0 .ack) := by
  cases f with
  | endpointHalt k ep => exact absurd rfl (hdevice k ep)
  | remoteWake => simp [exec, execSetFeatureDevice, hlive, hconf, PortState.withFeature]
  | u1Enable =>
    obtain hwake | hsuper := h
    · cases hwake
    · simp [exec, execSetFeatureDevice, hlive, hconf, hsuper, PortState.withFeature]
  | u2Enable =>
    obtain hwake | hsuper := h
    · cases hwake
    · simp [exec, execSetFeatureDevice, hlive, hconf, hsuper, PortState.withFeature]

end Feature

/-! ### Requests that have no effect (R223, R250) -/

theorem exec_unsupportedRequest_live (h : (s.port p).live = true) (k : Nat) :
    exec (.unsupportedRequest p k) s = .next (answerWire s p .stall) := by
  simp [exec, execUnsupportedRequest, h]

theorem acceptTt_configured (hlive : (s.port p).live = true) (hconf : (s.port p).configured = true) :
    acceptTt s p = if (s.port p).super then answerWire s p .stall else answerControl s p 0 .ack := by
  simp [acceptTt, hlive, hconf]

end Requests

end Sys2Proof.Machine
end

section
/-! Configurations and interfaces of the hub and of the functions behind it (R229, R233, R234, R247, R252, R281). -/

namespace Sys2Proof.Machine

section Configurations

variable {s : State} {p : Port} {k : Nat}

/-! ### Embedded ports -/

theorem emb_modEmb (h : k < (s.port p).emb.length) (f : EmbPort → EmbPort) : (modEmb s p k f).emb p k = f (s.emb p k) := by
  simp [State.emb, modEmb, List.getD, h]

theorem emb_modEmb_ne {j : Nat} (h : j ≠ k) (f : EmbPort → EmbPort) : (modEmb s p k f).emb p j = s.emb p j := by
  simp [State.emb, modEmb, List.getD, h.symm]

@[simp] theorem modEmb_eps (f : EmbPort → EmbPort) : ((modEmb s p k f).port p).eps = (s.port p).eps := by simp [modEmb]

@[simp] theorem selectEps_emb (alt : Nat) : ((selectEps s p k alt).port p).emb = (s.port p).emb := by simp [selectEps]

theorem selectEps_eps (alt : Nat) : ((selectEps s p k alt).port p).eps =
    (carveEps k alt ((s.portCfg p).carve.getD k 0)).map (advertised (s.port p).super alt) ++ (s.port p).eps.filter (·.k != k) := by
  simp [selectEps]

/-! ### The functions connect when the hub is configured (R252, R281) -/

/-- What a connect of a function leaves of its port: the configuration, the wire and the management function. -/
def hubPart (p : Port) (s : State) : Bool × WireAnswer × PortFn := ((s.port p).configured, (s.port p).answer, s.pfn p)

@[simp] theorem hubPart_modEmb (f : EmbPort → EmbPort) : hubPart p (modEmb s p k f) = hubPart p s := by simp [hubPart, modEmb]

@[simp] theorem hubPart_addAttention (n : Nat) : hubPart p (addAttention s p n) = hubPart p s := by cases p <;> rfl

@[simp] theorem emb_addAttention (n j : Nat) : (addAttention s p n).emb p j = s.emb p j := by cases p <;> rfl

theorem hubPart_connectEmb (n : Nat) : hubPart p (connectEmb s p k n) = hubPart p s := by
  simp only [connectEmb]
  split_ifs <;> simp

theorem emb_connectEmb_ne {j : Nat} (h : j ≠ k) (n : Nat) : (connectEmb s p k n).emb p j = s.emb p j := by
  simp only [connectEmb]
  split_ifs <;> simp [emb_modEmb_ne h]

/-- A connect is that of the management function, or of the Plot that holds the port, or changes nothing. -/
theorem connectFn_cases : connectFn s p k = s ∨ (k = 1 ∧ ∃ f, connectFn s p k = modEmb s p 1 f) ∨
    ∃ n, connectFn s p k = connectEmb s p k n := by
  simp only [connectFn]
  split
  · exact .inl rfl
  · split
    · rename_i hk
      split
      · exact .inr (.inl ⟨hk, _, rfl⟩)
      · exact .inr (.inl ⟨hk, _, rfl⟩)
    · split
      · split
        · exact .inr (.inr ⟨_, rfl⟩)
        · exact .inl rfl
      · exact .inl rfl

theorem hubPart_connectFn : hubPart p (connectFn s p k) = hubPart p s := by
  obtain h | ⟨-, f, h⟩ | ⟨n, h⟩ := connectFn_cases (s := s) (p := p) (k := k) <;> rw [h]
  · exact hubPart_modEmb f
  · exact hubPart_connectEmb n

theorem emb_connectFn_ne {j : Nat} (hj : j ≠ k) : (connectFn s p k).emb p j = s.emb p j := by
  obtain h | ⟨rfl, f, h⟩ | ⟨n, h⟩ := connectFn_cases (s := s) (p := p) (k := k) <;> rw [h]
  · exact emb_modEmb_ne hj f
  · exact emb_connectEmb_ne hj n

/-- The management function connects where no change stands (R252). -/
theorem connectFn_management (hlen : 1 < (s.port p).emb.length) (hpower : (s.emb p 1).powered = true)
    (hconn : (s.emb p 1).conn = false) (hchg : (s.emb p 1).chg = false) : ((connectFn s p 1).emb p 1).conn = true := by
  simp only [State.emb] at hpower hconn hchg
  simp only [connectFn, hpower, hconn, hchg]
  simp [emb_modEmb hlen]

/-- The functions connect one after the other, from embedded port 1 on. -/
def connectAll (s : State) (p : Port) : State := (List.range 15).foldl (fun (s : State) i => connectFn s p (i + 1)) s

theorem hubPart_connectAll : hubPart p (connectAll s p) = hubPart p s :=
  foldl_unchanged (hubPart p) _ (fun _ _ => hubPart_connectFn) _ _

theorem connectAll_management (hlen : 1 < (s.port p).emb.length) (hpower : (s.emb p 1).powered = true)
    (hconn : (s.emb p 1).conn = false) (hchg : (s.emb p 1).chg = false) : ((connectAll s p).emb p 1).conn = true := by
  rw [connectAll, List.range_succ_eq_map, List.foldl_cons, List.foldl_map,
    foldl_unchanged (fun u => u.emb p 1) _ (fun _ i => emb_connectFn_ne (by omega))]
  exact connectFn_management hlen hpower hconn hchg

/-! ### The hub's configuration -/

/-- The hub once its configuration is selected, its event queue empty, before its functions connect. -/
def hubSelected (s : State) (p : Port) : State :=
  (answerControl (selectEps (s.modPort p fun q => { q with configured := true }) p 0 0) p 0 .ack).modPfn p fun q =>
    { q with events := [], evSeq := 1, overflow := 0, gpioAcc := 0 }

theorem configureHub_eq : configureHub s p = connectAll (hubSelected s p) p := rfl

theorem hubSelected_emb : ((hubSelected s p).port p).emb = (s.port p).emb := by simp [hubSelected]

theorem hubPart_hubSelected : hubPart p (hubSelected s p) =
    (true, .ack, { s.pfn p with events := [], evSeq := 1, overflow := 0, gpioAcc := 0 }) := by
  simp [hubPart, hubSelected, selectEps]

theorem configureHub_hubPart : ((configureHub s p).port p).configured = true ∧ ((configureHub s p).port p).answer = .ack ∧
    ((configureHub s p).pfn p).events = [] ∧ ((configureHub s p).pfn p).evSeq = 1 := by
  have hpart : hubPart p (configureHub s p) = _ := hubPart_connectAll.trans hubPart_hubSelected
  simp only [hubPart, Prod.mk.injEq] at hpart
  obtain ⟨hconf, hanswer, hfn⟩ := hpart
  exact ⟨hconf, hanswer, by rw [hfn], by rw [hfn]⟩

theorem configureHub_management (hlen : (s.port p).emb.length = 16) (hpower : (s.emb p 1).powered = true)
    (hconn : (s.emb p 1).conn = false) (hchg : (s.emb p 1).chg = false) : ((configureHub s p).emb p 1).conn = true := by
  have hemb : (hubSelected s p).emb p 1 = s.emb p 1 := by rw [State.emb, hubSelected_emb, State.emb]
  refine connectAll_management (s := hubSelected s p) ?_ ?_ ?_ ?_
  · rw [hubSelected_emb, hlen]; decide
  all_goals rwa [hemb]

theorem exec_setConfiguration_hub (hlive : (s.port p).live = true) {v : Nat} (hv : v ≠ 0) :
    exec (.setConfiguration p 0 v) s = .next (configureHub s p) := by
  simp [exec, execSetConfiguration, hlive, hv]

theorem exec_setConfiguration_none (hlive : (s.port p).live = true) :
    exec (.setConfiguration p 0 0) s = .next (answerWire (serveReads (resetPort s p)) p .ack) := by
  simp [exec, execSetConfiguration, hlive]

theorem exec_setInterface_hub_refused (hlive : (s.port p).live = true) {alt : Nat}
    (h : (s.port p).configured = false ∨ alt ≠ 0) : exec (.setInterface p 0 alt) s = .next (answerWire s p .stall) := by
  simp [exec, execSetInterface, hlive, h]

theorem exec_setInterface_hub (hlive : (s.port p).live = true) (hconf : (s.port p).configured = true) :
    exec (.setInterface p 0 0) s = .next (answerControl (selectEps s p 0 0) p 0 .ack) := by
  simp [exec, execSetInterface, hlive, hconf]

/-! ### Functions behind the hub -/

theorem live_of_reaches (h : (s.port p).reaches k = true) : (s.port p).live = true := by
  simp only [PortState.reaches, Bool.and_eq_true] at h
  tauto

theorem not_reaches_of_not_live (h : (s.port p).live = false) : (s.port p).reaches k = false := by
  simp [PortState.reaches, h]

theorem reaches_of_bulk (h : (s.port p).bulk k = true) : (s.port p).reaches k = true := by
  simp only [PortState.bulk, Bool.and_eq_true] at h
  exact h.1

theorem exec_select_unreached (hk : k ≠ 0) (h : (s.port p).reaches k = false) (v alt : Nat) :
    exec (.setConfiguration p k v) s = .next s ∧ exec (.setInterface p k alt) s = .next s := by
  simp [exec, execSetConfiguration, execSetInterface, hk, h]

theorem exec_select_dead (h : (s.port p).live = false) (v alt : Nat) :
    exec (.setConfiguration p k v) s = .next s ∧ exec (.setInterface p k alt) s = .next s := by
  by_cases hk : k = 0
  · simp [exec, execSetConfiguration, execSetInterface, hk, h]
  · exact exec_select_unreached hk (not_reaches_of_not_live h) v alt

section Reached

variable (hk : k ≠ 0) (hreach : (s.port p).reaches k = true)

include hk hreach

theorem exec_setConfiguration_fn {v : Nat} (hv : v ≠ 0) : exec (.setConfiguration p k v) s =
    .next (answerControl (modEmb (selectEps s p k 0) p k fun e => { e with selected := true, alt := 0 }) p 0 .ack) := by
  simp [exec, execSetConfiguration, live_of_reaches hreach, hk, hreach, hv]

theorem exec_setConfiguration_fn_none : exec (.setConfiguration p k 0) s =
    .next (answerControl (modEmb (dropEps s p k) p k fun e => { e with selected := false }) p 0 .ack) := by
  simp [exec, execSetConfiguration, live_of_reaches hreach, hk, hreach, dropEps]

theorem exec_setInterface_fn_refused {alt : Nat} (h : (s.port p).bulk k = false ∨ s.lastAlt p k < alt) :
    exec (.setInterface p k alt) s = .next (answerWire s p .stall) := by
  simp [exec, execSetInterface, hk, hreach, h]

theorem exec_setInterface_fn {alt : Nat} (hbulk : (s.port p).bulk k = true) (halt : alt ≤ s.lastAlt p k) :
    exec (.setInterface p k alt) s =
      .next (answerControl (modEmb (selectEps s p k alt) p k fun e => { e with alt := alt }) p 0 .ack) := by
  simp [exec, execSetInterface, hk, hreach, hbulk, Nat.not_lt.mpr halt]

end Reached

/-- The buffers of a function are replaced and its embedded port is changed. -/
theorem selected_fn (alt : Nat) (f : EmbPort → EmbPort) :
    OnlyPort p s (modEmb (selectEps s p k alt) p k f) ∧
      (k < (s.port p).emb.length → (modEmb (selectEps s p k alt) p k f).emb p k = f (s.emb p k)) ∧
      ((modEmb (selectEps s p k alt) p k f).port p).eps =
        (carveEps k alt ((s.portCfg p).carve.getD k 0)).map (advertised (s.port p).super alt) ++ (s.port p).eps.filter (·.k != k) := by
  refine ⟨(onlyPort_selectEps k alt).trans (onlyPort_modEmb k f), fun hlen => ?_, by rw [modEmb_eps, selectEps_eps]⟩
  rw [emb_modEmb (by rwa [selectEps_emb]), State.emb, selectEps_emb, State.emb]

/-- The buffers of a function are dropped and its embedded port is changed. -/
theorem dropped_fn (f : EmbPort → EmbPort) :
    OnlyPort p s (modEmb (dropEps s p k) p k f) ∧
      (k < (s.port p).emb.length → (modEmb (dropEps s p k) p k f).emb p k = f (s.emb p k)) ∧
      ((modEmb (dropEps s p k) p k f).port p).eps = (s.port p).eps.filter (·.k != k) := by
  have hemb : ((dropEps s p k).port p).emb = (s.port p).emb := by simp [dropEps]
  refine ⟨(onlyPort_modPort _).trans (onlyPort_modEmb k f), fun hlen => ?_, by simp [dropEps]⟩
  rw [emb_modEmb (by rwa [hemb]), State.emb, hemb, State.emb]

end Configurations

end Sys2Proof.Machine
end

section
/-! What Field work and the ends of commands leave (R22 to R25, R42, R61 to R64, R231): the reference counter, power,
security, and of each port whether its hub is configured and which endpoints it has. -/

namespace Sys2Proof.Machine

section IdlePart

variable {s : State}

/-- Whether a port's hub is configured, and the names of its endpoints. -/
def PortState.shape (q : PortState) : Bool × List (Nat × Nat) := (q.configured, q.eps.map fun e => (e.k, e.ep))

/-- The parts of the state that no work behind a port changes, and the shape of both ports. -/
def idlePart (s : State) : (Nat × PwrState × SecState) × (Port → Bool × List (Nat × Nat)) :=
  ((s.timeUs, s.pwr, s.sec), fun p => (s.port p).shape)

/-! ### Updates of other parts -/

@[simp] theorem idlePart_modPlot (n : Nat) (f : PlotState → PlotState) : idlePart (s.modPlot n f) = idlePart s := rfl
@[simp] theorem idlePart_modField (n : Nat) (f : FieldState → FieldState) : idlePart (s.modField n f) = idlePart s := rfl
@[simp] theorem idlePart_modEngine (n : Nat) (f : CipherState → CipherState) : idlePart (s.modEngine n f) = idlePart s := rfl
@[simp] theorem idlePart_modBank (n : Nat) (f : BankState → BankState) : idlePart (s.modBank n f) = idlePart s := rfl
@[simp] theorem idlePart_modTasks (f : List Task → List Task) : idlePart (s.modTasks f) = idlePart s := rfl
@[simp] theorem idlePart_modFn (f : FnState → FnState) : idlePart (s.modFn f) = idlePart s := rfl
@[simp] theorem idlePart_modGrn (f : GrnState → GrnState) : idlePart (s.modGrn f) = idlePart s := rfl
@[simp] theorem idlePart_modLay (f : LayState → LayState) : idlePart (s.modLay f) = idlePart s := rfl
@[simp] theorem idlePart_modStk (f : StkState → StkState) : idlePart (s.modStk f) = idlePart s := rfl
@[simp] theorem idlePart_modMpu (f : MpuState → MpuState) : idlePart (s.modMpu f) = idlePart s := rfl
@[simp] theorem idlePart_modHold (f : HoldState → HoldState) : idlePart (s.modHold f) = idlePart s := rfl
@[simp] theorem idlePart_onField (n : Nat) (f : FieldState → FEnv → FieldState) : idlePart (onField s n f) = idlePart s := rfl
@[simp] theorem idlePart_setTask (key : TaskKey) (f : Task → Task) : idlePart (setTask s key f) = idlePart s := rfl
@[simp] theorem idlePart_markReady (addr n field : Nat) : idlePart (markReady s addr n field) = idlePart s := rfl
@[simp] theorem idlePart_drawNat : idlePart s.drawNat.2 = idlePart s := rfl
@[simp] theorem idlePart_noteGrant (g : Grant) : idlePart (noteGrant s g) = idlePart s := rfl
@[simp] theorem idlePart_releaseTicket (id : Nat) : idlePart (releaseTicket s id) = idlePart s := rfl
@[simp] theorem idlePart_abortTasks (sel : Task → Bool) : idlePart (abortTasks s sel) = idlePart s := rfl
@[simp] theorem idlePart_dropRekey (n : Nat) : idlePart (dropRekey s n) = idlePart s := rfl
@[simp] theorem idlePart_orphanChecks (p : Port) : idlePart (orphanChecks s p) = idlePart s := rfl
@[simp] theorem idlePart_modPfn (p : Port) (f : PortFn → PortFn) : idlePart (s.modPfn p f) = idlePart s := by
  cases p <;> rfl

/-- A port changed in anything but its shape. -/
theorem idlePart_modPort (p : Port) {f : PortState → PortState} (h : ∀ q, (f q).shape = q.shape) :
    idlePart (s.modPort p f) = idlePart s := by
  refine Prod.ext (by cases p <;> rfl) (funext fun q => ?_)
  by_cases hq : p = q
  · subst hq
    exact (congrArg PortState.shape (State.modPort_port _ _ _)).trans (h _)
  · exact congrArg PortState.shape (State.modPort_port_ne _ _ _ _ hq)

theorem idlePart_modEp (p : Port) (k ep : Nat) {f : EpState → EpState} (h : KeepsName f) : idlePart (modEp s p k ep f) = idlePart s := by
  refine idlePart_modPort p fun q => Prod.ext rfl ?_
  simp only [PortState.shape, List.map_map]
  refine List.map_congr_left fun e _ => ?_
  simp only [Function.comp_apply]
  split
  · exact Prod.ext (h e).1 (h e).2
  · rfl

theorem idlePart_drawTicket {k id : Nat} {t : State} (h : drawTicket s k = some (id, t)) : idlePart t = idlePart s := by
  obtain ⟨a, rfl, -, -⟩ := drawTicket_eq h
  rfl

@[simp] theorem idlePart_foldl {α : Type} {step : State → α → State} (h : ∀ s x, idlePart (step s x) = idlePart s) (l : List α)
    (s : State) : idlePart (l.foldl step s) = idlePart s :=
  foldl_unchanged idlePart step h l s

@[simp] theorem idlePart_ite {c : Prop} [Decidable c] {t u : State} :
    idlePart (if c then t else u) = if c then idlePart t else idlePart u := apply_ite idlePart c t u

/-! ### Events, frames and answers -/

@[simp] theorem idlePart_queueEvents (kind inst d0 d1 : Nat) : idlePart (queueEvents s kind inst d0 d1) = idlePart s := by
  refine idlePart_foldl (fun u p => ?_) _ _
  unfold queueEvent
  split <;> simp

@[simp] theorem idlePart_wakeTriggers (bit : Nat) : idlePart (wakeTriggers s bit) = idlePart s := by
  refine idlePart_foldl (fun u p => ?_) _ _
  simp only [wakeTrigger]
  split
  · exact idlePart_modPort p fun _ => rfl
  · rfl

@[simp] theorem idlePart_structWrite (n : Nat) : idlePart (structWrite s n) = idlePart s := idlePart_modGrn _

@[simp] theorem idlePart_setPlotMode (n : Nat) (m : PlotMode) (reason : Nat) :
    idlePart (setPlotMode s n m reason) = idlePart s := by
  simp only [setPlotMode]
  split <;> simp

@[simp] theorem idlePart_demotePlots (plots : List Nat) (cause : Nat) : idlePart (demotePlots s plots cause) = idlePart s := by
  refine idlePart_foldl (fun u n => ?_) _ _
  split <;> simp

@[simp] theorem idlePart_ringSend (ty dest tag : Nat) (resp : Bool) (payload : List Byte) :
    idlePart (ringSend s ty dest tag resp payload) = idlePart s := by
  rw [ringSend_eq]; rfl

@[simp] theorem idlePart_ringRequest (ty dest : Nat) (payload : List Byte) (second : Option (Nat × List Byte)) (why : ReqWhy) :
    idlePart (ringRequest s ty dest payload second why).1 = idlePart s := by
  rw [ringRequest_eq]; rfl

@[simp] theorem idlePart_ringBroadcast (ty tag : Nat) (payload : List Byte) :
    idlePart (ringBroadcast s ty tag payload) = idlePart s := by
  simp only [ringBroadcast]
  split_ifs <;> rfl

@[simp] theorem idlePart_sendPair (dest tag order lba flags plot bank : Nat) (env : Envelope) (data : List Byte) :
    idlePart (sendPair s dest tag order lba flags plot bank env data) = idlePart s := by
  simp [sendPair]

@[simp] theorem idlePart_clearMembers (n : Nat) : idlePart (clearMembers s n) = idlePart s := by
  unfold clearMembers
  split
  · exact idlePart_foldl (fun _ _ => idlePart_ringRequest _ _ _ _ _) _ _
  · rfl

@[simp] theorem idlePart_settleTasks : idlePart (settleTasks s) = idlePart s := by
  refine (idlePart_foldl (fun u t => ?_) _ _).trans rfl
  split <;> simp

@[simp] theorem idlePart_clearKeys (plots : List Nat) : idlePart (clearKeys s plots) = idlePart s :=
  (idlePart_foldl (fun _ n => idlePart_modPlot n _) plots _).trans rfl

@[simp] theorem idlePart_sendIn (key : TaskKey) (bytes : Nat) : idlePart (sendIn s key bytes) = idlePart s := by
  have hsent : ∀ (u : State) (p : Port) (k ep n : Nat), idlePart (modEp u p k ep (sendPackets n)) = idlePart u :=
    fun _ p k ep n => idlePart_modEp p k ep (keepsName_sendPackets n)
  unfold sendIn
  split
  · rfl
  · split
    · rfl
    · dsimp only
      split_ifs <;> simp [hsent]

@[simp] theorem idlePart_sendScsi (key : TaskKey) (st : ScsiStatus) (data : List Byte) :
    idlePart (sendScsi s key st data) = idlePart s := by
  simp [sendScsi]

@[simp] theorem idlePart_respond (p : Port) (fn : CapsuleFn) (r : Response) : idlePart (respond s p fn r) = idlePart s :=
  idlePart_modPfn _ _

@[simp] theorem idlePart_answerVault (a : Asker) (opcode status detail : Nat) (payload : List Byte) :
    idlePart (answerVault s a opcode status detail payload) = idlePart s := by
  cases a <;> simp [answerVault]

@[simp] theorem idlePart_answerCapsule (t : Task) (status detail : Nat) (payload : List Byte) :
    idlePart (answerCapsule s t status detail payload) = idlePart s := by
  simp only [answerCapsule]
  split
  · rfl
  · split <;> simp

@[simp] theorem idlePart_failPair (pos : Nat) (t : Task) (st : ScsiStatus) : idlePart (failPair s pos t st) = idlePart s :=
  idlePart_sendPair _ _ _ _ _ _ _ _ _

@[simp] theorem idlePart_answerTask (t : Task) (st : ScsiStatus) (data : List Byte) :
    idlePart (answerTask s t st data) = idlePart s := by
  simp only [answerTask]
  split
  · rfl
  · split <;> simp

/-! ### Reads and aborts -/

@[simp] theorem idlePart_concludeRead (t : Task) : idlePart (concludeRead s t) = idlePart s := by
  unfold concludeRead
  split
  · simp
  · split
    · split
      · split <;> simp
      · simp
    · simp

@[simp] theorem idlePart_forwardBlock (t : Task) (j : BlockJob) : idlePart (forwardBlock s t j) = idlePart s := by
  unfold forwardBlock
  split
  · rfl
  · dsimp only
    split <;> simp

@[simp] theorem idlePart_forwardZero (t : Task) (i : Nat) : idlePart (forwardZero s t i) = idlePart s := by
  simp only [forwardZero]
  split <;> simp

@[simp] theorem idlePart_closeRead (t : Task) : idlePart (closeRead s t) = idlePart s := by
  unfold closeRead
  split
  · simp
  · split <;> simp

@[simp] theorem idlePart_advanceRead (t : Task) : idlePart (advanceRead s t) = idlePart s := by
  simp only [advanceRead]
  split
  · rfl
  · split <;> split_ifs <;> simp

@[simp] theorem idlePart_advanceReads : idlePart (advanceReads s) = idlePart s := by
  refine idlePart_foldl (fun u t => ?_) _ _
  split <;> simp

@[simp] theorem idlePart_failReads (addr n field : Nat) : idlePart (failReads s addr n field) = idlePart s := by
  refine idlePart_foldl (fun u t => idlePart_foldl (fun v x => ?_) _ _) _ _
  simp only [failBlock]
  split <;> simp

/-! ### Die queues and pages -/

@[simp] theorem idlePart_modChan (n : Nat) (f : ChanState → ChanState) : idlePart (s.modChan n f) = idlePart s := rfl

@[simp] theorem idlePart_queueOnce (wide : Bool) (op : DieOp) : idlePart (queueOnce s wide op) = idlePart s := by
  unfold queueOnce
  split
  · rfl
  · split
    · rfl
    · rfl

@[simp] theorem idlePart_queuePage (f : Nat) (b : BlkId) (page : Nat) (rekey : Option Nat) :
    idlePart (queuePage s f b page rekey) = idlePart s := idlePart_queueOnce _ _

@[simp] theorem idlePart_sendShadow (f pos page plot lba order : Nat) :
    idlePart (sendShadow s f pos page plot lba order) = idlePart s := by
  unfold sendShadow
  split
  · rfl
  · split
    · rfl
    · dsimp only
      split <;> simp [freeStage]

@[simp] theorem idlePart_releaseRemote (f pos page : Nat) (r : PageRec) :
    idlePart (releaseRemote s f pos page r) = idlePart s := by
  simp only [releaseRemote]
  split <;> simp

@[simp] theorem idlePart_syncRemote (f : Nat) : idlePart (syncRemote s f) = idlePart s := by
  refine idlePart_foldl (fun u r => (idlePart_releaseRemote _ _ _ _).trans (idlePart_foldl (fun v x => ?_) _ _)) _ _
  split <;> simp

@[simp] theorem idlePart_dropDead (f : Nat) : idlePart (dropDead s f) = idlePart s := by
  simp only [dropDead]
  split
  · rfl
  · exact idlePart_foldl (fun _ _ => idlePart_modChan _ _) _ _

@[simp] theorem idlePart_syncQueues (f : Nat) : idlePart (syncQueues s f) = idlePart s := by
  simp only [syncQueues]
  split_ifs <;> simp

@[simp] theorem idlePart_pageArrived (f : Nat) (b : BlkId) (page slot n : Nat) (ok : Bool) :
    idlePart (pageArrived s f b page slot n ok) = idlePart s := by
  simp only [pageArrived]
  split_ifs <;> simp

@[simp] theorem idlePart_settleRebuilds (f : Nat) : idlePart (settleRebuilds s f) = idlePart s :=
  idlePart_foldl (fun _ _ => by simp) _ _

@[simp] theorem idlePart_askMember (f : Nat) (b : BlkId) (page : Nat) : idlePart (askMember s f b page).1 = idlePart s := by
  unfold askMember
  split <;> simp

@[simp] theorem idlePart_askRebuild (f : Nat) (x : Rebuild) : idlePart (askRebuild s f x) = idlePart s := by
  refine idlePart_foldl (fun u y => ?_) _ _
  split
  · simp
  · split
    · split <;> simp
    · dsimp only
      split <;> simp

@[simp] theorem idlePart_askRebuilds (f : Nat) : idlePart (askRebuilds s f) = idlePart s :=
  (idlePart_settleRebuilds f).trans (idlePart_foldl (fun _ _ => idlePart_askRebuild _ _) _ _)

@[simp] theorem idlePart_wantPage (f : Nat) (b : BlkId) (page : Nat) (rekey : Option Nat) :
    idlePart (wantPage s f b page rekey) = idlePart s := by
  simp only [wantPage]
  split_ifs <;> simp

@[simp] theorem idlePart_askMerges (f : Nat) : idlePart (askMerges s f) = idlePart s :=
  idlePart_foldl (fun _ _ => idlePart_wantPage _ _ _ _) _ _

@[simp] theorem idlePart_askSegments (f : Nat) : idlePart (askSegments s f) = idlePart s := by
  refine (idlePart_foldl (fun u x => ?_) _ _).trans (idlePart_modField _ _)
  split
  · dsimp only
    split <;> simp
  · rfl

/-! ### Internal work -/

@[simp] theorem idlePart_grantRequest (f : Nat) (r : FieldReq) : idlePart (grantRequest s f r) = idlePart s := by
  unfold grantRequest
  split
  · rfl
  case h_2 id u hdraw =>
    refine Eq.trans ?_ (idlePart_drawTicket hdraw)
    cases r <;> simp [beginRequest]

@[simp] theorem idlePart_grantRequests (f fuel : Nat) : idlePart (grantRequests f fuel s) = idlePart s := by
  induction fuel generalizing s with
  | zero => rfl
  | succ fuel ih =>
    unfold grantRequests
    split
    · rfl
    · rw [ih, idlePart_grantRequest]

@[simp] theorem idlePart_feedMove (f : Nat) (m : MoveRun) : idlePart (feedMove s f m) = idlePart s := by
  simp only [feedMove]
  split
  · simp
  · split <;> simp

@[simp] theorem idlePart_endMoves (f : Nat) : idlePart (endMoves s f) = idlePart s := by
  refine idlePart_foldl (fun u m => ?_) _ _
  dsimp only
  split_ifs
  · rfl
  all_goals split <;> simp

@[simp] theorem idlePart_stepFix (f : Nat) : idlePart (stepFix s f) = idlePart s := by
  unfold stepFix
  split
  · split_ifs <;> simp
  · rfl

@[simp] theorem idlePart_beginRekey (f n : Nat) : idlePart (beginRekey s f n) = idlePart s := by
  simp only [beginRekey]
  split
  · rfl
  · split
    · rfl
    · split_ifs <;> simp

@[simp] theorem idlePart_rekeyWork (f : Nat) : idlePart (rekeyWork s f) = idlePart s := by
  have hpause : idlePart (pauseRekeys s f) = idlePart s := by
    refine (idlePart_foldl (fun u m => ?_) _ _).trans (idlePart_modField _ _)
    split <;> simp
  refine (idlePart_foldl (fun _ _ => idlePart_foldl (fun _ _ => idlePart_wantPage _ _ _ _) _ _) _ _).trans ?_
  exact (idlePart_foldl (fun _ _ => idlePart_beginRekey _ _) _ _).trans (by simp [hpause])

@[simp] theorem idlePart_writeRecord (n : Nat) (f : KeyRecord → KeyRecord) : idlePart (writeRecord s n f) = idlePart s := by
  simp [writeRecord]

@[simp] theorem idlePart_endRekeys (f : Nat) : idlePart (endRekeys s f) = idlePart s := by
  refine idlePart_foldl (fun u n => ?_) _ _
  dsimp only
  split <;> simp

@[simp] theorem idlePart_internalWork (f : Nat) : idlePart (internalWork s f) = idlePart s := by
  have hfeed : ∀ (l : List MoveRun) (u : State), idlePart (l.foldl (fun s m => feedMove s f m) u) = idlePart u :=
    fun l u => idlePart_foldl (fun _ _ => idlePart_feedMove _ _) l u
  simp only [internalWork]
  split
  · rfl
  · simp [hfeed, sweepEmpty]

/-! ### A Field's Read-only state, its health and its commands -/

@[simp] theorem idlePart_updateHeadland (f : Nat) : idlePart (updateHeadland s f) = idlePart s := by
  unfold updateHeadland
  split
  · rfl
  · simp

@[simp] theorem idlePart_updateHealth (f : Nat) : idlePart (updateHealth s f) = idlePart s := by
  unfold updateHealth
  split
  · rfl
  · refine (idlePart_foldl (fun u n => ?_) _ _).trans (idlePart_modField _ _)
    dsimp only
    split <;> simp

@[simp] theorem idlePart_runWaiters (f : Nat) : idlePart (runWaiters s f) = idlePart s := by
  refine idlePart_foldl (fun u w => ?_) _ _
  dsimp only
  split_ifs
  · split <;> simp
  · rfl

@[simp] theorem idlePart_runSecure (f : Nat) : idlePart (runSecure s f) = idlePart s := by
  refine idlePart_foldl (fun u r => ?_) _ _
  dsimp only
  split
  · split <;> simp
  · simp

@[simp] theorem idlePart_sealFields : idlePart (sealFields s) = idlePart s := by
  simp only [sealFields]
  split
  · rw [idlePart_modHold]
    refine idlePart_foldl (fun u f => ?_) _ _
    split <;> simp
  · rfl

/-- Everything a Field manager does at one moment. -/
@[simp] theorem idlePart_runField (f : Nat) : idlePart (runField s f) = idlePart s := by
  unfold runField
  split
  · rfl
  · split
    · rfl
    · dsimp only
      split <;> simp [forceDue]

@[simp] theorem idlePart_runFields : idlePart (runFields s) = idlePart s :=
  idlePart_foldl (fun _ _ => idlePart_runField _) _ _

@[simp] theorem idlePart_develop (f : Nat) (cover : SlotUse → Bool) : idlePart (develop s f cover) = idlePart s := by
  simp [develop]

/-! ### Channels stopped, lost and returned -/

@[simp] theorem idlePart_settleRecipe (c : Nat) : idlePart (settleRecipe s c) = idlePart s := by
  unfold settleRecipe
  split <;> rfl

@[simp] theorem idlePart_stopChannel (c : Nat) : idlePart (stopChannel s c) = idlePart s := by
  simp only [stopChannel, idlePart_settleRecipe, idlePart_modChan]
  split <;> simp

@[simp] theorem idlePart_stopField (f : Nat) : idlePart (stopField s f) = idlePart s := by
  unfold stopField
  split
  · rfl
  · exact idlePart_foldl (fun _ _ => idlePart_stopChannel _) _ _

@[simp] theorem idlePart_loseChannel (f chan : Nat) : idlePart (loseChannel s f chan) = idlePart s := by
  simp only [loseChannel]
  split <;> simp [rebuildAsked]

@[simp] theorem idlePart_redispatch (j : BlockJob) : idlePart (redispatch s j) = idlePart s := by
  have hdispatch : idlePart (dispatchJob s j).1 = idlePart s := by
    unfold dispatchJob
    split <;> rfl
  simp only [redispatch]
  split <;> simp [hdispatch]

end IdlePart


end Sys2Proof.Machine
end

section
/-! What scopes, faults and reads leave (R42, R64, R97 to R100, R230, R256, R377, R547, R558): the reference counter, power, security, and
a port with no hub configured and no endpoint stays such a port. -/

namespace Sys2Proof.Machine

section Idles

variable {s t u : State}

/-- The hub is not configured and the port has no endpoint. -/
def PortState.bare (q : PortState) : Prop := q.shape = (false, [])

theorem PortState.bare_iff {q : PortState} : q.bare ↔ q.configured = false ∧ q.eps = [] := by
  simp [PortState.bare, PortState.shape]

/-- From one state to another the reference counter, power and security stay, and so do the ports with nothing configured. -/
structure Idles (s t : State) : Prop where
  rest : (idlePart t).1 = (idlePart s).1
  bare : ∀ p, (s.port p).bare → (t.port p).bare

theorem Idles.refl (s : State) : Idles s s := ⟨rfl, fun _ => id⟩

theorem Idles.trans (h : Idles s t) (k : Idles t u) : Idles s u := ⟨k.rest.trans h.rest, fun p hp => k.bare p (h.bare p hp)⟩

theorem Idles.of_part (h : idlePart t = idlePart s) : Idles s t :=
  ⟨congrArg Prod.fst h, fun p hp => (congrFun (congrArg Prod.snd h) p).trans hp⟩

theorem Idles.part (h : Idles s t) (k : idlePart u = idlePart t) : Idles s u := h.trans (.of_part k)

theorem Idles.foldl {α : Type} {step : State → α → State} (h : ∀ s x, Idles s (step s x)) (l : List α) (s : State) :
    Idles s (l.foldl step s) :=
  List.foldlRecOn l step (motive := fun t => Idles s t) (.refl s) fun _ ht x _ => ht.trans (h _ x)

theorem Idles.modPort (p : Port) {f : PortState → PortState} (h : ∀ q : PortState, q.bare → (f q).bare) : Idles s (s.modPort p f) := by
  refine ⟨by cases p <;> rfl, fun q hq => ?_⟩
  by_cases hp : p = q
  · subst hp
    rw [State.modPort_port]
    exact h _ hq
  · rwa [State.modPort_port_ne _ _ _ _ hp]

theorem Idles.timeUs (h : Idles s t) : t.timeUs = s.timeUs := congrArg (fun q => q.1) h.rest
theorem Idles.pwr (h : Idles s t) : t.pwr = s.pwr := congrArg (fun q => q.2.1) h.rest
theorem Idles.sec (h : Idles s t) : t.sec = s.sec := congrArg (fun q => q.2.2) h.rest

/-! ### Plots and ports that leave (R230, R256, R614) -/

theorem idlePart_dropCapsule (p : Port) (fn : CapsuleFn) : idlePart (dropCapsule s p fn) = idlePart s := by
  simp only [dropCapsule]
  split <;> simp

theorem detachPlot_idles (n : Nat) : Idles s (detachPlot s n) := by
  refine .foldl (fun u p => ?_) _ _
  split
  · exact .refl u
  · refine .trans (.of_part (idlePart_dropCapsule _ _)) (.modPort p fun q hq => ?_)
    obtain ⟨hconf, heps⟩ := PortState.bare_iff.mp hq
    exact PortState.bare_iff.mpr ⟨hconf, by simp [heps]⟩

theorem closePlot_idles (n : Nat) (m : PlotMode) (reason : Nat) : Idles s (closePlot s n m reason) := by
  have hcleared : idlePart (clearMembers (clearKeys (dropRekey (abortTasks s (taskOfPlot n)) n) [n]) n) = idlePart s := by simp
  exact ((Idles.of_part ((idlePart_modPlot n _).trans hcleared)).trans (detachPlot_idles n)).part
    (idlePart_settleTasks.trans (idlePart_setPlotMode n m reason))

theorem dropRemote_idles : Idles s (dropRemote s) := by
  simp only [dropRemote]
  generalize List.range 64 = plots
  have haborted : Idles s (abortTasks (s.modStk fun k => { k with keyStore := [] }) fun t => decide (64 ≤ t.key.plot)) := .of_part rfl
  exact (haborted.trans (.foldl (fun _ n => detachPlot_idles (64 + n)) plots _)).part idlePart_settleTasks

/-- An upstream reset leaves its port with nothing configured (R229). -/
theorem resetPort_bare (p : Port) : ((resetPort s p).port p).bare := by
  simp [resetPort, defaultHub, PortState.bare, PortState.shape]

theorem resetPort_idles (p : Port) : Idles s (resetPort s p) := by
  have habort : idlePart (abortPort s p fun _ => true) = idlePart s := by
    simp only [abortPort, abortAnd, idlePart_advanceReads, idlePart_settleTasks, idlePart_abortTasks]
    exact idlePart_modPort p fun _ => rfl
  have hdropped : idlePart (dropCapsules (abortPort s p fun _ => true) p) = idlePart s :=
    (idlePart_modPfn p _).trans ((idlePart_orphanChecks p).trans habort)
  refine (Idles.of_part hdropped).trans ?_
  exact .modPort (f := fun q => { defaultHub q with link := 0 }) p fun q _ => by simp [defaultHub, PortState.bare, PortState.shape]

theorem detachPort_idles (p : Port) (cause : Nat) : Idles s (detachPort s p cause) := by
  have hrelease : idlePart (releaseSems (resetPort s p) p.identity cause) = idlePart (resetPort s p) := by
    simp only [releaseSems]
    split <;> rfl
  exact ((resetPort_idles p).part hrelease).part (idlePart_modPort p fun _ => rfl)

theorem darkenPlots_idles (plots : List Nat) : Idles s (darkenPlots s plots) := by
  refine .foldl (fun v n => ?_) _ _
  split
  · exact .of_part (idlePart_clearKeys _)
  · refine .trans (.of_part ?_) (closePlot_idles n .safelight 1)
    exact idlePart_foldl (fun _ _ => idlePart_answerVault _ _ _ _ _) _ _

/-! ### Records and scopes (R97 to R100, Table SAF-5) -/

@[simp] theorem idlePart_modSaf (f : SafState → SafState) : idlePart (s.modSaf f) = idlePart s := rfl

theorem idlePart_writeLog (r : LogRec) : idlePart (writeLog s r) = idlePart s := by
  dsimp only [writeLog]
  split_ifs <;> simp <;> rfl

@[simp] theorem idlePart_logFault (cause scope inst : Nat) (latch wider : Bool) (strikes island requester : Nat) (d0 d1 : Word) :
    idlePart (logFault s cause scope inst latch wider strikes island requester d0 d1) = idlePart s := by
  simp only [logFault]
  split
  · rfl
  · exact idlePart_writeLog _

theorem idlePart_fenceChannel (c : Nat) (latch : Bool) : idlePart (fenceChannel s c latch) = idlePart s := by
  simp only [fenceChannel]
  split <;> simp

theorem applyScope_idles (code inst : Nat) (latch : Bool) : Idles s (applyScope s code inst latch) := by
  have hremote : Idles s (dropRemote s) := dropRemote_idles
  have hstopped : Idles s (stopField (darkenPlots s (s.plotsOf inst)) inst) :=
    (darkenPlots_idles _).part (idlePart_stopField inst)
  have hcleared : Idles s { darkenPlots s s.plotList with engines := (darkenPlots s s.plotList).engines.map clearEngine } :=
    (darkenPlots_idles s.plotList).part rfl
  unfold applyScope
  -- stack scope looks at what `dropRemote` leaves, which must not be computed: it runs through the master's 64 Plots
  generalize dropRemote s = v at hremote
  split
  case h_1 => exact .of_part (by simp)
  case h_2 => exact .of_part (idlePart_fenceChannel inst latch)
  case h_3 => exact (darkenPlots_idles [inst]).part (by dsimp only; split <;> simp)
  case h_4 =>
    dsimp only
    split
    · exact hstopped.trans dropRemote_idles
    · exact hstopped
  case h_5 => exact detachPort_idles _ _
  case h_6 => exact (hcleared.trans dropRemote_idles).part (idlePart_foldl (fun _ _ => idlePart_stopChannel _) _ _)
  case h_7 =>
    dsimp only
    split
    · exact hremote.trans (.foldl (fun _ _ => (darkenPlots_idles _).part (idlePart_stopField _)) _ _)
    · exact hremote
  case h_8 => exact .refl s

theorem addStackScope_idles (cause island : Nat) (latch : Bool) (d0 d1 : Word) : Idles s (addStackScope s cause latch island d0 d1) := by
  have hlogged : ∀ f c, Idles s (logFault (s.modSaf f) c 7 0xFFFF latch false 0 island 0xFF d0 d1) := fun f c =>
    .of_part ((idlePart_logFault _ _ _ _ _ _ _ _ _ _).trans (idlePart_modSaf f))
  dsimp only [addStackScope]
  split
  · exact hlogged _ _
  · exact (hlogged _ _).trans (applyScope_idles 7 0 latch)

theorem tellRing_idles (code cause island : Nat) (latch : Bool) (d0 d1 : Word) :
    Idles s (tellRing s code cause latch island d0 d1) := by
  unfold tellRing
  split
  · exact (Idles.of_part (idlePart_ringBroadcast _ _ _)).trans (addStackScope_idles _ _ _ _ _)
  · exact .refl s

section Scope

variable {cause code inst island requester : Nat} {latch : Bool} {d0 d1 : Word} {who : Option (Nat × Nat)}

theorem enterOneScope_idles : Idles s (enterOneScope s cause code inst latch island requester d0 d1 who) := by
  have hstrike : idlePart (addStrike s code inst) = idlePart s := by
    unfold addStrike
    split_ifs <;> rfl
  have hentered : ∀ (v : State) (key : Nat), Idles v (tellRing (applyScope v code key latch) code cause latch island d0 d1) :=
    fun v _ => (applyScope_idles code _ latch).trans (tellRing_idles _ _ _ _ _ _)
  dsimp only [enterOneScope]
  generalize (if code = 6 ∨ code = 7 then 0 else inst) = key
  split
  · exact .of_part rfl
  · generalize (if (code = 1 ∨ code = 2) ∧ (!s.inScope code key) = true then strikesAfter s code inst else 0) = strikes
    generalize hu : logFault _ cause code (recInst code inst) latch _ _ island requester d0 d1 = u
    have hlogged : Idles s u := by
      rw [← hu]
      refine .of_part ?_
      simp only [idlePart_logFault, idlePart_modSaf]
      split
      · exact hstrike
      · rfl
    generalize hw : (if s.inScope code key = true then u else tellRing _ _ _ _ _ _ _) = w
    have happlied : Idles s w := by
      rw [← hw]
      split
      · exact hlogged
      · exact hlogged.trans (hentered u key)
    split
    · exact happlied.part (by simp)
    · exact happlied

theorem noCipher_idles : Idles s (noCipher s) := by
  unfold noCipher
  split
  · exact .refl s
  · have hnoted : Idles s (s.modArb fun a => { a with noCipher := true }) := .of_part rfl
    exact hnoted.trans enterOneScope_idles

theorem enterScope_idles : Idles s (enterScope s cause code inst latch island requester d0 d1 who) := by
  simp only [enterScope]
  split
  · exact enterOneScope_idles.trans noCipher_idles
  · exact enterOneScope_idles

theorem islandFault_idles : Idles s (islandFault s cause island requester d0 d1 who) := by
  have hscopes : ∀ v, Idles s v → Idles s (if (islandScopes s island).isEmpty then
      logFault v cause 0 0xFFFF false false 0 island requester d0 d1
      else (islandScopes s island).foldl (fun s x => enterScope s cause x.1 x.2.1 x.2.2 island requester d0 d1 who) v) := by
    intro v hv
    refine hv.trans ?_
    split
    · exact .of_part (idlePart_logFault _ _ _ _ _ _ _ _ _ _)
    · exact .foldl (fun _ _ => enterScope_idles) _ _
  refine hscopes _ ?_
  split
  · exact .of_part rfl
  · exact .refl s

end Scope

/-! ### Transfers and reads (R26, R42, R64, R377, R547, R558) -/

theorem refuseWord_idles (id : Identity) (addr : Nat) : Idles s (refuseWord s id addr) := by
  unfold refuseWord
  split
  · exact islandFault_idles
  · exact .refl s

theorem bankError_idles (id : Identity) (addr : Nat) (parity : Bool) : Idles s (bankError s id addr parity) :=
  .trans (.of_part (idlePart_modBank _ _)) islandFault_idles

theorem bankTransfer_idles (id : Identity) (lo bytes : Nat) (k : AccessKind) : Idles s (bankTransfer s id lo bytes k).1 := by
  have hserved : Idles s (portServe s id (lo / bankBytes) (lo % bankBytes / 8) (k == .read)) := .of_part rfl
  unfold bankTransfer
  dsimp only
  split
  · exact .trans (.of_part (idlePart_modMpu _)) (refuseWord_idles _ _)
  · split
    · exact .trans (.foldl (fun _ _ => .of_part (idlePart_modMpu _)) _ _) (refuseWord_idles _ _)
    · refine hserved.trans ?_
      generalize portServe s id (lo / bankBytes) (lo % bankBytes / 8) (k == .read) = v
      have hdrawn : Idles v v.drawBool.2 := .of_part rfl
      split
      · exact .of_part rfl
      · split
        · exact .refl _
        · split
          · exact hdrawn.trans (bankError_idles _ _ _)
          · exact hdrawn

theorem mapTransfer_idles (f : Nat) (k : AccessKind) : Idles s (mapTransfer s f k).1 := by
  simp only [mapTransfer, fieldTransfer]
  split
  · exact .refl s
  · exact .trans (.of_part idlePart_drawNat) (bankTransfer_idles _ _ _ _)

theorem touchSegment_idles (f plot unit : Nat) (dirty : Bool) : Idles s (touchSegment s f plot unit dirty).1 := by
  have htransfer := mapTransfer_idles (s := s) f (if dirty then .write else .read)
  unfold touchSegment
  generalize mapTransfer s f (if dirty then .write else .read) = p at htransfer ⊢
  obtain ⟨v, ok⟩ := p
  cases ok
  · exact htransfer
  · exact htransfer.trans (.of_part (by simp))

theorem idlePart_readRemote (t : Task) (lba pos addr : Nat) : idlePart (readRemote s t lba pos addr) = idlePart s := by
  simp only [readRemote]
  split
  · simp
  · split <;> simp

theorem idlePart_offerBlock (f : Nat) (t : Task) (i addr : Nat) (first : Bool) :
    idlePart (offerBlock s f t i addr first) = idlePart s := by
  simp only [offerBlock]
  split <;> simp [idlePart_readRemote]

theorem lookupBlock_idles (f : Nat) (t : Task) (i : Nat) : Idles s (lookupBlock s f t i).1 := by
  simp only [lookupBlock]
  split
  · exact .refl s
  · split
    · exact touchSegment_idles _ _ _ _
    · exact (touchSegment_idles _ _ _ _).trans (.of_part (idlePart_setTask _ _))

theorem offerRead_idles (t : Task) : Idles s (offerRead s t) := by
  unfold offerRead
  split
  · exact .refl s
  · split
    · exact .refl s
    · rename_i f _ _
      refine .foldl (fun v i => ?_) _ _
      split
      · exact .refl v
      case h_2 t' _ =>
        have hlook : Idles v (lookupBlock v f t' i).1 := lookupBlock_idles f t' i
        split
        · exact .refl v
        · split
          · split
            · exact .refl v
            · exact .of_part (idlePart_offerBlock _ _ _ _ _)
          · split
            case h_1 w a h =>
              rw [h] at hlook
              exact hlook.trans (.of_part (idlePart_offerBlock _ _ _ _ _))
            case h_2 w h =>
              rw [h] at hlook
              exact hlook

theorem idlePart_offerMemberRead (r : MemberRead) : idlePart (offerMemberRead s r) = idlePart s := by
  have hanswer : ∀ medium, idlePart (answerRead s medium r) = idlePart s := by
    refine fun medium => (idlePart_foldl (fun u i => ?_) _ _).trans (idlePart_modStk _)
    unfold sendUnit
    split
    · simp
    · exact (idlePart_sendPair _ _ _ _ _ _ _ _ _).trans rfl
  unfold offerMemberRead
  split
  · exact hanswer true
  · split
    · exact hanswer true
    · simp [hanswer]

theorem serveReads_idles : Idles s (serveReads s) := by
  refine .trans ?_ (.of_part idlePart_advanceReads)
  unfold offerReads
  generalize hv : (s.fn.tasks.filter fun t => isReadTask t && t.statusDue && !t.held).foldl _ s = v
  have hoffered : Idles s v := hv ▸ .foldl (fun _ t => offerRead_idles t) _ _
  refine hoffered.part ((idlePart_foldl (fun u f => ?_) _ _).trans (idlePart_foldl (fun _ r => idlePart_offerMemberRead r) _ _))
  split <;> simp

end Idles

end Sys2Proof.Machine
end

section
/-! Packets and device requests on a port (R223, R231 to R234, R237, R238, R243 to R247, R250, R252, R281); O50. -/

namespace Sys2Proof.Machine

section DeviceRequests

variable {s : State} {p : Port} {k ep : Nat} {e : EpState}

/-- A configuration taken from the hub leaves a port with nothing configured, whatever goes on behind it (R229). -/
theorem serveReads_resetPort_bare : ((serveReads (resetPort s p)).port p).bare := serveReads_idles.bare p (resetPort_bare p)

/-- What packets are answered at an endpoint that is there and not halted (R231, R232, R234). -/
theorem packets_taken (he : (s.port p).ep? k ep = some e) (hthere : (s.port p).hasEp k ep = true) (hrun : e.halted = false) :
    ((s.port p).super = false →
      (e.total ≤ e.used ∨ s.botHeld p k = true → exec (.bulkOutPacket p k ep) s = .next (answerWire s p .nak)) ∧
      (e.used < e.total → s.botHeld p k = false → ∃ t, exec (.bulkOutPacket p k ep) s = .next t ∧ OnlyPort p s t ∧
        (t.port p).ep? k ep = some { e with used := e.used + 1, seq := (e.seq + 1) % 2 } ∧
        (t.port p).answer = if (s.port p).speed = .high ∧ e.used + 1 = e.total then .nyet else .ack)) ∧
    ((s.port p).speed = .high → exec (.ping p k ep) s =
      .next (answerWire s p (if e.used < e.total ∧ s.botHeld p k = false then .ack else .nak))) ∧
    ((s.port p).super = true → ∀ i,
      (e.total ≤ e.used ∨ s.botHeld p k = true → ∃ t, exec (.ssBulkTransaction p k ep i) s = .next t ∧ OnlyPort p s t ∧
        (t.port p).ep? k ep = some { e with nrdy := true } ∧ (t.port p).answer = .nrdy) ∧
      (e.used < e.total → s.botHeld p k = false → ∃ t, exec (.ssBulkTransaction p k ep i) s = .next t ∧ OnlyPort p s t ∧
        (t.port p).ep? k ep = some { e with used := e.used + 1, seq := (e.seq + 1) % 32 } ∧
        (t.port p).answer = if i then .data e.seq else .ack)) := by
  have hroom : e.used < e.total → s.botHeld p k = false → ¬(e.total ≤ e.used ∨ s.botHeld p k = true) := by
    rintro hlt hfree (hfull | hheld)
    · omega
    · simp [hfree] at hheld
  refine ⟨fun hslow => ⟨fun hfull => ?_, fun hlt hfree => ?_⟩, fun hhigh => ?_, fun hsuper i => ⟨fun hfull => ?_, fun hlt hfree => ?_⟩⟩
  · rw [exec_bulkOutPacket_there he hthere hslow, if_neg (by simp [hrun]), if_pos hfull]
  · rw [exec_bulkOutPacket_there he hthere hslow, if_neg (by simp [hrun]), if_neg (hroom hlt hfree)]
    exact ⟨_, rfl, answered_endpoint (keepsName_takeGranule 2) he _⟩
  · rw [exec_ping_there he hthere hhigh, if_neg (by simp [hrun])]
  · rw [exec_ssBulkTransaction_there he hthere hsuper, if_neg (by simp [hrun]), if_pos hfull]
    exact ⟨_, rfl, answered_endpoint (f := fun e => { e with nrdy := true }) (fun _ => ⟨rfl, rfl⟩) he _⟩
  · rw [exec_ssBulkTransaction_there he hthere hsuper, if_neg (by simp [hrun]), if_neg (hroom hlt hfree)]
    exact ⟨_, rfl, answered_endpoint (keepsName_takeGranule 32) he _⟩

theorem packets_halted (he : (s.port p).ep? k ep = some e) (hthere : (s.port p).hasEp k ep = true) (hhalt : e.halted = true) :
    ((s.port p).super = false → exec (.bulkOutPacket p k ep) s = .next (answerWire s p .stall)) ∧
    ((s.port p).speed = .high → exec (.ping p k ep) s = .next (answerWire s p .stall)) ∧
    ((s.port p).super = true → ∀ i, exec (.ssBulkTransaction p k ep i) s = .next (answerWire s p .stall)) :=
  ⟨fun h => by rw [exec_bulkOutPacket_there he hthere h, if_pos hhalt],
    fun h => by rw [exec_ping_there he hthere h, if_pos hhalt],
    fun h _ => by rw [exec_ssBulkTransaction_there he hthere h, if_pos hhalt]⟩

/-- A halt is set and cleared at an endpoint that is there (R233, R234). -/
theorem halts_set_and_cleared (he : (s.port p).ep? k ep = some e) (hthere : (s.port p).hasEp k ep = true)
    (hother : k ≠ 0 ∨ ep ≠ 0 ∨ (s.port p).super = true) :
    (∃ t, exec (.clearEndpointHalt p k ep) s = .next t ∧ exec (.setFeatureDevice p (.endpointHalt k ep) false) s = .next t ∧
      OnlyPort p s t ∧ (t.port p).ep? k ep = some { e with seq := 0, halted := false } ∧ (t.port p).answer = .ack) ∧
    (∃ t, exec (.setFeatureDevice p (.endpointHalt k ep) true) s = .next t ∧ OnlyPort p s t ∧
      (t.port p).ep? k ep = some { e with halted := true } ∧ (t.port p).answer = .ack) :=
  ⟨⟨_, exec_clearEndpointHalt, exec_endpointHalt_cleared, onEndpoint_there (fun _ => ⟨rfl, rfl⟩) he hthere hother⟩,
    ⟨_, exec_endpointHalt_set, onEndpoint_there (fun _ => ⟨rfl, rfl⟩) he hthere hother⟩⟩

theorem halts_absent (hgone : (s.port p).hasEp k ep = false) (hlive : (s.port p).live = true) :
    exec (.clearEndpointHalt p k ep) s = .next (answerWire s p .stall) ∧
      ∀ on, exec (.setFeatureDevice p (.endpointHalt k ep) on) s = .next (answerWire s p .stall) := by
  have hstall : ∀ f, onEndpoint s p k ep f = answerWire s p .stall := fun f => by rw [onEndpoint_absent hgone, if_pos hlive]
  exact ⟨congrArg _ (hstall _), fun on => congrArg _ (hstall _)⟩

/-- Link power entries follow LINKPM alone (R244, R245). -/
theorem u1U2Entry_follows_linkPm (hlive : (s.port p).live = true) (hsuper : (s.port p).super = true) (u2 : Bool) :
    ((s.portCfg p).linkPm.testBit (if u2 then 1 else 0) = true → exec (.u1U2Entry p u2) s = .next (s.modPort p fun q =>
      { q with link := if u2 then 2 else 1, lpmAcc := min 255 (q.lpmAcc + 1), answer := .lau })) ∧
    ((s.portCfg p).linkPm.testBit (if u2 then 1 else 0) = false → exec (.u1U2Entry p u2) s = .next (s.modPort p fun q =>
      { q with lpmRej := min 255 (q.lpmRej + 1), answer := .lxu })) := by
  rw [exec_u1U2Entry_live hlive hsuper]
  exact ⟨fun h => by rw [h, linkEntry_accepted], fun h => by rw [h, linkEntry_rejected]⟩

theorem lpmToken_follows_linkPm (hlive : (s.port p).live = true) (hslow : (s.port p).super = false) :
    ((s.portCfg p).linkPm.testBit 2 = true → exec (.lpmToken p) s = .next (s.modPort p fun q =>
      { q with link := 1, lpmAcc := min 255 (q.lpmAcc + 1), answer := .ack })) ∧
    ((s.portCfg p).linkPm.testBit 2 = false → exec (.lpmToken p) s = .next (s.modPort p fun q =>
      { q with lpmRej := min 255 (q.lpmRej + 1), answer := .stall })) := by
  rw [exec_lpmToken_live hlive hslow]
  exact ⟨fun h => by rw [h, linkEntry_accepted], fun h => by rw [h, linkEntry_rejected]⟩

/-- The hub's configuration is selected, or taken away (R229, R252, R281). -/
theorem hub_configured (hlive : (s.port p).live = true) (v : Nat) :
    (v ≠ 0 → ∃ t, exec (.setConfiguration p 0 v) s = .next t ∧ (t.port p).configured = true ∧ (t.port p).answer = .ack ∧
      (t.pfn p).events = [] ∧ (t.pfn p).evSeq = 1 ∧
      ((s.port p).emb.length = 16 → (s.emb p 1).powered = true → (s.emb p 1).conn = false → (s.emb p 1).chg = false →
        (t.emb p 1).conn = true)) ∧
    (v = 0 → ∃ t, exec (.setConfiguration p 0 v) s = .next t ∧ (t.port p).configured = false ∧ (t.port p).eps = [] ∧
      (t.port p).answer = .ack) := by
  refine ⟨fun hv => ?_, ?_⟩
  · obtain ⟨hconf, hanswer, hevents, hseq⟩ := configureHub_hubPart (s := s) (p := p)
    exact ⟨_, exec_setConfiguration_hub hlive hv, hconf, hanswer, hevents, hseq, configureHub_management⟩
  · rintro rfl
    obtain ⟨hconf, heps⟩ := PortState.bare_iff.mp (serveReads_resetPort_bare (s := s) (p := p))
    exact ⟨_, exec_setConfiguration_none hlive, by rw [answerWire_configured, hconf], by rw [answerWire_eps, heps], answerWire_answer _⟩

/-- Configurations and interfaces of a function behind the hub (R233, R234, R247). -/
theorem function_selected (hk : k ≠ 0) (hreach : (s.port p).reaches k = true) (v : Nat) :
    (v ≠ 0 → ∃ u, exec (.setConfiguration p k v) s = .next (answerControl u p 0 .ack) ∧ OnlyPort p s u ∧
      (k < (s.port p).emb.length → (u.emb p k).selected = true ∧ (u.emb p k).alt = 0) ∧
      (u.port p).eps = (carveEps k 0 ((s.portCfg p).carve.getD k 0)).map (advertised (s.port p).super 0) ++ (s.port p).eps.filter (·.k != k)) ∧
    (v = 0 → ∃ u, exec (.setConfiguration p k v) s = .next (answerControl u p 0 .ack) ∧ OnlyPort p s u ∧
      (k < (s.port p).emb.length → (u.emb p k).selected = false) ∧ (u.port p).eps = (s.port p).eps.filter (·.k != k)) ∧
    (∀ alt, (s.port p).bulk k = false ∨ s.lastAlt p k < alt → exec (.setInterface p k alt) s = .next (answerWire s p .stall)) ∧
    (∀ alt, (s.port p).bulk k = true → alt ≤ s.lastAlt p k → ∃ u, exec (.setInterface p k alt) s = .next (answerControl u p 0 .ack) ∧
      OnlyPort p s u ∧ (k < (s.port p).emb.length → (u.emb p k).alt = alt) ∧
      (u.port p).eps = (carveEps k alt ((s.portCfg p).carve.getD k 0)).map (advertised (s.port p).super alt) ++ (s.port p).eps.filter (·.k != k)) := by
  refine ⟨fun hv => ?_, ?_, fun alt h => exec_setInterface_fn_refused hk hreach h, fun alt hbulk halt => ?_⟩
  · obtain ⟨honly, hemb, heps⟩ := selected_fn (s := s) (p := p) (k := k) 0 fun e => { e with selected := true, alt := 0 }
    exact ⟨_, exec_setConfiguration_fn hk hreach hv, honly, fun hlen => by rw [hemb hlen]; exact ⟨rfl, rfl⟩, heps⟩
  · rintro rfl
    obtain ⟨honly, hemb, heps⟩ := dropped_fn (s := s) (p := p) (k := k) fun e => { e with selected := false }
    exact ⟨_, exec_setConfiguration_fn_none hk hreach, honly, fun hlen => by rw [hemb hlen], heps⟩
  · obtain ⟨honly, hemb, heps⟩ := selected_fn (s := s) (p := p) (k := k) alt fun e => { e with alt := alt }
    exact ⟨_, exec_setInterface_fn hk hreach hbulk halt, honly, fun hlen => by rw [hemb hlen], heps⟩

end DeviceRequests

/-- Settles O50: each packet and request either finds its port, endpoint or function and changes that alone, or is refused. -/
theorem usbPacketsAndDeviceRequests : Obligations.UsbPacketsAndDeviceRequests := by
  intro s p
  refine ⟨fun k ep i habsent => exec_packet_absent habsent i, fun k ep e he hthere hhalt => packets_halted he hthere hhalt,
    fun k ep e he hthere hrun => packets_taken he hthere hrun, fun k ep e he hthere hother => halts_set_and_cleared he hthere hother,
    fun k ep hgone hlive => halts_absent hgone hlive, fun hdead => exec_dead hdead, fun n hlive => exec_sofReceived_live hlive n,
    fun old n => ⟨rfl, rfl, sofRecord_high_micro, rfl⟩, rfl, fun u2 hlive hsuper => u1U2Entry_follows_linkPm hlive hsuper u2,
    lpmToken_follows_linkPm, fun f on hlive hdevice => ⟨fun h => exec_setFeatureDevice_refused hdevice hlive h on,
      fun hconf h => exec_setFeatureDevice_recorded hdevice hlive hconf h on⟩, fun k hlive => exec_unsupportedRequest_live hlive k,
    fun hlive hconf => ?_, fun v hlive => hub_configured hlive v, fun alt hlive => ⟨exec_setInterface_hub_refused hlive, ?_⟩,
    fun hdead _ v alt => exec_select_dead hdead v alt, fun _ v alt hk hreach => exec_select_unreached hk hreach v alt,
    fun _ v hk hreach => function_selected hk hreach v⟩
  · exact ⟨congrArg _ (acceptTt_configured hlive hconf), congrArg _ (acceptTt_configured hlive hconf)⟩
  · rintro hconf rfl
    exact ⟨_, exec_setInterface_hub hlive hconf, onlyPort_selectEps 0 0, selectEps_eps 0⟩

end Sys2Proof.Machine
end

section
/-! What a grant of the arbiter and the work of the DRBG leave (R33, R39, R47, R53 to R55, R344, R358, R403, R449): the reference
counter, power, security, and ports with nothing configured. -/

namespace Sys2Proof.Machine

section Grants

variable {s t v : State}

/-! ### Numbers and answers (R39, R53, R613) -/

theorem idlePart_issueOrder {m : Nat} (h : issueOrder s = some (m, v)) : idlePart v = idlePart s := by
  unfold issueOrder at h
  split at h
  · cases h
  · dsimp only at h
    split at h <;> cases h
    · exact (idlePart_demotePlots _ _).trans rfl
    · rfl

@[simp] theorem idlePart_tellMember (x : Task) (n : Nat) : idlePart (tellMember s x n) = idlePart s := by
  unfold tellMember
  split <;> simp

theorem idlePart_endGranted (x : Task) (st : ScsiStatus) : idlePart (endGranted s x st) = idlePart s := by
  simp only [endGranted, replyScsi]
  cases x.key.origin <;> cases x.ticket <;> simp

theorem idlePart_countTsf (k : Nat) : idlePart (countTsf s k) = idlePart s := by
  unfold countTsf
  split_ifs <;> rfl

/-! ### What commands begin at their grant (R286, R338, R403, R449) -/

@[simp] theorem idlePart_trimPlot (f n order : Nat) : idlePart (trimPlot s f n order) = idlePart s := by
  simp only [trimPlot]
  split <;> simp

theorem unmapTrim_idles (f : Nat) (e : Entry) : Idles s (unmapTrim s f e) := by
  have htransfer := mapTransfer_idles (s := s) f .write
  unfold unmapTrim
  split
  · exact .refl s
  · generalize mapTransfer s f .write = p at htransfer ⊢
    obtain ⟨u, ok⟩ := p
    cases ok
    · exact htransfer
    · exact htransfer.part (by simp)

theorem applyDiscard_idles (f : Nat) (x : Task) : Idles s (applyDiscard s f x) := by
  have hzero : ∀ (l : List (Nat × Nat)) (u : State), idlePart (l.foldl zeroStage u) = idlePart u := idlePart_foldl fun _ _ => rfl
  simp only [applyDiscard]
  refine .trans (.of_part ?_) (.foldl (fun _ e => unmapTrim_idles f e) _ _)
  rw [idlePart_onField]
  split
  · exact (hzero _ _).trans idlePart_drawNat
  · exact idlePart_drawNat

theorem beginDiscard_idles (f : Nat) (x : Task) : Idles s (beginDiscard s f x) := by
  simp only [beginDiscard]
  generalize happlied : applyDiscard s f x = u
  have happlied : Idles s u := happlied ▸ applyDiscard_idles f x
  refine happlied.part ?_
  split_ifs <;> simp [secureMoves]

theorem idlePart_beginFlush (f : Nat) (x : Task) : idlePart (beginFlush s f x) = idlePart s := by
  unfold beginFlush
  split
  · split <;> simp
  · simp

theorem startRead_idles (x : Task) : Idles s (startRead s x) := by
  simp only [startRead]
  generalize hoffered : offerRead s x = u
  have hread : Idles s u := hoffered ▸ offerRead_idles x
  refine hread.part ?_
  split <;> split <;> simp

theorem beginTask_idles (x : Task) : Idles s (beginTask s x) := by
  unfold beginTask
  dsimp only
  split
  · exact .refl s
  · exact .of_part (idlePart_endGranted _ _)
  case h_3 f _ _ =>
    split
    · exact .trans (.of_part ((idlePart_tellMember _ _).trans (idlePart_modTasks _))) (startRead_idles _)
    · split
      case h_1 n u hissue =>
        have hissued : Idles s u := .of_part (idlePart_issueOrder hissue)
        split
        · exact hissued.part (idlePart_endGranted _ _)
        · split
          · exact hissued.part ((idlePart_tellMember _ _).trans (idlePart_modTasks _))
          · exact hissued.part ((idlePart_beginFlush _ _).trans (idlePart_modTasks _))
          · exact (hissued.part (idlePart_modTasks _)).trans (beginDiscard_idles _ _)
          · refine hissued.part ?_
            split <;> simp
          · exact hissued.part (idlePart_modTasks _)
      · split
        · exact .of_part ((idlePart_beginFlush _ _).trans (idlePart_modTasks _))
        · exact .of_part (idlePart_modTasks _)

/-! ### A tick of the arbiter (R33, R36, R55) -/

theorem giveGrant_idles (r : ArbReq) : Idles s (giveGrant s r).1 := by
  have hdrawn : ∀ {k id u}, drawTicket s k = some (id, u) → Idles s (noteLoose u id) :=
    fun h => (Idles.of_part (idlePart_drawTicket h)).part rfl
  unfold giveGrant
  split
  · exact .refl s
  all_goals split
  · exact hdrawn ‹_›
  · exact .refl s
  · exact hdrawn ‹_›
  · exact .of_part (idlePart_countTsf _)
  · split
    · exact (hdrawn ‹_›).part (idlePart_issueOrder ‹_›)
    · exact hdrawn ‹_›
  · exact .of_part (idlePart_countTsf _)

theorem idlePart_useSlot (lane : Lane) : idlePart (useSlot s lane) = idlePart s := by
  have hdrawn : ∀ {u b}, drawLane s lane = (u, b) → idlePart u = idlePart s := by
    intro u b h
    have hlane := drawLane_eq s lane
    rw [h] at hlane
    rw [show u = _ from hlane]
    rfl
  have hfor : ∀ (u : State) (n : Nat), idlePart (withdrawFor u lane n) = idlePart u := fun _ _ => by cases lane <;> rfl
  unfold useSlot
  dsimp only
  split
  · rfl
  · split
    case h_1 u h => exact hdrawn h
    case h_2 u h =>
      have hu : idlePart u = idlePart s := hdrawn h
      split
      · exact (hfor _ _).trans hu
      · exact hu
      · exact hu

theorem give_idles (w : Raised) : Idles s (give s w).1 := by
  cases w with
  | asked r => exact giveGrant_idles r
  | waiting x =>
    simp only [give, giveHeld]
    split
    · exact .refl s
    case h_2 id u hdraw =>
      have hgranted : Idles s (noteGrant (u.modTasks fun ts => ts.filter (· != x))
          (x.grant (u.modTasks fun ts => ts.filter (· != x)) id)) :=
        (Idles.of_part (idlePart_drawTicket hdraw)).part rfl
      exact hgranted.trans (beginTask_idles _)
  | field f =>
    simp only [give, giveField]
    split
    · exact .refl s
    · exact .of_part (by simp)
  | strip lane => exact .of_part (idlePart_useSlot lane)

theorem arbiterTick_idles (reqs : List ArbReq) (trees : TreeAgreement) : Idles s (arbiterTick reqs trees s) := by
  have hlockstep : Idles s (lockstepFault s) := by
    have hnoted : Idles s (s.modArb fun a => { a with lockstep := true }) := .of_part rfl
    unfold lockstepFault enterDevice
    exact hnoted.trans enterScope_idles
  unfold arbiterTick
  split
  · split
    · exact .refl s
    · split
      · exact .refl s
      · exact .of_part (idlePart_noteGrant _)
  · split
    · exact hlockstep
    · split
      · exact .refl s
      · exact (give_idles _).part (idlePart_noteGrant _)

/-! ### What waited for the DRBG (R344, R358, R369) -/

theorem idlePart_provision (n : Nat) (new : List Byte) : idlePart (provision s n new) = idlePart s := by
  have hdrawn : idlePart (drawSalt (drawKeySet s).2).2 = idlePart s := rfl
  simp only [provision, idlePart_setPlotMode, idlePart_writeRecord]
  exact hdrawn

theorem idlePart_runChecks (n fuel : Nat) : idlePart (runChecks n fuel s) = idlePart s := by
  induction fuel generalizing s with
  | zero => rfl
  | succ fuel ih =>
    unfold runChecks
    split
    · rfl
    · split
      · rfl
      · split
        · simp [ih, popCheck, answerCheck]
        · split
          · split
            · simp [ih, popCheck, answerCheck, idlePart_provision]
            · rfl
          · rfl

/-- Once the DRBG is instantiated a ROOT_GEN waits no longer (R358, R369). -/
def rootSettled (s : State) : State :=
  if s.sec.rootWaits then (if s.drkBlank then genRoot s else secResult (s.modSec fun q => { q with rootWaits := false }) 5) else s

theorem rootSettled_facts (s : State) : (rootSettled s).timeUs = s.timeUs ∧ (rootSettled s).pwr = s.pwr ∧ (rootSettled s).sec.rootWaits = false := by
  unfold rootSettled
  split
  · split <;> exact ⟨rfl, rfl, rfl⟩
  case isFalse h => exact ⟨rfl, rfl, by simpa using h⟩

theorem drbgWork_idles (h : s.sec.drbgReady = true) : Idles (rootSettled s) (drbgWork s) := by
  have hfold : ∀ (l : List Nat) (u : State), idlePart (l.foldl (fun (s : State) n => match (s.plot n).checks with
      | ⟨_, .provision _, _, false⟩ :: _ => runChecks n (s.plot n).checks.length s
      | _ => s) u) = idlePart u := by
    refine fun l u => idlePart_foldl (fun v n => ?_) l u
    split
    · exact idlePart_runChecks _ _
    · rfl
  refine .of_part ?_
  simp only [drbgWork, h, Bool.not_true, Bool.false_eq_true, if_false]
  exact hfold _ _

theorem drbgWork_idle (h : s.sec.drbgReady = false) : drbgWork s = s := by simp [drbgWork, h]

theorem drbgWork_facts (s : State) : (drbgWork s).timeUs = s.timeUs ∧ (drbgWork s).pwr = s.pwr ∧
    (s.sec.drbgReady = true → (drbgWork s).sec.rootWaits = false) := by
  cases h : s.sec.drbgReady with
  | false => simp [drbgWork_idle h]
  | true =>
    obtain ⟨htime, hpwr, hroot⟩ := rootSettled_facts s
    have hwork := drbgWork_idles h
    exact ⟨hwork.timeUs.trans htime, hwork.pwr.trans hpwr, fun _ => by rw [hwork.sec, hroot]⟩

end Grants

end Sys2Proof.Machine
end

section
/-! One microsecond on an empty queue (R33, R42, R55, R196, R234, R358): buffers drain, what waits goes on, and the reference counter
advances; O57. -/

namespace Sys2Proof.Machine

section IdleTick

variable {s t u : State}

/-! ### Endpoint buffers drain (R234) -/

/-- The state once the endpoint buffers of every port have drained. -/
def drained (s : State) : State := s.member.portList.foldl drainPort s

theorem idlePart_drainPort (p : Port) : idlePart (drainPort s p) = idlePart s := by
  refine idlePart_modPort p fun q => Prod.ext rfl ?_
  simp only [PortState.shape, List.map_map]
  refine List.map_congr_left fun e _ => ?_
  simp only [Function.comp_apply]
  split <;> rfl

theorem onlyPorts_drainPort (p : Port) (u : State) :
    ({ drainPort u p with portA := s.portA, portB := s.portB } : State) = { u with portA := s.portA, portB := s.portB } := by
  cases p <;> rfl

theorem onlyPorts_drained (s : State) : ({ drained s with portA := s.portA, portB := s.portB } : State) = s :=
  foldl_unchanged (fun u : State => ({ u with portA := s.portA, portB := s.portB } : State)) drainPort
    (fun u p => onlyPorts_drainPort p u) s.member.portList s

theorem drained_eq (s : State) : drained s = { s with portA := (drained s).portA, portB := (drained s).portB } := by
  calc drained s
      = { ({ drained s with portA := s.portA, portB := s.portB } : State) with portA := (drained s).portA, portB := (drained s).portB } := rfl
    _ = { s with portA := (drained s).portA, portB := (drained s).portB } := by rw [onlyPorts_drained]

/-- What holds an endpoint's buffer: the capsules, the commands and the Plot of its embedded port. -/
def HoldsAlike (p : Port) (s t : State) : Prop := t.fn = s.fn ∧ (t.port p).emb = (s.port p).emb

theorem HoldsAlike.heldOut (h : HoldsAlike p s t) (e : EpState) : (t.port p).heldOut (t.pfn p) e = (s.port p).heldOut (s.pfn p) e := by
  obtain ⟨hfn, hemb⟩ := h
  have hpfn : t.pfn p = s.pfn p := by cases p <;> simp [State.pfn, hfn]
  simp only [PortState.heldOut, hemb, hpfn]

theorem HoldsAlike.botHeld (h : HoldsAlike p s t) (k : Nat) : t.botHeld p k = s.botHeld p k := by
  obtain ⟨hfn, hemb⟩ := h
  simp only [State.botHeld, hemb, hfn]

theorem holdsAlike_drainPort (p q : Port) : HoldsAlike p s (drainPort s q) := by
  cases p <;> cases q <;> exact ⟨rfl, rfl⟩

/-- A port of `t` whose buffers are empty but for those that something in `s` holds. -/
def Emptied (p : Port) (s t : State) : Prop :=
  ∀ e ∈ (t.port p).eps, (s.port p).heldOut (s.pfn p) e = false → s.botHeld p e.k = false → e.used = 0

theorem Emptied.alike (h : Emptied p u t) (k : HoldsAlike p s u) : Emptied p s t := fun e he hout hbot =>
  h e he ((k.heldOut e).trans hout) ((k.botHeld e.k).trans hbot)

theorem emptied_drainPort (p : Port) : Emptied p s (drainPort s p) := by
  intro e he hout hbot
  simp only [drainPort, State.modPort_port, List.mem_map] at he
  obtain ⟨x, -, hx⟩ := he
  split at hx
  case isTrue => rw [← hx]
  case isFalse hkept =>
    subst hx
    by_contra hused
    exact hkept (by simp [hused, hout, hbot])

theorem drainPorts_port_of_not_mem {p : Port} : ∀ {l : List Port} {s : State}, p ∉ l → (l.foldl drainPort s).port p = s.port p
  | [], _, _ => rfl
  | q :: l, s, h => by
    obtain ⟨hq, hl⟩ := not_or.mp (mt List.mem_cons.mpr h)
    rw [List.foldl_cons, drainPorts_port_of_not_mem hl]
    exact State.modPort_port_ne _ _ _ _ (Ne.symm hq)

theorem emptied_drainPorts {p : Port} {l : List Port} (hp : p ∈ l) : Emptied p s (l.foldl drainPort s) := by
  induction l generalizing s with
  | nil => cases hp
  | cons q l ih =>
    by_cases hl : p ∈ l
    · exact (ih hl).alike (holdsAlike_drainPort p q)
    · obtain rfl : p = q := (List.mem_cons.mp hp).resolve_right hl
      have hport : ((l.foldl drainPort (drainPort s p)).port p) = (drainPort s p).port p := drainPorts_port_of_not_mem hl
      intro e he
      rw [List.foldl_cons, hport] at he
      exact emptied_drainPort p e he

/-! ### A device in which nothing waits -/

/-- A fold whose every round leaves the state alone. -/
theorem foldl_stays {α : Type} {step : State → α → State} : ∀ {l : List α}, (∀ x ∈ l, step s x = s) → l.foldl step s = s
  | [], _ => rfl
  | x :: l, h => by
    rw [List.foldl_cons, h x List.mem_cons_self]
    exact foldl_stays fun y hy => h y (List.mem_cons_of_mem x hy)

/-- Nothing waits for the DRBG, or the DRBG is not there (R358). -/
def DrbgQuiet (s : State) : Prop := s.sec.drbgReady = false ∨ (s.sec.rootWaits = false ∧
  ∀ n ∈ s.plotList, ∀ a b c rest, (s.plot n).checks ≠ ⟨a, .provision b, c, false⟩ :: rest)

theorem drbgWork_quiet (h : DrbgQuiet s) : drbgWork s = s := by
  obtain hnone | ⟨hroot, hchecks⟩ := h
  · exact drbgWork_idle hnone
  · cases hready : s.sec.drbgReady with
    | false => exact drbgWork_idle hready
    | true =>
      simp only [drbgWork, hready, hroot, Bool.not_true, Bool.false_eq_true, if_false]
      refine foldl_stays fun n hn => ?_
      split
      case h_1 a b c rest heq => exact absurd heq (hchecks n hn a b c rest)
      case h_2 => rfl

/-- No read is in progress, of a command, of a member or of a rebuild. -/
structure ReadsQuiet (s : State) : Prop where
  commands : ∀ x ∈ s.fn.tasks, x.kind ≠ .read ∧ x.kind ≠ .get ∧ x.kind ≠ .list
  members : s.stk.reads = []
  rebuilds : ∀ f ∈ s.fieldList, (s.field f).rebuilds = []

theorem ReadsQuiet.not_isReadTask (h : ReadsQuiet s) {x : Task} (hx : x ∈ s.fn.tasks) : isReadTask x = false := by
  obtain ⟨hread, hget, hlist⟩ := h.commands x hx
  simp [isReadTask, hread, hget, hlist]

theorem serveReads_quiet (h : ReadsQuiet s) : serveReads s = s := by
  have hoffered : (s.fn.tasks.filter fun t => isReadTask t && t.statusDue && !t.held) = [] := by
    simpa [List.filter_eq_nil_iff] using fun x hx hread => by simp [h.not_isReadTask hx] at hread
  have hreads : s.fn.tasks.filter isReadTask = [] := by
    simpa [List.filter_eq_nil_iff] using fun x hx => h.not_isReadTask hx
  have hoffer : offerReads s = s := by
    simp only [offerReads, hoffered, h.members, List.foldl_nil]
    exact foldl_stays fun f hf => by simp [h.rebuilds f hf]
  rw [serveReads, hoffer, advanceReads, hreads]
  rfl

theorem arbiterTick_quiet (hlock : s.arb.lockstep = false) (h : s.raised [] = []) : arbiterTick [] ⟨true, true⟩ s = s := by
  simp [arbiterTick, hlock, winner_of_raised_nil h]

/-! ### The tick -/

/-- What goes on while the queue is empty, but for the reference counter. -/
def idleWork (s : State) : State :=
  let u := serveReads (drbgWork (drained s))
  if u.arb.lockstep then u else arbiterTick [] ⟨true, true⟩ u

theorem idleTick_eq (s : State) : idleTick s =
    if (idleWork s).pwr.refPresent then { idleWork s with timeUs := (idleWork s).timeUs + 1 } else idleWork s := rfl

theorem idleWork_idles (s : State) : Idles (drbgWork (drained s)) (idleWork s) := by
  simp only [idleWork]
  split
  · exact serveReads_idles
  · exact serveReads_idles.trans (arbiterTick_idles _ _)

theorem idleWork_facts (s : State) : (idleWork s).timeUs = s.timeUs ∧ (idleWork s).pwr = s.pwr ∧
    (s.sec.drbgReady = true → (idleWork s).sec.rootWaits = false) := by
  obtain ⟨htime, hpwr, hroot⟩ := drbgWork_facts (drained s)
  have hwork := idleWork_idles s
  have hdrained : Idles s (drained s) := .of_part (idlePart_foldl (fun _ p => idlePart_drainPort p) _ _)
  exact ⟨(hwork.timeUs.trans htime).trans hdrained.timeUs, (hwork.pwr.trans hpwr).trans hdrained.pwr,
    fun h => by rw [hwork.sec, hroot (by rwa [hdrained.sec])]⟩

theorem idleTick_timeUs (s : State) : (idleTick s).timeUs = s.timeUs + (if s.pwr.refPresent then 1 else 0) := by
  obtain ⟨htime, hpwr, -⟩ := idleWork_facts s
  rw [idleTick_eq, hpwr]
  split <;> simp [htime]

theorem idleTick_rootWaits (h : s.sec.drbgReady = true) : (idleTick s).sec.rootWaits = false := by
  obtain ⟨-, -, hroot⟩ := idleWork_facts s
  rw [idleTick_eq]
  split <;> exact hroot h

/-- A state that differs from a quiet one in its ports alone is as quiet: no read, no check and no request is kept in a port. -/
theorem idleWork_quiet (hdrbg : DrbgQuiet s) (hreads : ReadsQuiet s)
    (hraised : s.arb.lockstep = true ∨ ∀ u : State, { u with portA := s.portA, portB := s.portB } = s → u.raised [] = []) :
    idleWork s = drained s := by
  have hnothing : (drained s).arb.lockstep = true ∨ (drained s).raised [] = [] := by
    refine hraised.imp (fun h => ?_) fun h => h _ (onlyPorts_drained s)
    rw [drained_eq]
    exact h
  have hwork : drbgWork (drained s) = drained s := drbgWork_quiet (by rw [drained_eq]; exact hdrbg)
  have hserve : serveReads (drained s) = drained s :=
    serveReads_quiet (by rw [drained_eq]; exact ⟨hreads.commands, hreads.members, hreads.rebuilds⟩)
  simp only [idleWork, hwork, hserve]
  split
  · rfl
  case isFalse hlock => exact arbiterTick_quiet (by simpa using hlock) (hnothing.resolve_left hlock)

theorem idleTick_quiet (h : idleWork s = drained s) : { idleTick s with timeUs := s.timeUs, portA := s.portA, portB := s.portB } = s ∧
    ∀ p ∈ s.member.portList, Emptied p s (idleTick s) := by
  have hport : ∀ p, (idleTick s).port p = (drained s).port p := by
    intro p
    rw [idleTick_eq, h]
    split <;> cases p <;> rfl
  refine ⟨?_, fun p hp e he => emptied_drainPorts hp e ((hport p).symm ▸ he)⟩
  have hrest : ({ idleTick s with timeUs := s.timeUs, portA := s.portA, portB := s.portB } : State) =
      { ({ drained s with portA := s.portA, portB := s.portB } : State) with timeUs := s.timeUs } := by
    rw [idleTick_eq, h]
    split <;> rfl
  rw [hrest, onlyPorts_drained]

end IdleTick

/-- Settles O57: a command at the front is run on the rest of the queue, and an idle microsecond drains the ports and lets what
waits go on, none of which stops the reference counter. -/
theorem stepRunsTheFrontCommand : Obligations.StepRunsTheFrontCommand := by
  intro s
  refine ⟨fun c rest hpending => by rw [step, hpending], fun hpending => ⟨idleTick s, by rw [step, hpending], idleTick_timeUs s,
    fun hdrbg hcommands hmembers hrebuilds hraised => ?_, idleTick_rootWaits⟩⟩
  exact idleTick_quiet (idleWork_quiet hdrbg ⟨hcommands, hmembers, hrebuilds⟩ hraised)

end Sys2Proof.Machine
end

section
/-! A DELETE whose Field manager owns no bank of its map cache: the refused access puts the Field in scope, and its Plot in Safelight,
before the answer is built (R299, R304, R558); O25. -/

namespace Sys2Proof.Machine

section LostDelete

variable {s : State} {f b : Nat} {k : AccessKind}

/-- The slot of the map cache an access meets: which one is free. -/
def cacheSlot (s : State) (b : Nat) : Nat := bankBytes * b + 0x1000 * (s.drawNat.1 % (bankBytes / 0x1000))

/-- The state once the manager of a Field has been refused bank `b` (R557, R558). -/
def cacheRefusal (s : State) (f b : Nat) (k : AccessKind) : State :=
  islandFault (recordVio s.drawNat.2 (idFm (f / 4)) true (cacheSlot s b) k true false 0xFFFF 0x1000) 0x0021
    (s.member.bankIsland (b / 16)) (idFm (f / 4)).toNat (w32 b) (w32 (cacheSlot s b % bankBytes / 8))

/-- The only bank of a map cache refuses its Field's manager. -/
theorem mapTransfer_only_bank (hid : isInternal (idFm (f / 4)) = true) (hbanks : s.banksFor 2 f none = [b])
    (howner : s.passesOwner (idFm (f / 4)) b = false) : mapTransfer s f k = (cacheRefusal s f b k, false) := by
  have hmember : (recordVio s.drawNat.2 (idFm (f / 4)) true (cacheSlot s b) k true false 0xFFFF 0x1000).member = s.member := rfl
  have hslot : cacheSlot s b / bankBytes = b := segment_bank b _
  have hrefused : bankTransfer s.drawNat.2 (idFm (f / 4)) (cacheSlot s b) 0x1000 k = (cacheRefusal s f b k, false) := by
    have howner' : s.drawNat.2.passesOwner (idFm (f / 4)) b = false := howner
    simp only [bankTransfer, hslot, howner', Bool.not_false, if_true, refuseWord, hid, hmember, cacheRefusal]
  have hone : bankBytes * [b].getD (s.drawNat.1 % 1) 0 + 0x1000 * (s.drawNat.1 / 1 % (bankBytes / 0x1000)) = cacheSlot s b := by
    rw [Nat.mod_one, Nat.div_one]
    rfl
  simp only [mapTransfer, fieldTransfer, hbanks, List.isEmpty_cons, Bool.false_eq_true, if_false, List.length_cons, List.length_nil,
    Nat.zero_add, hone, hrefused]

/-- A Field in scope does no work of its own. -/
theorem runField_held (h : s.inScope 4 f = true) : runField s f = s := by
  unfold runField
  split
  · rfl
  · rw [if_pos (by simp [State.fieldHeld, h])]

theorem runField_scopes : (runField s f).saf.scopes = s.saf.scopes := congrArg (fun q => q.1.scopes) (monitorPart_runField (s := s) f)

/-- What a Field's own work ends in with a scope on the Field is what it began from. -/
theorem eq_of_runField_held {t u : State} (h : u.inScope 4 f = true) (ht : runField t f = u) : t = u := by
  rw [← runField_held (s := t) (f := f), ht]
  rwa [State.inScope, ← ht, runField_scopes] at h

/-! ### A DELETE that discards its record -/

/-- The entries of a discard. -/
def discardEntries (s : State) (f stamp : Nat) (t : Task) : List Entry :=
  numberTrims ((extentsOf t.descs).flatMap fun d => trimEntries (max 1 (s.geo f).g) t.key.plot (t.order.getD 0) stamp d.1 d.2)

/-- The Field with the entries of a discard, before the units they cover are unmapped. -/
def discardEntered (s : State) (f : Nat) (t : Task) : State :=
  onField s.drawNat.2 f fun fs env =>
    let fs := freeLatent fs env (discardEntries s f s.drawNat.1 t)
    { fs with entries := fs.entries ++ discardEntries s f s.drawNat.1 t }

/-- A discard of one trim entry, in a Field whose map cache refuses its manager, ends in that refusal. -/
theorem applyDiscard_refused {t : Task} {v : State} (hsecure : s.secureField f = false)
    (hone : (discardEntries s f s.drawNat.1 t).length = 1) (htrim : ∀ e ∈ discardEntries s f s.drawNat.1 t, e.kind = .trim)
    (h : mapTransfer (discardEntered s f t) f .write = (v, false)) : applyDiscard s f t = v := by
  have hsecure' : s.drawNat.2.secureField f = false := hsecure
  have hfold : applyDiscard s f t = (discardEntries s f s.drawNat.1 t).foldl (fun s e => unmapTrim s f e) (discardEntered s f t) := by
    simp only [applyDiscard, hsecure', Bool.false_eq_true, if_false]
    rfl
  obtain ⟨e, he⟩ := List.length_eq_one_iff.mp hone
  have hkind : e.kind = .trim := htrim e (by simp [he])
  rw [hfold, he, List.foldl_cons, List.foldl_nil, unmapTrim, if_neg (by simp [hkind]), h]
  rfl

/-- The grant of a credential opcode of port A with the next order number. -/
def credWon (u : State) (id : Nat) : State := noteGrant u ⟨0, (issueOrder u).map (·.1), none, some id, .granted⟩

/-- A DELETE granted with a ticket and a number that finds its record, with space for the discard. -/
structure DeletesRecord (s : State) (n tag : Nat) (name : List Byte) (f id m : Nat) (u v : State) (r : Nat × List Byte) : Prop where
  takes : s.takes .a (.credential n) = true
  fields : fieldFault? 0x43 (namePayload name) = none
  lit : s.plotDark n = false
  mode : (s.plot n).mode ≠ .readOnly
  field : s.fieldOf n = some f
  drawn : drawTicket (beginCapsule s .a (.credential n) 0x43 tag) 0 = some (id, u)
  asFua : u.asFua = s.asFua
  issued : issueOrder (credWon u id) = some (m, v)
  found : (v.recordsAt n (m - 1)).find? (·.2 == name) = some r
  space : (v.field f).spaceOut = false

/-- The command as it is in flight. -/
def deleteTask (s v : State) (n tag : Nat) (name : List Byte) (f id m : Nat) (r : Nat × List Byte) : Task :=
  { newTask ⟨.port .a, n, tag⟩ none .del (2 * r.1) 0 false with
    name := name, ticket := some id, durable := s.asFua, order := some m, since := (v.field f).rseqNext, descs := [(2 * r.1, 2)] }

/-- What a credential opcode does once nothing refuses it. -/
theorem credGate_runs {n tag op : Nat} {pl : List Byte} {fua : Bool} {run : State → Port → State} (htakes : s.takes .a (.credential n) = true)
    (hfields : fieldFault? op pl = none) (hlit : s.plotDark n = false) (hmode : (s.plot n).mode ≠ .readOnly) :
    credGate s ⟨.port .a, n, tag⟩ op pl true fua run = run (beginCapsule s .a (.credential n) op tag) .a := by
  have hlit' : (beginCapsule s .a (.credential n) op tag).plotDark n = false := hlit
  have hmode' : ((beginCapsule s .a (.credential n) op tag).plot n).mode ≠ .readOnly := hmode
  simp only [credGate, withCapsule, htakes, if_true, hfields, hlit', Bool.false_eq_true, if_false]
  exact if_neg fun h => hmode' h.2

theorem deleteAt_found {t : Task} {m : Nat} {r : Nat × List Byte} (hfua : t.fua = false) (hdurable : t.durable = false)
    (hfound : (s.recordsAt t.key.plot (m - 1)).find? (·.2 == t.name) = some r) (hspace : (s.field f).spaceOut = false) :
    let x := { t with order := some m, since := (s.field f).rseqNext, lba := 2 * r.1, count := 0, descs := [(2 * r.1, 2)] }
    deleteAt s t f m = runField (answerTask (applyDiscard (s.modTasks fun ts => ts ++ [x]) f x) x .good []) f := by
  simp only [deleteAt, hfound, hspace, hfua, hdurable, Bool.false_eq_true, false_and, or_self, if_false]

theorem exec_delete_found {n tag id m : Nat} {name : List Byte} {u v : State} {r : Nat × List Byte}
    (h : DeletesRecord s n tag name f id m u v r) (hfua : s.asFua = false) :
    let x := deleteTask s v n tag name f id m r
    exec (.delete ⟨.port .a, n, tag⟩ name false) s =
      .next (runField (answerTask (applyDiscard (v.modTasks fun ts => ts ++ [x]) f x) x .good []) f) := by
  obtain ⟨htakes, hfields, hlit, hmode, hfield, hdrawn, hasFua, hissued, hfound, hspace⟩ := h
  refine congrArg Host.Outcome.next ((credGate_runs htakes hfields hlit hmode).trans ?_)
  have hfield' : (beginCapsule s .a (.credential n) 0x43 tag).fieldOf n = some f := hfield
  have hticket : drawTicket (beginCapsule s .a (.credential n) 0x43 tag) (Origin.port .a).cls = some (id, u) := hdrawn
  have hgrant : ∀ t : Task, t.key.origin = .port .a → t.kind = .del → noteGrant u (credGrant u t id) = credWon u id := by
    intro t ho hk
    simp [credGrant, credWon, ho, hk, Origin.cls]
  simp only [hfield', credTicket, newTask, hticket]
  rw [hgrant _ rfl rfl]
  simp only [numbered, hissued, hasFua]
  exact deleteAt_found rfl hfua hfound hspace

end LostDelete

/-! ### The state -/

namespace LostDelete

def layout : Layout := { LostCache.layout with plots := [⟨0, 0, true, 3, 2, 3, false, 8⟩] }

def name : List Byte := [0x6B]

/-- The record of Plot 0 in slot 0, its two blocks programmed under number 4. -/
def record : Entry := ⟨0, 0, 2, .record, 4, 0, 0, recordPlain name [1], name, true, 0, none, some 0, true, [], false⟩

/-- The port runs at high speed, and its host has selected the configuration of the function on embedded port 2, Plot 0. -/
def selected (q : PortState) : PortState :=
  { q with
    speed := .high
    link := 0
    configured := true
    emb := q.emb.modify 2 fun e => { e with holder := some 0, conn := true, powered := true, enabled := true, selected := true } }

/-- A Z8 whose bank 0 is the map cache of Field 0 and has no owner; Plot 0 is Open and holds one record. -/
def start : State :=
  let r := Reset.state .z8 .b0
  { r with
    lay := { r.lay with active := some layout, op := 0, starting := false }
    saf := { r.saf with starting := false }
    pwr := { r.pwr with state := .lit }
    banks := r.banks.modify 0 fun b => { b with role := 2, field := 0 }
    fields := r.fields.modify 0 fun q => { q with entries := [record] }
    plots := r.plots.modify 0 fun q => { q with mode := .open_ }
    portA := selected r.portA
    arb := { r.arb with reserved := [1] } }

/-- The ticket of the DELETE with tag 7, and the state after it. -/
def drawn : Nat × State := (drawTicket (beginCapsule start .a (.credential 0) 0x43 7) 0).get (by decide +kernel)

/-- Its number, and the state after it. -/
def issued : Nat × State := (issueOrder (credWon drawn.2 drawn.1)).get (by decide +kernel)

def task : Task := deleteTask start issued.2 0 7 name 0 drawn.1 issued.1 (0, name)

/-- The DELETE in flight. -/
def begun : State := issued.2.modTasks fun ts => ts ++ [task]

/-- The Field manager has been refused its map cache. -/
def refused : State := cacheRefusal (discardEntered begun 0 task) 0 0 .write

theorem deletesRecord : DeletesRecord start 0 7 name 0 drawn.1 issued.1 drawn.2 issued.2 (0, name) where
  takes := by decide +kernel
  fields := by decide +kernel
  lit := by decide +kernel
  mode := by decide +kernel
  field := by decide +kernel
  drawn := (Option.some_get (by decide +kernel)).symm
  asFua := by decide +kernel
  issued := (Option.some_get (by decide +kernel)).symm
  found := by decide +kernel
  space := by decide +kernel

theorem applyDiscard_refuses : applyDiscard begun 0 task = refused :=
  applyDiscard_refused (by decide +kernel) (by decide +kernel) (by decide +kernel)
    (mapTransfer_only_bank (by decide) (by decide +kernel) (by decide +kernel))

theorem refused_inScope : (answerTask refused task .good []).inScope 4 0 = true := by decide +kernel

theorem refused_response : (answerTask refused task .good []).response .a (.credential 0) = none := by decide +kernel

end LostDelete

/-- Refutes O25: the clause that a DELETE found, with space and no FUA, is answered. The unmapping of the record's units meets the map
cache that Field 0's manager lost; Field scope puts the Plot in Safelight, which detaches the function and drops its capsule. -/
theorem not_credentialOpcodesAreDecided : ¬ Obligations.CredentialOpcodesAreDecided := by
  intro h
  have hstart := LostDelete.deletesRecord
  obtain ⟨-, htaken⟩ := h LostDelete.start .a 0 7 LostDelete.name [] 0 false 0
  obtain ⟨-, -, hdelete, -⟩ := htaken hstart.takes
  obtain ⟨-, hfound⟩ := hdelete hstart.fields hstart.lit hstart.mode 0 hstart.field _ _ _ _ hstart.drawn hstart.issued
  obtain ⟨-, hroom⟩ := hfound _ hstart.found
  obtain ⟨hanswered, -⟩ := hroom (.inl hstart.space)
  obtain ⟨t, ht, hresponse, -⟩ := hanswered rfl (by decide +kernel)
  have hexec := exec_delete_found hstart (by decide +kernel)
  rw [ht] at hexec
  have hfield : runField t 0 = answerTask LostDelete.refused LostDelete.task .good [] := by
    refine (Host.Outcome.next.inj hexec).trans ?_
    show runField (answerTask (applyDiscard LostDelete.begun 0 LostDelete.task) LostDelete.task .good []) 0 = _
    rw [LostDelete.applyDiscard_refuses]
    exact runField_held LostDelete.refused_inScope
  rw [eq_of_runField_held LostDelete.refused_inScope hfield, LostDelete.refused_response] at hresponse
  cases hresponse

end Sys2Proof.Machine
end

section
/-! SCSI commands that draw nothing (R283, R290, R293, R294, R296, R298): what turns a command away, and the data and sense data
of Tables FNC-11 and FNC-12; O26, O27 and O28. -/

namespace Sys2Proof.Machine

section Answers

variable {s u : State} {c : Instr} {key : TaskKey} {tr : Transport} {st : ScsiStatus} {data : List Byte}

/-! ### Commands that end at once -/

/-- Two states differ in what the units keep for REQUEST SENSE and UNIT ATTENTION, and in how many free values have been drawn. -/
def OnlyKept (s u : State) : Prop :=
  { u with fn := s.fn, free := s.free } = s ∧
    { u.fn with results := s.fn.results, sense := s.fn.sense, attention := s.fn.attention } = s.fn

theorem OnlyKept.refl (s : State) : OnlyKept s s := ⟨rfl, rfl⟩
theorem onlyKept_dropSense (s : State) (key : TaskKey) : OnlyKept s (dropSense s key) := ⟨rfl, rfl⟩
theorem onlyKept_dropAttention : OnlyKept s (dropAttention (dropSense s key) key) := ⟨rfl, rfl⟩
theorem onlyKept_drawNat : OnlyKept s s.drawNat.2 := ⟨rfl, rfl⟩

/-- What is sent takes granules of a port's endpoints, whatever the functions keep and however many free values were drawn. -/
theorem sendIn_with (n k : Nat) (q : FnState) :
    sendIn { s with fn := q, free := k } key n = { sendIn s key n with fn := q, free := k } := by
  have hep : ∀ (u : State) p k' ep f, modEp { u with fn := q, free := k } p k' ep f = { modEp u p k' ep f with fn := q, free := k } := by
    intro u p k' ep f
    cases p <;> rfl
  unfold sendIn
  cases key.origin with
  | ring _ => rfl
  | port p =>
    have hemb : ({ s with fn := q, free := k } : State).embOf p key.plot = s.embOf p key.plot := by cases p <;> rfl
    have hport : ({ s with fn := q, free := k } : State).port p = s.port p := by cases p <;> rfl
    simp only [hemb, hport, hep]
    cases s.embOf p key.plot with
    | none => rfl
    | some k => dsimp only; split_ifs <;> rfl

/-- A command that is replied to in a state with other kept sense data ends at once and draws nothing. -/
theorem OnlyKept.answers (hu : OnlyKept s u) (h : exec c s = .next (replyScsi u key st data)) : Answers s c key st data := by
  obtain ⟨hrest, hfn⟩ := hu
  have htasks := congrArg FnState.tasks hfn
  refine ⟨_, h, ?_⟩
  cases ho : key.origin with
  | ring pos => exact ⟨u, hrest, htasks, by simp [replyScsi, ho]⟩
  | port p =>
    have hsend : sendIn u key data.length = { sendIn s key data.length with fn := u.fn, free := u.free } := by
      rw [← sendIn_with, ← hrest]
    simp only [replyScsi, ho, sendScsi, hsend]
    refine ⟨by simp [State.resultOf], ?_, ?_⟩
    · conv_rhs => rw [sendIn_eq]
      rw [sendIn_eq]
      rfl
    · simpa using hfn

/-! ### The gate (R208, R290, R294, R296) -/

/-- A command meets the gate of its logical unit before its own meaning. -/
def Gated (c : Instr) (key : TaskKey) (tr : Transport) (exempt keepsSense : Bool) (run : State → State) : Prop :=
  ∀ s, exec c s = .next (scsiGate s key tr exempt keepsSense run)

variable {exempt keeps : Bool} {run : State → State}

theorem Gated.not_presented (hc : Gated c key tr exempt keeps run) (h : s.presented key = false) : exec c s = .next s := by
  rw [hc s, scsiGate]
  simp [h]

theorem Gated.bad_iu (hc : Gated c key tr exempt keeps run) (h : s.presented key = true) (hbad : s.badIu key tr = true) :
    Answers s c key .invalidInfoUnit [] := by
  refine (OnlyKept.refl s).answers ?_
  rw [hc s, scsiGate]
  simp [h, hbad]

theorem Gated.overlapped (hc : Gated c key tr exempt keeps run) (h : s.presented key = true) (hiu : s.badIu key tr = false)
    (htag : ∃ x ∈ s.fn.tasks, x.key = key ∧ x.statusDue = true) : exec c s = .next (overlapTag s key) := by
  have hany : (s.fn.tasks.any fun t => t.key == key && t.statusDue) = true := by
    simpa [List.any_eq_true] using htag
  rw [hc s, scsiGate]
  simp [h, hiu, hany]

/-- A command that reaches its unit and passes the gate's last three checks. -/
theorem Gated.exempt_runs (hc : Gated c key tr true keeps run) (h : Reaches s key tr) :
    exec c s = .next (run (if keeps then s else dropSense s key)) := by
  have ⟨hpresented, hiu, _⟩ := h
  rw [hc s, scsiGate]
  simp [hpresented, hiu, h.no_overlap]

theorem Gated.clear_runs (hc : Gated c key tr false false run) (h : ScsiClear s key tr) : exec c s = .next (run (dropSense s key)) := by
  rw [hc s, scsiGate_clear h]

/-- The checks of the gate that INQUIRY, REPORT LUNS and REQUEST SENSE pass, in their order. -/
theorem Gated.last_checks (hc : Gated c key tr false false run) (h : Reaches s key tr) :
    exec c s = .next (
      if s.owesAttention key then replyScsi (dropAttention (dropSense s key) key) key (.check (senseOf 6 0x29 0x00)) []
      else if (s.plot key.plot).sanitize.isSome then replyScsi (dropSense s key) key (notReady 0x04 0x1B) []
      else if s.plotDark key.plot then replyScsi (dropSense s key) key (notReady 0x04 0x12) []
      else run (dropSense s key)) := by
  have ⟨hpresented, hiu, _⟩ := h
  rw [hc s, scsiGate]
  simp only [hpresented, hiu, h.no_overlap, Bool.not_true, Bool.false_eq_true, if_false]
  rfl

theorem Gated.owes_attention (hc : Gated c key tr false false run) (h : Reaches s key tr) (howes : s.owesAttention key = true) :
    exec c s = .next (replyScsi (dropAttention (dropSense s key) key) key (.check (senseOf 6 0x29 0x00)) []) := by
  rw [hc.last_checks h, if_pos howes]

theorem Gated.sanitizing (hc : Gated c key tr false false run) (h : Reaches s key tr) (howes : s.owesAttention key = false)
    (hs : (s.plot key.plot).sanitize.isSome = true) : Answers s c key (notReady 0x04 0x1B) [] := by
  refine (onlyKept_dropSense s key).answers ?_
  rw [hc.last_checks h, if_neg (by simp [howes]), if_pos hs]

theorem Gated.dark (hc : Gated c key tr false false run) (h : Reaches s key tr) (howes : s.owesAttention key = false)
    (hs : (s.plot key.plot).sanitize = none) (hdark : s.plotDark key.plot = true) : Answers s c key (notReady 0x04 0x12) [] := by
  refine (onlyKept_dropSense s key).answers ?_
  rw [hc.last_checks h, if_neg (by simp [howes]), if_neg (by simp [hs]), if_pos hdark]

/-- UNIT ATTENTION is reported once (R296). -/
theorem owesAttention_replied {st : ScsiStatus} (hc : exec c s = .next (replyScsi (dropAttention u key) key st data)) {p : Port}
    (ho : key.origin = .port p) : ∃ t, exec c s = .next t ∧ t.owesAttention key = false := by
  refine ⟨_, hc, ?_⟩
  have hsent : (replyScsi (dropAttention u key) key st data).fn.attention = (dropAttention u key).fn.attention := by
    have hfn := (sendIn_frame (s := dropAttention u key) (key := key) data.length).1
    simp only [replyScsi, ho, sendScsi, State.modFn, hfn]
  rw [State.owesAttention, hsent]
  simp [dropAttention, State.modFn, List.any_filter]

/-! ### Aborted commands (R22, R43) -/

/-- Two states differ in the tickets in use alone. -/
theorem settleTasks_tickets : { settleTasks s with arb := { (settleTasks s).arb with tickets := [] }, fn := s.fn } =
    { s with arb := { s.arb with tickets := [] } } := by
  refine (foldl_unchanged (fun v : State => ({ v with arb := { v.arb with tickets := [] }, fn := s.fn } : State)) _ (fun v t => ?_) _ _).trans rfl
  split <;> rfl

theorem settleTasks_tasks : ∃ ended : List Task, (∀ x ∈ ended, x.statusDue = false) ∧
    (settleTasks s).fn.tasks = s.fn.tasks.filter fun t => !ended.contains t := by
  refine ⟨_, fun x hx => ?_, (foldl_unchanged (·.fn.tasks) _ (fun v t => ?_) _ _).trans rfl⟩
  · have hdone := (List.mem_filter.mp hx).2
    simp only [Bool.and_eq_true, Bool.not_eq_true'] at hdone
    exact hdone.1.1.1
  · split <;> rfl

/-- An abort and the end of what it aborts change the commands, the tickets in use and the engines' queues. -/
theorem settled_abort_frame (sel : Task → Bool) :
    { settleTasks (abortTasks s sel) with fn := s.fn, arb := s.arb, engines := s.engines } = s ∧
      { (settleTasks (abortTasks s sel)).arb with tickets := s.arb.tickets } = s.arb := by
  have h := settleTasks_tickets (s := abortTasks s sel)
  have hrest := congrArg (fun v : State => ({ v with fn := s.fn, arb := s.arb, engines := s.engines } : State)) h
  have harb := congrArg (fun v : State => ({ v.arb with tickets := s.arb.tickets } : ArbState)) h
  exact ⟨hrest, harb⟩

/-- No command that was selected is due a status any more. -/
theorem settled_abort_ends (sel : Task → Bool) :
    ∀ x ∈ (settleTasks (abortTasks s fun t => sel t && t.statusDue)).fn.tasks, sel x = true → x.statusDue = false := by
  intro x hx hsel
  obtain ⟨ended, -, htasks⟩ := settleTasks_tasks (s := abortTasks s fun t => sel t && t.statusDue)
  rw [htasks] at hx
  obtain ⟨t, -, rfl⟩ := List.mem_map.mp (List.mem_filter.mp hx).1
  by_cases hdue : (sel t && t.statusDue) = true
  · rw [if_pos hdue]
  · rw [if_neg hdue] at hsel ⊢
    simpa [hsel] using hdue

/-- Every other command that is due a status stays as it is. -/
theorem settled_abort_keeps (sel : Task → Bool) :
    ∀ x ∈ s.fn.tasks, sel x = false → x.statusDue = true → x ∈ (settleTasks (abortTasks s fun t => sel t && t.statusDue)).fn.tasks := by
  intro x hx hsel hdue
  obtain ⟨ended, hended, htasks⟩ := settleTasks_tasks (s := abortTasks s fun t => sel t && t.statusDue)
  rw [htasks, List.mem_filter]
  refine ⟨List.mem_map.mpr ⟨x, hx, by simp [hsel]⟩, ?_⟩
  have hnot : x ∉ ended := fun h => by simp [hended x h] at hdue
  simpa using hnot

/-! ### The commands behind the gate -/

theorem gated_of_gatedKey (h : gatedKey c = some (key, tr)) : ∃ run, Gated c key tr false false run := by
  unfold gatedKey at h
  split at h <;> cases h <;> exact ⟨_, fun _ => rfl⟩

theorem gated_scsi (h : gatedKey c = some (key, tr) ∨ (∃ d a r, c = .requestSense ⟨key, tr, r⟩ d a) ∨
    (∃ e p a r, c = .inquiry ⟨key, tr, r⟩ e p a) ∨ (∃ x a r, c = .reportLuns ⟨key, tr, r⟩ x a)) :
    ∃ exempt keeps run, Gated c key tr exempt keeps run := by
  obtain h | ⟨d, a, r, rfl⟩ | ⟨e, p, a, r, rfl⟩ | ⟨x, a, r, rfl⟩ := h
  · obtain ⟨run, hrun⟩ := gated_of_gatedKey h
    exact ⟨false, false, run, hrun⟩
  · exact ⟨true, true, _, fun _ => rfl⟩
  · exact ⟨true, false, _, fun _ => rfl⟩
  · exact ⟨true, false, _, fun _ => rfl⟩

end Answers

/-- Settles O28: every SCSI command meets the gate, and each clause is one of its checks. -/
theorem scsiCommandsTurnedAway : Obligations.ScsiCommandsTurnedAway := by
  intro s c key tr
  refine ⟨fun hc => ?_, fun hc hreach => ?_⟩
  · obtain ⟨exempt, keeps, run, hgate⟩ := gated_scsi hc
    refine ⟨hgate.not_presented, hgate.bad_iu, fun hpresented hiu htag => ?_⟩
    refine ⟨_, hgate.overlapped hpresented hiu htag, (settled_abort_frame _).1, fun x hx hkey => ?_⟩
    exact settled_abort_ends (fun t => t.key == key) x hx (by simp [hkey])
  · obtain ⟨run, hgate⟩ := gated_of_gatedKey hc
    refine ⟨fun howes => ?_, hgate.sanitizing hreach, hgate.dark hreach⟩
    have hexec := hgate.owes_attention hreach howes
    exact ⟨onlyKept_dropAttention.answers hexec, fun p ho => owesAttention_replied hexec ho⟩

end Sys2Proof.Machine
end

section
/-! The SCSI commands of Table FNC-11 that draw nothing (R283, R290, R291, R293, R298); O26 and O27. -/

namespace Sys2Proof.Machine

section Information

variable {s : State} {c : Instr} {key : TaskKey} {tr : Transport} {r exempt keeps : Bool} {run : State → State} {st : ScsiStatus}
  {data : List Byte}

/-! ### A CDB with fields beyond its operands (Table FNC-12) -/

/-- A command meets the gate, and then the check of its reserved fields. -/
def Arrives (c : Instr) (key : TaskKey) (tr : Transport) (r exempt keeps : Bool) (run : State → State) : Prop :=
  ∀ s, exec c s = .next (arrived s ⟨key, tr, r⟩ exempt keeps run)

theorem Arrives.gated (hc : Arrives c key tr r exempt keeps run) :
    Gated c key tr exempt keeps fun s => if r then replyScsi s key (illegal 0x24 0x00) [] else run s := hc

theorem Arrives.clear_reserved (hc : Arrives c key tr true false false run) (h : ScsiClear s key tr) :
    Answers s c key (illegal 0x24 0x00) [] := (onlyKept_dropSense s key).answers (hc.gated.clear_runs h)

theorem Arrives.clear_runs (hc : Arrives c key tr false false false run) (h : ScsiClear s key tr) :
    exec c s = .next (run (dropSense s key)) := hc.gated.clear_runs h

theorem Gated.clear_answers (hc : Gated c key tr false false run) (h : ScsiClear s key tr)
    (hrun : run (dropSense s key) = replyScsi (dropSense s key) key st data) : Answers s c key st data :=
  (onlyKept_dropSense s key).answers (hrun ▸ hc.clear_runs h)

theorem Arrives.clear_answers (hc : Arrives c key tr false false false run) (h : ScsiClear s key tr)
    (hrun : run (dropSense s key) = replyScsi (dropSense s key) key st data) : Answers s c key st data :=
  (onlyKept_dropSense s key).answers (hrun ▸ hc.clear_runs h)

theorem Arrives.exempt_reserved (hc : Arrives c key tr true true keeps run) (h : Reaches s key tr) :
    Answers s c key (illegal 0x24 0x00) [] := by
  have hexec := hc.gated.exempt_runs h
  cases keeps
  · exact (onlyKept_dropSense s key).answers hexec
  · exact (OnlyKept.refl s).answers hexec

theorem Arrives.exempt_answers (hc : Arrives c key tr false true false run) (h : Reaches s key tr)
    (hrun : run (dropSense s key) = replyScsi (dropSense s key) key st data) : Answers s c key st data :=
  (onlyKept_dropSense s key).answers (hrun ▸ hc.gated.exempt_runs h)

/-! ### REQUEST SENSE (R290, R298) -/

/-- What REQUEST SENSE reports: the progress of a SANITIZE, else the kept sense data, else Dark or no sense. -/
theorem exec_requestSense (h : Reaches s key tr) (alloc : Nat) : exec (.requestSense ⟨key, tr, false⟩ false alloc) s = .next (
    if (s.plot key.plot).sanitize.isSome then
      goodData s.drawNat.2 key (senseBytes ⟨2, 0x04, 0x1B, none, some (s.drawNat.1 % 65536)⟩) alloc
    else ((s.fn.sense.find? fun e => sameUnit key e.origin e.plot).map fun e =>
        goodData (dropSense s key) key (senseBytes e.sense) alloc).getD
      (goodData s key (senseBytes (if s.plotDark key.plot then senseOf 2 0x04 0x12 else senseOf 0 0 0)) alloc)) := by
  refine (Gated.exempt_runs (fun _ => rfl) h).trans (congrArg Host.Outcome.next ?_)
  simp only [Bool.false_eq_true, if_false, if_true]
  congr 1
  cases s.fn.sense.find? fun e => sameUnit key e.origin e.plot with
  | some e => rfl
  | none => exact (apply_ite (fun e => goodData s key (senseBytes e) alloc) _ _ _).symm

theorem requestSense_refused (h : Reaches s key tr) (alloc : Nat) :
    Answers s (.requestSense ⟨key, tr, false⟩ true alloc) key (illegal 0x24 0x00) [] ∧
      ∀ d, Answers s (.requestSense ⟨key, tr, true⟩ d alloc) key (illegal 0x24 0x00) [] :=
  ⟨(onlyKept_dropSense s key).answers ((Gated.exempt_runs (fun _ => rfl) h).trans rfl), fun _ => Arrives.exempt_reserved (fun _ => rfl) h⟩

theorem requestSense_sanitizing (h : Reaches s key tr) (alloc : Nat) (hs : (s.plot key.plot).sanitize.isSome = true) :
    ∃ n < 65536, Answers s (.requestSense ⟨key, tr, false⟩ false alloc) key .good ((senseBytes ⟨2, 0x04, 0x1B, none, some n⟩).take alloc) := by
  refine ⟨s.drawNat.1 % 65536, Nat.mod_lt _ (by decide), (onlyKept_drawNat (s := s)).answers ?_⟩
  rw [exec_requestSense h, if_pos hs]
  rfl

theorem exec_requestSense_kept {e : KeptSense} (h : Reaches s key tr) (alloc : Nat) (hs : (s.plot key.plot).sanitize = none)
    (he : s.fn.sense.find? (fun e => sameUnit key e.origin e.plot) = some e) :
    exec (.requestSense ⟨key, tr, false⟩ false alloc) s =
      .next (replyScsi (dropSense s key) key .good ((senseBytes e.sense).take alloc)) := by
  rw [exec_requestSense h, if_neg (by simp [hs]), he]
  rfl

theorem requestSense_nothing_kept (h : Reaches s key tr) (alloc : Nat) (hs : (s.plot key.plot).sanitize = none)
    (he : s.fn.sense.find? (fun e => sameUnit key e.origin e.plot) = none) :
    Answers s (.requestSense ⟨key, tr, false⟩ false alloc) key .good
      ((senseBytes (if s.plotDark key.plot then senseOf 2 0x04 0x12 else senseOf 0 0 0)).take alloc) := by
  refine (OnlyKept.refl s).answers ?_
  rw [exec_requestSense h, if_neg (by simp [hs]), he]
  rfl

/-- A status without sense data leaves what the units keep. -/
theorem replyScsi_good_sense {p : Port} (ho : key.origin = .port p) : (replyScsi s key .good data).fn.sense = s.fn.sense := by
  have hfn := (sendIn_frame (s := s) (key := key) data.length).1
  simp only [replyScsi, ho, sendScsi, State.modFn, hfn]

/-- Fixed-format sense data (SPC; log 13). -/
theorem senseBytes_fixed (e : Sense) : (senseBytes e).length = 18 ∧
    (senseBytes e)[0]? = some (if e.info.isSome then 0xF0 else 0x70) ∧ (senseBytes e)[2]? = some (BitVec.ofNat 8 e.key) ∧
    (senseBytes e)[12]? = some (BitVec.ofNat 8 e.asc) ∧ (senseBytes e)[13]? = some (BitVec.ofNat 8 e.ascq) ∧
    ((senseBytes e).drop 3).take 4 = beBytes 4 (e.info.getD 0) := by
  have hhead : BitVec.ofNat 8 (0x70 + bitOf e.info.isSome 7) = if e.info.isSome then 0xF0 else 0x70 := by
    cases e.info.isSome <;> rfl
  cases hp : e.progress <;> simp [senseBytes, hp, beBytes, leBytes, hhead]

end Information

/-- Settles O27: what is in progress, kept or in force decides what REQUEST SENSE reports. -/
theorem requestSenseReports : Obligations.RequestSenseReports := by
  refine ⟨fun s key tr alloc h => ?_, senseBytes_fixed⟩
  obtain ⟨hdesc, hreserved⟩ := requestSense_refused h alloc
  refine ⟨hdesc, hreserved, requestSense_sanitizing h alloc, fun hs => ⟨fun e he => ?_, fun he => ?_⟩⟩
  · have hexec := exec_requestSense_kept h alloc hs he
    exact ⟨(onlyKept_dropSense s key).answers hexec, fun p ho => ⟨_, hexec, replyScsi_good_sense ho⟩⟩
  · have hanswers := requestSense_nothing_kept h alloc hs he
    exact ⟨fun hdark => by simpa [hdark] using hanswers, fun hdark => by simpa [hdark] using hanswers⟩

section Information

variable {s : State} {c : Instr} {key : TaskKey} {tr : Transport}

/-! ### INQUIRY and REPORT LUNS -/

theorem inquiry_answers (h : Reaches s key tr) :
    (∀ alloc page, page ≠ 0 → Answers s (.inquiry ⟨key, tr, false⟩ false page alloc) key (illegal 0x24 0x00) []) ∧
    (∀ alloc, Answers s (.inquiry ⟨key, tr, false⟩ false 0 alloc) key .good ((standardInquiry s key).take alloc)) ∧
    (∀ alloc page b, vpdBody s key page = some b → Answers s (.inquiry ⟨key, tr, false⟩ true page alloc) key .good
      (([0x00] ++ leBytes 1 page ++ beBytes 2 b.length ++ b).take alloc)) ∧
    (∀ alloc page, vpdBody s key page = none → Answers s (.inquiry ⟨key, tr, false⟩ true page alloc) key (illegal 0x24 0x00) []) := by
  refine ⟨fun alloc page hp => ?_, fun alloc => ?_, fun alloc page b hb => ?_, fun alloc page hb => ?_⟩ <;>
    refine Arrives.exempt_answers (fun _ => rfl) h ?_
  · exact if_pos hp
  · rfl
  · have hb' : vpdBody (dropSense s key) key page = some b := hb
    simp only [Bool.not_true, Bool.false_eq_true, if_false, hb']
    rfl
  · have hb' : vpdBody (dropSense s key) key page = none := hb
    simp only [Bool.not_true, Bool.false_eq_true, if_false, hb']

theorem vpdBody_none {page : Nat} (h : page ∉ [0x00, 0x80, 0x83, 0xB0, 0xB1, 0xB2]) : vpdBody s key page = none := by
  simp only [List.mem_cons, List.not_mem_nil, or_false, not_or] at h
  obtain ⟨h0, h1, h2, h3, h4, h5⟩ := h
  unfold vpdBody
  split
  · exact absurd rfl h0
  · exact absurd rfl h1
  · exact absurd rfl h2
  · exact absurd rfl h3
  · exact absurd rfl h4
  · exact absurd rfl h5
  · rfl

theorem reportLuns_answers (h : Reaches s key tr) (select alloc : Nat) :
    ((select = 0 ∨ select = 2) → 16 ≤ alloc → Answers s (.reportLuns ⟨key, tr, false⟩ select alloc) key .good
      ([0, 0, 0, 8, 0, 0, 0, 0, 0, 0, 0, 0, 0, 0, 0, 0].take alloc)) ∧
    ((select ≠ 0 ∧ select ≠ 2) ∨ alloc < 16 → Answers s (.reportLuns ⟨key, tr, false⟩ select alloc) key (illegal 0x24 0x00) []) := by
  refine ⟨fun hselect halloc => ?_, fun hbad => ?_⟩ <;> refine Arrives.exempt_answers (fun _ => rfl) h ?_
  · exact if_neg (by omega)
  · exact if_pos hbad

/-! ### What needs a unit with nothing in its way -/

theorem modePage_none {page : Nat} {changeable : Bool} (h8 : page ≠ 0x08) (hA : page ≠ 0x0A) (h3F : page ≠ 0x3F) :
    modePage page changeable = none := by
  unfold modePage
  split
  · exact absurd rfl h8
  · exact absurd rfl hA
  · exact absurd rfl h3F
  · rfl

theorem modeSense_refused (h : ScsiClear s key tr) :
    (∀ page alloc, Answers s (.modeSense10 ⟨key, tr, false⟩ 3 page alloc) key (illegal 0x39 0x00) []) ∧
    (∀ pc page alloc, pc ≠ 3 → modePage page (pc == 1) = none →
      Answers s (.modeSense10 ⟨key, tr, false⟩ pc page alloc) key (illegal 0x24 0x00) []) := by
  refine ⟨fun page alloc => ?_, fun pc page alloc hpc hpage => ?_⟩ <;> refine Arrives.clear_answers (fun _ => rfl) h ?_
  · rfl
  · simp only [hpc, if_false, hpage]

theorem securityProtocolIn_answers (h : ScsiClear s key tr) :
    (∀ alloc, Answers s (.securityProtocolIn ⟨key, tr, false⟩ 0x00 0 alloc) key .good ([0, 0, 0, 0, 0, 0, 0, 2, 0x00, 0xF0].take alloc)) ∧
    (∀ q w alloc, ¬(q = 0x00 ∧ w = 0) → ¬(q = 0xF0 ∧ w = 1) →
      Answers s (.securityProtocolIn ⟨key, tr, false⟩ q w alloc) key (illegal 0x24 0x00) []) := by
  refine ⟨fun alloc => ?_, fun q w alloc h0 h1 => ?_⟩ <;> refine Arrives.clear_answers (fun _ => rfl) h ?_
  · rfl
  · rw [if_neg h0, if_neg h1]

/-! ### The master's Plots: forwarded, with free values for what a member cannot know (log 75) -/

theorem modeSense_forwarded (h : ScsiClear s key tr) (hr : isRemote key = true) {pc page : Nat} (alloc : Nat) {b : List Byte} (hpc : pc ≠ 3)
    (hpage : modePage page (pc == 1) = some b) : ∃ wp ∈ [0x10#8, 0x90#8],
      exec (.modeSense10 ⟨key, tr, false⟩ pc page alloc) s = .next (forwardPlain (dropSense s key).drawBool.2 key
        (padTo 0 16 (leBytes 1 0x5A ++ [0] ++ leBytes 1 (64 * pc + page) ++ [0, 0, 0, 0] ++ beBytes 2 alloc))
        ((beBytes 2 (6 + b.length) ++ [0x00, wp, 0, 0, 0, 0] ++ b).take alloc)) := by
  refine ⟨BitVec.ofNat 8 (bitOf (dropSense s key).drawBool.1 7 + 0x10), ?_, (Arrives.clear_runs (fun _ => rfl) h).trans (congrArg Host.Outcome.next ?_)⟩
  · cases (dropSense s key).drawBool.1 <;> decide
  · simp [hpc, hpage, hr, leBytes]

theorem securityProtocolIn_forwarded (h : ScsiClear s key tr) (hr : isRemote key = true) (alloc : Nat) :
    ∃ st he re rk, (st = PlotMode.open_.code ∨ st = PlotMode.readOnly.code) ∧ he < 3 ∧
      exec (.securityProtocolIn ⟨key, tr, false⟩ 0xF0 1 alloc) s = .next (forwardPlain (dropSense s key).drawBool.2.drawNat.2.drawNat.2 key
        (leBytes 1 0xA2 ++ leBytes 1 0xF0 ++ beBytes 2 1 ++ [0, 0] ++ beBytes 4 alloc) ((securityBytes st he re rk).take alloc)) := by
  let u := (dropSense s key).drawBool.2
  refine ⟨if (dropSense s key).drawBool.1 then PlotMode.readOnly.code else PlotMode.open_.code, u.drawNat.1 % 3, u.drawNat.1 / 3,
    u.drawNat.2.drawNat.1 % 2 ^ 20, ?_, Nat.mod_lt _ (by decide), (Arrives.clear_runs (fun _ => rfl) h).trans (congrArg Host.Outcome.next ?_)⟩
  · cases (dropSense s key).drawBool.1
    · exact .inl rfl
    · exact .inr rfl
  · dsimp only
    rw [hr]
    rfl

theorem plain_forwarded (h : ScsiClear s key tr) (hr : isRemote key = true) :
    let u := dropSense s key
    exec (.testUnitReady ⟨key, tr, false⟩) s = .next (forwardPlain u key [0x00] []) ∧
    exec (.startStopUnitStart ⟨key, tr, false⟩ 0) s = .next (forwardPlain u key [0x1B, 0, 0, 0, 1, 0] []) ∧
    exec (.readCapacity10 ⟨key, tr, false⟩) s = .next (forwardPlain (u.drawBytes 4).2 key (cdb10 0x25 0 0 0) ((u.drawBytes 4).1 ++ beBytes 4 4096)) ∧
    (∀ alloc, exec (.readCapacity16 ⟨key, tr, false⟩ alloc) s = .next (forwardPlain (u.drawBytes 8).2 key (cdb16 0x9E 0x10 0 alloc)
      (((u.drawBytes 8).1 ++ beBytes 4 4096 ++ [0x00] ++ leBytes 1 (grainExp (s.grainOf key.plot)) ++ [0xC0, 0x00] ++ List.replicate 16 0).take alloc))) := by
  refine ⟨?_, ?_, ?_, fun alloc => ?_⟩ <;>
    refine (Arrives.clear_runs (fun _ => rfl) h).trans (congrArg Host.Outcome.next ?_) <;> dsimp only <;> rw [if_pos hr] <;> rfl

/-! ### This device's Plots -/

theorem plain_answers (h : ScsiClear s key tr) (hr : isRemote key = false) :
    Answers s (.startStopUnitStart ⟨key, tr, false⟩ 0) key .good [] ∧ Answers s (.testUnitReady ⟨key, tr, false⟩) key .good [] := by
  refine ⟨?_, ?_⟩ <;> refine Arrives.clear_answers (fun _ => rfl) h ?_ <;> dsimp only <;> rw [hr] <;> rfl

theorem readCapacity_answers (h : ScsiClear s key tr) (hr : isRemote key = false) :
    Answers s (.readCapacity10 ⟨key, tr, false⟩) key .good (beBytes 4 (min 0xFFFFFFFF (s.capacityOf key.plot - 1)) ++ beBytes 4 4096) ∧
    (∀ alloc, Answers s (.readCapacity16 ⟨key, tr, false⟩ alloc) key .good ((beBytes 8 (s.capacityOf key.plot - 1) ++ beBytes 4 4096 ++ [0x00] ++
      leBytes 1 (grainExp (s.grainOf key.plot)) ++ [0xC0, 0x00] ++ List.replicate 16 0).take alloc)) := by
  refine ⟨?_, fun alloc => ?_⟩ <;> refine Arrives.clear_answers (fun _ => rfl) h ?_ <;> dsimp only <;> rw [hr] <;> rfl

theorem modeSense_answers (h : ScsiClear s key tr) (hr : isRemote key = false) {pc page : Nat} (alloc : Nat) {b : List Byte} (hpc : pc ≠ 3)
    (hpage : modePage page (pc == 1) = some b) : Answers s (.modeSense10 ⟨key, tr, false⟩ pc page alloc) key .good
      ((beBytes 2 (6 + b.length) ++ [0x00, if (s.plot key.plot).mode = PlotMode.readOnly then 0x90 else 0x10, 0, 0, 0, 0] ++ b).take alloc) := by
  refine Arrives.clear_answers (fun _ => rfl) h ?_
  have hplot : (dropSense s key).plot key.plot = s.plot key.plot := rfl
  have hwp : BitVec.ofNat 8 (bitOf (decide ((s.plot key.plot).mode = PlotMode.readOnly)) 7 + 0x10) =
      if (s.plot key.plot).mode = PlotMode.readOnly then 0x90 else 0x10 := by
    by_cases hro : (s.plot key.plot).mode = PlotMode.readOnly <;> simp [hro, bitOf]
  simp [hpc, hpage, hr, hplot, leBytes, hwp, goodData]

theorem securityProtocolIn_state (h : ScsiClear s key tr) (hr : isRemote key = false) (alloc : Nat) :
    Answers s (.securityProtocolIn ⟨key, tr, false⟩ 0xF0 1 alloc) key .good
      (([BitVec.ofNat 8 (s.plot key.plot).mode.code, BitVec.ofNat 8 (s.plot key.plot).health,
         BitVec.ofNat 8 (s.retryLimit key.plot - (s.plot key.plot).record.retry), 0] ++ beBytes 4 (s.plot key.plot).record.rekeys).take alloc) := by
  refine Arrives.clear_answers (fun _ => rfl) h ?_
  dsimp only
  rw [hr]
  rfl

end Information

/-- Settles O26: each command passes the gate, then the check of its reserved fields, and then has a meaning of its own. -/
theorem scsiInformationCommands : Obligations.ScsiInformationCommands := by
  intro s key tr
  refine ⟨fun h => ?_, fun h => ?_⟩
  · obtain ⟨hpage, hstandard, hvpd, hnone⟩ := inquiry_answers h
    refine ⟨fun c hc => ?_, hpage, hstandard, hvpd, fun alloc page hp => hnone alloc page (vpdBody_none hp),
      fun select alloc => (reportLuns_answers h select alloc).1, fun select alloc => (reportLuns_answers h select alloc).2⟩
    obtain ⟨evpd, page, alloc, rfl⟩ | ⟨select, alloc, rfl⟩ := hc <;> exact Arrives.exempt_reserved (fun _ => rfl) h
  · obtain ⟨hsaved, hpage⟩ := modeSense_refused h
    obtain ⟨hlist, hprotocol⟩ := securityProtocolIn_answers h
    refine ⟨fun op r => Gated.clear_answers (fun _ => rfl) h rfl, fun c hc => ?_,
      fun pc hpc => Arrives.clear_answers (fun _ => rfl) h (if_pos hpc), hsaved,
      fun pc page alloc hpc h8 hA h3F => hpage pc page alloc hpc (modePage_none h8 hA h3F), hlist, hprotocol, fun hr => ?_, fun hr => ?_⟩
    · obtain rfl | rfl | ⟨_, rfl⟩ | ⟨_, rfl⟩ | ⟨_, _, _, rfl⟩ | ⟨_, _, _, rfl⟩ := hc <;>
        exact Arrives.clear_reserved (fun _ => rfl) h
    · obtain ⟨hready, hstart, hcap10, hcap16⟩ := plain_forwarded h hr
      exact ⟨hready, hstart, hcap10, hcap16, fun _ _ alloc _ hpc hb => modeSense_forwarded h hr alloc hpc hb,
        securityProtocolIn_forwarded h hr⟩
    · obtain ⟨hstart, hready⟩ := plain_answers h hr
      obtain ⟨hcap10, hcap16⟩ := readCapacity_answers h hr
      exact ⟨hstart, hready, hcap10, hcap16, fun _ _ alloc _ hpc hb => modeSense_answers h hr alloc hpc hb, securityProtocolIn_state h hr⟩

end Sys2Proof.Machine
end

section
/-! Flushes, UNMAP and SANITIZE (R286 to R292, R347, R355); O31, O32 and O33. -/

namespace Sys2Proof.Machine

section Flushes

variable {s : State} {c : Instr} {key : TaskKey} {tr : Transport} {lba count : Nat} {immed : Bool} {fl : CdbFlags} {cdb : List Byte}

/-! ### SYNCHRONIZE CACHE and START STOP UNIT with START = 0 (R286, R291, R292) -/

/-- A command is a SYNCHRONIZE CACHE, forwarded as `cdb` when it is for the master's Plot. -/
def IsSync (c : Instr) (key : TaskKey) (tr : Transport) (lba count : Nat) (immed : Bool) (fl : CdbFlags) (cdb : List Byte) : Prop :=
  ∀ s, exec c s = .next (syncCache s key tr lba count immed fl cdb)

theorem isSync_10 (a : BitVec 32) (n : BitVec 16) :
    IsSync (.synchronizeCache10 key tr a n immed fl) key tr a.toNat n.toNat immed fl (cdb10 0x35 0 a.toNat n.toNat) := fun _ => rfl

theorem isSync_16 (a : BitVec 64) (n : BitVec 32) :
    IsSync (.synchronizeCache16 key tr a n immed fl) key tr a.toNat n.toNat immed fl (cdb16 0x91 0 a.toNat n.toNat) := fun _ => rfl

theorem IsSync.bad_field (hc : IsSync c key tr lba count immed fl cdb) (h : ScsiClear s key tr) (hbad : immed = true ∨ flagsBad fl = true) :
    Answers s c key (illegal 0x24 0x00) [] := Gated.clear_answers hc h (if_pos hbad)

theorem IsSync.beyond (hc : IsSync c key tr lba count false fl cdb) (h : ScsiClear s key tr) (hfl : flagsBad fl = false)
    (hr : isRemote key = false) (hrange : s.capacityOf key.plot < lba + count) : Answers s c key (illegal 0x21 0x00) [] := by
  refine Gated.clear_answers hc h ?_
  rw [if_neg (by simp [hfl]), if_pos ⟨by simp [hr], hrange⟩]

theorem IsSync.flushes (hc : IsSync c key tr lba count false fl cdb) (h : ScsiClear s key tr) (hfl : flagsBad fl = false)
    (hrange : isRemote key = false → lba + count ≤ s.capacityOf key.plot) :
    exec c s = .next (flushPlot (dropSense s key) key tr cdb) := by
  have hwithin : ¬ ((!isRemote key) = true ∧ (dropSense s key).capacityOf key.plot < lba + count) := fun ⟨hr, hlt⟩ =>
    absurd hlt (Nat.not_lt.mpr (hrange (by simpa using hr)))
  refine (Gated.clear_runs hc h).trans (congrArg Host.Outcome.next ?_)
  rw [if_neg (by simp [hfl]), if_neg hwithin]

theorem stop_bad_field {pc : Nat} {r : Bool} (h : ScsiClear s key tr) (hbad : pc ≠ 0 ∨ r = true) :
    Answers s (.startStopUnitStop key ⟨tr, r⟩ pc) key (illegal 0x24 0x00) [] := by
  cases r
  · exact Arrives.clear_answers (fun _ => rfl) h (if_pos (by simpa using hbad))
  · exact Arrives.clear_reserved (fun _ => rfl) h

theorem stop_flushes (h : ScsiClear s key tr) :
    exec (.startStopUnitStop key ⟨tr, false⟩ 0) s = .next (flushPlot (dropSense s key) key tr [0x1B]) :=
  (Arrives.clear_runs (fun _ => rfl) h).trans rfl

theorem flushPlot_forwarded (hr : isRemote key = true) :
    flushPlot s key tr cdb = forwardScsi s cdb [] (newTask key (some tr) .flush 0 0 false) := if_pos hr

/-! ### The grant of a flush (R40, R41) -/

variable {t : Task} {f : Nat}

/-- Nothing refuses a flush at its grant: neither its Plot's state nor the end of the order numbers. -/
theorem grantRefusal_flush (hs : (s.plot t.key.plot).sanitize = none) (hd : s.plotDark t.key.plot = false) (hk : t.kind = .flush) :
    s.grantRefusal t = none := by
  simp [State.grantRefusal, hs, hd, hk]

/-- A command with the order number of its grant, as it joins the commands in flight. -/
def orderedTask (s : State) (t : Task) (order : Option Nat) (since : Nat) : Task :=
  { t with held := false, durable := s.asFua, order := order, since := since }

theorem beginTask_flush {m : Nat} {v : State} (hk : t.kind = .flush) (hf : s.fieldOf t.key.plot = some f) (hr : s.grantRefusal t = none)
    (hm : issueOrder s = some (m, v)) :
    let w := orderedTask s t (some m) (v.field f).rseqNext
    beginTask s t = beginFlush (v.modTasks fun ts => ts ++ [w]) f w := by
  have hr' : s.grantRefusal { t with held := false, durable := s.asFua } = none := hr
  simp only [beginTask, hf, hr', hm]
  rw [if_neg (by simp [hk]), if_neg (by simp [State.noSpace, hk])]
  simp only [hk, orderedTask]

theorem beginTask_flush_no_order (hk : t.kind = .flush) (hf : s.fieldOf t.key.plot = some f) (hr : s.grantRefusal t = none)
    (hm : issueOrder s = none) :
    let w := { t with held := false, durable := s.asFua }
    beginTask s t = beginFlush (s.modTasks fun ts => ts ++ [w]) f w := by
  have hr' : s.grantRefusal { t with held := false, durable := s.asFua } = none := hr
  simp only [beginTask, hf, hr', hm]
  rw [if_neg (by simp [hk]), if_pos hk]

theorem beginFlush_numbered {n : Nat} (hn : t.order = some n) :
    beginFlush s f t = if flushIdle (s.field f) (s.fenv f) n then answerTask s t .good []
      else develop (s.modField f fun fs => { fs with waiters := fs.waiters ++ [⟨t.key, n, none⟩] }) f (below n) := by
  simp only [beginFlush, hn]

/-- A granted flush refuses nothing that the state it arrived in did not. -/
theorem grantRefusal_flush_drawn {id k : Nat} {u : State} (h : ScsiClear s t.key tr) (hk : t.kind = .flush)
    (hd : drawTicket (dropSense s t.key) k = some (id, u)) (g : Grant) : (noteGrant u g).grantRefusal t = none := by
  obtain ⟨-, -, hsanitize, hdark⟩ := h
  obtain ⟨a, rfl, -, -⟩ := drawTicket_eq hd
  exact grantRefusal_flush hsanitize hdark hk

/-- A flush of this device's Plot that draws a ticket, with a number and without one. -/
theorem flushPlot_granted {id : Nat} {u : State} (h : ScsiClear s key tr) (hr : isRemote key = false) (hf : s.fieldOf key.plot = some f)
    (hd : drawTicket (dropSense s key) key.origin.cls = some (id, u)) :
    let t0 := newTask key (some tr) .flush 0 0 false
    let w := noteGrant u (t0.grant u id)
    let t := { t0 with ticket := some id, durable := s.asFua }
    (∀ m v, issueOrder w = some (m, v) →
      let t1 := { t with order := some m, since := (v.field f).rseqNext }
      m = s.arb.ordNext ∧ v.arb.ordNext = s.arb.ordNext + 1 ∧
        flushPlot (dropSense s key) key tr cdb = beginFlush (v.modTasks fun ts => ts ++ [t1]) f t1) ∧
    (issueOrder w = none → flushPlot (dropSense s key) key tr cdb = beginFlush (w.modTasks fun ts => ts ++ [t]) f t) := by
  intro t0 w t
  have hstart : flushPlot (dropSense s key) key tr cdb = beginTask w { t0 with ticket := some id } := by
    rw [flushPlot, if_neg (by simp [hr])]
    exact startTask_drawn hd
  have hrefusal : w.grantRefusal { t0 with ticket := some id } = none := grantRefusal_flush_drawn (t := t0) h rfl hd _
  obtain ⟨hfua, hfield, hnext⟩ := granted_facts hd (t0.grant u id)
  refine ⟨fun m v hm => ?_, fun hm => ?_⟩
  · obtain ⟨hnumber, hafter⟩ := issueOrder_next hm
    refine ⟨hnumber.trans hnext, hafter.trans (congrArg (· + 1) hnext), ?_⟩
    rw [hstart, beginTask_flush (t := { t0 with ticket := some id }) rfl ((hfield _).trans hf) hrefusal hm, orderedTask, hfua]
    rfl
  · rw [hstart, beginTask_flush_no_order (t := { t0 with ticket := some id }) rfl ((hfield _).trans hf) hrefusal hm, hfua]
    rfl

end Flushes

/-- Settles O31: each of the three commands is a flush of its Plot once its own fields pass, and nothing refuses a flush at its
grant. -/
theorem flushesAreGranted : Obligations.FlushesAreGranted := by
  intro s c key tr h
  refine ⟨⟨?_, ?_, ?_, ?_, ?_⟩, fun hr cdb hc => ?_, fun hr => ⟨?_, ?_, fun hc f id u hf hd => ?_⟩⟩
  · rintro a n fl rfl
    exact (isSync_10 a n).bad_field h (.inl rfl)
  · rintro a n fl rfl
    exact (isSync_16 a n).bad_field h (.inl rfl)
  · rintro a n i fl rfl hfl
    exact (isSync_10 a n).bad_field h (.inr hfl)
  · rintro a n i fl rfl hfl
    exact (isSync_16 a n).bad_field h (.inr hfl)
  · rintro pc r rfl hbad
    exact stop_bad_field h hbad
  · have hflush : exec c s = .next (flushPlot (dropSense s key) key tr cdb) := by
      obtain ⟨a, n, fl, rfl, hfl, rfl⟩ | ⟨a, n, fl, rfl, hfl, rfl⟩ | ⟨rfl, rfl⟩ := hc
      · exact (isSync_10 a n).flushes h hfl (by simp [hr])
      · exact (isSync_16 a n).flushes h hfl (by simp [hr])
      · exact stop_flushes h
    rw [hflush, flushPlot_forwarded hr]
  · rintro a n fl rfl hfl hrange
    exact (isSync_10 a n).beyond h hfl hr hrange
  · rintro a n fl rfl hfl hrange
    exact (isSync_16 a n).beyond h hfl hr hrange
  · obtain ⟨cdb, hflush⟩ : ∃ cdb, exec c s = .next (flushPlot (dropSense s key) key tr cdb) := by
      obtain ⟨a, n, fl, rfl, hfl, hrange⟩ | ⟨a, n, fl, rfl, hfl, hrange⟩ | rfl := hc
      · exact ⟨_, (isSync_10 a n).flushes h hfl fun _ => hrange⟩
      · exact ⟨_, (isSync_16 a n).flushes h hfl fun _ => hrange⟩
      · exact ⟨_, stop_flushes h⟩
    obtain ⟨hnumbered, hunnumbered⟩ := flushPlot_granted (cdb := cdb) h hr hf hd
    refine ⟨fun m v hm => ?_, fun hm => hflush.trans (congrArg _ (hunnumbered hm))⟩
    obtain ⟨hnumber, hnext, hbegins⟩ := hnumbered m v hm
    have hexec := hflush.trans (congrArg Host.Outcome.next (hbegins.trans (beginFlush_numbered rfl)))
    exact ⟨hnumber, hnext, fun hidle => hexec.trans (congrArg _ (if_pos hidle)),
      fun hidle => hexec.trans (congrArg _ (if_neg (ne_true_of_eq_false hidle)))⟩

section Unmap

variable {s : State} {key : TaskKey} {tr : Transport} {t : Task} {ok : Bool} {ds : List UnmapDesc}

/-! ### UNMAP (R287, R288) -/

/-- The descriptors that name a block. -/
def namedDescs (ds : List UnmapDesc) : List UnmapDesc := ds.filter fun d => d.count != 0

/-- The state once the command no longer waits for its parameter list. -/
def listTaken (s : State) (key : TaskKey) : State := s.modTasks fun ts => ts.filter fun x => !(x.key == key && x.intake)

theorem unmap_answers {anchor : Bool} {n : Nat} {fl : CdbFlags} (h : ScsiClear s key tr) :
    (anchor = true ∨ flagsBad fl = true → Answers s (.unmap key tr anchor n fl) key (illegal 0x24 0x00) []) ∧
    (anchor = false → flagsBad fl = false → n = 0 → Answers s (.unmap key tr anchor n fl) key .good []) := by
  refine ⟨fun hbad => Gated.clear_answers (fun _ => rfl) h (if_pos hbad), ?_⟩
  rintro rfl hfl rfl
  refine Gated.clear_answers (fun _ => rfl) h ?_
  rw [if_neg (by simp [hfl]), if_pos rfl]
  rfl

theorem unmap_waits {n : Nat} {fl : CdbFlags} (h : ScsiClear s key tr) (hfl : flagsBad fl = false) (hn : 0 < n) :
    exec (.unmap key tr false n fl) s =
      .next ((dropSense s key).modTasks fun ts => ts ++ [{ newTask key (some tr) .discard 0 0 false with intake := true }]) := by
  refine (Gated.clear_runs (fun _ => rfl) h).trans (congrArg Host.Outcome.next ?_)
  dsimp only
  rw [if_neg (by simp [hfl]), if_neg (by omega)]

/-- A command waits for its parameter list. -/
def AwaitsList (s : State) (key : TaskKey) (t : Task) : Prop := s.fn.tasks.find? (fun t => t.key == key && t.intake && t.statusDue) = some t

theorem exec_parameterList (h : AwaitsList s key t) :
    exec (.unmapParameterList key ok ds) s = .next (unmapDecide (listTaken s key) { t with intake := false } ok ds) := by
  have hexec : exec (.unmapParameterList key ok ds) s = .next (match s.fn.tasks.find? fun t => t.key == key && t.intake && t.statusDue with
    | none => s
    | some t => unmapDecide (listTaken s key) { t with intake := false } ok ds) := rfl
  rw [hexec, h]

theorem AwaitsList.key_eq (h : AwaitsList s key t) : t.key = key := by
  have hfound := List.find?_some h
  simp only [Bool.and_eq_true, beq_iff_eq] at hfound
  exact hfound.1.1

/-- The decision on a list, check by check; the state is read through what the wait's end leaves. -/
theorem exec_parameterList_checks (h : AwaitsList s key t) :
    exec (.unmapParameterList key ok ds) s = .next (
      if (s.plot key.plot).sanitize.isSome then replyScsi (listTaken s key) key (notReady 0x04 0x1B) []
      else if s.plotDark key.plot then replyScsi (listTaken s key) key (notReady 0x04 0x12) []
      else if !ok ∨ 4095 < ds.length then replyScsi (listTaken s key) key (illegal 0x26 0x00) []
      else if isRemote key then
        (if (namedDescs ds).isEmpty then good (listTaken s key) key
         else forwardScsi (listTaken s key) (cdb10 0x42 0 0 (8 + 16 * ds.length)) (unmapList ds) { t with intake := false, kind := .flush })
      else if (namedDescs ds).any fun d => decide (s.capacityOf key.plot < d.lba + d.count) then
        replyScsi (listTaken s key) key (illegal 0x21 0x00) []
      else if (namedDescs ds).isEmpty then good (listTaken s key) key
      else ((s.protects key.plot .discard).map fun st => replyScsi (listTaken s key) key st []).getD
        (startTask (listTaken s key) { t with intake := false, descs := (namedDescs ds).map fun d => (d.lba, d.count) })) := by
  rw [exec_parameterList h]
  have hkey := h.key_eq
  subst hkey
  refine congrArg Host.Outcome.next ?_
  have hprotects : (listTaken s t.key).protects t.key.plot .discard = s.protects t.key.plot .discard := rfl
  simp only [unmapDecide, hprotects]
  cases s.protects t.key.plot .discard <;> rfl

end Unmap

/-- Settles O32: the list is decided check by check, in the order of R287. -/
theorem unmapTakesItsListFirst : Obligations.UnmapTakesItsListFirst := by
  intro s key
  refine ⟨fun tr h anchor n fl => ?_, fun hnone ok ds => ?_, fun t ht => ?_, fun t ht hs hd hr => ?_, fun t ht hs hd hr => ?_⟩
  · obtain ⟨hbad, hempty⟩ := unmap_answers h
    refine ⟨hbad, hempty, ?_⟩
    rintro rfl hfl hn
    exact unmap_waits h hfl hn
  · have hexec : exec (.unmapParameterList key ok ds) s =
        .next (match s.fn.tasks.find? fun t => t.key == key && t.intake && t.statusDue with
          | none => s
          | some t => unmapDecide (listTaken s key) { t with intake := false } ok ds) := rfl
    rw [hexec, hnone]
  · intro u ok ds
    have hexec := exec_parameterList_checks (ok := ok) (ds := ds) ht
    refine ⟨fun hs => ?_, fun hs hd => ?_⟩
    · rw [hexec, if_pos hs]
      rfl
    · rw [hexec, if_neg (by simp [hs]), if_pos hd]
      rfl
  · intro u ok ds todo outside
    have hexec := exec_parameterList_checks (ok := ok) (ds := ds) ht
    rw [if_neg (by simp [hs]), if_neg (by simp [hd])] at hexec
    refine ⟨fun hbad => ?_, fun hok hlen => ?_⟩
    · rw [hexec, if_pos (by simpa using hbad)]
      rfl
    rw [if_neg (by simp [hok, Nat.not_lt.mpr hlen]), if_neg (by simp [hr])] at hexec
    refine ⟨fun hout => hexec.trans (congrArg _ (if_pos hout)), fun hout hempty => ?_, fun hout hsome => ?_⟩ <;>
      replace hexec := hexec.trans (congrArg _ (if_neg (ne_true_of_eq_false hout)))
    · exact hexec.trans (congrArg _ (if_pos (List.isEmpty_iff.mpr hempty)))
    replace hexec := hexec.trans (congrArg _ (if_neg fun hempty => hsome (List.isEmpty_iff.mp hempty)))
    refine ⟨fun st hst => ?_, fun hst => ?_⟩ <;> rw [hexec, hst] <;> rfl
  · intro u ok ds
    have hexec := exec_parameterList_checks (ok := ok) (ds := ds) ht
    rw [if_neg (by simp [hs]), if_neg (by simp [hd])] at hexec
    refine ⟨fun hbad => ?_, fun hok hlen => ?_⟩
    · rw [hexec, if_pos (by simpa using hbad)]
      rfl
    rw [if_neg (by simp [hok, Nat.not_lt.mpr hlen]), if_pos hr] at hexec
    refine ⟨fun hempty => ?_, fun hsome => ?_⟩
    · rw [hexec, if_pos (by simpa [namedDescs] using hempty)]
      rfl
    · rw [hexec, if_neg (by simpa [namedDescs] using hsome)]
      rfl

end Sys2Proof.Machine
end

section
/-! SANITIZE (R290, R347, R355); O33. -/

namespace Sys2Proof.Machine

section Sanitize

variable {s : State} {key : TaskKey} {tr : Transport} {t : Task} {f : Nat} {immed : Bool}

/-! ### What an answer and an order number leave to the Plots -/

theorem respond_plots_arb (p : Port) (fn : CapsuleFn) (r : Response) :
    (respond s p fn r).plots = s.plots ∧ (respond s p fn r).arb = s.arb := by
  cases p <;> exact ⟨rfl, rfl⟩

theorem ringSend_plots_arb (ty dest tag : Nat) (resp : Bool) (payload : List Byte) :
    (ringSend s ty dest tag resp payload).plots = s.plots ∧ (ringSend s ty dest tag resp payload).arb = s.arb := by
  rw [ringSend_eq]
  exact ⟨rfl, rfl⟩

theorem sendScsi_plots_arb (st : ScsiStatus) (data : List Byte) :
    (sendScsi s key st data).plots = s.plots ∧ (sendScsi s key st data).arb = s.arb := by
  unfold sendScsi
  rw [sendIn_eq]
  exact ⟨rfl, rfl⟩

/-- A SANITIZE that is answered leaves the Plots and the arbiter. -/
theorem answerTask_plots_arb (hk : t.kind = .sanitize) (st : ScsiStatus) (data : List Byte) :
    (answerTask s t st data).plots = s.plots ∧ (answerTask s t st data).arb = s.arb := by
  unfold answerTask
  split
  · exact ⟨rfl, rfl⟩
  · split
    · exact respond_plots_arb _ _ _
    · exact sendScsi_plots_arb _ _
    · rw [if_neg (by simp [hk]), if_neg (by simp [hk])]
      exact ringSend_plots_arb _ _ _ _ _

theorem queueEvent_plots (p : Port) (kind inst d0 d1 : Nat) : (queueEvent s p kind inst d0 d1).plots = s.plots := by
  unfold queueEvent
  split <;> simp

theorem setPlotMode_plots_length (n : Nat) (m : PlotMode) (reason : Nat) : (setPlotMode s n m reason).plots.length = s.plots.length := by
  simp only [setPlotMode]
  split
  · rfl
  · refine (congrArg List.length (foldl_unchanged State.plots _ (fun _ _ => queueEvent_plots _ _ _ _ _) _ _)).trans ?_
    simp

theorem issueOrder_plots_length {m : Nat} {v : State} (h : issueOrder s = some (m, v)) : v.plots.length = s.plots.length := by
  unfold issueOrder at h
  split at h
  · cases h
  · dsimp only at h
    split at h <;> cases h
    · refine (foldl_unchanged (·.plots.length) _ (fun u n => ?_) _ _).trans rfl
      split
      · simpa using setPlotMode_plots_length _ _ _
      · rfl
    · rfl

/-! ### The grant of a SANITIZE (R290, R355) -/

/-- The Plot's crypto-erase as it begins at the grant of `t` with number `m`. -/
def eraseBegun (v : State) (t : Task) (m : Nat) : State :=
  (v.modTasks fun ts => ts ++ [t]).modPlot t.key.plot fun p => { p with sanitize := some ⟨t.key, decide (t.mode = 1), m⟩ }

/-- The same, with GOOD sent when IMMED is 1. -/
def eraseGranted (v : State) (t : Task) (m : Nat) : State :=
  if t.mode = 1 then answerTask (eraseBegun v t m) t .good [] else eraseBegun v t m

theorem beginTask_sanitize {m : Nat} {v : State} (hk : t.kind = .sanitize) (hf : s.fieldOf t.key.plot = some f) (hr : s.grantRefusal t = none)
    (hm : issueOrder s = some (m, v)) :
    beginTask s t = trimPlot (eraseGranted v (orderedTask s t (some m) (v.field f).rseqNext) m) f t.key.plot m := by
  have hr' : s.grantRefusal { t with held := false, durable := s.asFua } = none := hr
  simp only [beginTask, hf, hr', hm]
  rw [if_neg (by simp [hk]), if_neg (by simp [State.noSpace, hk])]
  simp only [hk, eraseGranted, eraseBegun, orderedTask]

theorem eraseGranted_facts {m : Nat} {v : State} (hk : t.kind = .sanitize) (hn : t.key.plot < v.plots.length) :
    ((eraseGranted v t m).plot t.key.plot).sanitize = some ⟨t.key, decide (t.mode = 1), m⟩ ∧ (eraseGranted v t m).arb = v.arb := by
  have hbegun : ((eraseBegun v t m).plot t.key.plot).sanitize = some ⟨t.key, decide (t.mode = 1), m⟩ := by
    rw [eraseBegun, State.modPlot_plot (v.modTasks fun ts => ts ++ [t]) _ _ hn]
  have hanswered := answerTask_plots_arb (s := eraseBegun v t m) hk .good []
  unfold eraseGranted
  split
  · exact ⟨by rw [State.plot, hanswered.1]; exact hbegun, hanswered.2⟩
  · exact ⟨hbegun, rfl⟩

theorem eraseGranted_result {m : Nat} {v : State} {p : Port} (hmode : t.mode = 1) (hdue : t.statusDue = true)
    (ho : t.key.origin = .port p) (htr : t.tr = some tr) : (eraseGranted v t m).resultOf t.key = some (.good, []) := by
  rw [eraseGranted, if_pos hmode]
  exact resultOf_answerTask hdue ho htr

/-! ### The command itself -/

/-- A SANITIZE of the overwrite-by-key kind, as it is presented to the arbiter. -/
def sanitizeTask (key : TaskKey) (tr : Transport) (immed : Bool) : Task :=
  { newTask key (some tr) .sanitize 0 0 false with mode := bitOf immed 0 }

theorem sanitizeTask_immed : decide ((sanitizeTask key tr immed).mode = 1) = immed := by cases immed <;> rfl

variable {sa n : Nat}

theorem sanitize_bad_action {r : Bool} (h : ScsiClear s key tr) (hsa : sa ≠ 3) :
    Answers s (.sanitize key ⟨tr, r⟩ sa immed n) key (illegal 0x20 0x00) [] :=
  Gated.clear_answers (fun _ => rfl) h (if_pos hsa)

theorem sanitize_bad_field {r : Bool} (h : ScsiClear s key tr) (hbad : n ≠ 0 ∨ r = true) :
    Answers s (.sanitize key ⟨tr, r⟩ 3 immed n) key (illegal 0x24 0x00) [] :=
  Gated.clear_answers (fun _ => rfl) h ((if_neg (by decide)).trans (if_pos hbad))

theorem exec_sanitize (h : ScsiClear s key tr) :
    exec (.sanitize key ⟨tr, false⟩ 3 immed 0) s = .next (sanitizePlot (dropSense s key) key tr immed) :=
  (Gated.clear_runs (fun _ => rfl) h).trans rfl

theorem sanitizePlot_forwarded (hr : isRemote key = true) : sanitizePlot s key tr immed =
    forwardScsi s (cdb10 0x48 (3 + bitOf immed 7) 0 0) [] { newTask key (some tr) .flush 0 0 false with mode := bitOf immed 0 } := if_pos hr

theorem sanitizePlot_protected {st : ScsiStatus} (hr : isRemote key = false) (hst : s.protects key.plot .sanitize = some st) :
    sanitizePlot s key tr immed = replyScsi s key st [] := by
  rw [sanitizePlot, if_neg (by simp [hr]), hst]

theorem sanitizePlot_barred (hr : isRemote key = false) (hst : s.protects key.plot .sanitize = none) (hbar : s.eraseBarred key.plot = true) :
    sanitizePlot s key tr immed = replyScsi s key (.check (senseOf 3 0x31 0x03)) [] := by
  rw [sanitizePlot, if_neg (by simp [hr]), hst]
  exact if_pos hbar

theorem sanitizePlot_starts (hr : isRemote key = false) (hst : s.protects key.plot .sanitize = none) (hbar : s.eraseBarred key.plot = false) :
    sanitizePlot s key tr immed = startTask s (sanitizeTask key tr immed) := by
  rw [sanitizePlot, if_neg (by simp [hr]), hst]
  exact if_neg (ne_true_of_eq_false hbar)

/-- What did not refuse a SANITIZE when it arrived does not at its grant. -/
theorem grantRefusal_sanitize_drawn {id k : Nat} {u : State} (h : ScsiClear s t.key tr) (hk : t.kind = .sanitize)
    (hst : s.protects t.key.plot .sanitize = none) (hbar : s.eraseBarred t.key.plot = false)
    (hd : drawTicket (dropSense s t.key) k = some (id, u)) (g : Grant) : (noteGrant u g).grantRefusal t = none := by
  obtain ⟨-, -, hsanitize, hdark⟩ := h
  obtain ⟨a, rfl, -, hend⟩ := drawTicket_eq hd
  have hend' : (noteGrant { dropSense s t.key with arb := a } g).arb.ordEnd = s.arb.ordEnd := hend
  have hs' : ((noteGrant { dropSense s t.key with arb := a } g).plot t.key.plot).sanitize = none := hsanitize
  have hd' : (noteGrant { dropSense s t.key with arb := a } g).plotDark t.key.plot = false := hdark
  have hb' : (noteGrant { dropSense s t.key with arb := a } g).eraseBarred t.key.plot = false := hbar
  have hst' : (noteGrant { dropSense s t.key with arb := a } g).protects t.key.plot .sanitize = none := by
    simp only [State.protects, hend'] at hst ⊢
    exact hst
  simp [State.grantRefusal, hs', hd', hb', hk, hst']

theorem sanitize_granted {id m : Nat} {u v : State} (h : ScsiClear s key tr) (hr : isRemote key = false)
    (hst : s.protects key.plot .sanitize = none) (hbar : s.eraseBarred key.plot = false) (hf : s.fieldOf key.plot = some f)
    (hd : drawTicket (dropSense s key) key.origin.cls = some (id, u))
    (hm : issueOrder (noteGrant u ((sanitizeTask key tr immed).grant u id)) = some (m, v)) (hn : key.plot < s.plots.length) :
    ∃ t, exec (.sanitize key ⟨tr, false⟩ 3 immed 0) s = .next (trimPlot t f key.plot m) ∧ (t.plot key.plot).sanitize = some ⟨key, immed, m⟩ ∧
      t.arb.ordNext = s.arb.ordNext + 1 ∧ m = s.arb.ordNext ∧
      (immed = true → ∀ p, key.origin = .port p → t.resultOf key = some (.good, [])) := by
  let w := noteGrant u ((sanitizeTask key tr immed).grant u id)
  let r := orderedTask w { sanitizeTask key tr immed with ticket := some id } (some m) (v.field f).rseqNext
  have hrefusal : w.grantRefusal { sanitizeTask key tr immed with ticket := some id } = none :=
    grantRefusal_sanitize_drawn (t := sanitizeTask key tr immed) h rfl hst hbar hd _
  obtain ⟨-, hfield, hnext⟩ := granted_facts hd ((sanitizeTask key tr immed).grant u id)
  obtain ⟨hnumber, hafter⟩ := issueOrder_next hm
  have hlen : r.key.plot < v.plots.length := by
    obtain ⟨a, rfl, -, -⟩ := drawTicket_eq hd
    rw [issueOrder_plots_length hm]
    exact hn
  obtain ⟨herase, harb⟩ := eraseGranted_facts (m := m) (t := r) rfl hlen
  have hmode : immed = true → r.mode = 1 := fun himmed => congrArg (bitOf · 0) himmed
  refine ⟨eraseGranted v r m, ?_, ?_, ?_, hnumber.trans hnext, fun himmed p ho => ?_⟩
  · rw [exec_sanitize h, sanitizePlot_starts (s := dropSense s key) hr hst hbar, startTask_drawn (t := sanitizeTask key tr immed) hd]
    exact congrArg Host.Outcome.next (beginTask_sanitize (t := { sanitizeTask key tr immed with ticket := some id }) rfl ((hfield _).trans hf) hrefusal hm)
  · exact herase.trans (congrArg (fun i => some (SanitizeRun.mk key i m)) (sanitizeTask_immed (key := key) (tr := tr)))
  · rw [harb, hafter, hnext]
  · exact eraseGranted_result (t := r) (tr := tr) (hmode himmed) rfl ho rfl

/-! ### Its completion (R355, steps 3 and 4) -/

theorem sanitizeComplete_none (h : (s.plot n).sanitize = none ∨ (s.plot n).keys = none) : exec (.sanitizeComplete n) s = .next s := by
  refine congrArg Host.Outcome.next ?_
  obtain h | h := h
  · simp only [h]
  · simp only [h]
    cases (s.plot n).sanitize <;> rfl

/-- The record of a crypto-erase: the new key set wrapped, no bulk re-key, one re-key more. -/
def erasedRecord (k : KeyEntry) (keys : List Byte) (r : KeyRecord) : KeyRecord :=
  { r with wrapA := Config.kwWrap k.kek keys, wrapB := [], rekeying := false, rekeyLba := 0, rekeys := min counterMax (r.rekeys + 1) }

/-- The state with the new key set in the record and in the key store. -/
def newKeys (s : State) (n : Nat) (k : KeyEntry) : State :=
  (writeRecord (drawKeySet s).2 n (erasedRecord k (drawKeySet s).1)).modPlot n fun p => { p with keys := some { k with keys := (drawKeySet s).1, old := none } }

theorem drawKeySet_plots : (drawKeySet s).2.plots = s.plots := rfl

theorem writeRecord_plots (f : KeyRecord → KeyRecord) : (writeRecord s n f).plots =
    s.plots.modify n fun p => { p with record := { f p.record with seq := p.record.seq + 1 }, olderCopy := true } := rfl

theorem newKeys_plot (k : KeyEntry) (h : n < s.plots.length) :
    (newKeys s n k).plot n = { s.plot n with
      record := { erasedRecord k (drawKeySet s).1 (s.plot n).record with seq := (s.plot n).record.seq + 1 }, olderCopy := true
      keys := some { k with keys := (drawKeySet s).1, old := none } } := by
  have hlen : n < (writeRecord (drawKeySet s).2 n (erasedRecord k (drawKeySet s).1)).plots.length := by
    rw [writeRecord_plots, List.length_modify]
    exact h
  have hrec := State.modPlot_plot (s := (drawKeySet s).2) n
    (fun p => { p with record := { erasedRecord k (drawKeySet s).1 p.record with seq := p.record.seq + 1 }, olderCopy := true }) h
  rw [newKeys, State.modPlot_plot _ _ _ hlen]
  exact congrArg (fun p : PlotState => { p with keys := some { k with keys := (drawKeySet s).1, old := none } }) hrec

theorem plot_in_range {run : SanitizeRun} (h : (s.plot n).sanitize = some run) : n < s.plots.length := by
  by_contra hn
  rw [State.plot, List.getD_eq_default _ _ (Nat.le_of_not_lt hn)] at h
  cases h

end Sanitize

/-- Settles O33: the checks of the CDB and of the Plot, the grant, and the completion, each by its own lemma. -/
theorem sanitizeErasesOnePlot : Obligations.SanitizeErasesOnePlot := by
  intro s key
  refine ⟨fun tr h sa immed n => ⟨fun r hsa => sanitize_bad_action h hsa, ?_, ?_, ?_⟩, fun n h => sanitizeComplete_none h,
    fun n run k hrun hkeys => ⟨fun hearlier => ?_, fun hearlier => ?_⟩⟩
  · rintro r rfl hbad
    exact sanitize_bad_field h hbad
  · rintro rfl rfl hr
    rw [exec_sanitize h, sanitizePlot_forwarded hr]
  · rintro rfl rfl hr
    refine ⟨fun st hst => ?_, fun hst => ⟨fun hbar => ?_, fun hrekeys hspare f id u m v hf hd hm hn => ?_⟩⟩
    · exact Gated.clear_answers (fun _ => rfl) h (sanitizePlot_protected hr hst)
    · exact Gated.clear_answers (fun _ => rfl) h (sanitizePlot_barred hr hst (show s.eraseBarred key.plot = true by simpa [State.eraseBarred] using hbar))
    · exact sanitize_granted h hr hst (by simp [State.eraseBarred, hrekeys, hspare]) hf hd hm hn
  · refine congrArg Host.Outcome.next ?_
    simp [hrun, hkeys, hearlier]
  · have hplot := newKeys_plot (s := s) k (plot_in_range hrun)
    refine ⟨newKeys s n k, by rw [hplot]; rfl, by rw [hplot]; rfl, by rw [hplot]; rfl, by rw [hplot]; rfl, by rw [hplot], ?_⟩
    refine congrArg Host.Outcome.next ?_
    simp only [hrun, hkeys, hearlier, Bool.not_true, Bool.false_eq_true, if_false]
    rfl

end Sys2Proof.Machine
end

section
/-! Task management and the requests of Bulk-Only transport (R43, R294, R295); O34. -/

namespace Sys2Proof.Machine

section TaskManagement

variable {s : State} {c : Instr} {key : TaskKey} {sel : Task → Bool} {p : Port} {n : Nat}

/-- A command is a task management function that aborts what `sel` selects. -/
def IsAbort (c : Instr) (key : TaskKey) (sel : Task → Bool) : Prop := ∀ s, exec c s = .next (taskManagement s key sel)

theorem isAbort_of_command (h : (c = .abortTask key ∧ sel = fun x => x.key == key) ∨
    ((c = .abortTaskSet key ∨ c = .clearTaskSet key ∨ c = .logicalUnitReset key ∨ c = .iTNexusReset key) ∧
      sel = fun x => x.key.origin == key.origin && x.key.plot == key.plot)) : IsAbort c key sel := by
  obtain ⟨rfl, rfl⟩ | ⟨rfl | rfl | rfl | rfl, rfl⟩ := h <;> exact fun _ => rfl

theorem IsAbort.elsewhere (hc : IsAbort c key sel) (h : s.presented key = false ∨ s.runsUas key = false) : exec c s = .next s := by
  rw [hc s, taskManagement, if_pos (by simpa using h)]

theorem IsAbort.aborts (hc : IsAbort c key sel) (hpresented : s.presented key = true) (huas : s.runsUas key = true) :
    exec c s = .next (sendScsi (serveReads (advanceReads (settleTasks (abortTasks s fun t => sel t && t.statusDue)))) key .functionComplete []) := by
  rw [hc s, taskManagement, if_neg (by simp [hpresented, huas])]
  rfl

/-! ### QUERY TASK -/

theorem exec_queryTask (hpresented : s.presented key = true) (huas : s.runsUas key = true) :
    exec (.queryTask key) s = .next (sendScsi s key (if (s.task? key).isSome then .functionSucceeded else .functionComplete) []) := by
  refine congrArg Host.Outcome.next ((if_neg (by simp [hpresented, huas])).trans ?_)
  exact (apply_ite (fun st => sendScsi s key st []) _ _ _).symm

theorem task?_isSome : (s.task? key).isSome = true ↔ ∃ x ∈ s.fn.tasks, x.key = key ∧ x.statusDue = true := by
  simp [State.task?, List.find?_isSome]

/-- A status that is sent changes what the units keep, and takes what is sent. -/
theorem sendScsi_frame (st : ScsiStatus) (data : List Byte) :
    { sendScsi s key st data with fn := s.fn } = sendIn s key data.length ∧ (sendScsi s key st data).fn.tasks = s.fn.tasks := by
  obtain ⟨hfn, -⟩ := sendIn_frame (s := s) (key := key) data.length
  refine ⟨?_, by simp only [sendScsi, State.modFn, hfn]⟩
  rw [← hfn]
  rfl

/-! ### Bulk-Only transport -/

theorem bot_elsewhere (h : s.runsBot p n = false) :
    exec (.massStorageReset p n) s = .next s ∧ exec (.getMaxLun p n) s = .next s :=
  ⟨congrArg Host.Outcome.next (if_pos (by simp [h])), congrArg Host.Outcome.next (if_pos (by simp [h]))⟩

/-- The commands of a function on a port. -/
def ofFunction (p : Port) (n : Nat) (t : Task) : Bool := t.key.origin == .port p && t.key.plot == n

theorem exec_massStorageReset (h : s.runsBot p n = true) : exec (.massStorageReset p n) s =
    .next (answerControl (serveReads (advanceReads (settleTasks (abortTasks s fun t => ofFunction p n t && t.statusDue)))) p 0 .ack) :=
  congrArg Host.Outcome.next (if_neg (by simp [h]))

theorem exec_getMaxLun (h : s.runsBot p n = true) : exec (.getMaxLun p n) s = .next (answerControl s p 1 (.data 0)) :=
  congrArg Host.Outcome.next (if_neg (by simp [h]))

end TaskManagement

/-- Settles O34: what is aborted and what stays is said of any selection, and each function has its own. -/
theorem taskManagementEndsCommands : Obligations.TaskManagementEndsCommands := by
  intro s key c sel
  refine ⟨fun h => ⟨(isAbort_of_command h).elsewhere, fun hpresented huas => ?_⟩,
    fun h => congrArg Host.Outcome.next (if_pos (by simpa using h)), fun hpresented huas => ?_, fun p n => bot_elsewhere,
    fun p n h => ⟨⟨_, exec_massStorageReset h, (settled_abort_frame _).1, fun x hx ho hn => ?_, fun x hx hother hdue => ?_⟩, exec_getMaxLun h⟩⟩
  · obtain ⟨hframe, harb⟩ := settled_abort_frame (s := s) fun t => sel t && t.statusDue
    exact ⟨_, _, (isAbort_of_command h).aborts hpresented huas, resultOf_sendScsi, rfl, hframe, harb, settled_abort_ends sel,
      settled_abort_keeps sel⟩
  · obtain ⟨hframe, htasks⟩ := sendScsi_frame (s := s) (key := key) (if (s.task? key).isSome then .functionSucceeded else .functionComplete) []
    refine ⟨_, exec_queryTask hpresented huas, hframe, htasks, fun hflight => ?_, fun hnone => ?_⟩
    · rw [if_pos (task?_isSome.mpr hflight)]
      exact resultOf_sendScsi
    · rw [if_neg fun hsome => ?_]
      · exact resultOf_sendScsi
      · obtain ⟨x, hx, hkey, hdue⟩ := task?_isSome.mp hsome
        simp [hnone x hx hkey] at hdue
  · exact settled_abort_ends (ofFunction p n) x hx (by simp [ofFunction, ho, hn])
  · refine settled_abort_keeps (ofFunction p n) x hx ?_ hdue
    obtain ho | hn := hother
    · simp [ofFunction, ho]
    · simp [ofFunction, hn]

end Sys2Proof.Machine
end

section
/-! Request capsules (R264 to R266, R269, R279, R280; Tables FNC-2, FNC-5 and FNC-6): how a function takes one, answers it, and what a
read takes; O21. -/

namespace Sys2Proof.Machine

section Capsules

variable {s t u : State} {c : Instr} {p : Port} {fn : CapsuleFn} {op tag : Nat} {r : Response}

/-! ### The capsule state of a function -/

theorem cap_fn (q : PortFn) (fn : CapsuleFn) : (q.cap fn).fn = fn := by
  unfold PortFn.cap
  cases h : q.caps.find? (·.fn == fn) with
  | none => rfl
  | some x => exact beq_iff_eq.mp (List.find?_some (p := fun c : CapState => c.fn == fn) h)

theorem cap_modCap {q : PortFn} {f : CapState → CapState} (hf : (f (q.cap fn)).fn = fn) : (q.modCap fn f).cap fn = f (q.cap fn) := by
  have hfound : (q.modCap fn f).caps.find? (·.fn == fn) = some (f (q.cap fn)) := List.find?_cons_of_pos (by simp [hf])
  rw [PortFn.cap, hfound]
  rfl

/-- The capsule state of a function of a port. -/
def State.capOf (s : State) (p : Port) (fn : CapsuleFn) : CapState := (s.pfn p).cap fn

theorem capOf_modCap {f : CapState → CapState} (hf : (f (s.capOf p fn)).fn = fn) :
    (s.modPfn p fun q => q.modCap fn f).capOf p fn = f (s.capOf p fn) := by
  rw [State.capOf, State.modPfn_pfn, cap_modCap hf]
  rfl

/-! ### What capsules leave alone -/

/-- Two states differ in the capsules of one port's functions. -/
structure OnlyCaps (p : Port) (s t : State) : Prop where
  rest : { t with fn := s.fn } = s
  tasks : t.fn.tasks = s.fn.tasks
  results : t.fn.results = s.fn.results
  events : (t.pfn p).events = (s.pfn p).events
  ports : ∀ q, q ≠ p → t.pfn q = s.pfn q

theorem OnlyCaps.trans (h : OnlyCaps p s t) (h' : OnlyCaps p t u) : OnlyCaps p s u where
  rest := by
    have hrest := congrArg (fun v : State => ({ v with fn := s.fn } : State)) h'.rest
    exact Eq.trans hrest h.rest
  tasks := h'.tasks.trans h.tasks
  results := h'.results.trans h.results
  events := h'.events.trans h.events
  ports := fun q hq => (h'.ports q hq).trans (h.ports q hq)

theorem onlyCaps_modPfn {f : PortFn → PortFn} (hf : (f (s.pfn p)).events = (s.pfn p).events) : OnlyCaps p s (s.modPfn p f) where
  rest := by cases p <;> rfl
  tasks := State.modPfn_tasks s p f
  results := State.modPfn_results s p f
  events := by rw [State.modPfn_pfn, hf]
  ports := fun _ hq => State.modPfn_pfn_ne s p _ f hq.symm

theorem onlyCaps_respond : OnlyCaps p s (respond s p fn r) := onlyCaps_modPfn rfl

/-! ### A request taken and answered (R264 to R266) -/

/-- A request of an opcode and a tag is in progress on a function. -/
def InProgress (s : State) (p : Port) (fn : CapsuleFn) (op tag : Nat) : Prop :=
  (s.capOf p fn).busy = true ∧ (s.capOf p fn).opcode = op ∧ (s.capOf p fn).tag = tag

theorem capOf_beginCapsule : (beginCapsule s p fn op tag).capOf p fn =
    { s.capOf p fn with busy := true, opcode := op, tag := tag, todo := [], doneR := [], resp := none } :=
  capOf_modCap (f := fun c => { c with busy := true, opcode := op, tag := tag, todo := [], doneR := [], resp := none }) (cap_fn _ _)

theorem inProgress_beginCapsule : InProgress (beginCapsule s p fn op tag) p fn op tag := by
  rw [InProgress, capOf_beginCapsule]
  exact ⟨rfl, rfl, rfl⟩

theorem onlyCaps_beginCapsule : OnlyCaps p s (beginCapsule s p fn op tag) := onlyCaps_modPfn rfl

theorem capOf_respond (h : InProgress s p fn r.opcode r.tag) : (respond s p fn r).capOf p fn =
    { s.capOf p fn with busy := false, todo := [], doneR := [], resp := some r } := by
  have hif : (if (s.capOf p fn).busy ∧ (s.capOf p fn).opcode = r.opcode ∧ (s.capOf p fn).tag = r.tag then
      { s.capOf p fn with busy := false, todo := [], doneR := [], resp := some r } else s.capOf p fn) =
      { s.capOf p fn with busy := false, todo := [], doneR := [], resp := some r } := if_pos h
  refine (capOf_modCap (f := fun c =>
    if c.busy ∧ c.opcode = r.opcode ∧ c.tag = r.tag then { c with busy := false, todo := [], doneR := [], resp := some r } else c) ?_).trans hif
  rw [hif]
  exact cap_fn _ _

theorem response_respond (h : InProgress s p fn r.opcode r.tag) :
    (respond s p fn r).response p fn = some r ∧ (((respond s p fn r).pfn p).cap fn).busy = false := by
  have hcap := capOf_respond h
  exact ⟨congrArg CapState.resp hcap, congrArg CapState.busy hcap⟩

/-- A command that builds the response of the request in progress is answered at once. -/
theorem responds_of_respond (hexec : exec c s = .next (respond u p fn r)) (honly : OnlyCaps p s u) (h : InProgress u p fn r.opcode r.tag) :
    Responds s c p fn r := by
  obtain ⟨hresp, hbusy⟩ := response_respond h
  obtain ⟨hrest, htasks, hresults, hevents, hports⟩ := honly.trans (onlyCaps_respond (r := r))
  exact ⟨_, hexec, hresp, hbusy, hrest, htasks, hresults, hevents, hports⟩

/-- A command is a capsule of an opcode and a tag, with what it does once taken. -/
def IsCapsule (c : Instr) (p : Port) (fn : CapsuleFn) (op tag : Nat) (run : State → State) : Prop :=
  ∀ s, exec c s = .next (withCapsule s p fn op tag run)

variable {run : State → State}

theorem IsCapsule.not_taken (hc : IsCapsule c p fn op tag run) (h : s.takes p fn = false) : exec c s = .next s := by
  rw [hc s, withCapsule, if_neg (by simp [h])]

theorem IsCapsule.runs (hc : IsCapsule c p fn op tag run) (h : s.takes p fn = true) :
    exec c s = .next (run (beginCapsule s p fn op tag)) := by
  rw [hc s, withCapsule, if_pos h]

/-- A capsule whose meaning is its answer. -/
theorem IsCapsule.responds (hc : IsCapsule c p fn r.opcode r.tag run) (h : s.takes p fn = true)
    (hrun : run (beginCapsule s p fn r.opcode r.tag) = respond (beginCapsule s p fn r.opcode r.tag) p fn r) : Responds s c p fn r :=
  responds_of_respond ((hc.runs h).trans (congrArg Host.Outcome.next hrun)) onlyCaps_beginCapsule inProgress_beginCapsule

/-! ### INFO, ECHO and REG (Tables FNC-4 to FNC-6) -/

theorem isCapsule_info : IsCapsule (.info p tag) p .management 0x01 tag fun s =>
    (respond s p .management ⟨0x01, false, tag, 0, 0, 0, infoBytes s p⟩).modPfn p fun q => { q with evLost := 0 } := fun _ => rfl

/-- INFO says of a function that takes it what it said before. -/
theorem infoBytes_beginCapsule : infoBytes (beginCapsule s p fn op tag) p = infoBytes s p := by cases p <;> rfl

theorem info_answers (h : s.takes p .management = true) :
    ∃ t, exec (.info p tag) s = .next t ∧ t.response p .management = some ⟨0x01, false, tag, 0, 0, 0, infoBytes s p⟩ ∧
      (t.pfn p).evLost = 0 ∧ { t with fn := s.fn } = s ∧ t.fn.tasks = s.fn.tasks := by
  have hexec := isCapsule_info.runs h (tag := tag)
  rw [infoBytes_beginCapsule] at hexec
  let u := respond (beginCapsule s p .management 0x01 tag) p .management ⟨0x01, false, tag, 0, 0, 0, infoBytes s p⟩
  obtain ⟨hrest, htasks, -, -, -⟩ := (onlyCaps_beginCapsule.trans onlyCaps_respond).trans
    (onlyCaps_modPfn (s := u) (p := p) (f := fun q => { q with evLost := 0 }) rfl)
  refine ⟨_, hexec, ?_, by simp, hrest, htasks⟩
  have hresp := (response_respond (r := ⟨0x01, false, tag, 0, 0, 0, infoBytes s p⟩) (inProgress_beginCapsule (s := s) (p := p) (fn := .management))).1
  rw [State.response, State.modPfn_pfn]
  exact hresp

theorem isCapsule_echo (l : List Byte) : IsCapsule (.echo p tag l) p .management 0x03 tag fun s =>
    if 65536 < l.length then mgmtStatus s p 0x03 tag stBadLength 0 else respond s p .management ⟨0x03, false, tag, 0, 0, 0, l⟩ := fun _ => rfl

theorem isCapsule_reg (es : List RegEntry) : IsCapsule (.reg p tag es) p .management 0x02 tag fun s =>
    if 8192 < es.length then mgmtStatus s p 0x02 tag stBadLength 0
    else ((es.findIdx? fun e => !regEntryOk e).map fun i => mgmtStatus s p 0x02 tag stBadField i).getD
      (if es.isEmpty then mgmtStatus s p 0x02 tag 0 0 else s.modPfn p fun q => q.modCap .management fun c => { c with todo := es }) := by
  intro s
  refine congrArg (fun run => Host.Outcome.next (withCapsule s p .management 0x02 tag run)) (funext fun u => ?_)
  cases es.findIdx? fun e => !regEntryOk e <;> rfl

theorem reg_waits {es : List RegEntry} (h : s.takes p .management = true) (hne : es ≠ []) (hlen : es.length ≤ 8192)
    (hok : ∀ e ∈ es, regEntryOk e = true) :
    ∃ t, exec (.reg p tag es) s = .next t ∧ InProgress t p .management 0x02 tag ∧ (t.capOf p .management).todo = es ∧
      (t.capOf p .management).doneR = [] ∧ { t with fn := s.fn } = s := by
  have hnone : es.findIdx? (fun e => !regEntryOk e) = none := List.findIdx?_eq_none_iff.mpr (by simpa using hok)
  let u := beginCapsule s p .management 0x02 tag
  have hcap : (u.modPfn p fun q => q.modCap .management fun c => { c with todo := es }).capOf p .management = { u.capOf p .management with todo := es } :=
    capOf_modCap (f := fun c => { c with todo := es }) (cap_fn _ _)
  refine ⟨u.modPfn p fun q => q.modCap .management fun c => { c with todo := es }, ?_, ?_, ?_, ?_,
    (onlyCaps_beginCapsule.trans (onlyCaps_modPfn rfl)).rest⟩
  · rw [(isCapsule_reg es).runs h, if_neg (by omega), hnone]
    simp [hne, u]
  all_goals simp [InProgress, hcap, u, capOf_beginCapsule]

/-! ### A capsule that Table FNC-2 refuses -/

theorem capsuleRefused_passes {raw : CapsuleRaw} (h : capsuleCheck fn raw = none) : exec (.capsuleRefused p fn raw) s = .next s := by
  refine congrArg Host.Outcome.next ?_
  simp only [h]

theorem isCapsule_refused {raw : CapsuleRaw} {st d : Nat} (h : capsuleCheck fn raw = some (st, d)) :
    IsCapsule (.capsuleRefused p fn raw) p fn (if raw.bytes < 6 then 0 else raw.opcode.toNat) (if raw.bytes < 16 then 0 else raw.tag) fun s =>
      respond s p fn ⟨if raw.bytes < 6 then 0 else raw.opcode.toNat, decide (8 ≤ raw.bytes) && raw.flags.toNat.testBit 0,
        if raw.bytes < 16 then 0 else raw.tag, 0, st, d, []⟩ := by
  intro s
  refine congrArg Host.Outcome.next ?_
  simp only [h]

/-! ### What a host reads (R231, R266, R279, R280) -/

/-- A transfer changes the port it is on; its packets, or the handshake that turns it away. -/
theorem inTransfer_eq (k ep n : Nat) : (inTransfer s p k ep n).1 =
    { s with portA := (inTransfer s p k ep n).1.portA, portB := (inTransfer s p k ep n).1.portB } := by
  unfold inTransfer
  split
  · split_ifs
    · cases p <;> rfl
    · rfl
    · cases p <;> rfl
    · cases p <;> rfl
  · rfl

theorem inTransfer_fn (k ep n : Nat) : (inTransfer s p k ep n).1.fn = s.fn := by
  rw [inTransfer_eq]

theorem inTransfer_refused {k ep n : Nat} (h : (inTransfer s p k ep n).2 = false) :
    ((inTransfer s p k ep n).1.port p).answer = if ((s.port p).ep? k ep).any (·.halted) then .stall else .nak := by
  unfold inTransfer at h ⊢
  cases he : (s.port p).ep? k ep with
  | none => simp [he] at h
  | some e =>
    simp only [he] at h ⊢
    by_cases hhalted : e.halted = true
    · cases p <;> simp [hhalted, answerWire]
    · rw [if_neg hhalted] at h ⊢
      by_cases hsuper : (s.port p).super = true
      · simp [hsuper] at h
      · rw [if_neg hsuper] at h ⊢
        by_cases hfull : e.total ≤ e.used
        · cases p <;> simp [hfull, hhalted, answerWire]
        · simp [hfull] at h

theorem exec_bulkIn_response (h : s.hasFn p fn = true) (hr : s.response p fn = some r) :
    let x := inTransfer s p (s.fnPort p fn) 0x81 r.bytes.length
    exec (.bulkInTransfer p fn false) s = .next (if x.2 then takeResponse x.1 p fn r else x.1) := by
  have hr' : ((s.pfn p).cap fn).resp = some r := hr
  refine congrArg Host.Outcome.next ?_
  simp only [h, Bool.not_true, Bool.false_eq_true, if_false, hr']

theorem exec_bulkIn_event (h : s.hasFn p .management = true) {e : EventRec} {rest : List EventRec} (he : (s.pfn p).events = e :: rest)
    (hx : (inTransfer s p 1 0x82 32).2 = true) :
    exec (.bulkInTransfer p .management true) s = .next (takeEvent (inTransfer s p 1 0x82 32).1 p) := by
  refine congrArg Host.Outcome.next ?_
  simp [h, he, hx]

theorem takeResponse_facts : (takeResponse s p fn r).response p fn = none ∧ ((takeResponse s p fn r).pfn p).lastResp = some r ∧
    ((takeResponse s p fn r).pfn p).sent = r.bytes ∧ OnlyCaps p s (takeResponse s p fn r) := by
  have hcap := cap_modCap (q := s.pfn p) (fn := fn) (f := fun c => { c with resp := none }) (cap_fn _ _)
  refine ⟨?_, by simp [takeResponse], by simp [takeResponse], onlyCaps_modPfn rfl⟩
  rw [State.response, takeResponse, State.modPfn_pfn]
  exact congrArg CapState.resp hcap

/-- The oldest event record leaves; when some were lost, the record of the loss joins the queue. -/
theorem takeEvent_facts {e : EventRec} {rest : List EventRec} (he : (s.pfn p).events = e :: rest) :
    ((takeEvent s p).pfn p).lastEvent = some e ∧ ((takeEvent s p).pfn p).sent = e.bytes ∧ { takeEvent s p with fn := s.fn } = s ∧
    ((s.pfn p).overflow = 0 → ((takeEvent s p).pfn p).events = rest) ∧
    (0 < (s.pfn p).overflow → ∃ o, ((takeEvent s p).pfn p).events = rest ++ [o] ∧ o.kind = 0x00F0 ∧ o.seq = (s.pfn p).evSeq ∧
      o.data0 = w32 (s.pfn p).overflow ∧ ((takeEvent s p).pfn p).overflow = 0) := by
  simp only [takeEvent, State.modPfn_pfn, he]
  by_cases hlost : (s.pfn p).overflow = 0
  · simp [hlost]
  · simp [hlost, Nat.pos_of_ne_zero hlost]

end Capsules

/-- Settles O21: each capsule is taken or not, and what it does once taken is a response or a wait. -/
theorem managementCapsules : Obligations.ManagementCapsules := by
  intro s p tag
  refine ⟨fun h l es => ⟨isCapsule_info.not_taken h, (isCapsule_echo l).not_taken h, (isCapsule_reg es).not_taken h⟩,
    fun h => ⟨info_answers h, fun l hl => ?_, fun l hl => ?_, ?_, fun es hlen => ?_, fun es i hlen hi => ?_, fun es hne hlen hok => ?_⟩,
    fun fn raw => ⟨fun h => ?_, fun st d hcheck h => (isCapsule_refused hcheck).responds h rfl⟩, fun fn hfn => ⟨fun r hr => ?_, ?_⟩⟩
  · exact IsCapsule.responds (r := ⟨0x03, false, tag, 0, 0, 0, l⟩) (isCapsule_echo l) h (if_neg (Nat.not_lt.mpr hl))
  · exact IsCapsule.responds (r := ⟨0x03, false, tag, 0, stBadLength, 0, []⟩) (isCapsule_echo l) h (if_pos hl)
  · exact (isCapsule_reg []).responds h rfl
  · exact IsCapsule.responds (r := ⟨0x02, false, tag, 0, stBadLength, 0, []⟩) (isCapsule_reg es) h (if_pos hlen)
  · refine (isCapsule_reg es).responds h ?_
    rw [if_neg (Nat.not_lt.mpr hlen), hi]
    rfl
  · obtain ⟨t, hexec, ⟨hbusy, hop, htag⟩, htodo, hdone, hrest⟩ := reg_waits h hne hlen hok
    exact ⟨t, hexec, hbusy, hop, htag, htodo, hdone, hrest⟩
  · obtain hpass | hbusy := h
    · exact capsuleRefused_passes hpass
    · cases hcheck : capsuleCheck fn raw with
      | none => exact capsuleRefused_passes hcheck
      | some x => exact (isCapsule_refused hcheck).not_taken hbusy
  · have hexec := exec_bulkIn_response hfn hr
    have hfnS := inTransfer_fn (s := s) (p := p) (s.fnPort p fn) 0x81 r.bytes.length
    refine ⟨fun hx => ?_, fun hx => ⟨hexec.trans (congrArg _ (if_neg (ne_true_of_eq_false hx))), hfnS, inTransfer_refused hx⟩⟩
    obtain ⟨hresp, hlast, hsent, hrest, htasks, -, hevents, -⟩ := takeResponse_facts (s := (inTransfer s p (s.fnPort p fn) 0x81 r.bytes.length).1) (p := p) (fn := fn) (r := r)
    have hpfn : (inTransfer s p (s.fnPort p fn) 0x81 r.bytes.length).1.pfn p = s.pfn p := by simp only [State.pfn, hfnS]
    refine ⟨_, hexec.trans (congrArg _ (if_pos hx)), hresp, hlast, hsent, hevents.trans (congrArg PortFn.events hpfn), ?_, htasks.trans (by rw [hfnS])⟩
    rwa [hfnS] at hrest
  · rintro e rest rfl he hx
    have hfnS := inTransfer_fn (s := s) (p := p) 1 0x82 32
    have hpfn : (inTransfer s p 1 0x82 32).1.pfn p = s.pfn p := by simp only [State.pfn, hfnS]
    obtain ⟨hlast, hsent, hrest, hnone, hlost⟩ := takeEvent_facts (s := (inTransfer s p 1 0x82 32).1) (hpfn.symm ▸ he)
    rw [hpfn] at hnone hlost
    refine ⟨_, exec_bulkIn_event hfn he hx, hlast, hsent, ?_, hnone, hlost⟩
    rwa [hfnS] at hrest

end Sys2Proof.Machine
end

section
/-! The entries of a REG capsule, one by one (R269 to R271, Table FNC-5); O22. -/

namespace Sys2Proof.Machine

section RegEntries

variable {s u : State} {p : Port} {e : RegEntry} {d : RegDone} {rest : List RegEntry} {c : CapState}

/-! ### The grant of an entry -/

/-- What follows an entry performed: nothing more once it has ended the capsule itself, the response, or the next entry. -/
def afterEntry (u : State) (p : Port) (c : CapState) (d : RegDone) (rest : List RegEntry) : State :=
  if (u.capOf p .management).busy = false ∨ (u.capOf p .management).todo ≠ c.todo then u
  else if d.st = regDenied then endReg u p c.tag (c.doneR ++ d :: rest.map skipEntry)
  else if rest = [] then endReg u p c.tag (c.doneR ++ [d])
  else u.modPfn p fun q => q.modCap .management fun c' => { c' with todo := rest, doneR := c.doneR ++ [d] }

/-- A REG capsule is in progress with an entry to perform. -/
def NextEntry (s : State) (p : Port) (e : RegEntry) (rest : List RegEntry) : Prop :=
  (s.capOf p .management).busy = true ∧ (s.capOf p .management).opcode = 0x02 ∧ (s.capOf p .management).todo = e :: rest

theorem exec_regEntry_none (h : (s.capOf p .management).busy = false ∨ (s.capOf p .management).opcode ≠ 0x02 ∨ (s.capOf p .management).todo = []) :
    exec (.regEntry p) s = .next s := by
  refine congrArg Host.Outcome.next ?_
  change (if (!(s.capOf p .management).busy) = true ∨ (s.capOf p .management).opcode ≠ 0x02 then s else _) = s
  split
  · rfl
  · next hnot =>
    have htodo : ((s.pfn p).cap .management).todo = [] := by
      obtain hb | ho | ht := h
      · exact absurd (.inl (by simp [hb])) hnot
      · exact absurd (.inr ho) hnot
      · exact ht
    simp only [htodo]

theorem exec_regEntry (h : NextEntry s p e rest) :
    exec (.regEntry p) s = .next (afterEntry (doEntry s p.identity e).1 p (s.capOf p .management) (doEntry s p.identity e).2 rest) := by
  obtain ⟨hbusy, hop, htodo⟩ := h
  have htodo' : ((s.pfn p).cap .management).todo = e :: rest := htodo
  have hgate : ¬ ((!((s.pfn p).cap .management).busy) = true ∨ ((s.pfn p).cap .management).opcode ≠ 0x02) := by
    rw [not_or, not_not]
    exact ⟨by simpa [State.capOf] using hbusy, hop⟩
  refine congrArg Host.Outcome.next ((if_neg hgate).trans ?_)
  simp only [htodo', afterEntry, State.capOf, Bool.not_eq_true']
  congr 1
  by_cases hd : (doEntry s p.identity e).2.st = regDenied
  · simp [hd]
  · simp [hd]

theorem afterEntry_ended (h : (u.capOf p .management).busy = false ∨ (u.capOf p .management).todo ≠ c.todo) : afterEntry u p c d rest = u := if_pos h

/-- The capsule an entry belongs to goes on. -/
def GoesOn (u : State) (p : Port) (c : CapState) : Prop := (u.capOf p .management).busy = true ∧ (u.capOf p .management).todo = c.todo

theorem GoesOn.not_ended (h : GoesOn u p c) : ¬ ((u.capOf p .management).busy = false ∨ (u.capOf p .management).todo ≠ c.todo) := by
  simp [h.1, h.2]

theorem afterEntry_denied (h : GoesOn u p c) (hd : d.st = 2) :
    afterEntry u p c d rest = endReg u p c.tag (c.doneR ++ d :: rest.map skipEntry) := by
  rw [afterEntry, if_neg h.not_ended]
  exact if_pos hd

theorem afterEntry_last (h : GoesOn u p c) (hd : d.st ≠ 2) : afterEntry u p c d [] = endReg u p c.tag (c.doneR ++ [d]) := by
  rw [afterEntry, if_neg h.not_ended]
  exact (if_neg hd).trans (if_pos rfl)

/-- An entry that neither ends the capsule nor is its last joins what is done. -/
theorem afterEntry_next (h : GoesOn u p c) (hd : d.st ≠ 2) (hrest : rest ≠ []) :
    ∃ t, afterEntry u p c d rest = t ∧ t.replies = u.replies ∧ { t with fn := s.fn } = { u with fn := s.fn } ∧ (t.capOf p .management).todo = rest ∧
      (t.capOf p .management).busy = true ∧ (t.capOf p .management).doneR = c.doneR ++ [d] := by
  have hcap := capOf_modCap (s := u) (p := p) (fn := .management) (f := fun c' => { c' with todo := rest, doneR := c.doneR ++ [d] }) (cap_fn _ _)
  have hfn := (onlyCaps_modPfn (s := u) (p := p) (f := fun q => q.modCap .management fun c' => { c' with todo := rest, doneR := c.doneR ++ [d] }) rfl).rest
  have hfn' := congrArg (fun v : State => ({ v with fn := s.fn } : State)) hfn
  have hbusy := (congrArg CapState.busy hcap).trans h.1
  refine ⟨_, ?_, State.modPfn_replies _ _ _, hfn', congrArg CapState.todo hcap, hbusy, congrArg CapState.doneR hcap⟩
  rw [afterEntry, if_neg h.not_ended]
  exact (if_neg hd).trans (if_neg hrest)

/-! ### The response of a finished capsule (R271) -/

theorem endReg_ok {tag : Nat} {done : List RegDone} (h : ∀ d ∈ done, d.st ≠ 2) :
    endReg u p tag done = respond u p .management ⟨0x02, false, tag, 0, 0, 0, done.flatMap regDoneBytes⟩ := by
  have hnone : done.findIdx? (·.st == regDenied) = none := List.findIdx?_eq_none_iff.mpr (by simpa [regDenied] using h)
  rw [endReg, hnone]

theorem endReg_partial {tag : Nat} {done left : List RegDone} (h : ∀ d ∈ done, d.st ≠ 2) (hd : d.st = 2) :
    endReg u p tag (done ++ d :: left) = respond u p .management ⟨0x02, false, tag, 0, 0x0007, done.length, (done ++ d :: left).flatMap regDoneBytes⟩ := by
  have hnone : done.findIdx? (·.st == regDenied) = none := List.findIdx?_eq_none_iff.mpr (by simpa [regDenied] using h)
  have hsome : (done ++ d :: left).findIdx? (·.st == regDenied) = some done.length := by
    rw [List.findIdx?_append, hnone, List.findIdx?_cons]
    simp [hd, regDenied]
  rw [endReg, hsome]

/-- What an entry leaves of the capsules it does not touch. -/
theorem inProgress_of_fn {tag : Nat} (hfn : u.fn = s.fn) (h : (s.capOf p .management).busy = true) (hop : (s.capOf p .management).opcode = 0x02)
    (htag : (s.capOf p .management).tag = tag) : InProgress u p .management 0x02 tag := by
  have hcap : u.capOf p .management = s.capOf p .management := by simp only [State.capOf, State.pfn, hfn]
  rw [InProgress, hcap]
  exact ⟨h, hop, htag⟩

theorem goesOn_of_fn (hfn : u.fn = s.fn) (h : (s.capOf p .management).busy = true) : GoesOn u p (s.capOf p .management) := by
  have hcap : u.capOf p .management = s.capOf p .management := by simp only [State.capOf, State.pfn, hfn]
  exact ⟨hcap ▸ h, congrArg CapState.todo hcap⟩

/-! ### A read of GLB_ID, and a write that an MPU region refuses -/

theorem port_not_jtag (p : Port) : p.identity ≠ idJtag := by cases p <;> decide

variable {id : Identity}

theorem readReg_glbId (h : NoSnapOf s 0) : readReg s id 0 0 = (s, glbId s.member s.stepping) := by
  have hfind := h.find?_eq_none id
  simp only [readReg, hfind]
  rfl

theorem doEntry_glbId (hjtag : id ≠ idJtag) (hopen : s.csOpen id = true) (hmpu : s.mpuRefuses id false 0 .read = none) (hsnap : NoSnapOf s 0) :
    doEntry s id { addr := 0x0#24, op := 0, value := 0 } =
      (setReply (noteAccess s id) id (glbId s.member s.stepping) 0, ⟨0x0#24, 0, 0, glbId s.member s.stepping⟩) := by
  have hfresh : FreshRead s id 0 := ⟨hjtag, hopen, rfl, rfl, rfl, .inr rfl, .inl rfl, hmpu, hsnap⟩
  have hread : csRead s id (0x0#24).toNat 0 = (noteAccess s id, glbId s.member s.stepping, regOk) := by
    refine (csRead_fresh hfresh 0).trans ?_
    rw [readReg_glbId hfresh.noSnap_noteAccess, noteAccess_eq]
  simp only [doEntry, if_true, hread]
  rfl

theorem doEntry_refused {r : MpuCfg} (h : NamesRegister s id e.addr.toNat) (hop : e.op = 1) (hopen : s.csOpen id = true)
    (hmpu : s.mpuRefuses id false e.addr.toNat .write = some r) : doEntry s id e =
      (setReply (recordVio (noteAccess s id) id false e.addr.toNat .write false false r.index 4) id e.value 2, ⟨e.addr, 1, 2, e.value⟩) := by
  simp [doEntry, hop, csWriteWord_register h, csWrite_refused hopen hmpu, hmpu, regDenied]

theorem setReply_fn (v : Word) (st : Nat) : (setReply s id v st).fn = s.fn := by
  unfold setReply
  split <;> rfl

theorem noteAccess_fn : (noteAccess s id).fn = s.fn := by rw [noteAccess_eq]

theorem recordVio_fn (sp : Bool) (a : Nat) (k : AccessKind) (o q : Bool) (r n : Nat) : (recordVio s id sp a k o q r n).fn = s.fn := rfl

/-- What a read of GLB_ID changes beside the capsule. -/
theorem readGlbId_facts {t : State} (hopen : s.csOpen id = true)
    (ht : t.replies = (setReply (noteAccess s id) id (glbId s.member s.stepping) 0).replies)
    (hfn : { t with fn := s.fn } = { setReply (noteAccess s id) id (glbId s.member s.stepping) 0 with fn := s.fn }) :
    t.replyTo id = some (glbId s.member s.stepping, 0) ∧ { t with fn := s.fn, replies := s.replies } = noteAccess s id := by
  have hopen' : (noteAccess s id).csOpen id = true := by simpa using hopen
  refine ⟨?_, ?_⟩
  · rw [State.replyTo, ht]
    exact setReply_replyTo hopen'
  · have hrest := congrArg (fun v : State => ({ v with replies := s.replies } : State)) hfn
    refine Eq.trans hrest ?_
    rw [setReply_eq hopen', ← noteAccess_replies s id, ← noteAccess_fn (s := s) (id := id)]

/-- The end of a capsule builds its response. -/
theorem endReg_frame {tag : Nat} {done : List RegDone} : (endReg u p tag done).replies = u.replies ∧
    { endReg u p tag done with fn := s.fn } = { u with fn := s.fn } := by
  obtain ⟨r, hr⟩ : ∃ r, endReg u p tag done = respond u p .management r := by
    unfold endReg
    exact ⟨_, rfl⟩
  have hrest := congrArg (fun v : State => ({ v with fn := s.fn } : State)) (onlyCaps_respond (s := u) (p := p) (fn := .management) (r := r)).rest
  rw [hr]
  exact ⟨State.modPfn_replies _ _ _, hrest⟩

end RegEntries

/-- Settles O22: the entry is performed, and what is then left of the capsule decides what follows it. -/
theorem regEntriesOneByOne : Obligations.RegEntriesOneByOne := by
  intro s p c
  refine ⟨exec_regEntry_none, fun e rest hbusy hop htodo => ?_, fun rest hbusy hop htodo hsnap hopen hmpu => ?_,
    fun e rest r hbusy hop htodo hdone hwrite haligned hknown hwindow hopen hmpu => ?_⟩
  all_goals have hexec := exec_regEntry (s := s) (p := p) ⟨hbusy, hop, htodo⟩
  · intro u d now
    refine ⟨fun hended => hexec.trans (congrArg _ (afterEntry_ended hended)), fun hnow hleft => ?_⟩
    have hgoes : GoesOn u p c := ⟨hnow, hleft⟩
    refine ⟨fun hd => hexec.trans (congrArg _ (afterEntry_denied hgoes hd)), ?_, fun hd hrest => ?_⟩
    · rintro hd rfl
      exact hexec.trans (congrArg _ (afterEntry_last hgoes hd))
    · obtain ⟨t, ht, -, hfn, hcap⟩ := afterEntry_next (s := s) hgoes hd hrest
      exact ⟨t, hexec.trans (congrArg _ ht), hfn, hcap⟩
  · rw [doEntry_glbId (port_not_jtag p) hopen hmpu hsnap] at hexec
    have hfn := (setReply_fn (id := p.identity) (glbId s.member s.stepping) 0).trans (noteAccess_fn (s := s) (id := p.identity))
    have hgoes := goesOn_of_fn hfn hbusy
    by_cases hrest : rest = []
    · subst hrest
      have hends := hexec.trans (congrArg _ (afterEntry_last hgoes (by simp)))
      obtain ⟨hreplies, hframe⟩ := endReg_frame (s := s) (p := p) (u := setReply (noteAccess s p.identity) p.identity (glbId s.member s.stepping) 0)
      obtain ⟨hreply, hnote⟩ := readGlbId_facts hopen hreplies hframe
      refine ⟨_, hends, hreply, hnote, fun hne => absurd rfl hne, fun _ hdone => ?_⟩
      have hall : ∀ d ∈ c.doneR ++ [(⟨0x0#24, 0, 0, glbId s.member s.stepping⟩ : RegDone)], d.st ≠ 2 :=
        List.forall_mem_append.mpr ⟨hdone, by simp⟩
      have hok := endReg_ok (u := setReply (noteAccess s p.identity) p.identity (glbId s.member s.stepping) 0) (p := p) (tag := c.tag) hall
      exact (congrArg (·.response p .management) hok).trans (response_respond (inProgress_of_fn (p := p) hfn hbusy hop rfl)).1
    · obtain ⟨t, ht, hreplies, hframe, hcap⟩ := afterEntry_next (s := s) (d := ⟨0x0#24, 0, 0, glbId s.member s.stepping⟩) hgoes (by simp) hrest
      obtain ⟨hreply, hnote⟩ := readGlbId_facts hopen hreplies hframe
      exact ⟨t, hexec.trans (congrArg _ ht), hreply, hnote, fun _ => hcap, fun hnil => absurd hnil hrest⟩
  · rw [doEntry_refused ⟨haligned, hknown, hwindow, port_not_jtag p⟩ hwrite hopen hmpu] at hexec
    have hfn := (setReply_fn (id := p.identity) e.value 2).trans ((recordVio_fn (id := p.identity) false e.addr.toNat .write false false r.index 4).trans (noteAccess_fn (s := s) (id := p.identity)))
    have hends := hexec.trans (congrArg _ ((afterEntry_denied (goesOn_of_fn hfn hbusy) rfl).trans (endReg_partial hdone rfl)))
    have hprogress := inProgress_of_fn (p := p) hfn hbusy hop rfl
    exact ⟨_, hends, response_respond hprogress⟩

end Sys2Proof.Machine
end

section
/-! What the close of a Plot does and leaves (R256, R277, R331), and what a secret check waits for (R274, R343, R345). -/

namespace Sys2Proof.Machine

section ClosedPlots

variable {s u : State} {p : Port} {n : Nat}

/-! ### The close of a Plot -/

/-- The commands in flight, the engines, the keys of the Plots, and the capsule of each port's management function. -/
def closePart (s : State) : List Task × List CipherState × List (Option KeyEntry) × (Port → CapState) :=
  (s.fn.tasks, s.engines, s.plots.map PlotState.keys, fun p => s.capOf p .management)

theorem cap_map_other {q : PortFn} {fn gn : CapsuleFn} (h : gn ≠ fn) :
    ({ q with caps := q.caps.map fun c => if c.fn = fn then c.dropped else c } : PortFn).cap gn = q.cap gn := by
  have hkeeps : ∀ c : CapState, (if c.fn = fn then c.dropped else c).fn = c.fn := fun c => by split <;> rfl
  simp only [PortFn.cap]
  induction q.caps with
  | nil => rfl
  | cons c cs ih =>
    rw [List.map_cons, List.find?_cons, List.find?_cons, hkeeps]
    cases hc : c.fn == gn with
    | false => exact ih
    | true => simp [beq_iff_eq.mp hc, h]

theorem closePart_of_eq {t : State} (hfn : t.fn = s.fn) (hengines : t.engines = s.engines) (hplots : t.plots = s.plots) :
    closePart t = closePart s := by
  simp only [closePart, State.capOf, State.pfn, hfn, hengines, hplots]

theorem closePart_modPfn {p : Port} {f : PortFn → PortFn} (h : ∀ q, (f q).cap .management = q.cap .management) :
    closePart (s.modPfn p f) = closePart s := by
  have hcap : ∀ r, (s.modPfn p f).capOf r .management = s.capOf r .management := by
    intro r
    by_cases hr : p = r
    · subst hr
      rw [State.capOf, State.modPfn_pfn, h]
      rfl
    · rw [State.capOf, State.modPfn_pfn_ne s p r f hr]
      rfl
  simp only [closePart, hcap, State.modPfn_tasks, State.modPfn_engines, State.modPfn_plots]

theorem closePart_dropCapsule (p : Port) (m : Nat) : closePart (dropCapsule s p (.credential m)) = closePart s := by
  rw [dropCapsule, if_neg (by simp)]
  exact closePart_modPfn fun q => cap_map_other (by simp)

theorem closePart_modPort (p : Port) (f : PortState → PortState) : closePart (s.modPort p f) = closePart s := by cases p <;> rfl

theorem closePart_detachPlot (m : Nat) : closePart (detachPlot s m) = closePart s := by
  refine foldl_unchanged closePart _ (fun u p => ?_) _ _
  split
  · rfl
  · exact (closePart_modPort _ _).trans (closePart_dropCapsule _ _)

theorem closePart_queueEvents (kind inst d0 d1 : Nat) : closePart (queueEvents s kind inst d0 d1) = closePart s := by
  refine foldl_unchanged closePart _ (fun u p => ?_) _ _
  unfold queueEvent
  split
  · rfl
  · refine closePart_modPfn fun q => ?_
    split <;> rfl

theorem closePart_modPlot {f : PlotState → PlotState} (h : ∀ q, (f q).keys = q.keys) : closePart (s.modPlot n f) = closePart s := by
  simp only [closePart, State.modPlot_plots, map_modify_of_eq h]
  rfl

theorem closePart_setPlotMode (m : PlotMode) (reason : Nat) : closePart (setPlotMode s n m reason) = closePart s := by
  simp only [setPlotMode]
  split
  · rfl
  · exact (closePart_queueEvents _ _ _ _).trans (closePart_modPlot fun _ => rfl)

theorem closePart_clearMembers (m : Nat) : closePart (clearMembers s m) = closePart s := by
  unfold clearMembers
  split
  · refine foldl_unchanged closePart _ (fun u p => ?_) _ _
    rw [ringRequest_eq]
    rfl
  · rfl

/-- The close of a Plot up to its keys: its commands aborted, its bulk re-key dropped, its keys cleared. -/
def keysCleared (s : State) (n : Nat) : State := clearKeys (dropRekey (abortTasks s (taskOfPlot n)) n) [n]

/-- The close of a Plot up to the end of what it aborts. -/
def plotShut (s : State) (n : Nat) (m : PlotMode) (reason : Nat) : State :=
  setPlotMode (detachPlot ((clearMembers (keysCleared s n) n).modPlot n fun p => { p with sanitize := none }) n) n m reason

theorem closePlot_eq (m : PlotMode) (reason : Nat) : closePlot s n m reason = settleTasks (plotShut s n m reason) := rfl

theorem closePart_plotShut (m : PlotMode) (reason : Nat) : closePart (plotShut s n m reason) = closePart (keysCleared s n) := by
  have hshut := closePart_modPlot (s := clearMembers (keysCleared s n) n) (n := n) (f := fun p => { p with sanitize := none }) fun _ => rfl
  exact (closePart_setPlotMode _ _).trans ((closePart_detachPlot _).trans (hshut.trans (closePart_clearMembers _)))

theorem keysCleared_tasks : ∀ x ∈ (keysCleared s n).fn.tasks, x.key.plot = n → x.statusDue = false := by
  intro x hx hn
  obtain ⟨t, -, rfl⟩ := List.mem_map.mp (show x ∈ s.fn.tasks.map _ from hx)
  by_cases ht : taskOfPlot n t = true
  · rw [if_pos ht]
  · rw [if_neg ht] at hn
    exact absurd (by simpa [taskOfPlot] using hn) ht

theorem keysCleared_engines : ∀ e ∈ (keysCleared s n).engines, n ∉ e.keyPlots := by
  intro e he
  obtain ⟨e', -, rfl⟩ := List.mem_map.mp (show e ∈ (dropRekey (abortTasks s (taskOfPlot n)) n).engines.map _ from he)
  split
  · simp
  · next hany => simpa using hany

theorem keysCleared_keys : (keysCleared s n).plots.map PlotState.keys = (s.plots.map PlotState.keys).set n none :=
  map_modify_to (read := PlotState.keys) (f := fun p => { p with keys := none }) (fun _ => rfl) _ _

theorem settleTasks_rest : (∀ p, (settleTasks s).pfn p = s.pfn p) ∧ (settleTasks s).engines = s.engines ∧ (settleTasks s).plots = s.plots := by
  refine ⟨fun p => (foldl_unchanged (State.pfn · p) _ (fun u t => ?_) _ _).trans rfl,
    (foldl_unchanged State.engines _ (fun u t => ?_) _ _).trans rfl, (foldl_unchanged State.plots _ (fun u t => ?_) _ _).trans rfl⟩ <;>
    split <;> rfl

theorem plot_keys : (s.plot n).keys = (s.plots.map PlotState.keys).getD n none := by
  simp only [State.plot, List.getD, List.getElem?_map]
  cases s.plots[n]? <;> rfl

/-- A closed Plot has no key, no command due a status and no engine's copy of its key; the management functions go on. -/
theorem closePlot_facts (m : PlotMode) (reason : Nat) :
    ((closePlot s n m reason).plot n).keys = none ∧
    (∀ x ∈ (closePlot s n m reason).fn.tasks, x.key.plot = n → x.statusDue = false) ∧
    (∀ e ∈ (closePlot s n m reason).engines, n ∉ e.keyPlots) ∧
    ∀ p, (closePlot s n m reason).capOf p .management = s.capOf p .management := by
  obtain ⟨hpfn, hengines, hplots⟩ := settleTasks_rest (s := plotShut s n m reason)
  obtain ⟨ended, -, htasks⟩ := settleTasks_tasks (s := plotShut s n m reason)
  have hpart := closePart_plotShut (s := s) (n := n) m reason
  have htasks' : (plotShut s n m reason).fn.tasks = (keysCleared s n).fn.tasks := congrArg (fun v => v.1) hpart
  have hengines' : (plotShut s n m reason).engines = (keysCleared s n).engines := congrArg (fun v => v.2.1) hpart
  have hkeys : (plotShut s n m reason).plots.map PlotState.keys = (s.plots.map PlotState.keys).set n none :=
    (congrArg (fun v => v.2.2.1) hpart).trans keysCleared_keys
  have hcaps : (fun p => (plotShut s n m reason).capOf p .management) = fun p => s.capOf p .management :=
    congrArg (fun v => v.2.2.2) hpart
  rw [closePlot_eq]
  refine ⟨?_, fun x hx => ?_, ?_, fun p => ?_⟩
  · rw [plot_keys, hplots, hkeys]
    by_cases hlen : n < s.plots.length <;> simp [hlen]
  · rw [htasks, htasks'] at hx
    exact keysCleared_tasks x (List.mem_filter.mp hx).1
  · rw [hengines, hengines']
    exact keysCleared_engines
  · rw [State.capOf, hpfn]
    exact congrFun hcaps p

/-- What a Plot is closed as. -/
theorem closePlot_mode (m : PlotMode) (reason : Nat) (h : n < s.plots.length) : ((closePlot s n m reason).plot n).mode = m := by
  rw [plot_mode, quietPart_closePlot]
  simp [quietPart, h]

/-! ### A Plot's new state -/

theorem setPlotMode_plots {m : PlotMode} (reason : Nat) (h : (s.plot n).mode ≠ m) :
    (setPlotMode s n m reason).plots = s.plots.modify n fun p => { p with mode := m } := by
  simp only [setPlotMode, if_neg h]
  rw [queueEvents_eq]
  rfl

end ClosedPlots

/-! ### A secret check that waits its turn (R274, R343, R345) -/

section Checks

variable {s : State} {n : Nat} {f : PlotState → PlotState}

/-- A Plot changed in what its reader does not see. -/
theorem plot_modPlot_of_eq {α : Type} {read : PlotState → α} (h : ∀ p, read (f p) = read p) (k : Nat) :
    read ((s.modPlot n f).plot k) = read (s.plot k) := by
  simp only [State.plot, State.modPlot_plots, List.getD, List.getElem?_modify]
  by_cases hk : n = k
  · cases s.plots[k]? <;> simp [hk, h]
  · cases s.plots[k]? <;> simp [hk]

/-- A Plot changed in its waiting checks only. -/
def OnlyChecks (f : PlotState → PlotState) : Prop := ∀ p : PlotState, { f p with checks := p.checks } = p

theorem OnlyChecks.read {α : Type} {read : PlotState → α} (h : OnlyChecks f) (hread : ∀ p l, read { p with checks := l } = read p)
    (p : PlotState) : read (f p) = read p := by
  rw [← hread (f p) p.checks, h p]

theorem unlockRefusal_onlyChecks (h : OnlyChecks f) (mode : Nat) : (s.modPlot n f).unlockRefusal n mode = s.unlockRefusal n mode := by
  have hmode := plot_modPlot_of_eq (s := s) (n := n) (h.read (read := PlotState.mode) fun _ _ => rfl) n
  simp only [State.unlockRefusal, hmode]
  rfl

theorem secretRefusal_onlyChecks (h : OnlyChecks f) (rewrap : Bool) : (s.modPlot n f).secretRefusal n rewrap = s.secretRefusal n rewrap := by
  have hmode := plot_modPlot_of_eq (s := s) (n := n) (h.read (read := PlotState.mode) fun _ _ => rfl) n
  have hrecord := plot_modPlot_of_eq (s := s) (n := n) (h.read (read := PlotState.record) fun _ _ => rfl) n
  simp only [State.secretRefusal, hmode, hrecord]
  rfl

theorem checkRefusal_onlyChecks (h : OnlyChecks f) (c : SecretCheck) : (s.modPlot n f).checkRefusal n c = s.checkRefusal n c := by
  cases hc : c.what with
  | unlock mode =>
    simp only [State.checkRefusal, hc, unlockRefusal_onlyChecks h]
    rfl
  | rewrap new => simp only [State.checkRefusal, hc, secretRefusal_onlyChecks h]
  | provision new => simp only [State.checkRefusal, hc, secretRefusal_onlyChecks h]

theorem fenv_onlyChecks (h : OnlyChecks f) (k : Nat) : (s.modPlot n f).fenv k = s.fenv k := by
  have hmode := plot_modPlot_of_eq (s := s) (n := n) (h.read (read := PlotState.mode) fun _ _ => rfl)
  have hrecord := plot_modPlot_of_eq (s := s) (n := n) (h.read (read := PlotState.record) fun _ _ => rfl)
  simp only [State.fenv, hmode, hrecord]
  rfl

theorem trimDone_onlyChecks (h : OnlyChecks f) : (s.modPlot n f).trimDone n = s.trimDone n := by
  have howed := plot_modPlot_of_eq (s := s) (n := n) (h.read (read := PlotState.trimOwed) fun _ _ => rfl) n
  have hfield : (s.modPlot n f).fieldOf n = s.fieldOf n := rfl
  simp only [State.trimDone, howed, hfield, fenv_onlyChecks h, State.modPlot_field]

end Checks

end Sys2Proof.Machine
end

section
/-! The vault opcodes UNLOCK, LOCK and SET_SECRET (R268, R273, R274, R277, R278, R344 to R346); O23. -/

namespace Sys2Proof.Machine

section VaultOpcodes

variable {s : State} {c : Instr} {p : Port} {tag op n : Nat} {pl : List Byte} {run : State → State} {st d : Nat} {b : List Byte}

/-! ### A vault opcode from a port (R268, R273) -/

/-- A command is a vault opcode with the decision it comes to for a Plot of this device. -/
def IsVault (c : Instr) (p : Port) (tag op n : Nat) (pl : List Byte) (run : State → State) : Prop :=
  ∀ s, exec c s = .next (vaultOp s p op tag n pl run)

theorem isVault_unlock (mode : Nat) (x : List Byte) : IsVault (.unlock p tag n mode x) p tag 0x10 n (unlockPayload n mode x)
    fun s => unlockPlot s (.port p tag) p.identity n mode x := fun _ => rfl
theorem isVault_lock : IsVault (.lock p tag n) p tag 0x11 n (leBytes 2 n ++ [0, 0]) fun s => lockPlot s (.port p tag) p.identity n := fun _ => rfl
theorem isVault_lockDemote : IsVault (.lockDemote p tag n) p tag 0x11 n (leBytes 2 n ++ [1, 0])
    fun s => demotePlot s (.port p tag) p.identity n := fun _ => rfl
theorem isVault_setSecret (new : List Byte) : IsVault (.setSecret p tag n new) p tag 0x12 n (secretPayload n [] new)
    fun s => secretPlot s (.port p tag) p.identity n none new := fun _ => rfl
theorem isVault_rewrap (old new : List Byte) : IsVault (.rewrap p tag n old new) p tag 0x12 n (secretPayload n old new)
    fun s => secretPlot s (.port p tag) p.identity n (some old) new := fun _ => rfl

/-- A request taken changes what its function keeps. -/
theorem beginCapsule_eq (fn : CapsuleFn) : beginCapsule s p fn op tag = { s with fn := (beginCapsule s p fn op tag).fn } := by cases p <;> rfl

/-- The state in which a vault opcode is decided. -/
def vaultTaken (s : State) (p : Port) (op tag : Nat) : State := beginCapsule s p .management op tag

theorem IsVault.runs (hc : IsVault c p tag op n pl run) (h : s.takes p .management = true) : exec c s = .next (
    ((fieldFault? op pl).map fun o => mgmtStatus (vaultTaken s p op tag) p op tag stBadField o).getD
      (if 64 ≤ n then (if s.hasLayout then forwardVault (vaultTaken s p op tag) p op tag n pl else mgmtStatus (vaultTaken s p op tag) p op tag stNoLayout 0)
       else run (vaultTaken s p op tag))) := by
  have hlayout : (vaultTaken s p op tag).hasLayout = s.hasLayout := by rw [vaultTaken, beginCapsule_eq]; rfl
  rw [hc s, vaultOp, withCapsule, if_pos h, ← hlayout]
  cases fieldFault? op pl <;> rfl

/-- An opcode that comes to an answer at once. -/
theorem responds_vault (hexec : exec c s = .next (answerVault (vaultTaken s p op tag) (.port p tag) op st d b)) :
    Responds s c p .management ⟨op, false, tag, 0, st, d, b⟩ :=
  responds_of_respond hexec onlyCaps_beginCapsule inProgress_beginCapsule

theorem IsVault.bad_field (hc : IsVault c p tag op n pl run) (h : s.takes p .management = true) {o : Nat} (hf : fieldFault? op pl = some o) :
    Responds s c p .management ⟨op, false, tag, 0, stBadField, o, []⟩ := by
  refine responds_vault ?_
  rw [hc.runs h, hf]
  rfl

theorem IsVault.here (hc : IsVault c p tag op n pl run) (h : s.takes p .management = true) (hf : fieldFault? op pl = none) (hn : n < 64) :
    exec c s = .next (run (vaultTaken s p op tag)) := by
  rw [hc.runs h, hf]
  exact congrArg _ (if_neg (Nat.not_le.mpr hn))

theorem IsVault.responds (hc : IsVault c p tag op n pl run) (h : s.takes p .management = true) (hf : fieldFault? op pl = none) (hn : n < 64)
    (hrun : run (vaultTaken s p op tag) = answerVault (vaultTaken s p op tag) (.port p tag) op st d b) :
    Responds s c p .management ⟨op, false, tag, 0, st, d, b⟩ :=
  responds_vault ((hc.here h hf hn).trans (congrArg _ hrun))

theorem IsVault.away (hc : IsVault c p tag op n pl run) (h : s.takes p .management = true) (hf : fieldFault? op pl = none) (hn : 64 ≤ n) :
    (s.hasLayout = false → Responds s c p .management ⟨op, false, tag, 0, stNoLayout, 0, []⟩) ∧
    (s.hasLayout = true → (128 ≤ n ∨ s.isMaster = true → Responds s c p .management ⟨op, false, tag, 0, stNoPlot, 0, []⟩) ∧
      exec c s = .next (forwardVault (vaultTaken s p op tag) p op tag n pl)) := by
  have hexec := hc.runs h
  rw [hf] at hexec
  replace hexec := hexec.trans (congrArg _ (if_pos hn))
  refine ⟨fun hlayout => responds_vault (hexec.trans ?_), fun hlayout => ?_⟩
  · rw [if_neg (by simp [hlayout])]
    rfl
  · rw [if_pos hlayout] at hexec
    refine ⟨fun hnobody => responds_vault (hexec.trans ?_), hexec⟩
    have hmaster : (vaultTaken s p op tag).isMaster = s.isMaster := by rw [vaultTaken, beginCapsule_eq]; rfl
    rw [forwardVault, hmaster, if_pos hnobody]
    rfl

/-- The refusals that come before every decision on a Plot. -/
structure DecidesVault (p : Port) (tag op n : Nat) (run : State → State) : Prop where
  refused : ∀ s st d, vaultRefusal s p.identity n = some (st, d) → run s = answerVault s (.port p tag) op st d []
  noPlot : ∀ s, vaultRefusal s p.identity n = none → s.plotCfg? n = none → run s = answerVault s (.port p tag) op stNoPlot 0 []

theorem hasLayout_of_vaultRefusal {id : Identity} (h : vaultRefusal s id n = none) : s.hasLayout = true := by
  cases hl : s.hasLayout with
  | true => rfl
  | false => simp [vaultRefusal, hl] at h

theorem askCheck_refused {a : Asker} {what : CheckFor} {secret : List Byte} (h : s.gateRefusal n ⟨a, what, secret, false⟩ = some (st, d)) :
    askCheck s n a what secret = answerVault s a what.opcode st d [] := by
  simp only [askCheck, h]

/-- A secret check of a Plot that nobody has. -/
theorem gateRefusal_noPlot {c : SecretCheck} (hl : s.hasLayout = true) (hp : s.plotCfg? n = none) : s.gateRefusal n c = some (stNoPlot, 0) := by
  have hnone : s.noPlotRefusal n = some (stNoPlot, 0) := by simp [State.noPlotRefusal, hl, hp, stNoPlot]
  cases hc : c.what <;> simp [State.gateRefusal, hc, State.unlockFirst, hnone]

theorem decidesVault_unlock (mode : Nat) (x : List Byte) : DecidesVault p tag 0x10 n fun s => unlockPlot s (.port p tag) p.identity n mode x where
  refused := fun s st d h => by simp only [unlockPlot, h]
  noPlot := fun s h hp => by
    simp only [unlockPlot, h]
    rw [if_neg (by simp [hp]), askCheck_refused (gateRefusal_noPlot (hasLayout_of_vaultRefusal h) hp)]
    rfl

theorem decidesVault_lock : DecidesVault p tag 0x11 n fun s => lockPlot s (.port p tag) p.identity n where
  refused := fun s st d h => by simp only [lockPlot, h]
  noPlot := fun s h hp => by simp [lockPlot, h, hp]

theorem decidesVault_lockDemote : DecidesVault p tag 0x11 n fun s => demotePlot s (.port p tag) p.identity n where
  refused := fun s st d h => by simp only [demotePlot, h]
  noPlot := fun s h hp => by simp [demotePlot, h, hp]

theorem decidesVault_secret (old : Option (List Byte)) (new : List Byte) :
    DecidesVault p tag 0x12 n fun s => secretPlot s (.port p tag) p.identity n old new where
  refused := fun s st d h => by simp only [secretPlot, h]
  noPlot := fun s h hp => by
    have hgate := fun c => gateRefusal_noPlot (c := c) (hasLayout_of_vaultRefusal h) hp
    simp only [secretPlot, h]
    cases old with
    | none => exact askCheck_refused (hgate _)
    | some o => exact askCheck_refused (hgate _)

/-- What each of the five commands decides. -/
theorem vault_of_command (h : (c = .lock p tag n ∧ op = 0x11 ∧ pl = leBytes 2 n ++ [0, 0]) ∨ (c = .lockDemote p tag n ∧ op = 0x11 ∧ pl = leBytes 2 n ++ [1, 0]) ∨
    (∃ mode x, c = .unlock p tag n mode x ∧ op = 0x10 ∧ pl = unlockPayload n mode x) ∨
    (∃ old new, c = .rewrap p tag n old new ∧ op = 0x12 ∧ pl = secretPayload n old new) ∨
    (∃ new, c = .setSecret p tag n new ∧ op = 0x12 ∧ pl = secretPayload n [] new)) :
    ∃ run, IsVault c p tag op n pl run ∧ DecidesVault p tag op n run := by
  obtain ⟨rfl, rfl, rfl⟩ | ⟨rfl, rfl, rfl⟩ | ⟨mode, x, rfl, rfl, rfl⟩ | ⟨old, new, rfl, rfl, rfl⟩ | ⟨new, rfl, rfl, rfl⟩ := h
  · exact ⟨_, isVault_lock, decidesVault_lock⟩
  · exact ⟨_, isVault_lockDemote, decidesVault_lockDemote⟩
  · exact ⟨_, isVault_unlock mode x, decidesVault_unlock mode x⟩
  · exact ⟨_, isVault_rewrap old new, decidesVault_secret (some old) new⟩
  · exact ⟨_, isVault_setSecret new, decidesVault_secret none new⟩

theorem vaultRefusal_taken (id : Identity) : vaultRefusal (vaultTaken s p op tag) id n = vaultRefusal s id n := by
  rw [vaultTaken, beginCapsule_eq]
  rfl

/-- Before the Plot is looked at: no layout, another's semaphore, and a Plot that nobody has. -/
theorem IsVault.refusals (hc : IsVault c p tag op n pl run) (hd : DecidesVault p tag op n run) (h : s.takes p .management = true)
    (hf : fieldFault? op pl = none) (hn : n < 64) :
    (s.hasLayout = false → Responds s c p .management ⟨op, false, tag, 0, stNoLayout, 0, []⟩) ∧
    (s.hasLayout = true → ∀ o, s.plotSemHeld n p.identity = some o → Responds s c p .management ⟨op, false, tag, 0, stNoSem, o.toNat, []⟩) ∧
    (s.hasLayout = true → s.plotSemHeld n p.identity = none → s.plotCfg? n = none →
      Responds s c p .management ⟨op, false, tag, 0, stNoPlot, 0, []⟩) := by
  refine ⟨fun hl => hc.responds h hf hn (hd.refused _ _ _ ?_), fun hl o ho => hc.responds h hf hn (hd.refused _ _ _ ?_),
    fun hl ho hp => hc.responds h hf hn (hd.noPlot _ ?_ ?_)⟩
  · rw [vaultRefusal_taken]
    simp [vaultRefusal, hl]
  · rw [vaultRefusal_taken]
    simp [vaultRefusal, hl, ho]
  · rw [vaultRefusal_taken]
    simp [vaultRefusal, hl, ho]
  · rw [vaultTaken, beginCapsule_eq]
    exact hp

end VaultOpcodes
end Sys2Proof.Machine
end

section
/-! The decisions of a vault opcode on a Plot of this device (R274, R277, R278, R344 to R346); O23. -/

namespace Sys2Proof.Machine

section VaultDecisions

variable {s : State} {c : Instr} {p : Port} {tag op n : Nat} {pl : List Byte} {run : State → State}

/-! ### A Plot of this device -/

/-- Plot n is in this device's layout and no other identity than the port's holds its semaphore. -/
structure PlotHere (s : State) (p : Port) (n : Nat) : Prop where
  small : n < 64
  length : n < s.plots.length
  layout : s.hasLayout = true
  free : s.plotSemHeld n p.identity = none
  plot : (s.plotCfg? n).isSome = true

/-- What a request taken leaves: everything that its function's state is not part of. -/
theorem vaultTaken_read {α : Type} {read : State → α} (h : ∀ u fn, read { u with fn := fn } = read u) : read (vaultTaken s p op tag) = read s := by
  rw [vaultTaken, beginCapsule_eq]
  exact h s _

theorem vaultTaken_vaultDark : (vaultTaken s p op tag).vaultDark = s.vaultDark := vaultTaken_read fun _ _ => rfl
theorem vaultTaken_plot : (vaultTaken s p op tag).plot n = s.plot n := vaultTaken_read (read := (State.plot · n)) fun _ _ => rfl

theorem inProgress_vaultTaken : InProgress (vaultTaken s p op tag) p .management op tag := inProgress_beginCapsule

theorem PlotHere.taken (h : PlotHere s p n) : PlotHere (vaultTaken s p op tag) p n := by
  rw [vaultTaken, beginCapsule_eq]
  exact ⟨h.small, h.length, h.layout, h.free, h.plot⟩

theorem PlotHere.no_refusal (h : PlotHere s p n) : vaultRefusal s p.identity n = none := by simp [vaultRefusal, h.layout, h.free]

theorem PlotHere.noPlotRefusal (h : PlotHere s p n) : s.noPlotRefusal n = none := by
  simp [State.noPlotRefusal, h.layout, Option.isSome_iff_ne_none.mp h.plot]

/-! ### LOCK (R277, R278) -/

theorem fieldFault_lock {m : Byte} (hm : m = 0 ∨ m = 1) (hn : n < 65536) :
    fieldFault? 0x11 (leBytes 2 n ++ [m, 0]) = if n ≤ 1023 then none else some 0 := by
  have hplot : leNat (slice (leBytes 2 n ++ [m, 0]) 0 2) = n := by
    simp only [leBytes, slice, List.cons_append, List.nil_append, List.drop_zero, List.take_succ_cons, List.take_zero, leNat, BitVec.toNat_ofNat]
    omega
  obtain rfl | rfl := hm <;>
  · simp only [fieldFault?, hplot]
    by_cases hle : n ≤ 1023 <;> simp [hle, leBytes, slice, leNat]

theorem PlotHere.fieldFault_lock (h : PlotHere s p n) {m : Byte} (hm : m = 0 ∨ m = 1) : fieldFault? 0x11 (leBytes 2 n ++ [m, 0]) = none := by
  have hn := h.small
  rw [Machine.fieldFault_lock hm (by omega), if_pos (by omega)]

theorem lock_out_of_range (ht : s.takes p .management = true) (hlow : 1024 ≤ n) (hn : n < 65536) :
    Responds s (.lock p tag n) p .management ⟨0x11, false, tag, 0, stBadField, 0, []⟩ ∧
    Responds s (.lockDemote p tag n) p .management ⟨0x11, false, tag, 0, stBadField, 0, []⟩ := by
  have hfault : ∀ {m : Byte}, m = 0 ∨ m = 1 → fieldFault? 0x11 (leBytes 2 n ++ [m, 0]) = some 0 := fun hm => by
    rw [Machine.fieldFault_lock hm hn, if_neg (by omega)]
  exact ⟨isVault_lock.bad_field ht (hfault (.inl rfl)), isVault_lockDemote.bad_field ht (hfault (.inr rfl))⟩

/-- What a LOCK of a Plot that is there comes to, by the Plot's state. -/
def lockDecided (s : State) (a : Asker) (n : Nat) : State :=
  if s.vaultDark then answerVault s a 0x11 stNotReady 0 []
  else match (s.plot n).mode with
    | .closed => answerVault s a 0x11 0 1 [1, 0, 0, 0]
    | .erased => answerVault s a 0x11 stErased 0 []
    | .safelight => answerVault s a 0x11 stSafelight 0 []
    | .absent => answerVault s a 0x11 stNoPlot 0 []
    | _ => answerVault (closePlot s n .closed 0) a 0x11 0 0 [1, 0, 0, 0]

theorem lockPlot_eq {a : Asker} (h : PlotHere s p n) : lockPlot s a p.identity n = lockDecided s a n := by
  simp only [lockPlot, h.no_refusal]
  rw [if_neg (by simp [Option.isSome_iff_ne_none.mp h.plot])]
  rfl

theorem exec_lock (ht : s.takes p .management = true) (h : PlotHere s p n) :
    exec (.lock p tag n) s = .next (lockDecided (vaultTaken s p 0x11 tag) (.port p tag) n) := by
  rw [isVault_lock.here ht (h.fieldFault_lock (.inl rfl)) h.small, lockPlot_eq h.taken]

theorem lock_answers (ht : s.takes p .management = true) (h : PlotHere s p n) :
    (s.vaultDark = true → Responds s (.lock p tag n) p .management ⟨0x11, false, tag, 0, stNotReady, 0, []⟩) ∧
    (s.vaultDark = false →
      ((s.plot n).mode = .closed → Responds s (.lock p tag n) p .management ⟨0x11, false, tag, 0, 0, 1, [1, 0, 0, 0]⟩) ∧
      ((s.plot n).mode = .erased → Responds s (.lock p tag n) p .management ⟨0x11, false, tag, 0, stErased, 0, []⟩) ∧
      ((s.plot n).mode = .safelight → Responds s (.lock p tag n) p .management ⟨0x11, false, tag, 0, stSafelight, 0, []⟩)) := by
  have hanswers : ∀ {st d b}, lockDecided (vaultTaken s p 0x11 tag) (.port p tag) n = answerVault (vaultTaken s p 0x11 tag) (.port p tag) 0x11 st d b →
      Responds s (.lock p tag n) p .management ⟨0x11, false, tag, 0, st, d, b⟩ := fun he => responds_vault ((exec_lock ht h).trans (congrArg _ he))
  refine ⟨fun hdark => hanswers ?_, fun hdark => ⟨fun hm => hanswers ?_, fun hm => hanswers ?_, fun hm => hanswers ?_⟩⟩ <;>
    simp [lockDecided, vaultTaken_vaultDark, vaultTaken_plot, *]

/-- The answer to a request in progress changes nothing but its function. -/
theorem respond_eq (fn : CapsuleFn) (r : Response) : respond s p fn r = { s with fn := (respond s p fn r).fn } := by cases p <;> rfl

theorem lock_closes (ht : s.takes p .management = true) (h : PlotHere s p n) (hdark : s.vaultDark = false)
    (hmode : (s.plot n).mode = .open_ ∨ (s.plot n).mode = .readOnly) :
    ∃ t, exec (.lock p tag n) s = .next t ∧ t.response p .management = some ⟨0x11, false, tag, 0, 0, 0, [1, 0, 0, 0]⟩ ∧
      (t.plot n).mode = .closed ∧ (t.plot n).keys = none ∧ (∀ x ∈ t.fn.tasks, x.key.plot = n → x.statusDue = false) ∧
      (∀ e ∈ t.engines, n ∉ e.keyPlots) := by
  have hdecided : lockDecided (vaultTaken s p 0x11 tag) (.port p tag) n =
      respond (closePlot (vaultTaken s p 0x11 tag) n .closed 0) p .management ⟨0x11, false, tag, 0, 0, 0, [1, 0, 0, 0]⟩ := by
    obtain hm | hm := hmode <;> simp [lockDecided, vaultTaken_vaultDark, vaultTaken_plot, hdark, hm, answerVault]
  obtain ⟨hkeys, htasks, hengines, hcaps⟩ := closePlot_facts (s := vaultTaken s p 0x11 tag) (n := n) .closed 0
  have hprogress : InProgress (closePlot (vaultTaken s p 0x11 tag) n .closed 0) p .management 0x11 tag := by
    rw [InProgress, hcaps]
    exact inProgress_vaultTaken
  refine ⟨_, (exec_lock ht h).trans (congrArg _ hdecided), (response_respond hprogress).1, ?_⟩
  refine ⟨?_, ?_, fun x hx => htasks x (onlyCaps_respond.tasks ▸ hx), ?_⟩
  · rw [respond_eq]
    exact closePlot_mode _ _ h.taken.length
  · rw [respond_eq]
    exact hkeys
  · rw [respond_eq]
    exact hengines

/-- An Open Plot made Read-only by a LOCK. -/
def demoted (s : State) (n : Nat) : State := (setPlotMode s n .readOnly 0).modPlot n fun q => { q with roCause := 1, byUnlock := true }

theorem setPlotMode_plot {m : PlotMode} (reason : Nat) (hne : (s.plot n).mode ≠ m) (hlen : n < s.plots.length) :
    (setPlotMode s n m reason).plot n = { s.plot n with mode := m } := by
  have hplot := s.modPlot_plot n (fun q => { q with mode := m }) hlen
  rwa [State.plot, State.modPlot_plots, ← setPlotMode_plots reason hne] at hplot

theorem demoted_plot (hmode : (s.plot n).mode = .open_) (hlen : n < s.plots.length) :
    (demoted s n).plot n = { s.plot n with mode := .readOnly, roCause := 1, byUnlock := true } := by
  rw [demoted, State.modPlot_plot _ _ _ (by rwa [setPlotMode_plots_length]), setPlotMode_plot _ (by simp [hmode]) hlen]

theorem inProgress_of_closePart {u : State} (h : closePart u = closePart s) (hs : InProgress s p .management op tag) :
    InProgress u p .management op tag := by
  have hcap : u.capOf p .management = s.capOf p .management := congrArg (fun part => part.2.2.2 p) h
  rwa [InProgress, hcap]

theorem inProgress_demoted (h : InProgress s p .management op tag) : InProgress (demoted s n) p .management op tag :=
  inProgress_of_closePart ((closePart_modPlot (f := fun q => { q with roCause := 1, byUnlock := true }) fun _ => rfl).trans (closePart_setPlotMode _ _)) h

/-- What a LOCK with MODE 1 of a Plot that is there comes to. -/
def demoteDecided (s : State) (a : Asker) (n : Nat) : State :=
  if s.vaultDark then answerVault s a 0x11 stNotReady 0 []
  else if (s.plot n).mode ≠ .open_ then answerVault s a 0x11 stWrongState (s.plot n).mode.code []
  else answerVault (demoted s n) a 0x11 0 0 [3, 0, 0, 0]

theorem demotePlot_eq {a : Asker} (h : PlotHere s p n) : demotePlot s a p.identity n = demoteDecided s a n := by
  simp only [demotePlot, h.no_refusal]
  rw [if_neg (by simp [Option.isSome_iff_ne_none.mp h.plot])]
  rfl

theorem exec_lockDemote (ht : s.takes p .management = true) (h : PlotHere s p n) :
    exec (.lockDemote p tag n) s = .next (demoteDecided (vaultTaken s p 0x11 tag) (.port p tag) n) := by
  rw [isVault_lockDemote.here ht (h.fieldFault_lock (.inr rfl)) h.small, demotePlot_eq h.taken]

theorem lockDemote_answers (ht : s.takes p .management = true) (h : PlotHere s p n) :
    (s.vaultDark = true → Responds s (.lockDemote p tag n) p .management ⟨0x11, false, tag, 0, stNotReady, 0, []⟩) ∧
    (s.vaultDark = false → (s.plot n).mode ≠ .open_ →
      Responds s (.lockDemote p tag n) p .management ⟨0x11, false, tag, 0, stWrongState, (s.plot n).mode.code, []⟩) := by
  refine ⟨fun hdark => responds_vault ((exec_lockDemote ht h).trans (congrArg _ ?_)),
    fun hdark hm => responds_vault ((exec_lockDemote ht h).trans (congrArg _ ?_))⟩ <;>
    simp [demoteDecided, vaultTaken_vaultDark, vaultTaken_plot, *]

theorem respond_plot {r : Response} (fn : CapsuleFn) (k : Nat) : (respond s p fn r).plot k = s.plot k := by
  rw [respond_eq]
  rfl

theorem lockDemote_demotes (ht : s.takes p .management = true) (h : PlotHere s p n) (hdark : s.vaultDark = false) (hmode : (s.plot n).mode = .open_) :
    ∃ t, exec (.lockDemote p tag n) s = .next t ∧ t.response p .management = some ⟨0x11, false, tag, 0, 0, 0, [3, 0, 0, 0]⟩ ∧
      (t.plot n).mode = .readOnly ∧ (t.plot n).roCause = 1 ∧ (t.plot n).byUnlock = true ∧ (t.plot n).keys = (s.plot n).keys := by
  have hdecided : demoteDecided (vaultTaken s p 0x11 tag) (.port p tag) n =
      respond (demoted (vaultTaken s p 0x11 tag) n) p .management ⟨0x11, false, tag, 0, 0, 0, [3, 0, 0, 0]⟩ := by
    simp [demoteDecided, vaultTaken_vaultDark, vaultTaken_plot, hdark, hmode, answerVault]
  have hplot := demoted_plot (s := vaultTaken s p 0x11 tag) (n := n) (by rwa [vaultTaken_plot]) h.taken.length
  have hprogress : InProgress (demoted (vaultTaken s p 0x11 tag) n) p .management 0x11 tag := inProgress_demoted inProgress_vaultTaken
  refine ⟨_, (exec_lockDemote ht h).trans (congrArg _ hdecided), (response_respond hprogress).1, ?_⟩
  rw [respond_plot, hplot, vaultTaken_plot]
  exact ⟨rfl, rfl, rfl, rfl⟩

end VaultDecisions
end Sys2Proof.Machine
end

section
/-! The secret checks of a vault opcode (R274, R344 to R346): what UNLOCK and SET_SECRET come to; O23. -/

namespace Sys2Proof.Machine

section SecretChecks

variable {s : State} {c : Instr} {p : Port} {tag op n st d : Nat} {what : CheckFor} {secret new : List Byte}

/-! ### A check at its grant -/

/-- A Plot's queue with one check more. -/
def queued (s : State) (n : Nat) (c : SecretCheck) : State := s.modPlot n fun q => { q with checks := q.checks ++ [c] }

theorem onlyChecks_append (c : SecretCheck) : OnlyChecks fun q => { q with checks := q.checks ++ [c] } := fun _ => rfl

theorem queued_plot (c : SecretCheck) (h : n < s.plots.length) : (queued s n c).plot n = { s.plot n with checks := (s.plot n).checks ++ [c] } :=
  s.modPlot_plot n _ h

theorem queued_checks (c : SecretCheck) (h : n < s.plots.length) (hchecks : (s.plot n).checks = []) : ((queued s n c).plot n).checks = [c] := by
  rw [queued_plot c h, hchecks]
  rfl

/-- Whether nothing but the secret itself decides a check: no development has to be forced for it. -/
def CheckFor.ready (what : CheckFor) (s : State) (n : Nat) : Prop := ∀ new, what = .provision new → s.trimDone n = true

/-- A check that nothing refuses joins the queue, which is then run. -/
theorem askCheck_queues {a : Asker} (hgate : s.gateRefusal n ⟨a, what, secret, false⟩ = none) (hready : what.ready s n) :
    askCheck s n a what secret = runChecks n ((queued s n ⟨a, what, secret, false⟩).plot n).checks.length (queued s n ⟨a, what, secret, false⟩) := by
  simp only [askCheck, hgate]
  cases what with
  | unlock mode => rfl
  | rewrap new => rfl
  | provision new =>
    have htrim : (queued s n ⟨a, .provision new, secret, false⟩).trimDone n = true :=
      (trimDone_onlyChecks (onlyChecks_append _)).trans (hready new rfl)
    cases hf : s.fieldOf n with
    | none =>
      have hf' : (queued s n ⟨a, .provision new, secret, false⟩).fieldOf n = none := hf
      rw [← queued]
      simp only [hf']
    | some f =>
      have hf' : (queued s n ⟨a, .provision new, secret, false⟩).fieldOf n = some f := hf
      rw [← queued]
      simp only [hf', htrim, if_true]

/-- The front of the queue with a secret to compare waits. -/
theorem runChecks_waits {a : Asker} (hchecks : (s.plot n).checks = [⟨a, what, secret, false⟩])
    (hrefusal : s.checkRefusal n ⟨a, what, secret, false⟩ = none) (hwaits : ∀ new, what = .provision new → s.sec.drbgReady = false) :
    runChecks n 1 s = s := by
  simp only [runChecks, hchecks, hrefusal]
  cases what with
  | unlock mode => rfl
  | rewrap new => rfl
  | provision new => simp [hwaits new rfl]

/-- A provisioning at the front of the queue goes through. -/
theorem runChecks_provisions {a : Asker} (hchecks : (s.plot n).checks = [⟨a, .provision new, secret, false⟩])
    (hrefusal : s.checkRefusal n ⟨a, .provision new, secret, false⟩ = none) (htrim : s.trimDone n = true) (hready : s.sec.drbgReady = true) :
    runChecks n 1 s = answerVault (provision (popCheck s n) n new) a 0x12 0 0 [] := by
  simp only [runChecks, hchecks, hrefusal, htrim, hready]
  rfl

/-- An asked check that nothing refuses: its queue of one is run. -/
theorem askCheck_alone {a : Asker} (hgate : s.gateRefusal n ⟨a, what, secret, false⟩ = none) (hready : what.ready s n)
    (hlen : n < s.plots.length) (hchecks : (s.plot n).checks = []) :
    askCheck s n a what secret = runChecks n 1 (queued s n ⟨a, what, secret, false⟩) := by
  rw [askCheck_queues hgate hready, queued_checks _ hlen hchecks]
  rfl

theorem queued_checkRefusal (x c : SecretCheck) : (queued s n x).checkRefusal n c = s.checkRefusal n c :=
  checkRefusal_onlyChecks (onlyChecks_append x) c

theorem askCheck_waits {a : Asker} (hgate : s.gateRefusal n ⟨a, what, secret, false⟩ = none) (hready : what.ready s n)
    (hrefusal : s.checkRefusal n ⟨a, what, secret, false⟩ = none) (hwaits : ∀ new, what = .provision new → s.sec.drbgReady = false)
    (hlen : n < s.plots.length) (hchecks : (s.plot n).checks = []) :
    askCheck s n a what secret = queued s n ⟨a, what, secret, false⟩ := by
  rw [askCheck_alone hgate hready hlen hchecks]
  exact runChecks_waits (queued_checks _ hlen hchecks) ((queued_checkRefusal _ _).trans hrefusal) hwaits

/-! ### The gate of a check (R208, R274) -/

theorem PlotHere.gateRefusal (h : PlotHere s p n) {c : SecretCheck} (hfirst : ∀ mode, c.what = .unlock mode → s.unlockFirst n = none) :
    s.gateRefusal n c = if s.vaultDark then some (stNotReady, 0) else s.checkRefusal n c := by
  cases hc : c.what with
  | unlock mode => simp only [State.gateRefusal, hc, hfirst mode hc]; rfl
  | rewrap new => simp only [State.gateRefusal, hc, h.noPlotRefusal]; rfl
  | provision new => simp only [State.gateRefusal, hc, h.noPlotRefusal]; rfl

/-! ### The opcodes that ask for a check -/

/-- A command asks for a secret check of a Plot. -/
def Asks (s : State) (c : Instr) (p : Port) (tag n : Nat) (what : CheckFor) (secret : List Byte) : Prop :=
  exec c s = .next (askCheck (vaultTaken s p what.opcode tag) n (.port p tag) what secret)

/-- The check that a command from a port asks for. -/
def portCheck (p : Port) (tag : Nat) (what : CheckFor) (secret : List Byte) : SecretCheck := ⟨.port p tag, what, secret, false⟩

theorem asks_unlock {mode : Nat} {x : List Byte} (ht : s.takes p .management = true) (h : PlotHere s p n)
    (hf : fieldFault? 0x10 (unlockPayload n mode x) = none) (hlone : s.loneMember = false) : Asks s (.unlock p tag n mode x) p tag n (.unlock mode) x := by
  have hlone' : (vaultTaken s p 0x10 tag).loneMember = false := (vaultTaken_read fun _ _ => rfl).trans hlone
  refine ((isVault_unlock mode x).here ht hf h.small).trans (congrArg _ ?_)
  simp [unlockPlot, h.taken.no_refusal, hlone', CheckFor.opcode]

theorem unlock_lone {mode : Nat} {x : List Byte} (ht : s.takes p .management = true) (h : PlotHere s p n)
    (hf : fieldFault? 0x10 (unlockPayload n mode x) = none) (hlone : s.loneMember = true) :
    Responds s (.unlock p tag n mode x) p .management ⟨0x10, false, tag, 0, stLinkLost, 0, []⟩ := by
  have hlone' : (vaultTaken s p 0x10 tag).loneMember = true := (vaultTaken_read fun _ _ => rfl).trans hlone
  refine (isVault_unlock mode x).responds ht hf h.small ?_
  simp [unlockPlot, h.taken.no_refusal, hlone', h.taken.plot]

theorem asks_rewrap {old : List Byte} (ht : s.takes p .management = true) (h : PlotHere s p n)
    (hf : fieldFault? 0x12 (secretPayload n old new) = none) : Asks s (.rewrap p tag n old new) p tag n (.rewrap new) old := by
  refine ((isVault_rewrap old new).here ht hf h.small).trans (congrArg _ ?_)
  simp [secretPlot, h.taken.no_refusal, CheckFor.opcode]

theorem asks_setSecret (ht : s.takes p .management = true) (h : PlotHere s p n)
    (hf : fieldFault? 0x12 (secretPayload n [] new) = none) : Asks s (.setSecret p tag n new) p tag n (.provision new) [] := by
  refine ((isVault_setSecret new).here ht hf h.small).trans (congrArg _ ?_)
  simp [secretPlot, h.taken.no_refusal, CheckFor.opcode]

/-- The answer of a check at its grant. -/
theorem Asks.refused (ha : Asks s c p tag n what secret) (hgate : s.gateRefusal n (portCheck p tag what secret) = some (st, d)) :
    Responds s c p .management ⟨what.opcode, false, tag, 0, st, d, []⟩ := by
  refine responds_vault (ha.trans (congrArg _ (askCheck_refused ?_)))
  exact (vaultTaken_read (read := (State.gateRefusal · n (portCheck p tag what secret))) fun _ _ => rfl).trans hgate

/-- A check that the state at its grant refuses, by the order of R274. -/
theorem Asks.answers (ha : Asks s c p tag n what secret) (h : PlotHere s p n) (hfirst : ∀ mode, what = .unlock mode → s.unlockFirst n = none) :
    (s.vaultDark = true → Responds s c p .management ⟨what.opcode, false, tag, 0, stNotReady, 0, []⟩) ∧
    (s.vaultDark = false → ∀ st d, s.checkRefusal n (portCheck p tag what secret) = some (st, d) →
      Responds s c p .management ⟨what.opcode, false, tag, 0, st, d, []⟩) := by
  have hgate := h.gateRefusal (c := portCheck p tag what secret) hfirst
  refine ⟨fun hdark => ha.refused (hgate.trans ?_), fun hdark st d hr => ha.refused (hgate.trans ?_)⟩
  · rw [hdark]
    rfl
  · rw [hdark, hr]
    rfl

/-- The state in which the check that a command asks for is queued. -/
def checkTaken (s : State) (p : Port) (tag n : Nat) (what : CheckFor) (secret : List Byte) : State :=
  queued (vaultTaken s p what.opcode tag) n (portCheck p tag what secret)

theorem checkTaken_facts (hlen : n < s.plots.length) (hchecks : (s.plot n).checks = []) :
    (checkTaken s p tag n what secret).plot n = { s.plot n with checks := [portCheck p tag what secret] } ∧
    InProgress (checkTaken s p tag n what secret) p .management what.opcode tag := by
  have hlen' : n < (vaultTaken s p what.opcode tag).plots.length := by
    rwa [vaultTaken, beginCapsule_eq]
  refine ⟨?_, inProgress_of_closePart (closePart_modPlot fun _ => rfl) inProgress_vaultTaken⟩
  rw [checkTaken, queued_plot _ hlen', vaultTaken_plot, hchecks]
  rfl

theorem checkTaken_checkRefusal (x : SecretCheck) : (checkTaken s p tag n what secret).checkRefusal n x = s.checkRefusal n x :=
  (queued_checkRefusal _ _).trans (vaultTaken_read (read := (State.checkRefusal · n x)) fun _ _ => rfl)

/-- What a Field still owes is read off the commands in flight, which a request taken leaves alone. -/
theorem vaultTaken_trimDone : (vaultTaken s p op tag).trimDone n = s.trimDone n := by cases p <;> rfl

theorem checkTaken_trimDone : (checkTaken s p tag n what secret).trimDone n = s.trimDone n :=
  (trimDone_onlyChecks (onlyChecks_append _)).trans vaultTaken_trimDone

theorem checkTaken_drbgReady : (checkTaken s p tag n what secret).sec.drbgReady = s.sec.drbgReady :=
  vaultTaken_read (read := (·.sec.drbgReady)) fun _ _ => rfl

/-- An asked check that nothing refuses, alone in its queue. -/
theorem Asks.runs (ha : Asks s c p tag n what secret) (h : PlotHere s p n) (hfirst : ∀ mode, what = .unlock mode → s.unlockFirst n = none)
    (hdark : s.vaultDark = false) (hrefusal : s.checkRefusal n (portCheck p tag what secret) = none) (hready : what.ready s n)
    (hchecks : (s.plot n).checks = []) : exec c s = .next (runChecks n 1 (checkTaken s p tag n what secret)) := by
  have hgate : s.gateRefusal n (portCheck p tag what secret) = none := by
    rw [h.gateRefusal hfirst, hdark, hrefusal]
    rfl
  have hgate' := (vaultTaken_read (p := p) (op := what.opcode) (tag := tag) (read := (State.gateRefusal · n (portCheck p tag what secret))) fun _ _ => rfl).trans hgate
  exact ha.trans (congrArg _ (askCheck_alone hgate' (fun new hw => vaultTaken_trimDone.trans (hready new hw)) h.taken.length (by rw [vaultTaken_plot, hchecks])))

theorem Asks.waits (ha : Asks s c p tag n what secret) (h : PlotHere s p n) (hfirst : ∀ mode, what = .unlock mode → s.unlockFirst n = none)
    (hdark : s.vaultDark = false) (hrefusal : s.checkRefusal n (portCheck p tag what secret) = none) (hready : what.ready s n)
    (hwaits : ∀ new, what = .provision new → s.sec.drbgReady = false) (hchecks : (s.plot n).checks = []) :
    ∃ t, exec c s = .next t ∧ (t.plot n).checks = [portCheck p tag what secret] ∧ ((t.pfn p).cap .management).busy = true ∧
      (t.plot n).mode = (s.plot n).mode ∧ (t.plot n).record = (s.plot n).record := by
  obtain ⟨hplot, hbusy, -, -⟩ := checkTaken_facts (p := p) (tag := tag) (what := what) (secret := secret) h.length hchecks
  have hrun : runChecks n 1 (checkTaken s p tag n what secret) = checkTaken s p tag n what secret :=
    runChecks_waits (by rw [hplot]; rfl) ((checkTaken_checkRefusal _).trans hrefusal) fun new hw => checkTaken_drbgReady.trans (hwaits new hw)
  refine ⟨_, (ha.runs h hfirst hdark hrefusal hready hchecks).trans (congrArg _ hrun), ?_, hbusy, ?_, ?_⟩ <;> rw [hplot]

end SecretChecks
end Sys2Proof.Machine
end

section
/-! The provisioning of an Erased Plot (R344), and the obligation on the vault opcodes; O23. -/

namespace Sys2Proof.Machine

section Provisioning

variable {s : State} {c : Instr} {p : Port} {tag op n : Nat} {new : List Byte}

/-! ### A provisioned Plot (R344) -/

/-- The state after a key set and a salt have been drawn. -/
def keyDrawn (s : State) : State := (drawSalt (drawKeySet s).2).2

/-- The keyed record of a provisioned Plot. -/
def provisionedRecord (s : State) (n : Nat) (new : List Byte) (r : KeyRecord) : KeyRecord :=
  let salt := (drawSalt (drawKeySet s).2).1
  let cfg := ((keyDrawn s).plotCfg? n).getD ⟨n, 0, false, 0, 0, 0, false, 0⟩
  { r with
    keyed := true, retry := 0, genBit := false, rekeying := false, field := cfg.field, credential := cfg.credential
    rekeys := min counterMax (r.rekeys + 1), salt := salt, vrf := (keyDrawn s).vrf n salt new
    wrapA := Config.kwWrap ((keyDrawn s).kek n salt new) (drawKeySet s).1, wrapB := [], rekeyLba := 0 }

/-- The state with the keyed record written. -/
def recordProvisioned (s : State) (n : Nat) (new : List Byte) : State := writeRecord (keyDrawn s) n (provisionedRecord s n new)

theorem provision_eq : provision s n new = setPlotMode (recordProvisioned s n new) n .closed 0 := rfl

theorem closePart_writeRecord (f : KeyRecord → KeyRecord) : closePart (writeRecord s n f) = closePart s :=
  (closePart_of_eq rfl rfl rfl).trans
    (closePart_modPlot (s := s) (n := n) (f := fun q => { q with record := { f q.record with seq := q.record.seq + 1 }, olderCopy := true }) fun _ => rfl)

theorem closePart_recordProvisioned : closePart (recordProvisioned s n new) = closePart s :=
  closePart_writeRecord (s := keyDrawn s) (provisionedRecord s n new)

theorem closePart_provision : closePart (provision s n new) = closePart s := by
  rw [provision_eq]
  exact (closePart_setPlotMode _ _).trans closePart_recordProvisioned

theorem recordProvisioned_plot (h : n < s.plots.length) : (recordProvisioned s n new).plot n =
    { s.plot n with record := { provisionedRecord s n new (s.plot n).record with seq := (s.plot n).record.seq + 1 }, olderCopy := true } :=
  s.modPlot_plot n (fun q => { q with record := { provisionedRecord s n new q.record with seq := q.record.seq + 1 }, olderCopy := true }) h

theorem provision_plot (h : n < s.plots.length) (hmode : (s.plot n).mode ≠ .closed) : (provision s n new).plot n =
    { s.plot n with
      mode := .closed, record := { provisionedRecord s n new (s.plot n).record with seq := (s.plot n).record.seq + 1 }, olderCopy := true } := by
  have hplot := recordProvisioned_plot (new := new) h
  have hlen : n < (recordProvisioned s n new).plots.length := by
    rw [recordProvisioned, writeRecord_plots, List.length_modify]
    exact h
  rw [provision_eq, setPlotMode_plot _ (by rwa [hplot]) hlen, hplot]

/-- The verifier of the keyed record is that of its salt and the new secret. -/
theorem provisionedRecord_vrf (r : KeyRecord) :
    (provisionedRecord s n new r).vrf = s.vrf n (provisionedRecord s n new r).salt new := rfl

/-! ### SET_SECRET of an Erased Plot -/

theorem erased_of_secretRefusal (h : s.secretRefusal n false = none) : (s.plot n).mode = .erased := by
  by_contra hne
  unfold State.secretRefusal at h
  cases hp : s.noPlotRefusal n <;> simp [hp, hne] at h

theorem popCheck_plot {u : State} {q : PlotState} {x : SecretCheck} (hplot : u.plot n = { q with checks := [x] }) (hlen : n < u.plots.length) :
    (popCheck u n).plot n = { q with checks := [] } := by
  rw [popCheck, State.modPlot_plot _ _ _ hlen, hplot]
  rfl

theorem popCheck_length {u : State} : (popCheck u n).plots.length = u.plots.length := List.length_modify _ _ _

/-- A provisioning that goes through: the Plot Closed with a keyed record for the new secret, and the answer OK. -/
theorem provision_answered {u : State} {x : SecretCheck} (hplot : u.plot n = { s.plot n with checks := [x] }) (hlen : n < u.plots.length)
    (hprogress : InProgress u p .management 0x12 tag) (hmode : (s.plot n).mode = .erased) :
    ∃ t, answerVault (provision (popCheck u n) n new) (.port p tag) 0x12 0 0 [] = t ∧
      t.response p .management = some ⟨0x12, false, tag, 0, 0, 0, []⟩ ∧ (t.plot n).mode = .closed ∧ (t.plot n).record.keyed = true ∧
      (t.plot n).record.retry = 0 ∧ (t.plot n).record.vrf = u.vrf n (t.plot n).record.salt new ∧ (t.plot n).checks = [] := by
  have hpop := popCheck_plot hplot hlen
  have hplot' := provision_plot (new := new) (popCheck_length.symm ▸ hlen) (by rw [hpop]; simp [hmode])
  have hprogress' : InProgress (provision (popCheck u n) n new) p .management 0x12 tag :=
    inProgress_of_closePart (closePart_provision.trans (closePart_modPlot fun _ => rfl)) hprogress
  refine ⟨_, rfl, (response_respond hprogress').1, ?_⟩
  rw [answerVault, respond_plot, hplot', hpop]
  exact ⟨rfl, rfl, rfl, rfl, rfl⟩

theorem checkTaken_length {what : CheckFor} {secret : List Byte} (h : PlotHere s p n) : n < (checkTaken s p tag n what secret).plots.length := by
  rw [checkTaken, queued, State.modPlot_plots, List.length_modify]
  exact h.taken.length

theorem setSecret_provisions (ha : Asks s c p tag n (.provision new) []) (h : PlotHere s p n) (hdark : s.vaultDark = false)
    (hrefusal : s.secretRefusal n false = none) (hchecks : (s.plot n).checks = []) (htrim : s.trimDone n = true) (hready : s.sec.drbgReady = true) :
    ∃ t, exec c s = .next t ∧ t.response p .management = some ⟨0x12, false, tag, 0, 0, 0, []⟩ ∧
      (t.plot n).mode = .closed ∧ (t.plot n).record.keyed = true ∧ (t.plot n).record.retry = 0 ∧
      (t.plot n).record.vrf = s.vrf n (t.plot n).record.salt new ∧ (t.plot n).checks = [] := by
  obtain ⟨hplot, hprogress⟩ := checkTaken_facts (p := p) (tag := tag) (what := .provision new) (secret := []) h.length hchecks
  have hrun := runChecks_provisions (a := .port p tag) (secret := []) (by rw [hplot]; rfl) ((checkTaken_checkRefusal _).trans hrefusal)
    (checkTaken_trimDone.trans htrim) (checkTaken_drbgReady.trans hready)
  have hexec := ha.runs h (fun _ hw => by cases hw) hdark hrefusal (fun _ _ => htrim) hchecks
  have hvrf : ∀ salt, (checkTaken s p tag n (.provision new) []).vrf n salt new = s.vrf n salt new := fun salt =>
    vaultTaken_read (read := (State.vrf · n salt new)) fun _ _ => rfl
  obtain ⟨t, ht, hresponse, hmode, hkeyed, hretry, hvrf', hempty⟩ :=
    provision_answered (new := new) hplot (checkTaken_length h) hprogress (erased_of_secretRefusal hrefusal)
  exact ⟨t, hexec.trans (congrArg _ (hrun.trans ht)), hresponse, hmode, hkeyed, hretry, hvrf'.trans (hvrf _), hempty⟩

/-! ### The decisions of each opcode, in order -/

theorem unlock_answers {mode : Nat} {x : List Byte} (ha : Asks s c p tag n (.unlock mode) x) (h : PlotHere s p n) :
    (∀ st d, s.unlockFirst n = some (st, d) → Responds s c p .management ⟨0x10, false, tag, 0, st, d, []⟩) ∧
    (s.unlockFirst n = none →
      (s.vaultDark = true → Responds s c p .management ⟨0x10, false, tag, 0, stNotReady, 0, []⟩) ∧
      (s.vaultDark = false → ∀ st d, s.unlockRefusal n mode = some (st, d) → Responds s c p .management ⟨0x10, false, tag, 0, st, d, []⟩) ∧
      (s.vaultDark = false → s.unlockRefusal n mode = none → s.spareOut = true →
        Responds s c p .management ⟨0x10, false, tag, 0, 0x0017, 0xFFFF, []⟩) ∧
      (s.vaultDark = false → s.unlockRefusal n mode = none → s.spareOut = false → (s.plot n).checks = [] →
        ∃ t, exec c s = .next t ∧ (t.plot n).checks = [⟨.port p tag, .unlock mode, x, false⟩] ∧
          ((t.pfn p).cap .management).busy = true ∧ (t.plot n).mode = (s.plot n).mode ∧ (t.plot n).record = (s.plot n).record)) := by
  refine ⟨fun st d hfirst => ha.refused ?_, fun hfirst => ?_⟩
  · simp only [State.gateRefusal, portCheck, hfirst]
  · have hfirst' : ∀ m, CheckFor.unlock mode = .unlock m → s.unlockFirst n = none := fun _ _ => hfirst
    obtain ⟨hnotReady, hrefused⟩ := ha.answers h hfirst'
    refine ⟨hnotReady, fun hdark st d hr => hrefused hdark st d ?_, fun hdark hr hspare => hrefused hdark _ _ ?_,
      fun hdark hr hspare => ha.waits h hfirst' hdark ?_ (fun _ hw => by cases hw) fun _ hw => by cases hw⟩
    · simp only [State.checkRefusal, portCheck, hr]
    · simp [State.checkRefusal, portCheck, hr, hspare]
    · simp [State.checkRefusal, portCheck, hr, hspare]

theorem rewrap_answers {old : List Byte} (ha : Asks s c p tag n (.rewrap new) old) (h : PlotHere s p n) :
    (s.vaultDark = true → Responds s c p .management ⟨0x12, false, tag, 0, stNotReady, 0, []⟩) ∧
    (s.vaultDark = false →
      (∀ st d, s.secretRefusal n true = some (st, d) → Responds s c p .management ⟨0x12, false, tag, 0, st, d, []⟩) ∧
      (s.secretRefusal n true = none → (s.plot n).checks = [] →
        ∃ t, exec c s = .next t ∧ (t.plot n).checks = [⟨.port p tag, .rewrap new, old, false⟩] ∧
          ((t.pfn p).cap .management).busy = true ∧ (t.plot n).record = (s.plot n).record)) := by
  have hfirst : ∀ m, CheckFor.rewrap new = .unlock m → s.unlockFirst n = none := fun _ hw => by cases hw
  obtain ⟨hnotReady, hrefused⟩ := ha.answers h hfirst
  refine ⟨hnotReady, fun hdark => ⟨hrefused hdark, fun hr hchecks => ?_⟩⟩
  obtain ⟨t, hexec, hqueue, hbusy, -, hrecord⟩ := ha.waits h hfirst hdark hr (fun _ hw => by cases hw) (fun _ hw => by cases hw) hchecks
  exact ⟨t, hexec, hqueue, hbusy, hrecord⟩

theorem setSecret_answers (ha : Asks s c p tag n (.provision new) []) (h : PlotHere s p n) :
    (s.vaultDark = true → Responds s c p .management ⟨0x12, false, tag, 0, stNotReady, 0, []⟩) ∧
    (s.vaultDark = false →
      (∀ st d, s.secretRefusal n false = some (st, d) → Responds s c p .management ⟨0x12, false, tag, 0, st, d, []⟩) ∧
      (s.secretRefusal n false = none → (s.plot n).checks = [] → s.trimDone n = true →
        (s.sec.drbgReady = true → ∃ t, exec c s = .next t ∧ t.response p .management = some ⟨0x12, false, tag, 0, 0, 0, []⟩ ∧
          (t.plot n).mode = .closed ∧ (t.plot n).record.keyed = true ∧ (t.plot n).record.retry = 0 ∧
          (t.plot n).record.vrf = s.vrf n (t.plot n).record.salt new ∧ (t.plot n).checks = []) ∧
        (s.sec.drbgReady = false → ∃ t, exec c s = .next t ∧ (t.plot n).checks = [⟨.port p tag, .provision new, [], false⟩] ∧
          ((t.pfn p).cap .management).busy = true ∧ (t.plot n).mode = .erased))) := by
  have hfirst : ∀ m, CheckFor.provision new = .unlock m → s.unlockFirst n = none := fun _ hw => by cases hw
  obtain ⟨hnotReady, hrefused⟩ := ha.answers h hfirst
  refine ⟨hnotReady, fun hdark => ⟨hrefused hdark, fun hr hchecks htrim => ⟨setSecret_provisions ha h hdark hr hchecks htrim, fun hready => ?_⟩⟩⟩
  obtain ⟨t, hexec, hqueue, hbusy, hmode, -⟩ := ha.waits h hfirst hdark hr (fun _ _ => htrim) (fun _ _ => hready) hchecks
  exact ⟨t, hexec, hqueue, hbusy, hmode.trans (erased_of_secretRefusal hr)⟩

end Provisioning

/-- Settles O23: each opcode is taken by its function, refused before its Plot is looked at, or decided by the Plot's state; a LOCK
is the close of the Plot, and UNLOCK and SET_SECRET are a check at its grant, answered or alone in the Plot's queue. -/
theorem vaultOpcodesDecide : Obligations.VaultOpcodesDecide := by
  unfold Obligations.VaultOpcodesDecide
  intro s p tag n ht
  refine ⟨fun mode x o hf => (isVault_unlock mode x).bad_field ht hf, fun old new o hf => ?_, lock_out_of_range ht, fun c op pl hf hc => ?_,
    fun hn hlen hl ho hp => ?_⟩
  · refine ⟨(isVault_rewrap old new).bad_field ht hf, fun hold => ?_⟩
    subst hold
    exact (isVault_setSecret new).bad_field ht hf
  · obtain ⟨run, hvault, hdecides⟩ := vault_of_command hc
    refine ⟨fun hl => ?_, fun hn hl => ?_, fun hn hl => ?_, fun hn hl => ?_⟩
    · obtain hn | hn := Nat.lt_or_ge n 64
      · exact (hvault.refusals hdecides ht hf hn).1 hl
      · exact (hvault.away ht hf hn).1 hl
    · obtain ⟨hnobody, hforwarded⟩ := (hvault.away ht hf hn).2 hl
      exact ⟨hnobody, fun _ _ _ => hforwarded⟩
    · obtain ⟨-, hheld, -⟩ := hvault.refusals hdecides ht hf hn
      exact hheld hl
    · obtain ⟨-, -, hnoPlot⟩ := hvault.refusals hdecides ht hf hn
      exact hnoPlot hl
  · have h : PlotHere s p n := ⟨hn, hlen, hl, ho, hp⟩
    obtain ⟨hlockDark, hlock⟩ := lock_answers (tag := tag) ht h
    obtain ⟨hdemoteDark, hdemote⟩ := lockDemote_answers (tag := tag) ht h
    refine ⟨fun hdark => ⟨hlockDark hdark, hdemoteDark hdark⟩, fun hdark => ?_, fun mode x hf => ?_,
      fun old new hf => rewrap_answers (asks_rewrap ht h hf) h, fun new hf => setSecret_answers (asks_setSecret ht h hf) h⟩
    · obtain ⟨hclosed, herased, hsafelight⟩ := hlock hdark
      exact ⟨hclosed, herased, hsafelight, lock_closes ht h hdark, hdemote hdark, lockDemote_demotes ht h hdark⟩
    · refine ⟨unlock_lone ht h hf, fun st d hlone hfirst => (unlock_answers (asks_unlock ht h hf hlone) h).1 st d hfirst,
        fun hlone hfirst => (unlock_answers (asks_unlock ht h hf hlone) h).2 hfirst⟩

end Sys2Proof.Machine
end

section
/-! The invariant over one step of the block, a command or an idle microsecond, and right after reset (R103, R310, R553); O59
and O60. -/

namespace Sys2Proof.Machine

/-- A step completes and carries the invariant, since the command at the front does on the rest of the queue and the idle
microsecond does. -/
theorem step_keeps_inv (s : State) : ∃ t, step s = .next t ∧ (Inv s → Inv t) := by
  obtain ⟨hruns, -⟩ := stepRunsTheFrontCommand s
  cases hpending : s.pending with
  | nil => exact ⟨idleTick s, by rw [step, hpending], (keeps_idleTick (.refl s)).inv⟩
  | cons c rest =>
    obtain ⟨t, hexec, hkeeps⟩ := keeps_exec c { s with pending := rest }
    exact ⟨t, (hruns c rest hpending).trans hexec, hkeeps.inv⟩

theorem reset_semaphores_free : ∀ o ∈ State.reset.sem.owner, o = idNone := fun _ => List.eq_of_mem_replicate

/-- Settles O59, by what every command and the idle microsecond keep. -/
theorem stepKeepsTheInvariant : Obligations.StepKeepsTheInvariant := by
  intro s hinv
  obtain ⟨t, hstep, hkeeps⟩ := step_keeps_inv s
  exact ⟨t, hstep, hkeeps hinv⟩

/-- Settles O60: the memories and the log are empty and the semaphores are 128 free ones. -/
theorem resetSatisfiesTheInvariant : Obligations.ResetSatisfiesTheInvariant :=
  ⟨⟨rfl, rfl, List.length_replicate, fun o ho => .inl (reset_semaphores_free o ho), Nat.zero_le _⟩,
    rfl, rfl, reset_semaphores_free, rfl, rfl⟩

end Sys2Proof.Machine
end

section
/-! The write lock of semaphore 0 (R318, R319): the commands whose register it holds back count in SEM_REFUSE.LOCKED alone;
O15. -/

namespace Sys2Proof.Machine

theorem count_eq_min (top n : Nat) : count top n = min top (n + 1) := rfl

section Locked

variable {s : State} {id : Identity} {addr : Nat}

/-- A write held back leaves the grant of its access and one more in LOCKED. -/
theorem countLocked_noteAccess (s : State) (id : Identity) : countLocked (noteAccess s id) =
    { noteAccess s id with sem := { s.sem with locked := min 255 (s.sem.locked + 1) } } := by
  simp only [countLocked, noteAccess_sem, count_eq_min]

/-- The lock holds for a write of reserved space as for a register, outside the semaphore block and the Plots' blocks. -/
theorem rsvdWrite_locked (ho : s.csOpen id = true) (hm : s.mpuRefuses id false addr .write = none)
    (hl : s.writeLocked id = true) (habove : 0x14000 + 0x100 * s.member.plots ≤ addr) :
    rsvdWrite s id addr = countLocked (noteAccess s id) := by
  have hplot : s.lacksPlotSem id addr = false := by
    have : ¬ (addr - 0x14000) / 0x100 < s.member.plots := by omega
    simp [State.lacksPlotSem, this]
  simp [rsvdWrite, csCheck_allowed ho hm, hplot, hl, Nat.not_lt.mpr habove]

/-- STK_ROP stands above the Plots' blocks of every member. -/
theorem plots_below_csStkRop (m : Member) : 0x14000 + 0x100 * m.plots ≤ csStkRop := by cases m <;> decide

/-- A write of STK_ROP is held back, be it a register of the member or not (R30). -/
theorem remoteWrite_locked (ho : s.csOpen id = true) (hm : s.mpuRefuses id false csStkRop .write = none)
    (hl : s.writeLocked id = true) (op : Nat) : remoteWrite s id op = countLocked (noteAccess s id) := by
  unfold remoteWrite
  split
  case isTrue => exact csWrite_locked ho hm rfl hl
  case isFalse => exact rsvdWrite_locked ho hm hl (plots_below_csStkRop s.member)

end Locked

/-- Settles O15: each of the commands is a write the lock does not except, so it ends where the lock is checked. -/
theorem writeLockHoldsBackCommands : Obligations.WriteLockHoldsBackCommands := by
  intro s id c addr hc ho hm hl
  have hlocked : ∀ effect, csWrite s id addr false effect = countLocked (noteAccess s id) := fun _ => csWrite_locked ho hm rfl hl
  rw [← countLocked_noteAccess]
  obtain ⟨k, rfl, rfl⟩ | ⟨h, rfl, rfl⟩ | ⟨b, n, x, hb, rfl, rfl⟩ | ⟨r, g, v, hr, hg, rfl, rfl⟩ | ⟨rfl, rfl⟩ | ⟨q, rfl, rfl⟩ | ⟨hop, rfl⟩ := hc
  · exact congrArg Host.Outcome.next (hlocked _)
  · exact congrArg Host.Outcome.next (hlocked _)
  · exact congrArg Host.Outcome.next ((if_neg (Nat.not_le.mpr hb)).trans (hlocked _))
  · exact congrArg Host.Outcome.next ((if_neg (by omega)).trans (hlocked _))
  · exact congrArg Host.Outcome.next (hlocked _)
  · exact congrArg Host.Outcome.next (hlocked _)
  · obtain rfl | rfl := hop <;> exact congrArg Host.Outcome.next (remoteWrite_locked ho hm hl _)

end Sys2Proof.Machine
end

section
/-! SEM_n: what a take, a release and a force do to a semaphore that is free, the writer's or another's (R310, R312, R315, R317,
Table SEM-2); O35. -/

namespace Sys2Proof.Machine

section Semaphores

variable {s : State} {id : Identity} {n : Nat}

/-! ### The owner of a semaphore -/

theorem setOwner_semOwner (hn : n < s.sem.owner.length) : (setOwner s n id).semOwner n = id := by
  simp [setOwner, State.modSem, State.semOwner, hn]

theorem setOwner_semOwner_ne {k : Nat} (hk : k ≠ n) : (setOwner s n id).semOwner k = s.semOwner k := by
  simp [setOwner, State.modSem, State.semOwner, List.getD_eq_getElem?_getD, List.getElem?_set_ne hk.symm]

theorem ne_idNone_of_isHostId (h : isHostId id = true) : id ≠ idNone := by
  rintro rfl
  exact absurd h (by decide)

@[simp] theorem noteAccess_semOwner (s : State) (id : Identity) (k : Nat) : (noteAccess s id).semOwner k = s.semOwner k := by
  simp [State.semOwner]

/-! ### The operations of Table SEM-2 -/

theorem semaphoreOp_not_host (hid : isHostId id = false) (op : Nat) : semaphoreOp s id n op = s := by
  simp [semaphoreOp, hid]

theorem semaphoreOp_take_bare (hbare : s.hasLayout = false) (h3 : 3 ≤ n) : semaphoreOp s id n 1 = s := by
  simp [semaphoreOp, hbare, h3]

theorem semaphoreOp_release_other (hother : s.semOwner n ≠ id) : semaphoreOp s id n 2 = s := by
  simp [semaphoreOp, hother]

theorem semaphoreOp_force_nothing (hother : s.semOwner n ≠ id) (hrefused : s.semOwner n = idNone ∨ s.mayForce id n = false) :
    semaphoreOp s id n 3 = s := by
  have hnothing : s.semOwner n = idNone ∨ (!s.mayForce id n) = true := by simpa using hrefused
  simp only [semaphoreOp, if_neg hother, if_pos hnothing, Nat.reduceEqDiff, if_false, ite_self]

section Host

variable (hid : isHostId id = true)
include hid

theorem semaphoreOp_take_own (hown : s.semOwner n = id) : semaphoreOp s id n 1 = s := by
  simp [semaphoreOp, hown, ne_idNone_of_isHostId hid]

/-- Who may force another's semaphore: the stack any, the holder of semaphore 0 every other (R315). -/
theorem mayForce_iff : s.mayForce id n = true ↔ id = 0x82 ∨ (s.semOwner 0 = id ∧ n ≠ 0) := by
  simp [State.mayForce, State.holdsSem, ne_idNone_of_isHostId hid, idStack]

variable (hn : n < 128)
include hn

/-- With a layout every semaphore may be taken, without one the first three (R317). -/
theorem semaphoreOp_take (hlayout : s.hasLayout = true ∨ n < 3) : semaphoreOp s id n 1 =
    if s.semOwner n = idNone then setOwner s n id else if s.semOwner n = id then s else countBusy s id := by
  have htakeable : ¬ ((!s.hasLayout) = true ∧ 3 ≤ n) := by
    obtain h | h := hlayout <;> simp [h]
  simp only [semaphoreOp, hid, Nat.not_le.mpr hn, if_neg htakeable, Bool.not_true, Bool.false_eq_true, or_self, if_true, if_false]

/-- A force by the holder is a release (R315). -/
theorem semaphoreOp_own {op : Nat} (hop : op = 2 ∨ op = 3) (hown : s.semOwner n = id) :
    semaphoreOp s id n op = setOwner s n idNone := by
  obtain rfl | rfl := hop <;> simp [semaphoreOp, hid, Nat.not_le.mpr hn, hown]

theorem semaphoreOp_force_other (hheld : s.semOwner n ≠ idNone) (hother : s.semOwner n ≠ id) (hmay : s.mayForce id n = true) :
    semaphoreOp s id n 3 = (setOwner s n idNone).modSem fun q => { q with forced := count 0xF q.forced } := by
  simp [semaphoreOp, hid, Nat.not_le.mpr hn, hheld, hother, hmay]

end Host

/-! ### What changes beside the owners -/

/-- A refused take counts for its writer, each of the three in its own field of SEM_REFUSE. -/
theorem countBusy_eq (s : State) (id : Identity) : countBusy s id = s.modSem fun q => { q with
    busyA := if id = 0x80 then min 255 (q.busyA + 1) else q.busyA
    busyB := if id = 0x81 then min 255 (q.busyB + 1) else q.busyB
    busyStk := if id = 0x82 then min 255 (q.busyStk + 1) else q.busyStk } := by
  by_cases hA : id = 0x80
  · subst hA; rfl
  by_cases hB : id = 0x81
  · subst hB; rfl
  by_cases hS : id = 0x82
  · subst hS; rfl
  simp only [countBusy, idPortA, idPortB, idStack, hA, hB, hS, if_false]

/-! ### A write of SEM_n that passes the checks -/

theorem exec_semTake (h : WritePasses s id (csSem n) true) :
    exec (.semTake id n) s = .next (semaphoreOp (noteAccess s id) id n 1) := congrArg Host.Outcome.next (csWrite_passes h)
theorem exec_semRelease (h : WritePasses s id (csSem n) true) :
    exec (.semRelease id n) s = .next (semaphoreOp (noteAccess s id) id n 2) := congrArg Host.Outcome.next (csWrite_passes h)
theorem exec_semForce (h : WritePasses s id (csSem n) true) :
    exec (.semForce id n) s = .next (semaphoreOp (noteAccess s id) id n 3) := congrArg Host.Outcome.next (csWrite_passes h)

end Semaphores

/-- Settles O35: each write is the operation of Table SEM-2 under the grant of its access, decided by who holds the semaphore. -/
theorem semaphoresAreTakenReleasedForced : Obligations.SemaphoresAreTakenReleasedForced := by
  intro s id n hn hlen hpass
  rw [exec_semTake hpass, exec_semRelease hpass, exec_semForce hpass]
  rw [← noteAccess_sem s id] at hlen
  simp only [← noteAccess_sem s id, ← noteAccess_semOwner s id, ← noteAccess_hasLayout s id]
  generalize noteAccess s id = u at hlen
  refine ⟨fun hid => ?notHost, fun hid => ⟨fun hfree hlayout => ?free, fun _ hbare h3 => ?bare, fun hown => ⟨?takeOwn, ?freeOwn⟩,
    fun hheld hother => ⟨?release, fun hlayout => ?busy, fun hmay => ?forced, fun hstack hzero => ?refused⟩⟩⟩
  case notHost => simp only [semaphoreOp_not_host hid, and_self]
  case free =>
    have hother : u.semOwner n ≠ id := hfree ▸ (ne_idNone_of_isHostId hid).symm
    rw [semaphoreOp_take hid hn hlayout, if_pos hfree, semaphoreOp_release_other hother, semaphoreOp_force_nothing hother (.inl hfree)]
    exact ⟨rfl, rfl, rfl⟩
  case bare => rw [semaphoreOp_take_bare hbare h3]
  case takeOwn => rw [semaphoreOp_take_own hid hown]
  case freeOwn =>
    rw [semaphoreOp_own hid hn (.inl rfl) hown, semaphoreOp_own hid hn (.inr rfl) hown]
    exact ⟨_, rfl, rfl, setOwner_semOwner (hlen.symm ▸ hn), rfl, fun k hk => setOwner_semOwner_ne hk⟩
  case release => rw [semaphoreOp_release_other hother]
  case busy =>
    rw [semaphoreOp_take hid hn hlayout, if_neg hheld, if_neg hother, countBusy_eq]
    exact ⟨_, rfl, rfl, rfl, rfl, rfl, rfl⟩
  case forced =>
    rw [semaphoreOp_force_other hid hn hheld hother ((mayForce_iff hid).mpr hmay)]
    exact ⟨_, rfl, rfl, setOwner_semOwner (hlen.symm ▸ hn), count_eq_min _ _, fun k hk => setOwner_semOwner_ne hk⟩
  case refused =>
    have hmay : u.mayForce id n = false := by
      rw [← Bool.not_eq_true, mayForce_iff hid]
      exact not_or.mpr ⟨hstack, hzero⟩
    rw [semaphoreOp_force_nothing hother (.inr hmay)]

end Sys2Proof.Machine
end

section
/-! A secret check whose attempt is counted (R274, R339 to R341, R346): the comparison and what each outcome leaves; O24. -/

namespace Sys2Proof.Machine

section Counted

variable {s u : State} {n tag st d : Nat} {p : Port} {what : CheckFor} {secret new : List Byte} {matched : Bool} {k : KeyEntry}

/-! ### A check that waits -/

/-- One secret check of Plot n waits, asked through a port whose capsule is still in progress. -/
structure Waiting (s : State) (n : Nat) (p : Port) (tag : Nat) (what : CheckFor) (secret : List Byte) (matched : Bool) : Prop where
  checks : (s.plot n).checks = [⟨.port p tag, what, secret, matched⟩]
  progress : InProgress s p .management what.opcode tag

theorem Waiting.length (h : Waiting s n p tag what secret matched) : n < s.plots.length := by
  by_contra hout
  have hchecks := h.checks
  rw [State.plot, List.getD_eq_default _ _ (not_lt.mp hout)] at hchecks
  cases hchecks

theorem runChecks_empty (h : (s.plot n).checks = []) (fuel : Nat) : runChecks n fuel s = s := by
  cases fuel with
  | zero => rfl
  | succ fuel => simp only [runChecks, h]

/-- A check at the front that a state refuses is answered and leaves the queue. -/
def refusedCheck (s : State) (n : Nat) (c : SecretCheck) (st d : Nat) : State := popCheck (answerCheck s c st d []) n

/-- The answer to a port changes the state of its functions only. -/
theorem answerCheck_port (st d : Nat) (b : List Byte) : answerCheck s ⟨.port p tag, what, secret, matched⟩ st d b =
    { s with fn := (answerCheck s ⟨.port p tag, what, secret, matched⟩ st d b).fn } := respond_eq _ _

theorem answerCheck_plot (st d : Nat) (b : List Byte) (k : Nat) :
    (answerCheck s ⟨.port p tag, what, secret, matched⟩ st d b).plot k = s.plot k := respond_plot _ _

theorem answerCheck_response (h : InProgress s p .management what.opcode tag) (st d : Nat) (b : List Byte) :
    (answerCheck s ⟨.port p tag, what, secret, matched⟩ st d b).response p .management = some ⟨what.opcode, false, tag, 0, st, d, b⟩ :=
  (response_respond (r := ⟨what.opcode, false, tag, 0, st, d, b⟩) h).1

theorem Waiting.popCheck_plot (h : Waiting s n p tag what secret matched) : (popCheck s n).plot n = { s.plot n with checks := [] } := by
  rw [popCheck, State.modPlot_plot _ _ _ h.length, h.checks]
  rfl

theorem Waiting.refused (h : Waiting s n p tag what secret false) :
    let t := refusedCheck s n ⟨.port p tag, what, secret, false⟩ st d
    (t.plot n).checks = [] ∧ t.response p .management = some ⟨what.opcode, false, tag, 0, st, d, []⟩ ∧ (t.plot n).record = (s.plot n).record := by
  have hlen : n < (answerCheck s ⟨.port p tag, what, secret, false⟩ st d []).plots.length := by
    rw [answerCheck_port]
    exact h.length
  have hplot : (refusedCheck s n ⟨.port p tag, what, secret, false⟩ st d).plot n = { s.plot n with checks := (s.plot n).checks.drop 1 } := by
    rw [refusedCheck, popCheck, State.modPlot_plot _ _ _ hlen, answerCheck_plot]
  refine ⟨?_, answerCheck_response h.progress st d [], ?_⟩
  · rw [hplot, h.checks]
    rfl
  · rw [hplot]

/-- The last check of a Plot answered. -/
theorem Waiting.answered (h : Waiting s n p tag what secret matched) (st d : Nat) (b : List Byte) :
    let t := answerCheck (popCheck s n) ⟨.port p tag, what, secret, matched⟩ st d b
    t.plot n = { s.plot n with checks := [] } ∧ t.response p .management = some ⟨what.opcode, false, tag, 0, st, d, b⟩ :=
  ⟨(answerCheck_plot st d b n).trans h.popCheck_plot, answerCheck_response (s := popCheck s n) h.progress st d b⟩

/-! ### A record written -/

theorem writeRecord_plot (f : KeyRecord → KeyRecord) (h : n < s.plots.length) : (writeRecord s n f).plot n =
    { s.plot n with record := { f (s.plot n).record with seq := (s.plot n).record.seq + 1 }, olderCopy := true } :=
  s.modPlot_plot n (fun q => { q with record := { f q.record with seq := q.record.seq + 1 }, olderCopy := true }) h

theorem Waiting.writeRecord (h : Waiting s n p tag what secret matched) (f : KeyRecord → KeyRecord) :
    Waiting (writeRecord s n f) n p tag what secret matched := by
  refine ⟨?_, h.progress⟩
  rw [writeRecord_plot f h.length]
  exact h.checks

theorem startBatch_seedNow (b : Bool) (g : GrnState) : (startBatch b g).seedNow = g.seedNow := by
  unfold startBatch
  split <;> rfl

theorem takeSector_seedNow (g : GrnState) : (takeSector g).seedNow = g.seedNow := by
  simp only [takeSector, batchErase, eraseReleased, countErases, writeLedger]
  split_ifs <;> rfl

theorem appendEntry_seedNow (g : GrnState) (struct copy : Nat) : (appendEntry g struct copy).seedNow = g.seedNow := by
  simp only [appendEntry]
  split
  · split <;> rfl
  · split <;> exact takeSector_seedNow g

/-- Structures are written in the pool, not in the Seed row. -/
theorem structWrite_seedNow (s : State) (struct : Nat) : (structWrite s struct).grn.seedNow = s.grn.seedNow :=
  (startBatch_seedNow _ _).trans ((appendEntry_seedNow _ _ _).trans (appendEntry_seedNow _ _ _))

theorem writeRecord_rootKey (f : KeyRecord → KeyRecord) : (writeRecord s n f).rootKey = s.rootKey := by
  have hseed : (writeRecord s n f).grn.seedNow = s.grn.seedNow := structWrite_seedNow _ _
  simp only [State.rootKey, State.seedWord, hseed]

theorem writeRecord_vrf (f : KeyRecord → KeyRecord) (salt x : List Byte) : (writeRecord s n f).vrf n salt x = s.vrf n salt x := by
  simp only [State.vrf, writeRecord_rootKey]

theorem writeRecord_kek (f : KeyRecord → KeyRecord) (salt x : List Byte) : (writeRecord s n f).kek n salt x = s.kek n salt x := by
  simp only [State.kek, writeRecord_rootKey]

/-! ### The attempt counted (R339, step 1) -/

/-- The counting record written. -/
def counted (s : State) (n : Nat) : State := writeRecord s n fun r => { r with retry := min 255 (r.retry + 1) }

theorem Waiting.counted (h : Waiting s n p tag what secret matched) : Waiting (counted s n) n p tag what secret matched := h.writeRecord _

theorem counted_plot (h : n < s.plots.length) : (counted s n).plot n = { s.plot n with
    record := { (s.plot n).record with retry := min 255 ((s.plot n).record.retry + 1), seq := (s.plot n).record.seq + 1 }, olderCopy := true } :=
  writeRecord_plot _ h

theorem counted_unwrap (h : n < s.plots.length) : (counted s n).unwrap n secret = s.unwrap n secret := by
  have hkek : ∀ salt, (counted s n).kek n salt secret = s.kek n salt secret := fun salt => writeRecord_kek _ salt secret
  simp only [State.unwrap, counted_plot h, hkek]

/-- The record's verifier is that of a secret (R339). -/
def Matches (s : State) (n : Nat) (secret : List Byte) : Prop := s.vrf n (s.plot n).record.salt secret = (s.plot n).record.vrf

theorem counted_matches (h : n < s.plots.length) : Matches (counted s n) n secret ↔ Matches s n secret := by
  have hvrf : ∀ salt, (counted s n).vrf n salt secret = s.vrf n salt secret := fun salt => writeRecord_vrf _ salt secret
  simp only [Matches, counted_plot h, hvrf]

/-! ### The comparison (R339 step 2, R340, R341, R346) -/

section Compared

variable {c : SecretCheck}

theorem compareSecret_wrong (hwrong : ¬ Matches s n c.secret) (hleft : (s.plot n).record.retry < s.retryLimit n) :
    compareSecret s n c = answerCheck (popCheck s n) c 0x000E (s.retryLimit n - (s.plot n).record.retry) [] := by
  unfold Matches at hwrong
  simp only [compareSecret, hwrong, ne_eq, not_false_eq_true, if_true, if_neg (Nat.not_le.mpr hleft)]

theorem compareSecret_erases (hwrong : ¬ Matches s n c.secret) (hlimit : s.retryLimit n ≤ (s.plot n).record.retry) :
    compareSecret s n c = answerCheck (erasePlot (popCheck s n) n 2) c 0x000F 0 [] := by
  unfold Matches at hwrong
  simp only [compareSecret, hwrong, ne_eq, not_false_eq_true, if_true, if_pos hlimit]

theorem compareSecret_broken (hright : Matches s n c.secret) (hkeys : s.unwrap n c.secret = none) :
    compareSecret s n c = enterScope (answerCheck (popCheck s n) c 0x0010 0 []) 0x00A0 3 n false
      (answerCheck (popCheck s n) c 0x0010 0 []).member.centralIsland 0xFF (w32 n) 0 := by
  unfold Matches at hright
  simp only [compareSecret, hright, hkeys, ne_eq, not_true_eq_false, if_false]

/-- A matched unlock: the keys in the key store, and the check marked until its record is written. -/
theorem compareSecret_unlocks {mode : Nat} (hwhat : c.what = .unlock mode) (hright : Matches s n c.secret)
    (hkeys : s.unwrap n c.secret = some k) : compareSecret s n c =
      s.modPlot n fun q => { q with keys := some k, checks := q.checks.modify 0 fun c => { c with matched := true } } := by
  unfold Matches at hright
  simp only [compareSecret, hright, hkeys, hwhat, ne_eq, not_true_eq_false, if_false]

/-- The record of a re-wrap: the key sets wrapped for the new secret. -/
def rewrapRecord (s : State) (n : Nat) (new : List Byte) (k : KeyEntry) (r : KeyRecord) : KeyRecord :=
  let salt := (drawSalt s).1
  { r with
    salt := salt, vrf := s.vrf n salt new, wrapA := Config.kwWrap (s.kek n salt new) k.keys
    wrapB := match k.old with | some o => Config.kwWrap (s.kek n salt new) o | none => []
    rekeys := min counterMax (r.rekeys + 1), retry := 0 }

/-- The state with the record of a re-wrap written. -/
def rewrapped (s : State) (n : Nat) (new : List Byte) (k : KeyEntry) : State :=
  (writeRecord (drawSalt s).2 n (rewrapRecord s n new k)).modPlot n fun q => { q with
    keys := q.keys.map fun e => { e with kek := s.kek n (drawSalt s).1 new } }

theorem compareSecret_rewraps (hwhat : c.what = .rewrap new) (hright : Matches s n c.secret)
    (hkeys : s.unwrap n c.secret = some k) : compareSecret s n c = answerCheck (popCheck (rewrapped s n new k) n) c 0 0 [] := by
  unfold Matches at hright
  simp only [compareSecret, hright, hkeys, hwhat, ne_eq, not_true_eq_false, if_false]
  rfl

theorem rewrapped_plot (h : n < s.plots.length) : (rewrapped s n new k).plot n = { s.plot n with
    record := { rewrapRecord s n new k (s.plot n).record with seq := (s.plot n).record.seq + 1 }, olderCopy := true
    keys := (s.plot n).keys.map fun e => { e with kek := s.kek n (drawSalt s).1 new } } := by
  have hlen : n < (writeRecord (drawSalt s).2 n (rewrapRecord s n new k)).plots.length := by
    rw [writeRecord_plots, List.length_modify]
    exact h
  rw [rewrapped, State.modPlot_plot _ _ _ hlen, writeRecord_plot (s := (drawSalt s).2) _ h]
  rfl

theorem Waiting.rewrapped (h : Waiting s n p tag what secret matched) : Waiting (rewrapped s n new k) n p tag what secret matched := by
  refine ⟨?_, h.progress⟩
  rw [rewrapped_plot h.length]
  exact h.checks

end Compared

/-! ### The Plot erased at the limit (R336, R340) -/

/-- The records of the Plots. -/
def records (s : State) : List KeyRecord := s.plots.map PlotState.record

theorem records_modPlot {f : PlotState → PlotState} (h : ∀ q, (f q).record = q.record) : records (s.modPlot n f) = records s := by
  simp only [records, State.modPlot_plots, map_modify_of_eq h]

theorem records_clearMembers : records (clearMembers s n) = records s := by
  unfold clearMembers
  split
  · refine foldl_unchanged records _ (fun v x => ?_) _ _
    rw [ringRequest_eq]
    rfl
  · rfl

theorem records_detachPlot : records (detachPlot s n) = records s := by
  refine foldl_unchanged records _ (fun v q => ?_) _ _
  split
  · rfl
  · cases q <;> rfl

theorem records_setPlotMode (m : PlotMode) (reason : Nat) : records (setPlotMode s n m reason) = records s := by
  simp only [setPlotMode]
  split
  · rfl
  · rw [queueEvents_eq]
    exact records_modPlot fun _ => rfl

/-- The close of a Plot leaves every key record. -/
theorem records_closePlot (m : PlotMode) (reason : Nat) : records (closePlot s n m reason) = records s := by
  have hkeys : records (keysCleared s n) = records s := records_modPlot (f := fun q => { q with keys := none }) fun _ => rfl
  obtain ⟨-, -, hsettled⟩ := settleTasks_rest (s := plotShut s n m reason)
  calc records (closePlot s n m reason) = records (plotShut s n m reason) := congrArg (List.map PlotState.record) hsettled
    _ = records (clearMembers (keysCleared s n) n) :=
      (records_setPlotMode m reason).trans (records_detachPlot.trans (records_modPlot fun _ => rfl))
    _ = records s := records_clearMembers.trans hkeys

theorem plot_record : (s.plot n).record = (records s).getD n Reset.record := by
  simp only [records, State.plot, List.getD, List.getElem?_map]
  cases s.plots[n]? <;> rfl

theorem plots_length_of_records (h : records u = records s) : u.plots.length = s.plots.length := by
  simpa [records] using congrArg List.length h

/-- A destroyed record: blank but for the re-keys counted. -/
def blankRecord (r : KeyRecord) : KeyRecord := { Reset.record with rekeys := r.rekeys, seq := r.seq + 1 }

theorem destroyRecord_plot (h : n < s.plots.length) :
    (destroyRecord s n).plot n = { s.plot n with record := blankRecord (s.plot n).record, olderCopy := false } := by
  have hblank := State.modPlot_plot _ n (fun q => { q with record := blankRecord q.record }) h
  have hlen : n < (s.modPlot n fun q => { q with record := blankRecord q.record }).plots.length := by
    rwa [State.modPlot_plots, List.length_modify]
  refine (State.modPlot_plot _ n (fun q => { q with olderCopy := false }) hlen).trans ?_
  rw [hblank]

/-- A Plot's keys destroyed: closed on both ports, its record blank but for the re-keys counted. -/
def plotDestroyed (s : State) (n reason : Nat) : State := destroyRecord (closePlot s n .erased reason) n

theorem plotDestroyed_facts (reason : Nat) (h : n < s.plots.length) :
    ((plotDestroyed s n reason).plot n).mode = .erased ∧ ((plotDestroyed s n reason).plot n).keys = none ∧
    ((plotDestroyed s n reason).plot n).record.keyed = false ∧
    ((plotDestroyed s n reason).plot n).record.rekeys = (s.plot n).record.rekeys := by
  have hrecords := records_closePlot (s := s) (n := n) .erased reason
  have hrecord : ((closePlot s n .erased reason).plot n).record = (s.plot n).record := by rw [plot_record, hrecords, plot_record]
  have hlen : n < (closePlot s n .erased reason).plots.length := by rwa [plots_length_of_records hrecords]
  obtain ⟨hkeys, -, -, -⟩ := closePlot_facts (s := s) (n := n) .erased reason
  have hmode := closePlot_mode (s := s) .erased reason h
  have hplot := destroyRecord_plot hlen
  rw [← plotDestroyed] at hplot
  generalize closePlot s n .erased reason = v at *
  generalize plotDestroyed s n reason = w at *
  rw [hplot, ← hrecord]
  exact ⟨hmode, hkeys, rfl, rfl⟩

/-! ### What a counted check comes to -/

/-- A waiting check that nothing refuses is an unlock, or a re-wrap with the DRBG instantiated. -/
structure Comparable (s : State) (n : Nat) (p : Port) (tag : Nat) (what : CheckFor) (secret : List Byte) : Prop extends
    Waiting s n p tag what secret false where
  allowed : s.checkRefusal n ⟨.port p tag, what, secret, false⟩ = none
  kind : ∀ new, what ≠ .provision new
  ready : ∀ new, what = .rewrap new → s.sec.drbgReady = true

/-- The check is compared once counted, and the rest of the queue goes on. -/
theorem Comparable.exec_retryCounted (h : Comparable s n p tag what secret)
    (hcompared : compareSecret (counted s n) n ⟨.port p tag, what, secret, false⟩ = u) :
    exec (.retryCounted n) s = .next (runChecks n ((u.plot n).checks.length + 1) u) := by
  subst hcompared
  show execRetryCounted n s = _
  cases what with
  | unlock mode => simp only [execRetryCounted, h.checks, h.allowed]; rfl
  | rewrap new => simp only [execRetryCounted, h.checks, h.allowed, h.ready new rfl]; rfl
  | provision new => exact absurd rfl (h.kind new)

theorem Comparable.exec_last (h : Comparable s n p tag what secret)
    (hcompared : compareSecret (counted s n) n ⟨.port p tag, what, secret, false⟩ = u) (hempty : (u.plot n).checks = []) :
    exec (.retryCounted n) s = .next u := by
  rw [h.exec_retryCounted hcompared, runChecks_empty hempty]

theorem Comparable.wrong (h : Comparable s n p tag what secret) (hwrong : ¬ Matches s n secret)
    (hleft : min 255 ((s.plot n).record.retry + 1) < s.retryLimit n) :
    ∃ t, exec (.retryCounted n) s = .next t ∧ (t.plot n).record.retry = min 255 ((s.plot n).record.retry + 1) ∧
      (t.plot n).mode = (s.plot n).mode ∧ (t.plot n).checks = [] ∧ t.response p .management =
        some ⟨what.opcode, false, tag, 0, 0x000E, s.retryLimit n - min 255 ((s.plot n).record.retry + 1), []⟩ := by
  have hcounted := counted_plot h.length
  have hretry : ((counted s n).plot n).record.retry = min 255 ((s.plot n).record.retry + 1) := by rw [hcounted]
  have hcompared := compareSecret_wrong (c := ⟨.port p tag, what, secret, false⟩) (mt (counted_matches h.length).mp hwrong) (by rwa [hretry])
  rw [hretry, show (counted s n).retryLimit n = s.retryLimit n from rfl] at hcompared
  obtain ⟨hplot, hresponse⟩ := h.toWaiting.counted.answered 0x000E (s.retryLimit n - min 255 ((s.plot n).record.retry + 1)) []
  refine ⟨_, h.exec_last hcompared ?_, ?_, ?_, ?_, hresponse⟩ <;> rw [hplot]
  · exact hretry
  · rw [hcounted]

theorem Comparable.erases (h : Comparable s n p tag what secret) (hwrong : ¬ Matches s n secret)
    (hlimit : s.retryLimit n ≤ min 255 ((s.plot n).record.retry + 1)) :
    ∃ u, (u.plot n).mode = .erased ∧ (u.plot n).keys = none ∧ (u.plot n).record.keyed = false ∧
      (u.plot n).record.rekeys = (s.plot n).record.rekeys ∧
      let v := answerCheck (emptyPlot u n (s.arb.ordNext - 1)) ⟨.port p tag, what, secret, false⟩ 0x000F 0 []
      exec (.retryCounted n) s = .next (runChecks n ((v.plot n).checks.length + 1) v) := by
  have hcounted := counted_plot h.length
  have hlen : n < (counted s n).plots.length := h.toWaiting.counted.length
  have hcompared := compareSecret_erases (c := ⟨.port p tag, what, secret, false⟩) (mt (counted_matches h.length).mp hwrong)
    (by rw [hcounted]; exact hlimit)
  obtain ⟨hmode, hkeys, hkeyed, hrekeys⟩ := plotDestroyed_facts (s := popCheck (counted s n) n) (n := n) 2 (by rwa [popCheck_length])
  refine ⟨_, hmode, hkeys, hkeyed, hrekeys.trans ?_, h.exec_retryCounted hcompared⟩
  rw [popCheck, State.modPlot_plot _ _ _ hlen, hcounted]

theorem runChecks_matched {c : SecretCheck} (hchecks : (s.plot n).checks = [c]) (hmatched : c.matched = true) (fuel : Nat) :
    runChecks n fuel s = s := by
  cases fuel with
  | zero => rfl
  | succ fuel => simp only [runChecks, hchecks, hmatched, if_true]

theorem Comparable.unlocks {mode : Nat} (h : Comparable s n p tag what secret) (hwhat : what = .unlock mode) (hright : Matches s n secret)
    (hkeys : s.unwrap n secret = some k) : ∃ t, exec (.retryCounted n) s = .next t ∧ (t.plot n).keys = some k ∧
      (t.plot n).record.retry = min 255 ((s.plot n).record.retry + 1) ∧ (t.plot n).checks = [⟨.port p tag, what, secret, true⟩] ∧
      (t.plot n).mode = (s.plot n).mode := by
  have hcounted := counted_plot h.length
  have hcompared := compareSecret_unlocks (c := ⟨.port p tag, what, secret, false⟩) hwhat ((counted_matches h.length).mpr hright)
    ((counted_unwrap h.length).trans hkeys)
  have hplot := State.modPlot_plot _ n (fun q => { q with keys := some k, checks := q.checks.modify 0 fun c => { c with matched := true } })
    h.toWaiting.counted.length
  rw [hcounted, h.checks] at hplot
  refine ⟨_, (h.exec_retryCounted hcompared).trans (congrArg _ (runChecks_matched (c := ⟨.port p tag, what, secret, true⟩) ?_ rfl _)), ?_⟩
  · rw [hplot]
    rfl
  · rw [hplot]
    exact ⟨rfl, rfl, rfl, rfl⟩

theorem Comparable.rewraps (h : Comparable s n p tag what secret) (hwhat : what = .rewrap new) (hright : Matches s n secret)
    (hkeys : s.unwrap n secret = some k) : ∃ t, exec (.retryCounted n) s = .next t ∧ (t.plot n).record.retry = 0 ∧ (t.plot n).checks = [] ∧
      (t.plot n).record.rekeys = min counterMax ((s.plot n).record.rekeys + 1) ∧
      (t.plot n).record.vrf = s.vrf n (t.plot n).record.salt new ∧
      (t.plot n).record.wrapA = Config.kwWrap (s.kek n (t.plot n).record.salt new) k.keys ∧
      t.response p .management = some ⟨0x12, false, tag, 0, 0, 0, []⟩ := by
  have hcompared := compareSecret_rewraps (c := ⟨.port p tag, what, secret, false⟩) hwhat ((counted_matches h.length).mpr hright)
    ((counted_unwrap h.length).trans hkeys)
  obtain ⟨hanswered, hresponse⟩ := (h.toWaiting.counted.rewrapped (new := new) (k := k)).answered 0 0 []
  rw [rewrapped_plot h.toWaiting.counted.length, counted_plot h.length] at hanswered
  refine ⟨_, h.exec_last hcompared (by rw [hanswered]), ?_⟩
  rw [hanswered, hresponse, hwhat]
  exact ⟨rfl, rfl, rfl, writeRecord_vrf _ _ _, congrArg (Config.kwWrap · k.keys) (writeRecord_kek _ _ _), rfl⟩

/-- A key set that does not unwrap: SAFELIGHT is answered and the Plot's scope entered (R341). -/
theorem Comparable.breaks (h : Comparable s n p tag what secret) (hright : Matches s n secret) (hkeys : s.unwrap n secret = none) :
    ∃ u, u.response p .management = some ⟨what.opcode, false, tag, 0, stSafelight, 0, []⟩ ∧ (u.plot n).checks = [] ∧
      (u.plot n).record.retry = min 255 ((s.plot n).record.retry + 1) ∧
      let v := enterScope u 0x00A0 3 n false s.member.centralIsland 0xFF (w32 n) 0
      Faulted s v 0x00A0 3 n false ∧ exec (.retryCounted n) s = .next (runChecks n ((v.plot n).checks.length + 1) v) := by
  have hcompared := compareSecret_broken (c := ⟨.port p tag, what, secret, false⟩) ((counted_matches h.length).mpr hright)
    ((counted_unwrap h.length).trans hkeys)
  obtain ⟨hanswered, hresponse⟩ := h.toWaiting.counted.answered stSafelight 0 []
  refine ⟨_, hresponse, by rw [hanswered], by rw [hanswered, counted_plot h.length], ?_, ?_⟩
  · exact enterScope_faulted.before (by rw [answerCheck_port]; rfl)
  · have hmember : (answerCheck (popCheck (counted s n) n) ⟨.port p tag, what, secret, false⟩ stSafelight 0 []).member = s.member := by
      rw [answerCheck_port]
      rfl
    rw [← hmember]
    exact h.exec_retryCounted hcompared

/-! ### A check that needs no comparison, or no longer gets one -/

theorem runChecks_refused (h : Waiting s n p tag what secret false)
    (hrefusal : s.checkRefusal n ⟨.port p tag, what, secret, false⟩ = some (st, d)) (fuel : Nat) :
    runChecks n (fuel + 1) s = refusedCheck s n ⟨.port p tag, what, secret, false⟩ st d := by
  obtain ⟨hempty, -, -⟩ := h.refused (st := st) (d := d)
  rw [← runChecks_empty hempty fuel]
  simp only [runChecks, h.checks, hrefusal]
  rfl

theorem Waiting.exec_refused (h : Waiting s n p tag what secret false)
    (hrefusal : s.checkRefusal n ⟨.port p tag, what, secret, false⟩ = some (st, d)) :
    let t := refusedCheck s n ⟨.port p tag, what, secret, false⟩ st d
    exec (.retryCounted n) s = .next t ∧ exec (.keyRecordWritten n) s = .next t := by
  obtain ⟨hempty, -, -⟩ := h.refused (st := st) (d := d)
  refine ⟨congrArg Host.Outcome.next ?_, congrArg Host.Outcome.next ?_⟩
  · simp only [h.checks, hrefusal]
    exact runChecks_empty hempty _
  · simp only [h.checks]
    exact runChecks_refused h hrefusal 1

/-- A record written while the check still waits for its counting changes nothing. -/
theorem Comparable.exec_keyRecordWritten (h : Comparable s n p tag what secret) : exec (.keyRecordWritten n) s = .next s := by
  have hwaits : runChecks n 2 s = s := by
    simp only [runChecks, h.checks, h.allowed]
    cases what with
    | unlock mode => rfl
    | rewrap new => rfl
    | provision new => exact absurd rfl (h.kind new)
  refine congrArg Host.Outcome.next ?_
  simp only [h.checks]
  exact hwaits

theorem exec_noCheck (h : (s.plot n).checks = []) : exec (.retryCounted n) s = .next s ∧ exec (.keyRecordWritten n) s = .next s := by
  refine ⟨congrArg Host.Outcome.next ?_, congrArg Host.Outcome.next ?_⟩ <;> simp only [h]

end Counted

end Sys2Proof.Machine
end

section
/-! The record of a matched unlock written (R275, R276, R339, step 3): the Plot opened and presented, or the refusal that has come
meanwhile; O24. -/

namespace Sys2Proof.Machine

section Opened

variable {s u : State} {n tag mode st d : Nat} {p : Port} {what : CheckFor} {secret : List Byte} {matched : Bool}

/-! ### What the presentation of a Plot leaves -/

/-- The Plots, the layout, and the capsule of each port's management function. -/
def vaultPart (s : State) : List PlotState × Option Layout × (Port → CapState) := (s.plots, s.lay.active, fun p => s.capOf p .management)

theorem vaultPart_modPort (p : Port) (f : PortState → PortState) : vaultPart (s.modPort p f) = vaultPart s := by cases p <;> rfl

theorem vaultPart_connectEmb (p : Port) (k m : Nat) : vaultPart (connectEmb s p k m) = vaultPart s := by
  have hattention : vaultPart (addAttention s p m) = vaultPart s := rfl
  simp only [connectEmb, modEmb]
  split
  · exact (vaultPart_modPort _ _).trans hattention
  · split
    · exact (vaultPart_modPort _ _).trans hattention
    · exact hattention

theorem vaultPart_attachPlot (p : Port) (m fixed : Nat) : vaultPart (attachPlot s p m fixed) = vaultPart s := by
  unfold attachPlot
  split
  · rfl
  · exact (vaultPart_connectEmb _ _ _).trans (vaultPart_modPort _ _)

theorem vaultPart_wakeTrigger (p : Port) (bit : Nat) : vaultPart (wakeTrigger s p bit) = vaultPart s := by
  simp only [wakeTrigger]
  split
  · exact vaultPart_modPort _ _
  · rfl

theorem vaultPart_ringRequest (ty dest : Nat) (payload : List Byte) (second : Option (Nat × List Byte)) (why : ReqWhy) :
    vaultPart (ringRequest s ty dest payload second why).1 = vaultPart s := by
  rw [ringRequest_eq]
  rfl

theorem vaultPart_distributeKey (m : Nat) : vaultPart (distributeKey s m) = vaultPart s := by
  unfold distributeKey
  split
  · rfl
  · split
    · rfl
    · refine foldl_unchanged vaultPart _ (fun v pos => ?_) _ _
      split
      · rfl
      · dsimp only
        split
        · exact (vaultPart_ringRequest _ _ _ _ _).trans (vaultPart_ringRequest _ _ _ _ _)
        · exact vaultPart_ringRequest _ _ _ _ _

/-- A Plot that becomes Open or Read-only is presented: its embedded ports, the wake of the other ports, its keys to the members. -/
def presentPlot (s : State) (n : Nat) (wasUp : Bool) (a : Asker) : State :=
  let emb := ((s.plotCfg? n).map (·.embPort)).getD 0
  let s := if wasUp then s else (s.portsOf n).foldl (fun (s : State) p => attachPlot s p n emb) s
  let s := (s.portsOf n).foldl (fun (s : State) p => if a.isPort p then s else wakeTrigger s p 1) s
  distributeKey s n

theorem vaultPart_presentPlot (wasUp : Bool) (a : Asker) : vaultPart (presentPlot s n wasUp a) = vaultPart s := by
  refine (vaultPart_distributeKey _).trans ((foldl_unchanged vaultPart _ (fun v q => ?_) _ _).trans ?_)
  · split
    · rfl
    · exact vaultPart_wakeTrigger _ _
  · split
    · rfl
    · exact foldl_unchanged vaultPart _ (fun v q => vaultPart_attachPlot _ _ _) _ _

theorem plot_of_vaultPart (h : vaultPart u = vaultPart s) (k : Nat) : u.plot k = s.plot k :=
  congrArg (fun part => part.1.getD k Reset.plot) h

theorem fieldOf_of_vaultPart (h : vaultPart u = vaultPart s) (k : Nat) : u.fieldOf k = s.fieldOf k :=
  congrArg (fun part => (part.2.1.bind (·.plot? k)).map (·.field)) h

theorem inProgress_of_vaultPart {op : Nat} (h : vaultPart u = vaultPart s) (hs : InProgress s p .management op tag) :
    InProgress u p .management op tag := by
  have hcap : u.capOf p .management = s.capOf p .management := congrArg (fun part => part.2.2 p) h
  rwa [InProgress, hcap]

/-! ### The Plot opened (R275, R276) -/

/-- The state that an unlock gives its Plot. -/
def unlockGoal (s : State) (n mode : Nat) : PlotMode := if mode = 1 ∨ s.readOnlyCause n ≠ 0 then .readOnly else .open_

theorem unlockGoal_up : (unlockGoal s n mode).up = true := by
  unfold unlockGoal
  split <;> rfl

theorem unlockGoal_readOnly (h : mode = 1 ∨ s.readOnlyCause n ≠ 0) : unlockGoal s n mode = .readOnly := if_pos h

theorem unlockGoal_open (hmode : mode = 0) (hcause : s.readOnlyCause n = 0) : unlockGoal s n mode = .open_ :=
  if_neg (by simp [hmode, hcause])

/-- The record with RETRY = 0 written, and its check done. -/
def retryCleared (s : State) (n : Nat) : State := popCheck (writeRecord s n fun r => { r with retry := 0 }) n

theorem Waiting.retryCleared_plot (h : Waiting s n p tag what secret matched) : (retryCleared s n).plot n = { s.plot n with
    record := { (s.plot n).record with retry := 0, seq := (s.plot n).record.seq + 1 }, olderCopy := true, checks := [] } := by
  have hlater := h.writeRecord fun r => { r with retry := 0 }
  rw [retryCleared, popCheck, State.modPlot_plot _ _ _ hlater.length, hlater.checks, writeRecord_plot _ h.length]
  rfl

theorem Waiting.retryCleared_length (h : Waiting s n p tag what secret matched) : n < (retryCleared s n).plots.length := by
  rw [retryCleared, popCheck_length]
  exact (h.writeRecord _).length

/-- The state with the Plot Open or Read-only, not yet presented. -/
def unlocked (s : State) (n mode : Nat) : State :=
  (setPlotMode (retryCleared s n) n (unlockGoal s n mode) 0).modPlot n fun q => { q with
    roCause := if unlockGoal s n mode = .readOnly then (if mode = 1 then 1 else s.readOnlyCause n) else 0
    byUnlock := decide (mode = 1) }

theorem setPlotMode_plot_any {m : PlotMode} (reason : Nat) (hlen : n < s.plots.length) :
    (setPlotMode s n m reason).plot n = { s.plot n with mode := m } := by
  by_cases hsame : (s.plot n).mode = m
  · subst hsame
    simp [setPlotMode]
  · exact setPlotMode_plot reason hsame hlen

theorem Waiting.unlocked_facts (h : Waiting s n p tag what secret matched) :
    ((unlocked s n mode).plot n).record.retry = 0 ∧ ((unlocked s n mode).plot n).mode = unlockGoal s n mode ∧
    ((unlocked s n mode).plot n).checks = [] ∧ InProgress (unlocked s n mode) p .management what.opcode tag ∧
    (unlocked s n mode).fieldOf n = s.fieldOf n := by
  have hplot := setPlotMode_plot_any (m := unlockGoal s n mode) 0 h.retryCleared_length
  rw [h.retryCleared_plot] at hplot
  have hlen : n < (setPlotMode (retryCleared s n) n (unlockGoal s n mode) 0).plots.length := by
    rw [setPlotMode_plots_length]
    exact h.retryCleared_length
  have hprogress : InProgress (setPlotMode (retryCleared s n) n (unlockGoal s n mode) 0) p .management what.opcode tag :=
    inProgress_of_closePart (closePart_setPlotMode _ _) (show InProgress (retryCleared s n) p .management what.opcode tag from h.progress)
  have hlayout : (setPlotMode (retryCleared s n) n (unlockGoal s n mode) 0).lay.active = s.lay.active :=
    congrArg (fun part => part.1.2.1) (quietPart_setPlotMode (s := retryCleared s n) n (unlockGoal s n mode) 0)
  refine ⟨?_, ?_, ?_, hprogress, congrArg (fun l => (l.bind (·.plot? n)).map PlotCfg.field) hlayout⟩ <;>
    rw [unlocked, State.modPlot_plot _ _ _ hlen, hplot]

/-- An unlock's answer: the Plot's state and its embedded port on each port (R275). -/
def unlockResponse (s : State) (n mode tag : Nat) (goal : PlotMode) : Response :=
  ⟨0x10, false, tag, 0, 0, if mode = 0 ∧ goal = .readOnly then 1 else 0,
    leBytes 1 goal.code ++ leBytes 1 (s.embByte .a n) ++ leBytes 1 (s.embByte .b n) ++ [0]⟩

/-- The state in which a matched unlock is answered. -/
def unlockPresented (s : State) (n mode : Nat) (p : Port) (tag : Nat) : State :=
  presentPlot (unlocked s n mode) n (s.plot n).mode.up (.port p tag)

/-- The answer that a matched unlock gets. -/
def openedResponse (s : State) (n mode : Nat) (p : Port) (tag : Nat) : Response :=
  unlockResponse (unlockPresented s n mode p tag) n mode tag (unlockGoal s n mode)

/-- The state in which a matched unlock has been answered. -/
def unlockAnswered (s : State) (n mode : Nat) (p : Port) (tag : Nat) : State :=
  respond (unlockPresented s n mode p tag) p .management (openedResponse s n mode p tag)

theorem exec_keyRecordWritten_opens (h : Waiting s n p tag (.unlock mode) secret true) (hopen : s.openRefusal n mode = none) :
    let u := unlockAnswered s n mode p tag
    let v := match u.fieldOf n with | some f => runField u f | none => u
    exec (.keyRecordWritten n) s = .next (runChecks n ((v.plot n).checks.length + 1) v) := by
  show execKeyRecordWritten n s = _
  simp only [execKeyRecordWritten, h.checks, hopen]
  rfl

theorem Waiting.opens (h : Waiting s n p tag (.unlock mode) secret true) (hopen : s.openRefusal n mode = none) :
    ∃ u r, (u.plot n).record.retry = 0 ∧ (u.plot n).mode.up = true ∧ (u.plot n).checks = [] ∧
      u.response p .management = some r ∧ r.opcode = 0x10 ∧ r.status = 0 ∧ r.tag = tag ∧ r.payload.length = 4 ∧
      (mode = 1 → r.payload[0]? = some 3) ∧ (mode = 0 → s.readOnlyCause n = 0 → r.payload[0]? = some 2 ∧ r.detail = 0) ∧
      (mode = 0 → s.readOnlyCause n ≠ 0 → r.payload[0]? = some 3 ∧ r.detail = 1) ∧
      let v := match s.fieldOf n with | some f => runField u f | none => u
      exec (.keyRecordWritten n) s = .next (runChecks n ((v.plot n).checks.length + 1) v) := by
  obtain ⟨hretry, hmode, hchecks, hprogress, hfield⟩ := h.unlocked_facts (mode := mode)
  have hpart : vaultPart (unlockPresented s n mode p tag) = vaultPart (unlocked s n mode) := vaultPart_presentPlot _ _
  have hexec := exec_keyRecordWritten_opens h hopen
  have hplot : (unlockAnswered s n mode p tag).plot n = (unlocked s n mode).plot n := (respond_plot _ _).trans (plot_of_vaultPart hpart n)
  have hfield' : (unlockAnswered s n mode p tag).fieldOf n = s.fieldOf n := by
    rw [unlockAnswered, respond_eq]
    exact (fieldOf_of_vaultPart hpart n).trans hfield
  refine ⟨unlockAnswered s n mode p tag, openedResponse s n mode p tag, ?_, ?_, ?_,
    (response_respond (inProgress_of_vaultPart hpart hprogress)).1, rfl, rfl, rfl, rfl, fun hone => ?_, fun hzero hcause => ?_,
    fun hzero hcause => ?_, ?_⟩
  · rw [hplot, hretry]
  · rw [hplot, hmode, unlockGoal_up]
  · rw [hplot, hchecks]
  · rw [openedResponse, unlockGoal_readOnly (.inl hone)]
    rfl
  · rw [openedResponse, unlockGoal_open hzero hcause]
    exact ⟨rfl, if_neg (by simp)⟩
  · rw [openedResponse, unlockGoal_readOnly (.inr hcause)]
    exact ⟨rfl, if_pos ⟨hzero, rfl⟩⟩
  · rw [← hfield']
    exact hexec

/-! ### An unlock refused at its record (log 65) -/

/-- The check done, and no key left of a Plot that is not open. -/
def openingDropped (s : State) (n : Nat) : State :=
  if ((retryCleared s n).plot n).mode.up then retryCleared s n else clearKeys (retryCleared s n) [n]

theorem refuseOpen_eq (c : SecretCheck) : refuseOpen (writeRecord s n fun r => { r with retry := 0 }) n c st d =
    answerCheck (openingDropped s n) c st d [] := rfl

theorem Waiting.openingDropped_facts (h : Waiting s n p tag what secret matched) :
    InProgress (openingDropped s n) p .management what.opcode tag ∧ ((openingDropped s n).plot n).checks = [] ∧
    ((openingDropped s n).plot n).mode = (s.plot n).mode ∧ ((s.plot n).mode.up = false → ((openingDropped s n).plot n).keys = none) := by
  have hcleared := h.retryCleared_plot
  have hsame : ((retryCleared s n).plot n).mode = (s.plot n).mode := by rw [hcleared]
  have hkeys : (clearKeys (retryCleared s n) [n]).plot n = { (retryCleared s n).plot n with keys := none } :=
    State.modPlot_plot _ n (fun q => { q with keys := none }) h.retryCleared_length
  unfold openingDropped
  split
  case isTrue hup =>
    rw [hcleared]
    exact ⟨h.progress, rfl, rfl, fun hshut => by simp [hsame, hshut] at hup⟩
  case isFalse =>
    rw [hkeys, hcleared]
    exact ⟨h.progress, rfl, rfl, fun _ => rfl⟩

theorem Waiting.openRefused (h : Waiting s n p tag (.unlock mode) secret true) (hopen : s.openRefusal n mode = some (st, d)) :
    ∃ t, exec (.keyRecordWritten n) s = .next t ∧ (t.plot n).checks = [] ∧
      (t.plot n).mode = (s.plot n).mode ∧ ((s.plot n).mode.up = false → (t.plot n).keys = none) ∧
      t.response p .management = some ⟨0x10, false, tag, 0, st, d, []⟩ := by
  obtain ⟨hprogress, hchecks, hmode, hkeys⟩ := h.openingDropped_facts
  have hplot := answerCheck_plot (s := openingDropped s n) (p := p) (tag := tag) (what := .unlock mode) (secret := secret) (matched := true) st d [] n
  refine ⟨_, congrArg Host.Outcome.next ?_, (congrArg PlotState.checks hplot).trans hchecks, (congrArg PlotState.mode hplot).trans hmode,
    fun hshut => (congrArg PlotState.keys hplot).trans (hkeys hshut), answerCheck_response hprogress st d []⟩
  simp only [h.checks, hopen, refuseOpen_eq]
  exact runChecks_empty ((congrArg PlotState.checks hplot).trans hchecks) _

end Opened

/-- Settles O24: a waiting check is refused, or counted and compared with one of five outcomes; the record of a matched unlock
opens the Plot or finds it refused. -/
theorem secretChecksCountThenCompare : Obligations.SecretChecksCountThenCompare := by
  unfold Obligations.SecretChecksCountThenCompare
  intro s n p tag what
  refine ⟨exec_noCheck, fun hbusy hopcode htag => ?_⟩
  have hprogress : InProgress s p .management what.opcode tag := ⟨hbusy, hopcode, htag⟩
  refine ⟨fun secret hchecks => ⟨fun st d hrefusal => ?refused, fun hallowed hkind hready => ?compared⟩,
    fun mode secret hwhat hchecks hopen => ?opens, fun mode secret st d hwhat hchecks hopen => ?openRefused⟩
  case refused =>
    have h : Waiting s n p tag what secret false := ⟨hchecks, hprogress⟩
    obtain ⟨hcounted, hwritten⟩ := h.exec_refused hrefusal
    exact ⟨_, hcounted, hwritten, h.refused⟩
  case compared =>
    have h : Comparable s n p tag what secret := ⟨⟨hchecks, hprogress⟩, hallowed, hkind, hready⟩
    exact ⟨h.exec_keyRecordWritten, h.wrong, h.erases,
      fun k hright hkeys => ⟨fun mode hwhat => h.unlocks hwhat hright hkeys, fun new hwhat => h.rewraps hwhat hright hkeys⟩, h.breaks⟩
  case opens =>
    subst hwhat
    exact Waiting.opens ⟨hchecks, hprogress⟩ hopen
  case openRefused =>
    subst hwhat
    exact Waiting.openRefused ⟨hchecks, hprogress⟩ hopen

end Sys2Proof.Machine
end

section
/-! SEC_RDP, the end of a lowering, and SEC_PROV (R364 to R369, Table SEC-4); O37. -/

namespace Sys2Proof.Machine

section Protection

variable {s u : State} {id : Identity} {c : Instr} {target key level : Nat}

/-! ### What the grant of an access leaves -/

@[simp] theorem noteAccess_sec (s : State) (id : Identity) : (noteAccess s id).sec = s.sec := by rw [noteAccess_eq]
@[simp] theorem noteAccess_grn (s : State) (id : Identity) : (noteAccess s id).grn = s.grn := by rw [noteAccess_eq]
@[simp] theorem noteAccess_jtag (s : State) (id : Identity) : (noteAccess s id).jtag = s.jtag := by rw [noteAccess_eq]
@[simp] theorem noteAccess_plots (s : State) (id : Identity) : (noteAccess s id).plots = s.plots := by rw [noteAccess_eq]
@[simp] theorem noteAccess_spareOut (s : State) (id : Identity) : (noteAccess s id).spareOut = s.spareOut := by rw [noteAccess_eq]; rfl
@[simp] theorem noteAccess_anyPlotUp (s : State) (id : Identity) : (noteAccess s id).anyPlotUp = s.anyPlotUp := by rw [noteAccess_eq]; rfl
@[simp] theorem noteAccess_drkBlank (s : State) (id : Identity) : (noteAccess s id).drkBlank = s.drkBlank := by simp [State.drkBlank]

theorem noteAccess_drawBytes (s : State) (id : Identity) (k : Nat) : ((noteAccess s id).drawBytes k).1 = (s.drawBytes k).1 := by
  simp [State.drawBytes]

theorem secResult_noteAccess (s : State) (id : Identity) (r : Nat) :
    secResult (noteAccess s id) r = { noteAccess s id with sec := { s.sec with result := r } } := by
  rw [← noteAccess_sec s id]
  rfl

/-! ### SEC_RDP (R364 to R368) -/

/-- The key of Table SEC-4 for a write that asks for a level; 0 asks for a lowering. -/
def rdpKey (target : Nat) : BitVec 16 := if target = 1 then 0x5E01 else if target = 2 then 0x5E02 else 0xA50F

theorem exec_rdpLevel1 (h : WritePasses s id csSecRdp true) (key : BitVec 16) :
    exec (.rdpLevel1 id key) s = .next (secRdp (noteAccess s id) id 1 key.toNat) := congrArg Host.Outcome.next (csWrite_passes h)
theorem exec_rdpLevel2 (h : WritePasses s id csSecRdp true) (key : BitVec 16) :
    exec (.rdpLevel2 id key) s = .next (secRdp (noteAccess s id) id 2 key.toNat) := congrArg Host.Outcome.next (csWrite_passes h)
theorem exec_rdpLower (h : WritePasses s id csSecRdp true) (key : BitVec 16) :
    exec (.rdpLower id key) s = .next (secRdp (noteAccess s id) id 0 key.toNat) := congrArg Host.Outcome.next (csWrite_passes h)

theorem exec_rdp {k want : BitVec 16} (h : WritePasses s id csSecRdp true)
    (hc : (c = .rdpLevel1 id k ∧ want = 0x5E01) ∨ (c = .rdpLevel2 id k ∧ want = 0x5E02) ∨ (c = .rdpLower id k ∧ want = 0xA50F)) :
    ∃ target, want = rdpKey target ∧ exec c s = .next (secRdp (noteAccess s id) id target k.toNat) := by
  obtain ⟨rfl, rfl⟩ | ⟨rfl, rfl⟩ | ⟨rfl, rfl⟩ := hc
  · exact ⟨1, rfl, exec_rdpLevel1 h k⟩
  · exact ⟨2, rfl, exec_rdpLevel2 h k⟩
  · exact ⟨0, rfl, exec_rdpLower h k⟩

theorem secRdp_without_semaphore (h : u.holdsSem id 0 = false) : secRdp u id target key = secResult u 1 := by
  simp [secRdp, h]

/-- A level applied: the level, and an instruction of the TAP that it does not allow gone (R643). -/
theorem applyLevel_eq : applyLevel u level = { u with
    sec := { u.sec with level := level }
    jtag := if tapAllows level u.jtag.ir then u.jtag else u.jtag.bypass } := by
  by_cases htap : tapAllows level u.jtag.ir = true <;> simp [applyLevel, htap, State.modSec, State.modJtag]

/-- The lowering's marker is programmed (R366, step 1). -/
def loweringMarked (u : State) (id : Identity) : State :=
  structWrite (u.modSec fun q => { q with lowering := true, loweredBy := id, result := 0 }) 0x501

section Holder

variable (hsem : u.holdsSem id 0 = true)
include hsem

theorem secRdp_wrong_key (hkey : key ≠ (rdpKey target).toNat) : secRdp u id target key = secResult u 2 := by
  have hwanted : (if target = 1 then 0x5E01 else if target = 2 then 0x5E02 else 0xA50F) = (rdpKey target).toNat := by
    unfold rdpKey
    split_ifs <;> rfl
  simp only [secRdp, hsem, hwanted, Bool.not_true, Bool.false_eq_true, if_false]
  exact if_pos (.inr hkey)

theorem secRdp_level1_refused (hlevel : u.sec.level ≠ 0) : secRdp u id 1 0x5E01 = secResult u 3 := by
  simp [secRdp, hsem, hlevel]

theorem secRdp_level1_spareOut (hlevel : u.sec.level = 0) (hspare : u.spareOut = true) : secRdp u id 1 0x5E01 = u := by
  simp [secRdp, hsem, hlevel, hspare]

theorem secRdp_level1_raises (hlevel : u.sec.level = 0) (hspare : u.spareOut = false) :
    ∃ t, secRdp u id 1 0x5E01 = t ∧ t.sec = { u.sec with level := 1, result := 0 } ∧
      t.jtag = (if tapAllows 1 u.jtag.ir then u.jtag else u.jtag.bypass) ∧ { t with sec := u.sec, grn := u.grn, jtag := u.jtag } = u := by
  have hraised : secRdp u id 1 0x5E01 = secResult (structWrite (applyLevel u 1) 0x500) 0 := by simp [secRdp, hsem, hlevel, hspare]
  rw [hraised, applyLevel_eq]
  exact ⟨_, rfl, rfl, rfl, rfl⟩

theorem secRdp_level2_refused (hlevel : u.sec.level ≠ 1) : secRdp u id 2 0x5E02 = secResult u 3 := by
  simp [secRdp, hsem, hlevel]

theorem secRdp_level2_spareOut (hlevel : u.sec.level = 1) (hspare : u.spareOut = true) : secRdp u id 2 0x5E02 = u := by
  simp [secRdp, hsem, hlevel, hspare]

theorem secRdp_level2_raises (hlevel : u.sec.level = 1) (hspare : u.spareOut = false) :
    ∃ t, secRdp u id 2 0x5E02 = t ∧ t.sec.level = 2 ∧ t.sec.result = 0 ∧ t.sec.root = u.sec.root ∧
      t.jtag = (if tapAllows 2 u.jtag.ir then u.jtag else u.jtag.bypass) ∧
      { t with sec := u.sec, grn := u.grn, free := u.free, jtag := u.jtag } = u := by
  have hraised : secRdp u id 2 0x5E02 = secResult (applyLevel (putSeed (u.drawBytes 32).2 5 .pair (u.drawBytes 32).1) 2) 0 := by
    simp [secRdp, hsem, hlevel, hspare]
  rw [hraised, applyLevel_eq]
  exact ⟨_, rfl, rfl, rfl, rfl, rfl, rfl⟩

theorem secRdp_lower_refused (hlevel : u.sec.level ≠ 1) : secRdp u id 0 0xA50F = secResult u 3 := by
  simp [secRdp, hsem, hlevel]

theorem secRdp_lower_up (hlevel : u.sec.level = 1) (hup : u.anyPlotUp = true) : secRdp u id 0 0xA50F = secResult u 4 := by
  simp [secRdp, hsem, hlevel, hup]

theorem secRdp_lower_spareOut (hlevel : u.sec.level = 1) (hup : u.anyPlotUp = false) (hspare : u.spareOut = true) :
    secRdp u id 0 0xA50F = u := by
  simp [secRdp, hsem, hlevel, hup, hspare]

/-- A lowering: its marker, then the keys of every Plot destroyed (R366, steps 1 and 2). -/
theorem secRdp_lower_begins (hlevel : u.sec.level = 1) (hup : u.anyPlotUp = false) (hmarked : u.sec.lowering = false) (hspare : u.spareOut = false) :
    secRdp u id 0 0xA50F = (List.range u.plots.length).foldl (fun v n =>
      if (v.plot n).mode = .absent then (if (v.plot n).record.keyed then destroyRecord v n else v)
      else if (v.plot n).mode = .erased then v else erasePlot v n 0) (loweringMarked u id) := by
  have hbegins : secRdp u id 0 0xA50F = beginLowering u id := by simp [secRdp, hsem, hlevel, hup, hmarked, hspare]
  exact hbegins

end Holder

/-! ### The end of a lowering (R366, R367) -/

theorem exec_loweringComplete_idle (h : s.sec.lowering = false) : exec .loweringComplete s = .next s :=
  congrArg Host.Outcome.next (if_neg (by simp [h]))

theorem exec_loweringComplete_resets (h : s.sec.lowering = true) (hrails : s.pwr.railsUp = true) :
    exec .loweringComplete s = .next (resetChip (finishLowering s) (regCause s.sec.loweredBy) false) := by
  rw [← resetBy_railsUp (s := finishLowering s) hrails]
  exact congrArg Host.Outcome.next (if_pos h)

theorem lowered_plots (cause : Nat) : ∀ p ∈ (resetChip (finishLowering s) cause false).plots, p.record = Reset.record ∧ p.keys = none := by
  intro p hp
  obtain ⟨q, hq, rfl⟩ := List.mem_map.mp (show p ∈ (finishLowering s).plots.map resetPlot from hp)
  obtain ⟨-, -, rfl⟩ := List.mem_map.mp hq
  exact ⟨rfl, rfl⟩

/-! ### SEC_PROV (R369) -/

theorem exec_rootGen (h : WritePasses s id csSecProv true) : exec (.rootGen id) s = .next (secProv (noteAccess s id) id) :=
  congrArg Host.Outcome.next (csWrite_passes h)

theorem secProv_without_semaphore (hid : id ≠ idJtag) (h : u.holdsSem id 0 = false) : secProv u id = secResult u 1 := by
  simp [secProv, hid, h]

/-- A Seed pair holds its word in both copies. -/
theorem getD_seedPair {l : List SeedWord} {w : Nat} (x : SeedWord) : (w < l.length → ((l.set (w + 32) x).set w x).getD w .blank = x) ∧
    (w + 32 < l.length → ((l.set (w + 32) x).set w x).getD (w + 32) .blank = x) := by
  refine ⟨fun h => ?_, fun h => ?_⟩
  · simp [List.getD_eq_getElem?_getD, h]
  · simp [List.getD_eq_getElem?_getD, h]

section Allowed

variable (hallowed : id = idJtag ∨ u.holdsSem id 0 = true)
include hallowed

/-- JTAG needs no semaphore. -/
theorem secProv_allowed : ¬ (id ≠ idJtag ∧ (!u.holdsSem id 0) = true) := by
  rintro ⟨hid, hsem⟩
  obtain hjtag | hheld := hallowed
  · exact hid hjtag
  · simp [hheld] at hsem

theorem secProv_level (hlevel : u.sec.level ≠ 0) : secProv u id = secResult u 3 := by
  rw [secProv, if_neg (secProv_allowed hallowed), if_pos hlevel]

theorem secProv_taken (hlevel : u.sec.level = 0) (htaken : u.sec.root = true ∨ u.drkBlank = false) : secProv u id = secResult u 5 := by
  rw [secProv, if_neg (secProv_allowed hallowed), if_neg (by simp [hlevel]), if_pos (by simpa using htaken)]

theorem secProv_free (hlevel : u.sec.level = 0) (hroot : u.sec.root = false) (hblank : u.drkBlank = true) : secProv u id =
    if u.spareOut then u else if !u.sec.drbgReady then u.modSec fun q => { q with rootWaits := true } else genRoot u := by
  rw [secProv, if_neg (secProv_allowed hallowed), if_neg (by simp [hlevel]), if_neg (by simp [hroot, hblank])]

theorem secProv_generates (hlevel : u.sec.level = 0) (hroot : u.sec.root = false) (hblank : u.drkBlank = true) (hspare : u.spareOut = false)
    (hready : u.sec.drbgReady = true) : ∃ t, secProv u id = t ∧ t.sec.root = true ∧ t.sec.result = 0 ∧ t.sec.level = 0 ∧
      (1 < u.grn.seed.length → t.grn.seed.getD 1 .blank = seedValue (u.drawBytes 32).1) ∧
      (33 < u.grn.seed.length → t.grn.seed.getD 33 .blank = seedValue (u.drawBytes 32).1) ∧
      { t with sec := u.sec, grn := u.grn, free := u.free } = u := by
  obtain ⟨hprimary, hcopy⟩ := getD_seedPair (l := u.grn.seed) (w := 1) (seedValue (u.drawBytes 32).1)
  refine ⟨genRoot u, ?_, rfl, rfl, hlevel, hprimary, hcopy, rfl⟩
  simp [secProv_free hallowed hlevel hroot hblank, hspare, hready]

end Allowed

end Protection

/-- Settles O37: each write is decided under the grant of its access, in the order of Table SEC-4, and the end of a lowering is a
reset over an erased Granary. -/
theorem readOutProtectionAndRoot : Obligations.ReadOutProtectionAndRoot := by
  intro s id
  refine ⟨fun hpass => ?rdp, exec_loweringComplete_idle, fun hlowering hrails => ?completed, fun hpass => ?prov⟩
  case rdp =>
    refine ⟨fun c key want hc => ?refused, ?decided⟩
    case refused =>
      obtain ⟨target, rfl, hexec⟩ := exec_rdp hpass hc
      rw [hexec]
      refine ⟨fun hsem => ?_, fun hsem hkey => ?_⟩
      · rw [secRdp_without_semaphore (by simpa using hsem), secResult_noteAccess]
      · rw [secRdp_wrong_key (by simpa using hsem) (by simpa [BitVec.toNat_inj] using hkey), secResult_noteAccess]
    case decided =>
      rw [exec_rdpLevel1 hpass, exec_rdpLevel2 hpass, exec_rdpLower hpass]
      simp only [← noteAccess_sec s id, ← noteAccess_grn s id, ← noteAccess_jtag s id, ← noteAccess_free s id, ← noteAccess_plots s id,
        ← noteAccess_spareOut s id, ← noteAccess_anyPlotUp s id, ← noteAccess_holdsSem s id]
      generalize noteAccess s id = u
      refine fun hsem => ⟨fun hlevel => congrArg _ (secRdp_level1_refused hsem hlevel),
        fun hlevel hspare => congrArg _ (secRdp_level1_spareOut hsem hlevel hspare), fun hlevel hspare => ?raised1,
        fun hlevel => ⟨congrArg _ (secRdp_level2_refused hsem hlevel), congrArg _ (secRdp_lower_refused hsem hlevel)⟩,
        fun hlevel => ⟨fun hspare => congrArg _ (secRdp_level2_spareOut hsem hlevel hspare), fun hspare => ?raised2,
          fun hup => congrArg _ (secRdp_lower_up hsem hlevel hup),
          fun hup _ hspare => congrArg _ (secRdp_lower_spareOut hsem hlevel hup hspare), fun hup hmarked hspare => ?lowered⟩⟩
      case raised1 =>
        obtain ⟨t, ht, hfacts⟩ := secRdp_level1_raises hsem hlevel hspare
        exact ⟨t, congrArg _ ht, hfacts⟩
      case raised2 =>
        obtain ⟨t, ht, hfacts⟩ := secRdp_level2_raises hsem hlevel hspare
        exact ⟨t, congrArg _ ht, hfacts⟩
      case lowered =>
        exact ⟨loweringMarked u id, rfl, rfl, congrArg _ (secRdp_lower_begins hsem hlevel hup hmarked hspare)⟩
  case completed =>
    exact ⟨_, exec_loweringComplete_resets hlowering hrails, rfl, rfl, rfl, rfl, rfl, rfl, lowered_plots _, rfl⟩
  case prov =>
    rw [exec_rootGen hpass]
    simp only [← noteAccess_sec s id, ← noteAccess_grn s id, ← noteAccess_free s id, ← noteAccess_spareOut s id,
      ← noteAccess_drkBlank s id, ← noteAccess_holdsSem s id, ← noteAccess_drawBytes s id]
    generalize noteAccess s id = u
    refine ⟨fun hid hsem => congrArg _ (secProv_without_semaphore hid hsem), fun hallowed => ⟨fun hlevel => congrArg _ (secProv_level hallowed hlevel),
      fun hlevel htaken => congrArg _ (secProv_taken hallowed hlevel htaken), fun hlevel hroot hblank hspare => ?spareOut,
      fun hlevel hroot hblank hspare => ⟨fun hready => ?waits, fun hready => ?generated⟩⟩⟩
    case spareOut => rw [secProv_free hallowed hlevel hroot hblank, if_pos hspare]
    case waits =>
      rw [secProv_free hallowed hlevel hroot hblank, if_neg (by simp [hspare]), if_pos (by simp [hready])]
      rfl
    case generated =>
      obtain ⟨t, ht, hfacts⟩ := secProv_generates hallowed hlevel hroot hblank hspare hready
      exact ⟨t, congrArg _ ht, hfacts⟩

end Sys2Proof.Machine
end

section
/-! PWR_FAIL_N and HOLDUP_OK (R469, R470, R472, R475), and the commit of a wall time (R422, R424); O38. -/

namespace Sys2Proof.Machine

section HoldUp

variable {s : State}

/-! ### The states in which a hold-up has steps to carry out -/

theorem PowerState.runs_eq_true {st : PowerState} : st.runs = true ↔ st = .lit ∨ st = .dim := by
  cases st <;> simp [PowerState.runs]

theorem PowerState.runs_eq_false {st : PowerState} : st.runs = false ↔ st = .dark ∨ st = .off := by
  cases st <;> simp [PowerState.runs]

/-! ### PWR_FAIL_N (R472, R475) -/

theorem exec_pwrFail_ignored (h : s.pwr.state = .off ∨ s.hold.pwrFail = true) : exec .pwrFail s = .next s :=
  congrArg Host.Outcome.next (if_pos h)

/-- A failure not yet signalled stops the Granary's erase; what follows depends on whether the state runs. -/
theorem exec_pwrFail_signalled (hoff : s.pwr.state ≠ .off) (hfail : s.hold.pwrFail = false) : exec .pwrFail s = .next
    (let u := stopErase (s.modHold fun h => { h with pwrFail := true })
     if s.pwr.state.runs then beginHold u else u.modHold fun h => { h with dark := true }) :=
  congrArg Host.Outcome.next (if_neg (by simp [hoff, hfail]))

theorem exec_pwrFail_runs (hruns : s.pwr.state.runs = true) (hfail : s.hold.pwrFail = false) : exec .pwrFail s = .next
    (beginHold (stopErase (s.modHold fun h => { h with pwrFail := true }))) := by
  have hoff : s.pwr.state ≠ .off := by obtain h | h := PowerState.runs_eq_true.mp hruns <;> simp [h]
  rw [exec_pwrFail_signalled hoff hfail]
  exact congrArg Host.Outcome.next (if_pos hruns)

theorem exec_pwrFail_dark (hdark : s.pwr.state = .dark) (hfail : s.hold.pwrFail = false) : exec .pwrFail s = .next
    ((stopErase (s.modHold fun h => { h with pwrFail := true })).modHold fun h => { h with dark := true }) := by
  rw [exec_pwrFail_signalled (by simp [hdark]) hfail]
  exact congrArg Host.Outcome.next (if_neg (by simp [hdark, PowerState.runs]))

theorem exec_holdupRelease_ignored (h : s.pwr.state = .off ∨ s.hold.pwrFail = false) : exec .holdupRelease s = .next s :=
  congrArg Host.Outcome.next (if_pos (by simpa using h))

theorem exec_holdupRelease_ends (hoff : s.pwr.state ≠ .off) (hfail : s.hold.pwrFail = true) : exec .holdupRelease s = .next
    (runFields (restartErase (s.modHold fun h => { h with pwrFail := false, holding := false, sealed := false, dark := false }))) :=
  congrArg Host.Outcome.next (if_neg (by simp [hoff, hfail]))

/-! ### HOLDUP_OK (R470) -/

theorem exec_holdupLost_develops (hdurable : s.pwr.durable = true) (hruns : s.pwr.state.runs = true) : exec .holdupLost s =
    .next (developAll (s.modHold fun h => { h with ok := false, effective := false })) :=
  congrArg Host.Outcome.next (if_pos ⟨hdurable, hruns⟩)

theorem exec_holdupLost_only (h : s.pwr.durable = false ∨ s.pwr.state.runs = false) : exec .holdupLost s =
    .next (s.modHold fun h => { h with ok := false, effective := false }) := by
  refine congrArg Host.Outcome.next (if_neg ?_)
  rintro ⟨hdurable, hruns⟩
  obtain hvolatile | hidle := h
  · exact Bool.false_ne_true (hvolatile.symm.trans hdurable)
  · exact Bool.false_ne_true (hidle.symm.trans hruns)

end HoldUp

section WallTime

variable {s : State} {id : Identity} {hi : Word} {f : Nat}

/-! ### A dose increment that a charge is added to (R422) -/

theorem doseAdd_eq_min (a b : Nat) : doseAdd a b = min (a + b) (2 ^ 40 - 1) := by
  unfold doseAdd
  split_ifs <;> omega

/-- A change of every Field's state changes each Field of the member by itself. -/
theorem State.field_map (g : FieldState → FieldState) (hf : f < s.fields.length) :
    ({ s with fields := s.fields.map g } : State).field f = g (s.field f) := by
  simp [State.field, hf]

/-! ### MED_WALL_HI (R424) -/

/-- The time W that a write of MED_WALL_HI commits. -/
def wallCommitted (s : State) (hi : Word) : Nat := hi.toNat * 2 ^ 32 + s.wall.wLo.toNat

/-- The charge of the seconds from E to W at the temperature of the off time. -/
def wallCharge (s : State) (hi : Word) : Nat := (wallCommitted s hi - s.wall.e) * doseCharge s.wall.offTj

@[simp] theorem noteAccess_field (s : State) (id : Identity) (f : Nat) : (noteAccess s id).field f = s.field f := by simp [State.field]

theorem exec_wallTime (h : WritePasses s id csWallHi false) : exec (.wallTime id hi) s = .next (writeWallHi (noteAccess s id) id hi) :=
  congrArg Host.Outcome.next (csWrite_passes h)

theorem commitWall_earlier (h : wallCommitted s hi ≤ s.wall.e) : commitWall s hi = s := if_pos h

theorem commitWall_later (h : s.wall.e < wallCommitted s hi) : commitWall s hi =
    { s with fields := s.fields.map (addIncrement · (wallCharge s hi)), wall := { s.wall with e := wallCommitted s hi, set := true } } :=
  if_neg (Nat.not_le.mpr h)

theorem writeWallHi_ignored (h : s.holdsSem id 0 = false ∨ wallCommitted s hi ≤ s.wall.e) : writeWallHi s id hi = s := by
  obtain hsem | hearlier := h
  · simp [writeWallHi, hsem]
  · rw [writeWallHi, commitWall_earlier hearlier, ite_self]

theorem writeWallHi_commits (hsem : s.holdsSem id 0 = true) : writeWallHi s id hi = commitWall s hi := if_pos hsem

end WallTime

/-- Settles O38: each level of a pin meets one branch of its command, and a commit of a later time is an increment of every Field. -/
theorem holdUpAndWallTime : Obligations.HoldUpAndWallTime := by
  intro s
  refine ⟨exec_pwrFail_ignored, exec_pwrFail_dark, fun hruns => exec_pwrFail_runs (PowerState.runs_eq_true.mpr hruns),
    exec_holdupRelease_ignored, exec_holdupRelease_ends,
    ⟨fun hdurable hruns => exec_holdupLost_develops hdurable (PowerState.runs_eq_true.mpr hruns),
      fun h => exec_holdupLost_only (h.imp_right PowerState.runs_eq_false.mpr)⟩, rfl, fun id hi hpass => ?_⟩
  rw [exec_wallTime hpass]
  simp only [← noteAccess_wall s id, ← noteAccess_holdsSem s id, ← noteAccess_fields s id, ← noteAccess_field s id]
  generalize noteAccess s id = u
  refine ⟨fun h => congrArg _ (writeWallHi_ignored h), fun hsem hlater =>
    ⟨_, congrArg _ ((writeWallHi_commits hsem).trans (commitWall_later hlater)), rfl, rfl, List.length_map _, fun f hf => ?_⟩⟩
  have hcharged := State.field_map (addIncrement · (wallCharge u hi)) hf
  exact ⟨(congrArg FieldState.doseI hcharged).trans (doseAdd_eq_min _ _), congrArg FieldState.doseISat hcharged⟩

end Sys2Proof.Machine
end

section
/-! The TAP's instructions (R643, R644, Table PWR-2); O16. -/

namespace Sys2Proof.Machine

namespace JtagResetHeld

/-- A Z96 past step 4 of its start whose rails have dipped: the power-on reset lasts, and no other source acts. -/
def state : State :=
  { State.reset with pwr := { State.reset.pwr with step := 5, railsUp := false } }

theorem tapTakes_reset : state.tapTakes 0x20 = true := by decide +kernel

/-- RESET is loaded, and the reset it asks for is held back while the rails are down. -/
theorem exec_jtagReset : exec .jtagReset state =
    .next { state with jtag := { state.jtag with ir := 0x20, driven := none, dr := 0, drValue := 0 } } := by
  show execJtagReset state = _
  rw [execJtagReset, tapLoad, if_pos tapTakes_reset, resetBy_railsDown rfl]
  rfl

end JtagResetHeld

/-- Refutes O16: the clause that RESET, once taken, resets the chip. The TAP takes it from step 4 on, whatever the rails do, and while a
rail is below its threshold no source but the power-on reset acts. -/
theorem not_jtagInstructions : ¬ Obligations.JtagInstructions := by
  intro h
  obtain ⟨-, -, -, -, -, -, -, -, hreset, -⟩ := h JtagResetHeld.state
  obtain ⟨t, ht, -, hstep, -⟩ := hreset JtagResetHeld.tapTakes_reset
  rw [JtagResetHeld.exec_jtagReset] at ht
  obtain rfl := Host.Outcome.next.inj ht
  exact absurd hstep (by decide)

end Sys2Proof.Machine
end

section
/-! The Granary's banks of protocol registers, and what starting, suspending and resuming an erase changes (R517, R525 to R528);
O39 and O42. -/

namespace Sys2Proof.Machine

section GranaryBanks

variable {s : State} {id : Identity} {b : GrnBank} {f g : GrnBank → GrnBank}

/-! ### The banks of the requesters (R517) -/

@[simp] theorem noteAccess_grnBank? (s : State) (id o : Identity) : (noteAccess s id).grnBank? o = s.grnBank? o := by
  simp [State.grnBank?]

/-- A change of a bank reads back in that bank. -/
theorem modGrnBank_grnBank? (h : s.grnBank? id = some b) : (modGrnBank s id f).grnBank? id = some (f b) := by
  unfold State.grnBank? modGrnBank at *
  split_ifs at h ⊢ <;> simp_all

/-- The other banks stay. -/
theorem modGrnBank_grnBank?_ne {o : Identity} (h : o ≠ id) : (modGrnBank s id f).grnBank? o = s.grnBank? o := by
  unfold State.grnBank? modGrnBank
  split_ifs <;> simp_all

theorem modGrnBank_none (h : s.grnBank? id = none) : modGrnBank s id f = s := by
  unfold State.grnBank? at h
  unfold modGrnBank
  split_ifs at h ⊢
  rfl

theorem modGrnBank_modGrnBank : modGrnBank (modGrnBank s id f) id g = modGrnBank s id (fun b => g (f b)) := by
  unfold modGrnBank
  split_ifs <;> rfl

/-- A change of a bank changes the Granary alone, and there the banks alone. -/
theorem modGrnBank_eq : modGrnBank s id f = { s with grn := { s.grn with
    bankA := (modGrnBank s id f).grn.bankA, bankB := (modGrnBank s id f).grn.bankB
    bankStk := (modGrnBank s id f).grn.bankStk, bankJtag := (modGrnBank s id f).grn.bankJtag } } := by
  unfold modGrnBank
  split_ifs <;> rfl

@[simp] theorem modGrnBank_mem : (modGrnBank s id f).grn.mem = s.grn.mem := by rw [modGrnBank_eq]
@[simp] theorem modGrnBank_queue : (modGrnBank s id f).grn.queue = s.grn.queue := by rw [modGrnBank_eq]
@[simp] theorem modGrnBank_erase : (modGrnBank s id f).grn.erase = s.grn.erase := by rw [modGrnBank_eq]
@[simp] theorem modGrnBank_released : (modGrnBank s id f).grn.released = s.grn.released := by rw [modGrnBank_eq]
@[simp] theorem modGrnBank_counters : (modGrnBank s id f).grn.counters = s.grn.counters := by rw [modGrnBank_eq]

theorem modGrnBank_others (u : GrnState) : { modGrnBank s id f with grn := u } = { s with grn := u } := rfl

/-- The bank of an identity that has one. -/
theorem bankOf_of_grnBank? (h : s.grnBank? id = some b) : s.bankOf id = b := by simp [State.bankOf, h]

/-! ### The two keys (R518) -/

theorem exec_grnKey (h : WritePasses s id csGrnKey true) (k : Word) :
    exec (.grnKey id k) s = .next (modGrnBank (noteAccess s id) id fun b => b.key k.toNat) :=
  congrArg Host.Outcome.next (csWrite_passes h)

theorem key_first (ha : b.arm ≠ 1) : b.key (0x6C3A91F4#32).toNat = { b with arm := 1 } := by
  simp [GrnBank.key, ha, grnKey1]

theorem key_second (ha : b.arm = 1) : b.key (0x0B5ED7A2#32).toNat = { b with arm := 2 } := by
  simp [GrnBank.key, ha, grnKey2]

theorem toNat_ne_of_ne {k k' : Word} (h : k ≠ k') : k.toNat ≠ k'.toNat := fun e => h (BitVec.eq_of_toNat_eq e)

theorem key_other {k : Word} (h : (b.arm ≠ 1 ∧ k ≠ 0x6C3A91F4#32) ∨ (b.arm = 1 ∧ k ≠ 0x0B5ED7A2#32)) :
    b.key k.toNat = { b with arm := 0, err := b.err ||| 1 } := by
  obtain ⟨ha, hk⟩ | ⟨ha, hk⟩ := h
  · have hne : k.toNat ≠ grnKey1 := toNat_ne_of_ne hk
    simp [GrnBank.key, ha, hne, GrnBank.setErr, errKey]
  · have hne : k.toNat ≠ grnKey2 := toNat_ne_of_ne hk
    simp [GrnBank.key, ha, hne, GrnBank.setErr, errKey]

/-! ### The array's erase (R525 to R528) -/

theorem startBatch_eq (p : Bool) (g : GrnState) : startBatch p g = { g with erase := (startBatch p g).erase } := by
  unfold startBatch
  split <;> rfl

/-- Starting an erase changes the array and its queue alone. -/
theorem startErase_eq (s : State) : startErase s =
    { s with grn := { s.grn with queue := (startErase s).grn.queue, erase := (startErase s).grn.erase } } := by
  unfold startErase State.modGrn
  rw [startBatch_eq]
  dsimp only
  split
  · split <;> rfl
  · rfl

@[simp] theorem startErase_mem (s : State) : (startErase s).grn.mem = s.grn.mem := by rw [startErase_eq]
@[simp] theorem startErase_counters (s : State) : (startErase s).grn.counters = s.grn.counters := by rw [startErase_eq]
@[simp] theorem startErase_released (s : State) : (startErase s).grn.released = s.grn.released := by rw [startErase_eq]
@[simp] theorem startErase_grnBank? (s : State) (o : Identity) : (startErase s).grnBank? o = s.grnBank? o := by
  rw [startErase_eq]; rfl
@[simp] theorem startErase_bankOf (s : State) (o : Identity) : (startErase s).bankOf o = s.bankOf o := by
  simp [State.bankOf]
theorem startErase_others (s : State) (u : GrnState) : { startErase s with grn := u } = { s with grn := u } := by
  rw [startErase_eq]

theorem resumeErase_eq (s : State) : resumeErase s = { s with grn := { s.grn with erase := (resumeErase s).grn.erase } } := by
  unfold resumeErase
  split
  · rfl
  · split <;> rfl

@[simp] theorem resumeErase_mem (s : State) : (resumeErase s).grn.mem = s.grn.mem := by rw [resumeErase_eq]
@[simp] theorem resumeErase_counters (s : State) : (resumeErase s).grn.counters = s.grn.counters := by rw [resumeErase_eq]
@[simp] theorem resumeErase_grnBank? (s : State) (o : Identity) : (resumeErase s).grnBank? o = s.grnBank? o := by
  rw [resumeErase_eq]; rfl
@[simp] theorem resumeErase_bankOf (s : State) (o : Identity) : (resumeErase s).bankOf o = s.bankOf o := by
  simp [State.bankOf]

/-- The erase runs on, resumed once more. -/
def GrnErase.resumed (e : GrnErase) : GrnErase := { e with suspended := false, bySuspend := false, resumes := e.resumes + 1 }

theorem resumeErase_suspended {e : GrnErase} (he : s.grn.erase = some e) (hs : e.suspended = true) (hp : s.hold.pwrFail = false) :
    resumeErase s = s.modGrn fun g => { g with erase := some e.resumed } := by
  simp [resumeErase, he, hs, hp, GrnErase.resumed]

theorem resumeErase_pwrFail (hp : s.hold.pwrFail = true) : resumeErase s = s := by
  unfold resumeErase
  split
  · rfl
  · simp [hp]

theorem endSuspend_idle (hq : s.grn.queue = []) : endSuspend s = resumeErase s := by simp [endSuspend, hq]

theorem endSuspend_waiting {e : GrnErase} (he : s.grn.erase = some e) (hq : s.grn.queue ≠ []) :
    endSuspend s = { s with grn := { s.grn with erase := some { e with bySuspend := false } } } := by
  simp [endSuspend, hq, State.modGrn, he]

theorem exec_eraseSuspendDue_none (he : s.grn.erase = none) : exec .eraseSuspendDue s = .next s := by
  show execEraseSuspendDue s = _
  simp [execEraseSuspendDue, he]

theorem exec_eraseAutoResume_none (he : s.grn.erase = none) : exec .eraseAutoResume s = .next s := by
  show execEraseAutoResume s = _
  simp [execEraseAutoResume, he]

section Running

variable {e : GrnErase} (he : s.grn.erase = some e)
include he

theorem exec_eraseSuspendDue_yields (hs : e.suspended = false)
    (h : e.bySuspend = true ∨ (∃ q rest, s.grn.queue = q :: rest ∧ q.op ≠ .erase)) :
    exec .eraseSuspendDue s = .next { s with grn := { s.grn with erase := some { e with suspended := true } } } := by
  show execEraseSuspendDue s = _
  obtain hby | ⟨q, rest, hq, hop⟩ := h
  · simp [execEraseSuspendDue, he, hs, hby, State.modGrn]
  · simp [execEraseSuspendDue, he, hs, hq, hop, State.modGrn]

theorem exec_eraseSuspendDue_runsOn
    (h : e.suspended = true ∨ (e.bySuspend = false ∧ ∀ q rest, s.grn.queue = q :: rest → q.op = .erase)) :
    exec .eraseSuspendDue s = .next s := by
  show execEraseSuspendDue s = _
  obtain hs | ⟨hby, hq⟩ := h
  · simp [execEraseSuspendDue, he, hs]
  · cases hqueue : s.grn.queue with
    | nil => simp [execEraseSuspendDue, he, hby, hqueue]
    | cons q rest => simp [execEraseSuspendDue, he, hby, hqueue, hq q rest hqueue]

theorem exec_eraseAutoResume_stays (h : e.suspended = false ∨ e.bySuspend = false) : exec .eraseAutoResume s = .next s := by
  show execEraseAutoResume s = _
  obtain h | h := h <;> simp [execEraseAutoResume, he, h]

theorem exec_eraseAutoResume_ends (hs : e.suspended = true) (hby : e.bySuspend = true) :
    exec .eraseAutoResume s = .next (endSuspend s) := by
  show execEraseAutoResume s = _
  simp [execEraseAutoResume, he, hs, hby]

end Running

/-! ### The advance of the window (R511, R512) -/

theorem exec_windowAdvance_waits {fails : Bool} (h : s.grn.erases < 65536 ∨ s.spareOut = true) :
    exec (.windowAdvance fails) s = .next s := by
  show execWindowAdvance fails s = _
  rw [execWindowAdvance, if_pos h]

theorem exec_windowAdvance_advances {fails : Bool} (he : 65536 ≤ s.grn.erases) (hs : s.spareOut = false) :
    exec (.windowAdvance fails) s = .next (s.modGrn fun g => advance s.member g fails) := by
  show execWindowAdvance fails s = _
  rw [execWindowAdvance, if_neg (by simp [hs, he])]

/-- The advance moves the window by one sector, starts a new count of erases, writes the ledger, and leaves every byte of the
window and every undefined word as it was. -/
theorem advance_moves (m : Member) (g : GrnState) (fails : Bool) :
    let t := advance m g fails
    t.a = (g.a + 1) % m.windowSectors ∧ t.erases = 0 ∧ t.mem = g.mem ∧ t.undef = g.undef ∧ g.ledgerSeq < t.ledgerSeq ∧
      (fails = false → t.s = (usableFrom m g).getD 1 g.s) := by
  cases fails
  · exact ⟨rfl, rfl, rfl, rfl, Nat.lt_succ_self _, fun _ => rfl⟩
  · exact ⟨rfl, rfl, rfl, rfl, Nat.lt_succ_of_lt (Nat.lt_succ_self _), Bool.noConfusion⟩

end GranaryBanks

/-- Settles O39: the write is a change of the requester's bank under the grant of its access, and the arming decides which. -/
theorem granaryArming : Obligations.GranaryArming := by
  intro s id k hpass
  rw [exec_grnKey hpass]
  refine ⟨fun hbank => by rw [modGrnBank_none (by simpa using hbank)], fun b hb => ?_⟩
  have hkey : (modGrnBank (noteAccess s id) id fun b => b.key k.toNat).grnBank? id = some (b.key k.toNat) :=
    modGrnBank_grnBank? (by simpa using hb)
  refine ⟨_, rfl, fun o ho => ?_, ?_, by simp, by simp, by simp, ?_, ?_, ?_⟩
  · rw [modGrnBank_grnBank?_ne ho, noteAccess_grnBank?]
  · rw [modGrnBank_others, ← noteAccess_grn s id]
  · rintro ha rfl
    rw [hkey, key_first ha]
  · rintro ha rfl
    rw [hkey, key_second ha]
  · intro h
    rw [hkey, key_other h]

/-- Settles O42: each report looks at the erase in the array, and an advance is one change of the ledger. -/
theorem granaryErasesYieldAndTheWindowMoves : Obligations.GranaryErasesYieldAndTheWindowMoves := by
  intro s
  refine ⟨fun he => ⟨exec_eraseSuspendDue_none he, exec_eraseAutoResume_none he⟩, fun e he => ?_,
    fun fails h => exec_windowAdvance_waits h, fun fails herases hspare => ?_⟩
  · refine ⟨exec_eraseSuspendDue_yields he, exec_eraseSuspendDue_runsOn he, exec_eraseAutoResume_stays he, fun hs hby => ?_⟩
    rw [exec_eraseAutoResume_ends he hs hby]
    refine ⟨fun hq hp => ?_, fun hq hp => ?_, fun hq => ?_⟩
    · rw [endSuspend_idle hq, resumeErase_suspended he hs hp]
      rfl
    · rw [endSuspend_idle hq, resumeErase_pwrFail hp]
    · rw [endSuspend_waiting he hq]
  · exact ⟨_, exec_windowAdvance_advances herases hspare, rfl, advance_moves s.member s.grn fails⟩

end Sys2Proof.Machine
end

section
/-! A write of GRN_CMD: the arming it consumes, the checks of Table GRN-4, and what a command that passes begins (R518, R519,
R528); O40. -/

namespace Sys2Proof.Machine

section GranaryCommands

variable {s : State} {id : Identity} {b : GrnBank} {op area margin n a : Nat}

@[simp] theorem noteAccess_hold (s : State) (id : Identity) : (noteAccess s id).hold = s.hold := by rw [noteAccess_eq]
@[simp] theorem noteAccess_grnPending (s : State) (id i : Identity) : (noteAccess s id).grnPending i = s.grnPending i := by
  simp [State.grnPending]

/-! ### The write -/

/-- The six commands of GRN_CMD, with the fields that each writes. -/
def GrnWrites (c : Instr) (id : Identity) (op area margin n : Nat) : Prop :=
  (c = .grnRead id area margin n ∧ op = 1) ∨ (c = .grnProgram id area margin n ∧ op = 2) ∨ (c = .grnErase id area margin n ∧ op = 3) ∨
    (c = .grnSuspend id ∧ op = 4 ∧ area = 0 ∧ margin = 0 ∧ n = 0) ∨ (c = .grnResume id ∧ op = 5 ∧ area = 0 ∧ margin = 0 ∧ n = 0) ∨
    (c = .grnInc id ∧ op = 6 ∧ area = 0 ∧ margin = 0 ∧ n = 0)

theorem GrnWrites.op_ne_zero {c : Instr} (h : GrnWrites c id op area margin n) : op ≠ 0 := by
  unfold GrnWrites at h
  omega

theorem exec_grnWrite {c : Instr} (hpass : WritePasses s id csGrnCmd true) (h : GrnWrites c id op area margin n) :
    exec c s = .next (grnCommand (noteAccess s id) id op area margin n) := by
  have hwrite : grnWrite s id op area margin n = grnCommand (noteAccess s id) id op area margin n := csWrite_passes hpass
  rw [← hwrite]
  obtain ⟨rfl, rfl⟩ | ⟨rfl, rfl⟩ | ⟨rfl, rfl⟩ | ⟨rfl, rfl, rfl, rfl, rfl⟩ | ⟨rfl, rfl, rfl, rfl, rfl⟩ | ⟨rfl, rfl, rfl, rfl, rfl⟩ := h <;> rfl

/-- The requester's arming is consumed. -/
abbrev disarm (s : State) (id : Identity) : State := modGrnBank s id fun b => { b with arm := 0 }

theorem disarm_grnPending (i : Identity) : (disarm s id).grnPending i = s.grnPending i := by simp [State.grnPending]

/-- The requester's bank once a check has failed. -/
def GrnBank.failed (b : GrnBank) (op n bit : Nat) : GrnBank :=
  { b with
    arm := 0
    err := b.err ||| 2 ^ bit
    done := b.done || (op != 4 && op != 5)
    data := if op = 1 ∧ bit = 6 then List.replicate (8 * n) 0 ++ b.data.drop (8 * n) else b.data }

/-- A command that a check of Table GRN-4 fails changes the requester's bank alone. -/
theorem grnCommand_fails {bit : Nat} (hb : s.grnBank? id = some b) (hop : op ≠ 0)
    (hchk : (disarm s id).grnCheck id (b.arm == 2) op area margin n b.addr = .fails bit) :
    grnCommand s id op area margin n = modGrnBank s id fun b => b.failed op n bit := by
  simp only [grnCommand, hb, if_neg hop, hchk, modGrnBank_modGrnBank]
  congr 1
  funext b
  unfold GrnBank.failed GrnBank.setErr
  by_cases h : op = 1 ∧ bit = 6
  · obtain ⟨rfl, rfl⟩ := h
    rfl
  · simp [h, opRead, errProtected, opSuspend, opResume, bne]

theorem grnCommand_nothing (hb : s.grnBank? id = some b) (hop : op ≠ 0)
    (hchk : (disarm s id).grnCheck id (b.arm == 2) op area margin n b.addr = .nothing) :
    grnCommand s id op area margin n = modGrnBank (disarm s id) id fun b => { b with done := true } := by
  simp only [grnCommand, hb, if_neg hop, hchk]

/-- The command that a write of GRN_CMD puts into the queue. -/
def grnQueued (id : Identity) (op area margin n a : Nat) : GrnCmd := ⟨id, grnOpOf op, area, margin, n, a⟩

/-- A command has joined the queue, with the arming consumed and DONE clear. -/
def State.enqueued (s : State) (id : Identity) (q : GrnCmd) : State :=
  (modGrnBank s id fun b => { b with arm := 0, done := false }).modGrn fun g => { g with queue := g.queue ++ [q] }

theorem grnCommand_queues (hb : s.grnBank? id = some b) (hop : op = 1 ∨ op = 2 ∨ op = 3 ∨ op = 6)
    (hchk : (disarm s id).grnCheck id (b.arm == 2) op area margin n b.addr = .passes) :
    grnCommand s id op area margin n = startErase (s.enqueued id (grnQueued id op area margin n b.addr)) := by
  have h0 : op ≠ 0 := by omega
  have h4 : op ≠ opSuspend := by unfold opSuspend; omega
  have h5 : op ≠ opResume := by unfold opResume; omega
  simp only [grnCommand, hb, if_neg h0, hchk, if_neg h4, if_neg h5, modGrnBank_modGrnBank]
  rfl

theorem grnCommand_suspend (hb : s.grnBank? id = some b)
    (hchk : (disarm s id).grnCheck id (b.arm == 2) 4 area margin n b.addr = .passes) :
    grnCommand s id 4 area margin n =
      (disarm s id).modGrn fun g => { g with erase := g.erase.map fun e => { e with bySuspend := true } } := by
  simp only [grnCommand, hb, hchk]
  rfl

theorem grnCommand_resume (hb : s.grnBank? id = some b)
    (hchk : (disarm s id).grnCheck id (b.arm == 2) 5 area margin n b.addr = .passes) :
    grnCommand s id 5 area margin n = endSuspend (disarm s id) := by
  simp only [grnCommand, hb, hchk]
  rfl

/-! ### What the array begins -/

variable {q : GrnCmd}

@[simp] theorem enqueued_mem : (s.enqueued id q).grn.mem = s.grn.mem := modGrnBank_mem
@[simp] theorem enqueued_erase : (s.enqueued id q).grn.erase = s.grn.erase := modGrnBank_erase
@[simp] theorem enqueued_queue : (s.enqueued id q).grn.queue = s.grn.queue ++ [q] := congrArg (· ++ [q]) modGrnBank_queue
@[simp] theorem enqueued_released : (s.enqueued id q).grn.released = s.grn.released := modGrnBank_released
@[simp] theorem enqueued_hold : (s.enqueued id q).hold = s.hold := rfl
theorem enqueued_others (u : GrnState) : { s.enqueued id q with grn := u } = { s with grn := u } := rfl

theorem enqueued_bankOf (hb : s.grnBank? id = some b) : (s.enqueued id q).bankOf id = { b with arm := 0, done := false } :=
  bankOf_of_grnBank? (modGrnBank_grnBank? hb)

/-- With an erase in the array nothing starts. -/
theorem startErase_running (he : s.grn.erase.isSome = true) : startErase s = s := by
  obtain ⟨e, he⟩ := Option.isSome_iff_exists.mp he
  have hbatch : s.modGrn (startBatch s.hold.pwrFail) = s := by simp [State.modGrn, startBatch, he]
  simp only [startErase, hbatch, he]

/-- With nothing released, no batch starts. -/
theorem startBatch_none {p : Bool} {g : GrnState} (hr : g.released = 0) : startBatch p g = g := by simp [startBatch, hr]

/-- With another command at the head of the queue, what may start is a batch of released pool sectors. -/
theorem startErase_other {rest : List GrnCmd} (hq : s.grn.queue = q :: rest) (hop : q.op ≠ .erase) :
    startErase s = s.modGrn (startBatch s.hold.pwrFail) := by
  have hqueue : (startBatch s.hold.pwrFail s.grn).queue = q :: rest := by rw [startBatch_eq]; exact hq
  simp only [startErase, State.modGrn_grn, hqueue]
  split
  · next heq => obtain rfl := (List.cons.inj heq).1; simp [hop]
  · rfl

/-- An ERASE at the head of the queue takes the idle array when nothing is released. -/
theorem startErase_takes {rest : List GrnCmd} (he : s.grn.erase = none) (hq : s.grn.queue = q :: rest) (hop : q.op = .erase)
    (hp : s.hold.pwrFail = false) (hr : s.grn.released = 0) : startErase s =
      s.modGrn fun g => { g with queue := rest, erase := some ⟨q.req, q.addr / 4096, q.count, 0, false, false, 0⟩ } := by
  have hbatch : s.modGrn (startBatch s.hold.pwrFail) = s := by simp [State.modGrn, startBatch_none hr]
  simp only [startErase, hbatch]
  simp only [he, hq, hop, hp, Bool.not_false, and_self, if_true]

/-- A batch of released pool sectors goes ahead of the queue. -/
theorem startErase_batch (he : s.grn.erase = none) (hp : s.hold.pwrFail = false) (hr : s.grn.released ≠ 0) : startErase s =
    s.modGrn fun g => { g with erase := some ⟨idController, 0, 0, min 16 g.released, false, false, 0⟩ } := by
  have hbatch : startBatch s.hold.pwrFail s.grn =
      { s.grn with erase := some ⟨idController, 0, 0, min 16 s.grn.released, false, false, 0⟩ } := by
    simp [startBatch, he, hp, hr]
  simp only [startErase, State.modGrn, hbatch]

/-! ### The checks of Table GRN-4 -/

theorem grnCheck_fields {armed : Bool} (h : grnFieldsOk op area margin n = false) :
    s.grnCheck id armed op area margin n a = .fails 3 := by
  simp [State.grnCheck, firstFail, h, errRange]

theorem grnCheck_notArmed {armed : Bool} (h : grnFieldsOk op area margin n = true) (hop : op = 2 ∨ op = 3 ∨ op = 6)
    (ha : armed = false) : s.grnCheck id armed op area margin n a = .fails 1 := by
  have hneeds : op = opProgram ∨ op = opErase ∨ op = opInc := hop
  simp [State.grnCheck, firstFail, h, hneeds, ha, errNotArmed]

theorem grnCheck_busy {armed : Bool} (h : grnFieldsOk 1 area margin n = true) (hp : s.grnPending id = true) :
    s.grnCheck id armed 1 area margin n a = .fails 2 := by
  simp [State.grnCheck, firstFail, h, hp, opProgram, opErase, opInc, opSuspend, opResume, errBusy]

/-- RESUME passes only for a suspended erase. -/
theorem suspended_of_grnCheck_resume {armed : Bool} {e : GrnErase} (he : s.grn.erase = some e)
    (h : s.grnCheck id armed 5 area margin n a = .passes) : e.suspended = true := by
  by_contra hs
  have hclash : s.grnClash id 5 area a = some errBusy := by simp [State.grnClash, he, hs, opErase, opSuspend, opResume]
  have hlate : firstFail [s.grnClash id 5 area a] = .fails errBusy := by rw [hclash]; rfl
  simp only [State.grnCheck, hlate, show (5 == opSuspend || 5 == opResume) = true from rfl, if_true] at h
  generalize firstFail _ = early at h
  cases early <;> cases h

end GranaryCommands

/-- Settles O40: the write consumes the arming and ends at the first check that fails, or passes and begins what its operation
begins. -/
theorem granaryCommandsAreChecked : Obligations.GranaryCommandsAreChecked := by
  intro s id c op area margin n hpass (hc : GrnWrites c id op area margin n)
  rw [exec_grnWrite hpass hc]
  have hop0 := hc.op_ne_zero
  simp only [← noteAccess_grn s id, ← noteAccess_grnBank? s id, ← noteAccess_hold s id, ← noteAccess_grnPending s id]
  generalize noteAccess s id = v
  refine ⟨fun hnone => by simp [grnCommand, hnone], fun b hb => ?_⟩
  refine ⟨fun bit hchk => ?_, fun hchk => ?_, fun hchk hop hq => ?_, fun hchk hop he hq hp => ?_, fun hchk hop => ?_,
    fun e hchk hop hq hp he => ?_, fun hop hfields harm => ?_, fun hop hfields hpend => ?_, grnCheck_fields⟩
  · have hbank := bankOf_of_grnBank? (modGrnBank_grnBank? (f := fun b => b.failed op n bit) hb)
    refine ⟨_, congrArg Host.Outcome.next (grnCommand_fails hb hop0 hchk), rfl, by simp, by simp, by simp, ?_, ?_, ?_, ?_, ?_⟩ <;>
      rw [hbank] <;> rfl
  · exact congrArg Host.Outcome.next (grnCommand_nothing hb hop0 hchk)
  · rw [grnCommand_queues hb (by omega) hchk]
    have hcmd : grnQueued id op area margin n b.addr =
        ⟨id, if op = 1 then .read else if op = 2 then .program else .inc, area, margin, n, b.addr⟩ := by
      obtain rfl | rfl | rfl := hop <;> rfl
    have hne : (grnQueued id op area margin n b.addr).op ≠ .erase := by obtain rfl | rfl | rfl := hop <;> exact GrnOp.noConfusion
    have hqueue : (startErase (v.enqueued id (grnQueued id op area margin n b.addr))).grn.queue =
          v.grn.queue ++ [grnQueued id op area margin n b.addr] ∧
        (v.grn.erase.isSome = true ∨ v.grn.released = 0 →
          (startErase (v.enqueued id (grnQueued id op area margin n b.addr))).grn.erase = v.grn.erase) := by
      by_cases hsome : v.grn.erase.isSome = true
      · rw [startErase_running (by simpa using hsome)]
        simp
      · have hempty := hq.resolve_left hsome
        rw [startErase_other (by rw [enqueued_queue, hempty]; rfl) hne]
        refine ⟨?_, fun h => ?_⟩
        · rw [State.modGrn_grn, startBatch_eq]
          exact enqueued_queue
        · rw [State.modGrn_grn, startBatch_none (h.resolve_left hsome |> enqueued_released.trans)]
          exact enqueued_erase
    refine ⟨_, rfl, hqueue.1.trans (by rw [hcmd]), ?_, ?_, by simp, ?_, hqueue.2⟩
    · rw [startErase_bankOf, enqueued_bankOf hb]
    · rw [startErase_bankOf, enqueued_bankOf hb]
    · rw [startErase_others, enqueued_others]
  · subst hop
    rw [grnCommand_queues hb (by simp) hchk]
    refine ⟨_, rfl, ?_, by simp, ?_, fun hr => ?_, fun hr => ?_⟩
    · rw [startErase_bankOf, enqueued_bankOf hb]
    · rw [startErase_others, enqueued_others]
    · rw [startErase_takes (rest := []) (by simpa using he) (by rw [enqueued_queue, hq]; rfl) rfl (by simpa using hp) (by simpa using hr)]
      exact ⟨rfl, rfl⟩
    · rw [startErase_batch (by simpa using he) (by simpa using hp) (by simpa using hr)]
      exact ⟨by simp, by simp [hq]; rfl⟩
  · subst hop
    exact congrArg Host.Outcome.next (grnCommand_suspend hb hchk)
  · subst hop
    have hu : (disarm v id).grn.erase = some e := modGrnBank_erase.trans he
    have hs := suspended_of_grnCheck_resume hu hchk
    rw [grnCommand_resume hb hchk, endSuspend_idle (modGrnBank_queue.trans hq), resumeErase_suspended hu hs hp]
    rfl
  · exact grnCheck_notArmed hfields hop (by simpa using harm)
  · subst hop
    exact grnCheck_busy hfields ((disarm_grnPending id).trans hpend)

end Sys2Proof.Machine
end

section
/-! Addressed bytes: what a memory in canonical form reads as after a write or an erase, and runs of bytes read from it. -/

namespace Sys2Proof.Machine

section Cells

variable {d : Byte} {m : List Host.Cell}

/-! ### One byte -/

/-- Below the lowest cell every address reads as unlisted. -/
theorem cellAt_below {a lo : Nat} (h : cellsFrom d lo m = true) (ha : a < lo) : cellAt d a m = d := by
  induction m generalizing lo with
  | nil => rfl
  | cons c cs ih =>
    simp only [cellsFrom, Bool.and_eq_true, decide_eq_true_eq] at h
    obtain ⟨⟨hlo, -⟩, hcs⟩ := h
    rw [cellAt, if_neg (by omega), ih hcs (by omega)]

/-- A byte written reads back, and every other byte is as before. -/
theorem cellAt_putCell {lo : Nat} (h : cellsFrom d lo m = true) (a x : Nat) (b : Byte) :
    cellAt d x (putCell d a b m) = if x = a then b else cellAt d x m := by
  induction m generalizing lo with
  | nil => by_cases hb : b = d <;> simp [putCell, cellAt, hb, eq_comm]
  | cons c cs ih =>
    simp only [cellsFrom, Bool.and_eq_true, decide_eq_true_eq] at h
    obtain ⟨-, hcs⟩ := h
    unfold putCell
    split
    · next hlt =>
      rw [cellAt, ih hcs, cellAt]
      by_cases hx : c.1 = x
      · simp [hx, show x ≠ a by omega]
      · simp [hx]
    · split
      · next heq =>
        by_cases hb : b = d
        · by_cases hx : x = a
          · subst hx
            simp [hb, cellAt_below hcs (show x < c.1 + 1 by omega)]
          · simp [hb, hx, cellAt, show c.1 ≠ x by omega]
        · by_cases hx : a = x <;> simp [hb, cellAt, heq, hx, eq_comm]
      · next hge hne =>
        by_cases hb : b = d
        · by_cases hx : x = a
          · subst hx
            simp [hb, cellAt, hne, cellAt_below hcs (show x < c.1 + 1 by omega)]
          · simp [hb, hx]
        · simp [hb, cellAt, eq_comm]

/-- An erased range reads as erased. -/
theorem cellAt_dropRange_in {lo hi a : Nat} (hlo : lo ≤ a) (hhi : a < hi) : cellAt d a (dropRange lo hi m) = d := by
  unfold dropRange
  induction m with
  | nil => rfl
  | cons c cs ih =>
    rw [List.filter_cons]
    split
    · next hc =>
      have hne : c.1 ≠ a := by
        simp only [Bool.or_eq_true, decide_eq_true_eq] at hc
        omega
      rw [cellAt, if_neg hne, ih]
    · exact ih

/-- Outside an erased range every byte is as before. -/
theorem cellAt_dropRange_out {lo hi a : Nat} (h : a < lo ∨ hi ≤ a) : cellAt d a (dropRange lo hi m) = cellAt d a m := by
  unfold dropRange
  induction m with
  | nil => rfl
  | cons c cs ih =>
    rw [List.filter_cons]
    split
    · rw [cellAt, cellAt, ih]
    · next hc =>
      have hne : c.1 ≠ a := by
        simp only [Bool.or_eq_true, decide_eq_true_eq] at hc
        omega
      rw [cellAt, if_neg hne, ih]

/-! ### Runs of bytes written -/

theorem cellAt_putCells_out {bs : List Byte} {a x : Nat} (h : cellsOk d m = true) (hx : x < a ∨ a + bs.length ≤ x) :
    cellAt d x (putCells d a bs m) = cellAt d x m := by
  induction bs generalizing a m with
  | nil => rfl
  | cons b bs ih =>
    rw [List.length_cons] at hx
    rw [putCells, ih (cellsOk_putCell a b h) (by omega), cellAt_putCell h, if_neg (by omega)]

theorem cellAt_putCells_in {bs : List Byte} {a i : Nat} (h : cellsOk d m = true) (hi : i < bs.length) :
    cellAt d (a + i) (putCells d a bs m) = bs[i] := by
  induction bs generalizing a m i with
  | nil => cases hi
  | cons b bs ih =>
    have hok := cellsOk_putCell a b h
    cases i with
    | zero => rw [putCells, cellAt_putCells_out hok (by omega), cellAt_putCell h]; simp
    | succ i =>
      rw [putCells, show a + (i + 1) = a + 1 + i by omega, ih hok (by simpa using hi)]
      rfl

/-! ### Runs of bytes read -/

theorem cellsFrom_dropWhile {lo : Nat} (p : Host.Cell → Bool) (h : cellsFrom d lo m = true) :
    cellsFrom d lo (m.dropWhile p) = true := by
  induction m generalizing lo with
  | nil => exact h
  | cons c cs ih =>
    rw [List.dropWhile_cons]
    split
    · simp only [cellsFrom, Bool.and_eq_true, decide_eq_true_eq] at h
      exact ih (cellsFrom_mono (by omega) h.2)
    · exact h

theorem cellAt_dropWhile_below {a x : Nat} (hx : a ≤ x) : cellAt d x (m.dropWhile fun c => decide (c.1 < a)) = cellAt d x m := by
  induction m with
  | nil => rfl
  | cons c cs ih =>
    rw [List.dropWhile_cons]
    split
    · next hc =>
      have hne : c.1 ≠ x := by
        simp only [decide_eq_true_eq] at hc
        omega
      rw [ih, cellAt, if_neg hne]
    · rfl

/-- A run of bytes is the bytes at its addresses. -/
theorem cellRun_eq {lo : Nat} (h : cellsFrom d lo m = true) (n a : Nat) :
    cellRun d n a m = (List.range n).map fun i => cellAt d (a + i) m := by
  induction n generalizing a m lo with
  | zero => rfl
  | succ n ih =>
    have hbelow := fun i => cellAt_dropWhile_below (d := d) (m := m) (Nat.le_add_right a i)
    have hsorted := cellsFrom_dropWhile (fun c => decide (c.1 < a)) h
    have hfirst : ∀ c ∈ (m.dropWhile fun c => decide (c.1 < a)).head?, a ≤ c.1 := by
      intro c hc
      have := List.head?_dropWhile_not (fun c : Host.Cell => decide (c.1 < a)) m
      rw [Option.mem_def.mp hc] at this
      simpa using this
    simp only [← hbelow]
    rw [cellRun, List.range_succ_eq_map, List.map_cons, List.map_map]
    generalize (m.dropWhile fun c => decide (c.1 < a)) = l at hsorted hfirst ⊢
    have hshift : (fun i => cellAt d (a + i) l) ∘ Nat.succ = fun i => cellAt d (a + 1 + i) l :=
      funext fun i => congrArg (cellAt d · l) (by simp only [Nat.succ_eq_add_one]; omega)
    rw [hshift]
    cases l with
    | nil => simp [cellAt, List.replicate_succ]
    | cons c cs =>
      have ⟨⟨_, hvalue⟩, hcs⟩ : (lo ≤ c.1 ∧ (c.2 != d) = true) ∧ cellsFrom d (c.1 + 1) cs = true := by
        simpa only [cellsFrom, Bool.and_eq_true, decide_eq_true_eq] using hsorted
      have hle := hfirst c rfl
      dsimp only
      split
      · next heq =>
        rw [ih hcs, cellAt, if_pos (by omega)]
        congr 1
        refine List.map_congr_left fun i _ => ?_
        rw [cellAt, if_neg (by omega)]
      · next hne =>
        rw [ih (m := c :: cs) (lo := a) (by simp only [cellsFrom, hle, hvalue, hcs, decide_true, Bool.and_self]),
          cellAt, if_neg (by omega), cellAt_below hcs (show a + 0 < c.1 + 1 by omega)]

@[simp] theorem cellRun_length (h : cellsOk d m = true) (n a : Nat) : (cellRun d n a m).length = n := by
  simp [cellRun_eq h]

theorem cellRun_congr {m' : List Host.Cell} (h : cellsOk d m = true) (h' : cellsOk d m' = true) {n a : Nat}
    (hcells : ∀ i < n, cellAt d (a + i) m = cellAt d (a + i) m') : cellRun d n a m = cellRun d n a m' := by
  rw [cellRun_eq h, cellRun_eq h']
  exact List.map_congr_left fun i hi => hcells i (List.mem_range.mp hi)

theorem cellRun_add (h : cellsOk d m = true) (n k a : Nat) : cellRun d (n + k) a m = cellRun d n a m ++ cellRun d k (a + n) m := by
  simp [cellRun_eq h, List.range_add, Function.comp_def, Nat.add_assoc]

/-- A part of a run is the run from its own address. -/
theorem cellRun_slice (h : cellsOk d m = true) {n k i a : Nat} (hi : i + k ≤ n) :
    ((cellRun d n a m).drop i).take k = cellRun d k (a + i) m := by
  obtain ⟨r, rfl⟩ := Nat.exists_eq_add_of_le hi
  rw [cellRun_add h, cellRun_add h, List.append_assoc, List.drop_left' (cellRun_length h i a),
    List.take_left' (cellRun_length h k _)]

/-- What was written reads back. -/
theorem cellRun_putCells (h : cellsOk d m = true) (a : Nat) (bs : List Byte) : cellRun d bs.length a (putCells d a bs m) = bs := by
  rw [cellRun_eq (cellsOk_putCells bs a h)]
  refine List.ext_getElem (by simp) fun i hi hi' => ?_
  rw [List.getElem_map, List.getElem_range, cellAt_putCells_in h hi']

end Cells

end Sys2Proof.Machine
end

section
/-! The end of what the Granary's array runs: READ, PROGRAM, ERASE, INC and a batch of released pool sectors (R513, R520 to R524,
R541); O41. -/

namespace Sys2Proof.Machine

section GranaryEnds

variable {s : State} {id : Identity} {b : GrnBank} {q : GrnCmd} {corr : Nat}

/-! ### Banks across the state's other parts -/

theorem grnBank?_bankOf (h : (s.grnBank? id).isSome = true) : s.grnBank? id = some (s.bankOf id) := by
  obtain ⟨b, hb⟩ := Option.isSome_iff_exists.mp h
  rw [hb, bankOf_of_grnBank? hb]

theorem modGrnBank_bankOf {f : GrnBank → GrnBank} (h : (s.grnBank? id).isSome = true) :
    (modGrnBank s id f).bankOf id = f (s.bankOf id) :=
  bankOf_of_grnBank? (modGrnBank_grnBank? (grnBank?_bankOf h))

theorem modGrnBank_isSome {f : GrnBank → GrnBank} (h : (s.grnBank? id).isSome = true) :
    ((modGrnBank s id f).grnBank? id).isSome = true := by
  rw [modGrnBank_grnBank? (grnBank?_bankOf h)]
  rfl

/-- What is read of the Granary when a command has ended: its bytes, its counters and the requester's bank. -/
structure GrnEnds (s t : State) (id : Identity) : Prop where
  mem : t.grn.mem = s.grn.mem
  counters : t.grn.counters = s.grn.counters
  bank : t.grnBank? id = s.grnBank? id

theorem bankOf_congr {t : State} (h : t.grnBank? id = s.grnBank? id) : t.bankOf id = s.bankOf id := by rw [State.bankOf, h]; rfl

theorem GrnEnds.bankOf {t : State} (h : GrnEnds s t id) : t.bankOf id = s.bankOf id := bankOf_congr h.bank

theorem GrnEnds.refl (s : State) (id : Identity) : GrnEnds s s id := ⟨rfl, rfl, rfl⟩

theorem GrnEnds.trans {t u : State} (h : GrnEnds s t id) (h' : GrnEnds t u id) : GrnEnds s u id :=
  ⟨h'.mem.trans h.mem, h'.counters.trans h.counters, h'.bank.trans h.bank⟩

theorem startErase_ends (s : State) (id : Identity) : GrnEnds s (startErase s) id :=
  ⟨startErase_mem s, startErase_counters s, startErase_grnBank? s id⟩

theorem resumeErase_ends (s : State) (id : Identity) : GrnEnds s (resumeErase s) id :=
  ⟨resumeErase_mem s, resumeErase_counters s, resumeErase_grnBank? s id⟩

theorem markWeak_eq (m : Member) (g : GrnState) (l : Nat) : markWeak m g l = { g with weak := (markWeak m g l).weak } := by
  unfold markWeak
  dsimp only
  split <;> rfl

theorem markWeak_ends (m : Member) (l : Nat) : GrnEnds s (s.modGrn fun g => markWeak m g l) id := by
  refine ⟨markWeak_mem _ _ _, ?_, ?_⟩
  · rw [State.modGrn_grn, markWeak_eq]
  · simp only [State.grnBank?, State.modGrn_grn]
    rw [markWeak_eq]

/-- Unchecking slots changes the layout's state alone. -/
theorem uncheckSlots_eq (s : State) (first n : Nat) : uncheckSlots s first n = { s with lay := (uncheckSlots s first n).lay } := by
  unfold uncheckSlots
  induction List.range n generalizing s with
  | nil => rfl
  | cons i l ih =>
    rw [List.foldl_cons]
    split
    · exact ih s
    · exact ih _

@[simp] theorem uncheckSlots_grn (s : State) (first n : Nat) : (uncheckSlots s first n).grn = s.grn := by rw [uncheckSlots_eq]
@[simp] theorem uncheckSlots_member (s : State) (first n : Nat) : (uncheckSlots s first n).member = s.member := by
  rw [uncheckSlots_eq]

/-- A program or erase of a slot changes the Granary and the layout's view of the slot; what is read of the Granary depends on
the former. -/
theorem uncheckSlots_ends (first n : Nat) : GrnEnds s (uncheckSlots s first n) id :=
  ⟨by rw [uncheckSlots_grn], by rw [uncheckSlots_grn], by rw [State.grnBank?, uncheckSlots_grn]; rfl⟩

/-! ### The head of the queue ends -/

/-- What the command at the head of the queue does when it ends. -/
def finishHead (s : State) (q : GrnCmd) (corr : Nat) : State :=
  match q.op with
  | .read => finishRead s q corr []
  | .program => finishProgram s q none
  | _ => finishInc s q

/-- The array runs the head of the queue: any erase in it is suspended. -/
def ArrayRuns (s : State) (q : GrnCmd) (rest : List GrnCmd) : Prop :=
  (∀ e, s.grn.erase = some e → e.suspended = true) ∧ s.grn.queue = q :: rest

/-- The head of the queue has left it. -/
def dequeued (s : State) (rest : List GrnCmd) : State := s.modGrn fun g => { g with queue := rest }

/-- The head of the queue ends, sets DONE, and the array goes on; the bytes and the counters are those its end leaves. -/
theorem exec_grnCommandDone_head {rest : List GrnCmd} (h : ArrayRuns s q rest) (hop : q.op ≠ .erase) :
    exec (.grnCommandDone corr [] none []) s = .next (startErase (resumeErase
      (modGrnBank (finishHead (dequeued s rest) q corr) q.req fun b => { b with done := true }))) := by
  obtain ⟨hsuspended, hqueue⟩ := h
  show execGrnCommandDone corr [] none [] s = _
  unfold execGrnCommandDone
  cases he : s.grn.erase with
  | none => simp only [hqueue, if_neg hop]; rfl
  | some e => simp only [hqueue, if_neg hop, hsuspended e he, if_true]; rfl

theorem exec_grnCommandDone_head_ends {rest : List GrnCmd} (h : ArrayRuns s q rest) (hop : q.op ≠ .erase) {u : State}
    (hu : finishHead (dequeued s rest) q corr = u) (hbank : (u.grnBank? q.req).isSome = true) :
    ∃ t, exec (.grnCommandDone corr [] none []) s = .next t ∧ t.bankOf q.req = { u.bankOf q.req with done := true } ∧
      t.grn.mem = u.grn.mem ∧ t.grn.counters = u.grn.counters := by
  subst hu
  have hends := fun v => (resumeErase_ends v q.req).trans (startErase_ends _ q.req)
  refine ⟨_, exec_grnCommandDone_head h hop, ?_, (hends _).mem.trans modGrnBank_mem, (hends _).counters.trans modGrnBank_counters⟩
  rw [(hends _).bankOf, modGrnBank_bankOf hbank]

/-! ### READ (R520, R523) -/

theorem toWords_length (n : Nat) (l : List Byte) : (toWords n l).length = n := by
  induction n generalizing l with
  | zero => rfl
  | succ n ih => simp [toWords, ih]

theorem toWords_getElem? {n j : Nat} (hj : j < n) (l : List Byte) :
    (toWords n l)[j]? = some (w32 (leNat ((l.drop (4 * j)).take 4))) := by
  induction n generalizing l j with
  | zero => omega
  | succ n ih =>
    cases j with
    | zero => rfl
    | succ j =>
      rw [toWords, List.getElem?_cons_succ, ih (by omega), List.drop_drop]
      congr 5
      omega

/-- The words of a READ that lie in the window and read as what their bytes hold. -/
def PlainWords (s : State) (q : GrnCmd) : Prop :=
  ∀ i < q.count, s.inPool ((q.addr + 32 * i) / 4096) = false ∧ s.inErase ((q.addr + 32 * i) / 4096) = false ∧
    (q.addr + 32 * i) ∉ s.grn.undef

theorem readWord_plain {a : Nat} (hpool : s.inPool (a / 4096) = false) (hundef : a ∉ s.grn.undef) :
    readWord s 0 a = (grnRun 32 a s.grn.mem, s) := by
  simp [readWord, hpool, hundef]

theorem flatMap_grnRun (hok : cellsOk 0xFF s.grn.mem = true) (a n : Nat) :
    ((List.range n).flatMap fun i => grnRun 32 (a + 32 * i) s.grn.mem) = grnRun (32 * n) a s.grn.mem := by
  induction n with
  | zero => rfl
  | succ n ih =>
    rw [List.range_succ, List.flatMap_append, ih, Nat.mul_succ]
    unfold grnRun
    rw [cellRun_add hok]
    simp

/-- One word more has been read. -/
def readStep (s : State) (q : GrnCmd) (a : List Byte × State) (i : Nat) : List Byte × State :=
  if (q.area == 0 && s.inErase ((q.addr + 32 * i) / 4096)) || ([] : List Nat).contains i then (a.1 ++ List.replicate 32 0, a.2)
  else ((a.1 ++ (readWord a.2 q.area (q.addr + 32 * i)).1), (readWord a.2 q.area (q.addr + 32 * i)).2)

theorem foldl_readStep (harea : q.area = 0) {l : List Nat} (hwords : ∀ i ∈ l, s.inPool ((q.addr + 32 * i) / 4096) = false ∧
      s.inErase ((q.addr + 32 * i) / 4096) = false ∧ (q.addr + 32 * i) ∉ s.grn.undef) (acc : List Byte) :
    l.foldl (readStep s q) (acc, s) = (acc ++ l.flatMap (fun i => grnRun 32 (q.addr + 32 * i) s.grn.mem), s) := by
  induction l generalizing acc with
  | nil => simp
  | cons i l ih =>
    obtain ⟨hpool, herase, hundef⟩ := hwords i List.mem_cons_self
    have hstep : readStep s q (acc, s) i = (acc ++ grnRun 32 (q.addr + 32 * i) s.grn.mem, s) := by
      simp [readStep, herase, harea, readWord_plain hpool hundef]
    rw [List.foldl_cons, hstep, ih fun j hj => hwords j (List.mem_cons_of_mem _ hj)]
    simp

/-- The requester's bank after a READ of plain words. -/
def GrnBank.readOut (b : GrnBank) (q : GrnCmd) (bytes : List Byte) (corr : Nat) (warn : Bool) : GrnBank :=
  { b with data := toWords (8 * q.count) bytes ++ b.data.drop (8 * q.count), corr := corr, warn := warn }

/-- What a READ leaves, from the bytes it has read and whether a word was uncorrectable or in the sector being erased. -/
def readEnd (r : List Byte × State) (q : GrnCmd) (corr : Nat) (bad erasing : Bool) : State :=
  let warn := decide (r.2.grn.cfgWarn ≤ min 3 corr)
  let u := modGrnBank r.2 q.req fun b =>
    let b := b.readOut q r.1 (min 3 corr) warn
    let b := if bad then b.setErr errUncorr else b
    if erasing then b.setErr errSectorBusy else b
  if warn ∧ q.area = 0 then u.modGrn fun g => markWeak u.member g (q.addr / 4096) else u

theorem finishRead_eq : finishRead s q corr [] = readEnd ((List.range q.count).foldl (readStep s q) ([], s)) q corr
    ((List.range q.count).any fun i => ([] : List Nat).contains i && !(q.area == 0 && s.inErase ((q.addr + 32 * i) / 4096)))
    ((List.range q.count).any fun i => q.area == 0 && s.inErase ((q.addr + 32 * i) / 4096)) := rfl

theorem readEnd_ends {r : List Byte × State} :
    ∃ warn, GrnEnds (modGrnBank r.2 q.req fun b => b.readOut q r.1 (min 3 corr) warn) (readEnd r q corr false false) q.req := by
  refine ⟨decide (r.2.grn.cfgWarn ≤ min 3 corr), ?_⟩
  unfold readEnd
  dsimp only
  split
  · exact markWeak_ends _ _
  · exact .refl _ _

/-- A READ of plain words returns their bytes. -/
theorem finishRead_plain (hok : cellsOk 0xFF s.grn.mem = true) (harea : q.area = 0) (hwords : PlainWords s q) :
    ∃ warn, GrnEnds (modGrnBank s q.req fun b => b.readOut q (grnRun (32 * q.count) q.addr s.grn.mem) (min 3 corr) warn)
      (finishRead s q corr []) q.req := by
  have hfold : (List.range q.count).foldl (readStep s q) ([], s) = (grnRun (32 * q.count) q.addr s.grn.mem, s) := by
    rw [foldl_readStep harea (fun i hi => hwords i (List.mem_range.mp hi)), flatMap_grnRun hok, List.nil_append]
  have herasing : ((List.range q.count).any fun i => q.area == 0 && s.inErase ((q.addr + 32 * i) / 4096)) = false := by
    simp only [List.any_eq_false, List.mem_range, Bool.and_eq_true, not_and]
    intro i hi _
    simp [(hwords i hi).2.1]
  rw [finishRead_eq, hfold, herasing, show ((List.range q.count).any fun i => _ && _) = false by simp]
  exact readEnd_ends (r := (grnRun (32 * q.count) q.addr s.grn.mem, s))

theorem readOut_data {b : GrnBank} {bytes : List Byte} {warn : Bool} {j : Nat} (hj : j < 8 * q.count) :
    (b.readOut q bytes corr warn).data[j]? = some (w32 (leNat ((bytes.drop (4 * j)).take 4))) := by
  rw [GrnBank.readOut, List.getElem?_append_left (by rwa [toWords_length]), toWords_getElem? hj]

/-! ### PROGRAM (R521) -/

theorem leBytes_length (c n : Nat) : (leBytes c n).length = c := by
  induction c generalizing n with
  | zero => rfl
  | succ c ih => simp [leBytes, ih]

theorem dataWord_length {data : List Word} {i : Nat} (h : 8 * i + 8 ≤ data.length) : (dataWord data i).length = 32 := by
  simp only [dataWord, dataWord.slice', leBytes_length, List.length_flatMap, List.map_const', List.length_take, List.length_drop,
    List.sum_replicate, smul_eq_mul]
  omega

/-- The words of a PROGRAM that a power loss has not left undefined, and that were not programmed with ones. -/
def PlainTargets (s : State) (q : GrnCmd) : Prop :=
  ∀ i < q.count, (q.addr + 32 * i) ∉ s.grn.undef ∧ (q.addr + 32 * i) ∉ s.grn.ones

/-- Word `i` of a command reads as erased. -/
def wordErased (s : State) (q : GrnCmd) (i : Nat) : Bool := (grnRun 32 (q.addr + 32 * i) s.grn.mem).all (· == 0xFF)

theorem progCheck_plain (harea : q.area = 0) (h : PlainTargets s q) (data : List Word) :
    progCheck s q data = ((List.range q.count).all (wordErased s q), [], s) := by
  have hfold : ∀ (l : List Nat), (∀ i ∈ l, i < q.count) → ∀ ok,
      l.foldl (fun (a : Bool × List SeedPlan × State) i =>
        if q.area = 1 then
          let (plan, t) := seedPlan a.2.2 ((q.addr / 32 + i) % 32) (dataWord data i)
          (a.1 && plan != .twice, a.2.1 ++ [plan], t)
        else
          let (ok, t) := erasedTight a.2.2 (q.addr + 32 * i)
          (a.1 && ok, a.2.1, t)) (ok, [], s) = (ok && l.all (wordErased s q), [], s) := by
    intro l hl
    induction l with
    | nil => simp
    | cons i l ih =>
      intro ok
      obtain ⟨hundef, hones⟩ := h i (hl i List.mem_cons_self)
      have htight : erasedTight s (q.addr + 32 * i) = (wordErased s q i, s) := by simp [erasedTight, hundef, hones, wordErased]
      simp only [List.foldl_cons, harea, htight, List.all_cons] at ih ⊢
      rw [if_neg (by omega), ih (fun j hj => hl j (List.mem_cons_of_mem _ hj)), Bool.and_assoc]
  simpa [progCheck] using hfold (List.range q.count) (fun i hi => List.mem_range.mp hi) true

/-- The words programmed read back, and no other byte of the window has changed. -/
structure Programmed (q : GrnCmd) (data : List Word) (n : Nat) (old new : List Host.Cell) : Prop where
  ok : cellsOk 0xFF new = true
  words : ∀ i < n, grnRun 32 (q.addr + 32 * i) new = dataWord data i
  others : ∀ a, a < q.addr ∨ q.addr + 32 * n ≤ a → cellAt 0xFF a new = cellAt 0xFF a old

theorem Programmed.step {data : List Word} {n : Nat} {old new : List Host.Cell} (h : Programmed q data n old new)
    (hdata : 8 * n + 8 ≤ data.length) :
    Programmed q data (n + 1) old (putBytes (q.addr + 32 * n) (dataWord data n) new) := by
  have hlength := dataWord_length hdata
  have hok : cellsOk 0xFF (putBytes (q.addr + 32 * n) (dataWord data n) new) = true := cellsOk_putCells _ _ h.ok
  refine ⟨hok, fun i hi => ?_, fun a ha => ?_⟩
  · by_cases hin : i = n
    · subst hin
      have hback := cellRun_putCells h.ok (q.addr + 32 * i) (dataWord data i)
      rwa [hlength] at hback
    · rw [← h.words i (by omega)]
      exact cellRun_congr hok h.ok fun j hj => cellAt_putCells_out h.ok (.inl (by omega))
  · rw [← h.others a (by omega)]
    exact cellAt_putCells_out h.ok (by rw [hlength]; omega)

theorem progWords_programmed (hok : cellsOk 0xFF s.grn.mem = true) {data : List Word} {n : Nat} (hdata : 8 * n ≤ data.length) :
    Programmed q data n s.grn.mem (progWords s q data n).grn.mem := by
  unfold progWords
  rw [State.modGrn_grn]
  induction n with
  | zero => exact ⟨hok, fun i hi => by omega, fun _ _ => rfl⟩
  | succ n ih =>
    rw [List.range_succ, List.foldl_append]
    exact (ih (by omega)).step (by omega)

theorem progWords_others (data : List Word) (n : Nat) :
    (progWords s q data n).grn.counters = s.grn.counters ∧ ∀ i, (progWords s q data n).grnBank? i = s.grnBank? i := by
  have h : ∀ (l : List Nat) (g : GrnState), let t := l.foldl (fun (g : GrnState) i => putWord g (q.addr + 32 * i) (dataWord data i)) g
      t = { g with mem := t.mem, undef := t.undef, ones := t.ones } := by
    intro l
    induction l with
    | nil => exact fun _ => rfl
    | cons i l ih =>
      intro g
      dsimp only
      rw [List.foldl_cons, ih]
      rfl
  have heq := h (List.range n) s.grn
  refine ⟨by rw [progWords, State.modGrn_grn, heq], fun i => ?_⟩
  simp only [State.grnBank?, progWords, State.modGrn_grn]
  rw [heq]

/-- The data buffer of the requester, as its PROGRAM takes it. -/
abbrev progData (s : State) (q : GrnCmd) : List Word := (s.bankOf q.req).data

theorem finishProgram_bad (harea : q.area = 0) (hbad : s.grn.bad.contains (q.addr / 4096) = true) :
    finishProgram s q none = modGrnBank s q.req fun b => b.setErr errBadSector := by
  simp only [finishProgram, harea, hbad, and_self, if_true]

theorem finishProgram_twice (harea : q.area = 0) (hbad : s.grn.bad.contains (q.addr / 4096) = false) (h : PlainTargets s q)
    (herased : (List.range q.count).all (wordErased s q) = false) :
    finishProgram s q none = modGrnBank s q.req fun b => b.setErr errProgTwice := by
  simp only [finishProgram, harea, hbad, progCheck_plain harea h, herased, and_false, if_false, Bool.not_false, if_true,
    Bool.false_eq_true]

theorem finishProgram_writes (harea : q.area = 0) (hbad : s.grn.bad.contains (q.addr / 4096) = false) (h : PlainTargets s q)
    (herased : (List.range q.count).all (wordErased s q) = true) :
    finishProgram s q none = progWords (uncheckSlots s (q.addr / 4096) 1) q (progData s q) q.count := by
  simp only [finishProgram, harea, hbad, progCheck_plain harea h, herased, and_false, if_false, Bool.not_true, if_true,
    Bool.false_eq_true, Nat.zero_ne_one]
  rfl

/-! ### INC (R524, R535, R536) -/

/-- What a write of a structure leaves of what the requesters see: the window and their banks. -/
def requesterPart (g : GrnState) : List Host.Cell × GrnBank × GrnBank × GrnBank × GrnBank :=
  (g.mem, g.bankA, g.bankB, g.bankStk, g.bankJtag)

theorem countErases_requesterPart (g : GrnState) (n : Nat) : requesterPart (countErases g n) = requesterPart g := by
  unfold countErases
  dsimp only
  split <;> rfl

theorem takeSector_requesterPart (g : GrnState) : requesterPart (takeSector g) = requesterPart g := by
  unfold takeSector
  dsimp only
  split
  · exact countErases_requesterPart _ _
  · rfl

theorem appendEntry_requesterPart (g : GrnState) (struct copy : Nat) : requesterPart (appendEntry g struct copy) = requesterPart g := by
  unfold appendEntry
  dsimp only
  split_ifs
  · rfl
  · rfl
  · exact takeSector_requesterPart g
  · exact takeSector_requesterPart g

theorem structWrite_requesterPart (s : State) (n : Nat) : requesterPart (structWrite s n).grn = requesterPart s.grn := by
  have hstart : ∀ (p : Bool) (g : GrnState), requesterPart (startBatch p g) = requesterPart g := fun p g => by
    rw [startBatch_eq]; rfl
  exact (hstart _ _).trans ((appendEntry_requesterPart _ _ _).trans (appendEntry_requesterPart _ _ _))

theorem grnBank?_congr {t : State} (h : requesterPart t.grn = requesterPart s.grn) (i : Identity) : t.grnBank? i = s.grnBank? i := by
  simp only [requesterPart, Prod.mk.injEq] at h
  obtain ⟨-, hA, hB, hStk, hJtag⟩ := h
  simp only [State.grnBank?, hA, hB, hStk, hJtag]

theorem mem_congr {t : State} (h : requesterPart t.grn = requesterPart s.grn) : t.grn.mem = s.grn.mem := congrArg Prod.fst h

/-- The value of the counter that a command names. -/
def counterOf (s : State) (q : GrnCmd) : Nat := s.grn.counters.getD (q.addr % 64) 0

/-- The requester's bank with a value returned. -/
def GrnBank.returning (b : GrnBank) (v : Nat) : GrnBank := { b with data := w32 v :: b.data.drop 1 }

theorem finishInc_exhausted (h : counterMax ≤ counterOf s q) :
    finishInc s q = modGrnBank s q.req fun b => (b.returning (counterOf s q)).setErr errExhausted := by
  have hlimit : counterMax ≤ s.grn.counters.getD (q.addr % 64) 0 := h
  simp only [finishInc, if_pos hlimit, modGrnBank_modGrnBank]
  rfl

/-- The counter is raised, and its entry is written to the pool. -/
def counterRaised (s : State) (q : GrnCmd) : State :=
  structWrite (s.modGrn fun g => { g with counters := g.counters.set (q.addr % 64) (counterOf s q + 1) }) (q.addr % 64)

theorem finishInc_raises (h : counterOf s q < counterMax) :
    finishInc s q = modGrnBank (counterRaised s q) q.req fun b => b.returning (counterOf s q + 1) :=
  if_neg (Nat.not_le.mpr h)

theorem counterRaised_ends : (counterRaised s q).grn.mem = s.grn.mem ∧ (counterRaised s q).grnBank? id = s.grnBank? id ∧
    (counterRaised s q).grn.counters = s.grn.counters.set (q.addr % 64) (counterOf s q + 1) :=
  have hpart := structWrite_requesterPart (s.modGrn fun g => { g with counters := g.counters.set (q.addr % 64) (counterOf s q + 1) })
    (q.addr % 64)
  ⟨mem_congr hpart, grnBank?_congr hpart id, structWrite_counters _ _⟩

/-! ### ERASE (R513, R522) -/

/-- What the substitution of sectors and the count of erases leave: all but the ledger and the state of the sectors' words. -/
def ledgerRest (g : GrnState) : GrnState :=
  { g with undef := [], ones := [], erases := 0, subs := [], retired := [], bad := [], ledgerSeq := 0, sinceLedger := 0 }

theorem countErases_ledgerRest (g : GrnState) (n : Nat) : ledgerRest (countErases g n) = ledgerRest g := by
  unfold countErases
  dsimp only
  split <;> rfl

theorem retireSpares_ledgerRest (m : Member) (n : Nat) (g : GrnState) : ledgerRest (retireSpares m g n) = ledgerRest g := by
  induction n generalizing g with
  | zero => rfl
  | succ n ih =>
    unfold retireSpares
    split
    · exact ih _
    · rfl

theorem substitute_ledgerRest (m : Member) (g : GrnState) (l n : Nat) : ledgerRest (substitute m g l n).1 = ledgerRest g := by
  have hspares : ledgerRest (if 16 ≤ g.subs.length then g else retireSpares m g n) = ledgerRest g := by
    split
    · rfl
    · exact retireSpares_ledgerRest m n g
  unfold substitute
  dsimp only
  split <;> exact hspares

theorem substituteAll_ledgerRest (m : Member) (g : GrnState) (fails : List Nat) (sector : Nat → Nat) :
    ledgerRest (substituteAll m g fails sector).1 = ledgerRest g := by
  unfold substituteAll
  generalize true = ok
  induction fails.dedup generalizing g ok with
  | nil => rfl
  | cons x xs ih => exact (ih _ _).trans (substitute_ledgerRest _ _ _ _)

theorem requesterPart_of_ledgerRest {g g' : GrnState} (h : ledgerRest g' = ledgerRest g) : requesterPart g' = requesterPart g :=
  (congrArg requesterPart h :)

/-- Some sector of an erase is BAD. -/
def erasesBad (s : State) (e : GrnErase) : Bool := ((List.range e.count).map (e.first + ·)).any s.grn.bad.contains

theorem erasesBad_true {e : GrnErase} : erasesBad s e = true ↔ ∃ i < e.count, s.grn.bad.contains (e.first + i) = true := by
  simp [erasesBad]

/-- The array is free again. -/
def State.eraseOver (s : State) : State := s.modGrn fun g => { g with erase := none }

theorem finishErase_bad {e : GrnErase} {fails : List Nat} (h : erasesBad s e = true) :
    finishErase s e fails = modGrnBank s.eraseOver e.req fun b => { b.setErr errBadSector with done := true } := by
  have hany : ((List.range e.count).map (e.first + ·)).any s.grn.bad.contains = true := h
  simp only [finishErase, State.modGrn_grn, hany, if_true]
  rfl

/-- The Granary with the sectors of an erase cleared and counted. -/
def erased (g : GrnState) (e : GrnErase) : GrnState := countErases (clearSectors { g with erase := none } e.first e.count) e.count

/-- The sectors are cleared, and those whose erase fails twice are substituted. -/
theorem finishErase_clears {e : GrnErase} {fails : List Nat} (h : erasesBad s e = false) :
    ∃ (u : State) (ok : Bool), finishErase s e fails =
        modGrnBank u e.req (fun b => { (if ok then b else b.setErr errEraseFail) with done := true }) ∧
      requesterPart u.grn = requesterPart (erased s.grn e) ∧ (fails = [] → ok = true) := by
  have hany : ((List.range e.count).map (e.first + ·)).any s.grn.bad.contains = false := h
  simp only [finishErase, State.modGrn_grn, hany, Bool.false_eq_true, if_false, uncheckSlots_grn]
  refine ⟨_, _, rfl, ?_, ?_⟩
  · exact requesterPart_of_ledgerRest (substituteAll_ledgerRest _ _ _ _)
  · rintro rfl
    rfl

theorem erased_requesterPart (g : GrnState) (e : GrnErase) :
    requesterPart (erased g e) = (dropRange (e.first * 4096) ((e.first + e.count) * 4096) g.mem, (requesterPart g).2) :=
  countErases_requesterPart _ _

/-! ### A batch of released pool sectors (R541) -/

theorem finishBatch_eq (s : State) (e : GrnErase) (fails : List Nat) :
    finishBatch s e fails = { s with free := s.free + 1, grn := (finishBatch s e fails).grn } := rfl

/-- The batch's sectors are no longer released, and the array is free. -/
theorem finishBatch_grn (s : State) (e : GrnErase) (fails : List Nat) :
    let t := finishBatch s e fails
    t.grn.mem = s.grn.mem ∧ t.grn.released = s.grn.released - e.batch ∧ t.grn.erase = none ∧ t.grn.queue = s.grn.queue := by
  have hrest : ledgerRest { (finishBatch s e fails).grn with poolErased := 0 } =
      ledgerRest { s.grn with erase := none, poolErased := 0, released := s.grn.released - min e.batch s.grn.released } := by
    have hsubs := substituteAll_ledgerRest s.member { eraseReleased s.grn e.batch with erase := none }
      (fails.filter (decide <| · < e.batch))
      (fun i => 2 * s.member.slotSectors + (s.drawNat.1 + i) % (s.member.oemFirst - 2 * s.member.slotSectors))
    have hcount := countErases_ledgerRest { s.grn with
        released := s.grn.released - min e.batch s.grn.released
        poolErased := s.grn.poolErased + min e.batch s.grn.released } (min e.batch s.grn.released)
    exact (congrArg (fun g : GrnState => { g with poolErased := 0 }) hsubs).trans
      (congrArg (fun g : GrnState => { g with poolErased := 0, erase := none }) hcount)
  refine ⟨(congrArg GrnState.mem hrest :), (congrArg GrnState.released hrest :).trans ?_, (congrArg GrnState.erase hrest :),
    (congrArg GrnState.queue hrest :)⟩
  show s.grn.released - min e.batch s.grn.released = _
  omega

/-- With nothing released and nothing waiting, the idle array stays idle. -/
theorem startErase_idle (he : s.grn.erase = none) (hq : s.grn.queue = []) (hr : s.grn.released = 0) : startErase s = s := by
  have hbatch : s.modGrn (startBatch s.hold.pwrFail) = s := by simp [State.modGrn, startBatch_none hr]
  simp only [startErase, hbatch, he, hq]

theorem exec_grnCommandDone_erase {e : GrnErase} {fails : List Nat} (he : s.grn.erase = some e) (hs : e.suspended = false) :
    exec (.grnCommandDone corr [] none fails) s =
      .next (startErase (if e.batch = 0 then finishErase s e fails else finishBatch s e fails)) := by
  show execGrnCommandDone corr [] none fails s = _
  simp only [execGrnCommandDone, he, hs, Bool.false_eq_true, if_false]

theorem exec_grnCommandDone_idle (he : s.grn.erase = none) (hq : s.grn.queue = []) :
    exec (.grnCommandDone corr [] none []) s = .next s := by
  show execGrnCommandDone corr [] none [] s = _
  simp only [execGrnCommandDone, he, hq]

/-! ### The ends, as the requester sees them -/

section Ends

variable {rest : List GrnCmd} (hruns : ArrayRuns s q rest) (hbank : (s.grnBank? q.req).isSome = true)
include hruns hbank

theorem exec_read_done (hok : cellsOk 0xFF s.grn.mem = true) (hop : q.op = .read) (harea : q.area = 0) (hwords : PlainWords s q) :
    ∃ t, exec (.grnCommandDone corr [] none []) s = .next t ∧ (t.bankOf q.req).done = true ∧
      (t.bankOf q.req).err = (s.bankOf q.req).err ∧ t.grn.mem = s.grn.mem ∧
      ∀ j < 8 * q.count, (t.bankOf q.req).data[j]? = some (w32 (leNat (grnRun 4 (q.addr + 4 * j) s.grn.mem))) := by
  obtain ⟨warn, hends⟩ := finishRead_plain (s := dequeued s rest) (corr := corr) hok harea hwords
  have hread : finishHead (dequeued s rest) q corr = finishRead (dequeued s rest) q corr [] := by rw [finishHead, hop]
  have hbank' : ((dequeued s rest).grnBank? q.req).isSome = true := hbank
  obtain ⟨t, hexec, hbankOf, hmem, -⟩ := exec_grnCommandDone_head_ends hruns (by rw [hop]; exact GrnOp.noConfusion) hread
    (by rw [hends.bank]; exact modGrnBank_isSome hbank')
  rw [hends.bankOf, modGrnBank_bankOf hbank'] at hbankOf
  rw [hends.mem, modGrnBank_mem] at hmem
  refine ⟨t, hexec, by rw [hbankOf], by rw [hbankOf]; rfl, hmem, fun j hj => ?_⟩
  have hdata : (t.bankOf q.req).data = (((dequeued s rest).bankOf q.req).readOut q
      (grnRun (32 * q.count) q.addr s.grn.mem) (min 3 corr) warn).data := by rw [hbankOf]; rfl
  rw [hdata, readOut_data hj]
  unfold grnRun
  rw [cellRun_slice hok (by omega)]

/-- A command that ends with a bit of GRN_ERR sets DONE too, and changes no byte. -/
theorem exec_head_fails {bit : Nat} (hop : q.op ≠ .erase)
    (hends : finishHead (dequeued s rest) q corr = modGrnBank (dequeued s rest) q.req fun b => b.setErr bit) :
    ∃ t, exec (.grnCommandDone corr [] none []) s = .next t ∧ (t.bankOf q.req).done = true ∧
      (t.bankOf q.req).err = (s.bankOf q.req).err ||| 2 ^ bit ∧ t.grn.mem = s.grn.mem := by
  have hbank' : ((dequeued s rest).grnBank? q.req).isSome = true := hbank
  obtain ⟨t, hexec, hbankOf, hmem, -⟩ := exec_grnCommandDone_head_ends hruns hop hends (modGrnBank_isSome hbank')
  rw [modGrnBank_bankOf hbank'] at hbankOf
  exact ⟨t, hexec, by rw [hbankOf], by rw [hbankOf]; rfl, hmem.trans modGrnBank_mem⟩

theorem exec_program_done (hok : cellsOk 0xFF s.grn.mem = true) (hop : q.op = .program) (harea : q.area = 0)
    (hbad : s.grn.bad.contains (q.addr / 4096) = false) (htargets : PlainTargets s q)
    (herased : (List.range q.count).all (wordErased s q) = true) (hdata : 8 * q.count ≤ (progData s q).length) :
    ∃ t, exec (.grnCommandDone corr [] none []) s = .next t ∧ (t.bankOf q.req).done = true ∧
      (t.bankOf q.req).err = (s.bankOf q.req).err ∧ Programmed q (progData s q) q.count s.grn.mem t.grn.mem := by
  have hprogram : finishHead (dequeued s rest) q corr = finishProgram (dequeued s rest) q none := by rw [finishHead, hop]
  have hprogrammed := progWords_programmed (s := uncheckSlots (dequeued s rest) (q.addr / 4096) 1) (q := q)
    (data := progData (dequeued s rest) q) (n := q.count) (by rw [uncheckSlots_grn]; exact hok) hdata
  have hothers := (progWords_others (s := uncheckSlots (dequeued s rest) (q.addr / 4096) 1) (q := q)
    (progData (dequeued s rest) q) q.count).2 q.req
  rw [(uncheckSlots_ends _ _).bank] at hothers
  obtain ⟨t, hexec, hbankOf, hmem, -⟩ := exec_grnCommandDone_head_ends hruns (by rw [hop]; exact GrnOp.noConfusion)
    (hprogram.trans (finishProgram_writes harea hbad htargets herased)) (by rw [hothers]; exact hbank)
  rw [bankOf_congr hothers] at hbankOf
  refine ⟨t, hexec, by rw [hbankOf], by rw [hbankOf]; rfl, ?_⟩
  rw [hmem]
  rwa [uncheckSlots_grn] at hprogrammed

theorem exec_inc_done (hop : q.op = .inc) (h : counterOf s q < counterMax) :
    ∃ t, exec (.grnCommandDone corr [] none []) s = .next t ∧ (t.bankOf q.req).done = true ∧
      t.grn.counters = s.grn.counters.set (q.addr % 64) (counterOf s q + 1) ∧
      (t.bankOf q.req).data = w32 (counterOf s q + 1) :: (s.bankOf q.req).data.drop 1 ∧ t.grn.mem = s.grn.mem := by
  have hinc : finishHead (dequeued s rest) q corr = finishInc (dequeued s rest) q := by rw [finishHead, hop]
  obtain ⟨hmem', hbank', hcounters'⟩ := counterRaised_ends (s := dequeued s rest) (id := q.req) (q := q)
  have hsome : ((counterRaised (dequeued s rest) q).grnBank? q.req).isSome = true := by rw [hbank']; exact hbank
  obtain ⟨t, hexec, hbankOf, hmem, hcounters⟩ := exec_grnCommandDone_head_ends hruns (by rw [hop]; exact GrnOp.noConfusion)
    (hinc.trans (finishInc_raises h)) (modGrnBank_isSome hsome)
  rw [modGrnBank_bankOf hsome, bankOf_congr hbank'] at hbankOf
  exact ⟨t, hexec, by rw [hbankOf], hcounters.trans (modGrnBank_counters.trans hcounters'), by rw [hbankOf]; rfl,
    hmem.trans (modGrnBank_mem.trans hmem')⟩

theorem exec_inc_exhausted (hop : q.op = .inc) (h : counterMax ≤ counterOf s q) :
    ∃ t, exec (.grnCommandDone corr [] none []) s = .next t ∧ (t.bankOf q.req).done = true ∧
      (t.bankOf q.req).err = (s.bankOf q.req).err ||| 2 ^ errExhausted ∧ t.grn.counters = s.grn.counters := by
  have hinc : finishHead (dequeued s rest) q corr = finishInc (dequeued s rest) q := by rw [finishHead, hop]
  have hbank' : ((dequeued s rest).grnBank? q.req).isSome = true := hbank
  obtain ⟨t, hexec, hbankOf, -, hcounters⟩ := exec_grnCommandDone_head_ends hruns (by rw [hop]; exact GrnOp.noConfusion)
    (hinc.trans (finishInc_exhausted h)) (modGrnBank_isSome hbank')
  rw [modGrnBank_bankOf hbank'] at hbankOf
  exact ⟨t, hexec, by rw [hbankOf], by rw [hbankOf]; rfl, hcounters.trans modGrnBank_counters⟩

end Ends

section EraseEnds

variable {e : GrnErase} {fails : List Nat} (he : s.grn.erase = some e) (hs : e.suspended = false) (hbatch : e.batch = 0)
  (hbank : (s.grnBank? e.req).isSome = true)
include he hs hbatch hbank

theorem exec_erase_bad (h : erasesBad s e = true) : ∃ t, exec (.grnCommandDone corr [] none fails) s = .next t ∧
    (t.bankOf e.req).done = true ∧ (t.bankOf e.req).err = (s.bankOf e.req).err ||| 2 ^ errBadSector ∧ t.grn.mem = s.grn.mem := by
  rw [exec_grnCommandDone_erase he hs, if_pos hbatch, finishErase_bad h]
  have hbank' : (s.eraseOver.grnBank? e.req).isSome = true := hbank
  have hbankOf := (startErase_bankOf _ _).trans (modGrnBank_bankOf hbank' (f := fun b => { b.setErr errBadSector with done := true }))
  exact ⟨_, rfl, by rw [hbankOf], by rw [hbankOf]; rfl, (startErase_mem _).trans modGrnBank_mem⟩

theorem exec_erase_done (h : erasesBad s e = false) : ∃ t, exec (.grnCommandDone corr [] none fails) s = .next t ∧
    (t.bankOf e.req).done = true ∧ (fails = [] → (t.bankOf e.req).err = (s.bankOf e.req).err) ∧
    t.grn.mem = dropRange (e.first * 4096) ((e.first + e.count) * 4096) s.grn.mem := by
  obtain ⟨u, ok, hu, hpart, hfails⟩ := finishErase_clears (fails := fails) h
  rw [erased_requesterPart] at hpart
  have hbank? : u.grnBank? e.req = s.grnBank? e.req :=
    grnBank?_congr (t := u) (s := s.modGrn fun g => { g with mem := u.grn.mem }) (Prod.ext rfl (congrArg Prod.snd hpart :)) e.req
  have hsome : (u.grnBank? e.req).isSome = true := by rw [hbank?]; exact hbank
  rw [exec_grnCommandDone_erase he hs, if_pos hbatch, hu]
  refine ⟨_, rfl, ?_, fun hnil => ?_, (startErase_mem _).trans (modGrnBank_mem.trans (congrArg Prod.fst hpart))⟩
  · rw [startErase_bankOf, modGrnBank_bankOf hsome]
  · rw [startErase_bankOf, modGrnBank_bankOf hsome, hfails hnil, bankOf_congr hbank?]
    rfl

end EraseEnds

end GranaryEnds

/-- Settles O41: the head of the queue or the erase in the array ends, and each operation's end has its own lemma. -/
theorem granaryReadsProgramsErases : Obligations.GranaryReadsProgramsErases := by
  intro s q rest corr hok hbank d
  refine ⟨fun hsusp hqueue => ?_, fun e fails he hs hbatch hreq => ?_, fun e fails he hs hbatch => ?_, exec_grnCommandDone_idle⟩
  · have hruns : ArrayRuns s q rest := ⟨hsusp, hqueue⟩
    refine ⟨fun hop harea _ hwords => exec_read_done hruns hbank hok hop harea hwords, fun hop harea => ?_,
      fun hop _ => ⟨?_, exec_inc_exhausted hruns hbank hop⟩⟩
    · have hprogram : finishHead (dequeued s rest) q corr = finishProgram (dequeued s rest) q none := by rw [finishHead, hop]
      have hne : q.op ≠ .erase := by rw [hop]; exact GrnOp.noConfusion
      refine ⟨fun hbad => exec_head_fails hruns hbank hne (hprogram.trans (finishProgram_bad harea hbad)),
        fun hbad htargets => ⟨fun herased hdata hcount => ?_, fun hused => ?_⟩⟩
      · have hall : (List.range q.count).all (wordErased s q) = true := by
          simp only [List.all_eq_true, List.mem_range, wordErased, beq_iff_eq]
          exact herased
        obtain ⟨t, hexec, hdone, herr, hprogrammed⟩ :=
          exec_program_done (corr := corr) hruns hbank hok hop harea hbad htargets hall (hdata.symm ▸ by omega)
        exact ⟨t, hexec, hdone, herr, hprogrammed.words, hprogrammed.others⟩
      · have hall : (List.range q.count).all (wordErased s q) = false := by
          obtain ⟨i, hi, b, hb, hne⟩ := hused
          simp only [List.all_eq_false, List.mem_range, wordErased, beq_iff_eq, List.all_eq_true]
          exact ⟨i, hi, fun h => hne (h b hb)⟩
        exact exec_head_fails hruns hbank hne (hprogram.trans (finishProgram_twice harea hbad htargets hall))
    · rintro v rfl hlimit
      exact exec_inc_done hruns hbank hop hlimit
  · have hd : d = s.bankOf e.req := by rw [hreq]
    rw [← hreq] at hbank
    rw [hd, ← hreq]
    refine ⟨fun hbad => exec_erase_bad he hs hbatch hbank (erasesBad_true.mpr hbad), fun hgood => ?_⟩
    have hnone : erasesBad s e = false := by
      rw [← Bool.not_eq_true, erasesBad_true]
      rintro ⟨i, hi, hbad⟩
      rw [hgood i hi] at hbad
      cases hbad
    obtain ⟨t, hexec, hdone, herr, hmem⟩ := exec_erase_done (corr := corr) (fails := fails) he hs hbatch hbank hnone
    refine ⟨t, hexec, hdone, herr, fun a hlo hhi => ?_, fun a ha => ?_⟩
    · rw [hmem, cellAt_dropRange_in hlo hhi]
    · rw [hmem, cellAt_dropRange_out ha]
  · rw [exec_grnCommandDone_erase he hs, if_neg (by omega)]
    obtain ⟨hmem, hreleased, herase, hqueue⟩ := finishBatch_grn s e fails
    refine ⟨_, rfl, (startErase_mem _).trans hmem, (startErase_released _).trans hreleased, ?_, fun hall hq => ?_⟩
    · rw [startErase_eq, finishBatch_eq]
    · rw [startErase_idle herase (hqueue.trans hq) (by rw [hreleased]; omega)]
      exact herase

end Sys2Proof.Machine
end

section
/-! The recipe sequencer's words: how a word begins, how its step completes, and what a word that waits leaves (R490, R492, R494);
O1, O2 and O3. -/

namespace Sys2Proof.Machine

section RecipeWords

variable {s u : State} {ch die : Nat} {r x : RunOp} {c : Instr} {next : Nat} {last : Bool}

/-! ### A word begins -/

/-- The state in which a word runs: the bus is the die's, and the word is noted as the last one. -/
def wordBegun (s : State) (ch die : Nat) : State := modRun (takeBus s ch die) ch die fun r => { r with last := r.word }

/-- The operation while one of its words runs. -/
def RunOp.atIt (r : RunOp) : RunOp := { r with last := r.word }

/-- A state that differs from another in no more than what its recipes read the same. -/
theorem wordsOf_congr (h : u.lay = s.lay) : u.wordsOf ch r = s.wordsOf ch r := wordsOf_lay h r rfl

theorem wordBegun_runOp (h : s.runOp ch die = some r) : (wordBegun s ch die).runOp ch die = some r.atIt :=
  modRun_runOp (takeBus_runOp h) _

theorem onStep_at {w : RecWord} (h : AtWord s ch die r) (hw : s.wordAt ch r = some w) (f : State → RunOp → State) :
    onStep s ch die w f = f (wordBegun s ch die) r.atIt := onStep_eq h hw f

/-- Changing the channel's own fields leaves its operations alone. -/
theorem modChan_runOp {f : ChanState → ChanState} (hf : ∀ k, (f k).dieAt die = k.dieAt die) (h : s.runOp ch die = some r) :
    (s.modChan ch f).runOp ch die = some r := by
  rw [State.runOp, State.modChan_chan _ _ _ (runOp_lt h).1, hf]
  exact h

/-! ### A step completes (R490) -/

/-- The operation once the step it was at is complete. -/
def RunOp.stepped (r : RunOp) (word : Nat) : RunOp :=
  { r with word := word, sinceMode := r.sinceMode - 1, waiting := .none, lastPending := false }

/-- The bus of a channel holds the same cycles, and the die is in the same interface mode. -/
structure PhaseStays (s u : State) (ch die : Nat) : Prop where
  bus : (u.chan ch).bus = (s.chan ch).bus
  iface : ((u.chan ch).dieAt die).iface = ((s.chan ch).dieAt die).iface
  tmode : ((u.chan ch).dieAt die).tmode = ((s.chan ch).dieAt die).tmode

theorem PhaseStays.trans {v : State} (h : PhaseStays s u ch die) (h' : PhaseStays u v ch die) : PhaseStays s v ch die :=
  ⟨h'.bus.trans h.bus, h'.iface.trans h.iface, h'.tmode.trans h.tmode⟩

theorem modRun_phaseStays (h : s.runOp ch die = some r) (f : RunOp → RunOp) : PhaseStays s (modRun s ch die f) ch die := by
  constructor
  · rw [modRun_chan h]
    rfl
  all_goals
    rw [modRun_chan h, ChanState.modDie_dieAt _ _ _ (runOp_lt h).2]

/-- A step that completes ends the operation with LAST, and else leaves it at the next word; the bus holds what it held. -/
theorem stepTo_over (hr : u.runOp ch die = some x) (hw : last = false → next < u.wordsOf ch x) :
    ∃ v, stepTo u ch die next last = (if last then endOp v ch die (!x.inError) else v) ∧
      v.runOp ch die = some (x.stepped (if last then x.word else next)) ∧ PhaseStays u v ch die := by
  have hstepped := modRun_runOp hr fun r => { r with sinceMode := r.sinceMode - 1, waiting := .none, lastPending := false }
  cases last with
  | true => exact ⟨_, stepTo_last hr next, hstepped, modRun_phaseStays hr _⟩
  | false =>
    exact ⟨modRun (modRun u ch die _) ch die _, stepTo_next hr next (hw rfl), modRun_runOp hstepped _,
      (modRun_phaseStays hr _).trans (modRun_phaseStays hstepped _)⟩

theorem stepTo_runOp (hr : u.runOp ch die = some x) (hw : next < u.wordsOf ch x) :
    (stepTo u ch die next false).runOp ch die = some (x.stepped next) := by
  obtain ⟨v, hv, hrun, -⟩ := stepTo_over (last := false) hr fun _ => hw
  rw [hv]
  exact hrun

/-- A word whose step completes runs, with the cycles it put on the bus. -/
theorem wordRuns_of_stepTo {bus : List BusCycle} (hexec : exec c s = .next (stepTo u ch die (r.word + 1) last))
    (hr : u.runOp ch die = some x.atIt) (hlay : u.lay = s.lay) (hset : x.oldSet = r.oldSet) (hword : x.word = r.word)
    (herr : x.inError = r.inError) (hbus : (u.chan ch).bus = bus) (hw : last = false → r.word + 1 < s.wordsOf ch r) :
    WordRuns s c ch die r x last bus := by
  obtain ⟨v, hv, hrun, hstays⟩ := stepTo_over (last := last) hr fun h => (wordsOf_lay hlay x.atIt hset).symm ▸ hw h
  refine ⟨v, ?_, ?_, hstays.bus.trans hbus⟩
  · rw [hexec, hv, ← herr]
    rfl
  · rw [hrun, ← hword]
    rfl

/-- A word whose step completes at another word. -/
theorem goesTo_of_stepTo (hexec : exec c s = .next (stepTo u ch die next false)) (hr : u.runOp ch die = some x.atIt)
    (hlay : u.lay = s.lay) (hset : x.oldSet = r.oldSet) (hw : next < s.wordsOf ch r) : GoesTo s c ch die x next :=
  ⟨_, hexec, stepTo_runOp hr ((wordsOf_lay hlay x.atIt hset).symm ▸ hw)⟩

/-! ### The bytes a DOUT word sends (R481) -/

/-- A page stream looks at the Field's number and geometry. -/
theorem pageStream_congr {fs : FieldState} {env env' : FEnv} {g : ChanCfg} {p : PageRec} (hgeo : env.geo = env'.geo)
    (hnum : env.num = env'.num) : pageStream fs env g p = pageStream fs env' g p := by
  simp only [pageStream, pageContent, hgeo, hnum]

theorem doutBytes_wordBegun (src : DoutSrc) : doutBytes (wordBegun s ch die) ch r.atIt src = doutBytes s ch r src := by
  cases src with
  | page =>
    have hplace : placeOf r.atIt = placeOf r := rfl
    have hstream : ∀ fs f g p, pageStream fs ((wordBegun s ch die).fenv f) g p = pageStream fs (s.fenv f) g p :=
      fun fs f g p => pageStream_congr rfl rfl
    simp only [doutBytes, hplace, hstream]
    rfl
  | v k => rfl
  | retryLo => rfl
  | retryHi => rfl
  | zero => rfl

/-! ### The waits (R492) -/

@[simp] theorem noteReady_runOp (h : s.runOp ch die = some r) : (noteReady s ch).runOp ch die = some r :=
  modChan_runOp (fun _ => rfl) h

theorem noteReady_bus (h : s.runOp ch die = some r) : ((noteReady s ch).chan ch).bus = (s.chan ch).bus :=
  (congrArg ChanState.bus (State.modChan_chan s ch _ (runOp_lt h).1) :)

/-- Freeing the bus leaves the operation at it and the cycles last put on it. -/
theorem freeBus_leaves (h : s.runOp ch die = some r) :
    (freeBus s ch die).runOp ch die = some r ∧ ((freeBus s ch die).chan ch).bus = (s.chan ch).bus := by
  have hphase : ∀ k : ChanState, (if k.phase == some die then { k with phase := none } else k).dieAt die = k.dieAt die ∧
      (if k.phase == some die then { k with phase := none } else k).bus = k.bus := fun k => by split <;> exact ⟨rfl, rfl⟩
  have hrun := modChan_runOp (f := fun k => if k.phase == some die then { k with phase := none } else k) (fun k => (hphase k).1) h
  exact ⟨noteReady_runOp hrun, (noteReady_bus hrun).trans
    ((congrArg ChanState.bus (State.modChan_chan s ch _ (runOp_lt h).1)).trans (hphase _).2)⟩

/-- A change of the operation, after which the bus is free. -/
theorem freeBus_modRun (h : s.runOp ch die = some r) (f : RunOp → RunOp) :
    (freeBus (modRun s ch die f) ch die).runOp ch die = some (f r) ∧
      ((freeBus (modRun s ch die f) ch die).chan ch).bus = (s.chan ch).bus := by
  obtain ⟨hrun, hbus⟩ := freeBus_leaves (modRun_runOp h f)
  exact ⟨hrun, hbus.trans (by rw [modRun_chan h]; rfl)⟩

/-- The status command and its LUN address that a CMD or CMDL word polls with (R492). -/
theorem beginPoll_leaves {busy : Nat} {byte : Byte} {lun : Bool} (h : s.runOp ch die = some r.atIt) :
    (beginPoll s ch die busy byte lun last).runOp ch die = some (r.polling busy byte lun last) ∧
      ((beginPoll s ch die busy byte lun last).chan ch).bus = (s.chan ch).bus := freeBus_modRun h _

theorem wordBegun_notePhase (h : s.runOp ch die = some r) (bus : List BusCycle) (transfer : Bool) :
    (notePhase (wordBegun s ch die) ch die bus transfer).runOp ch die = some r.atIt ∧
      ((notePhase (wordBegun s ch die) ch die bus transfer).chan ch).bus = bus :=
  ⟨notePhase_runOp (wordBegun_runOp h) _ _, notePhase_bus (wordBegun_runOp h) _ _⟩

/-- A die at the word its recipe holds has an operation. -/
theorem AtWord.runOp (h : AtWord s ch die r) : s.runOp ch die = some r := h.1

/-! ### CMD, CMDL, ADDR, DOUT and DIN (Table CHN-4) -/

variable {b : Byte} {busy : Nat}

theorem exec_cmd (h : AtWord s ch die r) {wait : Bool} (hw : s.wordAt ch r = some (.cmd b wait busy last)) :
    exec (.cmd ch die b wait busy last) s = .next
      (if wait then beginPoll (notePhase (wordBegun s ch die) ch die [.cmd b] false) ch die busy
          (if 1 < (chanOr s ch).luns then 0x78 else 0x70) (decide (1 < (chanOr s ch).luns)) last
        else stepTo (notePhase (wordBegun s ch die) ch die [.cmd b] false) ch die (r.word + 1) last) :=
  congrArg Host.Outcome.next (onStep_at h hw _)

/-- The cycle that a CMDL word puts on the bus. -/
def cmdlCycles (r : RunOp) (notLast lastB : Byte) (level : Nat) (none_ : Bool) : List BusCycle :=
  if LastIteration r level then (if none_ then [] else [.cmd lastB]) else [.cmd notLast]

theorem exec_cmdl (h : AtWord s ch die r) {notLast lastB : Byte} {level : Nat} {none_ wait waitLast : Bool}
    (hw : s.wordAt ch r = some (.cmdl notLast lastB level none_ wait waitLast busy last)) :
    exec (.cmdl ch die notLast lastB level none_ wait waitLast busy last) s = .next
      (if (if LastIteration r level then waitLast else wait) then
          beginPoll (notePhase (wordBegun s ch die) ch die (cmdlCycles r notLast lastB level none_) false) ch die busy
            (if 1 < (chanOr s ch).luns then 0x78 else 0x70) (decide (1 < (chanOr s ch).luns)) last
        else stepTo (notePhase (wordBegun s ch die) ch die (cmdlCycles r notLast lastB level none_) false) ch die (r.word + 1) last) := by
  refine congrArg Host.Outcome.next ((onStep_at h hw _).trans ?_)
  have hwaits : ∀ l : Bool, ((l && waitLast) || (!l && wait)) = if l then waitLast else wait := by
    intro l
    cases l <;> simp
  simp only [hwaits]
  rfl

theorem exec_addr (h : AtWord s ch die r) {kind : AddrKind} (hw : s.wordAt ch r = some (.addr kind last)) :
    exec (.addr ch die kind last) s = .next (stepTo (notePhase (wordBegun s ch die) ch die
      (addrCycles (chanOr s ch) (r.target (chanOr s ch) die) r kind) false) ch die (r.word + 1) last) :=
  congrArg Host.Outcome.next (onStep_at h hw _)

theorem exec_dout (h : AtWord s ch die r) {src : DoutSrc} (hw : s.wordAt ch r = some (.dout src last)) :
    exec (.dout ch die src last) s = .next (stepTo (notePhase (wordBegun s ch die) ch die [.dataOut (doutBytes s ch r src)] true)
      ch die (r.word + 1) last) :=
  congrArg Host.Outcome.next ((onStep_at h hw _).trans (by rw [doutBytes_wordBegun]; rfl))

/-- What the die returns is taken by the operation. -/
def RunOp.takes (r : RunOp) : DinDst → RunOp
  | .page dec => { r with decoded := r.decoded ++ [dec] }
  | .status b => { r with fs := b }
  | .v k x => { r with v := r.v.set k x }

/-- The cycles of a DIN word. -/
def dinCycles (s : State) (ch : Nat) (r : RunOp) (dst : DinDst) (colSel : Bool) : List BusCycle :=
  (if colSel then [BusCycle.cmd 0x05] ++ (leBytes 2 (unitColumn (chanOr s ch) (placeOf r).2.2)).map BusCycle.addr ++ [.cmd 0xE0] else []) ++
    [.dataIn (match dst with
      | .page _ => unitBytes (chanOr s ch) (placeOf r).2.2 ((r.ops.head?.map (·.nunit)).getD 0)
      | .status _ => 1
      | .v _ _ => 4)]

theorem exec_din (h : AtWord s ch die r) {dst : DinDst} {colSel : Bool} (hw : s.wordAt ch r = some (dinWord dst colSel last)) :
    exec (.din ch die dst colSel last) s = .next (stepTo (modRun (notePhase (wordBegun s ch die) ch die (dinCycles s ch r dst colSel) true)
      ch die (·.takes dst)) ch die (r.word + 1) last) := by
  refine congrArg Host.Outcome.next ((onStep_at h hw _).trans ?_)
  cases dst <;> rfl

/-- A DIN word runs as what it takes from the die says. -/
theorem din_wordRuns (h : AtWord s ch die r) {dst : DinDst} {colSel : Bool} (hlast : last = false → r.word + 1 < s.wordsOf ch r)
    (hw : s.wordAt ch r = some (dinWord dst colSel last)) :
    WordRuns s (.din ch die dst colSel last) ch die r (r.takes dst) last (dinCycles s ch r dst colSel) := by
  obtain ⟨hrun, hbus⟩ := wordBegun_notePhase h.runOp (dinCycles s ch r dst colSel) true
  refine wordRuns_of_stepTo (exec_din h hw) (x := r.takes dst) ?_ rfl ?_ ?_ ?_ ?_ hlast
  · rw [modRun_runOp hrun]
    cases dst <;> rfl
  · cases dst <;> rfl
  · cases dst <;> rfl
  · cases dst <;> rfl
  · rw [modRun_chan hrun]
    exact hbus

/-! ### POLL, WAIT and the end of a wait (R492) -/

theorem exec_poll (h : AtWord s ch die r) {lun : Bool} (hw : s.wordAt ch r = some (.poll b busy lun last)) :
    exec (.poll ch die b busy lun last) s =
      .next (beginPoll ((wordBegun s ch die).modChan ch fun k => { k with bus := [] }) ch die busy b lun last) :=
  congrArg Host.Outcome.next (onStep_at h hw _)

theorem exec_wait (h : AtWord s ch die r) {n : Nat} (hw : s.wordAt ch r = some (.wait n last)) :
    exec (.wait ch die n last) s = .next (freeBus (modRun ((wordBegun s ch die).modChan ch fun k =>
      { k with bus := [.wait (s.timing ch r n)] }) ch die fun r => { r with waiting := .time, lastPending := last }) ch die) :=
  congrArg Host.Outcome.next (onStep_at h hw _)

/-- The cycles put on the bus of a channel whose operation goes on. -/
theorem setBus_leaves (h : s.runOp ch die = some r) (bus : List BusCycle) :
    (s.modChan ch fun k => { k with bus := bus }).runOp ch die = some r ∧
      ((s.modChan ch fun k => { k with bus := bus }).chan ch).bus = bus :=
  ⟨modChan_runOp (fun _ => rfl) h, congrArg ChanState.bus (State.modChan_chan s ch _ (runOp_lt h).1)⟩

/-- The end of a wait completes its step. -/
theorem waitOver_of_stepTo {after : State → State} (hexec : exec c s = .next (after (stepTo u ch die (r.word + 1) r.lastPending)))
    (hr : u.runOp ch die = some x) (hx : x.stepped (if r.lastPending then r.word else r.word + 1) =
      r.stepped (if r.lastPending then r.word else r.word + 1)) (hlay : u.lay = s.lay) (hset : x.oldSet = r.oldSet)
    (hword : x.word = r.word) (herr : x.inError = r.inError) (hw : r.lastPending = false → r.word + 1 < s.wordsOf ch r) :
    WaitOver s c ch die r after := by
  obtain ⟨v, hv, hrun, -⟩ := stepTo_over (last := r.lastPending) hr fun h => (wordsOf_lay hlay x hset).symm ▸ hw h
  rw [hword, hx] at hrun
  exact ⟨v, by rw [hexec, hv, herr], hrun⟩

section Waiting

variable {status : Byte} (hr : s.runOp ch die = some r) (hawake : s.awake ch = true) (hstopped : r.stopped = false)
include hr hawake hstopped

theorem exec_waitElapsed_time (hwait : r.waiting = .time) : exec (.waitElapsed ch die status) s =
    .next (noteReady (stepTo s ch die (r.word + 1) r.lastPending) ch) := by
  show execWaitElapsed ch die status s = _
  simp [execWaitElapsed, hr, hawake, hstopped, hwait]

theorem exec_waitElapsed_busy (hwait : r.waiting = .busy) : exec (.waitElapsed ch die status) s =
    .next (if s.busFree ch then takeStatus s ch die r status else modRun s ch die fun r => { r with waiting := .poll }) := by
  show execWaitElapsed ch die status s = _
  simp [execWaitElapsed, hr, hawake, hstopped, hwait]

omit hawake in
theorem exec_statusPoll_takes (hfree : s.busFree ch = true) (hwait : r.waiting = .poll) : exec (.statusPoll ch die status) s =
    .next (takeStatus s ch die r status) := by
  show execStatusPoll ch die status s = _
  simp [execStatusPoll, hr, hstopped, hfree, hwait]

/-- A status byte is due: after the BUSY time, or at a later poll. -/
theorem exec_takesStatus (hfree : s.busFree ch = true) (hc : (c = .waitElapsed ch die status ∧ r.waiting = .busy) ∨
    (c = .statusPoll ch die status ∧ r.waiting = .poll)) : exec c s = .next (takeStatus s ch die r status) := by
  obtain ⟨rfl, hwait⟩ | ⟨rfl, hwait⟩ := hc
  · rw [exec_waitElapsed_busy hr hawake hstopped hwait, if_pos hfree]
  · exact exec_statusPoll_takes hr hstopped hfree hwait

end Waiting

/-- The state in which a status byte has been read into FS. -/
def statusTaken (s : State) (ch die : Nat) (r : RunOp) (status : Byte) : State :=
  modRun (takeBus (s.modChan ch fun k => { k with
    bus := pollCycles (chanOr s ch) (r.target (chanOr s ch) die) r.pollByte r.pollLun ++ [.dataIn 1] }) ch die) ch die
    fun r => { r with fs := status, waiting := .poll }

theorem takeStatus_eq (status : Byte) : takeStatus s ch die r status =
    if status.getLsbD 6 then stepTo (statusTaken s ch die r status) ch die (r.word + 1) r.lastPending
      else freeBus (statusTaken s ch die r status) ch die := rfl

theorem statusTaken_runOp (h : s.runOp ch die = some r) (status : Byte) :
    (statusTaken s ch die r status).runOp ch die = some { r with fs := status, waiting := .poll } :=
  modRun_runOp (takeBus_runOp (setBus_leaves h _).1) _

/-! ### TEST, LOOP, NEXT and JUMP (R490, R494) -/

theorem exec_test (h : AtWord s ch die r) {mask : Byte} {sense : Bool} {target : Nat}
    (hw : s.wordAt ch r = some (.test mask sense target last)) : exec (.test ch die mask sense target last) s = .next
      (if ((if sense then ~~~r.fs else r.fs) &&& mask) ≠ 0 then
        if target = 0xFFF then seqFault (wordBegun s ch die) ch die 1 else branchTo (wordBegun s ch die) ch die target
      else stepTo (wordBegun s ch die) ch die (r.word + 1) last) :=
  congrArg Host.Outcome.next (onStep_at h hw _)

/-- A taken branch leaves the loops whose body does not hold its target. -/
theorem branchTo_eq (h : s.runOp ch die = some r) (target : Nat) : branchTo (wordBegun s ch die) ch die target =
    stepTo (modRun (wordBegun s ch die) ch die fun x => x.leaves (s.codeOf ch r) target) ch die target false := by
  simp only [branchTo, wordBegun_runOp h]
  rfl

theorem branchTo_goesTo (h : s.runOp ch die = some r) {target : Nat} (hw : target < s.wordsOf ch r)
    (hexec : exec c s = .next (branchTo (wordBegun s ch die) ch die target)) :
    GoesTo s c ch die (r.leaves (s.codeOf ch r) target) target := by
  rw [branchTo_eq h] at hexec
  exact goesTo_of_stepTo hexec (modRun_runOp (wordBegun_runOp h) _) rfl rfl hw

theorem exec_jump (h : AtWord s ch die r) {target : Nat} (hw : s.wordAt ch r = some (.jump target)) :
    exec (.jump ch die target) s = .next (branchTo (wordBegun s ch die) ch die target) :=
  congrArg Host.Outcome.next (onStep_at h hw _)

theorem exec_loop (h : AtWord s ch die r) {src : LoopSrc} (hw : s.wordAt ch r = some (.loop src)) :
    exec (.loop ch die src) s = .next
      (if loopCount s ch r src = 0 then
        stepTo (wordBegun s ch die) ch die (afterNext (s.codeOf ch r) (s.codeOf ch r).length (r.word + 1) 0) false
      else stepTo (modRun (wordBegun s ch die) ch die fun x => { x with loops := ⟨x.word, loopCount s ch r src, 0, src⟩ :: x.loops })
        ch die (r.word + 1) false) := by
  have hcount : loopCount (wordBegun s ch die) ch r.atIt src = loopCount s ch r src := by cases src <;> rfl
  rw [← hcount]
  exact congrArg Host.Outcome.next (onStep_at h hw _)

theorem exec_next (h : AtWord s ch die r) (hw : s.wordAt ch r = some .next) :
    exec (.next ch die) s = .next (match r.loops with
      | [] => stepTo (wordBegun s ch die) ch die (r.word + 1) false
      | l :: rest =>
        if l.index + 1 < l.count then
          stepTo (modRun (wordBegun s ch die) ch die fun x => { x with loops := { l with index := l.index + 1 } :: rest }) ch die
            (l.word + 1) false
        else stepTo (modRun (wordBegun s ch die) ch die fun x => { x with loops := rest }) ch die (r.word + 1) false) :=
  congrArg Host.Outcome.next (onStep_at h hw _)

/-! ### SETV and MODE (R496) -/

theorem exec_setv (h : AtWord s ch die r) {k : Nat} {high : Bool} {value : BitVec 16}
    (hw : s.wordAt ch r = some (.setv k high value last)) : exec (.setv ch die k high value last) s =
      .next (stepTo (modRun (wordBegun s ch die) ch die fun x => { x with v := x.v.set k (w32 (if high then
        value.toNat * 65536 + (r.v.getD k 0).toNat % 65536 else (r.v.getD k 0).toNat / 65536 * 65536 + value.toNat)) })
        ch die (r.word + 1) last) :=
  congrArg Host.Outcome.next (onStep_at h hw _)

/-- A MODE word has set the die's interface, and the abort window is open. -/
def modeSet (s : State) (ch die : Nat) (iface : IfaceKind) (tmode : Nat) : State :=
  modRun ((wordBegun s ch die).modChan ch fun k =>
    { k.modDie die (fun x => { x with iface := ifaceCode iface, tmode := tmode }) with bus := [] }) ch die fun r => { r with sinceMode := 3 }

theorem exec_mode (h : AtWord s ch die r) {iface : IfaceKind} {tmode : Nat} (hw : s.wordAt ch r = some (.mode iface tmode last)) :
    exec (.mode ch die iface tmode last) s = .next (stepTo (modeSet s ch die iface tmode) ch die (r.word + 1) last) :=
  congrArg Host.Outcome.next (onStep_at h hw _)

theorem modeSet_leaves (h : s.runOp ch die = some r) (iface : IfaceKind) (tmode : Nat) :
    (modeSet s ch die iface tmode).runOp ch die = some { r.atIt with sinceMode := 3 } ∧
      (((modeSet s ch die iface tmode).chan ch).dieAt die).iface = ifaceCode iface ∧
      (((modeSet s ch die iface tmode).chan ch).dieAt die).tmode = tmode := by
  have hrun := wordBegun_runOp h
  obtain ⟨hch, hdie⟩ := runOp_lt hrun
  have hchan := State.modChan_chan (wordBegun s ch die) ch (fun k : ChanState =>
    { k.modDie die (fun x => { x with iface := ifaceCode iface, tmode := tmode }) with bus := [] }) hch
  have hmode := ChanState.modDie_dieAt _ _ (fun x => { x with iface := ifaceCode iface, tmode := tmode }) hdie
  have hset : ((wordBegun s ch die).modChan ch fun k : ChanState =>
      { k.modDie die (fun x => { x with iface := ifaceCode iface, tmode := tmode }) with bus := [] }).runOp ch die = some r.atIt := by
    rw [State.runOp, hchan]
    exact (congrArg DieState.run hmode).trans hrun
  have hstays := modRun_phaseStays hset fun r => { r with sinceMode := 3 }
  refine ⟨modRun_runOp hset _, hstays.iface.trans ?_, hstays.tmode.trans ?_⟩ <;> rw [hchan]
  · exact congrArg DieState.iface hmode
  · exact congrArg DieState.tmode hmode

/-! ### Faults (R491, R495) -/

/-- A fault outside an abort window, with an error branch that ENTER named, goes there. -/
theorem seqFault_branches {kind : Nat} (hr : u.runOp ch die = some x) (hin : x.inError = false) (hmode : x.sinceMode = 0)
    (herr : x.err ≠ 0xFFF) :
    (seqFault u ch die kind).runOp ch die = some { x with inError := true, loops := [], word := x.err } ∧
      ((seqFault u ch die kind).chan ch).faultStep = x.last ∧ ((seqFault u ch die kind).chan ch).faultKind = kind ∧
      ((seqFault u ch die kind).chan ch).faultDie = die ∧ ((seqFault u ch die kind).chan ch).faultEntry = x.entry := by
  have hnone : ¬ 0 < x.sinceMode := by omega
  simp only [seqFault, hr, hin, Bool.false_eq_true, if_false, if_neg hnone, if_neg herr]
  split
  all_goals
    refine ⟨modRun_runOp (modChan_runOp ?_ hr) _, ?_⟩
    · exact fun _ => rfl
    · rw [modRun_chan (modChan_runOp (by exact fun _ => rfl) hr), State.modChan_chan _ _ _ (runOp_lt hr).1]
      exact ⟨rfl, rfl, rfl, rfl⟩

end RecipeWords

/-- Settles O1: each of the five words notes its phase, and its step completes. -/
theorem recipeBusWords : Obligations.RecipeBusWords := by
  intro s ch die r last h hlast
  have hphase := wordBegun_notePhase h.runOp
  refine ⟨fun b busy hw => ?_, fun notLast lastB level none_ wait waitLast busy hw hwaits => ?_, fun kind hw => ?_, fun src hw => ?_,
    fun dst colSel hw => ?_⟩
  · exact wordRuns_of_stepTo (exec_cmd h hw) (hphase _ _).1 rfl rfl rfl rfl (hphase _ _).2 hlast
  · refine wordRuns_of_stepTo ((exec_cmdl h hw).trans ?_) (hphase (cmdlCycles r notLast lastB level none_) false).1 rfl rfl rfl rfl
      (hphase _ _).2 hlast
    rw [hwaits]
    rfl
  · exact wordRuns_of_stepTo (exec_addr h hw) (hphase _ _).1 rfl rfl rfl rfl (hphase _ _).2 hlast
  · exact wordRuns_of_stepTo (exec_dout h hw) (hphase _ _).1 rfl rfl rfl rfl (hphase _ _).2 hlast
  · have hruns := din_wordRuns h hlast hw
    cases dst <;> exact hruns

/-- Settles O2: the words that wait leave the wait that R492 names, and the end of a wait completes its step. -/
theorem recipeWaitWords : Obligations.RecipeWaitWords := by
  intro s ch die r
  refine ⟨fun h => ⟨fun b busy last hw => ?_, fun notLast lastB level none_ wait waitLast busy last hw hwaits => ?_,
    fun byte busy lun last hw => ?_, fun n last hw => ?_⟩, fun hr hawake hstopped hw => ⟨fun status hwait => ?_,
    fun status hwait hfree => ?_, fun status c hfree hc => ⟨fun hbit => ?_, fun hbit => ?_⟩⟩⟩
  · obtain ⟨hrun, hbus⟩ := wordBegun_notePhase h.runOp [.cmd b] false
    obtain ⟨hpoll, hstays⟩ := beginPoll_leaves (last := last) (busy := busy) hrun
    exact ⟨_, exec_cmd h hw, hstays.trans hbus, hpoll⟩
  · obtain ⟨hrun, -⟩ := wordBegun_notePhase h.runOp (cmdlCycles r notLast lastB level none_) false
    exact ⟨_, (exec_cmdl h hw).trans (by rw [hwaits, if_pos rfl]), (beginPoll_leaves hrun).1⟩
  · exact ⟨_, exec_poll h hw, (beginPoll_leaves (setBus_leaves (wordBegun_runOp h.runOp) []).1).1⟩
  · obtain ⟨hrun, hbus⟩ := setBus_leaves (wordBegun_runOp h.runOp) [.wait (s.timing ch r n)]
    obtain ⟨hwaits, hstays⟩ := freeBus_modRun hrun fun r => { r with waiting := .time, lastPending := last }
    exact ⟨_, exec_wait h hw, hstays.trans hbus, hwaits⟩
  · exact waitOver_of_stepTo (after := fun u => noteReady u ch) (exec_waitElapsed_time hr hawake hstopped hwait) hr rfl rfl rfl rfl rfl hw
  · exact ⟨_, (exec_waitElapsed_busy hr hawake hstopped hwait).trans (by rw [hfree]), modRun_runOp hr _⟩
  · refine ⟨_, (exec_takesStatus hr hawake hstopped hfree hc).trans (by rw [takeStatus_eq, hbit]), ?_⟩
    exact (freeBus_leaves (statusTaken_runOp hr status)).1
  · exact waitOver_of_stepTo (after := id) ((exec_takesStatus hr hawake hstopped hfree hc).trans (by rw [takeStatus_eq, hbit]; rfl))
      (statusTaken_runOp hr status) rfl rfl rfl rfl rfl hw

/-- Settles O3: each of the words changes the operation in its own way, and its step completes where it goes. -/
theorem recipeControlWords : Obligations.RecipeControlWords := by
  intro s ch die r h
  have hrun := wordBegun_runOp h.runOp
  refine ⟨fun mask sense target last hw hsees hne htarget => ?_, fun mask sense last hw hsees hin hmode herr => ?_,
    fun mask sense target last hw hsees hlast => ?_, fun src hw hcount hnext => ?_, fun src rcp hw hrcp hcount hnext => ?_,
    fun l rest hw hloops hmore hnext => ?_, fun l rest hw hloops hend hnext => ?_, fun hw hloops hnext => ?_,
    fun target hw htarget => branchTo_goesTo h.runOp htarget (exec_jump h hw), fun k high value hw hnext => ?_,
    fun iface tmode hw hnext => ?_, fun k high value iface tmode => ⟨fun hw => ?_, fun hw => ?_⟩⟩
  · exact branchTo_goesTo h.runOp htarget ((exec_test h hw).trans (by rw [if_pos hsees, if_neg hne]))
  · obtain ⟨hfault, -, hkind, -⟩ := seqFault_branches (kind := 1) hrun hin hmode herr
    exact ⟨_, (exec_test h hw).trans (by rw [if_pos hsees, if_pos rfl]), hkind, hfault⟩
  · obtain ⟨v, hv, hvrun, -⟩ := stepTo_over (last := last) (next := r.word + 1) hrun hlast
    refine ⟨v, (exec_test h hw).trans ?_, hvrun⟩
    rw [if_neg (not_not.mpr hsees), hv]
    rfl
  · have hexec := exec_loop h hw
    rw [if_neg hcount] at hexec
    exact goesTo_of_stepTo hexec (modRun_runOp hrun _) rfl rfl hnext
  · have hcode : s.codeOf ch r = rcp.code := by rw [State.codeOf, hrcp]; rfl
    have hwords : s.wordsOf ch r = rcp.code.length := by rw [State.wordsOf, hrcp]; rfl
    have hexec := exec_loop h hw
    rw [if_pos hcount, hcode] at hexec
    exact goesTo_of_stepTo hexec hrun rfl rfl (hwords ▸ hnext)
  · have hexec := exec_next h hw
    simp only [hloops, if_pos hmore] at hexec
    exact goesTo_of_stepTo hexec (modRun_runOp hrun _) rfl rfl hnext
  · have hover : ¬ l.index + 1 < l.count := Nat.not_lt.mpr hend
    have hexec := exec_next h hw
    simp only [hloops, if_neg hover] at hexec
    exact goesTo_of_stepTo hexec (modRun_runOp hrun _) rfl rfl hnext
  · have hexec := exec_next h hw
    simp only [hloops] at hexec
    exact goesTo_of_stepTo hexec hrun rfl rfl hnext
  · exact goesTo_of_stepTo (exec_setv h hw) (modRun_runOp hrun _) rfl rfl hnext
  · obtain ⟨hset, hiface, htmode⟩ := modeSet_leaves h.runOp iface tmode
    obtain ⟨v, hv, hvrun, hstays⟩ := stepTo_over (last := false) (next := r.word + 1) hset fun _ => hnext
    exact ⟨v, (exec_mode h hw).trans (by rw [hv]; rfl), hvrun, hstays.iface.trans hiface, hstays.tmode.trans htmode⟩
  · obtain ⟨v, hv, -⟩ := stepTo_over (last := true) (next := r.word + 1) (modRun_runOp hrun _) Bool.noConfusion
    exact ⟨v, (exec_setv h hw).trans (by rw [hv]; rfl)⟩
  · obtain ⟨hset, -, htmode⟩ := modeSet_leaves h.runOp iface tmode
    obtain ⟨v, hv, -, hstays⟩ := stepTo_over (last := true) (next := r.word + 1) hset Bool.noConfusion
    exact ⟨v, (exec_mode h hw).trans (by rw [hv]; rfl), hstays.tmode.trans htmode⟩

end Sys2Proof.Machine
end

section
/-! What a recipe word leaves alone beside its own die, how an operation begins and ends, and the time-out (R487, R491, R493, R495);
O4 and O5. -/

namespace Sys2Proof.Machine

section OneDie

variable {s t u : State} {ch die : Nat} {r x : RunOp} {c : Instr} {next : Nat}

/-! ### Words that touch one die -/

/-- Two states differ in one die and its channel's own fields alone. -/
def OnlyDie (ch die : Nat) (s t : State) : Prop := OnlyChan ch s t ∧ ∀ d, d ≠ die → (t.chan ch).dieAt d = (s.chan ch).dieAt d

theorem OnlyDie.refl (s : State) : OnlyDie ch die s s := ⟨⟨rfl, fun _ _ => rfl⟩, fun _ _ => rfl⟩

theorem OnlyDie.trans (h : OnlyDie ch die s t) (h' : OnlyDie ch die t u) : OnlyDie ch die s u := by
  obtain ⟨⟨hrest, hchans⟩, hdies⟩ := h
  obtain ⟨⟨hrest', hchans'⟩, hdies'⟩ := h'
  refine ⟨⟨?_, fun k hk => (hchans' k hk).trans (hchans k hk)⟩, fun d hd => (hdies' d hd).trans (hdies d hd)⟩
  have hback := congrArg (fun v : State => { v with chans := s.chans, free := s.free }) hrest'
  exact hback.trans hrest

theorem onlyDie_modChan {f : ChanState → ChanState} (hf : ∀ k d, d ≠ die → (f k).dieAt d = k.dieAt d) :
    OnlyDie ch die s (s.modChan ch f) := by
  refine ⟨⟨rfl, fun k hk => State.modChan_chan_ne s ch f k hk.symm⟩, fun d hd => ?_⟩
  by_cases hch : ch < s.chans.length
  · rw [State.modChan_chan s ch f hch, hf _ _ hd]
  · have hsame : s.modChan ch f = s := by
      rw [State.modChan, List.modify_eq_self (Nat.not_lt.mp hch)]
    rw [hsame]

theorem onlyDie_modRun (f : RunOp → RunOp) : OnlyDie ch die s (modRun s ch die f) :=
  onlyDie_modChan fun k d hd => ChanState.modDie_dieAt_ne k die _ d hd.symm

theorem onlyDie_takeBus : OnlyDie ch die s (takeBus s ch die) := onlyDie_modChan fun _ _ _ => rfl

theorem onlyDie_wordBegun : OnlyDie ch die s (wordBegun s ch die) := onlyDie_takeBus.trans (onlyDie_modRun _)

theorem onlyDie_notePhase (bus : List BusCycle) (transfer : Bool) : OnlyDie ch die s (notePhase s ch die bus transfer) :=
  onlyDie_modChan fun _ _ _ => rfl

theorem onlyDie_freeBus : OnlyDie ch die s (freeBus s ch die) := by
  refine OnlyDie.trans (onlyDie_modChan fun k d _ => ?_) (onlyDie_modChan fun _ _ _ => rfl)
  split <;> rfl

theorem onlyDie_beginPoll {busy : Nat} {byte : Byte} {lun last : Bool} : OnlyDie ch die s (beginPoll s ch die busy byte lun last) :=
  (onlyDie_modRun _).trans onlyDie_freeBus

/-- A step that completes at a word inside the recipe. -/
theorem onlyDie_stepTo (hr : u.runOp ch die = some x) (hw : next < u.wordsOf ch x) : OnlyDie ch die u (stepTo u ch die next false) := by
  rw [stepTo_next hr next hw]
  exact (onlyDie_modRun _).trans (onlyDie_modRun _)

/-- A word that is not the one its recipe holds has no effect, so what holds of the one it holds holds of every word. -/
theorem onlyDie_of_word {w : RecWord} (h : AtWord s ch die r) (hexec : exec c s = .next t)
    (hc : ∃ f, exec c s = .next (onStep s ch die w f))
    (hact : s.wordAt ch r = some w → exec c s = .next u) (hu : OnlyDie ch die (wordBegun s ch die) u) : OnlyDie ch die s t := by
  by_cases hw : s.wordAt ch r = some w
  · rw [hact hw] at hexec
    obtain rfl := Host.Outcome.next.inj hexec
    exact onlyDie_wordBegun.trans hu
  · obtain ⟨f, hf⟩ := hc
    obtain ⟨hrun, -⟩ := h
    have hidle : onStep s ch die w f = s := by simp only [onStep, hrun, hw, and_false, if_false]
    rw [hf, hidle] at hexec
    obtain rfl := Host.Outcome.next.inj hexec
    exact .refl s

/-- After what a word did first, its step completes. -/
theorem OnlyDie.step (h : OnlyDie ch die s u) (hr : u.runOp ch die = some x) (hw : next < u.wordsOf ch x) :
    OnlyDie ch die s (stepTo u ch die next false) := h.trans (onlyDie_stepTo hr hw)

/-- What a word changed in its operation before its step completes. -/
theorem step_modRun (hu : OnlyDie ch die s u) (hr : u.runOp ch die = some r.atIt) (hlay : u.lay = s.lay) {f : RunOp → RunOp}
    (hf : ∀ y : RunOp, (f y).oldSet = y.oldSet) (hnext : next < s.wordsOf ch r) :
    OnlyDie ch die s (stepTo (modRun u ch die f) ch die next false) := by
  refine (hu.trans (onlyDie_modRun f)).step (modRun_runOp hr f) ?_
  have hset : (f r.atIt).oldSet = r.oldSet := hf r.atIt
  rwa [wordsOf_lay (r := r) (show (modRun u ch die f).lay = s.lay from hlay) _ hset]

section Words

variable (h : AtWord s ch die r)
include h

theorem branchTo_onlyDie {target : Nat} (hw : target < s.wordsOf ch r) :
    OnlyDie ch die (wordBegun s ch die) (branchTo (wordBegun s ch die) ch die target) := by
  rw [branchTo_eq h.runOp]
  exact (onlyDie_modRun _).step (modRun_runOp (wordBegun_runOp h.runOp) _) hw

theorem jump_onlyDie {target : Nat} (hw : target < s.wordsOf ch r) (hexec : exec (.jump ch die target) s = .next t) :
    OnlyDie ch die s t :=
  onlyDie_of_word h hexec ⟨_, rfl⟩ (exec_jump h) (branchTo_onlyDie h hw)

theorem poll_onlyDie {b : Byte} {busy : Nat} {lun : Bool} (hexec : exec (.poll ch die b busy lun false) s = .next t) :
    OnlyDie ch die s t := by
  refine onlyDie_of_word h hexec ⟨_, rfl⟩ (exec_poll h) (OnlyDie.trans ?_ onlyDie_beginPoll)
  exact onlyDie_modChan fun _ _ _ => rfl

theorem wait_onlyDie {n : Nat} (hexec : exec (.wait ch die n false) s = .next t) : OnlyDie ch die s t := by
  refine onlyDie_of_word h hexec ⟨_, rfl⟩ (exec_wait h) (OnlyDie.trans (OnlyDie.trans ?_ (onlyDie_modRun _)) onlyDie_freeBus)
  exact onlyDie_modChan fun _ _ _ => rfl

variable (hnext : r.word + 1 < s.wordsOf ch r)
include hnext

/-- The step after a word that put cycles on the bus. -/
theorem step_notePhase (bus : List BusCycle) (transfer : Bool) : OnlyDie ch die (wordBegun s ch die)
    (stepTo (notePhase (wordBegun s ch die) ch die bus transfer) ch die (r.word + 1) false) :=
  (onlyDie_notePhase bus transfer).step (wordBegun_notePhase h.runOp bus transfer).1 hnext

/-- The waiting and the plain form of CMD and CMDL. -/
theorem cmdForm_onlyDie (waits : Bool) (bus : List BusCycle) (busy : Nat) (byte : Byte) (lun : Bool) :
    OnlyDie ch die (wordBegun s ch die)
      (if waits then beginPoll (notePhase (wordBegun s ch die) ch die bus false) ch die busy byte lun false
        else stepTo (notePhase (wordBegun s ch die) ch die bus false) ch die (r.word + 1) false) := by
  split
  · exact (onlyDie_notePhase _ _).trans onlyDie_beginPoll
  · exact step_notePhase h hnext _ _

theorem cmd_onlyDie {b : Byte} {wait : Bool} {busy : Nat} (hexec : exec (.cmd ch die b wait busy false) s = .next t) :
    OnlyDie ch die s t :=
  onlyDie_of_word h hexec ⟨_, rfl⟩ (exec_cmd h) (cmdForm_onlyDie h hnext _ _ _ _ _)

theorem cmdl_onlyDie {a b : Byte} {l busy : Nat} {n w wl : Bool} (hexec : exec (.cmdl ch die a b l n w wl busy false) s = .next t) :
    OnlyDie ch die s t :=
  onlyDie_of_word h hexec ⟨_, rfl⟩ (exec_cmdl h) (cmdForm_onlyDie h hnext _ _ _ _ _)

theorem addr_onlyDie {k : AddrKind} (hexec : exec (.addr ch die k false) s = .next t) : OnlyDie ch die s t :=
  onlyDie_of_word h hexec ⟨_, rfl⟩ (exec_addr h) (step_notePhase h hnext _ _)

theorem dout_onlyDie {src : DoutSrc} (hexec : exec (.dout ch die src false) s = .next t) : OnlyDie ch die s t :=
  onlyDie_of_word h hexec ⟨_, rfl⟩ (exec_dout h) (step_notePhase h hnext _ _)

theorem din_onlyDie {dst : DinDst} {colSel : Bool} (hexec : exec (.din ch die dst colSel false) s = .next t) : OnlyDie ch die s t :=
  onlyDie_of_word h hexec ⟨_, rfl⟩ (exec_din h)
    (step_modRun (onlyDie_notePhase _ _) (wordBegun_notePhase h.runOp _ _).1 rfl (fun _ => by cases dst <;> rfl) hnext)

theorem setv_onlyDie {k : Nat} {high : Bool} {value : BitVec 16} (hexec : exec (.setv ch die k high value false) s = .next t) :
    OnlyDie ch die s t :=
  onlyDie_of_word h hexec ⟨_, rfl⟩ (exec_setv h)
    (step_modRun (.refl _) (wordBegun_runOp h.runOp) rfl (fun _ => rfl) hnext)

theorem test_onlyDie {mask : Byte} {sense : Bool} {target : Nat} (hw : target < s.wordsOf ch r) (hne : target ≠ 0xFFF)
    (hexec : exec (.test ch die mask sense target false) s = .next t) : OnlyDie ch die s t := by
  refine onlyDie_of_word h hexec ⟨_, rfl⟩ (exec_test h) ?_
  rw [if_neg hne]
  by_cases hbits : ((if sense then ~~~r.fs else r.fs) &&& mask) ≠ 0
  · rw [if_pos hbits]
    exact branchTo_onlyDie h hw
  · rw [if_neg hbits]
    exact onlyDie_stepTo (wordBegun_runOp h.runOp) hnext

theorem loop_onlyDie {src : LoopSrc}
    (hzero : loopCount s ch r src = 0 → afterNext (s.codeOf ch r) (s.codeOf ch r).length (r.word + 1) 0 < s.wordsOf ch r)
    (hexec : exec (.loop ch die src) s = .next t) : OnlyDie ch die s t := by
  refine onlyDie_of_word h hexec ⟨_, rfl⟩ (exec_loop h) ?_
  split
  next hcount => exact onlyDie_stepTo (wordBegun_runOp h.runOp) (hzero hcount)
  next => exact step_modRun (.refl _) (wordBegun_runOp h.runOp) rfl (fun _ => rfl) hnext

theorem next_onlyDie (hloops : ∀ l ∈ r.loops, l.word + 1 < s.wordsOf ch r) (hexec : exec (.next ch die) s = .next t) :
    OnlyDie ch die s t := by
  refine onlyDie_of_word h hexec ⟨_, rfl⟩ (exec_next h) ?_
  have hrun := wordBegun_runOp h.runOp
  cases hl : r.loops with
  | nil => exact onlyDie_stepTo hrun hnext
  | cons l rest =>
    dsimp only
    split
    · exact step_modRun (.refl _) hrun rfl (fun _ => rfl) (hloops l (by simp [hl]))
    · exact step_modRun (.refl _) hrun rfl (fun _ => rfl) hnext

theorem mode_onlyDie {iface : IfaceKind} {tmode : Nat} (hexec : exec (.mode ch die iface tmode false) s = .next t) :
    OnlyDie ch die s t := by
  refine onlyDie_of_word h hexec ⟨_, rfl⟩ (exec_mode h) ?_
  have hset : OnlyDie ch die (wordBegun s ch die) (modeSet s ch die iface tmode) := by
    refine OnlyDie.trans ?_ (onlyDie_modRun _)
    exact onlyDie_modChan fun k d hd => ChanState.modDie_dieAt_ne k die _ d hd.symm
  exact hset.step (modeSet_leaves h.runOp iface tmode).1 hnext

end Words

end OneDie

/-- Settles O5: each word changes one die and its channel's own fields, and the step that completes it does no more. -/
theorem recipeWordsTouchOneChannel : Obligations.RecipeWordsTouchOneChannel := by
  intro s ch die r h hnext c t hc hexec
  rcases hc with ⟨b, w, busy, rfl⟩ | ⟨k, rfl⟩ | ⟨src, rfl⟩ | ⟨d, cs, rfl⟩ | ⟨n, rfl⟩ | ⟨b, busy, l, rfl⟩ | ⟨n, hw, rfl⟩ |
    ⟨k, hi, v, rfl⟩ | ⟨i, m, rfl⟩ | ⟨a, b, l, n, w, wl, busy, rfl⟩ | ⟨m, se, n, hw, hne, rfl⟩ | ⟨src, hzero, rfl⟩ | ⟨hloops, rfl⟩
  · exact cmd_onlyDie h hnext hexec
  · exact addr_onlyDie h hnext hexec
  · exact dout_onlyDie h hnext hexec
  · exact din_onlyDie h hnext hexec
  · exact wait_onlyDie h hexec
  · exact poll_onlyDie h hexec
  · exact jump_onlyDie h hw hexec
  · exact setv_onlyDie h hnext hexec
  · exact mode_onlyDie h hnext hexec
  · exact cmdl_onlyDie h hnext hexec
  · exact test_onlyDie h hnext hw hne hexec
  · exact loop_onlyDie h hnext hzero hexec
  · exact next_onlyDie h hnext hloops hexec

end Sys2Proof.Machine
end

section
/-! How an operation begins and ends: ENTER, FAIL, END and the time-out (R487, R491, R493, R495); O4. -/

namespace Sys2Proof.Machine

section Begins

variable {s u : State} {ch die : Nat} {r x : RunOp} {c : Instr} {next tmo err w : Nat}

/-! ### ENTER (R487, R490) -/

/-- The state in which the operation that ENTER starts stands at its entry point. -/
def entered (s : State) (ch die : Nat) (run : RunOp) (x : DieState) : State :=
  noteBegun (takeBus ((if run.kind = .zq then s.modChan ch fun k => { k with zqRanks := k.zqRanks + 1 } else s).modChan ch fun k =>
    { (notePace k run.ops).modDie die (fun _ => { x with run := some run }) with bus := [] }) ch die) ch run

/-- The operation that ENTER starts, at its entry point. -/
def RunOp.begun (r : RunOp) (w tmo err : Nat) (old : Bool) : RunOp :=
  { r with entered := true, word := w, last := w, tmo := tmo, err := err, oldSet := old }

theorem exec_enter {rcp own : RecipeCfg} {run : RunOp} {x : DieState} (hbus : s.busFor ch die = true ∨ s.suspendFor ch die = true)
    (hrcp : s.recipeOf ch false = some rcp) (hop : nextOperation s ch die rcp = some (run, x))
    (hown : s.recipeOf ch (run.underOld x) = some own) (hentry : own.entry? run.entry = some w)
    (hword : (own.code[w]?).bind decodeWord = some (.enter tmo err)) : exec (.enter ch die tmo err) s =
      .next (stepTo (entered s ch die (run.begun w tmo err (run.underOld x)) x) ch die (w + 1) false) := by
  have hserved : ¬ ((!s.busFor ch die && !s.suspendFor ch die) = true) := by
    obtain h | h := hbus <;> simp [h]
  have hset : (if run.underOld x then s.recipeOf ch true else some rcp) = some own := by
    cases hold : run.underOld x with
    | true => rw [if_pos rfl, ← hown, hold]
    | false => rw [if_neg Bool.false_ne_true, ← hrcp, ← hold, hown]
  show execEnter ch die tmo err s = _
  have hat : ((if run.underOld x then s.recipeOf ch true else some rcp).bind fun r => (r.entry? run.entry).bind fun w =>
      if (r.code[w]?).bind decodeWord = some (.enter tmo err) then some w else none) = some w := by
    rw [hset, Option.bind_some, hentry, Option.bind_some, if_pos hword]
  simp only [execEnter, if_neg hserved, hrcp, hop]
  exact congrArg Host.Outcome.next (congrArg (fun o : Option Nat => (match o with
    | none => s
    | some w => stepTo (entered s ch die (run.begun w tmo err (run.underOld x)) x) ch die (w + 1) false)) hat)

theorem notePace_dies (k : ChanState) (ops : List DieOp) : (notePace k ops).dies = k.dies := by
  simp only [notePace]
  split_ifs <;> rfl

theorem noteBegun_chan (c : Nat) : (noteBegun s c r).chan ch = s.chan ch := by
  unfold noteBegun
  split
  · split <;> rfl
  · rfl

theorem noteBegun_lay (c : Nat) : (noteBegun s c r).lay = s.lay := by
  unfold noteBegun
  split
  · split <;> rfl
  · rfl

/-- The operation stands on its die, whose queue is what the choice left. -/
theorem entered_die {x : DieState} (hch : ch < s.chans.length) (hdie : die < (s.chan ch).dies.length) :
    ((entered s ch die r x).chan ch).dieAt die = { x with run := some r } := by
  have hzq : ∀ v : State, ch < v.chans.length → die < (v.chan ch).dies.length →
      (((takeBus (v.modChan ch fun k => { (notePace k r.ops).modDie die (fun _ => { x with run := some r }) with bus := [] })
        ch die).chan ch).dieAt die) = { x with run := some r } := by
    intro v hv hd
    rw [takeBus, State.modChan_chan _ _ _ (by simpa using hv), State.modChan_chan _ _ _ hv]
    exact ChanState.modDie_dieAt _ _ _ (by rwa [notePace_dies])
  rw [entered, noteBegun_chan]
  split
  · refine hzq _ (by simpa using hch) ?_
    rwa [State.modChan_chan _ _ _ hch]
  · exact hzq _ hch hdie

theorem entered_lay {x : DieState} : (entered s ch die r x).lay = s.lay := by
  rw [entered, noteBegun_lay]
  split <;> rfl

/-- A step that completes leaves the die's queue alone. -/
theorem stepTo_queue (hr : u.runOp ch die = some x) (hw : next < u.wordsOf ch x) :
    (((stepTo u ch die next false).chan ch).dieAt die).queue = ((u.chan ch).dieAt die).queue := by
  have hqueue : ∀ {v : State} {y : RunOp} (f : RunOp → RunOp), v.runOp ch die = some y →
      (((modRun v ch die f).chan ch).dieAt die).queue = ((v.chan ch).dieAt die).queue := by
    intro v y f hv
    rw [modRun_chan hv, ChanState.modDie_dieAt _ _ _ (runOp_lt hv).2]
  rw [stepTo_next hr next hw, hqueue _ (modRun_runOp hr _), hqueue _ hr]

/-! ### The end of an operation (R491) -/

/-- Changing what of a channel is not in a die leaves the die alone, also on a channel that is not there. -/
theorem modChan_dieAt {f : ChanState → ChanState} {d : Nat} (hf : ∀ k, (f k).dieAt d = k.dieAt d) :
    ((s.modChan ch f).chan ch).dieAt d = (s.chan ch).dieAt d := by
  by_cases hch : ch < s.chans.length
  · rw [State.modChan_chan s ch f hch, hf]
  · rw [State.modChan, List.modify_eq_self (Nat.not_lt.mp hch)]

theorem freeBus_dieAt {d : Nat} : ((freeBus s ch die).chan ch).dieAt d = (s.chan ch).dieAt d := by
  refine (modChan_dieAt (s := s.modChan ch _) ?_).trans (modChan_dieAt ?_)
  · exact fun _ => rfl
  · intro k
    split <;> rfl

/-- A channel that takes no new recipe keeps what its dies have loaded. -/
theorem settleRecipe_settled (h : ¬ s.lay.recipePend.contains ch) : settleRecipe s ch = s :=
  if_neg fun hpend => h hpend.1

/-- A read-retry load that ends leaves its step loaded on its die. -/
theorem endOp_retrySet (hr : s.runOp ch die = some r) (hkind : r.kind = .retrySet) (hpend : ¬ s.lay.recipePend.contains ch) :
    ((endOp s ch die true).chan ch).dieAt die =
      { (s.chan ch).dieAt die with run := none, step := some r.retryStep, delta := r.retryDelta } := by
  obtain ⟨hch, hdie⟩ := runOp_lt hr
  simp only [endOp, hr, hkind, if_true]
  rw [freeBus_dieAt, settleRecipe_settled (by exact hpend), State.modChan_chan _ _ _ (by simpa using hch), State.modChan_chan _ _ _ hch,
    ChanState.modDie_dieAt _ _ _ (by simpa [ChanState.modDie] using hdie), ChanState.modDie_dieAt _ _ _ hdie]

/-! ### The time-out (R493) -/

theorem recipeFence_faulted (word : Nat) :
    if s.member = .z1 then Faulted s (recipeFence s ch word) 0x00B0 6 0 false else Faulted s (recipeFence s ch word) 0x00B0 2 ch false := by
  simp only [recipeFence, channelFault]
  split
  · exact enterScope_faulted (code := 6)
  · exact enterScope_faulted (code := 2)

end Begins

/-- Settles O4: ENTER places the chosen operation and its step completes, FAIL is a fault, END ends, and the time-out is a fault of
its channel. -/
theorem recipeBeginsAndEnds : Obligations.RecipeBeginsAndEnds := by
  intro s ch die
  refine ⟨fun tmo err rcp run x own w hch hdie hbus hrcp hop hown hentry hword hnext => ?_, fun r h => ⟨?_, ?_, ?_, ?_⟩,
    fun r hr hawake hentered hstopped => ?_⟩
  · have hat := entered_die (s := s) (r := run.begun w tmo err (run.underOld x)) (x := x) hch hdie
    have hrun : (entered s ch die (run.begun w tmo err (run.underOld x)) x).runOp ch die =
        some (run.begun w tmo err (run.underOld x)) := congrArg DieState.run hat
    have hwords : w + 1 < (entered s ch die (run.begun w tmo err (run.underOld x)) x).wordsOf ch
        (run.begun w tmo err (run.underOld x)) := by
      rw [wordsOf_congr entered_lay]
      simpa [State.wordsOf, RunOp.begun, hown] using hnext
    refine ⟨_, exec_enter hbus hrcp hop hown hentry hword, stepTo_runOp hrun hwords, ?_⟩
    rw [stepTo_queue hrun hwords, hat]
  · intro hw hin hmode herr
    exact ⟨_, congrArg Host.Outcome.next (onStep_at h hw _), seqFault_branches (wordBegun_runOp h.runOp) hin hmode herr⟩
  · intro hw hin
    have hfault : seqFault (wordBegun s ch die) ch die 2 = endOp (wordBegun s ch die) ch die false := by
      simp only [seqFault, wordBegun_runOp h.runOp, show r.atIt.inError = true from hin, if_true]
    exact ⟨_, congrArg Host.Outcome.next ((onStep_at h hw _).trans hfault), wordBegun_runOp h.runOp⟩
  · intro hw
    exact ⟨_, congrArg Host.Outcome.next (onStep_at h hw _), wordBegun_runOp h.runOp⟩
  · intro hw hkind hin hpend
    have hend := endOp_retrySet (wordBegun_runOp h.runOp) hkind hpend
    rw [← show (!r.inError) = true by rw [hin]; rfl] at hend
    exact ⟨_, congrArg Host.Outcome.next (onStep_at h hw _), congrArg DieState.run hend, congrArg DieState.step hend,
      congrArg DieState.delta hend⟩
  · refine ⟨_, ?_, recipeFence_faulted r.last⟩
    show execRecipeTimeout ch die s = _
    simp [execRecipeTimeout, hr, hawake, hentered, hstopped]

end Sys2Proof.Machine
end

section
/-! A fix point recorded, and the end of a Field's replay (R454, R460, R462, R464, R466); O20. -/

namespace Sys2Proof.Machine

section Recovery

variable {s u v : State} {f : Nat}

/-! ### What the manager's environment reads -/

/-- A state that differs from another in its Fields, and in what serving an access, a ticket and a structure's write change; the
next order number and each bank's role stay. -/
structure OnlyServed (s v : State) : Prop where
  rest : v = { s with fields := v.fields, arb := v.arb, grn := v.grn, banks := v.banks, bankBad := v.bankBad, free := v.free }
  ordNext : v.arb.ordNext = s.arb.ordNext
  roles : v.banks.map (fun b => (b.role, b.field)) = s.banks.map (fun b => (b.role, b.field))

theorem OnlyServed.refl (s : State) : OnlyServed s s := ⟨rfl, rfl, rfl⟩

theorem OnlyServed.trans (h : OnlyServed s u) (h' : OnlyServed u v) : OnlyServed s v := by
  refine ⟨?_, h'.ordNext.trans h.ordNext, h'.roles.trans h.roles⟩
  have hv := h'.rest
  rw [h.rest] at hv
  exact hv

theorem OnlyServed.frame (h : OnlyServed s v) :
    { v with fields := s.fields, arb := s.arb, grn := s.grn, banks := s.banks, bankBad := s.bankBad, free := s.free } = s := by
  rw [h.rest]

theorem onlyServed_modField (n : Nat) (g : FieldState → FieldState) : OnlyServed s (s.modField n g) := ⟨rfl, rfl, rfl⟩

theorem OnlyServed.modField (h : OnlyServed s v) (n : Nat) (g : FieldState → FieldState) :
    OnlyServed (s.modField n g) (v.modField n g) := by
  refine ⟨?_, h.ordNext, h.roles⟩
  rw [h.rest]
  rfl

theorem onlyServed_structWrite (n : Nat) : OnlyServed s (structWrite s n) := ⟨rfl, rfl, rfl⟩

theorem onlyServed_drawTicket {k id : Nat} (h : drawTicket s k = some (id, v)) : OnlyServed s v := by
  obtain ⟨a, rfl, hord, -⟩ := drawTicket_eq h
  exact ⟨rfl, hord, rfl⟩

theorem onlyServed_noteGrant (g : Grant) : OnlyServed s (noteGrant s g) := ⟨rfl, rfl, rfl⟩

theorem onlyServed_releaseTicket (id : Nat) : OnlyServed s (releaseTicket s id) := ⟨rfl, rfl, rfl⟩

theorem onlyServed_portServe (id : Identity) (b word : Nat) (read : Bool) : OnlyServed s (portServe s id b word read) :=
  ⟨rfl, rfl, by exact map_modify_of_eq (read := fun b : BankState => (b.role, b.field)) (fun _ => by rfl) s.banks b⟩

theorem bankTransfer_served {id : Identity} {lo bytes : Nat} (h : (bankTransfer s id lo bytes .write).2 = true) :
    OnlyServed s (bankTransfer s id lo bytes .write).1 ∧ (bankTransfer s id lo bytes .write).1.fields = s.fields := by
  revert h
  unfold bankTransfer
  dsimp only
  split
  · exact fun h => absurd h Bool.false_ne_true
  · split
    · exact fun h => absurd h Bool.false_ne_true
    · exact fun _ => ⟨(onlyServed_portServe id _ _ _).trans ⟨rfl, rfl, rfl⟩, rfl⟩

/-- A transfer that the walls let through leaves the Fields alone. -/
theorem fieldTransfer_served {id : Identity} {role bytes : Nat} {island : Option Nat}
    (h : (fieldTransfer s id role f island bytes .write).2 = true) :
    OnlyServed s (fieldTransfer s id role f island bytes .write).1 ∧ (fieldTransfer s id role f island bytes .write).1.fields = s.fields := by
  revert h
  unfold fieldTransfer
  dsimp only
  split
  · exact fun _ => ⟨.refl s, rfl⟩
  · intro h
    obtain ⟨hserved, hfields⟩ := bankTransfer_served h
    exact ⟨OnlyServed.trans (u := s.drawNat.2) ⟨rfl, rfl, rfl⟩ hserved, hfields⟩

theorem OnlyServed.fenv (h : OnlyServed s v) : v.fenv f = s.fenv f := by
  have hcache : (v.banks.filter fun b => b.role == 2 && b.field == f).length = (s.banks.filter fun b => b.role == 2 && b.field == f).length := by
    have hcount (l : List BankState) : (l.filter fun b => b.role == 2 && b.field == f).length =
        (l.map fun b => (b.role, b.field)).countP fun x => x.1 == 2 && x.2 == f := by
      rw [List.countP_map, List.countP_eq_length_filter]
      rfl
    rw [hcount, hcount, h.roles]
  have hord := h.ordNext
  obtain ⟨hrest, -, -⟩ := h
  simp only [State.fenv, hcache, hord]
  rw [hrest]
  rfl

theorem OnlyServed.segments (h : OnlyServed s v) : v.segments f = s.segments f := by
  rw [h.rest]
  rfl

/-- A Field that replays is one the member has. -/
theorem replaying_lt (h : (s.field f).replaying = true) : f < s.fields.length := by
  by_contra hout
  rw [State.field, List.getD_eq_default _ _ (Nat.not_lt.mp hout)] at h
  exact absurd h (by decide)

/-- A Field with a fix point in progress is one the member has. -/
theorem fix_lt {run : FixRun} (h : (s.field f).fix = some run) : f < s.fields.length := by
  by_contra hout
  rw [State.field, List.getD_eq_default _ _ (Nat.not_lt.mp hout)] at h
  cases h

/-! ### A fix point is recorded (R454, R460) -/

/-- The contact-sheet entry of a fix point is written, and its ticket returns. -/
def fixRecorded (s : State) (f : Nat) (run : FixRun) : State :=
  match run.ticket with
  | some id => releaseTicket (structWrite (s.modField f fun fs => recordFix fs run) (0x300 + f)) id
  | none => structWrite (s.modField f fun fs => recordFix fs run) (0x300 + f)

theorem exec_fixPointRecorded {run : FixRun} (hfix : (s.field f).fix = some run) (hready : fixReady (s.field f) (s.fenv f) = true) :
    exec (.fixPointRecorded f) s = .next (runField (noteRekey (fixRecorded s f run) f) f) := by
  show execFixPointRecorded f s = _
  simp only [execFixPointRecorded, hfix, hready, Bool.not_true, Bool.false_eq_true, if_false]
  rfl

theorem fixRecorded_field (run : FixRun) (k : Nat) : (fixRecorded s f run).field k = (s.modField f fun fs => recordFix fs run).field k := by
  unfold fixRecorded
  split <;> rfl

theorem fixRecorded_returns {run : FixRun} {id : Nat} (h : run.ticket = some id) :
    ∀ x ∈ (fixRecorded s f run).arb.tickets, x.id ≠ id := by
  intro x hx
  simp only [fixRecorded, h, releaseTicket, List.mem_filter] at hx
  simpa using hx.2

/-! ### The end of a replay (R462, R464, R466) -/

theorem exec_fieldReplayDone {facts : ReplayFacts} (hreplay : (s.field f).replaying = true) (hwindow : s.stk.window = false) :
    exec (.fieldReplayDone f facts) s = .next (match usedEntry (s.field f) facts.badEntries with
      | none =>
        if (s.field f).sheet.isEmpty then
          if (fieldTransfer s idRecovery 2 f none 0x1000 .write).2 then
            recoverField (fieldTransfer s idRecovery 2 f none 0x1000 .write).1 f facts
          else (fieldTransfer s idRecovery 2 f none 0x1000 .write).1
        else execFieldReplayDone.unreadableField f s
      | some x =>
        if !facts.contactReadable then execFieldReplayDone.unreadableField f s
        else if (fieldTransfer s idRecovery 2 f none 0x1000 .write).2 then
          recoverField ((fieldTransfer s idRecovery 2 f none 0x1000 .write).1.modField f (fromEntry · x)) f facts
        else (fieldTransfer s idRecovery 2 f none 0x1000 .write).1) := by
  refine congrArg Host.Outcome.next (if_neg ?_)
  simp [hreplay, hwindow]

/-- The Field `f` of `v` is what `g` makes of it in `s`, in a state that only served accesses since. -/
structure FieldBecomes (s v : State) (f : Nat) (x : FieldState) : Prop where
  served : OnlyServed s v
  becomes : v.field f = x
  others : ∀ k, k ≠ f → v.field k = s.field k
  count : v.fields.length = s.fields.length

theorem OnlyServed.onField (h : OnlyServed s v) (hfields : v.fields = s.fields) (hf : f < s.fields.length)
    (g : FieldState → FEnv → FieldState) : FieldBecomes s (Machine.onField v f g) f (g (s.field f) (s.fenv f)) := by
  have hfield (k : Nat) : v.field k = s.field k := by simp only [State.field, hfields]
  refine ⟨h.trans (onlyServed_modField _ _), ?_, fun k hk => ?_, ?_⟩
  · rw [Machine.onField, State.modField_field _ _ _ (by rwa [hfields]), hfield, h.fenv]
  · rw [Machine.onField, State.modField_field_ne _ _ _ _ hk.symm, hfield]
  · rw [Machine.onField, State.modField_fields, List.length_modify, hfields]

/-- Two changes of a Field one after the other. -/
theorem FieldBecomes.trans {x y : FieldState} (h : FieldBecomes s u f x) (h' : FieldBecomes u v f y) : FieldBecomes s v f y :=
  ⟨h.served.trans h'.served, h'.becomes, fun k hk => (h'.others k hk).trans (h.others k hk), h'.count.trans h.count⟩

/-- What serves an access after the change leaves it. -/
theorem FieldBecomes.serve {x : FieldState} (h : FieldBecomes s u f x) (hserved : OnlyServed u v) (hfields : v.fields = u.fields) :
    FieldBecomes s v f x := by
  have hfield (k : Nat) : v.field k = u.field k := by simp only [State.field, hfields]
  exact ⟨h.served.trans hserved, (hfield f).trans h.becomes, fun k hk => (hfield k).trans (h.others k hk), by rw [hfields, h.count]⟩

/-- Stages 4 to 6 of a Field's recovery. -/
def replayed (s : State) (f : Nat) (facts : ReplayFacts) : State :=
  onField s f fun fs env => replayField fs env facts (fun n => (s.plot n).record.keyed) fun n => (s.plot n).eraseCut

/-- Stage 7's fix point, written. -/
def stage7Fix (segs : List (Nat × Nat)) (f : Nat) (s : State) : State :=
  structWrite (onField s f fun fs env => replayFix fs env segs s.wall.e) (0x300 + f)

/-- Stage 7 under the class-3 ticket of its fix point, where one is free. -/
def stage7 (r : State) (f : Nat) : State :=
  match drawTicket r 3 with
  | some (id, s) => releaseTicket (stage7Fix (r.segments f) f (noteGrant s ⟨fieldInput f, none, none, some id, .granted⟩)) id
  | none => stage7Fix (r.segments f) f r

/-- The exposed sets of fenced channels are due, and the Field replays no more. -/
def replayOver (s : State) (f : Nat) : State :=
  onField s f fun fs env => env.fenced.foldl markExposed { fs with replaying := false }

theorem recoverField_eq (facts : ReplayFacts) : recoverField s f facts =
    settleTasks (trimOwed (runField (updateHealth (updateHeadland (replayOver (stage7 (replayed s f facts) f) f) f) f) f) f) := rfl

theorem stage7Fix_becomes {r : State} (h : OnlyServed r v) (hfields : v.fields = r.fields) (hf : f < r.fields.length)
    (segs : List (Nat × Nat)) : FieldBecomes r (stage7Fix segs f v) f (replayFix (r.field f) (r.fenv f) segs r.wall.e) := by
  have hwall : v.wall = r.wall := by rw [h.rest]
  rw [← hwall]
  exact (h.onField hfields hf _).serve (onlyServed_structWrite _) rfl

theorem stage7_becomes {r : State} (hf : f < r.fields.length) :
    FieldBecomes r (stage7 r f) f (replayFix (r.field f) (r.fenv f) (r.segments f) r.wall.e) := by
  unfold stage7
  split
  next id v hdraw =>
    have hserved := (onlyServed_drawTicket hdraw).trans (onlyServed_noteGrant ⟨fieldInput f, none, none, some id, .granted⟩)
    obtain ⟨a, rfl, -⟩ := drawTicket_eq hdraw
    exact (stage7Fix_becomes hserved rfl hf _).serve (onlyServed_releaseTicket id) rfl
  next => exact stage7Fix_becomes (.refl r) rfl hf _

theorem replayOver_becomes {r : State} {x : FieldState} (h : FieldBecomes r v f x) (hf : f < r.fields.length) :
    FieldBecomes r (replayOver v f) f ((r.fenv f).fenced.foldl markExposed { x with replaying := false }) := by
  have hover := (OnlyServed.refl v).onField (f := f) rfl (by rwa [h.count]) fun fs env => env.fenced.foldl markExposed { fs with replaying := false }
  rw [h.becomes, h.served.fenv] at hover
  exact h.trans hover

/-- The stages see the same Field before and after the recovery engine's bank write. -/
theorem replayed_becomes {facts : ReplayFacts} {b : State} (h : OnlyServed b v) (hfields : v.fields = b.fields) (hf : f < b.fields.length) :
    FieldBecomes b (replayed v f facts) f ((replayed b f facts).field f) := by
  have hplots : v.plot = b.plot := by rw [h.rest]; rfl
  have hb : (replayed b f facts).field f = _ := ((OnlyServed.refl b).onField rfl hf _).becomes
  rw [hb, replayed, hplots]
  exact h.onField hfields hf _

theorem recovered_becomes {facts : ReplayFacts} {b : State} (h : OnlyServed b v) (hfields : v.fields = b.fields) (hf : f < b.fields.length) :
    FieldBecomes b (replayOver (stage7 (replayed v f facts) f) f) f (((replayed b f facts).fenv f).fenced.foldl markExposed
      { replayFix ((replayed b f facts).field f) ((replayed b f facts).fenv f) ((replayed b f facts).segments f) b.wall.e with
        replaying := false }) := by
  have hstages := replayed_becomes (facts := facts) h hfields hf
  have hlt : f < (replayed v f facts).fields.length := by rwa [hstages.count]
  have hover := hstages.trans (replayOver_becomes (stage7_becomes hlt) hlt)
  have hb : OnlyServed b (replayed b f facts) := onlyServed_modField _ _
  have hwall : (replayed v f facts).wall = b.wall := by rw [hstages.served.rest]
  rwa [hstages.becomes, hstages.served.fenv, hstages.served.segments, hwall, ← hb.fenv, ← hb.segments] at hover

end Recovery

/-- Settles O20: the entry is written and its ticket returns; the stages of a recovery change one Field, and serve accesses beside. -/
theorem fixPointsAndReplayEnd : Obligations.FixPointsAndReplayEnd := by
  intro s f
  refine ⟨fun hno => ?_, fun run hfix hready => ?_, fun facts hreplay => ?_, fun facts c hcfg hwide hwindow => ?_,
    fun facts hreplay hwindow => ⟨fun hbad => ?_, fun hgood => ⟨fun hrefused => ?_, fun hdone => ?_⟩⟩⟩
  · show execFixPointRecorded f s = _
    obtain hnone | hnot := hno
    · simp only [execFixPointRecorded, hnone]
    · cases hfix : (s.field f).fix with
      | none => simp only [execFixPointRecorded, hfix]
      | some run => simp only [execFixPointRecorded, hfix, hnot, Bool.not_false, if_true]
  · have hat : (fixRecorded s f run).field f = recordFix (s.field f) run := by
      rw [fixRecorded_field, State.modField_field _ _ _ (fix_lt hfix)]
    refine ⟨_, exec_fixPointRecorded hfix hready, ?_, ?_, ?_, ?_, ?_, ?_, fun id hid => fixRecorded_returns hid, fun k hk => ?_⟩
    · rw [hat]; rfl
    · rw [hat]; rfl
    · rw [hat]; rfl
    · rw [hat]; rfl
    · rw [hat]; rfl
    · rw [hat]; rfl
    · rw [fixRecorded_field, State.modField_field_ne _ _ _ _ hk.symm]
  · show execFieldReplayDone f facts s = _
    simp only [execFieldReplayDone, hreplay, Bool.not_false, true_or, if_true]
  · show execFieldReplayDone f facts s = _
    simp [execFieldReplayDone, hcfg, hwide, hwindow]
  · have hexec : exec (.fieldReplayDone f facts) s = .next (execFieldReplayDone.unreadableField f s) := by
      rw [exec_fieldReplayDone hreplay hwindow]
      obtain ⟨hnone, hsheet⟩ | ⟨hsome, hcontact⟩ := hbad
      · rw [hnone]
        simp only [List.isEmpty_iff, if_neg hsheet]
      · obtain ⟨x, hx⟩ := Option.ne_none_iff_exists'.mp hsome
        simp only [hx, hcontact, Bool.not_false, if_true]
    have hat := State.modField_field s f (fun fs => { fs with replaying := false, unreadable := true }) (replaying_lt hreplay)
    exact ⟨_, hexec, by rw [hat], by rw [hat], rfl⟩
  · rw [exec_fieldReplayDone hreplay hwindow]
    obtain ⟨hnone, hsheet⟩ | ⟨hsome, hcontact⟩ := hgood
    · rw [hnone]
      simp only [hsheet, List.isEmpty_nil, if_true, hrefused, Bool.false_eq_true, if_false]
    · obtain ⟨x, hx⟩ := Option.ne_none_iff_exists'.mp hsome
      simp only [hx, hcontact, Bool.not_true, Bool.false_eq_true, if_false, hrefused]
  · obtain ⟨hserved, hfields⟩ := fieldTransfer_served hdone
    have hlt := replaying_lt hreplay
    rw [exec_fieldReplayDone hreplay hwindow]
    obtain ⟨hnone, hsheet⟩ | ⟨hsome, hcontact⟩ := hgood
    · have hrec := recovered_becomes (facts := facts) hserved hfields hlt
      simp only [hnone, hsheet, List.isEmpty_nil, if_true, hdone, recoverField_eq]
      exact ⟨_, rfl, hrec.becomes, hrec.others, hrec.served.frame⟩
    · obtain ⟨x, hx⟩ := Option.ne_none_iff_exists'.mp hsome
      have hfrom : OnlyServed (s.modField f (fromEntry · x))
          ((fieldTransfer s idRecovery 2 f none 0x1000 .write).1.modField f (fromEntry · x)) := hserved.modField f _
      have hrec := recovered_becomes (facts := facts) (f := f) hfrom (by simp [hfields]) (by simpa using hlt)
      simp only [hx, hcontact, Bool.not_true, Bool.false_eq_true, if_false, hdone, if_true, recoverField_eq]
      refine ⟨_, rfl, hrec.becomes, fun k hk => (hrec.others k hk).trans (State.modField_field_ne _ _ _ _ hk.symm), ?_⟩
      exact ((onlyServed_modField f _).trans hrec.served).frame

end Sys2Proof.Machine
end

section
/-! Bank words through the aperture, handover, seizure and scrub (R553 to R566); O43. -/

namespace Sys2Proof.Machine

section Banks

variable {s t : State} {id : Identity} {addr b : Nat}

/-! ### What the grant of an access leaves alone -/

@[simp] theorem noteAccess_banks (s : State) (id : Identity) : (noteAccess s id).banks = s.banks := by rw [noteAccess_eq]
@[simp] theorem noteAccess_bank (s : State) (id : Identity) (n : Nat) : (noteAccess s id).bank n = s.bank n := by simp [State.bank]
@[simp] theorem noteAccess_bankMem (s : State) (id : Identity) : (noteAccess s id).bankMem = s.bankMem := by rw [noteAccess_eq]
@[simp] theorem noteAccess_carriesHost (s : State) (id i : Identity) : (noteAccess s id).carriesHost i = s.carriesHost i := by
  simp [State.carriesHost]

/-! ### One word behind ownership and the MPU (R548, R557, R558) -/

/-- Of a bank, only the arbitration of its ports moved. -/
def SamePorts (x y : BankState) : Prop := { y with near := x.near, far := x.far } = x

/-- A state in which accesses have been served: the banks' ports moved, and free values were drawn. -/
structure PortsMoved (s t : State) : Prop where
  rest : { t with banks := s.banks, free := s.free } = s
  ports : ∀ k, SamePorts (s.bank k) (t.bank k)

theorem modBank_samePorts {g : BankState → BankState} (hg : ∀ x, SamePorts x (g x)) (k : Nat) :
    SamePorts (s.bank k) ((s.modBank b g).bank k) := by
  by_cases hk : b = k
  · subst hk
    by_cases hb : b < s.banks.length
    · rw [State.modBank_bank s b g hb]
      exact hg _
    · rw [State.modBank, List.modify_eq_self (Nat.not_lt.mp hb)]
      rfl
  · rw [State.modBank_bank_ne s b g k hk]
    rfl

theorem portServe_moves (id : Identity) (b word : Nat) (read : Bool) : PortsMoved s (portServe s id b word read) :=
  ⟨rfl, modBank_samePorts (s := { s with free := _ }) fun _ => rfl⟩

theorem bankCheck_passes {k : AccessKind} (h : BankPasses s id addr k) (bytes : Nat) :
    bankCheck s id addr k bytes true = (portServe s id (addr / bankBytes) (addr % bankBytes / 8) (k == .read), .done) := by
  obtain ⟨hlimit, howner, hmpu, hscrub, hbad⟩ := h
  have hinside : ¬ s.bankLimit ≤ addr := Nat.not_le.mpr hlimit
  have howns : (!s.passesOwner id (addr / bankBytes)) = false := congrArg Bool.not howner
  have hquiet : (s.bank (addr / bankBytes)).scrubbing = false := hscrub
  have hgood : ¬ ((portServe s id (addr / bankBytes) (addr % bankBytes / 8) (k == .read)).bankBad.contains (addr / 8) ∧
      (!decide (k = .write ∧ bytes = 8)) = true) := fun h => by
    have hsame : s.bankBad.contains (addr / 8) = true := h.1
    rw [hbad] at hsame
    cases hsame
  simp only [bankCheck, if_neg hinside, howns, Bool.false_eq_true, if_false, hmpu, hquiet, Bool.not_true]
  exact if_neg hgood

/-- A host identity's refused access is recorded, and no fault. -/
theorem bankCheck_denied {k : AccessKind} (hid : isHostId id = true) (hlimit : addr < s.bankLimit)
    (h : s.passesOwner id (addr / 0x40000) = false ∨ (s.mpuRefuses id true addr k).isSome = true) (bytes : Nat) (ok : Bool) :
    ∃ own region, bankCheck s id addr k bytes ok = (recordVio s id true addr k own false region bytes, .denied) := by
  have hinside : ¬ s.bankLimit ≤ addr := Nat.not_le.mpr hlimit
  have hfault (v : State) : refuseWord v id addr = v := if_neg (by simp [isInternal, hid])
  by_cases howner : s.passesOwner id (addr / bankBytes) = true
  · obtain hno | hsome := h
    · exact absurd (howner.symm.trans hno) Bool.true_eq_false.mp
    · obtain ⟨r, hr⟩ := Option.isSome_iff_exists.mp hsome
      exact ⟨false, r.index, by simp only [bankCheck, if_neg hinside, howner, Bool.not_true, Bool.false_eq_true, if_false, hr, hfault]⟩
  · exact ⟨true, 0xFFFF, by simp only [bankCheck, if_neg hinside, howner, Bool.not_false, if_true, hfault]⟩

theorem bankCheck_reserved (k : AccessKind) (hlimit : s.bankLimit ≤ addr) (bytes : Nat) (ok : Bool) :
    bankCheck s id addr k bytes ok = (logRsvd s id addr (k != .read), .reserved) := if_pos hlimit

/-! ### The aperture (R564, R566) -/

/-- The word a window's page and an offset into the aperture name. -/
def windowWord (s : State) (i off : Nat) : Nat := (s.win i).page * 0x1000 + off % 0x1000 / 4 * 4

theorem winIndex_host {i : Nat} (h : winIndex id = some i) : isHostId id = true := by
  unfold winIndex at h
  unfold isHostId
  split_ifs at h <;> simp [*]

section Aperture

variable {i off : Nat} {w ok : Bool} {v : Word} {u : State} (ho : s.csOpen id = true) (hwin : winIndex id = some i)
  (hlay : s.hasLayout = true)
include ho hwin hlay

theorem aperture_done
    (h : bankCheck s id (windowWord s i off) (if w then .write else .read) 4 ok = (u, .done)) : aperture s id off w v ok =
      if w then (bankStore u (windowWord s i off) 4 v.toNat, 0, false) else (u, w32 (bankNat u (windowWord s i off) 4), false) := by
  rw [windowWord] at h ⊢
  simp only [aperture, ho, if_true, hwin, hlay, h]

theorem aperture_denied (h : bankCheck s id (windowWord s i off) (if w then .write else .read) 4 ok = (u, .denied)) :
    aperture s id off w v ok = (u, 0, true) := by
  rw [windowWord] at h
  simp only [aperture, ho, if_true, hwin, hlay, h]

theorem aperture_reserved (h : bankCheck s id (windowWord s i off) (if w then .write else .read) 4 ok = (u, .reserved)) :
    aperture s id off w v ok = (u, 0, false) := by
  rw [windowWord] at h
  simp only [aperture, ho, if_true, hwin, hlay, h]

end Aperture

/-- Without a window, a layout or the space being open, an access reaches nothing. -/
theorem aperture_none {off : Nat} {w ok : Bool} {v : Word} (h : s.csOpen id = false ∨ winIndex id = none ∨ s.hasLayout = false) :
    aperture s id off w v ok = (s, 0, false) := by
  obtain h | h | h := h
  · simp [aperture, h]
  · simp [aperture, h]
  · unfold aperture
    rw [h]
    split
    · rfl
    · rfl
    next hsome => cases hsome

/-- A state with an identity's answer kept. -/
def withReply (u : State) (id : Identity) (x : Word) (st : Nat) : State :=
  { u with replies := ⟨id, x, st⟩ :: u.replies.filter fun r => r.id != id }

theorem withReply_replyTo (u : State) (id : Identity) (x : Word) (st : Nat) : (withReply u id x st).replyTo id = some (x, st) := by
  simp [withReply, State.replyTo]

theorem exec_apertureAccess {off : Nat} {w ok denied : Bool} {v x : Word} {u : State} (h : aperture s id off w v ok = (u, x, denied))
    (ho : u.csOpen id = true) : exec (.apertureAccess id off w v ok) s = .next (withReply u id x (if denied then 2 else 0)) := by
  show execApertureAccess id off w v ok s = _
  simp only [execApertureAccess, h, setReply_eq ho]
  rfl

theorem leBytes_getElem (c n j : Nat) (h : j < (leBytes c n).length) : (leBytes c n)[j] = BitVec.ofNat 8 (n / 256 ^ j) := by
  induction c generalizing n j with
  | zero => cases h
  | succ c ih =>
    cases j with
    | zero => simp [leBytes]
    | succ j => simp [leBytes, ih, Nat.div_div_eq_div_mul, Nat.pow_succ']

/-- A stored value reads as its bytes, and every other byte as before. -/
theorem bankStore_stored (h : cellsOk 0 s.bankMem = true) (bytes value : Nat) : Stored s (bankStore s addr bytes value) addr bytes value := by
  refine ⟨fun j hj => ?_, fun a ha => ?_⟩
  · have hlt : j < (leBytes bytes value).length := by rwa [leBytes_length]
    rw [bankStore, cellAt_putCells_in h hlt, leBytes_getElem]
  · exact cellAt_putCells_out h (by rwa [leBytes_length])

/-! ### Handover and seizure (R559 to R562) -/

theorem handover_refused {new : Identity} {scrub : Bool} :
    ((s.bank b).owner ≠ id → handover s id b new scrub = setBankResult s b 1) ∧
    ((s.bank b).owner = id →
      ((s.bank b).role ≠ 0 → (s.bank b).role ≠ 4 → handover s id b new scrub = setBankResult s b 2) ∧
      ((s.bank b).role = 0 ∨ (s.bank b).role = 4 →
        (s.carriesHost new = false → handover s id b new scrub = setBankResult s b 3) ∧
        (s.carriesHost new = true → (s.bank b).scrubbing = true → handover s id b new scrub = setBankResult s b 4))) := by
  refine ⟨fun h => if_pos h, fun howner => ⟨fun h0 h4 => ?_, fun hrole => ⟨fun hno => ?_, fun hyes hscrub => ?_⟩⟩⟩
  · simp only [handover, howner, ne_eq, not_true, if_false, h0, h4, not_false_eq_true, and_self, if_true]
  · have hserves : ¬ ((s.bank b).role ≠ 0 ∧ (s.bank b).role ≠ 4) := by omega
    simp only [handover, howner, ne_eq, not_true, if_false, if_neg hserves, hno, Bool.not_false, if_true]
  · have hserves : ¬ ((s.bank b).role ≠ 0 ∧ (s.bank b).role ≠ 4) := by omega
    simp only [handover, howner, ne_eq, not_true, if_false, if_neg hserves, hyes, hscrub, Bool.not_true, Bool.false_eq_true, if_true]

/-- The bank with its new owner and the result of the change. -/
def ownedBy (s : State) (b : Nat) (new : Identity) : State := setBankResult (s.modBank b fun k => { k with owner := new }) b 0

theorem handover_done {new : Identity} {scrub : Bool} (howner : (s.bank b).owner = id) (hrole : (s.bank b).role = 0 ∨ (s.bank b).role = 4)
    (hcarries : s.carriesHost new = true) (hquiet : (s.bank b).scrubbing = false) :
    handover s id b new scrub = if scrub then scrubBank (ownedBy s b new) b else ownedBy s b new := by
  have hserves : ¬ ((s.bank b).role ≠ 0 ∧ (s.bank b).role ≠ 4) := by omega
  simp only [handover, howner, ne_eq, not_true, if_false, if_neg hserves, hcarries, hquiet, Bool.not_true, Bool.false_eq_true]
  rfl

theorem ownedBy_bank (hb : b < s.banks.length) (new : Identity) : (ownedBy s b new).bank b = { s.bank b with owner := new, result := 0 } := by
  rw [ownedBy, setBankResult, State.modBank_bank _ _ _ (by simpa using hb), State.modBank_bank _ _ _ hb]

theorem ownedBy_bank_ne {k : Nat} (hk : k ≠ b) (new : Identity) : (ownedBy s b new).bank k = s.bank k := by
  rw [ownedBy, setBankResult, State.modBank_bank_ne _ _ _ _ hk.symm, State.modBank_bank_ne _ _ _ _ hk.symm]

theorem scrubBank_bank (hb : b < s.banks.length) : (scrubBank s b).bank b = { s.bank b with scrubbing := true } :=
  State.modBank_bank (zeroBank s b) b _ hb

theorem scrubBank_ownedBy_bank (hb : b < s.banks.length) (new : Identity) :
    (scrubBank (ownedBy s b new) b).bank b = { s.bank b with owner := new, result := 0, scrubbing := true } := by
  rw [scrubBank_bank (by simpa [ownedBy, setBankResult] using hb), ownedBy_bank hb]

theorem scrubBank_bank_ne {k : Nat} (hk : k ≠ b) : (scrubBank s b).bank k = s.bank k := State.modBank_bank_ne (zeroBank s b) b _ k hk.symm

theorem scrubBank_cell {a : Nat} (h : a / 0x40000 = b) : cellAt 0 a (scrubBank s b).bankMem = 0 :=
  cellAt_dropRange_in (by unfold bankBytes; omega) (by unfold bankBytes; omega)

theorem scrubBank_cell_ne {a : Nat} (h : a / 0x40000 ≠ b) : cellAt 0 a (scrubBank s b).bankMem = cellAt 0 a s.bankMem :=
  cellAt_dropRange_out (by unfold bankBytes; omega)

theorem exec_bnkHandover {new : Identity} {scrub : Bool} (hb : b < s.banks.length) (h : WritePasses s id (csBnkOwner b) false) :
    exec (.bnkHandover id b new scrub) s = .next (handover (noteAccess s id) id b new scrub) := by
  show execBnkHandover id b new scrub s = _
  rw [execBnkHandover, if_neg (Nat.not_le.mpr hb), csWrite_passes h]

theorem exec_bnkSeize (hb : b < s.banks.length) (h : WritePasses s id (csBnkOwner b) true) :
    exec (.bnkSeize id b) s = .next (seize (noteAccess s id) id b) := by
  show execBnkSeize id b s = _
  rw [execBnkSeize, if_neg (Nat.not_le.mpr hb), csWrite_passes h]

theorem seize_refused :
    (s.holdsSem id 0 = false → id ≠ idStack → seize s id b = setBankResult s b 5) ∧
    (s.holdsSem id 0 = true ∨ id = idStack → ((s.bank b).role ≠ 0 ∧ (s.bank b).role ≠ 4) ∨ isHostId (s.bank b).owner = false →
      seize s id b = setBankResult s b 2) := by
  refine ⟨fun hno hid => ?_, fun hmay hnot => ?_⟩
  · simp [seize, hno, hid]
  · have hpass : ¬ ((!s.holdsSem id 0) = true ∧ id ≠ idStack) := by obtain h | h := hmay <;> simp [h]
    simp only [seize, if_neg hpass]
    exact if_pos (hnot.imp_right fun h => by rw [h]; rfl)

theorem seize_done (hmay : s.holdsSem id 0 = true ∨ id = idStack) (hrole : (s.bank b).role = 0 ∨ (s.bank b).role = 4)
    (howner : isHostId (s.bank b).owner = true) : seize s id b = scrubBank (ownedBy s b id) b := by
  have hpass : ¬ ((!s.holdsSem id 0) = true ∧ id ≠ idStack) := by obtain h | h := hmay <;> simp [h]
  have hserves : ¬ (((s.bank b).role ≠ 0 ∧ (s.bank b).role ≠ 4) ∨ (!isHostId (s.bank b).owner) = true) := by
    rw [howner]
    rintro (h | h)
    · omega
    · cases h
  simp only [seize, if_neg hpass, if_neg hserves]
  rfl

/-! ### Corrected errors (R553) -/

theorem exec_eccWriteback (w : Nat) : exec (.eccWriteback b w) s = .next (if s.banks.length ≤ b then s
    else s.modBank b fun k => { k with ce := min 0xFFFF (k.ce + 1), cycleCe := min 0xFFFFFFFF (k.cycleCe + 1) }) := rfl

end Banks

/-- Settles O43: a word that passes its checks is read or written, any other is refused as its check says; a change of owner is the
bank's own, with the zeroing of its bytes. -/
theorem banksServeTheirOwner : Obligations.BanksServeTheirOwner := by
  intro s id
  refine ⟨fun off w v ok ho => ?_, fun off w v ok ho hnone => ?_, fun i off v ho hwin hlay => ⟨fun h => ?_, fun h hmem => ?_,
    fun w hlimit h => ?_, fun w hlimit => ?_⟩, fun b w hb => ?_, fun b w hb => ?_, fun b new scrub hb h => ?_, fun b hb h => ?_,
    fun b => rfl⟩
  · show execApertureAccess id off w v ok s = _
    simp only [execApertureAccess, aperture_none (.inl ho), setReply, ho]
    rfl
  · show execApertureAccess id off w v ok s = _
    simp only [execApertureAccess, aperture_none (.inr hnone)]
    rfl
  · have hmoves := portServe_moves (s := s) id (windowWord s i off / bankBytes) (windowWord s i off % bankBytes / 8) true
    exact ⟨_, exec_apertureAccess (aperture_done ho hwin hlay (w := false) (bankCheck_passes h 4)) ho, withReply_replyTo _ _ _ _, rfl,
      hmoves.ports⟩
  · have hmoves := portServe_moves (s := s) id (windowWord s i off / bankBytes) (windowWord s i off % bankBytes / 8) false
    exact ⟨_, exec_apertureAccess (aperture_done ho hwin hlay (w := true) (bankCheck_passes h 4)) ho, withReply_replyTo _ _ _ _,
      bankStore_stored hmem 4 v.toNat, rfl, hmoves.ports⟩
  · obtain ⟨own, region, hdenied⟩ := bankCheck_denied (winIndex_host hwin) hlimit h 4 true
    refine ⟨_, exec_apertureAccess (aperture_denied ho hwin hlay hdenied) ho, withReply_replyTo _ _ _ _, rfl, fun hroom => ?_, rfl⟩
    exact recordVio_unread _ _ _ _ _ _ _ hroom
  · have hopen : (logRsvd s id (windowWord s i off) ((if w then AccessKind.write else .read) != .read)).csOpen id = true := by
      rwa [logRsvd_csOpen]
    refine ⟨_, exec_apertureAccess (aperture_reserved ho hwin hlay (bankCheck_reserved _ hlimit 4 true)) hopen,
      withReply_replyTo _ _ _ _, ?_⟩
    rw [logRsvd_eq]
    rfl
  · rw [exec_eccWriteback, if_pos hb]
  · rw [exec_eccWriteback, if_neg (Nat.not_le.mpr hb)]
  · rw [exec_bnkHandover hb h]
    have hb' : b < (noteAccess s id).banks.length := by rwa [noteAccess_banks]
    obtain ⟨hother, hown⟩ := handover_refused (s := noteAccess s id) (id := id) (b := b) (new := new) (scrub := scrub)
    simp only [noteAccess_bank, noteAccess_carriesHost] at hother hown
    refine ⟨fun ho => congrArg _ (hother ho), fun howner => ⟨fun h0 h4 => congrArg _ ((hown howner).1 h0 h4), fun hrole => ⟨fun hno => ?_,
      fun hyes hscrub => ?_, fun hyes hquiet => ?_⟩⟩⟩
    · exact congrArg _ (((hown howner).2 hrole).1 hno)
    · exact congrArg _ (((hown howner).2 hrole).2 hyes hscrub)
    · have hdone := handover_done (s := noteAccess s id) (id := id) (b := b) (new := new) (scrub := scrub) (by simpa using howner)
        (by simpa using hrole) (by simpa using hyes) (by simpa using hquiet)
      cases scrub with
      | true =>
        rw [if_pos rfl] at hdone
        refine ⟨_, congrArg _ hdone, ?_, ?_, ?_, fun h => (by cases h), fun a ha _ => scrubBank_cell ha, fun a ha => ?_, fun k hk => ?_⟩
        · rw [scrubBank_ownedBy_bank hb']
        · rw [scrubBank_ownedBy_bank hb']
        · rw [scrubBank_ownedBy_bank hb']
        · rw [scrubBank_cell_ne ha]
          exact congrArg (cellAt 0 a) (noteAccess_bankMem s id)
        · rw [scrubBank_bank_ne hk, ownedBy_bank_ne hk, noteAccess_bank]
      | false =>
        rw [if_neg Bool.false_ne_true] at hdone
        have hmem : (ownedBy (noteAccess s id) b new).bankMem = s.bankMem := noteAccess_bankMem s id
        refine ⟨_, congrArg _ hdone, ?_, ?_, ?_, fun _ => hmem, fun _ _ h => (by cases h), fun a _ => by rw [hmem], fun k hk => ?_⟩
        · rw [ownedBy_bank hb']
        · rw [ownedBy_bank hb']
        · rw [ownedBy_bank hb']
          simpa using hquiet
        · rw [ownedBy_bank_ne hk, noteAccess_bank]
  · rw [exec_bnkSeize hb h]
    have hb' : b < (noteAccess s id).banks.length := by rwa [noteAccess_banks]
    obtain ⟨hno, hrefused⟩ := seize_refused (s := noteAccess s id) (id := id) (b := b)
    simp only [noteAccess_bank, noteAccess_holdsSem] at hno hrefused
    refine ⟨fun h hid => congrArg _ (hno h hid), fun hmay => ⟨fun h => congrArg _ (hrefused hmay h), fun hrole howner => ?_⟩⟩
    have hdone := seize_done (s := noteAccess s id) (id := id) (b := b) (by simpa using hmay) (by simpa using hrole) (by simpa using howner)
    refine ⟨_, congrArg _ hdone, ?_, ?_, ?_, fun a ha => scrubBank_cell ha, fun a ha => ?_⟩
    · rw [scrubBank_ownedBy_bank hb']
    · rw [scrubBank_ownedBy_bank hb']
    · rw [scrubBank_ownedBy_bank hb']
    · rw [scrubBank_cell_ne ha]
      exact congrArg (cellAt 0 a) (noteAccess_bankMem s id)

end Sys2Proof.Machine
end

section
/-! Atomic operations, and the MPU's own registers (R567, R571 to R576); O44. -/

namespace Sys2Proof.Machine

section Atomics

variable {s t : State} {id : Identity} {bits i : Nat} {add : Bool}

@[simp] theorem noteAccess_wins (s : State) (id : Identity) : (noteAccess s id).wins = s.wins := by rw [noteAccess_eq]
@[simp] theorem noteAccess_win (s : State) (id : Identity) (n : Nat) : (noteAccess s id).win n = s.win n := by simp [State.win]
@[simp] theorem noteAccess_bankLimit (s : State) (id : Identity) : (noteAccess s id).bankLimit = s.bankLimit := by simp [State.bankLimit]
@[simp] theorem noteAccess_passesOwner (s : State) (id i : Identity) (b : Nat) :
    (noteAccess s id).passesOwner i b = s.passesOwner i b := by
  rw [noteAccess_eq]
  rfl
@[simp] theorem noteAccess_regionOk (s : State) (id : Identity) (c : MpuCfg) : (noteAccess s id).regionOk c = s.regionOk c := by
  simp [State.regionOk]

theorem noteAccess_restored (s : State) (id : Identity) :
    { noteAccess s id with banks := s.banks, bankMem := s.bankMem, wins := s.wins, free := s.free } = noteAccess s id := by
  rw [noteAccess_eq]

theorem noteAccess_bankPasses {addr : Nat} {k : AccessKind} (h : BankPasses s id addr k) : BankPasses (noteAccess s id) id addr k := by
  have hbad : (noteAccess s id).bankBad = s.bankBad := by rw [noteAccess_eq]
  simpa [BankPasses, hbad] using h

/-! ### Atomic operations (Table BNK-4) -/

theorem modWin_win {g : WinState → WinState} (h : i < s.wins.length) : (modWin s i g).win i = g (s.win i) := by
  simp [modWin, State.win, List.getD, h]

theorem exec_atomic {c : Instr} (hc : (c = .add32 id ∧ bits = 32 ∧ add = true) ∨ (c = .add64 id ∧ bits = 64 ∧ add = true) ∨
      (c = .swap32 id ∧ bits = 32 ∧ add = false) ∨ (c = .swap64 id ∧ bits = 64 ∧ add = false)) (h : WritePasses s id csAtomOp true) :
    exec c s = .next (atomicOp (noteAccess s id) id bits add) := by
  have hwrite (bits : Nat) (add : Bool) : atomicWrite s id bits add = atomicOp (noteAccess s id) id bits add := csWrite_passes h
  rcases hc with ⟨rfl, rfl, rfl⟩ | ⟨rfl, rfl, rfl⟩ | ⟨rfl, rfl, rfl⟩ | ⟨rfl, rfl, rfl⟩ <;>
    exact congrArg Host.Outcome.next (hwrite _ _)

/-- The operand of an atomic operation. -/
def atomOperand (w : WinState) (bits : Nat) : Nat := if bits = 64 then w.opndLo.toNat + w.opndHi.toNat * 2 ^ 32 else w.opndLo.toNat

section Window

variable (hwin : winIndex id = some i)
include hwin

theorem atomicOp_misaligned (h64 : bits = 64) (h8 : (s.win i).atomAddr % 8 ≠ 0) : atomicOp s id bits add =
    modWin s i fun w => { w with carry := false, done := false, denied := false, ue := false, bad := true } := by
  simp only [atomicOp, hwin]
  exact if_pos ⟨h64, h8⟩

theorem atomicOp_denied {u : State} (hal : ¬ (bits = 64 ∧ (s.win i).atomAddr % 8 ≠ 0))
    (h : bankCheck s id (s.win i).atomAddr .atomic (bits / 8) true = (u, .denied)) : atomicOp s id bits add = modWin u i fun w =>
      { w with resLo := 0, resHi := 0, carry := false, done := false, denied := true, ue := false, bad := false } := by
  simp only [atomicOp, hwin, if_neg hal, h]

theorem atomicOp_done {u : State} (hal : ¬ (bits = 64 ∧ (s.win i).atomAddr % 8 ≠ 0))
    (h : bankCheck s id (s.win i).atomAddr .atomic (bits / 8) true = (u, .done)) : atomicOp s id bits add =
      modWin (bankStore u (s.win i).atomAddr (bits / 8) (if add then
          (bankNat u (s.win i).atomAddr (bits / 8) + atomOperand (s.win i) bits) % 2 ^ bits else atomOperand (s.win i) bits)) i fun w =>
        { w with
          denied := false, ue := false, bad := false
          resLo := loHalf (bankNat u (s.win i).atomAddr (bits / 8))
          resHi := if bits = 64 then hiHalf (bankNat u (s.win i).atomAddr (bits / 8)) else 0
          carry := add && decide (2 ^ bits ≤ bankNat u (s.win i).atomAddr (bits / 8) + atomOperand (s.win i) bits)
          done := true } := by
  simp only [atomicOp, hwin, if_neg hal, h]
  rfl

end Window

theorem not_misaligned {a : Nat} (h : bits = 32 ∨ a % 8 = 0) : ¬ (bits = 64 ∧ a % 8 ≠ 0) := by omega

/-- The low half of a number is the word it makes. -/
theorem loHalf_eq (n : Nat) : loHalf n = w32 (n % 2 ^ 32) := BitVec.eq_of_toNat_eq (by simp [loHalf, w32])

theorem hiHalf_if (bits n : Nat) : (if bits = 64 then hiHalf n else 0) = w32 (if bits = 64 then n / 2 ^ 32 else 0) := by
  split <;> rfl

end Atomics

section Regions

variable {s t : State} {id : Identity} {r g : Nat} {v : Word}

/-! ### Region registers (R571 to R573) -/

theorem region_index (q : MpuState) (r : Nat) : (q.region r).index = r := by
  unfold MpuState.region
  cases h : q.regions.find? (·.index == r) with
  | none => rfl
  | some c => simpa using List.find?_some h

/-- A region reads as it was put. -/
theorem setRegion_region (q : MpuState) (c : MpuCfg) : (q.setRegion c).region c.index = c := by
  have hrest : (q.regions.filter (·.index != c.index)).find? (·.index == c.index) = none := by
    simp [List.find?_eq_none]
  have hbelow : ((q.regions.filter (·.index != c.index)).filter fun x => decide (x.index < c.index)).find? (·.index == c.index) = none := by
    simp only [List.find?_eq_none, List.mem_filter]
    rintro x ⟨-, hx⟩ heq
    simp at hx heq
    omega
  unfold MpuState.setRegion MpuState.region
  dsimp only
  split
  next hblank =>
    obtain ⟨hsize, hen, hsp, hbase, hr, hw⟩ := hblank
    rw [hrest]
    obtain ⟨index, base, space, enable, size, read, write⟩ := c
    simp_all
  next => rw [List.find?_append, hbelow]; simp

theorem exec_mpuRegionWrite (hr : r < s.member.mpuRegions) (hg : g < 3) (h : WritePasses s id (csMpu r g) false) :
    exec (.mpuRegionWrite id r g v) s = .next (writeRegion (noteAccess s id) r g v) := by
  show execMpuRegionWrite id r g v s = _
  have hin : ¬ (s.member.mpuRegions ≤ r ∨ 3 ≤ g) := by omega
  rw [execMpuRegionWrite, if_neg hin, csWrite_passes h]

/-- A region's own registers put again. -/
theorem setRegion_region_of_index {q : MpuState} {c : MpuCfg} (hc : c.index = r) : (q.setRegion c).region r = c := by
  rw [← hc, setRegion_region]

theorem writeRegion_locked (h : s.mpu.lock = true) : writeRegion s r g v = s := if_pos h

section Unlocked

variable (hlock : s.mpu.lock = false)
include hlock

theorem writeRegion_enabled (hen : (s.mpu.region r).enable = true) : writeRegion s r g v =
    if g = 1 ∧ field v 8 1 = 0 then s.modMpu (·.setRegion { s.mpu.region r with enable := false }) else s := by
  simp only [writeRegion, hlock, hen, Bool.false_eq_true, if_false, if_true]

theorem writeRegion_disabled (hen : (s.mpu.region r).enable = false) : writeRegion s r g v =
    if g = 0 then s.modMpu (·.setRegion { s.mpu.region r with base := field v 0 26 })
    else if g = 1 then
      if v.getLsbD 8 then enableRegion s { s.mpu.region r with size := field v 0 5, space := v.getLsbD 9 }
      else s.modMpu (·.setRegion { s.mpu.region r with size := field v 0 5, space := v.getLsbD 9 })
    else s.modMpu (·.setRegion { s.mpu.region r with read := field v 0 9, write := field v 16 9 }) := by
  simp only [writeRegion, hlock, hen, Bool.false_eq_true, if_false]

end Unlocked

theorem enableRegion_refused {c : MpuCfg} (h : s.regionOk c = false) (hen : c.enable = false) :
    enableRegion s c = s.modMpu fun q => { q.setRegion c with refused := true } := by
  have hoff : { c with enable := false } = c := by rw [← hen]
  simp only [enableRegion, h, Bool.not_false, if_true, hoff]

theorem enableRegion_alone {c : MpuCfg} (h : s.regionOk c = true)
    (hclash : ∀ x ∈ s.mpu.regions, ({ c with enable := true } : MpuCfg).clash x = false) :
    enableRegion s c = s.modMpu (·.setRegion { c with enable := true }) := by
  have hnone : s.mpu.regions.filter ({ c with enable := true } : MpuCfg).clash = [] := by
    rw [List.filter_eq_nil_iff]
    intro x hx
    rw [hclash x hx]
    exact Bool.false_ne_true
  simp only [enableRegion, h, Bool.not_true, Bool.false_eq_true, if_false, hnone, List.foldl_nil]

/-- A region put in a state that differs from another in its arbiter alone. -/
theorem modMpu_setRegion_put {c : MpuCfg} (hc : c.index = r) : ((noteAccess s id).modMpu (·.setRegion c)).mpu.region r = c ∧
    { (noteAccess s id).modMpu (·.setRegion c) with mpu := s.mpu } = noteAccess s id := by
  refine ⟨setRegion_region_of_index hc, ?_⟩
  rw [noteAccess_eq]
  rfl

end Regions

section Violations

variable {s : State} {id : Identity} {q : Nat}

/-! ### The acknowledgement of violation records (R576) -/

theorem vioLeft_le (head unread n : Nat) : vioLeft head unread n ≤ unread := by
  simp only [vioLeft]
  split
  · exact Nat.zero_le _
  · exact Nat.min_le_left _ _

/-- The newest record's number leaves none unread. -/
theorem vioLeft_newest {head : Nat} (unread : Nat) (h1 : 1 ≤ head) (h : head ≤ 0xFFFF) : vioLeft head unread (head % 0x10000) = 0 := by
  simp only [vioLeft]
  rw [if_pos (by omega)]

/-- The number before the oldest unread record leaves all unread. -/
theorem vioLeft_oldest {head unread : Nat} (h : head ≤ 0xFFFF) (hroom : unread ≤ 64) (hsum : q + unread = head) (h1 : 1 ≤ q)
    (hpos : 0 < unread) : vioLeft head unread (q % 0x10000) = unread := by
  simp only [vioLeft]
  rw [if_neg (by omega)]
  omega

/-- A write of LOCK leaves REFUSED (R11, R574). -/
theorem writeMpuCtrl_lock (s : State) (id : Identity) :
    writeMpuCtrl (noteAccess s id) 1 = { noteAccess s id with mpu := { s.mpu with lock := true } } := by
  have hlock (q : MpuState) : ({ q with lock := q.lock || (1 : Word).getLsbD 0, refused := q.refused && !(1 : Word).getLsbD 1 } : MpuState) =
      { q with lock := true } := by simp
  rw [← noteAccess_mpu s id]
  exact congrArg (fun q : MpuState => { noteAccess s id with mpu := q }) (hlock _)

end Violations

/-- Settles O44: the operation acts on the word its window names, or is refused; a region is put as its registers say. -/
theorem atomicsAndRegions : Obligations.AtomicsAndRegions := by
  intro s id
  refine ⟨fun c bits add hc h => ⟨fun hnone => ?_, fun i hwin hi => ⟨fun h64 h8 => ?_, fun hal => ⟨fun hlimit hno => ?_,
    fun hpass hmem => ?_⟩⟩⟩, fun r g v hr hg h => ⟨fun hlock => ?_, fun hlock hen => ⟨fun hg1 hv => ?_, fun hnot => ?_⟩,
    fun hlock hen => ⟨fun hg0 => ?_, fun hg2 => ?_, fun hg1 => ⟨fun hv => ?_, fun hv hno => ?_, fun hv hok hclash => ?_⟩⟩⟩,
    fun h => ?_, fun q h => ?_⟩
  · rw [exec_atomic hc h]
    simp only [atomicOp, hnone]
  · have hwins : i < (noteAccess s id).wins.length := by rwa [noteAccess_wins]
    rw [exec_atomic hc h, atomicOp_misaligned hwin h64 (by simpa using h8)]
    refine ⟨_, rfl, ?_, ?_, ?_⟩
    · rw [modWin_win hwins]
    · rw [modWin_win hwins]
    · rw [noteAccess_eq]
      rfl
  · obtain ⟨own, region, hdenied⟩ := bankCheck_denied (s := noteAccess s id) (addr := (s.win i).atomAddr) (k := .atomic) (winIndex_host hwin)
      (by simpa using hlimit) (by simpa using hno) (bits / 8) true
    rw [exec_atomic hc h, atomicOp_denied hwin (by simpa using not_misaligned hal) (by simpa using hdenied)]
    refine ⟨_, rfl, ?_, ?_, noteAccess_bankMem s id⟩
    all_goals rw [modWin_win (by simpa [recordVio, State.modMpu] using hi)]
  · have hdone := bankCheck_passes (noteAccess_bankPasses hpass) (bits / 8)
    have hmoves := portServe_moves (s := noteAccess s id) id ((s.win i).atomAddr / bankBytes) ((s.win i).atomAddr % bankBytes / 8)
      (AccessKind.atomic == .read)
    rw [exec_atomic hc h, atomicOp_done hwin (by simpa using not_misaligned hal) (by simpa using hdone), noteAccess_win]
    generalize portServe (noteAccess s id) id ((s.win i).atomAddr / bankBytes) ((s.win i).atomAddr % bankBytes / 8)
      (AccessKind.atomic == .read) = u at hmoves
    obtain ⟨hrest, hports⟩ := hmoves
    have hwins : u.wins = s.wins := by rw [← noteAccess_wins s id, ← hrest]
    have hcells : u.bankMem = s.bankMem := by rw [← noteAccess_bankMem s id, ← hrest]
    have hwin' : u.win i = s.win i := by simp only [State.win, hwins]
    have hstored := bankStore_stored (s := u) (addr := (s.win i).atomAddr) (by rwa [hcells]) (bits / 8)
    simp only [bankNat, hcells]
    refine ⟨_, rfl, ?_, ?_, ?_, ?_, ?_, ?_, ?_, fun k => ?_⟩
    · rw [modWin_win (by rwa [bankStore, hwins])]
    · rw [modWin_win (by rwa [bankStore, hwins])]
    · rw [modWin_win (by rwa [bankStore, hwins]), loHalf_eq]
    · rw [modWin_win (by rwa [bankStore, hwins])]
      exact hiHalf_if _ _
    · rw [modWin_win (by rwa [bankStore, hwins])]
      rfl
    · have hs := hstored (if add then (leNat (cellRun 0 (bits / 8) (s.win i).atomAddr s.bankMem) + atomOperand (s.win i) bits) % 2 ^ bits
        else atomOperand (s.win i) bits)
      exact ⟨hs.1, fun a ha => (hs.2 a ha).trans (by rw [hcells])⟩
    · exact (congrArg (fun v : State => { v with banks := s.banks, bankMem := s.bankMem, wins := s.wins, free := s.free }) hrest).trans
        (noteAccess_restored s id)
    · have hk := hports k
      rw [noteAccess_bank] at hk
      exact hk
  · rw [exec_mpuRegionWrite hr hg h, writeRegion_locked (by simpa using hlock)]
  · rw [exec_mpuRegionWrite hr hg h, writeRegion_enabled (by simpa using hlock) (by simpa using hen), if_pos ⟨hg1, hv⟩, noteAccess_mpu]
    exact ⟨_, rfl, modMpu_setRegion_put (region_index _ _)⟩
  · rw [exec_mpuRegionWrite hr hg h, writeRegion_enabled (by simpa using hlock) (by simpa using hen), if_neg (by omega)]
  · rw [exec_mpuRegionWrite hr hg h, writeRegion_disabled (by simpa using hlock) (by simpa using hen), if_pos hg0, noteAccess_mpu]
    exact ⟨_, rfl, modMpu_setRegion_put (region_index _ _)⟩
  · rw [exec_mpuRegionWrite hr hg h, writeRegion_disabled (by simpa using hlock) (by simpa using hen), if_neg (by omega), if_neg (by omega),
      noteAccess_mpu]
    exact ⟨_, rfl, modMpu_setRegion_put (region_index _ _)⟩
  · rw [exec_mpuRegionWrite hr hg h, writeRegion_disabled (by simpa using hlock) (by simpa using hen), if_neg (by omega), if_pos hg1,
      if_neg (ne_true_of_eq_false hv), noteAccess_mpu]
    exact ⟨_, rfl, modMpu_setRegion_put (region_index _ _)⟩
  · rw [exec_mpuRegionWrite hr hg h, writeRegion_disabled (by simpa using hlock) (by simpa using hen), if_neg (by omega), if_pos hg1,
      if_pos hv, noteAccess_mpu,
      enableRegion_refused (c := { s.mpu.region r with size := field v 0 5, space := v.getLsbD 9 }) (by simpa using hno) hen]
    obtain ⟨hregion, hrest⟩ := modMpu_setRegion_put (s := s) (id := id)
      (c := { s.mpu.region r with size := field v 0 5, space := v.getLsbD 9 }) (region_index s.mpu r)
    exact ⟨_, rfl, hregion, rfl, hrest⟩
  · rw [exec_mpuRegionWrite hr hg h, writeRegion_disabled (by simpa using hlock) (by simpa using hen), if_neg (by omega), if_pos hg1,
      if_pos hv, noteAccess_mpu, enableRegion_alone (by simpa using hok) (by simpa using hclash)]
    exact ⟨_, rfl, modMpu_setRegion_put (region_index _ _)⟩
  · show execMpuLock id s = _
    rw [execMpuLock, csWrite_passes h]
    exact congrArg Host.Outcome.next (writeMpuCtrl_lock _ _)
  · have hexec : exec (.mpuVioAck id q) s = .next (ackVio (noteAccess s id) q) := congrArg Host.Outcome.next (csWrite_passes h)
    have hmpu : (ackVio (noteAccess s id) q).mpu = { s.mpu with unread := vioLeft s.mpu.head s.mpu.unread (q % 0x10000) } := by
      rw [← noteAccess_mpu s id]
      rfl
    refine ⟨_, hexec, ?_, ?_, ?_, fun h1 htop hq => ?_, fun htop hroom hsum h1 hpos => ?_⟩
    · rw [noteAccess_eq]
      rfl
    · rw [hmpu]
    · rw [hmpu]
      exact vioLeft_le _ _ _
    · rw [hmpu, hq]
      exact vioLeft_newest _ h1 htop
    · rw [hmpu]
      exact vioLeft_oldest htop hroom hsum h1 hpos

end Sys2Proof.Machine
end

section
/-! A REG frame at a member in Off (R604, R213); O55. -/

namespace Sys2Proof.Machine

/-- An access that does not reach the Control space answers nobody (R213). -/
theorem exec_rcRead_closed {s : State} {id : Identity} (h : s.csOpen id = false) (a : CsAddr) (same : Word) :
    exec (.rcRead id a same) s = .next s := by
  have hcheck : csCheck s id a.toNat .read = (s, true) := by simp [csCheck, h]
  have hread : (csRead s id a.toNat same).1 = s := by
    unfold csRead
    split
    · rfl
    split
    · rfl
    split
    · rw [aperture_none (.inl h)]
    · rw [hcheck]
      rfl
  show execRcRead id a same s = _
  simp only [execRcRead, setReply, hread, h, Bool.not_false, if_true]

namespace RegFrameInOff

/-- A member at position 1, admitted, whose upstream link is up while its supplies keep the Control space unpowered. -/
def state : State :=
  { State.reset with
    pwr := { State.reset.pwr with state := .off }
    stk := { State.reset.stk with role := 0, state := 2, pos := some 1, up := { State.reset.stk.up with idle := false, up := true } } }

/-- The master's REG frame, next in order on the upstream link. -/
def header : FrameHdr := ⟨.up, false, false, false, false, 1, 0, 0, 0, false, 1, 0, 9⟩

/-- One read of a register, which passes the pre-check. -/
def entry : RegEntry := ⟨0, 0, 0⟩

theorem delivered : Delivered state header := by
  unfold Delivered InOrder
  decide +kernel

theorem closed : state.csOpen idStack = false := by decide +kernel

end RegFrameInOff

/-- Refutes O55: the clause that a REG frame's one read has been answered to identity 0x82 at its end. The frame is taken on its link
in every power state, and in Off the read reaches nothing and keeps no answer. -/
theorem not_remoteAccessAndForwardedCommands : ¬ Obligations.RemoteAccessAndForwardedCommands := by
  intro h
  obtain ⟨-, hreg, -⟩ := h RegFrameInOff.state
  obtain ⟨honly, v, -, hentries, -⟩ := hreg RegFrameInOff.header [RegFrameInOff.entry] RegFrameInOff.delivered
  obtain ⟨-, hmember⟩ := hentries
  obtain ⟨-, hnew⟩ := hmember rfl (by decide)
  obtain ⟨-, -, -, hread⟩ := hnew (by decide)
  obtain ⟨w, d, hexec, -, hreply⟩ := hread RegFrameInOff.entry rfl (by decide) rfl
  have hclosed : (linkTake RegFrameInOff.state RegFrameInOff.header).1.csOpen idStack = false :=
    (congrArg (fun s : State => s.csOpen idStack) honly :).trans RegFrameInOff.closed
  rw [exec_rcRead_closed hclosed] at hexec
  obtain rfl := Host.Outcome.next.inj hexec
  have hnone : (linkTake RegFrameInOff.state RegFrameInOff.header).1.replies = [] := congrArg State.replies honly
  simp [State.replyTo, hnone] at hreply

end Sys2Proof.Machine
end

section
/-! A PAGE_REL that shows a newer fix point (R421, Table STK-7); O56. -/

namespace Sys2Proof.Machine

namespace PageRelAfterFix

/-- A member at position 1, admitted, whose upstream link is up. -/
def state : State :=
  { State.reset with
    stk := { State.reset.stk with role := 0, state := 2, pos := some 1, up := { State.reset.stk.up with idle := false, up := true } } }

/-- A frame to the member, next in order on the upstream link. -/
def header : FrameHdr := ⟨.up, false, false, false, false, 1, 0, 0, 0, false, 1, 0, 9⟩

/-- The tag of a page released after Field 0's first fix point. -/
def tag : PageTag := ⟨0, 0, 1, 0, 0⟩

theorem delivered : Delivered state header := by
  unfold Delivered InOrder
  decide +kernel

/-- The member takes the FIXCOUNT of the tag over. -/
theorem exec_pageRel : ∃ t, exec (.pageRel header 0 tag []) state = .next t ∧ (t.field 0).fixcount = 1 :=
  ⟨_, rfl, by decide +kernel⟩

end PageRelAfterFix

/-- Refutes O56: the clause that a new PAGE_REL leaves the Fields as they were. The tag's FIXCOUNT shows a fix point the master has
recorded since, which the member takes over with the dose increment (R421; log 112). -/
theorem not_ringBlocksAndPages : ¬ Obligations.RingBlocksAndPages := by
  intro h
  obtain ⟨-, -, -, -, -, -, -, -, -, -, hpageRel, -⟩ := h PageRelAfterFix.state
  obtain ⟨honly, v, t, ⟨-, hmember⟩, hlinks, hexec⟩ := hpageRel PageRelAfterFix.header 0 PageRelAfterFix.tag [] PageRelAfterFix.delivered
  obtain ⟨-, hnew⟩ := hmember rfl rfl
  obtain ⟨-, -, -, -, -, hfields, -⟩ := hnew rfl
  obtain ⟨t', hexec', hfix⟩ := PageRelAfterFix.exec_pageRel
  obtain rfl := Host.Outcome.next.inj (hexec'.symm.trans hexec)
  have hsame : t'.fields = PageRelAfterFix.state.fields := calc
    t'.fields = v.fields := (congrArg State.fields hlinks :)
    _ = (linkTake PageRelAfterFix.state PageRelAfterFix.header).1.fields := hfields
    _ = PageRelAfterFix.state.fields := (congrArg State.fields honly :)
  rw [State.field, hsame] at hfix
  exact absurd hfix (by decide +kernel)

end Sys2Proof.Machine
end

section
/-! The links of the ring: frames put on a link, frames taken from it, and what neither touches (R585 to R587, R598). -/

namespace Sys2Proof.Machine

section Links

variable {s t u v : State} {l m : Link} {k : LinkState} {f g : OutFrame} {h : FrameHdr}

/-! ### One link -/

@[simp] theorem modLink_link (l : Link) (x : LinkState → LinkState) : (modLink s l x).stk.link l = x (s.stk.link l) := by cases l <;> rfl

@[simp] theorem modLink_link_other (l : Link) (x : LinkState → LinkState) :
    (modLink s l x).stk.link (Link.other l) = s.stk.link (Link.other l) := by cases l <;> rfl

@[simp] theorem modLink_other_link (l : Link) (x : LinkState → LinkState) :
    (modLink s (Link.other l) x).stk.link l = s.stk.link l := by cases l <;> rfl

/-- A frame leaves what the link has taken and how it stands. -/
theorem putFrame_leaves (k : LinkState) (f : OutFrame) : putFrame k f = { k with
    sent := (putFrame k f).sent, owed := (putFrame k f).owed, credits := (putFrame k f).credits, txSeq := (putFrame k f).txSeq
    unacked := (putFrame k f).unacked, waiting := (putFrame k f).waiting } := by
  unfold putFrame
  split_ifs <;> rfl

theorem putFrame_down (h : k.up = false) (f : OutFrame) : putFrame k f = k := if_pos (by simp [h])

@[simp] theorem putFrame_up (k : LinkState) (f : OutFrame) : (putFrame k f).up = k.up := by rw [putFrame_leaves]
@[simp] theorem putFrame_rxSeq (k : LinkState) (f : OutFrame) : (putFrame k f).rxSeq = k.rxSeq := by rw [putFrame_leaves]
@[simp] theorem putFrame_nakSent (k : LinkState) (f : OutFrame) : (putFrame k f).nakSent = k.nakSent := by rw [putFrame_leaves]

/-! ### What a link has sent -/

/-- The window of 64 keeps what was sent last. -/
theorem noteSent_suffix {ys : List OutFrame} (hys : ys <:+ k.sent) (hlen : ys.length < 64) (f : OutFrame) :
    ys ++ [f] <:+ (noteSent k f).sent := by
  refine List.suffix_of_suffix_length_le ?_ (List.drop_suffix _ _) ?_
  · obtain ⟨pre, hpre⟩ := hys
    exact ⟨pre, by rw [← hpre, List.append_assoc]⟩
  · have hle := hys.length_le
    simp only [noteSent, List.length_append, List.length_drop, List.length_cons, List.length_nil]
    omega

@[simp] theorem noteSent_last (k : LinkState) (f : OutFrame) : (noteSent k f).sent.getLast? = some f := by
  rw [noteSent, List.getLast?_drop, List.getLast?_append]
  simp

/-- ACK and NAK take no credit. -/
theorem putFrame_control (hup : k.up = true) (hty : f.ty = frameAck ∨ f.ty = frameNak) : putFrame k f = { noteSent k f with owed := 0 } := by
  unfold putFrame
  rw [if_neg (by simp [hup]), if_pos hty]

/-- Any other frame that finds a credit takes it, and a sequence number. -/
theorem putFrame_credit (hup : k.up = true) (hty : ¬ (f.ty = frameAck ∨ f.ty = frameNak)) (hcredit : 0 < k.credits) :
    putFrame k f = { noteSent k f with
      credits := k.credits - 1, owed := 0, txSeq := (k.txSeq + 1) % 4096, unacked := k.unacked ++ [(k.txSeq, f)] } := by
  unfold putFrame
  rw [if_neg (by simp [hup]), if_neg hty, if_neg (by omega)]

/-- A frame that finds a credit is kept as sent, after what was sent last. -/
theorem putFrame_suffix {ys : List OutFrame} (hup : k.up = true) (hcredit : 0 < k.credits) (hys : ys <:+ k.sent) (hlen : ys.length < 64)
    (f : OutFrame) : ys ++ [f] <:+ (putFrame k f).sent := by
  by_cases hty : f.ty = frameAck ∨ f.ty = frameNak
  · rw [putFrame_control hup hty]
    exact noteSent_suffix hys hlen f
  · rw [putFrame_credit hup hty hcredit]
    exact noteSent_suffix hys hlen f

theorem putFrame_credits (hup : k.up = true) (hcredit : 0 < k.credits) (f : OutFrame) : k.credits - 1 ≤ (putFrame k f).credits := by
  by_cases hty : f.ty = frameAck ∨ f.ty = frameNak
  · rw [putFrame_control hup hty]
    exact Nat.sub_le _ _
  · rw [putFrame_credit hup hty hcredit]

/-- A frame that finds a credit is the last one sent. -/
theorem putFrame_last (hup : k.up = true) (hcredit : 0 < k.credits) (f : OutFrame) : (putFrame k f).sent.getLast? = some f := by
  by_cases hty : f.ty = frameAck ∨ f.ty = frameNak
  · rw [putFrame_control hup hty]
    exact noteSent_last k f
  · rw [putFrame_credit hup hty hcredit]
    exact noteSent_last k f

/-- The replay of a buffer that the window holds sends all of it. -/
theorem foldl_noteSent_suffix (xs : List (Nat × OutFrame)) {ys : List OutFrame} (hys : ys <:+ k.sent) (hlen : ys.length + xs.length ≤ 64) :
    ys ++ xs.map (·.2) <:+ (xs.foldl (fun k x => noteSent k x.2) k).sent := by
  induction xs generalizing k ys with
  | nil => simpa using hys
  | cons x xs ih =>
    rw [List.length_cons] at hlen
    have hstep := ih (noteSent_suffix hys (by omega) x.2) (by rw [List.length_append, List.length_singleton]; omega)
    simpa using hstep

/-- A replay changes what was sent alone. -/
theorem foldl_noteSent_leaves (xs : List (Nat × OutFrame)) (k : LinkState) :
    xs.foldl (fun k x => noteSent k x.2) k = { k with sent := (xs.foldl (fun k x => noteSent k x.2) k).sent } := by
  induction xs generalizing k with
  | nil => rfl
  | cons x xs ih => exact ih (noteSent k x.2)

/-! ### States that differ in the links alone -/

theorem OnlyLinks.refl (s : State) : OnlyLinks s s := rfl

theorem OnlyLinks.trans (h : OnlyLinks s t) (h' : OnlyLinks t u) : OnlyLinks s u :=
  (congrArg (fun v : State => ({ v with stk := { v.stk with up := s.stk.up, dn := s.stk.dn } } : State)) h').trans h

theorem onlyLinks_modLink (l : Link) (x : LinkState → LinkState) : OnlyLinks s (modLink s l x) := by cases l <;> rfl

theorem onlyLinks_sendOn (l : Link) (f : OutFrame) : OnlyLinks s (sendOn s l f) := onlyLinks_modLink l _

theorem onlyLinks_passOn (h : FrameHdr) (ty : Nat) (payload : List Byte) : OnlyLinks s (passOn s h ty payload) := by
  unfold passOn
  split
  · exact .refl s
  · exact onlyLinks_sendOn _ _

theorem onlyLinks_ringSend {ty : Nat} (hty : ty ≠ 0x31) (dest tag : Nat) (resp : Bool) (payload : List Byte) :
    OnlyLinks s (ringSend s ty dest tag resp payload) := by
  simp only [ringSend, if_neg hty]
  split
  · exact onlyLinks_sendOn _ _
  · exact .refl s

theorem onlyLinks_ringBroadcast (ty tag : Nat) (payload : List Byte) : OnlyLinks s (ringBroadcast s ty tag payload) := by
  have hsend (v : State) (l : Link) (hops : Nat) (f : OutFrame) : OnlyLinks v (if hops = 0 then v else sendOn v l f) := by
    split
    · exact .refl v
    · exact onlyLinks_sendOn _ _
  simp only [ringBroadcast]
  split <;> exact (hsend _ _ _ _).trans (hsend _ _ _ _)

theorem sendOn_link (l : Link) (f : OutFrame) : (sendOn s l f).stk.link l = putFrame (s.stk.link l) f := modLink_link l _

@[simp] theorem sendOn_link_other (l : Link) (f : OutFrame) : (sendOn s l f).stk.link (Link.other l) = s.stk.link (Link.other l) :=
  modLink_link_other l _

@[simp] theorem sendOn_other_link (l : Link) (f : OutFrame) : (sendOn s (Link.other l) f).stk.link l = s.stk.link l := modLink_other_link l _

/-- A frame that finds a credit is the last one sent on its link. -/
theorem sendOn_lastSent (hup : (s.stk.link l).up = true) (hcredit : 0 < (s.stk.link l).credits) (f : OutFrame) :
    (sendOn s l f).lastSent l = some f := by
  rw [State.lastSent, sendOn_link]
  exact putFrame_last hup hcredit f

/-! ### A frame that a link takes (R585, R598) -/

theorem takeAck_leaves (limit : Nat) (h : FrameHdr) (k : LinkState) : (takeAck limit h k).up = k.up ∧ (takeAck limit h k).rxSeq = k.rxSeq := by
  have hdrain (n : Nat) : ∀ k : LinkState, (drainWaiting n k).up = k.up ∧ (drainWaiting n k).rxSeq = k.rxSeq := by
    induction n with
    | zero => exact fun k => ⟨rfl, rfl⟩
    | succ n ih =>
      intro k
      rw [drainWaiting]
      split
      · exact ⟨rfl, rfl⟩
      · split
        · exact ⟨rfl, rfl⟩
        · obtain ⟨hup, hrx⟩ := ih (putFrame { k with waiting := _ } _)
          exact ⟨hup.trans (putFrame_up _ _), hrx.trans (putFrame_rxSeq _ _)⟩
  obtain ⟨hup, hrx⟩ := hdrain _ _
  unfold takeAck
  dsimp only
  refine ⟨hup.trans ?_, hrx.trans ?_⟩
  all_goals
    split
    · split <;> rfl
    · rfl

/-- The state in which a link has taken the next frame in order and answered it. -/
def linkTook (s : State) (h : FrameHdr) : State :=
  sendOn (modLink s h.link fun k => takeAck s.creditsOf h { k with rxSeq := h.lseq, nakSent := false, owed := k.owed + 1 }) h.link
    (ackFrame (modLink s h.link fun k => takeAck s.creditsOf h { k with rxSeq := h.lseq, nakSent := false, owed := k.owed + 1 }) frameAck)

theorem linkTake_inOrder (hin : InOrder s h) : linkTake s h = (linkTook s h, true) := by
  obtain ⟨hup, hdup, hseq⟩ := hin
  have hopen : ¬ ((!(s.stk.link h.link).up) = true ∨ s.stk.dup = true) := by simp [hup, hdup]
  exact (if_neg hopen).trans (if_neg (not_not.mpr hseq))

theorem linkTake_closed (hclosed : (s.stk.link h.link).up = false ∨ s.stk.dup = true) : linkTake s h = (s, false) := by
  obtain hup | hdup := hclosed
  · simp [linkTake, hup]
  · simp [linkTake, hdup]

theorem linkTake_outOfOrder (hup : (s.stk.link h.link).up = true) (hdup : s.stk.dup = false)
    (hseq : h.lseq ≠ ((s.stk.link h.link).rxSeq + 1) % 4096) : linkTake s h = (sendNak s h.link, false) := by
  simp [linkTake, hup, hdup, hseq]

theorem onlyLinks_linkTook : OnlyLinks s (linkTook s h) := (onlyLinks_modLink _ _).trans (onlyLinks_sendOn _ _)

@[simp] theorem linkTook_link_other : (linkTook s h).stk.link (Link.other h.link) = s.stk.link (Link.other h.link) := by
  rw [linkTook, sendOn_link_other, modLink_link_other]

theorem linkTook_rxSeq : ((linkTook s h).stk.link h.link).rxSeq = h.lseq := by
  rw [linkTook, sendOn_link, putFrame_rxSeq, modLink_link, (takeAck_leaves _ _ _).2]

/-- One NAK goes back for a frame that is not taken, and none after it. -/
theorem sendNak_eq (h : (s.stk.link l).nakSent = false) :
    sendNak s l = sendOn (modLink s l fun k => { k with nakSent := true }) l (ackFrame s frameNak) := if_neg (by simp [h])

theorem onlyLinks_sendNak (l : Link) : OnlyLinks s (sendNak s l) := by
  unfold sendNak
  split
  · exact .refl s
  · exact (onlyLinks_modLink _ _).trans (onlyLinks_sendOn _ _)

theorem sendNak_links (l : Link) : (sendNak s l).stk.link (Link.other l) = s.stk.link (Link.other l) ∧
    ((sendNak s l).stk.link l).rxSeq = (s.stk.link l).rxSeq ∧ ((sendNak s l).stk.link l).nakSent = true := by
  by_cases hnak : (s.stk.link l).nakSent = true
  · rw [sendNak, if_pos hnak]
    exact ⟨rfl, rfl, hnak⟩
  · rw [sendNak_eq (by simpa using hnak), sendOn_link_other, modLink_link_other, sendOn_link, modLink_link]
    exact ⟨rfl, by simp, by simp⟩

/-! ### Frames that devices deliver (R598) -/

/-- A frame that the link does not take has no effect. -/
theorem takeFrame_notTaken {ty : Nat} {payload : List Byte} {deliver : State → State} (ht : linkTake s h = (u, false)) :
    takeFrame s h ty payload deliver = u := by rw [takeFrame, ht]

theorem takeLocal_notTaken {deliver : State → State} (ht : linkTake s h = (u, false)) : takeLocal s h deliver = u := by rw [takeLocal, ht]

theorem takeLocal_inOrder {deliver : State → State} (hin : InOrder s h) : takeLocal s h deliver = deliver (linkTook s h) := by
  rw [takeLocal, linkTake_inOrder hin]

/-- A frame for another position goes on. -/
theorem takeFrame_passes {ty : Nat} {payload : List Byte} {deliver : State → State} (hin : InOrder s h) (hb : h.bcast = false)
    (hpos : s.stk.pos ≠ some h.dest) : takeFrame s h ty payload deliver = passOn (linkTook s h) h ty payload := by
  have hpos' : (linkTook s h).stk.pos ≠ some h.dest := by
    rwa [show (linkTook s h).stk.pos = s.stk.pos from (congrArg (fun v : State => v.stk.pos) (onlyLinks_linkTook (s := s) (h := h)) :)]
  simp only [takeFrame, linkTake_inOrder hin, hb, Bool.false_eq_true, if_false, if_neg hpos']

/-- A frame that is delivered has its effect, after which only the links change. -/
theorem takeFrame_delivers {ty : Nat} {payload : List Byte} {deliver : State → State} (hd : Delivered s h) :
    OnlyLinks (deliver (linkTook s h)) (takeFrame s h ty payload deliver) := by
  obtain ⟨hin, hreach⟩ := hd
  have hpos' : (linkTook s h).stk.pos = s.stk.pos := (congrArg (fun v : State => v.stk.pos) (onlyLinks_linkTook (s := s) (h := h)) :)
  simp only [takeFrame, linkTake_inOrder hin, hpos']
  split
  · exact onlyLinks_passOn _ _ _
  next hb =>
    rw [if_pos (hreach.resolve_left hb)]
    exact .refl _

variable {c : Instr} {P : State → State → Prop}

/-- What a delivered frame does. -/
theorem effect_of_takeFrame {ty : Nat} {payload : List Byte} {deliver : State → State} (hd : Delivered s h)
    (hexec : exec c s = .next (takeFrame s h ty payload deliver)) (hP : P (linkTook s h) (deliver (linkTook s h))) : Effect s c h P := by
  rw [Effect, linkTake_inOrder hd.1]
  exact ⟨onlyLinks_linkTook, _, _, hP, takeFrame_delivers hd, hexec⟩

/-- What a frame does that every device takes itself. -/
theorem effect_of_takeLocal {deliver : State → State} (hin : InOrder s h)
    (hexec : exec c s = .next (takeLocal s h deliver)) (hP : P (linkTook s h) (deliver (linkTook s h))) : Effect s c h P := by
  rw [Effect, linkTake_inOrder hin]
  exact ⟨onlyLinks_linkTook, _, _, hP, .refl _, by rw [hexec, takeLocal_inOrder hin]⟩

end Links

end Sys2Proof.Machine
end

section
/-! What the ring's own work leaves: events, frames, answers to commands and the ends of requests change the functions and ports, the
tickets in use, and of the ring its links that are up, its stored answers and its requesters' banks (R22, R599, R604, R613). -/

namespace Sys2Proof.Machine

section RingCore

variable {s t : State} {l : Link}

/-- A link as far as it stands: of one that is up, only that it is. -/
def bareLink (k : LinkState) : LinkState := if k.up then { Reset.link with up := true } else k

/-- The part of the state that the ring's own work leaves: what is not of the functions, the ports, the tickets in use, the engines'
queues, and on the ring the traffic of links, the stored answers and the requesters' banks. -/
def ringCore (s : State) : State :=
  { s with
    fn := Reset.fn, portA := Reset.port, portB := Reset.port, engines := [], arb := { s.arb with tickets := [] }
    stk := { s.stk with
      up := bareLink s.stk.up, dn := bareLink s.stk.dn, ioSeen := []
      bankA := Reset.remote, bankB := Reset.remote, bankStk := Reset.remote } }

/-- The same but for the requests kept. -/
def ringRest (s : State) : State := (ringCore s).modStk fun k => { k with requests := [] }

theorem ringRest_of_ringCore (h : ringCore t = ringCore s) : ringRest t = ringRest s :=
  congrArg (fun u : State => u.modStk fun k => { k with requests := [] }) h

theorem bareLink_putFrame (k : LinkState) (f : OutFrame) : bareLink (putFrame k f) = bareLink k := by
  by_cases hup : k.up = true
  · simp [bareLink, hup]
  · rw [putFrame_down (by simpa using hup)]

/-- A link that is down in one of two states alike is the same in both. -/
theorem eq_of_bareLink {k k' : LinkState} (hk : k.up = false) (h : bareLink k' = bareLink k) : k' = k := by
  by_cases hup : k'.up = true
  · rw [bareLink, bareLink, if_pos hup, if_neg (by simp [hk])] at h
    rw [← h] at hk
    exact absurd hk (by decide)
  · rwa [bareLink, bareLink, if_neg hup, if_neg (by simp [hk])] at h

theorem link_of_ringRest (hdown : (s.stk.link l).up = false) (h : ringRest t = ringRest s) : t.stk.link l = s.stk.link l := by
  cases l
  · exact eq_of_bareLink hdown (congrArg (fun u : State => u.stk.up) h)
  · exact eq_of_bareLink hdown (congrArg (fun u : State => u.stk.dn) h)

/-! ### One update -/

@[simp] theorem ringCore_modFn (f : FnState → FnState) : ringCore (s.modFn f) = ringCore s := rfl
@[simp] theorem ringCore_modTasks (f : List Task → List Task) : ringCore (s.modTasks f) = ringCore s := rfl
@[simp] theorem ringCore_releaseTicket (id : Nat) : ringCore (releaseTicket s id) = ringCore s := rfl
@[simp] theorem ringCore_abortTasks (sel : Task → Bool) : ringCore (abortTasks s sel) = ringCore s := rfl
@[simp] theorem ringCore_modPort (p : Port) (f : PortState → PortState) : ringCore (s.modPort p f) = ringCore s := by cases p <;> rfl
@[simp] theorem ringCore_modPfn (p : Port) (f : PortFn → PortFn) : ringCore (s.modPfn p f) = ringCore s := by cases p <;> rfl
@[simp] theorem ringCore_modEmb (p : Port) (k : Nat) (f : EmbPort → EmbPort) : ringCore (modEmb s p k f) = ringCore s := ringCore_modPort _ _

@[simp] theorem ringCore_modRemote (id : Identity) (f : RemoteBank → RemoteBank) : ringCore (modRemote s id f) = ringCore s := by
  simp only [modRemote]
  split_ifs <;> rfl

theorem ringCore_foldl {α : Type} {step : State → α → State} (h : ∀ s x, ringCore (step s x) = ringCore s) (xs : List α) (s : State) :
    ringCore (xs.foldl step s) = ringCore s := foldl_unchanged ringCore step h xs s

/-! ### Events and frames -/

@[simp] theorem ringCore_queueEvents (kind inst d0 d1 : Nat) : ringCore (queueEvents s kind inst d0 d1) = ringCore s := by
  rw [queueEvents_eq]
  rfl

@[simp] theorem ringCore_stackEvent (pos code data : Nat) : ringCore (stackEvent s pos code data) = ringCore s := ringCore_queueEvents _ _ _ _

@[simp] theorem ringCore_sendOn (l : Link) (f : OutFrame) : ringCore (sendOn s l f) = ringCore s := by
  cases l
  · exact congrArg (fun k => (ringCore s).modStk fun q => { q with up := k }) (bareLink_putFrame s.stk.up f)
  · exact congrArg (fun k => (ringCore s).modStk fun q => { q with dn := k }) (bareLink_putFrame s.stk.dn f)

@[simp] theorem ringCore_storeIoRsp (pos tag : Nat) (payload : List Byte) : ringCore (storeIoRsp s pos tag payload) = ringCore s := rfl

@[simp] theorem ringCore_ringSend (ty dest tag : Nat) (resp : Bool) (payload : List Byte) :
    ringCore (ringSend s ty dest tag resp payload) = ringCore s := by
  simp only [ringSend]
  split
  · rw [ringCore_sendOn]
    split <;> simp
  · split <;> simp

@[simp] theorem ringCore_sendPair (dest tag order lba flags plot bank : Nat) (env : Envelope) (data : List Byte) :
    ringCore (sendPair s dest tag order lba flags plot bank env data) = ringCore s := by simp [sendPair]

/-! ### Answers to commands and their ends (R22) -/

@[simp] theorem ringCore_settleTasks : ringCore (settleTasks s) = ringCore s := by
  refine (ringCore_foldl (fun u t => ?_) _ _).trans rfl
  split <;> simp

@[simp] theorem ringCore_sendScsi (key : TaskKey) (st : ScsiStatus) (data : List Byte) : ringCore (sendScsi s key st data) = ringCore s := by
  have hin : ringCore (sendIn s key data.length) = ringCore s := by
    unfold sendIn
    split
    · rfl
    · split
      · rfl
      · dsimp only
        split_ifs <;> simp [modEp]
  exact hin

@[simp] theorem ringCore_respond (p : Port) (fn : CapsuleFn) (r : Response) : ringCore (respond s p fn r) = ringCore s := ringCore_modPfn _ _

@[simp] theorem ringCore_mgmtStatus (p : Port) (opcode tag status detail : Nat) : ringCore (mgmtStatus s p opcode tag status detail) = ringCore s :=
  ringCore_respond _ _ _

@[simp] theorem ringCore_answerTask (t : Task) (st : ScsiStatus) (data : List Byte) : ringCore (answerTask s t st data) = ringCore s := by
  simp only [answerTask]
  split
  · rfl
  · split
    · simp
    · simp
    · split
      · simp
      · split
        · exact (ringCore_sendPair _ _ _ _ _ _ _ _ _).trans rfl
        · simp

/-- A request that completes with LINK_LOST is kept no longer. -/
theorem ringCore_completeLost (q : RingReq) : ringCore (completeLost s q) = ringCore (dropRequest s q.tag) := by
  simp only [completeLost]
  split
  · split <;> simp
  · simp
  · simp
  · split
    · rfl
    · split <;> simp
  · split <;> simp
  · rfl

theorem ringRest_completeLost (q : RingReq) : ringRest (completeLost s q) = ringRest s :=
  (ringRest_of_ringCore (ringCore_completeLost q)).trans rfl

theorem requests_of_ringCore (h : ringCore t = ringCore s) : t.stk.requests = s.stk.requests :=
  (congrArg (fun u : State => u.stk.requests) h :)

theorem requests_completeLost (q : RingReq) : (completeLost s q).stk.requests = s.stk.requests.filter (·.tag != q.tag) :=
  requests_of_ringCore (ringCore_completeLost q)

/-! ### Requests that go the other way (R599) -/

theorem ringCore_resendOn (l : Link) (q : RingReq) : ringCore (resendOn s l q) = ringCore s := by
  simp only [resendOn]
  split <;> simp

theorem ringRest_modRequest (tag : Nat) (f : RingReq → RingReq) : ringRest (modRequest s tag f) = ringRest s := rfl

/-- One request whose path is gone: its copy goes the other way, or it completes with LINK_LOST. -/
def rerouteStep (a : State × Nat) (q : RingReq) : State × Nat :=
  match routeTo a.1 q.dest with
  | some l => (modRequest (resendOn a.1 l q) q.tag fun q => { q with resent := false }, a.2 + 1)
  | none => (completeLost a.1 q, a.2)

/-- The requests whose path a failure removed. -/
def lostPaths (before s : State) : List RingReq :=
  s.stk.requests.filter fun q => match routeTo before q.dest with
    | some l => !s.pathOn l q.dest
    | none => true

theorem reroute_eq (before s : State) : reroute before s =
    if ((lostPaths before s).foldl rerouteStep (s, 0)).2 = 0 then ((lostPaths before s).foldl rerouteStep (s, 0)).1
    else stackEvent ((lostPaths before s).foldl rerouteStep (s, 0)).1 ((lostPaths before s).foldl rerouteStep (s, 0)).1.ringPos 5
      ((lostPaths before s).foldl rerouteStep (s, 0)).2 := rfl

theorem ringRest_rerouteStep (a : State × Nat) (q : RingReq) : ringRest (rerouteStep a q).1 = ringRest a.1 := by
  unfold rerouteStep
  split
  · exact (ringRest_modRequest _ _).trans (ringRest_of_ringCore (ringCore_resendOn _ _))
  · exact ringRest_completeLost q

theorem ringRest_reroute (before : State) : ringRest (reroute before s) = ringRest s := by
  have hfold (hit : List RingReq) (a : State × Nat) : ringRest (hit.foldl rerouteStep a).1 = ringRest a.1 :=
    List.foldlRecOn hit rerouteStep (motive := fun b => ringRest b.1 = ringRest a.1) rfl
      fun b hb q _ => (ringRest_rerouteStep b q).trans hb
  rw [reroute_eq]
  split
  · exact hfold _ _
  · exact (ringRest_of_ringCore (ringCore_stackEvent _ _ _)).trans (hfold _ _)

/-! ### Plots taken from the ports and given back (R594, R612) -/

@[simp] theorem ringCore_detachPlot (n : Nat) : ringCore (detachPlot s n) = ringCore s := by
  refine ringCore_foldl (fun u p => ?_) _ _
  split
  · rfl
  · exact (ringCore_modPort _ _).trans (ringCore_modPfn _ _)

@[simp] theorem ringCore_addAttention (p : Port) (n : Nat) : ringCore (addAttention s p n) = ringCore s := rfl

@[simp] theorem ringCore_attachPlot (p : Port) (n fixed : Nat) : ringCore (attachPlot s p n fixed) = ringCore s := by
  unfold attachPlot
  split
  · rfl
  · simp only [connectEmb]
    split_ifs <;> simp

theorem ringCore_hidePlots : ringCore (hidePlots s) = ringCore s := ringCore_foldl (fun u n => by simp) _ _

theorem ringCore_showPlots : ringCore (showPlots s) = ringCore s := by
  refine ringCore_foldl (fun u n => ?_) _ _
  split
  · refine ringCore_foldl (fun v p => ?_) _ _
    split <;> simp
  · rfl

end RingCore

end Sys2Proof.Machine
end

section
/-! Links that come up, fail and replay (R582, R586 to R589), and requests whose path a failure removes (R599). -/

namespace Sys2Proof.Machine

section LinkLife

variable {s t : State} {l : Link} {k : LinkState} {q : RingReq}

/-! ### Events, and what a frame leaves -/

theorem stackEvent_eq (s : State) (pos code data : Nat) : stackEvent s pos code data = { s with fn := (stackEvent s pos code data).fn } :=
  queueEvents_eq s _ _ _ _

@[simp] theorem stackEvent_stk (pos code data : Nat) : (stackEvent s pos code data).stk = s.stk := by rw [stackEvent_eq]
@[simp] theorem stackEvent_fields (pos code data : Nat) : (stackEvent s pos code data).fields = s.fields := by rw [stackEvent_eq]
@[simp] theorem stackEvent_arb (pos code data : Nat) : (stackEvent s pos code data).arb = s.arb := by rw [stackEvent_eq]
@[simp] theorem stackEvent_lay (pos code data : Nat) : (stackEvent s pos code data).lay = s.lay := by rw [stackEvent_eq]

@[simp] theorem sendOn_broken (l : Link) (f : OutFrame) : (sendOn s l f).stk.broken = s.stk.broken := by cases l <;> rfl
@[simp] theorem sendOn_requests (l : Link) (f : OutFrame) : (sendOn s l f).stk.requests = s.stk.requests := by cases l <;> rfl
@[simp] theorem sendOn_fields (l : Link) (f : OutFrame) : (sendOn s l f).fields = s.fields := by cases l <;> rfl
@[simp] theorem sendOn_arb (l : Link) (f : OutFrame) : (sendOn s l f).arb = s.arb := by cases l <;> rfl

theorem mem_broken_breakSegment (s : State) (g : Nat) : g ∈ (breakSegment s g).stk.broken := by
  by_cases hg : g ∈ s.stk.broken
  · simp [breakSegment, State.modStk, hg]
  · simp [breakSegment, State.modStk, hg]

/-! ### A link comes up (R582) -/

/-- A link that starts anew. -/
def linkFresh (s : State) (k : LinkState) : LinkState :=
  { k with
    up := true, lock := 0xF, txSeq := 0, rxSeq := 0xFFF, unacked := [], waiting := [], replayRun := 0, credits := s.creditsOf
    owed := 0, nakSent := false }

def helloFrame (s : State) : OutFrame := ⟨0x03, false, false, false, 0, s.ringPos, 1, 0, s.ownHello⟩

def linkStarted (s : State) (l : Link) : State :=
  stackEvent (sendOn (mendSegment (modLink s l (linkFresh s)) (segmentOf s s.ringPos l)) l (helloFrame s)) s.ringPos 4 (linkCode l)

theorem exec_linkUp_idle (h : (s.stk.link l).idle = true ∨ (s.stk.link l).up = true ∨ s.stk.dup = true) : exec (.linkUp l) s = .next s :=
  congrArg Host.Outcome.next (if_pos h)

theorem exec_linkUp (hidle : (s.stk.link l).idle = false) (hup : (s.stk.link l).up = false) (hdup : s.stk.dup = false) :
    exec (.linkUp l) s = .next (linkStarted s l) := by
  have hready : ¬ ((s.stk.link l).idle = true ∨ (s.stk.link l).up = true ∨ s.stk.dup = true) := by simp [hidle, hup, hdup]
  refine congrArg Host.Outcome.next ((if_neg hready).trans ?_)
  cases l <;> rfl

theorem linkStarted_link : (linkStarted s l).stk.link l = putFrame (linkFresh s (s.stk.link l)) (helloFrame s) := by
  rw [linkStarted, stackEvent_stk, sendOn_link]
  exact congrArg (putFrame · (helloFrame s)) (modLink_link l (linkFresh s))

theorem linkStarted_link_other : (linkStarted s l).stk.link (Link.other l) = s.stk.link (Link.other l) := by
  rw [linkStarted, stackEvent_stk, sendOn_link_other]
  exact modLink_link_other l (linkFresh s)

theorem linkStarted_broken : segmentOf s s.ringPos l ∉ (linkStarted s l).stk.broken := by
  simp [linkStarted, mendSegment, State.modStk]

/-! ### A link fails (R588, R599) -/

/-- A link declared down. -/
def downed (k : LinkState) : LinkState :=
  { k with up := false, downs := count 0xFF k.downs, unacked := [], waiting := [], replayRun := 0, credits := 0, nakSent := false }

def linkdownFrame (s : State) (l : Link) : OutFrame :=
  ⟨0x04, true, false, false, 0, s.ringPos, max 1 s.stk.size - 1, 0, leBytes 1 s.ringPos ++ leBytes 1 (linkCode l) ++ [0, 0]⟩

/-- The state in which the link is down and the other devices are told, before requests are routed anew. -/
def linkCut (s : State) (l : Link) : State :=
  stackEvent (sendOn (breakSegment (modLink s l downed) (segmentOf s s.ringPos l)) (Link.other l) (linkdownFrame s l)) s.ringPos 3 (linkCode l)

theorem linkDown_down (hup : (s.stk.link l).up = false) : linkDown s l = s := if_pos (by simp [hup])

theorem linkDown_up (hup : (s.stk.link l).up = true) : linkDown s l = reroute s (linkCut s l) := by
  refine (if_neg (by simp [hup])).trans ?_
  cases l <;> rfl

theorem linkCut_link : (linkCut s l).stk.link l = downed (s.stk.link l) := by
  rw [linkCut, stackEvent_stk, sendOn_other_link]
  exact modLink_link l downed

theorem linkCut_link_other : (linkCut s l).stk.link (Link.other l) = putFrame (s.stk.link (Link.other l)) (linkdownFrame s l) := by
  rw [linkCut, stackEvent_stk, sendOn_link]
  exact congrArg (putFrame · (linkdownFrame s l)) (modLink_link_other l downed)

theorem linkCut_requests : (linkCut s l).stk.requests = s.stk.requests := by
  rw [linkCut, stackEvent_stk, sendOn_requests]
  cases l <;> rfl

theorem linkCut_fields : (linkCut s l).fields = s.fields := by
  rw [linkCut, stackEvent_fields, sendOn_fields]
  cases l <;> rfl

theorem linkCut_broken : (linkCut s l).stk.broken = (breakSegment s (segmentOf s s.ringPos l)).stk.broken := by
  rw [linkCut, stackEvent_stk, sendOn_broken]
  cases l <;> rfl

theorem ringRest_linkDown (hup : (s.stk.link l).up = true) : ringRest (linkDown s l) = ringRest (linkCut s l) := by
  rw [linkDown_up hup]
  exact ringRest_reroute s

theorem linkDown_link (hup : (s.stk.link l).up = true) : (linkDown s l).stk.link l = downed (s.stk.link l) :=
  (link_of_ringRest (by rw [linkCut_link]; rfl) (ringRest_linkDown hup)).trans linkCut_link

theorem linkDown_broken (hup : (s.stk.link l).up = true) : segmentOf s s.ringPos l ∈ (linkDown s l).stk.broken := by
  have hbroken : (linkDown s l).stk.broken = (linkCut s l).stk.broken := (congrArg (fun u : State => u.stk.broken) (ringRest_linkDown hup) :)
  rw [hbroken, linkCut_broken]
  exact mem_broken_breakSegment _ _

theorem linkDown_fields (hup : (s.stk.link l).up = true) : (linkDown s l).fields = s.fields :=
  (congrArg State.fields (ringRest_linkDown hup) :).trans linkCut_fields

/-- With no request to route anew, the other link's last frame is LINKDOWN. -/
theorem linkDown_tells (hup : (s.stk.link l).up = true) (hnone : s.stk.requests = []) (hother : (s.stk.link (Link.other l)).up = true)
    (hcredit : 0 < (s.stk.link (Link.other l)).credits) : (linkDown s l).lastSent (Link.other l) = some (linkdownFrame s l) := by
  have hlost : lostPaths s (linkCut s l) = [] := by rw [lostPaths, linkCut_requests, hnone]; rfl
  have hsame : linkDown s l = linkCut s l := by rw [linkDown_up hup, reroute_eq, hlost]; rfl
  rw [hsame, State.lastSent, linkCut_link_other]
  exact putFrame_last hother hcredit _

/-! ### A request goes the other way -/

/-- The segment of a device's own link does not lie on the path of its other link. -/
theorem segment_off_path (p n i hops : Nat) (hn : 0 < n) (hhops : hops < n) (hi : i < hops) :
    (p + n - 1 - i % n) % n ≠ p ∧ (p + i) % n ≠ (p + n - 1) % n := by
  have himod : i % n = i := Nat.mod_eq_of_lt (by omega)
  constructor
  · intro h
    have hp : p < n := h ▸ Nat.mod_lt _ hn
    rw [himod] at h
    by_cases hle : i + 1 ≤ p
    · rw [show p + n - 1 - i = (p - 1 - i) + n by omega, Nat.add_mod_right, Nat.mod_eq_of_lt (by omega)] at h
      omega
    · rw [Nat.mod_eq_of_lt (by omega)] at h
      omega
  · intro h
    have hdiff : (n - 1 - i) % n = 0 := by
      have hmod : (p + i) ≡ (p + i) + (n - 1 - i) [MOD n] := by
        rw [show p + i + (n - 1 - i) = p + n - 1 by omega]
        exact h
      exact (Nat.ModEq.add_left_cancel' (p + i) (a := 0) hmod).symm
    rw [Nat.mod_eq_of_lt (by omega)] at hdiff
    omega

theorem hopsTo_lt (s : State) (l : Link) (dest : Nat) : s.hopsTo l dest < max 1 s.stk.size := by
  have hn : 0 < max 1 s.stk.size := by omega
  cases l <;> exact Nat.mod_lt _ hn

theorem linkCut_pathOn (l : Link) (dest : Nat) : (linkCut s l).pathOn l dest = false := by
  simp [State.pathOn, linkCut_link, downed]

theorem linkCut_size : (linkCut s l).stk.size = s.stk.size := by
  rw [linkCut, stackEvent_stk]
  cases l <;> rfl

theorem linkCut_ringPos : (linkCut s l).ringPos = s.ringPos := by
  rw [linkCut, State.ringPos, stackEvent_stk]
  cases l <;> rfl

theorem linkCut_isChain : (linkCut s l).isChain = s.isChain := by
  rw [linkCut, State.isChain, State.stackCfg?, State.layout, stackEvent_lay]
  cases l <;> rfl

theorem linkCut_hopsTo (m : Link) (dest : Nat) : (linkCut s l).hopsTo m dest = s.hopsTo m dest := by
  simp only [State.hopsTo, linkCut_size, linkCut_ringPos]

/-- The segments a frame passes on its way to a position. -/
def pathSegments (s : State) (l : Link) (dest : Nat) : List Nat :=
  (List.range (s.hopsTo l dest)).map fun i =>
    match l with
    | .dn => (s.ringPos + i) % max 1 s.stk.size
    | .up => (s.ringPos + max 1 s.stk.size - 1 - i % max 1 s.stk.size) % max 1 s.stk.size

theorem pathOn_iff (l : Link) (dest : Nat) : s.pathOn l dest = true ↔
    (s.stk.link l).up = true ∧ (∀ g ∈ pathSegments s l dest, g ∉ s.stk.broken) ∧
      (s.isChain = false ∨ (match l with | .dn => s.ringPos < dest | .up => dest < s.ringPos)) := by
  cases l <;> simp [State.pathOn, pathSegments, and_assoc]

theorem pathSegments_other (l : Link) (dest : Nat) : segmentOf s s.ringPos l ∉ pathSegments s (Link.other l) dest := by
  have hn : 0 < max 1 s.stk.size := by omega
  intro hmem
  obtain ⟨i, hi, heq⟩ := List.mem_map.mp hmem
  obtain ⟨hoffUp, hoffDn⟩ := segment_off_path s.ringPos _ i _ hn (hopsTo_lt s (Link.other l) dest) (List.mem_range.mp hi)
  cases l
  · exact hoffDn heq
  · exact hoffUp heq

/-- The other direction keeps its path. -/
theorem linkCut_pathOn_other (dest : Nat) (h : s.pathOn (Link.other l) dest = true) : (linkCut s l).pathOn (Link.other l) dest = true := by
  obtain ⟨hup, hsegs, hchain⟩ := (pathOn_iff _ _).mp h
  have hpath : pathSegments (linkCut s l) (Link.other l) dest = pathSegments s (Link.other l) dest := by
    simp only [pathSegments, linkCut_hopsTo, linkCut_size, linkCut_ringPos]
  rw [pathOn_iff, hpath, linkCut_isChain, linkCut_ringPos, linkCut_link_other, putFrame_up]
  refine ⟨hup, fun g hg hbroken => ?_, hchain⟩
  rw [linkCut_broken] at hbroken
  have hnew : g ≠ segmentOf s s.ringPos l := fun he => pathSegments_other l dest (he ▸ hg)
  have hold : g ∈ s.stk.broken := by
    simp only [breakSegment, State.modStk] at hbroken
    split at hbroken
    · exact hbroken
    · simpa [hnew] using hbroken
  exact hsegs g hg hold

theorem routeTo_linkCut (dest : Nat) (h : s.pathOn (Link.other l) dest = true) : routeTo (linkCut s l) dest = some (Link.other l) := by
  have hgone := linkCut_pathOn (s := s) l dest
  have hstays := linkCut_pathOn_other dest h
  cases l <;> simp_all [routeTo, Link.other]

/-- The copy of a request that goes again over a link (R599). -/
def copyOf (s : State) (l : Link) (dest : Nat) (f : OutFrame) : OutFrame := { f with rerouted := true, hops := s.hopsTo l dest }

/-- The copy of a request goes first, its second frame after it: with two credits the window holds both. -/
theorem resendOn_sent (hup : (s.stk.link l).up = true) (hcredit : 1 < (s.stk.link l).credits) (q : RingReq) :
    copyOf s l q.dest q.frame ∈ ((resendOn s l q).stk.link l).sent := by
  have hfirst : [copyOf s l q.dest q.frame] <:+ (putFrame (s.stk.link l) (copyOf s l q.dest q.frame)).sent := by
    simpa using putFrame_suffix (ys := []) hup (by omega) (List.nil_suffix) (by simp) (copyOf s l q.dest q.frame)
  cases hsecond : q.second with
  | none =>
    have hsame : resendOn s l q = sendOn s l (copyOf s l q.dest q.frame) := by rw [resendOn, hsecond]; rfl
    rw [hsame, sendOn_link]
    exact hfirst.subset (by simp)
  | some f =>
    have hsame : resendOn s l q = sendOn (sendOn s l (copyOf s l q.dest q.frame)) l (copyOf s l q.dest f) := by rw [resendOn, hsecond]; rfl
    rw [hsame, sendOn_link, sendOn_link]
    have hleft := putFrame_credits hup (by omega) (copyOf s l q.dest q.frame)
    have hboth := putFrame_suffix (by rw [putFrame_up]; exact hup) (by omega) hfirst (by simp) (copyOf s l q.dest f)
    exact hboth.subset (by simp)

theorem resendOn_requests (q : RingReq) : (resendOn s l q).stk.requests = s.stk.requests := by
  simp only [resendOn]
  split <;> simp

@[simp] theorem modRequest_link (tag : Nat) (f : RingReq → RingReq) (m : Link) : (modRequest s tag f).stk.link m = s.stk.link m := by
  cases m <;> rfl

/-- A request whose path the failed link was goes the other way, and only it. -/
theorem linkDown_reroutes (hup : (s.stk.link l).up = true) (hone : s.stk.requests = [q]) (hpath : routeTo s q.dest = some l)
    (hother : s.pathOn (Link.other l) q.dest = true) (hcredit : 2 < (s.stk.link (Link.other l)).credits) :
    (linkDown s l).stk.requests = [{ q with resent := false }] ∧
      copyOf s (Link.other l) q.dest q.frame ∈ ((linkDown s l).stk.link (Link.other l)).sent := by
  obtain ⟨hup', -, -⟩ := (pathOn_iff _ _).mp hother
  have hlost : lostPaths s (linkCut s l) = [q] := by
    simp [lostPaths, linkCut_requests, hone, hpath, linkCut_pathOn]
  have hstep : rerouteStep (linkCut s l, 0) q =
      (modRequest (resendOn (linkCut s l) (Link.other l) q) q.tag fun q => { q with resent := false }, 1) := by
    simp [rerouteStep, routeTo_linkCut _ hother]
  have hdown : linkDown s l = stackEvent (rerouteStep (linkCut s l, 0) q).1 (rerouteStep (linkCut s l, 0) q).1.ringPos 5 1 := by
    rw [linkDown_up hup, reroute_eq, hlost, List.foldl_cons, List.foldl_nil, hstep]
    exact if_neg Nat.one_ne_zero
  have hleft := putFrame_credits hup' (by omega) (linkdownFrame s l)
  rw [← linkCut_link_other] at hleft
  have hsent := resendOn_sent (s := linkCut s l) (l := Link.other l) (by rw [linkCut_link_other, putFrame_up]; exact hup') (by omega) q
  rw [copyOf, linkCut_hopsTo] at hsent
  rw [hdown, stackEvent_stk, hstep]
  refine ⟨?_, ?_⟩
  · simp [modRequest, State.modStk, resendOn_requests, linkCut_requests, hone]
  · rw [modRequest_link]
    exact hsent

end LinkLife

end Sys2Proof.Machine
end

section
/-! What a link does with lanes, acknowledgements, replays and frames (R582 to R589, R598, R599). -/

namespace Sys2Proof.Machine

section LinkSteps

variable {s t u : State} {l : Link} {k : LinkState} {h : FrameHdr} {c : Instr}

/-! ### Lanes (R582, R588) -/

/-- The lanes of a link but for one. -/
def lockWithout (lane lock : Nat) : Nat := bitset ((List.range 4).filter fun i => lock.testBit i && i != lane)

theorem testBit_bitset (xs : List Nat) (i : Nat) : (bitset xs).testBit i = decide (i ∈ xs) := by
  have hfold (a : Nat) : (xs.foldl (fun a i => a ||| 2 ^ i) a).testBit i = (a.testBit i || decide (i ∈ xs)) := by
    induction xs generalizing a with
    | nil => simp
    | cons x xs ih =>
      rw [List.foldl_cons, ih]
      simp [Nat.testBit_or, Nat.testBit_two_pow, Bool.or_assoc, eq_comm]
  exact (hfold 0).trans (by simp)

theorem lockWithout_testBit (lane lock : Nat) : (lockWithout lane lock).testBit lane = false := by
  rw [lockWithout, testBit_bitset]
  simp

/-- The link with the lane gone, not yet declared down. -/
def laneLost (s : State) (l : Link) (lane : Nat) : State := modLink s l fun k => { k with lock := lockWithout lane k.lock }

theorem exec_laneLoss (l : Link) (lane : Nat) (s : State) : exec (.laneLoss l lane) s = .next (linkDown (laneLost s l lane) l) := rfl

theorem laneLost_link (lane : Nat) :
    (laneLost s l lane).stk.link l = { s.stk.link l with lock := lockWithout lane (s.stk.link l).lock } := modLink_link _ _

theorem laneLost_link_other (lane : Nat) : (laneLost s l lane).stk.link (Link.other l) = s.stk.link (Link.other l) := modLink_link_other _ _

/-- A lane matters to no path. -/
theorem laneLost_paths (lane dest : Nat) : (laneLost s l lane).stk.requests = s.stk.requests ∧ (laneLost s l lane).fields = s.fields ∧
    segmentOf (laneLost s l lane) (laneLost s l lane).ringPos l = segmentOf s s.ringPos l ∧ linkdownFrame (laneLost s l lane) l = linkdownFrame s l ∧
    routeTo (laneLost s l lane) dest = routeTo s dest ∧ (∀ m, (laneLost s l lane).pathOn m dest = s.pathOn m dest) ∧
    ∀ m f, copyOf (laneLost s l lane) m dest f = copyOf s m dest f := by
  cases l <;> exact ⟨rfl, rfl, rfl, rfl, rfl, fun m => by cases m <;> rfl, fun _ _ => rfl⟩

theorem exec_laneLoss_down (lane : Nat) (hup : (s.stk.link l).up = false) :
    ∃ t, exec (.laneLoss l lane) s = .next t ∧ OnlyLinks s t ∧ (t.stk.link l).lock.testBit lane = false := by
  have hdown : ((laneLost s l lane).stk.link l).up = false := by rw [laneLost_link]; exact hup
  refine ⟨_, (exec_laneLoss l lane s).trans (congrArg _ (linkDown_down hdown)), onlyLinks_modLink _ _, ?_⟩
  rw [laneLost_link]
  exact lockWithout_testBit _ _

/-! ### Replays (R586) -/

theorem exec_replayTimeout_nothing (hnone : (s.stk.link l).up = false ∨ (s.stk.link l).unacked = []) : exec (.replayTimeout l) s = .next s :=
  congrArg Host.Outcome.next (if_pos (by simpa using hnone))

/-- A link that has sent its unacknowledged frames again. -/
def linkReplayed (k : LinkState) : LinkState :=
  { k.unacked.foldl (fun k x => noteSent k x.2) k with replays := count 0xFF k.replays, replayRun := k.replayRun + 1 }

theorem linkReplayed_unacked : (linkReplayed k).unacked = k.unacked := by
  rw [linkReplayed, foldl_noteSent_leaves]

theorem linkReplayed_suffix (hlen : k.unacked.length ≤ 64) : k.unacked.map (·.2) <:+ (linkReplayed k).sent := by
  simpa [linkReplayed] using foldl_noteSent_suffix k.unacked (k := k) (ys := []) List.nil_suffix (by simpa using hlen)

section Unacked

variable (hup : (s.stk.link l).up = true) (hframes : (s.stk.link l).unacked ≠ [])
include hup hframes

theorem exec_replayTimeout_again (hrun : (s.stk.link l).replayRun < s.retryOf) : exec (.replayTimeout l) s = .next (modLink s l linkReplayed) := by
  have hsome : ¬ ((!(s.stk.link l).up) = true ∨ (s.stk.link l).unacked.isEmpty = true) := by simp [hup, hframes]
  exact congrArg Host.Outcome.next ((if_neg hsome).trans (if_neg (Nat.not_le.mpr hrun)))

theorem exec_replayTimeout_down (hrun : s.retryOf ≤ (s.stk.link l).replayRun) : exec (.replayTimeout l) s = .next (linkDown s l) := by
  have hsome : ¬ ((!(s.stk.link l).up) = true ∨ (s.stk.link l).unacked.isEmpty = true) := by simp [hup, hframes]
  exact congrArg Host.Outcome.next ((if_neg hsome).trans (if_pos hrun))

end Unacked

/-! ### Training again (R589) -/

theorem exec_linkRetrain_not (hnot : (s.stk.link l).up = true ∨ (s.stk.link l).idle = true ∨ s.stk.dup = true) :
    exec (.linkRetrain l) s = .next s := congrArg Host.Outcome.next (if_pos hnot)

theorem exec_linkRetrain (hup : (s.stk.link l).up = false) (hidle : (s.stk.link l).idle = false) (hdup : s.stk.dup = false) :
    exec (.linkRetrain l) s = .next (modLink s l fun k => { k with lock := 0 }) :=
  congrArg Host.Outcome.next (if_neg (by simp [hup, hidle, hdup]))

/-! ### Acknowledgements and credits (R585, R587) -/

/-- The replay buffer after an acknowledgement. -/
def acked (h : FrameHdr) (k : LinkState) : LinkState :=
  match k.unacked.findIdx? (·.1 == h.lack) with
  | some i => if h.ackv then { k with unacked := k.unacked.drop (i + 1), replayRun := 0 } else k
  | none => k

theorem takeAck_eq (limit : Nat) (h : FrameHdr) (k : LinkState) : takeAck limit h k =
    drainWaiting (acked h k).waiting.length { acked h k with credits := min limit ((acked h k).credits + h.credit) } := rfl

theorem acked_leaves (h : FrameHdr) (k : LinkState) :
    acked h k = { k with unacked := (acked h k).unacked, replayRun := (acked h k).replayRun } := by
  unfold acked
  split
  · split <;> rfl
  · rfl

/-- With no frame waiting, an acknowledgement drops what it names and returns credits. -/
theorem takeAck_idle (limit : Nat) (hnone : k.waiting = []) :
    takeAck limit h k = { acked h k with credits := min limit (k.credits + h.credit) } := by
  rw [takeAck_eq, acked_leaves, hnone]
  rfl

theorem acked_named {pre post : List (Nat × OutFrame)} {f : OutFrame} (hackv : h.ackv = true) (hk : k.unacked = pre ++ (h.lack, f) :: post)
    (hpre : ∀ x ∈ pre, x.1 ≠ h.lack) : (acked h k).unacked = post ∧ (acked h k).replayRun = 0 := by
  have hidx : k.unacked.findIdx? (·.1 == h.lack) = some pre.length := by
    have hmiss : pre.findIdx? (·.1 == h.lack) = none := by simpa [List.findIdx?_eq_none_iff] using hpre
    rw [hk, List.findIdx?_append, hmiss]
    simp [List.findIdx?_cons]
  rw [acked, hidx]
  simp [hackv, hk]

theorem acked_unnamed (hnot : h.ackv = false ∨ ∀ x ∈ k.unacked, x.1 ≠ h.lack) : (acked h k).unacked = k.unacked := by
  unfold acked
  split
  case h_1 i hidx =>
    obtain hackv | hmiss := hnot
    · rw [if_neg (by simp [hackv])]
    · have hnone : k.unacked.findIdx? (·.1 == h.lack) = none := by simpa [List.findIdx?_eq_none_iff] using hmiss
      simp [hnone] at hidx
  case h_2 => rfl

/-- A frame that waited goes with the credit that comes. -/
theorem takeAck_waiting {limit : Nat} {f : OutFrame} (hup : k.up = true) (hone : k.waiting = [f]) (hlimit : 0 < limit)
    (hcredit : 0 < k.credits + h.credit) :
    (takeAck limit h k).sent.getLast? = some f ∧ (takeAck limit h k).waiting = [] := by
  have hgo : takeAck limit h k = putFrame { acked h k with credits := min limit (k.credits + h.credit), waiting := [] } f := by
    rw [takeAck_eq, acked_leaves, hone]
    simp only [List.length_singleton, drainWaiting]
    exact if_neg (by omega)
  have hup' : (acked h k).up = true := by rw [acked_leaves]; exact hup
  have hpos : 0 < min limit (k.credits + h.credit) := by omega
  rw [hgo]
  refine ⟨putFrame_last (k := { acked h k with credits := min limit (k.credits + h.credit), waiting := [] }) hup' hpos f, ?_⟩
  by_cases hty : f.ty = frameAck ∨ f.ty = frameNak
  · rw [putFrame_control (k := { acked h k with credits := min limit (k.credits + h.credit), waiting := [] }) hup' hty]
    rfl
  · rw [putFrame_credit (k := { acked h k with credits := min limit (k.credits + h.credit), waiting := [] }) hup' hty hpos]
    rfl

def ackTaken (s : State) (h : FrameHdr) : State := modLink s h.link (takeAck s.creditsOf h)

theorem exec_ack_closed (hclosed : (s.stk.link h.link).up = false ∨ s.stk.dup = true) : exec (.ack h) s = .next s ∧ exec (.nak h) s = .next s := by
  have hnot : ¬ ((s.stk.link h.link).up = true ∧ (!s.stk.dup) = true) := by
    obtain hup | hdup := hclosed
    · simp [hup]
    · simp [hdup]
  exact ⟨congrArg Host.Outcome.next (if_neg hnot), congrArg Host.Outcome.next (if_neg hnot)⟩

theorem exec_ack (hup : (s.stk.link h.link).up = true) (hdup : s.stk.dup = false) : exec (.ack h) s = .next (ackTaken s h) :=
  congrArg Host.Outcome.next (if_pos ⟨hup, by simp [hdup]⟩)

theorem exec_nak (hup : (s.stk.link h.link).up = true) (hdup : s.stk.dup = false) :
    exec (.nak h) s = exec (.replayTimeout h.link) (ackTaken s h) :=
  congrArg Host.Outcome.next (if_pos ⟨hup, by simp [hdup]⟩)

/-! ### Frames that are not taken (R585) -/

theorem exec_linkFrameError_none {ok : Bool} {q : Nat} (hnot : (s.stk.link l).up = false ∨ s.stk.dup = true ∨
      (ok = true ∧ q = ((s.stk.link l).rxSeq + 1) % 4096) ∨ (s.stk.link l).nakSent = true) :
    exec (.linkFrameError l ok q) s = .next s := by
  refine congrArg Host.Outcome.next (if_ctx_congr Iff.rfl (fun _ => rfl) (fun hopen => ?_) |>.trans (ite_self s))
  simp only [not_or, Bool.not_eq_true', Bool.not_eq_false] at hopen
  obtain ⟨hup, hdup, horder⟩ := hopen
  obtain hdown | hdup' | hin | hnak := hnot
  · simp [hdown] at hup
  · exact absurd hdup' hdup
  · exact absurd hin horder
  · exact if_pos hnak

theorem exec_linkFrameError {ok : Bool} {q : Nat} (hup : (s.stk.link l).up = true) (hdup : s.stk.dup = false)
    (hbad : ok = false ∨ q ≠ ((s.stk.link l).rxSeq + 1) % 4096) : exec (.linkFrameError l ok q) s = .next (sendNak s l) := by
  refine congrArg Host.Outcome.next (if_neg ?_)
  simpa [hup, hdup, imp_iff_not_or] using hbad

/-- One NAK leaves credits as they are and is the last frame sent. -/
theorem sendNak_sent (hup : (s.stk.link l).up = true) (hnak : (s.stk.link l).nakSent = false) :
    ((sendNak s l).stk.link l).credits = (s.stk.link l).credits ∧ ((sendNak s l).lastSent l).map (·.ty) = some 0x02 := by
  have hlink : (sendNak s l).stk.link l = putFrame { s.stk.link l with nakSent := true } (ackFrame s frameNak) := by
    rw [sendNak_eq hnak, sendOn_link]
    exact congrArg (putFrame · _) (modLink_link l _)
  have hcontrol := putFrame_control (k := { s.stk.link l with nakSent := true }) (f := ackFrame s frameNak) hup (.inr rfl)
  rw [State.lastSent, hlink, hcontrol]
  exact ⟨rfl, congrArg (Option.map (·.ty)) (noteSent_last _ _)⟩

/-! ### Every frame (R585, R598) -/

/-- A frame's command routes it or takes it here. -/
theorem exec_frame {r : Bool} (hc : frameOf? c = some (h, r)) (s : State) :
    (∃ ty payload deliver, exec c s = .next (takeFrame s h ty payload deliver)) ∨ (r = false ∧ ∃ deliver, exec c s = .next (takeLocal s h deliver)) := by
  unfold frameOf? at hc
  split at hc
  case h_1 | h_2 | h_3 =>
    cases hc
    exact .inr ⟨rfl, _, rfl⟩
  case h_26 => cases hc
  all_goals
    cases hc
    exact .inl ⟨_, _, _, rfl⟩

theorem exec_frame_notTaken {r : Bool} (hc : frameOf? c = some (h, r)) (ht : linkTake s h = (u, false)) : exec c s = .next u := by
  obtain ⟨ty, payload, deliver, hexec⟩ | ⟨-, deliver, hexec⟩ := exec_frame hc s
  · exact hexec.trans (congrArg _ (takeFrame_notTaken ht))
  · exact hexec.trans (congrArg _ (takeLocal_notTaken ht))

/-- A routed frame for another position changes the links alone, and goes on with one hop less while it has hops left. -/
theorem exec_frame_passes (hc : frameOf? c = some (h, true)) (hin : InOrder s h) (hb : h.bcast = false) (hpos : s.stk.pos ≠ some h.dest) :
    ∃ ty payload, exec c s = .next (passOn (linkTook s h) h ty payload) := by
  obtain ⟨ty, payload, deliver, hexec⟩ | ⟨hfalse, -⟩ := exec_frame hc s
  · exact ⟨ty, payload, hexec.trans (congrArg _ (takeFrame_passes hin hb hpos))⟩
  · cases hfalse

section PassOn

variable {ty : Nat} {payload : List Byte}

theorem passOn_usedUp (hhops : h.hops ≤ 1) : passOn s h ty payload = s := if_pos hhops

theorem passOn_link : (passOn s h ty payload).stk.link h.link = s.stk.link h.link := by
  unfold passOn
  split
  · rfl
  · exact sendOn_other_link _ _

theorem passOn_lastSent (hhops : 1 < h.hops) (hup : (s.stk.link (Link.other h.link)).up = true)
    (hcredit : 0 < (s.stk.link (Link.other h.link)).credits) : (passOn s h ty payload).lastSent (Link.other h.link) =
      some ⟨ty, h.bcast, h.resp, h.rerouted, h.dest, h.src, h.hops - 1, h.tag, payload⟩ := by
  rw [passOn, if_neg (Nat.not_le.mpr hhops)]
  exact sendOn_lastSent hup hcredit _

end PassOn

/-! ### A frame of no known type (R584) -/

/-- The record of an unknown frame leaves everything else. -/
theorem logFault_frame (s : State) : { logFault s 0x0001 0 0xFFFF false false 0 0xFF idStack.toNat 0xFFFFFFFF 0 with saf := s.saf } = s := by
  unfold logFault
  split <;> rfl

theorem logFault_frame_written (hrec : s.saf.recPending = none) :
    ∃ r, (logFault s 0x0001 0 0xFFFF false false 0 0xFF idStack.toNat 0xFFFFFFFF 0).saf.log = (r :: s.saf.log).take 256 ∧
      r.cause = 0x0001 ∧ r.scope = 0 := by
  simp only [logFault, hrec, Option.isSome_none, Bool.false_eq_true, if_false]
  exact ⟨_, rfl, rfl, rfl⟩

end LinkSteps

end Sys2Proof.Machine
end

section
/-! Links that train, replay and route (R582 to R589, R598, R599); O53. -/

namespace Sys2Proof.Machine

section LinkClauses

variable {s : State} {l : Link} {h : FrameHdr} {c : Instr}

/-- A link comes up (R582, R587). -/
theorem linkUp_starts (hidle : (s.stk.link l).idle = false) (hup : (s.stk.link l).up = false) (hdup : s.stk.dup = false) :
    ∃ t, exec (.linkUp l) s = .next t ∧
      (t.stk.link l).up = true ∧ (t.stk.link l).lock = 0xF ∧ (t.stk.link l).rxSeq = 0xFFF ∧
      t.stk.link (Link.other l) = s.stk.link (Link.other l) ∧ segmentOf s s.ringPos l ∉ t.stk.broken ∧ t.stk.requests = s.stk.requests ∧
      (0 < s.creditsOf → (t.stk.link l).credits = s.creditsOf - 1 ∧
        ∃ f, (t.stk.link l).unacked = [(0, f)] ∧ f.ty = 0x03 ∧ f.payload = s.ownHello) ∧ t.fields = s.fields ∧ t.arb = s.arb := by
  refine ⟨_, exec_linkUp hidle hup hdup, ?_, ?_, ?_, linkStarted_link_other, linkStarted_broken, ?_, fun hcredit => ?_, ?_, ?_⟩
  · rw [linkStarted_link, putFrame_up]
    rfl
  · rw [linkStarted_link, putFrame_leaves]
    rfl
  · rw [linkStarted_link, putFrame_rxSeq]
    rfl
  · rw [linkStarted, stackEvent_stk, sendOn_requests]
    cases l <;> rfl
  · rw [linkStarted_link, putFrame_credit (k := linkFresh s (s.stk.link l)) rfl (by simp [helloFrame, frameAck, frameNak]) hcredit]
    exact ⟨rfl, _, rfl, rfl, rfl⟩
  · rw [linkStarted, stackEvent_fields, sendOn_fields]
    cases l <;> rfl
  · rw [linkStarted, stackEvent_arb, sendOn_arb]
    cases l <;> rfl

/-- A lane lost takes the link down, and a request on it the other way (R588, R599). -/
theorem laneLoss_takesDown (lane : Nat) (hup : (s.stk.link l).up = true) :
    ∃ t, exec (.laneLoss l lane) s = .next t ∧ (t.stk.link l).up = false ∧
      (t.stk.link l).lock.testBit lane = false ∧ (t.stk.link l).unacked = [] ∧ (t.stk.link l).waiting = [] ∧
      (t.stk.link l).downs = min 0xFF ((s.stk.link l).downs + 1) ∧ segmentOf s s.ringPos l ∈ t.stk.broken ∧ t.fields = s.fields ∧
      (s.stk.requests = [] → (s.stk.link (Link.other l)).up = true → 0 < (s.stk.link (Link.other l)).credits →
        ∃ f, t.lastSent (Link.other l) = some f ∧ f.ty = 0x04 ∧ f.bcast = true ∧
          f.payload = leBytes 1 s.ringPos ++ leBytes 1 (linkCode l) ++ [0, 0]) ∧
      (∀ q, s.stk.requests = [q] → routeTo s q.dest = some l → s.pathOn (Link.other l) q.dest = true →
        2 < (s.stk.link (Link.other l)).credits → t.stk.requests = [{ q with resent := false }] ∧
          { q.frame with rerouted := true, hops := s.hopsTo (Link.other l) q.dest } ∈ (t.stk.link (Link.other l)).sent) := by
  have hup' : ((laneLost s l lane).stk.link l).up = true := by rw [laneLost_link]; exact hup
  have hlink := (linkDown_link hup').trans (congrArg downed (laneLost_link lane))
  obtain ⟨hreqs, hfields, hseg, hframe, -, -, -⟩ := laneLost_paths (s := s) (l := l) lane 0
  refine ⟨_, exec_laneLoss l lane s, ?_, ?_, ?_, ?_, ?_, hseg ▸ linkDown_broken hup', (linkDown_fields hup').trans hfields,
    fun hnone hother hcredit => ?_, fun q hone hpath hother hcredit => ?_⟩
  · rw [hlink]
    rfl
  · rw [hlink]
    exact lockWithout_testBit _ _
  · rw [hlink]
    rfl
  · rw [hlink]
    rfl
  · rw [hlink]
    rfl
  · rw [← laneLost_link_other (s := s) (l := l) lane] at hother hcredit
    refine ⟨_, linkDown_tells hup' (hreqs.trans hnone) hother hcredit, ?_⟩
    rw [hframe]
    exact ⟨rfl, rfl, rfl⟩
  · obtain ⟨-, -, -, -, hroute, hpaths, hcopy⟩ := laneLost_paths (s := s) (l := l) lane q.dest
    rw [← laneLost_link_other (s := s) (l := l) lane] at hcredit
    have hgoes := linkDown_reroutes hup' (hreqs.trans hone) (hroute.trans hpath) ((hpaths _).trans hother) hcredit
    rwa [hcopy] at hgoes

/-- A replay, until RETRY replays of one frame have failed (R586). -/
theorem replayTimeout_replays (hup : (s.stk.link l).up = true) (hframes : (s.stk.link l).unacked ≠ []) :
    ((s.stk.link l).replayRun < s.retryOf → ∃ t, exec (.replayTimeout l) s = .next t ∧ OnlyLinks s t ∧
      t.stk.link (Link.other l) = s.stk.link (Link.other l) ∧ (t.stk.link l).replays = min 0xFF ((s.stk.link l).replays + 1) ∧
      (t.stk.link l).replayRun = (s.stk.link l).replayRun + 1 ∧ (t.stk.link l).unacked = (s.stk.link l).unacked ∧
      ((s.stk.link l).unacked.length ≤ 64 → (s.stk.link l).unacked.map (·.2) <:+ (t.stk.link l).sent)) ∧
    (s.retryOf ≤ (s.stk.link l).replayRun → ∃ t, exec (.replayTimeout l) s = .next t ∧ (t.stk.link l).up = false ∧
      (t.stk.link l).unacked = [] ∧ (t.stk.link l).downs = min 0xFF ((s.stk.link l).downs + 1) ∧ segmentOf s s.ringPos l ∈ t.stk.broken) := by
  refine ⟨fun hrun => ⟨_, exec_replayTimeout_again hup hframes hrun, onlyLinks_modLink _ _, modLink_link_other _ _, ?_⟩,
    fun hrun => ⟨_, exec_replayTimeout_down hup hframes hrun, ?_⟩⟩
  · rw [modLink_link]
    exact ⟨rfl, rfl, linkReplayed_unacked, linkReplayed_suffix⟩
  · rw [linkDown_link hup]
    exact ⟨rfl, rfl, rfl, linkDown_broken hup⟩

/-- ACK takes its frames off the replay buffer and gives its credits; NAK is an ACK and a replay (R585, R587). -/
theorem ack_acknowledges (hup : (s.stk.link h.link).up = true) (hdup : s.stk.dup = false) : let k := s.stk.link h.link
    ∃ t, exec (.ack h) s = .next t ∧ OnlyLinks s t ∧ t.stk.link (Link.other h.link) = s.stk.link (Link.other h.link) ∧
      exec (.nak h) s = exec (.replayTimeout h.link) t ∧
      (k.waiting = [] → (t.stk.link h.link).credits = min s.creditsOf (k.credits + h.credit)) ∧
      (∀ pre f post, k.waiting = [] → h.ackv = true → k.unacked = pre ++ (h.lack, f) :: post → (∀ x ∈ pre, x.1 ≠ h.lack) →
        (t.stk.link h.link).unacked = post ∧ (t.stk.link h.link).replayRun = 0) ∧
      (k.waiting = [] → h.ackv = false ∨ (∀ x ∈ k.unacked, x.1 ≠ h.lack) → (t.stk.link h.link).unacked = k.unacked) ∧
      (∀ f, k.waiting = [f] → 0 < s.creditsOf → 0 < k.credits + h.credit → t.lastSent h.link = some f ∧ (t.stk.link h.link).waiting = []) := by
  have hlink : (ackTaken s h).stk.link h.link = takeAck s.creditsOf h (s.stk.link h.link) := modLink_link _ _
  refine ⟨_, exec_ack hup hdup, onlyLinks_modLink _ _, modLink_link_other _ _, exec_nak hup hdup, ?_⟩
  rw [State.lastSent, hlink]
  refine ⟨fun hnone => ?_, fun pre f post hnone hackv hk hpre => ?_, fun hnone hnot => ?_, fun f hone hlimit hcredit => ?_⟩
  · rw [takeAck_idle _ hnone]
  · rw [takeAck_idle _ hnone]
    exact acked_named hackv hk hpre
  · rw [takeAck_idle _ hnone]
    exact acked_unnamed hnot
  · exact takeAck_waiting hup hone hlimit hcredit

/-- What every frame's command does with its link (R585, R598). -/
theorem frame_onLink {r : Bool} (hc : frameOf? c = some (h, r)) :
    ((s.stk.link h.link).up = false ∨ s.stk.dup = true → exec c s = .next s) ∧
    ((s.stk.link h.link).up = true → s.stk.dup = false → h.lseq ≠ ((s.stk.link h.link).rxSeq + 1) % 4096 →
      ∃ t, exec c s = .next t ∧ OnlyLinks s t ∧ t.stk.link (Link.other h.link) = s.stk.link (Link.other h.link) ∧
        (t.stk.link h.link).rxSeq = (s.stk.link h.link).rxSeq ∧ (t.stk.link h.link).nakSent = true) ∧
    (r = true → InOrder s h → h.bcast = false → s.stk.pos ≠ some h.dest → ∃ t, exec c s = .next t ∧ OnlyLinks s t ∧
      (t.stk.link h.link).rxSeq = h.lseq ∧
      (h.hops ≤ 1 → t.stk.link (Link.other h.link) = s.stk.link (Link.other h.link)) ∧
      (1 < h.hops → (s.stk.link (Link.other h.link)).up = true → 0 < (s.stk.link (Link.other h.link)).credits →
        ∃ f, t.lastSent (Link.other h.link) = some f ∧ f.hops = h.hops - 1 ∧ f.tag = h.tag ∧ f.dest = h.dest ∧ f.src = h.src ∧
          f.resp = h.resp ∧ f.rerouted = h.rerouted)) := by
  refine ⟨fun hclosed => exec_frame_notTaken hc (linkTake_closed hclosed), fun hup hdup hseq => ?_, fun hr hin hb hpos => ?_⟩
  · exact ⟨_, exec_frame_notTaken hc (linkTake_outOfOrder hup hdup hseq), onlyLinks_sendNak _, sendNak_links _⟩
  · subst hr
    obtain ⟨ty, payload, hexec⟩ := exec_frame_passes hc hin hb hpos
    refine ⟨_, hexec, onlyLinks_linkTook.trans (onlyLinks_passOn _ _ _), ?_, fun hhops => ?_, fun hhops hup hcredit => ?_⟩
    · rw [passOn_link, linkTook_rxSeq]
    · rw [passOn_usedUp hhops, linkTook_link_other]
    · rw [← linkTook_link_other (s := s) (h := h)] at hup hcredit
      exact ⟨_, passOn_lastSent hhops hup hcredit, rfl, rfl, rfl, rfl, rfl, rfl⟩

theorem unknownFrame_recorded {ty len : Nat} (hin : InOrder s h) :
    Effect s (.unknownFrame h ty len) h fun u v => { v with saf := u.saf } = u ∧
      (u.saf.recPending = none → ∃ r, v.saf.log = (r :: u.saf.log).take 256 ∧ r.cause = 0x0001 ∧ r.scope = 0) :=
  effect_of_takeLocal hin rfl ⟨logFault_frame _, logFault_frame_written⟩

end LinkClauses

/-- Settles O53: every link operation is a change of one link, and a failure's wider work, requests answered or sent the other way,
leaves a link that is down, the broken segments and the Fields alone. -/
theorem linksTrainReplayAndRoute : Obligations.LinksTrainReplayAndRoute := by
  intro s
  refine ⟨fun l => exec_linkUp_idle, fun l => linkUp_starts, fun l lane => exec_laneLoss_down lane, fun l lane => laneLoss_takesDown lane,
    fun l => exec_replayTimeout_nothing, fun l => replayTimeout_replays, fun l => ⟨exec_linkRetrain_not, fun hup hidle hdup => ?_⟩,
    fun h => exec_ack_closed, fun h => ack_acknowledges, fun l ok q => exec_linkFrameError_none, fun l ok q hup hdup hbad hnak => ?_,
    fun c h r => frame_onLink, fun h ty len => unknownFrame_recorded⟩
  · exact ⟨_, exec_linkRetrain hup hidle hdup, onlyLinks_modLink _ _, modLink_link _ _, modLink_link_other _ _⟩
  · obtain ⟨-, hrx, hset⟩ := sendNak_links (s := s) l
    obtain ⟨hcredits, hlast⟩ := sendNak_sent hup hnak
    exact ⟨_, exec_linkFrameError hup hdup hbad, onlyLinks_sendNak l, hset, hrx, hcredits, hlast⟩

end Sys2Proof.Machine
end

section
/-! Enumeration (R590 to R597): what an ENUM does at the master and at a member, and how enumeration ends. -/

namespace Sys2Proof.Machine

section Enumeration

variable {s t u : State} {h : FrameHdr} {es : List EnumEntry} {found : List (Nat × EnumEntry)}

/-- A state with its links set. -/
def setLinks (s : State) (a b : LinkState) : State := s.modStk fun k => { k with up := a, dn := b }

theorem OnlyLinks.eq_setLinks (h : OnlyLinks s t) : t = setLinks s t.stk.up t.stk.dn :=
  (congrArg (fun v : State => setLinks v t.stk.up t.stk.dn) h :)

theorem linkTook_eq (s : State) (h : FrameHdr) : ∃ a b, linkTook s h = setLinks s a b := ⟨_, _, onlyLinks_linkTook.eq_setLinks⟩

@[simp] theorem linkTook_isMaster : (linkTook s h).isMaster = s.isMaster := by
  obtain ⟨a, b, htook⟩ := linkTook_eq s h
  rw [htook]
  rfl

/-! ### Admission (Table STK-5) -/

theorem code_eq_zero_iff {p : Prop} [Decidable p] {code rest : Nat} (hcode : code ≠ 0) : (if p then code else rest) = 0 ↔ ¬p ∧ rest = 0 := by
  split <;> simp_all

theorem admitCode_eq_zero_iff (own : EnumEntry) (expect : Nat) (small twice : Bool) (plots pos : Nat) (e : EnumEntry) :
    admitCode own expect small twice plots pos e = 0 ↔
      e.stackId = own.stackId ∧ e.fdig = own.fdig ∧ e.role ≠ 1 ∧ pos < e.stackMax ∧ small = false ∧ pos < expect ∧ twice = false ∧
        plots + e.plots ≤ 1024 := by
  rw [admitCode, code_eq_zero_iff (by decide), code_eq_zero_iff (by decide), code_eq_zero_iff (by decide), code_eq_zero_iff (by decide),
    code_eq_zero_iff (by decide), code_eq_zero_iff (by decide)]
  simp [and_assoc]

/-! ### Another master (R595) -/

theorem ringRest_foldl_completeLost (qs : List RingReq) (s : State) : ringRest (qs.foldl completeLost s) = ringRest s :=
  foldl_unchanged ringRest _ (fun _ q => ringRest_completeLost q) qs s

/-- The requests left are those that none of the completed ones names. -/
theorem mem_requests_foldl_completeLost {qs : List RingReq} {q : RingReq} (hq : q ∈ (qs.foldl completeLost s).stk.requests) :
    q ∈ s.stk.requests ∧ ∀ x ∈ qs, q.tag ≠ x.tag := by
  induction qs generalizing s with
  | nil => exact ⟨hq, by simp⟩
  | cons x qs ih =>
    obtain ⟨hmem, htags⟩ := ih hq
    rw [requests_completeLost, List.mem_filter] at hmem
    obtain ⟨hkept, htag⟩ := hmem
    exact ⟨hkept, by simpa using ⟨by simpa using htag, htags⟩⟩

/-- The Lone master that has found another, with its requests not yet ended. -/
def dupLone (s : State) : State :=
  s.modStk fun k => { k with
    dup := true, window := false, state := 3, lone := true, members := [(0, 0)], count := 1, requests := []
    up := { k.up with idle := true, up := false, lock := 0, unacked := [], waiting := [] }
    dn := { k.dn with idle := true, up := false, lock := 0, unacked := [], waiting := [] } }

theorem declareDup_eq (s : State) : declareDup s =
    settleWide (stackEvent (s.stk.requests.foldl completeLost (dupLone s)) s.ringPos 10 0) := rfl

theorem dupMaster_declareDup (s : State) : DupMaster (declareDup s) := by
  have hrest := ringRest_foldl_completeLost s.stk.requests (dupLone s)
  have hup := link_of_ringRest (s := dupLone s) (l := .up) rfl hrest
  have hdn := link_of_ringRest (s := dupLone s) (l := .dn) rfl hrest
  have hnone : (s.stk.requests.foldl completeLost (dupLone s)).stk.requests = [] :=
    List.eq_nil_iff_forall_not_mem.mpr fun q hq => by simpa [dupLone, State.modStk] using (mem_requests_foldl_completeLost hq).1
  refine ⟨_, declareDup_eq s, ?_⟩
  rw [stackEvent_stk]
  generalize s.stk.requests.foldl completeLost (dupLone s) = v at hrest hup hdn hnone
  have hring : (v.stk.dup, v.stk.state, v.stk.lone, v.stk.window, v.stk.members) = (true, 3, true, false, [(0, 0)]) :=
    (congrArg (fun v : State => (v.stk.dup, v.stk.state, v.stk.lone, v.stk.window, v.stk.members)) hrest :)
  simp only [Prod.mk.injEq] at hring
  obtain ⟨hdup, hstate, hlone, hwindow, hmembers⟩ := hring
  exact ⟨hdup, hstate, hlone, hwindow, hmembers, hnone, ⟨congrArg LinkState.idle hup, congrArg LinkState.up hup⟩,
    congrArg LinkState.idle hdn, congrArg LinkState.up hdn⟩

/-! ### Enumeration ends (R590, R592) -/

/-- What the end of enumeration sets, with what of the state it leaves. -/
def enumPart (s : State) :
    (Bool × List (Nat × Nat) × Nat × List Nat × Nat × Bool) × List FieldState × ArbState × List PlotState × SafState :=
  ((s.stk.window, s.stk.members, s.stk.count, s.stk.absent, s.stk.state, s.stk.lone), s.fields, s.arb, s.plots, s.saf)

theorem enumPart_of_onlyLinks (h : OnlyLinks s t) : enumPart t = enumPart s := by rw [h.eq_setLinks]; rfl

@[simp] theorem enumPart_stackEvent (pos code data : Nat) : enumPart (stackEvent s pos code data) = enumPart s := by rw [stackEvent_eq]; rfl

@[simp] theorem enumPart_ringBroadcast (ty tag : Nat) (payload : List Byte) : enumPart (ringBroadcast s ty tag payload) = enumPart s :=
  enumPart_of_onlyLinks (onlyLinks_ringBroadcast _ _ _)

@[simp] theorem enumPart_sendKeyx (pos : Nat) : enumPart (sendKeyx s pos) = enumPart s :=
  (enumPart_of_onlyLinks (onlyLinks_ringSend (by decide) _ _ _ _)).trans rfl

/-- The members that the end of enumeration admits. -/
def admitted (s : State) (found : List (Nat × EnumEntry)) : List (Nat × Nat) :=
  (0, s.ownSerial) :: ((admission s.ownEntry s.expectOf found).filter fun x => x.2.1 == 0).map fun x => (x.1, x.2.2.serial)

/-- The state with the outcome of enumeration, before the other devices are told. -/
def enumSettled (s : State) : State :=
  s.modStk fun k => { k with
    window := false, members := admitted s k.entries, count := (admitted s k.entries).length
    size := k.entries.foldl (fun m x => max m x.1) 0 + 1, absent := [], dark := []
    state := if (admitted s k.entries).length = 1 ∧ s.expectOf ≠ 1 then 3 else 2
    lone := decide ((admitted s k.entries).length = 1 ∧ s.expectOf ≠ 1) }

theorem enumDone_finishEnum (s : State) : EnumDone s s.stk.entries (finishEnum s) := by
  have hpart : ∃ w, finishEnum s = settleWide w ∧ enumPart w = enumPart (enumSettled s) := by
    refine ⟨_, rfl, ?_⟩
    refine (foldl_unchanged enumPart _ (fun v x => ?_) _ _).trans ?_
    · split <;> simp
    · rw [enumPart_stackEvent]
      refine (foldl_unchanged enumPart _ (fun v m => ?_) _ _).trans ((enumPart_ringBroadcast _ _ _).trans rfl)
      split <;> simp
  obtain ⟨w, hw, heq⟩ := hpart
  simp only [enumPart, Prod.mk.injEq] at heq
  obtain ⟨⟨hwindow, hmembers, hcount, habsent, hstate, hlone⟩, hfields, harb, hplots, hsaf⟩ := heq
  exact ⟨w, hw, hwindow, hmembers, hcount, habsent, hstate, hlone, hfields, harb, hplots, hsaf⟩

/-! ### An ENUM at the master (R591, R595) -/

theorem exec_enum (hin : InOrder s h) : exec (.enum h es) s =
    .next (if s.isMaster then enumAtMaster (linkTook s h) h es else enumAtMember (linkTook s h) h es) := by
  have hlocal := takeLocal_inOrder (deliver := fun s => if s.isMaster then enumAtMaster s h es else enumAtMember s h es) hin
  rw [linkTook_isMaster] at hlocal
  exact congrArg Host.Outcome.next hlocal

section AtMaster

variable {e : EnumEntry} {rest : List EnumEntry}

/-- The positions an ENUM names that went downstream: in the order of its entries. -/
def seatsDown (es : List EnumEntry) : List (Nat × EnumEntry) := (List.range es.length).zip es

/-- Those of one that went upstream: counted down from EXPECT. -/
def seatsUp (s : State) (es : List EnumEntry) : List (Nat × EnumEntry) :=
  ((seatsDown es).filter fun x => decide (x.1 = 0 ∨ x.1 < s.expectOf)).map fun x => (if x.1 = 0 then 0 else s.expectOf - x.1, x.2)

theorem enumAtMaster_foreign (hser : e.serial ≠ s.ownSerial) : enumAtMaster s h (e :: rest) = declareDup s := if_pos hser

section Own

variable (hser : e.serial = s.ownSerial)
include hser

theorem enumAtMaster_closed (hwindow : s.stk.window = false) : enumAtMaster s h (e :: rest) = s := by
  simp [enumAtMaster, hser, hwindow]

variable (hwindow : s.stk.window = true)
include hwindow

/-- An ENUM that comes back around the ring ends enumeration. -/
theorem enumAtMaster_around (hresp : h.resp = false) :
    enumAtMaster s h (e :: rest) = finishEnum (addEntries s (seatsDown (e :: rest))) := by
  simp [enumAtMaster, seatsDown, hser, hwindow, hresp]

/-- One sent back downstream of a break is taken up from the other link, unless nobody is left to find. -/
theorem enumAtMaster_back_dn (hresp : h.resp = true) (hlink : h.link = .dn) : enumAtMaster s h (e :: rest) =
    if s.isChain = true ∨ (addEntries s (seatsDown (e :: rest))).allFound = true then finishEnum (addEntries s (seatsDown (e :: rest)))
    else sendEnum (breakSegment (addEntries s (seatsDown (e :: rest))) ((e :: rest).length - 1)) .up := by
  have hchain : (addEntries s (seatsDown (e :: rest))).isChain = s.isChain := rfl
  rw [← hchain]
  simp [enumAtMaster, seatsDown, hser, hwindow, hresp, hlink]

theorem enumAtMaster_back_up (hresp : h.resp = true) (hlink : h.link = .up) :
    enumAtMaster s h (e :: rest) = finishEnum (addEntries s (seatsUp s (e :: rest))) := by
  simp [enumAtMaster, seatsUp, seatsDown, hser, hwindow, hresp, hlink]

end Own

/-- The link's answer to the ENUM changes nothing that the end of enumeration reads. -/
theorem enumDone_linkTook (seats : List (Nat × EnumEntry)) :
    EnumDone s (addEntries s seats).stk.entries (finishEnum (addEntries (linkTook s h) seats)) := by
  obtain ⟨a, b, htook⟩ := linkTook_eq s h
  rw [htook]
  exact enumDone_finishEnum (addEntries (setLinks s a b) seats)

theorem exec_enum_atMaster (hin : InOrder s h) (hmaster : s.isMaster = true) :
    exec (.enum h es) s = .next (enumAtMaster (linkTook s h) h es) := (exec_enum hin).trans (congrArg _ (if_pos hmaster))

/-- The ENUM of the master, with its own entry. -/
def enumFrame (s : State) : OutFrame := ⟨0x10, false, false, false, 0, s.ringPos, 127, 0, enumBytes [s.ownEntry]⟩

theorem enumFrame_payload (s : State) : (enumFrame s).payload = entryBytes s.ownEntry := List.append_nil _

theorem modStk_ownEntry {f : StkState → StkState} (hrole : (f s.stk).role = s.stk.role) : (s.modStk f).ownEntry = s.ownEntry := by
  unfold State.ownEntry
  rw [State.modStk_stk, hrole]
  rfl

theorem modStk_enumFrame {f : StkState → StkState} (hrole : (f s.stk).role = s.stk.role) (hpos : (f s.stk).pos = s.stk.pos) :
    enumFrame (s.modStk f) = enumFrame s := by
  rw [enumFrame, enumFrame, modStk_ownEntry hrole, State.ringPos, State.modStk_stk, hpos]
  rfl

theorem sendEnum_breaks (hlink : h.link = .dn) (seats : List (Nat × EnumEntry)) (g : Nat) :
    let t := sendEnum (breakSegment (addEntries (linkTook s h) seats) g) .up
    t.stk.window = s.stk.window ∧ g ∈ t.stk.broken ∧ t.stk.entries = (addEntries s seats).stk.entries ∧ t.fields = s.fields ∧
      (s.stk.up.up = true → 0 < s.stk.up.credits → ∃ f, t.lastSent .up = some f ∧ f.ty = 0x10 ∧ f.payload = entryBytes s.ownEntry) := by
  have hup : (linkTook s h).stk.link .up = s.stk.link .up := by
    have hother := linkTook_link_other (s := s) (h := h)
    rwa [hlink] at hother
  obtain ⟨a, b, htook⟩ := linkTook_eq s h
  rw [htook] at hup ⊢
  refine ⟨rfl, mem_broken_breakSegment (addEntries (setLinks s a b) seats) g, rfl, sendOn_fields _ _, fun hlinkup hcredit => ⟨enumFrame s, ?_, rfl, ?_⟩⟩
  · have hframe : enumFrame (breakSegment (addEntries (setLinks s a b) seats) g) = enumFrame s := by
      rw [breakSegment, modStk_enumFrame rfl rfl, addEntries, modStk_enumFrame rfl rfl, setLinks, modStk_enumFrame rfl rfl]
    rw [← hframe]
    exact sendOn_lastSent (l := .up) (hup ▸ hlinkup) (hup ▸ hcredit) _
  · exact enumFrame_payload s

/-- What an ENUM of another master, of a closed window and of an open one does at the master. -/
theorem enum_atMaster (hin : InOrder s h) (hmaster : s.isMaster = true) :
    (e.serial ≠ s.ownSerial → ∃ t, exec (.enum h (e :: rest)) s = .next t ∧ DupMaster t) ∧
    (e.serial = s.ownSerial → s.stk.window = false → ∃ t, exec (.enum h (e :: rest)) s = .next t ∧ OnlyLinks s t) ∧
    (e.serial = s.ownSerial → s.stk.window = true →
      let found := (addEntries s (seatsDown (e :: rest))).stk.entries
      let all := decide (s.expectOf ≤ (found.map (·.1)).dedup.length)
      (h.resp = false ∨ (h.link = .dn ∧ (s.isChain = true ∨ all = true)) →
        ∃ t, exec (.enum h (e :: rest)) s = .next t ∧ EnumDone s found t) ∧
      (h.resp = true → h.link = .dn → s.isChain = false → all = false →
        ∃ t, exec (.enum h (e :: rest)) s = .next t ∧ t.stk.window = true ∧ (e :: rest).length - 1 ∈ t.stk.broken ∧ t.stk.entries = found ∧
          t.fields = s.fields ∧
          (s.stk.up.up = true → 0 < s.stk.up.credits → ∃ f, t.lastSent .up = some f ∧ f.ty = 0x10 ∧ f.payload = entryBytes s.ownEntry)) ∧
      (h.resp = true → h.link = .up →
        ∃ t, exec (.enum h (e :: rest)) s = .next t ∧ EnumDone s (addEntries s (seatsUp s (e :: rest))).stk.entries t)) := by
  have hexec := exec_enum_atMaster (es := e :: rest) hin hmaster
  obtain ⟨a, b, htook⟩ := linkTook_eq s h
  have hown : (linkTook s h).ownSerial = s.ownSerial := by rw [htook]; rfl
  have hopen : (linkTook s h).stk.window = s.stk.window := by rw [htook]; rfl
  have hchain : (linkTook s h).isChain = s.isChain := by rw [htook]; rfl
  have hup : seatsUp (linkTook s h) (e :: rest) = seatsUp s (e :: rest) := by rw [htook]; rfl
  have hall : (addEntries (linkTook s h) (seatsDown (e :: rest))).allFound =
      decide (s.expectOf ≤ ((addEntries s (seatsDown (e :: rest))).stk.entries.map (·.1)).dedup.length) := by rw [htook]; rfl
  refine ⟨fun hser => ⟨_, hexec, ?_⟩, fun hser hwindow => ⟨_, hexec, ?_⟩, fun hser hwindow => ?_⟩
  · rw [enumAtMaster_foreign (by rwa [hown])]
    exact dupMaster_declareDup _
  · rw [enumAtMaster_closed (by rwa [hown]) (by rwa [hopen])]
    exact onlyLinks_linkTook
  rw [← hown] at hser
  have hwindow' := hopen.trans hwindow
  refine ⟨fun hend => ⟨_, hexec, ?_⟩, fun hresp hlink hring hmore => ⟨_, hexec, ?_⟩, fun hresp hlink => ⟨_, hexec, ?_⟩⟩
  · by_cases hresp : h.resp = true
    · obtain ⟨hlink, hend⟩ := hend.resolve_left (by simp [hresp])
      rw [enumAtMaster_back_dn hser hwindow' hresp hlink, if_pos (by rwa [hchain, hall])]
      exact enumDone_linkTook _
    · rw [enumAtMaster_around hser hwindow' (by simpa using hresp)]
      exact enumDone_linkTook _
  · have hopenRing : ¬ ((linkTook s h).isChain = true ∨ (addEntries (linkTook s h) (seatsDown (e :: rest))).allFound = true) := by
      rw [hchain, hall, hring, hmore]
      simp
    rw [enumAtMaster_back_dn hser hwindow' hresp hlink, if_neg hopenRing]
    obtain ⟨hstays, hbreak⟩ := sendEnum_breaks (s := s) hlink (seatsDown (e :: rest)) ((e :: rest).length - 1)
    exact ⟨hstays.trans hwindow, hbreak⟩
  · rw [enumAtMaster_back_up hser hwindow' hresp hlink, hup]
    exact enumDone_linkTook _

end AtMaster

/-! ### The window (R590) -/

theorem exec_enumWindow_closed (hnot : s.isMaster = false ∨ s.stk.window = false) :
    exec .enumWindowClose s = .next s ∧ exec .enumResend s = .next s := by
  have hclosed : ¬ (s.isMaster = true ∧ s.stk.window = true) := by
    obtain hmember | hwindow := hnot
    · simp [hmember]
    · simp [hwindow]
  exact ⟨congrArg Host.Outcome.next (if_neg hclosed), congrArg Host.Outcome.next (if_neg hclosed)⟩

/-- The end of the window ends enumeration; within it the ENUM goes out again. -/
theorem enumWindow_open (hopen : s.isMaster = true ∧ s.stk.window = true) :
    (∃ t, exec .enumWindowClose s = .next t ∧ EnumDone s s.stk.entries t) ∧
      ∃ t, exec .enumResend s = .next t ∧ OnlyLinks s t ∧ t.stk.up = s.stk.up ∧
        (s.stk.dn.up = true → 0 < s.stk.dn.credits → ∃ f, t.lastSent .dn = some f ∧ f.ty = 0x10 ∧ f.payload = entryBytes s.ownEntry) :=
  ⟨⟨_, congrArg Host.Outcome.next (if_pos hopen), enumDone_finishEnum s⟩,
    sendOn s .dn (enumFrame s), congrArg Host.Outcome.next (if_pos hopen), onlyLinks_sendOn _ _, sendOn_link_other .dn _,
    fun hup hcredit => ⟨enumFrame s, sendOn_lastSent (l := .dn) hup hcredit _, rfl, enumFrame_payload s⟩⟩

end Enumeration

end Sys2Proof.Machine
end

section
/-! Members of the ring: the ENUM, admission, transport keys and stack time (R591, R594, R596, R601, R606, R607, R615, R618). -/

namespace Sys2Proof.Machine

section Members

variable {s t u : State} {h : FrameHdr} {es : List EnumEntry}

theorem OnlyLinks.stk_pos (h : OnlyLinks s t) : t.stk.pos = s.stk.pos := (congrArg (fun v : State => v.stk.pos) h :)
theorem OnlyLinks.stk_state (h : OnlyLinks s t) : t.stk.state = s.stk.state := (congrArg (fun v : State => v.stk.state) h :)

theorem lay_of_ringCore (h : ringCore t = ringCore s) : t.lay = s.lay := (congrArg State.lay h :)

/-! ### What goes with the master -/

@[simp] theorem settleTasks_stk : (settleTasks s).stk = s.stk := (congrArg State.stk settleTasks_tickets :)

@[simp] theorem detachPlot_stk (n : Nat) : (detachPlot s n).stk = s.stk := by
  refine foldl_unchanged State.stk _ (fun u p => ?_) _ _
  split
  · rfl
  · cases p <;> rfl

@[simp] theorem detachPlot_tasks (n : Nat) : (detachPlot s n).fn.tasks = s.fn.tasks := by
  refine foldl_unchanged (·.fn.tasks) _ (fun u p => ?_) _ _
  split
  · rfl
  · cases p <;> rfl

@[simp] theorem dropRemote_stk : (dropRemote s).stk = { s.stk with keyStore := [] } := by
  simp only [dropRemote, settleTasks_stk]
  exact (foldl_unchanged State.stk _ (fun v n => detachPlot_stk (64 + n)) (List.range 64) _).trans rfl

theorem ringCore_dropRemote : ringCore (dropRemote s) = ringCore (s.modStk fun k => { k with keyStore := [] }) := by
  simp only [dropRemote, ringCore_settleTasks]
  exact (ringCore_foldl (fun v n => ringCore_detachPlot (64 + n)) (List.range 64) _).trans rfl

/-- No command of the master's Plots waits for its status any more. -/
theorem dropRemote_ends : ∀ x ∈ (dropRemote s).fn.tasks, 64 ≤ x.key.plot → x.statusDue = false := by
  intro x hx hplot
  simp only [dropRemote] at hx
  obtain ⟨ended, -, htasks⟩ := settleTasks_tasks (s := (List.range 64).foldl (fun (s : State) n => detachPlot s (64 + n))
    (abortTasks (s.modStk fun k => { k with keyStore := [] }) fun t => decide (64 ≤ t.key.plot)))
  rw [htasks, foldl_unchanged (·.fn.tasks) _ (fun v n => detachPlot_tasks (64 + n)) (List.range 64) _] at hx
  obtain ⟨y, -, rfl⟩ := List.mem_map.mp (List.mem_filter.mp hx).1
  by_cases hy : 64 ≤ y.key.plot
  · rw [if_pos (by simpa using hy)]
  · rw [if_neg (by simpa using hy)] at hplot
    exact absurd hplot hy

theorem releaseSems_eq (s : State) (id : Identity) (cause : Nat) : releaseSems s id cause = { s with sem := (releaseSems s id cause).sem } := by
  simp only [releaseSems]
  split <;> rfl

@[simp] theorem releaseSems_stk (id : Identity) (cause : Nat) : (releaseSems s id cause).stk = s.stk := by rw [releaseSems_eq]
@[simp] theorem releaseSems_fn (id : Identity) (cause : Nat) : (releaseSems s id cause).fn = s.fn := by rw [releaseSems_eq]
@[simp] theorem releaseSems_fields (id : Identity) (cause : Nat) : (releaseSems s id cause).fields = s.fields := by rw [releaseSems_eq]
@[simp] theorem releaseSems_plots (id : Identity) (cause : Nat) : (releaseSems s id cause).plots = s.plots := by rw [releaseSems_eq]

@[simp] theorem releaseSems_lay (id : Identity) (cause : Nat) : (releaseSems s id cause).lay = s.lay := by rw [releaseSems_eq]

/-- Released semaphores are no longer held. -/
theorem releaseSems_semOwner {id : Identity} (hid : id ≠ idNone) (cause n : Nat) : (releaseSems s id cause).semOwner n ≠ id := by
  have hfree : ∀ o ∈ (releaseSems s id cause).sem.owner, o ≠ id := by
    intro o ho heq
    subst heq
    simp only [releaseSems] at ho
    split at ho
    case isTrue hnone =>
      have hempty := List.length_eq_zero_iff.mp hnone
      exact absurd (beq_self_eq_true o) (List.filter_eq_nil_iff.mp hempty o ho)
    case isFalse =>
      obtain ⟨x, -, hx⟩ := List.mem_map.mp ho
      by_cases hxo : x = o
      · exact hid (by simpa [hxo] using hx.symm)
      · simp [hxo] at hx
  rw [State.semOwner, List.getD_eq_getElem?_getD]
  cases hget : (releaseSems s id cause).sem.owner[n]? with
  | none => exact hid.symm
  | some o => exact hfree o (List.mem_of_getElem? hget)

/-! ### The ENUM at a member (R591, R606) -/

theorem ringCore_ownEntry (s : State) : (ringCore s).ownEntry = s.ownEntry := rfl

theorem ownEntry_of_ringCore (h : ringCore t = ringCore s) : t.ownEntry = s.ownEntry :=
  (ringCore_ownEntry t).symm.trans ((congrArg State.ownEntry h).trans (ringCore_ownEntry s))

theorem releaseSems_ownEntry (id : Identity) (cause : Nat) : (releaseSems s id cause).ownEntry = s.ownEntry := by
  rw [releaseSems_eq]
  rfl

/-- A member that was admitted starts anew. -/
def memberAnew (s : State) : State :=
  if s.stk.state = 2 then
    releaseSems (dropRemote (s.modStk fun k =>
      { k with transport := [], pairs := [], wide := [], reads := [], heads := [], state := 1, masterGone := false })) idStack 4
  else s

/-- The position an ENUM gives by the direction it came from. -/
def memberSeat (s : State) (l : Link) (es : List EnumEntry) : Option Nat :=
  match l with
  | .up => some es.length
  | .dn => if es.length < s.expectOf then some (s.expectOf - es.length) else none

theorem memberSeat_congr {l : Link} (hexpect : t.expectOf = s.expectOf) : memberSeat t l es = memberSeat s l es := by
  cases l <;> simp [memberSeat, hexpect]

/-- The member at its position. -/
def memberSeated (s : State) (l : Link) (es : List EnumEntry) : State :=
  (memberAnew s).modStk fun k => { k with pos := memberSeat (memberAnew s) l es, state := if k.state = 0 then 1 else k.state }

theorem enumAtMember_back (hresp : h.resp = true) : enumAtMember s h es = passOn s h 0x10 (enumBytes es) := if_pos hresp

theorem enumAtMember_seats (hresp : h.resp = false) : enumAtMember s h es =
    if ((memberSeated s h.link es).stk.link (Link.other h.link)).up then
      sendOn (memberSeated s h.link es) (Link.other h.link) ⟨0x10, false, false, h.rerouted, h.dest, h.src, h.hops - 1, h.tag,
        enumBytes (es ++ [(memberSeated s h.link es).ownEntry])⟩
    else sendOn (memberSeated s h.link es) h.link ⟨0x10, false, true, h.rerouted, h.dest, h.src, 127, h.tag,
        enumBytes (es ++ [(memberSeated s h.link es).ownEntry])⟩ := if_neg (by simp [hresp])

theorem memberAnew_same (hnot : s.stk.state ≠ 2) : memberAnew s = s := if_neg hnot

theorem memberAnew_stk (hst : s.stk.state = 2) : (memberAnew s).stk = { s.stk with
    keyStore := [], transport := [], pairs := [], wide := [], reads := [], heads := [], state := 1, masterGone := false } := by
  rw [memberAnew, if_pos hst, releaseSems_stk, dropRemote_stk]
  rfl

theorem memberAnew_ownEntry : (memberAnew s).ownEntry = s.ownEntry := by
  unfold memberAnew
  split
  · rw [releaseSems_ownEntry, ownEntry_of_ringCore ringCore_dropRemote, modStk_ownEntry rfl, modStk_ownEntry rfl]
  · rfl

theorem memberAnew_expectOf : (memberAnew s).expectOf = s.expectOf := by
  have hlay : (memberAnew s).lay = s.lay := by
    unfold memberAnew
    split
    · rw [releaseSems_lay]
      exact (lay_of_ringCore ringCore_dropRemote).trans rfl
    · rfl
  rw [State.expectOf, State.stackCfg?, State.layout, hlay]
  rfl

theorem memberAnew_link (l : Link) : (memberAnew s).stk.link l = s.stk.link l := by
  by_cases hst : s.stk.state = 2
  · rw [memberAnew_stk hst]
    cases l <;> rfl
  · rw [memberAnew_same hst]

theorem memberSeated_link (l m : Link) : (memberSeated s l es).stk.link m = s.stk.link m := by
  have hanew : (memberSeated s l es).stk.link m = (memberAnew s).stk.link m := by cases m <;> rfl
  exact hanew.trans (memberAnew_link m)

theorem memberSeated_ownEntry (l : Link) : (memberSeated s l es).ownEntry = s.ownEntry :=
  (modStk_ownEntry rfl).trans memberAnew_ownEntry

theorem memberSeated_pos (l : Link) : (memberSeated s l es).stk.pos = memberSeat s l es :=
  memberSeat_congr memberAnew_expectOf

theorem memberSeated_state (l : Link) :
    (memberSeated s l es).stk.state = if s.stk.state = 0 ∨ s.stk.state = 2 then 1 else s.stk.state := by
  have hseated : (memberSeated s l es).stk.state = if (memberAnew s).stk.state = 0 then 1 else (memberAnew s).stk.state := rfl
  by_cases hst : s.stk.state = 2
  · have hanew : (memberAnew s).stk.state = 1 := by rw [memberAnew_stk hst]
    rw [hseated, hanew, if_pos (Or.inr hst)]
    rfl
  · rw [hseated, memberAnew_same hst]
    simp [hst]

theorem onlyLinks_enumAtMember (hresp : h.resp = false) : OnlyLinks (memberSeated s h.link es) (enumAtMember s h es) := by
  rw [enumAtMember_seats hresp]
  split <;> exact onlyLinks_sendOn _ _

/-- The ENUM goes on through the other link, where that is up, with the member's entry. -/
theorem enumAtMember_sent (hresp : h.resp = false) (hup : (s.stk.link (Link.other h.link)).up = true)
    (hcredit : 0 < (s.stk.link (Link.other h.link)).credits) : (enumAtMember s h es).lastSent (Link.other h.link) =
      some ⟨0x10, false, false, h.rerouted, h.dest, h.src, h.hops - 1, h.tag, enumBytes (es ++ [s.ownEntry])⟩ := by
  have hlink := memberSeated_link (s := s) (es := es) h.link (Link.other h.link)
  rw [enumAtMember_seats hresp, if_pos (hlink ▸ hup), memberSeated_ownEntry]
  exact sendOn_lastSent (hlink ▸ hup) (hlink ▸ hcredit) _

/-- A member takes its position from an ENUM, starts anew if it was admitted, and sends the ENUM on. -/
theorem enum_atMember (hin : InOrder s h) (hmember : s.isMaster = false) (hresp : h.resp = false) :
    ∃ t, exec (.enum h es) s = .next t ∧ t.stk.pos = memberSeat s h.link es ∧
      t.stk.state = (if s.stk.state = 0 ∨ s.stk.state = 2 then 1 else s.stk.state) ∧
      (s.stk.state = 2 → t.stk.keyStore = [] ∧ t.stk.transport = [] ∧ t.stk.wide = [] ∧ t.stk.reads = [] ∧ t.stk.heads = [] ∧
        ∀ n, t.semOwner n ≠ idStack) ∧
      (s.stk.state ≠ 2 → OnlyLinks { s with stk := { s.stk with pos := t.stk.pos, state := t.stk.state } } t) ∧
      ((s.stk.link (Link.other h.link)).up = true → 0 < (s.stk.link (Link.other h.link)).credits →
        ∃ f, t.lastSent (Link.other h.link) = some f ∧ f.ty = 0x10 ∧ f.resp = false ∧ f.payload = enumBytes (es ++ [s.ownEntry])) := by
  have hexec : exec (.enum h es) s = .next (enumAtMember (linkTook s h) h es) :=
    (exec_enum hin).trans (congrArg _ (if_neg (by simp [hmember])))
  have honly := onlyLinks_enumAtMember (s := linkTook s h) (es := es) hresp
  have hother := linkTook_link_other (s := s) (h := h)
  have hown : (linkTook s h).ownEntry = s.ownEntry := by
    obtain ⟨a, b, htook⟩ := linkTook_eq s h
    rw [htook, setLinks, modStk_ownEntry rfl]
  have hseat : memberSeat (linkTook s h) h.link es = memberSeat s h.link es := by
    obtain ⟨a, b, htook⟩ := linkTook_eq s h
    exact memberSeat_congr (by rw [htook]; rfl)
  have hstate : (linkTook s h).stk.state = s.stk.state := by
    obtain ⟨a, b, htook⟩ := linkTook_eq s h
    rw [htook]
    rfl
  have hsent := enumAtMember_sent (s := linkTook s h) (es := es) hresp
  rw [hown, hother] at hsent
  refine ⟨_, hexec, ?_, ?_, fun hst => ?_, fun hst => ?_, fun hup hcredit => ⟨_, hsent hup hcredit, rfl, rfl, rfl⟩⟩
  · rw [honly.stk_pos, memberSeated_pos, hseat]
  · rw [honly.stk_state, memberSeated_state, hstate]
  · have hanew := memberAnew_stk (hstate.trans hst)
    have hfree (n : Nat) : (memberAnew (linkTook s h)).semOwner n ≠ idStack := by
      rw [memberAnew, if_pos (hstate.trans hst)]
      exact releaseSems_semOwner (by decide) 4 n
    rw [honly.eq_setLinks]
    exact ⟨congrArg StkState.keyStore hanew, congrArg StkState.transport hanew, congrArg StkState.wide hanew,
      congrArg StkState.reads hanew, congrArg StkState.heads hanew, hfree⟩
  · rw [honly.stk_pos, honly.stk_state]
    refine OnlyLinks.trans ?_ honly
    rw [memberSeated, memberAnew_same (by rwa [hstate])]
    obtain ⟨a, b, htook⟩ := linkTook_eq s h
    rw [htook]
    rfl

end Members

end Sys2Proof.Machine
end

section
/-! CONFIRM, KEYX and TIME (R594, R596, R601, R607, R615). -/

namespace Sys2Proof.Machine

section Admission

variable {s t u : State} {h : FrameHdr} {n p : Nat} {rs : List Nat}

theorem exec_enum_passed {es : List EnumEntry} (hin : InOrder s h) (hmember : s.isMaster = false) (hresp : h.resp = true) :
    ∃ t, exec (.enum h es) s = .next t ∧ OnlyLinks s t := by
  refine ⟨_, (exec_enum hin).trans (congrArg _ (if_neg (by simp [hmember]))), ?_⟩
  rw [enumAtMember_back hresp]
  exact onlyLinks_linkTook.trans (onlyLinks_passOn _ _ _)

theorem exec_enum_empty (hin : InOrder s h) (hmaster : s.isMaster = true) : ∃ t, exec (.enum h []) s = .next t ∧ OnlyLinks s t :=
  ⟨_, exec_enum_atMaster hin hmaster, onlyLinks_linkTook⟩

/-! ### CONFIRM (R594, R596) -/

/-- The admitted positions of a CONFIRM. -/
def confirmMembers (rs : List Nat) : List (Nat × Nat) :=
  (((List.range 128).filter fun p => rs.getD p 0xFF != 0xFF).filter fun p => rs.getD p 0xFF == 0).map fun p => (p, 0)

theorem mem_confirmMembers {q : Nat} (hq : q < 128) : (q, 0) ∈ confirmMembers rs ↔ rs.getD q 0xFF = 0 := by
  simp only [confirmMembers, List.mem_map, List.mem_filter, List.mem_range, Prod.mk.injEq, and_true, exists_eq_right, beq_iff_eq,
    bne_iff_ne]
  exact ⟨fun hmem => hmem.2, fun hcode => ⟨⟨hq, by omega⟩, hcode⟩⟩

/-- The highest position that answered, and one. -/
def confirmSize (rs : List Nat) : Nat := ((List.range 128).filter fun p => rs.getD p 0xFF != 0xFF).foldl max 0 + 1

def confirmAdmitted (s : State) (n : Nat) (rs : List Nat) : State :=
  s.modStk fun k => { k with
    state := 2, count := n, size := confirmSize rs, members := confirmMembers rs, refusal := 0, lone := false, masterGone := false
    transport := [], broken := [] }

def confirmRefused (s : State) (n : Nat) (rs : List Nat) (code : Nat) : State :=
  s.modStk fun k => { k with
    state := 4, count := n, size := confirmSize rs, members := confirmMembers rs, refusal := code, lone := true }

theorem takeConfirm_unplaced (hpos : s.stk.pos = none) : takeConfirm s n rs = s := by simp [takeConfirm, hpos]

section Placed

variable (hpos : s.stk.pos = some p)
include hpos

theorem takeConfirm_unnamed (hcode : rs.getD p 0xFF = 0xFF) : takeConfirm s n rs = s := by
  simp only [takeConfirm, hpos]
  exact if_pos hcode

theorem takeConfirm_admitted (hcode : rs.getD p 0xFF = 0) : takeConfirm s n rs = sendKeyx (showPlots (confirmAdmitted s n rs)) 0 := by
  simp only [takeConfirm, hpos]
  exact (if_neg (by omega)).trans (if_pos hcode)

theorem takeConfirm_refused (hcode : rs.getD p 0xFF ≠ 0) (hnamed : rs.getD p 0xFF ≠ 0xFF) :
    takeConfirm s n rs = hidePlots (confirmRefused s n rs (rs.getD p 0xFF)) := by
  simp only [takeConfirm, hpos]
  exact (if_neg hnamed).trans (if_neg hcode)

end Placed

/-- The pair of keys made for an exchange with a position. -/
def keyPairMade (s : State) (pos : Nat) : State :=
  (s.drawBytes 48).2.modStk fun k => { k with
    pairs := (pos, (s.drawBytes 48).1, padTo 0 96 (Config.p384Public (s.drawBytes 48).1)) :: k.pairs.filter (·.1 != pos) }

theorem onlyLinks_sendKeyx (pos : Nat) : OnlyLinks (keyPairMade s pos) (sendKeyx s pos) := onlyLinks_ringSend (by decide) _ _ _ _

/-- An admitted member forgets its last ring, and makes a key pair for the master. -/
theorem sendKeyx_confirmAdmitted : let v := sendKeyx (showPlots (confirmAdmitted s n rs)) 0
    v.stk.state = 2 ∧ v.stk.count = n ∧ v.stk.refusal = 0 ∧ v.stk.lone = false ∧ v.stk.masterGone = false ∧
      v.stk.transport = [] ∧ v.stk.broken = [] ∧ (∀ q, q < 128 → ((q, 0) ∈ v.stk.members ↔ rs.getD q 0xFF = 0)) ∧
      (v.stk.pairs.any (·.1 == 0)) = true ∧ v.fields = s.fields ∧ v.plots = s.plots := by
  have hshow : ringCore (showPlots (confirmAdmitted s n rs)) = ringCore (confirmAdmitted s n rs) := ringCore_showPlots
  have honly := onlyLinks_sendKeyx (s := showPlots (confirmAdmitted s n rs)) 0
  generalize showPlots (confirmAdmitted s n rs) = x at hshow honly ⊢
  have hstk : (x.stk.state, x.stk.count, x.stk.refusal, x.stk.lone, x.stk.masterGone, x.stk.transport, x.stk.broken, x.stk.members,
      x.fields, x.plots) = (2, n, 0, false, false, [], [], confirmMembers rs, s.fields, s.plots) :=
    (congrArg (fun x : State => (x.stk.state, x.stk.count, x.stk.refusal, x.stk.lone, x.stk.masterGone, x.stk.transport, x.stk.broken,
      x.stk.members, x.fields, x.plots)) hshow :)
  simp only [Prod.mk.injEq] at hstk
  obtain ⟨hstate, hcount, hrefusal, hlone, hgone, htransport, hbroken, hmembers, hfields, hplots⟩ := hstk
  rw [honly.eq_setLinks]
  refine ⟨hstate, hcount, hrefusal, hlone, hgone, htransport, hbroken, fun q hq => ?_, ?_, hfields, hplots⟩
  · exact (iff_of_eq (congrArg ((q, 0) ∈ ·) hmembers)).trans (mem_confirmMembers hq)
  · rfl

theorem hidePlots_confirmRefused (code : Nat) : let v := hidePlots (confirmRefused s n rs code)
    v.stk.state = 4 ∧ v.stk.refusal = code ∧ v.stk.lone = true ∧ v.stk.count = n ∧ v.plots = s.plots := by
  have hhide : ringCore (hidePlots (confirmRefused s n rs code)) = ringCore (confirmRefused s n rs code) := ringCore_hidePlots
  exact ⟨(congrArg (fun x : State => x.stk.state) hhide :), (congrArg (fun x : State => x.stk.refusal) hhide :),
    (congrArg (fun x : State => x.stk.lone) hhide :), (congrArg (fun x : State => x.stk.count) hhide :), (congrArg State.plots hhide :)⟩

theorem confirm_atMaster {x : Nat} (hd : Delivered s h) (hmaster : s.isMaster = true) :
    Effect s (.confirm h x n rs) h fun _ v => DupMaster v := by
  refine effect_of_takeFrame hd rfl ?_
  rw [if_pos (by rwa [linkTook_isMaster])]
  exact dupMaster_declareDup _

theorem confirm_atMember {x : Nat} (hd : Delivered s h) (hmember : s.isMaster = false) :
    Effect s (.confirm h x n rs) h fun u v =>
      (∀ p, s.stk.pos = some p → let code := rs.getD p 0xFF
        (code = 0xFF → v = u) ∧
        (code = 0 → v.stk.state = 2 ∧ v.stk.count = n ∧ v.stk.refusal = 0 ∧ v.stk.lone = false ∧ v.stk.masterGone = false ∧
          v.stk.transport = [] ∧ v.stk.broken = [] ∧ (∀ q, q < 128 → ((q, 0) ∈ v.stk.members ↔ rs.getD q 0xFF = 0)) ∧
          (v.stk.pairs.any (·.1 == 0)) = true ∧ v.fields = s.fields ∧ v.plots = s.plots) ∧
        (code ≠ 0 → code ≠ 0xFF → v.stk.state = 4 ∧ v.stk.refusal = code ∧ v.stk.lone = true ∧ v.stk.count = n ∧ v.plots = s.plots)) ∧
      (s.stk.pos = none → v = u) := by
  have hpos : (linkTook s h).stk.pos = s.stk.pos := onlyLinks_linkTook.stk_pos
  refine effect_of_takeFrame hd rfl ?_
  rw [if_neg (by simp [hmember])]
  refine ⟨fun p hp => ⟨takeConfirm_unnamed (hpos.trans hp), fun hcode => ?_, fun hcode hnamed => ?_⟩,
    fun hp => takeConfirm_unplaced (hpos.trans hp)⟩
  · rw [takeConfirm_admitted (hpos.trans hp) hcode]
    obtain ⟨a, b, htook⟩ := linkTook_eq s h
    rw [htook]
    exact sendKeyx_confirmAdmitted (s := setLinks s a b)
  · rw [takeConfirm_refused (hpos.trans hp) hcode hnamed]
    obtain ⟨a, b, htook⟩ := linkTook_eq s h
    rw [htook]
    exact hidePlots_confirmRefused (s := setLinks s a b) _

/-! ### KEYX (R615) -/

/-- The first entry of another key is the same without those of one key. -/
theorem find?_cons_filter_other {α : Type} {a b : Nat} (hab : a ≠ b) (x : α) (l : List (Nat × α)) :
    ((b, x) :: l.filter (·.1 != b)).find? (·.1 == a) = l.find? (·.1 == a) := by
  rw [List.find?_cons_of_neg (by simpa using hab.symm), List.find?_filter]
  refine congrArg (l.find? ·) (funext fun y => ?_)
  by_cases hy : y.1 = a
  · simp [hy, hab]
  · simp [hy]

theorem takeKeyx_noPair (hnone : s.stk.pairs.any (·.1 == p) = false) (other : List Byte) : takeKeyx s p other = s := by
  have hfind : s.stk.pairs.find? (·.1 == p) = none := List.find?_eq_none.mpr fun x hx => by
    simpa using List.any_eq_false.mp hnone x hx
  simp [takeKeyx, hfind]

theorem takeKeyx_pair (hsome : s.stk.pairs.any (·.1 == p) = true) (other : List Byte) :
    ∃ key, takeKeyx s p other = s.modStk fun k => { k with
      transport := (p, key) :: k.transport.filter (·.1 != p), pairs := k.pairs.filter (·.1 != p) } := by
  obtain ⟨x, hfind⟩ := Option.isSome_iff_exists.mp (List.find?_isSome.mpr (List.any_eq_true.mp hsome))
  simp only [takeKeyx, hfind]
  exact ⟨_, rfl⟩

theorem keyx_effect {pub : List Byte} (hd : Delivered s h) : Effect s (.keyx h pub) h fun u v =>
    (s.stk.pairs.any (·.1 == h.src) = false → v = u) ∧
    (s.stk.pairs.any (·.1 == h.src) = true → (v.stk.transport.find? (·.1 == h.src)).isSome = true ∧
      v.stk.pairs = s.stk.pairs.filter (·.1 != h.src) ∧
      (∀ p, p ≠ h.src → v.stk.transport.find? (·.1 == p) = s.stk.transport.find? (·.1 == p)) ∧
      { v with stk := { v.stk with transport := u.stk.transport, pairs := u.stk.pairs } } = u) := by
  refine effect_of_takeFrame hd rfl ?_
  obtain ⟨a, b, htook⟩ := linkTook_eq s h
  rw [htook]
  refine ⟨fun hnone => takeKeyx_noPair (s := setLinks s a b) hnone pub, fun hsome => ?_⟩
  obtain ⟨key, hkey⟩ := takeKeyx_pair (s := setLinks s a b) hsome pub
  rw [hkey]
  refine ⟨?_, rfl, fun p hp => find?_cons_filter_other hp key s.stk.transport, rfl⟩
  exact List.find?_isSome.mpr ⟨_, List.mem_cons_self, beq_self_eq_true h.src⟩

/-! ### Stack time (R601, R607) -/

theorem time_effect {now ret : Nat} (hd : Delivered s h) : Effect s (.time h now ret) h fun u v =>
    (s.isMaster = true ∨ s.stk.state ≠ 2 ∨ h.src ≠ 0 → v = u) ∧
    (s.isMaster = false → s.stk.state = 2 → h.src = 0 → v = u.modStk fun k => { k with
      time := now, timeLocal := s.timeUs, retire := ret, masterGone := false, keys := s.stk.keys.filter fun x => decide (ret < x.order) }) := by
  refine effect_of_takeFrame hd rfl ?_
  rw [linkTook_isMaster]
  obtain ⟨a, b, htook⟩ := linkTook_eq s h
  rw [htook]
  exact ⟨fun hnot => if_pos hnot, fun hmember hst hsrc => if_neg (by simp [hmember, setLinks, State.modStk, hst, hsrc])⟩

/-- The lower of a bound and the order number a request carries. -/
def lowerOrder (m : Nat) (q : RingReq) : Nat :=
  match q.why with
  | .block k _ => min m k.order
  | _ => m

theorem retireNow_eq (s : State) : retireNow s = s.stk.requests.foldl lowerOrder s.arb.ordNext - 1 := rfl

theorem lowerOrder_le (m : Nat) (q : RingReq) : lowerOrder m q ≤ m := by
  unfold lowerOrder
  split
  · exact Nat.min_le_left _ _
  · exact Nat.le_refl m

theorem foldl_lowerOrder_le (qs : List RingReq) (m : Nat) : qs.foldl lowerOrder m ≤ m := by
  induction qs generalizing m with
  | nil => exact Nat.le_refl m
  | cons q qs ih => exact (ih _).trans (lowerOrder_le m q)

theorem foldl_lowerOrder_le_order {q : RingReq} {k : BlkKey} {a : Option Nat} {qs : List RingReq} (hq : q ∈ qs) (hwhy : q.why = .block k a)
    (m : Nat) : qs.foldl lowerOrder m ≤ k.order := by
  induction qs generalizing m with
  | nil => cases hq
  | cons x qs ih =>
    obtain rfl | hmem := List.mem_cons.mp hq
    · refine (foldl_lowerOrder_le qs _).trans ?_
      rw [lowerOrder, hwhy]
      exact Nat.min_le_right _ _
    · exact ih hmem _

/-- RETIRE stays below the order numbers of the outstanding blocks. -/
theorem retireNow_lt {q : RingReq} {k : BlkKey} {a : Option Nat} (hq : q ∈ s.stk.requests) (hwhy : q.why = .block k a) (hpos : 0 < k.order) :
    retireNow s < k.order := by
  have hle := foldl_lowerOrder_le_order hq hwhy s.arb.ordNext
  rw [retireNow_eq]
  omega

theorem exec_timePeriod_not (hnot : s.isMaster = false ∨ s.stk.state ≠ 2 ∨ s.stk.window = true) : exec .timePeriod s = .next s :=
  congrArg Host.Outcome.next (if_pos (by simpa using hnot))

/-- The master's stack time, RETIRE and table of block keys as TIME goes out. -/
def timeSet (s : State) : State :=
  s.modStk fun k => { k with
    time := s.timeUs, timeLocal := s.timeUs, retire := retireNow s
    keys := k.keys.filter fun x => decide (retireNow s < x.order) || s.fn.tasks.any fun t => t.order == some x.order }

def timeSent (s : State) : State := ringBroadcast (timeSet s) 0x13 0 (leBytes 8 s.timeUs ++ leBytes 8 (retireNow s))

theorem exec_timePeriod (hmaster : s.isMaster = true) (hst : s.stk.state = 2) (hclosed : s.stk.window = false) :
    exec .timePeriod s = .next (timeSent s) := by
  have hgo : ¬ ((!s.isMaster) = true ∨ s.stk.state ≠ 2 ∨ s.stk.window = true) := by simp [hmaster, hst, hclosed]
  exact congrArg Host.Outcome.next (if_neg hgo)

theorem timePeriod_effect (hmaster : s.isMaster = true) (hst : s.stk.state = 2) (hclosed : s.stk.window = false) :
    ∃ t, exec .timePeriod s = .next t ∧ t.stk.time = s.timeUs ∧
      t.stk.timeLocal = s.timeUs ∧ (∀ q ∈ s.stk.requests, ∀ k a, q.why = .block k a → 0 < k.order → t.stk.retire < k.order) ∧
      OnlyLinks { s with stk := { s.stk with time := t.stk.time, timeLocal := t.stk.timeLocal, retire := t.stk.retire, keys := t.stk.keys } } t ∧
      (∀ x ∈ s.stk.keys, t.stk.retire < x.order → x ∈ t.stk.keys) := by
  have honly : OnlyLinks (timeSet s) (timeSent s) := onlyLinks_ringBroadcast _ _ _
  refine ⟨_, exec_timePeriod hmaster hst hclosed, ?_⟩
  rw [honly.eq_setLinks]
  exact ⟨rfl, rfl, fun q hq k a => retireNow_lt hq, rfl,
    fun x hx hlt => List.mem_filter.mpr ⟨hx, Bool.or_eq_true_iff.mpr (.inl (decide_eq_true hlt))⟩⟩

end Admission

end Sys2Proof.Machine
end

section
/-! Absence and return, broken links and a lost master (R596, R599, R617 to R619). -/

namespace Sys2Proof.Machine

section Absence

variable {s t u : State} {h : FrameHdr} {pos why : Nat}

/-! ### A position is declared absent (R617) -/

/-- The master's state with a position absent, before the requests to it end. -/
def absentNoted (s : State) (pos : Nat) : State :=
  s.modStk fun k => { k with
    absent := k.absent ++ [pos], shadows := k.shadows.filter (·.pos != pos), dark := k.dark.filter (· != pos) }

/-- Every request to the position has ended with LINK_LOST. -/
def absentEnded (s : State) (pos : Nat) : State := (s.stk.requests.filter (·.dest == pos)).foldl completeLost (absentNoted s pos)

/-- The event of the absence is queued. -/
def absentTold (s : State) (pos why : Nat) : State := stackEvent (absentEnded s pos) pos 6 why

theorem declareAbsent_not (hnot : ¬MayBeAbsent s pos) : declareAbsent s pos why = s := by
  rw [declareAbsent]
  refine if_pos (by_contra fun hall => hnot ?_)
  simpa [MayBeAbsent] using hall

theorem declareAbsent_eq (hmay : MayBeAbsent s pos) : declareAbsent s pos why =
    (wideCfgs (absentEnded s pos)).foldl (fun s f => absenceIn s pos f) (absentTold s pos why) := by
  obtain ⟨hmaster, hown, hadmitted, hnew⟩ := hmay
  have hgo : ¬ ((!s.isMaster) = true ∨ pos = s.ringPos ∨ (!s.stk.members.any (·.1 == pos)) = true ∨ s.stk.absent.contains pos = true) := by
    rw [hmaster, hadmitted]
    simp [hown, hnew]
  exact if_neg hgo

theorem wideCfgs_congr (hlay : t.lay = s.lay) : wideCfgs t = wideCfgs s := by
  rw [wideCfgs, wideCfgs, State.layout, State.layout, hlay]

theorem ringRest_absentTold : ringRest (absentTold s pos why) = ringRest (absentNoted s pos) :=
  (ringRest_of_ringCore (ringCore_stackEvent _ _ _)).trans (ringRest_foldl_completeLost _ _)

/-- No request to the position is kept. -/
theorem absentTold_requests : ∀ q ∈ (absentTold s pos why).stk.requests, q.dest ≠ pos := by
  intro q hq hdest
  rw [absentTold, stackEvent_stk, absentEnded] at hq
  obtain ⟨hkept, htags⟩ := mem_requests_foldl_completeLost hq
  exact htags q (List.mem_filter.mpr ⟨hkept, by simp [hdest]⟩) rfl

theorem declaredAbsent_declareAbsent (hmay : MayBeAbsent s pos) : DeclaredAbsent s pos (declareAbsent s pos why) := by
  have hrest := ringRest_absentTold (s := s) (pos := pos) (why := why)
  have hlay : (absentEnded s pos).lay = s.lay := (congrArg State.lay (ringRest_foldl_completeLost _ (absentNoted s pos)) :)
  refine ⟨absentTold s pos why, ?_, (congrArg (fun v : State => v.stk.absent) hrest :), (congrArg (fun v : State => v.stk.members) hrest :),
    (congrArg (fun v : State => v.stk.shadows) hrest :), absentTold_requests, ?_, (congrArg State.fields hrest :)⟩
  · rw [declareAbsent_eq hmay, wideCfgs_congr hlay]
  · have hdark : (absentTold s pos why).stk.dark = s.stk.dark.filter (· != pos) := (congrArg (fun v : State => v.stk.dark) hrest :)
    rw [hdark]
    simp

theorem leave_effect (hd : Delivered s h) : Effect s (.leave h pos) h fun u v =>
    (¬MayBeAbsent s pos → v = u) ∧ (MayBeAbsent s pos → DeclaredAbsent u pos v) := by
  refine effect_of_takeFrame hd rfl ?_
  have hsame : MayBeAbsent (linkTook s h) pos ↔ MayBeAbsent s pos := by
    obtain ⟨a, b, htook⟩ := linkTook_eq s h
    rw [htook]
    exact Iff.rfl
  exact ⟨fun hnot => declareAbsent_not (hsame.not.mpr hnot), fun hmay => declaredAbsent_declareAbsent (hsame.mpr hmay)⟩

/-! ### HELLO (R595, R619) -/

section Hello

variable {sid role st ser : Nat} {m : Nat × Nat}

theorem takeHello_master (hmaster : s.isMaster = true) (hrole : role = 1) : takeHello s sid pos role st ser = declareDup s :=
  (if_pos hmaster).trans (if_pos hrole)

theorem takeHello_present (hmaster : s.isMaster = true) (hrole : role ≠ 1) (hhere : pos ∉ s.stk.absent) :
    takeHello s sid pos role st ser = s :=
  (if_pos hmaster).trans ((if_neg hrole).trans (if_pos (by simpa using hhere)))

theorem takeHello_absent (hmaster : s.isMaster = true) (hrole : role ≠ 1) (haway : pos ∈ s.stk.absent)
    (hm : s.stk.members.find? (·.1 == pos) = some m) :
    takeHello s sid pos role st ser = if m.2 % 2 ^ 64 = ser then rejoin s pos else stackEvent s pos 2 5 := by
  refine (if_pos hmaster).trans ((if_neg hrole).trans ((if_neg (by simpa using haway)).trans ?_))
  rw [hm]

/-- A position that no wide Field has on its list comes back without more to do. -/
theorem rejoin_alone (hnone : ∀ f ∈ wideCfgs s, f.devices.contains pos = false) :
    rejoin s pos = stackEvent (s.modStk fun k => { k with absent := k.absent.filter (· != pos) }) pos 7 0 := by
  have hcfgs : wideCfgs (stackEvent (s.modStk fun k => { k with absent := k.absent.filter (· != pos) }) pos 7 0) = wideCfgs s :=
    wideCfgs_congr (stackEvent_lay _ _ _)
  refine List.foldlRecOn _ _ (motive := fun v => v = stackEvent (s.modStk fun k => { k with absent := k.absent.filter (· != pos) }) pos 7 0)
    rfl fun v hv f hf => ?_
  rw [hcfgs] at hf
  have hnot : ¬ (f.devices.contains pos = true ∧ v.manages f.inst = true) := fun ⟨hnamed, _⟩ =>
    Bool.false_ne_true ((hnone f hf).symm.trans hnamed)
  exact (if_neg hnot).trans hv

theorem takeHello_member (hmember : s.isMaster = false) : OnlyLinks s (takeHello s sid pos role st ser) := by
  rw [takeHello, if_neg (by simp [hmember])]
  split
  · exact onlyLinks_ringSend (by decide) _ _ _ _
  · exact .refl s

theorem exec_hello (hin : InOrder s h) :
    exec (.hello h sid pos role st ser) s = .next (takeHello (linkTook s h) sid pos role st ser) :=
  congrArg Host.Outcome.next (takeLocal_inOrder hin)

theorem hello_effect (hin : InOrder s h) (hmaster : s.isMaster = true) (hrole : role ≠ 1) :
    Effect s (.hello h sid pos role st ser) h fun u v =>
      (pos ∉ s.stk.absent → v = u) ∧
      (∀ m, pos ∈ s.stk.absent → s.stk.members.find? (·.1 == pos) = some m →
        (m.2 % 2 ^ 64 ≠ ser → v.stk = u.stk ∧ v.fields = u.fields) ∧
        (m.2 % 2 ^ 64 = ser → (∀ f ∈ wideCfgs s, f.devices.contains pos = false) →
          v.stk = { u.stk with absent := s.stk.absent.filter (· != pos) } ∧ v.fields = u.fields)) := by
  refine effect_of_takeLocal hin rfl ?_
  obtain ⟨a, b, htook⟩ := linkTook_eq s h
  rw [htook]
  refine ⟨takeHello_present (s := setLinks s a b) hmaster hrole, fun m haway hm => ?_⟩
  rw [takeHello_absent (s := setLinks s a b) hmaster hrole haway hm]
  refine ⟨fun hser => ?_, fun hser hnone => ?_⟩
  · rw [if_neg hser]
    exact ⟨stackEvent_stk _ _ _, stackEvent_fields _ _ _⟩
  · rw [if_pos hser, rejoin_alone (s := setLinks s a b) hnone]
    exact ⟨stackEvent_stk _ _ _, stackEvent_fields _ _ _⟩

end Hello

/-! ### LINKDOWN (R599) -/

theorem reroute_nothing (before : State) (hnone : s.stk.requests = []) : reroute before s = s := by
  rw [reroute_eq, lostPaths, hnone]
  rfl

theorem linkdown_effect {w : Link} (hd : Delivered s h) : Effect s (.linkdown h pos w) h fun u v =>
    segmentOf s pos w ∈ v.stk.broken ∧ v.fields = u.fields ∧ (s.stk.requests = [] → v = breakSegment u (segmentOf s pos w)) := by
  refine effect_of_takeFrame hd rfl ?_
  obtain ⟨a, b, htook⟩ := linkTook_eq s h
  rw [htook]
  have hseg : segmentOf (setLinks s a b) pos w = segmentOf s pos w := rfl
  rw [hseg]
  have hrest := ringRest_reroute (s := breakSegment (setLinks s a b) (segmentOf s pos w)) (setLinks s a b)
  refine ⟨?_, (congrArg State.fields hrest :), fun hnone => reroute_nothing _ hnone⟩
  rw [show (reroute _ (breakSegment (setLinks s a b) (segmentOf s pos w))).stk.broken = _ from (congrArg (fun v : State => v.stk.broken) hrest :)]
  exact mem_broken_breakSegment _ _

/-! ### A member without its master (R596, R618) -/

theorem fields_of_ringCore (h : ringCore t = ringCore s) : t.fields = s.fields := (congrArg State.fields h :)
theorem plots_of_ringCore (h : ringCore t = ringCore s) : t.plots = s.plots := (congrArg State.plots h :)

theorem exec_masterLost_not (hnot : s.isMaster = true ∨ s.stk.state ≠ 2) : exec .masterLost s = .next s :=
  congrArg Host.Outcome.next (if_pos hnot)

/-- A member whose master is gone. -/
def masterless (s : State) : State :=
  (releaseSems (dropRemote s) idStack 4).modStk fun k => { k with
    masterGone := true, wide := k.wide.filter (·.addr.isSome), heads := [], reads := [] }

theorem exec_masterLost (hmember : s.isMaster = false) (hst : s.stk.state = 2) : exec .masterLost s = .next (masterless s) := by
  have hgo : ¬ (s.isMaster = true ∨ s.stk.state ≠ 2) := by simp [hmember, hst]
  exact congrArg Host.Outcome.next (if_neg hgo)

theorem masterLost_effect (hmember : s.isMaster = false) (hst : s.stk.state = 2) :
    ∃ t, exec .masterLost s = .next t ∧ t.stk.masterGone = true ∧ t.stk.keyStore = [] ∧
      t.stk.wide = s.stk.wide.filter (·.addr.isSome) ∧ t.stk.heads = [] ∧ t.stk.reads = [] ∧ (∀ n, t.semOwner n ≠ idStack) ∧
      (∀ x ∈ t.fn.tasks, 64 ≤ x.key.plot → x.statusDue = false) ∧ t.fields = s.fields ∧ t.plots = s.plots := by
  have hcore := ringCore_dropRemote (s := s)
  have hstk : (masterless s).stk = { s.stk with
      keyStore := [], masterGone := true, wide := s.stk.wide.filter (·.addr.isSome), heads := [], reads := [] } := by
    rw [masterless, State.modStk_stk, releaseSems_stk, dropRemote_stk]
  refine ⟨_, exec_masterLost hmember hst, ?_⟩
  rw [hstk]
  refine ⟨rfl, rfl, rfl, rfl, rfl, fun n => ?_, fun x hx => ?_, ?_, ?_⟩
  · rw [masterless, State.modStk_semOwner]
    exact releaseSems_semOwner (by decide) 4 n
  · rw [masterless, State.modStk_fn, releaseSems_fn] at hx
    exact dropRemote_ends x hx
  · rw [masterless, State.modStk_fields, releaseSems_fields]
    exact (fields_of_ringCore hcore).trans rfl
  · rw [masterless, State.modStk_plots, releaseSems_plots]
    exact (plots_of_ringCore hcore).trans rfl

/-- The device as a Lone member, its Plots still on its ports. -/
def loneAlone (s : State) : State := releaseSems (s.modStk fun k => { k with state := 3, lone := true }) idStack 4

def WaitsForMaster (s : State) : Prop := (s.stk.state = 1 ∧ s.stk.pos = none) ∨ (s.stk.state = 2 ∧ s.stk.masterGone = true)

theorem exec_loneTimeout_not (hnot : s.isMaster = true ∨ s.stk.role ≠ 0 ∨ ¬WaitsForMaster s) : exec .loneTimeout s = .next s := by
  refine congrArg Host.Outcome.next (if_pos (hnot.imp_right (Or.imp_right fun hwaits => ?_)))
  rw [Bool.not_eq_true', decide_eq_false_iff_not, Option.isNone_iff_eq_none]
  exact hwaits

theorem exec_loneTimeout (hmember : s.isMaster = false) (hrole : s.stk.role = 0) (hwaits : WaitsForMaster s) :
    exec .loneTimeout s = .next (stackEvent (hidePlots (loneAlone s)) s.ringPos 8 0) := by
  refine congrArg Host.Outcome.next (if_neg ?_)
  rw [hmember, Bool.not_eq_true', decide_eq_false_iff_not, Option.isNone_iff_eq_none]
  simp only [Bool.false_eq_true, hrole, ne_eq, not_true_eq_false, false_or, not_not]
  exact hwaits

theorem loneTimeout_effect (hmember : s.isMaster = false) (hrole : s.stk.role = 0) (hwaits : WaitsForMaster s) :
    ∃ t, exec .loneTimeout s = .next t ∧ t.stk.state = 3 ∧ t.stk.lone = true ∧
      (∀ n, t.semOwner n ≠ idStack) ∧ t.plots = s.plots ∧ t.fields = s.fields := by
  have hhide : ringCore (stackEvent (hidePlots (loneAlone s)) s.ringPos 8 0) = ringCore (loneAlone s) :=
    (ringCore_stackEvent _ _ _).trans ringCore_hidePlots
  have hstk : (loneAlone s).stk = { s.stk with state := 3, lone := true } := by rw [loneAlone, releaseSems_stk, State.modStk_stk]
  refine ⟨_, exec_loneTimeout hmember hrole hwaits, ?_⟩
  generalize stackEvent (hidePlots (loneAlone s)) s.ringPos 8 0 = v at hhide ⊢
  have hsem : v.sem = (loneAlone s).sem := (congrArg State.sem hhide :)
  have hstate : v.stk.state = (loneAlone s).stk.state := (congrArg (fun v : State => v.stk.state) hhide :)
  have hlone : v.stk.lone = (loneAlone s).stk.lone := (congrArg (fun v : State => v.stk.lone) hhide :)
  have hplots : v.plots = (loneAlone s).plots := (congrArg State.plots hhide :)
  have hfields : v.fields = (loneAlone s).fields := (congrArg State.fields hhide :)
  refine ⟨by rw [hstate, hstk], by rw [hlone, hstk], fun n => ?_, ?_, ?_⟩
  · rw [State.semOwner, hsem]
    exact releaseSems_semOwner (by decide) 4 n
  · rw [hplots, loneAlone, releaseSems_plots, State.modStk_plots]
  · rw [hfields, loneAlone, releaseSems_fields, State.modStk_fields]

end Absence

end Sys2Proof.Machine
end

section
/-! Requests that time out, and enumeration anew (R599, R606); O54. -/

namespace Sys2Proof.Machine

section Requests

variable {s t : State} {l : Link} {q : RingReq} {tag : Nat} {id : Identity}

/-! ### A request without a response (R599) -/

theorem exec_requestTimeout_none (hnone : s.request? tag = none) : exec (.requestTimeout tag) s = .next s := by
  show execRequestTimeout tag s = _
  rw [execRequestTimeout, hnone]

theorem exec_requestTimeout_lost (hq : s.request? tag = some q) (hroute : routeTo s q.dest = none) :
    exec (.requestTimeout tag) s = .next (completeLost s q) := by
  show execRequestTimeout tag s = _
  rw [execRequestTimeout, hq]
  simp only [hroute]

theorem exec_requestTimeout_routed (hq : s.request? tag = some q) (hroute : routeTo s q.dest = some l) :
    exec (.requestTimeout tag) s =
      .next (if q.resent then s else modRequest (resendOn s l q) tag fun q => { q with resent := true }) := by
  show execRequestTimeout tag s = _
  rw [execRequestTimeout, hq]
  simp only [hroute]

theorem onlyLinks_resendOn : OnlyLinks s (resendOn s l q) := by
  simp only [resendOn]
  split
  · exact (onlyLinks_sendOn _ _).trans (onlyLinks_sendOn _ _)
  · exact onlyLinks_sendOn _ _

theorem tag_of_request (hq : s.request? tag = some q) : q.tag = tag := by simpa using List.find?_some hq

/-- A request changed in anything but its tag is found under it. -/
theorem request_modRequest {f : RingReq → RingReq} (hq : s.request? tag = some q) (hf : ∀ x, (f x).tag = x.tag) :
    (modRequest s tag f).request? tag = some (f q) := by
  have hsame : ((fun x : RingReq => x.tag == tag) ∘ fun x => if x.tag = tag then f x else x) = fun x => x.tag == tag := by
    funext x
    by_cases hx : x.tag = tag
    · simp [hx, hf]
    · simp [hx]
  have hfind : (s.stk.requests.map fun x => if x.tag = tag then f x else x).find? (·.tag == tag) = some (f q) := by
    rw [List.find?_map, hsame]
    exact (congrArg (Option.map _) hq).trans (by simp [tag_of_request hq])
  exact hfind

theorem up_of_routeTo {dest : Nat} (hroute : routeTo s dest = some l) : (s.stk.link l).up = true := by
  have hpath : s.pathOn l dest = true := by
    unfold routeTo at hroute
    split at hroute
    · split at hroute <;> simp_all
    · simp_all
    · simp_all
    · cases hroute
  exact ((pathOn_iff _ _).mp hpath).1

theorem requestTimeout_resends (hq : s.request? tag = some q) (hroute : routeTo s q.dest = some l) (hfirst : q.resent = false) :
    ∃ t, exec (.requestTimeout tag) s = .next t ∧ t.request? tag = some { q with resent := true } ∧
      OnlyLinks { s with stk := { s.stk with requests := t.stk.requests } } t ∧
      (1 < (s.stk.link l).credits → { q.frame with rerouted := true, hops := s.hopsTo l q.dest } ∈ (t.stk.link l).sent) := by
  have hsent : (resendOn s l q).request? tag = some q := by
    rw [State.request?, resendOn_requests]
    exact hq
  refine ⟨_, (exec_requestTimeout_routed hq hroute).trans (congrArg _ (if_neg (by simp [hfirst]))),
    request_modRequest hsent fun _ => rfl, ?_, fun hcredit => ?_⟩
  · rw [(onlyLinks_resendOn (s := s) (l := l) (q := q)).eq_setLinks]
    rfl
  · rw [modRequest_link]
    exact resendOn_sent (up_of_routeTo hroute) hcredit q

theorem request_dropRequest (s : State) (tag : Nat) : (dropRequest s tag).request? tag = none := by
  refine List.find?_eq_none.mpr fun x hx => ?_
  simpa using (List.mem_filter.mp hx).2

theorem request_completeLost (hq : s.request? tag = some q) : (completeLost s q).request? tag = none := by
  rw [State.request?, requests_completeLost, tag_of_request hq]
  exact request_dropRequest s tag

/-- A host's own bank of remote access takes what is written to it. -/
theorem remoteBank_modRemote (hid : isHostId id = true) (f : RemoteBank → RemoteBank) :
    (modRemote s id f).remoteBank id = f (s.remoteBank id) := by
  have hcases : id = idPortA ∨ id = idPortB ∨ id = idStack := by simpa [isHostId, or_assoc] using hid
  obtain rfl | rfl | rfl := hcases <;> rfl

/-- What a request for a register answers when its path is lost. -/
theorem completeLost_reg (hwhy : q.why = .reg id) (hid : isHostId id = true) :
    ((completeLost s q).remoteBank id).result = 2 ∧ ((completeLost s q).remoteBank id).done = true ∧
      ((completeLost s q).remoteBank id).pending = false := by
  have hsame : completeLost s q = modRemote (dropRequest s q.tag) id fun b => { b with pending := false, done := true, result := 2 } := by
    simp only [completeLost, hwhy]
  rw [hsame, remoteBank_modRemote hid]
  exact ⟨rfl, rfl, rfl⟩

section Commands

variable {key : TaskKey} {x : Task} {p : Port}

theorem task_due (hx : s.task? key = some x) : x.key = key ∧ x.statusDue = true := by
  simpa using List.find?_some hx

/-- The result of a command that ends with LINK_LOST. -/
theorem resultOf_linkLost (hx : s.task? key = some x) (hport : key.origin = .port p) (htr : x.tr.isSome = true) (u : State) (data : List Byte) :
    (settleTasks (answerTask u x linkLost data)).resultOf key = some (linkLost, data) := by
  obtain ⟨hkey, hdue⟩ := task_due hx
  obtain ⟨tr, htr⟩ := Option.isSome_iff_exists.mp htr
  rw [resultOf_settleTasks, ← hkey]
  exact resultOf_answerTask hdue (by rwa [hkey]) htr

theorem completeLost_task (hwhy : q.why = .task key) (hx : s.task? key = some x) (hport : key.origin = .port p) (htr : x.tr.isSome = true) :
    (completeLost s q).resultOf key = some (linkLost, []) := by
  have hx' : (dropRequest s q.tag).task? key = some x := hx
  have hsame : completeLost s q = settleTasks (answerTask (dropRequest s q.tag) x linkLost []) := by
    simp only [completeLost, hwhy, hx']
  rw [hsame]
  exact resultOf_linkLost hx hport htr _ _

theorem completeLost_read {lba : Nat} (hwhy : q.why = .read key lba) (hx : s.task? key = some x) (hport : key.origin = .port p)
    (htr : x.tr.isSome = true) : (completeLost s q).resultOf key = some (linkLost, s.partialAnswer x) := by
  have hx' : (dropRequest s q.tag).task? key = some x := hx
  have hsame : completeLost s q = settleTasks (answerTask (dropRequest s q.tag) x linkLost ((dropRequest s q.tag).partialAnswer x)) := by
    simp only [completeLost, hwhy, hx']
  have hdata : (dropRequest s q.tag).partialAnswer x = s.partialAnswer x := rfl
  rw [hsame, hdata]
  exact resultOf_linkLost hx hport htr _ _

end Commands

end Requests

/-! ### STK_CTRL.ENUM (R606) -/

section ReEnumerate

variable {s : State} {id : Identity}

theorem exec_reEnumerate (hstack : s.member.hasStack = true) (hpass : WritePasses s id csStkCtrl true) :
    exec (.reEnumerate id) s = .next (reEnumerate (noteAccess s id) id) :=
  congrArg Host.Outcome.next ((if_pos hstack).trans (csWrite_passes hpass))

def withResult (s : State) (r : Nat) : State := s.modStk fun k => { k with ctrlResult := r }

theorem reEnumerate_eq (s : State) (id : Identity) : reEnumerate s id =
    if (!s.isMaster) = true then withResult s 3
    else if (!s.holdsSem id 0) = true then withResult s 2
    else if ((s.wideFields.flatMap s.plotsOf).any fun n => (s.plot n).mode.up) = true then withResult s 1
    else withResult (openWindow s) 0 := rfl

/-- The ring's state as a new window opens. -/
def windowOpened (s : State) : State :=
  s.modStk fun k => { k with
    window := true, state := 1, lone := false, entries := [(0, s.ownEntry)], members := [], absent := [], dark := [], broken := []
    count := 0, size := 0, keyStore := [], transport := [], pairs := [] }

theorem openWindow_eq (s : State) : openWindow s =
    if (sendEnum (windowOpened s) .dn).allFound then finishEnum (sendEnum (windowOpened s) .dn) else sendEnum (windowOpened s) .dn := rfl

theorem windowOpened_allFound : (sendEnum (windowOpened s) .dn).allFound = decide (s.expectOf ≤ 1) := rfl

theorem openWindow_more (hmore : 1 < s.expectOf) : openWindow s = sendEnum (windowOpened s) .dn := by
  rw [openWindow_eq, windowOpened_allFound, if_neg (by simpa using hmore)]

theorem openWindow_alone (halone : s.expectOf ≤ 1) : openWindow s = finishEnum (sendEnum (windowOpened s) .dn) := by
  rw [openWindow_eq, windowOpened_allFound, if_pos (by simpa using halone)]

theorem sendEnum_windowOpened : ∃ a b, sendEnum (windowOpened s) .dn = setLinks (windowOpened s) a b :=
  ⟨_, _, (onlyLinks_sendOn (s := windowOpened s) .dn _).eq_setLinks⟩

theorem enumDone_openWindow (halone : s.expectOf ≤ 1) : EnumDone s [(0, s.ownEntry)] (openWindow s) := by
  rw [openWindow_alone halone]
  obtain ⟨a, b, hsent⟩ := sendEnum_windowOpened (s := s)
  rw [hsent]
  exact enumDone_finishEnum (setLinks (windowOpened s) a b)

/-- What a write of STK_CTRL.ENUM does when its checks pass. -/
theorem reEnumerate_effect (hstack : s.member.hasStack = true) (hpass : WritePasses s id csStkCtrl true) :
    let ends := fun r => exec (.reEnumerate id) s = .next ((noteAccess s id).modStk fun k => { k with ctrlResult := r })
    let busy := (s.wideFields.flatMap s.plotsOf).any fun n => (s.plot n).mode.up
    (s.isMaster = false → ends 3) ∧
    (s.isMaster = true → (s.holdsSem id 0 = false → ends 2) ∧
      (s.holdsSem id 0 = true → (busy = true → ends 1) ∧
        (busy = false →
          (1 < s.expectOf → ∃ t, exec (.reEnumerate id) s = .next t ∧ t.stk.ctrlResult = 0 ∧ t.stk.window = true ∧ t.stk.state = 1 ∧
            t.stk.entries = [(0, s.ownEntry)] ∧ t.stk.members = [] ∧ t.stk.keyStore = [] ∧ t.stk.transport = [] ∧ t.fields = s.fields ∧
            t.plots = s.plots) ∧
          (s.expectOf ≤ 1 → ∃ v, EnumDone (noteAccess s id) [(0, s.ownEntry)] v ∧
            exec (.reEnumerate id) s = .next (v.modStk fun k => { k with ctrlResult := 0 }))))) := by
  have hexec := exec_reEnumerate hstack hpass
  rw [reEnumerate_eq] at hexec
  have hgrant := noteAccess_eq s id
  generalize noteAccess s id = u at hexec hgrant ⊢
  have hmaster : u.isMaster = s.isMaster := by rw [hgrant]; rfl
  have hsem : u.holdsSem id 0 = s.holdsSem id 0 := by rw [hgrant]; rfl
  have hbusy : ((u.wideFields.flatMap u.plotsOf).any fun n => (u.plot n).mode.up) =
      ((s.wideFields.flatMap s.plotsOf).any fun n => (s.plot n).mode.up) := by rw [hgrant]; rfl
  have hexpect : u.expectOf = s.expectOf := by rw [hgrant]; rfl
  have hown : u.ownEntry = s.ownEntry := by rw [hgrant]; rfl
  have hfields : u.fields = s.fields := by rw [hgrant]
  have hplots : u.plots = s.plots := by rw [hgrant]
  rw [hmaster, hsem, hbusy] at hexec
  refine ⟨fun hmember => ?_, fun hm => ⟨fun hnot => ?_, fun hholds => ⟨fun hup => ?_, fun hidle => ?_⟩⟩⟩
  · rwa [if_pos (by simp [hmember])] at hexec
  · rwa [if_neg (by simp [hm]), if_pos (by simp [hnot])] at hexec
  · rwa [if_neg (by simp [hm]), if_neg (by simp [hholds]), if_pos hup] at hexec
  · rw [if_neg (by simp [hm]), if_neg (by simp [hholds]), if_neg (by simp only [hidle]; decide)] at hexec
    rw [← hexpect, ← hown, ← hfields, ← hplots]
    refine ⟨fun hmore => ⟨_, hexec, ?_⟩, fun halone => ⟨_, enumDone_openWindow halone, hexec⟩⟩
    rw [openWindow_more hmore]
    obtain ⟨a, b, hsent⟩ := sendEnum_windowOpened (s := u)
    rw [hsent]
    exact ⟨rfl, rfl, rfl, rfl, rfl, rfl, rfl, rfl, rfl⟩

theorem exec_reEnumerate_bare (hopen : s.csOpen id = true) (hmpu : s.mpuRefuses id false csStkCtrl .write = none)
    (hstack : s.member.hasStack = true) (hbare : s.hasLayout = false) : exec (.reEnumerate id) s = .next (noteAccess s id) := by
  refine congrArg Host.Outcome.next ((if_pos hstack).trans ?_)
  have hwritable : writableBare csStkCtrl = false := by decide
  simp [csWrite, csCheck_allowed hopen hmpu, hbare, hwritable]

/-- STK_CTRL stands above the Plots' blocks of every member. -/
theorem lacksPlotSem_csStkCtrl : s.lacksPlotSem id csStkCtrl = false := by
  have habove : 0x14000 + 0x100 * s.member.plots ≤ csStkCtrl := by cases s.member <;> decide
  have hplot : ¬ (csStkCtrl - 0x14000) / 0x100 < s.member.plots := by omega
  simp [State.lacksPlotSem, hplot]

/-- A member without a stack island has no STK_CTRL: the write is recorded as one of reserved space. -/
theorem reEnumerate_reserved (hopen : s.csOpen id = true) (hmpu : s.mpuRefuses id false csStkCtrl .write = none)
    (hstack : s.member.hasStack = false) (hlock : s.writeLocked id = false) (hrec : s.saf.recPending = none) :
    ∃ t r, exec (.reEnumerate id) s = .next t ∧
      { t with saf := s.saf } = noteAccess s id ∧ t.saf.log = (r :: s.saf.log).take 256 ∧ r.cause = 0x0001 ∧ r.requester = id.toNat ∧
      r.detail0 = w32 csStkCtrl ∧ r.detail1 = 1 := by
  have hexec : exec (.reEnumerate id) s = .next (logRsvd (noteAccess s id) id csStkCtrl true) :=
    congrArg Host.Outcome.next ((if_neg (by simp [hstack])).trans (rsvdWrite_allowed hopen hmpu ⟨lacksPlotSem_csStkCtrl, .inl hlock⟩))
  rw [logRsvd_written (by rwa [noteAccess_saf])] at hexec
  refine ⟨_, _, hexec, ?_, congrArg (fun q => List.take 256 (_ :: q)) (congrArg SafState.log (noteAccess_saf s id)), rfl, rfl, rfl, rfl⟩
  rw [← noteAccess_saf s id]
  rfl

end ReEnumerate

/-- Settles O54: each frame's effect is taken apart where the device delivers it, and what it does beyond the ring's own state, requests
completed and Plots taken away, leaves the part of the state that the statement speaks of. -/
theorem enumerationAbsenceAndStackTime : Obligations.EnumerationAbsenceAndStackTime := by
  intro s
  refine ⟨admitCode_eq_zero_iff, fun h es hin hmaster => ⟨?_, ?_⟩, fun h es hin hmember => ⟨exec_enum_passed hin hmember, fun hresp => ?_⟩,
    enumWindow_open, exec_enumWindow_closed, fun h x n rs => confirm_atMaster, fun h x n rs => confirm_atMember, fun h pub => keyx_effect,
    fun h now ret => time_effect, exec_timePeriod_not, timePeriod_effect, fun pos hnot => ?_, fun pos hmay => ?_, fun h pos => leave_effect,
    fun h sid pos role st ser hin hmaster => ⟨fun hrole => ?_, hello_effect hin hmaster⟩, fun h sid pos role st ser hin hmember => ?_,
    fun h pos w => linkdown_effect, exec_masterLost_not, masterLost_effect, ⟨exec_loneTimeout_not, loneTimeout_effect⟩,
    fun tag => exec_requestTimeout_none, fun tag q hq => ⟨fun l hroute => ⟨fun hresent => ?_, requestTimeout_resends hq hroute⟩, fun hroute => ?_⟩,
    fun id => reEnumerate_effect, fun id hopen hmpu => ⟨exec_reEnumerate_bare hopen hmpu, reEnumerate_reserved hopen hmpu⟩⟩
  · rintro rfl
    exact exec_enum_empty hin hmaster
  · rintro e rest rfl
    exact enum_atMaster hin hmaster
  · exact enum_atMember hin hmember hresp
  · exact congrArg Host.Outcome.next (declareAbsent_not hnot)
  · exact ⟨_, rfl, declaredAbsent_declareAbsent hmay⟩
  · refine ⟨_, exec_hello hin, ?_⟩
    rw [takeHello_master (by rwa [linkTook_isMaster]) hrole]
    exact dupMaster_declareDup _
  · exact ⟨_, exec_hello hin, onlyLinks_linkTook.trans (takeHello_member (by rwa [linkTook_isMaster]))⟩
  · exact (exec_requestTimeout_routed hq hroute).trans (congrArg _ (if_pos hresent))
  · exact ⟨_, exec_requestTimeout_lost hq hroute, request_completeLost hq, fun id => completeLost_reg,
      fun key x p => completeLost_task, fun key lba x p => completeLost_read⟩

end Sys2Proof.Machine
end
